-- ==== Sys2Proof/Word.lean ====
section
/-! DEFINITION. The word types of the Pylvazel 4920 (R2, R3) and the sparse containers that keep the state plain data:
a table keyed by numbers and a byte memory, both sorted lists in one canonical form. -/

namespace Sys2Proof

/-- A byte, half, word and dword (R3). -/
abbrev Byte := BitVec 8
abbrev Half := BitVec 16
abbrev Word := BitVec 32
abbrev Dword := BitVec 64

/-- A sparse table: entries by number, keys strictly rising. -/
abbrev Table (α : Type) := List (Nat × α)

namespace Table

/-- The entry of key `k`, if there is one. -/
def find? {α : Type} : Table α → Nat → Option α
  | [], _ => none
  | (k', v) :: t, k => if k' = k then some v else if k < k' then none else find? t k

/-- The entry of key `k`, or `d` when the table lists none. -/
def getD {α : Type} (t : Table α) (k : Nat) (d : α) : α := (t.find? k).getD d

/-- The table with entry `k` set to `v`, in key order. -/
def put {α : Type} : Table α → Nat → α → Table α
  | [], k, v => [(k, v)]
  | (k', v') :: t, k, v =>
    if k' = k then (k, v) :: t else if k < k' then (k, v) :: (k', v') :: t else (k', v') :: put t k v

/-- The table without entry `k`. -/
def del {α : Type} : Table α → Nat → Table α
  | [], _ => []
  | (k', v') :: t, k => if k' = k then t else if k < k' then (k', v') :: t else (k', v') :: del t k

/-- Keys strictly rising. -/
def sorted {α : Type} : Table α → Bool
  | [] => true
  | [_] => true
  | (a, _) :: (b, v) :: t => decide (a < b) && sorted ((b, v) :: t)

end Table

/-- Byte memory: (address, byte) pairs with rising addresses and no entry that equals what an unlisted address reads
as, which is zero (log entry 5). -/
abbrev Memory := Table Byte

namespace Memory

/-- The byte at `a`; an unlisted address reads zero. -/
def readByte (m : Memory) (a : Nat) : Byte := Table.getD m a 0

/-- Writes one byte and keeps the canonical form. -/
def writeByte (m : Memory) (a : Nat) (b : Byte) : Memory :=
  if b = 0 then Table.del m a else Table.put m a b

/-- No entry is zero. -/
def noZero (m : Memory) : Bool := m.all fun c => decide (c.2 ≠ 0)

/-- The canonical form. -/
def wf (m : Memory) : Bool := Table.sorted m && noZero m

/-- `n` bytes from `a`, lowest address first. -/
def readBytes (m : Memory) (a : Nat) : Nat → List Byte
  | 0 => []
  | n + 1 => readByte m a :: readBytes m (a + 1) n

/-- Writes the bytes `bs` from `a` upward. -/
def writeBytes (m : Memory) (a : Nat) : List Byte → Memory
  | [] => m
  | b :: bs => writeBytes (writeByte m a b) (a + 1) bs

end Memory

/-- The number whose little-endian bytes are `bs` (R2). -/
def leNat : List Byte → Nat
  | [] => 0
  | b :: bs => b.toNat + 256 * leNat bs

/-- The `n` little-endian bytes of a number (R2). -/
def leBytes : Nat → Nat → List Byte
  | 0, _ => []
  | n + 1, v => BitVec.ofNat 8 v :: leBytes n (v / 256)

end Sys2Proof
end

