-- ==== Sys2Proof/Machine/Fp.lean ====
section
/-! DEFINITION. Number formats and rounding (spec/13): an exact value is formed first and rounded once (R293). Values are
exact integers times powers of two; patterns are natural numbers below 2^(width). -/

namespace Sys2Proof.Machine.Fp

/-- A floating-point format (R288): exponent and fraction widths, bias, and whether it has infinities (all but E4M3). -/
structure Fmt where
  ew   : Nat
  fw   : Nat
  bias : Nat
  inf  : Bool
  deriving DecidableEq, Repr

/-- The formats of R288. -/
def bf16 : Fmt := ⟨8, 7, 127, true⟩
def f32 : Fmt := ⟨8, 23, 127, true⟩
def f64 : Fmt := ⟨11, 52, 1023, true⟩
def e4m3 : Fmt := ⟨4, 3, 7, false⟩
def e5m2 : Fmt := ⟨5, 2, 15, true⟩

/-- Width of a format in bits. -/
def Fmt.width (f : Fmt) : Nat := 1 + f.ew + f.fw

/-- The exact value of a pattern: NaN, an infinity, or ± m × 2^e. -/
inductive Val where
  | nan | inf (neg : Bool) | fin (neg : Bool) (m : Nat) (e : Int)
  deriving DecidableEq, Repr

/-- Rounding modes (R293). -/
inductive Rm where
  | rne | rtz | rup | rdn
  deriving DecidableEq, Repr

/-- The mode of a 2-bit RM field (R293). -/
def Rm.ofBits (b : BitVec 2) : Rm :=
  if b = 0 then .rne else if b = 1 then .rtz else if b = 2 then .rup else .rdn

/-- The canonical NaN (R288, R290). -/
def Fmt.nan (f : Fmt) : Nat :=
  if f.inf then (2 ^ f.ew - 1) * 2 ^ f.fw + 2 ^ (f.fw - 1) else 2 ^ (f.ew + f.fw) - 1

/-- The magnitude of the largest finite value (R288). -/
def Fmt.maxFin (f : Fmt) : Nat := if f.inf then (2 ^ f.ew - 1) * 2 ^ f.fw - 1 else 2 ^ (f.ew + f.fw) - 2

/-- The sign bit in place. -/
def Fmt.sign (f : Fmt) (neg : Bool) : Nat := if neg then 2 ^ (f.ew + f.fw) else 0

/-- The value of a pattern (R288). -/
def Fmt.val (f : Fmt) (x : Nat) : Val :=
  let neg := x / 2 ^ (f.ew + f.fw) % 2 == 1
  let ex := x / 2 ^ f.fw % 2 ^ f.ew
  let fr := x % 2 ^ f.fw
  if ex = 0 then .fin neg fr (1 - (f.bias : Int) - f.fw)
  else if ex = 2 ^ f.ew - 1 ∧ f.inf then (if fr = 0 then .inf neg else .nan)
  else if ex = 2 ^ f.ew - 1 ∧ fr = 2 ^ f.fw - 1 ∧ !f.inf then .nan
  else .fin neg (2 ^ f.fw + fr) ((ex : Int) - f.bias - f.fw)

/-- The result when the rounded magnitude passes the largest finite value, or the operand is infinite (R294). -/
def Fmt.over (f : Fmt) (rm : Rm) (sat neg isInf : Bool) : Nat :=
  let away := isInf || match rm with | .rne => true | .rtz => false | .rup => !neg | .rdn => neg
  if sat || !away then f.sign neg + f.maxFin
  else if f.inf then f.sign neg + (2 ^ f.ew - 1) * 2 ^ f.fw else f.nan

/-- Whether a rounding step goes up in magnitude: the quotient's parity, the remainder and the divisor. -/
def roundsUp (rm : Rm) (neg : Bool) (q r d : Nat) : Bool :=
  match rm with
  | .rne => decide (2 * r > d) || (decide (2 * r = d) && q % 2 == 1)
  | .rtz => false
  | .rup => !neg && decide (r ≠ 0)
  | .rdn => neg && decide (r ≠ 0)

/-- Rounds ± m × 2^e once into the format (R293, R294). -/
def Fmt.round (f : Fmt) (rm : Rm) (sat neg : Bool) (m : Nat) (e : Int) : Nat :=
  if m = 0 then f.sign neg
  else
    let top : Int := (m.log2 : Int) + e
    let q : Int := max top (1 - (f.bias : Int)) - f.fw
    let mant :=
      if q ≤ e then m * 2 ^ (e - q).toNat
      else
        let d := 2 ^ (q - e).toNat
        if roundsUp rm neg (m / d) (m % d) d then m / d + 1 else m / d
    let bits := (q + f.fw + f.bias - 1).toNat * 2 ^ f.fw + mant
    if bits > f.maxFin then f.over rm sat neg false else f.sign neg + bits

/-- The pattern of a value, rounded once. -/
def Fmt.ofVal (f : Fmt) (rm : Rm) (sat : Bool) : Val → Nat
  | .nan => f.nan
  | .inf n => f.over rm sat n true
  | .fin n m e => f.round rm sat n m e

/-- The pattern of a value under RNE (R293). -/
def Fmt.rne (f : Fmt) (v : Val) : Nat := f.ofVal .rne false v

/-- A signed integer times a power of two, with the sign of a zero given. -/
def finOf (z : Int) (zneg : Bool) (e : Int) : Val :=
  if z = 0 then .fin zneg 0 e else .fin (decide (z < 0)) z.natAbs e

/-- The signed mantissa. -/
def sgn (neg : Bool) (m : Nat) : Int := if neg then -(m : Int) else m

/-- Exact sum (R290, R291): opposite infinities give NaN, an exact zero of opposite signs is +0 unless rounding is RDN. -/
def vadd (rm : Rm) : Val → Val → Val
  | .nan, _ => .nan
  | _, .nan => .nan
  | .inf a, .inf b => if a = b then .inf a else .nan
  | .inf a, _ => .inf a
  | _, .inf b => .inf b
  | .fin n1 m1 e1, .fin n2 m2 e2 =>
    let e := min e1 e2
    let z := sgn n1 m1 * 2 ^ (e1 - e).toNat + sgn n2 m2 * 2 ^ (e2 - e).toNat
    finOf z (if n1 = n2 then n1 else rm == .rdn) e

/-- The value with its sign inverted. -/
def vneg : Val → Val
  | .nan => .nan
  | .inf a => .inf (!a)
  | .fin n m e => .fin (!n) m e

/-- Exact product (R290). -/
def vmul : Val → Val → Val
  | .nan, _ => .nan
  | _, .nan => .nan
  | .inf a, .inf b => .inf (a != b)
  | .inf a, .fin n m _ => if m = 0 then .nan else .inf (a != n)
  | .fin n m _, .inf a => if m = 0 then .nan else .inf (a != n)
  | .fin n1 m1 e1, .fin n2 m2 e2 => .fin (n1 != n2) (m1 * m2) (e1 + e2)

/-- A quotient with 80 bits beyond any format's fraction, and a low bit that says whether something is left (R293). -/
def divBits (a b : Nat) : Nat × Nat :=
  let k := 140 + b.log2
  let n := a * 2 ^ k
  (2 * (n / b) + (if n % b = 0 then 0 else 1), k + 1)

/-- Quotient (R290, R340). -/
def vdiv : Val → Val → Val
  | .nan, _ => .nan
  | _, .nan => .nan
  | .inf _, .inf _ => .nan
  | .inf a, .fin n _ _ => .inf (a != n)
  | .fin n _ _, .inf a => .fin (n != a) 0 0
  | .fin n1 m1 e1, .fin n2 m2 e2 =>
    if m2 = 0 then (if m1 = 0 then .nan else .inf (n1 != n2))
    else
      let q := divBits m1 m2
      .fin (n1 != n2) q.1 (e1 - e2 - q.2)

/-- Adds the bits 2^i for i below the count to a root while its square stays at or below `n`. -/
def isqrtFrom (n : Nat) : Nat → Nat → Nat
  | 0, r => r
  | i + 1, r => if (r + 2 ^ i) * (r + 2 ^ i) ≤ n then isqrtFrom n i (r + 2 ^ i) else isqrtFrom n i r

/-- The integer square root. -/
def isqrt (n : Nat) : Nat := isqrtFrom n (n.log2 / 2 + 1) 0

/-- A root of m × 2^e to well beyond any format's fraction, with a low sticky bit. -/
def sqrtBits (m : Nat) (e : Int) : Nat × Int :=
  let m := if e % 2 = 0 then m else 2 * m
  let e := if e % 2 = 0 then e else e - 1
  let n := m * 2 ^ 160
  let r := isqrt n
  (2 * r + (if r * r = n then 0 else 1), e / 2 - 81)

/-- Square root (R340): −0 gives −0, a value below zero gives NaN. -/
def vsqrt : Val → Val
  | .nan => .nan
  | .inf n => if n then .nan else .inf false
  | .fin n m e =>
    if m = 0 then .fin n 0 0 else if n then .nan
    else let r := sqrtBits m e; .fin false r.1 r.2

/-- Reciprocal (R398). -/
def vrcp (v : Val) : Val := vdiv (.fin false 1 0) v

/-- Reciprocal square root (R398): −0 gives −∞. -/
def vrsq : Val → Val
  | .nan => .nan
  | .inf n => if n then .nan else .fin false 0 0
  | .fin n m e =>
    if m = 0 then .inf n else if n then .nan
    else
      let m := if e % 2 = 0 then m else 2 * m
      let e := if e % 2 = 0 then e else e - 1
      let a := 2 ^ (2 * (100 + m.log2))
      let r := isqrt (a / m)
      .fin false (2 * r + (if r * r * m = a then 0 else 1)) (-(e / 2) - (100 + m.log2 : Nat) - 1)

/-- Fraction bits of the fixed-point work of 2^x and log2. -/
def fixN : Nat := 320

/-- The sum of 1 / (k × 2^k), k from 1 to the fuel, in fixed point: ln 2. -/
def ln2Sum (n : Nat) : Nat → Nat
  | 0 => 0
  | k + 1 => 2 ^ n / ((k + 1) * 2 ^ (k + 1)) + ln2Sum n k

/-- ln 2 in fixed point with `n` fraction bits. -/
def ln2 (n : Nat) : Nat := ln2Sum (n + 16) (n + 16) / 2 ^ 16

/-- The sum of t^k / k! in fixed point, from a running term. -/
def expSum (n t : Nat) : Nat → Nat → Nat → Nat
  | 0, _, _ => 0
  | fuel + 1, k, term => term + expSum n t fuel (k + 1) (term * t / 2 ^ n / (k + 1))

/-- 2^f for a fixed-point fraction f below 1, with `n` fraction bits. -/
def exp2Fix (n f : Nat) : Nat :=
  let w := n + 32
  let t := f * 2 ^ 32 * ln2 w / 2 ^ w
  expSum w t 130 0 (2 ^ w) / 2 ^ 32

/-- The sum of z^(2k+1) / (2k+1) in fixed point. -/
def atanhSum (n z2 : Nat) : Nat → Nat → Nat → Nat
  | 0, _, _ => 0
  | fuel + 1, k, p => p / (2 * k + 1) + atanhSum n z2 fuel (k + 1) (p * z2 / 2 ^ n)

/-- log2 of a fixed-point y from 1 to 2, with `n` fraction bits. -/
def log2Fix (n y : Nat) : Nat :=
  let w := n + 32
  let y := y * 2 ^ 32
  let z := (y - 2 ^ w) * 2 ^ w / (y + 2 ^ w)
  2 * atanhSum w (z * z / 2 ^ w) 260 0 z * 2 ^ w / ln2 w / 2 ^ 32

/-- 2^x (R398): exact for an integer, else a long fixed-point value with a sticky bit. -/
def vexp2 : Val → Val
  | .nan => .nan
  | .inf n => if n then .fin false 0 0 else .inf false
  | .fin n m e =>
    if m = 0 then .fin false 1 0
    else if (m.log2 : Int) + e ≥ 20 then (if n then .fin false 1 (-100000) else .fin false 1 100000)
    else
      let z : Int := sgn n m
      let ip : Int := if e ≥ 0 then z * 2 ^ e.toNat else z / 2 ^ (-e).toNat
      let fr : Nat := if e ≥ 0 then 0 else (z % 2 ^ (-e).toNat).toNat
      if fr = 0 then .fin false 1 ip
      else .fin false (2 * exp2Fix fixN (fr * 2 ^ fixN / 2 ^ (-e).toNat) + 1) (ip - fixN - 1)

/-- log2 x (R398). -/
def vlog2 : Val → Val
  | .nan => .nan
  | .inf n => if n then .nan else .inf false
  | .fin n m e =>
    if m = 0 then .inf true else if n then .nan
    else
      let t : Int := (m.log2 : Int) + e
      if m = 2 ^ m.log2 then (if t = 0 then .fin false 0 0 else finOf t false 0)
      else
        let y := m * 2 ^ fixN / 2 ^ m.log2
        finOf (2 * (t * 2 ^ fixN + log2Fix fixN y) + 1) false (-(fixN : Int) - 1)

/-- Whether x is below y; equal zeros are not. -/
def vlt : Val → Val → Bool
  | .nan, _ => false
  | _, .nan => false
  | .inf a, .inf b => a && !b
  | .inf a, _ => a
  | _, .inf b => !b
  | .fin n1 m1 e1, .fin n2 m2 e2 =>
    let e := min e1 e2
    decide (sgn n1 m1 * 2 ^ (e1 - e).toNat < sgn n2 m2 * 2 ^ (e2 - e).toNat)

/-- Whether x equals y; the zeros are equal, a NaN equals nothing. -/
def veq : Val → Val → Bool
  | .nan, _ => false
  | _, .nan => false
  | x, y => !vlt x y && !vlt y x

/-- The sign of a value. -/
def Val.neg : Val → Bool
  | .nan => false
  | .inf n => n
  | .fin n _ _ => n

/-- Whether a value is NaN. -/
def Val.isNan : Val → Bool
  | .nan => true
  | _ => false

/-- Whether a value is a zero. -/
def Val.isZero : Val → Bool
  | .fin _ m _ => m == 0
  | _ => false

/-- The value as a signed count of 2^e units, for finite values. -/
def Val.isFin : Val → Bool
  | .fin _ _ _ => true
  | _ => false

/-- x counts as smaller than y: −0 is below +0 (R291). -/
def vltz (x y : Val) : Bool := vlt x y || (veq x y && x.neg && !y.neg)

/-- Minimum and maximum (R291): one NaN gives the other operand. -/
def vmin (x y : Val) : Val := if x.isNan then y else if y.isNan then x else if vltz y x then y else x
def vmax (x y : Val) : Val := if x.isNan then y else if y.isNan then x else if vltz x y then y else x

/-- log2(2^x + 2^y) (R438): −∞ is the identity, a NaN gives NaN, an infinity +∞. -/
def vlae2 (x y : Val) : Val :=
  match x, y with
  | .nan, _ => .nan
  | _, .nan => .nan
  | .inf true, y => y
  | x, .inf true => x
  | .inf false, _ => .inf false
  | _, .inf false => .inf false
  | x, y =>
    let hi := vmax x y
    let d := vadd .rne (vmin x y) (vneg hi)
    if d.isZero then vadd .rne hi (.fin false 1 0)
    else match vexp2 d with
      | .fin _ m e =>
        let n : Nat := 640
        let w := if e ≥ -(n : Int) then m * 2 ^ (e + n).toNat else m / 2 ^ (-(n : Int) - e).toNat
        vadd .rne hi (.fin false (2 * log2Fix n (2 ^ n + w) + 1) (-(n : Int) - 1))
      | v => v

/-- A value rounded to an integer by RM (R295); `none` for NaN, and infinities far outside every range. -/
def toInt (rm : Rm) : Val → Option Int
  | .nan => none
  | .inf n => some (sgn n (2 ^ 200))
  | .fin n m e =>
    if e ≥ 0 then some (sgn n (m * 2 ^ (min e 4096).toNat))
    else
      let d := 2 ^ (-e).toNat
      some (sgn n (if roundsUp rm n (m / d) (m % d) d then m / d + 1 else m / d))

/-- A float converted to an integer of `w` bits, clamped; NaN gives 0 (R295). -/
def toIntClamp (rm : Rm) (w : Nat) (signed : Bool) (v : Val) : Int :=
  match toInt rm v with
  | none => 0
  | some z =>
    if signed then max (-(2 ^ (w - 1) : Int)) (min z (2 ^ (w - 1) - 1)) else max 0 (min z (2 ^ w - 1))

/-- The value of an integer. -/
def ofInt (z : Int) : Val := finOf z false 0

/-- Operations on patterns, each rounded once by RNE. -/
def Fmt.add (f : Fmt) (x y : Nat) : Nat := f.rne (vadd .rne (f.val x) (f.val y))
def Fmt.sub (f : Fmt) (x y : Nat) : Nat := f.rne (vadd .rne (f.val x) (vneg (f.val y)))
def Fmt.mul (f : Fmt) (x y : Nat) : Nat := f.rne (vmul (f.val x) (f.val y))
def Fmt.fma (f : Fmt) (x y z : Nat) : Nat := f.rne (vadd .rne (vmul (f.val x) (f.val y)) (f.val z))
def Fmt.div (f : Fmt) (x y : Nat) : Nat := f.rne (vdiv (f.val x) (f.val y))
def Fmt.sqrt (f : Fmt) (x : Nat) : Nat := f.rne (vsqrt (f.val x))
def Fmt.min (f : Fmt) (x y : Nat) : Nat := f.rne (vmin (f.val x) (f.val y))
def Fmt.max (f : Fmt) (x y : Nat) : Nat := f.rne (vmax (f.val x) (f.val y))

/-- Sign operations: a NaN first operand gives the canonical NaN (R340). -/
def Fmt.setSign (f : Fmt) (x : Nat) (neg : Bool) : Nat :=
  if (f.val x).isNan then f.nan else f.sign neg + x % 2 ^ (f.ew + f.fw)

/-- The sign bit of a pattern. -/
def Fmt.neg (f : Fmt) (x : Nat) : Bool := x / 2 ^ (f.ew + f.fw) % 2 == 1

/-- A conversion between floating-point formats (R294). -/
def cvt (src dst : Fmt) (rm : Rm) (sat : Bool) (x : Nat) : Nat := dst.ofVal rm sat (src.val x)

/-- FCLASS: KIND in the low bits, NEG in bit 4, EXP in bits 31:16 (R342). -/
def Fmt.classWord (f : Fmt) (x : Nat) : Nat :=
  let s := if f.neg x then 16 else 0
  let ex := x / 2 ^ f.fw % 2 ^ f.ew
  match f.val x with
  | .nan => 5
  | .inf _ => 4 + s
  | .fin _ m e =>
    if m = 0 then 1 + s
    else
      let k : Nat := if ex = 0 then 2 else 3
      let t : Int := if ex = 0 then (m.log2 : Int) + e else (ex : Int) - f.bias
      k + s + (t % 65536).toNat * 65536

end Sys2Proof.Machine.Fp
end

