-- ==== Sys2Proof/Syntax.lean ====
section
/-! DEFINITION. The steps of the part: one constructor per row of spec/opcode_table.json. The rows with an encoding are
instruction words, whose operands are their encoding's fields; the other rows are steps that a unit of the device or
the outside world takes, whose operands are plain data beside them (`StepArgs`). -/

namespace Sys2Proof

/-- The eight payload words of a tile frame (R316). -/
structure TilePayload where
  w0 : Word
  w1 : Word
  w2 : Word
  w3 : Word
  w4 : Word
  w5 : Word
  w6 : Word
  w7 : Word
  deriving DecidableEq, Repr

/-- A Brynry packet: the 64 bytes of its header flit and its data flits (R29). -/
structure Packet where
  head : List Byte
  data : List Byte
  deriving DecidableEq, Repr

/-- The firmware image of a die (R17): its bytes, the public key that comes with it, whether its ECDSA signature holds under that
key (log entry 46), and its security version. -/
structure DieImage where
  bytes   : List Byte
  key     : List Byte
  signed  : Bool
  version : Nat
  deriving DecidableEq, Repr, Inhabited

/-- What a boot brings: the firmware image of each die (R17), the boot configuration (R9, R20) and, for a restore,
the generation and the image read back from the safe tier (R181). -/
structure Boot where
  images     : List DieImage
  poolsz     : Nat
  wsz        : Nat
  xsz        : Nat
  ysz        : Nat
  zsz        : Nat
  linkup     : Dword
  restore    : Option (Word × Memory)
  deriving DecidableEq, Repr

/-- The four kinds of target of a read-out request (R15). -/
inductive ReadTarget where
  | register (slot number : Nat)
  | queue (die id : Nat)
  | table (die id : Nat)
  | physical (addr len : Nat)
  deriving DecidableEq, Repr

/-- The operands of a device step: which object takes the step and what arrives. Beside each device step below stand the
names of its operands, each with the field here that carries it. -/
structure StepArgs where
  who    : Nat := 0
  n      : Nat := 0
  m      : Nat := 0
  k      : Nat := 0
  id     : Half := 0
  a      : Dword := 0
  b      : Dword := 0
  c      : Dword := 0
  addr   : BitVec 128 := 0
  bs     : List Byte := []
  flag   : Bool := false
  pkt    : Packet := ⟨[], []⟩
  boot   : Boot := ⟨[], 0, 1, 1, 1, 1, 0, none⟩
  target : ReadTarget := .physical 0 0
  psn    : Nat := 0
  deriving DecidableEq, Repr

/-- The steps of the part, one constructor per row of the opcode table: first the instruction words, then the device
steps, whose operands are a `StepArgs`. Field letters are the table's: d, a, b general
registers, g guard, l lookahead, i immediate, k condition, m mask, t type; a vector instruction's d, a, b are vector
registers. -/
inductive Instr where
  -- ALU, major 0x01 (R331, R332)
  | add (d a b : BitVec 5) (g : BitVec 3)
  | sub (d a b : BitVec 5) (g : BitVec 3)
  | and (d a b : BitVec 5) (g : BitVec 3)
  | or (d a b : BitVec 5) (g : BitVec 3)
  | xor (d a b : BitVec 5) (g : BitVec 3)
  | shl (d a b : BitVec 5) (g : BitVec 3)
  | shr (d a b : BitVec 5) (g : BitVec 3)
  | sra (d a b : BitVec 5) (g : BitVec 3)
  | min (d a b : BitVec 5) (g : BitVec 3)
  | max (d a b : BitVec 5) (g : BitVec 3)
  | minn (d a b : BitVec 5) (g : BitVec 3)
  | maxn (d a b : BitVec 5) (g : BitVec 3)
  | clz (d a : BitVec 5) (g : BitVec 3)
  | ctz (d a : BitVec 5) (g : BitVec 3)
  | popc (d a : BitVec 5) (g : BitVec 3)
  | brev (d a : BitVec 5) (g : BitVec 3)
  | exts (d a b : BitVec 5) (g : BitVec 3)
  | extz (d a b : BitVec 5) (g : BitVec 3)
  | insf (d a b : BitVec 5) (g : BitVec 3)
  -- immediates, majors 0x02–0x09 (R333–R337)
  | addi (d a : BitVec 5) (g : BitVec 3) (i : BitVec 13)
  | andi (d a : BitVec 5) (g : BitVec 3) (i : BitVec 13)
  | ori (d a : BitVec 5) (g : BitVec 3) (i : BitVec 13)
  | xori (d a : BitVec 5) (g : BitVec 3) (i : BitVec 13)
  | shli (d a : BitVec 5) (g : BitVec 3) (c : BitVec 6)
  | shri (d a : BitVec 5) (g : BitVec 3) (c : BitVec 6)
  | srai (d a : BitVec 5) (g : BitVec 3) (c : BitVec 6)
  | cmpi (p : BitVec 3) (a : BitVec 5) (g k : BitVec 3) (i : BitVec 10)
  | lih (d : BitVec 5) (i : BitVec 21)
  | addpc (d : BitVec 5) (i : BitVec 21)
  -- compares, predicates, select (R337, R338)
  | cmp (p : BitVec 3) (a b : BitVec 5) (g k : BitVec 3)
  | pand (p q r g : BitVec 3)
  | por (p q r g : BitVec 3)
  | pxor (p q r g : BitVec 3)
  | pnot (p q g : BitVec 3)
  | sel (d a b : BitVec 5) (g n : BitVec 3)
  -- scalar floating point, major 0x0C (R340–R343)
  | fadd (d a b : BitVec 5) (g : BitVec 3) (s : BitVec 1)
  | fsub (d a b : BitVec 5) (g : BitVec 3) (s : BitVec 1)
  | fmul (d a b : BitVec 5) (g : BitVec 3) (s : BitVec 1)
  | fma (d a b : BitVec 5) (g : BitVec 3) (s : BitVec 1)
  | fdiv (d a b : BitVec 5) (g : BitVec 3) (s : BitVec 1)
  | fsqrt (d a : BitVec 5) (g : BitVec 3) (s : BitVec 1)
  | fmin (d a b : BitVec 5) (g : BitVec 3) (s : BitVec 1)
  | fmax (d a b : BitVec 5) (g : BitVec 3) (s : BitVec 1)
  | fsgn (d a b : BitVec 5) (g : BitVec 3) (s : BitVec 1)
  | fneg (d a : BitVec 5) (g : BitVec 3) (s : BitVec 1)
  | fabs (d a : BitVec 5) (g : BitVec 3) (s : BitVec 1)
  | fclass (d a : BitVec 5) (g : BitVec 3) (s : BitVec 1)
  | fcmp (p : BitVec 3) (a b : BitVec 5) (g : BitVec 3) (s : BitVec 1) (k : BitVec 3)
  | fcvt (d a : BitVec 5) (m : BitVec 2) (t : BitVec 1) (g u c : BitVec 3)
  -- multiply and divide, major 0x0D (R339)
  | mul (d a b : BitVec 5) (g : BitVec 3) (l : BitVec 4)
  | mulh (d a b : BitVec 5) (g : BitVec 3) (l : BitVec 4)
  | mulhn (d a b : BitVec 5) (g : BitVec 3) (l : BitVec 4)
  | div (d a b : BitVec 5) (g : BitVec 3) (l : BitVec 4)
  | divn (d a b : BitVec 5) (g : BitVec 3) (l : BitVec 4)
  | rem (d a b : BitVec 5) (g : BitVec 3) (l : BitVec 4)
  | remn (d a b : BitVec 5) (g : BitVec 3) (l : BitVec 4)
  -- branches and jumps (R344)
  | br (p : BitVec 3) (i : BitVec 23)
  | brn (p : BitVec 3) (i : BitVec 23)
  | jal (d : BitVec 5) (i : BitVec 21)
  | jalr (d a : BitVec 5) (g : BitVec 3) (i : BitVec 13)
  -- loads and stores (R345)
  | ldb (d b : BitVec 5) (g : BitVec 3) (l : BitVec 4) (o : BitVec 9)
  | ldh (d b : BitVec 5) (g : BitVec 3) (l : BitVec 4) (o : BitVec 9)
  | ldw (d b : BitVec 5) (g : BitVec 3) (l : BitVec 4) (o : BitVec 9)
  | ldd (d b : BitVec 5) (g : BitVec 3) (l : BitVec 4) (o : BitVec 9)
  | ldbn (d b : BitVec 5) (g : BitVec 3) (l : BitVec 4) (o : BitVec 9)
  | ldhn (d b : BitVec 5) (g : BitVec 3) (l : BitVec 4) (o : BitVec 9)
  | ldwn (d b : BitVec 5) (g : BitVec 3) (l : BitVec 4) (o : BitVec 9)
  | stb (s b : BitVec 5) (g : BitVec 3) (l : BitVec 4) (o : BitVec 9)
  | sth (s b : BitVec 5) (g : BitVec 3) (l : BitVec 4) (o : BitVec 9)
  | stw (s b : BitVec 5) (g : BitVec 3) (l : BitVec 4) (o : BitVec 9)
  | std (s b : BitVec 5) (g : BitVec 3) (l : BitVec 4) (o : BitVec 9)
  -- synchronising and cache instructions, major 0x1F (R348)
  | ldf (d a b : BitVec 5) (g : BitVec 3) (l : BitVec 4)
  | stf (s a b : BitVec 5) (g : BitVec 3) (l : BitVec 4)
  | ldfp (d a b : BitVec 5) (g : BitVec 3) (l : BitVec 4)
  | feget (d a b : BitVec 5) (g : BitVec 3) (l : BitVec 4)
  | feset (s a b : BitVec 5) (g : BitVec 3) (l : BitVec 4)
  | pref (v a b : BitVec 5) (g : BitVec 3) (l : BitVec 4)
  | cflush (a b : BitVec 5) (g : BitVec 3) (l : BitVec 4)
  | cinv (g : BitVec 3) (l : BitVec 4)
  -- fences (R352)
  | fenceRel (g c : BitVec 3)
  | fenceAcq (g c : BitVec 3)
  | fenceFull (g c : BitVec 3)
  -- atomics (R353)
  | amoAdd (d a b : BitVec 5) (z : BitVec 1) (c : BitVec 2) (l : BitVec 4)
  | amoAnd (d a b : BitVec 5) (z : BitVec 1) (c : BitVec 2) (l : BitVec 4)
  | amoOr (d a b : BitVec 5) (z : BitVec 1) (c : BitVec 2) (l : BitVec 4)
  | amoXor (d a b : BitVec 5) (z : BitVec 1) (c : BitVec 2) (l : BitVec 4)
  | amoMin (d a b : BitVec 5) (z : BitVec 1) (c : BitVec 2) (l : BitVec 4)
  | amoMax (d a b : BitVec 5) (z : BitVec 1) (c : BitVec 2) (l : BitVec 4)
  | amoMinn (d a b : BitVec 5) (z : BitVec 1) (c : BitVec 2) (l : BitVec 4)
  | amoMaxn (d a b : BitVec 5) (z : BitVec 1) (c : BitVec 2) (l : BitVec 4)
  | amoSwp (d a b : BitVec 5) (z : BitVec 1) (c : BitVec 2) (l : BitVec 4)
  | amoCas (d a b : BitVec 5) (z : BitVec 1) (c : BitVec 2) (l : BitVec 4)
  | amoFadd (d a b : BitVec 5) (z : BitVec 1) (c : BitVec 2) (l : BitVec 4)
  | amoRedOrd (d a b : BitVec 5) (z : BitVec 1) (c : BitVec 2) (l : BitVec 4)
  -- strands (R359)
  | spawn (a b : BitVec 5) (g : BitVec 3)
  | join (a : BitVec 5) (g : BitVec 3)
  | migr (d a : BitVec 5) (g : BitVec 3)
  | migv (d a : BitVec 5) (v g : BitVec 3)
  | yield (g : BitVec 3)
  | park (d : BitVec 5) (g : BitVec 3)
  | parkE (d : BitVec 5) (g : BitVec 3)
  | rfill (d a b : BitVec 5) (g : BitVec 3) (l : BitVec 4)
  | self (d : BitVec 5) (g : BitVec 3) (l : BitVec 4)
  -- messages (R367)
  | msend (d a b : BitVec 5) (g : BitVec 3) (l : BitVec 4)
  | mrecv (d a b : BitVec 5) (g : BitVec 3) (l : BitVec 4)
  | mpeek (d a : BitVec 5) (g : BitVec 3) (l : BitVec 4)
  -- tasks (R370)
  | tpost (d a : BitVec 5) (g : BitVec 3) (l : BitVec 4)
  | tdone (g : BitVec 3)
  | qpush (d a b : BitVec 5) (g : BitVec 3) (l : BitVec 4)
  | qpop (d a b : BitVec 5) (g : BitVec 3) (l : BitVec 4)
  | tcard (d : BitVec 5) (g : BitVec 3) (l : BitVec 4)
  | qpopW (d a : BitVec 5) (g : BitVec 3) (l : BitVec 4)
  -- streams (R375)
  | sfork (d a b : BitVec 5) (g : BitVec 3) (l : BitVec 4)
  | sstep (d a : BitVec 5) (g : BitVec 3) (l : BitVec 4)
  | sact (d a b : BitVec 5) (g : BitVec 3) (l : BitVec 4)
  | sret (d a b : BitVec 5) (g : BitVec 3) (l : BitVec 4)
  | sjoin (d a b : BitVec 5) (g : BitVec 3) (l : BitVec 4)
  | sretire (a : BitVec 5) (g : BitVec 3) (l : BitVec 4)
  | sevict (d a b : BitVec 5) (g : BitVec 3) (l : BitVec 4)
  | smig (d a b : BitVec 5) (g : BitVec 3) (l : BitVec 4)
  | sstat (d a b : BitVec 5) (g : BitVec 3) (l : BitVec 4)
  | sjoinOpen (d a : BitVec 5) (g : BitVec 3) (l : BitVec 4)
  | sstop (d a b : BitVec 5) (g : BitVec 3) (l : BitVec 4)
  -- Cast (R385)
  | clook (d a b : BitVec 5) (g : BitVec 3) (l : BitVec 4)
  | cput (d a : BitVec 5) (g : BitVec 3) (l : BitVec 4)
  | cinvk (d a : BitVec 5) (g : BitVec 3) (l : BitVec 4)
  | cflusht (d a : BitVec 5) (g : BitVec 3) (l : BitVec 4)
  -- Armature (R420)
  | gset (d a b : BitVec 5) (g : BitVec 3) (l : BitVec 4)
  | gmask (p : BitVec 3) (a b : BitVec 5) (g : BitVec 3) (l : BitVec 4)
  | gmaskS (p : BitVec 3) (a b : BitVec 5) (g : BitVec 3) (l : BitVec 4)
  | gadv (d a b : BitVec 5) (g : BitVec 3) (l : BitVec 4)
  | gadvS (d a b : BitVec 5) (g : BitVec 3) (l : BitVec 4)
  | gchk (p : BitVec 3) (a b : BitVec 5) (g : BitVec 3) (l : BitVec 4)
  | gsave (d a : BitVec 5) (g : BitVec 3) (l : BitVec 4)
  | gload (a b : BitVec 5) (g : BitVec 3) (l : BitVec 4)
  -- system (R387)
  | trap (c : BitVec 7) (g : BitVec 3)
  | trapack (g : BitVec 3)
  | rett (g : BitVec 3)
  | sysc (d a : BitVec 5) (g : BitVec 3)
  | sleep (a : BitVec 5) (g : BitVec 3)
  | csrr (d n m : BitVec 5) (g : BitVec 3) (k : BitVec 2)
  | csrw (s n m : BitVec 5) (g : BitVec 3) (k : BitVec 2)
  | csrs (s n m : BitVec 5) (g : BitVec 3) (k : BitVec 2)
  | csrc (s n m : BitVec 5) (g : BitVec 3) (k : BitVec 2)
  -- control register immediate (R392)
  | csrfi (v p : BitVec 5) (g : BitVec 3) (c : BitVec 12)
  -- vector integer (R396)
  | vadd (d a b : BitVec 3) (m : BitVec 2) (t : BitVec 3) (l : BitVec 4)
  | vsub (d a b : BitVec 3) (m : BitVec 2) (t : BitVec 3) (l : BitVec 4)
  | vmul (d a b : BitVec 3) (m : BitVec 2) (t : BitVec 3) (l : BitVec 4)
  | vmulh (d a b : BitVec 3) (m : BitVec 2) (t : BitVec 3) (l : BitVec 4)
  | vmulhn (d a b : BitVec 3) (m : BitVec 2) (t : BitVec 3) (l : BitVec 4)
  | vand (d a b : BitVec 3) (m : BitVec 2) (t : BitVec 3) (l : BitVec 4)
  | vor (d a b : BitVec 3) (m : BitVec 2) (t : BitVec 3) (l : BitVec 4)
  | vxor (d a b : BitVec 3) (m : BitVec 2) (t : BitVec 3) (l : BitVec 4)
  | vshl (d a b : BitVec 3) (m : BitVec 2) (t : BitVec 3) (l : BitVec 4)
  | vshr (d a b : BitVec 3) (m : BitVec 2) (t : BitVec 3) (l : BitVec 4)
  | vsra (d a b : BitVec 3) (m : BitVec 2) (t : BitVec 3) (l : BitVec 4)
  | vmin (d a b : BitVec 3) (m : BitVec 2) (t : BitVec 3) (l : BitVec 4)
  | vmax (d a b : BitVec 3) (m : BitVec 2) (t : BitVec 3) (l : BitVec 4)
  | vminn (d a b : BitVec 3) (m : BitVec 2) (t : BitVec 3) (l : BitVec 4)
  | vmaxn (d a b : BitVec 3) (m : BitVec 2) (t : BitVec 3) (l : BitVec 4)
  | vadds (d a b : BitVec 3) (m : BitVec 2) (t : BitVec 3) (l : BitVec 4)
  | vaddsn (d a b : BitVec 3) (m : BitVec 2) (t : BitVec 3) (l : BitVec 4)
  | vsubs (d a b : BitVec 3) (m : BitVec 2) (t : BitVec 3) (l : BitVec 4)
  | vsubsn (d a b : BitVec 3) (m : BitVec 2) (t : BitVec 3) (l : BitVec 4)
  | vmov (d a : BitVec 3) (m : BitVec 2) (t : BitVec 3) (l : BitVec 4)
  -- vector floating point (R397, R398)
  | vfadd (d a b : BitVec 3) (m : BitVec 2) (t : BitVec 3) (l : BitVec 4)
  | vfsub (d a b : BitVec 3) (m : BitVec 2) (t : BitVec 3) (l : BitVec 4)
  | vfmul (d a b : BitVec 3) (m : BitVec 2) (t : BitVec 3) (l : BitVec 4)
  | vfma (d a b : BitVec 3) (m : BitVec 2) (t : BitVec 3) (l : BitVec 4)
  | vfdiv (d a b : BitVec 3) (m : BitVec 2) (t : BitVec 3) (l : BitVec 4)
  | vfsqrt (d a : BitVec 3) (m : BitVec 2) (t : BitVec 3) (l : BitVec 4)
  | vfmin (d a b : BitVec 3) (m : BitVec 2) (t : BitVec 3) (l : BitVec 4)
  | vfmax (d a b : BitVec 3) (m : BitVec 2) (t : BitVec 3) (l : BitVec 4)
  | vexp2 (d a : BitVec 3) (m : BitVec 2) (t : BitVec 3) (l : BitVec 4)
  | vlog2 (d a : BitVec 3) (m : BitVec 2) (t : BitVec 3) (l : BitVec 4)
  | vrcp (d a : BitVec 3) (m : BitVec 2) (t : BitVec 3) (l : BitVec 4)
  | vrsq (d a : BitVec 3) (m : BitVec 2) (t : BitVec 3) (l : BitVec 4)
  -- vector memory (R399)
  | vld (d : BitVec 3) (b : BitVec 5) (m : BitVec 2) (t : BitVec 3) (l : BitVec 4)
  | vlds (d : BitVec 3) (b s : BitVec 5) (m : BitVec 2) (t : BitVec 3) (l : BitVec 4)
  | vldx (d : BitVec 3) (b : BitVec 5) (x : BitVec 3) (m : BitVec 2) (t : BitVec 3) (l : BitVec 4)
  | vst (d : BitVec 3) (b : BitVec 5) (m : BitVec 2) (t : BitVec 3) (l : BitVec 4)
  | vsts (d : BitVec 3) (b s : BitVec 5) (m : BitVec 2) (t : BitVec 3) (l : BitVec 4)
  | vstx (d : BitVec 3) (b : BitVec 5) (x : BitVec 3) (m : BitVec 2) (t : BitVec 3) (l : BitVec 4)
  | vldm (n : BitVec 2) (b : BitVec 5) (l : BitVec 4)
  | vstm (n : BitVec 2) (b : BitVec 5) (l : BitVec 4)
  -- vector reductions (R402–R404)
  | vrsum (d a : BitVec 3) (m : BitVec 2) (t : BitVec 3) (l : BitVec 4)
  | vrmin (d a : BitVec 3) (m : BitVec 2) (t : BitVec 3) (l : BitVec 4)
  | vrmax (d a : BitVec 3) (m : BitVec 2) (t : BitVec 3) (l : BitVec 4)
  | vrminn (d a : BitVec 3) (m : BitVec 2) (t : BitVec 3) (l : BitVec 4)
  | vrmaxn (d a : BitVec 3) (m : BitVec 2) (t : BitVec 3) (l : BitVec 4)
  | vrand (d a : BitVec 3) (m : BitVec 2) (t : BitVec 3) (l : BitVec 4)
  | vror (d a : BitVec 3) (m : BitVec 2) (t : BitVec 3) (l : BitVec 4)
  | vrxor (d a : BitVec 3) (m : BitVec 2) (t : BitVec 3) (l : BitVec 4)
  | vscan (d a : BitVec 3) (m : BitVec 2) (t : BitVec 3) (l : BitVec 4)
  | vscanmax (d a : BitVec 3) (m : BitVec 2) (t : BitVec 3) (l : BitVec 4)
  | vtopk (d a b : BitVec 3) (m : BitVec 2) (t : BitVec 3) (l : BitVec 4)
  -- vector permutation (R405)
  | vperm (d a b : BitVec 3) (m : BitVec 2) (t : BitVec 3) (l : BitVec 4)
  | vbcastg (d : BitVec 3) (r : BitVec 5) (m : BitVec 2) (t : BitVec 3) (l : BitVec 4)
  | vmovg (d : BitVec 3) (r : BitVec 5) (t : BitVec 3) (l : BitVec 4)
  | viota (d : BitVec 3) (m : BitVec 2) (t : BitVec 3) (l : BitVec 4)
  | vbcast (d a : BitVec 3) (m : BitVec 2) (t : BitVec 3) (l : BitVec 4)
  | vcompress (d a : BitVec 3) (m : BitVec 2) (t : BitVec 3) (l : BitVec 4)
  -- vector masks (R406, R407)
  | vcmp (n : BitVec 2) (a b : BitVec 3) (m : BitVec 2) (t : BitVec 3) (l : BitVec 4) (k : BitVec 3)
  | vfcmp (n : BitVec 2) (a b : BitVec 3) (m : BitVec 2) (t : BitVec 3) (l : BitVec 4) (k : BitVec 3)
  | vmand (n q r : BitVec 2) (l : BitVec 4)
  | vmor (n q r : BitVec 2) (l : BitVec 4)
  | vmxor (n q r : BitVec 2) (l : BitVec 4)
  | vmnot (n q : BitVec 2) (l : BitVec 4)
  | vmpopc (r : BitVec 5) (m : BitVec 2) (t : BitVec 3) (l : BitVec 4)
  | vmfirst (r : BitVec 5) (m : BitVec 2) (t : BitVec 3) (l : BitVec 4)
  -- vector conversion (R408)
  | vcvt (d a p : BitVec 3) (m : BitVec 2) (t : BitVec 3) (l : BitVec 4) (x : BitVec 1) (u : BitVec 2) (v : BitVec 1) (c : BitVec 4)
  -- generation (R409–R418)
  | vpen (d a b : BitVec 3) (m : BitVec 2) (l : BitVec 4)
  | vbias (d a b : BitVec 3) (m : BitVec 2) (l : BitVec 4)
  | vban (d : BitVec 3) (m : BitVec 2) (l : BitVec 4)
  | vsamp (d a b : BitVec 3) (m : BitVec 2) (l : BitVec 4)
  | vrng (d a b : BitVec 3) (m : BitVec 2) (l : BitVec 4)
  | vacc (d a b : BitVec 3) (m : BitVec 2) (l : BitVec 4)
  | vresid (d a b : BitVec 3) (m : BitVec 2) (l : BitVec 4)
  | vtree (d a b : BitVec 3) (l : BitVec 4)
  | vmatch (d a b : BitVec 3) (l : BitVec 4)
  | vsoftT (d b : BitVec 3) (m : BitVec 2) (l : BitVec 4)
  | vsoftW (d b : BitVec 3) (m : BitVec 2) (l : BitVec 4)
  -- tile frames (R316–R319)
  | tcmd (a b : BitVec 5) (g : BitVec 3) (l : BitVec 4) (q : BitVec 5) (h : BitVec 4) (w : TilePayload)
  -- a word that is no instruction (R313)
  | illegalWord (word : Word)
  -- package, power, freeze and read-out (R9–R19)
  | packageReset  -- boot
  | thermalWarning  -- die = who
  | throttleStart
  | throttleEnd
  | trip  -- current = flag
  | freezePinAssert
  | aigonFreezeRequest
  | freezePinDeassert
  | thawRestart
  | thermalThaw
  | currentThaw
  | readoutRequest  -- target
  -- management path (R44)
  | tcreate  -- qp = who, id, root = a, key1 = b, key2 = c, entries = n, frames = m
  | tlock  -- id
  | tdestroy  -- id
  | qpbind  -- qp = who, id
  | queuePairSetup  -- qp = who, opened = flag, addr
  | lqcreate  -- q = who, id, base = a, depth = n, qp = m
  | lqdestroy  -- q = who
  | tierset  -- endpoint = id, addr = a, size = b
  | ckptreq  -- mask = n
  | attest  -- nonce = bs
  | thaw
  -- Brynry Link (R23–R35)
  | readRequest  -- die = who, pkt, link = n
  | writeRequest  -- die = who, pkt, link = n
  | amoRequest  -- die = who, pkt, link = n
  | msgRequest  -- die = who, pkt, link = n
  | strandRequest  -- die = who, pkt, link = n
  | snapreq  -- die = who, pkt, link = n
  | snapdata  -- die = who, pkt, link = n
  | ckptPacketReceive  -- die = who, pkt, link = n
  | fencePacket  -- die = who, pkt, link = n
  | responseReceive  -- die = who, pkt, link = n
  | responseTimeout  -- die = who, tag = n
  | packetForward  -- die = who, pkt, link = n
  | portLeaveService  -- dir = who, port = n, training lost for 1 ms = flag
  | portRejoin  -- dir = who, port = n
  -- Ethernet (R38–R42)
  | roceSendReceive  -- qp = who, bs
  | rdmaWrite  -- qp = who, rkey = n, va = a, bs
  | rdmaRead  -- qp = who, rkey = n, va = a, len = m
  | roceCas  -- qp = who, rkey = n, va = a, cmp = b, swap = c
  | roceFetchAdd  -- qp = who, rkey = n, va = a, addend = b
  | roceAckReceive  -- qp = who, psn = n, nak = flag, bs
  | roceRetransmit  -- qp = who
  | cnpReceive  -- qp = who
  | rateRecover  -- qp = who
  -- system calls and page ownership (R58–R62)
  | sysreply  -- qp = who, bs
  | pagereq  -- qp = who, bs
  | pagerep  -- qp = who, bs
  | settleTimeEnd  -- tenant = id, va = a
  -- launches (R49–R57, R115–R122, R156–R157)
  | launchUnitTake  -- q = who
  | sweepLaunchStart  -- die = who, launch = n
  | graphLaunchStart  -- die = who, launch = n
  | streamsetStart  -- die = who, launch = n
  | streamsetAdvance  -- die = who, launch = n
  | launchDieDone  -- die = who, launch = n
  | launchComplete  -- launch = who
  | sweepStrandStart  -- die = who, launch = n, worker = m
  -- checkpoint drain (R93, R180)
  | drainSend  -- frame = who
  | drainStallTimeout
  | drainEnd
  | sideCopyDone  -- frame = who
  -- translation faults, copy-on-write and home banks (R80–R112, R355)
  | faultMessageSend  -- die = who, n
  | faultReply  -- die = who, bs
  | walkBusyResume  -- slot = who, op = n
  | frameCopyDone  -- n = who
  | writePerform  -- n = who
  | announcementApply  -- die = who, n
  | loadViewReturn  -- slot = who, op = n
  | atomicHomePerform  -- slot = who, op = n
  | redordArrive  -- slot = who, op = n, ofCommand = flag
  | redordResend  -- slot = who, op = n, ofCommand = flag
  | syncAccessGrant  -- slot = who, op = n
  | feTimeout  -- slot = who, op = n
  -- scheduler (R125–R147)
  | runQueueArrive  -- n = who
  | dispatch  -- die = who, q = n
  | taskStart  -- task = who
  | taskRetire  -- task = who
  | heldCardEnqueue  -- die = who, q = n
  | faultEntryPost  -- die = who
  | slotFill  -- slot = who
  | steal  -- slot = who
  | deckRoomResume  -- slot = who
  | displace  -- die = who
  | reservationReload  -- die = who, entry = n
  | reservationWrite  -- slot = who
  | stageWrite  -- slot = who
  | governorTick  -- slot = who
  | urgentEnable  -- core = who
  | urgentStart  -- core = who
  | urgentDisable  -- core = who
  -- streams and the Trick unit (R161–R178)
  | batchForm  -- die = who, model = n, layer = m
  | groupMemberUpdate  -- n = who
  | evictionRound  -- die = who
  | streamRestoreSelf  -- die = who
  | transferDiscard  -- n = who
  | snapreqRetry  -- n = who
  | modelEntryWrite  -- slot = who
  -- Cast unit (R196)
  | castInvalidate  -- die = who
  -- Armature commands (R203–R217)
  | maskWalk  -- die = who
  | grammarDeadStop  -- n = who
  | grammarLoad  -- slot = who
  | grammarUnload  -- slot = who
  | unloadTakeEffect  -- gram = who
  | arenaOpen  -- slot = who
  | arenaCommit  -- slot = who
  | arenaClose  -- slot = who
  -- key-value block commands (R223)
  | kvAlloc  -- slot = who
  | kvOpen  -- slot = who
  | kvRelease  -- slot = who
  | kvSetlen  -- slot = who
  -- clusters, cores and engines (R241–R267)
  | instructionComplete  -- slot = who, op = n
  | vectorIssue  -- cluster = who
  | leaseGrant  -- cluster = who
  | leaseEnd  -- cluster = who
  | accumClaim  -- slot = who
  | accumRelease  -- slot = who
  | arrivalCount  -- n = who
  | coreSleep  -- core = who
  | coreWake  -- core = who
  -- control register commands (R83, R266–R267, R391)
  | evgath  -- slot = who
  | evselWrite  -- slot = who
  | tlbinv  -- slot = who
  | caststatClear  -- slot = who
  | registerWrite  -- slot = who
  -- traps and timers (R270–R276)
  | takeTrap  -- slot = who
  | timerCompare  -- slot = who
  -- pre-emption and migration (R279–R283)
  | slotSave  -- slot = who
  | slotRestore  -- slot = who
  | lssave  -- slot = who
  | lsload  -- slot = who
  | coreMove  -- slot = who
  | fwdclr  -- slot = who
  | forwardDeliver  -- core = who
  -- answers and deliveries (R111, R362–R367)
  | joinRecordPush  -- n = who
  | joinRecordRetry  -- n = who
  | migrAnswer  -- slot = who, status = m
  | mailboxDeliver  -- n = who
  | commandComplete  -- n = who
  -- the tile commands that the engines run (R435–R455)
  | mma  -- n = who
  | mmacb  -- n = who
  | mmaf8  -- n = who
  | cellp  -- n = who
  | cell  -- n = who
  | att  -- n = who
  | scan  -- n = who
  | accrd  -- n = who
  | acclr  -- n = who
  | fmtld  -- n = who
  | ringcfg  -- n = who
  | copy  -- n = who
  | gath  -- n = who
  | scat  -- n = who
  | fill  -- n = who
  | compact  -- n = who
  | hashpg  -- n = who
  | mcast  -- n = who
  | redst  -- n = who
  | barm  -- n = who
  | snap  -- n = who
  | ckpt  -- n = who
  -- further package and link events (R13, R16, R20, R25, R28, R38, R390)
  | packageIdBurn  -- id
  | thermalWarningClear  -- die = who
  | aigonThawRequest
  | sleepTimerLimit  -- slot = who
  | creditReturn  -- dir = who, port = n, vc = m, n = k
  | flitReplay  -- dir = who, port = n, the same flit as before = flag
  | neighbourDrainReport  -- dir = who
  | pfcPauseFrame  -- port = who, prio = n, pause = flag
  deriving DecidableEq, Repr

end Sys2Proof
end

