-- ==== Sys2Proof/Config.lean ====
section
/-! DEFINITION. What the spec leaves to an implementation, to the firmware or to the fuses. Each is an opaque constant:
nothing can be proved of its value. -/

namespace Sys2Proof.Config

/-- A value that the spec leaves open, indexed by `State.freeCtr` (log entry 2). -/
opaque freeDword : Nat → Dword
/-- The fused 16-bit package id (R20). -/
opaque pkgid : BitVec 16
/-- The boot value of SVCLOC of a die: die, cluster, core and slot of its service core (R70). -/
opaque svcloc : Nat → BitVec 13
/-- The physical address of the level-3 node of the device space, which the firmware sets at boot (R69). -/
opaque deviceRoot : Dword
/-- POOLSZ of the boot in which the machine stands at reset: 0–16 MiB of each bank (R9, R10). -/
opaque poolsz : Fin 17
/-- The fused counter of security versions, the vendor's public key, whose SHA-512 digest is fused, and the bytes of the firmware
image with which each die started at reset (R17). -/
opaque fuseVersion : Nat
opaque vendorKey : List Byte
opaque imageBytes : Nat → List Byte
/-- The torus sizes WX, WY, WZ of the boot configuration (R20, R22). -/
opaque torus : Nat → Nat
/-- The bytes of an attestation quote's signature over the quote (R19): the device key is outside the model. -/
opaque quoteSignature : List Byte → List Byte

/-- AES-XTS encryption of a frame of a locked tenant, keyed by generation and physical address (R182). -/
opaque encryptFrame : Nat → Nat → List Byte → List Byte
/-- The decryption that inverts it (R182). -/
opaque decryptFrame : Nat → Nat → List Byte → List Byte
/-- First frame and number of frames of the HBM swap area of a die, which the firmware reserves at boot (R173). -/
opaque swapFirst : Nat → Nat
opaque swapCount : Nat → Nat

/-- The first frame of a region that the firmware reserves in device space at boot (R77, R179, R182), by 4 · region + die; the
spec does not say where the regions lie. -/
opaque tableBase : Nat → Nat

/-- The fold of a packet for which R27 names none, by its header (log entry 25). -/
opaque packetFold : List Byte → Nat

end Sys2Proof.Config
end

