-- ==== Sys2Proof/Machine/State.lean ====
section
/-! DEFINITION. The state of the part: every piece of state that spec/ names, as plain data (INVENTORY.md lists each with
its rule), the reasons a step could stop, and the state after reset. -/

namespace Sys2Proof.Machine

/-- Why the machine stops. The spec gives every case an outcome (R6), so no step raises one. -/
inductive Fault where
  /-- Raised by nobody; safe: the type needs a constructor for a stop that the spec does not have. -/
  | stuck
  deriving DecidableEq, Repr

/-- Why an instruction has no meaning. -/
inductive Refusal where
  /-- Raised by a refused arm of `exec` only: the instruction is not modelled yet; safe. -/
  | notModelled (mnemonic : String)
  deriving DecidableEq, Repr

/-- The three states of a register (R244). -/
inductive RegState where
  | full | empty | void
  deriving DecidableEq, Repr

/-- A register by class and number. -/
inductive RegRef where
  | g (n : BitVec 5) | v (n : BitVec 3) | m (n : BitVec 2) | p (n : BitVec 3)
  deriving DecidableEq, Repr

/-- What a slot's next instruction waits for (R240, R256): an empty register, one of the eight outstanding instructions, or room
in its core's vector dispatch queue. -/
inductive IssueWait where
  | reg (r : RegRef) | outstanding | vector
  deriving DecidableEq, Repr

/-- A completion value for a register (R242). -/
inductive Fill where
  | g (n : BitVec 5) (x : Dword) | v (n : BitVec 3) (x : BitVec 4096)
  | m (n : BitVec 2) (x : BitVec 512) | p (n : BitVec 3) (x : Bool)
  deriving DecidableEq, Repr

/-- A trap that is due (R268): its cause and subcode, TRADDR, whether it is asynchronous, whether TRNPC is the next
instruction (TRAP), dwords that it writes into the window record (R430, R452), and when an asynchronous one fell due (R272). -/
structure Trap where
  cause  : Byte
  sub    : Byte
  addr   : Dword := 0
  async  : Bool := false
  toNext : Bool := false
  win    : List Dword := []
  since  : Nat := 0
  deriving DecidableEq, Repr

/-- Where bytes of an access lie: a local store, a physical address, a peer package or the host (R67, R76). -/
inductive Place where
  | ls (cluster off : Nat) | mem (pa : Nat) | peer (pkg : Nat) | host
  deriving DecidableEq, Repr

/-- The element type of a vector access and what a load does with its bytes. -/
inductive LoadInto where
  | g (d : BitVec 5) (size : Nat) (signed : Bool)
  | v (d : BitVec 3) (width : Nat) (elems : List Nat) (old : BitVec 4096)
  | m (d : BitVec 2)
  deriving DecidableEq, Repr

/-- Scope of a fence or an atomic (R95). -/
inductive Scope where
  | strand | cluster | die | package | system
  deriving DecidableEq, Repr

/-- A long-latency operation (R241), with the operands that it read at issue. -/
inductive Op where
  /-- The result is known; only its fill is outstanding. -/
  | compute (fills : List Fill)
  /-- A vector instruction in its core's dispatch queue (`ready`) or in the vector unit (`returned`) (R256). -/
  | vector (fills : List Fill)
  /-- A load of the listed (address, size) parts; `got` holds the bytes already read. -/
  | load (parts : List (Dword × Nat)) (got : List Byte) (into : LoadInto)
  /-- A store of the listed (address, bytes) parts, in order. -/
  | store (parts : List (Dword × List Byte))
  /-- An atomic (R353): address, size, op, operand, compare or ticket word, scope, destination. -/
  | atomic (ea : Dword) (size op : Nat) (x cmp : Dword) (scope : Scope) (d : BitVec 5)
  /-- A RED.ORD contribution (R355); `sent` once it has reached its home. -/
  | redord (ea : Dword) (size : Nat) (x ticket : Dword) (scope : Scope) (d : BitVec 5) (sent : Bool)
  /-- LDF 0, STF 1, LDFP 2, FEGET 3, FESET 4, parked at a local-store word since the given cycle (R349). -/
  | sync (kind : Nat) (ea : Dword) (x : Dword) (d : BitVec 5) (since : Nat)
  /-- CFLUSH of a line or, without an address, CINV (R351). -/
  | cflush (ea : Option Dword)
  /-- RFILL of a register of a slot (R365). -/
  | rfill (target : Nat) (reg : BitVec 5) (x : Dword) (d : BitVec 5)
  /-- MSEND: place word, source address, and the message of `State.msgs` once it is on its way (R368). -/
  | msend (place ea : Dword) (n : Option Nat) (d : BitVec 5)
  /-- MRECV of a mailbox to an address, with the writes of its copy once they have left (R369). -/
  | mrecv (mbox : Nat) (ea : Dword) (writes : Option (List Nat)) (d : BitVec 5)
  /-- QPOP.W parked on the Dealer queue (R373). -/
  | qpopw (d : BitVec 5)
  /-- A mask request `n` at the Armature (R423). -/
  | gmask (n : Nat) (p : BitVec 3)
  /-- An advance: its nodes have yet to be written from an address on, or are on their way; then GCFG of the stream and gd take the
  configuration (R207, R421, R422). -/
  | gadv (nodes : Option (Dword × List Byte)) (writes : List Nat) (stream : Option Nat) (cfg : Dword) (d : BitVec 5)
  /-- A tile frame on its way to its engine queue (R241, R318). -/
  | tcmd (n : Nat)
  /-- An answer awaited from another package to the request with this tag (R33). -/
  | remote (tag : Nat) (d : BitVec 5)
  /-- An instruction that acts at its issue and waits there for an access (R84), with the general registers as it read them. -/
  | deferred (i : Instr) (g : List Dword) (d : BitVec 5)
  /-- The copy of an SCB that an SSTAT took is on its way to an address; gd takes a value (R383). -/
  | copyOut (va : Dword) (bs : List Byte) (x : Dword) (d : BitVec 5)
  deriving DecidableEq, Repr

/-- A stamp (R97). -/
abbrev Stamp := Vector (BitVec 48) 4

/-- What an outstanding operation waits for. -/
inductive OpState where
  | ready                    -- may go on
  | copying (n : Nat)        -- a frame copy of WriteWalk (R80)
  | busy (node : Nat)        -- a BUSY node (R80)
  | returned (fills : List Fill)  -- the value is back; completion fills it
  | after (need : List Stamp) (fills : List Fill)  -- back; its die's view has yet to cover these stamps (R99, R105)
  | gathered (need : Stamp) (fills : List Fill)  -- back, and the acquire at SYSTEM scope waits for its frontier (R102, R105)
  | request (tag : Nat)      -- a Brynry or RDMA answer
  | refused                  -- a refused RED.ORD (R107)
  | parked (n : Nat)         -- a synchronising access that has reached its bank as the n-th (R112)
  | queued                   -- a vector load or store in its core's dispatch queue (R256)
  deriving DecidableEq, Repr

/-- An outstanding long-latency instruction (R240): its number, PC, lookahead, the PCs issued since, its operation, the
registers that it left empty or pending, STATESEL and TENANT at its issue (R70, R321), the last instruction before it that stores
do not merge across (R101), and those of its destinations that were void before it (R239). -/
structure Outst where
  id     : Nat
  seq    : Nat
  pc     : Dword
  la     : Nat
  after  : List Dword
  op     : Op
  dests  : List RegRef
  st     : OpState := .ready
  replay : Bool := false
  remote : Bool := false
  ssel   : Dword := 0
  ten    : Half := 0
  bar    : Nat := 0
  voids  : List RegRef := []
  deriving DecidableEq, Repr

/-- An instruction of the window that received FATAL (R274). -/
structure FatalRec where
  seq    : Nat
  pc     : Dword
  after  : List Dword
  sub    : Byte
  addr   : Dword
  dests  : List RegRef
  replay : Bool := false
  stay   : Bool := false
  deriving DecidableEq, Repr

/-- What a slot holds. -/
inductive Occ where
  | empty | reserved (task : Nat) | active | halted | stopped | migrating (tag : Nat)
  deriving DecidableEq, Repr

/-- The count of a block that KVCMD has still to lower (R223): the die of the stream's SCB home, the package of a TIER 2 entry, the
count's address, the block command and the ADDR to write into it afterwards, and the command's result where it is over. -/
structure KvLow where
  die    : Nat
  pkg    : Option Nat
  va     : Dword
  answer : Option (Dword × Dword)
  result : Nat
  deriving DecidableEq, Repr

/-- One slot of a core. The last fields are the model's own: `gather` is the frontier of a fence at SYSTEM scope that waits
(R102), `seen` what the strand saw at the die it came from (R96), `bar` the last instruction that stores do not merge across
(R101), `rel` the last instruction with a release fence (R102), `owed` the stamps of values that relaxed atomics returned and
that its die has yet to cover (R99, R102), `purity` a PURITY trap whose handler has not returned (R186), `displ` a displacement
that waits (R280), `kvLow` the count that a block command has still to lower at another package (R223), and `waitOn` what the
next instruction waited for when it was last tried (R240, R264). -/
structure Slot where
  g        : Vector Dword 32
  gst      : Vector RegState 32
  v        : Vector (BitVec 4096) 8
  vst      : Vector RegState 8
  m        : Vector (BitVec 512) 4
  mst      : Vector RegState 4
  p        : BitVec 8
  pc       : Dword
  pt       : Bool
  frozen   : Bool
  pmode    : Bool
  mode     : Bool
  trcause  : Dword
  trpc     : Dword
  traddr   : Dword
  trwin    : Dword
  trnpc    : Dword
  trstack  : Dword
  timecmp  : Dword
  tenant   : Half
  org      : Vector Word 3
  sub      : Vector Word 3
  dirty    : Dword
  vdirty   : Dword
  migthr   : Dword
  statesel : Dword
  gramstat : Dword
  kvstat   : Dword
  joinblk  : Dword
  owner    : Dword
  sw       : Bool
  prio     : BitVec 2
  cls      : Bool
  occ      : Occ
  outs     : List Outst
  fatals   : List FatalRec
  due      : Option Trap
  async    : List Trap
  replay   : Option Dword
  sleeping : Option Dword
  sysc     : Nat
  cmd      : Option (Nat × Dword)
  remote   : Vector Half 4
  mark     : Option Nat
  born     : Nat
  uid      : Nat
  seq      : Nat
  gather   : Option Stamp
  seen     : Option Stamp
  bar      : Nat
  rel      : Nat
  owed     : List Stamp
  purity   : Option (Byte × Dword × Dword)
  displ    : Bool
  kvLow    : Option KvLow
  waitOn   : List IssueWait
  deriving DecidableEq, Repr

/-- A strand record (R117) with the number of the strand that it continues (the model's own, for R95),
its age in a run queue (R117), the cluster in whose deque it was pushed (R141), the v register of a MIGV, the
slot's whole context where a displacement made the record (R137), the view that the strand has seen (R96), the stamps of what
its relaxed atomics returned (R99), and its place in a run queue (R249). -/
structure StrandRec where
  pc      : Dword
  pw      : Word
  flags   : Word
  g       : List Dword
  joinblk : Dword
  owner   : Dword
  uid     : Nat := 0
  age     : Nat := 0
  cl      : Nat := 0
  vreg    : Option (BitVec 3 × BitVec 4096) := none
  ctx     : Option Slot := none
  seen    : Option Stamp := none
  owed    : List Stamp := []
  place   : Nat := 0
  deriving DecidableEq, Repr

/-- A tile frame in flight: its words with the patches applied, who issued it and what it read at issue (R318, R425).
`reads` and `writes` are its regions (space, first byte, end; R427), `ringR` and `ringW` those in the range of a ring, with the
ring. `accepted`: it has reached its engine queue. Once it has run, `todo` are the writes still to be made and `pending` those
on their way; `part` counts the tiles made and `count` the units of COUNT, `bytes` what an arrival counter counts; `resv` are
the ring slots that it has reserved and not written; `done` is ESTAT and FSUB; `acc` are the tickets that have not folded, or
the old entries of a COMPACT whose counts go down; `cls` says that the strand's work was guaranteed (R136). -/
structure Cmd where
  n       : Nat
  q       : Nat
  slot    : Nat
  pc      : Dword
  w       : TilePayload
  tenant  : Half
  stream  : Option Nat
  uid     : Nat
  seq     : Nat
  owner   : Dword
  recs    : List (List Byte)
  reads   : List (Nat × Nat × Nat)
  writes  : List (Nat × Nat × Nat)
  ringR   : List (Nat × Nat × Nat × Nat) := []
  ringW   : List (Nat × Nat × Nat × Nat) := []
  target  : Option (Nat × BitVec 5)
  accepted : Bool := false
  part    : Nat := 0
  todo    : List (Dword × List Byte) := []
  started : Bool := false
  count   : Nat := 0
  bytes   : Nat := 0
  resv    : List Nat := []
  done    : Option (Byte × Byte) := none
  counts  : List (Nat × Nat) := []
  pending : List Nat := []
  acc     : List (Nat × Nat) := []
  cls     : Bool := false
  deriving DecidableEq, Repr

/-- One barrel core. `dqHead` is the place of the oldest record of its deque among the 64 in the plinth (R249). -/
structure Core where
  rot       : BitVec 3
  trvec     : Dword
  sleepcfg  : Dword
  asleep    : Bool
  feretry   : Dword
  vcore     : Half
  leaseHeld : Bool
  leaseWait : Bool
  leaseCmds : Nat
  leaseCyc  : Nat
  leaseIdle : Nat
  accmask   : Byte
  evc       : Vector Word 16
  evsel     : Vector Byte 16
  evctr     : BitVec 4
  urgcfg    : Dword
  urg       : Bool
  attuf     : Dword
  savestat  : BitVec 2
  fwd       : Option Nat
  moving    : Bool
  fwdq      : List (Nat × BitVec 5 × Dword × Bool)
  deque     : List StrandRec
  runq      : List StrandRec
  mbox      : Vector (Option (List Byte)) 16
  mpend     : List (Nat × List Byte)
  stage     : Nat
  hold      : Nat
  fmt       : List Byte
  dqHead    : Nat
  deriving DecidableEq, Repr

/-- One operand ring (R250); `writing` are the reserved slots in flight with whether each is written (R251). -/
structure Ring where
  en      : Bool
  base    : Half
  slotsz  : Nat
  nslot   : Nat
  head    : Nat
  tail    : Nat
  free    : Nat
  filled  : Nat
  writing : List Bool
  deriving DecidableEq, Repr

/-- One cluster. -/
structure Cluster where
  rings   : Vector Ring 16
  accHold : Vector (Option Nat) 8
  accLast : Vector (Option Nat) 8
  kend    : Vector Bool 8
  lease   : Option Nat
  lastLease : Nat
  vrot    : Nat
  deriving DecidableEq, Repr

/-- A TLB entry (R81, R83): root tag, base virtual address, log2 of its reach, the leaf entry and EXCL; `core` is none in
a last-level TLB. -/
structure TlbEntry where
  die  : Nat
  core : Option Nat
  root : Nat
  page : Nat
  size : Nat
  leaf : Dword
  excl : Bool
  deriving DecidableEq, Repr

/-- A node descriptor (R77). -/
structure NodeDesc where
  refcnt : Nat
  level  : Nat
  busy   : Bool
  owner  : Half
  deriving DecidableEq, Repr

/-- Key-value entries that lie in a table frame (R222): byte range in the frame, and the tenant, CNTBASE and POOLBLKS of
the table that they belong to. -/
structure KvRange where
  lo     : Nat
  hi     : Nat
  tenant : Half
  cnt    : Dword
  blks   : Nat
  deriving DecidableEq, Repr

/-- A frame descriptor (R77); the bit of the table-frame bitmap of R222 is set where `kv` lists entries. -/
structure FrameDesc where
  refcnt : Nat
  gen    : Word
  pincnt : Nat
  poison : Bool
  side   : Bool
  lq     : Bool
  watch  : Bool
  hv     : Bool
  owner  : Half
  hash1  : Dword
  hash2  : Dword
  kv     : List KvRange := []
  deriving DecidableEq, Repr

/-- The bytes of a write: bytes from an address on, the whole contents of one frame (offset-keyed), or the parts of stores
that merged (R101). -/
inductive WData where
  | bytes (pa : Nat) (bs : List Byte)
  | frame (pa : Nat) (img : Memory)
  | parts (ps : List (Nat × List Byte))
  deriving DecidableEq, Repr

/-- A write that has taken its stamp (R97, R98). `src` is the strand's number, or 0 for a device write; `order` is its
position in the write order once it is performed; `to` are the dies that have yet to apply it. -/
structure Write where
  n         : Nat
  src       : Nat
  die       : Nat
  stamp     : Stamp
  data      : WData
  performed : Bool
  order     : Nat
  todo      : List Nat
  deriving DecidableEq, Repr

/-- Who waits for a translation. -/
inductive Requester where
  | op (slot id : Nat) | fetch (slot : Nat) | issue (slot : Nat) | cmd (n : Nat) | task (n : Nat) | rdma (qp n : Nat)
  | launch (n die : Nat) | stream (id : Nat) | fence (die slot : Nat) | device (n : Nat)
  deriving DecidableEq, Repr

/-- The verdict on a fault (R85). -/
inductive Verdict where
  | retry | remote | fatal (sub : Byte)
  deriving DecidableEq, Repr

/-- A translation fault (R84): the fields of its message, its tag once it has one, the verdict once it is in, and the BUSY
node that its walk holds (R89). -/
structure FaultRec where
  die     : Nat
  req     : Requester
  kind    : Byte
  access  : Byte
  size    : Byte
  level   : Byte
  tenant  : Half
  va      : Dword
  root    : Dword
  wher    : Word
  dest    : Byte
  pc      : Dword
  entry   : Dword
  tag     : Option Nat := none
  verdict : Option Verdict := none
  hold    : Option Nat := none
  deriving DecidableEq, Repr

/-- A frame copy of WriteWalk in progress (R80): the level-0 node held BUSY, the leaf slot, old and fresh frames, the
space root, the page, the number of the write that carries the copy, and the access that began it. -/
structure CopyJob where
  n     : Nat
  node  : Nat
  slot  : Nat
  old   : Nat
  fresh : Nat
  root  : Nat
  page  : Nat
  write : Nat
  who   : Option (Requester × Dword) := none
  deriving DecidableEq, Repr

/-- A tenant (R43). -/
structure Tenant where
  root   : Dword
  key1   : Dword
  key2   : Dword
  quota  : Word
  frames : Word
  qp     : Nat
  locked : Bool
  deriving DecidableEq, Repr

/-- How far a task has come (R119–R131). -/
inductive TaskPhase where
  | forming      -- a batch whose list and card are being written (R162)
  | waiting      -- STATUS 0: predecessors not yet retired
  | queued       -- STATUS 1, in its queue
  | held         -- STATUS 5, its queue is full (R125)
  | popped       -- taken out by a QPOP (R484)
  | hit          -- a Cast hit, whose result is being placed (R194)
  | dispatching  -- a slot is reserved; pinning and fetching (R128)
  | running      -- STATUS 2
  | retiring     -- its copies have left (R129)
  | offering     -- its writes are visible; being offered to the Cast table (R195)
  | releasing    -- its pins are released; STATUS 3 and the successors follow
  | refused      -- it will not start or retire; its fault queue entry waits to be written (R131)
  | unread       -- its card cannot be read or queued; its fault queue entry waits to be written (R121, R123)
  | faulting     -- its fault queue entry stands; STATUS 4 follows (R131)
  | faulted      -- STATUS 4
  deriving DecidableEq, Repr

/-- A task (R119–R131): its card's address and bytes, die and queue, launch, when it became ready, its slot, its pinned
frames, what the Cast unit knows of it, and a PURITY trap of a strand that a SAVE took out of its handler (R186). -/
structure Task where
  n       : Nat
  die     : Nat
  queue   : Nat
  card    : Dword
  img     : List Byte
  tenant  : Half
  launch  : Option Nat
  age     : Nat
  phase   : TaskPhase
  slot    : Nat
  pins    : List Nat
  looked  : Bool
  key     : Option (List Byte)
  reads   : List Nat
  taint   : Bool
  root    : Bool
  uid     : Nat
  strands : Nat
  batch   : Option (Nat × Nat × List Nat)
  stream  : Option Nat
  waits   : List Nat
  part    : Nat
  trap    : Option (Byte × Dword × Dword) := none
  deriving DecidableEq, Repr

/-- A message or record on its way to a core, or to another package (R363, R367, R362), and the station that sends it: a cluster,
or 1,000 + a home bank (R259). -/
structure Msg where
  n      : Nat
  kind   : Nat
  src    : Nat
  uid    : Nat
  core   : Nat
  mbox   : Nat
  bytes  : List Byte
  record : Option StrandRec
  join   : Option (Nat × Dword)
  device : Bool
  since  : Nat
  stn    : Option Nat := none
  deriving DecidableEq, Repr

/-- A request, message or command that has arrived and is not yet dealt with: its kind (a Brynry TYPE, 0x20 + n for a RoCE
operation, 0x40 for a CKPTREQ), what arrived, how far it has come, and the writes that it made. -/
structure Inbound where
  n      : Nat
  kind   : Nat
  args   : StepArgs
  stage  : Nat := 0
  writes : List Nat := []
  value  : List Byte := []
  deriving DecidableEq, Repr

/-- A drain (R93, R180): its direction mask, when it last sent a packet, frames being sent with the tags of their packets,
the page-table frames still to be sent with their contents at the cut, whether it has failed, and the frames that a held write
waits for, which it sends first. -/
structure Drain where
  mask   : Byte
  since  : Nat
  busy   : List (Nat × List Nat)
  tables : List (Nat × Memory)
  failed : Bool
  first  : List Nat := []
  deriving DecidableEq, Repr

/-- A packet that waits at a die for a port (R21, R25): the direction, port and virtual channel whose receiving buffer holds
it, or none where this package sends it. -/
structure Egress where
  die  : Nat
  link : Option (Nat × Nat × Nat)
  pkt  : Packet
  deriving DecidableEq, Repr

/-- A request sent on Brynry or RDMA that awaits its answer (R26, R33, R38). -/
structure Request where
  die   : Nat
  tag   : Nat
  dst   : Nat
  opc   : Nat
  since : Nat
  who   : Requester
  uid   : Nat
  bytes : List Byte
  answer : Option (Byte × List Byte)
  deriving DecidableEq, Repr

/-- A launch queue (R47). -/
structure LaunchQueue where
  tenant    : Half
  base      : Dword
  depth     : Nat
  qp        : Nat
  head      : Nat
  expseq    : Word
  completed : Word
  arms      : List Bool
  overrun   : Nat
  lost      : Nat
  frames    : List Nat
  deriving DecidableEq, Repr

/-- A launch in progress (R55, R56): its packet and what each die has done. `next` and `ended` count the strands that a
SWEEP worker has started and ended, `live` the strands of each tile, and `bad` the tiles that wait on the fault queue.
`reason` is that of a rejection (R54), `done` says that it has completed and waits for its predecessors in the queue, `mark` is
the place in the write order at which its arm word was full, `posted` are the cards of a GRAPH that have become ready, `stage`
and `waits` are how far its completion has come and the writes that it waits for, and `held` lists the workers whose next strand
waits at the launch unit for its run queue, with the cycle since which it does (R137, R139). -/
structure Launch where
  n        : Nat
  q        : Nat
  slot     : Nat
  seq      : Word
  pkt      : List Byte
  tenant   : Half
  home     : Nat
  started  : List Nat
  finished : List Nat
  next     : Table Nat
  ended    : Table Nat
  live     : Table Nat
  bad      : List Nat
  faults   : Nat
  start    : Nat
  step     : Table Nat
  aborted  : Bool
  reason   : Byte := 0
  done     : Bool := false
  mark     : Nat := 0
  posted   : List Dword := []
  waits    : List Nat := []
  stage    : Nat := 0
  held     : Table Nat := []
  deriving DecidableEq, Repr

/-- A SYSCALL entry of a die (R59). -/
structure SysEntry where
  gen    : BitVec 22
  slot   : Nat
  reg    : BitVec 5
  launch : Option Nat
  busy   : Bool
  deriving DecidableEq, Repr

/-- What leaves the device (log entry 3); the tag of a RoCE operation is that of its request. -/
inductive Out where
  | frame (qp : Nat) (bs : List Byte)       -- a RoCE SEND message
  | rdmaWrite (qp : Nat) (va : Dword) (bs : List Byte)
  | rdmaRead (qp tag : Nat) (va : Dword) (len : Nat)
  | rdmaAtomic (qp tag : Nat) (va : Dword) (cas : Bool) (x y : Dword)
  | rdmaAnswer (qp psn : Nat) (status : Byte) (bs : List Byte)  -- 0: acknowledgement or response; 1 + n: NAK of code n
  | cnp (qp : Nat)                          -- a congestion notification packet
  | packet (dir port : Nat) (pkt : Packet)  -- a Brynry packet on a port of a direction
  | credits (dir port vc n : Nat)           -- credits that a receiving buffer returns (R25)
  | answer (bs : List Byte)                 -- a management answer
  | event (code : Nat) (bs : List Byte)     -- a management event
  | readout (bs : List Byte)
  deriving DecidableEq, Repr

/-- A RoCE queue pair (R38–R42): its send rate as a part of the port rate, when it was last halved and when a notification
or a raise last came, and the messages sent and not acknowledged, each with its last packet's number and the die and tag of its
request; its path MTU, the priority on which it sends, its timeout in cycles and its retry count as they are set, the retries
made and when the last one or the last acknowledgement was, and the frames that a paused priority holds. Of what comes in: the
packet number expected next, whether its loss has been reported, and the answers of the last 16 atomics, for one that comes
again. -/
structure QueuePair where
  opened : Bool
  addr   : BitVec 128
  tenant : Half
  psn    : Nat
  rate   : Rat
  lastCut : Option Nat
  lastCnp : Nat
  pend   : List (Nat × Nat × Nat × Out)
  mtu    : Nat := 4096
  prio   : Nat := 0
  timeout : Nat := 0
  retries : Nat := 7
  tries  : Nat := 0
  since  : Nat := 0
  wait   : List Out := []
  epsn   : Nat := 0
  nakked : Bool := false
  done   : List (Nat × List Byte) := []
  deriving DecidableEq, Repr

/-- A remote key (R40): its region and the rights that it grants. -/
structure RemoteKey where
  tenant : Half
  base   : Dword
  len    : Dword
  read   : Bool
  write  : Bool
  atomic : Bool
  deriving DecidableEq, Repr

/-- An open RED.ORD sequence (R355). -/
structure RedSeq where
  addr : Nat
  bank : Nat
  next : Nat
  deriving DecidableEq, Repr

/-- A held RED.ORD contribution (R355); `uid` is the number of the strand that made it, or 0. -/
structure RedHeld where
  addr   : Nat
  bank   : Nat
  die    : Nat
  size   : Nat
  ticket : Nat
  last   : Nat
  x      : Dword
  stamp  : Stamp
  who    : Option (Nat × Nat)
  cmd    : Option Nat
  uid    : Nat := 0
  deriving DecidableEq, Repr

/-- A loaded grammar (R203): its tenant, its image, the frames that hold it, and whether an unload waits. -/
structure Grammar where
  tenant    : Half
  img       : List Byte
  frames    : List Nat
  unloading : Bool
  deriving DecidableEq, Repr

/-- An arena entry that is not FREE (R211): COMMITTING while `slot` names the slot whose commit runs, with the streams that
it lists and the node writes that are on their way (R213). -/
structure Arena where
  tenant : Half
  base   : Dword
  cur    : Bool
  next   : Nat
  slot   : Option Nat
  ids    : List Nat
  waits  : List Nat
  deriving DecidableEq, Repr

/-- A mask request at an Armature (R208). -/
structure MaskReq where
  n      : Nat
  die    : Nat
  slot   : Nat
  cfg    : Dword
  ea     : Dword
  stream : Option Nat
  done   : Option Bool
  writes : List Nat
  deriving DecidableEq, Repr

/-- One valid Cast entry (R191), with the frames that its result list names (R192). -/
structure CastEntry where
  key     : List Byte
  tenant  : Half
  len0    : Nat
  len1    : Nat
  hits    : Nat
  list    : Nat
  lastuse : Nat
  res0    : List Nat
  res1    : List Nat
  reads   : List Nat
  deriving DecidableEq, Repr

/-- A stream migration (R177, R178): at the sender the pages still to go, how far the current one has come and the tags
of its requests; at the receiver the new space. -/
structure Transfer where
  n      : Nat
  die    : Nat
  peer   : Nat
  id     : Nat
  tenant : Half
  root   : Nat
  pages  : List Nat
  reply  : Dword
  stage  : Nat
  tags   : List Nat
  since  : Nat
  deriving DecidableEq, Repr

/-- A page request or settle time (R60–R62). -/
structure PageState where
  tenant : Half
  va     : Dword
  frame  : Nat
  asked  : Bool
  limit  : Nat
  deriving DecidableEq, Repr

/-- A stream on the layer board (R161): its group and when it joined. -/
structure BoardEntry where
  model : Nat
  layer : Nat
  id    : Nat
  since : Nat
  deriving DecidableEq, Repr

/-- A batch slot, or a recompute slot, of a model in use on a die (R162, R175). -/
structure BatchSlot where
  model : Nat
  slot  : Nat
  recomp : Bool
  deriving DecidableEq, Repr

/-- A sibling group (R167): its 64 bytes, and the members that ATHOR counts (R169). -/
structure Group where
  img     : List Byte
  counted : List Nat
  deriving DecidableEq, Repr

/-- One die. -/
structure Die where
  view    : Stamp
  issued  : BitVec 48
  schedRes : BitVec 2
  late    : Word
  evcfg   : Dword
  evlow   : Dword
  evictions : Word
  strmRes : BitVec 4
  caststat : Dword
  lsbase  : Dword
  queues  : Table (List Nat)
  held    : List Nat
  faultq  : List (List Byte)
  faultWait : List (List Byte × Option Nat)
  dealer  : List Dword
  schedErr : Nat
  drops   : Nat
  linkErr : Nat
  deck    : List StrandRec
  stages  : Table (List Byte)
  lastCore : Table Nat
  resvCtr : Table (Nat × Nat × Nat)
  board   : List BoardEntry
  batches : List BatchSlot
  evicted : List Nat
  round   : Bool
  inval   : List Nat
  maskq   : List MaskReq
  sysc    : Table SysEntry
  touched : List Nat
  sent    : Table Nat
  performed : Table Nat
  deriving DecidableEq, Repr

/-- Why the device is frozen (R14). -/
structure Freeze where
  pin     : Bool
  aigon   : Bool
  thermal : Bool
  current : Bool
  edges   : Option Nat
  thermalOk : Bool
  currentOk : Bool
  aigonOk : Bool
  deriving DecidableEq, Repr

/-- One turn of the agenda: a device step, the issue turn of a core, a home bank that frees a table frame (R222), or the
passing of cycles (log entry 1). -/
inductive Turn where
  | step (i : Instr) (a : StepArgs)
  | core (c : Nat)
  | home (frame : Nat)
  | elapse (cycles : Nat)
  deriving DecidableEq, Repr

/-- The whole part. Tables list only the objects that differ from their reset value. `regions` gives the first frame of each
region that the firmware reserves in device space (R77, R179), numbered 4 · region + die. -/
structure State where
  agenda  : List Turn
  focus   : Nat
  ev      : StepArgs
  freeCtr : Nat
  nextN   : Nat
  out     : List Out
  slots   : Table Slot
  cores   : Table Core
  clusters : Table Cluster
  dies    : Table Die
  mem     : Memory
  ls      : Memory
  feEmpty : List Nat
  lsStamp : Table Stamp
  acc     : Memory
  timer   : Dword
  poolsz  : Nat
  torus   : Nat × Nat × Nat × Nat
  pkgid   : BitVec 16
  pkgBurnt : Bool
  fuseVer : Nat
  fuseKey : List Byte
  images  : List DieImage
  linkup  : Dword
  draining : List Nat
  credits : Table Nat
  crcFails : Table Nat
  linkHeld : List Turn
  pause   : List (Nat × Nat)
  pwr     : Dword
  freeze  : Freeze
  boot    : Nat
  ckgen   : Word
  ckrecv  : Dword
  tier    : Option (BitVec 16 × Dword × Dword)
  drain   : Option Drain
  side    : Table Nat
  heldFree : List Nat
  nodes   : Table NodeDesc
  frames  : Table FrameDesc
  copies  : List CopyJob
  tlb     : List TlbEntry
  writes  : List Write
  orderN  : Nat
  faults  : List FaultRec
  requests : List Request
  inbox   : List Inbound
  egress  : List Egress
  seqs    : List RedSeq
  redHeld : List RedHeld
  redFly  : List (Nat × RedHeld × Bool)
  tenants : Table Tenant
  qps     : Table QueuePair
  rkeys   : Table RemoteKey
  lqs     : Table LaunchQueue
  launches : List Launch
  tasks   : List Task
  msgs    : List Msg
  waiting : Table (Nat × Option Stamp)
  cmds    : List Cmd
  resv    : Table (List Byte)
  resvLive : Table Nat
  scbs    : Table (List Byte)
  models  : Table (List Byte)
  groups  : Table Group
  moves   : List Transfer
  arrivals : List Transfer
  castcfg : Dword
  cast    : Table CastEntry
  watch   : Table (List Nat)
  grams   : Table Grammar
  arenas  : Table Arena
  kvFree  : List Nat
  pages   : List PageState
  regions : Table Nat
  deriving DecidableEq, Repr

/-- A slot of core `c` as reset leaves it (R269, R246, R70; log entry 4 for the values the spec does not give). -/
def Slot.reset (k : Nat) : Slot where
  g := Vector.replicate 32 0
  gst := Vector.replicate 32 .full
  v := Vector.replicate 8 0
  vst := Vector.replicate 8 .full
  m := Vector.replicate 4 0
  mst := Vector.replicate 4 .full
  p := 1
  pc := 0
  pt := false
  frozen := false
  pmode := false
  mode := false
  trcause := 0
  trpc := 0
  traddr := 0
  trwin := 0
  trnpc := 0
  trstack := BitVec.ofNat 64 (0xFFFFFFFFFC0000 + k / 8 % 4 * 0x10000 + 0xF000 + (k % 8 + 1) * 0x200)
  timecmp := 0
  tenant := 0
  org := Vector.replicate 3 0
  sub := Vector.replicate 3 0
  dirty := 0
  vdirty := 0
  migthr := 0x400
  statesel := 0
  gramstat := 0
  kvstat := 0
  joinblk := 0
  owner := 0
  sw := false
  prio := 0
  cls := false
  occ := .empty
  outs := []
  fatals := []
  due := none
  async := []
  replay := none
  sleeping := none
  waitOn := []
  sysc := 0
  cmd := none
  remote := Vector.replicate 4 0
  mark := none
  born := 0
  uid := 0
  seq := 0
  gather := none
  seen := none
  bar := 0
  rel := 0
  owed := []
  purity := none
  displ := false
  kvLow := none

/-- The format context at package reset: AFMT = BFMT = 8, zeros elsewhere (R437). -/
def resetContext : List Byte := 8 :: 8 :: List.replicate 126 0

/-- Core `c` as reset leaves it (R269, R265, R321, R255, R266, R148, R143). -/
def Core.reset (c : Nat) : Core where
  rot := 0
  trvec := BitVec.ofNat 64 (0xE000 + c % 4 * 0x10000)
  sleepcfg := 0
  asleep := false
  feretry := 0x00100000
  vcore := BitVec.ofNat 16 c
  leaseHeld := false
  leaseWait := false
  leaseCmds := 0
  leaseCyc := 0
  leaseIdle := 0
  accmask := 0
  evc := Vector.replicate 16 0
  evsel := Vector.replicate 16 0
  evctr := 0
  urgcfg := 0
  urg := false
  attuf := 0
  savestat := 0
  fwd := none
  moving := false
  fwdq := []
  deque := []
  runq := []
  mbox := Vector.replicate 16 none
  mpend := []
  stage := 0
  hold := 0
  fmt := resetContext
  dqHead := 0

/-- A ring as reset leaves it (R250). -/
def Ring.reset : Ring := ⟨false, 0, 0, 0, 0, 0, 0, 0, []⟩

/-- A cluster as reset leaves it. -/
def Cluster.reset : Cluster where
  rings := Vector.replicate 16 Ring.reset
  accHold := Vector.replicate 8 none
  accLast := Vector.replicate 8 none
  kend := Vector.replicate 8 false
  lease := none
  lastLease := 3
  vrot := 3

/-- A die as reset leaves it (R148, R183, R198). -/
def Die.reset : Die where
  view := Vector.replicate 4 0
  issued := 0
  schedRes := 0
  late := 0
  evcfg := 0x133B001001
  evlow := 0
  evictions := 0
  strmRes := 0
  caststat := 0
  lsbase := 0
  queues := []
  held := []
  faultq := []
  faultWait := []
  dealer := []
  schedErr := 0
  drops := 0
  linkErr := 0
  deck := []
  stages := []
  lastCore := []
  resvCtr := []
  board := []
  batches := []
  evicted := []
  round := false
  inval := []
  maskq := []
  sysc := []
  touched := []
  sent := []
  performed := []

/-- The part right after package reset. -/
def State.reset : State where
  agenda := []
  focus := 0
  ev := {}
  freeCtr := 0
  nextN := 1
  out := []
  slots := []
  cores := []
  clusters := []
  dies := []
  mem := []
  ls := []
  feEmpty := []
  lsStamp := []
  acc := []
  timer := 0
  poolsz := Config.poolsz.val
  torus := (Config.torus 0, Config.torus 1, Config.torus 2, Config.torus 3)
  pkgid := Config.pkgid
  pkgBurnt := true
  fuseVer := Config.fuseVersion
  fuseKey := Sha.sha512 Config.vendorKey
  images := (List.range 4).map fun d => ⟨Config.imageBytes d, Config.vendorKey, true, Config.fuseVersion⟩
  linkup := 0
  draining := []
  credits := []
  crcFails := []
  linkHeld := []
  pause := []
  pwr := 0
  freeze := ⟨false, false, false, false, none, false, false, false⟩
  boot := 0
  ckgen := 0
  ckrecv := 0
  tier := none
  drain := none
  side := []
  heldFree := []
  nodes := []
  frames := []
  copies := []
  tlb := []
  writes := []
  orderN := 0
  faults := []
  requests := []
  inbox := []
  egress := []
  seqs := []
  redHeld := []
  redFly := []
  tenants := []
  qps := []
  rkeys := []
  lqs := []
  launches := []
  tasks := []
  msgs := []
  waiting := []
  cmds := []
  resv := []
  resvLive := []
  scbs := []
  models := []
  groups := []
  moves := []
  arrivals := []
  castcfg := 0
  cast := []
  watch := []
  grams := []
  arenas := []
  kvFree := []
  pages := []
  regions := (List.range 36).map fun i => (i, Config.tableBase i)

end Sys2Proof.Machine
end

