-- ==== Sys2Proof/WellFormed.lean ====
section
/-! DEFINITION. Which instructions are well formed: the operand limits of R313 that the encoding alone does not rule out. -/

namespace Sys2Proof

/-- The cases of R313, in the order of their subcodes. -/
inductive IllegalCode where
  | major | rsvMajor | func | rsvField | operand | queue | patchMap | tileOp | tileQ | csrNum
  deriving DecidableEq, Repr

/-- The ILLEGAL subcode of a case (R313). -/
def IllegalCode.subcode : IllegalCode → Byte
  | .major => 0x01 | .rsvMajor => 0x02 | .func => 0x03 | .rsvField => 0x04 | .operand => 0x05
  | .queue => 0x06 | .patchMap => 0x07 | .tileOp => 0x08 | .tileQ => 0x09 | .csrNum => 0x0A

/-- FCVT kinds that R343 marks ILLEGAL: kind 7, and equal integer kinds. -/
def fcvtFuncBad (src dst : BitVec 3) : Bool :=
  src == 7 || dst == 7 || src == dst || (decide (src.toNat < 4) && decide (dst.toNat < 4))

/-- A control register number that R322 assigns. -/
def csrAssigned (n : BitVec 12) : Bool :=
  let k := n.toNat
  k ≤ 0x006 || (0x008 ≤ k && k ≤ 0x00B) || (0x010 ≤ k && k ≤ 0x015) || (0x018 ≤ k && k ≤ 0x01D) || k == 0x020 ||
  (0x030 ≤ k && k ≤ 0x040) || k == 0x060 || k == 0x061 || k == 0x070 || (0x080 ≤ k && k ≤ 0x088) ||
  k == 0x08A || k == 0x08B || (0x090 ≤ k && k ≤ 0x094) || k == 0x0A0 || k == 0x0A1 || k == 0x0A8 || k == 0x0A9 ||
  (0x0B0 ≤ k && k ≤ 0x0B2) || (0x0C0 ≤ k && k ≤ 0x0D0) || (0x0E0 ≤ k && k ≤ 0x0E3)

/-- The number that CSRR, CSRW, CSRS and CSRC encode: function bits, a and b (R387). -/
def csrNumber (k : BitVec 2) (n m : BitVec 5) : BitVec 12 := k ++ n ++ m

/-- The case `e` when `c` holds. -/
def illegalIf (c : Bool) (e : IllegalCode) : Option IllegalCode := if c then some e else none

/-- Integer element types (R396). -/
def typeInt (t : BitVec 3) : Bool := t.toNat ≤ 3
/-- Floating-point element types (R397). -/
def typeFp (t : BitVec 3) : Bool := 4 ≤ t.toNat && t.toNat ≤ 6
/-- The 4- and 8-byte element types (R399). -/
def typeWide (t : BitVec 3) : Bool := t == 2 || t == 3 || t == 5 || t == 6

/-- Width in bits of an element type (R315). -/
def typeWidth (t : BitVec 3) : Nat :=
  match t with
  | 0 => 8 | 1 => 16 | 2 => 32 | 3 => 64 | 4 => 16 | 5 => 32 | 6 => 64 | _ => 8

/-- Width in bits of a format code 0–12 (R285). -/
def formatWidth (c : Nat) : Nat :=
  if c = 0 ∨ c = 4 ∨ c = 11 ∨ c = 12 then 8 else if c = 1 ∨ c = 5 ∨ c = 8 then 16
  else if c = 2 ∨ c = 6 ∨ c = 9 then 32 else if c = 13 then 4 else 64

/-- How many parts the wider register of a VCVT is cut into (R408). -/
def cvtRatio (t : BitVec 3) (c : BitVec 4) : Nat :=
  let a := typeWidth t; let b := formatWidth c.toNat
  if a ≤ b then b / a else a / b

/-- The checks of VCVT (R408), in the order of their subcodes. -/
def vcvtIllegal (p t : BitVec 3) (x : BitVec 1) (u : BitVec 2) (v : BitVec 1) (c : BitVec 4) : Option IllegalCode :=
  let srcInt := typeInt t
  let dstInt := c.toNat ≤ 7
  if (typeFp t && v == 1) || (srcInt && dstInt && u != 0) || (srcInt && !dstInt && c.toNat ≤ 12 && x == 1) then some .rsvField
  else illegalIf (13 ≤ c.toNat || cvtRatio t c ≤ p.toNat) .operand

/-- The checks of a TCMD word (R313): queue, then patch map. -/
def tcmdIllegal (a b : BitVec 5) (q : BitVec 5) (h : BitVec 4) : Option IllegalCode :=
  let pa := h.extractLsb' 0 2; let pb := h.extractLsb' 2 2
  if 4 ≤ q.toNat then some .queue
  else illegalIf (pa == 3 || pb == 3 || (pa == pb && pa != 0) || (pa == 0 && a != 0) || (pb == 0 && b != 0)) .patchMap

/-- The lowest-numbered case of R313 that an instruction's operands break; `none` when it is well formed. -/
def Instr.illegal : Instr → Option IllegalCode
  | .cmp _ _ _ _ k => illegalIf (5 < k.toNat) .func
  | .cmpi _ _ _ k _ => illegalIf (5 < k.toNat) .func
  | .fcmp _ _ _ _ _ k => illegalIf (4 < k.toNat) .func
  | .fcvt _ _ _ t _ u c =>
    if fcvtFuncBad u c then some .func else illegalIf (t == 1 && (u.toNat < 4 || c.toNat < 4)) .operand
  | .pref v _ _ _ _ => illegalIf (1 < v.toNat) .operand
  | .fenceRel _ c | .fenceAcq _ c | .fenceFull _ c => illegalIf (4 < c.toNat) .operand
  | .migr d _ _ | .migv d _ _ _ | .park d _ => illegalIf (12 < d.toNat) .operand
  | .csrr _ n m _ k | .csrw _ n m _ k | .csrs _ n m _ k | .csrc _ n m _ k =>
    illegalIf (!csrAssigned (csrNumber k n m)) .csrNum
  | .csrfi _ _ _ c => illegalIf (!csrAssigned c) .csrNum
  | .vadd _ _ _ _ t _ | .vsub _ _ _ _ t _ | .vmul _ _ _ _ t _ | .vmulh _ _ _ _ t _ | .vmulhn _ _ _ _ t _
  | .vand _ _ _ _ t _ | .vor _ _ _ _ t _ | .vxor _ _ _ _ t _ | .vshl _ _ _ _ t _ | .vshr _ _ _ _ t _
  | .vsra _ _ _ _ t _ | .vmin _ _ _ _ t _ | .vmax _ _ _ _ t _ | .vminn _ _ _ _ t _ | .vmaxn _ _ _ _ t _
  | .vadds _ _ _ _ t _ | .vaddsn _ _ _ _ t _ | .vsubs _ _ _ _ t _ | .vsubsn _ _ _ _ t _ =>
    illegalIf (!typeInt t) .operand
  | .vfadd _ _ _ _ t _ | .vfsub _ _ _ _ t _ | .vfmul _ _ _ _ t _ | .vfma _ _ _ _ t _ | .vfdiv _ _ _ _ t _
  | .vfmin _ _ _ _ t _ | .vfmax _ _ _ _ t _ => illegalIf (!typeFp t) .operand
  | .vfsqrt _ _ _ t _ | .vexp2 _ _ _ t _ | .vlog2 _ _ _ t _ | .vrcp _ _ _ t _ | .vrsq _ _ _ t _ =>
    illegalIf (!typeFp t) .operand
  | .vlds _ _ _ _ t _ | .vsts _ _ _ _ t _ | .vldx _ _ _ _ t _ | .vstx _ _ _ _ t _ =>
    illegalIf (!typeWide t) .operand
  | .vrsum _ _ _ t _ | .vrmin _ _ _ t _ | .vrmax _ _ _ t _ => illegalIf (t == 7) .operand
  | .vrminn _ _ _ t _ | .vrmaxn _ _ _ t _ | .vrand _ _ _ t _ | .vror _ _ _ t _ | .vrxor _ _ _ t _
  | .viota _ _ t _ => illegalIf (!typeInt t) .operand
  | .vscan _ _ _ t _ | .vscanmax _ _ _ t _ => illegalIf (t == 0 || t == 7) .operand
  | .vtopk _ _ _ _ t _ => illegalIf (t != 2 && t != 5) .operand
  | .vperm _ _ _ _ t _ => illegalIf (t == 0 || t == 7) .operand
  | .vcmp _ _ _ _ t _ k => if 5 < k.toNat then some .func else illegalIf (!typeInt t) .operand
  | .vfcmp _ _ _ _ t _ k => if 4 < k.toNat then some .func else illegalIf (!typeFp t) .operand
  | .vcvt _ _ p _ t _ x u v c => vcvtIllegal p t x u v c
  | .tcmd a b _ _ q h _ => tcmdIllegal a b q h
  | _ => none

/-- Well formed: no case of R313 applies. A device step that is no instruction word is always well formed. -/
def Instr.wf (i : Instr) : Bool := i.illegal.isNone

end Sys2Proof
end

