-- ==== Sys2Proof/Machine/Operands.lean ====
section
/-! DEFINITION. Operand forms: immediates, field words, place words, effective addresses, vector elements and the pieces
of a dword that records and control registers are made of (R308, R332, R345, R358, R393). -/

namespace Sys2Proof.Machine

/-- Bits hi..lo of a dword as a number. -/
def bits (x : Dword) (hi lo : Nat) : Nat := x.toNat / 2 ^ lo % 2 ^ (hi + 1 - lo)

/-- A dword with bits hi..lo replaced by the low bits of a number. -/
def setBits (x : Dword) (hi lo v : Nat) : Dword :=
  BitVec.ofNat 64 (x.toNat - bits x hi lo * 2 ^ lo + v % 2 ^ (hi + 1 - lo) * 2 ^ lo)

/-- A number as a dword. -/
def dw (n : Nat) : Dword := BitVec.ofNat 64 n

/-- SignExtend(x, n) of an n-bit field (R330). -/
def sext {n : Nat} (x : BitVec n) : Dword := x.signExtend 64
/-- ZeroExtend (R330). -/
def zext {n : Nat} (x : BitVec n) : Dword := x.setWidth 64

/-- A number of `w` bits read as two's complement (R286). -/
def toI (w x : Nat) : Int := if x % 2 ^ w < 2 ^ (w - 1) then (x % 2 ^ w : Nat) else (x % 2 ^ w : Nat) - 2 ^ w
/-- An integer as a pattern of `w` bits (R287). -/
def ofI (w : Nat) (z : Int) : Nat := (z % 2 ^ w).toNat

/-- POS and width of the field that a field word names (R332). -/
def fieldPos (w : Dword) : Nat := bits w 5 0
def fieldWidth (w : Dword) : Nat := min 63 (fieldPos w + bits w 13 8) - fieldPos w + 1

/-- The field of `x` that a field word names (R332). -/
def fieldOf (x w : Dword) : Nat := x.toNat / 2 ^ fieldPos w % 2 ^ fieldWidth w

/-- Effective address of format M (R345). -/
def effAddr (base : Dword) (off : BitVec 9) (size : Nat) : Dword := base + sext off * dw size

/-- Slot number from die, cluster, core and slot. -/
def slotIndex (die cluster core slot : Nat) : Nat := ((die * 40 + cluster) * 4 + core) * 8 + slot
/-- The core, cluster and die of a slot. -/
def coreOf (k : Nat) : Nat := k / 8
def clusterOf (k : Nat) : Nat := k / 32
def dieOf (k : Nat) : Nat := k / 1280

/-- The fields of a place word (R358). -/
def placePkg (w : Dword) : Nat := bits w 47 32
def placeCluster (w : Dword) : Nat := bits w 21 16
def placeCore (w : Dword) : Nat := (bits w 25 24 * 40 + placeCluster w) * 4 + bits w 13 12
def placeSlot (w : Dword) : Nat := placeCore w * 8 + bits w 10 8

/-- The place word of a slot (R366). -/
def placeWord (pkg : BitVec 16) (k : Nat) : Dword :=
  dw (pkg.toNat * 2 ^ 32 + k / 1280 * 2 ^ 24 + k / 32 % 40 * 2 ^ 16 + k / 8 % 4 * 2 ^ 12 + k % 8 * 2 ^ 8)

/-- WHERE of a fault message or entry: die, cluster, core, slot (R84, R131). -/
def whereWord (k : Nat) : Word :=
  BitVec.ofNat 32 (k / 1280 * 2 ^ 24 + k / 32 % 40 * 2 ^ 16 + k / 8 % 4 * 2 ^ 8 + k % 8)

/-- Element i of a vector register whose elements have `w` bits (R393). -/
def elem (x : BitVec 4096) (w i : Nat) : Nat := (x.extractLsb' (w * i) w).toNat

/-- The register whose elements of `w` bits are the listed numbers. -/
def ofElems (w : Nat) (xs : List Nat) : BitVec 4096 :=
  BitVec.ofNat 4096 (xs.foldr (fun e acc => acc * 2 ^ w + e % 2 ^ w) 0)

/-- Number of elements of `w` bits (R315). -/
def elemCount (w : Nat) : Nat := 4096 / w

/-- The register `old` with element i replaced where the mask enables it (R314). -/
def mapActive (w : Nat) (mask : BitVec 512) (old : BitVec 4096) (f : Nat → Nat) : BitVec 4096 :=
  ofElems w ((List.range (elemCount w)).map fun i => if mask.getLsbD i then f i else elem old w i)

/-- Little-endian fields of a byte record. -/
def rd (r : List Byte) (off n : Nat) : Nat := leNat ((r.drop off).take n)
def wr (r : List Byte) (off n v : Nat) : List Byte := r.take off ++ leBytes n v ++ r.drop (off + n)

/-- The own-window address of a local-store offset (R67). -/
def ownAddr (off : Nat) : Dword := dw (0xFFFFFFFFC00000 + off)

end Sys2Proof.Machine
end

