-- ==== Sys2Proof/Machine/Flags.lean ====
section
/-! DEFINITION. Conditions and the values of arithmetic: the compare codes of R337 and R341, integer arithmetic of R287,
and the scalar and vector operations on patterns. -/

namespace Sys2Proof.Machine

/-- Comparison of two patterns of `w` bits under a condition code (R337). -/
def intCond (w : Nat) (k : Nat) (x y : Nat) : Bool :=
  match k with
  | 0 => x == y
  | 1 => x != y
  | 2 => decide (toI w x < toI w y)
  | 3 => decide (toI w x ≥ toI w y)
  | 4 => decide (x < y)
  | _ => decide (x ≥ y)

/-- Floating-point comparison under a condition code (R341). -/
def fpCond (f : Fp.Fmt) (k : Nat) (x y : Nat) : Bool :=
  let a := f.val x; let b := f.val y
  let un := a.isNan || b.isNan
  match k with
  | 0 => !un && Fp.veq a b
  | 1 => un || !Fp.veq a b
  | 2 => !un && Fp.vlt a b
  | 3 => !un && (Fp.vlt a b || Fp.veq a b)
  | _ => un

/-- Division of patterns of 64 bits (R287): signed or not, quotient or remainder. -/
def divide (signed rem : Bool) (x y : Nat) : Nat :=
  if y = 0 then (if rem then x else 2 ^ 64 - 1)
  else if signed then
    let a := toI 64 x; let b := toI 64 y
    ofI 64 (if rem then a.tmod b else a.tdiv b)
  else if rem then x % y else x / y

/-- Number of leading zero bits of a dword (R331). -/
def clz (x : Dword) : Nat := if x = 0 then 64 else 63 - x.toNat.log2
/-- Number of trailing zero bits among the bits from `i` on. -/
def ctzFrom (x : Dword) : Nat → Nat
  | 0 => 0
  | n + 1 => if x.getLsbD (63 - n) then 63 - n else ctzFrom x n
/-- Number of trailing zero bits of a dword (R331). -/
def ctz (x : Dword) : Nat := if x = 0 then 64 else ctzFrom x 64
/-- Number of set bits below `n`. -/
def popBelow {w : Nat} (x : BitVec w) : Nat → Nat
  | 0 => 0
  | n + 1 => popBelow x n + (if x.getLsbD n then 1 else 0)
/-- Bit i of the result is bit 63 − i of the operand (R331). -/
def brev (x : Dword) : Dword := x.reverse

/-- An integer clamped to a signed or unsigned range (R287, SAT). -/
def clampI (w : Nat) (signed : Bool) (z : Int) : Nat :=
  if signed then ofI w (max (-(2 ^ (w - 1) : Int)) (min z (2 ^ (w - 1) - 1))) else ofI w (max 0 (min z (2 ^ w - 1)))

/-- The floating-point format of an element type 4–6 (R315). -/
def fmtOfType (t : BitVec 3) : Fp.Fmt := if t = 4 then Fp.bf16 else if t = 5 then Fp.f32 else Fp.f64

/-- The floating-point format of a format code 8–12 (R285). -/
def fmtOfCode (c : Nat) : Fp.Fmt :=
  if c = 8 then Fp.bf16 else if c = 9 then Fp.f32 else if c = 10 then Fp.f64 else if c = 11 then Fp.e4m3 else Fp.e5m2

/-- A format code is an integer format, and a signed one (R285). -/
def codeInt (c : Nat) : Bool := decide (c < 8)
def codeSigned (c : Nat) : Bool := decide (c < 4)

/-- Conversion between two formats given by their codes (R287, R294, R295). -/
def convert (src dst : Nat) (rm : Fp.Rm) (sat : Bool) (x : Nat) : Nat :=
  let ws := formatWidth src; let wd := formatWidth dst
  if codeInt src then
    let z : Int := if codeSigned src then toI ws x else (x % 2 ^ ws : Nat)
    if codeInt dst then (if sat then clampI wd (codeSigned dst) z else ofI wd z)
    else (fmtOfCode dst).ofVal rm sat (Fp.ofInt z)
  else
    let v := (fmtOfCode src).val x
    if codeInt dst then ofI wd (Fp.toIntClamp rm wd (codeSigned dst) v)
    else (fmtOfCode dst).ofVal rm sat v

/-- The value of an atomic (R353): the new memory value from the old one, the operand and the compare value. -/
def atomicValue (size op : Nat) (old x cmp : Nat) : Nat :=
  let w := 8 * size
  let x := x % 2 ^ w
  let f := if size = 4 then Fp.f32 else Fp.f64
  match op with
  | 0 => (old + x) % 2 ^ w
  | 1 => old &&& x
  | 2 => old ||| x
  | 3 => old ^^^ x
  | 4 => if toI w x < toI w old then x else old
  | 5 => if toI w x > toI w old then x else old
  | 6 => min old x
  | 7 => max old x
  | 8 => x
  | 9 => if old = cmp % 2 ^ w then x else old
  | _ => f.add old x

end Sys2Proof.Machine
end

