-- ==== Sys2Proof/Machine/Ops.lean ====
section
/-! DEFINITION. The named operations over slots, registers and memory, the issue of an instruction (R239–R245, R309,
R313), and the one operation that takes a trap (R270) with the return beside it (R271). -/

namespace Sys2Proof.Machine

/-- A quotient rounded up. -/
def ceilDiv (a b : Nat) : Nat := (a + b - 1) / b

/-! ### Objects by number -/

def State.slot (s : State) (k : Nat) : Slot := s.slots.getD k (Slot.reset k)
def State.core (s : State) (c : Nat) : Core := s.cores.getD c (Core.reset c)
def State.cluster (s : State) (c : Nat) : Cluster := s.clusters.getD c Cluster.reset
def State.die (s : State) (d : Nat) : Die := s.dies.getD d Die.reset
def State.setSlot (s : State) (k : Nat) (x : Slot) : State := { s with slots := s.slots.put k x }
def State.setCore (s : State) (c : Nat) (x : Core) : State := { s with cores := s.cores.put c x }
def State.setCluster (s : State) (c : Nat) (x : Cluster) : State := { s with clusters := s.clusters.put c x }
def State.setDie (s : State) (d : Nat) (x : Die) : State := { s with dies := s.dies.put d x }
def State.modSlot (s : State) (k : Nat) (f : Slot → Slot) : State := s.setSlot k (f (s.slot k))
def State.modCore (s : State) (c : Nat) (f : Core → Core) : State := s.setCore c (f (s.core c))
def State.modCluster (s : State) (c : Nat) (f : Cluster → Cluster) : State := s.setCluster c (f (s.cluster c))
def State.modDie (s : State) (d : Nat) (f : Die → Die) : State := s.setDie d (f (s.die d))

/-- A sleeping core wakes (R265). -/
def State.wake (s : State) (c : Nat) : State := if (s.core c).asleep then s.modCore c fun x => { x with asleep := false } else s

/-- The core that stands for core `c`: the target of its forwarding entry, if it has one (R283). -/
def State.atCore (s : State) (c : Nat) : Nat := (s.core c).fwd.getD c

/-- A message is still at its sender, for want of room where it goes (R139, R140, R367). -/
def State.heldMsg (s : State) (m : Msg) : Bool :=
  let c := s.core (s.atCore m.core)
  match m.kind with
  | 0 => m.device && (c.mbox.toList.getD (m.mbox % 16) none).isSome && decide (16 ≤ c.mpend.length)
  | 1 => decide (32 ≤ c.runq.length) && decide ((s.slot m.src).occ ≠ .migrating m.n)
  | 2 => false
  | 3 => decide (64 ≤ c.deque.length) && decide (65536 ≤ (s.die (s.atCore m.core / 160)).deck.length)
  | _ => true

/-- No message that a station sent to a cluster before the n-th is on its way (R259). -/
def State.pathClear (s : State) (stn cl n : Nat) : Bool :=
  s.msgs.all fun m => !(decide (m.stn = some stn ∧ m.core / 4 = cl ∧ m.n < n) && !s.heldMsg m)

/-- A number never used before, for an object of the model. -/
def State.fresh (s : State) : State × Nat := ({ s with nextN := s.nextN + 1 }, s.nextN)

/-- A value that the spec leaves open (log entry 2). -/
def State.free (s : State) : State × Dword := ({ s with freeCtr := s.freeCtr + 1 }, Config.freeDword s.freeCtr)

/-- The requester of a request whose step has gone on without its answer. -/
def orphan (d : Nat) : Requester := .fence d 10001

/-- A message that leaves the device (log entry 3). -/
def State.emit (s : State) (o : Out) : State := { s with out := s.out ++ [o] }

/-- A queue pair as it stands before its set-up. -/
def QueuePair.zero : QueuePair := { opened := false, addr := 0, tenant := 0, psn := 0, rate := 1, lastCut := none, lastCnp := 0, pend := [] }
def State.qp (s : State) (q : Nat) : QueuePair := s.qps.getD q QueuePair.zero
def State.modQp (s : State) (q : Nat) (f : QueuePair → QueuePair) : State := { s with qps := s.qps.put q (f (s.qp q)) }

/-- The die whose port holds a queue pair (R38). -/
def qpDie (q : Nat) : Nat := q / 1024 % 4

/-- A frame of a queue pair leaves, or waits while its priority is paused (R38). -/
def State.emitRoce (s : State) (q : Nat) (o : Out) : State :=
  if s.pause.contains (qpDie q, (s.qp q).prio) then s.modQp q fun x => { x with wait := x.wait ++ [o] } else s.emit o

/-- Bytes that a message carries, there or back. -/
def Out.size : Out → Nat
  | .frame _ bs => bs.length
  | .rdmaWrite _ _ bs => bs.length
  | .rdmaRead _ _ _ n => n
  | _ => 0

/-- Packets that carry `n` bytes under a path MTU (R38). -/
def mtuPackets (mtu n : Nat) : Nat := max 1 ((n + mtu - 1) / max 1 mtu)

/-- Packets of a message under a path MTU (R38). -/
def Out.packets (mtu : Nat) (o : Out) : Nat := mtuPackets mtu o.size

/-- The ECN code point of what leaves on Ethernet (R38): every packet of a queue pair is marked ECN-capable, ECT(0) (PRESUMED,
log entry 35). -/
def Out.ecn : Out → Nat
  | .frame .. | .rdmaWrite .. | .rdmaRead .. | .rdmaAtomic .. | .rdmaAnswer .. | .cnp _ => 2
  | .packet .. | .credits .. | .answer _ | .event .. | .readout _ => 0

/-- Sends a RoCE message (R38, R39): it leaves only on a queue pair that the host has opened, takes a number for each packet of
its path MTU, and is kept until it is acknowledged. `die` and `tag` name the request that it carries; tag 4096 is none. -/
def State.sendRoce (s : State) (q die tag : Nat) (o : Out) : State :=
  if (s.qp q).opened then
    (s.emitRoce q o).modQp q fun x => { x with
      psn := (x.psn + o.packets x.mtu) % 2 ^ 24
      pend := x.pend ++ [((x.psn + o.packets x.mtu - 1) % 2 ^ 24, die, tag, o)]
      since := if x.pend.isEmpty then s.timer.toNat else x.since }
  else s

/-! ### Registers (R304, R244, R246) -/

namespace Slot

/-- General register n; g0 reads zero. -/
def readG (x : Slot) (n : BitVec 5) : Dword := if n = 0 then 0 else x.g.get ⟨n.toNat, n.isLt⟩
/-- Predicate n; p0 reads true. -/
def readP (x : Slot) (n : BitVec 3) : Bool := n == 0 || x.p.getLsbD n.toNat
/-- Vector register n. -/
def readV (x : Slot) (n : BitVec 3) : BitVec 4096 := x.v.get ⟨n.toNat, n.isLt⟩
/-- Mask register n; m0 reads all ones. -/
def readM (x : Slot) (n : BitVec 2) : BitVec 512 := if n = 0 then BitVec.allOnes 512 else x.m.get ⟨n.toNat, n.isLt⟩
/-- State of a register; g0 and m0 are always full. -/
def gState (x : Slot) (n : BitVec 5) : RegState := if n = 0 then .full else x.gst.get ⟨n.toNat, n.isLt⟩
def vState (x : Slot) (n : BitVec 3) : RegState := x.vst.get ⟨n.toNat, n.isLt⟩
def mState (x : Slot) (n : BitVec 2) : RegState := if n = 0 then .full else x.mst.get ⟨n.toNat, n.isLt⟩

def setG (x : Slot) (n : BitVec 5) (v : Dword) : Slot :=
  if n = 0 then x
  else { x with g := x.g.set n.toNat v n.isLt, gst := x.gst.set n.toNat .full n.isLt,
                dirty := x.dirty ||| BitVec.twoPow 64 n.toNat }
def setP (x : Slot) (n : BitVec 3) (b : Bool) : Slot :=
  if n = 0 then x
  else { x with p := if b then x.p ||| BitVec.twoPow 8 n.toNat else x.p &&& ~~~ BitVec.twoPow 8 n.toNat,
                dirty := x.dirty ||| BitVec.twoPow 64 32 }
def setV (x : Slot) (n : BitVec 3) (v : BitVec 4096) : Slot :=
  { x with v := x.v.set n.toNat v n.isLt, vst := x.vst.set n.toNat .full n.isLt,
           vdirty := x.vdirty ||| BitVec.twoPow 64 n.toNat }
def setM (x : Slot) (n : BitVec 2) (v : BitVec 512) : Slot :=
  if n = 0 then x
  else { x with m := x.m.set n.toNat v n.isLt, mst := x.mst.set n.toNat .full n.isLt,
                vdirty := x.vdirty ||| BitVec.twoPow 64 (8 + n.toNat) }

/-- Changes the state of a register; g0 and m0 stay full. -/
def mark_ (x : Slot) (r : RegRef) (st : RegState) : Slot :=
  match r with
  | .g n => if n = 0 then x else { x with gst := x.gst.set n.toNat st n.isLt }
  | .v n => { x with vst := x.vst.set n.toNat st n.isLt }
  | .m n => if n = 0 then x else { x with mst := x.mst.set n.toNat st n.isLt }
  | .p _ => x

/-- Writes a completion value (R242). -/
def fill (x : Slot) : Fill → Slot
  | .g n v => x.setG n v
  | .v n v => x.setV n v
  | .m n v => x.setM n v
  | .p n b => x.setP n b

/-- A register holds a value: not empty, and no outstanding instruction writes it (R240, R310, R393). -/
def ready (x : Slot) (r : RegRef) : Bool :=
  match r with
  | .g n => x.gState n != .empty
  | .v n => x.vState n != .empty
  | .m n => x.mState n != .empty
  | .p n => !(x.outs.any fun o => o.dests.contains (.p n))

/-- The register is void (R244). -/
def isVoid (x : Slot) (r : RegRef) : Bool :=
  match r with
  | .g n => x.gState n == .void
  | .v n => x.vState n == .void
  | .m n => x.mState n == .void
  | .p _ => false

/-- Any register of the strand is empty (R280). -/
def anyEmpty (x : Slot) : Bool :=
  x.gst.toList.contains .empty || x.vst.toList.contains .empty || x.mst.toList.contains .empty

/-- The registers that R245 voids at a suspension point, but for one v register that MIGV carries. -/
def voidAtPoint (x : Slot) (keep : Option (BitVec 3)) : Slot :=
  { x with
    gst := Vector.ofFn fun i => if 13 ≤ i.val then .void else x.gst.get i
    vst := Vector.ofFn fun i => if keep = some (BitVec.ofNat 3 i.val) then x.vst.get i else .void
    mst := Vector.ofFn fun i => if i.val = 0 then x.mst.get i else .void }

/-- Supervisor mode (R269). -/
def supervisor (x : Slot) : Bool := x.mode
/-- The pure tag binds: it is carried and the mode is user (R185). -/
def pureBound (x : Slot) : Bool := x.pt && !x.mode

/-- STATUS (R269). -/
def status (x : Slot) : Dword :=
  dw ((if x.pt then 16 else 0) + (if x.frozen then 8 else 0) + (if x.pmode then 4 else 0) + (if x.mode then 2 else 0))

end Slot

def State.readG (s : State) (k : Nat) (n : BitVec 5) : Dword := (s.slot k).readG n
def State.writeG (s : State) (k : Nat) (n : BitVec 5) (v : Dword) : State := s.modSlot k (·.setG n v)
def State.writeP (s : State) (k : Nat) (n : BitVec 3) (b : Bool) : State := s.modSlot k (·.setP n b)

/-! ### Event counters (R266) -/

/-- Adds to a counter, saturating. -/
def evAdd (x : Word) (n : Nat) : Word := BitVec.ofNat 32 (min (x.toNat + n) 0xFFFFFFFF)

/-- Counts an event of a core in every counter that selects it. -/
def State.count (s : State) (c : Nat) (code : Byte) (n : Nat) : State :=
  if (s.core c).evsel.toList.contains code then
    s.modCore c fun x => { x with evc := Vector.ofFn fun i => if x.evsel.get i = code then evAdd (x.evc.get i) n else x.evc.get i }
  else s

/-! ### Physical memory: one view per die (R71, R72, R94) -/

def viewKey (d pa : Nat) : Nat := d * 2 ^ 40 + pa
/-- Home die and home bank of a physical address (R71, R72). -/
def homeDie (pa : Nat) : Nat := if pa < 2 ^ 39 then pa / 2 ^ 37 % 4 else pa / 2 ^ 33 % 4
def homeBank (pa : Nat) : Nat := homeDie pa * 256 + (if pa < 2 ^ 39 then pa / 2 ^ 16 % 256 else pa / 2 ^ 25 % 256)
/-- A pool address of a die's state SRAM (R71). -/
def State.isPool (s : State) (pa : Nat) : Bool :=
  decide (2 ^ 39 ≤ pa ∧ pa < 2 ^ 39 + 2 ^ 35 ∧ pa % 2 ^ 25 < s.poolsz * 2 ^ 20)
/-- A physical address that a leaf may name: HBM or pool (R76). -/
def State.isFrame (s : State) (pa : Nat) : Bool := decide (pa < 2 ^ 39) || s.isPool pa

/-- Bytes of a physical address as die d sees them; at the home die this is the home itself. -/
def State.readView (s : State) (d pa n : Nat) : List Byte := s.mem.readBytes (viewKey d pa) n
def State.readHome (s : State) (pa n : Nat) : List Byte := s.readView (homeDie pa) pa n
def State.pokeView (s : State) (d pa : Nat) (bs : List Byte) : State :=
  { s with mem := s.mem.writeBytes (viewKey d pa) bs }
/-- A write by hardware that no program view lags behind: page tables and device records (R80). -/
def State.pokeAll (s : State) (pa : Nat) (bs : List Byte) : State :=
  (((s.pokeView 0 pa bs).pokeView 1 pa bs).pokeView 2 pa bs).pokeView 3 pa bs

/-- The entries of a byte memory from `lo` up to `lo + n`, keyed by offset. -/
def sliceMem (m : Memory) (lo n : Nat) : Memory :=
  (m.filter fun c => decide (lo ≤ c.1 ∧ c.1 < lo + n)).map fun c => (c.1 - lo, c.2)
/-- The memory with the range from `lo` of `n` bytes replaced by an offset-keyed image. -/
def replaceMem (m : Memory) (lo n : Nat) (img : Memory) : Memory :=
  (m.filter fun c => decide (c.1 < lo)) ++ (img.map fun c => (lo + c.1, c.2)) ++ (m.filter fun c => decide (lo + n ≤ c.1))

/-- Local-store bytes (R66). -/
def lsKey (cluster off : Nat) : Nat := cluster * 2 ^ 22 + off % 2 ^ 22
def State.readLs (s : State) (cl off n : Nat) : List Byte := s.ls.readBytes (lsKey cl off) n
def State.writeLs (s : State) (cl off : Nat) (bs : List Byte) : State := { s with ls := s.ls.writeBytes (lsKey cl off) bs }
/-- A store by a strand or engine of die w to local-store bytes: one copy, with the stamp VIEW_w (R94, R97). A byte without a
listed stamp has the stamp of zeros, which every view covers at reset. -/
def State.storeLs (s : State) (w cl off : Nat) (bs : List Byte) : State :=
  let st := (s.die w).view
  let put := fun (t : Table Stamp) (i : Nat) =>
    if st = Vector.replicate 4 0 then t.del (lsKey cl off + i) else t.put (lsKey cl off + i) st
  { s.writeLs cl off bs with lsStamp := (List.range bs.length).foldl put s.lsStamp }
def State.lsDword (s : State) (cl off : Nat) : Dword := dw (leNat (s.readLs cl off 8))
/-- The full/empty bit of a local-store dword (R66). -/
def feKey (cl off : Nat) : Nat := cl * 2 ^ 19 + off % 2 ^ 22 / 8
def State.isFull (s : State) (cl off : Nat) : Bool := !s.feEmpty.contains (feKey cl off)
def State.setFull (s : State) (cl off : Nat) (full : Bool) : State :=
  let k := feKey cl off
  { s with feEmpty := if full then s.feEmpty.filter (· ≠ k)
                      else if s.feEmpty.contains k then s.feEmpty else s.feEmpty ++ [k] }

/-- Offset of a core's part of the plinth (R249). -/
def plinthOff (core : Nat) : Nat := 0x3C0000 + core % 4 * 0x10000
/-- Offset of a slot's save area in its cluster's local store (R278). -/
def saveArea (k : Nat) : Nat := plinthOff (k / 8) + 0x4000 + k % 8 * 0x1400

/-! ### Writes: stamp, performance and application (R97–R100) -/

/-- Component a covers component b (R97). -/
def covers (a b : BitVec 48) : Bool := decide ((a - b).toNat < 2 ^ 47)

/-- The physical ranges of a write, the first address, and whether it has a byte of a range. -/
def WData.ranges : WData → List (Nat × Nat)
  | .bytes pa bs => [(pa, bs.length)]
  | .frame pa _ => [(pa, 65536)]
  | .parts ps => ps.map fun p => (p.1, p.2.length)
def WData.base (d : WData) : Nat := (d.ranges.head?.map (·.1)).getD 0
/-- Two ranges share a byte. -/
def rangesMeet (a n b m : Nat) : Bool := decide (a < b + m ∧ b < a + n ∧ 0 < n ∧ 0 < m)
def WData.meets (d : WData) (a n : Nat) : Bool := d.ranges.any fun r => rangesMeet r.1 r.2 a n
def WData.meetsWrite (d e : WData) : Bool := e.ranges.any fun r => d.meets r.1 r.2

/-- The later of two views, component by component (R97). -/
def stampJoin (a b : Stamp) : Stamp := Vector.ofFn fun i => if covers (a.get i) (b.get i) then a.get i else b.get i

/-- A release of a word by die w that stores no data: the word's bytes keep the later of their stamp and VIEW_w (R97, R112). -/
def State.stampLs (s : State) (w cl off n : Nat) : State :=
  let put := fun (t : Table Stamp) (i : Nat) =>
    let st := stampJoin (s.die w).view (t.getD (lsKey cl off + i) (Vector.replicate 4 0))
    if st = Vector.replicate 4 0 then t.del (lsKey cl off + i) else t.put (lsKey cl off + i) st
  { s with lsStamp := (List.range n).foldl put s.lsStamp }

/-- The view of a die covers a stamp (R97). -/
def State.viewCovers (s : State) (d : Nat) (st : Stamp) : Bool :=
  (List.finRange 4).all fun e => covers ((s.die d).view.get e) (st.get e)

/-- The stamps of the writes that produced local-store bytes (R97). -/
def State.lsStamps (s : State) (cl off n : Nat) : List Stamp := (List.range n).filterMap fun i => s.lsStamp.find? (lsKey cl off + i)

/-- A value of another die's local store may be returned at die d (R99). -/
def State.lsCovered (s : State) (d cl off n : Nat) : Bool := (s.lsStamps cl off n).all (s.viewCovers d)

/-- The stamp of a write issued from die w now (R97). -/
def State.stampOf (s : State) (w : Nat) : Stamp :=
  let d := s.die w
  Vector.ofFn fun i => if i.val = w then d.issued + 1 else d.view.get i

/-- A write leaves its die: it takes its stamp and is on its way to its home (R97, R98). -/
def State.postWrite (s : State) (die src : Nat) (data : WData) : State × Nat :=
  let st := s.stampOf die
  let s := s.modDie die fun d => { d with issued := d.issued + 1 }
  ({ s with writes := s.writes ++ [⟨s.nextN, src, die, st, data, false, 0, []⟩], nextN := s.nextN + 1 }, s.nextN)

/-- Conditions 1 and 2 of R98 for a write at die d. -/
def State.stampHolds (s : State) (d : Nat) (w : Write) : Bool :=
  let v := (s.die d).view
  (List.finRange 4).all fun i => if i.val = w.die then v.get i == w.stamp.get i - 1 else covers (v.get i) (w.stamp.get i)

/-- Condition 3 of R98: every earlier write to the same bytes has been applied at d. -/
def State.orderHolds (s : State) (d : Nat) (w : Write) : Bool :=
  s.writes.all fun x => !(x.performed && (!w.performed || decide (x.order < w.order)) && x.todo.contains d &&
    x.data.meetsWrite w.data && x.n != w.n)

/-- The stamps of the writes that produced a value read at the home and that die d has yet to apply (R99). -/
def State.producers (s : State) (d pa n : Nat) : List Stamp :=
  (s.writes.filter fun x => x.performed && x.todo.contains d && x.data.meets pa n).map (·.stamp)

/-- Every die but die w holds fewer than 16,384 announcements of w that it has not applied, so that another may be sent
(R100). -/
def State.announceRoom (s : State) (w : Nat) : Bool :=
  ([0, 1, 2, 3].filter (· ≠ w)).all fun d =>
    decide ((s.writes.filter fun x => x.die == w && (!x.performed || x.todo.contains d)).length < 16384)

/-- Puts a write's bytes into a view. -/
def State.applyData (s : State) (d : Nat) : WData → State
  | .bytes pa bs => s.pokeView d pa bs
  | .frame pa img => { s with mem := replaceMem s.mem (viewKey d pa) 65536 img }
  | .parts ps => ps.foldl (fun s p => s.pokeView d p.1 p.2) s

/-- Die d's view counts a write (R97). -/
def State.viewStep (s : State) (d : Nat) (w : Write) : State :=
  s.modDie d fun x => { x with view := Vector.ofFn fun i => if i.val = w.die then w.stamp.get i else x.view.get i }

/-! ### Page hashes (R187, R188) -/

/-- Multiplication by x in GF(2^64). -/
def gfDouble (a : Dword) : Dword := (a <<< 1) ^^^ (if a.msb then 0x1B else 0)
/-- The product over the low `n` bits of `b`, from the highest down. -/
def gfMulFrom (a b : Dword) : Nat → Dword → Dword
  | 0, acc => acc
  | n + 1, acc => gfMulFrom a b n (gfDouble acc ^^^ (if b.getLsbD n then a else 0))
/-- GfMul (R187). -/
def gfMul (a b : Dword) : Dword := gfMulFrom a b 64 0
/-- GfPow by squaring over the low bits of the exponent, from bit n − 1 down. -/
def gfPowFrom (k : Dword) (e : Nat) : Nat → Dword → Dword
  | 0, acc => acc
  | n + 1, acc => gfPowFrom k e n (let q := gfMul acc acc; if e.testBit n then gfMul q k else q)
/-- GfPow (R187). -/
def gfPow (k : Dword) (e : Nat) : Dword := gfPowFrom k e 14 1

/-- A hash after dword i changes by `diff` (R188). -/
def hashStep (key h : Dword) (i : Nat) (diff : Dword) : Dword :=
  if diff = 0 then h else h ^^^ gfMul diff (gfPow key (8192 - i))

/-- The hashes of a frame after the listed dwords change (R188). -/
def hashSteps (key : Dword) (h : Dword) (ds : List (Nat × Dword)) : Dword :=
  ds.foldl (fun h d => hashStep key h d.1 d.2) h

/-- PageHash of a frame's contents (R187): only listed dwords can be non-zero. -/
def pageHash (key : Dword) (img : Memory) : Dword :=
  let dws := (img.map fun c => c.1 / 8).dedup
  dws.foldl (fun h i => hashStep key h i (dw (leNat (img.readBytes (8 * i) 8)))) 0

/-- The dwords of a frame that a write of bytes changes, each with the XOR of old and new. -/
def State.changedDwords (s : State) (pa : Nat) (bs : List Byte) : List (Nat × Dword) :=
  let lo := pa / 8; let hi := (pa + bs.length + 7) / 8
  (List.range (hi - lo)).map fun j =>
    let a := (lo + j) * 8
    let old := s.readHome a 8
    let new := (List.range 8).map fun i =>
      if pa ≤ a + i ∧ a + i < pa + bs.length then bs.getD (a + i - pa) 0 else old.getD i 0
    (a % 65536 / 8, dw (leNat old) ^^^ dw (leNat new))

/-- A frame descriptor that has never been named. -/
def FrameDesc.zero : FrameDesc := ⟨0, 0, 0, false, false, false, false, false, 0, 0, 0, []⟩
def NodeDesc.zero : NodeDesc := ⟨0, 0, false, 0⟩
def State.frameDesc (s : State) (pa : Nat) : FrameDesc := s.frames.getD (pa / 65536) FrameDesc.zero
def State.modFrame (s : State) (pa : Nat) (f : FrameDesc → FrameDesc) : State :=
  { s with frames := s.frames.put (pa / 65536) (f (s.frameDesc pa)) }
def State.nodeDesc (s : State) (pa : Nat) : NodeDesc := s.nodes.getD (pa / 8192) NodeDesc.zero
def State.modNode (s : State) (pa : Nat) (f : NodeDesc → NodeDesc) : State :=
  { s with nodes := s.nodes.put (pa / 8192) (f (s.nodeDesc pa)) }
def State.tenant? (s : State) (t : Half) : Option Tenant := s.tenants.find? t.toNat

/-- The bank clears WATCH of a frame and posts it (R78). -/
def State.clearWatch (s : State) (pa : Nat) : State :=
  if (s.frameDesc pa).watch then
    (s.modFrame pa fun f => { f with watch := false }).modDie (homeDie pa) fun d =>
      { d with inval := d.inval ++ [pa / 65536 * 65536] }
  else s

/-- The bank keeps the hashes of a frame that bytes are written to (R188). -/
def State.keepHash (s : State) (pa : Nat) (bs : List Byte) : State :=
  let fd := s.frameDesc pa
  if fd.hv then
    let t := (s.tenant? fd.owner).getD ⟨0, 0, 0, 0, 0, 0, false⟩
    let ds := s.changedDwords pa bs
    s.modFrame pa fun f => { f with hash1 := hashSteps t.key1 f.hash1 ds, hash2 := hashSteps t.key2 f.hash2 ds }
  else s

/-- The bank computes the hashes of a frame whose contents are all written (R187, R188). -/
def State.newHash (s : State) (pa : Nat) (img : Memory) : State :=
  let fd := s.frameDesc pa
  if fd.hv then
    let t := (s.tenant? fd.owner).getD ⟨0, 0, 0, 0, 0, 0, false⟩
    s.modFrame pa fun f => { f with hash1 := pageHash t.key1 img, hash2 := pageHash t.key2 img }
  else s

/-- Before a write is performed the bank clears WATCH and posts the frame, and it keeps the hashes (R78, R188); the parts of
merged stores are taken one after the other. -/
def State.frameHooks (s : State) (data : WData) : State :=
  match data with
  | .bytes pa bs => (s.clearWatch pa).keepHash pa bs
  | .frame pa img => (s.clearWatch pa).newHash pa img
  | .parts ps => ps.foldl (fun s p => ((s.clearWatch p.1).keepHash p.1 p.2).pokeView (homeDie p.1) p.1 p.2) s

/-- One line of a write to a launch queue page at slot offset `o` (R48): whether its bytes land, and the queue after it. -/
def LaunchQueue.lineWrite (q : LaunchQueue) (o n : Nat) : Bool × LaunchQueue :=
  let i := o / 256
  let lo := o % 256
  if lo ≤ 0xF8 ∧ 0x100 ≤ lo + n then (true, { q with arms := q.arms.set i true })
  else if rangesMeet lo n 0xF8 8 || q.arms.getD i false then (false, { q with overrun := q.overrun + 1 })
  else (true, q)

/-- A write to a launch queue page, line by line: the bytes that land, each dropped line standing as it was (R48). -/
def State.queueWrite (s : State) (key : Nat) : Nat → Nat → List Byte → State × List Byte
  | 0, _, _ => (s, [])
  | fuel + 1, pa, bs =>
    if bs = [] then (s, [])
    else
      let n := min bs.length (64 - pa % 64)
      let hit := (s.lqs.find? key).map fun q =>
        if pa % 65536 < 256 * q.depth then q.lineWrite (pa % 65536) n else (true, q)
      let ok := (hit.map (·.1)).getD true
      let s := match hit with
        | some r => { s with lqs := s.lqs.put key r.2 }
        | none => s
      let rest := State.queueWrite s key fuel (pa + n) (bs.drop n)
      (rest.1, (if ok then bs.take n else s.readHome pa n) ++ rest.2)

/-- The launch queue whose page is this frame (R47). -/
def State.queueAt (s : State) (pa : Nat) : Option Nat :=
  (List.find? (fun (e : Nat × LaunchQueue) => e.2.frames.contains (pa / 65536 * 65536)) s.lqs).map (·.1)

/-- The bytes that land at a home: a launch queue page keeps its arm words (R48). -/
def State.landBytes (s : State) (pa : Nat) (bs : List Byte) : State × List Byte :=
  match (if (s.frameDesc pa).lq then s.queueAt pa else none) with
  | some q => s.queueWrite q (bs.length / 64 + 2) pa bs
  | none => (s, bs)

/-- What a write leaves at its home (R48). -/
def State.landing (s : State) (d : WData) : State × WData :=
  match d with
  | .bytes pa bs => let r := s.landBytes pa bs; (r.1, .bytes pa r.2)
  | .frame .. => (s, d)
  | .parts ps =>
    let r := ps.foldl (fun (u : State × List (Nat × List Byte)) p => let r := u.1.landBytes p.1 p.2; (r.1, u.2 ++ [(p.1, r.2)])) (s, [])
    (r.1, .parts r.2)

/-- The home performs a write: hashes, bytes, its place in the write order, its own view (R98, R188). -/
def State.performWrite (s : State) (w : Write) : State :=
  let h := homeDie w.data.base
  let r := s.landing w.data
  let w := { w with data := r.2 }
  let s := r.1.frameHooks w.data
  let s := (s.applyData h w.data).viewStep h w
  let w' := { w with performed := true, order := s.orderN, todo := [0, 1, 2, 3].filter (· ≠ h) }
  { s with writes := s.writes.map fun x => if x.n = w.n then w' else x, orderN := s.orderN + 1 }

/-- Die d applies an announced write (R98); a write applied everywhere is finished. -/
def State.applyWrite (s : State) (d : Nat) (w : Write) : State :=
  let s := (s.applyData d w.data).viewStep d w
  let todo := w.todo.filter (· ≠ d)
  { s with writes := if todo = [] then s.writes.filter (fun x => x.n ≠ w.n)
                     else s.writes.map fun x => if x.n = w.n then { w with todo := todo } else x }

/-- Release conditions over the writes of one strand or command (R95). -/
def State.allPerformed (s : State) (uid : Nat) : Bool := s.writes.all fun w => w.src != uid || w.performed
def State.allVisibleAt (s : State) (uid d : Nat) : Bool :=
  s.writes.all fun w => w.src != uid || (w.performed && !w.todo.contains d)
def State.allVisible (s : State) (uid : Nat) : Bool := s.writes.all fun w => w.src != uid
/-- Write `n` is visible in the package. -/
def State.writeDone (s : State) (n : Nat) : Bool := s.writes.all fun w => w.n != n

/-! ### Traps (R239, R243, R268–R275) -/

/-- Posts a fault queue entry for the die, with the task that faults; it enters the queue when there is room (R131,
R132). -/
def State.postFaultEntry (s : State) (d : Nat) (entry : List Byte) (task : Option Nat) : State :=
  s.modDie d fun x => { x with faultWait := x.faultWait ++ [(entry, task)] }

/-- The task of a strand. -/
def State.taskNo (s : State) (x : Slot) : Option Nat :=
  (s.tasks.find? fun t => t.card == x.owner && t.tenant == x.tenant).map (·.n)

/-- A 32-byte fault queue entry (R131). -/
def faultEntry (card : Dword) (cause sub : Byte) (wher : Word) (pc addr : Dword) : List Byte :=
  leBytes 8 card.toNat ++ [cause, sub, 0, 0] ++ leBytes 4 wher.toNat ++ leBytes 8 pc.toNat ++ leBytes 8 addr.toNat

/-- A double trap of the instruction at `pc` halts the slot; the trap registers keep the first trap (R273). -/
def State.doubleTrap (s : State) (k : Nat) (cause : Byte) (pc addr : Dword) : State :=
  let x := s.slot k
  (s.modSlot k fun y => { y with occ := .halted, due := none, fatals := [] }).postFaultEntry (dieOf k)
    (faultEntry x.owner 0x0F cause (whereWord k) pc addr) (s.taskNo x)

/-- A PURITY trap taints the task of the strand (R186). -/
def State.taint (s : State) (k : Nat) : State :=
  let x := s.slot k
  { s with tasks := s.tasks.map fun t => if t.card = x.owner ∧ t.tenant = x.tenant then { t with taint := true } else t }

/-- Writes dwords of the window record of a slot (R275). -/
def State.writeWindow (s : State) (k : Nat) (ds : List Dword) : State :=
  s.writeLs (clusterOf k) (saveArea k + 0x1200) (ds.flatMap fun d => leBytes 8 d.toNat)

/-- Steps 2–5 of taking a trap (R270): latches the trap registers, enters supervisor mode with FROZEN, exchanges g2 and
TRSTACK, and goes to TRVEC. -/
def Slot.enter (x : Slot) (vec : Dword) (cause trpc addr trwin trnpc : Dword) : Slot :=
  { x with
    trcause := cause, trpc := trpc, traddr := addr, trwin := trwin, trnpc := trnpc
    pmode := x.mode, mode := true, frozen := true
    g := x.g.set 2 x.trstack
    gst := x.gst.set 2 .full
    trstack := if x.gst[2] = .void then 0 else x.g[2]
    pc := dw (0xFFFFFFFFFC0000 + bits vec 17 2 * 4)
    due := none, fatals := [], replay := none, sleeping := none, gather := none, waitOn := [] }

/-- TRCAUSE (R269). -/
def trcauseOf (cause sub : Byte) (async : Bool) : Dword :=
  dw (cause.toNat + sub.toNat * 256 + (if async then 65536 else 0))

/-- Takes a trap that no FATAL reply precedes (R270, R243). A PURITY trap stays with the strand until its handler resumes it,
whatever other trap the handler takes meanwhile (R186). -/
def State.takePlain (s : State) (k : Nat) (t : Trap) : State :=
  let x := s.slot k
  let trnpc := match x.replay with
    | some n => n ||| 1
    | none => if t.toNext then x.pc + 4 else x.pc
  let win := if t.cause = 0x07 then [x.pc] else t.win
  let trwin : Dword := if t.cause = 0x07 then 1 else 0
  let s := if win = [] then s else s.writeWindow k (win ++ List.replicate (16 - win.length) 0)
  let s := if t.cause = 0x08 then s.taint k else s
  (s.modSlot k fun x =>
    { x.enter (s.core (coreOf k)).trvec (trcauseOf t.cause t.sub t.async) x.pc t.addr trwin trnpc with
      purity := if t.cause = 0x08 then some (t.sub, x.pc, t.addr) else x.purity }).count (coreOf k) 0x0E 1

/-- The oldest instruction of the window that received FATAL (R274). -/
def oldestFatal : List FatalRec → Option FatalRec
  | [] => none
  | f :: fs => match oldestFatal fs with
    | some f' => if f'.seq < f.seq then some f' else some f
    | none => some f

/-- FMASK: the instructions of the window record that received FATAL (R275); one that has not issued stands in no dword of it,
but for TRPC's own. -/
def fmask (f : FatalRec) (fs : List FatalRec) : Nat :=
  fs.foldl (fun m r => if r.seq - f.seq ≤ min f.after.length 15 then m ||| 2 ^ (r.seq - f.seq) else m) 0

/-- Takes MEM_FATAL at the end of the window (R86, R243, R274, R275). -/
def State.takeFatal (s : State) (k : Nat) (f : FatalRec) : State :=
  let x := s.slot k
  let sync := x.due.isSome
  let mask := fmask f x.fatals
  let win := (f.pc :: f.after).take 16
  let trwin := (if sync then 2 ^ 20 else 0) + min f.after.length 15 * 2 ^ 16 + mask
  let trnpc := if f.replay then x.replay.getD x.pc ||| 1 else if f.stay then f.pc else x.pc
  let x := (x.fatals.flatMap (·.dests)).foldl (fun x r => if x.ready r then x else x.mark_ r .void) x
  let s := (s.setSlot k x).writeWindow k (win ++ List.replicate (16 - win.length) 0)
  (s.modSlot k fun x => x.enter (s.core (coreOf k)).trvec (trcauseOf 0x07 f.sub false) f.pc f.addr (dw trwin) trnpc).count
    (coreOf k) 0x0E 1

/-- Step 1 is over: nothing outstanding and g2 not empty (R243, R270); a fatal's own void of g2 counts. -/
def Slot.canEnter (x : Slot) : Bool :=
  x.outs.isEmpty && (x.gst[2] != .empty || x.fatals.any fun f => f.dests.contains (.g 2))

/-- Takes whatever trap is due at a slot, once step 1 allows it (R270); FROZEN makes it a double trap (R272). -/
def State.takeDue (s : State) (k : Nat) : State :=
  let x := s.slot k
  match oldestFatal x.fatals with
  | some f => if x.frozen then s.doubleTrap k 0x07 f.pc f.addr else if x.canEnter then s.takeFatal k f else s
  | none => match x.due with
    | some t => if x.frozen then s.doubleTrap k t.cause x.pc t.addr else if x.canEnter then s.takePlain k t else s
    | none => s

/-- A synchronous trap: it is due, and it is taken at once when nothing holds it up (R239, R243). -/
def State.raise (s : State) (k : Nat) (t : Trap) : State := (s.modSlot k fun x => { x with due := some t }).takeDue k

/-- The order in which two pending asynchronous traps are taken: by the time they fell due, by cause, by subcode (R272). -/
def Trap.asyncBefore (a b : Trap) : Bool :=
  if a.since ≠ b.since then decide (a.since < b.since)
  else if a.cause ≠ b.cause then decide (a.cause.toNat < b.cause.toNat) else decide (a.sub.toNat < b.sub.toNat)

/-- An asynchronous trap falls due; one of each subcode is kept (R272, R430). -/
def State.postAsync (s : State) (k : Nat) (t : Trap) : State :=
  let u := { t with async := true, since := s.timer.toNat }
  s.modSlot k fun x =>
    if x.async.any fun v => v.cause = t.cause ∧ v.sub = t.sub then x
    else { x with async := x.async.takeWhile (fun v => !Trap.asyncBefore u v) ++ u :: x.async.dropWhile fun v => !Trap.asyncBefore u v }

/-- An outstanding instruction ends with FATAL (R86, R274): it leaves the window and the trap follows, which wakes the core
(R265). -/
def State.fatal (s : State) (k : Nat) (o : Outst) (sub : Byte) (addr : Dword) (stay : Bool) : State :=
  ((s.modSlot k fun x => { x with
    outs := x.outs.filter (fun u => u.id ≠ o.id)
    fatals := x.fatals ++ [⟨o.seq, o.pc, o.after, sub, addr, o.dests, o.replay, stay⟩] }).takeDue k).wake (coreOf k)

/-- MEM_FATAL that ends an instruction which has not issued, so that a return executes it again: a fetch, and the
instructions that R270 names. -/
def State.fatalIssue (s : State) (k : Nat) (sub : Byte) (addr : Dword) : State :=
  (s.modSlot k fun x => { x with fatals := x.fatals ++ [⟨x.seq, x.pc, [], sub, addr, [], x.replay.isSome, true⟩] }).takeDue k

/-- The return from a trap (R271): g2 and TRSTACK exchange, the mode comes back, FROZEN clears, and the PC goes to TRNPC,
by way of one execution of TRPC when REPLAY is set. The exchange writes g2 (R246). The PC's low two bits stay zero (R306). -/
def Slot.ret (x : Slot) : Slot :=
  let npc := x.trnpc &&& ~~~ 3
  { x with
    trstack := if x.gst[2] = .void then 0 else x.g[2]
    g := x.g.set 2 x.trstack
    gst := x.gst.set 2 .full
    dirty := x.dirty ||| BitVec.twoPow 64 2
    mode := x.pmode, frozen := false, purity := if x.pmode then x.purity else none
    pc := if x.trnpc.getLsbD 0 then x.trpc &&& ~~~ 3 else npc
    replay := if x.trnpc.getLsbD 0 then some npc else none }

/-! ### Issue (R239–R245, R309, R313) -/

/-- What an instruction asks of its issue: guard, lookahead (none for a short one), the registers it reads and writes,
its length in bytes, a condition that holds it, whether it goes into its core's vector dispatch queue (R256), and its exact
checks. -/
structure Issue where
  instr  : Instr
  guard  : BitVec 3 := 0
  la     : Option (BitVec 4) := none
  reads  : List RegRef := []
  writes : List RegRef := []
  size   : Nat := 4
  hold   : State → Bool := fun _ => false
  vec    : Bool := false
  check  : State → Option Trap := fun _ => none

/-- VOID_REG subcode of a register (R244). -/
def RegRef.code : RegRef → Byte
  | .g n => BitVec.ofNat 8 n.toNat
  | .v n => BitVec.ofNat 8 (32 + n.toNat)
  | .m n => BitVec.ofNat 8 (64 + n.toNat)
  | .p _ => 0

/-- No window of the slot is used up (R240). -/
def Slot.windowsOpen (x : Slot) : Bool := x.outs.all fun o => decide (o.after.length < o.la)

/-- CanIssue (R240), with the predicates of R310. -/
def Issue.canIssue (p : Issue) (x : Slot) : Bool :=
  x.windowsOpen && !(p.la.isSome && decide (8 ≤ x.outs.length)) && x.ready (.p p.guard) &&
    p.reads.all x.ready && p.writes.all x.ready

/-- What an instruction that cannot issue waits for: the empty registers, and an end among eight outstanding instructions
(R240). -/
def Issue.waits (p : Issue) (x : Slot) : List IssueWait :=
  ((RegRef.p p.guard :: p.reads ++ p.writes).filter fun r => !x.ready r).map IssueWait.reg ++
    (if p.la.isSome && decide (8 ≤ x.outs.length) then [.outstanding] else [])

/-- The slot is parked: a register that its next instruction waits for is still empty (R145, R240). -/
def Slot.parked (x : Slot) : Bool := x.waitOn.any fun w => match w with
  | .reg r => !x.ready r
  | .outstanding | .vector => false

/-- The slot is stalled as under R240: a window is used up, or its next instruction would be the ninth outstanding one. -/
def Slot.stalled (x : Slot) : Bool :=
  !x.windowsOpen || (x.waitOn.contains .outstanding && decide (8 ≤ x.outs.length))

/-- The first void register that the instruction reads (R244). -/
def Issue.void? (p : Issue) (x : Slot) : Option RegRef := p.reads.find? x.isVoid

/-- Where the strand goes on: TRNPC after a replayed instruction, else the next instruction (R271, R306). -/
def Issue.nextPc (p : Issue) (x : Slot) : Dword := x.replay.getD (x.pc + dw p.size)

/-- The instruction counts as issued (R240) and the PC moves on. -/
def Slot.advance (x : Slot) (next : Dword) : Slot :=
  { x with
    outs := x.outs.map fun o => { o with after := o.after ++ [x.pc] }
    pc := next, replay := none, seq := x.seq + 1, waitOn := [] }

/-- Instructions that stores do not merge across (R101). -/
def isBarrier : Instr → Bool
  | .fenceRel .. | .fenceAcq .. | .fenceFull .. | .amoAdd .. | .amoAnd .. | .amoOr .. | .amoXor .. | .amoMin .. | .amoMax ..
  | .amoMinn .. | .amoMaxn .. | .amoSwp .. | .amoCas .. | .amoFadd .. | .amoRedOrd .. | .tcmd .. | .stf .. | .feset ..
  | .msend .. | .rfill .. | .sysc .. => true
  | _ => false

/-- Instructions that are a release fence: earlier accesses come before later tile commands, MSENDs and RFILLs (R102). -/
def isRelease : Instr → Bool
  | .fenceRel .. | .fenceFull .. => true
  | _ => false

/-- An instruction in its core's vector dispatch queue (R256). -/
def Outst.inVecQueue (o : Outst) : Bool :=
  match o.op, o.st with
  | .vector _, .ready => true
  | _, .queued => true
  | _, _ => false

/-- Vector instructions that wait in a core's dispatch queue (R256). -/
def State.vecQueued (s : State) (c : Nat) : Nat :=
  ((List.range 8).map fun i => ((s.slot (8 * c + i)).outs.filter Outst.inVecQueue).length).sum

/-- The queue of the core in focus is full (R256). -/
def State.vecFull (s : State) : Bool := decide (8 ≤ s.vecQueued (coreOf s.focus))

/-- The issued state: the slot advanced and the event counted. -/
def Issue.step (p : Issue) (s : State) : State :=
  (s.modSlot s.focus fun x =>
    { x.advance (p.nextPc x) with
      bar := if isBarrier p.instr then x.seq + 1 else x.bar
      rel := if isRelease p.instr then x.seq + 1 else x.rel }).count (coreOf s.focus) 0x02 1

/-- Issues an instruction at the slot in focus. `body` receives the state before the issue and the state after it. -/
def issue (p : Issue) (body : State → State → State) (s : State) : Host.Outcome State Fault Refusal :=
  let x := s.slot s.focus
  if !x.windowsOpen then .next s
  else match p.instr.illegal with
    | some c => .next (s.raise s.focus { cause := 0x01, sub := c.subcode })
    | none =>
      if !p.canIssue x then .next (s.modSlot s.focus fun x => { x with waitOn := p.waits x })
      else if !x.readP p.guard then .next (p.step s)
      else match p.void? x with
        | some r => .next (s.raise s.focus { cause := 0x06, sub := r.code })
        | none =>
          if p.hold s then .next (if p.vec && s.vecFull then s.modSlot s.focus fun x => { x with waitOn := [.vector] } else s)
          else match p.check s with
            | some t => .next (s.raise s.focus t)
            | none => .next (body s (p.step s))

/-- A short instruction that writes one register from operands read at issue (R330). -/
def shortG (p : Issue) (d : BitVec 5) (f : Slot → Dword) : State → Host.Outcome State Fault Refusal :=
  issue { p with writes := .g d :: p.writes } fun s t => t.writeG s.focus d (f (s.slot s.focus))

/-- A short instruction that writes one predicate. -/
def shortP (p : Issue) (d : BitVec 3) (f : Slot → Bool) : State → Host.Outcome State Fault Refusal :=
  issue { p with writes := .p d :: p.writes } fun s t => t.writeP s.focus d (f (s.slot s.focus))

/-- The destinations of an operation that are left empty: g0 and m0 never are. -/
def liveDests (ds : List RegRef) : List RegRef := ds.filter fun r => r != .g 0 && r != .m 0 && r != .p 0

/-- A long-latency instruction leaves the pipeline with operation `op` (R238, R242). -/
def State.depart (before t : State) (la : BitVec 4) (op : Op) (dests : List RegRef) : State :=
  let k := before.focus
  let x := before.slot k
  let o : Outst := {
    id := t.nextN, seq := x.seq, pc := x.pc, la := if x.replay.isSome then 0 else la.toNat
    after := [], op := op, dests := liveDests dests, replay := x.replay.isSome, ssel := x.statesel, ten := x.tenant, bar := x.bar
    voids := (liveDests dests).filter x.isVoid }
  { t.modSlot k fun y => { (liveDests dests).foldl (fun y r => y.mark_ r .empty) y with outs := y.outs ++ [o] } with
    nextN := t.nextN + 1 }

/-- A vector load or store waits in the dispatch queue of its core (R256). -/
def State.departQueued (before t : State) (la : BitVec 4) (op : Op) (dests : List RegRef) : State :=
  (before.depart t la op dests).modSlot before.focus fun x => { x with
    outs := x.outs.map fun o => if o.id = t.nextN then { o with st := .queued } else o }

/-- A long-latency instruction with its operation. -/
def longOp (p : Issue) (la : BitVec 4) (dests : List RegRef) (op : State → Op) :
    State → Host.Outcome State Fault Refusal :=
  issue { p with la := some la, writes := dests ++ p.writes } fun s t => s.depart t la (op s) dests

/-- The slot of an outstanding instruction drops it (R241). -/
def State.dropOut (s : State) (k id : Nat) : State :=
  s.modSlot k fun x => { x with outs := x.outs.filter fun o => o.id ≠ id }
def State.setOut (s : State) (k : Nat) (o : Outst) : State :=
  s.modSlot k fun x => { x with outs := x.outs.map fun u => if u.id = o.id then o else u }
def State.out? (s : State) (k id : Nat) : Option Outst := (s.slot k).outs.find? fun o => o.id = id

/-- An outstanding instruction completes: its destinations fill and its window ends (R241, R242); a fill ends a SLEEP
(R390), and the core is awake for the slot (R265). -/
def State.complete (s : State) (k : Nat) (o : Outst) (fs : List Fill) : State :=
  ((s.modSlot k fun x => fs.foldl Slot.fill { x with
    outs := x.outs.filter fun u => u.id ≠ o.id
    sleeping := if fs = [] then x.sleeping else none }).takeDue k).wake (coreOf k)

/-- The next outcome that every step of the device has. -/
abbrev Res := Host.Outcome State Fault Refusal

end Sys2Proof.Machine
end

