-- ==== Sys2Proof/Machine/Launches.lean ====
section
/-! DEFINITION. Launches and tasks as their strands name them: sweep tags and windows, the owner of a strand, and the
reservation that a guaranteed launch draws on (R50–R53, R115, R116, R126, R136). -/

namespace Sys2Proof.Machine

/-- Fields of a launch packet (R50, R51). -/
def Launch.kind (l : Launch) : Nat := rd l.pkt 0 1
def Launch.domain (l : Launch) : Nat := rd l.pkt 1 1 / 4 % 4
def Launch.cls (l : Launch) : Bool := rd l.pkt 2 1 / 4 % 2 == 1
def Launch.prio (l : Launch) : Nat := rd l.pkt 2 1 % 4
def Launch.slots (l : Launch) : Nat := rd l.pkt 0x60 1
def Launch.ext (l : Launch) (i : Nat) : Nat := rd l.pkt (0x48 + 4 * i) 4
def Launch.subExt (l : Launch) (i : Nat) : Nat := rd l.pkt (0x54 + 4 * i) 4
/-- Tiles along an axis, all tiles, workers and rounds (R115). -/
def Launch.count (l : Launch) (i : Nat) : Nat := ceilDiv (l.ext i) (l.subExt i)
def Launch.tiles (l : Launch) : Nat := l.count 0 * l.count 1 * l.count 2
def Launch.workers (l : Launch) : Nat := 640 * l.slots
def Launch.rounds (l : Launch) : Nat := ceilDiv l.tiles l.workers

/-- Worker `w` runs on this core (R115). -/
def workerCore (w : Nat) : Nat :=
  let i := w % 640
  (i % 4 * 40 + i / 4 % 40) * 4 + i / 160

/-- ORG and SUB of a tile (R115). -/
def Launch.window (l : Launch) (tile : Nat) : Vector Word 3 × Vector Word 3 :=
  if tile < l.tiles then
    let t := fun (i : Nat) => if i = 0 then tile % l.count 0 else if i = 1 then tile / l.count 0 % l.count 1
      else tile / (l.count 0 * l.count 1)
    let org := fun (i : Nat) => t i * l.subExt i
    (Vector.ofFn fun i => BitVec.ofNat 32 (org i), Vector.ofFn fun i => BitVec.ofNat 32 (min (l.subExt i) (l.ext i - org i)))
  else (Vector.replicate 3 0, Vector.replicate 3 0)

/-- The sweep tag (R116). -/
def Launch.tag (l : Launch) (tile : Nat) : Dword :=
  dw (2 ^ 63 + l.q * 2 ^ 57 + l.slot * 2 ^ 49 + tile % 2 ^ 48)

/-- The launch that a sweep tag names (R116). Its slot may have held other launches before it: the launch is the SWEEP of that
slot in which the tag's tile has strands, or else one that has not completed. -/
def State.sweepLaunch (s : State) (owner : Dword) : Option Launch :=
  if owner.msb then
    let ls := s.launches.filter fun l => l.kind == 1 && l.q == bits owner 62 57 && l.slot == bits owner 56 49
    (ls.find? fun l => decide (0 < l.live.getD (bits owner 47 0) 0)) <|> (ls.find? fun l => !l.done) <|> ls.head?
  else none

/-- The task that a record field 0x78 names. -/
def State.ownerTask (s : State) (owner : Dword) (tenant : Half) : Option Task :=
  if owner.msb || owner == 0 then none else s.tasks.find? fun t => t.card == owner && t.tenant == tenant

/-- The launch that a strand belongs to, if it belongs to one. -/
def State.strandLaunch (s : State) (owner : Dword) (tenant : Half) : Option Launch :=
  match s.sweepLaunch owner with
  | some l => some l
  | none => ((s.ownerTask owner tenant).bind (·.launch)).bind fun n => s.launches.find? fun l => l.n = n

/-- A launch's guaranteed work has its class place while its counters on the die are above zero (R136). -/
def State.guaranteedNow (s : State) (d : Nat) (launch : Option Nat) : Bool :=
  match launch.bind fun n => s.launches.find? fun l => l.n = n with
  | some l => l.cls && match (s.die d).resvCtr.find? (rd l.pkt 6 2) with
    | some c => decide (0 < c.1 ∧ 0 < c.2.1 ∧ 0 < c.2.2)
    | none => false
  | none => false

/-- The tenant is being destroyed (R46). -/
def State.dying (s : State) (t : Half) : Bool := s.inbox.any fun e => e.kind == 0x41 && e.args.id == t

def State.modTask (s : State) (n : Nat) (f : Task → Task) : State :=
  { s with tasks := s.tasks.map fun t => if t.n = n then f t else t }
def State.modLaunch (s : State) (n : Nat) (f : Launch → Launch) : State :=
  { s with launches := s.launches.map fun l => if l.n = n then f l else l }

/-- Charges `n` units of a reservation counter of die d to the launch of guaranteed work (R136): counter 0 SLOTCYC, 1 ENGCYC,
2 BANKLINES. -/
def State.chargeWork (s : State) (owner : Dword) (tenant : Half) (d i n : Nat) : State :=
  match s.strandLaunch owner tenant with
  | some l =>
    if !l.cls then s
    else s.modDie d fun y => { y with resvCtr := y.resvCtr.map fun e =>
      if !(e.1 == rd l.pkt 6 2) then e
      else if i = 0 then (e.1, (e.2.1 - n, e.2.2.1, e.2.2.2)) else if i = 1 then (e.1, (e.2.1, e.2.2.1 - n, e.2.2.2))
      else (e.1, (e.2.1, e.2.2.1, e.2.2.2 - n)) }
  | none => s

/-- The same for slot `k`'s strand, when its work is guaranteed (R126, R136). -/
def State.charge (s : State) (k d i n : Nat) : State :=
  let x := s.slot k
  if x.cls then s.chargeWork x.owner x.tenant d i n else s

end Sys2Proof.Machine
end

