-- ==== Sys2Proof/Machine/Clock.lean ====
section
/-! DEFINITION. The passing of functional cycles: TIMER, the lease and the event counters that count cycles (R13, R255,
R266, R321), and which steps a frozen device still takes (R14–R16). -/

namespace Sys2Proof.Machine

/-- The device is frozen (R14), or stays in reset (R17). -/
def State.frozen (s : State) : Bool := s.boot != 0 || s.freeze.pin || s.freeze.aigon || s.freeze.thermal || s.freeze.current

/-- Steps of the always-on domain and of the outside world, which a freeze does not stop: power, freeze, thaw, read-out and
attestation, and the link layer of the Brynry ports (R14–R16, R44; log entry 44). -/
def alwaysOn : Instr → Bool
  | .packageReset | .trip | .freezePinAssert | .aigonFreezeRequest | .freezePinDeassert | .thawRestart | .thermalThaw
  | .currentThaw | .readoutRequest | .thaw | .aigonThawRequest | .attest | .thermalWarning | .thermalWarningClear
  | .throttleStart | .throttleEnd | .creditReturn | .flitReplay | .portLeaveService | .portRejoin | .neighbourDrainReport => true
  | _ => false

/-- Slots of a core. -/
def slotsOf (c : Nat) : List Nat := (List.range 8).map fun i => 8 * c + i

/-- A slot that is parked at a word: a waiting access has used up its window (R349). -/
def Slot.atWord (x : Slot) : Bool :=
  x.outs.any fun o => decide (o.la ≤ o.after.length) && match o.op with
    | .sync .. => true
    | _ => false

/-- Counts cycles of one core in its event counters (R266; log entry 44). -/
def State.countCycles (s : State) (n c : Nat) : State :=
  let x := s.core c
  let among := fun (f : Slot → Bool) => ((slotsOf c).filter fun k => decide ((s.slot k).occ = .active) && f (s.slot k)).length
  let parked := among fun x => x.parked || x.atWord
  let stalled := among fun x => !x.windowsOpen
  let queued := s.vecQueued c
  let s := (s.count c 0x01 n).count c 0x03 (n * parked)
  let s := (s.count c 0x04 (n * stalled)).count c 0x0C (if x.leaseWait then n else 0)
  (s.count c 0x0D (if 8 ≤ queued then n else 0)).count c 0x0F (if x.asleep then n else 0)

/-- A command that its engine queue has accepted and that is not over holds a core's place at the tensor engine (R252). -/
def Cmd.queuedAt (m : Cmd) (c : Nat) : Bool := m.q == 0 && coreOf m.slot == c && m.accepted && m.done.isNone

/-- The cycles that a running command of guaranteed work takes from its engine (R136). -/
def State.chargeEngine (s : State) (n : Nat) (m : Cmd) : State :=
  if m.cls && m.q == 0 && m.started && m.done.isNone && (s.core (coreOf m.slot)).leaseHeld then
    s.chargeWork m.owner m.tenant (dieOf m.slot) 1 n
  else s

/-- `n` functional cycles pass; a frozen device has none (R13, R14). -/
def State.elapse (s : State) (n : Nat) : State :=
  if s.frozen then s
  else
    let s := (s.cores.map (·.1)).foldl (fun s c => s.countCycles n c) s
    let s := s.cmds.foldl (fun s m => s.chargeEngine n m) s
    { s with
      timer := s.timer + dw n
      cores := s.cores.map fun e => (e.1, { e.2 with
        leaseCyc := e.2.leaseCyc - n
        leaseIdle := if s.cmds.any fun m => m.queuedAt e.1 then 0 else e.2.leaseIdle + n }) }

end Sys2Proof.Machine
end

