-- ==== Sys2Proof/Machine/Links.lean ====
section
/-! DEFINITION. Brynry links (R7, R8, R20–R31): routes, ports, virtual channels, credits and receiving buffers, and what
becomes of a packet without a route. -/

namespace Sys2Proof.Machine

/-! ### Fields of a packet (R29, R30) -/

def Packet.type (p : Packet) : Nat := rd p.head 0 1
def Packet.len (p : Packet) : Nat := rd p.head 1 1
def Packet.srcDie (p : Packet) : Nat := rd p.head 2 1 / 8 % 4
def Packet.vcd (p : Packet) : Nat := rd p.head 2 1 / 4 % 2
def Packet.cls (p : Packet) : Nat := rd p.head 2 1 % 4
def Packet.dst (p : Packet) : Nat := rd p.head 4 2
def Packet.src (p : Packet) : Nat := rd p.head 6 2
def Packet.tenant (p : Packet) : Half := BitVec.ofNat 16 (rd p.head 8 2)
def Packet.tag (p : Packet) : Nat := rd p.head 0xA 2
/-- A type-specific field. -/
def Packet.fld (p : Packet) (off n : Nat) : Nat := rd p.head off n
/-- The packet on a dateline channel. -/
def Packet.onVc (p : Packet) (v : Nat) : Packet :=
  { p with head := wr p.head 2 1 (rd p.head 2 1 - Packet.vcd p * 4 + v * 4) }

/-- The bytes of data in the response to a request (R30): ⌈BYTES/64⌉ flits for a READ whatever its STATUS, zeros where no
data was read. DESIGN CHOICE: none where BYTES itself breaks its limit (log entry 50). -/
def Packet.dataBytes (p : Packet) : Nat :=
  if Packet.type p = 1 ∧ Packet.fld p 0x18 4 ≤ 4096 then ceilDiv (Packet.fld p 0x18 4) 64 * 64 else 0

/-- A response: header with STATUS, the requester's SRCDIE and TAG, type-specific fields, and data (R29–R31). -/
def Packet.reply (p : Packet) (own : Nat) (status : Byte) (fs : List (Nat × Nat × Nat)) (data : List Byte) : Packet :=
  let pad := data ++ List.replicate (Packet.dataBytes p - data.length) 0
  let h := leBytes 1 (Packet.type p) ++ leBytes 1 (pad.length / 64) ++ leBytes 1 (Packet.srcDie p * 8 + 1) ++ [0] ++
    leBytes 2 (Packet.src p) ++ leBytes 2 own ++ leBytes 2 (Packet.tenant p).toNat ++ leBytes 2 (Packet.tag p) ++
    List.replicate 4 0 ++ [status] ++ List.replicate 47 0
  ⟨fs.foldl (fun h f => wr h f.1 f.2.1 f.2.2) h, pad⟩

/-! ### Routes (R20–R24) -/

/-- Coordinate i of a package id, in the order W, X, Y, Z. -/
def coordOf (p i : Nat) : Nat := p / 16 ^ i % 16
def State.dim (s : State) (i : Nat) : Nat :=
  if i = 0 then s.torus.1 else if i = 1 then s.torus.2.1 else if i = 2 then s.torus.2.2.1 else s.torus.2.2.2

/-- A port of the direction is in service (R22). -/
def State.dirUp (s : State) (d : Nat) : Bool := s.linkup.toNat / 2 ^ (8 * d) % 256 != 0

/-- The direction that R23 gives for dimension i between two packages: 2i for +, 2i + 1 for −. -/
def State.dirOf (s : State) (src dst i : Nat) : Option Nat :=
  let n := s.dim i
  let delta := (coordOf dst i + n - coordOf src i) % n
  if delta = 0 then none else if 2 * delta ≤ n then some (2 * i) else some (2 * i + 1)

/-- The first dimension in which the packet has still to move. -/
def State.nextDim (s : State) (dst : Nat) : Option Nat :=
  [0, 1, 2, 3].find? fun i => coordOf dst i != coordOf s.pkgid.toNat i

/-- The way on of a packet that came in on a direction of dimension i: it keeps its way round that dimension, so that a packet
sent the other way round stays on it (R23). -/
def onward (i : Nat) (came : Option Nat) : Option Nat := (came.filter fun a => a / 2 == i).map (· ^^^ 1)

/-- The direction of a packet from here, which came in on a direction or began here; the other way round when no port of the
first is in service (R23). -/
def State.route (s : State) (came : Option Nat) (p : Packet) : Option Nat :=
  match s.nextDim (Packet.dst p) with
  | none => none
  | some i =>
    match (onward i came).or ((s.dirOf (Packet.src p) (Packet.dst p) i).or (s.dirOf s.pkgid.toNat (Packet.dst p) i)) with
    | none => none
    | some d => if s.dirUp d then some d else if s.dirUp (d ^^^ 1) then some (d ^^^ 1) else none

/-- The die that holds the ports of a direction (R21). -/
def dirDie (d : Nat) : Nat := d / 2 % 4
/-- The dies that a packet enters on its way from one die to another (R7, R8): a diagonal way first changes column, then row. -/
def dieRoute (a b : Nat) : List Nat := if a = b then [] else if a ^^^ b = 3 then [a ^^^ 1, b] else [b]
/-- Where a packet stands after its way over the die-to-die links. -/
def dieAfter (a b : Nat) : Nat := (dieRoute a b).getLastD a

/-- The XOR of the 3-bit groups of a number of at most 51 bits. -/
def fold3 (x : Nat) : Nat := (List.range 17).foldl (fun f i => f ^^^ (x / 8 ^ i % 8)) 0

/-- The 3-bit fold of R27: port 0 for FENCE packets of both classes (log entry 25 for packets that it does not name, and for
the three bits of the XOR of DSTDIE, CLUSTER and CORE). -/
def Packet.fold (p : Packet) : Nat :=
  if Packet.type p = 9 then 0
  else if Packet.cls p ≠ 0 then Config.packetFold p.head % 8
  else match Packet.type p with
    | 1 | 2 | 3 => fold3 (Packet.fld p 0x10 8 / 64 % 2 ^ 50)
    | 4 | 5 => (Packet.fld p 0x10 1 ^^^ Packet.fld p 0x11 1 ^^^ Packet.fld p 0x12 1) % 8
    | 6 | 7 => fold3 (Packet.fld p 0x10 4)
    | 8 => fold3 (Packet.fld p 0x28 8 / 64 % 2 ^ 50)
    | _ => Config.packetFold p.head % 8

/-- The port of a direction: the fold, or the next port in service (R27). -/
def State.portOf (s : State) (d f : Nat) : Option Nat :=
  ((List.range 8).map fun i => (f + i) % 8).find? fun p => s.linkup.getLsbD (8 * d + p)

/-- The dateline channel on a hop in direction d (R24): VC0 on entering a dimension, VC1 from its dateline on. -/
def State.vcOf (s : State) (came : Option Nat) (p : Packet) (d : Nat) : Nat :=
  let i := d / 2
  let c := coordOf s.pkgid.toNat i
  let crosses := if d % 2 = 0 then c + 1 == s.dim i else c == 0
  if crosses then 1 else if came.any fun a => a / 2 == i then Packet.vcd p else 0

/-- Direction, port, and the packet on its channel. -/
def State.hop (s : State) (mask : Option (List Nat)) (came : Option Nat) (p : Packet) : Option (Nat × Nat × Packet) :=
  let d := match mask with
    | some ds => ds.find? s.dirUp
    | none => s.route came p
  d.bind fun d => (s.portOf d (Packet.fold p)).map fun o => (d, o, Packet.onVc p (s.vcOf came p d))

/-- The hop of a packet that waits. -/
def State.hopOf (s : State) (e : Egress) : Option (Nat × Nat × Packet) := s.hop none (e.link.map (·.1)) e.pkt

/-! ### Credits (R25) -/

/-- Flits that a receiving buffer holds. -/
def bufferFlits : Nat := 80
/-- The buffer of a virtual channel of a port. -/
def creditKey (dir port vc : Nat) : Nat := (dir * 8 + port) * 4 + vc
def Packet.vc (p : Packet) : Nat := Packet.cls p % 2 * 2 + Packet.vcd p

/-- Flits of a packet. -/
def Packet.flits (p : Packet) : Nat := 1 + Packet.len p

/-- The link of a packet that arrives: the direction and port that the step names, and the packet's channel. -/
def StepArgs.link (a : StepArgs) : Nat × Nat × Nat := (a.n / 8 % 8, a.n % 8, Packet.vc a.pkt)

/-- The die at which a packet arrives: that of the direction's ports (R21). -/
def StepArgs.rxDie (a : StepArgs) : Nat := dirDie (StepArgs.link a).1

/-- Flits of the receiving buffer of a channel that are in use: packets that wait to go on, and those that came in during a
freeze (R14, R25). -/
def State.rxUsed (s : State) (l : Nat × Nat × Nat) : Nat :=
  ((s.egress.filter fun e => e.link == some l).map fun e => Packet.flits e.pkt).sum +
  (s.linkHeld.map fun t => match t with
    | .step _ a => if StepArgs.link a = l then Packet.flits a.pkt else 0
    | _ => 0).sum

/-- A receiving buffer has room for a packet, as its sender's credits say (R25). -/
def State.rxRoom (s : State) (a : StepArgs) : Bool := decide (s.rxUsed (StepArgs.link a) + Packet.flits a.pkt ≤ bufferFlits)

/-- A receiving buffer empties, and its credits go back (R25). -/
def State.giveBack (s : State) (l : Option (Nat × Nat × Nat)) (n : Nat) : State :=
  match l with
  | some (d, o, v) => s.emit (.credits d o v n)
  | none => s

/-- A packet leaves on a port: its credits are used, those of its buffer go back, and the time of R33 starts for a request of
this package. -/
def State.depart_ (s : State) (e : Egress) (d o : Nat) (q : Packet) : State :=
  let key := creditKey d o (Packet.vc q)
  let s := { s with
    credits := s.credits.put key (s.credits.getD key 0 + Packet.flits q)
    requests := if Packet.cls q = 0 ∧ Packet.type q ≠ 2 ∧ e.link = none then s.requests.map fun (r : Request) =>
        if r.die = Packet.srcDie q ∧ r.tag = Packet.tag q ∧ r.dst < 65536 then { r with since := s.timer.toNat } else r
      else s.requests }
  (s.emit (.packet d o q)).giveBack e.link (Packet.flits q)

/-- A port may start a packet on a channel: its group has no drain handshake open, and it holds credits for every flit (R25,
R28). -/
def State.mayStart (s : State) (d o : Nat) (q : Packet) : Bool :=
  !s.draining.contains d && decide (s.credits.getD (creditKey d o (Packet.vc q)) 0 + Packet.flits q ≤ bufferFlits)

/-- Sends the waiting packets that hold credits for every flit, in order on each channel; a packet goes over the die-to-die links
to the die of its direction and waits there (R7, R8, R21), and a direction whose ports have just changed waits for its neighbour's
report (R25, R28). `credits` counts the flits that the receiver has not yet returned. -/
def State.pump : List Egress → List Nat → State → State
  | [], _, s => s
  | e :: rest, stuck, s =>
    match s.hopOf e with
    | none => State.pump rest stuck { s with egress := s.egress ++ [e] }
    | some (d, o, q) =>
      let key := creditKey d o (Packet.vc q)
      let e := { e with die := dieAfter e.die (dirDie d) }
      if stuck.contains key || !s.mayStart d o q then State.pump rest (key :: stuck) { s with egress := s.egress ++ [e] }
      else State.pump rest stuck (s.depart_ e d o q)

/-! ### Packets to this package, and packets without a route -/

/-- The answer to an outstanding request comes in; one that nobody waits for any more gives its TAG back. -/
def State.answerRequest (s : State) (die tag : Nat) (status : Byte) (data : List Byte) : State :=
  { s with requests := s.requests.filterMap fun (r : Request) =>
      if r.die = die ∧ r.tag = tag ∧ r.answer.isNone ∧ r.dst < 65536 then
        (if r.who = orphan die then none else some { r with answer := some (status, data) })
      else some r }

/-- The data of a response as its requester takes it (R30). -/
def Packet.result (p : Packet) : List Byte :=
  match Packet.type p with
  | 3 => (p.head.drop 0x20).take 8
  | 6 => [p.head.getD 0x11 0]
  | _ => p.data

/-- A packet that has come to its destination, which is this package: a request waits to be dealt with. -/
def State.arrivePacket (s : State) (die : Nat) (p : Packet) : State :=
  if Packet.cls p = 1 then s.answerRequest (Packet.srcDie p) (Packet.tag p) (p.head.getD 0x10 0) (Packet.result p)
  else { s with inbox := s.inbox ++ [⟨s.nextN, Packet.type p, { who := die, pkt := p }, 0, [], []⟩], nextN := s.nextN + 1 }

/-- Changes the count of requests that a die has sent to a package (R35). -/
def State.countSent (s : State) (die dst n : Nat) : State :=
  s.modDie die fun d => { d with sent := d.sent.put dst ((d.sent.getD dst 0 + n) % 2 ^ 48) }

/-- A packet has no route in service (R23): a request of this package has not been sent and is answered UNREACH, another
package's request goes back to it as a response with UNREACH, and a WRITE or a response, which nobody answers, is lost. -/
def State.unreach (s : State) (e : Egress) : State :=
  let p := e.pkt
  let s := s.giveBack e.link (Packet.flits p)
  if Packet.cls p ≠ 0 then s
  else if e.link = none then
    let s := s.countSent (Packet.srcDie p) (Packet.dst p) (2 ^ 48 - 1)
    if Packet.type p = 2 then s else s.answerRequest (Packet.srcDie p) (Packet.tag p) 5 []
  else if Packet.type p = 2 then s
  else
    let q := Packet.reply p s.pkgid.toNat 5 [] []
    if (s.hop none none q).isSome then { s with egress := s.egress ++ [⟨e.die, none, q⟩] } else s

/-- Sends what can be sent of the packets that wait; one whose direction and the other way round are out of service goes back
(R23). A frozen device sends none (R14). -/
def State.flushLinks (s : State) : State :=
  if s.frozen then s
  else
    let t := (s.egress.filter fun e => (s.hopOf e).isNone).foldl State.unreach
      { s with egress := s.egress.filter fun e => (s.hopOf e).isSome }
    State.pump t.egress [] { t with egress := [] }

/-- A packet enters the links from a die, or goes on from the buffer of a link. -/
def State.sendOn (s : State) (die : Nat) (link : Option (Nat × Nat × Nat)) (p : Packet) : State :=
  if Packet.dst p = s.pkgid.toNat then (s.giveBack link (Packet.flits p)).arrivePacket die p
  else State.flushLinks { s with egress := s.egress ++ [⟨die, link, p⟩] }

/-- A packet of this package enters the links. -/
def State.sendLink (s : State) (die : Nat) (p : Packet) : State := s.sendOn die none p

/-- A packet enters the links in a direction that is chosen otherwise (R64); it needs credits there. -/
def State.sendVia (s : State) (ds : List Nat) (p : Packet) : Option State :=
  match s.hop (some ds) none p with
  | none => none
  | some (d, o, q) => if s.mayStart d o q then some (s.depart_ ⟨dirDie d, none, p⟩ d o q) else none

/-! ### Links in a freeze (R14) -/

/-- A packet arrives on a Brynry port. -/
def isArrival : Instr → Bool
  | .readRequest | .writeRequest | .amoRequest | .msgRequest | .strandRequest | .snapreq | .snapdata | .ckptPacketReceive
  | .fencePacket | .responseReceive | .packetForward => true
  | _ => false

/-- In a freeze an arriving packet stays in its port's buffer, whose credits are withheld; it is dealt with after the thaw. -/
def State.holdArrival (s : State) (i : Instr) (a : StepArgs) : State :=
  if s.boot = 0 ∧ isArrival i ∧ a.k = 0 ∧ s.rxRoom a then { s with linkHeld := s.linkHeld ++ [.step i a] } else s

end Sys2Proof.Machine
end

