-- ==== Sys2Proof/Machine/Trans.lean ====
section
/-! DEFINITION. Address regions and their exact checks (R67, R68), page tables, TLBs, the fault protocol, allocation and the
copy-on-write walk (R71–R90), and the form of a step that may have to wait for a translation. -/

namespace Sys2Proof.Machine

/-! ### Regions (R67, R68) -/

/-- The region of an address (R67). -/
inductive Region where
  | tenant | window | named (cluster off : Nat) | own (off : Nat) | noncanon | lsrange
  deriving DecidableEq, Repr

/-- Decodes an address (R67, R68). -/
def regionOf (va : Dword) : Region :=
  let a := va.toNat
  if 2 ^ 56 ≤ a then .noncanon
  else if a < 0xFE000000000000 then .tenant
  else if a < 0xFF000000000000 then .window
  else if 0xFFFFFE00000000 ≤ a ∧ a < 0xFFFFFF00000000 then
    (if bits va 29 28 ≠ 0 ∨ 40 ≤ bits va 27 22 then .lsrange
     else .named (bits va 31 30 * 40 + bits va 27 22) (bits va 21 0))
  else if 0xFFFFFFFFC00000 ≤ a then .own (bits va 21 0)
  else .noncanon

/-- The local-store word that an address names, from a cluster (R67). -/
def lsPlace (cluster : Nat) (va : Dword) : Option (Nat × Nat) :=
  match regionOf va with
  | .named c o => some (c, o)
  | .own o => some (cluster, o)
  | _ => none

/-- The stream control block of a stream id; an unlisted one is FREE (R149, R151). -/
def State.scb (s : State) (id : Nat) : List Byte :=
  s.scbs.getD id (leBytes 4 id ++ List.replicate 252 0)
def scbState (r : List Byte) : Nat := rd r 6 1
def scbTenant (r : List Byte) : Half := BitVec.ofNat 16 (rd r 4 2)
/-- A stream that STATESEL may name for a tenant: not FREE, not DEAD, of that tenant (R68). -/
def State.streamUsable (s : State) (id : Nat) (t : Half) : Bool :=
  let r := s.scb id
  scbState r != 0 && scbState r != 6 && scbTenant r == t

/-- Log2 of an access size. -/
def log2Size (n : Nat) : Byte := BitVec.ofNat 8 n.log2

/-- MEM_FATAL and the other exact traps of R68 at an address. -/
def memFatal (sub : Byte) (va : Dword) : Trap := { cause := 0x07, sub := sub, addr := va }
def alignTrap (sub : Byte) (va : Dword) : Trap := { cause := 0x03, sub := sub, addr := va }
def privTrap (sub : Byte) (va : Dword) : Trap := { cause := 0x02, sub := sub, addr := va }
def purityTrap (sub : Byte) (va : Dword) : Trap := { cause := 0x08, sub := sub, addr := va }

/-- Check 2 of R346: the region. -/
def State.regionTrap (s : State) (k : Nat) (va : Dword) : Option Trap :=
  let x := s.slot k
  match regionOf va with
  | .noncanon => some (memFatal 0x20 va)
  | .lsrange => some (memFatal 0x21 va)
  | .window =>
    if x.statesel.msb && s.streamUsable (bits x.statesel 31 0) x.tenant then none else some (memFatal 0x26 va)
  | _ => none

/-- Check 4 of R346: the plinth in user mode (R68); its TRADDR is zero (R269). -/
def State.plinthTrap (s : State) (k : Nat) (va : Dword) : Option Trap :=
  match lsPlace (clusterOf k) va with
  | some (_, off) => if 0x3C0000 ≤ off && !(s.slot k).supervisor then some (privTrap 0x03 0) else none
  | none => none

/-! ### Page tables (R73–R76) -/

/-- A translated space: a tenant's, or a stream's state space (R67). -/
inductive Space where
  | tenant (t : Half) | stream (id : Nat)
  deriving DecidableEq, Repr

/-- The physical address of a space's level-3 node; `none` for a tenant that is not live (R321). -/
def State.rootOf (s : State) : Space → Option Nat
  | .tenant t => match s.tenant? t with
    | some x => some (x.root.toNat)
    | none => if t = 0 then some Config.deviceRoot.toNat else none
  | .stream id => some (rd (s.scb id) 8 8)

/-- Points a space at another level-3 node (R80). -/
def State.setRoot (s : State) (sp : Space) (pa : Nat) : State :=
  match sp with
  | .tenant t =>
    let x := (s.tenant? t).getD ⟨0, 0, 0, 0, 0, 0, false⟩
    { s with tenants := s.tenants.put t.toNat { x with root := dw pa } }
  | .stream id => { s with scbs := s.scbs.put id (wr (s.scb id) 8 8 pa) }

/-- Page-table entries are read and written at their home (R77). -/
def State.entry (s : State) (pa : Nat) : Dword := dw (leNat (s.readHome pa 8))
def State.setEntry (s : State) (pa : Nat) (e : Dword) : State := s.pokeAll pa (leBytes 8 e.toNat)

/-- Index of a level (R74). -/
def ptIndex (va level : Nat) : Nat := va / 2 ^ (16 + 10 * level) % 1024

/-- Fields of a leaf entry (R76). -/
def leafV (e : Dword) : Bool := e.getLsbD 0
def leafTier (e : Dword) : Nat := bits e 57 56
def leafFrame (e : Dword) : Nat := bits e 39 16 * 65536
def leafPerm (e : Dword) (bit : Nat) : Bool := e.getLsbD bit

/-- Fault kinds (R84). -/
def kNotMapped : Byte := 1
def kPerm : Byte := 2
def kHostPage : Byte := 3
def kDropped : Byte := 4
def kBadPte : Byte := 5
def kSizeMix : Byte := 6
def kPoolEmpty : Byte := 7

/-- A leaf's reserved bits and fields are as R76 requires. -/
def State.leafOk (s : State) (e : Dword) : Bool :=
  bits e 63 58 == 0 && bits e 15 12 == 0 && bits e 7 4 == 0 &&
  !(leafPerm e 8 && leafTier e != 2) &&
  (if leafTier e = 0 then s.isFrame (leafFrame e) else leafFrame e == 0) && (leafTier e == 1 || bits e 55 40 == 0)

/-- Two entries have the same R, W, X, H and TIER bits. -/
def sameRights (a b : Dword) : Bool := bits a 3 1 == bits b 3 1 && leafPerm a 9 == leafPerm b 9 && leafTier a == leafTier b

/-- The 32 entries from `base` on are one 2 MiB page (R73): the same rights, and frames in order from a 2 MiB boundary on. -/
def State.pageOk (s : State) (base : Nat) : Bool :=
  let e0 := s.entry base
  decide (leafFrame e0 % 0x200000 = 0) && (List.range 32).all fun i =>
    let x := s.entry (base + 8 * i)
    leafV x && leafPerm x 10 && sameRights x e0 && (leafTier e0 != 0 || leafFrame x == leafFrame e0 + i * 65536)

/-- The 512 entries from `base` on are one contiguity run (R73): each has CONT, each 32 are a 2 MiB page, and their frames are
one contiguous block. -/
def State.runOk (s : State) (base : Nat) : Bool :=
  let e0 := s.entry base
  (List.range 16).all fun j =>
    let x := s.entry (base + 256 * j)
    s.pageOk (base + 256 * j) && (List.range 32).all (fun i => leafPerm (s.entry (base + 256 * j + 8 * i)) 11) &&
    (leafTier x == 0) == (leafTier e0 == 0) && (leafTier e0 != 0 || leafFrame x == leafFrame e0 + j * 0x200000)

/-- The condition of R73 over the group of an entry with SIZE or CONT. -/
def State.groupOk (s : State) (slotPa : Nat) (e : Dword) : Bool :=
  if leafPerm e 11 then leafPerm e 10 && s.runOk (slotPa / 4096 * 4096)
  else !leafPerm e 10 || s.pageOk (slotPa / 256 * 256)

/-- Log2 of the reach of a TLB entry for a leaf (R83): a contiguity run whose pages have different rights is kept page by page,
and a remote leaf by itself. -/
def State.leafReach (s : State) (slotPa : Nat) (e : Dword) : Nat :=
  if leafTier e ≠ 0 then 16
  else if leafPerm e 11 && (List.range 16).all (fun j => sameRights (s.entry (slotPa / 4096 * 4096 + 256 * j)) e) then 25
  else if leafPerm e 10 then 21 else 16

/-- What a walk finds (R74–R76). -/
inductive Found where
  | leaf (slotPa : Nat) (e : Dword) (excl : Bool)
  | fault (kind : Byte) (level : Nat) (e : Dword)
  deriving DecidableEq, Repr

/-- The kind of fault of a level-0 entry, if it has one (R76). -/
def State.leafFault (s : State) (slotPa : Nat) (e : Dword) : Option Byte :=
  if !leafV e then some (if leafPerm e 8 then kHostPage else kNotMapped)
  else if !s.leafOk e then some kBadPte
  else if !s.groupOk slotPa e then some kSizeMix
  else none

/-- The walk below the node `pa` of a level, with whether every count so far was 1 (R81). -/
def State.walkFrom (s : State) (va : Nat) : Nat → Nat → Bool → Found
  | 0, pa, excl =>
    let slotPa := pa + 8 * ptIndex va 0
    let e := s.entry slotPa
    let excl := excl && (s.nodeDesc pa).refcnt == 1
    match s.leafFault slotPa e with
    | some k => .fault k 0 e
    | none => .leaf slotPa e (excl && leafTier e == 0 && (s.frameDesc (leafFrame e)).refcnt == 1)
  | level + 1, pa, excl =>
    let e := s.entry (pa + 8 * ptIndex va (level + 1))
    if !e.getLsbD 0 then .fault kNotMapped (level + 1) e
    else if bits e 63 40 ≠ 0 ∨ bits e 12 1 ≠ 0 then .fault kBadPte (level + 1) e
    else s.walkFrom va level (bits e 39 13 * 8192) (excl && (s.nodeDesc pa).refcnt == 1)

/-- A walk from the root of a space. -/
def State.walk (s : State) (sp : Space) (va : Nat) : Found :=
  match s.rootOf sp with
  | some r => s.walkFrom va 3 r true
  | none => .fault kNotMapped 3 0

/-- A walk below the node `pa` of a level reaches a BUSY node. -/
def State.busyFrom (s : State) (va : Nat) : Nat → Nat → Bool
  | 0, pa => (s.nodeDesc pa).busy
  | level + 1, pa =>
    let e := s.entry (pa + 8 * ptIndex va (level + 1))
    (s.nodeDesc pa).busy ||
      (e.getLsbD 0 && decide (bits e 63 40 = 0 ∧ bits e 12 1 = 0) && s.busyFrom va level (bits e 39 13 * 8192))

/-- A walker reaches a BUSY node on its way, and waits there (R80). -/
def State.walkBusy (s : State) (sp : Space) (va : Nat) : Bool := (s.rootOf sp).any fun r => s.busyFrom va 3 r

/-! ### TLBs (R81, R83) -/

/-- An entry of a TLB serves a page of a root. -/
def TlbEntry.hits (t : TlbEntry) (die : Nat) (core : Option Nat) (root va : Nat) : Bool :=
  decide (t.core = core) && (core.isSome || t.die == die) && t.root == root && va / 2 ^ t.size == t.page

/-- The leaf entry that a TLB entry gives for a page. -/
def TlbEntry.leafFor (t : TlbEntry) (va : Nat) : Dword :=
  if leafTier t.leaf = 0 then
    setBits t.leaf 39 16 (bits t.leaf 39 16 + (va / 65536 - t.page * 2 ^ t.size / 65536))
  else t.leaf

/-- A TLB hit: first the core's, then the die's. -/
def State.tlbFind (s : State) (die : Nat) (core : Option Nat) (root va : Nat) : Option TlbEntry :=
  match core.bind fun c => s.tlb.find? fun t => t.hits die (some c) root va with
  | some t => some t
  | none => s.tlb.find? fun t => t.hits die none root va

/-- Keeps at most `n` entries of one TLB, the oldest leaving first (DESIGN CHOICE, log entry 6). -/
def tlbTrim (l : List TlbEntry) (same : TlbEntry → Bool) (n : Nat) : List TlbEntry :=
  if (l.filter same).length < n then l
  else match l.findIdx? same with
    | some i => l.eraseIdx i
    | none => l

/-- A walk's leaf enters the TLBs of the die and of the core (R83). EXCL asks that every frame in its reach has REFCNT = 1
(R81). -/
def State.tlbInsert (s : State) (die : Nat) (core : Option Nat) (root va slotPa : Nat) (e : Dword) (excl : Bool) : State :=
  let size := s.leafReach slotPa e
  let e0 := if leafTier e = 0 then setBits e 39 16 (leafFrame e / 65536 - va % 2 ^ size / 65536) else e
  let excl := excl && (size == 16 || (List.range (2 ^ size / 65536)).all fun i => (s.frameDesc (leafFrame e0 + i * 65536)).refcnt == 1)
  let add := fun (s : State) (c : Option Nat) =>
    let l := s.tlb.filter fun t => !t.hits die c root va
    let l := tlbTrim l (fun t => decide (t.core = c) && (c.isSome || t.die == die)) (if c.isSome then 64 else 8192)
    { s with tlb := l ++ [⟨die, c, root, va / 2 ^ size, size, e0, excl⟩] }
  match core with
  | some c => add (add s none) (some c)
  | none => add s none

/-- Drops every TLB entry of the package that serves a page of a root (R80, R83). -/
def State.tlbDrop (s : State) (root va : Nat) : State :=
  { s with tlb := s.tlb.filter fun t => !(t.root == root && va / 2 ^ t.size == t.page) }
/-- Clears EXCL in every TLB entry whose addresses lie in the range of a node (R81). -/
def State.clearExcl (s : State) (lo n : Nat) : State :=
  { s with tlb := s.tlb.map fun t => if rangesMeet (t.page * 2 ^ t.size) (2 ^ t.size) lo n then { t with excl := false } else t }
/-- Clears EXCL wherever a frame is mapped (R81, R454). -/
def State.clearExclFrame (s : State) (pa : Nat) : State :=
  { s with tlb := s.tlb.map fun t =>
      if leafTier t.leaf == 0 && rangesMeet (leafFrame t.leaf) (2 ^ t.size) pa 65536 then { t with excl := false } else t }

/-! ### Allocation and counts (R79, R89) -/

/-- A frame of the pool that is in use: it has a descriptor, or nodes lie in it (R89). -/
def State.frameUsed (s : State) (pa : Nat) : Bool :=
  (s.frames.find? (pa / 65536)).isSome || s.heldFree.contains (pa / 65536) ||
  (List.range 8).any fun i => (s.nodes.find? (pa / 8192 + i)).isSome
/-- The physical address of pool frame index f of a die (R71, R89). -/
def poolFrame (d f : Nat) : Nat := 2 ^ 39 + d * 2 ^ 33 + f % 256 * 2 ^ 25 + f / 256 * 65536
/-- The lowest free index from `i` on, with `n` left to try. -/
def findFree (p : Nat → Bool) : Nat → Nat → Option Nat
  | 0, _ => none
  | n + 1, i => if p i then some i else findFree p n (i + 1)
def State.frameCount (s : State) : Nat := s.poolsz * 16 * 256
/-- AllocFrame on one die (R89). -/
def State.allocFrameOn (s : State) (d : Nat) : Option Nat :=
  (findFree (fun f => !s.frameUsed (poolFrame d f)) s.frameCount 0).map (poolFrame d)
/-- AllocNode on one die: eight nodes to a pool frame (R89). -/
def State.allocNodeOn (s : State) (d : Nat) : Option Nat :=
  (findFree (fun i =>
    let pa := poolFrame d (i / 8) + i % 8 * 8192
    (s.nodes.find? (pa / 8192)).isNone && (s.frames.find? (pa / 65536)).isNone && !s.heldFree.contains (pa / 65536))
    (s.frameCount * 8) 0).map fun i => poolFrame d (i / 8) + i % 8 * 8192
/-- The first die that has one: d, then d XOR 1, 2, 3 (R89). -/
def tryDies (d : Nat) (f : Nat → Option Nat) : Option Nat :=
  ((f d).or (f (d ^^^ 1))).or ((f (d ^^^ 2)).or (f (d ^^^ 3)))
def State.allocFrame (s : State) (d : Nat) : Option Nat := tryDies d s.allocFrameOn
def State.allocNode (s : State) (d : Nat) : Option Nat := tryDies d s.allocNodeOn

/-- Frees a frame (R79), or holds it while a drain needs its contents (R179). A table frame first has the counts of its
entries lowered by its home bank (R222). -/
def State.freeFrame (s : State) (pa : Nat) : State :=
  let fd := s.frameDesc pa
  if fd.kv ≠ [] then { s.modFrame pa fun f => { f with refcnt := 0 } with
    kvFree := if s.kvFree.contains (pa / 65536) then s.kvFree else s.kvFree ++ [pa / 65536] } else
  if s.drain.isSome && decide (fd.gen.toNat < s.ckgen.toNat) then
    { s.modFrame pa fun f => { f with refcnt := 0 } with
      heldFree := if s.heldFree.contains (pa / 65536) then s.heldFree else s.heldFree ++ [pa / 65536] }
  else { s with frames := s.frames.del (pa / 65536) }
/-- Lowers a frame's count (R79). -/
def State.lowerFrame (s : State) (pa : Nat) : State :=
  let fd := s.frameDesc pa
  if fd.refcnt ≤ 1 then (if fd.pincnt = 0 then s.freeFrame pa else s.modFrame pa fun f => { f with refcnt := 0 })
  else s.modFrame pa fun f => { f with refcnt := f.refcnt - 1 }
/-- A raise that would pass the limit is refused (R79). -/
def State.frameFull (s : State) (pa : Nat) : Bool := (s.frameDesc pa).refcnt == 0xFFFFFFFF
def State.raiseFrame (s : State) (pa : Nat) : State := s.modFrame pa fun f => { f with refcnt := f.refcnt + 1 }
/-- Raises the counts of several frames, or of several nodes, one by one; nothing when one of the raises is refused (R79). -/
def State.raiseFrames : List Nat → State → Option State
  | [], s => some s
  | f :: fs, s => if s.frameFull f then none else State.raiseFrames fs (s.raiseFrame f)
def State.raiseNodes : List Nat → State → Option State
  | [], s => some s
  | n :: ns, s => if (s.nodeDesc n).refcnt = 0xFFFFFFFF then none
    else State.raiseNodes ns (s.modNode n fun x => { x with refcnt := x.refcnt + 1 })
def State.pinFrame (s : State) (pa : Nat) : State := s.modFrame pa fun f => { f with pincnt := f.pincnt + 1 }
/-- Lowers PINCNT; a frame without references goes when it reaches zero (R79). -/
def State.unpinFrame (s : State) (pa : Nat) : State :=
  let s := s.modFrame pa fun f => { f with pincnt := f.pincnt - 1 }
  if (s.frameDesc pa).refcnt = 0 ∧ (s.frameDesc pa).pincnt = 0 then s.freeFrame pa else s

/-- Child nodes or frames that the valid entries of a node name. -/
def State.children (s : State) (pa level : Nat) : List Nat :=
  (List.range 1024).filterMap fun i =>
    let e := s.entry (pa + 8 * i)
    if !e.getLsbD 0 then none
    else if level = 0 then (if leafTier e = 0 then some (leafFrame e) else none) else some (bits e 39 13 * 8192)

/-- Lowers a node's count; at zero it is freed and its children's counts go down (R79). -/
def State.lowerNode : Nat → State → Nat → State
  | 0, s, pa =>
    if (s.nodeDesc pa).refcnt ≤ 1 then
      (s.children pa 0).foldl State.lowerFrame { s with nodes := s.nodes.del (pa / 8192) }
    else s.modNode pa fun n => { n with refcnt := n.refcnt - 1 }
  | level + 1, s, pa =>
    if (s.nodeDesc pa).refcnt ≤ 1 then
      (s.children pa (level + 1)).foldl (State.lowerNode level) { s with nodes := s.nodes.del (pa / 8192) }
    else s.modNode pa fun n => { n with refcnt := n.refcnt - 1 }

/-! ### The copy-on-write walk (R80) -/

/-- How a walk for a write ends: the frame to write in, a remote tier, a fault, empty pools at a node that stays BUSY (R89), a
BUSY node, a frame copy that has begun, or a refused count. -/
inductive WalkEnd where
  | frame (pa : Nat) | remote (e : Dword) | fault (kind : Byte) (level : Nat) (e : Dword)
  | empty (level node : Nat) (e : Dword) | busy (node : Nat) | copying (n : Nat) | refsat
  deriving DecidableEq, Repr

/-- Where a walk holds its next pointer: the root field, or an entry. -/
inductive PtSlot where
  | root (sp : Space) | entry (pa : Nat)
  deriving DecidableEq, Repr

/-- Points a slot at a copied node (R80). -/
def State.setSlotNode (s : State) (t : PtSlot) (pa : Nat) : State :=
  match t with
  | .root sp => s.setRoot sp pa
  | .entry a => s.setEntry a (setBits (s.entry a) 39 13 (pa / 8192))

/-- Raises the counts of the children of a node that is copied (R79, R80). -/
def State.raiseKids (s : State) (node level : Nat) : Option State :=
  if level = 0 then s.raiseFrames (s.children node level) else s.raiseNodes (s.children node level)

/-- The copy-down of one shared node (R80), whose children's counts have been raised: the copy takes the node's entries and
stands in the slot. -/
def State.copyNode (s : State) (t : PtSlot) (node copy level va : Nat) : State :=
  let s := { s with mem := [0, 1, 2, 3].foldl (fun m d => replaceMem m (viewKey d copy) 8192
    (sliceMem s.mem (viewKey (homeDie node) node) 8192)) s.mem }
  let s := s.modNode copy fun _ => ⟨1, (s.nodeDesc node).level, false, (s.nodeDesc node).owner⟩
  let s := s.modNode node fun n => { n with refcnt := n.refcnt - 1 }
  let span := 2 ^ (26 + 10 * level)
  (s.clearExcl (va / span * span) span).setSlotNode t copy

/-- Starts the copy of a shared frame (R80): its contents go to the fresh frame as a write of the frame's home die, and
the level-0 node stays BUSY. DESIGN CHOICE: POISON of the fresh frame, which R80 does not name, is clear (log entry 56). -/
def State.startCopy (s : State) (node slotPa old fresh root page : Nat) : State × Nat :=
  let fd := s.frameDesc old
  let s := s.modFrame fresh fun _ => { fd with refcnt := 0, gen := s.ckgen, pincnt := 0, watch := false, side := false,
                                               lq := false, poison := false, kv := fd.kv }
  let p := s.postWrite (homeDie old) 0 (.frame fresh (sliceMem s.mem (viewKey (homeDie old) old) 65536))
  let s := p.1.modNode node fun n => { n with busy := true }
  ({ s with copies := s.copies ++ [⟨s.nextN, node, slotPa, old, fresh, root, page, p.2, none⟩], nextN := s.nextN + 1 }, s.nextN)

/-- Where the walk down to level 0 ends: the leaf's slot and its node, a fault, empty pools at a node that stays BUSY, a BUSY
node, or a refused count. -/
inductive SlotEnd where
  | slot (pa node : Nat) | fault (kind : Byte) (level : Nat) (e : Dword) | empty (level node : Nat) | busy (node : Nat) | refsat
  deriving DecidableEq, Repr

/-- One level of WriteWalk (R80): a shared node is copied down; the node that the walk goes on in, or how it ends. -/
def State.ownNode (s : State) (t : PtSlot) (node level va : Nat) : State × Except SlotEnd Nat :=
  if (s.nodeDesc node).busy then (s, .error (.busy node))
  else if (s.nodeDesc node).refcnt ≤ 1 then (s, .ok node)
  else match s.allocNode (homeDie node) with
    | none => (s, .error (.empty level node))
    | some nd => match s.raiseKids node level with
      | none => (s, .error .refsat)
      | some u => (u.copyNode t node nd level va, .ok nd)

/-- The node levels of WriteWalk (R80). -/
def State.slotWalkFrom (va : Nat) : Nat → State → PtSlot → Nat → State × SlotEnd
  | level, s, t, node =>
    match s.ownNode t node level va with
    | (s, .error end_) => (s, end_)
    | (s, .ok nd) =>
      let slotPa := nd + 8 * ptIndex va level
      let e := s.entry slotPa
      match level with
      | 0 => (s, .slot slotPa nd)
      | l + 1 =>
        if !e.getLsbD 0 then (s, .fault kNotMapped (l + 1) e)
        else if bits e 63 40 ≠ 0 ∨ bits e 12 1 ≠ 0 then (s, .fault kBadPte (l + 1) e)
        else State.slotWalkFrom va l s (.entry slotPa) (bits e 39 13 * 8192)

/-- The node levels of WriteWalk from the root of a space. -/
def State.slotWalk (s : State) (sp : Space) (va : Nat) : State × SlotEnd :=
  match s.rootOf sp with
  | some r => State.slotWalkFrom va 3 s (.root sp) r
  | none => (s, .fault kNotMapped 3 0)

/-- The kind of fault of a write at a leaf, if it has one; a REMOTE verdict (`force`) performs it at the page's tier whatever
the leaf allows (R85). -/
def State.writeFault (s : State) (slotPa : Nat) (e : Dword) (force : Bool) : Option Byte :=
  let dropped := if leafTier e = 3 then some kDropped else none
  if force && leafV e && s.leafOk e then dropped
  else (s.leafFault slotPa e).or ((if leafPerm e 2 then none else some kPerm).or dropped)

/-- The leaf level of WriteWalk (R80): a shared frame is copied; a walk that finds it being copied for another space waits until
that copy is over (R224). -/
def State.leafStep (s : State) (root va slotPa node : Nat) (force : Bool) : State × WalkEnd :=
  let e := s.entry slotPa
  match s.writeFault slotPa e force with
  | some k => (s, .fault k 0 e)
  | none =>
    if leafTier e ≠ 0 then (s, .remote e)
    else
      let old := leafFrame e
      if s.copies.any fun c => c.old == old then (s, .busy node)
      else if (s.frameDesc old).refcnt > 1 then
        match s.allocFrame (homeDie old) with
        | none => (s, .empty 0 node e)
        | some fresh => let r := s.startCopy node slotPa old fresh root va; (r.1, .copying r.2)
      else (s, .frame old)

/-- WriteWalk (R80), or with `force` the walk of a write that a REMOTE verdict allows (R85). -/
def State.writeWalk (s : State) (sp : Space) (va : Nat) (force : Bool := false) : State × WalkEnd :=
  match s.slotWalk sp va with
  | (t, .slot pa node) => t.leafStep ((t.rootOf sp).getD 0) va pa node force
  | (t, .fault kind level e) => (t, .fault kind level e)
  | (t, .empty level node) => (t, .empty level node 0)
  | (t, .busy node) => (t, .busy node)
  | (t, .refsat) => (t, .refsat)

/-- A frame mapped with H = 1 has its hashes from then on (R78). -/
def State.noteHash (s : State) (e : Dword) : State :=
  let pa := leafFrame e
  let fd := s.frameDesc pa
  if leafPerm e 9 && leafTier e == 0 && !fd.hv then
    let t := (s.tenant? fd.owner).getD ⟨0, 0, 0, 0, 0, 0, false⟩
    let img := sliceMem s.mem (viewKey (homeDie pa) pa) 65536
    s.modFrame pa fun f => { f with hv := true, hash1 := pageHash t.key1 img, hash2 := pageHash t.key2 img }
  else s

/-- A leaf takes a new entry, whose frame has its hashes when H is set (R78). -/
def State.mapLeaf (s : State) (pa : Nat) (e : Dword) : State := (s.setEntry pa e).noteHash e

/-! ### Steps that may wait (R84–R87) -/

/-- Why a step does not run to its end: it waits, with what the wait leaves behind; an access ended FATAL; or it traps. -/
inductive Stop where
  | wait (leave : State → State)
  | fatal (sub : Byte) (va : Dword)
  | trap (t : Trap)

/-- A step that may wait: on a wait the state is the one before the step, with what the wait leaves behind. -/
abbrev M := StateT State (Except Stop)

/-- Who accesses memory: die, core, tenant, state-window stream, who waits, what a fault message says of it, and the record
field 0x78 of guaranteed work that an engine does (R136). -/
structure Who where
  die    : Nat
  core   : Option Nat
  cluster : Nat
  tenant : Half
  stream : Option Nat
  req    : Requester
  slot   : Option Nat
  uid    : Nat
  wher   : Word
  dest   : Byte := 0xFF
  pc     : Dword := 0
  work   : Option Dword := none

/-- The strand of a slot as an accessor (R67, R84). -/
def State.whoSlot (s : State) (k : Nat) (req : Requester) : Who :=
  let x := s.slot k
  { die := dieOf k, core := some (coreOf k), cluster := clusterOf k, tenant := x.tenant
    stream := if x.statesel.msb then some (bits x.statesel 31 0) else none
    req := req, slot := some k, uid := x.uid, wher := whereWord k, pc := x.pc }

/-- The slot of a die's service core (R70). -/
def svcSlot (d : Nat) : Nat :=
  let w := (Config.svcloc d).toNat
  slotIndex (w / 2048) (w / 32 % 64) (w / 8 % 4) (w % 8)

/-- The space and the address within it (R67). -/
def Who.space (w : Who) (va : Dword) : Option (Space × Nat) :=
  match regionOf va with
  | .tenant => some (.tenant w.tenant, va.toNat)
  | .window => w.stream.map fun id => (.stream id, va.toNat % 2 ^ 48)
  | _ => none

/-- A fault record for an access (R84). -/
def State.faultRec (s : State) (w : Who) (sp : Space) (va : Dword) (acc size : Nat) (kind : Byte) (level : Nat) (e : Dword) :
    FaultRec :=
  { die := w.die, req := w.req, kind := kind, access := BitVec.ofNat 8 acc, size := log2Size size
    level := BitVec.ofNat 8 level, tenant := w.tenant, va := va, root := dw ((s.rootOf sp).getD 0), wher := w.wher
    dest := w.dest, pc := w.pc, entry := e }

/-- The fault of a requester at an address that is outstanding. -/
def State.faultOf (s : State) (r : Requester) (va : Dword) : Option FaultRec :=
  s.faults.find? fun f => decide (f.req = r) && f.va == va
/-- The nodes that unanswered faults held BUSY are free again (R89). -/
def releaseHolds (fs : List FaultRec) (t : Table NodeDesc) : Table NodeDesc :=
  fs.foldl (fun t f => match f.hold with
    | some n => if f.verdict.isNone then t.put (n / 8192) { t.getD (n / 8192) NodeDesc.zero with busy := false } else t
    | none => t) t

/-- Drops the faults that `gone` names, with the nodes that they hold. -/
def State.dropFaults (s : State) (gone : FaultRec → Bool) : State :=
  { s with faults := s.faults.filter fun f => !gone f, nodes := releaseHolds (s.faults.filter gone) s.nodes }
/-- Drops the faults of a requester, or the one at an address. -/
def State.dropFault (s : State) (r : Requester) : State := s.dropFaults fun f => decide (f.req = r)
def State.dropFaultAt (s : State) (r : Requester) (va : Dword) : State := s.dropFaults fun f => decide (f.req = r) && f.va == va

/-- What a step leaves when an access has no usable entry: a fault that waits for its reply (R84), or FATAL at once
(R87). -/
def stopFault (s : State) (w : Who) (sp : Space) (va : Dword) (acc size : Nat) (kind : Byte) (level : Nat) (e : Dword) : Stop :=
  if kind = kPoolEmpty ∧ s.poolsz = 0 then .fatal 0x22 va
  else if w.slot = some (svcSlot w.die) then .fatal 0x24 va
  else .wait fun t => let t := t.dropFaultAt w.req va; { t with faults := t.faults ++ [t.faultRec w sp va acc size kind level e] }

/-- What a walk leaves that finds every pool empty: its fault, and the node that stays BUSY until the reply (R89). -/
def stopEmpty (s : State) (w : Who) (sp : Space) (va : Dword) (acc size level node : Nat) (e : Dword) : Stop :=
  match stopFault s w sp va acc size kPoolEmpty level e with
  | .wait f => .wait fun t =>
    let u := (f t).modNode node fun n => { n with busy := true }
    { u with faults := u.faults.map fun (r : FaultRec) => if r.req = w.req ∧ r.va = va then { r with hold := some node } else r }
  | x => x

/-- The verdict that is in for this access (R85): nothing outstanding or RETRY goes on, REMOTE is performed without a
mapping until the requester is done, FATAL ends the access, and without a reply the step waits. -/
def verdict (w : Who) (va : Dword) : M Bool := do
  let s ← get
  match s.faultOf w.req va with
  | none => pure false
  | some f => match f.verdict with
    | none => throw (.wait id)
    | some .retry => set (s.dropFaultAt w.req va); pure false
    | some .remote => pure true
    | some (.fatal sub) => throw (.fatal sub va)

/-- The place of an access through a leaf entry. -/
def placeOf (e : Dword) (va : Nat) : Place :=
  if leafTier e = 0 then .mem (leafFrame e + va % 65536) else if leafTier e = 1 then .peer (bits e 55 40) else .host

/-- The place that a leaf's tier names for an access that a REMOTE verdict allows (R85), whatever the leaf allows: a host-held
page is at the host (R76), and no other entry without V, no malformed one and no dropped page names a tier. -/
def State.leafPlace (s : State) (e : Dword) (va : Nat) : Option Place :=
  if leafV e then (if s.leafOk e && leafTier e != 3 then some (placeOf e va) else none)
  else if leafPerm e 8 then some .host else none

/-- The place of a read that a REMOTE verdict allows: the page's current tier (R85). -/
def State.tierPlace (s : State) (sp : Space) (va : Nat) : Option Place :=
  match s.walk sp va with
  | .leaf _ e _ => s.leafPlace e va
  | .fault _ level e => if level = 0 then s.leafPlace e va else none

/-- The subcode of an access to a page without a tier whose fault was answered REMOTE. DESIGN CHOICE (log entry 52): the rules
give such an answer no effect but that the access has no place, and R457 ends its task in the fault queue. -/
def noTier : Byte := 0x40

/-- The 64-byte lines that an access touches (R133). -/
def linesOf (a n : Nat) : Nat := (a % 64 + n + 63) / 64

/-- Counts an event whose occurrences the spec leaves open: a free number of them, below `n` (R266; log entry 53). -/
def State.countFree (s : State) (c : Nat) (code : Byte) (n : Nat) : State :=
  if (s.core c).evsel.toList.contains code then
    let r := s.free
    r.1.count c code (r.2.toNat % n)
  else s

/-- What an access counts: bank lines of guaranteed work, of a strand or an engine (R136); for a strand's own accesses,
accesses homed on another die, and L1 misses, waits for a local-store bank and deflections outside its own cluster as the
hardware has them (R266); and a bank of another die counts towards migration (R91). -/
def State.noteAccess (s : State) (w : Who) (acc size : Nat) (p : Place) : State :=
  match p, (if acc ≤ 3 then w.slot else none) with
  | .mem pa, none => match w.work with
    | some owner => s.chargeWork owner w.tenant (homeDie pa) 2 (linesOf pa size)
    | none => s
  | .mem pa, some k =>
    let d := homeDie pa
    let s := s.charge k d 2 (linesOf pa size)
    let s := (if acc = 0 then s.countFree (coreOf k) 0x05 2 else s).countFree (coreOf k) 0x07 (2 ^ 32)
    if d = dieOf k then s
    else
      let s := s.count (coreOf k) 0x08 1
      s.modSlot k fun x =>
        let n := Vector.ofFn fun i => if i.val = d then BitVec.ofNat 16 (min ((x.remote.get i).toNat + 1) 65535) else x.remote.get i
        let due := x.migthr.getLsbD 31 && decide (bits x.migthr 15 0 < (n.toList.getD d 0).toNat)
        { x with remote := n, mark := if due && x.mark.isNone then some (homeBank pa) else x.mark }
  | .ls c _, some k =>
    let s := s.countFree (coreOf k) 0x06 2
    let s := if c = clusterOf k then s else s.countFree (coreOf k) 0x07 (2 ^ 32)
    if c / 40 = dieOf k then s else s.count (coreOf k) 0x08 1
  | _, _ => s

/-- An access has its place, and counts. -/
def atPlace (w : Who) (acc size : Nat) (p : Place) : M Place := do
  modify (·.noteAccess w acc size p)
  pure p

/-- The translated space of an access and the address within it, or the subcode that ends it (R68): the accesses of engines
meet the checks that a strand's met at issue. -/
def State.spaceOf (s : State) (w : Who) (va : Dword) : Except Byte (Space × Nat) :=
  match regionOf va with
  | .tenant => .ok (.tenant w.tenant, va.toNat)
  | .window => match w.stream with
    | some id => if s.streamUsable id w.tenant then .ok (.stream id, va.toNat % 2 ^ 48) else .error 0x26
    | none => .error 0x26
  | .lsrange => .error 0x21
  | _ => .error 0x20

/-- The place of a read (R84): bit `perm` of the leaf must be set. `acc` is ACCESS of the fault message. A walk waits at a BUSY
node (R80). -/
def placeRead (w : Who) (va : Dword) (size acc perm : Nat) : M Place := do
  match lsPlace w.cluster va with
  | some (c, o) => atPlace w acc size (.ls c o)
  | none =>
    let remote ← verdict w va
    let s ← get
    match s.spaceOf w va with
    | .error sub => throw (.fatal sub va)
    | .ok (sp, a) =>
      if remote then
        if s.walkBusy sp a then throw (.wait id)
        match s.tierPlace sp a with
        | some p => return ← atPlace w acc size p
        | none => throw (.fatal noTier va)
      let root := (s.rootOf sp).getD 0
      match s.tlbFind w.die w.core root a with
      | some t =>
        let e := t.leafFor a
        if leafPerm e perm then
          (if leafTier e = 3 then throw (stopFault s w sp va acc size kDropped 0 e) else atPlace w acc size (placeOf e a))
        else throw (stopFault s w sp va acc size kPerm 0 e)
      | none =>
        if s.walkBusy sp a then throw (.wait id)
        match s.walk sp a with
        | .fault kind level e => throw (stopFault s w sp va acc size kind level e)
        | .leaf slotPa e excl =>
          if !leafPerm e perm then throw (stopFault s w sp va acc size kPerm 0 e)
          else if leafTier e = 3 then throw (stopFault s w sp va acc size kDropped 0 e)
          else do
            set ((s.noteHash e).tlbInsert w.die w.core root a slotPa e excl)
            atPlace w acc size (placeOf e a)

/-- The place of a write: WriteWalk, unless the TLB entry has EXCL (R80). A frame copy or a BUSY node makes it wait. -/
def placeWrite (w : Who) (va : Dword) (size acc : Nat) : M Place := do
  match lsPlace w.cluster va with
  | some (c, o) => atPlace w acc size (.ls c o)
  | none =>
    let remote ← verdict w va
    let s ← get
    match s.spaceOf w va with
    | .error sub => throw (.fatal sub va)
    | .ok (sp, a) =>
      let root := (s.rootOf sp).getD 0
      match (s.tlbFind w.die w.core root a).filter fun t => !remote && t.excl && leafPerm t.leaf 2 && leafTier t.leaf == 0 with
      | some t => atPlace w acc size (placeOf (t.leafFor a) a)
      | none =>
        let walked := fun (t : State) => (t.writeWalk sp a remote).1
        let after := fun (x : Stop) => match x with
          | .wait f => .wait fun t => f (walked t)
          | x => x
        let r := s.writeWalk sp a remote
        match r.2 with
        | .frame pa =>
          let s' := r.1
          match s'.walk sp a with
          | .leaf slotPa e excl =>
            set (if remote then s' else (s'.noteHash e).tlbInsert w.die w.core ((s'.rootOf sp).getD 0) a slotPa e excl)
          | .fault .. => set s'
          atPlace w acc size (.mem (pa + a % 65536))
        | .remote e => set r.1; atPlace w acc size (placeOf e a)
        | .fault kind level e =>
          if !remote then throw (after (stopFault s w sp va acc size kind level e))
          match if level = 0 then s.leafPlace e a else none with
          | some p => atPlace w acc size p
          | none => throw (.fatal noTier va)
        | .empty level node e => throw (after (stopEmpty s w sp va acc size level node e))
        | .busy _ => throw (.wait walked)
        | .copying n => throw (.wait fun t =>
            let u := walked t
            { u with copies := u.copies.map fun (c : CopyJob) => if c.n = n then { c with who := some (w.req, va) } else c })
        | .refsat => throw (.fatal 0x23 va)

/-- What a step would give in a state, when it gives it at once. -/
def peek {α : Type} (m : M α) (s : State) : Option α :=
  match m s with
  | .ok r => some r.1
  | .error _ => none

/-- Runs a step: on a wait the state is the one before with what the wait leaves. -/
def runM (m : M Unit) (onFatal : Byte → Dword → State → State) (onTrap : Trap → State → State) (s : State) : State :=
  match m s with
  | .ok r => r.2
  | .error (.wait f) => f s
  | .error (.fatal sub va) => onFatal sub va s
  | .error (.trap t) => onTrap t s

/-! ### Requests to peers and to the host (R26, R33, R34, R38, R76) -/

/-- The lowest TAG of a die that no outstanding request carries, below 4,096 (R26). -/
def State.freeTag (s : State) (d : Nat) : Option Nat :=
  findFree (fun t => !(s.requests.any fun r => r.die == d && r.tag == t)) 4096 0

/-- The answer to an earlier request of this step to a package, or none if it has not been sent. -/
def State.answerTo (s : State) (w : Who) (opc dst : Nat) (bytes : List Byte) : Option Request :=
  s.requests.find? fun r => r.who = w.req ∧ r.opc = opc ∧ r.dst = dst ∧ r.bytes = bytes

/-! ### The pure tag (R184, R185, R188, R189) -/

/-- The task that a strand belongs to. -/
def State.taskOf (s : State) (x : Slot) : Option Task := s.tasks.find? fun t => t.card = x.owner ∧ t.tenant = x.tenant

/-- A region of a card: address, length, local-store offset, flags (R120). -/
def region (img : List Byte) (i : Nat) : Nat × Nat × Nat × Nat :=
  let o := 0x40 + 16 * i
  (rd img o 8, rd img (o + 8) 4, rd img (o + 0xC) 2, rd img (o + 0xE) 2)
def regionLocal (r : Nat × Nat × Nat × Nat) : Bool := r.2.2.2 % 2 == 1 && r.2.1 != 0

/-- [a, a + n) lies inside [b, b + m). -/
def inside (a n b m : Nat) : Bool := decide (b ≤ a ∧ a + n ≤ b + m)

/-- Pages of the code span of a pure task (R189). -/
def State.codeSpan (s : State) (sp : Space) (page : Nat) : Nat → Nat
  | 0 => 0
  | n + 1 => match s.walk sp (page * 65536) with
    | .leaf _ e _ => if leafTier e = 0 && leafPerm e 3 && leafPerm e 9 then 1 + s.codeSpan sp (page + 1) n else 0
    | _ => 0

/-- The code span of a pure task: its base and its length (R188, R189). -/
def State.codeRange (s : State) (t : Task) : Nat × Nat :=
  let page := rd t.img 0 8 / 65536
  (page * 65536, (1 + s.codeSpan (.tenant t.tenant) (page + 1) 15) * 65536)

/-- An access of a pure strand stays inside its code span. -/
def State.inCode (s : State) (t : Task) (a n : Nat) : Bool :=
  inside a n (s.codeRange t).1 (s.codeRange t).2

/-- Every byte of [a, a + n) lies in one of some ranges, given by base and length; the fuel is more than the number of ranges. -/
def coveredBy (rs : List (Nat × Nat)) : Nat → Nat → Nat → Bool
  | 0, _, _ => false
  | fuel + 1, a, n => match rs.find? fun r => inside a 1 r.1 r.2 with
    | some r => decide (a + n ≤ r.1 + r.2) || coveredBy rs fuel (r.1 + r.2) (a + n - (r.1 + r.2))
    | none => false

/-- The pure tag's check of a load (1) or a store (2): the subcode it raises (R185). -/
def State.pureSub (s : State) (k : Nat) (write : Bool) (va : Dword) (n : Nat) : Option Byte :=
  let x := s.slot k
  if !x.pureBound then none
  else match s.taskOf x with
    | none => some (if write then 0x02 else 0x01)
    | some t =>
      let rs := [0, 1, 2, 3].map (region t.img)
      let ok : Bool := match lsPlace (clusterOf k) va with
        | some (c, o) =>
          c == clusterOf k && coveredBy (((if write then rs.drop 2 else rs).filter regionLocal).map fun r => (r.2.2.1 * 64, r.2.1)) 5 o n
        | none =>
          regionOf va == .tenant && coveredBy
            (if write then (rs.drop 2).map fun r => (r.1, r.2.1)
             else (((rs.take 2).filter fun r => !regionLocal r).map fun r => (r.1, r.2.1)) ++ [s.codeRange t]) 5 va.toNat n
      if ok then none else some (if write then 0x02 else 0x01)

/-- PURITY for an instruction that the pure tag forbids (R185). -/
def State.pureTrap (s : State) (k : Nat) (sub : Byte) : Option Trap :=
  if (s.slot k).pureBound then some (purityTrap sub 0) else none

/-- The first of several checks that fails. -/
def firstTrap : List (Option Trap) → Option Trap
  | [] => none
  | some t :: _ => some t
  | none :: r => firstTrap r

/-- The checks of R346 after the guard, in their order; a pure strand's address is TRADDR. -/
def State.accessTrap (s : State) (k : Nat) (va : Dword) (size : Nat) (write : Bool) : Option Trap :=
  firstTrap [s.regionTrap k va,
    if va.toNat % size = 0 then none else some (alignTrap (log2Size size) va),
    s.plinthTrap k va,
    (s.pureSub k write va size).map fun sub => purityTrap sub va]

end Sys2Proof.Machine
end

