-- ==== Sys2Proof/Machine/Remote.lean ====
section
/-! DEFINITION. Brynry packets and RDMA messages that the device sends (R29, R30, R34, R38, R103), and reading and writing
memory in a step that may wait. -/

namespace Sys2Proof.Machine

/-- A header flit (R29): type, length, class, source die, packages, tenant, tag and type-specific fields. -/
def packetHead (type len cls die : Nat) (dst src : Nat) (tenant : Half) (tag : Nat) (fs : List (Nat × Nat × Nat)) : List Byte :=
  let h := leBytes 1 type ++ leBytes 1 len ++ leBytes 1 (die * 8 + cls) ++ [0] ++ leBytes 2 dst ++ leBytes 2 src ++
    leBytes 2 tenant.toNat ++ leBytes 2 tag ++ List.replicate 52 0
  fs.foldl (fun h f => wr h f.1 f.2.1 f.2.2) h

/-- Data flits: the bytes padded to whole flits. -/
def dataFlits (bs : List Byte) : List Byte := bs ++ List.replicate ((64 - bs.length % 64) % 64) 0

/-- A package id whose coordinates all lie inside the torus (R20, R34). -/
def State.pkgOk (s : State) (p : Nat) : Bool :=
  decide (p % 16 < s.torus.1) && decide (p / 16 % 16 < s.torus.2.1) && decide (p / 256 % 16 < s.torus.2.2.1) &&
    decide (p / 4096 % 16 < s.torus.2.2.2)

/-- A request packet (R29, R30): the data of a WRITE or MSG of at most 32 bytes stands in the header flit. -/
def requestPacket (type die dst src : Nat) (tenant : Half) (tag : Nat) (fs : List (Nat × Nat × Nat)) (data : List Byte) :
    Packet :=
  if (type = 2 ∨ type = 4) ∧ data.length ≤ 32 then
    ⟨(packetHead type 0 0 die dst src tenant tag fs).take 32 ++ data ++ List.replicate (32 - data.length) 0, []⟩
  else
    let d := dataFlits data
    ⟨packetHead type (d.length / 64) 0 die dst src tenant tag fs, d⟩

/-- A request leaves the die: counted for its destination, which enters the touched set (R35, R103). -/
def State.sendPacket (s : State) (die dst : Nat) (pkt : Packet) : State :=
  let s := (s.countSent die dst 1).modDie die fun d => { d with
    touched := if d.touched.contains dst then d.touched else d.touched ++ [dst] }
  s.sendLink die pkt

/-- Records an outstanding request (R26). -/
def State.addRequest (s : State) (w : Who) (tag dst opc : Nat) (key : List Byte) : State :=
  { s with requests := s.requests ++ [⟨w.die, tag, dst, opc, s.timer.toNat, w.req, w.uid, key, none⟩] }

/-- Sends a FENCE packet to a package and records it: it carries the count as it stands before it, and counts as a request
itself (R35, R103). `tok` is the model's name for the fence that it belongs to. -/
def State.sendFence (s : State) (die dst : Nat) (who : Requester) (tok : Nat := 0) : State :=
  match s.freeTag die with
  | none => s
  | some tag =>
    let count := (s.die die).sent.getD dst 0
    let r : Request := ⟨die, tag, dst, 9, s.timer.toNat, who, tok, leBytes 8 dst ++ leBytes 8 (count + 1), none⟩
    ({ s with requests := s.requests ++ [r] }.countSent die dst 1).sendLink die
      { head := packetHead 9 0 0 die dst s.pkgid.toNat 0 tag [(0x10, 8, count)], data := [] }

/-- The touched set has room for a package, or already holds it (R103). -/
def State.canTouch (s : State) (die dst : Nat) : Bool :=
  (s.die die).touched.contains dst || decide ((s.die die).touched.length < 64)

/-- No request has left the die for the package of a FENCE since that FENCE left. -/
def State.untouchedSince (s : State) (r : Request) : Bool :=
  (s.die r.die).sent.getD r.dst 0 % 2 ^ 48 == rd r.bytes 8 8 % 2 ^ 48

/-- Packages that FENCE packets with STATUS OK have fenced leave the touched set of a die, but for those to which a request has
left since (R103). -/
def State.fenced (s : State) (die : Nat) (rs : List Request) : State :=
  s.modDie die fun x => { x with touched := x.touched.filter fun t => !rs.any fun r => r.dst == t && s.untouchedSince r }

/-- A full touched set is relieved by a FENCE to its oldest member, which leaves the set once it has answered OK (R103). -/
def State.relieveTouched (s : State) (die : Nat) : State :=
  match s.requests.find? fun r => r.die == die && decide (r.who = .fence die 10000) with
  | some r => match r.answer with
    | none => s
    | some a =>
      let s := { s with requests := s.requests.filter fun x => !(x.die == die && decide (x.who = .fence die 10000)) }
      if a.1 = 0 then s.fenced die [r] else s
  | none => match (s.die die).touched with
    | [] => s
    | d :: _ => s.sendFence die d (.fence die 10000)

/-- Asks a peer and returns its STATUS and data (R30, R31, R34); `key` tells one request of a step from another. -/
def askPeer (w : Who) (dst type : Nat) (va : Dword) (key : List Byte) (fs : List (Nat × Nat × Nat)) (data : List Byte) :
    M (Byte × List Byte) := do
  let s ← get
  let key := leBytes 8 va.toNat ++ key
  match s.answerTo w type dst key with
  | some r => match r.answer with
    | some a => pure a
    | none => throw (.wait id)
  | none =>
    if !s.pkgOk dst then throw (.fatal 5 va)
    else if !s.canTouch w.die dst then throw (.wait fun t => t.relieveTouched w.die)
    else match s.freeTag w.die with
      | none => throw (.wait id)
      | some tag => throw (.wait fun t =>
          (t.addRequest w tag dst type key).sendPacket w.die dst
            (requestPacket type w.die dst t.pkgid.toNat w.tenant tag fs data))

/-- The requests of a step that were answered REFUSED are forgotten, so that they are sent again. -/
def State.resendRefused (s : State) (r : Requester) : State :=
  { s with requests := s.requests.filter fun x => !(decide (x.who = r) && (x.answer.map (·.1)) == some 6) }

/-- A peer's STATUS other than OK and REFUSED ends the access FATAL (R31). DESIGN CHOICE: a REFUSED READ or AMO, which changed
nothing there, is sent again (log entry 50). -/
def statusOk (w : Who) (a : Byte × List Byte) (va : Dword) : M (List Byte) :=
  if a.1 = 0 then pure a.2
  else if a.1 = 6 then throw (.wait fun t => t.resendRefused w.req)
  else throw (.fatal (if 8 ≤ a.1.toNat then 4 else a.1) va)

/-- Writes to a peer: WRITE has no response (R30). DESIGN CHOICE: it carries TAG 0, which names no outstanding request (log
entry 43). -/
def tellPeer (w : Who) (dst : Nat) (va : Dword) (bs : List Byte) : M Unit := do
  let s ← get
  if !s.pkgOk dst then throw (.fatal 5 va)
  else if !s.canTouch w.die dst then throw (.wait fun t => t.relieveTouched w.die)
  else
    set (s.sendPacket w.die dst (requestPacket 2 w.die dst s.pkgid.toNat w.tenant 0
      [(0x10, 8, va.toNat), (0x18, 4, bs.length)] bs))

/-- The system queue pair of a tenant (R43). -/
def State.sysQp (s : State) (t : Half) : Nat := ((s.tenant? t).map (·.qp)).getD 0

/-- An RDMA READ or atomic, of which a queue pair has at most 16 outstanding (R38). -/
def Out.reads : Out → Bool
  | .rdmaRead .. => true
  | .rdmaAtomic .. => true
  | _ => false

/-- Asks the host over RDMA: READ 0x101, CAS 0x102, ADD 0x103 (R76). -/
def askHost (w : Who) (opc : Nat) (va : Dword) (len : Nat) (x y : Dword) : M (List Byte) := do
  let s ← get
  let key := leBytes 8 va.toNat ++ leBytes 8 len ++ leBytes 8 x.toNat ++ leBytes 8 y.toNat
  match s.answerTo w opc 0x10000 key with
  | some r => match r.answer with
    | some a => statusOk w a va
    | none => throw (.wait id)
  | none => match s.freeTag w.die with
    | none => throw (.wait id)
    | some tag =>
      if 16 ≤ ((s.qp (s.sysQp w.tenant)).pend.filter fun p => p.2.2.2.reads).length then throw (.wait id)
      throw (.wait fun t =>
        let qp := t.sysQp w.tenant
        let o := if opc = 0x101 then Out.rdmaRead qp tag va len else Out.rdmaAtomic qp tag va (opc == 0x102) x y
        (t.addRequest w tag 0x10000 opc key).sendRoce qp w.die tag o)

/-- Writes to host memory; the acknowledgement is awaited by SYSTEM releases (R103, R111). -/
def tellHost (w : Who) (va : Dword) (bs : List Byte) : M Unit := do
  let s ← get
  match s.freeTag w.die with
  | none => throw (.wait id)
  | some tag =>
    set ((s.addRequest { w with req := .device s.nextN } tag 0x10000 0x104 []).sendRoce (s.sysQp w.tenant) w.die tag
      (.rdmaWrite (s.sysQp w.tenant) va bs))

/-- Requests of a finished step are forgotten; one that has no answer yet keeps its TAG until it has (R26). -/
def State.dropRequests (s : State) (r : Requester) : State :=
  { s with requests := s.requests.filterMap fun x =>
      if x.who ≠ r then some x else if x.answer.isSome then none else some { x with who := orphan x.die } }

/-- An access of a core to another cluster's local store comes behind the messages that its station sent there earlier (R259). -/
def State.storeTurn (s : State) (w : Who) (c : Nat) : Bool := w.core.isNone || c == w.cluster || s.pathClear w.cluster c s.nextN

/-- Reads bytes at a place as the accessor's die sees them (R94); those of another die's local store once the die's view covers
the stamps of the writes that produced them (R99). -/
def readPlace (w : Who) (va : Dword) (p : Place) (n : Nat) : M (List Byte) := do
  match p with
  | .ls c o =>
    let s ← get
    if (c / 40 ≠ w.die && !s.lsCovered w.die c o n) || !s.storeTurn w c then throw (.wait id)
    pure (s.readLs c o n)
  | .mem pa => pure ((← get).readView w.die pa n)
  | .peer pkg =>
    let a ← askPeer w pkg 1 va (leBytes 4 n) [(0x10, 8, va.toNat), (0x18, 4, n)] []
    let bs ← statusOk w a va
    pure (bs.take n)
  | .host => do
    let bs ← askHost w 0x101 va n 0 0
    pure (bs.take n)

/-- What stands for a write to another package, and to the host, beside the numbers of writes (R111). -/
def peerWrite (pkg : Nat) : Nat := 2 ^ 64 + pkg
def hostWrite : Nat := 2 ^ 65

/-- Writes bytes at a place: the number of the write that carries them (R97), or what stands for it. A write waits while a die
holds too many announcements of its die (R100). -/
def writePlace (w : Who) (va : Dword) (p : Place) (bs : List Byte) : M (List Nat) := do
  match p with
  | .ls c o => do
    let s ← get
    if !s.storeTurn w c then throw (.wait id)
    set (s.storeLs w.die c o bs)
    pure []
  | .mem pa => do
    let s ← get
    if !s.announceRoom w.die then throw (.wait id)
    let r := s.postWrite w.die w.uid (.bytes pa bs)
    set r.1
    pure [r.2]
  | .peer pkg => do tellPeer w pkg va bs; pure [peerWrite pkg]
  | .host => do tellHost w va bs; pure [hostWrite]

/-- Bytes up to the end of the page, or up to 4,096 for a remote packet. -/
def chunkLen (va : Dword) (n : Nat) : Nat := min n (4096 - va.toNat % 4096)

/-- Reads `n` bytes from `va`, page by page; `perm` is the leaf bit that allows it. -/
def readMemFrom (w : Who) (acc perm : Nat) : Nat → Dword → Nat → M (List Byte)
  | 0, _, _ => pure []
  | fuel + 1, va, n => do
    if n = 0 then return []
    let k := chunkLen va n
    let p ← placeRead w va k acc perm
    let bs ← readPlace w va p k
    let rest ← readMemFrom w acc perm fuel (va + dw k) (n - k)
    pure (bs ++ rest)

/-- Reads memory in a step that may wait (R84). -/
def readMem (w : Who) (va : Dword) (n acc : Nat) : M (List Byte) := readMemFrom w acc 1 (n / 4096 + 2) va n

/-- Writes bytes from `va`, page by page, each through WriteWalk (R80). -/
def writeMemFrom (w : Who) (acc : Nat) : Nat → Dword → List Byte → M (List Nat)
  | 0, _, _ => pure []
  | fuel + 1, va, bs => do
    if bs = [] then return []
    let k := chunkLen va bs.length
    let p ← placeWrite w va k acc
    let a ← writePlace w va p (bs.take k)
    let rest ← writeMemFrom w acc fuel (va + dw k) (bs.drop k)
    pure (a ++ rest)

/-- Writes memory in a step that may wait (R80, R84). -/
def writeMem (w : Who) (va : Dword) (bs : List Byte) (acc : Nat) : M (List Nat) :=
  writeMemFrom w acc (bs.length / 4096 + 2) va bs

/-- An issued instruction ends with FATAL before anything issues after it (R86, R274): its destinations stay empty until
trap entry voids them, and the next instruction is the first that did not issue (R270). -/
def State.fatalIssued (b t : State) (dests : List RegRef) (sub : Byte) (addr : Dword) : State :=
  let k := b.focus
  let x := b.slot k
  (t.modSlot k fun y =>
    { (dests.foldl (fun y r => y.mark_ r .empty) y) with
      fatals := y.fatals ++ [⟨x.seq, x.pc, [], sub, addr, dests, x.replay.isSome, false⟩] }).takeDue k

/-- The strand of the instruction that issues, as an accessor: its requests are those of its outstanding instruction, with its
destination (R84). -/
def State.whoIssue (b : State) (d : BitVec 5) : Who :=
  { b.whoSlot b.focus (.op b.focus b.nextN) with dest := BitVec.ofNat 8 d.toNat }

/-- Issues a long-latency instruction that acts at its issue and gives gd a value: when an access of it has to wait it is
outstanding, and acts with the registers that it read once the access may be made (R84, R241). -/
def issueLater (p : Issue) (l : BitVec 4) (d : BitVec 5) (body : State → M Dword) : State → Res :=
  issue { p with la := some l, writes := .g d :: p.writes } fun b t =>
    let k := b.focus
    let r : Requester := .op k b.nextN
    let clean := fun (u : State) => (u.dropFault r).dropRequests r
    match body b t with
    | .ok (x, u) => b.depart (clean u) l (.compute [.g d x]) [.g d]
    | .error (.wait f) => f (b.depart t l (.deferred p.instr (b.slot k).g.toList d) [.g d])
    | .error (.fatal sub va) => (clean b).fatalIssued (clean t) (liveDests [.g d]) sub va
    | .error (.trap tr) => (clean b).raise k tr

/-- The state as an outstanding instruction saw it at its issue, for its step: its slot's registers and STATESEL then. -/
def State.asIssued (s : State) (k : Nat) (o : Outst) (g : List Dword) : State :=
  { s with focus := k, nextN := o.id }.modSlot k fun x => { x with
    g := Vector.ofFn fun i => g.getD i.val 0
    gst := Vector.replicate 32 .full
    pc := o.pc, seq := o.seq, statesel := o.ssel, tenant := o.ten }

/-- Issues an instruction whose step may wait and which holds its slot meanwhile: on a fault it stays unissued until the reply
(R84, R85), FATAL ends it as MEM_FATAL (R86; `stay` for the MIGR and MIGV that R270 names), and a trap found by the step is
exact. -/
def issueM (p : Issue) (body : State → M Unit) (stay : Bool := false) (s : State) : Res :=
  issue p (fun b t =>
    let k := b.focus
    let r : Requester := .issue k
    let clean := fun (u : State) => (u.dropFault r).dropRequests r
    match body b t with
    | .ok x => clean x.2
    | .error (.wait f) => f b
    | .error (.fatal sub va) =>
      if stay then (clean b).fatalIssue k sub va else (clean b).fatalIssued (clean t) (liveDests p.writes) sub va
    | .error (.trap tr) => (clean b).raise k tr) s

end Sys2Proof.Machine
end

