-- ==== Sys2Proof/Machine/Memory.lean ====
section
/-! DEFINITION. Issue of loads, stores, synchronising accesses, fences and atomics (R345–R356). Each leaves an outstanding
operation; MemoryDev gives what it does. -/

namespace Sys2Proof.Machine

/-- Scope of a FENCE code (R95) and of an AMO field (R105). -/
def Scope.ofCode (c : BitVec 3) : Scope :=
  if c = 0 then .strand else if c = 1 then .cluster else if c = 2 then .die else if c = 3 then .package else .system
def Scope.ofField (c : BitVec 2) : Scope :=
  if c = 0 then .strand else if c = 1 then .die else if c = 2 then .package else .system

/-- An outstanding operation that reads memory and has not returned its value: an MSEND reads its message as a load does until it
is on its way (R368), and so does an instruction that waits for an access with its slot free. -/
def Outst.readPending (o : Outst) : Bool :=
  match o.op, o.st with
  | _, .returned _ => false
  | _, .after _ _ => false
  | _, .gathered _ _ => false
  | .load .., _ => true
  | .atomic .., _ => true
  | .redord .., _ => true
  | .sync .., _ => true
  | .msend _ _ none _, _ => true
  | .deferred .., _ => true
  | _, _ => false

/-- An outstanding store or atomic that has not left the load-store unit. -/
def Outst.writePending (o : Outst) : Bool :=
  match o.op, o.st with
  | .store .., _ => true
  | .copyOut .., _ => true
  | .deferred .., _ => true
  | _, .returned _ => false
  | _, .after _ _ => false
  | _, .gathered _ _ => false
  | .atomic .., _ => true
  | .redord .., _ => true
  | _, _ => false

/-- An atomic above STRAND scope is still to end with its FENCE.ACQ: later accesses wait (R102, R105). -/
def Slot.acquiring (x : Slot) : Bool :=
  x.outs.any fun o => match o.op with
    | .atomic _ _ _ _ _ sc _ => sc != .strand
    | .redord _ _ _ _ sc _ _ => sc != .strand
    | _ => false

/-- The core of this package that a place word names, or the one that stands for it (R283, R358). -/
def State.hereCore (s : State) (w : Dword) : Option Nat :=
  if placePkg w = s.pkgid.toNat then some (s.atCore (placeCore w)) else none

/-- Every MSEND and RFILL among some outstanding instructions has been delivered that goes to a core which `near` accepts; a
core of another package is none (R95). -/
def State.delivered (s : State) (outs : List Outst) (near : Option Nat → Bool) : Bool :=
  outs.all fun o => match o.op with
    | .rfill t .. => !near (some (s.atCore (coreOf t)))
    | .msend place .. => !near (s.hereCore place)
    | _ => true

/-- ReleaseComplete of a scope for the instructions of a slot before some point, of which `outs` are outstanding (R95), but for
the FENCE packets of SYSTEM (R103). -/
def State.releasedOf (s : State) (k : Nat) (outs : List Outst) (sc : Scope) : Bool :=
  let uid := (s.slot k).uid
  let d := dieOf k
  !(outs.any Outst.writePending) &&
  match sc with
  | .strand => s.allPerformed uid
  | .cluster => s.allPerformed uid && s.delivered outs fun c => c.any fun c => c / 4 == clusterOf k
  | .die => s.allVisibleAt uid d && s.delivered outs fun c => c.any fun c => c / 160 == d
  | .package => s.allVisible uid && s.delivered outs (·.isSome)
  | .system => s.allVisible uid && s.delivered outs fun _ => true

/-- ReleaseComplete of a scope for a strand (R95). -/
def State.released (s : State) (k : Nat) (sc : Scope) : Bool := s.releasedOf k (s.slot k).outs sc

/-- The issue counts of the four dies: the frontier of R102. -/
def State.frontier (s : State) : Stamp := Vector.ofFn fun e => (s.die e.val).issued

/-- The die of a slot has yet to cover the stamp of a value that a relaxed atomic of its strand returned (R99, R102). -/
def State.owing (s : State) (k : Nat) : Bool := !(s.slot k).owed.all (s.viewCovers (dieOf k))

/-- The acquire part of a fence (R102): earlier loads and atomics have returned, and the die's view covers the stamps of what
they returned (R99); at SYSTEM scope the frontier is gathered once, and the die's view covers it. -/
def acquireM (k : Nat) (sc : Scope) : M Unit := do
  let s ← get
  if (s.slot k).outs.any Outst.readPending || s.owing k then throw (.wait id)
  if (s.slot k).owed ≠ [] then modify (·.modSlot k fun x => { x with owed := [] })
  if sc = .system then
    match (s.slot k).gather with
    | none => throw (.wait fun t => t.modSlot k fun x => { x with gather := some s.frontier })
    | some f =>
      if !s.viewCovers (dieOf k) f then throw (.wait id)
      modify (·.modSlot k fun x => { x with gather := none })

/-- A peer's STATUS as the subcode of a FATAL end (R31). -/
def statusSub (st : Byte) : Byte := if 8 ≤ st.toNat then 4 else st

/-- FENCE packets to the touched set of a die as it stands when they are sent, STATUS OK from each, and the acknowledgement of
every host write of the die (R103). `tok` names the fence, so that one which a trap cut short leaves it no answers. DEDUCED: the
set is emptied of the packages that were fenced, but for those to which a request has left since (log entry 50). -/
def fenceTouched (d : Nat) (who : Requester) (tok : Nat := 0) : M Unit := do
  let s ← get
  if s.requests.any (fun r => r.die == d && decide (0x102 ≤ r.opc) && r.answer.isNone) then throw (.wait id)
  let mine := s.requests.filter fun r => decide (r.who = who ∧ r.opc = 9 ∧ r.uid = tok) && r.die == d
  if mine = [] then
    let ds := (s.die d).touched
    if ds ≠ [] then
      if 4096 < (s.requests.filter fun r => r.die == d).length + ds.length then throw (.wait id)
      throw (.wait fun u => ds.foldl (fun u t => u.sendFence d t who tok) (u.dropRequests who))
  else
    match mine.findSome? fun r => r.answer.bind fun a => if a.1 = 0 then none else some a.1 with
    | some st => throw (.fatal (statusSub st) 0)
    | none =>
      if mine.any fun r => r.answer.isNone then throw (.wait id)
      set ({ s with requests := s.requests.filter fun r => !(decide (r.who = who ∧ r.opc = 9 ∧ r.uid = tok) && r.die == d) }.fenced d mine)

/-- Writes meet R111: those of this package are visible, those to another package are acknowledged by a FENCE that was
sent after them, and those to the host by RDMA. -/
def settleWrites (w : Who) (ws : List Nat) : M Unit := do
  let s ← get
  if !ws.all s.writeDone then throw (.wait id)
  if ws.contains hostWrite && s.requests.any fun r => r.die == w.die && decide (0x102 ≤ r.opc) && r.answer.isNone then
    throw (.wait id)
  for p in (ws.filter fun n => decide (2 ^ 64 ≤ n) && n != hostWrite).dedup do
    let s ← get
    let pkg := p - 2 ^ 64
    match s.requests.find? fun r => decide (r.who = w.req ∧ r.opc = 9 ∧ r.dst = pkg) with
    | none => throw (.wait fun t => t.sendFence w.die pkg w.req)
    | some r => match r.answer with
      | none => throw (.wait id)
      | some a => if a.1 ≠ 0 then throw (.fatal (statusSub a.1) 0)

/-- The SYSTEM part of a release of a slot (R103), for its next instruction. -/
def fencePackages (k : Nat) : M Unit := do
  let x := (← get).slot k
  fenceTouched (dieOf k) (.fence (dieOf k) k) (x.uid * 2 ^ 64 + x.seq)

/-- The parts of a fence that hold its slot at issue (R102, R103). -/
def fenceM (k : Nat) (sc : Scope) (rel acq : Bool) : M Unit := do
  let s ← get
  if rel && !s.released k sc then throw (.wait id)
  if rel && sc == .system then fencePackages k
  if acq then acquireM k sc

/-- FENCE (R352). -/
def fence (i : Instr) (g : BitVec 3) (sc : Scope) (rel acq : Bool) : State → Res :=
  issue { instr := i, guard := g } fun b t =>
    match fenceM b.focus sc rel acq t with
    | .ok x => x.2
    | .error (.wait f) => f b
    | .error (.fatal sub va) => (b.dropRequests (.fence (dieOf b.focus) b.focus)).fatalIssue b.focus sub va
    | .error (.trap tr) => b.raise b.focus tr

/-- A load of one register (R345, R346): checked at issue, outstanding from then on. -/
def loadG (i : Instr) (d b : BitVec 5) (g : BitVec 3) (l : BitVec 4) (o : BitVec 9) (size : Nat) (signed : Bool) :
    State → Res :=
  longOp { instr := i, guard := g, reads := [.g b], hold := fun s => (s.slot s.focus).acquiring
           check := fun s => s.accessTrap s.focus (effAddr (s.readG s.focus b) o size) size false } l [.g d]
    fun s => .load [(effAddr (s.readG s.focus b) o size, size)] [] (.g d size signed)

/-- A store of one register (R345, R346). -/
def storeG (i : Instr) (r b : BitVec 5) (g : BitVec 3) (l : BitVec 4) (o : BitVec 9) (size : Nat) : State → Res :=
  longOp { instr := i, guard := g, reads := [.g b, .g r], hold := fun s => (s.slot s.focus).acquiring
           check := fun s => s.accessTrap s.focus (effAddr (s.readG s.focus b) o size) size true } l []
    fun s => .store [(effAddr (s.readG s.focus b) o size, leBytes size (s.readG s.focus r).toNat)]

/-- The checks of a synchronising access (R349). -/
def State.syncTrap (s : State) (k : Nat) (ea : Dword) (write : Bool) : Option Trap :=
  firstTrap [if ea.toNat % 8 = 0 then none else some (alignTrap 3 ea),
    if (lsPlace (clusterOf k) ea).isSome then none else some (memFatal 0x21 ea),
    s.plinthTrap k ea, (s.pureSub k write ea 8).map fun sub => purityTrap sub ea]

/-- LDF, LDFP and FEGET (R349). -/
def syncLoad (i : Instr) (d a b : BitVec 5) (g : BitVec 3) (l : BitVec 4) (kind : Nat) : State → Res :=
  longOp { instr := i, guard := g, reads := [.g a, .g b], hold := fun s => (s.slot s.focus).acquiring
           check := fun s => s.syncTrap s.focus (s.readG s.focus a + s.readG s.focus b) false } l [.g d]
    fun s => .sync kind (s.readG s.focus a + s.readG s.focus b) 0 d s.timer.toNat

/-- STF and FESET (R349). -/
def syncStore (i : Instr) (r a b : BitVec 5) (g : BitVec 3) (l : BitVec 4) (kind : Nat) : State → Res :=
  longOp { instr := i, guard := g, reads := [.g a, .g b, .g r], hold := fun s => (s.slot s.focus).acquiring
           check := fun s => s.syncTrap s.focus (s.readG s.focus a + s.readG s.focus b) true } l []
    fun s => .sync kind (s.readG s.focus a + s.readG s.focus b) (s.readG s.focus r) 0 s.timer.toNat

/-- SIZE of an atomic (R353). -/
def amoSize (z : BitVec 1) : Nat := if z = 0 then 4 else 8

/-- Issue of an atomic (R353, R354): its checks, and above STRAND scope the FENCE.FULL before it (R105). -/
def amoIssue (i : Instr) (d a b : BitVec 5) (z : BitVec 1) (c : BitVec 2) (l : BitVec 4) (op : Nat) (f : State → Op) :
    State → Res :=
  let sc := Scope.ofField c
  issue { instr := i, la := some l, reads := [.g a, .g b] ++ (if 9 ≤ op ∧ op ≠ 10 then [.g d] else []), writes := [.g d]
          hold := fun s => (s.slot s.focus).acquiring
          check := fun s =>
            let ea := s.readG s.focus a
            firstTrap [s.regionTrap s.focus ea,
              if ea.toNat % amoSize z = 0 then none else some (alignTrap (log2Size (amoSize z)) ea),
              s.plinthTrap s.focus ea, (s.pureSub s.focus true ea (amoSize z)).map fun sub => purityTrap sub ea,
              if op = 10 && (s.slot s.focus).pureBound then some (purityTrap 0x04 ea) else none] }
    fun b t =>
      let go := b.depart t l (f b) [.g d]
      if sc = .strand then go
      else match fenceM b.focus sc true true t with
        | .ok x => b.depart x.2 l (f b) [.g d]
        | .error (.wait w) => w b
        | .error (.fatal sub va) => (b.dropRequests (.fence (dieOf b.focus) b.focus)).fatalIssue b.focus sub va
        | .error (.trap tr) => b.raise b.focus tr

/-- An atomic other than RED.ORD (R353). -/
def amo (i : Instr) (d a b : BitVec 5) (z : BitVec 1) (c : BitVec 2) (l : BitVec 4) (op : Nat) : State → Res :=
  amoIssue i d a b z c l op fun s =>
    let x := s.slot s.focus
    .atomic (x.readG a) (amoSize z) op (x.readG b) (x.readG d) (Scope.ofField c) d

/-- LDB (R345). -/
def execLdb (d b : BitVec 5) (g : BitVec 3) (l : BitVec 4) (o : BitVec 9) : State → Res :=
  loadG (.ldb d b g l o) d b g l o 1 true

/-- LDH (R345). -/
def execLdh (d b : BitVec 5) (g : BitVec 3) (l : BitVec 4) (o : BitVec 9) : State → Res :=
  loadG (.ldh d b g l o) d b g l o 2 true

/-- LDW (R345). -/
def execLdw (d b : BitVec 5) (g : BitVec 3) (l : BitVec 4) (o : BitVec 9) : State → Res :=
  loadG (.ldw d b g l o) d b g l o 4 true

/-- LDD (R345). -/
def execLdd (d b : BitVec 5) (g : BitVec 3) (l : BitVec 4) (o : BitVec 9) : State → Res :=
  loadG (.ldd d b g l o) d b g l o 8 true

/-- LDBN (R345). -/
def execLdbn (d b : BitVec 5) (g : BitVec 3) (l : BitVec 4) (o : BitVec 9) : State → Res :=
  loadG (.ldbn d b g l o) d b g l o 1 false

/-- LDHN (R345). -/
def execLdhn (d b : BitVec 5) (g : BitVec 3) (l : BitVec 4) (o : BitVec 9) : State → Res :=
  loadG (.ldhn d b g l o) d b g l o 2 false

/-- LDWN (R345). -/
def execLdwn (d b : BitVec 5) (g : BitVec 3) (l : BitVec 4) (o : BitVec 9) : State → Res :=
  loadG (.ldwn d b g l o) d b g l o 4 false

/-- STB (R345). -/
def execStb (r b : BitVec 5) (g : BitVec 3) (l : BitVec 4) (o : BitVec 9) : State → Res :=
  storeG (.stb r b g l o) r b g l o 1

/-- STH (R345). -/
def execSth (r b : BitVec 5) (g : BitVec 3) (l : BitVec 4) (o : BitVec 9) : State → Res :=
  storeG (.sth r b g l o) r b g l o 2

/-- STW (R345). -/
def execStw (r b : BitVec 5) (g : BitVec 3) (l : BitVec 4) (o : BitVec 9) : State → Res :=
  storeG (.stw r b g l o) r b g l o 4

/-- STD (R345). -/
def execStd (r b : BitVec 5) (g : BitVec 3) (l : BitVec 4) (o : BitVec 9) : State → Res :=
  storeG (.std r b g l o) r b g l o 8

/-- LDF (R348, R349). -/
def execLdf (d a b : BitVec 5) (g : BitVec 3) (l : BitVec 4) : State → Res :=
  syncLoad (.ldf d a b g l) d a b g l 0

/-- STF (R348, R349). -/
def execStf (r a b : BitVec 5) (g : BitVec 3) (l : BitVec 4) : State → Res :=
  syncStore (.stf r a b g l) r a b g l 1

/-- LDFP (R348, R349). -/
def execLdfp (d a b : BitVec 5) (g : BitVec 3) (l : BitVec 4) : State → Res :=
  syncLoad (.ldfp d a b g l) d a b g l 2

/-- FEGET (R348, R349). -/
def execFeget (d a b : BitVec 5) (g : BitVec 3) (l : BitVec 4) : State → Res :=
  syncLoad (.feget d a b g l) d a b g l 3

/-- FESET (R348, R349). -/
def execFeset (r a b : BitVec 5) (g : BitVec 3) (l : BitVec 4) : State → Res :=
  syncStore (.feset r a b g l) r a b g l 4

/-- PREF (R350): a hint that completes at issue, with no register, no memory and no trap but ILLEGAL. -/
def execPref (v a b : BitVec 5) (g : BitVec 3) (l : BitVec 4) : State → Res :=
  issue { instr := .pref v a b g l, guard := g, la := some l, writes := [.g a, .g b] } fun _ t => t

/-- CFLUSH (R351): waits for the strand's earlier stores to the line; the L1 is part of the die view. -/
def execCflush (a b : BitVec 5) (g : BitVec 3) (l : BitVec 4) : State → Res :=
  longOp { instr := .cflush a b g l, guard := g, reads := [.g a, .g b] } l [] fun s =>
    .cflush (some (s.readG s.focus a + s.readG s.focus b))

/-- CINV (R351): waits for the strand's earlier stores. -/
def execCinv (g : BitVec 3) (l : BitVec 4) : State → Res :=
  longOp { instr := .cinv g l, guard := g } l [] fun _ => .cflush none

/-- FENCE.REL (R352). -/
def execFenceRel (g c : BitVec 3) : State → Res :=
  fence (.fenceRel g c) g (Scope.ofCode c) true false

/-- FENCE.ACQ (R352). -/
def execFenceAcq (g c : BitVec 3) : State → Res :=
  fence (.fenceAcq g c) g (Scope.ofCode c) false true

/-- FENCE.FULL (R352). -/
def execFenceFull (g c : BitVec 3) : State → Res :=
  fence (.fenceFull g c) g (Scope.ofCode c) true true

/-- AMO.ADD (R353). -/
def execAmoAdd (d a b : BitVec 5) (z : BitVec 1) (c : BitVec 2) (l : BitVec 4) : State → Res :=
  amo (.amoAdd d a b z c l) d a b z c l 0

/-- AMO.AND (R353). -/
def execAmoAnd (d a b : BitVec 5) (z : BitVec 1) (c : BitVec 2) (l : BitVec 4) : State → Res :=
  amo (.amoAnd d a b z c l) d a b z c l 1

/-- AMO.OR (R353). -/
def execAmoOr (d a b : BitVec 5) (z : BitVec 1) (c : BitVec 2) (l : BitVec 4) : State → Res :=
  amo (.amoOr d a b z c l) d a b z c l 2

/-- AMO.XOR (R353). -/
def execAmoXor (d a b : BitVec 5) (z : BitVec 1) (c : BitVec 2) (l : BitVec 4) : State → Res :=
  amo (.amoXor d a b z c l) d a b z c l 3

/-- AMO.MIN (R353). -/
def execAmoMin (d a b : BitVec 5) (z : BitVec 1) (c : BitVec 2) (l : BitVec 4) : State → Res :=
  amo (.amoMin d a b z c l) d a b z c l 4

/-- AMO.MAX (R353). -/
def execAmoMax (d a b : BitVec 5) (z : BitVec 1) (c : BitVec 2) (l : BitVec 4) : State → Res :=
  amo (.amoMax d a b z c l) d a b z c l 5

/-- AMO.MINN (R353). -/
def execAmoMinn (d a b : BitVec 5) (z : BitVec 1) (c : BitVec 2) (l : BitVec 4) : State → Res :=
  amo (.amoMinn d a b z c l) d a b z c l 6

/-- AMO.MAXN (R353). -/
def execAmoMaxn (d a b : BitVec 5) (z : BitVec 1) (c : BitVec 2) (l : BitVec 4) : State → Res :=
  amo (.amoMaxn d a b z c l) d a b z c l 7

/-- AMO.SWP (R353). -/
def execAmoSwp (d a b : BitVec 5) (z : BitVec 1) (c : BitVec 2) (l : BitVec 4) : State → Res :=
  amo (.amoSwp d a b z c l) d a b z c l 8

/-- AMO.CAS (R353). -/
def execAmoCas (d a b : BitVec 5) (z : BitVec 1) (c : BitVec 2) (l : BitVec 4) : State → Res :=
  amo (.amoCas d a b z c l) d a b z c l 9

/-- AMO.FADD (R353). -/
def execAmoFadd (d a b : BitVec 5) (z : BitVec 1) (c : BitVec 2) (l : BitVec 4) : State → Res :=
  amo (.amoFadd d a b z c l) d a b z c l 10

/-- RED.ORD (R353, R355): gd is also the ticket word. -/
def execAmoRedOrd (d a b : BitVec 5) (z : BitVec 1) (c : BitVec 2) (l : BitVec 4) : State → Res :=
  amoIssue (.amoRedOrd d a b z c l) d a b z c l 11 fun s =>
    let x := s.slot s.focus
    .redord (x.readG a) (amoSize z) (x.readG b) (x.readG d) (Scope.ofField c) d false

end Sys2Proof.Machine
end

