-- ==== Sys2Proof/Machine/MemoryDev.lean ====
section
/-! DEFINITION. What the load-store units, home banks and dies do with outstanding accesses: returns, stores leaving,
performance, application, atomics, ordered folds, synchronising accesses, and the fault protocol (R80–R112, R241, R274,
R277, R355). -/

namespace Sys2Proof.Machine

/-- The accessor of an outstanding operation, with STATESEL and TENANT as they stood at the issue (R70, R321). -/
def State.whoOp (s : State) (k : Nat) (o : Outst) : Who :=
  { s.whoSlot k (.op k o.id) with
    tenant := o.ten
    stream := if o.ssel.msb then some (bits o.ssel 31 0) else none
    pc := o.pc, dest := match o.dests with
      | .g n :: _ => BitVec.ofNat 8 n.toNat
      | .v n :: _ => BitVec.ofNat 8 n.toNat
      | .m n :: _ => BitVec.ofNat 8 n.toNat
      | _ => 0xFF }

/-- The destinations of an instruction that is withdrawn stand as before its issue (R239). -/
def Slot.restoreDests (x : Slot) (o : Outst) : Slot :=
  o.dests.foldl (fun x r => x.mark_ r (if o.voids.contains r then .void else .full)) x

/-- An outstanding instruction is withdrawn, and its slot traps exactly at it, which wakes its core (R239, R265). -/
def State.withdrawTrap (s : State) (k : Nat) (o : Outst) (t : Trap) : State :=
  ((s.modSlot k fun x =>
    let x := { x with outs := x.outs.filter fun u => u.id ≠ o.id }.restoreDests o
    { x with replay := if o.replay then some x.pc else none, pc := o.pc }).raise k t).wake (coreOf k)

/-- Runs a step of an outstanding operation: FATAL ends the instruction (R86), and a trap that its step finds is exact (R375). -/
def runOp (k : Nat) (o : Outst) (m : M Unit) (s : State) : State :=
  runM m (fun sub va s => ((s.dropFault (.op k o.id)).dropRequests (.op k o.id)).fatal k o sub va false)
    (fun t s => ((s.dropFault (.op k o.id)).dropRequests (.op k o.id)).withdrawTrap k o t) s

/-- Earlier operations of the slot, in program order. -/
def Slot.earlier (x : Slot) (o : Outst) : List Outst := x.outs.takeWhile fun u => u.id ≠ o.id

/-- The physical ranges that a strand's address range covers, as far as it translates; else its virtual range. -/
def State.rangeKey (s : State) (w : Who) (va : Dword) : Nat :=
  match lsPlace w.cluster va with
  | some (c, o) => 2 ^ 60 + lsKey c o
  | none => match w.space va with
    | none => 2 ^ 61 + va.toNat
    | some (sp, a) => match s.walk sp a with
      | .leaf _ e _ => if leafTier e = 0 then leafFrame e + a % 65536 else 2 ^ 61 + va.toNat
      | .fault .. => 2 ^ 61 + va.toNat

/-- A load waits for earlier stores of its strand to the same bytes, until they are applied at its die, and until its die has
seen what the strand saw at the die that it came from (R96). -/
def State.loadBlocked (s : State) (k : Nat) (o : Outst) (parts : List (Dword × Nat)) : Bool :=
  let x := s.slot k
  let w := s.whoOp k o
  let mine := parts.map fun p => (s.rangeKey w p.1, p.2)
  let meets := fun (a n : Nat) => mine.any fun m => rangesMeet m.1 m.2 a n
  ((x.earlier o).any fun u => match u.op with
    | .store ps => ps.any fun p => meets (s.rangeKey w p.1) p.2.length
    | .copyOut va bs _ _ => meets (s.rangeKey w va) bs.length
    | _ => false) ||
  (s.writes.any fun v => v.src == x.uid && (!v.performed || v.todo.contains w.die) && mine.any fun m => v.data.meets m.1 m.2) ||
  !x.seen.all (s.viewCovers w.die)

/-- Every outstanding load and atomic before an operation has returned, and its bytes may be read now (R96, R101). -/
def readTurn (k : Nat) (o : Outst) (parts : List (Dword × Nat)) : M Unit := do
  let s ← get
  if (s.slot k).earlier o |>.any Outst.readPending then throw (.wait id)
  if s.loadBlocked k o parts then throw (.wait id)
  if (s.slot k).seen.isSome then modify (·.modSlot k fun x => { x with seen := none })

/-- The value that a load leaves in its register (R345, R399). -/
def loadFill (into : LoadInto) (bs : List Byte) : Fill :=
  match into with
  | .g d size signed => .g d (if signed then dw (ofI 64 (toI (8 * size) (leNat bs))) else dw (leNat bs))
  | .m d => .m d (BitVec.ofNat 512 (leNat bs))
  | .v d w elems old =>
    let es := elems.zipIdx
    .v d (ofElems w ((List.range (elemCount w)).map fun i =>
      match es.find? fun e => e.1 = i with
      | some e => leNat ((bs.drop (e.2 * (w / 8))).take (w / 8))
      | none => elem old w i))

/-- Reads one part of a load; `far` says that a value of another die may be taken (R99). -/
def readPart (w : Who) (far : Bool) (va : Dword) (n : Nat) : M (List Byte) := do
  let p ← placeRead w va n 0 1
  match p with
  | .ls c o =>
    let s ← get
    if c / 40 ≠ w.die && (!far || !s.lsCovered w.die c o n) then throw (.wait id)
  | .mem pa => if homeDie pa ≠ w.die && !far then throw (.wait id)
  | _ => pure ()
  readPlace w va p n

/-- A load reads its die's view (R99), in program order (R101): one element of a vector load in a step (R401), or with `fin`
all that are left. -/
def loadM (k : Nat) (o : Outst) (parts : List (Dword × Nat)) (got : List Byte) (into : LoadInto) (far fin : Bool) :
    M Unit := do
  readTurn k o parts
  let w := (← get).whoOp k o
  let mut got := got
  for p in (if fin then parts else parts.take 1) do
    let bs ← readPart w far p.1 p.2
    got := got ++ bs
  let all := got
  modify fun s =>
    let s := (s.dropFault (.op k o.id)).dropRequests (.op k o.id)
    if fin then s.complete k o [loadFill into all]
    else if parts.length ≤ 1 then s.setOut k { o with st := .returned [loadFill into all] }
    else s.setOut k { o with op := .load (parts.drop 1) all into }

/-- A store or atomic may leave the load-store unit (R101): every earlier load and atomic has returned, and every earlier
store has left. -/
def Slot.mayLeave (x : Slot) (o : Outst) : Bool := !((x.earlier o).any fun u => u.readPending || u.writePending)

/-- A step that is tried: none, and nothing done, where it does not run to its end. -/
def attempt {α : Type} (m : M α) : M (Option α) := fun s =>
  match m s with
  | .ok (x, t) => .ok (some x, t)
  | .error _ => .ok (none, s)

/-- The parts of stores after the first part of store `o` that may merge with it (R101), in program order: its own other parts,
and those of the stores behind it up to the first load or atomic that has not returned and the first barrier. -/
def Slot.mergeParts (x : Slot) (o : Outst) (rest : List (Dword × List Byte)) : List (Outst × Nat × Dword × List Byte) :=
  let later := ((x.outs.dropWhile fun u => u.id ≠ o.id).drop 1).takeWhile fun u =>
    !u.readPending && decide (u.bar ≤ o.seq + 1 ∧ u.st ≠ .queued)
  (rest.zipIdx.map fun p => (o, p.2 + 1, p.1)) ++ later.flatMap fun u => match u.op with
    | .store ps => ps.zipIdx.map fun p => (u, p.2, p.1)
    | _ => []

/-- Takes every part that lies in the home bank of the first one and has no byte of a part that it passes (R101): which parts,
and where they are written. It goes no further than a part without a place, whose access may yet end FATAL: no element after it
is performed (R401). -/
def mergeM (k bank : Nat) : List (Outst × Nat × Dword × List Byte) → List (Nat × Nat) → M (List ((Nat × Nat) × Nat × List Byte))
  | [], _ => pure []
  | (u, i, va, bs) :: more, passed => do
    let s ← get
    let key := s.rangeKey (s.whoOp k u) va
    match ← attempt (placeWrite (s.whoOp k u) va bs.length 1) with
    | none => pure []
    | some place =>
      let hit := match place with
        | .mem pa => if homeBank pa = bank && !passed.any (fun p => rangesMeet p.1 p.2 key bs.length) then [((u.id, i), pa, bs)] else []
        | _ => []
      let rest ← mergeM k bank more (if hit.isEmpty then passed ++ [(key, bs.length)] else passed)
      pure (hit ++ rest)

/-- Parts of stores have left; a store without parts is over (R241). -/
def State.dropParts (s : State) (k : Nat) (taken : List (Nat × Nat)) : State :=
  (taken.map (·.1)).dedup.foldl (fun s id => match s.out? k id with
    | some u => match u.op with
      | .store ps =>
        let s := (s.dropFault (.op k u.id)).dropRequests (.op k u.id)
        let left := (ps.zipIdx.filter fun p => !taken.contains (u.id, p.2)).map (·.1)
        if left = [] then s.complete k u [] else s.setOut k { u with op := .store left }
      | _ => s
    | none => s) s

/-- The first part of a store leaves: WriteWalk, then the stamp (R80, R97); the last part ends the store. With `merge` the
later parts in its bank that may merge leave with it as one write; a write to a place that takes no stamp is performed after the
strand's earlier ones (R101). -/
def storeM (k : Nat) (o : Outst) (parts : List (Dword × List Byte)) (merge : Bool) : M Unit := do
  let s ← get
  if !(s.slot k).mayLeave o then throw (.wait id)
  match parts with
  | [] => modify (·.complete k o [])
  | (va, bs) :: rest =>
    let w := s.whoOp k o
    let p ← placeWrite w va bs.length 1
    match p with
    | .mem pa =>
      let s ← get
      let more ← if merge then mergeM k (homeBank pa) ((s.slot k).mergeParts o rest) [] else pure []
      if more = [] then
        let _ ← writePlace w va p bs
      else
        let s ← get
        if !s.announceRoom w.die then throw (.wait id)
        set (s.postWrite w.die w.uid (.parts ((pa, bs) :: more.map (·.2)))).1
      modify (·.dropParts k ((o.id, 0) :: more.map (·.1)))
    | p =>
      if !s.allPerformed w.uid then throw (.wait id)
      let _ ← writePlace w va p bs
      modify (·.dropParts k [(o.id, 0)])

/-- The write that an atomic would issue now may be performed at its home (R98, R105). -/
def State.canPerformNow (s : State) (die pa n : Nat) : Bool :=
  let w : Write := ⟨s.nextN, 0, die, s.stampOf die, .bytes pa (List.replicate n 0), false, 0, []⟩
  s.stampHolds (homeDie pa) w && s.orderHolds (homeDie pa) w

/-- A drain holds writes to a frame of the old generation (R93). -/
def State.oldFrame (s : State) (pa : Nat) : Bool :=
  s.drain.isSome && (s.frames.find? (pa / 65536)).isSome && decide ((s.frameDesc pa).gen.toNat < s.ckgen.toNat)

/-- A side copy of a frame begins, if there is none and its die has a pool frame for it; otherwise the drain sends the frame first
(R93). -/
def State.beginSide (s : State) (pa : Nat) : State :=
  if (s.side.find? (pa / 65536)).isSome then s
  else match s.allocFrameOn (homeDie pa) with
    | none => { s with drain := s.drain.map fun d => if d.first.contains (pa / 65536) then d else { d with first := d.first ++ [pa / 65536] } }
    | some fr =>
      let s := s.modFrame fr fun _ => { s.frameDesc pa with refcnt := 0, pincnt := 1, side := true, watch := false, lq := false }
      { s with side := s.side.put (pa / 65536) fr }

/-- A write may be issued and performed at its home now (R98), at a frame that no drain holds (R93). -/
def homeTurn (die pa n : Nat) : M Unit := do
  let s ← get
  if !s.announceRoom die || !s.canPerformNow die pa n then throw (.wait id)
  if s.oldFrame pa then throw (.wait fun t => t.beginSide pa)

/-- A write that is issued and performed at its home in one step (R98), and its number. -/
def State.performNow (s : State) (die src : Nat) (data : WData) : State × Nat :=
  let r := s.postWrite die src data
  (match r.1.writes.find? fun v => v.n = r.2 with
    | some v => r.1.performWrite v
    | none => r.1, r.2)

/-- A relaxed atomic of a strand has returned a value whose producers have these stamps: a later acquire waits until the die covers
them (R99, R102). -/
def State.owe (s : State) (k : Nat) (need : List Stamp) : State :=
  s.modSlot k fun x => { x with owed := (x.owed ++ need).filter fun v => !s.viewCovers (dieOf k) v }

/-- An operation of a slot has its value `fs`, which the writes with the stamps `need` produced. Above STRAND scope its own
FENCE.ACQ waits until the die has applied them, at STRAND scope a later one does (R99, R102, R105). -/
def State.valueBack (s : State) (k : Nat) (o : Outst) (sc : Scope) (need : List Stamp) (fs : List Fill) : State :=
  if sc = .strand then (s.setOut k { o with st := .returned fs }).owe k need else s.setOut k { o with st := .after need fs }

/-- An atomic has its old value. -/
def State.atomicDone (s : State) (k : Nat) (o : Outst) (sc : Scope) (d : BitVec 5) (need : List Stamp) (old : Nat) : State :=
  ((s.dropFault (.op k o.id)).dropRequests (.op k o.id)).valueBack k o sc need [.g d (dw old)]

/-- An atomic at its home: one indivisible read-modify-write on the latest value (R105, R354). -/
def atomicM (k : Nat) (o : Outst) (ea : Dword) (size op : Nat) (x cmp : Dword) (sc : Scope) (d : BitVec 5) : M Unit := do
  let s ← get
  if !(s.slot k).mayLeave o then throw (.wait id)
  let w := s.whoOp k o
  let p ← placeWrite w ea size 2
  match p with
  | .ls c off =>
    if !s.allPerformed w.uid || !s.storeTurn w c then throw (.wait id)
    modify fun s =>
      let old := leNat (s.readLs c off size)
      (s.storeLs w.die c off (leBytes size (atomicValue size op old x.toNat cmp.toNat))).atomicDone k o sc d
        (if c / 40 = w.die then [] else s.lsStamps c off size) old
  | .mem pa => do
    homeTurn w.die pa size
    let s ← get
    let old := leNat (s.readHome pa size)
    let t := (s.performNow w.die w.uid (.bytes pa (leBytes size (atomicValue size op old x.toNat cmp.toNat)))).1
    set (t.atomicDone k o sc d (s.producers w.die pa size) old)
  | .peer pkg => do
    let a ← askPeer w pkg 3 ea [BitVec.ofNat 8 op] [(0x10, 8, ea.toNat), (0x18, 1, op), (0x19, 1, size / 8), (0x20, 8, x.toNat),
      (0x28, 8, if op = 9 then cmp.toNat else 0), (0x30, 8, if op = 11 then cmp.toNat else 0)] []
    let bs ← statusOk w a ea
    modify fun s => s.atomicDone k o sc d [] (leNat (bs.take size))
  | .host => do
    if size ≠ 8 ∨ (op ≠ 0 ∧ op ≠ 9) then throw (.fatal 0x25 ea)
    let bs ← askHost w (if op = 9 then 0x102 else 0x103) ea 8 (if op = 9 then cmp else x) x
    modify fun s => s.atomicDone k o sc d [] (leNat (bs.take 8))

/-! ### RED.ORD (R107, R355) -/

/-- The home key of a contribution: a physical address, or a local-store byte. -/
def State.redBytes (s : State) (addr n : Nat) : List Byte :=
  if addr < 2 ^ 40 then s.readHome addr n else s.ls.readBytes (addr - 2 ^ 50) n
/-- Bank of a home key. -/
def redBank (addr : Nat) : Nat :=
  if addr < 2 ^ 40 then homeBank addr else 4096 + (addr - 2 ^ 50) / 2 ^ 22 * 16 + (addr - 2 ^ 50) / 8 % 16
/-- Home die of a home key. -/
def redDie (addr : Nat) : Nat := if addr < 2 ^ 40 then homeDie addr else (addr - 2 ^ 50) / 2 ^ 22 / 40

/-- The home's view covers the stamp that a contribution carries, and its die's next write may be announced and performed (R100,
R107). -/
def State.redMayFold (s : State) (r : RedHeld) : Bool :=
  let h := redDie r.addr
  s.viewCovers h r.stamp && (2 ^ 40 ≤ r.addr || (s.announceRoom h && s.canPerformNow h r.addr r.size))

/-- A fold is one write, issued from the home's die and performed at once (R107, R355): the state after it, its number, and its
stamp. It counts as the contributor's write for releases (R95). -/
def State.redWrite (s : State) (r : RedHeld) (v : Nat) : State × List Nat × Stamp :=
  let h := redDie r.addr
  if r.addr < 2 ^ 40 then
    let p := s.performNow h r.uid (.bytes r.addr (leBytes r.size v))
    (p.1, [p.2], s.stampOf h)
  else (s.storeLs h ((r.addr - 2 ^ 50) / 2 ^ 22) ((r.addr - 2 ^ 50) % 2 ^ 22) (leBytes r.size v), [], (s.die h).view)

/-- Folds a contribution (R355); the value after it returns. Above STRAND scope the FENCE.ACQ waits until the strand's die has
the fold (R99, R105). -/
def State.redFold (s : State) (r : RedHeld) : State :=
  let f := if r.size = 4 then Fp.f32 else Fp.f64
  let v := f.add (leNat (s.redBytes r.addr r.size)) (r.x.toNat % 2 ^ (8 * r.size))
  let p := s.redWrite r v
  let s := p.1
  let s := match r.who with
    | some (k, id) => match s.out? k id with
      | some o => match o.op with
        | .redord _ _ _ _ sc d _ => s.valueBack k o sc [p.2.2] [.g d (dw v)]
        | _ => s
      | none => s
    | none => s
  match r.cmd with
  | some c => { s with
      cmds := s.cmds.map fun m =>
        if m.n = c then { m with acc := m.acc.erase (r.addr, r.ticket), pending := m.pending ++ p.2.1 } else m
      inbox := s.inbox.map fun (e : Inbound) => if e.n = c then { e with stage := 2, value := leBytes 8 v } else e }
  | none => s

/-- The sequence of a folded contribution closes after its last ticket, or goes on to the next (R355). -/
def State.redNext (s : State) (r : RedHeld) : State :=
  { s with seqs := if r.last ≤ r.ticket then s.seqs.filter fun q => q.addr ≠ r.addr
                   else s.seqs.map fun (q : RedSeq) => if q.addr = r.addr then { q with next := q.next + 1 } else q }

/-- Folds held contributions whose ticket is next, at most `n` of them (R355). -/
def State.redRelease (addr : Nat) : Nat → State → State
  | 0, s => s
  | n + 1, s => match s.seqs.find? fun q => q.addr = addr with
    | none => s
    | some q => match s.redHeld.find? fun r => r.addr = addr ∧ r.ticket = q.next with
      | none => s
      | some r =>
        if addr < 2 ^ 40 && s.oldFrame addr then s.beginSide addr
        else if !s.redMayFold r then s
        else State.redRelease addr n ({ s with redHeld := s.redHeld.erase r }.redFold r |>.redNext r)

/-- A held contribution that is early: its ticket is not the next of its sequence (R107). -/
def State.redEarly (s : State) (r : RedHeld) : Bool :=
  !(s.seqs.any fun q => q.addr == r.addr && q.next == r.ticket)

/-- OnArrive (R355): the state after it, and whether the contribution is accepted. A sequence that an early contribution has opened
stays open where the contribution itself is refused. -/
def State.redArrive (s : State) (r : RedHeld) : State × Bool :=
  let isOpen := s.seqs.any fun q => q.addr == r.addr
  if !isOpen && decide (16 ≤ (s.seqs.filter fun q => q.bank = r.bank).length) then (s, false)
  else
    let s := if isOpen then s else { s with seqs := s.seqs ++ [⟨r.addr, r.bank, 0⟩] }
    if s.redEarly r && decide (64 ≤ (s.redHeld.filter fun z => z.bank == r.bank && s.redEarly z).length) then (s, false)
    else (State.redRelease r.addr 65 { s with redHeld := s.redHeld ++ [r] }, true)

/-- A strand's contribution leaves, carries VIEW of its die, and reaches its home (R107, R355). -/
def redordM (k : Nat) (o : Outst) (ea : Dword) (size : Nat) (x ticket : Dword) (sc : Scope) (d : BitVec 5) : M Unit := do
  let s ← get
  if !(s.slot k).mayLeave o then throw (.wait id)
  let w := s.whoOp k o
  let p ← placeWrite w ea size 2
  let arrive := fun (addr : Nat) (s : State) =>
    let r : RedHeld := { addr := addr, bank := redBank addr, die := w.die, size := size, ticket := bits ticket 31 0
                         last := bits ticket 63 32, x := x, stamp := (s.die w.die).view, who := some (k, o.id), cmd := none, uid := w.uid }
    let o' := { o with op := .redord ea size x ticket sc d true }
    match (s.setOut k o').redArrive r with
    | (s', true) => s'
    | (s', false) => s'.setOut k { o with st := .refused }
  match p with
  | .ls c off => do
    if !s.storeTurn w c then throw (.wait id)
    modify (arrive (2 ^ 50 + lsKey c off))
  | .mem pa => modify (arrive pa)
  | .peer pkg => do
    let a ← askPeer w pkg 3 ea [11] [(0x10, 8, ea.toNat), (0x18, 1, 11), (0x19, 1, size / 8), (0x20, 8, x.toNat),
      (0x30, 8, ticket.toNat)] []
    let clean := fun (s : State) => (s.dropFault (.op k o.id)).dropRequests (.op k o.id)
    if a.1 = 6 then modify fun s => (clean s).setOut k { o with st := .refused }
    else
      let bs ← statusOk w a ea
      modify fun s => s.atomicDone k o sc d [] (leNat (bs.take size))
  | .host => throw (.fatal 0x25 ea)

/-! ### Synchronising accesses (R112, R349) -/

/-- A plinth word of a moved core is served at the target (R283). -/
def State.lsRoute (s : State) (c off : Nat) : Option (Nat × Nat) :=
  if off < 0x3C0000 then some (c, off)
  else
    let core := c * 4 + (off - 0x3C0000) / 0x10000
    match (s.core core).fwd with
    | none => some (c, off)
    | some t => if (s.core core).moving then none else some (t / 4, 0x3C0000 + t % 4 * 0x10000 + off % 0x10000)

/-- The word of a parked access. -/
def State.syncWord (s : State) (k : Nat) (ea : Dword) : Option (Nat × Nat) :=
  (lsPlace (clusterOf k) ea).bind fun p => s.lsRoute p.1 p.2

/-- The word's state allows the access (R349). -/
def syncAllowed (kind : Nat) (full : Bool) : Bool := if kind = 1 then !full else if kind = 0 ∨ kind = 2 then full else true

/-- An operation is a release of what stands before it, at DIE scope to a target on the strand's die and at PACKAGE scope
otherwise (R112, R113). -/
def State.releasedTo (s : State) (k : Nat) (o : Outst) (die : Nat) : Bool :=
  s.releasedOf k ((s.slot k).earlier o) (if die = dieOf k then .die else .package)

/-- The release that STF and FESET are (R112), and the acquire order of the accesses of one strand. -/
def State.syncReady (s : State) (k : Nat) (o : Outst) (kind c : Nat) : Bool :=
  (s.slot k).mayLeave o && ((kind != 1 && kind != 4) || s.releasedTo k o (c / 40))

/-- The place of a synchronising access among those that have reached the banks, if it has (R112). -/
def Outst.arrival (o : Outst) : Option Nat :=
  match o.st with
  | .parked n => some n
  | _ => none

/-- An access parked at the same word before this one is allowed by the word's state, and so comes first (R112). -/
def State.syncOlder (s : State) (o : Outst) (w : Nat × Nat) : Bool :=
  s.slots.any fun e => e.2.outs.any fun u => match u.op, u.arrival with
    | .sync kind ea _ _ _, some n =>
      o.arrival.all (fun m => decide (n < m)) && decide (s.syncWord e.1 ea = some w) && syncAllowed kind (s.isFull w.1 w.2)
    | _, _ => false

/-- A synchronising access that has reached its bank is granted now (R112). -/
def State.syncGranted (s : State) (o : Outst) (kind : Nat) (w : Nat × Nat) : Bool :=
  syncAllowed kind (s.isFull w.1 w.2) && !s.syncOlder o w

/-- A synchronising access reaches its bank once it is a release of what stands before it, and parks there (R112); the bank grants
it in one step on the data and the bit (R349). -/
def syncM (k : Nat) (o : Outst) (kind : Nat) (ea x : Dword) (d : BitVec 5) : M Unit := do
  let s ← get
  match s.syncWord k ea with
  | none => throw (.wait id)
  | some (c, off) =>
    if o.arrival.isNone && !(s.syncReady k o kind c && s.storeTurn (s.whoOp k o) c) then throw (.wait id)
    if !s.syncGranted o kind (c, off) then
      throw (.wait fun t => if o.arrival.isSome then t else
        { t.setOut k { o with st := .parked t.nextN } with nextN := t.nextN + 1 })
    if (kind == 0 || kind == 2) && c / 40 != dieOf k && !s.lsCovered (dieOf k) c off 8 then throw (.wait id)
    let v := s.lsDword c off
    modify fun s =>
      let s := s.noteAccess (s.whoOp k o) 2 8 (.ls c off)
      match kind with
      | 0 => (s.setFull c off false).complete k o [.g d v]
      | 1 => ((s.storeLs (dieOf k) c off (leBytes 8 x.toNat)).setFull c off true).complete k o []
      | 2 => s.complete k o [.g d v]
      | 3 => s.complete k o [.g d (if s.isFull c off then 1 else 0)]
      | _ => ((s.stampLs (dieOf k) c off 8).setFull c off (x.getLsbD 0)).complete k o []

/-- Every earlier store of the strand to the line, or every one, has been applied at its die (R351). -/
def State.flushDone (s : State) (k : Nat) (o : Outst) (ea : Option Dword) : Bool :=
  let x := s.slot k
  let w := s.whoOp k o
  match ea with
  | none => !((x.earlier o).any Outst.writePending) && s.allVisibleAt x.uid w.die
  | some a =>
    let a := a &&& ~~~ 63
    let key := s.rangeKey w a
    !((x.earlier o).any fun u => match u.op with
      | .store ps => ps.any fun p => rangesMeet (s.rangeKey w p.1) p.2.length key 64
      | .atomic e n .. => u.writePending && rangesMeet (s.rangeKey w e) n key 64
      | .redord e n .. => u.writePending && rangesMeet (s.rangeKey w e) n key 64
      | _ => false) &&
    s.writes.all fun v => v.src != x.uid || !v.data.meets key 64 || (v.performed && !v.todo.contains w.die)

/-! ### The device steps -/

/-- The operation that a step names. -/
def State.target (s : State) : Option (Nat × Outst) := (s.out? s.ev.who s.ev.n).map fun o => (s.ev.who, o)

/-- LOAD_VIEW_RETURN (R99): a load's value is returned once the die's view has it. -/
def execLoadViewReturn (s : State) : Res :=
  .next <| match s.target with
    | some (k, o) => match o.op, o.st with
      | .load parts got into, .ready => runOp k o (loadM k o parts got into true false) s
      | _, _ => s
    | none => s

/-- ATOMIC_HOME_PERFORM (R105). -/
def execAtomicHomePerform (s : State) : Res :=
  .next <| match s.target with
    | some (k, o) => match o.op, o.st with
      | .atomic ea size op x cmp sc d, .ready => runOp k o (atomicM k o ea size op x cmp sc d) s
      | _, _ => s
    | none => s

/-- REDORD_ARRIVE (R355). -/
def execRedordArrive (s : State) : Res :=
  .next <| if s.ev.flag then
      match s.redFly.find? fun f => f.1 = s.ev.n with
      | some (n, r, false) => match s.redArrive r with
        | (s', true) => { s' with redFly := s'.redFly.filter fun f => f.1 ≠ n }
        | (s', false) => { s' with redFly := s'.redFly.map fun f => if f.1 = n then (n, r, true) else f }
      | _ => s.seqs.foldl (fun s q => State.redRelease q.addr 65 s) s
    else match s.target with
      | some (k, o) => match o.op, o.st with
        | .redord ea size x t sc d false, .ready => runOp k o (redordM k o ea size x t sc d) s
        | .redord ea _ _ _ _ _ true, .ready =>
          match (lsPlace (clusterOf k) ea), s.walk (.tenant (s.slot k).tenant) ea.toNat with
          | some (c, off), _ => State.redRelease (2 ^ 50 + lsKey c off) 65 s
          | none, .leaf _ e _ => State.redRelease (leafFrame e + ea.toNat % 65536) 65 s
          | none, .fault .. => s
        | _, _ => s
      | none => s

/-- A request that carries a RED.ORD contribution of a command to another package, and one that was refused (R107). -/
def Request.isRed (r : Request) : Bool := r.opc == 3 && r.bytes.length == 26
def Request.refusedRed (r : Request) : Bool := r.isRed && (r.answer.map (·.1)) == some 6

/-- Sends the refused contributions of a command to other packages again (R107). -/
def State.resendRed (s : State) (n : Nat) : State :=
  (s.requests.filter fun (r : Request) => decide (r.who = .cmd n) && r.refusedRed).foldl (fun s r =>
    let va := rd r.bytes 0 8
    let pkt := requestPacket 3 r.die r.dst s.pkgid.toNat (BitVec.ofNat 16 (rd r.bytes 24 2)) r.tag
      [(0x10, 8, va), (0x18, 1, 11), (0x19, 1, 0), (0x20, 8, rd r.bytes 8 8), (0x30, 8, rd r.bytes 16 8)] []
    { s with requests := s.requests.map fun (x : Request) =>
        if x = r then { r with answer := none, since := s.timer.toNat } else x }.sendPacket r.die r.dst pkt) s

/-- REDORD_RESEND (R107). -/
def execRedordResend (s : State) : Res :=
  .next <| if s.ev.flag then
      { s with redFly := s.redFly.map fun (f : Nat × RedHeld × Bool) => if f.1 = s.ev.n then (f.1, f.2.1, false) else f }.resendRed s.ev.n
    else match s.target with
      | some (k, o) => if o.st = .refused then s.setOut k { o with st := .ready } else s
      | none => s

/-- SYNC_ACCESS_GRANT (R112, R349). -/
def execSyncAccessGrant (s : State) : Res :=
  .next <| match s.target with
    | some (k, o) => match o.op with
      | .sync kind ea x d _ => runOp k o (syncM k o kind ea x d) s
      | _ => s
    | none => s

/-- A grant of a synchronising access is due: it comes before a timeout in the same cycle (R277). -/
def State.syncDue (s : State) (k : Nat) (o : Outst) (kind : Nat) (ea : Dword) : Bool :=
  match s.syncWord k ea with
  | none => false
  | some w => (o.arrival.isSome || s.syncReady k o kind w.1) && s.syncGranted o kind w

/-- FE_TIMEOUT (R277): withdrawn, and the slot traps exactly at the access. -/
def execFeTimeout (s : State) : Res :=
  .next <| match s.target with
    | some (k, o) => match o.op with
      | .sync kind ea _ _ since =>
        let lim := if (s.core (coreOf k)).feretry = 0 then 2 ^ 32 else (s.core (coreOf k)).feretry.toNat
        if kind < 3 ∧ since + lim < s.timer.toNat ∧ s.syncDue k o kind ea = false then
          s.withdrawTrap k o { cause := 0x05, sub := BitVec.ofNat 8 (kind + 1), addr := ea }
        else s
      | _ => s
    | none => s

/-- WRITE_PERFORM (R98): a home performs a write once its stamp conditions hold; a drain may hold it (R93). -/
def execWritePerform (s : State) : Res :=
  .next <| match s.writes.find? fun w => w.n = s.ev.who with
    | some w =>
      let h := homeDie w.data.base
      if w.performed || !s.stampHolds h w || !s.orderHolds h w then s
      else match w.data.ranges.find? fun r => s.oldFrame r.1 with
        | some r => s.beginSide r.1
        | none => s.performWrite w
    | none => s

/-- ANNOUNCEMENT_APPLY (R98). -/
def execAnnouncementApply (s : State) : Res :=
  .next <| match s.writes.find? fun w => w.n = s.ev.n with
    | some w => if w.performed && w.todo.contains s.ev.who && s.stampHolds s.ev.who w && s.orderHolds s.ev.who w then
        s.applyWrite s.ev.who w else s
    | none => s

/-- The step that goes on with an operation that a BUSY node or a copy held. -/
def State.progressOp (s : State) (k : Nat) (o : Outst) : State :=
  match o.op, o.st with
  | .store parts, .ready => runOp k o (storeM k o parts s.ev.flag) s
  | .atomic ea size op x cmp sc d, .ready => runOp k o (atomicM k o ea size op x cmp sc d) s
  | .redord ea size x t sc d false, .ready => runOp k o (redordM k o ea size x t sc d) s
  | _, _ => s

/-- WALK_BUSY_RESUME (R80, R82): the walker reads its slot again. -/
def execWalkBusyResume (s : State) : Res :=
  .next <| match s.target with
    | some (k, o) => s.progressOp k o
    | none => s

/-- Bytes of a fault message (R84). -/
def FaultRec.message (f : FaultRec) (tag : Nat) : List Byte :=
  [f.kind, f.access, f.size, f.level] ++ leBytes 2 tag ++ leBytes 2 f.tenant.toNat ++ leBytes 8 f.va.toNat ++
  leBytes 8 f.root.toNat ++ leBytes 4 f.wher.toNat ++ [f.dest, 0, 0, 0] ++ leBytes 8 f.pc.toNat ++ leBytes 8 f.entry.toNat ++
  List.replicate 16 0

/-- The station of the load-store unit or engine that takes a fault (R259). -/
def State.faultStation (s : State) : Requester → Option Nat
  | .op k _ | .fetch k | .issue k => some (clusterOf k)
  | .cmd n => (s.cmds.find? fun m => m.n = n).map fun m => clusterOf m.slot
  | _ => none

/-- FAULT_MESSAGE_SEND (R84): the n-th fault of the die that has no tag takes one and its message goes to mailbox 0 of the
service core. -/
def execFaultMessageSend (s : State) : Res :=
  .next <| match s.faults.find? fun f => f.die = s.ev.who ∧ f.tag.isNone with
    | some f =>
      match findFree (fun t => !(s.faults.any fun g => g.die == f.die && decide (g.tag = some t))) 4096 0 with
      | none => s
      | some tag =>
        let s := { s with faults := s.faults.map fun (g : FaultRec) => if g.req = f.req ∧ g.va = f.va then { g with tag := some tag } else g }
        let s := match f.req with
          | .op k _ => s.count (coreOf k) 0x09 1
          | .fetch k => s.count (coreOf k) 0x09 1
          | .issue k => s.count (coreOf k) 0x09 1
          | _ => s
        let m : Msg := {
          n := s.nextN, kind := 0, src := 0, uid := 0, core := coreOf (svcSlot f.die), mbox := 0, bytes := f.message tag
          record := none, join := none, device := true, since := 0, stn := s.faultStation f.req }
        { s with msgs := s.msgs ++ [m], nextN := s.nextN + 1 }
    | none => s

/-- The verdict of a reply, if the reply is well formed (R85). -/
def replyVerdict (bs : List Byte) : Option Verdict :=
  let sub := bs.getD 1 0
  if bs.length ≠ 16 ∨ rd bs 2 2 ≠ 0 ∨ rd bs 6 8 ≠ 0 ∨ rd bs 14 2 ≠ 0 then none
  else match (bs.getD 0 0).toNat with
    | 1 => some .retry
    | 2 => some .remote
    | 3 => if 0x40 ≤ sub.toNat then some (.fatal sub) else none
    | _ => none

/-- What the service core knows of a page. -/
def State.pageState (s : State) (t : Half) (va : Nat) : Option PageState :=
  s.pages.find? fun p => p.tenant == t && p.va.toNat / 65536 == va / 65536

/-- What a reply may say of a fault (R60, R62): nothing while a PAGEREQ of the device for the page is outstanding, REMOTE during a
settle time. -/
def State.pageVerdict (s : State) (f : FaultRec) (v : Verdict) : Option Verdict :=
  match s.pageState f.tenant f.va.toNat with
  | some p => if p.asked then none else some .remote
  | none => some v

/-- A verdict is recorded, and a node that the walk held is free again (R85, R89). -/
def State.setVerdict (s : State) (f : FaultRec) (v : Verdict) : State := { s with
  faults := s.faults.map fun (g : FaultRec) => if g.req = f.req ∧ g.va = f.va then { g with verdict := some v } else g
  nodes := releaseHolds [f] s.nodes }

/-- Takes a reply in (R85): one that is malformed, or answers no fault, is dropped and counted. -/
def State.faultReply (s : State) (d : Nat) (bs : List Byte) : State :=
  match replyVerdict bs, s.faults.find? fun f => f.die = d ∧ f.tag = some (rd bs 4 2) ∧ f.verdict = none with
  | some v, some f => match s.pageVerdict f v with
    | some v => s.setVerdict f v
    | none => s
  | _, _ => s.modDie d fun x => { x with drops := x.drops + 1 }

/-- FAULT_REPLY (R85). -/
def execFaultReply (s : State) : Res := .next (s.faultReply s.ev.who s.ev.bs)

end Sys2Proof.Machine
end

