-- ==== Sys2Proof/Machine/Sched.lean ====
section
/-! DEFINITION. Strand records and where they wait: deques, decks, run queues, join blocks; starting a strand; launches and
tasks as their strands name them (R115–R118, R139–R141, R360–R363). -/

namespace Sys2Proof.Machine

/-! ### Strand records (R117) -/

/-- FLAGS of a strand record (R117). -/
def Slot.recFlags (x : Slot) : Word :=
  BitVec.ofNat 32 (x.tenant.toNat * 65536 + (if x.mode then 32 else 0) + (if x.sw then 16 else 0) + x.prio.toNat * 4 +
    (if x.cls then 2 else 0) + (if x.pt then 1 else 0))

/-- VOIDMAP of g1–g12 (R117). -/
def Slot.voidMap (x : Slot) : Nat :=
  ((List.range 12).map fun i => if x.gState (BitVec.ofNat 5 (i + 1)) = .void then 2 ^ i else 0).sum

/-- The record of the strand of slot `k`, which resumes at `pc`; a void register is written as zero (R117). -/
def Slot.toRec (x : Slot) (k : Nat) (pc : Dword) : StrandRec where
  pc := pc
  pw := BitVec.ofNat 32 (x.p.toNat ||| 1) ||| BitVec.ofNat 32 (x.voidMap * 256)
  flags := x.recFlags
  g := (List.range 12).map fun i =>
    if x.gState (BitVec.ofNat 5 (i + 1)) = .void then 0 else x.readG (BitVec.ofNat 5 (i + 1))
  joinblk := x.joinblk
  owner := x.owner
  uid := x.uid
  cl := clusterOf k

/-- What the strand of slot `k` has seen, here and at earlier dies (R96). -/
def State.sawAt (s : State) (k : Nat) : Stamp :=
  let v := (s.die (dieOf k)).view
  ((s.slot k).seen.map (stampJoin v)).getD v

/-- The record that the strand of slot `k` leaves behind: what it saw goes with it, and what its relaxed atomics returned (R96,
R99). -/
def State.recOf (s : State) (k : Nat) (pc : Dword) : StrandRec :=
  { (s.slot k).toRec k pc with seen := some (s.sawAt k), owed := (s.slot k).owed }

/-- All that a strand has seen, by its loads and by its relaxed atomics: what a strand waits to see that goes on from a join block
(R96, R99). -/
def StrandRec.saw (r : StrandRec) : Option Stamp := r.seen.map fun v => r.owed.foldl stampJoin v

/-- Fields of FLAGS. -/
def StrandRec.tenant (r : StrandRec) : Half := r.flags.extractLsb' 16 16
def StrandRec.guaranteed (r : StrandRec) : Bool := r.flags.getLsbD 1
def StrandRec.prio (r : StrandRec) : BitVec 2 := r.flags.extractLsb' 2 2

/-- The 128 bytes of a record (R117). -/
def StrandRec.bytes (r : StrandRec) : List Byte :=
  leBytes 8 r.pc.toNat ++ leBytes 4 r.pw.toNat ++ leBytes 4 r.flags.toNat ++ r.g.flatMap (fun x => leBytes 8 x.toNat) ++
    leBytes 8 r.joinblk.toNat ++ leBytes 8 r.owner.toNat

/-- The record that 128 bytes hold; zero fields are ignored and PW bit 0 reads 1 (R117). -/
def recOfBytes (bs : List Byte) (uid cl : Nat) : StrandRec where
  pc := dw (rd bs 0 8) &&& ~~~ 3
  pw := BitVec.ofNat 32 (rd bs 8 4 % 2 ^ 20 ||| 1)
  flags := BitVec.ofNat 32 (rd bs 0xC 4) &&& 0xFFFF003F
  g := (List.range 12).map fun i => dw (rd bs (0x10 + 8 * i) 8)
  joinblk := dw (rd bs 0x70 8)
  owner := dw (rd bs 0x78 8)
  uid := uid
  cl := cl

/-- A record's class place on a die (R126, R136). -/
def State.recGuaranteed (s : State) (d : Nat) (r : StrandRec) : Bool :=
  r.guaranteed && s.guaranteedNow d ((s.strandLaunch r.owner r.tenant).map (·.n))

/-! ### Starting and leaving (R117, R245) -/

/-- ORGX–SUBZ of a strand with this record field 0x78 (R116). -/
def State.window (s : State) (owner : Dword) : Vector Word 3 × Vector Word 3 :=
  match s.sweepLaunch owner with
  | some l => l.window (bits owner 47 0)
  | none => (Vector.replicate 3 0, Vector.replicate 3 0)

/-- The task of a strand, or its tile, stands in the fault queue: its strands stop at their next issue (R131). -/
def State.taskStopped (s : State) (owner : Dword) (tenant : Half) : Bool :=
  ((s.ownerTask owner tenant).any fun t => t.phase == .faulting || t.phase == .faulted) ||
    (s.sweepLaunch owner).any fun l => l.bad.contains (bits owner 47 0)

/-- What a slot holds when a strand starts in it (R131). -/
def State.startOcc (s : State) (r : StrandRec) : Occ := if s.taskStopped r.owner r.tenant then .stopped else .active

/-- What a strand that starts on a die has yet to see there (R96). A record that does not say what its strand saw was read from
memory of this package: it saw no more than the die that it comes from. -/
def State.toSee (s : State) (d : Nat) (r : StrandRec) : Option Stamp :=
  (some (r.seen.getD (s.die (r.cl / 40)).view)).filter fun v => !s.viewCovers d v

/-- The stamps of values that a strand's relaxed atomics returned and that its new die has yet to cover (R99). -/
def State.toOwe (s : State) (d : Nat) (r : StrandRec) : List Stamp := r.owed.filter fun v => !s.viewCovers d v

/-- A strand starts in slot `k` from a record (R117, R245): g1–g12, predicates and flags from the record, every other
register void but for a v register that MIGV carried, and DIRTY and VDIRTY all ones (R280). A displaced strand has every
register again (R137). -/
def State.startRec (s : State) (k : Nat) (r : StrandRec) : State :=
  let w := s.window r.owner
  match r.ctx with
  | some c => s.modSlot k fun x => { c with
      occ := s.startOcc r, dirty := 0x1FFFFFFFE, vdirty := 0xEFF, org := w.1, sub := w.2, outs := [], fatals := [], due := none
      sleeping := none, sysc := 0, cmd := none, remote := Vector.replicate 4 0, mark := none, born := s.timer.toNat
      gramstat := x.gramstat, kvstat := x.kvstat, gather := none, seen := s.toSee (dieOf k) r, owed := s.toOwe (dieOf k) r
      displ := false, kvLow := none, waitOn := [] }
  | none => s.modSlot k fun x => { x with
    g := Vector.ofFn fun i => if 1 ≤ i.val ∧ i.val ≤ 12 then r.g.getD (i.val - 1) 0 else x.g.get i
    gst := Vector.ofFn fun i =>
      if i.val = 0 then .full
      else if i.val ≤ 12 then (if r.pw.getLsbD (7 + i.val) then .void else .full) else .void
    v := match r.vreg with
      | some (n, v) => x.v.set n.toNat v n.isLt
      | none => x.v
    vst := Vector.ofFn fun i => if (r.vreg.map (·.1.toNat)) = some i.val then .full else .void
    mst := Vector.ofFn fun i => if i.val = 0 then .full else .void
    p := r.pw.extractLsb' 0 8 ||| 1
    dirty := 0x1FFFFFFFE, vdirty := 0xEFF
    pc := r.pc &&& ~~~ 3, pt := r.flags.getLsbD 0, cls := r.guaranteed, prio := r.prio, sw := r.flags.getLsbD 4
    mode := r.flags.getLsbD 5, pmode := false, frozen := false
    tenant := r.tenant, org := w.1, sub := w.2, statesel := 0, migthr := 0x400, timecmp := 0
    joinblk := r.joinblk, owner := r.owner, occ := s.startOcc r, outs := [], fatals := [], due := none, async := []
    replay := none, sleeping := none, sysc := 0, cmd := none, remote := Vector.replicate 4 0, mark := none
    born := s.timer.toNat, uid := r.uid, seq := 0
    gather := none, seen := s.toSee (dieOf k) r, bar := 0, rel := 0, owed := s.toOwe (dieOf k) r, purity := none, displ := false
    waitOn := [] }

/-- The strand has left slot `k`, which is empty (R139). -/
def State.leave (s : State) (k : Nat) : State :=
  s.modSlot k fun x => { x with
    occ := .empty, replay := none, sleeping := none, remote := Vector.replicate 4 0, mark := none }

/-! ### Deques, decks and run queues (R139, R140) -/

/-- Slot 7 of a core whose URGCFG.EN is set is the urgent slot (R146). -/
def State.urgentSlot (s : State) (k : Nat) : Bool := k % 8 == 7 && (s.core (coreOf k)).urgcfg.msb

/-- A record's launch domain covers a slot (R141): its cluster, die or package. -/
def State.domainCovers (s : State) (r : StrandRec) (k : Nat) : Bool :=
  match s.strandLaunch r.owner r.tenant with
  | some l => if l.domain = 0 then clusterOf k == r.cl else if l.domain = 1 then dieOf k == r.cl / 40 else true
  | none => dieOf k == ((s.ownerTask r.owner r.tenant).map (·.die)).getD (r.cl / 40)

/-- A MOVE that has set its forwarding entry is still to copy a core into core `t` (R282). -/
def State.moveInto (s : State) (t : Nat) : Bool := s.cores.any fun (e : Nat × Core) => e.2.moving && decide (e.2.fwd = some t)

/-- An empty slot that takes records: not the urgent one, of a core that no forwarding entry stands for and that is not the target
of a MOVE in progress (R139, R146, R282). -/
def State.freeSlot (s : State) (k : Nat) : Bool :=
  decide ((s.slot k).occ = .empty) && !s.urgentSlot k && (s.core (coreOf k)).fwd.isNone && !s.moveInto (coreOf k)

/-- A push onto a deque or a deck wakes the lowest-numbered sleeping core with an empty slot that may steal the record
(R265). -/
def State.wakeThief (s : State) (r : StrandRec) : State :=
  match List.find? (fun e : Nat × Core => e.2.asleep && (slotsOf e.1).any fun k => s.freeSlot k && s.domainCovers r k) s.cores with
  | some e => s.wake e.1
  | none => s

/-- A record stands in the plinth of a core at an offset of the core's part (R249; log entry 39). -/
def State.putRec (s : State) (c off : Nat) (r : StrandRec) : State := s.storeLs (c / 160) (c / 4) (plinthOff c + off) r.bytes

/-- Pushes a record at the near end of a core's deque; a full deque moves its oldest record to the deck (R140). The core's own
slots may take it, and a thief's (R139, R265). -/
def State.pushNear (s : State) (c : Nat) (r : StrandRec) : Option State :=
  let x := s.core c
  let s := s.putRec c ((x.dqHead + x.deque.length) % 64 * 128) r
  if x.deque.length < 64 then some ((s.modCore c fun x => { x with deque := x.deque ++ [r], asleep := false }).wakeThief r)
  else if 65536 ≤ (s.die (c / 160)).deck.length then none
  else match x.deque with
    | [] => none
    | far :: rest =>
      some ((((s.modDie (c / 160) fun y => { y with deck := y.deck ++ [far] }).modCore c fun y =>
        { y with deque := rest ++ [r], dqHead := (y.dqHead + 1) % 64, asleep := false }).wakeThief far).wakeThief r)

/-- The lowest place of a run queue that holds no record (R249). -/
def Core.runPlace (x : Core) : Nat := (findFree (fun i => !x.runq.any fun r => r.place == i) 32 0).getD 0

/-- A record enters a core's run queue, whose age it takes; `none` when the queue is full (R139). -/
def State.pushRun (s : State) (c : Nat) (r : StrandRec) : Option State :=
  if 32 ≤ (s.core c).runq.length then none
  else
    let i := (s.core c).runPlace
    some ((s.putRec c (0x2000 + i * 128) r).modCore c fun x =>
      { x with runq := x.runq ++ [{ r with age := s.timer.toNat, place := i }], asleep := false })

/-- Takes the far-end record of a deque away, or that of a deck (R140, R141). -/
def State.popFar (s : State) (p : Nat ⊕ Nat) : State :=
  match p with
  | .inl c => s.modCore c fun x => { x with deque := x.deque.drop 1, dqHead := (x.dqHead + 1) % 64 }
  | .inr d => s.modDie d fun x => { x with deck := x.deck.drop 1 }

/-- The core that stands for `c` while a forwarding entry is held (R283); `none` while a core is being moved from it or into
it. -/
def State.forwarded (s : State) (c : Nat) : Option Nat :=
  match (s.core c).fwd with
  | none => if s.moveInto c then none else some c
  | some t => if (s.core c).moving then none else some t

/-! ### Messages of the fabric -/

/-- A message on its way to a core: `kind` 0 a mailbox message, 1 a strand record for a run queue, 2 the answer to a MIGR,
3 a join record for a deque, 4 a join record for another package, 7 the clearing of W at a peer. -/
def State.postMsg (s : State) (m : Msg) : State × Nat :=
  ({ s with msgs := s.msgs ++ [{ m with n := s.nextN }], nextN := s.nextN + 1 }, s.nextN)

/-- A message with nothing but its kind and core. -/
def Msg.to (kind core : Nat) : Msg where
  n := 0
  kind := kind
  src := 0
  uid := 0
  core := core
  mbox := 0
  bytes := []
  record := none
  join := none
  device := false
  since := 0

/-- A message may be handed on: its station's earlier messages to its cluster have been (R259). -/
def State.msgTurn (s : State) (m : Msg) : Bool := m.stn.all fun st => s.pathClear st (m.core / 4) m.n

/-! ### Steps at a home (R361) -/

/-- The bytes of a place of this package at its home: local-store bytes or the home bank's. -/
def State.placeBytes (s : State) (p : Place) (n : Nat) : List Byte :=
  match p with
  | .ls c o => s.readLs c o n
  | .mem pa => s.readHome pa n
  | _ => []

/-- A write of a die, for the strand `src` or 0, that is performed at its home in the same step (R98); it waits for its turn
there. -/
def homeStore (die src : Nat) (p : Place) (bs : List Byte) : M Nat := do
  match p with
  | .ls c o => modify (·.storeLs die c o bs); pure 0
  | .mem pa => do
    homeTurn die pa bs.length
    let r := (← get).performNow die src (.bytes pa bs)
    set r.1
    pure r.2
  | _ => pure 0

/-- The same for an accessor. -/
def homeWrite (w : Who) (p : Place) (bs : List Byte) : M Nat := homeStore w.die w.uid p bs

/-- Every die applies a performed write; none while it is not its turn at one of them (R98). -/
def State.applyAll (s : State) (n : Nat) : Option State :=
  ([0, 1, 2, 3] : List Nat).foldl (fun (u : Option State) d => u.bind fun s =>
    match s.writes.find? fun v => v.n = n with
    | some v =>
      if !v.todo.contains d then some s
      else if s.stampHolds d v && s.orderHolds d v then some (s.applyWrite d v) else none
    | none => some s) (some s)

/-- A write that is performed at its home and applied at every die in the same step, for a unit that makes several of them in one
step (log entry 38); it waits for its turn. -/
def settledWrite (w : Who) (p : Place) (bs : List Byte) : M Unit := do
  let n ← homeWrite w p bs
  match p with
  | .mem _ => do
    let s ← get
    match s.applyAll n with
    | some t => set t
    | none => throw (.wait id)
  | _ => pure ()

/-- Writes bytes at a place within the step: at once here, as a packet elsewhere (log entry 38). -/
def storePlace (w : Who) (va : Dword) (p : Place) (bs : List Byte) : M Unit :=
  match p with
  | .peer _ | .host => do let _ ← writePlace w va p bs
  | p => settledWrite w p bs

/-- Writes bytes from `va` within the step of a command, page by page. -/
def storeMem (w : Who) : Nat → Dword → List Byte → M Unit
  | 0, _, _ => pure ()
  | fuel + 1, va, bs => do
    if bs = [] then return ()
    let k := chunkLen va bs.length
    let p ← placeWrite w va k 5
    storePlace w va p (bs.take k)
    storeMem w fuel (va + dw k) (bs.drop k)

/-- Every write performed so far to these bytes has been applied at die d, so that what follows a read of them at their
home sees what those writes release (R97, R99). -/
def State.appliedAt (s : State) (d : Nat) (p : Place) (n : Nat) : Bool :=
  match p with
  | .mem pa => (s.producers d pa n).isEmpty
  | .ls c o => c / 40 == d || s.lsCovered d c o n
  | _ => true

/-- One indivisible step on a dword whose home is a peer package (R361), by a READ and a CAS that is tried again when
another step came first (log entry 20). -/
def peerStep (w : Who) (pkg : Nat) (va : Dword) (f : Dword → Option Dword) : M Dword := do
  let a ← askPeer w pkg 1 va (leBytes 4 8) [(0x10, 8, va.toNat), (0x18, 4, 8)] []
  let bs ← statusOk w a va
  let old := dw (leNat (bs.take 8))
  match f old with
  | none => pure old
  | some new => do
    let c ← askPeer w pkg 3 va (9 :: leBytes 8 new.toNat) [(0x10, 8, va.toNat), (0x18, 1, 9), (0x19, 1, 1), (0x20, 8, new.toNat),
      (0x28, 8, old.toNat)] []
    let cs ← statusOk w c va
    if dw (leNat (cs.take 8)) = old then pure old else throw (.wait fun t => t.dropRequests w.req)

/-- Writes dwords to a peer and waits until each has been performed there. -/
def peerStore (w : Who) (pkg : Nat) (va : Dword) (bs : List Byte) : M Unit := do
  for i in List.range (bs.length / 8) do
    let a := va + dw (8 * i)
    let x := rd bs (8 * i) 8
    let r ← askPeer w pkg 3 a (8 :: leBytes 8 x) [(0x10, 8, a.toNat), (0x18, 1, 8), (0x19, 1, 1), (0x20, 8, x)] []
    let _ ← statusOk w r a

/-! ### Join blocks (R360–R362) -/

/-- COUNT, W, CORE and PKG of a join word (R361). -/
def joinCount (j : Dword) : Nat := bits j 31 0
def joinW (j : Dword) : Bool := j.msb
/-- A JOIN of another package is writing its record (the model's own mark in a bit that R361 keeps zero; log entry 20). -/
def joinClaim (j : Dword) : Bool := j.getLsbD 62
/-- A JOIN has to wait at the home (R362). -/
def joinTaken (j : Dword) : Bool := joinW j || joinClaim j
def joinCore (j : Dword) : Nat := (bits j 41 40 * 40 + bits j 39 34) * 4 + bits j 33 32
def joinPkg (j : Dword) : Nat := bits j 57 42
/-- A join word with the waiting core set (R362). -/
def joinWait (j : Dword) (pkg c : Nat) : Dword :=
  dw (2 ^ 63 + pkg * 2 ^ 42 + c / 160 * 2 ^ 40 + c / 4 % 40 * 2 ^ 34 + c % 4 * 2 ^ 32 + joinCount j)

/-- A key for the home of a join word. -/
def placeKey : Place → Nat
  | .ls c o => 2 ^ 50 + lsKey c o
  | .mem pa => pa
  | _ => 2 ^ 60

/-- Raises COUNT; `false`, and nothing changed, when it stands at its limit (R360). A page of the host has no home for it (R361). -/
def joinRaise (w : Who) (jb : Dword) : M Bool := do
  let p ← placeWrite w jb 8 2
  let up := fun (j : Dword) => if joinCount j = 0xFFFFFFFF then none else some (j + 1)
  match p with
  | .host => throw (.fatal 0x27 jb)
  | .peer pkg => do
    let j ← peerStep w pkg jb up
    pure (up j).isSome
  | p => do
    let s ← get
    match up (dw (leNat (s.placeBytes p 8))) with
    | none => pure false
    | some j => do
      let _ ← homeWrite w p (leBytes 8 j.toNat)
      pure true

/-- The place in `Msg.join` of a join word that a peer holds: W is cleared there once the record has been accepted. -/
def peerKey (pkg : Nat) : Nat := 2 ^ 64 + pkg

/-- The station of the home of a join word (R259). -/
def placeStation : Place → Option Nat
  | .ls c _ => some c
  | .mem pa => some (1000 + homeBank pa)
  | _ => none

/-- Lowers COUNT when a strand ends (R361, R362); a record that waits is on its way to its core when COUNT reaches zero, and W
stays set until it has been accepted. A decrement at zero at a peer is counted there. -/
def joinLower (w : Who) (jb : Dword) : M Unit := do
  let p ← placeWrite w jb 8 2
  match p with
  | .host => throw (.fatal 0x27 jb)
  | .peer pkg => do
    let j ← peerStep w pkg jb fun j => if joinCount j = 0 then none else some (j - 1)
    if joinCount j = 1 && joinW j then
      let a ← askPeer w pkg 1 (jb + 0x80) (leBytes 4 128) [(0x10, 8, (jb + 0x80).toNat), (0x18, 4, 128)] []
      let bs ← statusOk w a (jb + 0x80)
      modify fun s =>
        let here := joinPkg j == s.pkgid.toNat
        (s.postMsg { Msg.to (if here then 1 else 4) (joinCore j) with
          mbox := joinPkg j, record := some (recOfBytes bs s.nextN (joinCore j / 4)), join := some (peerKey pkg, jb) }).1
  | p => do
    let s ← get
    let j := dw (leNat (s.placeBytes p 8))
    if joinCount j = 0 then
      modify (·.modDie (redDie (placeKey p)) fun x => { x with schedErr := x.schedErr + 1 })
    else
      let _ ← homeWrite w p (leBytes 8 (j - 1).toNat)
      if joinCount j = 1 && joinW j then
        let q ← placeRead w (jb + 0x80) 8 2 1
        modify fun s =>
          let known := s.waiting.find? (placeKey p)
          let uid := (known.map (·.1)).getD s.nextN
          let here := joinPkg j == s.pkgid.toNat
          (s.postMsg { Msg.to (if here then 3 else 4) (joinCore j) with
            mbox := joinPkg j, stn := placeStation p
            record := some { recOfBytes (s.placeBytes q 128) uid (joinCore j / 4) with seen := known.bind (·.2) }
            join := some (placeKey p, jb) }).1

end Sys2Proof.Machine
end

