-- ==== Sys2Proof/Machine/Strand.lean ====
section
/-! DEFINITION. Strand instructions (R357–R366) and the steps that move strand records: run queues, deques, decks, steals and
join records (R91, R139–R142, R362, R363). -/

namespace Sys2Proof.Machine

/-- A suspension instruction waits for every outstanding instruction and every SYSC reply of the strand (R357). -/
def Slot.suspHeld (x : Slot) : Bool := !x.outs.isEmpty || x.sysc != 0

/-- No record of the strand can be made: one of g1–g12 is empty (R117). -/
def Slot.noRecord (x : Slot) : Bool := (List.range 12).any fun i => x.gState (BitVec.ofNat 5 (i + 1)) == .empty

/-- A suspension instruction that makes a record waits for the registers of the record too (R117, R357). -/
def Slot.recHeld (x : Slot) : Bool := x.suspHeld || x.noRecord

/-- Checks of an address that is used as a load's (R346, R360): region, alignment, plinth, pure tag. -/
def State.objTrap (s : State) (k : Nat) (va : Dword) (align : Nat) (sub : Byte) (size : Nat) (write : Bool) : Option Trap :=
  firstTrap [s.regionTrap k va, if va.toNat % align = 0 then none else some (alignTrap sub va), s.plinthTrap k va,
    (s.pureSub k write va size).map fun c => purityTrap c va]

/-- LSRANGE of a place word (R358). -/
def placeTrap (w : Dword) : Option Trap := if 40 ≤ placeCluster w then some (memFatal 0x21 w) else none

/-- The core to which a marked strand is to move (R91); a strand of a launch whose domain is its cluster never moves. -/
def State.markCore (s : State) (k : Nat) : Option Nat :=
  let x := s.slot k
  if ((s.strandLaunch x.owner x.tenant).map (·.domain)) = some 0 then none
  else x.mark.map fun bank => (bank / 256 * 40 + bank % 256 * 40 / 256) * 4 + k / 8 % 4

/-- A marked strand moves to the run queue of its core on the other die, to go on there at `pc`; it stays with its counters
cleared when that queue is full, and marked where no record of it can be made (R91, R117, R139). -/
def State.shipMarked (s : State) (k : Nat) (pc : Dword) : State :=
  match (if (s.slot k).noRecord then none else s.markCore k) with
  | none => s
  | some c => match (s.forwarded c).bind fun c => s.pushRun c (s.recOf k pc) with
    | some u => u.leave k
    | none => s.modSlot k fun y => { y with remote := Vector.replicate 4 0, mark := none }

/-- The strand's registers are voided and it goes on in its slot, or moves to the die whose accesses marked it (R91, R245). -/
def State.suspend (s : State) (k : Nat) : State :=
  let u := s.shipMarked k (s.slot k).pc
  if (u.slot k).occ = .empty then u else u.modSlot k (·.voidAtPoint none)

/-- SPAWN (R360): the continuation is pushed and the child goes on in this slot. -/
def execSpawn (a b : BitVec 5) (g : BitVec 3) : State → Res :=
  issueM
    { instr := .spawn a b g, guard := g, la := some 0, reads := [.g a, .g b]
      hold := fun s => (s.slot s.focus).recHeld ||
        (decide (64 ≤ (s.core (coreOf s.focus)).deque.length) && decide (65536 ≤ (s.die (dieOf s.focus)).deck.length))
      check := fun s =>
        let jb := s.readG s.focus b
        firstTrap [s.objTrap s.focus (s.readG s.focus a) 4 2 4 false,
          if jb = 0 then none else s.objTrap s.focus jb 128 7 8 false] }
    fun before => do
      let k := before.focus
      let x := before.slot k
      let jb := x.readG b
      if jb ≠ 0 then
        if !(← joinRaise (before.whoSlot k (.issue k)) jb) then
          set (before.fatalIssue k 0x23 jb)
          return
      modify fun s =>
        let s := (s.pushNear (coreOf k) (before.recOf k (x.replay.getD (x.pc + 4)))).getD s
        let s := match s.ownerTask x.owner x.tenant with
          | some t => s.modTask t.n fun t => { t with strands := t.strands + 1 }
          | none => s
        let s := s.count (coreOf k) 0x0B 1
        { s.modSlot k fun y => { y.voidAtPoint none with
            pc := x.readG a, joinblk := jb, sw := false, uid := s.nextN, born := s.timer.toNat, dirty := 0x1FFFFFFFE, vdirty := 0xEFF
            remote := Vector.replicate 4 0, mark := none } with nextN := s.nextN + 1 }

/-- A JOIN that waits ships a marked strand before it acts: the strand executes the JOIN again where it goes (R91; log entry
54). A JOIN in the one execution of TRPC waits here (R271). -/
def shipJoin (b : State) (k : Nat) : M Bool := do
  if (b.slot k).replay.isSome then return false
  modify (·.shipMarked k (b.slot k).pc)
  let s ← get
  pure (decide ((s.slot k).occ = .empty))

/-- The step that ends a claim of a join word at a peer: READ and CAS, each told from those of the claim, and tried again where
another step came first. -/
def setJoinW (w : Who) (pkg : Nat) (jb : Dword) (f : Dword → Dword) : M Dword := do
  let a ← askPeer w pkg 1 jb (leBytes 8 1) [(0x10, 8, jb.toNat), (0x18, 4, 8)] []
  let bs ← statusOk w a jb
  let old := dw (leNat (bs.take 8))
  let c ← askPeer w pkg 3 jb (9 :: leBytes 8 (f old).toNat ++ [1]) [(0x10, 8, jb.toNat), (0x18, 1, 9), (0x19, 1, 1),
    (0x20, 8, (f old).toNat), (0x28, 8, old.toNat)] []
  let cs ← statusOk w c jb
  if dw (leNat (cs.take 8)) = old then pure old
  else throw (.wait fun t => { t with requests := t.requests.filter fun r =>
    !(decide (r.who = w.req ∧ r.dst = pkg) && (r.bytes == leBytes 8 jb.toNat ++ leBytes 8 1 || r.bytes.length == 18)) })

/-- JOIN at a join block of this package (R362). -/
def joinHere (b : State) (w : Who) (k : Nat) (p : Place) (jb : Dword) (r : StrandRec) : M Unit := do
  let s ← get
  let j := dw (leNat (s.placeBytes p 8))
  if joinTaken j then throw (.wait id)
  else if joinCount j = 0 then
    if !s.appliedAt (dieOf k) p 8 then throw (.wait id)
    modify (·.suspend k)
  else if (s.slot k).noRecord then throw (.wait id)
  else if ← shipJoin b k then pure ()
  else
    let q ← placeWrite w (jb + 0x80) 128 2
    let _ ← homeWrite w q r.bytes
    let _ ← homeWrite w p (leBytes 8 (joinWait j b.pkgid.toNat (coreOf k)).toNat)
    modify fun s => { s with waiting := s.waiting.put (placeKey p) (r.uid, r.saw) }.leave k

/-- JOIN at a join block of another package (R361, R362): it claims the block by a CAS, writes its record, and sets W by another;
where COUNT has come to zero meanwhile it gives the claim back and goes on in its slot (log entry 20). -/
def joinThere (b : State) (w : Who) (k pkg : Nat) (jb : Dword) (r : StrandRec) : M Unit := do
  let x := b.slot k
  let leaves := (b.markCore k).isSome && x.replay.isNone
  let old ← peerStep w pkg jb fun j =>
    if joinTaken j || joinCount j == 0 || x.noRecord || leaves then none else some (j ||| BitVec.twoPow 64 62)
  if joinTaken old then throw (.wait fun t => t.dropRequests w.req)
  else if joinCount old = 0 then modify (·.suspend k)
  else if x.noRecord then throw (.wait fun t => t.dropRequests w.req)
  else if leaves then throw (.wait fun t => (t.dropRequests w.req).shipMarked k x.pc)
  else
    peerStore w pkg (jb + 0x80) r.bytes
    let last ← setJoinW w pkg jb fun j =>
      if joinCount j = 0 then j &&& ~~~ BitVec.twoPow 64 62 else joinWait j b.pkgid.toNat (coreOf k)
    if joinCount last = 0 then modify (·.suspend k) else modify (·.leave k)

/-- JOIN (R362): continues when COUNT is 0; otherwise the record waits in the join block and the slot is empty. -/
def execJoin (a : BitVec 5) (g : BitVec 3) : State → Res :=
  issueM
    { instr := .join a g, guard := g, la := some 0, reads := [.g a]
      hold := fun s => (s.slot s.focus).suspHeld
      check := fun s => s.objTrap s.focus (s.readG s.focus a) 128 7 8 false }
    fun before => do
      let k := before.focus
      let x := before.slot k
      let jb := x.readG a
      let w := before.whoSlot k (.issue k)
      let r := before.recOf k (x.replay.getD (x.pc + 4))
      let p ← placeWrite w jb 8 2
      match p with
      | .host => throw (.fatal 0x27 jb)
      | .peer pkg => joinThere before w k pkg jb r
      | p => joinHere before w k p jb r

/-- A record with g`d` written (R363). -/
def StrandRec.setG (r : StrandRec) (d : BitVec 5) (x : Dword) : StrandRec :=
  if d = 0 then r
  else { r with g := r.g.set (d.toNat - 1) x, pw := r.pw &&& ~~~ BitVec.twoPow 32 (7 + d.toNat) }

/-- MIGR and MIGV (R363): the record leaves, and the slot waits for the answer. -/
def migrate (i : Instr) (d a : BitVec 5) (g : BitVec 3) (v : Option (BitVec 3)) : State → Res :=
  issueM
    { instr := i, guard := g, la := some 0, reads := [.g a] ++ (match v with
        | some n => [.v n]
        | none => [])
      writes := [.g d], hold := fun s => (s.slot s.focus).recHeld
      check := fun s =>
        let w := s.readG s.focus a
        firstTrap [placeTrap w, if placePkg w = s.pkgid.toNat then none else s.pureTrap s.focus 0x09] }
    (stay := true)
    fun b => do
      let k := b.focus
      let x := b.slot k
      let w := x.readG a
      let r := (b.recOf k (x.replay.getD (x.pc + 4))).setG d 0
      let r := { r with vreg := v.map fun n => (n, x.readV n) }
      let s := b.count (coreOf k) 0x02 1
      if placePkg w = b.pkgid.toNat then
        let p := s.postMsg { Msg.to 1 (placeCore w) with
          src := k, uid := x.uid, mbox := d.toNat, record := some r, stn := some (clusterOf k) }
        set (p.1.modSlot k fun y => { y with occ := .migrating p.2 })
      else if !b.pkgOk (placePkg w) then throw (.fatal 5 0)
      else if !b.canTouch (dieOf k) (placePkg w) then throw (.wait fun t => t.relieveTouched (dieOf k))
      else match b.freeTag (dieOf k) with
        | none => throw (.wait id)
        | some tag =>
          let data := r.bytes ++ (match r.vreg with
            | some (_, x) => leBytes 512 x.toNat
            | none => [])
          let who := { b.whoSlot k (.op k b.nextN) with tenant := x.tenant }
          let pkt := requestPacket 5 (dieOf k) (placePkg w) b.pkgid.toNat x.tenant tag
            [(0x10, 1, bits w 25 24), (0x11, 1, placeCluster w), (0x12, 1, bits w 13 12), (0x13, 1, if v.isSome then 1 else 0),
             (0x14, 1, ((v.map (·.toNat)).getD 0))] data
          let s := (s.addRequest who tag (placePkg w) 5 [BitVec.ofNat 8 d.toNat, BitVec.ofNat 8 ((v.map (·.toNat)).getD 255)]).sendPacket
            (dieOf k) (placePkg w) pkt
          set { s.modSlot k fun y => { y with occ := .migrating b.nextN } with nextN := b.nextN + 1 }

/-- MIGR (R363). -/
def execMigr (d a : BitVec 5) (g : BitVec 3) : State → Res := migrate (.migr d a g) d a g none

/-- MIGV (R363): one v register travels with the record. -/
def execMigv (d a : BitVec 5) (v g : BitVec 3) : State → Res := migrate (.migv d a v g) d a g (some v)

/-- YIELD (R364): the record enters the core's run queue; a full one leaves the strand in its slot. -/
def execYield (g : BitVec 3) : State → Res :=
  issue { instr := .yield g, guard := g, la := some 0, hold := fun s => (s.slot s.focus).recHeld } fun b t =>
    let k := b.focus
    let s := t.suspend k
    if (s.slot k).occ = .empty then s
    else match s.pushRun (coreOf k) (b.recOf k (t.slot k).pc) with
      | some u => u.leave k
      | none => s

/-- PARK (R364): a suspension point that issues once gd is full. -/
def execPark (d : BitVec 5) (g : BitVec 3) : State → Res :=
  issue { instr := .park d g, guard := g, la := some 0
          hold := fun s => (s.slot s.focus).suspHeld || (s.slot s.focus).gState d != .full } fun b t => t.suspend b.focus

/-- PARK.E (R364): sets gd empty and waits for nothing, not even for gd. -/
def execParkE (d : BitVec 5) (g : BitVec 3) : State → Res :=
  issue { instr := .parkE d g, guard := g, la := some 0 } fun b t =>
    t.modSlot b.focus fun x => x.mark_ (.g d) .empty

/-- RFILL (R365): outstanding until the target core acknowledges. -/
def execRfill (d a b : BitVec 5) (g : BitVec 3) (l : BitVec 4) : State → Res :=
  longOp { instr := .rfill d a b g l, guard := g, reads := [.g a, .g b]
           check := fun s => firstTrap [placeTrap (s.readG s.focus a), s.pureTrap s.focus 0x07] } l [.g d] fun s =>
    let w := s.readG s.focus a
    .rfill (placeSlot w) (BitVec.ofNat 5 (bits w 4 0)) (s.readG s.focus b) d

/-- SELF (R366). -/
def execSelf (d : BitVec 5) (g : BitVec 3) (l : BitVec 4) : State → Res :=
  longOp { instr := .self d g l, guard := g, check := fun s => s.pureTrap s.focus 0x05 } l [.g d] fun s =>
    .compute [.g d (placeWord s.pkgid s.focus)]

/-! ### RFILL at its target (R113, R365) -/

/-- The release of RFILL and MSEND to a core, or to the core that stands for it (R113, R283). -/
def State.sendReleased (s : State) (k : Nat) (o : Outst) (core : Nat) : Bool :=
  (s.slot k).mayLeave o && s.releasedTo k o (s.atCore core / 160)

/-- A slot holds a strand. -/
def Slot.holdsStrand (x : Slot) : Bool :=
  match x.occ with
  | .empty => false
  | .reserved _ => false
  | _ => true

/-- A fill of a register of slot `k` from outside: it overwrites a full or void register and wakes the slot. -/
def State.fillReg (s : State) (k : Nat) (r : BitVec 5) (x : Dword) : State :=
  (s.modSlot k fun y => { y.setG r x with sleeping := none }).modCore (coreOf k) fun c => { c with asleep := false }

/-- RFILL is delivered (R365). -/
def State.rfillStep (s : State) (k : Nat) (o : Outst) (target : Nat) (r : BitVec 5) (x : Dword) (d : BitVec 5) : State :=
  if !s.sendReleased k o (coreOf target) || !s.pathClear (clusterOf k) (clusterOf target) s.nextN then s
  else match s.forwarded (coreOf target) with
    | none => s
    | some c =>
      let tk := 8 * c + target % 8
      let y := s.slot tk
      if !y.holdsStrand then s.complete k o [.g d 1]
      else if y.outs.any fun u => decide (u.id ≠ o.id ∨ tk ≠ k) && u.dests.contains (.g r) then s
      else (s.fillReg tk r x).complete k o [.g d 0]

/-! ### Device steps -/

/-- The message that a step names. -/
def State.msg? (s : State) (n kind : Nat) : Option Msg := s.msgs.find? fun m => decide (m.n = n ∧ m.kind = kind)
def State.dropMsg (s : State) (n : Nat) : State := { s with msgs := s.msgs.filter fun m => m.n ≠ n }

/-- The record of a join block at a peer has been accepted: W is to be cleared there (R362). -/
def State.clearPeerW (s : State) (m : Msg) : State :=
  match m.join with
  | some (key, jb) => if 2 ^ 64 ≤ key then
      (s.postMsg { Msg.to 7 m.core with mbox := key - 2 ^ 64, join := some (key, jb), record := m.record }).1 else s
  | none => s

/-- RUN_QUEUE_ARRIVE (R139, R363): the record enters the core's run queue, or the sender hears REFUSED; a record that no
sender waits for stays on its way until there is room. -/
def execRunQueueArrive (s : State) : Res :=
  .next <| match s.msg? s.ev.who 1 with
    | none => s
    | some m => if !s.msgTurn m then s else match m.record, s.forwarded m.core with
      | some r, some c =>
        let s1 := s.dropMsg m.n
        let answer := fun (s : State) (st : Byte) =>
          (s.postMsg { Msg.to 2 (coreOf m.src) with
            src := m.src, mbox := m.mbox, bytes := [st, BitVec.ofNat 8 ((r.vreg.map (·.1.toNat)).getD 255)]
            stn := some (c / 4) }).1
        match s1.pushRun c r with
        | some s2 => if (s.slot m.src).occ = .migrating m.n then answer s2 0 else s2.clearPeerW m
        | none => if (s.slot m.src).occ = .migrating m.n then answer s1 6 else s
      | _, _ => s

/-- The answer to a MIGR or MIGV of slot `k` (R363); the v register that a MIGV carries keeps its value (R245). A strand whose task
has faulted meanwhile is stopped (R131). -/
def State.migrDone (s : State) (k : Nat) (d : BitVec 5) (st v : Byte) : State :=
  let x := s.slot k
  let keep := if v.toNat < 8 then some (BitVec.ofNat 3 v.toNat) else none
  let occ := if s.taskStopped x.owner x.tenant then .stopped else .active
  if st = 0 then s.leave k
  else if st = 6 then
    s.modSlot k fun x => ({ x.voidAtPoint keep with occ := occ }.advance (x.replay.getD (x.pc + 4))).setG d 6
  else (s.setSlot k { x with occ := occ }).fatalIssue k (if 8 ≤ st.toNat then 4 else st) 0

/-- MIGR_ANSWER (R363): the answer of the core in this package or of the packet's destination. -/
def execMigrAnswer (s : State) : Res :=
  .next <| match (s.slot s.ev.who).occ with
    | .migrating n =>
      match s.msgs.find? fun m => decide (m.kind = 2 ∧ m.src = s.ev.who) with
      | some m => if !s.msgTurn m then s else (s.dropMsg m.n).migrDone s.ev.who (BitVec.ofNat 5 m.mbox) (m.bytes.getD 0 0) (m.bytes.getD 1 255)
      | none => match s.requests.find? fun r => decide (r.who = .op s.ev.who n) with
        | some r => match r.answer with
          | some a => (s.dropRequests (.op s.ev.who n)).migrDone s.ev.who (BitVec.ofNat 5 (r.bytes.getD 0 0).toNat) a.1
              (r.bytes.getD 1 255)
          | none => s
        | none => s
    | _ => s

/-- The place of a key of `placeKey` for a join word of this package. -/
def keyPlace (key : Nat) : Place :=
  if 2 ^ 50 ≤ key then .ls ((key - 2 ^ 50) / 2 ^ 22) ((key - 2 ^ 50) % 2 ^ 22) else .mem key

/-- Clears W of a join word at its home (R362). -/
def clearW (key : Nat) : M Unit := do
  let s ← get
  let p := keyPlace key
  let _ ← homeStore (redDie key) 0 p (leBytes 8 (leNat (s.placeBytes p 8) % 2 ^ 63))

/-- The message of a join record is done: W clears. -/
def joinDone (m : Msg) : M Unit := do
  match m.join with
  | none => modify (·.dropMsg m.n)
  | some (key, _) =>
    if 2 ^ 64 ≤ key then modify fun s => (s.dropMsg m.n).clearPeerW m
    else do
      clearW key
      modify fun s => { s.dropMsg m.n with waiting := s.waiting.del key }

/-- A record is handed on, and the message of it is done; both wait together. -/
def State.finishJoin (s : State) (m : Msg) (t : State) : State :=
  runM (do set t; joinDone m) (fun _ _ s => s) (fun _ s => s) s

/-- Sends a join record to another package as a STRAND packet of KIND 0 (R362). -/
def State.sendJoin (s : State) (m : Msg) (r : StrandRec) : State :=
  let d := m.core / 160
  match s.freeTag d with
  | none => s
  | some tag =>
    if !s.canTouch d m.mbox then s.relieveTouched d
    else
      let pkt := requestPacket 5 d m.mbox s.pkgid.toNat r.tenant tag
        [(0x10, 1, d), (0x11, 1, m.core / 4 % 40), (0x12, 1, m.core % 4), (0x13, 1, 0)] r.bytes
      let q : Request := ⟨d, tag, m.mbox, 5, s.timer.toNat, .device m.n, 0, [], none⟩
      { s with requests := s.requests ++ [q] }.sendPacket d m.mbox pkt

/-- Clears W of a join word at a peer by an AMO, until it has an answer (R362). -/
def clearPeer (d : Nat) (m : Msg) : M Unit := do
  let w : Who := { die := d, core := none, cluster := 0, tenant := ((m.record.map (·.tenant)).getD 0), stream := none
                   req := .device m.n, slot := none, uid := 0, wher := 0xFFFFFFFF }
  let jb := (m.join.map (·.2)).getD 0
  let mask := BitVec.ofNat 64 (2 ^ 63 - 1)
  let a ← askPeer w m.mbox 3 jb (1 :: leBytes 8 mask.toNat) [(0x10, 8, jb.toNat), (0x18, 1, 1), (0x19, 1, 1), (0x20, 8, mask.toNat)] []
  if a.1 = 6 then throw (.wait fun t => t.resendRefused w.req)
  modify fun s => (s.dropRequests w.req).dropMsg m.n

/-- JOIN_RECORD_PUSH (R362): the waiting record enters CORE's deque once there is room, or its packet is accepted, and then
W clears, here or at the peer that holds the block. -/
def execJoinRecordPush (s : State) : Res :=
  .next <| match s.msg? s.ev.who 3 with
    | some m => if !s.msgTurn m then s else match m.record, s.forwarded m.core with
      | some r, some c => match s.pushNear c r with
        | some s' => s.finishJoin m s'
        | none => s
      | _, _ => s
    | none => match s.msg? s.ev.who 4 with
      | some m => match m.record, s.requests.find? fun q => decide (q.who = .device m.n) with
        | some r, none => s.sendJoin m r
        | _, some q => match q.answer with
          | some (st, _) => if st = 0 then s.finishJoin m (s.dropRequests (.device m.n)) else s
          | none => s
        | _, _ => s
      | none => match s.msg? s.ev.who 7 with
        | some m => runM (clearPeer (m.core / 160) m) (fun _ _ s => (s.dropRequests (.device m.n)).dropMsg m.n) (fun _ s => s) s
        | none => s

/-- JOIN_RECORD_RETRY (R362): a REFUSED join record is sent again after 1,024 cycles. -/
def execJoinRecordRetry (s : State) : Res :=
  .next <| match s.msg? s.ev.who 4 with
    | some m => match m.record, s.requests.find? fun q => decide (q.who = .device m.n) with
      | some r, some q => match q.answer with
        | some (st, _) => if st = 6 ∧ q.since + 1024 ≤ s.timer.toNat then (s.dropRequests (.device m.n)).sendJoin m r else s
        | none => s
      | _, _ => s
    | none => s

/-- The better of two records under the selection key, with the records that have their class place (R126). DESIGN CHOICE: of two
records alike in class, priority and cycle the earlier in the queue comes first (log entry 59). -/
def StrandRec.before (cls : StrandRec → Bool) (a b : StrandRec) : Bool :=
  if cls a != cls b then cls a
  else if a.prio != b.prio then decide (b.prio.toNat < a.prio.toNat)
  else decide (a.age ≤ b.age)

/-- The first record of a run queue by the selection key, among those that `ok` accepts (R126). -/
def bestRec (cls ok : StrandRec → Bool) : List StrandRec → Option StrandRec
  | [] => none
  | r :: rs => match bestRec cls ok rs with
    | some b => if ok r && r.before cls b then some r else some b
    | none => if ok r then some r else none


/-- Steps 1–3 of R139: the record that an empty slot of core `c` takes, and the core without it. -/
def State.takeRec (s : State) (c : Nat) : Option (StrandRec × Core) :=
  let x := s.core c
  let cls := s.recGuaranteed (c / 160)
  match bestRec cls cls x.runq with
  | some r => some (r, { x with runq := x.runq.erase r })
  | none => match x.deque.getLast? with
    | some r => some (r, { x with deque := x.deque.dropLast })
    | none => (bestRec cls (fun _ => true) x.runq).map fun r => (r, { x with runq := x.runq.erase r })

/-- SLOT_FILL (R139): an empty unreserved slot takes a record of its own core. -/
def execSlotFill (s : State) : Res :=
  let k := s.ev.who
  .next <| if !s.freeSlot k then s
    else match s.takeRec (coreOf k) with
      | some (r, c) => (s.setCore (coreOf k) { c with asleep := false }).startRec k r
      | none => s


/-- The places of R141 in steal order: a core's deque, or a die's deck. -/
def stealPlaces (k : Nat) : List (Nat ⊕ Nat) :=
  let co := k / 8 % 4; let cl := k / 32 % 40; let d := k / 1280
  let deques := fun (d cl : Nat) => (List.range 4).map fun c => (Sum.inl ((d * 40 + cl) * 4 + c) : Nat ⊕ Nat)
  [1, 2, 3].map (fun i => .inl ((d * 40 + cl) * 4 + (co + i) % 4)) ++ [.inr d] ++
  ((List.range 39).flatMap fun i => deques d ((cl + i + 1) % 40)) ++
  [d ^^^ 1, d ^^^ 2, d ^^^ 3].flatMap fun e => .inr e :: (List.range 40).flatMap fun c => deques e c

/-- The far-end record of a place. -/
def State.farEnd (s : State) (p : Nat ⊕ Nat) : Option StrandRec :=
  match p with
  | .inl c => (s.core c).deque.head?
  | .inr d => (s.die d).deck.head?

/-- The place that a slot steals from (R141): the first whose far-end record may start in the slot. A deque's own core comes
before any thief (R139). -/
def State.stealFrom (s : State) (k : Nat) : Option (Nat ⊕ Nat) :=
  (stealPlaces k).find? fun p =>
    ((s.farEnd p).any fun r => s.domainCovers r k) && match p with
      | .inl c => !(slotsOf c).any s.freeSlot
      | .inr _ => true

/-- DECK_ROOM_RESUME (R140): a SPAWN that the full deque and deck held goes on at its slot's next issue turn; the core is
awake for it. -/
def execDeckRoomResume (s : State) : Res :=
  .next <| if (s.slot s.ev.who).occ = .active && decide ((s.die (dieOf s.ev.who)).deck.length < 65536) then
      s.modCore (coreOf s.ev.who) fun c => { c with asleep := false }
    else s

end Sys2Proof.Machine
end

