-- ==== Sys2Proof/Machine/Msg.lean ====
section
/-! DEFINITION. Messages (R113, R367–R369): MSEND, MRECV, MPEEK, and what mailboxes do. -/

namespace Sys2Proof.Machine

/-- A place of 16 objects as an index. -/
def mboxFin (n : Nat) : Fin 16 := ⟨n % 16, Nat.mod_lt n (by decide)⟩

/-- MSEND (R368). -/
def execMsend (d a b : BitVec 5) (g : BitVec 3) (l : BitVec 4) : State → Res :=
  longOp
    { instr := .msend d a b g l, guard := g, reads := [.g a, .g b], hold := fun s => (s.slot s.focus).acquiring
      check := fun s =>
        let w := s.readG s.focus a
        firstTrap [placeTrap w, s.objTrap s.focus (s.readG s.focus b) 8 3 (8 * bits w 63 56) false, s.pureTrap s.focus 0x07] }
    l [.g d]
    fun s => .msend (s.readG s.focus a) (s.readG s.focus b) none d

/-- MRECV (R369). -/
def execMrecv (d a b : BitVec 5) (g : BitVec 3) (l : BitVec 4) : State → Res :=
  longOp
    { instr := .mrecv d a b g l, guard := g, reads := [.g a, .g b], hold := fun s => (s.slot s.focus).acquiring
      check := fun s => firstTrap [s.accessTrap s.focus (s.readG s.focus b) 8 true, s.pureTrap s.focus 0x07] } l [.g d]
    fun s => .mrecv (bits (s.readG s.focus a) 3 0) (s.readG s.focus b) none d

/-- MPEEK (R369). -/
def execMpeek (d a : BitVec 5) (g : BitVec 3) (l : BitVec 4) : State → Res :=
  longOp
    { instr := .mpeek d a g l, guard := g, reads := [.g a], check := fun s => s.pureTrap s.focus 0x07 } l [.g d]
    fun s =>
      let n := bits (s.readG s.focus a) 3 0
      .compute [.g d (dw ((((s.core (coreOf s.focus)).mbox.get (mboxFin n)).map List.length).getD 0))]

/-- A message enters a mailbox of a core: the bytes stand in the plinth (R249), and the core's SLEEPs end (R390). -/
def State.fillMbox (s : State) (c n : Nat) (bs : List Byte) : State :=
  let s := s.writeLs (c / 4) (plinthOff c + 0x3000 + n * 256) bs
  let s := s.modCore c fun x => { x with mbox := x.mbox.set (mboxFin n) (some bs), asleep := false }
  (slotsOf c).foldl (fun s k => if (s.slot k).sleeping.isSome then s.modSlot k fun x => { x with sleeping := none } else s) s

/-- A message arrives for mailbox `n`: it enters it, or waits in the pending queue; `none` when that is full (R367). -/
def State.arriveMbox (s : State) (c n : Nat) (bs : List Byte) : Option State :=
  match (s.core c).mbox.get (mboxFin n) with
  | none => some (s.fillMbox c n bs)
  | some _ =>
    if 16 ≤ (s.core c).mpend.length then none
    else some (s.modCore c fun x => { x with mpend := x.mpend ++ [(n % 16, bs)] })

/-- Empties a mailbox; the oldest pending message for it enters it (R367). -/
def State.emptyMbox (s : State) (c n : Nat) : State :=
  let s := s.modCore c fun x => { x with mbox := x.mbox.set (mboxFin n) none }
  match (s.core c).mpend.find? fun m => m.1 = n % 16 with
  | none => s
  | some m => (s.modCore c fun x => { x with mpend := x.mpend.erase m }).fillMbox c n m.2

/-- MSEND reads its message and sends it once its release holds (R113, R368). -/
def msendM (k : Nat) (o : Outst) (place ea : Dword) (d : BitVec 5) : M Unit := do
  let n := bits place 63 56
  if n = 0 ∨ 32 < n then throw (.fatal 4 ea)
  readTurn k o [(ea, 8 * n)]
  let w := (← get).whoOp k o
  let bs ← readMem w ea (8 * n) 0
  let s ← get
  let done := fun (s : State) => (s.dropFault (.op k o.id)).dropRequests (.op k o.id)
  if placePkg place = s.pkgid.toNat then
    if !s.sendReleased k o (placeCore place) then throw (.wait id)
    let r := s.postMsg { Msg.to 0 (placeCore place) with
      src := k, uid := (s.slot k).uid, mbox := bits place 3 0, bytes := bs, stn := some (clusterOf k) }
    set ((done r.1).setOut k { o with op := .msend place ea (some r.2) d })
  else
    let a ← askPeer w (placePkg place) 4 ea (leBytes 8 place.toNat)
      [(0x10, 1, bits place 25 24), (0x11, 1, placeCluster place), (0x12, 1, bits place 13 12), (0x13, 1, bits place 3 0),
       (0x18, 4, 8 * n)] bs
    if a.1 = 6 then modify fun s => (done s).complete k o [.g d 6]
    else
      let _ ← statusOk w a ea
      modify fun s => (done s).complete k o [.g d 0]

/-- MRECV takes its full mailbox (R369): the copy leaves as engine writes, and once it is visible the mailbox is emptied. -/
def mrecvM (k : Nat) (o : Outst) (mbox : Nat) (ea : Dword) (ws : Option (List Nat)) (d : BitVec 5) : M Unit := do
  let s ← get
  let c := coreOf k
  match (s.core c).mbox.get (mboxFin mbox) with
  | none => throw (.wait id)
  | some bs =>
    match ws with
    | none =>
      let busy := (List.range 8).any fun i => (s.slot (8 * c + i)).outs.any fun u => match u.op with
        | .mrecv m _ (some _) _ => m == mbox
        | _ => false
      if busy || (s.slot k).outs.any fun u => decide (u.id < o.id) && match u.op with
        | .mrecv m _ none _ => m == mbox
        | _ => false then throw (.wait id)
      let a ← writeMem { s.whoOp k o with core := none } ea bs 5
      modify fun s => ((s.dropFault (.op k o.id)).dropRequests (.op k o.id)).setOut k { o with op := .mrecv mbox ea (some a) d }
    | some a =>
      settleWrites (s.whoOp k o) a
      modify fun s => (((s.emptyMbox c mbox).dropFault (.op k o.id)).dropRequests (.op k o.id)).complete k o [.g d (dw bs.length)]

/-- MAILBOX_DELIVER (R367): a message enters its mailbox or the pending queue; a program's message that finds neither is
REFUSED, and a device message waits. -/
def execMailboxDeliver (s : State) : Res :=
  .next <| match s.msg? s.ev.who 0 with
    | none => s
    | some m => if !s.msgTurn m then s else match s.forwarded m.core with
      | none => s
      | some c =>
        let sender := (s.slot m.src).outs.find? fun o => match o.op with
          | .msend _ _ (some n) _ => n == m.n
          | _ => false
        let report := fun (s : State) (x : Dword) => match sender with
          | some o => match o.op with
            | .msend _ _ _ d => s.complete m.src o [.g d x]
            | _ => s
          | none => s
        match s.arriveMbox c m.mbox m.bytes with
        | some s' => report (s'.dropMsg m.n) 0
        | none => if m.device then s else report (s.dropMsg m.n) 6

end Sys2Proof.Machine
end

