-- ==== Sys2Proof/Machine/StreamLib.lean ====
section
/-! DEFINITION. Streams and sibling groups as their homes keep them (R149–R176): states and their transitions, the layer
board, forks, resolution, swap, drop and restore. -/

namespace Sys2Proof.Machine

/-! ### Fields of a stream control block (R151, R152) -/

def scbHome (id : Nat) : Nat := id / 2 ^ 30
/-- An id that can name a stream (R149, R155). -/
def sidOk (id : Nat) : Bool := decide (id < 2 ^ 32 ∧ id ≠ 0xFFFFFFFF ∧ id / 2 ^ 18 % 2 ^ 12 = 0)
def scbFlags (r : List Byte) : Nat := rd r 7 1
def scbPinned (r : List Byte) : Bool := scbFlags r / 128 % 2 == 1
def scbQueued (r : List Byte) : Bool := scbFlags r / 64 % 2 == 1
def scbEvkind (r : List Byte) : Nat := scbFlags r / 16 % 4
def scbPrev (r : List Byte) : Nat := scbFlags r % 8
def scbRoot (r : List Byte) : Nat := rd r 8 8
def scbAhead (r : List Byte) : Nat := rd r 0x18 2
def scbAtail (r : List Byte) : Nat := rd r 0x1A 2
def scbAlog2 (r : List Byte) : Nat := rd r 0x1C 1
def scbStop (r : List Byte) : Nat := rd r 0x1E 1
def scbHorizon (r : List Byte) : Nat := rd r 0x20 4
def scbPosition (r : List Byte) : Nat := rd r 0x24 4
def scbCursor (r : List Byte) : Nat := rd r 0x28 2
def scbModel (r : List Byte) : Nat := rd r 0x2A 2
def scbGroup (r : List Byte) : Nat := rd r 0x2C 4
def scbReturn (r : List Byte) : Nat := rd r 0x34 4
def scbTokw (r : List Byte) : Nat := rd r 0x70 4
def scbPages (r : List Byte) : Nat := rd r 0x74 4
def setState (r : List Byte) (x : Nat) : List Byte := wr r 6 1 x
def setFlags (r : List Byte) (pinned queued : Bool) (ev prev : Nat) : List Byte :=
  wr r 7 1 ((if pinned then 128 else 0) + (if queued then 64 else 0) + ev * 16 + prev)
def setPinned (r : List Byte) (b : Bool) : List Byte := setFlags r b (scbQueued r) (scbEvkind r) (scbPrev r)
def setQueued (r : List Byte) (b : Bool) : List Byte := setFlags r (scbPinned r) b (scbEvkind r) (scbPrev r)
def setEvkind (r : List Byte) (k : Nat) : List Byte := setFlags r (scbPinned r) (scbQueued r) k (scbPrev r)
def setPrev (r : List Byte) (p : Nat) : List Byte := setFlags r (scbPinned r) (scbQueued r) (scbEvkind r) p

/-- Entries of the action queue (R151). -/
def actionCount (r : List Byte) : Nat := (scbAtail r + 65536 - scbAhead r) % 65536

/-- NextState (R154). -/
def nextState (r : List Byte) : Nat :=
  if scbHorizon r = 0 then 4 else if scbCursor r = 0 ∧ actionCount r = 0 then 3 else 1

/-- Model table entries (R160). -/
def State.model (s : State) (m : Nat) : List Byte := s.models.getD m (List.replicate 64 0)
def modelTenant (e : List Byte) : Half := BitVec.ofNat 16 (rd e 0 2)
def modelLayers (e : List Byte) : Nat := rd e 2 2
def modelRecomp (e : List Byte) : Nat := rd e 0x18 8

/-! ### State spaces (R153, R174) -/

/-- The leaves below a node: slot, entry, address, and whether the leaf is exclusive (R174). -/
def State.leaves (s : State) : Nat → Nat → Nat → Bool → List (Nat × Dword × Nat × Bool)
  | 0, pa, va, ex => (List.range 1024).filterMap fun i =>
    let e := s.entry (pa + 8 * i)
    if leafV e then
      some (pa + 8 * i, e, va + i * 65536, ex && (leafTier e != 0 || (s.frameDesc (leafFrame e)).refcnt == 1))
    else none
  | l + 1, pa, va, ex => (List.range 1024).flatMap fun i =>
    let e := s.entry (pa + 8 * i)
    if e.getLsbD 0 then
      let c := bits e 39 13 * 8192
      s.leaves l c (va + i * 2 ^ (26 + 10 * l)) (ex && (s.nodeDesc c).refcnt == 1)
    else []

/-- The leaves of a stream's state space. -/
def State.streamLeaves (s : State) (id : Nat) : List (Nat × Dword × Nat × Bool) :=
  let root := scbRoot (s.scb id)
  if root = 0 then [] else s.leaves 3 root 0 ((s.nodeDesc root).refcnt == 1)

/-- A leaf that names a pool frame. -/
def leafPool (e : Dword) : Bool := leafTier e == 0 && decide (2 ^ 39 ≤ leafFrame e)

/-- PAGES as a recount gives it (R153). -/
def State.pagesOf (s : State) (id : Nat) : Nat := ((s.streamLeaves id).filter fun l => leafPool l.2.1).length

/-! ### Group membership (R168) -/

/-- A member of its group; a member that ATHOR counts (R167, R168). -/
def scbMember (r : List Byte) : Bool := scbGroup r != 0 && scbState r != 0 && scbState r != 6
def scbAtHorizon (r : List Byte) : Bool := scbState r == 4 || (scbState r == 5 && scbPrev r == 4)

def State.group? (s : State) (g : Nat) : Option Group := s.groups.find? g
def Group.members (g : Group) : Nat := rd g.img 8 2
def Group.gstate (g : Group) : Nat := rd g.img 0xF 1
def Group.tenant (g : Group) : Half := BitVec.ofNat 16 (rd g.img 4 2)

/-- A group after one member's standing: whether it is a member, and whether it stands in HORIZON. -/
def Group.update (g : Group) (id : Nat) (was member athor : Bool) : Group :=
  let counted := if member && athor then (if g.counted.contains id then g.counted else g.counted ++ [id])
    else g.counted.filter (· ≠ id)
  let members := g.members + (if member && !was then 1 else 0) - (if was && !member then 1 else 0)
  { img := wr (wr g.img 8 2 members) 0xC 2 counted.length, counted := counted }

/-- The condition of R169. -/
def Group.due (g : Group) : Bool :=
  let q := rd g.img 0xA 2
  g.gstate == 1 && (decide (g.members = 0) || (if q = 0 then g.counted.length == g.members else decide (q ≤ g.counted.length)))

/-- Whether RETURN x comes before y in the order of an OP: a NaN comes last (R169). -/
def returnBefore (minimum : Bool) (x y : Nat) : Bool :=
  match Fp.f32.val x, Fp.f32.val y with
  | .nan, _ => false
  | _, .nan => true
  | _, _ => if minimum then Fp.vlt (Fp.f32.val x) (Fp.f32.val y) else Fp.vlt (Fp.f32.val y) (Fp.f32.val x)

/-- Puts a contender into a ranked list; equal ranks keep their order. -/
def rankInsert (minimum : Bool) (c : Nat × Nat) : List (Nat × Nat) → List (Nat × Nat)
  | [] => [c]
  | d :: ds => if returnBefore minimum c.2 d.2 then c :: d :: ds else d :: rankInsert minimum c ds

/-- Contenders in rank order, from (id, RETURN) pairs in ascending id order (R169). -/
def ranked (minimum : Bool) (cs : List (Nat × Nat)) : List (Nat × Nat) := cs.foldl (fun l c => rankInsert minimum c l) []

/-- Winners and VALUE of a resolution (R169). -/
def resolve (op k : Nat) (cs : List (Nat × Nat)) : List Nat × Nat :=
  let sum := cs.foldl (fun a c => Fp.f32.add a c.2) 0
  let top := fun (n : Nat) (l : List (Nat × Nat)) => ((l.take n).map (·.1), (l.head?.map (·.2)).getD 0)
  if cs = [] then ([], 0)
  else match op with
    | 0 => top 1 (ranked false cs)
    | 1 => top 1 (ranked true cs)
    | 2 => ([], sum)
    | 3 => ([], Fp.f32.rne (Fp.vdiv (Fp.f32.val sum) (.fin false cs.length 0)))
    | _ => top k (ranked false cs)

/-- The result record of a group (R171). -/
def State.groupRecord (s : State) (gid : Nat) (g : Group) : List Byte :=
  let ids := (s.scbs.map (·.1)).filter fun i => g.counted.contains i
  let r := resolve (rd g.img 6 1) (rd g.img 7 1) (ids.map fun i => (i, scbReturn (s.scb i)))
  leBytes 4 gid ++ leBytes 4 r.1.length ++ leBytes 4 r.2 ++ leBytes 4 ids.length ++
    ((r.1 ++ List.replicate (64 - r.1.length) 0xFFFFFFFF).flatMap fun i => leBytes 4 i)

/-- A group that meets the condition becomes RESOLVING; its contenders and their returns are those of this step, and the rest
of its resolution follows (R169). -/
def State.checkGroup (s : State) (gid : Nat) : State :=
  match s.group? gid with
  | none => s
  | some g =>
    if g.due then
      ({ s with groups := s.groups.put gid { g with img := wr g.img 0xF 1 2 } }.postMsg
        { Msg.to 6 (gid / 2 ^ 30 * 160) with mbox := gid, bytes := s.groupRecord gid g }).1
    else s

/-- A member joins (R164, R379): its standing is counted at once. -/
def State.joinGroup (s : State) (id : Nat) : State :=
  let r := s.scb id
  match s.group? (scbGroup r) with
  | none => s
  | some g => ({ s with groups := s.groups.put (scbGroup r) (g.update id false true (scbAtHorizon r)) }).checkGroup (scbGroup r)

/-! ### Transitions (R150, R154) -/

/-- Joins or leaves the layer board as the state changes (R154, R161). -/
def State.boardMove (s : State) (id : Nat) (r r' : List Byte) : State :=
  if scbState r' = 1 ∧ scbState r ≠ 1 then
    s.modDie (scbHome id) fun d => { d with board := d.board ++ [⟨scbModel r', scbCursor r', id, s.timer.toNat⟩] }
  else if scbState r = 1 ∧ scbState r' ≠ 1 then
    s.modDie (scbHome id) fun d => { d with board := d.board.filter fun e => e.id ≠ id }
  else s

/-- One indivisible step on an SCB (R150): the block changes, the board follows, and a change of its standing is sent to
its group (R168). -/
def State.scbStep (s : State) (id : Nat) (f : List Byte → List Byte) : State :=
  let r := s.scb id
  let r' := f r
  let s := { s with scbs := s.scbs.put id r' }.boardMove id r r'
  if scbGroup r' ≠ 0 ∧ (scbMember r ≠ scbMember r' ∨ scbAtHorizon r ≠ scbAtHorizon r') ∧ scbMember r then
    (s.postMsg { Msg.to 5 (scbGroup r' / 2 ^ 30 * 160) with
      src := id, mbox := scbGroup r', since := (if scbMember r' then 1 else 0) + (if scbAtHorizon r' then 2 else 0) }).1
  else s

/-- The block recounted and settled (R153, R154). -/
def State.settled (s : State) (id : Nat) (r : List Byte) : List Byte :=
  let r := wr r 0x74 4 (s.pagesOf id)
  let n := nextState r
  let r := if n = 4 ∧ scbStop r = 0 then wr r 0x1E 1 1 else r
  setState r n

/-- The stream settles (R154). -/
def State.settle (s : State) (id : Nat) : State := s.scbStep id (s.settled id)

/-- Recounts PAGES (R153). -/
def State.recount (s : State) (id : Nat) : State := s.scbStep id fun r => wr r 0x74 4 (s.pagesOf id)

/-- A DEAD stream releases its root unless it is PINNED, and is FREE once PINNED and QUEUED are both clear (R170). -/
def State.release (s : State) (id : Nat) : State :=
  let r := s.scb id
  if scbState r ≠ 6 ∨ scbPinned r then s
  else
    let s := if scbRoot r = 0 then s
      else (State.lowerNode 3 s (scbRoot r)).scbStep id fun r => wr r 8 8 0
    if scbQueued r then s else { s with scbs := s.scbs.del id }

/-- The stream becomes DEAD (R154, R168, R170). -/
def State.kill (s : State) (id : Nat) : State :=
  (({ s.modDie (scbHome id) fun d => { d with evicted := d.evicted.filter (· ≠ id) } with
      tlb := s.tlb.filter fun (t : TlbEntry) => t.root ≠ scbRoot (s.scb id)
      moves := s.moves.filter fun (t : Transfer) => t.id ≠ id }).scbStep id fun r => setState r 6).release id

/-- A stop (R154): STOPCODE, HORIZON 0, and what the state then does. -/
def State.stopStream (s : State) (id : Nat) (code : Nat) : State :=
  let r := s.scb id
  let s := s.scbStep id fun r =>
    let r := wr (wr r 0x1E 1 code) 0x20 4 0
    if scbState r = 5 then setPrev r 4 else r
  if scbState r = 2 ∨ scbState r = 5 then s else s.settle id

/-- StepLayer (R158). -/
def stepLayer (layers : Nat) (r : List Byte) : List Byte :=
  let c := scbCursor r + 1
  if c = layers then
    wr (wr (wr (wr r 0x28 2 0) 0x24 4 ((scbPosition r + 1) % 2 ^ 32)) 0x20 4 (scbHorizon r - 1)) 0x18 2
      ((scbAhead r + 1) % 65536)
  else wr r 0x28 2 c

/-- The lowest FREE index, on the source's die and then on the others (R164). -/
def State.freeStream (s : State) (d : Nat) : Option Nat :=
  tryDies d fun d => (findFree (fun i => (s.scbs.find? (d * 2 ^ 30 + i)).isNone) 0x40000 0).map fun i => d * 2 ^ 30 + i

/-- Fork (R164): the child's block, its share of the root, its place in the group, and its state. -/
def State.fork (s : State) (src child : Nat) (key : Dword) : State :=
  let r := s.scb src
  let root := scbRoot r
  let s := s.modNode root fun n => { n with refcnt := n.refcnt + 1 }
  let s := { s with tlb := s.tlb.map fun (t : TlbEntry) => if t.root = root then { t with excl := false } else t }
  let c := wr (wr (wr (wr r 0 4 child) 0x30 4 src) 7 1 0) 0x60 8 key.toNat
  let s := { s with scbs := s.scbs.put child (setState c 0) }
  (s.settle child).joinGroup child

/-- A group that takes a new member (R164, R379). -/
def State.groupOpen (s : State) (gid : Nat) (t : Half) : Bool :=
  match s.group? gid with
  | some g => g.gstate == 1 && g.tenant == t && decide (g.members < 1024)
  | none => false

/-! ### Swap, drop and restore (R173–R176) -/

/-- No write to a frame is on its way. -/
def State.frameQuiet (s : State) (pa : Nat) : Bool := s.writes.all fun w => !w.data.meets pa 65536

/-- The lowest free frame of a die's swap area (R173). -/
def State.allocSwapOn (s : State) (d : Nat) : Option Nat :=
  (findFree (fun i => (s.frames.find? i).isNone) (Config.swapCount d) (Config.swapFirst d)).map (· * 65536)
def State.allocSwap (s : State) (d : Nat) : Option Nat := tryDies d s.allocSwapOn
/-- A frame of some swap area. -/
def isSwap (pa : Nat) : Bool :=
  (List.range 4).any fun d => decide (Config.swapFirst d ≤ pa / 65536 ∧ pa / 65536 < Config.swapFirst d + Config.swapCount d)

/-- The contents of a frame move to another frame, with its descriptor, and the old frame is free (R174). -/
def State.moveFrame (s : State) (slot old new : Nat) : State :=
  let fd := s.frameDesc old
  let img := sliceMem s.mem (viewKey (homeDie old) old) 65536
  let s := { s with mem := [0, 1, 2, 3].foldl (fun m d => replaceMem m (viewKey d new) 65536 img) s.mem }
  let s := s.modFrame new fun _ => { fd with gen := s.ckgen, side := false }
  let s := s.setEntry slot (setBits (s.entry slot) 39 16 (new / 65536))
  (s.modFrame old fun f => { f with kv := [] }).freeFrame old

/-- Forgets every translation of a space. -/
def State.tlbDropRoot (s : State) (root : Nat) : State := { s with tlb := s.tlb.filter fun (t : TlbEntry) => t.root ≠ root }

/-- Exclusive leaves of a stream that name a pool frame which may leave the pool: a pinned frame stays (R90, R174). -/
def State.exclusivePool (s : State) (id : Nat) : List (Nat × Nat) :=
  (s.streamLeaves id).filterMap fun l =>
    if l.2.2.2 && leafPool l.2.1 && (s.frameDesc (leafFrame l.2.1)).pincnt == 0 then some (l.1, leafFrame l.2.1) else none

/-- Swaps the exclusive leaves out; `none` when no swap area has room (R173, R174). -/
def State.swapOut (s : State) (d id : Nat) : Option State :=
  ((s.exclusivePool id).foldl (fun (u : Option State) l => u.bind fun s => (s.allocSwap d).map fun n => s.moveFrame l.1 l.2 n)
    (some s)).map fun s => (s.tlbDropRoot (scbRoot (s.scb id))).recount id

/-- Drops the exclusive leaves: TIER 3 with FRAME zero (R174). -/
def State.dropOutPages (s : State) (id : Nat) : State :=
  let s := (s.exclusivePool id).foldl (fun s l =>
    (s.setEntry l.1 (setBits (setBits (s.entry l.1) 39 16 0) 57 56 3)).lowerFrame l.2) s
  (s.tlbDropRoot (scbRoot (s.scb id))).recount id

/-- RC and SC of a candidate as rationals, and whether drop is allowed (R173). -/
def State.evictCosts (s : State) (d id : Nat) : Nat × (Nat × Nat) × Bool :=
  let r := s.scb id
  let c := (s.die d).evcfg
  let e := s.model (scbModel r)
  (scbPosition r * modelLayers e * scbTokw r * bits c 11 0,
   (scbPages r * 65536 * bits c 23 12, max 1 (bits c 39 24)),
   scbTokw r != 0 && modelRecomp e != 0 && !scbQueued r)

/-- Cost over PAGES as a fraction, and whether the cost is that of a drop (R173). -/
def State.evictCost (s : State) (d id : Nat) : (Nat × Nat) × Bool :=
  let (rc, (sn, sd), ok) := s.evictCosts d id
  let p := scbPages (s.scb id)
  if ok ∧ rc * sd < sn then ((rc, p), true) else ((sn, sd * p), false)

/-- A candidate (R172). -/
def State.candidate (s : State) (id : Nat) : Bool :=
  let r := s.scb id
  decide (0 < scbPages r) && !scbPinned r &&
    (scbState r == 1 || scbState r == 3 || scbState r == 4 || (scbState r == 2 && scbQueued r))

/-- The victim: least cost over PAGES, ties to the lower id (R173). -/
def State.victim (s : State) (d : Nat) (skip : List Nat) : Option Nat :=
  ((s.scbs.map (·.1)).filter fun id => scbHome id == d && s.candidate id && !skip.contains id).foldl
    (fun (b : Option Nat) id => match b with
      | none => some id
      | some o => let x := (s.evictCost d id).1; let y := (s.evictCost d o).1
        if x.1 * y.2 < y.1 * x.2 then some id else b) none

/-- The stream becomes EVICTED, or RUNNING with EVKIND 1 when it is QUEUED (R154, R173). -/
def State.markEvicted (s : State) (d id kind : Nat) : State :=
  let s := s.scbStep id fun r =>
    if scbState r = 2 then setEvkind r kind
    else setState (setFlags r (scbPinned r) (scbQueued r) kind (scbState r)) 5
  s.modDie d fun x => { x with
    evictions := evAdd x.evictions 1, evicted := if x.evicted.contains id then x.evicted else x.evicted ++ [id] }

/-- The page conditions of SMIG (R155): a state page 0xFFFF_FFFF, or a leaf with TIER 1 or 2. -/
def State.lastPage (s : State) (id : Nat) : Bool :=
  (s.streamLeaves id).any fun l => decide (l.2.2.1 / 65536 = 0xFFFFFFFF) || leafTier l.2.1 == 1 || leafTier l.2.1 == 2

/-- A stream that R177 can migrate to a package. -/
def State.migratable (s : State) (id dst : Nat) : Bool :=
  let r := s.scb id
  scbGroup r == 0 && (scbState r == 1 || scbState r == 3 || scbState r == 4) && dst != s.pkgid.toNat && !s.lastPage id

/-- No write to a frame that an eviction of a stream would move is on its way. -/
def State.evictQuiet (s : State) (id : Nat) : Bool := (s.exclusivePool id).all fun l => s.frameQuiet l.2

/-- Evicts one stream: its pages swapped, dropped, or its migration to PEER begun; `none` when it is skipped (R173, R176).
`migrate` starts a migration. -/
def State.evict (s : State) (d id : Nat) (migrate : State → Nat → Nat → State) : Option State :=
  let peer := bits (s.die d).evcfg 63 48
  if (s.evictCost d id).2 then some ((s.dropOutPages id).markEvicted d id 2)
  else match s.swapOut d id with
    | some s' => some (s'.markEvicted d id 1)
    | none =>
      if (s.die d).evcfg.getLsbD 47 && s.migratable id peer then
        some ((migrate s id peer).modDie d fun x => { x with evictions := evAdd x.evictions 1 })
      else if (s.evictCosts d id).2.2 then some ((s.dropOutPages id).markEvicted d id 2)
      else none

/-- Free frames of a die's pool. -/
def State.freeFrames (s : State) (d : Nat) : Nat :=
  ((List.range s.frameCount).filter fun f => !s.frameUsed (poolFrame d f)).length

/-- What a round of evictions leaves: the state, the pages that it moved, and whether it has still to go on. -/
structure EvictRound where
  st    : State
  pages : Nat
  more  : Bool
  deriving DecidableEq, Repr

/-- Evicts victims, each once, until the free frames reach `high` or no candidate is left (R172, R173). A victim with a write on
its way ends the steps of this turn: the round goes on with it. -/
def State.evictRound (d high : Nat) (migrate : State → Nat → Nat → State) : Nat → List Nat → EvictRound → EvictRound
  | 0, _, r => r
  | n + 1, skip, r =>
    if high ≤ r.st.freeFrames d then r
    else match r.st.victim d skip with
      | none => r
      | some id =>
        if !r.st.evictQuiet id then { r with more := true }
        else State.evictRound d high migrate n (id :: skip) (match r.st.evict d id migrate with
          | some s => { r with st := s, pages := r.pages + (r.st.exclusivePool id).length }
          | none => r)

/-- Brings the swapped leaves of a stream back into the pool (R175); the pool may have to wait for a POOLEMPTY reply. -/
def swapIn (w : Who) (id : Nat) : M Unit := do
  let s ← get
  for l in s.streamLeaves id do
    if l.2.2.2 && leafTier l.2.1 == 0 && isSwap (leafFrame l.2.1) then
      let s ← get
      if !s.frameQuiet (leafFrame l.2.1) then throw (.wait fun t => t)
      let va := dw l.2.2.1
      let _ ← verdict w va
      match s.allocFrame (scbHome id) with
      | none => throw (stopFault s w (.stream id) va 5 65536 kPoolEmpty 0 l.2.1)
      | some n => set (s.moveFrame l.1 (leafFrame l.2.1) n)
  modify fun s =>
    let s := (s.tlbDropRoot (scbRoot (s.scb id))).scbStep id fun r => setEvkind r 0
    (s.recount id).modDie (scbHome id) fun x => { x with evicted := x.evicted.filter (· ≠ id) }

/-- Gives every dropped leaf of a stream a zeroed pool frame (R175, step 1). -/
def refillDropped (w : Who) (id : Nat) : M Unit := do
  let s ← get
  for l in s.streamLeaves id do
    if leafTier l.2.1 == 3 then
      let s ← get
      let va := dw l.2.2.1
      let _ ← verdict w va
      match s.allocFrame (scbHome id) with
      | none => throw (stopFault s w (.stream id) va 5 65536 kPoolEmpty 0 l.2.1)
      | some n =>
        let s := { s with mem := [0, 1, 2, 3].foldl (fun m d => replaceMem m (viewKey d n) 65536 []) s.mem }
        let s := s.modFrame n fun _ => { FrameDesc.zero with refcnt := 1, gen := s.ckgen, owner := scbTenant (s.scb id) }
        set (s.setEntry l.1 (setBits (setBits (s.entry l.1) 39 16 (n / 65536)) 57 56 0))
  modify (·.recount id)

end Sys2Proof.Machine
end

