-- ==== Sys2Proof/Machine/CastLib.lean ====
section
/-! DEFINITION. The Cast unit: keyability, the task key, entries, watches, hits and insertion (R189–R197). -/

namespace Sys2Proof.Machine

/-- Runs a step; `h` takes over when it ends FATAL. -/
def orFatal {α : Type} (m : M α) (h : Byte → Dword → M α) : M α := fun s =>
  match m s with
  | .error (.fatal sub va) => h sub va s
  | r => r

/-- An engine or a unit of a die as an accessor; its faults carry no slot (R84). -/
def whoUnit (d : Nat) (t : Half) (req : Requester) (uid : Nat) : Who :=
  { die := d, core := none, cluster := d * 40, tenant := t, stream := none, req := req, slot := none, uid := uid
    wher := whereWord (slotIndex d 0 0 0) }

/-- The regions of a card that are present, with their index (R119, R120). -/
def presentRegions (img : List Byte) : List (Nat × (Nat × Nat × Nat × Nat)) :=
  ([0, 1, 2, 3].map fun i => (i, region img i)).filter fun r => r.2.2.1 != 0

/-- Page addresses of a region. -/
def regionPages (r : Nat × Nat × Nat × Nat) : List Nat :=
  if r.2.1 = 0 then []
  else (List.range ((r.1 + r.2.1 - 1) / 65536 + 1 - r.1 / 65536)).map fun i => (r.1 / 65536 + i) * 65536

/-- The frame that a page's leaf names, when the page is valid, TIER 0 and has bit `perm`. -/
def State.pageFrame (s : State) (t : Half) (page : Nat) (perm : Nat) : Option Nat :=
  match s.walk (.tenant t) page with
  | .leaf _ e _ => if leafTier e = 0 && leafPerm e perm then some (leafFrame e) else none
  | .fault .. => none

/-- Every element, or none. -/
def allSome {α : Type} : List (Option α) → Option (List α)
  | [] => some []
  | none :: _ => none
  | some x :: r => (allSome r).map (x :: ·)

/-- The read frames of a keyable task: the code span's, READ0's and READ1's (R189); `none` when it is not keyable. -/
def State.keyable (s : State) (t : Half) (img : List Byte) : Option (List (List Nat)) :=
  let page := rd img 0 8 / 65536
  let n := s.codeSpan (.tenant t) page 16
  if n = 0 then none
  else
    let code := allSome ((List.range n).map fun i => s.pageFrame t ((page + i) * 65536) 9)
    let reads := [0, 1].map fun i => allSome ((regionPages (region img i)).map fun a => s.pageFrame t a 9)
    (allSome (code :: reads)).bind fun fs => if fs.flatten.all fun f => (s.frameDesc f).hv then some fs else none

/-- The canonical descriptor up to the argument block (R190). -/
def State.descriptor (s : State) (img : List Byte) (fs : List (List Nat)) (args : List Byte) : List Byte :=
  let arglen := rd img 0x10 4
  let rds := [0, 1].flatMap fun i =>
    let r := region img i
    if r.2.1 = 0 then List.replicate 16 0
    else leBytes 4 (r.1 % 65536) ++ leBytes 4 r.2.1 ++ leBytes 2 r.2.2.1 ++ leBytes 2 r.2.2.2 ++ leBytes 4 (regionPages r).length
  let wrs := [2, 3].flatMap fun i =>
    let r := region img i
    if r.2.1 = 0 then List.replicate 8 0 else leBytes 4 r.2.1 ++ leBytes 2 r.2.2.1 ++ leBytes 2 r.2.2.2
  leBytes 2 (rd img 0x18 2) ++ [img.getD 0x1C 0, BitVec.ofNat 8 ((fs.getD 0 []).length)] ++ leBytes 4 (rd img 0 8 % 65536) ++
    leBytes 4 arglen ++ leBytes 4 0 ++ rds ++ wrs ++
    (fs.flatten.flatMap fun f => leBytes 8 (s.frameDesc f).hash1.toNat ++ leBytes 8 (s.frameDesc f).hash2.toNat) ++ args

/-- The key of a keyable card, with its read frames (R189, R190). -/
def taskKey (w : Who) (img : List Byte) : M (Option (List Byte × List Nat)) := do
  let s ← get
  match s.keyable w.tenant img with
  | none => pure none
  | some fs =>
    let args ← readMem w (dw (rd img 8 8)) (rd img 0x10 4) 4
    let s ← get
    pure (some ((Sha.sha512 (s.descriptor img fs args)).take 32, fs.flatten))

/-- Home die, and first entry of the home set, of a key (R191). -/
def castDie (key : List Byte) : Nat := rd key 0 1 % 4
def castSet (key : List Byte) : Nat := castDie key * 65536 + rd key 1 2 % 8192 * 8
def castWays (key : List Byte) : List Nat := (List.range 8).map fun w => castSet key + w

/-- The entry of a key and tenant. -/
def State.castFind (s : State) (key : List Byte) (t : Half) : Option (Nat × CastEntry) :=
  (castWays key).findSome? fun i => match s.cast.find? i with
    | some e => if e.key = key ∧ e.tenant = t then some (i, e) else none
    | none => none

/-- A hit for a card (R193, step 5). -/
def State.castHit (s : State) (key : List Byte) (t : Half) (img : List Byte) : Option (Nat × CastEntry) :=
  (s.castFind key t).filter fun e => e.2.len0 == (region img 2).2.1 && e.2.len1 == (region img 3).2.1

/-- Watchers of a frame: a task is 2n, an entry 2i + 1 (R196). -/
def State.watchPairs (s : State) (d : Nat) : Nat := ((s.watch.filter fun e => homeDie (e.1 * 65536) == d).map (·.2.length)).sum
def State.addWatch (s : State) (f who : Nat) : State :=
  let l := s.watch.getD (f / 65536) []
  { s.modFrame f fun x => { x with watch := true } with
    watch := s.watch.put (f / 65536) (if l.contains who then l else l ++ [who]) }
def State.dropWatcher (s : State) (who : Nat) : State :=
  { s with watch := (s.watch.map fun e => (e.1, e.2.filter (· ≠ who))).filter fun e => !e.2.isEmpty }
/-- The watch index has room for the pairs of a watcher and these frames (R196). -/
def State.watchRoom (s : State) (who : Nat) (fs : List Nat) : Bool :=
  let fresh := fs.dedup.filter fun f => !(s.watch.getD (f / 65536) []).contains who
  (List.range 4).all fun d => decide (s.watchPairs d + (fresh.filter fun f => homeDie f == d).length ≤ 1048576)
/-- A write to one of these frames waits in the invalidation queue of its die (R196). -/
def State.invalWaits (s : State) (fs : List Nat) : Bool := fs.any fun f => (s.die (homeDie f)).inval.contains f

/-- Lowers a block of the result list (R192, R197). -/
def State.freeList (s : State) (pa : Nat) : State := { s with nodes := s.nodes.del (pa / 8192) }

/-- Frees a Cast entry (R197). -/
def State.castFree (s : State) (i : Nat) : State :=
  match s.cast.find? i with
  | none => s
  | some e =>
    let s := (e.res0 ++ e.res1).foldl State.lowerFrame s
    ({ s.dropWatcher (2 * i + 1) with cast := s.cast.del i }).freeList e.list

/-- A field of CASTSTAT rises, saturating (R198): 48 HITS, 32 MISSES, 16 BYPASS, 0 DROPPED. -/
def State.castCount (s : State) (d lo : Nat) : State :=
  s.modDie d fun x => { x with caststat := setBits x.caststat (lo + 15) lo (min 65535 (bits x.caststat (lo + 15) lo + 1)) }

/-- LASTUSE (R191). -/
def State.lastUse (s : State) : Nat := bits s.timer 41 10

/-- A destination is mappable (R194). -/
def State.mappable (s : State) (t : Half) (r : Nat × Nat × Nat × Nat) : Bool :=
  decide (r.1 % 65536 = 0 ∧ r.2.1 % 65536 = 0) &&
    (regionPages r).all fun a => match s.walk (.tenant t) a with
      | .leaf _ e _ => leafTier e == 0 && !leafPerm e 10 && !leafPerm e 11
      | .fault .. => false

/-- Maps one result frame at a page (R194): the leaf's slot is made exclusive without copying the leaf's frame. -/
def mapResult (w : Who) (page frame : Nat) : M Unit := do
  let va := dw page
  let _ ← verdict w va
  let s ← get
  match s.slotWalk (.tenant w.tenant) page with
  | (t, .slot pa _) =>
    let e := t.entry pa
    if t.frameFull frame then throw (.fatal 0x23 va)
    let t := (t.raiseFrame frame).mapLeaf pa (setBits e 39 16 (frame / 65536))
    let t := if leafTier e = 0 then t.lowerFrame (leafFrame e) else t
    set (t.tlbDrop ((t.rootOf (.tenant w.tenant)).getD 0) page)
  | (_, .fault kind level e) => throw (stopFault s w (.tenant w.tenant) va 5 65536 kind level e)
  | (_, .empty level node) => throw (stopEmpty s w (.tenant w.tenant) va 5 65536 level node 0)
  | (_, .busy _) => throw (.wait id)
  | (_, .refsat) => throw (.fatal 0x23 va)

/-- Places page `j` of a present write region from its result frame (R194); the writes that it posted. -/
def placePage (w : Who) (r : Nat × Nat × Nat × Nat) (j frame : Nat) : M (List Nat) := do
  let s ← get
  if s.mappable w.tenant r then
    mapResult w (r.1 + j * 65536) frame
    pure []
  else
    let n := min 65536 (r.2.1 - j * 65536)
    writeMem w (dw (r.1 + j * 65536)) (s.readHome frame n) 5

/-- A hit begins (R194): HITS and LASTUSE, and every result frame is held; `none` when a count is at its limit. -/
def State.beginHit (s : State) (i : Nat) (e : CastEntry) : Option State :=
  (State.raiseFrames (e.res0 ++ e.res1) s).map fun s =>
    { s with cast := s.cast.put i { e with hits := min 0xFFFFFFFF (e.hits + 1), lastuse := s.lastUse } }

/-- The 64 bytes of a Cast entry (R191); a free one has ESTATE 0. -/
def CastEntry.image (e : CastEntry) : List Byte :=
  e.key.take 32 ++ leBytes 2 e.tenant.toNat ++ [1, 0] ++ leBytes 4 e.len0 ++ leBytes 4 e.len1 ++ leBytes 4 e.hits ++
    leBytes 8 e.list ++ leBytes 4 e.lastuse ++ leBytes 2 (e.res0.length + e.res1.length) ++ leBytes 2 e.reads.length

/-- Region and page index of item `i` of a hit's placement (R194). -/
def hitItem (img : List Byte) (i : Nat) : Option ((Nat × Nat × Nat × Nat) × Nat) :=
  let n0 := ceilDiv (region img 2).2.1 65536
  let n1 := ceilDiv (region img 3).2.1 65536
  if i < n0 then some (region img 2, i) else if i < n0 + n1 then some (region img 3, i - n0) else none

/-- Result frames and entries that a tenant has on a die. -/
def State.castUsage (s : State) (d : Nat) (t : Half) : Nat × Nat :=
  let es := s.cast.filter fun e => e.1 / 65536 == d && e.2.tenant == t
  (es.length, (es.map fun e => e.2.res0.length + e.2.res1.length).sum)

/-- Copies a write region into pool frames, packed, as a copy engine reads it (R195, step 5); `none` when the pools are empty. -/
def packRegion (w : Who) (d : Nat) (r : Nat × Nat × Nat × Nat) : Nat → Nat → M (Option (List Nat))
  | 0, _ => pure (some [])
  | n + 1, i => do
    let bs ← readMem w (dw (r.1 + i * 65536)) (min 65536 (r.2.1 - i * 65536)) 4
    let s ← get
    match s.allocFrame d with
    | none => pure none
    | some f =>
      let img := Memory.writeBytes [] 0 bs
      let u := { s with mem := [0, 1, 2, 3].foldl (fun m e => replaceMem m (viewKey e f) 65536 img) s.mem }
      set (u.modFrame f fun _ => { FrameDesc.zero with refcnt := 1, gen := u.ckgen, owner := w.tenant })
      let rest ← packRegion w d r n (i + 1)
      pure (rest.map (f :: ·))

/-- Result frames of a write region (R195, step 5): its own frames when it is mappable, which no TLB holds as exclusive any more
(R81), else a packed copy, and none when the copy ends FATAL (log entry 21). A raise that is refused ends the insertion (R79). -/
def resultFrames (w : Who) (d : Nat) (r : Nat × Nat × Nat × Nat) : M (Option (List Nat)) := do
  let s ← get
  if r.2.1 = 0 then pure (some [])
  else if s.mappable w.tenant r then
    match allSome ((regionPages r).map fun a => s.pageFrame w.tenant a 0) with
    | none => pure none
    | some fs => match State.raiseFrames fs s with
      | none => throw (.fatal 0x23 (dw r.1))
      | some u =>
        set (fs.foldl State.clearExclFrame u)
        pure (some fs)
  else orFatal (packRegion w d r (ceilDiv r.2.1 65536) 0) fun _ _ => pure none

/-- The way of a set that an insertion takes (R195, step 3): the lowest free way, else the oldest LASTUSE. -/
def State.castWay (s : State) (key : List Byte) : Nat :=
  match (castWays key).find? fun i => (s.cast.find? i).isNone with
  | some i => i
  | none => (castWays key).foldl (fun b i =>
      if ((s.cast.find? i).map (·.lastuse)).getD 0 < ((s.cast.find? b).map (·.lastuse)).getD 0 then i else b) (castSet key)

/-- R195 step 2: the offer is dropped. -/
def State.offerDropped (s : State) (t : Half) (img key : List Byte) (taint : Bool) : Bool :=
  let u := s.castUsage (castDie key) t
  let n := ceilDiv (region img 2).2.1 65536 + ceilDiv (region img 3).2.1 65536
  taint || !s.castcfg.getLsbD 62 || (s.castFind key t).isSome ||
    match s.tenant? t with
    | some x => decide (x.quota.toNat < u.1 + 1 ∨ x.frames.toNat < u.2 + n)
    | none => true

/-- R195 steps 4–7 at way `i`, which is free: the entry is inserted, or `false` where a step takes nothing. -/
def castFillWay (w : Who) (i : Nat) (img key : List Byte) (reads : List Nat) : M Bool := do
  let h := castDie key
  let s ← get
  match s.allocNode h with
  | none => pure false
  | some list =>
    modify fun s => s.modNode list fun _ => ⟨1, 0, false, w.tenant⟩
    let r0 ← resultFrames w h (region img 2)
    let r1 ← resultFrames w h (region img 3)
    let s ← get
    match r0, r1, s.watchRoom (2 * i + 1) reads with
    | some r0, some r1, true =>
      let s := s.pokeAll list ((r0 ++ r1 ++ reads).flatMap fun f => leBytes 4 (f / 65536))
      let s := reads.foldl (fun s f => s.addWatch f (2 * i + 1)) s
      let e : CastEntry := ⟨key, w.tenant, (region img 2).2.1, (region img 3).2.1, 0, list, s.lastUse, r0, r1, reads⟩
      set { s with cast := s.cast.put i e }
      pure true
    | _, _, _ => pure false

/-- R195 steps 2–7: the entry is inserted, or the offer is dropped: what steps 4–6 took is free again, the victim of step 3 is
gone, and CASTSTAT.DROPPED counts it. -/
def castInsert (w : Who) (taint : Bool) (img key : List Byte) (reads : List Nat) : M Bool := do
  let h := castDie key
  let s ← get
  if s.offerDropped w.tenant img key taint then
    set (s.castCount h 0)
    return false
  let i := s.castWay key
  modify (·.castFree i)
  let s ← get
  let done ← castFillWay w i img key reads
  if !done then set (s.castCount h 0)
  pure done

end Sys2Proof.Machine
end

