-- ==== Sys2Proof/Machine/Task.lean ====
section
/-! DEFINITION. Task cards and queues (R119–R132, R370–R374): checks, posting, the selection key, and the TASK
instructions. -/

namespace Sys2Proof.Machine

/-! ### Cards (R119–R121) -/

def cardStage (img : List Byte) : Nat := rd img 0x1A 1
def cardCtrl (img : List Byte) : Nat := rd img 0x1B 1
def cardPure (img : List Byte) : Bool := cardCtrl img / 128 % 2 == 1
def cardPrio (img : List Byte) : Nat := cardCtrl img / 16 % 4
def cardStatus (img : List Byte) : Nat := rd img 0x30 1
def cardPredcnt (img : List Byte) : Nat := rd img 0x14 4

/-- The lowest subcode of R121 that a card earns. -/
def cardBad (img : List Byte) (t : Half) : Option Byte :=
  let rs := [0, 1, 2, 3].map (region img)
  let rsvd := cardCtrl img % 16 != 0 || rd img 0x1D 3 != 0 || rd img 0x31 15 != 0 || rs.any fun r =>
    (r.2.1 == 0 && (r.1 != 0 || r.2.2.1 != 0 || r.2.2.2 != 0)) || decide (1 < r.2.2.2)
  let limit := decide (4096 < rd img 0x10 4) || (rd img 8 8 == 0 && rd img 0x10 4 != 0) || decide (15 < cardStage img) ||
    rd img 0x1C 1 != 1 || rs.any fun r => decide (0x1000000 < r.2.1) || decide (2 ^ 56 ≤ r.1) ||
      (regionLocal r && decide (0x3C0000 < r.2.2.1 * 64 + r.2.1))
  let align := rd img 0 8 % 4 != 0 || rd img 8 8 % 64 != 0 || rd img 0x20 8 % 128 != 0 || rd img 0x28 8 % 128 != 0 ||
    rs.any fun r => regionLocal r && r.1 % 64 != 0
  if rsvd then some 0xE0 else if limit then some 0xE1 else if align then some 0xE2
  else if rd img 0x18 2 ≠ t.toNat then some 0xE3 else none

/-- A fresh task record of a card. -/
def newTask (s : State) (d : Nat) (card : Dword) (img : List Byte) (t : Half) (launch : Option Nat) (ph : TaskPhase) : Task where
  n := s.nextN
  die := d
  queue := cardStage img
  card := card
  img := img
  tenant := t
  launch := launch
  age := s.timer.toNat
  phase := ph
  slot := 0
  pins := []
  looked := false
  key := none
  reads := []
  taint := false
  root := false
  uid := 0
  strands := 0
  batch := none
  stream := none
  waits := []
  part := 0

/-- The record of a card that waits, was popped or stands faulted. -/
def State.cardTask (s : State) (card : Dword) (t : Half) : Option Task :=
  s.tasks.find? fun x => x.card == card && x.tenant == t

/-- Puts a card's record in the place of an older one, which keeps its number, its pins and its batch. A popped card stays work
of its launch (R484); another takes the launch that makes it ready (R129, R371). -/
def State.putTask (s : State) (t : Task) : State × Nat :=
  match s.cardTask t.card t.tenant with
  | some o =>
    let t' := { t with
      n := o.n, launch := if o.phase = .popped then o.launch else t.launch.or o.launch, pins := o.pins
      batch := t.batch.or o.batch, stream := t.stream.or o.stream }
    ({ s with tasks := s.tasks.map fun x => if x.n = o.n then t' else x }, o.n)
  | none => ({ s with tasks := s.tasks ++ [t], nextN := s.nextN + 1 }, s.nextN)

/-- A task that does not start, or does not retire, has its fault queue entry without a strand's PC and address (R131). -/
def State.postRefusal (s : State) (t : Task) (cause sub : Byte) (wher : Word) : State :=
  s.postFaultEntry t.die (faultEntry t.card cause sub wher 0 0) (some t.n)

/-- The task will not start or retire: its fault queue entry follows (R131). -/
def State.refuseTask (s : State) (n : Nat) (cause sub : Byte) (wher : Word) : State :=
  match s.tasks.find? fun t => t.n = n with
  | none => s
  | some t => (s.modTask n fun t => { t with phase := .refused }).postRefusal t cause sub wher

/-- A card that is readable but faults before it is queued (R119, R121). -/
def State.refuseReady (s : State) (d q : Nat) (card : Dword) (img : List Byte) (t : Half) (launch : Option Nat)
    (cause sub : Byte) : State :=
  let r := s.putTask { newTask s d card img t launch .refused with queue := q }
  r.1.refuseTask r.2 cause sub 0xFFFFFFFF

/-- A card that cannot be read, or not be queued (R121, R123): its launch has one fault queue entry for it, and nothing is written
to the card. -/
def State.refuseCard (s : State) (d : Nat) (card : Dword) (t : Half) (launch : Option Nat) (cause sub : Byte) : State :=
  let u := newTask s d card (List.replicate 128 0) t launch .unread
  ({ s with tasks := s.tasks ++ [u], nextN := s.nextN + 1 }).postRefusal u cause sub 0xFFFFFFFF

/-- Capacity of a queue (R124). -/
def queueCap (q : Nat) : Nat := if q = 0 then 65536 else 4096
def State.queueOf (s : State) (d q : Nat) : List Nat := (s.die d).queues.getD q []
def State.setQueue (s : State) (d q : Nat) (l : List Nat) : State := s.modDie d fun x => { x with queues := x.queues.put q l }

/-- Writes STATUS as an engine write (R119). -/
def writeStatus (w : Who) (card : Dword) (x : Byte) : M Unit := do
  let _ ← writeMem w (card + 0x30) [x] 5

/-- A card held for this queue stands before any that becomes ready now (R125). -/
def State.heldFor (s : State) (d q : Nat) : Bool :=
  (s.die d).held.any fun n => s.tasks.any fun t => t.n == n && t.queue == q

/-- A ready card is checked and queued on a die (R121, R122, R125); the result is 1 when it is held. A FATAL reply on the
STATUS write faults the task (R119). -/
def queueCard (w : Who) (d q : Nat) (card : Dword) (img : List Byte) (launch : Option Nat) : M Nat := do
  match launch with
  | some n => modify fun s => s.modLaunch n fun l => { l with posted := l.posted ++ [card] }
  | none => pure ()
  let s ← get
  match cardBad img w.tenant with
  | some sub => do
    set (s.refuseReady d (cardStage img) card img w.tenant launch 0x01 sub)
    pure 0
  | none =>
    let full := decide (queueCap q ≤ (s.queueOf d q).length) || s.heldFor d q
    orFatal (do
      writeStatus w card (if full then 5 else 1)
      modify fun s =>
        let r := s.putTask { newTask s d card img w.tenant launch (if full then .held else .queued) with queue := q }
        if full then r.1.modDie d fun x => { x with held := x.held ++ [r.2] }
        else r.1.setQueue d q (r.1.queueOf d q ++ [r.2])
      pure (if full then 1 else 0))
      fun sub _ => do
        modify fun s => s.refuseReady d q card img w.tenant launch 0x07 sub
        pure 0

/-- Where a card lies (R121, R123): its physical address, or cause and subcode of the entry that it earns. -/
def cardPlace (w : Who) (card : Dword) : M (Except (Byte × Byte) Nat) := do
  if card.toNat % 128 ≠ 0 then return .error (0x03, 0x07)
  match regionOf card with
  | .tenant =>
    let p ← placeRead w card 128 4 1
    match p with
    | .mem pa => pure (.ok pa)
    | _ => pure (.error (0x07, 0x27))
  | .noncanon => pure (.error (0x07, 0x20))
  | _ => pure (.error (0x07, 0x27))

/-- Handles a card by its STATUS (R371, R373); `queue` is the queue of a QPUSH, and the die of a queued card is `die`. A FATAL
reply on the write of STATUS 0 faults the task (R119). -/
def postCard (w : Who) (die q : Nat) (card : Dword) (img : List Byte) (launch : Option Nat) : M Nat := do
  let st := cardStatus img
  if st ≠ 0 ∧ st ≠ 3 then pure 3
  else if cardPredcnt img = 0 then queueCard w die q card img launch
  else
    orFatal (do
      writeStatus w card 0
      modify fun s => (s.putTask { newTask s die card img w.tenant launch .waiting with queue := q }).1)
      fun sub _ => modify fun s => s.refuseReady die q card img w.tenant launch 0x07 sub
    pure 2

/-! ### The selection key (R126) -/

/-- Class of a task: its CLASS counts only in a guaranteed launch (R126). -/
def State.taskGuaranteed (s : State) (t : Task) : Bool := cardCtrl t.img / 64 % 2 == 1 && s.guaranteedNow t.die t.launch

/-- The first of two tasks by the selection key. -/
def State.taskBefore (s : State) (a b : Task) : Bool :=
  if s.taskGuaranteed a != s.taskGuaranteed b then s.taskGuaranteed a
  else if cardPrio a.img ≠ cardPrio b.img then decide (cardPrio b.img < cardPrio a.img)
  else if a.age ≠ b.age then decide (a.age < b.age) else decide (a.card.toNat ≤ b.card.toNat)

/-- The first task of a queue by the selection key. -/
def State.firstTask (s : State) (d q : Nat) : Option Task :=
  ((s.queueOf d q).filterMap fun n => s.tasks.find? fun t => t.n = n).foldl
    (fun (b : Option Task) t => match b with
      | none => some t
      | some o => if s.taskBefore o t then b else some t) none

/-! ### TASK instructions (R370–R374) -/

/-- Earlier stores of the strand to these bytes have not reached its die's view yet. -/
def State.issueBlocked (s : State) (k : Nat) (parts : List (Dword × Nat)) : Bool :=
  s.loadBlocked k { id := s.nextN, seq := 0, pc := 0, la := 0, after := [], op := .compute [], dests := [], ssel := (s.slot k).statesel }
    parts

/-- The strand's earlier loads have returned and its earlier stores have left, so that a store of this instruction may leave
(R101). -/
def storeTurn (b : State) : M Unit :=
  if (b.slot b.focus).mayLeave { id := b.nextN, seq := 0, pc := 0, la := 0, after := [], op := .compute [], dests := [] } then pure ()
  else throw (.wait id)

/-- A card is read (R371): its bytes and its home die. One that cannot be read has its fault queue entry (R121, R123). -/
def readCard (b : State) (w : Who) (k : Nat) (card : Dword) (launch : Option Nat) : M (Option (List Byte × Nat)) := do
  let p ← orFatal (cardPlace w card) fun sub _ => pure (.error (0x07, sub))
  match p with
  | .ok pa => do
    if b.issueBlocked k [(card, 128)] then throw (.wait id)
    let bs ← readPlace w card (.mem pa) 128
    pure (some (bs, homeDie pa))
  | .error e => do
    modify (·.refuseCard (dieOf k) card w.tenant launch e.1 e.2)
    pure none

/-- Completes an instruction that acts at its issue: its result is outstanding until it completes (R241). -/
def giveG (b : State) (l : BitVec 4) (d : BitVec 5) (x : Dword) : M Unit :=
  modify fun t => b.depart t l (.compute [.g d x]) [.g d]

/-- The launch of a slot's strand. -/
def State.launchOf (s : State) (k : Nat) : Option Nat :=
  (s.strandLaunch (s.slot k).owner (s.slot k).tenant).map (·.n)

/-- What TPOST does (R371). -/
def tpostBody (d a : BitVec 5) (b : State) : M Dword := do
  let k := b.focus
  let card := b.readG k a
  let w := b.whoIssue d
  let c ← readCard b w k card (b.launchOf k)
  match c with
  | none => pure 0
  | some (img, die) =>
    let r ← postCard w die (cardStage img) card img (b.launchOf k)
    pure (dw r)

/-- TPOST (R371). -/
def execTpost (d a : BitVec 5) (g : BitVec 3) (l : BitVec 4) : State → Res :=
  issueLater
    { instr := .tpost d a g l, guard := g, reads := [.g a]
      hold := fun s => (s.slot s.focus).acquiring
      check := fun s =>
        let c := s.readG s.focus a
        firstTrap [if c.toNat % 128 = 0 then none else some (alignTrap 7 c), s.pureTrap s.focus 0x0A] } l d (tpostBody d a)

/-- What QPUSH does (R230, R373). -/
def qpushBody (d a b : BitVec 5) (s0 : State) : M Dword := do
  let k := s0.focus
  let q := (s0.readG k a).toNat
  let card := s0.readG k b
  if q = 17 then
    modify (·.modDie (dieOf k) fun y => { y with dealer := y.dealer ++ [card] })
    pure 0
  else if 15 < q then pure 4
  else
    let w := s0.whoIssue d
    let c ← readCard s0 w k card (s0.launchOf k)
    match c with
    | none => pure 0
    | some (img, _) =>
      if cardStatus img ≠ 0 ∧ cardStatus img ≠ 3 then pure 3
      else if cardStage img ≠ q then pure 4
      else
        let r ← postCard w (dieOf k) q card img (s0.launchOf k)
        pure (dw r)

/-- QPUSH (R373): a full Dealer queue holds the slot (R230). -/
def execQpush (d a b : BitVec 5) (g : BitVec 3) (l : BitVec 4) : State → Res :=
  issueLater
    { instr := .qpush d a b g l, guard := g, reads := [.g a, .g b]
      hold := fun s => (s.slot s.focus).acquiring ||
        (s.readG s.focus a == 17 && decide (4096 ≤ (s.die (dieOf s.focus)).dealer.length))
      check := fun s =>
        let q := (s.readG s.focus a).toNat; let c := s.readG s.focus b
        firstTrap [if q ≤ 15 ∧ c.toNat % 128 ≠ 0 then some (alignTrap 7 c) else none,
          if q = 17 ∧ c.toNat % 64 ≠ 0 then some (alignTrap 6 c) else none, s.pureTrap s.focus 0x0A] } l d (qpushBody d a b)

/-- QPOP of a card queue (R373, R484): the card stays work of its launch. A FATAL reply on the write of STATUS 0 faults the task
(R119). -/
def popCard (w : Who) (e q : Nat) : M Dword := do
  let s ← get
  match s.firstTask e q with
  | none => pure 0
  | some t =>
    let out := fun (s : State) => s.setQueue e q ((s.queueOf e q).erase t.n)
    orFatal (do
      writeStatus { w with tenant := t.tenant } t.card 0
      modify fun s => out (s.modTask t.n fun t => { t with phase := .popped }))
      fun sub _ => modify fun s => out (s.refuseTask t.n 0x07 sub 0xFFFFFFFF)
    pure t.card

/-- QPOP of the fault queue (R131, R373). -/
def popFault (w : Who) (e : Nat) (dst : Dword) : M Dword := do
  let s ← get
  match (s.die e).faultq with
  | [] => pure 0
  | f :: rest =>
    let _ ← writeMem w dst f 1
    modify (·.modDie e fun x => { x with faultq := rest })
    pure 1

/-- What QPOP does (R373). -/
def qpopBody (d a b : BitVec 5) (s0 : State) : M Dword := do
  let k := s0.focus
  let q := (s0.readG k a).toNat
  if q ≤ 15 then popCard (s0.whoIssue d) (dieOf k) q
  else if q = 16 then do
    storeTurn s0
    popFault (s0.whoIssue d) (dieOf k) (s0.readG k b)
  else if q = 17 then
    let s ← get
    match (s.die (dieOf k)).dealer with
    | [] => pure 0
    | x :: rest => do
      modify (·.modDie (dieOf k) fun y => { y with dealer := rest })
      pure x
  else pure 1

/-- QPOP (R373). -/
def execQpop (d a b : BitVec 5) (g : BitVec 3) (l : BitVec 4) : State → Res :=
  issueLater
    { instr := .qpop d a b g l, guard := g, reads := [.g a, .g b]
      hold := fun s => (s.slot s.focus).acquiring
      check := fun s =>
        let q := (s.readG s.focus a).toNat
        firstTrap [if q ≤ 16 && !(s.slot s.focus).supervisor then some (privTrap 0x01 0) else none,
          if q = 16 then s.accessTrap s.focus (s.readG s.focus b) 1 true else none,
          s.pureTrap s.focus 0x0A] } l d (qpopBody d a b)

/-- QPOP.W (R370, R373): waits for a descriptor; any other queue gives 1. -/
def execQpopW (d a : BitVec 5) (g : BitVec 3) (l : BitVec 4) : State → Res :=
  longOp
    { instr := .qpopW d a g l, guard := g, reads := [.g a], check := fun s => s.pureTrap s.focus 0x0A } l [.g d]
    fun s => if s.readG s.focus a = 17 then .qpopw d else .compute [.g d 1]

/-- QPOP.W claims the oldest descriptor (R373). -/
def State.qpopwStep (s : State) (k : Nat) (o : Outst) (d : BitVec 5) : State :=
  match (s.die (dieOf k)).dealer with
  | [] => s
  | x :: rest => (s.modDie (dieOf k) fun y => { y with dealer := rest }).complete k o [.g d x]

/-- TCARD (R374). -/
def execTcard (d : BitVec 5) (g : BitVec 3) (l : BitVec 4) : State → Res :=
  longOp { instr := .tcard d g l, guard := g } l [.g d] fun s => .compute [.g d (s.slot s.focus).owner]

/-! ### TDONE (R372) -/

/-- The urgent strand starts in slot `k` (R146). -/
def State.startUrgent (s : State) (k : Nat) : State :=
  let pc := dw (0xFFFFFFFFFC0000 + bits (s.core (coreOf k)).urgcfg 17 2 * 4)
  { s.startRec k { pc := pc, pw := 1, flags := 0x20, g := List.replicate 12 0, joinblk := 0, owner := 0, uid := s.nextN } with
    nextN := s.nextN + 1 }

/-- A table count. -/
def bump (t : Table Nat) (k : Nat) : Table Nat := t.put k (t.getD k 0 + 1)
def unbump (t : Table Nat) (k : Nat) : Table Nat := t.put k (t.getD k 0 - 1)

/-- The strand of slot `k` has ended: its task or its SWEEP worker goes on (R118, R129). -/
def State.strandEnded (s : State) (x : Slot) : State :=
  match s.sweepLaunch x.owner with
  | some l =>
    let tile := bits x.owner 47 0
    s.modLaunch l.n fun l => { l with
      live := unbump l.live tile
      ended := if x.sw && l.workers != 0 then bump l.ended (tile % l.workers) else l.ended }
  | none => match s.ownerTask x.owner x.tenant with
    | some t => s.modTask t.n fun t => if t.uid = x.uid then { t with root := true } else { t with strands := t.strands - 1 }
    | none => s

/-- The trap with which a strand that ends now ends unresumed: that of a handler which has not gone back, or a PURITY trap whose
handler has not resumed the strand (R131, R186; log entry 51). Its cause, subcode, PC and address. -/
def Slot.unresumed (x : Slot) : Option (Byte × Byte × Dword × Dword) :=
  match x.purity with
  | some (sub, pc, addr) => some (0x08, sub, pc, addr)
  | none => if x.frozen then some (x.trcause.extractLsb' 0 8, x.trcause.extractLsb' 8 8, x.trpc, x.traddr) else none

/-- A strand ends in a trap that is not resumed: its task faults (R131). It stays in its slot while the fault queue is full
(R132). -/
def endTrapped (k : Nat) (x : Slot) (e : Byte × Byte × Dword × Dword) : M Unit := do
  let s ← get
  let d := s.die (dieOf k)
  if 1024 ≤ d.faultq.length + d.faultWait.length then throw (.wait id)
  set ((s.postFaultEntry (dieOf k) (faultEntry x.owner e.1 e.2.1 (whereWord k) e.2.2.1 e.2.2.2) (s.taskNo x)).leave k)

/-- TDONE (R372). -/
def execTdone (g : BitVec 3) : State → Res :=
  issueM
    { instr := .tdone g, guard := g, la := some 0, hold := fun s => (s.slot s.focus).suspHeld }
    fun b => do
      let k := b.focus
      let x := b.slot k
      if b.urgentSlot k && x.owner == 0 && x.mode then modify (·.startUrgent k)
      else match x.unresumed with
        | some e => endTrapped k x e
        | none =>
          let rootStrand := (b.ownerTask x.owner x.tenant).any fun t => t.uid == x.uid
          if !x.sw && !rootStrand && x.joinblk != 0 then
            let s ← get
            let w := b.whoSlot k (.issue k)
            if !s.released k .package then throw (.wait id)
            let p ← placeWrite w x.joinblk 8 2
            match p with
            | .peer _ => fenceM k .system true false
            | _ => pure ()
            joinLower w x.joinblk
          modify fun s => (s.strandEnded x).leave k

end Sys2Proof.Machine
end

