-- ==== Sys2Proof/Machine/StreamMove.lean ====
section
/-! DEFINITION. Stream migration from the sender's side (R177, R178, R382), restore with its recompute task (R175), and the
posting of a scheduler's own card (R162, R175). -/

namespace Sys2Proof.Machine

/-! ### Sending (R177) -/

/-- A transfer by its number. -/
def State.move? (s : State) (n : Nat) : Option Transfer := s.moves.find? fun t => t.n = n
def State.modMove (s : State) (n : Nat) (f : Transfer → Transfer) : State :=
  { s with moves := s.moves.map fun t => if t.n = n then f t else t }
def State.endMove (s : State) (n : Nat) : State := { s with moves := s.moves.filter fun t => t.n ≠ n }

/-- The lowest `k` free tags of a die. -/
def State.freeTags (s : State) (d k : Nat) : List Nat :=
  ((List.range 4096).filter fun t => !(s.requests.any fun r => r.die == d && r.tag == t)).take k

/-- Sends a request of a transfer (R26, R35): type, tag, fields and data. -/
def State.sendMove (s : State) (t : Transfer) (type tag : Nat) (fs : List (Nat × Nat × Nat)) (data : List Byte) : State :=
  let pkt := requestPacket type t.die t.peer s.pkgid.toNat t.tenant tag fs data
  let r : Request := ⟨t.die, tag, t.peer, type, s.timer.toNat, .stream t.id, 0, leBytes 8 tag, none⟩
  { s with requests := s.requests ++ [r] }.sendPacket t.die t.peer pkt

/-- The answers to a transfer's requests, when all are in. -/
def State.moveAnswers (s : State) (t : Transfer) : Option (List (Byte × List Byte)) :=
  allSome (t.tags.map fun g => (s.requests.find? fun r => r.die == t.die && r.tag == g).bind (·.answer))

/-- Forgets the requests of a transfer. -/
def State.dropMoveRequests (s : State) (t : Transfer) : State :=
  { s with requests := s.requests.filter fun r => !(r.die == t.die && t.tags.contains r.tag) }

/-- The leaf of a page of the stream's state space. -/
def State.movePage (s : State) (t : Transfer) (page : Nat) : Dword :=
  match (s.streamLeaves t.id).find? fun l => l.2.2.1 = page * 65536 with
  | some l => l.2.1
  | none => 0

/-- HASH of a SNAPREQ: HASH1 and HASH2 when the frame has HV, else zero (R177). -/
def State.moveHash (s : State) (e : Dword) : Nat :=
  let fd := s.frameDesc (leafFrame e)
  if leafTier e = 0 ∧ fd.hv then fd.hash1.toNat + fd.hash2.toNat * 2 ^ 64 else 0

/-- An EVICTED stream returns to PREV with its pages counted again (R153, R154). -/
def State.unevict (s : State) (id : Nat) : State :=
  s.scbStep id fun r => setState (setPrev (setEvkind (wr r 0x74 4 (s.pagesOf id)) 0) 0) (scbPrev r)

/-- What stands for a reply address in a migration that no instruction asked for (log entry 23). -/
def noReply : Dword := -1

/-- The stream returns to PREV (R154, R178); the reply word follows. -/
def State.failMove (s : State) (t : Transfer) (st : Byte) : State :=
  let s := (s.dropMoveRequests t).unevict t.id
  if t.reply = noReply then s.endMove t.n else s.modMove t.n fun t => { t with stage := 16 + st.toNat, tags := [] }

/-- The receiver holds the stream: the sender's copy is released and FREE, of which its group hears (R168, R178). -/
def State.retireMove (s : State) (t : Transfer) : State :=
  let root := scbRoot (s.scb t.id)
  let s := (State.lowerNode 3 ((s.dropMoveRequests t).tlbDropRoot root) root).scbStep t.id fun r => setState r 0
  { s with scbs := s.scbs.del t.id }.endMove t.n

/-- Writes the word that tells of a failure (R382). -/
def replyM (t : Transfer) : M Unit := do
  let w := whoUnit t.die t.tenant (.stream t.id) 0
  let _ ← writeMem w t.reply (leBytes 8 (t.stage - 16)) 5
  modify fun s => ((s.dropFault w.req).dropRequests w.req).endMove t.n

/-- One thing that a transfer can do now. -/
def State.moveOnce (s : State) (n : Nat) : State :=
  match s.move? n with
  | none => s
  | some t =>
    let refused := fun (stage : Nat) (s : State) => (s.dropMoveRequests t).modMove n fun t =>
      { t with stage := stage, tags := [], since := s.timer.toNat }
    match t.stage with
    | 0 =>
      if !s.pkgOk t.peer then s.failMove t 5
      else if !s.canTouch t.die t.peer then s.relieveTouched t.die
      else match s.freeTags t.die 1, t.pages with
        | [g], p :: _ =>
          (s.sendMove t 6 g [(0x10, 4, t.id), (0x14, 4, p), (0x18, 16, s.moveHash (s.movePage t p))] []).modMove n
            fun t => { t with stage := 1, tags := [g] }
        | [g], [] =>
          (s.sendMove t 7 g [(0x10, 4, t.id), (0x14, 4, 0xFFFFFFFF), (0x18, 4, 0)]
            ((s.scb t.id).take 256 ++ leBytes 8 t.reply.toNat ++ List.replicate 3832 0)).modMove n
            fun t => { t with stage := 6, tags := [g] }
        | _, _ => s
    | 1 => match s.moveAnswers t with
      | some [(st, d)] =>
        if st = 0 then (s.dropMoveRequests t).modMove n fun t =>
          if d.getD 0 0 = 1 ∨ leafTier (s.movePage t (t.pages.headD 0)) = 3 then { t with stage := 0, tags := [], pages := t.pages.tail }
          else { t with stage := 2, tags := [] }
        else if st = 6 then refused 4 s else s.failMove t st
      | _ => s
    | 2 =>
      let gs := s.freeTags t.die 16
      let p := t.pages.headD 0
      if gs.length < 16 then s
      else (gs.zipIdx.foldl (fun s g => s.sendMove t 7 g.1 [(0x10, 4, t.id), (0x14, 4, p), (0x18, 4, g.2 * 4096)]
        (s.readHome (leafFrame (s.movePage t p) + g.2 * 4096) 4096)) s).modMove n fun t => { t with stage := 3, tags := gs }
    | 3 => match s.moveAnswers t with
      | some as =>
        if as.all fun a => a.1 == 0 then
          (s.dropMoveRequests t).modMove n fun t => { t with stage := 0, tags := [], pages := t.pages.tail }
        else match as.find? fun a => a.1 != 0 && a.1 != 6 with
          | some a => s.failMove t a.1
          | none => refused 5 s
      | none => s
    | 4 => if t.since + 1024 ≤ s.timer.toNat then s.modMove n fun t => { t with stage := 0 } else s
    | 5 => if t.since + 1024 ≤ s.timer.toNat then s.modMove n fun t => { t with stage := 2 } else s
    | 6 => match s.moveAnswers t with
      | some [(st, _)] => if st = 0 then s.retireMove t else if st = 6 then refused 4 s else s.failMove t st
      | _ => s
    | _ => runM (replyM t) (fun _ _ s => ((s.dropFault (.stream t.id)).dropRequests (.stream t.id)).endMove n) (fun _ s => s) s

/-- A transfer goes on as far as it can without another answer. -/
def State.moveStep (s : State) (n : Nat) : State := (((s.moveOnce n).moveOnce n).moveOnce n).moveOnce n

/-- A migration begins (R177): the stream is EVICTED with EVKIND 3. -/
def State.startMove (s : State) (id dst : Nat) (reply : Dword) : State :=
  let pages := (s.streamLeaves id).map fun l => l.2.2.1 / 65536
  let t : Transfer := ⟨s.nextN, scbHome id, dst, id, scbTenant (s.scb id), scbRoot (s.scb id), pages, reply, 0, [], s.timer.toNat⟩
  let s := s.scbStep id fun r => setState (setFlags r (scbPinned r) (scbQueued r) 3 (scbState r)) 5
  { s with moves := s.moves ++ [t], nextN := s.nextN + 1 }.moveStep t.n

/-- Eviction by migration names no reply address (R173, log entry 23). -/
def State.evictMove (s : State) (id dst : Nat) : State := s.startMove id dst noReply

/-! ### Cards of the scheduler (R162, R175) -/

/-- A batch or recompute card: ENTRY, ARGS, ARGLEN and the model's TENANT, STAGE and CTRL with PURE clear. -/
def modelCard (m : List Byte) (entry args arglen : Nat) : List Byte :=
  let z := List.replicate 128 (0 : Byte)
  wr (wr (wr (wr (wr (wr (wr z 0 8 entry) 8 8 args) 0x10 4 arglen) 0x18 2 (rd m 0 2)) 0x1A 1 (rd m 0xC 1)) 0x1B 1
    (rd m 0xD 1 % 128)) 0x1C 1 1

/-- Writes a card of the scheduler and queues it on the die that holds it. -/
def postOwnCard (w : Who) (card : Dword) (img : List Byte) (batch : Nat × Nat × List Nat) (stream : Option Nat) : M Unit := do
  storeMem w 2 card img
  let p ← placeRead w card 128 5 1
  match p with
  | .mem pa =>
    let d := homeDie pa
    let s ← get
    if (s.cardTask card w.tenant).any fun t => t.phase != .faulted then throw (.wait id)
    let _ ← queueCard { w with die := d } d (cardStage img) card img none
    modify fun s => match s.cardTask card w.tenant with
      | some t => s.modTask t.n fun t => { t with batch := some batch, stream := stream }
      | none => s
  | _ => throw (.fatal 0x27 card)

/-- The lowest free batch slot, or recompute slot, of a model on a die (R162, R175). -/
def State.freeBatch (s : State) (d m : Nat) (recomp : Bool) : Option Nat :=
  findFree (fun j => !((s.die d).batches.any fun b => b.model == m && b.slot == j && b.recomp == recomp)) 16 0

/-! ### Restore (R175) -/

/-- Leaves of a stream that a restore gives pool frames: exclusive ones in a swap area, and dropped ones (R175). -/
def State.awayLeaves (s : State) (id : Nat) : Nat :=
  ((s.streamLeaves id).filter fun l =>
    leafTier l.2.1 == 3 || (l.2.2.2 && leafTier l.2.1 == 0 && isSwap (leafFrame l.2.1))).length

/-- Restores a stream: a swapped one is resident again and takes PREV; a dropped one has zeroed frames and a recompute
task, whose retirement brings it back. The pages that came back. -/
def restoreM (w : Who) (id : Nat) : M Nat := do
  let s ← get
  let r := s.scb id
  let n := s.awayLeaves id
  let w := { w with tenant := scbTenant r }
  if scbEvkind r = 1 then
    swapIn w id
    if scbState r = 5 then modify (·.scbStep id fun r => setState (setPrev r 0) (scbPrev r))
  else
    let m := s.model (scbModel r)
    let d := scbHome id
    match s.freeBatch d (scbModel r) true with
    | none => throw (.wait (fun s => s))
    | some j =>
      refillDropped w id
      let card := dw (rd m 0x20 8 + d * 0x20000 + 0x18000 + j * 128)
      postOwnCard w card (modelCard m (modelRecomp m) 0 0) (scbModel r, j, []) (some id)
      modify (·.modDie d fun x => { x with
        batches := x.batches ++ [⟨scbModel r, j, true⟩], evicted := x.evicted.filter (· ≠ id) })
  pure n

end Sys2Proof.Machine
end

