-- ==== Sys2Proof/Machine/Streams.lean ====
section
/-! DEFINITION. The stream instructions (R375–R384) and the Cast instructions (R385, R386). Each acts in one step when it
issues; its result is outstanding until it completes. -/

namespace Sys2Proof.Machine

/-! ### Checks (R155, R375) -/

/-- BADID and TENANT of a stream instruction (R155). -/
def State.idBad (s : State) (k id : Nat) (tenant : Bool) : Option Byte :=
  if !sidOk id ∨ scbState (s.scb id) = 0 then some 1
  else if tenant && scbTenant (s.scb id) != (s.slot k).tenant then some 2 else none

/-- The first subcode that applies, in the order of R155. -/
def firstSub : List (Option Byte) → Option Byte
  | [] => none
  | some c :: _ => some c
  | none :: r => firstSub r

/-- A condition that raises a subcode. -/
def subIf (c : Bool) (x : Byte) : Option Byte := if c then some x else none

/-- Checks of a stream instruction: privilege, its addresses with the lower subcodes of the pure tag (R185, R346), the pure tag,
then STREAM with the subcode of R155. -/
def State.streamTrap (s : State) (k : Nat) (priv : Bool) (acc : Option Trap) (sub : Option Byte) : Option Trap :=
  firstTrap [if priv && !(s.slot k).supervisor then some (privTrap 0x01 0) else none, acc, s.pureTrap k 0x08,
    sub.map fun c => { cause := 0x0D, sub := c }]

/-- The step of a stream instruction: the checks of R155 hold in the step, or it changes nothing and traps (R375). -/
def streamBody (a : BitVec 5) (sub : State → Nat → Option Byte) (act : State → Nat → M Dword) (b : State) : M Dword :=
  let id := bits (b.readG b.focus a) 31 0
  match sub b id with
  | some c => throw (.trap { cause := 0x0D, sub := c })
  | none => act b id

/-- A stream instruction: `sub` gives its subcode and `act` its step and result; the stream id is ga[31:0]. One whose access waits
is outstanding meanwhile (R84, R357). -/
def streamOp (p : Issue) (d a : BitVec 5) (l : BitVec 4) (priv : State → Bool) (acc : State → Option Trap)
    (sub : State → Nat → Option Byte) (act : State → Nat → M Dword) : State → Res :=
  issueLater { p with
      hold := fun s => (s.slot s.focus).acquiring
      check := fun s => s.streamTrap s.focus (priv s) (acc s) (sub s (bits (s.readG s.focus a) 31 0)) } l d
    (streamBody a sub act)

/-- No check of addresses, and no privilege. -/
def noAcc : State → Option Trap := fun _ => none
def noPriv : State → Bool := fun _ => false

/-- A stream in one of the listed states. -/
def State.streamIn (s : State) (id : Nat) (sts : List Nat) : Bool := sts.contains (scbState (s.scb id))

/-! ### Stream instructions -/

/-- SFORK (R164, R376). -/
def execSfork (d a b : BitVec 5) (g : BitVec 3) (l : BitVec 4) : State → Res :=
  streamOp { instr := .sfork d a b g l, guard := g, reads := [.g a, .g b] } d a l noPriv noAcc
    (fun s id => firstSub [s.idBad s.focus id true, subIf (!s.streamIn id [1, 2, 3, 4]) 3,
      subIf (s.freeStream (scbHome id)).isNone 4,
      subIf (scbGroup (s.scb id) != 0 && !s.groupOpen (scbGroup (s.scb id)) (s.slot s.focus).tenant) 5])
    fun s0 id => do
      let s ← get
      match s.freeStream (scbHome id) with
      | none => throw (.trap { cause := 0x0D, sub := 4 })
      | some child =>
        if (s.nodeDesc (scbRoot (s.scb id))).refcnt = 0xFFFFFFFF then throw (.fatal 0x23 0)
        set (s.fork id child (s0.readG s0.focus b))
        pure (dw child)

/-- SSTEP (R158, R377). -/
def execSstep (d a : BitVec 5) (g : BitVec 3) (l : BitVec 4) : State → Res :=
  streamOp { instr := .sstep d a g l, guard := g, reads := [.g a] } d a l noPriv noAcc
    (fun s id => firstSub [s.idBad s.focus id true, subIf (!scbPinned (s.scb id)) 3])
    fun _ id => do
      let s ← get
      let r := s.scb id
      if scbState r = 6 ∨ scbHorizon r = 0 then pure (dw (3 * 2 ^ 56))
      else
        set (s.scbStep id (stepLayer (modelLayers (s.model (scbModel r)))))
        let s ← get
        pure (dw (scbHorizon (s.scb id) * 2 ^ 16 + scbCursor (s.scb id)))

/-- The checks of SACT (R378). -/
def sactSub (s : State) (id : Nat) : Option Byte :=
  firstSub [s.idBad s.focus id true, subIf (!s.streamIn id [1, 2, 3, 4, 5]) 3,
    subIf (actionCount (s.scb id) == 2 ^ scbAlog2 (s.scb id)) 6]

/-- What SACT does (R378): the entry is written through WriteWalk and stands everywhere, then ATAIL rises. -/
def sactAct (d b : BitVec 5) (s0 : State) (id : Nat) : M Dword := do
  let k := s0.focus
  let src := s0.readG k b
  if s0.issueBlocked k [(src, 64)] then throw (.wait fun s => s)
  let w := s0.whoIssue d
  let bs ← readMem w src 64 0
  let s ← get
  let r := s.scb id
  let va := dw (0xFE000000000000 + (rd r 0x10 8 + scbAtail r % 2 ^ scbAlog2 r * 64) % 2 ^ 48)
  let ws := { w with stream := some id }
  let p ← placeWrite ws va 64 1
  storePlace ws va p bs
  modify (·.scbStep id fun r =>
    let r := wr r 0x1A 2 ((scbAtail r + 1) % 65536)
    if scbState r = 3 then setState r 1 else r)
  pure (dw (scbAtail r))

/-- SACT (R378). -/
def execSact (d a b : BitVec 5) (g : BitVec 3) (l : BitVec 4) : State → Res :=
  streamOp { instr := .sact d a b g l, guard := g, reads := [.g a, .g b] } d a l noPriv
    (fun s => s.objTrap s.focus (s.readG s.focus b) 8 3 64 false) sactSub (sactAct d b)

/-- SRET (R159, R377). -/
def execSret (d a b : BitVec 5) (g : BitVec 3) (l : BitVec 4) : State → Res :=
  streamOp { instr := .sret d a b g l, guard := g, reads := [.g a, .g b] } d a l noPriv noAcc
    (fun s id => firstSub [s.idBad s.focus id true, subIf (s.streamIn id [6] && !scbPinned (s.scb id)) 3])
    fun s0 id => do
      let s ← get
      if scbState (s.scb id) = 6 then pure (dw (3 * 2 ^ 56))
      else
        let v := Fp.f32.add (scbReturn (s.scb id)) (bits (s0.readG s0.focus b) 31 0)
        set (s.scbStep id fun r => wr r 0x34 4 v)
        pure (dw v)

/-- SJOIN (R379). -/
def execSjoin (d a b : BitVec 5) (g : BitVec 3) (l : BitVec 4) : State → Res :=
  streamOp { instr := .sjoin d a b g l, guard := g, reads := [.g a, .g b] } d a l noPriv noAcc
    (fun s id => firstSub [s.idBad s.focus id true, subIf (scbGroup (s.scb id) != 0 || s.streamIn id [6]) 3,
      subIf (!s.groupOpen (s.readG s.focus b).toNat (s.slot s.focus).tenant) 5])
    fun s0 id => do
      let gid := (s0.readG s0.focus b).toNat
      modify fun s => ({ s with scbs := s.scbs.put id (wr (s.scb id) 0x2C 4 gid) }).joinGroup id
      let s ← get
      pure (dw (((s.group? gid).map (·.members)).getD 0))

/-- SRETIRE (R380). -/
def execSretire (a : BitVec 5) (g : BitVec 3) (l : BitVec 4) : State → Res :=
  streamOp { instr := .sretire a g l, guard := g, reads := [.g a] } 0 a l noPriv noAcc
    (fun s id => firstSub [s.idBad s.focus id true,
      subIf (!s.streamIn id [1, 2, 3, 4, 5] || scbEvkind (s.scb id) == 3) 3])
    fun _ id => do
      modify fun s => (s.scbStep id fun r => wr r 0x1E 1 5).kill id
      pure 0

/-- Evicts one stream for SEVICT, or skips it; a write to one of its frames that is on its way is waited for. -/
def evictM (id : Nat) : M Dword := do
  let s ← get
  if !s.candidate id then pure (dw (2 ^ 56))
  else
    if !s.evictQuiet id then throw (.wait fun s => s)
    match s.evict (scbHome id) id State.evictMove with
    | some s' => do
      set s'
      pure (dw (s.exclusivePool id).length)
    | none => pure (dw (2 ^ 56))

/-- No candidate of a die has a write to a frame that its eviction would move on its way. -/
def State.roundQuiet (s : State) (d : Nat) : Bool :=
  s.scbs.all fun e => !(scbHome e.1 == d && s.candidate e.1) || s.evictQuiet e.1

/-- The checks of SEVICT (R381). -/
def sevictSub (b : BitVec 5) (s : State) (id : Nat) : Option Byte :=
  if s.readG s.focus b = 2 then none else s.idBad s.focus id (!(s.slot s.focus).supervisor)

/-- What SEVICT does (R381). -/
def sevictAct (d b : BitVec 5) (s0 : State) (id : Nat) : M Dword := do
  let s ← get
  let k := s0.focus
  match (s0.readG k b).toNat with
  | 0 => evictM id
  | 1 =>
    let r := s.scb id
    if (scbState r = 5 ∧ scbEvkind r ≠ 3) ∨ (scbState r = 2 ∧ scbEvkind r = 1) then do
      let n ← restoreM (s0.whoIssue d) id
      pure (dw n)
    else pure (dw (2 ^ 56))
  | 2 =>
    let e := dieOf k
    if !s.roundQuiet e then throw (.wait fun s => s)
    let r := State.evictRound e (bits (s.die e).evlow 63 32) State.evictMove s.scbs.length [] ⟨s, 0, false⟩
    set r.st
    pure (dw r.pages)
  | _ => pure (dw (2 ^ 57))

/-- SEVICT (R381). -/
def execSevict (d a b : BitVec 5) (g : BitVec 3) (l : BitVec 4) : State → Res :=
  streamOp { instr := .sevict d a b g l, guard := g, reads := [.g a, .g b] } d a l (fun s => s.readG s.focus b == 2) noAcc
    (sevictSub b) (sevictAct d b)

/-- SMIG (R177, R382). -/
def execSmig (d a b : BitVec 5) (g : BitVec 3) (l : BitVec 4) : State → Res :=
  streamOp { instr := .smig d a b g l, guard := g, reads := [.g a, .g b] } d a l noPriv
    (fun s => s.objTrap s.focus (s.readG s.focus b) 8 3 8 true)
    (fun s id => firstSub [s.idBad s.focus id true,
      subIf (scbGroup (s.scb id) != 0 || !s.streamIn id [1, 3, 4] || bits (s.readG s.focus a) 47 32 == s.pkgid.toNat) 3,
      subIf (s.lastPage id) 9])
    fun s0 id => do
      modify (·.startMove id (bits (s0.readG s0.focus a) 47 32) (s0.readG s0.focus b))
      pure 0

/-- SSTAT (R383): the step recounts and takes the block; its copy then leaves as stores do. The copy reads the stream's RCTR, which
the pure tag forbids under a lower subcode than the instruction itself (R185). -/
def execSstat (d a b : BitVec 5) (g : BitVec 3) (l : BitVec 4) : State → Res :=
  issue { instr := .sstat d a b g l, guard := g, la := some l, reads := [.g a, .g b], writes := [.g d]
          hold := fun s => (s.slot s.focus).acquiring
          check := fun s =>
            let x := s.readG s.focus b
            let id := bits (s.readG s.focus a) 31 0
            s.streamTrap s.focus false
              (if x = 0 then none else firstTrap [s.objTrap s.focus x 8 3 256 true,
                if !sidOk id || s.streamIn id [0] then none else s.pureTrap s.focus 0x05])
              (if !sidOk id then some 1 else if s.streamIn id [0] then none
                else s.idBad s.focus id (!(s.slot s.focus).supervisor)) }
    fun s0 t =>
      let id := bits (s0.readG s0.focus a) 31 0
      let x := s0.readG s0.focus b
      if t.streamIn id [0] then s0.depart t l (.compute [.g d (dw id)]) [.g d]
      else
        let t := t.recount id
        let v := dw (rd (t.scb id) 0 8)
        s0.depart t l (if x = 0 then .compute [.g d v] else .copyOut x ((t.scb id).take 256) v d) [.g d]

/-- Limits of a group image (R167, R379). -/
def groupImageBad (r : List Byte) : Bool :=
  let op := rd r 6 1; let k := rd r 7 1; let after := rd r 0xE 1
  rd r 0 4 != 0 || rd r 4 2 != 0 || rd r 8 2 != 0 || rd r 0xC 2 != 0 || rd r 0xF 1 != 0 || decide (4 < op) ||
  (if op = 4 then decide (k = 0 ∨ 64 < k) else k != 0) || decide (1024 < rd r 0xA 2) || decide (1 < after) ||
  rd r 0x10 8 % 64 != 0 || decide (0xFE000000000000 ≤ rd r 0x10 8) || rd r 0x18 8 % 8 != 0 ||
  (if after = 0 then decide (rd r 0x20 4 = 0 ∨ 0x1000000 < rd r 0x20 4) else rd r 0x20 4 != 0) || (r.drop 0x24).any (· != 0)

/-- The lowest FREE group of a die (R379). -/
def State.freeGroup (s : State) (d : Nat) : Option Nat :=
  (findFree (fun i => (s.groups.find? (d * 2 ^ 30 + i)).isNone) 4095 1).map fun i => d * 2 ^ 30 + i

/-- The checks of SJOIN.OPEN that need no image (R379). -/
def sjoinOpenSub (s : State) (_ : Nat) : Option Byte := subIf (s.freeGroup (dieOf s.focus)).isNone 5

/-- What SJOIN.OPEN does (R379). -/
def sjoinOpenAct (d a : BitVec 5) (s0 : State) (_ : Nat) : M Dword := do
  let k := s0.focus
  let va := s0.readG k a
  if s0.issueBlocked k [(va, 64)] then throw (.wait fun s => s)
  let r ← readMem (s0.whoIssue d) va 64 0
  let s ← get
  match s.freeGroup (dieOf k), groupImageBad r with
  | some gid, false =>
    let img := wr (wr (wr r 0 4 gid) 4 2 (s0.slot k).tenant.toNat) 0xF 1 1
    set { s with groups := s.groups.put gid ⟨img, []⟩ }
    pure (dw gid)
  | _, _ => throw (.trap { cause := 0x0D, sub := 5 })

/-- SJOIN.OPEN (R379). -/
def execSjoinOpen (d a : BitVec 5) (g : BitVec 3) (l : BitVec 4) : State → Res :=
  streamOp { instr := .sjoinOpen d a g l, guard := g, reads := [.g a] } d a l noPriv
    (fun s => s.objTrap s.focus (s.readG s.focus a) 64 6 64 false) sjoinOpenSub (sjoinOpenAct d a)

/-- SSTOP (R384). -/
def execSstop (d a b : BitVec 5) (g : BitVec 3) (l : BitVec 4) : State → Res :=
  streamOp { instr := .sstop d a b g l, guard := g, reads := [.g a, .g b] } d a l noPriv noAcc
    (fun s id =>
      let c := bits (s.readG s.focus b) 7 0
      firstSub [s.idBad s.focus id true, subIf (!s.streamIn id [1, 2, 3, 4, 5]) 3, subIf (c < 2 || 4 < c) 0x0A])
    fun s0 id => do
      let s ← get
      if scbStop (s.scb id) = 0 then do
        set (s.stopStream id (bits (s0.readG s0.focus b) 7 0))
        pure 0
      else pure 1

/-! ### Cast instructions (R385, R386) -/

/-- Checks of a Cast instruction: privilege, its addresses with the lower subcodes of the pure tag (R185, R346), the pure tag. -/
def State.castTrap (s : State) (k : Nat) (priv : Bool) (acc : List (Option Trap)) : Option Trap :=
  firstTrap ([if priv && !(s.slot k).supervisor then some (privTrap 0x01 0) else none] ++ acc ++ [s.pureTrap k 0x0B])

/-- A Cast instruction. -/
def castOp (p : Issue) (d : BitVec 5) (l : BitVec 4) (priv : State → Bool) (acc : State → List (Option Trap))
    (act : State → M Dword) : State → Res :=
  issueLater { p with
      hold := fun s => (s.slot s.focus).acquiring
      check := fun s => s.castTrap s.focus (priv s) (acc s) } l d act

/-- Reads a card or a key as loads are. -/
def readObj (b : State) (d : BitVec 5) (va : Dword) (n : Nat) : M (List Byte) := do
  if b.issueBlocked b.focus [(va, n)] then throw (.wait fun s => s)
  readMem (b.whoIssue d) va n 0

/-- What CLOOK does (R385): with CASTCFG.LOOK clear no table is probed (R198). -/
def clookBody (d a b : BitVec 5) (s0 : State) : M Dword := do
  let k := s0.focus
  let w := s0.whoIssue d
  let img ← readObj s0 d (s0.readG k a) 128
  let key ← taskKey w img
  match key with
  | none => pure 2
  | some key =>
    let s ← get
    if s.invalWaits key.2 then throw (.wait id)
    if s0.readG k b ≠ 0 then
      storeTurn s0
      let _ ← writeMem w (s0.readG k b) key.1 1
    let s ← get
    pure (if s.castcfg.getLsbD 63 && (s.castHit key.1 w.tenant img).isSome then 1 else 0)

/-- CLOOK (R385). -/
def execClook (d a b : BitVec 5) (g : BitVec 3) (l : BitVec 4) : State → Res :=
  castOp { instr := .clook d a b g l, guard := g, reads := [.g a, .g b] } d l noPriv
    (fun s =>
      let x := s.readG s.focus b
      [s.objTrap s.focus (s.readG s.focus a) 128 7 128 false, if x = 0 then none else s.objTrap s.focus x 8 3 32 true])
    (clookBody d a b)

/-- What CPUT does (R385, R386): the taint test of R195 is skipped. -/
def cputBody (d a : BitVec 5) (s0 : State) : M Dword := do
  let w := s0.whoIssue d
  let img ← readObj s0 d (s0.readG s0.focus a) 128
  let key ← taskKey w img
  match key with
  | none => pure 2
  | some (key, reads) =>
    let s ← get
    if s.invalWaits reads then throw (.wait id)
    let done ← castInsert w false img key reads
    pure (if done then 0 else 1)

/-- CPUT (R385). -/
def execCput (d a : BitVec 5) (g : BitVec 3) (l : BitVec 4) : State → Res :=
  castOp { instr := .cput d a g l, guard := g, reads := [.g a] } d l (fun _ => true)
    (fun s => [s.objTrap s.focus (s.readG s.focus a) 128 7 128 false]) (cputBody d a)

/-- What CINVK does (R385). -/
def cinvkBody (d a : BitVec 5) (s0 : State) : M Dword := do
  let key ← readObj s0 d (s0.readG s0.focus a) 32
  let s ← get
  match s.castFind key (s0.slot s0.focus).tenant with
  | some (i, _) => do
    set (s.castFree i)
    pure 1
  | none => pure 0

/-- CINVK (R385). -/
def execCinvk (d a : BitVec 5) (g : BitVec 3) (l : BitVec 4) : State → Res :=
  castOp { instr := .cinvk d a g l, guard := g, reads := [.g a] } d l noPriv
    (fun s => [s.objTrap s.focus (s.readG s.focus a) 8 3 32 false]) (cinvkBody d a)

/-- CFLUSHT (R385): every entry of a tenant, on all four dies. -/
def execCflusht (d a : BitVec 5) (g : BitVec 3) (l : BitVec 4) : State → Res :=
  castOp { instr := .cflusht d a g l, guard := g, reads := [.g a] } d l
    (fun s => bits (s.readG s.focus a) 15 0 != (s.slot s.focus).tenant.toNat) (fun _ => [])
    fun s0 => do
      let s ← get
      let is := (s.cast.filter fun e => e.2.tenant.toNat == bits (s0.readG s0.focus a) 15 0).map (·.1)
      set (is.foldl State.castFree s)
      pure (dw is.length)

end Sys2Proof.Machine
end

