-- ==== Sys2Proof/Machine/Sys.lean ====
section
/-! DEFINITION. Control registers (R321, R322, R391, R392) with the commands that live in them, traps by instruction and by
timer (R270–R276, R388), SYSC and SLEEP (R389, R390). -/

namespace Sys2Proof.Machine

/-! ### Reading (R322, R391) -/

/-- A ring register (R250). -/
def Ring.word (r : Ring) : Dword :=
  dw ((if r.en then 2 ^ 63 else 0) + r.base.toNat * 2 ^ 47 + r.slotsz * 2 ^ 43 + r.nslot % 128 * 2 ^ 36 + r.head % 64 * 2 ^ 30 +
    r.tail % 64 * 2 ^ 24 + r.free % 128 * 2 ^ 17 + r.filled % 128 * 2 ^ 10)

/-- LEASE (R255). -/
def Core.leaseWord (x : Core) : Dword :=
  dw ((if x.leaseHeld then 2 ^ 63 else 0) + (if x.leaseWait then 2 ^ 62 else 0) + x.leaseCmds % 32 * 2 ^ 57 +
    x.leaseCyc % 8192 * 2 ^ 44 + x.accmask.toNat)

/-- PWRSTAT (R13): bit 4 is WARN. -/
def State.readPkg (s : State) (n : Nat) : Dword :=
  match n with
  | 0x008 => s.timer
  | 0x014 => zext s.pkgid
  | 0x080 => dw (s.poolsz % 32)
  | 0x081 => s.pwr
  | 0x082 => dw ((s.torus.2.2.2 - 1) % 16 * 4096 + (s.torus.2.2.1 - 1) % 16 * 256 + (s.torus.2.1 - 1) % 16 * 16 + (s.torus.1 - 1) % 16)
  | 0x083 => s.linkup
  | 0x087 => zext s.ckgen
  | 0x094 => s.ckrecv
  | 0x0A0 => s.castcfg
  | _ => 0

/-- Registers kept per die. -/
def State.readDie (s : State) (k n : Nat) : Dword :=
  let d := s.die (dieOf k)
  match n with
  | 0x085 => zext (Config.svcloc (dieOf k))
  | 0x08B => dw (d.late.toNat * 2 ^ 32 + d.schedRes.toNat * 16 + (s.core (coreOf k)).stage % 16)
  | 0x090 => d.evcfg
  | 0x091 => d.evlow
  | 0x093 => dw (d.evictions.toNat * 2 ^ 32 + d.strmRes.toNat % 4)
  | 0x0A1 => d.caststat
  | 0x0E3 => d.lsbase
  | _ => s.readPkg n

/-- Registers kept per core or cluster. -/
def State.readCore (s : State) (k n : Nat) : Dword :=
  let c := s.core (coreOf k)
  if 0x030 ≤ n ∧ n ≤ 0x03F then zext (c.evc.get (mboxFin n))
  else if 0x0C0 ≤ n ∧ n ≤ 0x0CF then ((s.cluster (clusterOf k)).rings.get (mboxFin n)).word
  else match n with
    | 0x005 => c.trvec
    | 0x00A => c.sleepcfg
    | 0x00B => c.feretry
    | 0x010 => zext c.vcore
    | 0x020 => c.leaseWord
    | 0x040 => dw (c.evctr.toNat * 2 ^ 60 + (c.evsel.get (mboxFin c.evctr.toNat)).toNat)
    | 0x088 => c.urgcfg
    | 0x0B2 => c.attuf
    | 0x0E2 => dw ((if c.fwd.isSome then 4 else 0) + c.savestat.toNat)
    | _ => s.readDie k n

/-- The value that a CSRR returns (R391). -/
def State.csr (s : State) (k n : Nat) : Dword :=
  let x := s.slot k
  match n with
  | 0x000 => x.status
  | 0x001 => x.trcause
  | 0x002 => x.trpc
  | 0x003 => x.traddr
  | 0x004 => x.trwin
  | 0x006 => x.trstack
  | 0x009 => x.timecmp
  | 0x011 => dw (k % 32)
  | 0x012 => dw (clusterOf k % 40)
  | 0x013 => dw (dieOf k)
  | 0x015 => zext x.tenant
  | 0x018 => zext (x.org.get 0)
  | 0x019 => zext (x.org.get 1)
  | 0x01A => zext (x.org.get 2)
  | 0x01B => zext (x.sub.get 0)
  | 0x01C => zext (x.sub.get 1)
  | 0x01D => zext (x.sub.get 2)
  | 0x060 => x.dirty
  | 0x061 => x.vdirty
  | 0x070 => x.migthr
  | 0x086 => x.statesel
  | 0x0A9 => x.gramstat
  | 0x0B1 => x.kvstat
  | 0x0E0 => x.trnpc
  | n => s.readCore k n

/-! ### Writing by the register's own rules -/

/-- A dword with only bits hi..lo kept. -/
def keepBits (v : Dword) (hi lo : Nat) : Dword := dw (bits v hi lo * 2 ^ lo)

/-- Registers of a slot that a write changes at once; the rest of R322 ignores the write or has a step of its own. -/
def Slot.writeCsr (x : Slot) (n : Nat) (v : Dword) : Slot :=
  match n with
  | 0x001 => if x.frozen then x else { x with trcause := keepBits v 16 0 }
  | 0x002 => if x.frozen then x else { x with trpc := v }
  | 0x003 => if x.frozen then x else { x with traddr := v }
  | 0x004 => if x.frozen then x else { x with trwin := keepBits v 20 0 }
  | 0x006 => { x with trstack := v }
  | 0x009 => { x with timecmp := v }
  | 0x015 => { x with tenant := v.extractLsb' 0 16 }
  | 0x060 => { x with dirty := x.dirty &&& ~~~ v }
  | 0x061 => { x with vdirty := x.vdirty &&& ~~~ v }
  | 0x070 => { x with migthr := keepBits v 31 31 ||| keepBits v 15 0 }
  | 0x086 => { x with statesel := keepBits v 63 63 ||| keepBits v 31 0 }
  | 0x0E0 => { x with trnpc := v &&& ~~~ 2 }
  | _ => x

/-- Registers of a core. -/
def Core.writeCsr (x : Core) (n : Nat) (v : Dword) : Core :=
  if 0x030 ≤ n ∧ n ≤ 0x03F then
    { x with evc := x.evc.set (mboxFin n) (BitVec.ofNat 32 (min v.toNat 0xFFFFFFFF)) }
  else match n with
    | 0x005 => { x with trvec := keepBits v 17 2 }
    | 0x00A => { x with sleepcfg := dw (min (bits v 1 0) 2) }
    | 0x00B => { x with feretry := keepBits v 31 0 }
    | 0x010 => { x with vcore := v.extractLsb' 0 16 }
    | 0x0B2 => { x with attuf := v }
    | _ => x

/-- Registers of the die or the package, which REGISTER_WRITE stores: CKRECV and CASTCFG on all four dies. -/
def State.writeShared (s : State) (k n : Nat) (v : Dword) : State :=
  match n with
  | 0x090 => s.modDie (dieOf k) fun d => { d with
      evcfg := keepBits v 63 47 ||| dw (max 1 (bits v 39 24) * 2 ^ 24) ||| keepBits v 23 0 }
  | 0x091 => s.modDie (dieOf k) fun d => { d with evlow := setBits v 63 32 (max (bits v 63 32) (bits v 31 0)) }
  | 0x094 => { s with ckrecv := v &&& ~~~ 15 }
  | 0x0A0 => { s with castcfg := keepBits v 63 62 }
  | 0x0E3 => s.modDie (dieOf k) fun d => { d with lsbase := keepBits v 55 23 }
  | _ => s

/-- A register whose writes its own unit performs in a step of its own, while the writing slot is held (R391). -/
def csrPosted (n : Nat) : Bool :=
  n == 0x020 || n == 0x040 || n == 0x084 || n == 0x088 || n == 0x08A || n == 0x090 || n == 0x091 || n == 0x092 || n == 0x094 ||
  n == 0x0A0 || n == 0x0A1 || n == 0x0A8 || n == 0x0B0 || n == 0x0D0 || n == 0x0E1 || n == 0x0E3

/-- A write that is performed at once (R391). -/
def State.writeCsr (s : State) (k n : Nat) (v : Dword) : State :=
  (s.modSlot k fun x => x.writeCsr n v).modCore (coreOf k) fun x => x.writeCsr n v

/-- A posted write is over: its slot goes on with the next instruction. -/
def State.finishCmd (s : State) (k : Nat) : State :=
  (s.modSlot k fun x => { x.advance (x.replay.getD (x.pc + 4)) with cmd := none }).count (coreOf k) 0x02 1

/-- The posted write of a slot, when it is one to this register. -/
def State.cmd? (s : State) (k n : Nat) : Option Dword :=
  match (s.slot k).cmd with
  | some (m, v) => if m = n then some v else none
  | none => none

/-- A posted write ends FATAL: MEM_FATAL at the instruction that wrote (R86). -/
def State.cmdFatal (s : State) (k : Nat) (sub : Byte) (va : Dword) : State :=
  ((s.dropFault (.issue k)).dropRequests (.issue k)).modSlot k (fun y =>
    { y.advance (y.replay.getD (y.pc + 4)) with
      cmd := none, fatals := y.fatals ++ [⟨y.seq, y.pc, [], sub, va, [], y.replay.isSome, false⟩] }) |>.takeDue k

/-- Runs the command of a posted write; it may wait for translations. -/
def runCmd (k : Nat) (m : M Unit) (s : State) : State :=
  runM (do
    m
    modify fun s => ((s.dropFault (.issue k)).dropRequests (.issue k)).finishCmd k)
    (fun sub va s => s.cmdFatal k sub va) (fun t s => (s.modSlot k fun x => { x with cmd := none }).raise k t) s

/-! ### Checks (R185, R322) -/

/-- A register that user mode may not read (R322). -/
def csrUserRead (n : Nat) : Bool := 0x007 ≤ n && n != 0x084 && n != 0x0E0
/-- A register that user mode may not write (R322), with the value written. -/
def csrUserWrite (n : Nat) (v : Dword) : Bool :=
  csrUserRead n && !(n == 0x009 || n == 0x010 || n == 0x015 || n == 0x060 || n == 0x061 || n == 0x088 ||
    (n == 0x08A && bits v 63 62 != 2) || n == 0x090 || n == 0x091 || n == 0x092 || n == 0x094 || n == 0x0A0 || n == 0x0A1 ||
    n == 0x0E1 || n == 0x0E3)
/-- Registers whose reads identify the strand's place or time (R185). -/
def csrIdRead (n : Nat) : Bool :=
  n == 0x008 || (0x010 ≤ n && n ≤ 0x014) || (0x018 ≤ n && n ≤ 0x01D) || (0x030 ≤ n && n ≤ 0x03F)

/-- Slots of ACCMASK that a write newly claims and another core holds (R255). -/
def State.accBusy (s : State) (k : Nat) (v : Dword) : Bool :=
  let c := coreOf k
  (List.finRange 8).any fun i => v.getLsbD i.val && !(s.core c).accmask.getLsbD i.val &&
    match (s.cluster (clusterOf k)).accHold.get i with
    | some h => h != c
    | none => false

/-- Checks of a control register access (R322, R185, R255): `v` is the value that it writes. -/
def State.csrTrap (s : State) (k n : Nat) (isRead isWrite : Bool) (v : Dword) : Option Trap :=
  let x := s.slot k
  let user := !x.supervisor
  firstTrap [
    if user && ((isRead && !csrUserRead n) || (isWrite && !csrUserWrite n v)) then some (privTrap 0x02 0) else none,
    if x.pureBound && ((isRead && csrIdRead n) || (isWrite && n == 0x0D0)) then some (purityTrap 0x05 0) else none,
    if x.pureBound && isWrite && n == 0x0B0 then some (purityTrap 0x08 0) else none,
    if isWrite && n == 0x0D0 then 
      (let va := v &&& 0x00FFFFFFFFFFFF00; firstTrap [s.regionTrap k va, s.plinthTrap k va]) else none,
    if isWrite && n == 0x020 && s.accBusy k v then some { cause := 0x09, sub := 0x02 } else none]

/-! ### The instructions (R387–R392) -/

/-- A write of a control register: at once, or posted to the unit that performs it (R391). -/
def csrWrite (p : Issue) (n : Nat) (isRead : Bool) (f : State → Dword) : State → Res :=
  issue { p with
      hold := fun s => (s.slot s.focus).acquiring
      check := fun s => s.csrTrap s.focus n isRead true (f s) } fun b t =>
    if csrPosted n then
      b.modSlot b.focus fun x => { x with cmd := some (n, if n = 0x0E1 then keepBits (f b) 63 46 else f b) }
    else t.writeCsr b.focus n (f b)

/-- CSRR (R391). -/
def execCsrr (d n m : BitVec 5) (g : BitVec 3) (k : BitVec 2) : State → Res :=
  let r := (csrNumber k n m).toNat
  issue { instr := .csrr d n m g k, guard := g, writes := [.g d], check := fun s => s.csrTrap s.focus r true false 0 }
    fun b t => t.writeG b.focus d (b.csr b.focus r)

/-- CSRW (R391). -/
def execCsrw (r n m : BitVec 5) (g : BitVec 3) (k : BitVec 2) : State → Res :=
  csrWrite { instr := .csrw r n m g k, guard := g, reads := [.g r] } (csrNumber k n m).toNat false
    fun s => s.readG s.focus r

/-- CSRS (R391): old OR gs. -/
def execCsrs (r n m : BitVec 5) (g : BitVec 3) (k : BitVec 2) : State → Res :=
  csrWrite { instr := .csrs r n m g k, guard := g, reads := [.g r] } (csrNumber k n m).toNat true
    fun s => s.csr s.focus (csrNumber k n m).toNat ||| s.readG s.focus r

/-- CSRC (R391): old AND NOT gs. -/
def execCsrc (r n m : BitVec 5) (g : BitVec 3) (k : BitVec 2) : State → Res :=
  csrWrite { instr := .csrc r n m g k, guard := g, reads := [.g r] } (csrNumber k n m).toNat true
    fun s => s.csr s.focus (csrNumber k n m).toNat &&& ~~~ s.readG s.focus r

/-- CSRFI (R392): a 5-bit field at POS. -/
def execCsrfi (v p : BitVec 5) (g : BitVec 3) (c : BitVec 12) : State → Res :=
  csrWrite { instr := .csrfi v p g c, guard := g } c.toNat true fun s =>
    setBits (s.csr s.focus c.toNat) (min 63 (p.toNat + 4)) p.toNat v.toNat

/-- TRAP (R388): BREAK with the operand as subcode; TRNPC is the next instruction. -/
def execTrap (c : BitVec 7) (g : BitVec 3) : State → Res :=
  issue { instr := .trap c g, guard := g
          check := fun _ => some { cause := 0x0B, sub := c.setWidth 8, toNext := true } } fun _ t => t

/-- TRAPACK (R271, R388). -/
def execTrapack (g : BitVec 3) : State → Res :=
  issue { instr := .trapack g, guard := g
          check := fun s => if (s.slot s.focus).supervisor then none else some (privTrap 0x01 0) } fun b t =>
    t.modSlot b.focus fun x => { x with frozen := false }

/-- RETT (R271, R388). -/
def execRett (g : BitVec 3) : State → Res :=
  issue { instr := .rett g, guard := g, writes := [.g 2]
          check := fun s => if (s.slot s.focus).supervisor then none else some (privTrap 0x01 0) } fun b t =>
    t.modSlot b.focus Slot.ret

/-- The bytes of a SYSCALL (R58). -/
def State.syscall (s : State) (k tag : Nat) (call : Word) : List Byte :=
  let x := s.slot k
  let seq := match s.strandLaunch x.owner x.tenant with
    | some l => l.seq.toNat
    | none => 0
  [1, 0, 0, 0] ++ leBytes 4 tag ++ leBytes 4 x.tenant.toNat ++ leBytes 4 call.toNat ++
    [BitVec.ofNat 8 (dieOf k), BitVec.ofNat 8 (k / 32 % 40), BitVec.ofNat 8 (k / 8 % 4), BitVec.ofNat 8 (k % 8)] ++
    leBytes 4 seq ++ (List.range 8).flatMap (fun i => leBytes 8 (x.readG (BitVec.ofNat 5 (4 + i))).toNat) ++ List.replicate 8 0

/-- The lowest free SYSCALL entry of a die (R59). -/
def State.freeSys (s : State) (d : Nat) : Option Nat :=
  findFree (fun i => !((((s.die d).sysc.find? i).map (·.busy)).getD false)) 256 0

/-- SYSC (R59, R389). -/
def execSysc (d a : BitVec 5) (g : BitVec 3) : State → Res :=
  issue
    { instr := .sysc d a g, guard := g
      reads := .g a :: (List.range 8).map fun i => .g (BitVec.ofNat 5 (4 + i))
      writes := [.g d]
      hold := fun s => (s.slot s.focus).tenant != 0 && (s.freeSys (dieOf s.focus)).isNone
      check := fun s => s.pureTrap s.focus 0x06 } fun b t =>
    let k := b.focus
    let x := b.slot k
    if x.tenant = 0 then t.writeG k d (BitVec.allOnes 64)
    else match b.freeSys (dieOf k) with
      | none => b
      | some i =>
        let gen : BitVec 22 := (((b.die (dieOf k)).sysc.find? i).map (·.gen)).getD 0 + 1
        let tag := gen.toNat * 1024 + dieOf k * 256 + i
        let l := (b.strandLaunch x.owner x.tenant).map (·.n)
        let s := t.modDie (dieOf k) fun y => { y with sysc := y.sysc.put i ⟨gen, k, d, l, true⟩ }
        let s := s.modSlot k fun y => { y.mark_ (.g d) .empty with sysc := y.sysc + 1 }
        s.sendRoce (b.sysQp x.tenant) 0 4096 (.frame (b.sysQp x.tenant) (b.syscall k tag ((x.readG a).extractLsb' 0 32)))

/-- SLEEP (R390): the slot issues nothing until a fill, a message, a timer trap or its limit. -/
def execSleep (a : BitVec 5) (g : BitVec 3) : State → Res :=
  issue { instr := .sleep a g, guard := g, reads := [.g a] } fun b t =>
    t.modSlot b.focus fun x => { x with sleeping := some (b.readG b.focus a) }

/-! ### Steps of traps, timers and control registers -/

/-- TAKE_TRAP (R270, R272): a trap that is due, once nothing holds it up; an asynchronous one waits for FROZEN to clear
and for a replayed instruction, and not for outstanding ones (R276). -/
def execTakeTrap (s : State) : Res :=
  let k := s.ev.who
  let x := s.slot k
  .next <| if x.occ ≠ .active then s
    else if x.due.isSome || !x.fatals.isEmpty then s.takeDue k
    else match x.async with
      | [] => s
      | t :: rest =>
        if x.frozen || x.replay.isSome || x.cmd.isSome || x.gst[2] == .empty then s
        else ((s.modSlot k fun x => { x with async := rest }).modCore (coreOf k) fun c => { c with asleep := false }).takePlain k t

/-- TIMER_COMPARE (R276). -/
def execTimerCompare (s : State) : Res :=
  let k := s.ev.who
  let x := s.slot k
  .next <| if x.timecmp = 0 ∨ s.timer.toNat < x.timecmp.toNat ∨ !x.holdsStrand then s
    else ((s.modSlot k fun x => { x with timecmp := 0, sleeping := none }).modCore (coreOf k) fun c =>
      { c with asleep := false }).postAsync k { cause := 0x0B, sub := 0x80 }

/-- SLEEP_TIMER_LIMIT (R390). -/
def execSleepTimerLimit (s : State) : Res :=
  let k := s.ev.who
  .next <| match (s.slot k).sleeping with
    | some lim => if lim ≠ 0 ∧ lim.toNat ≤ s.timer.toNat then
        (s.modSlot k fun x => { x with sleeping := none }).modCore (coreOf k) fun c => { c with asleep := false } else s
    | none => s

/-- REGISTER_WRITE (R391): a posted write to a register of the die or the package without a behaviour of its own. -/
def execRegisterWrite (s : State) : Res :=
  let k := s.ev.who
  .next <| match (s.slot k).cmd with
    | some (n, v) =>
      if n == 0x090 || n == 0x091 || n == 0x094 || n == 0x0A0 || n == 0x0E3 then (s.writeShared k n v).finishCmd k else s
    | none => s

/-- EVSEL_WRITE (R266). -/
def execEvselWrite (s : State) : Res :=
  let k := s.ev.who
  .next <| match s.cmd? k 0x040 with
    | some v =>
      let n := mboxFin (bits v 63 60)
      (s.modCore (coreOf k) fun x => { x with
        evctr := BitVec.ofNat 4 (bits v 63 60), evsel := x.evsel.set n (v.extractLsb' 0 8)
        evc := if v.getLsbD 59 then x.evc.set n 0 else x.evc }).finishCmd k
    | none => s

/-- One ADD of EVGATH into a dword of the gather record (R267). -/
def gatherAdd (w : Who) (va x : Dword) (i : Nat) : M Unit := do
  let p ← placeWrite w va 8 2
  match p with
  | .peer pkg => do
    let a ← askPeer w pkg 3 va [BitVec.ofNat 8 i] [(0x10, 8, va.toNat), (0x18, 1, 0), (0x19, 1, 1), (0x20, 8, x.toNat)] []
    let _ ← statusOk w a va
  | .host => do
    let s ← get
    let x := match s.requests.find? fun r => decide (r.who = w.req ∧ r.opc = 0x103) && r.bytes.take 8 == leBytes 8 va.toNat with
      | some r => dw (rd r.bytes 16 8)
      | none => x
    let _ ← askHost w 0x103 va 8 x 0
  | p => do
    let s ← get
    let _ ← homeWrite w p (leBytes 8 (dw (leNat (s.placeBytes p 8)) + x).toNat)

/-- EVGATH (R267). -/
def execEvgath (s : State) : Res :=
  let k := s.ev.who
  .next <| match s.cmd? k 0x0D0 with
    | some v => runCmd k (do
        let w := s.whoSlot k (.issue k)
        for i in List.range 17 do
          let x := if i < 16 then zext ((s.core (coreOf k)).evc.get (mboxFin i)) else 1
          gatherAdd w ((v &&& 0x00FFFFFFFFFFFF00) + dw (8 * i)) x i) s
    | none => s

/-- TLBINV (R83): one page or all of a space, in every TLB of the package. -/
def execTlbinv (s : State) : Res :=
  let k := s.ev.who
  .next <| match s.cmd? k 0x084 with
    | some v =>
      let x := s.slot k
      let sp : Space := if v.getLsbD 1 then .stream (bits x.statesel 31 0) else .tenant x.tenant
      let s := match s.rootOf sp with
        | some r => if v.getLsbD 0 then { s with tlb := s.tlb.filter fun (t : TlbEntry) => t.root ≠ r }
                    else s.tlbDrop r (bits v 55 16 * 65536)
        | none => s
      s.finishCmd k
    | none => s

/-- CASTSTAT_CLEAR (R198). -/
def execCaststatClear (s : State) : Res :=
  let k := s.ev.who
  .next <| match s.cmd? k 0x0A1 with
    | some _ => (s.modDie (dieOf k) fun d => { d with caststat := 0 }).finishCmd k
    | none => s

/-- Offset of accumulator slot `i` of a cluster in the accumulator store (R255). -/
def accKey (cl i : Nat) : Nat := cl * 2 ^ 19 + i * 2 ^ 16

/-- Claims one accumulator slot for a core (R255); its K-end record ends (R436). -/
def State.claimAcc (s : State) (c : Nat) (i : Fin 8) : State :=
  let cl := s.cluster (c / 4)
  let s := if cl.accLast.get i = some c then s
    else { s with acc := replaceMem s.acc (accKey (c / 4) i.val) 65536 [] }
  (s.modCluster (c / 4) fun x => { x with
      accHold := x.accHold.set i (some c), accLast := x.accLast.set i (some c), kend := x.kend.set i false }).modCore c
    fun x => { x with accmask := x.accmask ||| BitVec.twoPow 8 i.val }

/-- ACCUM_CLAIM (R255): the bits that a LEASE write newly sets, or ACCBUSY. -/
def execAccumClaim (s : State) : Res :=
  let k := s.ev.who
  let c := coreOf k
  .next <| match s.cmd? k 0x020 with
    | some v =>
      let fresh := (List.finRange 8).filter fun i => v.getLsbD i.val && !(s.core c).accmask.getLsbD i.val
      if s.accBusy k v then (s.modSlot k fun x => { x with cmd := none }).raise k { cause := 0x09, sub := 0x02 }
      else
        let s := fresh.foldl (fun s i => s.claimAcc c i) s
        if (s.core c).accmask &&& ~~~ v.extractLsb' 0 8 = 0 then s.finishCmd k else s
    | none => s

/-- The accumulator slots that a tile command uses (R435, R439–R443): ACC of the commands of queue 0 but FMTLD and RINGCFG,
none for an MMA with SPLITK, and two or three slots for ATT. -/
def accSlots (w0 : Word) : List Nat :=
  let op := w0.toNat % 256
  let acc := w0.toNat / 2 ^ 24 % 16
  if op = 0 ∨ 9 < op ∨ (op ≤ 3 ∧ w0.getLsbD 30) then []
  else if op = 6 then (if w0.getLsbD 14 then [acc, acc + 1, acc + 2] else [acc, acc + 1]) else [acc]

/-- A command of core `c` that is not over uses accumulator slot `i`. -/
def State.accInUse (s : State) (c i : Nat) : Bool :=
  s.cmds.any fun m => coreOf m.slot == c && (accSlots m.w.w0).contains i

/-- ACCUM_RELEASE (R255): the bits that a LEASE write clears, once no command of the core uses their slots. -/
def execAccumRelease (s : State) : Res :=
  let k := s.ev.who
  let c := coreOf k
  .next <| match s.cmd? k 0x020 with
    | some v =>
      let gone := (List.finRange 8).filter fun i => !v.getLsbD i.val && (s.core c).accmask.getLsbD i.val
      if gone.any (fun i => s.accInUse c i.val) || (List.finRange 8).any fun i =>
          v.getLsbD i.val && !(s.core c).accmask.getLsbD i.val then s
      else
        let s := (s.modCore c fun x => { x with accmask := x.accmask &&& v.extractLsb' 0 8 }).modCluster (c / 4) fun x =>
          { x with accHold := Vector.ofFn fun i => if gone.contains i then none else x.accHold.get i }
        s.finishCmd k
    | none => s

end Sys2Proof.Machine
end

