-- ==== Sys2Proof/Machine/Save.lean ====
section
/-! DEFINITION. Save areas, SAVECMD, displacement, local-store streaming and core moves (R137, R146, R278–R283). -/

namespace Sys2Proof.Machine

/-! ### The save area (R278) -/

/-- Code of a register state in a state map. -/
def RegState.code : RegState → Nat
  | .full => 0 | .empty => 1 | .void => 2
def RegState.ofCode (n : Nat) : RegState := if n = 0 then .full else if n = 1 then .empty else .void

/-- State maps of a slot; a halted slot's empty registers are saved as void (R280). -/
def Slot.savedState (x : Slot) (st : RegState) : Nat := if x.occ = .halted ∧ st = .empty then 2 else st.code
def Slot.gMap (x : Slot) : Nat := ((List.range 32).map fun i => x.savedState (x.gState (BitVec.ofNat 5 i)) * 4 ^ i).sum
def Slot.vmMap (x : Slot) : Nat :=
  ((List.range 8).map fun i => x.savedState (x.vState (BitVec.ofNat 3 i)) * 4 ^ i).sum +
  ((List.range 3).map fun i => x.savedState (x.mState (BitVec.ofNat 2 (i + 1))) * 4 ^ (8 + i)).sum

/-- The 13 dwords of the control block at 0x1280. -/
def Slot.controlBlock (x : Slot) : List Dword :=
  [x.status, x.trcause, x.trpc, x.traddr, x.trwin, x.trnpc, x.trstack, zext x.tenant, x.statesel, x.migthr, x.timecmp,
   x.joinblk, x.owner]

/-- A register's bytes in the area: the spec states none for a void register (log entry 2). -/
def savedBytes (n : Nat) (v : Nat) (st : RegState) (ctr : Nat) : List Byte :=
  if st = .full then leBytes n v else (List.range (n / 8)).flatMap fun i => leBytes 8 (Config.freeDword (ctr + i)).toNat

/-- What SAVE writes: offset and bytes; with `inc`, only the registers whose dirty bit is set (R280). -/
def Slot.savePieces (x : Slot) (k ctr : Nat) (inc : Bool) : List (Nat × List Byte) :=
  ((List.range 8).filterMap fun i => if inc && !x.vdirty.getLsbD i then none
    else some (512 * i, savedBytes 512 (x.readV (BitVec.ofNat 3 i)).toNat (x.vState (BitVec.ofNat 3 i)) (ctr + 64 * i))) ++
  ((List.range 32).filterMap fun i => if inc && i != 0 && !x.dirty.getLsbD i then none
    else some (0x1000 + 8 * i, savedBytes 8 (x.readG (BitVec.ofNat 5 i)).toNat (x.gState (BitVec.ofNat 5 i)) (ctr + 512 + i))) ++
  ((List.range 3).filterMap fun i => if inc && !x.vdirty.getLsbD (9 + i) then none
    else some (0x1100 + 64 * i,
      savedBytes 64 (x.readM (BitVec.ofNat 2 (i + 1))).toNat (x.mState (BitVec.ofNat 2 (i + 1))) (ctr + 544 + 8 * i))) ++
  [(0x11C0, leBytes 8 x.gMap ++ leBytes 8 x.vmMap ++ leBytes 4 (x.toRec k x.pc).pw.toNat ++ leBytes 4 x.recFlags.toNat ++
     leBytes 8 x.pc.toNat ++ leBytes 8 x.dirty.toNat ++ leBytes 8 x.vdirty.toNat ++ List.replicate 16 0),
   (0x1280, x.controlBlock.flatMap fun d => leBytes 8 d.toNat)]

/-- Writes the save area of slot `k`. -/
def State.writeArea (s : State) (k : Nat) (inc : Bool) : State :=
  let s' := ((s.slot k).savePieces k s.freeCtr inc).foldl
    (fun s p => s.writeLs (clusterOf k) (saveArea k + p.1) p.2) s
  { s' with freeCtr := s.freeCtr + 568 }

/-- A synchronising access that has no grant. -/
def Outst.waitsSync (o : Outst) : Bool :=
  match o.op, o.st with
  | .sync .., .ready => true
  | .sync .., .parked _ => true
  | _, _ => false

/-- Parked synchronising accesses are withdrawn, and the first one's instruction is the next one (R280); their destinations stand
as before their issue, but in a halted slot, whose empty registers are saved as void. -/
def Slot.withdrawSync (x : Slot) : Slot :=
  match x.outs.filter Outst.waitsSync with
  | [] => x
  | o :: os =>
    { (if x.occ = .halted then x else (o :: os).foldl Slot.restoreDests x) with
      outs := x.outs.filter (!·.waitsSync), pc := o.pc, waitOn := [] }

/-- Nothing of the strand is outstanding but parked synchronising accesses. -/
def Slot.quiet (x : Slot) : Bool :=
  x.outs.all Outst.waitsSync && x.fatals.isEmpty && x.due.isNone && x.cmd.isNone && x.replay.isNone

/-- A slot may be saved (R280, step 2): a halted one once its stores have left, another once nothing of it is outstanding; and its
strand's stores are visible and it has seen what it saw elsewhere (log entry 22). -/
def State.saveReady (s : State) (k : Nat) : Bool :=
  let x := s.slot k
  (if x.occ = .halted then !x.outs.any Outst.writePending else x.quiet) && s.allVisible x.uid &&
    x.seen.all (s.viewCovers (dieOf k)) && !s.owing k

/-- SYSC replies for a strand that has left its slot fill nothing. -/
def State.orphanSys (s : State) (k : Nat) : State :=
  s.modDie (dieOf k) fun d => { d with
    sysc := d.sysc.map fun e => if e.2.busy ∧ e.2.slot = k then (e.1, { e.2 with slot := 2 ^ 20, reg := 0 }) else e }

/-! ### Displacement (R137, R146, R280) -/

/-- Displaces the strand of slot `k` once none of its registers is empty and its core's run queue has room: it keeps every
register. -/
def State.displace (s : State) (k : Nat) : Option State :=
  let x := (s.slot k).withdrawSync
  if !(s.slot k).quiet || x.anyEmpty || x.occ != .active then none
  else
    let s' := (s.setSlot k x).writeArea k false
    let r := { s.recOf k x.pc with ctx := some { x with occ := .active } }
    (s'.pushRun (coreOf k) r).map fun u => (u.orphanSys k).leave k

/-! ### SAVECMD (R279–R283) -/

/-- Fields of a posted SAVECMD. -/
def saveOp (v : Dword) : Nat := bits v 63 60
def saveTarget (k : Nat) (v : Dword) : Nat := coreOf k * 8 + bits v 58 56
def moveTarget (v : Dword) : Nat := (bits v 55 54 * 40 + bits v 53 48) * 4 + bits v 47 46

/-- A SAVECMD ends with a result. -/
def State.saveDone (s : State) (k : Nat) (r : BitVec 2) : State :=
  (s.modCore (coreOf k) fun c => { c with savestat := r }).finishCmd k

/-- The urgent slot, which SAVE and RESTORE refuse (R146, R280): a halted strand that was in slot 7 before URGCFG.EN was set is
not the urgent strand, and a SAVE takes it. -/
def State.saveRefused (s : State) (t : Nat) : Bool :=
  s.urgentSlot t && !(decide ((s.slot t).occ = .halted) && !(s.core (coreOf t)).urg)

/-- A PURITY trap of a strand that a SAVE takes out of its handler stays with its task (R186). -/
def State.keepTrap (s : State) (k : Nat) : State :=
  let x := s.slot k
  if x.purity.isSome then
    { s with tasks := s.tasks.map fun t => if t.card = x.owner ∧ t.tenant = x.tenant then { t with trap := x.purity } else t }
  else s

/-- SLOT_SAVE (R280); a reserved OP gives BADARG. The model's strand number is not in the area, so the step waits until the
strand's stores are visible (log entry 22). -/
def execSlotSave (s : State) : Res :=
  let k := s.ev.who
  .next <| match s.cmd? k 0x0E1 with
    | some v =>
      if 6 ≤ saveOp v then s.saveDone k 2
      else if saveOp v ≠ 0 then s
      else
        let t := saveTarget k v
        let x := s.slot t
        if t = k ∨ s.saveRefused t ∨ !x.holdsStrand then s.saveDone k 2
        else if x.occ ≠ .halted ∧ x.withdrawSync.anyEmpty then s.saveDone k 1
        else match x.occ with
          | .migrating _ => s.saveDone k 1
          | _ =>
            if !s.saveReady t then s
            else
              let s := ((s.keepTrap t).setSlot t x.withdrawSync).writeArea t (v.getLsbD 59)
              let s := s.modSlot t fun x => { x with dirty := 0, vdirty := 0, outs := [], fatals := [], due := none, async := [] }
              ((s.orphanSys t).leave t).saveDone k 0
    | none => s

/-- The dword at an offset of slot `k`'s save area. -/
def State.areaDword (s : State) (k off : Nat) : Dword := s.lsDword (clusterOf k) (saveArea k + off)

/-- A reserved state code or bit in an area (R280). -/
def State.areaBad (s : State) (k : Nat) : Bool :=
  let g := s.areaDword k 0x11C0; let vm := s.areaDword k 0x11C8
  let w := s.areaDword k 0x11D0
  let c := fun (i : Nat) => s.areaDword k (0x1280 + 8 * i)
  (List.range 32).any (fun i => bits g (2 * i + 1) (2 * i) == 3) || (List.range 11).any (fun i => bits vm (2 * i + 1) (2 * i) == 3) ||
  bits g 1 0 != 0 || bits vm 63 22 != 0 || bits w 31 20 != 0 || bits w 47 38 != 0 ||
  s.areaDword k 0x11F0 != 0 || s.areaDword k 0x11F8 != 0 ||
  bits (c 0) 63 5 != 0 || bits (c 0) 0 0 != 0 || bits (c 1) 63 17 != 0 || bits (c 4) 63 21 != 0 || bits (c 5) 1 1 != 0 ||
  bits (c 7) 63 16 != 0 || bits (c 8) 62 32 != 0 || bits (c 9) 63 32 != 0 || bits (c 9) 30 16 != 0

/-- The slot that an area describes (R280). -/
def State.areaSlot (s : State) (k : Nat) : Slot :=
  let x := s.slot k
  let g := s.areaDword k 0x11C0; let vm := s.areaDword k 0x11C8; let w := s.areaDword k 0x11D0
  let bytes := fun (o n : Nat) => leNat (s.readLs (clusterOf k) (saveArea k + o) n)
  let c := fun (i : Nat) => s.areaDword k (0x1280 + 8 * i)
  let st := c 0
  let owner := c 12
  let tenant : Half := (c 7).extractLsb' 0 16
  let win := s.window owner
  { x with
    g := Vector.ofFn fun i => if i.val = 0 then 0 else dw (bytes (0x1000 + 8 * i.val) 8)
    gst := Vector.ofFn fun i => RegState.ofCode (bits g (2 * i.val + 1) (2 * i.val))
    v := Vector.ofFn fun i => BitVec.ofNat 4096 (bytes (512 * i.val) 512)
    vst := Vector.ofFn fun i => RegState.ofCode (bits vm (2 * i.val + 1) (2 * i.val))
    m := Vector.ofFn fun i => if i.val = 0 then 0 else BitVec.ofNat 512 (bytes (0x1100 + 64 * (i.val - 1)) 64)
    mst := Vector.ofFn fun i =>
      if i.val = 0 then .full else RegState.ofCode (bits vm (2 * i.val + 15) (2 * i.val + 14))
    p := w.extractLsb' 0 8 ||| 1
    pc := s.areaDword k 0x11D8 &&& ~~~ 3
    prio := w.extractLsb' 34 2, cls := w.getLsbD 33, sw := w.getLsbD 36
    pt := st.getLsbD 4, frozen := st.getLsbD 3, pmode := st.getLsbD 2, mode := st.getLsbD 1
    trcause := c 1, trpc := c 2, traddr := c 3, trwin := c 4, trnpc := c 5, trstack := c 6
    tenant := tenant, statesel := c 8, migthr := c 9, timecmp := c 10, joinblk := c 11, owner := owner
    org := win.1, sub := win.2, dirty := 0, vdirty := 0, occ := .active, outs := [], fatals := [], due := none, async := []
    replay := none, sleeping := none, sysc := 0, cmd := none, remote := Vector.replicate 4 0, mark := none
    born := s.timer.toNat, uid := s.nextN, seq := 0, gather := none, seen := none, bar := 0, rel := 0, owed := []
    purity := if st.getLsbD 1 then (s.ownerTask owner tenant).bind (·.trap) else none, displ := false, waitOn := [] }

/-- The PURITY trap that a task keeps goes back to the strand that is restored in its handler (R186). -/
def State.dropTrap (s : State) (x : Slot) : State :=
  if x.purity.isSome then
    { s with tasks := s.tasks.map fun t => if t.card = x.owner ∧ t.tenant = x.tenant then { t with trap := none } else t }
  else s

/-- SLOT_RESTORE (R280). -/
def execSlotRestore (s : State) : Res :=
  let k := s.ev.who
  .next <| match s.cmd? k 0x0E1 with
    | some v =>
      if saveOp v ≠ 1 then s
      else
        let t := saveTarget k v
        if t = k ∨ s.urgentSlot t then s.saveDone k 2
        else if (s.slot t).occ ≠ .empty then s.saveDone k 1
        else if s.areaBad t then s.saveDone k 2
        else
          let x := s.areaSlot t
          (({ s.setSlot t x with nextN := s.nextN + 1 }).dropTrap x).saveDone k 0
    | none => s

/-! ### Streaming local stores (R281) -/

/-- The 64 KiB of full/empty bits of a cluster, one bit per dword, 1 for full. -/
def State.feImage (s : State) (cl : Nat) : List Byte :=
  (List.range 65536).map fun j => BitVec.ofNat 8 (((List.range 8).map fun b =>
    if s.feEmpty.contains (cl * 2 ^ 19 + 8 * j + b) then 0 else 2 ^ b).sum)

/-- The device-space address of page `i` of a core's image. -/
def State.streamVa (s : State) (k i : Nat) : Dword :=
  (s.die (dieOf k)).lsbase + dw ((s.core (coreOf k)).vcore.toNat / 4 * 2 ^ 23 + i * 65536)

/-- Goes on with the next page, or ends after the full/empty bits. -/
def State.streamNext (s : State) (k : Nat) (v : Dword) : State :=
  let s := (s.dropFault (.issue k)).dropRequests (.issue k)
  if bits v 45 0 = 64 then s.saveDone k 0 else s.modSlot k fun x => { x with cmd := some (0x0E1, v + 1) }

/-- A stream ends with FAULT on a FATAL reply. -/
def State.streamFault (s : State) (k : Nat) : State := ((s.dropFault (.issue k)).dropRequests (.issue k)).saveDone k 3

/-- Writes page `bits v 45 0` of the image: 64 pages of data, then the full/empty bits. -/
def lssaveM (k : Nat) (v : Dword) : M Unit := do
  let s ← get
  let i := bits v 45 0
  let cl := clusterOf k
  let w := { s.whoSlot k (.issue k) with tenant := 0 }
  let va := s.streamVa k i
  let p ← placeWrite w va 65536 5
  match p with
  | .mem pa => do
    let s ← get
    if !s.announceRoom w.die then throw (.wait id)
    let img := if i < 64 then sliceMem s.ls (lsKey cl (i * 65536)) 65536 else Memory.writeBytes [] 0 (s.feImage cl)
    set (s.postWrite w.die w.uid (.frame pa img)).1
  | p =>
    let bs := if i < 64 then s.readLs cl (i * 65536) 65536 else s.feImage cl
    for j in List.range 16 do
      let _ ← writePlace w (va + dw (4096 * j)) p ((bs.drop (4096 * j)).take 4096)
  modify fun s => s.streamNext k v

/-- LSSAVE (R281), one page a step. -/
def execLssave (s : State) : Res :=
  let k := s.ev.who
  .next <| match s.cmd? k 0x0E1 with
    | some v => if saveOp v ≠ 2 then s else runM (lssaveM k v) (fun _ _ s => s.streamFault k) (fun _ s => s) s
    | none => s

/-- A record that the hardware keeps, as its 128 bytes in the plinth now stand: other bytes are another strand's record. -/
def StrandRec.reread (r : StrandRec) (bs : List Byte) (uid cl : Nat) : StrandRec :=
  if r.bytes = bs then r else { recOfBytes bs uid cl with age := r.age, place := r.place }

/-- The deque, the run queue and the mailboxes of a core hold what their bytes in the plinth say (R249): a restored image changes
the records and messages that the hardware keeps there, and not how many there are (R281; log entry 39). -/
def State.rereadPlinth (s : State) (c : Nat) : State :=
  let x := s.core c
  let at_ := fun (o n : Nat) => s.readLs (c / 4) (plinthOff c + o) n
  { s.modCore c fun y => { y with
      deque := x.deque.zipIdx.map fun e => e.1.reread (at_ ((x.dqHead + e.2) % 64 * 128) 128) (s.nextN + e.2) (c / 4)
      runq := x.runq.map fun r => r.reread (at_ (0x2000 + r.place * 128) 128) (s.nextN + 64 + r.place) (c / 4)
      mbox := Vector.ofFn fun i => (x.mbox.get i).map fun bs => at_ (0x3000 + i.val * 256) bs.length } with
    nextN := s.nextN + 96 }

/-- Reads page `bits v 45 0` of the image back. -/
def lsloadM (k : Nat) (v : Dword) : M Unit := do
  let s ← get
  let i := bits v 45 0
  let cl := clusterOf k
  let w := { s.whoSlot k (.issue k) with tenant := 0 }
  let bs ← readMem w (s.streamVa k i) 65536 4
  modify fun s =>
    let s := if i < 60 then s.storeLs w.die cl (i * 65536) bs
      else if i < 64 then (s.storeLs w.die cl (i * 65536) bs).rereadPlinth (cl * 4 + (i - 60))
      else { s with feEmpty := (s.feEmpty.filter fun f => f / 2 ^ 19 ≠ cl) ++
        (bs.zipIdx.flatMap fun e => (List.range 8).filterMap fun b =>
          if e.1.getLsbD b then none else some (cl * 2 ^ 19 + 8 * e.2 + b)) }
    s.streamNext k v

/-- LSLOAD (R281), one page a step. -/
def execLsload (s : State) : Res :=
  let k := s.ev.who
  .next <| match s.cmd? k 0x0E1 with
    | some v => if saveOp v ≠ 3 then s else runM (lsloadM k v) (fun _ _ s => s.streamFault k) (fun _ s => s) s
    | none => s

/-! ### Moving a core (R282, R283) -/

/-- The slots that a MOVE takes: all of the core but the writer's and an urgent slot. -/
def State.movedSlots (s : State) (k : Nat) : List Nat :=
  ((List.range 8).map fun i => 8 * coreOf k + i).filter fun j => j != k && !s.urgentSlot j

/-- The target meets the conditions of R282, and the source holds no accumulator slot. -/
def State.moveOk (s : State) (k t : Nat) : Bool :=
  let x := s.core t
  ((List.range 8).all fun i => (s.slot (8 * t + i)).occ = .empty) && !x.urgcfg.msb && x.accmask == 0 && !x.leaseHeld &&
    x.fwd.isNone && !s.moveInto t && (s.core (coreOf k)).accmask == 0

/-- The contexts and the plinth part go to the target, with what the part holds for the core: deque, run queue and
mailboxes. The strands start there, with DIRTY and VDIRTY all ones (R280). -/
def State.moveCore (s : State) (k t : Nat) : State :=
  let c := coreOf k
  let s := (s.movedSlots k).foldl (fun s j =>
    let x := s.slot j
    if x.holdsStrand then
      (s.setSlot (8 * t + j % 8) { x with seen := some (s.sawAt j), dirty := 0x1FFFFFFFE, vdirty := 0xEFF }).modSlot j fun x => { x with
        occ := .empty, async := [], sleeping := none, sysc := 0 }
    else s) s
  let img := sliceMem s.ls (lsKey (c / 4) (plinthOff c)) 65536
  let src := lsKey (c / 4) (plinthOff c); let dst := lsKey (t / 4) (plinthOff t)
  let lo := src / 8; let lo' := dst / 8
  let s := { s with
    ls := replaceMem s.ls dst 65536 img
    lsStamp := (s.lsStamp.filter fun (e : Nat × Stamp) => decide (e.1 < dst)) ++
      ((s.lsStamp.filter fun (e : Nat × Stamp) => decide (src ≤ e.1 ∧ e.1 < src + 65536)).map fun (e : Nat × Stamp) => (e.1 - src + dst, e.2)) ++
      s.lsStamp.filter fun (e : Nat × Stamp) => decide (dst + 65536 ≤ e.1)
    feEmpty := (s.feEmpty.filter fun f => !(decide (lo' ≤ f ∧ f < lo' + 8192))) ++
      (s.feEmpty.filterMap fun f => if lo ≤ f ∧ f < lo + 8192 then some (f - lo + lo') else none) }
  let x := s.core c
  (s.modCore t fun y => { y with
      deque := x.deque, runq := x.runq, mbox := x.mbox, mpend := x.mpend, dqHead := x.dqHead, asleep := false }).modCore c
    fun y => { y with deque := [], runq := [], mbox := Vector.replicate 16 none, mpend := [], moving := false }

/-- CORE_MOVE (R282): the forwarding entry is set once the source's slots are quiet, then the contexts move and the strands
start. -/
def execCoreMove (s : State) : Res :=
  let k := s.ev.who
  let c := coreOf k
  .next <| match s.cmd? k 0x0E1 with
    | some v =>
      let t := moveTarget v
      if saveOp v ≠ 4 then s
      else if (s.core c).moving then (s.moveCore k t).saveDone k 0
      else if 40 ≤ bits v 53 48 then s.saveDone k 2
      else if !s.moveOk k t then s.saveDone k 1
      else if (s.movedSlots k).any fun j =>
          let x := s.slot j
          !x.outs.isEmpty || x.cmd.isSome || x.due.isSome || !x.fatals.isEmpty || x.replay.isSome || match x.occ with
            | .migrating _ => true
            | .reserved _ => true
            | _ => false then s
      else if (s.core t).runq ≠ [] ∨ (s.core t).deque ≠ [] then s
      else s.modCore c fun x => { x with fwd := some t, moving := true }
    | none => s

/-- FWDCLR (R283): what arrived while the entry was set is sent on first, and then the entry is clear. -/
def execFwdclr (s : State) : Res :=
  let k := s.ev.who
  .next <| match s.cmd? k 0x0E1 with
    | some v =>
      if saveOp v ≠ 5 ∨ (s.core (coreOf k)).fwdq ≠ [] then s
      else (s.modCore (coreOf k) fun x => { x with fwd := none }).saveDone k 0
    | none => s

/-- A fill of a register of slot `k` from a unit; `sys` marks the reply to a SYSC, which the slot no longer awaits. A fill of a slot
that holds no strand is lost (R319), and counted (R283). -/
def State.fillHere (s : State) (k : Nat) (r : BitVec 5) (x : Dword) (sys : Bool) : State :=
  if !(s.slot k).holdsStrand then s.modDie (dieOf k) fun d => { d with drops := d.drops + 1 }
  else
    let s := s.fillReg k r x
    if sys then s.modSlot k fun y => { y with sysc := y.sysc - 1 } else s

/-- A fill from a unit goes to its slot, or waits at a core with a forwarding entry (R283). -/
def State.deliverFill (s : State) (k : Nat) (r : BitVec 5) (x : Dword) (sys : Bool) : State :=
  if (s.core (coreOf k)).fwd.isSome then s.modCore (coreOf k) fun c => { c with fwdq := c.fwdq ++ [(k, r, x, sys)] }
  else s.fillHere k r x sys

/-- FORWARD_DELIVER (R283): the oldest waiting fill goes on to the target, and further on if that one has been moved too. -/
def execForwardDeliver (s : State) : Res :=
  let c := s.ev.who
  .next <| match (s.core c).fwdq, s.forwarded c with
    | (k, r, x, sys) :: rest, some t =>
      if t = c then s else (s.modCore c fun y => { y with fwdq := rest }).deliverFill (8 * t + k % 8) r x sys
    | _, _ => s

end Sys2Proof.Machine
end

