-- ==== Sys2Proof/Machine/TaskDev.lean ====
section
/-! DEFINITION. What the dispatcher and the scheduler of a die do with tasks: dispatch, start, retirement, the fault queue,
the guaranteed class, stages and the urgent slot (R125–R148, R163, R193–R195). -/

namespace Sys2Proof.Machine

/-! ### Dispatch (R127, R193) -/

/-- The dispatcher of a task's die as an accessor. -/
def Task.who (t : Task) : Who := whoUnit t.die t.tenant (.task t.n) 0

/-- The requests and faults of a task's step are over. -/
def State.clearTask (s : State) (n : Nat) : State := (s.dropFault (.task n)).dropRequests (.task n)

/-- Pins pages (R128, R193): the frames pinned, once each page; a remote page is not pinned. -/
def pinPages (w : Who) : List Nat → M (List Nat)
  | [] => pure []
  | a :: rest => do
    let p ← placeRead w (dw a) 65536 4 0
    let fs ← (match p with
      | .mem pa => do
        let f := pa / 65536 * 65536
        let s ← get
        if 0xFFFF ≤ (s.frameDesc f).pincnt then throw (.fatal 0x23 (dw a))
        set (s.pinFrame f)
        pure [f]
      | _ => pure [] : M (List Nat))
    let more ← pinPages w rest
    pure (fs ++ more)

/-- Pages of the code span of a card: the page of ENTRY and the next pages while R189 holds. -/
def State.spanPages (s : State) (t : Task) : List Nat :=
  let page := rd t.img 0 8 / 65536
  (List.range (1 + s.codeSpan (.tenant t.tenant) (page + 1) 15)).map fun i => (page + i) * 65536

/-- Pages of a card's regions: the read regions, or the write regions. -/
def cardPages (img : List Byte) (reads : Bool) : List Nat :=
  (presentRegions img).flatMap fun r => if (r.1 < 2) = reads then regionPages r.2 else []

/-- A task leaves its queue. -/
def State.unqueue (s : State) (t : Task) : State := s.setQueue t.die t.queue ((s.queueOf t.die t.queue).erase t.n)

/-- R193 for a pure task before a core is chosen: pins, watches, key and lookup, once the Cast units have dealt with the earlier
writes to its read frames (R196, R463). With CASTCFG.LOOK clear no table is probed (R198). -/
def lookM (t : Task) : M Unit := do
  let s ← get
  let w := t.who
  let pins ← pinPages w (s.spanPages t ++ cardPages t.img true)
  let k ← taskKey w t.img
  let s ← get
  if (k.any fun x => s.invalWaits x.2) then throw (.wait id)
  let look := s.castcfg.getLsbD 63
  match k with
  | none =>
    set ((if look then s.castCount t.die 16 else s).modTask t.n fun t => { t with pins := pins, looked := true })
  | some (key, reads) =>
    let room := s.watchRoom (2 * t.n) reads
    let s := if room then reads.foldl (fun s f => s.addWatch f (2 * t.n)) s else s
    let hit := if look then s.castHit key t.tenant t.img else none
    match hit with
    | some (i, e) => match s.beginHit i e with
      | none => throw (.fatal 0x23 0)
      | some s =>
        set ((((s.castCount (castDie key) 48).dropWatcher (2 * t.n)).unqueue t).modTask t.n fun t =>
          { t with pins := pins, looked := true, phase := .hit, reads := e.res0 ++ e.res1, part := 0 })
    | none =>
      let s := if look then s.castCount (castDie key) 32 else s
      let s := if look && !room then s.castCount t.die 16 else s
      set (s.modTask t.n fun t => { t with
        pins := pins, looked := true, key := if room then some key else none, reads := if room then reads else [] })
  modify (·.clearTask t.n)

/-- Two tasks' LOCAL ranges overlap (R127). -/
def localsMeet (a b : List Byte) : Bool :=
  let ls := fun (img : List Byte) => ((presentRegions img).map (·.2)).filter regionLocal
  (ls a).any fun r => (ls b).any fun q => rangesMeet (r.2.2.1 * 64) r.2.1 (q.2.2.1 * 64) q.2.1

/-- A task holds the core of its slot. -/
def Task.holdsCore (t : Task) : Bool :=
  match t.phase with
  | .dispatching | .running | .retiring | .offering | .releasing => !(t.phase == .retiring || t.phase == .releasing) || t.uid != 0
  | .refused | .faulting | .faulted => t.uid != 0
  | _ => false

/-- A LOCAL range of a card overlaps the destination of an MCAST on a cluster (R452). -/
def State.mcastMeets (s : State) (img : List Byte) (cl : Nat) : Bool :=
  s.cmds.any fun m => m.w.w0.toNat % 256 == 0x13 && m.writes.any fun r => r.1 == 2 ^ 40 + cl &&
    (((presentRegions img).map (·.2)).filter regionLocal).any fun q => rangesMeet (q.2.2.1 * 64) q.2.1 r.2.1 (r.2.2 - r.2.1)

/-- The slot that a core gives to a dispatch (R127). -/
def State.coreSlot (s : State) (t : Task) (c : Nat) : Option Nat :=
  if (s.core c).stage ≠ t.queue ∨ (s.takeRec c).isSome ∨ s.mcastMeets t.img (c / 4) then none
  else if s.tasks.any fun o => o.n != t.n && o.holdsCore && coreOf o.slot == c && localsMeet t.img o.img then none
  else ((List.range 8).map fun i => 8 * c + i).find? s.freeSlot

/-- The core and slot that the dispatcher chooses: the first candidate after the core it chose last for the queue. -/
def State.chooseCore (s : State) (t : Task) : Option Nat :=
  let last := (s.die t.die).lastCore.getD t.queue 159
  (List.range 160).findSome? fun i => s.coreSlot t (t.die * 160 + (last + 1 + i) % 160)

/-- A refused card waits at the head of its queue until its entry is written (R132). -/
def State.queueBlocked (s : State) (d q : Nat) : Bool :=
  s.tasks.any fun t => t.die == d && t.queue == q && t.phase == .refused && t.uid == 0

/-- Releases every pin of a task. -/
def State.unpinTask (s : State) (n : Nat) : State :=
  match s.tasks.find? fun t => t.n = n with
  | none => s
  | some t => (t.pins.foldl State.unpinFrame s).modTask n fun t => { t with pins := [] }

/-- The dispatch fails (R128): pins and slot are free again, and the task goes to the fault queue. -/
def State.failDispatch (s : State) (t : Task) (sub : Byte) : State :=
  let s := ((s.clearTask t.n).unpinTask t.n).dropWatcher (2 * t.n)
  let s := if t.phase = .dispatching ∧ (s.slot t.slot).occ = .reserved t.n then
      s.modSlot t.slot fun x => { x with occ := .empty } else s
  (s.unqueue t).refuseTask t.n 0x07 sub 0xFFFFFFFF

/-- DISPATCH (R127): the first task of a queue; a pure one is looked up first (R193), then a slot is reserved. -/
def execDispatch (s : State) : Res :=
  .next <| if s.queueBlocked s.ev.who s.ev.n then s
    else match s.firstTask s.ev.who s.ev.n with
      | none => s
      | some t =>
        if cardPure t.img && !t.looked then runM (lookM t) (fun sub _ s => s.failDispatch t sub) (fun _ s => s) s
        else match s.chooseCore t with
          | none => s
          | some k =>
            let s := (s.unqueue t).modTask t.n fun t => { t with phase := .dispatching, slot := k }
            let s := s.modDie t.die fun d => { d with lastCore := d.lastCore.put t.queue (coreOf k % 160) }
            (s.modSlot k fun x => { x with occ := .reserved t.n }).modCore (coreOf k) fun c => { c with asleep := false }

/-! ### Start (R128, R163) -/

/-- A listed stream of a batch at its dispatch (R163). -/
def startStream (w : Who) (id : Nat) : M Unit := do
  let s ← get
  if scbState (s.scb id) = 6 then modify fun s => (s.scbStep id fun r => setQueued r false).release id
  else
    let swapped := scbEvkind (s.scb id) = 1
    modify (·.scbStep id fun r => setPinned (setQueued r false) true)
    if swapped then swapIn w id

/-- The record of a task's root strand (R128). -/
def State.rootRec (s : State) (t : Task) : StrandRec where
  pc := dw (rd t.img 0 8)
  pw := 1
  flags := BitVec.ofNat 32 (t.tenant.toNat * 65536 + cardPrio t.img * 4 +
    (if cardCtrl t.img / 64 % 2 == 1 && (((t.launch.bind fun n => s.launches.find? fun l => l.n = n).map (·.cls)).getD true)
      then 2 else 0) + (if cardPure t.img then 1 else 0))
  g := [0, 0, t.card, dw (rd t.img 8 8), dw (rd t.img 0x10 4), dw (t.stream.getD 0), 0, 0, 0, 0, 0, 0]
  joinblk := 0
  owner := t.card
  uid := s.nextN
  cl := clusterOf t.slot

/-- The die has yet to see a write that its read frames held when a task's key was made (R193, R465). -/
def State.readsBehind (s : State) (t : Task) : Bool :=
  t.key.isSome && s.writes.any fun x => x.performed && x.todo.contains t.die && t.reads.any fun f => x.data.meets f 65536

/-- TASK_START: pins, LOCAL reads, the batch's streams, STATUS 2, and the root strand in the reserved slot. A task with a key sees
what its key was made of (R465). -/
def startM (t : Task) : M Unit := do
  let w := t.who
  let s ← get
  if s.readsBehind t then throw (.wait id)
  let pages := if t.looked then cardPages t.img false else
    cardPages t.img true ++ cardPages t.img false
  let pins ← pinPages w pages
  for r in (presentRegions t.img).filter fun r => decide (r.1 < 2) && regionLocal r.2 do
    let bs ← readMem w (dw r.2.1) r.2.2.1 4
    modify (·.storeLs t.die (clusterOf t.slot) (r.2.2.2.1 * 64) bs)
  for id in (t.batch.map (·.2.2)).getD [] do
    startStream w id
  writeStatus w t.card 2
  modify fun u =>
    let u := ({ u.startRec t.slot (s.rootRec t) with nextN := u.nextN + 1 }).clearTask t.n
    u.modTask t.n fun t => { t with
      phase := .running, pins := t.pins ++ pins, uid := s.nextN, root := false, strands := 0, part := 0, waits := [] }

/-- A task in a phase. -/
def State.taskIn (s : State) (n : Nat) (ph : TaskPhase) : Option Task := s.tasks.find? fun t => decide (t.n = n ∧ t.phase = ph)

/-- TASK_START (R128). The root strand's number is taken before the step's own writes. -/
def execTaskStart (s : State) : Res :=
  .next <| match s.taskIn s.ev.who .dispatching with
    | none => s
    | some t => match startM t { s with nextN := s.nextN + 1 } with
      | .ok r => (r.2.modTask t.n fun t => { t with uid := s.nextN }).modSlot t.slot fun x => { x with uid := s.nextN }
      | .error (.wait f) => f s
      | .error (.fatal sub _) => s.failDispatch t sub
      | .error (.trap _) => s

/-! ### Retirement (R129, R194, R195) -/

/-- Pieces of the LOCAL write regions to copy out: address, local-store offset, length. -/
def copyChunks : Nat → Nat → Nat → Nat → List (Nat × Nat × Nat)
  | 0, _, _, _ => []
  | fuel + 1, va, off, n =>
    if n = 0 then []
    else
      let k := min n (4096 - va % 4096)
      (va, off, k) :: copyChunks fuel (va + k) (off + k) (n - k)

/-- All of a card's pieces. -/
def outChunks (img : List Byte) : List (Nat × Nat × Nat) :=
  ((presentRegions img).filter fun r => decide (2 ≤ r.1) && regionLocal r.2).flatMap fun r =>
    copyChunks (r.2.2.1 / 4096 + 2) r.2.1 (r.2.2.2.1 * 64) r.2.2.1

/-- Step 1 of R129: one piece is copied out. -/
def copyOutM (t : Task) : M Unit := do
  match (outChunks t.img)[t.part]? with
  | some (va, off, n) =>
    let s ← get
    let _ ← writeMem t.who (dw va) (s.readLs (clusterOf t.slot) off n) 5
    modify fun s => (s.clearTask t.n).modTask t.n fun t => { t with part := t.part + 1 }
  | none => modify fun s => s.modTask t.n fun t => { t with phase := .retiring, part := 0, waits := [] }

/-- One item of a hit's placement (R194); after the last one the holds on the result frames go. -/
def hitM (t : Task) : M Unit := do
  match hitItem t.img t.part, t.reads[t.part]? with
  | some (r, j), some f =>
    let a ← placePage t.who r j f
    modify fun s => (s.clearTask t.n).modTask t.n fun t => { t with part := t.part + 1, waits := t.waits ++ a }
  | _, _ => modify fun s => (t.reads.foldl State.lowerFrame s).modTask t.n fun t => { t with
      phase := .retiring, part := 0, reads := [] }

/-- A stream of a batch when the batch retires (R163, R170). -/
def State.retireStream (s : State) (id : Nat) : State :=
  let dead := scbState (s.scb id) = 6
  let s := if scbState (s.scb id) = 0 then s else s.scbStep id fun r => setPinned r false
  if dead then s.release id else if scbState (s.scb id) = 2 then s.settle id else s

/-- A tile command of the task is not over. -/
def State.taskBusy (s : State) (t : Task) : Bool := s.cmds.any fun m => m.owner == t.card && m.tenant == t.tenant

/-- Step 2 of R129: the task's writes meet R111, those of its tile commands too. Once these are over it waits for every write that
is on its way then. -/
def retiringM (t : Task) : M Unit := do
  let s ← get
  if t.part = 0 then
    if s.taskBusy t then throw (.wait id)
    set (s.modTask t.n fun t => { t with part := 1, waits := t.waits ++ s.writes.map (·.n) })
  else
    if !t.waits.all s.writeDone then throw (.wait id)
    for d in [0, 1, 2, 3] do
      fenceTouched d (.task t.n)
    modify fun s =>
      let s := ((t.batch.map (·.2.2)).getD []).foldl State.retireStream (s.clearTask t.n)
      let offers := t.key.isSome && !t.taint
      (if offers then s else s.dropWatcher (2 * t.n)).modTask t.n fun t => { t with
        phase := if offers then .offering else .releasing, part := 0, waits := [] }

/-- The offer of R195: a read frame that has been written since its watch taints the task. One that a refused raise ends changes
nothing but CASTSTAT.DROPPED (R79). -/
def offerM (t : Task) : M Unit := do
  let s ← get
  let dirty := t.reads.any fun f => (s.die (homeDie f)).inval.contains f || !(s.frameDesc f).watch
  let _ ← orFatal (castInsert t.who (t.taint || dirty) t.img (t.key.getD []) t.reads) fun _ _ => do
    modify (·.castCount (castDie (t.key.getD [])) 0)
    pure false
  modify fun s => ((s.clearTask t.n).dropWatcher (2 * t.n)).modTask t.n fun t => { t with phase := .releasing }

/-- A card that its counter makes ready is queued, unless its task is still queued or runs (R130). -/
def TaskPhase.requeues (p : TaskPhase) : Bool := p == .waiting || p == .popped || p == .faulted || p == .unread

/-- Decrements PREDCNT of a successor (R129 step 5, R130). DESIGN CHOICE: a decrement that finds zero is counted, and has its
entry, at the successor's home die, whose bank finds it (log entry 60). -/
def decrement (t : Task) (succ : Dword) : M Unit := do
  let w := t.who
  let p ← cardPlace w succ
  match p with
  | .error e => modify (·.refuseCard t.die succ t.tenant t.launch e.1 e.2)
  | .ok _ =>
    let q ← placeWrite w (succ + 0x14) 4 2
    let s ← get
    match q with
    | .mem pa =>
      let n := leNat (s.readHome pa 4)
      if n = 0 then
        modify fun s => (s.modDie (homeDie pa) fun d => { d with schedErr := d.schedErr + 1 }).postFaultEntry (homeDie pa)
          (faultEntry succ 0x01 0xE4 0xFFFFFFFF 0 0) none
      else
        let _ ← homeWrite { w with uid := 0 } q (leBytes 4 (n - 1))
        if n = 1 && (s.cardTask succ t.tenant).all (·.phase.requeues) then
          let s ← get
          let img := s.readHome (pa - 0x14) 128
          let _ ← queueCard (whoUnit (homeDie pa) t.tenant (.task t.n) 0) (homeDie pa) (cardStage img) succ img t.launch
    | _ => modify (·.refuseCard t.die succ t.tenant t.launch 0x07 0x27)

/-- A successor that does not translate has one fault queue entry (R121). -/
def succM (t : Task) (off : Nat) : M Unit := do
  let succ := dw (rd t.img off 8)
  if succ ≠ 0 then
    orFatal (decrement t succ) fun sub _ => modify (·.refuseCard t.die succ t.tenant t.launch 0x07 sub)
  modify fun s => (s.clearTask t.n).modTask t.n fun t => { t with part := t.part + 1 }

/-- The task is over: its batch or recompute slot is free, and a recomputed stream leaves EVICTED (R162, R175). -/
def State.endTask (s : State) (t : Task) : State :=
  let s := { s with tasks := s.tasks.filter fun x => x.n ≠ t.n }
  let d := match t.stream, t.batch with
    | some id, _ => scbHome id
    | none, some (_, _, id :: _) => scbHome id
    | _, _ => t.die
  let s := match t.batch with
    | some (m, j, _) => s.modDie d fun x => { x with
        batches := x.batches.filter fun b => !(b.model == m && b.slot == j && b.recomp == t.stream.isSome) }
    | none => s
  match t.stream with
  | some id => if scbState (s.scb id) = 5 then
      (s.unevict id).modDie d fun x => { x with evicted := x.evicted.filter (· ≠ id) }
      else s
  | none => s

/-- Steps 3–5 of R129: STATUS 3 and the pins, SUCC0, SUCC1. -/
def releasingM (t : Task) : M Unit := do
  match t.part with
  | 0 =>
    writeStatus t.who t.card 3
    modify fun s => ((s.clearTask t.n).unpinTask t.n).modTask t.n fun t => { t with part := 1 }
  | 1 => succM t 0x20
  | 2 => succM t 0x28
  | _ => modify (·.endTask t)

/-- STATUS 4; a FATAL reply on it is dropped (R119, R131). -/
def faultingM (t : Task) : M Unit := do
  orFatal (writeStatus t.who t.card 4) fun _ _ => pure ()
  modify fun s => (s.clearTask t.n).modTask t.n fun t => { t with phase := .faulted }

/-- A FATAL reply while a task retires faults it (R119, R129, R194); a hit's holds on its result frames go. -/
def State.failRetire (s : State) (t : Task) (sub : Byte) : State :=
  let s := s.clearTask t.n
  let s := if t.phase = .hit then t.reads.foldl State.lowerFrame s else s
  (s.dropWatcher (2 * t.n)).refuseTask t.n 0x07 sub (if t.uid = 0 then 0xFFFFFFFF else whereWord t.slot)

/-- TASK_RETIRE (R129, R194): the next step of a task that has ended or hit, or of a faulted one's STATUS. -/
def execTaskRetire (s : State) : Res :=
  .next <| match s.tasks.find? fun t => t.n = s.ev.who with
    | none => s
    | some t =>
      let run := fun (m : M Unit) => runM m (fun sub _ s => s.failRetire t sub) (fun _ s => s) s
      match t.phase with
      | .running => if t.root ∧ t.strands = 0 then run (copyOutM t) else s
      | .hit => run (hitM t)
      | .retiring => run (retiringM t)
      | .offering => run (offerM t)
      | .releasing => run (releasingM t)
      | .faulting => run (faultingM t)
      | _ => s

/-- HELD_CARD_ENQUEUE (R125): the card that has been held longest for a queue enters it. -/
def execHeldCardEnqueue (s : State) : Res :=
  let d := s.ev.who; let q := s.ev.n
  .next <| if queueCap q ≤ (s.queueOf d q).length then s
    else match (s.die d).held.findSome? fun n => (s.taskIn n .held).filter fun t => t.queue == q with
      | none => s
      | some t =>
        let out := fun (s : State) => (s.modDie d fun x => { x with held := x.held.erase t.n }).clearTask t.n
        runM (do
            writeStatus t.who t.card 1
            modify fun s => (out s).setQueue d q (s.queueOf d q ++ [t.n]) |>.modTask t.n fun t => { t with phase := .queued })
          (fun sub _ s => (out s).refuseTask t.n 0x07 sub 0xFFFFFFFF) (fun _ s => s) s

/-! ### The fault queue (R131, R132) -/

/-- The strands of a faulted task stop (R131). -/
def State.stopStrands (s : State) (card : Dword) (t : Half) : State :=
  { s with slots := s.slots.map fun e =>
      if e.2.owner = card ∧ e.2.tenant = t ∧ e.2.occ = .active then (e.1, { e.2 with occ := .stopped }) else e }

/-- FAULT_ENTRY_POST (R131, R132): the oldest waiting entry of a die is written once there is room; the other strands of the task,
or of the tile, stop. A card that could not be read stands faulted with no STATUS written (R121, R123). -/
def execFaultEntryPost (s : State) : Res :=
  let d := s.ev.who
  .next <| match (s.die d).faultWait with
    | [] => s
    | (e, task) :: rest =>
      if 1024 ≤ (s.die d).faultq.length then s
      else
        let s := s.modDie d fun x => { x with faultq := x.faultq ++ [e], faultWait := rest }
        let owner := dw (rd e 0 8)
        match task.bind fun n => s.tasks.find? fun t => t.n = n with
        | some t => ((s.dropWatcher (2 * t.n)).modTask t.n fun t => { t with
            phase := if t.phase = .unread then .faulted else .faulting }).stopStrands t.card t.tenant
        | none => match s.sweepLaunch owner with
          | some l =>
            let tile := bits owner 47 0
            (s.modLaunch l.n fun l => { l with bad := if l.bad.contains tile then l.bad else l.bad ++ [tile] }).stopStrands owner l.tenant
          | none => s

/-! ### The guaranteed class (R133–R138) -/

/-- Guaranteed work of a die that has waited 1,024 cycles with no core that qualifies (R137): a task, or a SWEEP strand in a run
queue or at its launch unit. -/
def State.guaranteedWaits (s : State) (d : Nat) : Bool :=
  (s.launches.any fun l => s.guaranteedNow d (some l.n) && l.held.any fun (e : Nat × Nat) =>
    workerCore e.1 / 160 == d && decide (e.2 + 1024 ≤ s.timer.toNat)) ||
  ((List.range 16).any fun q => match s.firstTask d q with
    | some t => s.taskGuaranteed t && decide (t.age + 1024 ≤ s.timer.toNat) && (s.chooseCore t).isNone
    | none => false) ||
  s.cores.any fun e => e.1 / 160 == d && (e.2.runq.any fun r =>
    r.flags.getLsbD 4 && s.recGuaranteed d r && decide (r.age + 1024 ≤ s.timer.toNat)) &&
    (List.range 8).all fun i => decide ((s.slot (8 * e.1 + i)).occ ≠ .empty) || s.urgentSlot (8 * e.1 + i)

/-- A best-effort strand that may be displaced (R137). -/
def State.displaceable (s : State) (d k : Nat) : Bool :=
  let x := s.slot k
  dieOf k == d && decide (x.occ = .active) && !x.frozen && !s.urgentSlot k &&
    !(x.cls && s.guaranteedNow d ((s.strandLaunch x.owner x.tenant).map (·.n)))

/-- The strand that DISPLACE takes: the lowest priority, then the youngest (R137). -/
def State.displaced (s : State) (d : Nat) : Option Nat :=
  ((s.slots.map (·.1)).filter (s.displaceable d)).foldl
    (fun (b : Option Nat) k => match b with
      | none => some k
      | some o =>
        let x := s.slot k; let y := s.slot o
        if x.prio.toNat < y.prio.toNat ∨ (x.prio = y.prio ∧ y.born < x.born) then some k else b) none

/-- The strand of a die that has stopped issuing for its displacement (R280). -/
def State.displacing (s : State) (d : Nat) : Option Nat :=
  (List.find? (fun e : Nat × Slot => dieOf e.1 == d && e.2.displ && decide (e.2.occ = .active)) s.slots).map (·.1)

/-- DISPLACE (R137, R280): the chosen strand stops issuing, and is saved once none of its registers is empty. -/
def execDisplace (s : State) : Res :=
  .next <| match s.displacing s.ev.who with
    | some k => (s.displace k).getD s
    | none =>
      if !s.guaranteedWaits s.ev.who then s
      else match s.displaced s.ev.who with
        | none => s
        | some k =>
          let u := s.modSlot k fun x => { x with displ := true }
          (u.displace k).getD u

/-- Fields of a reservation entry (R133). -/
def State.resvEntry (s : State) (i : Nat) : List Byte := s.resv.getD i (List.replicate 64 0)
def resvPeriod (e : List Byte) : Nat := rd e 4 4

/-- Reloads the counters of a reservation entry on a die (R136). -/
def State.reload (s : State) (d i : Nat) : State :=
  let e := s.resvEntry i
  s.modDie d fun x => { x with resvCtr := x.resvCtr.put i (rd e 8 4, rd e 0xC 4, rd e 0x10 4) }

/-- RESERVATION_RELOAD (R136): at each multiple of PERIOD after the launch's start. -/
def execReservationReload (s : State) : Res :=
  let d := s.ev.who; let i := s.ev.n
  .next <| match s.launches.find? fun l => s.resvLive.find? i == some l.n && decide (0 < l.start) with
    | none => s
    | some l =>
      let per := (s.timer.toNat - l.start) / max 1 (resvPeriod (s.resvEntry i))
      if l.step.getD (1000 + d) 0 < per then
        (s.reload d i).modLaunch l.n fun l => { l with step := l.step.put (1000 + d) per }
      else s

/-- A rational sum over the valid entries is within a limit (R134). -/
def sumWithin (es : List (List Byte)) (off limit : Nat) : Bool :=
  let q : Rat := (es.map fun e => ((rd e off 4 : Nat) : Rat) / ((max 1 (resvPeriod e) : Nat) : Rat)).sum
  decide (q ≤ limit)

/-- The result of writing a reservation entry (R133, R134): 0 OK, 1 OVERCAP, 2 BADARG, 3 BUSY. The limits of R133 hold of an
image that frees the entry too. DESIGN CHOICE: where several refusals apply the first of BADARG, BUSY and OVERCAP is given
(log entry 47). -/
def State.resvResult (s : State) (i : Nat) (e : List Byte) : BitVec 2 :=
  let free := rd e 0 2 = 0
  let bad := rd e 2 2 != 0 || (e.drop 0x18).any (· != 0) || decide (resvPeriod e < 1300 ∨ 0x40000000 < resvPeriod e) ||
    decide (rd e 0x14 4 < 2 * resvPeriod e)
  let all := ((s.resv.filter fun x => x.1 != i).map (·.2)) ++ (if free then [] else [e])
  if bad then 2
  else if (s.resvLive.find? i).isSome then 3
  else if !(sumWithin all 8 120 && sumWithin all 0xC 30 && sumWithin all 0x10 192) then 1 else 0

/-- A SCHEDCMD ends with a result (R148). -/
def State.schedDone (s : State) (k : Nat) (r : BitVec 2) : State := s.modDie (dieOf k) fun d => { d with schedRes := r }

/-- Reads the 64-byte image of a command in the writer's space. -/
def readImage (k : Nat) (v : Dword) : M (List Byte) := do
  let s ← get
  readMem (s.whoSlot k (.issue k)) (keepBits v 55 6) 64 0

/-- RESERVATION_WRITE (R133, R134); OP 3 gives BADARG (R148). -/
def execReservationWrite (s : State) : Res :=
  let k := s.ev.who
  .next <| match s.cmd? k 0x08A with
    | some v =>
      if bits v 63 62 = 3 then (s.schedDone k 2).finishCmd k
      else if bits v 63 62 ≠ 0 then s
      else runCmd k (do
        let e ← readImage k v
        let i := bits v 61 56
        modify fun s =>
          let r := s.resvResult i e
          let s := if r ≠ 0 then s else { s with resv := if rd e 0 2 = 0 then s.resv.del i else s.resv.put i e }
          s.schedDone k r) s
    | none => s

/-! ### Stages (R143, R144) -/

/-- A stage's image on a die (R143). -/
def State.stageImg (s : State) (d st : Nat) : List Byte := (s.die d).stages.getD st (List.replicate 64 0)
/-- Cores of a stage, by their number on the die, ascending. -/
def State.stageCores (s : State) (d st : Nat) : List Nat := (List.range 160).filter fun c => (s.core (d * 160 + c)).stage == st
/-- Puts cores into a stage. -/
def State.setStage (s : State) (d st : Nat) (cs : List Nat) : State :=
  cs.foldl (fun s c => s.modCore (d * 160 + c) fun x => { x with stage := st }) s

/-- Writes a stage (R143). DESIGN CHOICE: a write that breaks a limit and finds too few cores gives BADARG (log entry 47). -/
def State.stageWrite (s : State) (d st : Nat) (e : List Byte) : State × BitVec 2 :=
  let want := rd e 0xA 2
  let have_ := s.stageCores d st
  let zero := s.stageCores d 0
  if st = 0 ∨ 16 ≤ st ∨ rd e 0 4 = 0 ∨ rd e 0 4 ≤ rd e 4 4 ∨ want < rd e 8 2 ∨ 160 < want ∨ (e.drop 0xE).any (· != 0) then (s, 2)
  else if have_.length + zero.length < want then (s, 1)
  else
    let s := if have_.length ≤ want then s.setStage d st (zero.drop (zero.length - (want - have_.length)))
      else s.setStage d 0 (have_.drop want)
    (s.modDie d fun x => { x with stages := x.stages.put st e }, 0)

/-- STAGE_WRITE (R143). -/
def execStageWrite (s : State) : Res :=
  let k := s.ev.who
  .next <| match s.cmd? k 0x08A with
    | some v =>
      if bits v 63 62 ≠ 1 then s
      else runCmd k (do
        let e ← readImage k v
        modify fun s =>
          let r := s.stageWrite (dieOf k) (bits v 61 56) e
          r.1.schedDone k r.2) s
    | none => s

/-- Occupancy of a stage queue, and whether a stage asks for a core or may give one (R144). DESIGN CHOICE: a stage that has never
been configured has no HIGH, LOW or MINCORES, and does neither (log entry 58). -/
def State.occOf (s : State) (d st : Nat) : Nat := (s.queueOf d st).length
def State.receives (s : State) (d st : Nat) : Bool :=
  ((s.die d).stages.find? st).isSome && decide (rd (s.stageImg d st) 0 4 ≤ s.occOf d st)
def State.idleCore (s : State) (d st : Nat) : Option Nat :=
  (s.stageCores d st).reverse.find? fun c => (s.core (d * 160 + c)).hold == 0
def State.gives (s : State) (d st : Nat) (given : List Nat) : Bool :=
  ((s.die d).stages.find? st).isSome && !s.receives d st && !given.contains st &&
    decide (s.occOf d st ≤ rd (s.stageImg d st) 4 4) && decide (rd (s.stageImg d st) 8 2 < (s.stageCores d st).length) &&
    (s.idleCore d st).isSome

/-- The best of the stages 1–15 that `ok` accepts: `better a b` says that a comes before b; ties go to the lower stage. -/
def bestStage (ok : Nat → Bool) (better : Nat → Nat → Bool) : Option Nat :=
  ((List.range 15).map (· + 1)).foldl (fun (b : Option Nat) t =>
    if !ok t then b else match b with
      | none => some t
      | some o => if better t o then some t else b) none

/-- Serves the receivers of a tick, the fullest first (R144). -/
def State.tickMoves (d : Nat) : Nat → List Nat → List Nat → State → State
  | 0, _, _, s => s
  | n + 1, done, given, s =>
    match bestStage (fun t => s.receives d t && !done.contains t) (fun a b => decide (s.occOf d b < s.occOf d a)) with
    | none => s
    | some r =>
      match bestStage (fun t => s.gives d t given) (fun a b => decide (s.occOf d a < s.occOf d b)) with
      | none => State.tickMoves d n (r :: done) given s
      | some t => match s.idleCore d t with
        | none => s
        | some c =>
          let s := s.modCore (d * 160 + c) fun x => { x with stage := r, hold := rd (s.stageImg d r) 0xC 2 }
          State.tickMoves d n (r :: done) (t :: given) s

/-- GovernorTick (R144). -/
def State.governorTick (s : State) (d : Nat) : State :=
  let s := { s with cores := s.cores.map fun e => if e.1 / 160 = d then (e.1, { e.2 with hold := e.2.hold - 1 }) else e }
  State.tickMoves d 15 [] [] s

/-- GOVERNOR_TICK (R144). -/
def execGovernorTick (s : State) : Res :=
  let k := s.ev.who
  .next <| match s.cmd? k 0x08A with
    | some v => if bits v 63 62 ≠ 2 then s else ((s.governorTick (dieOf k)).schedDone k 0).finishCmd k
    | none => s

/-! ### The urgent slot (R146) -/

/-- A slot of the core that has posted a URGCFG write. -/
def State.urgWriter (s : State) (c : Nat) : Option (Nat × Dword) :=
  (List.range 8).findSome? fun i => (s.cmd? (8 * c + i) 0x088).map fun v => (8 * c + i, v)

/-- The stored value of URGCFG (R148). -/
def urgValue (v : Dword) : Dword := keepBits v 63 63 ||| keepBits v 17 2

/-- URGENT_ENABLE (R146): the write takes effect, and then a strand in slot 7 is displaced. -/
def execUrgentEnable (s : State) : Res :=
  let c := s.ev.who
  .next <| match s.urgWriter c with
    | some (k, v) => if !v.msb then s else (s.modCore c fun x => { x with urgcfg := urgValue v }).finishCmd k
    | none =>
      if (s.core c).urgcfg.msb && !(s.core c).urg && decide ((s.slot (8 * c + 7)).occ = .active) then
        (s.displace (8 * c + 7)).getD s else s

/-- URGENT_START (R146). -/
def execUrgentStart (s : State) : Res :=
  let c := s.ev.who
  .next <| if (s.core c).urgcfg.msb && !(s.core c).urg && decide ((s.slot (8 * c + 7)).occ = .empty) then
      (s.startUrgent (8 * c + 7)).modCore c fun x => { x with urg := true, asleep := false }
    else s

/-- URGENT_DISABLE (R146): the write takes effect, and the urgent strand ends once nothing of it is outstanding. -/
def execUrgentDisable (s : State) : Res :=
  let c := s.ev.who
  .next <| match s.urgWriter c with
    | some (k, v) => if v.msb then s else (s.modCore c fun x => { x with urgcfg := urgValue v }).finishCmd k
    | none =>
      if !(s.core c).urgcfg.msb && (s.core c).urg then
        (if (s.slot (8 * c + 7)).outs.isEmpty || (s.slot (8 * c + 7)).occ != .active then
          ((s.orphanSys (8 * c + 7)).leave (8 * c + 7)).modCore c fun x => { x with urg := false } else s)
      else s

/-! ### Stealing (R139, R141) -/

/-- The dispatcher of a die has a task for core `c` (R127, step 4 of R139). -/
def State.dispatchFor (s : State) (c : Nat) : Bool :=
  (List.range 16).any fun q => !s.queueBlocked (c / 160) q &&
    (s.firstTask (c / 160) q).any fun t => (s.chooseCore t).any fun k => coreOf k == c

/-- The place that an idle slot steals from: none of steps 1–4 of R139 has work for it. -/
def State.theft (s : State) (k : Nat) : Option (Nat ⊕ Nat) :=
  if s.freeSlot k && (s.takeRec (coreOf k)).isNone && !s.dispatchFor (coreOf k) then s.stealFrom k else none

/-- STEAL (R141): an idle slot takes the far-end record of the first place in steal order. -/
def execSteal (s : State) : Res :=
  let k := s.ev.who
  .next <| match s.theft k with
    | none => s
    | some p => match s.farEnd p with
      | none => s
      | some r => (((s.popFar p).startRec k r).count (coreOf k) 0x0A 1).modCore (coreOf k) fun c => { c with asleep := false }

end Sys2Proof.Machine
end

