-- ==== Sys2Proof/Machine/Armature.lean ====
section
/-! DEFINITION. The Armature (R199–R217, R420–R424): grammar images, Run, the GRAM instructions, masks, and the grammar and
arena commands. -/

namespace Sys2Proof.Machine

/-! ### Grammar images (R199–R203) -/

def gramVocab (img : List Byte) : Nat := rd img 0x08 4
def gramStates (img : List Byte) : Nat := rd img 0x0C 4
def gramTerms (img : List Byte) : Nat := rd img 0x10 2
def gramSyms (img : List Byte) : Nat := rd img 0x12 2
def gramStart (img : List Byte) : Nat := rd img 0x14 4
/-- The action of a state on a terminal (R200). -/
def gramAction (img : List Byte) (state term : Nat) : Dword :=
  dw (rd img (rd img 0x18 8 + (state * gramTerms img + term) * 8) 8)
/-- Offset of a state record (R201) and of a token record (R202). -/
def stateRec (img : List Byte) (state : Nat) : Nat := rd img 0x20 8 + state * 32
def tokenRec (img : List Byte) (tok : Nat) : Nat := rd img 0x28 8 + tok * 8
/-- The terminal sequence of a token (R202). -/
def tokenTerms (img : List Byte) (tok : Nat) : List Nat :=
  let o := tokenRec img tok
  (List.range (rd img (o + 4) 2)).map fun i => rd img (rd img o 4 + 2 * i) 2
/-- Chunks of the vocabulary (R201). -/
def gramChunks (img : List Byte) : Nat := (gramVocab img + 63) / 64
def codeDwords (img : List Byte) : Nat := (gramChunks img + 31) / 32
/-- The code of a chunk in the admit record of a state. -/
def admitCode (img : List Byte) (state c : Nat) : Nat :=
  rd img (rd img (stateRec img state) 8 + c / 32 * 8) 8 / 4 ^ (c % 32) % 4
/-- The dependent list of a state. -/
def depList (img : List Byte) (state : Nat) : List Nat :=
  let o := stateRec img state
  (List.range (rd img (o + 0x10) 4)).map fun i => rd img (rd img (o + 8) 8 + 4 * i) 4

/-- An action dword meets R200. -/
def actionOk (img : List Byte) (a : Dword) : Bool :=
  let kind := bits a 63 60; let sym := bits a 47 32; let next := bits a 23 0
  decide (kind ≤ 4) && bits a 59 48 == 0 && bits a 31 24 == 0 &&
  (if kind = 2 ∨ kind = 3 then decide (1 ≤ sym ∧ sym ≤ gramSyms img) else sym == 0) &&
  (if kind = 0 then next == 0 else decide (next < gramStates img))

/-- The header meets R199. -/
def headerOk (img : List Byte) : Bool :=
  rd img 0 4 == 0x4A475231 && rd img 4 2 == 1 && rd img 6 2 == 0 && decide (1 ≤ gramVocab img ∧ gramVocab img ≤ 262144) &&
  decide (1 ≤ gramStates img ∧ gramStates img ≤ 0xFFFFFF) && decide (1 ≤ gramTerms img ∧ gramTerms img ≤ 4096) &&
  decide (1 ≤ gramSyms img) && decide (gramStart img < gramStates img) && rd img 0x18 8 % 64 == 0 && rd img 0x20 8 % 64 == 0 &&
  rd img 0x28 8 % 64 == 0 && decide (64 ≤ rd img 0x30 8 ∧ rd img 0x30 8 ≤ 2 ^ 28) && rd img 0x38 8 == 0

/-- A state record with its admit record and dependent list meets R201. -/
def stateOk (img : List Byte) (size state : Nat) : Bool :=
  let o := stateRec img state
  let codes := (List.range (gramChunks img)).map (admitCode img state)
  let deps := depList img state
  rd img o 8 % 64 == 0 && rd img (o + 8) 8 % 64 == 0 && rd img (o + 0x18) 8 == 0 &&
  decide (rd img o 8 + (codeDwords img + rd img (o + 0x14) 4) * 8 ≤ size) &&
  decide (rd img (o + 8) 8 + rd img (o + 0x10) 4 * 4 ≤ size) && !codes.contains 3 &&
  (codes.filter (· == 2)).length == rd img (o + 0x14) 4 && deps.all (fun t => decide (t < gramVocab img)) &&
  decide (deps.Pairwise (· < ·))

/-- A token record meets R202. -/
def tokenOk (img : List Byte) (size tok : Nat) : Bool :=
  let o := tokenRec img tok
  rd img o 4 % 2 == 0 && decide (rd img (o + 4) 2 ≤ 64) && rd img (o + 6) 2 == 0 &&
  decide (rd img o 4 + 2 * rd img (o + 4) 2 ≤ size) && (tokenTerms img tok).all fun t => decide (t < gramTerms img)

/-- Every limit of R199–R202 (R203). -/
def imageOk (img : List Byte) : Bool :=
  let size := rd img 0x30 8
  headerOk img && decide (rd img 0x18 8 + gramStates img * gramTerms img * 8 ≤ size) &&
  decide (rd img 0x20 8 + gramStates img * 32 ≤ size) && decide (rd img 0x28 8 + gramVocab img * 8 ≤ size) &&
  (List.range (gramStates img * gramTerms img)).all (fun i => actionOk img (dw (rd img (rd img 0x18 8 + i * 8) 8))) &&
  (List.range (gramStates img)).all (stateOk img size) && (List.range (gramVocab img)).all (tokenOk img size)

/-! ### Configurations and arenas (R204, R205, R211, R216) -/

def cfgGram (c : Dword) : Nat := bits c 31 24
def cfgState (c : Dword) : Nat := bits c 23 0
def cfgTop (c : Dword) : Nat := bits c 63 32
/-- GCFG of a stream (R151). -/
def scbGcfg (r : List Byte) : Dword := dw (rd r 0x38 8)
/-- The arena of a handle, its half and its node (R205). -/
def handleArena (h : Nat) : Nat := h / 2 ^ 20
def handleHalf (h : Nat) : Bool := h / 2 ^ 19 % 2 == 1
def handleNode (h : Nat) : Nat := h % 2 ^ 19

/-- An arena entry that a tenant may use: not FREE, its own, and ARENA not zero. -/
def State.arenaFor (s : State) (t : Half) (id : Nat) : Option Arena :=
  if id % 1024 = 0 then none else (s.arenas.find? id).filter fun a => a.tenant == t

/-- The loaded grammar of a slot that a tenant may use. -/
def State.gramFor (s : State) (t : Half) (g : Nat) : Option Grammar := (s.grams.find? g).filter fun x => x.tenant == t

/-- The subcode that a configuration earns, in the order of R216; GRAM = 0 passes (R421). -/
def State.cfgBad (s : State) (t : Half) (c : Dword) : Option Byte :=
  if cfgGram c = 0 then none
  else match s.gramFor t (cfgGram c) with
    | none => some 1
    | some g =>
      if gramStates g.img ≤ cfgState c then some 2
      else if cfgTop c = 0 then none
      else match s.arenaFor t (handleArena (cfgTop c)) with
        | none => some 3
        | some a =>
          if handleHalf (cfgTop c) ≠ a.cur then some 4 else if a.next ≤ handleNode (cfgTop c) then some 3 else none

/-- BADTOKEN (R216). -/
def State.tokenBad (s : State) (t : Half) (c : Dword) (tok : Nat) : Option Byte :=
  match s.gramFor t (cfgGram c) with
  | some g => if gramVocab g.img ≤ tok then some 7 else none
  | none => none

/-- An arena whose commit runs (R213). -/
def State.committing (s : State) (id : Nat) : Bool := ((s.arenas.find? id).map (·.slot.isSome)).getD false

/-- A handle may be read (R206). -/
def State.linkOk (s : State) (t : Half) (h : Nat) : Bool :=
  match s.arenaFor t (handleArena h) with
  | some a => handleHalf h == a.cur && decide (handleNode h < a.next)
  | none => false

/-- Address of a node (R205). -/
def nodeAddr (base : Dword) (half : Bool) (n : Nat) : Dword := base + dw ((if half then 0x400000 else 0) + n * 8)

/-- Reads the node of a handle; none where the check of R206 fails. A commit in progress holds the reader (R213). -/
def readNode (w : Who) (h : Nat) : M (Option Dword) := do
  let s ← get
  if s.committing (handleArena h) then throw (.wait id)
  match (s.arenas.find? (handleArena h)).filter fun _ => s.linkOk w.tenant h with
  | none => pure none
  | some a => do
    let bs ← readMem w (nodeAddr a.base (handleHalf h) (handleNode h)) 8 4
    pure (some (dw (leNat bs)))

/-! ### Run (R206) -/

/-- How Run ends: with ACCEPT, the state, TOP, the overlay and the depth of the stack. -/
inductive RunEnd where
  | reject | overflow | accept (state top : Nat) (overlay : List Nat) (depth : Int)
  deriving DecidableEq, Repr

/-- The loop of Run over the terminals. The depth falls below zero where a node's DEPTH is less than the pops made. -/
def runTerms (w : Who) (img : List Byte) : List Nat → Nat → Nat → List Nat → Int → M RunEnd
  | [], state, top, ov, depth => pure (.accept state top ov depth)
  | t :: ts, state, top, ov, depth => do
    let a := gramAction img state t
    let next := bits a 23 0
    let sym := bits a 47 32
    match bits a 63 60 with
    | 1 => runTerms w img ts next top ov depth
    | 2 => if depth = 65535 then pure .overflow else runTerms w img ts next top (ov ++ [sym]) (depth + 1)
    | 3 => match ov.getLast? with
      | some x => if x = sym then runTerms w img ts next top ov.dropLast (depth - 1) else pure .reject
      | none =>
        if top = 0 then pure .reject
        else do
          let nd ← readNode w top
          match nd with
          | none => pure .reject
          | some d => if bits d 47 32 = sym then runTerms w img ts next (bits d 31 0) [] (depth - 1) else pure .reject
    | 4 => if depth ≠ 0 then pure .reject else runTerms w img ts next top ov depth
    | _ => pure .reject

/-- Run (R206). -/
def runToken (w : Who) (img : List Byte) (c : Dword) (tok : Nat) : M RunEnd := do
  if (tokenTerms img tok).isEmpty then return .reject
  if cfgTop c = 0 then runTerms w img (tokenTerms img tok) (cfgState c) 0 [] 0
  else
    let nd ← readNode w (cfgTop c)
    match nd with
    | none => pure .reject
    | some d => runTerms w img (tokenTerms img tok) (cfgState c) (cfgTop c) [] (bits d 63 48)

/-- A GRAMMAR trap (R216). -/
def grammarTrap (sub : Byte) : Trap := { cause := 0x0E, sub := sub }

/-! ### The instructions (R420–R424) -/

/-- Who a GRAM instruction or a walker is: the Armature of the slot's die, for the strand's tenant. -/
def State.whoGram (s : State) (k : Nat) (req : Requester) : Who := { s.whoSlot k req with core := none, uid := 0 }

/-- The subcode of a stream form (R420): every state but FREE and DEAD is allowed (R424). -/
def State.gramStream (s : State) (k id : Nat) : Option Byte :=
  firstSub [s.idBad k id true, subIf (scbState (s.scb id) == 6) 3]

/-- Checks of a GRAM instruction in their order (R420, R421): the mask address, with the lower subcode of the pure tag (R185), the
pure tag, the stream and the configuration (log entry 40). -/
def State.gramTrap (s : State) (k : Nat) (stream : Option Nat) (mask : Option Dword) (sub : Option Byte) : Option Trap :=
  firstTrap [mask.bind fun va => s.objTrap k va 64 6 64 true, s.pureTrap k 0x08,
    (stream.bind fun id => s.gramStream k id).map fun c => { cause := 0x0D, sub := c }, sub.map grammarTrap]

/-- A GRAM instruction: its registers, its checks, and what it does once it issues. -/
def gramOp (p : Issue) (l : BitVec 4) (dests : List RegRef) (chk : State → Option Trap) (act : State → M Unit) : State → Res :=
  issueM { p with
    la := some l, writes := dests ++ p.writes, hold := fun s => (s.slot s.focus).acquiring, check := chk } act

/-- The stream that ga names. -/
def gramId (s : State) (a : BitVec 5) : Nat := bits (s.readG s.focus a) 31 0

/-- START of the grammar that gb[7:0] names, as a configuration (R424). -/
def State.startCfg (s : State) (t : Half) (g : Nat) : Dword :=
  match s.gramFor t g with
  | some x => if g = 0 then 0 else dw (g * 2 ^ 24 + gramStart x.img)
  | none => 0

/-- Writes GCFG as one step of R150. -/
def State.setGcfg (s : State) (id : Nat) (c : Dword) : State := s.scbStep id fun r => wr r 0x38 8 c.toNat

/-- GSET (R424). -/
def execGset (d a b : BitVec 5) (g : BitVec 3) (l : BitVec 4) : State → Res :=
  gramOp { instr := .gset d a b g l, guard := g, reads := [.g a, .g b] } l [.g d]
    (fun s =>
      let n := bits (s.readG s.focus b) 7 0
      s.gramTrap s.focus (some (gramId s a)) none
        (subIf (n != 0 && (s.gramFor (s.slot s.focus).tenant n).isNone) 1))
    fun b0 => do
      let c := b0.startCfg (b0.slot b0.focus).tenant (bits (b0.readG b0.focus b) 7 0)
      modify fun s => s.setGcfg (gramId b0 a) c
      giveG b0 l d c

/-- A mask request enters the queue of the die (R209). -/
def State.askMask (b t : State) (l : BitVec 4) (p : BitVec 3) (c ea : Dword) (stream : Option Nat) : State :=
  let k := b.focus
  let s := { t with nextN := t.nextN + 1 }.modDie (dieOf k) fun d => { d with
    maskq := d.maskq ++ [({ n := t.nextN, die := dieOf k, slot := k, cfg := c, ea := ea, stream := stream, done := none
                            writes := [] } : MaskReq)] }
  b.depart s l (.gmask t.nextN p) [.p p]

/-- GMASK (R423). -/
def execGmask (p : BitVec 3) (a b : BitVec 5) (g : BitVec 3) (l : BitVec 4) : State → Res :=
  gramOp { instr := .gmask p a b g l, guard := g, reads := [.g a, .g b] } l [.p p]
    (fun s => s.gramTrap s.focus none (some (s.readG s.focus b)) (s.cfgBad (s.slot s.focus).tenant (s.readG s.focus a)))
    fun b0 => modify fun t => b0.askMask t l p (b0.readG b0.focus a) (b0.readG b0.focus b) none

/-- GMASK.S (R423): GCFG is read at its step. -/
def execGmaskS (p : BitVec 3) (a b : BitVec 5) (g : BitVec 3) (l : BitVec 4) : State → Res :=
  gramOp { instr := .gmaskS p a b g l, guard := g, reads := [.g a, .g b] } l [.p p]
    (fun s => s.gramTrap s.focus (some (gramId s a)) (some (s.readG s.focus b))
      (s.cfgBad (s.slot s.focus).tenant (scbGcfg (s.scb (gramId s a)))))
    fun b0 => modify fun t => b0.askMask t l p (scbGcfg (b0.scb (gramId b0 a))) (b0.readG b0.focus b) (some (gramId b0 a))

/-- The conditions on the arena field that do not depend on Run (R422). -/
def State.arenaFieldBad (s : State) (t : Half) (c : Dword) (field : Nat) : Bool :=
  field != 0 && ((cfgTop c != 0 && handleArena (cfgTop c) != field) || (s.arenaFor t field).isNone)

/-- The checks of an advance or a check at issue, with the arena field (R421, R422). -/
def State.advanceBad (s : State) (t : Half) (c : Dword) (tok : Nat) (field : Option Nat) : Option Byte :=
  if cfgGram c = 0 then none
  else ((s.cfgBad t c).or (s.tokenBad t c tok)).or (subIf ((field.map fun f => s.arenaFieldBad t c f).getD false) 3)

/-- The dwords of the nodes that an overlay allocates, from node number `n` on, upon a top of some DEPTH (R207). -/
def newNodes (id : Nat) (half : Bool) : Nat → Nat → Nat → List Nat → List Dword
  | _, _, _, [] => []
  | n, link, depth, sym :: rest =>
    dw ((depth + 1) % 65536 * 2 ^ 48 + sym * 2 ^ 32 + link) ::
      newNodes id half (n + 1) (id * 2 ^ 20 + (if half then 2 ^ 19 else 0) + n) (depth + 1) rest

/-- The DEPTH of a top: that of its node, and 0 of the empty stack. DEDUCED: a top that no check of R206 lets Run read has the depth
that Run counted (log entry 40). -/
def topDepth (w : Who) (top : Nat) (counted : Int) : M Nat := do
  if top = 0 then return 0
  let nd ← readNode w top
  match nd with
  | some d => pure (bits d 63 48)
  | none => pure (counted % 65536).toNat

/-- Advances a configuration (R207, R211, R422): Run and the allocation hold the slot, and the writes of the nodes are outstanding
(R421). -/
def advance (b0 : State) (l : BitVec 4) (d : BitVec 5) (c : Dword) (tok field : Nat) (stream : Option Nat) : M Unit := do
  let s ← get
  let k := b0.focus
  let w := { s.whoGram k (.issue k) with dest := BitVec.ofNat 8 d.toNat }
  match s.gramFor w.tenant (cfgGram c) with
  | none => giveG b0 l d c
  | some g => do
    if s.committing (handleArena (cfgTop c)) || s.committing field then throw (.wait id)
    let r ← runToken w g.img c tok
    match r with
    | .reject => giveG b0 l d (BitVec.allOnes 64)
    | .overflow => throw (.trap (grammarTrap 6))
    | .accept state top ov depth =>
      let cfg := fun (t : Nat) => dw (t * 2 ^ 32 + cfgGram c * 2 ^ 24 + state)
      if ov.isEmpty then
        modify fun t => b0.depart t l (.gadv none [] stream (cfg top) d) [.g d]
      else
        let id := if cfgTop c = 0 then field else handleArena (cfgTop c)
        let s ← get
        match s.arenaFor w.tenant id with
        | none => throw (.trap (grammarTrap 3))
        | some a =>
          if 524287 < a.next + ov.length then throw (.trap (grammarTrap 5))
          let base ← topDepth w top (depth - ov.length)
          let nodes := (newNodes id a.cur a.next top base ov).flatMap fun x => leBytes 8 x.toNat
          modify fun t =>
            let t := { t with arenas := t.arenas.put id { a with next := a.next + ov.length } }
            let last := id * 2 ^ 20 + (if a.cur then 2 ^ 19 else 0) + a.next + ov.length - 1
            b0.depart t l (.gadv (some (nodeAddr a.base a.cur a.next, nodes)) [] stream (cfg last) d) [.g d]

/-- GADV (R422). -/
def execGadv (d a b : BitVec 5) (g : BitVec 3) (l : BitVec 4) : State → Res :=
  gramOp { instr := .gadv d a b g l, guard := g, reads := [.g a, .g b] } l [.g d]
    (fun s => s.gramTrap s.focus none none
      (s.advanceBad (s.slot s.focus).tenant (s.readG s.focus a) (bits (s.readG s.focus b) 31 0)
        (some (bits (s.readG s.focus b) 43 32))))
    fun b0 =>
      let y := b0.readG b0.focus b
      advance b0 l d (b0.readG b0.focus a) (bits y 31 0) (bits y 43 32) none

/-- GADV.S (R422). -/
def execGadvS (d a b : BitVec 5) (g : BitVec 3) (l : BitVec 4) : State → Res :=
  gramOp { instr := .gadvS d a b g l, guard := g, reads := [.g a, .g b] } l [.g d]
    (fun s => s.gramTrap s.focus (some (gramId s a)) none
      (s.advanceBad (s.slot s.focus).tenant (scbGcfg (s.scb (gramId s a))) (bits (s.readG s.focus b) 31 0)
        (some (bits (s.readG s.focus b) 43 32))))
    fun b0 =>
      let y := b0.readG b0.focus b
      advance b0 l d (scbGcfg (b0.scb (gramId b0 a))) (bits y 31 0) (bits y 43 32) (some (gramId b0 a))

/-- GCHK (R424): Run without allocating. -/
def execGchk (p : BitVec 3) (a b : BitVec 5) (g : BitVec 3) (l : BitVec 4) : State → Res :=
  gramOp { instr := .gchk p a b g l, guard := g, reads := [.g a, .g b] } l [.p p]
    (fun s => s.gramTrap s.focus none none
      (s.advanceBad (s.slot s.focus).tenant (s.readG s.focus a) (bits (s.readG s.focus b) 31 0) none))
    fun b0 => do
      let s ← get
      let k := b0.focus
      let c := b0.readG k a
      let w := s.whoGram k (.issue k)
      match s.gramFor w.tenant (cfgGram c) with
      | none => modify fun t => b0.depart t l (.compute [.p p true]) [.p p]
      | some g => do
        let r ← runToken w g.img c (bits (b0.readG k b) 31 0)
        let ok := match r with
          | .accept .. => true
          | _ => false
        modify fun t => b0.depart t l (.compute [.p p ok]) [.p p]

/-- GSAVE (R424). -/
def execGsave (d a : BitVec 5) (g : BitVec 3) (l : BitVec 4) : State → Res :=
  gramOp { instr := .gsave d a g l, guard := g, reads := [.g a] } l [.g d]
    (fun s => s.gramTrap s.focus (some (gramId s a)) none
      (s.cfgBad (s.slot s.focus).tenant (scbGcfg (s.scb (gramId s a)))))
    fun b0 => giveG b0 l d (scbGcfg (b0.scb (gramId b0 a)))

/-- GLOAD (R424). -/
def execGload (a b : BitVec 5) (g : BitVec 3) (l : BitVec 4) : State → Res :=
  gramOp { instr := .gload a b g l, guard := g, reads := [.g a, .g b] } l []
    (fun s => s.gramTrap s.focus (some (gramId s a)) none (s.cfgBad (s.slot s.focus).tenant (s.readG s.focus b)))
    fun b0 => modify fun t => b0.depart (t.setGcfg (gramId b0 a) (b0.readG b0.focus b)) l (.compute []) []

/-! ### Masks (R208–R210) -/

/-- ExpandAdmit by chunks, from chunk c and explicit dword x on. -/
def admitFrom (img : List Byte) (state : Nat) : Nat → Nat → Nat → List Nat
  | 0, _, _ => []
  | n + 1, c, x =>
    match admitCode img state c with
    | 1 => (2 ^ 64 - 1) :: admitFrom img state n (c + 1) x
    | 2 => rd img (rd img (stateRec img state) 8 + (codeDwords img + x) * 8) 8 :: admitFrom img state n (c + 1) (x + 1)
    | _ => 0 :: admitFrom img state n (c + 1) x

/-- The mask from the chunks of the admit record and the accepted tokens of the dependent list (R208). -/
def maskBytes (vocab : Nat) (chunks deps : List Nat) : List Byte :=
  (List.range 4096).flatMap fun c =>
    let x := (deps.filter fun t => t / 64 == c).foldl (fun x t => x ||| 2 ^ (t % 64)) (chunks.getD c 0)
    leBytes 8 (x % 2 ^ min 64 (vocab - 64 * c))

/-- The tokens of a dependent list that Run accepts (R208). -/
def acceptedDeps (w : Who) (img : List Byte) (c : Dword) : List Nat → M (List Nat)
  | [] => pure []
  | t :: ts => do
    let r ← runToken w img c t
    let rest ← acceptedDeps w img c ts
    pure (match r with
      | .accept .. => t :: rest
      | _ => rest)

/-- MaskOf (R208). -/
def maskOf (w : Who) (c : Dword) : M (List Byte) := do
  let s ← get
  match s.gramFor w.tenant (cfgGram c) with
  | none => pure (List.replicate 32768 0xFF)
  | some g => do
    let deps ← acceptedDeps w g.img c (depList g.img (cfgState c))
    pure (maskBytes (gramVocab g.img) (admitFrom g.img (cfgState c) (gramChunks g.img) 0 0) deps)

/-- The outstanding instruction of a mask request. -/
def State.maskOut (s : State) (r : MaskReq) : Option Outst :=
  (s.slot r.slot).outs.find? fun o => match o.op with
    | .gmask n _ => n == r.n
    | _ => false

def State.modMask (s : State) (d n : Nat) (f : MaskReq → MaskReq) : State :=
  s.modDie d fun x => { x with maskq := x.maskq.map fun r => if r.n = n then f r else r }
def State.dropMask (s : State) (d n : Nat) : State :=
  s.modDie d fun x => { x with maskq := x.maskq.filter fun r => r.n ≠ n }

/-- The accessor of a walker. -/
def State.whoMask (s : State) (r : MaskReq) (o : Outst) : Who :=
  { s.whoOp r.slot o with core := none, uid := 0 }

/-- A walker forms the mask and writes it (R208, R209). -/
def maskM (r : MaskReq) (o : Outst) : M Unit := do
  let s ← get
  let w := s.whoMask r o
  let bs ← maskOf w r.cfg
  let ws ← writeMem w r.ea bs 5
  modify fun s => ((s.dropFault w.req).dropRequests w.req).modMask r.die r.n fun r => { r with
    done := some (bs.all (· == 0)), writes := ws }

/-- The walkers go on with their requests, in the order in which these reached the die: the first that can is finished,
and those before it leave what their waits leave. -/
def State.walkMasks : List MaskReq → State → State
  | [], s => s
  | r :: rest, s => match s.maskOut r with
    | none => State.walkMasks rest s
    | some o => match maskM r o s with
      | .ok x => x.2
      | .error (.wait f) => State.walkMasks rest (f s)
      | .error (.fatal sub va) =>
        (((s.dropFault (.op r.slot o.id)).dropRequests (.op r.slot o.id)).dropMask r.die r.n).fatal r.slot o sub va false
      | .error (.trap _) => s

/-- The requests that the walkers of a die serve. -/
def State.walking (s : State) (d : Nat) : List MaskReq :=
  ((s.die d).maskq.filter fun r => r.done.isNone && (s.maskOut r).isSome).take 32

/-- MASK_WALK (R208, R209): 32 walkers serve the oldest requests. -/
def execMaskWalk (s : State) : Res := .next (State.walkMasks (s.walking s.ev.who) s)

/-- GRAMMAR_DEAD_STOP (R210): once the mask write of a dead stream has completed, the stream stops with STOPCODE 2. -/
def execGrammarDeadStop (s : State) : Res :=
  .next <| match ([0, 1, 2, 3].flatMap fun d => (s.die d).maskq).find? fun r => r.n = s.ev.who with
    | none => s
    | some r =>
      if r.done.isNone || (s.maskOut r).isSome then s
      else
        let s := s.dropMask r.die r.n
        match r.stream with
        | some id =>
          let x := s.scb id
          if r.done = some true ∧ scbState x ≠ 0 ∧ scbState x ≠ 6 ∧ scbStop x = 0 then s.stopStream id 2 else s
        | none => s

/-! ### Grammar commands (R203, R217) -/

def gramOpc (v : Dword) : Nat := bits v 63 61

/-- The result of a GRAMCMD (R217). -/
def State.gramDone (s : State) (k : Nat) (r : Nat) : State :=
  s.modSlot k fun x => { x with gramstat := setBits x.gramstat 2 0 r }

/-- Frames of the pool of each die for an image of `n` frames (R203). -/
def State.gramFrames (s : State) (n : Nat) : Option (State × List Nat) :=
  (([0, 1, 2, 3] : List Nat).flatMap fun d => List.replicate n d).foldl
    (fun (u : Option (State × List Nat)) d => u.bind fun p => (p.1.allocFrameOn d).map fun f =>
      (p.1.modFrame f fun _ => { FrameDesc.zero with refcnt := 1, gen := p.1.ckgen }, p.2 ++ [f]))
    (some (s, []))

/-- Copies the image into its frames, the same on each die. -/
def State.copyImage (s : State) (img : List Byte) (fs : List Nat) : State :=
  let n := fs.length / 4
  fs.zipIdx.foldl (fun s f => s.pokeAll f.1 ((img.drop (f.2 % max 1 n * 65536)).take 65536)) s

/-- Reads the image (R203): none where a part of it ends FATAL or the header breaks a limit. -/
def readGrammar (w : Who) (va : Dword) : M (Option (List Byte)) :=
  orFatal (do
    if va.toNat % 64 ≠ 0 then return none
    let h ← readMem w va 64 4
    if !headerOk h then return none
    let img ← readMem w va (rd h 0x30 8) 4
    pure (some img)) fun _ _ => pure none

/-- GRAMMAR_LOAD (R203, R217); OP 5–7 give BADARG. -/
def execGrammarLoad (s : State) : Res :=
  let k := s.ev.who
  .next <| match s.cmd? k 0x0A8 with
    | some v =>
      if 5 ≤ gramOpc v then (s.gramDone k 1).finishCmd k
      else if gramOpc v ≠ 0 then s
      else runCmd k (do
        let b ← readImage k v
        let s ← get
        let w := s.whoSlot k (.issue k)
        let n := rd b 0 1
        if n = 0 ∨ (s.grams.find? n).isSome then modify (·.gramDone k 1)
        else
          let img ← readGrammar w (dw (rd b 8 8))
          modify fun s => match img with
            | none => s.gramDone k 4
            | some img =>
              if !imageOk img then s.gramDone k 4
              else match s.gramFrames ((img.length + 65535) / 65536) with
                | none => s.gramDone k 3
                | some (u, fs) =>
                  ({ u.copyImage img fs with grams := u.grams.put n ⟨w.tenant, img, fs, false⟩ }).gramDone k 0) s
    | none => s

/-- GRAMMAR_UNLOAD (R203, R217). -/
def execGrammarUnload (s : State) : Res :=
  let k := s.ev.who
  .next <| match s.cmd? k 0x0A8 with
    | some v =>
      if gramOpc v ≠ 1 then s
      else runCmd k (do
        let b ← readImage k v
        modify fun s => match s.gramFor (s.slot k).tenant (rd b 0 1) with
          | none => s.gramDone k 1
          | some g => ({ s with grams := s.grams.put (rd b 0 1) { g with unloading := true } }).gramDone k 0) s
    | none => s

/-- A walker request on a grammar slot is in flight. -/
def State.walkerBusy (s : State) (n : Nat) : Bool :=
  [0, 1, 2, 3].any fun d => (s.die d).maskq.any fun r => cfgGram r.cfg == n && (s.maskOut r).isSome

/-- A grammar slot becomes FREE and its frames go back to the pools (R203). -/
def State.unloadGram (s : State) (n : Nat) : State :=
  match s.grams.find? n with
  | none => s
  | some g => g.frames.foldl State.lowerFrame { s with grams := s.grams.del n }

/-- UNLOAD_TAKE_EFFECT (R203): once no walker request on the slot is in flight. -/
def execUnloadTakeEffect (s : State) : Res :=
  let n := s.ev.who
  .next <| if ((s.grams.find? n).any (·.unloading)) && !s.walkerBusy n then s.unloadGram n else s

/-! ### Arena commands (R211, R213–R215, R217) -/

/-- ARENA_OPEN (R211). -/
def execArenaOpen (s : State) : Res :=
  let k := s.ev.who
  .next <| match s.cmd? k 0x0A8 with
    | some v =>
      if gramOpc v ≠ 2 then s
      else runCmd k (do
        let b ← readImage k v
        let base := rd b 0 8
        modify fun s =>
          if base % 65536 ≠ 0 ∨ 2 ^ 56 ≤ base then s.gramDone k 1
          else match findFree (fun i => (s.arenas.find? (dieOf k * 1024 + i)).isNone) 1023 1 with
            | none => s.gramDone k 3
            | some i =>
              let id := dieOf k * 1024 + i
              (({ s with arenas := s.arenas.put id ⟨(s.slot k).tenant, dw base, false, 0, none, [], []⟩ }).modSlot k fun x =>
                { x with gramstat := setBits x.gramstat 43 32 id }).gramDone k 0) s
    | none => s

/-- ARENA_CLOSE (R215). -/
def execArenaClose (s : State) : Res :=
  let k := s.ev.who
  .next <| match s.cmd? k 0x0A8 with
    | some v =>
      if gramOpc v ≠ 4 then s
      else runCmd k (do
        let b ← readImage k v
        let id := rd b 0 2 % 4096
        modify fun s => match s.arenaFor (s.slot k).tenant id with
          | none => s.gramDone k 1
          | some a => if a.slot.isSome then s.gramDone k 2 else ({ s with arenas := s.arenas.del id }).gramDone k 0) s
    | none => s

/-- The arena that the commit of a slot holds COMMITTING. -/
def State.myCommit (s : State) (k : Nat) : Option (Nat × Arena) := List.find? (fun (e : Nat × Arena) => decide (e.2.slot = some k)) s.arenas

/-- The first step of a commit (R213): its checks, the list of ids, and COMMITTING. It answers false when the command goes on. -/
def commitStart (k : Nat) (v : Dword) : M Bool := do
  let b ← readImage k v
  let s ← get
  let w := s.whoSlot k (.issue k)
  let id := rd b 0 2 % 4096
  let count := rd b 4 4
  let list := rd b 8 8
  match s.arenaFor w.tenant id with
  | none => modify (·.gramDone k 1); pure true
  | some a =>
    if a.slot.isSome then modify (·.gramDone k 2); pure true
    else if count = 0 ∨ 1024 < count ∨ list % 4 ≠ 0 then modify (·.gramDone k 1); pure true
    else
      let bs ← orFatal (do let x ← readMem w (dw list) (4 * count) 4; pure (some x)) fun _ _ => pure none
      let s ← get
      match bs.map fun x => (List.range count).map fun i => rd x (4 * i) 4 with
      | none => modify (·.gramDone k 1); pure true
      | some ids =>
        if ids.all fun i => sidOk i && s.streamUsable i w.tenant then
          set { s with arenas := s.arenas.put id { a with slot := some k, ids := ids, waits := [] } }
          pure false
        else modify (·.gramDone k 1); pure true

/-- The nodes of a stack from a handle down, as far as they lie in the half and have not been copied (R213). -/
def chain (w : Who) (id : Nat) (a : Arena) (memo : Table Nat) : Nat → Nat → M (List (Nat × Dword))
  | 0, _ => pure []
  | fuel + 1, h => do
    let n := handleNode h
    if h = 0 ∨ handleArena h ≠ id ∨ handleHalf h ≠ a.cur ∨ a.next ≤ n ∨ (memo.find? n).isSome then return []
    let bs ← readMem w (nodeAddr a.base a.cur n) 8 4
    let d := dw (leNat bs)
    let below ← chain w id a memo fuel (bits d 31 0)
    pure ((n, d) :: below)

/-- The handle of a copied node in the other half. -/
def copyHandle (id : Nat) (a : Arena) (n : Nat) : Nat := id * 2 ^ 20 + (if a.cur then 0 else 2 ^ 19) + n

/-- The handle that a copied stack has for an old handle. -/
def moved (id : Nat) (a : Arena) (memo : Table Nat) (h : Nat) : Nat :=
  if h ≠ 0 ∧ handleArena h = id ∧ handleHalf h = a.cur then ((memo.find? (handleNode h)).map (copyHandle id a)).getD h else h

/-- Copies the stacks of the listed streams in order: the memo of copied nodes, the copies, and each stream's new TOP. -/
def copyStacks (w : Who) (id : Nat) (a : Arena) : List Nat → Table Nat → List Dword → M (Table Nat × List Dword × List (Nat × Nat))
  | [], memo, out => pure (memo, out, [])
  | sid :: rest, memo, out => do
    let s ← get
    let top := cfgTop (scbGcfg (s.scb sid))
    if scbState (s.scb sid) = 0 ∨ top = 0 ∨ handleArena top ≠ id ∨ handleHalf top ≠ a.cur then copyStacks w id a rest memo out
    else
      let ns ← chain w id a memo a.next top
      let r := ns.reverse.foldl (fun (p : Table Nat × List Dword) x =>
        (p.1.put x.1 p.2.length, p.2 ++ [setBits x.2 31 0 (moved id a p.1 (bits x.2 31 0))])) (memo, out)
      let more ← copyStacks w id a rest r.1 r.2
      pure (more.1, more.2.1, (sid, moved id a r.1 top) :: more.2.2)

/-- An advance in this arena has nodes to write, or is on its way to a stream's GCFG. -/
def State.advancing (s : State) (id : Nat) : Bool :=
  s.slots.any fun e => e.2.outs.any fun o => match o.op with
    | .gadv nodes _ stream c _ => (nodes.isSome || stream.isSome) && cfgTop c != 0 && handleArena (cfgTop c) == id
    | _ => false

/-- The copies of a commit and the flip of CUR (R213). -/
def commitCopy (k id : Nat) (a : Arena) : M Unit := do
  let s ← get
  if s.advancing id then throw (.wait fun t => t)
  let w := s.whoGram k (.issue k)
  let r ← copyStacks w id a a.ids [] []
  let ws ← writeMem w (nodeAddr a.base (!a.cur) 0) (r.2.1.flatMap fun x => leBytes 8 x.toNat) 5
  modify fun s =>
    let s := r.2.2.foldl (fun s p => s.setGcfg p.1 (setBits (scbGcfg (s.scb p.1)) 63 32 p.2)) s
    { s with arenas := s.arenas.put id { a with cur := !a.cur, next := r.2.1.length, ids := [], waits := ws } }

/-- ARENA_COMMIT (R213): COMMITTING, the copies, and OPEN once they are visible. A FATAL reply on a node ends the command
with the arena OPEN as it stood. -/
def execArenaCommit (s : State) : Res :=
  let k := s.ev.who
  .next <| match s.cmd? k 0x0A8 with
    | some v =>
      if gramOpc v ≠ 3 then s
      else runM (do
        let fin ← (match s.myCommit k with
          | none => commitStart k v
          | some (id, a) =>
            if a.ids ≠ [] then (do commitCopy k id a; pure false)
            else do
              settleWrites (s.whoGram k (.issue k)) a.waits
              modify fun s => ({ s with arenas := s.arenas.put id { a with slot := none, waits := [] } }).gramDone k 0
              pure true : M Bool)
        modify fun s =>
          let s := (s.dropFault (.issue k)).dropRequests (.issue k)
          if fin then s.finishCmd k else s)
        (fun sub va s =>
          let s := match s.myCommit k with
            | some (id, a) => { s with arenas := s.arenas.put id { a with slot := none, ids := [], waits := [] } }
            | none => s
          s.cmdFatal k sub va) (fun _ s => s) s
    | none => s

end Sys2Proof.Machine
end

