-- ==== Sys2Proof/Machine/Kv.lean ====
section
/-! DEFINITION. Key-value blocks (R218–R224): tables, counts, the block commands, and what the copy and the release of a
table frame do to the counts. -/

namespace Sys2Proof.Machine

/-! ### Tables and entries (R218–R221) -/

/-- A state address in the window of the stream in focus (R67, R151). -/
def windowAddr (a : Nat) : Dword := dw (0xFE000000000000 + a % 2 ^ 48)

def scbKvtab (r : List Byte) : Nat := rd r 0x50 8
def scbKvlen (r : List Byte) : Nat := rd r 0x58 4

/-- The fields of a table header (R218). -/
structure KvTab where
  addr   : Nat
  blog2  : Nat
  fmt    : Nat
  hdim   : Nat
  layers : Nat
  groups : Nat
  maxblk : Nat
  pool   : Nat
  blks   : Nat
  cnt    : Nat
  scores : Nat
  deriving DecidableEq, Repr

/-- Tokens per block, element size and block size (R219). -/
def KvTab.tokens (t : KvTab) : Nat := 2 ^ t.blog2
def KvTab.esize (t : KvTab) : Nat := if t.fmt = 0 then 2 else 1
def KvTab.blockSize (t : KvTab) : Nat := 2 * t.tokens * t.hdim * t.esize

/-- The pool and the counts lie in the tenant space, and the score table in the state space (R218). -/
def KvTab.placed (t : KvTab) : Bool :=
  decide (t.pool + 4 * t.blks * t.blockSize ≤ 0xFE000000000000 ∧ t.cnt + 16 * t.blks ≤ 0xFE000000000000 ∧ t.scores < 2 ^ 48)

/-- The header at `addr`; none where it breaks a limit of R218. -/
def kvHeader (addr : Nat) (h : List Byte) : Option KvTab :=
  let t : KvTab := ⟨addr, rd h 0 1, rd h 1 1, rd h 2 2, rd h 4 2, rd h 6 2, rd h 8 4, rd h 0x10 8, rd h 0x18 4, rd h 0x20 8, rd h 0x28 8⟩
  if decide (4 ≤ t.blog2 ∧ t.blog2 ≤ 7 ∧ t.fmt ≤ 2) && (t.hdim == 64 || t.hdim == 128) &&
      decide (1 ≤ t.layers ∧ t.layers ≤ 4096 ∧ 1 ≤ t.groups ∧ t.groups ≤ 64 ∧ 1 ≤ t.maxblk ∧ t.maxblk ≤ 0x100000) &&
      rd h 0xC 4 == 0 && t.pool % 65536 == 0 && decide (1 ≤ t.blks ∧ t.blks ≤ 0x1000000) && rd h 0x1C 4 == 0 &&
      t.cnt % 64 == 0 && t.scores % 4 == 0 && rd h 0x30 16 == 0 && t.placed then some t
  else none
/-- State address of an entry (R218). -/
def KvTab.entryAddr (t : KvTab) (ly g i : Nat) : Nat := t.addr + 64 + ((ly * t.groups + g) * t.maxblk + i) * 8
/-- Number of the block that an entry names, among those of the pool (R221). -/
def KvTab.blockNo (t : KvTab) (e : Dword) : Nat := bits e 45 44 * t.blks + bits e 31 0
def KvTab.blockVa (t : KvTab) (e : Dword) : Dword := dw (t.pool + t.blockNo e * t.blockSize)
def KvTab.countVa (t : KvTab) (no : Nat) : Dword := dw (t.cnt + no * 4)
/-- V and TIER of an entry (R220). -/
def kvValid (e : Dword) : Bool := e.getLsbD 32
def kvTier (e : Dword) : Nat := bits e 63 62

/-! ### Counts (R221, R222) -/

/-- Adds to a count at its home, with ACCESS = 2: the old value. -/
def countAdd (w : Who) (pkg : Option Nat) (va : Dword) (x : Word) : M Nat := do
  match pkg with
  | some pkg => do
    let a ← askPeer w pkg 3 va (leBytes 4 x.toNat) [(0x10, 8, va.toNat), (0x18, 1, 0), (0x19, 1, 0), (0x20, 8, x.toNat)] []
    let bs ← statusOk w a va
    pure (leNat (bs.take 4))
  | none => do
    let p ← placeWrite w va 4 2
    match p with
    | .peer pkg => do
      let a ← askPeer w pkg 3 va (leBytes 4 x.toNat) [(0x10, 8, va.toNat), (0x18, 1, 0), (0x19, 1, 0), (0x20, 8, x.toNat)] []
      let bs ← statusOk w a va
      pure (leNat (bs.take 4))
    | .host => throw (.fatal 0x25 va)
    | p => do
      let s ← get
      let old := leNat (s.placeBytes p 4)
      settledWrite w p (leBytes 4 (BitVec.ofNat 32 old + x).toNat)
      pure old

/-- Reads a count at its home. -/
def countRead (w : Who) (va : Dword) : M Nat := do
  let p ← placeRead w va 4 2 1
  match p with
  | .peer _ | .host => do let bs ← readPlace w va p 4; pure (leNat bs)
  | p => do let s ← get; pure (leNat (s.placeBytes p 4))

/-- Lowers the count of the block of an entry; an entry that names no block has none (R221). -/
def lowerEntry (w : Who) (t : KvTab) (e : Dword) : M Unit := do
  if kvTier e ≠ 3 then
    let _ ← countAdd w (if kvTier e = 2 then some (bits e 61 46) else none) (t.countVa (t.blockNo e)) (-1)

/-- The lowest block of a die section whose count is 0, from `i` on: its count becomes 1 (R223). -/
def allocBlock (w : Who) (t : KvTab) (die : Nat) : Nat → Nat → M (Option Nat)
  | 0, _ => pure none
  | n + 1, i => do
    let c ← countRead w (t.countVa (die * t.blks + i))
    if c = 0 then do
      let _ ← countAdd w none (t.countVa (die * t.blks + i)) 1
      pure (some i)
    else allocBlock w t die n (i + 1)

/-! ### Entries -/

/-- The header of a stream's table (R218). -/
def readKvTab (w : Who) (addr acc : Nat) : M (Option KvTab) := do
  let h ← readMem w (windowAddr addr) 64 acc
  pure (kvHeader addr h)

/-- An entry of the table, read in the state window. -/
def readEntry (w : Who) (a acc : Nat) : M Dword := do
  let bs ← readMem w (windowAddr a) 8 acc
  pure (dw (leNat bs))

/-- The entries of a tenant's table that lie in a page of the state space. -/
def KvTab.range (t : KvTab) (tenant : Half) (page : Nat) : KvRange where
  lo := max page (t.addr + 64) - page
  hi := min (page + 65536) (t.addr + 64 + t.layers * t.groups * t.maxblk * 8) - page
  tenant := tenant
  cnt := dw t.cnt
  blks := t.blks

/-- A frame holds entries: its bit of the table-frame bitmap is set (R222). -/
def State.addRange (s : State) (pa : Nat) (r : KvRange) : State :=
  s.modFrame pa fun f => if f.kv.contains r then f else { f with kv := f.kv ++ [r] }

/-- Sets the bit of the frame into which an entry has been written (R222). -/
def noteEntry (w : Who) (t : KvTab) (a : Nat) (p : Place) : M Unit :=
  match p with
  | .mem pa => modify (·.addRange pa (t.range w.tenant (a % 2 ^ 48 / 65536 * 65536)))
  | _ => pure ()

/-- Writes an entry through WriteWalk and sets the bit of its frame (R222). -/
def writeEntry (w : Who) (t : KvTab) (a : Nat) (e : Dword) : M (List Nat) := do
  let p ← placeWrite w (windowAddr a) 8 5
  let ws ← writePlace w (windowAddr a) p (leBytes 8 e.toNat)
  noteEntry w t a p
  pure ws

/-- Writes an entry within the step of a command. -/
def storeEntry (w : Who) (t : KvTab) (a : Nat) (e : Dword) : M Unit := do
  let p ← placeWrite w (windowAddr a) 8 5
  storePlace w (windowAddr a) p (leBytes 8 e.toNat)
  noteEntry w t a p

/-! ### The block commands (R223) -/

/-- Results of KVSTAT (R223). -/
def kvOk : Nat := 0
def kvBadArg : Nat := 1
def kvNoRoom : Nat := 2
def kvState : Nat := 3
def kvFault : Nat := 4

/-- What a command names: its table, its entry's state address, its block, and the entry as it was read. -/
structure KvCmd where
  sid   : Nat
  block : Dword
  img   : List Byte
  tab   : KvTab
  entry : Nat
  old   : Dword
  deriving DecidableEq, Repr

/-- The accessor of a command: the writer's tenant, with the stream's state space, at the SCB home. -/
def State.whoKv (s : State) (k sid : Nat) : Who :=
  { s.whoSlot k (.issue k) with core := none, die := scbHome sid % 4, stream := some sid }

/-- Reads the command block, the header and the entry, and checks what every command checks (R223). -/
def kvRead (k : Nat) (v : Dword) : M (Except Nat KvCmd) := do
  let img ← readImage k v
  let s ← get
  let sid := rd img 0 4
  if !(sidOk sid && s.streamUsable sid (s.slot k).tenant) then return .error kvState
  let t ← readKvTab (s.whoKv k sid) (scbKvtab (s.scb sid)) 0
  match t with
  | none => pure (.error kvBadArg)
  | some t =>
    let ly := rd img 4 2; let g := rd img 6 1; let i := rd img 8 4
    if t.layers ≤ ly ∨ t.groups ≤ g ∨ t.maxblk ≤ i then pure (.error kvBadArg)
    else do
      let e ← readEntry (s.whoKv k sid) (t.entryAddr ly g i) 0
      pure (.ok ⟨sid, keepBits v 55 6, img, t, t.entryAddr ly g i, e⟩)

/-- Writes ADDR (R223): a FATAL reply leaves what has been done. -/
def kvAnswer (k : Nat) (block va : Dword) : M Nat := orFatal (do
  let s ← get
  let _ ← writeMem (s.whoSlot k (.issue k)) (block + 0x30) (leBytes 8 va.toNat) 5
  pure kvOk) fun _ _ => pure kvFault

/-- A count that a command lowers; a lost lowering is counted (R222, R223). -/
def kvLower (w : Who) (pkg : Option Nat) (va : Dword) : M Nat :=
  orFatal (do let _ ← countAdd w pkg va (-1); pure kvOk) fun _ _ => do
    modify (·.modDie w.die fun d => { d with schedErr := d.schedErr + 1 })
    pure kvFault

/-- The count has been lowered: ADDR follows where it is due, and the result of a command that is over stands. -/
def KvLow.finish (k : Nat) (l : KvLow) (r : Nat) : M Nat :=
  if l.result ≠ kvOk then pure l.result
  else match l.answer with
    | some (block, va) => if r = kvOk then kvAnswer k block va else pure r
    | none => pure r

/-- The count lies in another package: in that of a TIER 2 entry, or where the page of the count is mapped. -/
def KvLow.away (w : Who) (l : KvLow) : M Bool :=
  match l.pkg with
  | some _ => pure true
  | none => orFatal (do
      let p ← placeWrite w l.va 4 2
      match p with
      | .peer _ => pure true
      | _ => pure false) fun _ _ => pure false

/-- Lowers a count once what precedes it in the command stands: one of this package in the same step, one of another package in
the next (R223). -/
def kvLowerAfter (k : Nat) (w : Who) (l : KvLow) : M (Option Nat) := do
  let far ← l.away w
  if far then do
    modify (·.modSlot k fun x => { x with kvLow := some l })
    pure none
  else do
    let r ← kvLower w l.pkg l.va
    some <$> l.finish k r

/-- The step of a command: its result, or none where it has still to lower a count of another package. -/
def kvStep (k : Nat) (v : Dword) (act : Who → KvCmd → M (Option Nat)) : M (Option Nat) := do
  let s ← get
  match (s.slot k).kvLow with
  | some l => do
    let r ← kvLower { s.whoSlot k (.issue k) with core := none, die := l.die } l.pkg l.va
    some <$> l.finish k r
  | none => do
    fenceM k .package true false
    orFatal (do
      if 4 ≤ bits v 63 61 then return some kvBadArg
      let c ← kvRead k v
      match c with
      | .error r => pure (some r)
      | .ok c => do
        let s ← get
        act (s.whoKv k c.sid) c) fun _ _ => pure (some kvFault)

/-- Runs a block command: FENCE.REL PACKAGE, its step, and the result in KVSTAT; no FATAL reply traps. -/
def runKv (op : Nat) (act : Who → KvCmd → M (Option Nat)) (s : State) : State :=
  let k := s.ev.who
  match s.cmd? k 0x0B0 with
  | none => s
  | some v =>
    if bits v 63 61 ≠ op ∧ ¬ (op = 0 ∧ 4 ≤ bits v 63 61) then s
    else runM (do
        let r ← kvStep k v act
        modify fun s =>
          let s := (s.dropFault (.issue k)).dropRequests (.issue k)
          match r with
          | none => s
          | some r => (s.modSlot k fun x => { x with kvstat := dw r, kvLow := none }).finishCmd k)
      (fun sub va s => s.cmdFatal k sub va) (fun t s => (s.modSlot k fun x => { x with cmd := none }).raise k t) s

/-- What ALLOC and OPEN do once they have taken a block, up to the write of the entry: a FATAL reply gives the block back (R223). -/
def kvTaken (k : Nat) (w : Who) (c : KvCmd) (e : Dword) (m : M Unit) (go : M (Option Nat)) : M (Option Nat) := do
  let r ← orFatal (do m; pure true) fun _ _ => pure false
  if r then go
  else kvLowerAfter k w ⟨w.die, none, c.tab.countVa (c.tab.blockNo e), none, kvFault⟩

/-- KV_ALLOC (R223); OP 4–7 give BADARG. -/
def execKvAlloc (s : State) : Res := .next <| runKv 0 (fun w c => do
  let die := rd c.img 7 1 % 4; let tier := rd c.img 7 1 / 4 % 4
  if kvValid c.old ∨ 1 < tier then return some kvBadArg
  let b ← allocBlock w c.tab die c.tab.blks 0
  match b with
  | none => pure (some kvNoRoom)
  | some gbn =>
    let e := dw (tier * 2 ^ 62 + die * 2 ^ 44 + 2 ^ 32 + gbn)
    kvTaken s.ev.who w c e (storeEntry w c.tab c.entry e) (some <$> kvAnswer s.ev.who c.block (c.tab.blockVa e))) s

/-- KV_OPEN: OpenBlock (R223). -/
def execKvOpen (s : State) : Res := .next <| runKv 1 (fun w c => do
  if !kvValid c.old ∨ 2 ≤ kvTier c.old then return some kvBadArg
  let _ ← placeWrite w (windowAddr c.entry) 8 5
  let e ← readEntry w c.entry 0
  let n ← countRead w (c.tab.countVa (c.tab.blockNo e))
  if n = 1 then some <$> kvAnswer s.ev.who c.block (c.tab.blockVa e)
  else do
    let b ← allocBlock w c.tab (bits e 45 44) c.tab.blks 0
    match b with
    | none => pure (some kvNoRoom)
    | some gbn =>
      let e' := setBits e 31 0 gbn
      kvTaken s.ev.who w c e' (do
          let bs ← readMem w (c.tab.blockVa e) c.tab.blockSize 4
          storeMem w (c.tab.blockSize / 4096 + 2) (c.tab.blockVa e') bs
          storeEntry w c.tab c.entry e')
        (kvLowerAfter s.ev.who w ⟨w.die, none, c.tab.countVa (c.tab.blockNo e), some (c.block, c.tab.blockVa e'), kvOk⟩)) s

/-- KV_RELEASE (R223): the entry becomes zero, and then the count goes down; that of a block of another package is lowered there
once the entry is zero. -/
def execKvRelease (s : State) : Res := .next <| runKv 2 (fun w c => do
  let e := c.old
  if !kvValid e then return some kvBadArg
  storeEntry w c.tab c.entry 0
  let va := c.tab.countVa (c.tab.blockNo e)
  if kvTier e = 3 then pure (some kvOk)
  else kvLowerAfter s.ev.who w ⟨w.die, if kvTier e = 2 then some (bits e 61 46) else none, va, none, kvOk⟩) s

/-- KV_SETLEN (R223). -/
def execKvSetlen (s : State) : Res := .next <| runKv 3 (fun _ c => some <$> do
  let n := rd c.img 0x10 4
  if c.tab.maxblk * c.tab.tokens < n then return kvBadArg
  modify (·.scbStep c.sid fun r => wr r 0x58 4 n)
  pure kvOk) s

/-! ### Table frames (R222) -/

/-- A block's count as the entries of a frame name it: tenant, package where it is another one, and address. -/
abbrev KvCount := Half × Option Nat × Dword

/-- The counts that the valid TIER 0–2 entries of a frame name, each once. -/
def kvCounts (kv : List KvRange) (img : Memory) : List KvCount :=
  (kv.flatMap fun r => (List.range ((r.hi - r.lo + 7) / 8)).filterMap fun i =>
    let e := dw (leNat (img.readBytes (r.lo + 8 * i) 8))
    if kvValid e && kvTier e != 3 then
      some ((r.tenant, if kvTier e = 2 then some (bits e 61 46) else none,
        r.cnt + dw ((bits e 45 44 * r.blks + bits e 31 0) * 4)) : KvCount)
    else none).dedup

/-- The contents of a frame at its home. -/
def State.frameImg (s : State) (pa : Nat) : Memory := sliceMem s.mem (viewKey (homeDie pa) pa) 65536

/-- Raises the count of every block that a copied frame names. -/
def raiseCounts (die n : Nat) : List KvCount → M Unit
  | [] => pure ()
  | (t, pkg, va) :: rest => do
    let _ ← countAdd (whoUnit die t (.device n) 0) pkg va 1
    raiseCounts die n rest

/-- Lowers the count of every block that a freed frame names; a lowering that is lost is counted. -/
def lowerCounts (die n : Nat) : List KvCount → M Unit
  | [] => pure ()
  | (t, pkg, va) :: rest => do
    let lost : M Unit := modify (·.modDie die fun d => { d with schedErr := d.schedErr + 1 })
    let s ← get
    if (s.tenant? t).isNone then lost
    else orFatal (do let _ ← countAdd (whoUnit die t (.device n) 0) pkg va (-1)) fun _ _ => lost
    lowerCounts die n rest

/-- A home bank frees a table frame: the counts of its blocks go down first (R222). -/
def State.homeFree (s : State) (frame : Nat) : State :=
  if !s.kvFree.contains frame then s
  else
    let pa := frame * 65536
    let n := 2 ^ 60 + frame
    runM (do
      lowerCounts (homeDie pa) n (kvCounts (s.frameDesc pa).kv (s.frameImg pa))
      modify fun s =>
        let s := ((s.dropFault (.device n)).dropRequests (.device n)).modFrame pa fun f => { f with kv := [] }
        { s with kvFree := s.kvFree.filter (· ≠ frame) }.freeFrame pa)
      (fun _ _ s => s) (fun _ s => s) s

/-- The copy stands (R80): the leaf is rewritten, counts go down, the page leaves the TLBs and the level-0 node is free. -/
def State.endCopy (s : State) (c : CopyJob) : State :=
  let s := s.modFrame c.fresh fun f => { f with refcnt := 1, pincnt := 0
                                                hv := (s.frameDesc c.old).hv, hash1 := (s.frameDesc c.old).hash1
                                                hash2 := (s.frameDesc c.old).hash2 }
  let s := s.setEntry c.slot (setBits (s.entry c.slot) 39 16 (c.fresh / 65536))
  let s := (s.lowerFrame c.old).tlbDrop c.root c.page
  let s := s.modNode c.node fun n => { n with busy := false }
  { s with copies := s.copies.filter fun x => x.n ≠ c.n }

/-- A raise ends FATAL (R222): the copy is given up, and the write that began it ends with that reply. -/
def State.failCopy (s : State) (c : CopyJob) (sub : Byte) (va : Dword) : State :=
  let s := (s.dropFault (.device c.n)).dropRequests (.device c.n)
  let s := s.modNode c.node fun n => { n with busy := false }
  let s := { s with frames := s.frames.del (c.fresh / 65536), copies := s.copies.filter fun x => x.n ≠ c.n }
  match c.who with
  | some (r, a) => { s with faults := s.faults ++ [{
      die := homeDie c.old, req := r, kind := kPerm, access := 2, size := 2, level := 0, tenant := (s.frameDesc c.old).owner
      va := a, root := dw c.root, wher := 0, dest := 0xFF, pc := 0, entry := va, tag := some 4096
      verdict := some (.fatal sub) }] }
  | none => s

/-- FRAME_COPY_DONE (R80, R222): a table frame's copy first raises the counts of its blocks. -/
def execFrameCopyDone (s : State) : Res :=
  .next <| match s.copies.find? fun c => c.n = s.ev.who with
    | some c =>
      if !s.writeDone c.write then s
      else runM (do
        raiseCounts (homeDie c.old) c.n (kvCounts (s.frameDesc c.fresh).kv (s.frameImg c.fresh))
        modify fun s => ((s.dropFault (.device c.n)).dropRequests (.device c.n)).endCopy c)
        (fun sub va s => s.failCopy c sub va) (fun _ s => s) s
    | none => s

end Sys2Proof.Machine
end

