-- ==== Sys2Proof/Machine/Tables.lean ====
section
/-! DEFINITION. The tables that the firmware reserves in device space at boot (R77, R179, R182): where their records stand, what
they hold, and how a restore reads them back (R181). -/

namespace Sys2Proof.Machine

/-! ### Records -/

def bitIf (b : Bool) (i : Nat) : Nat := if b then 2 ^ i else 0

/-- A node descriptor and a frame descriptor (R77). -/
def NodeDesc.image (n : NodeDesc) : List Byte :=
  leBytes 4 n.refcnt ++ [BitVec.ofNat 8 n.level, if n.busy then 1 else 0] ++ leBytes 2 n.owner.toNat ++ List.replicate 8 0
def FrameDesc.image (f : FrameDesc) : List Byte :=
  leBytes 4 f.refcnt ++ leBytes 4 f.gen.toNat ++ leBytes 2 f.pincnt ++
    leBytes 2 (bitIf f.poison 4 + bitIf f.side 3 + bitIf f.lq 2 + bitIf f.watch 1 + bitIf f.hv 0) ++ leBytes 4 f.owner.toNat ++
    leBytes 8 f.hash1.toNat ++ leBytes 8 f.hash2.toNat

/-- A tenant's record (R182): its contents are the spec's, its layout the model's (log entry 42). -/
def Tenant.image (t : Tenant) : List Byte :=
  leBytes 8 t.root.toNat ++ leBytes 8 t.key1.toNat ++ leBytes 8 t.key2.toNat ++ leBytes 4 t.quota.toNat ++ leBytes 4 t.frames.toNat ++
    [1, if t.locked then 1 else 0] ++ List.replicate 30 0

/-- A tenant's record without its keys (R45). -/
def Tenant.openImage (t : Tenant) : List Byte := t.image.take 8 ++ List.replicate 16 0 ++ t.image.drop 24

def nodeOfImage (r : List Byte) : NodeDesc := ⟨rd r 0 4, rd r 4 1, false, BitVec.ofNat 16 (rd r 6 2)⟩
/-- A frame descriptor as a restore reads it: nothing is pinned, and the watchers are those of the Cast entries. -/
def frameOfImage (r : List Byte) : FrameDesc where
  refcnt := rd r 0 4
  gen := BitVec.ofNat 32 (rd r 4 4)
  pincnt := 0
  poison := (BitVec.ofNat 8 (rd r 0xA 1)).getLsbD 4
  side := (BitVec.ofNat 8 (rd r 0xA 1)).getLsbD 3
  lq := false
  watch := false
  hv := (BitVec.ofNat 8 (rd r 0xA 1)).getLsbD 0
  owner := BitVec.ofNat 16 (rd r 0xC 2)
  hash1 := dw (rd r 0x10 8)
  hash2 := dw (rd r 0x18 8)
def tenantOfImage (r : List Byte) : Tenant :=
  ⟨dw (rd r 0 8), dw (rd r 8 8), dw (rd r 0x10 8), BitVec.ofNat 32 (rd r 0x18 4), BitVec.ofNat 32 (rd r 0x1C 4), 0, rd r 0x21 1 == 1⟩
/-- A Cast entry (R191, R192) with the words of its result list. -/
def castOfImage (r list : List Byte) : CastEntry :=
  let n0 := ceilDiv (rd r 0x24 4) 65536
  let n1 := ceilDiv (rd r 0x28 4) 65536
  let fs := fun (i n : Nat) => (List.range n).map fun j => rd list (4 * (i + j)) 4 * 65536
  { key := r.take 32, tenant := BitVec.ofNat 16 (rd r 0x20 2), len0 := rd r 0x24 4, len1 := rd r 0x28 4, hits := rd r 0x2C 4
    list := rd r 0x30 8, lastuse := rd r 0x38 4, res0 := fs 0 n0, res1 := fs n0 n1, reads := fs (n0 + n1) (rd r 0x3E 2) }

/-! ### Regions (log entry 42) -/

/-- Size of a record of each region: 0 node descriptors, 1 frame descriptors, 2 table-frame bitmap, 3 streams, 4 groups,
5 models, 6 deck, 7 Cast table, 8 tenants with their keys. -/
def regionSize (r : Nat) : Nat := [16, 32, 1, 256, 64, 64, 128, 64, 64].getD r 1
/-- Frames of a region on each die; the model table and the tenant table lie on die 0 only. -/
def regionFrames (r d : Nat) : Nat :=
  if (r = 5 ∨ r = 8) ∧ d ≠ 0 then 0 else [256, 1280, 5, 1024, 4, 1, 128, 64, 64].getD r 0

/-- The first frame of a region on a die: a bank-aligned one, so that a descriptor has the home bank of what it describes
(R77). -/
def State.regionBase (s : State) (r d : Nat) : Option Nat := (s.regions.find? (4 * r + d)).map fun f => f / 256 * 256

/-- The frames of every region. -/
def State.regionList (s : State) : List Nat :=
  (List.range 36).flatMap fun i => match s.regionBase (i / 4) (i % 4) with
    | some b => (List.range (regionFrames (i / 4) (i % 4))).map fun j => b + j
    | none => []

/-- A frame is one of a region; one of the tenant table's. -/
def State.inRegion (s : State) (r d f : Nat) : Bool := (s.regionBase r d).any fun b => decide (b ≤ f ∧ f < b + regionFrames r d)
def State.reserved (s : State) (f : Nat) : Bool := (List.range 36).any fun i => s.inRegion (i / 4) (i % 4) f

/-- Place of a frame among those of its home bank, and the frame there. -/
def bankPlace (pa : Nat) : Nat := if pa < 2 ^ 39 then pa % 2 ^ 37 / 2 ^ 24 else 8192 + pa % 2 ^ 25 / 65536
def bankFrame (d b j : Nat) : Nat :=
  if j < 8192 then d * 2 ^ 37 + j * 2 ^ 24 + b * 65536 else 2 ^ 39 + d * 2 ^ 33 + b * 2 ^ 25 + (j - 8192) * 65536

/-- Offsets of the descriptors of a node and of a frame in their regions, and what a record at an index describes. -/
def nodeOffset (pa : Nat) : Nat := homeBank pa % 256 * 65536 + pa % 2 ^ 25 / 8192 % 4096 * 16
def nodeAt (d i : Nat) : Nat := 2 ^ 39 + d * 2 ^ 33 + i / 4096 % 256 * 2 ^ 25 + i % 4096 * 8192
def frameOffset (pa : Nat) : Nat := (bankPlace pa / 2048 * 256 + homeBank pa % 256) * 65536 + bankPlace pa % 2048 * 32
def frameAt (d i : Nat) : Nat := bankFrame d (i / 2048 % 256) (i / 2048 / 256 * 2048 + i % 2048)
/-- The bit of a frame in the bitmap (R222). -/
def frameBit (pa : Nat) : Nat := bankPlace pa * 256 + homeBank pa % 256

/-- The bytes of a die's bitmap that have a bit set. -/
def State.bitmap (s : State) (d : Nat) : List (Nat × List Byte) :=
  let is := (s.frames.filter fun (e : Nat × FrameDesc) => homeDie (e.1 * 65536) == d && !e.2.kv.isEmpty).map fun e => frameBit (e.1 * 65536)
  (is.map (· / 8)).dedup.map fun k => (k, [BitVec.ofNat 8 (((is.filter fun i => i / 8 == k).map fun i => 2 ^ (i % 8)).sum)])

/-- The records of a region on a die, each with its offset. -/
def State.regionRecords (s : State) (r d : Nat) : List (Nat × List Byte) :=
  match r with
  | 0 => (s.nodes.filter fun (e : Nat × NodeDesc) => homeDie (e.1 * 8192) == d).map fun e => (nodeOffset (e.1 * 8192), e.2.image)
  | 1 => (s.frames.filter fun (e : Nat × FrameDesc) => homeDie (e.1 * 65536) == d).map fun e => (frameOffset (e.1 * 65536), e.2.image)
  | 2 => s.bitmap d
  | 3 => (s.scbs.filter fun (e : Nat × List Byte) => scbHome e.1 == d).map fun e => (e.1 % 2 ^ 18 * 256, e.2.take 256)
  | 4 => (s.groups.filter fun (e : Nat × Group) => e.1 / 2 ^ 30 == d).map fun e => (e.1 % 4096 * 64, e.2.img.take 64)
  | 5 => if d = 0 then s.models.map fun e => (e.1 * 64, e.2.take 64) else []
  | 6 => (s.die d).deck.zipIdx.map fun p => (p.2 * 128, p.1.bytes)
  | 7 => (s.cast.filter fun (e : Nat × CastEntry) => e.1 / 65536 == d).map fun e => (e.1 % 65536 * 64, e.2.image)
  | _ => if d = 0 then s.tenants.map fun e => (e.1 * 64, e.2.image) else []

/-- Every record at its physical address. -/
def State.tableCells (s : State) : Memory :=
  (List.range 36).foldl (fun (m : Memory) i => match s.regionBase (i / 4) (i % 4) with
    | some b => (s.regionRecords (i / 4) (i % 4)).foldl (fun (m : Memory) p => m.writeBytes (b * 65536 + p.1) p.2) m
    | none => m) []

/-- The reserved frames with their contents now (R179). -/
def State.regionImages (s : State) : List (Nat × Memory) :=
  let m := s.tableCells
  s.regionList.map fun f => (f, sliceMem m (f * 65536) 65536)

/-! ### Restore (R181, R182, R222) -/

/-- The records of a region that an image holds, each with its index; a record of zeros is none. -/
def State.readRecords (s : State) (img : Memory) (r d : Nat) : List (Nat × List Byte) :=
  match s.regionBase r d with
  | none => []
  | some b =>
    let m := sliceMem img (b * 65536) (regionFrames r d * 65536)
    let n := regionSize r
    (m.map fun c => c.1 / n).dedup.map fun i => (i, m.readBytes (i * n) n)

/-- The records of a region on the four dies as a table. -/
def State.readTable {α : Type} (s : State) (img : Memory) (r : Nat) (key : Nat → Nat → Nat) (f : List Byte → α) : Table α :=
  [0, 1, 2, 3].foldl (fun (t : Table α) d => (s.readRecords img r d).foldl (fun (t : Table α) e => t.put (key d e.1) (f e.2)) t) []

/-- The package's hardware decrypts a frame of an image (R182). -/
def decryptAt (gen : Word) (img : Memory) (f : Nat) : Memory :=
  replaceMem img (f * 65536) 65536
    (Memory.writeBytes [] 0 ((Config.decryptFrame gen.toNat (f * 65536) (img.readBytes (f * 65536) 65536)).take 65536))

/-- Groups with their members counted from the streams as they stand; one that was RESOLVING resolves again (R168, R169). -/
def State.regroup (s : State) : State :=
  { s with groups := s.groups.map fun (e : Nat × Group) =>
      let ids := (s.scbs.filter fun (x : Nat × List Byte) => scbGroup x.2 == e.1 && scbMember x.2)
      let at_ := (ids.filter fun (x : Nat × List Byte) => scbAtHorizon x.2).map fun x => x.1
      let img := wr (wr e.2.img 8 2 ids.length) 0xC 2 at_.length
      (e.1, ⟨if rd img 0xF 1 = 2 then wr img 0xF 1 1 else img, at_⟩) }

/-- A stream after a restore (R181): one that was RUNNING settles, a READY one is on its board, an EVICTED one waits in its die's
list unless it was on its way to another package (R177), and a DEAD one, which nothing pins or has queued any more, is FREE
(R170). -/
def State.standAgain (s : State) (id : Nat) : State :=
  let r := s.scb id
  let d := scbHome id
  match scbState r with
  | 1 => s.modDie d fun x => { x with board := x.board ++ [⟨scbModel r, scbCursor r, id, s.timer.toNat⟩] }
  | 2 => s.settle id
  | 5 => if scbEvkind r = 3 then s else s.modDie d fun x => { x with evicted := x.evicted ++ [id] }
  | 6 => s.release id
  | _ => s

/-- The bytes at a state address below one leaf, as they stand at their homes. -/
def State.stateBytes (s : State) (leaves : List (Nat × Dword × Nat × Bool)) (a n : Nat) : List Byte :=
  match leaves.find? fun l => decide (l.2.2.1 ≤ a ∧ a + n ≤ l.2.2.1 + 65536) && leafTier l.2.1 == 0 with
  | some l => s.readHome (leafFrame l.2.1 + (a - l.2.2.1)) n
  | none => []

/-- The entries of a stream's table lie again in the frames whose bit is set (R222). -/
def State.markTable (s : State) (flagged : Nat → Bool) (id : Nat) : State :=
  let r := s.scb id
  if scbKvtab r = 0 then s
  else
    let ls := s.streamLeaves id
    match kvHeader (scbKvtab r) (s.stateBytes ls (scbKvtab r) 64) with
    | none => s
    | some t => ls.foldl (fun s l =>
        let g := t.range (scbTenant r) l.2.2.1
        if leafTier l.2.1 = 0 ∧ g.lo < g.hi ∧ flagged (leafFrame l.2.1) then s.addRange (leafFrame l.2.1) g else s) s

/-- A restore from a safe tier (R181, R182): the generation, memory, and the tables that lie in reserved frames; no launch, and
no queue pair or launch queue. A group that had no member at the cut has none to lose (R169). -/
def State.restoreImage (s : State) (gen : Word) (img : Memory) : State :=
  let img := img.foldl (fun (m : Memory) c => if c.1 < 2 ^ 40 then m.writeByte c.1 c.2 else m) []
  let img := (List.range (regionFrames 8 0)).foldl (fun (m : Memory) j => match s.regionBase 8 0 with
    | some b => decryptAt gen m (b + j)
    | none => m) img
  let tenants := s.readTable img 8 (fun _ i => i) tenantOfImage
  let frames : Table FrameDesc := (s.readTable img 1 (fun d i => frameAt d i / 65536) frameOfImage).filter fun (e : Nat × FrameDesc) =>
    e.2.refcnt != 0 && !e.2.side
  let locked := (frames.filter fun (e : Nat × FrameDesc) => (Table.find? tenants e.2.owner.toNat).any fun t => t.locked).map fun e => e.1
  let img := locked.foldl (decryptAt gen) img
  let plain : Memory := img.filter fun (c : Nat × Byte) => !s.reserved (c.1 / 65536)
  let bit := fun (pa : Nat) => (s.readRecords img 2 (homeDie pa)).any fun e => e.1 == frameBit pa / 8 && rd e.2 0 1 / 2 ^ (frameBit pa % 8) % 2 == 1
  let s := { s with
    ckgen := gen
    mem := [0, 1, 2, 3].flatMap fun d => plain.map fun (c : Nat × Byte) => (viewKey d c.1, c.2)
    tenants := tenants
    frames := frames
    nodes := s.readTable img 0 (fun d i => nodeAt d i / 8192) nodeOfImage
    scbs := s.readTable img 3 (fun d i => d * 2 ^ 30 + i) fun r => setQueued (setPinned r false) false
    groups := s.readTable img 4 (fun d i => d * 2 ^ 30 + i) fun r => ⟨r, []⟩
    models := s.readTable img 5 (fun _ i => i) id
    cast := s.readTable img 7 (fun d i => d * 65536 + i) fun r => castOfImage r (img.readBytes (rd r 0x30 8) 8192) }
  let s := s.cast.foldl (fun (s : State) (e : Nat × CastEntry) => e.2.reads.foldl (fun s f => s.addWatch f (2 * e.1 + 1)) s) s
  let ids := s.scbs.map fun (e : Nat × List Byte) => e.1
  let young := (s.groups.filter fun (e : Nat × Group) => e.2.gstate == 1 && e.2.members == 0).map fun e => e.1
  let s := ids.foldl State.standAgain s.regroup
  let s := ids.foldl (fun s id => s.markTable bit id) s
  ((s.groups.map fun (e : Nat × Group) => e.1).filter fun g => !young.contains g).foldl State.checkGroup s

end Sys2Proof.Machine
end

