-- ==== Sys2Proof/Machine/TileIssue.lean ====
section
/-! DEFINITION. Tile frames at issue (R316–R320, R425–R453): payload fields, layout records, footprints and the checks of a
TCMD. -/

namespace Sys2Proof

/-! ### Payload fields (R319, R427) -/

def TilePayload.op (w : TilePayload) : Nat := w.w0.toNat % 256
def TilePayload.mode (w : TilePayload) : Nat := w.w0.toNat / 2 ^ 8 % 256
def TilePayload.ringA (w : TilePayload) : Nat := w.w0.toNat / 2 ^ 16 % 16
def TilePayload.ringB (w : TilePayload) : Nat := w.w0.toNat / 2 ^ 20 % 16
def TilePayload.acc (w : TilePayload) : Nat := w.w0.toNat / 2 ^ 24 % 16
def TilePayload.ordered (w : TilePayload) : Bool := w.w0.getLsbD 28
def TilePayload.notify (w : TilePayload) : Bool := w.w0.getLsbD 29
def TilePayload.splitk (w : TilePayload) : Bool := w.w0.getLsbD 30
def TilePayload.modeBit (w : TilePayload) (i : Nat) : Bool := w.w0.getLsbD (8 + i)
def TilePayload.a12 (w : TilePayload) : Nat := w.w1.toNat + w.w2.toNat * 2 ^ 32
def TilePayload.a34 (w : TilePayload) : Nat := w.w3.toNat + w.w4.toNat * 2 ^ 32
def TilePayload.role1 (w : TilePayload) : Nat := w.w7.toNat % 4
def TilePayload.role2 (w : TilePayload) : Nat := w.w7.toNat / 4 % 4
def TilePayload.w6bits (w : TilePayload) (hi lo : Nat) : Nat := w.w6.toNat / 2 ^ lo % 2 ^ (hi + 1 - lo)

/-- The queue of a tile opcode (R320). -/
def tileQueue (op : Nat) : Option Nat :=
  if 1 ≤ op ∧ op ≤ 0x0B then some 0
  else if op = 0x10 ∨ op = 0x11 ∨ op = 0x12 ∨ op = 0x15 ∨ op = 0x17 ∨ op = 0x18 then some 1
  else if op = 0x13 ∨ op = 0x14 ∨ op = 0x16 then some 2
  else if op = 0x20 ∨ op = 0x21 then some 3 else none

/-- The checks of w0 and w6 (R313, R319). -/
def TilePayload.illegal (w : TilePayload) (q : Nat) : Option IllegalCode :=
  if w.w0.msb || w.w6bits 15 13 != 0 || (!w.notify && w.w6 != 0) then some .rsvField
  else if (w.w6.getLsbD 10 && w.w6bits 4 0 == 0) || (w.notify && !w.w6.getLsbD 10 && !w.w6.getLsbD 11) ||
      (w.w6.getLsbD 12 && (!w.w6.getLsbD 10 || w.w6bits 9 5 != 0)) then some .operand
  else match tileQueue w.op with
    | none => some .tileOp
    | some t => if t = q then none else some .tileQ

/-- Applies a patch (R317). -/
def TilePayload.patch (w : TilePayload) (half : BitVec 2) (x : Dword) : TilePayload :=
  if half = 1 then { w with w1 := x.extractLsb' 0 32, w2 := x.extractLsb' 32 32 }
  else if half = 2 then { w with w3 := x.extractLsb' 0 32, w4 := x.extractLsb' 32 32 }
  else w

namespace Machine

/-- The register that completion fills (R319). -/
def tileTarget (w : TilePayload) (k : Nat) : Option (Nat × BitVec 5) :=
  if w.notify && w.w6.getLsbD 10 then
    some (if w.w6.getLsbD 12 then k else (clusterOf k * 4 + w.w6bits 9 8) * 8 + w.w6bits 7 5, w.w6.extractLsb' 0 5)
  else none

/-! ### Layout records (R431–R434) -/

structure Layout where
  base : Nat
  fmt  : Nat
  rank : Nat
  mode : Nat
  ilv  : Nat
  flags : Nat
  ext  : List Nat
  str  : List Nat
  worg : List Int
  wext : List Nat
  fill : Nat
  rsv  : Nat
  deriving DecidableEq, Repr

/-- Reads a record; stride 0 is ES (R431). -/
def Layout.parse (r : List Byte) : Layout where
  base := rd r 0 8
  fmt := rd r 8 1
  rank := rd r 9 1
  mode := rd r 0xA 1
  ilv := rd r 0xB 1
  flags := rd r 0xC 4
  ext := (List.range 4).map fun i => rd r (0x10 + 4 * i) 4
  str := formatWidth (rd r 8 1) / 8 :: (List.range 3).map fun i => rd r (0x20 + 8 * i) 8
  worg := (List.range 4).map fun i => toI 32 (rd r (0x38 + 4 * i) 4)
  wext := (List.range 4).map fun i => rd r (0x48 + 4 * i) 4
  fill := rd r 0x58 4
  rsv := rd r 0x5C 4

def Layout.es (l : Layout) : Nat := formatWidth l.fmt / 8
/-- Dimensions in use. -/
def Layout.dims (l : Layout) : Nat := min l.rank 4
def Layout.extAt (l : Layout) (d : Nat) : Nat := if d < l.rank then l.ext.getD d 1 else 1
def Layout.wextAt (l : Layout) (d : Nat) : Nat := if d < l.rank then l.wext.getD d 1 else 1
def Layout.worgAt (l : Layout) (d : Nat) : Int := if d < l.rank then l.worg.getD d 0 else 0
def Layout.strAt (l : Layout) (d : Nat) : Nat := l.str.getD d 0

/-- A window whose EXT or WEXT is zero in a dimension below RANK moves nothing (R433). -/
def Layout.empty (l : Layout) : Bool := (List.range l.dims).any fun d => l.extAt d == 0 || l.wextAt d == 0

/-- Window coordinates in ascending order, w0 fastest (R432). -/
def coords : List Nat → List (List Nat)
  | [] => [[]]
  | e :: rest => (coords rest).flatMap fun c => (List.range e).map fun i => i :: c

def Layout.coords (l : Layout) : List (List Nat) :=
  if l.empty then [] else Machine.coords ((List.range l.dims).map l.wextAt)

/-- Tensor indices of a window element. -/
def Layout.idx (l : Layout) (c : List Nat) : List Int := c.zipIdx.map fun p => l.worgAt p.2 + (p.1 : Int)

/-- In bounds (R432). -/
def Layout.inBounds (l : Layout) (idx : List Int) : Bool :=
  idx.zipIdx.all fun p => decide (0 ≤ p.1 ∧ p.1 < (l.extAt p.2 : Int))

/-- ElementAddress less BASE (R432). -/
def Layout.offset (l : Layout) (idx : List Nat) : Nat :=
  let off := (idx.zipIdx.map fun p => p.1 * l.strAt p.2).sum
  if l.ilv = 0 then off else off ^^^ (idx.getD 1 0 % 2 ^ l.ilv * 16)

/-- The address of an in-bounds element. -/
def Layout.addr (l : Layout) (idx : List Int) : Dword := dw (l.base + l.offset (idx.map Int.toNat))

/-- First and last in-bounds index of a dimension. -/
def Layout.range (l : Layout) (d : Nat) : Option (Nat × Nat) :=
  let lo := max 0 (l.worgAt d)
  let hi := min (l.extAt d : Int) (l.worgAt d + (l.wextAt d : Int))
  if lo < hi then some (lo.toNat, hi.toNat - 1) else none

/-- The span of the window, first byte and end; none when it has no in-bounds element (R432). -/
def Layout.span (l : Layout) (lines : Bool) : Option (Nat × Nat) :=
  let rs := (List.range l.dims).map l.range
  if rs.contains none then none
  else
    let at_ := fun (f : Nat × Nat → Nat) => ((rs.zipIdx).map fun p => ((p.1.map f).getD 0) * l.strAt p.2).sum
    let lo := l.base + at_ (·.1)
    let hi := l.base + at_ (·.2) + l.es
    if lines && l.ilv != 0 then some (lo / 128 * 128, (hi + 127) / 128 * 128) else some (lo, hi)

/-- The region that an address lies in, as RANGE compares it (R67, R433). -/
def regionTag (a : Nat) : Option Nat :=
  if 2 ^ 64 ≤ a then none
  else match regionOf (dw a) with
    | .tenant => some 0
    | .window => some 1
    | .own _ => some 2
    | .named c _ => some (3 + c)
    | _ => none

/-- Reserved fields, unused dimensions and unused bits of FILL are zero (R431). -/
def Layout.rsvOk (l : Layout) : Bool :=
  l.flags / 2 == 0 && l.rsv == 0 &&
  ((List.range 4).all fun d => decide (d < l.rank) || (l.ext.getD d 0 == 0 && decide (l.worg.getD d 0 = 0) && l.wext.getD d 0 == 0 &&
    (d == 0 || l.strAt d == 0))) &&
  (if l.es = 1 then decide (l.fill < 2 ^ 8) else if l.es = 2 then decide (l.fill < 2 ^ 16) else true)

/-- The LAYOUT check that a record fails first (R433): its address, the formats and the rank that the command accepts, and
whether a shape is broken. -/
def Layout.bad (l : Layout) (addr : Nat) (accept : Nat → Bool) (rank : Nat) (shape : Bool) : Option Byte :=
  if !l.rsvOk then some 1
  else if 12 < l.fmt ∨ !accept l.fmt then some 2
  else if l.rank = 0 ∨ 4 < l.rank ∨ (rank ≠ 0 ∧ l.rank ≠ rank) then some 3
  else if 2 < l.mode then some 4
  else if 3 < l.ilv then some 5
  else if l.empty then none
  else if addr % 64 ≠ 0 ∨ l.base % l.es ≠ 0 ∨ ([1, 2, 3].any fun d => l.strAt d % l.es != 0) ∨
      (l.ilv ≠ 0 ∧ (l.base % 128 ≠ 0 ∨ l.strAt 1 % 128 ≠ 0)) then some 6
  else if l.flags % 2 = 0 ∧ ([1, 2, 3].any fun d => decide (d < l.rank) && decide (l.strAt d < l.extAt (d - 1) * l.strAt (d - 1)))
    then some 7
  else if (match l.span false with
      | none => false
      | some (lo, hi) => (regionTag l.base).isNone || regionTag lo != regionTag l.base || regionTag (hi - 1) != regionTag l.base)
    then some 8
  else if shape then some 9
  else if l.mode = 2 ∧ ((List.range l.dims).any fun d =>
      decide (l.worgAt d < 0) || decide ((l.extAt d : Int) < l.worgAt d + (l.wextAt d : Int))) then some 0xA
  else none

/-- Two windows agree in every extent. -/
def Layout.sameWindow (a b : Layout) : Bool := (List.range 4).all fun d => a.wextAt d == b.wextAt d

/-- Bytes of a whole window. -/
def Layout.windowBytes (l : Layout) : Nat := if l.empty then 0 else ((List.range 4).map l.wextAt).prod * l.es

/-- The pattern of FILL (R431). -/
def Layout.fillPattern (l : Layout) : Nat :=
  if l.fmt = 3 then ofI 64 (toI 32 l.fill)
  else if l.fmt = 10 then Fp.f64.rne (Fp.f32.val l.fill) else l.fill

/-- The shape of GATH and SCAT: the indexed record and the other one (R446). -/
def gatherShape (x o : Layout) : Bool :=
  let n := x.rank - 1
  (List.range 4).all fun d => if d < n then x.wextAt d == o.wextAt d else if d = n then x.wextAt d == 1 else o.wextAt d == 1

/-- The indexed record with its last dimension at full extent (R446). -/
def Layout.whole (l : Layout) : Layout :=
  { l with worg := l.worg.set (l.rank - 1) 0, wext := l.wext.set (l.rank - 1) (l.ext.getD (l.rank - 1) 0) }

/-- One of `n` parts of a window along its last dimension (R445). -/
def Layout.part (l : Layout) (n : Nat) : Layout :=
  { l with wext := l.wext.set (l.rank - 1) (l.wext.getD (l.rank - 1) 0 / max 1 n) }

/-! ### The checks that the payload alone decides (R425 step 3, R435–R455) -/

def opMma (op : Nat) : Bool := decide (1 ≤ op ∧ op ≤ 3)
end Machine
open Machine

/-- KEXT, M and N (R435). -/
def TilePayload.kext (w : TilePayload) : Nat := w.w5.toNat / 2 ^ 16
def TilePayload.rows (w : TilePayload) : Nat := w.w5.toNat / 2 ^ 8 % 256 + 1
def TilePayload.cols (w : TilePayload) : Nat := w.w5.toNat % 256 + 1
/-- DST and LASTT of a SPLITK command (R435). -/
def TilePayload.dst (w : TilePayload) : Nat := w.w3.toNat + w.w4.toNat % 2 ^ 24 * 2 ^ 32
def TilePayload.lastt (w : TilePayload) : Nat := w.mode * 256 + w.w4.toNat / 2 ^ 24
/-- SCAN's steps and lanes (R442). -/
def TilePayload.steps (w : TilePayload) : Nat := w.w5.toNat % 2 ^ 16
def TilePayload.lanes (w : TilePayload) : Nat := w.w5.toNat / 2 ^ 16 % 128 + 1
/-- RINGCFG's fields (R444). -/
def TilePayload.cfgRing (w : TilePayload) : Nat := w.w5.toNat / 2 ^ 27 % 16
def TilePayload.cfgSlots (w : TilePayload) : Nat := w.w5.toNat / 2 ^ 20 % 128
def TilePayload.cfgSize (w : TilePayload) : Nat := w.w5.toNat / 2 ^ 16 % 16
def TilePayload.cfgBase (w : TilePayload) : Nat := w.w5.toNat % 2 ^ 16
/-- MCAST's mask and offset (R450). -/
def TilePayload.mask (w : TilePayload) : Nat := w.w3.toNat + w.w4.toNat % 256 * 2 ^ 32
def TilePayload.doff (w : TilePayload) : Nat := w.w4.toNat / 256 % 2 ^ 22
def TilePayload.idxOff (w : TilePayload) : Nat := w.w5.toNat % 2 ^ 22
def TilePayload.toring (w : TilePayload) : Bool := w.op == 0x10 && w.modeBit 3
/-- Tiles that the command consumes from ring A and from ring B, with their bytes. -/
def TilePayload.tilesA (w : TilePayload) : Option (Nat × Nat) :=
  match w.op with
  | 1 => some (ceilDiv w.kext 32, 8192)
  | 2 => some (ceilDiv w.kext 32, 2048)
  | 3 => some (ceilDiv w.kext 32, 4096)
  | 4 => some (ceilDiv w.kext 32, 16384)
  | 5 => some (ceilDiv w.kext 32, 8192)
  | 6 => some (1, 0)
  | 7 => some (ceilDiv w.steps 32, if w.modeBit 1 then 8192 else 16384)
  | _ => none
def TilePayload.tilesB (w : TilePayload) : Option (Nat × Nat) :=
  match w.op with
  | 2 => some (ceilDiv w.kext 32, 8192)
  | 6 => none
  | _ => w.tilesA
/-- The rings that a command names. -/
def TilePayload.rings (w : TilePayload) : List Nat :=
  (if w.tilesA.isSome then [w.ringA] else []) ++ (if w.tilesB.isSome || w.toring then [w.ringB] else []) ++
    (if w.op = 0xB then [w.cfgRing] else [])

/-- Roles that the opcode requires (R427, R435–R454). -/
def TilePayload.needs (w : TilePayload) : Nat × Nat :=
  match w.op with
  | 1 | 2 | 3 => (0, if w.splitk then 2 else 0)
  | 7 => (if w.a12 = 0 then 0 else 1, 2)
  | 8 | 0x15 => (2, 0)
  | 0xA | 0x13 | 0x18 => (1, 0)
  | 0x10 => (1, if w.modeBit 3 then 0 else 2)
  | 0x11 | 0x12 | 0x20 => (1, 2)
  | 0x14 => (1, 3)
  | _ => (0, 0)

/-- A footprint that may not name a second operand: COPY with TORING, and MCAST (R445, R450). -/
def TilePayload.noSecond (w : TilePayload) : Bool := w.toring || w.op == 0x13

/-- Header fields that the opcode does not use, in the order RINGA, RINGB, ACC, are zero (R426). -/
def TilePayload.unusedOk (w : TilePayload) (a b acc : Bool) : Bool :=
  (a || w.ringA == 0) && (b || w.ringB == 0) && (acc || w.acc == 0)

namespace Machine

def zeroes (ws : List Word) : Bool := ws.all (· == 0)

end Machine
open Machine

/-- The payload's own limits hold (PAYLOAD, R435–R455). -/
def TilePayload.fieldsOk (w : TilePayload) : Bool :=
  let m := w.mode
  w.w7.toNat / 16 == 0 && !(w.noSecond && w.role2 != 0) &&
  match w.op with
  | 1 | 2 | 3 =>
    decide (1 ≤ w.kext ∧ w.kext ≤ 2048 ∧ w.rows ≤ 128 ∧ w.cols ≤ 128) &&
    (if w.splitk then
      let top := w.w1.toNat / 32 + ceilDiv w.kext 32 - 1
      w.acc == 0 && w.dst % 64 == 0 && decide (w.w2.toNat ≤ w.w1.toNat / 32 ∧ top - w.w2.toNat ≤ w.lastt)
    else m == 0 && zeroes [w.w2, w.w3, w.w4])
  | 4 | 5 => decide (1 ≤ w.kext ∧ w.kext ≤ 2048 ∧ w.rows ≤ 128 ∧ w.cols ≤ 128) && m == 0 && zeroes [w.w2, w.w3, w.w4]
  | 6 =>
    m % 4 != 3 && !(m % 4 == 2 && w.modeBit 2) && !(w.modeBit 5 && !w.modeBit 4) && (Fp.f32.val w.w2.toNat).isFin &&
    w.a34 % 64 == 0 && decide (w.acc + (if w.modeBit 6 then 2 else 1) ≤ 7) && w.unusedOk true false true
  | 7 => m / 16 == 0 && decide (1 ≤ w.steps ∧ w.steps ≤ 2048) && w.w5.toNat / 2 ^ 23 == 0
  | 8 => m / 16 == 0 && w.unusedOk false false true && zeroes [w.w3, w.w4, w.w5]
  | 9 => m / 2 == 0 && w.unusedOk false false true && zeroes [w.w1, w.w2, w.w3, w.w4] && (w.modeBit 0 || w.w5 == 0)
  | 0xA => m == 0 && w.unusedOk false false false && zeroes [w.w3, w.w4, w.w5] && w.a12 % 128 == 0
  | 0xB =>
    m / 2 == 0 && w.unusedOk false false false && zeroes [w.w1, w.w2, w.w3, w.w4] && !w.w5.msb &&
    decide (1 ≤ w.cfgSlots ∧ w.cfgSlots ≤ 64 ∧ w.cfgSize ≤ 10 ∧ w.cfgBase * 64 + w.cfgSlots * 2 ^ (w.cfgSize + 6) ≤ 0x3C0000)
  | 0x10 =>
    m / 16 == 0 && w.unusedOk false w.toring false &&
    (if w.toring then decide (1 ≤ w.w5.toNat ∧ w.w5.toNat ≤ 64) else w.w5 == 0)
  | 0x11 | 0x12 =>
    m / 8 == 0 && w.unusedOk false false false && w.idxOff % 4 == 0 && decide (w.idxOff < 0x3C0000) && w.w5.toNat / 2 ^ 22 == 0
  | 0x13 =>
    m == 0 && w.unusedOk false false false && w.mask != 0 && w.doff % 64 == 0 && w.w4.toNat / 2 ^ 30 == 0 && w.w5 == 0
  | 0x14 =>
    m / 4 == 0 && m % 4 != 3 && w.unusedOk false false false && w.a34 % 8 == 0 && decide (1 ≤ w.w5.toNat ∧ w.w5.toNat ≤ 8)
  | 0x15 => m == 0 && w.unusedOk false false false && zeroes [w.w3, w.w4, w.w5]
  | 0x16 =>
    m == 0 && w.unusedOk false false false && w.w2.toNat / 2 ^ 16 == 0 && w.w3.toNat / 2 ^ 16 == 0 &&
    decide (w.w3.toNat * 64 < 0x3C0000) && zeroes [w.w4, w.w5]
  | 0x17 => m == 0 && w.unusedOk false false false && w.w2.toNat / 16 == 0 && decide (w.w2.toNat / 4 ≤ 1) && w.a34 % 4 == 0
  | 0x18 =>
    m == 0 && w.unusedOk false false false && w.a12 % 65536 == 0 && decide (1 ≤ w.w5.toNat ∧ w.w5.toNat ≤ 4096) &&
    zeroes [w.w3, w.w4]
  | 0x20 =>
    m == 0 && w.unusedOk false false false && w.a12 % 65536 == 0 && w.a34 % 65536 == 0 &&
    decide (1 ≤ w.w5.toNat ∧ w.w5.toNat ≤ 4096) && !rangesMeet w.a12 (w.w5.toNat * 65536) w.a34 (w.w5.toNat * 65536)
  | 0x21 =>
    m == 0 && w.unusedOk false false false && zeroes [w.w1, w.w2, w.w3, w.w4] && decide (1 ≤ w.w5.toNat ∧ w.w5.toNat ≤ 255)
  | _ => true

namespace Machine

/-- A ring serves a consumer of `n` tiles of `size` bytes (R251, R429). -/
def Ring.serves (r : Ring) (n size : Nat) : Bool := r.en && decide (n ≤ r.nslot ∧ size ≤ 2 ^ (r.slotsz + 6))

/-- A ring of the cluster of a slot. -/
def State.ringOf (s : State) (cl n : Nat) : Ring := (s.cluster cl).rings.get (mboxFin n)

/-- RING at issue (R429). -/
def State.ringsOk (s : State) (cl : Nat) (w : TilePayload) : Bool :=
  (match w.tilesA with
    | some (n, z) => (s.ringOf cl w.ringA).serves n z
    | none => true) &&
  (match w.tilesB with
    | some (n, z) => (s.ringOf cl w.ringB).serves n z
    | none => true) && (!w.toring || (s.ringOf cl w.ringB).en)

/-- The K-end record of a slot (R436). -/
def State.kendOf (s : State) (cl i : Nat) : Bool := if h : i < 8 then (s.cluster cl).kend.get ⟨i, h⟩ else false

/-- The first ENGINE issue check that fails (R425 step 3). -/
def State.engineBad (s : State) (k : Nat) (w : TilePayload) : Option Byte :=
  let n := w.needs
  firstSub' [
    (!w.fieldsOk, 1),
    (n.1 &&& w.role1 != n.1 || n.2 &&& w.role2 != n.2, 2),
    (!s.ringsOk (clusterOf k) w, 3),
    (opMma w.op && (w.w1.toNat % 32 != 0 || (!w.splitk && s.kendOf (clusterOf k) w.acc)), 4),
    (w.splitk && !opMma w.op, 5)]
where
  firstSub' : List (Bool × Byte) → Option Byte
  | [] => none
  | (c, x) :: r => if c then some x else firstSub' r

def engineTrap (sub : Byte) : Trap := { cause := 0x0A, sub := sub }
def layoutTrap (sub : Byte) : Trap := { cause := 0x04, sub := sub }

/-- LEASE ACCSLOT (R255): a slot that the command uses is not in ACCMASK; slots above 7 fail PAYLOAD where the span passes
them (R440). -/
def State.accDenied (s : State) (k : Nat) (w : TilePayload) : Bool :=
  (accSlots w.w0).any fun i =>
    (decide (i < 8) || i == w.acc) && !(decide (i < 8) && (s.core (coreOf k)).accmask.getLsbD i)

/-- Steps 2 of R318 and 1–3 of R425. -/
def State.tileTrap (s : State) (k : Nat) (q : Nat) (w : TilePayload) : Option Trap :=
  firstTrap [
    (w.illegal q).map fun c => { cause := 0x01, sub := c.subcode },
    if w.op = 0x21 && !(s.slot k).supervisor then some (privTrap 0x01 0) else none,
    if s.accDenied k w then some { cause := 0x09, sub := 0x01 } else none,
    (s.engineBad k w).map engineTrap]

/-! ### The records (R425 steps 4 and 5) -/

/-- Reads a record as loads of the strand, without the alignment check (R346, R425): its first and its last byte decide the region
and the plinth. It waits for the strand's earlier loads and atomics (R101). -/
def readRecord (b : State) (k : Nat) (va : Dword) (n : Nat) : M (List Byte) := do
  let last := va + dw (n - 1)
  match firstTrap [b.regionTrap k va, b.regionTrap k last, b.plinthTrap k va, b.plinthTrap k last,
      (b.pureSub k false va n).map fun c => purityTrap c va] with
  | some t => throw (.trap t)
  | none =>
    if b.issueBlocked k [(va, n)] || (b.slot k).outs.any (·.readPending) then throw (.wait id)
    readMem (b.whoSlot k (.issue k)) va n 0

end Machine
open Machine

/-- The addresses of the layout records of an opcode, but for REDST's destinations. -/
def TilePayload.recordAddrs (w : TilePayload) : List Nat :=
  match w.op with
  | 7 => [w.a34]
  | 8 | 0x13 | 0x14 | 0x15 => [w.a12]
  | 0x10 | 0x11 | 0x12 => [w.a12, w.a34]
  | _ => []

namespace Machine

/-- Reads records one after the other. -/
def readRecords (b : State) (k : Nat) : List Nat → M (List (List Byte))
  | [] => pure []
  | a :: rest => do
    let r ← readRecord b k (dw a) 96
    let rs ← readRecords b k rest
    pure (r :: rs)

/-- The records that a command names with their addresses (R425 step 4): an ATT command's one is its descriptor. -/
def gatherRecords (b : State) (k : Nat) (w : TilePayload) : M (List Nat × List (List Byte)) := do
  if w.op = 6 then
    let d ← readRecord b k (dw w.a34) 64
    pure ([], [d])
  else
    let rs ← readRecords b k w.recordAddrs
    if w.op = 0x14 then
      let l ← readRecord b k (dw w.a34) (8 * w.w5.toNat)
      let as := (List.range w.w5.toNat).map fun i => rd l (8 * i) 8
      let ds ← readRecords b k as
      pure (w.recordAddrs ++ as, rs ++ ds)
    else pure (w.recordAddrs, rs)

/-- Limits of an ATT descriptor (R440). -/
def attOk (w : TilePayload) (d : List Byte) : Bool :=
  let mask := w.mode % 4
  let m := rd d 3 1 + 1
  decide (m ≤ 128) && (mask == 0 || rd d 4 4 == 0) && decide (1 ≤ rd d 8 4 ∧ rd d 8 4 ≤ 0x100000) &&
  (if mask = 2 then decide (1 ≤ rd d 0xC 1 ∧ rd d 0xC 1 ≤ 64) && m == rd d 0xC 1 else rd d 0xC 1 == 0) && rd d 0xD 3 == 0 &&
  (if mask = 1 then rd d 0x10 8 % 4 == 0 else rd d 0x10 8 == 0) && (mask == 2 || rd d 0x18 8 == 0) && (d.drop 0x20).all (· == 0)

/-- Element `i` of a list of records. -/
def recAt (rs : List (List Byte)) (i : Nat) : Layout := Layout.parse (rs.getD i (List.replicate 96 0))

end Machine
open Machine

/-- The PAYLOAD checks that depend on the records (R425 step 5). -/
def TilePayload.recordFields (w : TilePayload) (rs : List (List Byte)) : Bool :=
  let a := recAt rs 0; let b := recAt rs 1
  match w.op with
  | 6 => attOk w (rs.getD 0 [])
  | 0x10 => !(a.fmt == b.fmt && w.mode % 8 != 0) && !(w.toring && b.base != 0)
  | 0x11 | 0x12 => !(a.fmt == b.fmt && w.mode % 8 != 0)
  | 0x13 => decide (w.doff + a.windowBytes ≤ 0x3C0000)
  | _ => true

/-- The LAYOUT checks of the records in order (R433, R442–R451). -/
def TilePayload.layoutBad (w : TilePayload) (as : List Nat) (rs : List (List Byte)) : Option Byte :=
  let a := recAt rs 0; let b := recAt rs 1
  let any := fun (_ : Nat) => true
  match w.op with
  | 7 => a.bad (as.getD 0 0) (fun f => f == if w.modeBit 2 then 8 else 9) 2 (a.wextAt 0 != w.lanes || a.wextAt 1 != w.steps)
  | 8 =>
    if w.modeBit 3 then a.bad (as.getD 0 0) (· == 4) 1 (decide (65536 < a.wextAt 0))
    else a.bad (as.getD 0 0) any 2 (decide (128 < a.wextAt 0) || decide (128 < a.wextAt 1))
  | 0x13 | 0x15 => a.bad (as.getD 0 0) any 0 false
  | 0x10 =>
    (a.bad (as.getD 0 0) any 0 (!a.sameWindow b)).or
      (b.bad (as.getD 1 0) any 0 (!a.sameWindow b || (w.toring && b.wextAt (b.rank - 1) % max 1 w.w5.toNat != 0)))
  | 0x11 => (a.bad (as.getD 0 0) any 0 (!gatherShape a b)).or (b.bad (as.getD 1 0) any 0 (!gatherShape a b))
  | 0x12 => (a.bad (as.getD 0 0) any 0 (!gatherShape b a)).or (b.bad (as.getD 1 0) any 0 (!gatherShape b a))
  | 0x14 =>
    (a.bad (as.getD 0 0) (fun f => decide (f ≤ 10)) 0 false).or
      (((rs.drop 1).zip (as.drop 1)).findSome? fun p =>
        (Layout.parse p.1).bad p.2 (fun f => f == a.fmt && decide (f ≤ 10)) 0 (!a.sameWindow (Layout.parse p.1)))
  | _ => none

namespace Machine

/-! ### The footprint (R427) -/

/-- A range of addresses; `ring` is the operand ring whose range it is. -/
structure Span where
  va   : Dword
  n    : Nat
  ring : Option Nat := none
  deriving DecidableEq, Repr

/-- The span of a record. -/
def Layout.spans (l : Layout) : List Span :=
  match (if l.empty then none else l.span true) with
  | some (lo, hi) => [⟨dw lo, hi - lo, none⟩]
  | none => []

/-- The range of ring `n` of the issuing cluster. -/
def Ring.spanOf (r : Ring) (n : Nat) : Span := ⟨ownAddr (r.base.toNat * 64), r.nslot * 2 ^ (r.slotsz + 6), some n⟩

end Machine
open Machine

/-- The spans of the operands in w1–w2 and in w3–w4. -/
def TilePayload.operands (w : TilePayload) (rs : List (List Byte)) : List Span × List Span :=
  let a := recAt rs 0; let b := recAt rs 1
  match w.op with
  | 1 | 2 | 3 => ([], if w.splitk then [⟨dw w.dst, w.rows * 512, none⟩] else [])
  | 7 => (if w.a12 = 0 then [] else [⟨dw w.a12, ceilDiv w.steps 8, none⟩], a.spans)
  | 8 | 0x13 | 0x15 => (a.spans, [])
  | 0xA => ([⟨dw w.a12, 128, none⟩], [])
  | 0x10 => (a.spans, if w.toring then [] else b.spans)
  | 0x11 => (a.whole.spans, b.spans)
  | 0x12 => (a.spans, b.whole.spans)
  | 0x14 => (a.spans, (rs.drop 1).flatMap fun r => (Layout.parse r).spans)
  | 0x18 => ([⟨dw w.a12, w.w5.toNat * 65536, none⟩], [])
  | 0x20 => ([⟨dw w.a12, w.w5.toNat * 65536, none⟩], [⟨dw w.a34, w.w5.toNat * 65536, none⟩])
  | _ => ([], [])

namespace Machine

/-- The implied regions, read and written, that addresses name. DEDUCED: the tiles that a command reads or writes have no slots
before it runs, so the whole range of its ring stands for them (log entry 15). -/
def State.implied (s : State) (k : Nat) (w : TilePayload) (rs : List (List Byte)) : List Span × List Span :=
  let cl := clusterOf k
  let ring := fun (n : Nat) => (s.ringOf cl n).spanOf n
  let rings := (if w.tilesA.isSome then [ring w.ringA] else []) ++ (if w.tilesB.isSome then [ring w.ringB] else [])
  match w.op with
  | 0x10 => ([], if w.toring then [ring w.ringB] else [])
  | 0x11 => ([⟨ownAddr w.idxOff, 4 * (recAt rs 1).wextAt ((recAt rs 0).rank - 1), none⟩], [])
  | 0x12 => ([⟨ownAddr w.idxOff, 4 * (recAt rs 0).wextAt ((recAt rs 1).rank - 1), none⟩], [])
  | 0x13 => ([], ((List.range 40).filter fun c => w.mask.testBit c).map fun c =>
      ⟨dw (0xFFFFFE00000000 + dieOf k * 2 ^ 30 + c * 2 ^ 22 + w.doff), (recAt rs 0).windowBytes, none⟩)
  | 0x17 => ([⟨dw w.a34, 4 * w.w5.toNat, none⟩], [])
  | _ => (rings, [])

/-- Read and write spans of the whole footprint. -/
def State.footprint (s : State) (k : Nat) (w : TilePayload) (rs : List (List Byte)) : List Span × List Span :=
  let o := w.operands rs; let i := s.implied k w rs
  ((if w.role1 % 2 = 1 then o.1 else []) ++ (if w.role2 % 2 = 1 then o.2 else []) ++ i.1,
   (if 2 ≤ w.role1 then o.1 else []) ++ (if 2 ≤ w.role2 then o.2 else []) ++ i.2)

/-- A region by its space: a tenant, a stream's state space, or a cluster's local store (R427). -/
def spanRegion (cl : Nat) (tenant : Half) (stream : Option Nat) (p : Span) : Nat × Nat × Nat :=
  match lsPlace cl p.va with
  | some (c, o) => (2 ^ 40 + c, o, o + p.n)
  | none =>
    if regionOf p.va = .window then (2 ^ 16 + stream.getD 0, p.va.toNat % 2 ^ 48, p.va.toNat % 2 ^ 48 + p.n)
    else (tenant.toNat, p.va.toNat, p.va.toNat + p.n)

/-- The stream that STATESEL of a slot names (R151). -/
def Slot.namedStream (x : Slot) : Option Nat := if x.statesel.msb then some (bits x.statesel 31 0) else none

/-- A part of a stream's state space as a region. -/
def statePart (sid lo n : Nat) : Nat × Nat × Nat := (2 ^ 16 + sid, lo, lo + n)

/-- The regions of ATT that its descriptor and a table name (R440): the entries covered, the blocks that they name in this package,
and LIST or PAR; with SCORE the scores are written. -/
def State.attRegions (b : State) (k : Nat) (w : TilePayload) (d : List Byte) (t : KvTab) :
    List (Nat × Nat × Nat) × List (Nat × Nat × Nat) :=
  let x := b.slot k
  let sid := w.w1.toNat
  let who := b.whoSlot k (.issue k)
  let region := fun (va : Dword) (n : Nat) => spanRegion (clusterOf k) x.tenant x.namedStream ⟨va, n, none⟩
  let n := rd d 8 4
  let entry := fun (i : Nat) => t.entryAddr (rd d 0 2) (rd d 2 1) i
  let ids := if w.mode % 4 = 1 then
      (peek (readMem who (dw (rd d 0x10 8)) (4 * n) 4) b).map fun l => (List.range n).map fun i => rd l (4 * i) 4
    else some ((List.range n).map (rd d 4 4 + ·))
  let blocks := ids.bind fun is => is.mapM fun i => (peek (readEntry { who with stream := some sid } (entry i) 4) b).map fun e =>
    if kvValid e && decide (kvTier e < 2) then [region (t.blockVa e) t.blockSize] else []
  let lists := if w.mode % 4 = 1 then [region (dw (rd d 0x10 8)) (4 * n)]
    else if w.mode % 4 = 2 then [region (dw (rd d 0x18 8)) (rd d 0xC 1)] else []
  (statePart sid t.addr 64 :: lists ++ ((ids.map fun is => is.map fun i => statePart sid (entry i) 8).getD [statePart sid 0 (2 ^ 48)]) ++
      ((blocks.map List.flatten).getD [(x.tenant.toNat, 0, 2 ^ 56)]),
   if w.modeBit 5 && t.scores != 0 then [statePart sid t.scores (4 * scbKvlen (b.scb sid))] else [])

/-- The regions that a stream's table decides (ATT, COMPACT; R440, R448). DEDUCED: they are those of the table as it stands when the
command issues; where it cannot be read at once, whole spaces stand for them (log entry 15). -/
def State.streamRegions (b : State) (k : Nat) (w : TilePayload) (rs : List (List Byte)) :
    List (Nat × Nat × Nat) × List (Nat × Nat × Nat) :=
  if w.op ≠ 6 ∧ w.op ≠ 0x17 then ([], [])
  else
    let sid := w.w1.toNat
    let addr := scbKvtab (b.scb sid)
    let who := { b.whoSlot k (.issue k) with stream := some sid }
    match (if sidOk sid then (peek (readMem who (windowAddr addr) 64 4) b).bind (kvHeader addr) else none) with
    | none =>
      let all := statePart sid 0 (2 ^ 48)
      if w.op = 6 then ([all, ((b.slot k).tenant.toNat, 0, 2 ^ 56)], if w.modeBit 5 then [all] else []) else ([all], [all])
    | some t =>
      if w.op = 6 then b.attRegions k w (rs.getD 0 []) t
      else
        let l := statePart sid addr (64 + t.layers * t.groups * t.maxblk * 8) ::
          (if t.scores = 0 then [] else [statePart sid t.scores (4 * scbKvlen (b.scb sid))])
        (l, l)

/-- PURITY (R185): the lowest subcode that the footprint or the command earns. -/
def State.tilePure (s : State) (k : Nat) (w : TilePayload) (rs : List (List Byte)) : Option Trap :=
  if !(s.slot k).pureBound then none
  else if w.op = 6 ∨ w.op = 0x17 then some (purityTrap 0x08 0)
  else
    let f := s.footprint k w rs
    let sub := fun (write : Bool) (l : List Span) => l.findSome? fun p =>
      if p.n = 0 then none else (s.pureSub k write p.va p.n).map fun c => purityTrap c p.va
    ((sub false f.1).or (sub true f.2)).or
      (if w.op = 0x14 ∧ w.mode % 4 = 0 ∧ 8 ≤ (recAt rs 0).fmt then some (purityTrap 0x04 0) else none)

/-! ### DEST_DENY (R452) -/

/-- A task of another launch that is resident on a cluster has a LOCAL range that meets a range. -/
def State.localMeets (s : State) (cl : Nat) (launch : Option Nat) (off n : Nat) : Bool :=
  s.tasks.any fun t => t.holdsCore && clusterOf t.slot == cl && t.launch != launch &&
    ((presentRegions t.img).map (·.2)).any fun r => regionLocal r && rangesMeet (r.2.2.1 * 64) r.2.1 off n

/-- A cluster denies an MCAST. -/
def State.mcastDenied (s : State) (k cl off n : Nat) : Bool :=
  let launch := s.launchOf k
  !((List.range 32).any fun i => (s.slot (cl * 32 + i)).holdsStrand && s.launchOf (cl * 32 + i) == launch) ||
    s.localMeets cl launch off n

/-- A destination of a REDST denies it. -/
def State.redstDenied (s : State) (k : Nat) (l : Layout) : Bool :=
  match l.spans with
  | p :: _ =>
    match lsPlace (clusterOf k) p.va with
    | some (_, o) => decide (0x3C0000 < o + p.n)
    | none =>
      let w := s.whoSlot k (.issue k)
      (List.range ((p.va.toNat % 65536 + p.n + 65535) / 65536)).any fun i =>
        match w.space (p.va + dw (i * 65536)) with
        | some (sp, a) => match s.walk sp a with
          | .leaf _ e _ => !leafPerm e 2 || leafPerm e 8 || leafTier e == 3
          | .fault _ 0 e => leafV e && (!leafPerm e 2 || leafPerm e 8 || leafTier e == 3)
          | .fault .. => false
        | none => false
  | [] => false

/-- DEST_DENY (R452), with the denial mask and the address of the lowest denying destination. -/
def State.destTrap (s : State) (k : Nat) (w : TilePayload) (rs : List (List Byte)) : Option Trap :=
  let deny := fun (sub : Byte) (ds : List (Nat × Dword)) => match ds with
    | [] => none
    | d :: _ => some ({ cause := 0x0C, sub := sub, addr := d.2, win := [dw ((ds.map fun e => 2 ^ e.1).sum)] } : Trap)
  if w.op = 0x13 then
    let n := (recAt rs 0).windowBytes
    deny 1 (((List.range 40).filter fun c => w.mask.testBit c && s.mcastDenied k (dieOf k * 40 + c) w.doff n).map fun c =>
      (c, dw (0xFFFFFE00000000 + dieOf k * 2 ^ 30 + c * 2 ^ 22 + w.doff)))
  else if w.op = 0x14 then
    deny 2 (((rs.drop 1).zipIdx.filter fun r => s.redstDenied k (Layout.parse r.1)).map fun r =>
      (r.2, dw ((((Layout.parse r.1).span true).map (·.1)).getD 0)))
  else none

/-- RING of a TORING copy whose part passes the slot size (R445). -/
def State.partBad (s : State) (k : Nat) (w : TilePayload) (rs : List (List Byte)) : Bool :=
  w.toring && match ((recAt rs 1).part w.w5.toNat).span false with
    | some (_, hi) => decide (2 ^ ((s.ringOf (clusterOf k) w.ringB).slotsz + 6) < hi)
    | none => false

/-- Steps 5–7 of R425. -/
def State.recordTrap (s : State) (k : Nat) (w : TilePayload) (as : List Nat) (rs : List (List Byte)) : Option Trap :=
  firstTrap [
    if w.recordFields rs then none else some (engineTrap 1),
    (w.layoutBad as rs).map layoutTrap,
    if s.partBad k w rs then some (engineTrap 3) else none,
    s.tilePure k w rs,
    s.destTrap k w rs]

/-! ### TCMD (R318) -/

/-- Frames of a core that wait in its input queue for an engine queue. -/
def State.inputQueue (s : State) (c q : Nat) : Nat :=
  (s.cmds.filter fun m => !m.accepted && coreOf m.slot == c && m.q == q).length

/-- What the slot records at issue: the K-end record (R436, R443). -/
def State.noteKend (s : State) (cl : Nat) (w : TilePayload) : State :=
  if h : w.acc < 8 then
    if opMma w.op && !w.splitk && w.kext % 32 != 0 then
      s.modCluster cl fun x => { x with kend := x.kend.set w.acc true }
    else if w.op = 9 then s.modCluster cl fun x => { x with kend := x.kend.set w.acc false }
    else s
  else s

/-- The frame is queued (R318): its regions, its target and what it read at issue. -/
def State.queueFrame (b t : State) (l : BitVec 4) (q : Nat) (w : TilePayload) (rs : List (List Byte)) : State :=
  let k := b.focus
  let x := b.slot k
  let f := b.footprint k w rs
  let g := b.streamRegions k w rs
  let region := spanRegion (clusterOf k) x.tenant x.namedStream
  let key := fun (ps : List Span) => (ps.filter fun p => p.ring.isNone && p.n != 0).map region
  let rings := fun (ps : List Span) => ps.filterMap fun p => p.ring.map fun n => (n, region p)
  let target := tileTarget w k
  let m : Cmd := {
    n := t.nextN, q := q, slot := k, pc := x.pc, w := w, tenant := x.tenant, stream := x.namedStream, uid := x.uid, seq := x.seq
    owner := x.owner, recs := rs, reads := key f.1 ++ g.1, writes := key f.2 ++ g.2, ringR := rings f.1, ringW := rings f.2
    target := target, cls := x.cls }
  let s := b.depart { (t.noteKend (clusterOf k) w) with cmds := t.cmds ++ [m], nextN := t.nextN + 1 } l (.tcmd m.n) []
  match target with
  | some (kt, r) => if kt = k then s.modSlot k fun y => y.mark_ (.g r) .empty else s
  | none => s

/-- TCMD (R316–R319, R425). -/
def execTcmd (a b : BitVec 5) (g : BitVec 3) (l : BitVec 4) (q : BitVec 5) (h : BitVec 4) (w : TilePayload) (s : State) : Res :=
  let patched := fun (s : State) =>
    (w.patch (h.extractLsb' 0 2) (s.readG s.focus a)).patch (h.extractLsb' 2 2) (s.readG s.focus b)
  issueM
    { instr := .tcmd a b g l q h w, guard := g, la := some l, reads := [.g a, .g b], size := 36
      writes := match tileTarget w s.focus with
        | some (k, r) => if k = s.focus then [.g r] else []
        | none => []
      hold := fun s =>
        let x := s.slot s.focus
        decide (8 ≤ s.inputQueue (coreOf s.focus) q.toNat) || x.acquiring || x.outs.any fun o => o.readPending && decide (o.seq < x.rel)
      check := fun s => s.tileTrap s.focus q.toNat (patched s) }
    (fun b0 => do
      let w := patched b0
      let r ← gatherRecords b0 b0.focus w
      match b0.recordTrap b0.focus w r.1 r.2 with
      | some t => throw (.trap t)
      | none => modify fun t => b0.queueFrame t l q.toNat w r.2) false s

end Machine

end Sys2Proof
end

