-- ==== Sys2Proof/Machine/Tile.lean ====
section
/-! DEFINITION. The engine queues (R108–R111, R252–R263, R426–R430): acceptance, start, the engine's accesses, the end of a
command, its completion and its arrivals, and the lease of the tensor engine. -/

namespace Sys2Proof.Machine

def State.cmdOf (s : State) (n : Nat) : Option Cmd := s.cmds.find? fun m => m.n = n
def State.setCmd (s : State) (m : Cmd) : State := { s with cmds := s.cmds.map fun x => if x.n = m.n then m else x }
def Cmd.op (m : Cmd) : Nat := m.w.op
def Cmd.die (m : Cmd) : Nat := dieOf m.slot
def Cmd.cluster (m : Cmd) : Nat := clusterOf m.slot
def Cmd.core (m : Cmd) : Nat := coreOf m.slot
def Cmd.rec_ (m : Cmd) (i : Nat) : Layout := recAt m.recs i

/-- The engine that runs a command, as an accessor (R84, R136). -/
def Cmd.who (m : Cmd) : Who :=
  { whoUnit m.die m.tenant (.cmd m.n) 0 with stream := m.stream, cluster := m.cluster, wher := whereWord m.slot
                                             work := if m.cls then some m.owner else none }

/-! ### Acceptance and start (R108, R109, R241, R426) -/

/-- A frame reaches its engine queue after its core's earlier frames for it (R318); the first one for the tensor engine asks
for the lease, and a lease counts those accepted under it (R252). -/
def State.acceptCmd (s : State) (n : Nat) : Option State :=
  match s.cmdOf n with
  | none => some s
  | some m =>
    if s.cmds.any fun e => decide (e.n < n) && !e.accepted && e.q == m.q && e.core == m.core then none
    else
      let s := { s with cmds := (s.cmds.filter fun e => e.n ≠ n) ++ [{ m with accepted := true }] }
      some (if m.q ≠ 0 then s
        else s.modCore m.core fun c => if c.leaseHeld then { c with leaseCmds := c.leaseCmds - 1 } else { c with leaseWait := true })

/-- Two sets of regions share a byte. -/
def regionsMeet (a b : List (Nat × Nat × Nat)) : Bool :=
  a.any fun x => b.any fun y => x.1 == y.1 && decide (x.2.1 < y.2.2 ∧ y.2.1 < x.2.2)

/-- The regions that a command reads, and those that it writes, each with the ring whose range it is. -/
def Cmd.readSet (m : Cmd) : List (Option Nat × (Nat × Nat × Nat)) := m.reads.map (none, ·) ++ m.ringR.map fun r => (some r.1, r.2)
def Cmd.writeSet (m : Cmd) : List (Option Nat × (Nat × Nat × Nat)) := m.writes.map (none, ·) ++ m.ringW.map fun r => (some r.1, r.2)

/-- Two sets of regions share a byte. DEDUCED: within one ring, whose slots R251 hands from one command to the other, the order of
R251 takes the place of the edges of R108 (log entry 15). -/
def setsMeet (a b : List (Option Nat × (Nat × Nat × Nat))) : Bool :=
  a.any fun x => b.any fun y => !(x.1.isSome && x.1 == y.1) && regionsMeet [x.2] [y.2]

/-- A write that a command made is visible at a die, or performed; one to another package or the host only when the command
is over. -/
def State.madeVisible (s : State) (d n : Nat) : Bool :=
  decide (n < 2 ^ 64) && s.writes.all fun w => w.n != n || (w.performed && !w.todo.contains d)
def State.madePerformed (s : State) (n : Nat) : Bool := decide (n < 2 ^ 64) && s.writes.all fun w => w.n != n || w.performed

/-- The command has read everything that it reads: it reads in the step that starts it, but for those that go on by parts
(ATT, SCAN, TORING, SNAP). -/
def Cmd.hasRead (m : Cmd) : Bool := m.done.isSome || (m.started && !m.w.toring && m.op != 6 && m.op != 7 && m.op != 0x20)

/-- A command has made every write: none waits for its fold, and no AMO of it waits for its answer (R107, R108). -/
def State.allMade (s : State) (e : Cmd) : Bool :=
  e.done.isSome && e.acc.isEmpty &&
    !s.requests.any fun r => decide (r.who = .cmd e.n) && r.opc == 3 && (r.answer.isNone || r.refusedRed)

/-- The edges of R108 from an earlier command are satisfied. -/
def State.edgesMet (s : State) (e m : Cmd) : Bool :=
  (!setsMeet e.writeSet m.readSet || (s.allMade e && e.pending.all (s.madeVisible m.die))) &&
  (!setsMeet e.writeSet m.writeSet || (s.allMade e && e.pending.all s.madePerformed)) &&
  (!setsMeet e.readSet m.writeSet || e.hasRead)

/-- A region is a whole space. -/
def wholeRegion (r : Nat × Nat × Nat) : Bool := decide (2 ^ 40 ≤ r.2.2 - r.2.1)

/-- The leaves of a region's pages, each with the part of the page that lies in the region: its offset and length. -/
def State.regionLeaves (s : State) (r : Nat × Nat × Nat) : List (Dword × Nat × Nat) :=
  let sp := if 2 ^ 16 ≤ r.1 then Space.stream (r.1 - 2 ^ 16) else Space.tenant (BitVec.ofNat 16 r.1)
  (List.range ((r.2.2 + 65535) / 65536 - r.2.1 / 65536)).filterMap fun i =>
    let page := (r.2.1 / 65536 + i) * 65536
    match s.walk sp page with
    | .leaf _ e _ => some (e, max r.2.1 page - page, min r.2.2 (page + 65536) - max r.2.1 page)
    | .fault .. => none

/-- A region holds a byte of a home key's range: a local store, page by page, or always when it is a whole space. -/
def State.regionHolds (s : State) (r : Nat × Nat × Nat) (key n : Nat) : Bool :=
  if 2 ^ 40 ≤ r.1 then rangesMeet (2 ^ 50 + lsKey (r.1 - 2 ^ 40) r.2.1) (r.2.2 - r.2.1) key n
  else if wholeRegion r then true
  else (s.regionLeaves r).any fun l => leafTier l.1 == 0 && rangesMeet (leafFrame l.1 + l.2.1) l.2.2 key n

/-- A region holds a byte of a write. -/
def State.regionMeets (s : State) (r : Nat × Nat × Nat) (d : WData) : Bool :=
  d.ranges.any fun p => s.regionHolds r p.1 p.2

/-- The packages of a die's touched set that hold a page of a command's regions (R103, R109). -/
def State.regionPeers (s : State) (m : Cmd) : List Nat :=
  (s.die m.die).touched.filter fun pkg => (m.readSet ++ m.writeSet).any fun r =>
    decide (r.2.1 < 2 ^ 40) && (wholeRegion r.2 || (s.regionLeaves r.2).any fun l => leafTier l.1 == 1 && bits l.1 55 40 == pkg)

/-- The release of R109: the strand's earlier stores and atomics that overlap the read regions are visible at its die, those
that overlap the write regions are performed, its folds there and its stores to the host have been made, and its earlier loads
of the write regions have returned. -/
def State.footprintReleased (s : State) (m : Cmd) : Bool :=
  let x := s.slot m.slot
  let key := fun (a : Dword) (n : Nat) => [spanRegion m.cluster m.tenant m.stream ⟨a, n, none⟩]
  let reads := m.readSet.map (·.2)
  let writes := m.writeSet.map (·.2)
  let both := reads ++ writes
  (x.uid != m.uid || x.outs.all fun o => decide (m.seq ≤ o.seq) || match o.op with
    | .store ps => ps.all fun p => !regionsMeet (key p.1 p.2.length) both
    | .copyOut va bs .. => !regionsMeet (key va bs.length) both
    | .atomic ea n .. => !(o.writePending && regionsMeet (key ea n) both)
    | .redord ea n .. => !(o.writePending && regionsMeet (key ea n) both)
    | .load ps .. => !o.readPending || ps.all fun p => !regionsMeet (key p.1 p.2) writes
    | .sync _ ea .. => !regionsMeet (key ea 8) both
    | _ => true) &&
  (s.writes.all fun w => w.src != m.uid ||
    ((!(reads.any fun r => s.regionMeets r w.data) || (w.performed && !w.todo.contains m.die)) &&
     (w.performed || !(writes.any fun r => s.regionMeets r w.data)))) &&
  ((s.redHeld ++ s.redFly.map fun f => f.2.1).all fun r => r.uid != m.uid || !(both.any fun g => s.regionHolds g r.addr r.size)) &&
  !(s.requests.any fun r => r.die == m.die && r.uid == m.uid && decide (0x102 ≤ r.opc) && r.answer.isNone)

/-- What the issue released under R109 is visible in the package (R111). -/
def State.footprintVisible (s : State) (m : Cmd) : Bool :=
  s.writes.all fun w => w.src != m.uid || !((m.readSet ++ m.writeSet).any fun r => s.regionMeets r.2 w.data)

/-- The core holds the lease, and no limit has ended it (R252). -/
def Core.leased (c : Core) : Bool := c.leaseHeld && decide (0 < c.leaseCmds ∧ 0 < c.leaseCyc)

/-- Engines of a queue that are free for the command (R252, R426): one per cluster for queue 0, twelve, four and one. -/
def State.engineFree (s : State) (m : Cmd) : Bool :=
  let ahead := s.cmds.filter fun e => decide (e.n < m.n) && e.q == m.q && e.die == m.die
  if m.q = 0 then
    (s.core m.core).leased && ahead.all fun e => e.done.isSome || e.core != m.core
  else
    let busy := s.cmds.takeWhile fun e => e.n ≠ m.n
    decide ((busy.filter fun e => e.accepted && e.done.isNone && e.q == m.q && e.die == m.die).length <
      (if m.q = 1 then 12 else if m.q = 2 then 4 else 1))

/-- A RINGCFG has no command of its cluster before it, in the order of acceptance, that names its ring (R444). -/
def State.ringQuiet (s : State) (m : Cmd) : Bool :=
  m.op != 0xB || (s.cmds.takeWhile fun e => e.n ≠ m.n).all fun e =>
    !(e.accepted && e.cluster == m.cluster && e.w.rings.contains m.w.cfgRing)

/-- A command may start (R108, R109, R319, R426, R444). -/
def State.canStart (s : State) (m : Cmd) : Bool :=
  m.accepted && s.engineFree m && s.ringQuiet m &&
  (s.cmds.all fun e => decide (m.n ≤ e.n) || e.die != m.die ||
    (s.edgesMet e m && !(m.w.ordered && e.q == m.q && e.core == m.core))) && s.footprintReleased m

/-! ### Rings (R251) -/

def State.modRing (s : State) (cl n : Nat) (f : Ring → Ring) : State :=
  s.modCluster cl fun c => { c with rings := c.rings.set (mboxFin n) (f (c.rings.get (mboxFin n))) }

/-- Pops `k` tiles. -/
def Ring.pop (r : Ring) (k : Nat) : Ring :=
  let k := min k r.filled
  { r with head := (r.head + k) % max 1 r.nslot, filled := r.filled - k, free := r.free + k }

/-- Reserves the slot at TAIL. -/
def Ring.reserve (r : Ring) : Ring :=
  { r with tail := (r.tail + 1) % max 1 r.nslot, free := r.free - 1, writing := r.writing ++ [false] }

/-- A reserved slot counts as written; FILLED passes the written slots that follow it in order. -/
def Ring.written (r : Ring) (slot : Nat) : Ring :=
  let n := max 1 r.nslot
  let w := r.writing.set ((slot + n - (r.head + r.filled) % n) % n) true
  let k := (w.takeWhile fun b => b).length
  { r with writing := w.drop k, filled := r.filled + k }

/-- Offset of a slot of a ring in its local store, and of the tile `j` of a consumer. -/
def Ring.slotOff (r : Ring) (slot : Nat) : Nat := r.base.toNat * 64 + slot * 2 ^ (r.slotsz + 6)
def Ring.tileOff (r : Ring) (j : Nat) : Nat := r.slotOff ((r.head + j) % max 1 r.nslot)

/-- Another command of the cluster that its lease's end suspended keeps the tiles of a ring, which it has yet to pop (R251). -/
def State.tilesKept (s : State) (m : Cmd) (ring : Nat) : Bool :=
  s.cmds.any fun e => e.n != m.n && e.cluster == m.cluster && e.started && e.done.isNone &&
    ((e.w.tilesA.isSome && e.w.ringA == ring) || (e.w.tilesB.isSome && e.w.ringB == ring))

/-- The tiles that a command consumes are there (R251). -/
def State.tilesThere (s : State) (m : Cmd) : Bool :=
  let there := fun (tiles : Option (Nat × Nat)) (ring : Nat) => match tiles with
    | some (n, _) => decide (n ≤ (s.ringOf m.cluster ring).filled) && !s.tilesKept m ring
    | none => true
  there m.w.tilesA m.w.ringA && there m.w.tilesB m.w.ringB

/-- The tiles of a command that ends are popped, once from a ring that it names twice; slots that it reserved count as
written (R251, R430). -/
def State.retireRings (s : State) (m : Cmd) : State :=
  let na := ((m.w.tilesA).map (·.1)).getD 0
  let nb := ((m.w.tilesB).map (·.1)).getD 0
  let s := m.resv.foldl (fun s r => s.modRing m.cluster m.w.ringB fun x => x.written r) s
  if m.w.tilesA.isSome && m.w.tilesB.isSome && m.w.ringA == m.w.ringB then s.modRing m.cluster m.w.ringA fun x => x.pop (max na nb)
  else
    let s := if m.w.tilesA.isSome then s.modRing m.cluster m.w.ringA fun x => x.pop na else s
    if m.w.tilesB.isSome then s.modRing m.cluster m.w.ringB fun x => x.pop nb else s

/-! ### The run of a command -/

/-- The command ends with ESTAT and FSUB (R428, R430); MCAST has set its arrivals itself. -/
def State.endCmd (s : State) (m : Cmd) (estat fsub : Byte) : State :=
  let m' := { m with
    started := true, done := some (estat, fsub), todo := [], resv := []
    counts := if m.w.notify && m.w.w6.getLsbD 11 then (if m.op = 0x13 then m.counts else [(m.cluster, m.bytes)]) else [] }
  let s := ((s.retireRings m).setCmd m').dropFault (.cmd m.n)
  if m.q = 0 then s.modCore m.core fun c => { c with leaseIdle := 0 } else s

/-- The state of the command during its step. -/
def getCmd (n : Nat) : M Cmd := do
  match (← get).cmdOf n with
  | some m => pure m
  | none => throw (.wait id)
def putCmd (m : Cmd) : M Unit := modify (·.setCmd m)

/-- What a run ends with: a fault of the command, or nothing. -/
abbrev Run := M (Option Byte)

/-- What a run leaves: the writes that it has still to make and the units of COUNT. -/
def madeRun (m : Cmd) (todo : List (Dword × List Byte)) (count : Nat) : Run := do
  putCmd { m with started := true, todo := todo, count := count }
  pure none

/-- One step of a command: its start and reads, then one write at a time with `post`, then `after` until it says that the
command is over (R426). Before it reads, the strand's stores to other packages that its regions may hold are acknowledged
(R109). A command of queue 0 that its lease's end suspended goes on under its core's next lease (R252). FATAL ends the command
with MEMFATAL (R429). -/
def runTile (op : Nat) (start : Cmd → Run) (post : Cmd → Dword → List Byte → M Cmd) (after : Cmd → M Bool) (s : State) :
    State :=
  match s.cmdOf s.ev.who with
  | none => s
  | some m =>
    if m.op ≠ op || m.done.isSome || !m.accepted then s
    else if if m.started then m.q == 0 && !(s.core m.core).leaseHeld else !s.canStart m then s
    else runM (do
        let r ← (if m.started then pure none else do
          settleWrites m.who ((s.regionPeers m).map peerWrite)
          start m : Run)
        match r with
        | some f => do let x ← getCmd m.n; modify fun s => s.endCmd x f 0
        | none => do
          let x ← getCmd m.n
          match x.todo with
          | (va, bs) :: rest =>
            if m.started then
              let y ← post x va bs
              putCmd { y with todo := rest }
          | [] => do
            let over_ ← after x
            if over_ then
              let y ← getCmd m.n
              modify fun s => s.endCmd y 0 0
        modify fun s => { s.dropFault (.cmd m.n) with
          requests := s.requests.filter fun r => !(decide (r.who = .cmd m.n) && !r.bytes.isEmpty && !r.isRed) })
      (fun sub _ s => s.endCmd m 0x18 sub) (fun _ s => s) s

/-- Nothing is left once the writes have been made. -/
def atOnce : Cmd → M Bool := fun _ => pure true

/-- A plain engine write (ACCESS = 5). -/
def postPlain (m : Cmd) (va : Dword) (bs : List Byte) : M Cmd := do
  let a ← writeMem m.who va bs 5
  pure { m with pending := m.pending ++ a, bytes := m.bytes + bs.length }

/-- A command that makes no write. -/
def postNone (m : Cmd) (_ : Dword) (_ : List Byte) : M Cmd := pure m

/-- An AMO packet whose answer completion awaits (R30); its record has no key, but for a RED.ORD contribution, which may have
to be sent again (R107): address, value, tickets and tenant. -/
def sendAmo (w : Who) (pkg : Nat) (va : Dword) (size op : Nat) (x ticket : Nat) : M Unit := do
  let s ← get
  if !s.pkgOk pkg then throw (.fatal 5 va)
  else if !s.canTouch w.die pkg then throw (.wait fun t => t.relieveTouched w.die)
  else match s.freeTag w.die with
    | none => throw (.wait id)
    | some tag =>
      let key := if op = 11 then leBytes 8 va.toNat ++ leBytes 8 x ++ leBytes 8 ticket ++ leBytes 2 w.tenant.toNat else []
      set ((s.addRequest w tag pkg 3 key).sendPacket w.die pkg (requestPacket 3 w.die pkg s.pkgid.toNat w.tenant tag
        [(0x10, 8, va.toNat), (0x18, 1, op), (0x19, 1, size / 8), (0x20, 8, x), (0x30, 8, ticket)] []))

/-- A write of the command that another package performs: completion awaits that package's FENCE (R111). -/
def Cmd.toPeer (m : Cmd) (pkg : Nat) : Cmd :=
  { m with pending := if m.pending.contains (peerWrite pkg) then m.pending else m.pending ++ [peerWrite pkg] }

/-- COUNT of a SPLITK command once its next contribution has left: the groups whose contributions have all left (R428, R436). -/
def Cmd.exported (m : Cmd) : Nat := ceilDiv m.w.kext 32 - ceilDiv (m.todo.length - 1) (m.w.rows * m.w.cols)

/-- A RED.ORD contribution of a SPLITK command (R107, R299, R355): four bytes and the ticket. -/
def postRed (m : Cmd) (va : Dword) (bs : List Byte) : M Cmd := do
  let w := m.who
  let x := rd bs 0 4
  let t := rd bs 4 4
  let p ← placeWrite w va 4 2
  let fly := fun (addr : Nat) => do
    let s ← get
    let r : RedHeld := { addr := addr, bank := redBank addr, die := w.die, size := 4, ticket := t, last := m.w.lastt
                         x := dw x, stamp := (s.die w.die).view, who := none, cmd := some m.n }
    set { s with redFly := s.redFly ++ [(s.nextN, r, false)], nextN := s.nextN + 1 }
    pure { m with acc := m.acc ++ [(addr, t)], bytes := m.bytes + 4, count := m.exported }
  match p with
  | .ls c o => fly (2 ^ 50 + lsKey c o)
  | .mem pa => fly pa
  | .peer pkg => do
    sendAmo w pkg va 4 11 x (t + m.w.lastt * 2 ^ 32)
    pure { m.toPeer pkg with bytes := m.bytes + 4, count := m.exported }
  | .host => throw (.fatal 0x25 va)

/-- One indivisible step on an element at its home (R106, R227, R451). `peer` is the AMO code that does the same. -/
def postHome (acc : Nat) (m : Cmd) (va : Dword) (bs : List Byte) (f : Nat → Nat) (peer : Option Nat) : M Cmd := do
  let w := m.who
  let n := bs.length
  let p ← placeWrite w va n acc
  let m := { m with bytes := m.bytes + n }
  match p with
  | .peer pkg => match peer with
    | some op => do
      sendAmo w pkg va n op (leNat bs) 0
      pure (m.toPeer pkg)
    | none => do
      let a := va &&& ~~~ 7
      let sh := va.toNat % 8 * 8
      let _ ← peerStep w pkg a fun d =>
        some (dw (d.toNat - d.toNat / 2 ^ sh % 2 ^ (8 * n) * 2 ^ sh + f (d.toNat / 2 ^ sh % 2 ^ (8 * n)) * 2 ^ sh))
      pure (m.toPeer pkg)
  | .host => do
    if peer ≠ some 0 ∨ n ≠ 8 then throw (.fatal 0x25 va)
    let _ ← askHost w 0x103 va 8 (dw (leNat bs)) 0
    pure m
  | p => do
    let s ← get
    let k ← homeWrite w p (leBytes n (f (leNat (s.placeBytes p n))))
    pure { m with pending := if k = 0 then m.pending else m.pending ++ [k] }

/-! ### Completion (R111, R263, R428, R430) -/

/-- The STATUS of a peer that turned down an AMO packet of the command. -/
def State.amoStatus (s : State) (n : Nat) : Option Byte :=
  s.requests.findSome? fun r => if r.who = .cmd n ∧ r.opc = 3 ∧ (r.bytes = [] ∨ r.isRed) then
    r.answer.bind fun a => if a.1 = 0 then none else some a.1 else none

/-- The completion value (R428): COUNT is bytes written for the commands that count those. -/
def Cmd.value (m : Cmd) : Dword :=
  let d := m.done.getD (0, 0)
  let n := if [8, 0x10, 0x11, 0x12, 0x14, 0x15].contains m.op then m.bytes else m.count
  dw (d.1.toNat * 2 ^ 56 + d.2.toNat * 2 ^ 48 + m.op * 2 ^ 40 + n % 2 ^ 40)

/-- A runtime fault reaches the strand, or the fault queue of its die (R430). -/
def State.engineFault (s : State) (m : Cmd) (sub : Byte) : State :=
  let x := s.slot m.slot
  if x.holdsStrand && x.uid == m.uid then
    (s.postAsync m.slot { cause := 0x0A, sub := sub, win := [m.pc, m.value] }).modCore m.core fun c => { c with asleep := false }
  else
    s.postFaultEntry m.die (faultEntry m.owner 0x0A sub (whereWord m.slot) m.pc 0) ((s.ownerTask m.owner m.tenant).map (·.n))

/-- All of a command's writes meet R111: its atomics have been answered and its folds made, and then the writes have settled, with
a FENCE to each package that it wrote to; one that another package turns down ends it with MEMFATAL. -/
def settleCmd (m : Cmd) : M (Option Byte) :=
  orFatal (do
    let s ← get
    if !m.acc.isEmpty || s.requests.any fun r => decide (r.who = .cmd m.n) && ((r.bytes.isEmpty && r.answer.isNone) ||
      (r.isRed && (r.answer.isNone || r.refusedRed))) then throw (.wait id)
    settleWrites m.who m.pending
    pure (s.amoStatus m.n)) fun sub _ => pure (some sub)

/-- COMMAND_COMPLETE (R111, R319, R428, R430). What its issue released is visible before its target is filled. -/
def execCommandComplete (s : State) : Res :=
  .next <| match s.cmdOf s.ev.who with
    | none => s
    | some m =>
      if m.done.isNone || !m.counts.isEmpty || !s.footprintVisible m then s
      else runM (do
        let bad ← settleCmd m
        modify fun s =>
          let s := (s.dropRequests (.cmd m.n)).dropFault (.cmd m.n)
          let m := match bad, m.done with
            | some st, some (0, _) => { m with done := some (0x18, if 8 ≤ st.toNat then 4 else st) }
            | _, _ => m
          let s := { s with cmds := s.cmds.filter fun e => e.n ≠ m.n }
          let s := match m.target with
            | some (k, r) => s.deliverFill k r m.value false
            | none => s
          match m.done with
          | some (0, _) => s
          | some (sub, _) => s.engineFault m sub
          | none => s) (fun _ _ s => s) (fun _ s => s) s

/-- One step on an arrival counter (R263): PENDING changes by `x` modulo 2^48; it fills the word when ARMED meets zero. -/
def State.arrive (s : State) (d cl off x : Nat) (arm : Bool) : State :=
  let v := s.lsDword cl off
  let p := (bits v 47 0 + x) % 2 ^ 48
  let armed := v.msb || arm
  if armed ∧ p = 0 then (s.storeLs d cl off (leBytes 8 0)).setFull cl off true
  else s.storeLs d cl off (leBytes 8 ((if armed then 2 ^ 63 else 0) + p))

/-- ARRIVAL_COUNT (R263): bytes that are visible at a receiver reach its arrival counter. -/
def execArrivalCount (s : State) : Res :=
  .next <| match s.cmdOf s.ev.who with
    | none => s
    | some m => match m.counts with
      | [] => s
      | (cl, n) :: rest => runM (do
          let _ ← settleCmd m
          modify fun s => (s.arrive m.die cl (m.w.w6.toNat / 2 ^ 16 * 64) (2 ^ 48 - n % 2 ^ 48) false).setCmd { m with counts := rest })
          (fun _ _ s => s) (fun _ s => s) s

/-! ### The lease (R252, R253) -/

/-- A core waits for the lease on behalf of a launch whose guaranteed counters are above zero (R253). -/
def State.leaseGuaranteed (s : State) (c : Nat) : Bool :=
  match s.cmds.find? fun m => m.q == 0 && m.core == c && m.done.isNone with
  | some m => s.guaranteedNow m.die ((s.strandLaunch m.owner m.tenant).map (·.n))
  | none => false

/-- The core of a cluster that is granted next. -/
def State.leaseNext (s : State) (cl : Nat) : Option Nat :=
  let order := (List.range 4).map fun i => cl * 4 + ((s.cluster cl).lastLease + 1 + i) % 4
  let wait := order.filter fun c => (s.core c).leaseWait
  (wait.find? s.leaseGuaranteed).or wait.head?

/-- LEASE_GRANT. -/
def execLeaseGrant (s : State) : Res :=
  let cl := s.ev.who
  .next <| if (s.cluster cl).lease.isSome then s
    else match s.leaseNext cl with
      | none => s
      | some c =>
        (s.modCluster cl fun x => { x with lease := some c, lastLease := c % 4 }).modCore c fun x => { x with
          leaseHeld := true, leaseWait := false, leaseCmds := 16, leaseCyc := 4096, leaseIdle := 0 }

/-- A command that its lease's end may suspend: it stands at a boundary of its groups. Only the contributions of SPLITK show
their groups in memory (R252, R436). -/
def Cmd.atBoundary (m : Cmd) : Bool := !m.w.splitk || m.todo.length % (m.w.rows * m.w.cols) == 0

/-- LEASE_END (R252): at the first of the three limits. A command of the holder that runs goes on to the next boundary of its
groups, and is suspended there until its core's next lease. -/
def execLeaseEnd (s : State) : Res :=
  let cl := s.ev.who
  .next <| match (s.cluster cl).lease with
    | none => s
    | some c =>
      let x := s.core c
      let left := s.cmds.any fun m => m.q == 0 && m.core == c && m.accepted && m.done.isNone
      let runs := s.cmds.any fun m => m.q == 0 && m.core == c && m.started && m.done.isNone && !m.atBoundary
      if runs || !(x.leaseCmds == 0 || x.leaseCyc == 0 || (!left && decide (64 ≤ x.leaseIdle))) then s
      else (s.modCluster cl fun y => { y with lease := none }).modCore c fun y => { y with
        leaseHeld := false, leaseWait := left, leaseCmds := 0, leaseCyc := 0, leaseIdle := 0 }

end Sys2Proof.Machine
end

