-- ==== Sys2Proof/Machine/Cut.lean ====
section
/-! DEFINITION. The cut of a checkpoint (R64, R92), which CKPTREQ and CKPT share. -/

namespace Sys2Proof.Machine

/-- The directions of a mask with a port in service. -/
def State.dirsUp (s : State) (mask : Byte) : List Nat := (List.range 8).filter fun d => mask.getLsbD d && s.dirUp d

/-- Every write has been performed and every copy-down has ended (R92, steps 1–3). -/
def State.cutReady (s : State) : Bool := s.copies.isEmpty && s.writes.all (·.performed)

/-- Pool frames in which page-table nodes lie, with their contents. -/
def State.tableFrames (s : State) : Table Memory :=
  ((s.nodes.map fun e => e.1 / 8).dedup).foldl (fun t f => t.put f (sliceMem s.mem (viewKey (homeDie (f * 65536)) (f * 65536)) 65536)) []

/-- Frames that a drain has still to send: side copies, frames held free and frames of an older generation (R92, R93, R179), and
the page-table frames and reserved frames as they stood at the cut. -/
def State.undrained (s : State) : List Nat :=
  ((s.side.map (·.1)) ++ s.heldFree ++
    ((s.frames.filter fun e => decide (e.2.gen.toNat < s.ckgen.toNat) && !e.2.side).map (·.1))).dedup ++
    ((s.drain.map (·.tables)).getD []).map (·.1)

/-- A side copy or a frame that a failed drain has left, which the next drain sends first (R93). -/
def State.leftOver (s : State) (f : Nat) : Bool :=
  match s.side.find? f, s.frames.find? f with
  | some fr, _ => decide ((s.frameDesc fr).gen.toNat + 1 < s.ckgen.toNat)
  | none, some x => decide (x.gen.toNat + 1 < s.ckgen.toNat)
  | none, none => false

/-- A held write waits for the drain to send this frame, as no side copy could be made (R93). -/
def State.drainFirst (s : State) (f : Nat) : Bool := s.drain.any fun d => d.first.contains f

/-- The drain may send a frame: it is undrained, and no other comes before it: first what a failed drain has left, then the frames
that held writes wait for; a frame of which packets have left is sent to its end (R93). -/
def State.drainNext (s : State) (f : Nat) : Bool :=
  s.undrained.contains f &&
  (s.leftOver f || (s.drain.any fun d => Table.getD d.busy f [] ≠ []) ||
    (!s.undrained.any s.leftOver && (s.drainFirst f || !s.undrained.any s.drainFirst)))

/-- Step 4 of R92, and the drain starts over the directions of a mask, with the contents of the page tables and of the reserved
frames at the cut (R179). -/
def State.takeCut (s : State) (mask : Byte) : State :=
  { s with ckgen := s.ckgen + 1, drain := some ⟨mask, s.timer.toNat, [], s.tableFrames ++ s.regionImages, false, []⟩ }

end Sys2Proof.Machine
end

