-- ==== Sys2Proof/Machine/TileCmd.lean ====
section
/-! DEFINITION. The commands of the tensor engine but ATT (R296–R303, R435–R444). -/

namespace Sys2Proof.Machine

/-! ### The canonical sum (R296) -/

/-- An operand of a product: its value and Exp of its pattern. -/
abbrev Operand := Fp.Val × Int

/-- A pattern as an operand. -/
def operandOf (f : Fp.Fmt) (x : Nat) : Operand :=
  let e := x / 2 ^ f.fw % 2 ^ f.ew
  (f.val x, (if e = 0 then 1 else (e : Int)) - f.bias)

/-- Infinities of a sign. -/
def isInf (neg : Bool) : Fp.Val → Bool
  | .inf n => n == neg
  | _ => false

/-- Floor(Abs(prod) ÷ 2^q), with the sign of the product. -/
def unitsOf (q : Int) : Fp.Val → Int
  | .fin n m e => Fp.sgn n (if q ≤ e then m * 2 ^ (e - q).toNat else m / 2 ^ (q - e).toNat)
  | _ => 0

/-- The largest of a list of integers. -/
def maxInt (xs : List Int) : Int := match xs with
  | [] => 0
  | x :: r => r.foldl max x

/-- GroupSum, an FP32 pattern. -/
def groupSum (a b : List Operand) : Nat :=
  let prods := (a.zip b).map fun p => Fp.vmul p.1.1 p.2.1
  if prods.any (·.isNan) || (prods.any (isInf false) && prods.any (isInf true)) then Fp.f32.nan
  else if prods.any (isInf false) then Fp.f32.rne (.inf false)
  else if prods.any (isInf true) then Fp.f32.rne (.inf true)
  else
    let q := maxInt (a.map (·.2)) + maxInt (b.map (·.2)) + 1 - 60
    let wide := (prods.map (unitsOf q)).foldl (· + ·) 0
    Fp.f32.rne (Fp.finOf wide false q)

/-- Groups of 32 in ascending order. -/
def groupsOf {α : Type} : Nat → List α → List (List α)
  | 0, _ => []
  | n + 1, xs => if xs.isEmpty then [] else xs.take 32 :: groupsOf n (xs.drop 32)

/-- Fold of R296 from +0 over whole rows. -/
def canonicalSum (a b : List Operand) : Nat :=
  ((groupsOf a.length a).zip (groupsOf b.length b)).foldl (fun acc g => Fp.f32.add acc (groupSum g.1 g.2)) 0

/-! ### The accumulator store and tiles (R255, R435) -/

def State.readAcc (s : State) (cl i off n : Nat) : Nat := leNat (s.acc.readBytes (accKey cl i + off) n)
def State.writeAcc (s : State) (cl i off : Nat) (bs : List Byte) : State :=
  { s with acc := s.acc.writeBytes (accKey cl i + off) bs }

/-- Element `x` of `es` bytes of the j-th tile of a ring. -/
def State.tileElem (s : State) (cl r j es x : Nat) : Nat :=
  leNat (s.readLs cl ((s.ringOf cl r).tileOff j + x * es) es)

/-- Entry `c` of the codebook of A in a format context (R292, R437). -/
def codebook (ctx : List Byte) (c : Nat) : Nat := rd ctx (0x20 + 2 * c) 2

/-- Element (i, kk) of tile j of A as a command of an opcode reads it, and (kk, col) of B. -/
def State.mmaA (s : State) (m : Cmd) (j i kk : Nat) : Operand :=
  let ctx := (s.core m.core).fmt
  let x := i * 32 + kk
  match m.op with
  | 1 => operandOf Fp.bf16 (s.tileElem m.cluster m.w.ringA j 2 x)
  | 2 => operandOf Fp.bf16 (codebook ctx (s.tileElem m.cluster m.w.ringA j 1 (x / 2) / 16 ^ (x % 2) % 16))
  | _ => operandOf (fmtOfCode (rd ctx 0 1)) (s.tileElem m.cluster m.w.ringA j 1 x)
def State.mmaB (s : State) (m : Cmd) (j kk col : Nat) : Operand :=
  let x := kk * 128 + col
  if m.op = 3 then operandOf (fmtOfCode (rd (s.core m.core).fmt 1 1)) (s.tileElem m.cluster m.w.ringB j 1 x)
  else operandOf Fp.bf16 (s.tileElem m.cluster m.w.ringB j 2 x)

/-- The context suits the opcode (R435). -/
def State.contextOk (s : State) (m : Cmd) : Bool :=
  let a := rd (s.core m.core).fmt 0 1; let b := rd (s.core m.core).fmt 1 1
  match m.op with
  | 2 => a == 13
  | 3 => (a == 11 || a == 12) && (b == 11 || b == 12)
  | _ => true

/-- The tiles of a command, and the k of its group `j` that lie in the tensor. -/
def Cmd.groups (m : Cmd) : Nat := ceilDiv m.w.kext 32
def Cmd.groupK (m : Cmd) (j : Nat) : Nat := min 32 (m.w.kext - 32 * j)

/-- GroupSum of a cell over group `j`. -/
def State.mmaSum (s : State) (m : Cmd) (i col j : Nat) : Nat :=
  let ks := List.range (m.groupK j)
  groupSum (ks.map fun kk => s.mmaA m j i kk) (ks.map fun kk => s.mmaB m j kk col)

/-- MMA, MMACB and MMAF8 (R436): a fold into the slot, or the contributions of SPLITK. -/
def startMma (m : Cmd) : Run := do
  let s ← get
  if !s.contextOk m then return some 0x10
  if !s.tilesThere m then throw (.wait id)
  let cells := (List.range m.w.rows).flatMap fun i => (List.range m.w.cols).map fun j => (i, j)
  let groups := List.range m.groups
  if m.w.splitk then
    let base := m.w.w1.toNat / 32 - m.w.w2.toNat
    madeRun m (groups.flatMap fun g => cells.map fun c =>
      (dw (m.w.dst + c.1 * 512 + c.2 * 4), leBytes 4 (s.mmaSum m c.1 c.2 g) ++ leBytes 4 (base + g))) 0
  else do
    for c in cells do
      let off := c.1 * 512 + c.2 * 4
      let v := groups.foldl (fun acc g => Fp.f32.add acc (s.mmaSum m c.1 c.2 g)) (s.readAcc m.cluster m.w.acc off 4)
      modify (·.writeAcc m.cluster m.w.acc off (leBytes 4 v))
    madeRun m [] m.groups

/-- MMA (R435, R436). -/
def execMma (s : State) : Res := .next <| runTile 1 startMma postRed atOnce s
/-- MMACB (R435, R436). -/
def execMmacb (s : State) : Res := .next <| runTile 2 startMma postRed atOnce s
/-- MMAF8 (R435, R436). -/
def execMmaf8 (s : State) : Res := .next <| runTile 3 startMma postRed atOnce s

/-! ### Cell microprograms (R303, R438, R439) -/

/-- One operation on FP32 patterns. -/
def cellOp (opc x y : Nat) : Nat :=
  let f := Fp.f32
  match opc with
  | 1 => f.add x y
  | 2 => f.sub x y
  | 3 => f.mul x y
  | 4 => f.max x y
  | 5 => f.min x y
  | 6 => f.rne (Fp.vlae2 (f.val x) (f.val y))
  | _ => if fpCond f 2 y x || fpCond f 0 x y then 0x3F800000 else 0

/-- Runs the operations from number `n` on; `ts` are the results so far. -/
def cellRun (ctx : List Byte) (s a b : Nat) : Nat → Nat → List Nat → List Nat
  | 0, _, ts => ts
  | fuel + 1, n, ts =>
    let w := rd ctx (4 + 2 * n) 2
    let src := fun (c : Nat) => match c with
      | 0 => s
      | 1 => a
      | 2 => b
      | 6 => rd ctx 0xC 4
      | 7 => rd ctx 0x10 4
      | c => ts.getD (c - 3) 0
    cellRun ctx s a b fuel (n + 1) (ts ++ [cellOp (w / 4096) (src (w / 256 % 16)) (src (w / 16 % 16))])

/-- One k of one cell: the last result. -/
def cellStep (ctx : List Byte) (s a b : Nat) : Nat := (cellRun ctx s a b (rd ctx 2 1) 0 []).getLastD s

/-- CELLP and CELL (R439): FP32 tiles, or BF16 tiles widened exactly. -/
def startCell (m : Cmd) : Run := do
  let s ← get
  let ctx := (s.core m.core).fmt
  if rd ctx 2 1 = 0 then return some 0x10
  if !s.tilesThere m then throw (.wait id)
  let es := if m.op = 4 then 4 else 2
  let wide := fun (x : Nat) => if es = 4 then x else x * 65536
  let elemA := fun (i k : Nat) => wide (s.tileElem m.cluster m.w.ringA (k / 32) es (i * 32 + k % 32))
  let elemB := fun (k j : Nat) => wide (s.tileElem m.cluster m.w.ringB (k / 32) es (k % 32 * 128 + j))
  for i in List.range m.w.rows do
    for j in List.range m.w.cols do
      let off := i * 512 + j * 4
      let v := (List.range m.w.kext).foldl (fun x k => cellStep ctx x (elemA i k) (elemB k j)) (s.readAcc m.cluster m.w.acc off 4)
      modify (·.writeAcc m.cluster m.w.acc off (leBytes 4 v))
  madeRun m [] m.w.kext

/-- CELLP (R439). -/
def execCellp (s : State) : Res := .next <| runTile 4 startCell postNone atOnce s
/-- CELL (R439). -/
def execCell (s : State) : Res := .next <| runTile 5 startCell postNone atOnce s

/-! ### Windows (R432–R434) -/

/-- The coordinates of a whole window in four dimensions, in ascending order; none when it moves nothing. -/
def Layout.points (l : Layout) : List (List Nat) := if l.empty then [] else Machine.coords ((List.range 4).map l.wextAt)

/-- Tensor index of the dimensions in use of a window element. -/
def Layout.idxOf (l : Layout) (c : List Nat) : List Int := (List.range l.dims).map fun d => l.worgAt d + (c.getD d 0 : Int)

/-- The in-bounds index that an index clamps to. -/
def Layout.clamp (l : Layout) (idx : List Int) : List Int :=
  idx.zipIdx.map fun p => max 0 (min p.1 ((l.extAt p.2 : Int) - 1))

/-- The value of a window element (R434). -/
def readElem (m : Cmd) (l : Layout) (idx : List Int) : M Nat := do
  if l.inBounds idx || l.mode == 1 then
    let bs ← readMem m.who (l.addr (l.clamp idx)) l.es 4
    pure (leNat bs)
  else pure l.fillPattern

/-- Adjacent writes join up to a page's line. -/
def joinWrites : List (Dword × List Byte) → List (Dword × List Byte)
  | [] => []
  | (a, bs) :: r => match joinWrites r with
    | (b, cs) :: r' => if a + dw bs.length = b ∧ bs.length + cs.length ≤ 4096 then (a, bs ++ cs) :: r' else (a, bs) :: (b, cs) :: r'
    | [] => [(a, bs)]

/-! ### SCAN (R301, R442) -/

/-- The formats of a SCAN's state, its inputs and its outputs (R442). -/
def Cmd.scanState (m : Cmd) : Fp.Fmt := if m.w.modeBit 0 then Fp.f64 else Fp.f32
def Cmd.scanIn (m : Cmd) : Fp.Fmt := if m.w.modeBit 1 then Fp.bf16 else Fp.f32
def Cmd.scanOut (m : Cmd) : Fp.Fmt := if m.w.modeBit 2 then Fp.bf16 else Fp.f32

/-- The state of the lanes after step `t`; `mark` is the step's reset mark. -/
def State.scanStep (s : State) (m : Cmd) (mark : Bool) (t : Nat) : List Nat :=
  let st := m.scanState
  let ss := st.width / 8
  let elem_ := fun (r x : Nat) => m.scanIn.val (s.tileElem m.cluster r (t / 32) (m.scanIn.width / 8) (t % 32 * 128 + x))
  (List.range m.w.lanes).map fun x =>
    let b := elem_ m.w.ringB x
    if mark then st.rne b
    else
      let h := if m.w.modeBit 3 && t == 0 then 0 else s.readAcc m.cluster m.w.acc (x * ss) ss
      st.rne (Fp.vadd .rne (Fp.vmul (elem_ m.w.ringA x) (st.val h)) b)

/-- SCAN's start: it reads the reset bitmap. -/
def startScan (m : Cmd) : Run := do
  let s ← get
  if !s.tilesThere m then throw (.wait id)
  let n := ceilDiv m.w.steps 8
  let marks ← (if m.w.a12 = 0 then pure (List.replicate n 0) else readMem m.who (dw m.w.a12) n 4 : M (List Byte))
  madeRun { m with recs := m.recs ++ [marks] } [] 0

/-- SCAN goes on step by step: the lanes' new states, then the outputs of the step. -/
def afterScan (m : Cmd) : M Bool := do
  let s ← get
  let t := m.part
  let l := m.rec_ 0
  let hs := s.scanStep m (((m.recs.getD 1 []).getD (t / 8) 0).getLsbD (t % 8)) t
  let ss := m.scanState.width / 8
  set (hs.zipIdx.foldl (fun s p => s.writeAcc m.cluster m.w.acc (p.2 * ss) (leBytes ss p.1)) s)
  let outs := (if l.empty then [] else hs.zipIdx).filterMap fun p =>
    let idx := l.idxOf [p.2, t]
    if l.inBounds idx then some (l.addr idx, leBytes l.es (m.scanOut.rne (m.scanState.val p.1))) else none
  let mut y := m
  for w in joinWrites outs do
    y ← postPlain y w.1 w.2
  putCmd { y with part := t + 1, count := t + 1 }
  pure (decide (t + 1 = m.w.steps))

/-- SCAN (R442). -/
def execScan (s : State) : Res := .next <| runTile 7 startScan postNone afterScan s

/-! ### ACCRD and ACCLR (R443) -/

def rmOf (m : Cmd) : Fp.Rm := Fp.Rm.ofBits (BitVec.ofNat 2 (m.w.mode % 4))

/-- ACCRD's start. -/
def startAccrd (m : Cmd) : Run := do
  let s ← get
  let l := m.rec_ 0
  let value := fun (c : List Nat) =>
    if m.w.modeBit 3 then s.readAcc m.cluster m.w.acc (c.getD 0 0) 1
    else convert 9 l.fmt (rmOf m) (m.w.modeBit 2) (s.readAcc m.cluster m.w.acc (c.getD 1 0 * 512 + c.getD 0 0 * 4) 4)
  madeRun m (joinWrites (l.points.filterMap fun c =>
    if l.inBounds (l.idxOf c) then some (l.addr (l.idxOf c), leBytes l.es (value c)) else none)) 0

/-- ACCRD (R443). -/
def execAccrd (s : State) : Res := .next <| runTile 8 startAccrd postPlain atOnce s

/-- ACCLR's start: all cells take +0 or the value. -/
def startAcclr (m : Cmd) : Run := do
  let img := Memory.writeBytes [] 0 ((List.range 16384).flatMap fun _ => leBytes 4 m.w.w5.toNat)
  modify fun s => { s with acc := replaceMem s.acc (accKey m.cluster m.w.acc) 65536 (if m.w.modeBit 0 then img else []) }
  madeRun m [] 65536

/-- ACCLR (R443). -/
def execAcclr (s : State) : Res := .next <| runTile 9 startAcclr postNone atOnce s

/-! ### FMTLD and RINGCFG (R437, R438, R444) -/

/-- A word of a microprogram is good in place `n`. -/
def microOk (w n : Nat) : Bool :=
  let src := fun (c : Nat) => decide (c < 8) && !(decide (3 ≤ c ∧ c ≤ 5) && decide (n ≤ c - 3))
  w % 16 == 0 && decide (1 ≤ w / 4096 ∧ w / 4096 ≤ 7) && src (w / 256 % 16) && src (w / 16 % 16)

/-- The image of a format context passes its checks. -/
def contextImage (r : List Byte) : Bool :=
  let a := rd r 0 1; let b := rd r 1 1; let n := rd r 2 1
  [8, 11, 12, 13].contains a && [8, 11, 12].contains b && decide (n ≤ 4) && rd r 3 1 == 0 &&
  ((List.range 4).all fun i => if i < n then microOk (rd r (4 + 2 * i) 2) i else rd r (4 + 2 * i) 2 == 0) &&
  rd r 0x14 12 == 0 && (a == 13 || rd r 0x20 32 == 0) && rd r 0x40 64 == 0

/-- FMTLD's start. -/
def startFmtld (m : Cmd) : Run := do
  let r ← readMem m.who (dw m.w.a12) 128 4
  if !contextImage r then return some 0x10
  modify (·.modCore m.core fun c => { c with fmt := r })
  madeRun m [] 128

/-- FMTLD (R437). -/
def execFmtld (s : State) : Res := .next <| runTile 0xA startFmtld postNone atOnce s

/-- RINGCFG's start. -/
def startRingcfg (m : Cmd) : Run := do
  let s ← get
  let n := m.w.cfgRing
  let r := s.ringOf m.cluster n
  if m.w.modeBit 0 && !r.writing.isEmpty then throw (.wait id)
  if !m.w.modeBit 0 && (r.filled != 0 || !r.writing.isEmpty) then return some 0x19
  modify (·.modRing m.cluster n fun _ =>
    ⟨true, BitVec.ofNat 16 m.w.cfgBase, m.w.cfgSize, m.w.cfgSlots, 0, 0, m.w.cfgSlots, 0, []⟩)
  madeRun m [] 0

/-- RINGCFG (R444). -/
def execRingcfg (s : State) : Res := .next <| runTile 0xB startRingcfg postNone atOnce s

end Sys2Proof.Machine
end

