-- ==== Sys2Proof/Machine/Att.lean ====
section
/-! DEFINITION. ATT and COMPACT (R225–R228, R440, R441, R448). -/

namespace Sys2Proof.Machine

/-! ### Tables and blocks as the engines read them (R221, R441) -/

/-- The command's engine as an accessor of a stream's state space. -/
def Cmd.whoSid (m : Cmd) : Who := { m.who with stream := some m.w.w1.toNat }

/-- An entry in range when its block is reached: none when it is invalid; one that names no block sends a fault of kind DROPPED
(R221). -/
def rangeEntry (w : Who) (sid a : Nat) : M (Option Dword) := do
  let e ← readEntry w a 4
  if !kvValid e then return none
  if kvTier e = 3 then
    let s ← get
    throw (stopFault s w (.stream sid) (windowAddr a) 4 8 kDropped 0 e)
  pure (some e)

/-- Every entry of some addresses is valid. -/
def entriesValid (w : Who) : List Nat → M Bool
  | [] => pure true
  | a :: rest => do
    let e ← readEntry w a 4
    if kvValid e then entriesValid w rest else pure false

/-- Bytes read at a peer package, by packets. -/
def readPeer (w : Who) (pkg : Nat) : Nat → Dword → Nat → M (List Byte)
  | 0, _, _ => pure []
  | fuel + 1, va, n => do
    if n = 0 then return []
    let k := chunkLen va n
    let bs ← readPlace w va (.peer pkg) k
    let rest ← readPeer w pkg fuel (va + dw k) (n - k)
    pure (bs ++ rest)

/-- The bytes of the block of an entry. -/
def readBlock (w : Who) (t : KvTab) (e : Dword) : M (List Byte) :=
  if kvTier e = 2 then readPeer w (bits e 61 46) (t.blockSize / 4096 + 2) (t.blockVa e) t.blockSize
  else readMem w (t.blockVa e) t.blockSize 4

/-- Element `d` of row `j` of the keys, or of the values, of a block (R219). -/
def KvTab.elemFmt (t : KvTab) : Fp.Fmt := if t.fmt = 0 then Fp.bf16 else if t.fmt = 1 then Fp.e4m3 else Fp.e5m2
def KvTab.vec (t : KvTab) (blk : List Byte) (value : Bool) (j : Nat) : List Operand :=
  let row := (blk.drop ((if value then t.tokens * t.hdim * t.esize else 0) + j * t.hdim * t.esize)).take (t.hdim * t.esize)
  (List.range t.hdim).map fun d => operandOf t.elemFmt (rd row (d * t.esize) t.esize)

/-- The row masks of a tree; none when a parent does not come before its node (R225). -/
def attTreeRows (par : List Byte) : Option (List Nat) :=
  par.zipIdx.foldl (fun (rows : Option (List Nat)) p => rows.bind fun rs =>
    if p.1 = 0xFF then some (rs ++ [2 ^ p.2])
    else if p.1.toNat < p.2 then some (rs ++ [rs.getD p.1.toNat 0 ||| 2 ^ p.2]) else none) (some [])

/-- Strictly ascending. -/
def ascending : List Nat → Bool
  | a :: b :: r => decide (a < b) && ascending (b :: r)
  | _ => true

/-! ### The numerics of ATT (R226, R227) -/

/-- What fixes the scores of a command. -/
structure AttJob where
  q      : List (List Operand)
  scale  : Nat
  kvlen  : Nat
  qpos0  : Nat
  causal : Bool
  rows   : Option (List Nat)
  carry  : Fp.Fmt
  pe4    : Bool
  deriving DecidableEq, Repr

/-- A query row's running maximum, sum and output. -/
structure AttRow where
  m : Nat
  l : Nat
  o : List Nat
  deriving DecidableEq, Repr

/-- −∞ in FP32. -/
def negInf : Nat := 0xFF800000

/-- A key position is masked for a row (R441). -/
def AttJob.masked (a : AttJob) (r p : Nat) : Bool :=
  decide (a.kvlen ≤ p) || (a.causal && decide (a.qpos0 + r < p)) ||
  match a.rows with
  | some rs => decide (a.kvlen ≤ p + rs.length) && !((rs.getD r 0).testBit (p + rs.length - a.kvlen))
  | none => false

/-- The score of a row against the key at position `p`. -/
def AttJob.score (a : AttJob) (r p : Nat) (key : List Operand) : Nat :=
  if a.masked r p then negInf else Fp.f32.mul (canonicalSum (a.q.getD r []) key) a.scale

/-- Exp2Cr. -/
def attExp2 (x : Nat) : Nat := Fp.f32.rne (Fp.vexp2 (Fp.f32.val x))

/-- A value times a power of two. -/
def scaled (k : Int) : Fp.Val → Fp.Val
  | .fin n m e => .fin n m (e + k)
  | v => v

/-- 8 less the ceiling of log2 of the largest probability; 0 when none is above zero. -/
def scaleExpOf (p : Nat) : Int :=
  match Fp.f32.val p with
  | .fin _ m e => if m = 0 then 0 else 8 - ((m.log2 : Int) + e + (if m = 2 ^ m.log2 then 0 else 1))
  | _ => 0

/-- One block for one row: the new row, and how many probabilities flushed to zero. -/
def AttJob.step (a : AttJob) (ss : List Nat) (vs : List (List Operand)) (row : AttRow) : AttRow × Nat :=
  let mNew := ss.foldl Fp.f32.max row.m
  if mNew = negInf then (row, 0)
  else
    let alpha := Fp.f32.val (attExp2 (Fp.f32.sub row.m mNew))
    let ps := ss.map fun s => attExp2 (Fp.f32.sub s mNew)
    let k : Int := if a.pe4 then scaleExpOf (ps.foldl Fp.f32.max 0) else 0
    let pf := if a.pe4 then Fp.e4m3 else Fp.bf16
    let pq := ps.map fun p => pf.rne (scaled k (Fp.f32.val p))
    let flushed := ((ps.zip pq).filter fun z => !(Fp.f32.val z.1).isZero && (pf.val z.2).isZero).length
    let sum := (pq.map pf.val).foldl (Fp.vadd .rne) (.fin false 0 0)
    let c := a.carry
    let blockSum := c.rne (scaled (-k) sum)
    let pops := pq.map (operandOf pf)
    let grow := fun (x y : Nat) => c.add (c.rne (Fp.vmul (c.val x) alpha)) y
    let o := row.o.zipIdx.map fun z =>
      grow z.1 (c.rne (scaled (-k) (Fp.f32.val (canonicalSum pops (vs.map fun v => v.getD z.2 (.fin false 0 0, 0))))))
    ({ m := mNew, l := grow row.l blockSum, o := o }, flushed)

/-! ### ATT (R440, R441) -/

/-- Where a row's carries lie: O of dimension d, m and l, from slot ACC on. -/
def carryO (c : Fp.Fmt) (r d : Nat) : Nat := r * (128 * (c.width / 8)) + d * (c.width / 8)
def carryM (c : Fp.Fmt) (r : Nat) : Nat := (if c.width = 32 then 1 else 2) * 65536 + r * 16

/-- The row that the slots hold. -/
def State.attRow (s : State) (m : Cmd) (c : Fp.Fmt) (hdim r : Nat) : AttRow where
  m := s.readAcc m.cluster m.w.acc (carryM c r) 4
  l := s.readAcc m.cluster m.w.acc (carryM c r + 8) (c.width / 8)
  o := (List.range hdim).map fun d => s.readAcc m.cluster m.w.acc (carryO c r d) (c.width / 8)

/-- Writes a row's carries; with LAST, O normalised as FP32. -/
def State.putRow (s : State) (m : Cmd) (c : Fp.Fmt) (last : Bool) (r : Nat) (x : AttRow) : State :=
  let s := s.writeAcc m.cluster m.w.acc (carryM c r) (leBytes 8 x.m ++ leBytes 8 x.l)
  x.o.zipIdx.foldl (fun s z =>
    if last then
      let v := if (c.val x.l).isZero then 0 else Fp.f32.rne (Fp.vdiv (c.val z.1) (c.val x.l))
      s.writeAcc m.cluster m.w.acc (r * 512 + z.2 * 4) (leBytes 4 v)
    else s.writeAcc m.cluster m.w.acc (carryO c r z.2) (leBytes (c.width / 8) z.1)) s

/-- Block indices as the four-byte words of a list. -/
def wordsOf (l : List Byte) : List Nat := (List.range (l.length / 4)).map fun i => rd l (4 * i) 4

/-- The block indices of a descriptor, as words, and the parent array; none where the indices break the rules of TABLE. -/
def attRange (m : Cmd) (t : KvTab) (d : List Byte) : M (Option (List Byte × List Byte)) := do
  let n := rd d 8 4
  let listed := fun (b : Nat) => (List.range n).flatMap fun i => leBytes 4 (b + i)
  match m.w.mode % 4 with
  | 1 => do
    let l ← readMem m.who (dw (rd d 0x10 8)) (4 * n) 4
    pure (if ascending (wordsOf l) && (wordsOf l).all (· < t.maxblk) then some (l, []) else none)
  | 2 => do
    if t.maxblk < n then return none
    let par ← readMem m.who (dw (rd d 0x18 8)) (rd d 0xC 1) 4
    pure (some (listed 0, par))
  | _ => pure (if rd d 4 4 + n ≤ t.maxblk then some (listed (rd d 4 4), []) else none)

/-- The carry format of a command: CARRY (R440). -/
def Cmd.carry (m : Cmd) : Fp.Fmt := if m.w.modeBit 6 then Fp.f64 else Fp.f32
/-- The query rows of a command: M (R440). -/
def Cmd.nrow (m : Cmd) : Nat := rd (m.recs.getD 0 []) 3 1 + 1

/-- The job of a command on a table, with the KVLEN and the rows of the tree that it found. -/
def State.attJob (s : State) (m : Cmd) (t : KvTab) (kvlen : Nat) (rows : Option (List Nat)) : AttJob where
  q := (List.range m.nrow).map fun r => (List.range t.hdim).map fun j =>
    operandOf Fp.bf16 (s.tileElem m.cluster m.w.ringA 0 2 (r * t.hdim + j))
  scale := m.w.w2.toNat
  kvlen := kvlen
  qpos0 := m.w.w5.toNat
  causal := m.w.modeBit 2
  rows := rows
  carry := m.carry
  pe4 := m.w.modeBit 7

/-- The score of a row against key `j` of a block, which stands with its index. -/
def AttJob.scoreOf (a : AttJob) (t : KvTab) (r : Nat) (b : Nat × List Byte) (j : Nat) : Nat :=
  a.score r (b.1 * t.tokens + j) (t.vec b.2 false j)

/-- A row after a block, and how many probabilities flushed to zero (R226). -/
def AttJob.block (a : AttJob) (t : KvTab) (b : Nat × List Byte) (r : Nat) (row : AttRow) : AttRow × Nat :=
  let js := List.range t.tokens
  a.step (js.map (a.scoreOf t r b)) (js.map fun j => t.vec b.2 true j) row

/-- The second pass over a block: what is added into the score of each key that is not masked (R227). -/
def AttJob.adds (a : AttJob) (t : KvTab) (b : Nat × List Byte) (rows : List AttRow) : List (Dword × List Byte) :=
  (List.range t.tokens).flatMap fun j => rows.zipIdx.filterMap fun o =>
    let p := b.1 * t.tokens + j
    if a.masked o.2 p then none
    else
      let e := attExp2 (Fp.f32.sub (a.scoreOf t o.2 b j) o.1.m)
      some (windowAddr (t.scores + 4 * p), leBytes 4 (Fp.f32.rne (Fp.vdiv (Fp.f32.val e) (a.carry.val o.1.l))))

/-- Writes the rows of a command: the carries, or with `last` the normalised rows, and slot ACC + 1 zero with binary64 carry
(R441). -/
def State.putRows (s : State) (m : Cmd) (last : Bool) (outs : List AttRow) : State :=
  let s := outs.zipIdx.foldl (fun s p => s.putRow m m.carry last p.2 p.1) s
  if last && m.w.modeBit 6 then { s with acc := replaceMem s.acc (accKey m.cluster (m.w.acc + 1)) 65536 [] } else s

/-- The rows that a command's slots hold. -/
def State.attRows (s : State) (m : Cmd) (t : KvTab) : List AttRow := (List.range m.nrow).map (s.attRow m m.carry t.hdim)

/-- What ATT found at its start and goes on with: the table, KVLEN, the block indices and the tree's rows. Its records are the
descriptor, KVTAB and KVLEN, the header, the indices and the parent array. -/
def Cmd.attWork (m : Cmd) : Option (KvTab × Nat × List Nat × Option (List Nat)) :=
  let r := fun (i : Nat) => m.recs.getD i []
  (kvHeader (rd (r 1) 0 8) (r 2)).map fun t => (t, rd (r 1) 8 4, wordsOf (r 3), if r 4 = [] then none else attTreeRows (r 4))

/-- ATT's start: STREAM and TABLE come first, then TREE, and all of them before any write (R441). With FIRST the carries start
anew. -/
def startAtt (m : Cmd) : Run := do
  let s ← get
  let sid := m.w.w1.toNat
  let w := m.whoSid
  let d := m.recs.getD 0 []
  if !s.tilesThere m then throw (.wait id)
  if !(sidOk sid && s.streamUsable sid m.tenant) then return some 0x16
  let addr := scbKvtab (s.scb sid)
  let head ← readMem w (windowAddr addr) 64 4
  match kvHeader addr head with
  | none => pure (some 0x11)
  | some t =>
    if t.layers ≤ rd d 0 2 ∨ t.groups ≤ rd d 2 1 ∨
        2 ^ ((s.ringOf m.cluster m.w.ringA).slotsz + 6) < (rd d 3 1 + 1) * t.hdim * 2 then pure (some 0x11)
    else do
      let r ← attRange m t d
      match r with
      | none => pure (some 0x11)
      | some (ids, par) => do
        let valid ← entriesValid w ((wordsOf ids).map fun i => t.entryAddr (rd d 0 2) (rd d 2 1) i)
        if !valid then return some 0x11
        if (attTreeRows par).isNone then return some 0x12
        if m.w.modeBit 3 then
          modify fun s => s.putRows m false (List.replicate m.nrow ⟨negInf, 0, List.replicate t.hdim 0⟩)
        madeRun { m with
          stream := some sid
          recs := [d, leBytes 8 addr ++ leBytes 4 (scbKvlen (s.scb sid)), head, ids, par] } [] 0

/-- The block of index `i`, with its index; none when its entry has become invalid. -/
def attBlock (m : Cmd) (t : KvTab) (i : Nat) : M (Option (Nat × List Byte)) := do
  let d := m.recs.getD 0 []
  let e ← rangeEntry m.whoSid m.w.w1.toNat (t.entryAddr (rd d 0 2) (rd d 2 1) i)
  match e with
  | none => pure none
  | some e => do
    let b ← readBlock m.whoSid t e
    pure (some (i, b))

/-- ATT goes on block by block: the step of R226 on every row, the normalised rows after the last block with LAST, and then with
SCORE the second pass (R227). COUNT counts the blocks of the last pass. -/
def afterAtt (m : Cmd) : M Bool := do
  match m.attWork with
  | none => pure true
  | some (t, kvlen, ids, rows) => do
    let n := ids.length
    let scored := m.w.modeBit 5 && t.scores != 0
    if m.part = 2 * n then do
      putCmd { m with count := n }
      pure true
    else do
      let b ← attBlock m t (ids.getD (m.part % n) 0)
      match b with
      | none => do
        modify fun s => s.endCmd m 0x11 0
        pure false
      | some b => do
        let s ← get
        let a := s.attJob m t kvlen rows
        if m.part < n then do
          let outs := (s.attRows m t).zipIdx.map fun p => a.block t b p.2 p.1
          let over_ := decide (m.part + 1 = n)
          modify fun s => (s.putRows m (over_ && m.w.modeBit 4) (outs.map (·.1))).modCore m.core fun x =>
            { x with attuf := dw (min (2 ^ 64 - 1) (x.attuf.toNat + (outs.map (·.2)).sum)) }
          putCmd { m with part := m.part + 1, count := if scored then 0 else m.part + 1 }
          pure (over_ && !scored)
        else do
          putCmd { m with part := m.part + 1, todo := a.adds t b (s.attRows m t), count := m.part - n }
          pure false

/-- A score add of ATT at its home (R227). -/
def postScore (m : Cmd) (va : Dword) (bs : List Byte) : M Cmd :=
  postHome 2 m va bs (fun old => Fp.f32.add old (leNat bs)) (some 10)

/-- ATT (R440, R441). -/
def execAtt (s : State) : Res := .next <| runTile 6 startAtt postScore afterAtt s

/-! ### COMPACT (R228, R448) -/

/-- Allocates `n` blocks as ALLOC does; none when the section has no room. -/
def allocBlocks (w : Who) (t : KvTab) (die : Nat) : Nat → M (Option (List Nat))
  | 0 => pure (some [])
  | n + 1 => do
    let b ← allocBlock w t die t.blks 0
    match b with
    | none => pure none
    | some b => do
      let bs ← allocBlocks w t die n
      pure (bs.map (b :: ·))

/-- Allocates for every layer and group in turn. -/
def allocAll (w : Who) (t : KvTab) (die nb : Nat) : Nat → M (Option (List (List Nat)))
  | 0 => pure (some [])
  | n + 1 => do
    let b ← allocBlocks w t die nb
    match b with
    | none => pure none
    | some b => do
      let bs ← allocAll w t die nb n
      pure (bs.map (b :: ·))

/-- The rows `from` of old blocks packed into new block `i`, keys and then values; rows beyond the list are zero. -/
def packBlock (t : KvTab) (old : List (List Byte)) (keep : List Nat) (i : Nat) : List Byte :=
  let rowBytes := t.hdim * t.esize
  let half := fun (base : Nat) => (List.range t.tokens).flatMap fun r =>
    match keep[i * t.tokens + r]? with
    | some k => ((old.getD (k / t.tokens) []).drop (base + k % t.tokens * rowBytes)).take rowBytes
    | none => List.replicate rowBytes 0
  half 0 ++ half (t.tokens * rowBytes)

/-- The writes for one layer and group, and the old entries whose counts go down; an entry in range that names no block sends a
fault of kind DROPPED (R228). -/
def compactGroup (w : Who) (t : KvTab) (kvlen : Nat) (keep new : List Nat) (die tier ly g : Nat) :
    M (List (Dword × List Byte) × List Dword) := do
  let n := ceilDiv kvlen t.tokens
  let mut es : List (Nat × Dword) := []
  for i in List.range t.maxblk do
    let e ← readEntry w (t.entryAddr ly g i) 4
    es := es ++ [(i, e)]
  let mut blks : List (List Byte) := []
  for e in es.take n do
    if kvTier e.2 = 3 then
      throw (stopFault (← get) w (.stream (w.stream.getD 0)) (windowAddr (t.entryAddr ly g e.1)) 4 8 kDropped 0 e.2)
    let b ← readBlock w t e.2
    blks := blks ++ [b]
  let entry := fun (gbn : Nat) => dw (tier * 2 ^ 62 + die * 2 ^ 44 + 2 ^ 32 + gbn)
  let ew := fun (i : Nat) (e : Dword) => (windowAddr (t.entryAddr ly g i), leBytes 8 e.toNat)
  let old := es.filter fun e => kvValid e.2
  let writes := (new.zipIdx.map fun b => (t.blockVa (entry b.1), packBlock t blks keep b.2)) ++
    (new.zipIdx.map fun b => ew b.2 (entry b.1)) ++ ((old.filter fun e => decide (new.length ≤ e.1)).map fun e => ew e.1 0)
  pure (writes, old.map (·.2))

/-- The writes of all layers and groups. -/
def compactAll (w : Who) (t : KvTab) (kvlen : Nat) (keep : List Nat) (die tier : Nat) :
    List ((Nat × Nat) × List Nat) → M (List (Dword × List Byte) × List Dword)
  | [] => pure ([], [])
  | ((ly, g), new) :: rest => do
    let a ← compactGroup w t kvlen keep new die tier ly g
    let b ← compactAll w t kvlen keep die tier rest
    pure (a.1 ++ b.1, a.2 ++ b.2)

/-- COMPACT's start: STREAM, TABLE, KEEP and NOROOM come before any write, and DROPPED after them, when the blocks are read. -/
def startCompact (m : Cmd) : Run := do
  let s ← get
  let sid := m.w.w1.toNat
  let w := m.whoSid
  if !(sidOk sid && s.streamUsable sid m.tenant) then return some 0x16
  let addr := scbKvtab (s.scb sid)
  let kvlen := scbKvlen (s.scb sid)
  let head ← readMem w (windowAddr addr) 64 4
  match kvHeader addr head with
  | none => pure (some 0x11)
  | some t => do
    let pairs := (List.range t.layers).flatMap fun ly => (List.range t.groups).map fun g => (ly, g)
    let used := ceilDiv kvlen t.tokens
    if t.maxblk < used then return some 0x11
    let valid ← entriesValid w (pairs.flatMap fun p => (List.range used).map fun i => t.entryAddr p.1 p.2 i)
    if !valid then return some 0x11
    let n := m.w.w5.toNat
    let l ← readMem m.who (dw m.w.a34) (4 * n) 4
    let keep := (List.range n).map fun i => rd l (4 * i) 4
    if !(ascending keep && keep.all (· < kvlen)) then return some 0x13
    let die := m.w.w2.toNat % 4
    let tier := m.w.w2.toNat / 4 % 4
    let before ← get
    let new ← allocAll w t die (ceilDiv n t.tokens) pairs.length
    match new with
    | none => do
      set before
      pure (some 0x15)
    | some new => do
      let r ← compactAll w t kvlen keep die tier (pairs.zip new)
      let scores ← (if t.scores = 0 then pure [] else do
        let b ← readMem w (windowAddr t.scores) (4 * kvlen) 4
        let out := (keep.flatMap fun k => (b.drop (4 * k)).take 4) ++ List.replicate (4 * (kvlen - n)) 0
        pure [(windowAddr t.scores, out)] : M (List (Dword × List Byte)))
      madeRun { m with stream := some sid, recs := [leBytes 8 addr, head], acc := r.2.map fun e => (e.toNat, 0) }
        (r.1 ++ scores.filter fun x => !x.2.isEmpty) 0

/-- A write of COMPACT; an entry sets the bit of its frame (R222). -/
def postCompact (m : Cmd) (va : Dword) (bs : List Byte) : M Cmd := do
  match kvHeader (rd (m.recs.getD 0 []) 0 8) (m.recs.getD 1 []) with
  | some t =>
    let lo := (windowAddr (t.addr + 64)).toNat
    if lo ≤ va.toNat ∧ va.toNat < lo + t.layers * t.groups * t.maxblk * 8 then
      let a ← writeEntry m.who t (va.toNat % 2 ^ 48) (dw (leNat bs))
      pure { m with pending := m.pending ++ a, bytes := m.bytes + bs.length }
    else postPlain m va bs
  | none => postPlain m va bs

/-- Once its writes have been performed, COMPACT lowers the counts of the old blocks; KVLEN follows once the writes stand
everywhere, so that who reads the new KVLEN reads the new entries (R98, R228). -/
def afterCompact (m : Cmd) : M Bool := do
  let s ← get
  if !m.pending.all (fun n => decide (2 ^ 64 ≤ n) || s.madePerformed n) then throw (.wait id)
  match m.acc, kvHeader (rd (m.recs.getD 0 []) 0 8) (m.recs.getD 1 []) with
  | e :: rest, some t => do
    orFatal (lowerEntry m.who t (dw e.1)) fun _ _ => modify (·.modDie m.die fun d => { d with schedErr := d.schedErr + 1 })
    putCmd { m with acc := rest }
    pure false
  | _, _ => do
    settleWrites m.who m.pending
    modify (·.scbStep m.w.w1.toNat fun r => wr r 0x58 4 m.w.w5.toNat)
    putCmd { m with acc := [], count := m.w.w5.toNat }
    pure true

/-- COMPACT (R228, R448). -/
def execCompact (s : State) : Res := .next <| runTile 0x17 startCompact postCompact afterCompact s

end Sys2Proof.Machine
end

