-- ==== Sys2Proof/Decode.lean ====
section
/-! DEFINITION. The decoder and the encoder, both from the encoding tables of the spec (R306–R320, and the function codes
of each major). Decoding refuses a word with the case of R313 that decoding can see; the operand limits that stay are
`Instr.illegal`. -/

namespace Sys2Proof

/-- The fields of format A (R307). -/
structure FmtA where
  maj : BitVec 6
  d : BitVec 5
  a : BitVec 5
  b : BitVec 5
  g : BitVec 3
  f : BitVec 8
  deriving DecidableEq, Repr

/-- The word of format A with these fields (R307). -/
def FmtA.pack (x : FmtA) : Word := x.maj ++ x.d ++ x.a ++ x.b ++ x.g ++ x.f

/-- The fields of a word of format A (R307). -/
def FmtA.unpack (w : Word) : FmtA :=
  ⟨w.extractLsb' 26 6, w.extractLsb' 21 5, w.extractLsb' 16 5, w.extractLsb' 11 5, w.extractLsb' 8 3, w.extractLsb' 0 8⟩

/-- The fields of format I (R307). -/
structure FmtI where
  maj : BitVec 6
  d : BitVec 5
  a : BitVec 5
  g : BitVec 3
  i : BitVec 13
  deriving DecidableEq, Repr

/-- The word of format I with these fields (R307). -/
def FmtI.pack (x : FmtI) : Word := x.maj ++ x.d ++ x.a ++ x.g ++ x.i

/-- The fields of a word of format I (R307). -/
def FmtI.unpack (w : Word) : FmtI :=
  ⟨w.extractLsb' 26 6, w.extractLsb' 21 5, w.extractLsb' 16 5, w.extractLsb' 13 3, w.extractLsb' 0 13⟩

/-- The fields of formats U and J (R307). -/
structure FmtU where
  maj : BitVec 6
  d : BitVec 5
  i : BitVec 21
  deriving DecidableEq, Repr

/-- The word of formats U and J with these fields (R307). -/
def FmtU.pack (x : FmtU) : Word := x.maj ++ x.d ++ x.i

/-- The fields of a word of formats U and J (R307). -/
def FmtU.unpack (w : Word) : FmtU :=
  ⟨w.extractLsb' 26 6, w.extractLsb' 21 5, w.extractLsb' 0 21⟩

/-- The fields of format B (R307). -/
structure FmtB where
  maj : BitVec 6
  p : BitVec 3
  i : BitVec 23
  deriving DecidableEq, Repr

/-- The word of format B with these fields (R307). -/
def FmtB.pack (x : FmtB) : Word := x.maj ++ x.p ++ x.i

/-- The fields of a word of format B (R307). -/
def FmtB.unpack (w : Word) : FmtB :=
  ⟨w.extractLsb' 26 6, w.extractLsb' 23 3, w.extractLsb' 0 23⟩

/-- The fields of format M (R307). -/
structure FmtM where
  maj : BitVec 6
  d : BitVec 5
  a : BitVec 5
  g : BitVec 3
  l : BitVec 4
  o : BitVec 9
  deriving DecidableEq, Repr

/-- The word of format M with these fields (R307). -/
def FmtM.pack (x : FmtM) : Word := x.maj ++ x.d ++ x.a ++ x.g ++ x.l ++ x.o

/-- The fields of a word of format M (R307). -/
def FmtM.unpack (w : Word) : FmtM :=
  ⟨w.extractLsb' 26 6, w.extractLsb' 21 5, w.extractLsb' 16 5, w.extractLsb' 13 3, w.extractLsb' 9 4, w.extractLsb' 0 9⟩

/-- The fields of format X (R307). -/
structure FmtX where
  maj : BitVec 6
  d : BitVec 5
  a : BitVec 5
  b : BitVec 5
  g : BitVec 3
  l : BitVec 4
  f : BitVec 4
  deriving DecidableEq, Repr

/-- The word of format X with these fields (R307). -/
def FmtX.pack (x : FmtX) : Word := x.maj ++ x.d ++ x.a ++ x.b ++ x.g ++ x.l ++ x.f

/-- The fields of a word of format X (R307). -/
def FmtX.unpack (w : Word) : FmtX :=
  ⟨w.extractLsb' 26 6, w.extractLsb' 21 5, w.extractLsb' 16 5, w.extractLsb' 11 5, w.extractLsb' 8 3, w.extractLsb' 4 4, w.extractLsb' 0 4⟩

/-- The fields of format AMO (R307). -/
structure FmtO where
  maj : BitVec 6
  d : BitVec 5
  a : BitVec 5
  b : BitVec 5
  z : BitVec 1
  c : BitVec 2
  l : BitVec 4
  f : BitVec 4
  deriving DecidableEq, Repr

/-- The word of format AMO with these fields (R307). -/
def FmtO.pack (x : FmtO) : Word := x.maj ++ x.d ++ x.a ++ x.b ++ x.z ++ x.c ++ x.l ++ x.f

/-- The fields of a word of format AMO (R307). -/
def FmtO.unpack (w : Word) : FmtO :=
  ⟨w.extractLsb' 26 6, w.extractLsb' 21 5, w.extractLsb' 16 5, w.extractLsb' 11 5, w.extractLsb' 10 1, w.extractLsb' 8 2, w.extractLsb' 4 4, w.extractLsb' 0 4⟩

/-- The fields of format V (R307). -/
structure FmtV where
  maj : BitVec 6
  d : BitVec 3
  a : BitVec 3
  b : BitVec 3
  m : BitVec 2
  t : BitVec 3
  l : BitVec 4
  f : BitVec 8
  deriving DecidableEq, Repr

/-- The word of format V with these fields (R307). -/
def FmtV.pack (x : FmtV) : Word := x.maj ++ x.d ++ x.a ++ x.b ++ x.m ++ x.t ++ x.l ++ x.f

/-- The fields of a word of format V (R307). -/
def FmtV.unpack (w : Word) : FmtV :=
  ⟨w.extractLsb' 26 6, w.extractLsb' 23 3, w.extractLsb' 20 3, w.extractLsb' 17 3, w.extractLsb' 15 2, w.extractLsb' 12 3, w.extractLsb' 8 4, w.extractLsb' 0 8⟩

/-- The fields of format VM (R307). -/
structure FmtW where
  maj : BitVec 6
  d : BitVec 3
  a : BitVec 5
  b : BitVec 5
  m : BitVec 2
  t : BitVec 3
  l : BitVec 4
  f : BitVec 4
  deriving DecidableEq, Repr

/-- The word of format VM with these fields (R307). -/
def FmtW.pack (x : FmtW) : Word := x.maj ++ x.d ++ x.a ++ x.b ++ x.m ++ x.t ++ x.l ++ x.f

/-- The fields of a word of format VM (R307). -/
def FmtW.unpack (w : Word) : FmtW :=
  ⟨w.extractLsb' 26 6, w.extractLsb' 23 3, w.extractLsb' 18 5, w.extractLsb' 13 5, w.extractLsb' 11 2, w.extractLsb' 8 3, w.extractLsb' 4 4, w.extractLsb' 0 4⟩

/-- The fields of format T (R307). -/
structure FmtT where
  maj : BitVec 6
  a : BitVec 5
  b : BitVec 5
  g : BitVec 3
  l : BitVec 4
  q : BitVec 5
  h : BitVec 4
  deriving DecidableEq, Repr

/-- The word of format T with these fields (R307). -/
def FmtT.pack (x : FmtT) : Word := x.maj ++ x.a ++ x.b ++ x.g ++ x.l ++ x.q ++ x.h

/-- The fields of a word of format T (R307). -/
def FmtT.unpack (w : Word) : FmtT :=
  ⟨w.extractLsb' 26 6, w.extractLsb' 21 5, w.extractLsb' 16 5, w.extractLsb' 13 3, w.extractLsb' 9 4, w.extractLsb' 4 5, w.extractLsb' 0 4⟩

/-- `i` when condition `c` holds, else the given case of R313. -/
def need (e : IllegalCode) (c : Bool) (i : Instr) : Except IllegalCode Instr := if c then .ok i else .error e

/-- `i` when `c` (reserved fields, R313 0x04) and then `o` (operand limits, 0x05) hold. -/
def need2 (c o : Bool) (i : Instr) : Except IllegalCode Instr :=
  if c then (if o then .ok i else .error .operand) else .error .rsvField

/-- Format I with a plain immediate (R333, R344). -/
def decodeImm (c : BitVec 5 → BitVec 5 → BitVec 3 → BitVec 13 → Instr) (x : FmtI) : Except IllegalCode Instr :=
  .ok (c x.d x.a x.g x.i)

/-- Major 0x06 (R334). -/
def decodeShiftImm (x : FmtI) : Except IllegalCode Instr :=
  match x.i.extractLsb' 11 2 with
  | 0 => need .rsvField (x.i.extractLsb' 6 5 == 0) (.shli x.d x.a x.g (x.i.extractLsb' 0 6))
  | 1 => need .rsvField (x.i.extractLsb' 6 5 == 0) (.shri x.d x.a x.g (x.i.extractLsb' 0 6))
  | 2 => need .rsvField (x.i.extractLsb' 6 5 == 0) (.srai x.d x.a x.g (x.i.extractLsb' 0 6))
  | _ => .error .func

/-- Major 0x07 (R337). -/
def decodeCmpi (x : FmtI) : Except IllegalCode Instr :=
  if 5 < (x.i.extractLsb' 10 3).toNat then .error .func
  else need .rsvField (x.d.extractLsb' 0 2 == 0)
    (.cmpi (x.d.extractLsb' 2 3) x.a x.g (x.i.extractLsb' 10 3) (x.i.extractLsb' 0 10))

/-- Major 0x29 (R392). -/
def decodeCsrfi (x : FmtI) : Except IllegalCode Instr :=
  need .rsvField (x.i.extractLsb' 12 1 == 0) (.csrfi x.d x.a x.g (x.i.extractLsb' 0 12))

/-- Formats U and J (R335, R336, R344). -/
def decodeU (c : BitVec 5 → BitVec 21 → Instr) (x : FmtU) : Except IllegalCode Instr := .ok (c x.d x.i)

/-- Format B (R344). -/
def decodeB (c : BitVec 3 → BitVec 23 → Instr) (x : FmtB) : Except IllegalCode Instr := .ok (c x.p x.i)

/-- Format M (R345). -/
def decodeMem (c : BitVec 5 → BitVec 5 → BitVec 3 → BitVec 4 → BitVec 9 → Instr) (x : FmtM) :
    Except IllegalCode Instr := .ok (c x.d x.a x.g x.l x.o)

/-- Major 0x36 (R408). -/
def decodeVcvt (x : FmtV) : Except IllegalCode Instr :=
  .ok (.vcvt x.d x.a x.b x.m x.t x.l (x.f.extractLsb' 7 1) (x.f.extractLsb' 5 2) (x.f.extractLsb' 4 1)
    (x.f.extractLsb' 0 4))

/-- Major 0x3C with its payload (R307, R316). -/
def decodeTcmd (x : FmtT) (p : TilePayload) : Except IllegalCode Instr := .ok (.tcmd x.a x.b x.g x.l x.q x.h p)

/-- Functions of major 0x01 (R331). -/
def decodeAlu (x : FmtA) : Except IllegalCode Instr :=
  match x.f with
  | 0x00 => .ok (.add x.d x.a x.b x.g)
  | 0x01 => .ok (.sub x.d x.a x.b x.g)
  | 0x02 => .ok (.and x.d x.a x.b x.g)
  | 0x03 => .ok (.or x.d x.a x.b x.g)
  | 0x04 => .ok (.xor x.d x.a x.b x.g)
  | 0x05 => .ok (.shl x.d x.a x.b x.g)
  | 0x06 => .ok (.shr x.d x.a x.b x.g)
  | 0x07 => .ok (.sra x.d x.a x.b x.g)
  | 0x08 => .ok (.min x.d x.a x.b x.g)
  | 0x09 => .ok (.max x.d x.a x.b x.g)
  | 0x0A => .ok (.minn x.d x.a x.b x.g)
  | 0x0B => .ok (.maxn x.d x.a x.b x.g)
  | 0x0C => need .rsvField (x.b == 0) (.clz x.d x.a x.g)
  | 0x0D => need .rsvField (x.b == 0) (.ctz x.d x.a x.g)
  | 0x0E => need .rsvField (x.b == 0) (.popc x.d x.a x.g)
  | 0x0F => need .rsvField (x.b == 0) (.brev x.d x.a x.g)
  | 0x10 => .ok (.exts x.d x.a x.b x.g)
  | 0x11 => .ok (.extz x.d x.a x.b x.g)
  | 0x12 => .ok (.insf x.d x.a x.b x.g)
  | _ => .error .func

/-- Functions of major 0x0A (R337). -/
def decodeCmp (x : FmtA) : Except IllegalCode Instr :=
  match x.f with
  | 0x00 | 0x01 | 0x02 | 0x03 | 0x04 | 0x05 =>
    need .rsvField (x.d.extractLsb' 0 2 == 0) (.cmp (x.d.extractLsb' 2 3) x.a x.b x.g (x.f.extractLsb' 0 3))
  | _ => .error .func

/-- Functions of major 0x0B (R338). -/
def decodePred (x : FmtA) : Except IllegalCode Instr :=
  match x.f with
  | 0x00 => need .rsvField (x.d.extractLsb' 0 2 == 0 && x.a.extractLsb' 0 2 == 0 && x.b.extractLsb' 0 2 == 0) (.pand (x.d.extractLsb' 2 3) (x.a.extractLsb' 2 3) (x.b.extractLsb' 2 3) x.g)
  | 0x01 => need .rsvField (x.d.extractLsb' 0 2 == 0 && x.a.extractLsb' 0 2 == 0 && x.b.extractLsb' 0 2 == 0) (.por (x.d.extractLsb' 2 3) (x.a.extractLsb' 2 3) (x.b.extractLsb' 2 3) x.g)
  | 0x02 => need .rsvField (x.d.extractLsb' 0 2 == 0 && x.a.extractLsb' 0 2 == 0 && x.b.extractLsb' 0 2 == 0) (.pxor (x.d.extractLsb' 2 3) (x.a.extractLsb' 2 3) (x.b.extractLsb' 2 3) x.g)
  | 0x03 => need .rsvField (x.d.extractLsb' 0 2 == 0 && x.a.extractLsb' 0 2 == 0 && x.b == 0) (.pnot (x.d.extractLsb' 2 3) (x.a.extractLsb' 2 3) x.g)
  | 0x08 | 0x09 | 0x0A | 0x0B | 0x0C | 0x0D | 0x0E | 0x0F => .ok (.sel x.d x.a x.b x.g (x.f.extractLsb' 0 3))
  | _ => .error .func

/-- Functions of major 0x0C (R340–R343). -/
def decodeFp (x : FmtA) : Except IllegalCode Instr :=
  if x.f.extractLsb' 6 1 == 1 then
    if x.f.extractLsb' 7 1 == 1 || fcvtFuncBad (x.f.extractLsb' 3 3) (x.f.extractLsb' 0 3) then .error .func
    else need .rsvField (x.b.extractLsb' 0 2 == 0) (.fcvt x.d x.a (x.b.extractLsb' 3 2) (x.b.extractLsb' 2 1) x.g (x.f.extractLsb' 3 3) (x.f.extractLsb' 0 3))
  else
  match x.f.extractLsb' 0 7 with
  | 0x00 => .ok (.fadd x.d x.a x.b x.g (x.f.extractLsb' 7 1))
  | 0x01 => .ok (.fsub x.d x.a x.b x.g (x.f.extractLsb' 7 1))
  | 0x02 => .ok (.fmul x.d x.a x.b x.g (x.f.extractLsb' 7 1))
  | 0x03 => .ok (.fma x.d x.a x.b x.g (x.f.extractLsb' 7 1))
  | 0x04 => .ok (.fdiv x.d x.a x.b x.g (x.f.extractLsb' 7 1))
  | 0x05 => need .rsvField (x.b == 0) (.fsqrt x.d x.a x.g (x.f.extractLsb' 7 1))
  | 0x06 => .ok (.fmin x.d x.a x.b x.g (x.f.extractLsb' 7 1))
  | 0x07 => .ok (.fmax x.d x.a x.b x.g (x.f.extractLsb' 7 1))
  | 0x08 => .ok (.fsgn x.d x.a x.b x.g (x.f.extractLsb' 7 1))
  | 0x09 => need .rsvField (x.b == 0) (.fneg x.d x.a x.g (x.f.extractLsb' 7 1))
  | 0x0A => need .rsvField (x.b == 0) (.fabs x.d x.a x.g (x.f.extractLsb' 7 1))
  | 0x0B => need .rsvField (x.b == 0) (.fclass x.d x.a x.g (x.f.extractLsb' 7 1))
  | 0x10 | 0x11 | 0x12 | 0x13 | 0x14 =>
    need .rsvField (x.d.extractLsb' 0 2 == 0) (.fcmp (x.d.extractLsb' 2 3) x.a x.b x.g (x.f.extractLsb' 7 1) (x.f.extractLsb' 0 3))
  | _ => .error .func

/-- Functions of major 0x0D (R339). -/
def decodeMulDiv (x : FmtX) : Except IllegalCode Instr :=
  match x.f with
  | 0x00 => .ok (.mul x.d x.a x.b x.g x.l)
  | 0x01 => .ok (.mulh x.d x.a x.b x.g x.l)
  | 0x02 => .ok (.mulhn x.d x.a x.b x.g x.l)
  | 0x03 => .ok (.div x.d x.a x.b x.g x.l)
  | 0x04 => .ok (.divn x.d x.a x.b x.g x.l)
  | 0x05 => .ok (.rem x.d x.a x.b x.g x.l)
  | 0x06 => .ok (.remn x.d x.a x.b x.g x.l)
  | _ => .error .func

/-- Functions of major 0x1F (R348). -/
def decodeMemx (x : FmtX) : Except IllegalCode Instr :=
  match x.f with
  | 0x00 => .ok (.ldf x.d x.a x.b x.g x.l)
  | 0x01 => .ok (.stf x.d x.a x.b x.g x.l)
  | 0x02 => .ok (.ldfp x.d x.a x.b x.g x.l)
  | 0x03 => .ok (.feget x.d x.a x.b x.g x.l)
  | 0x04 => .ok (.feset x.d x.a x.b x.g x.l)
  | 0x05 => .ok (.pref x.d x.a x.b x.g x.l)
  | 0x06 => need .rsvField (x.d == 0) (.cflush x.a x.b x.g x.l)
  | 0x07 => need .rsvField (x.d == 0 && x.a == 0 && x.b == 0) (.cinv x.g x.l)
  | _ => .error .func

/-- Functions of major 0x20 (R352). -/
def decodeFence (x : FmtA) : Except IllegalCode Instr :=
  match x.f.extractLsb' 3 2 with
  | 0 => need .rsvField (x.f.extractLsb' 5 3 == 0 && x.d == 0 && x.a == 0 && x.b == 0) (.fenceRel x.g (x.f.extractLsb' 0 3))
  | 1 => need .rsvField (x.f.extractLsb' 5 3 == 0 && x.d == 0 && x.a == 0 && x.b == 0) (.fenceAcq x.g (x.f.extractLsb' 0 3))
  | 2 => need .rsvField (x.f.extractLsb' 5 3 == 0 && x.d == 0 && x.a == 0 && x.b == 0) (.fenceFull x.g (x.f.extractLsb' 0 3))
  | _ => .error .func

/-- Functions of major 0x21 (R353). -/
def decodeAmo (x : FmtO) : Except IllegalCode Instr :=
  match x.f with
  | 0x00 => .ok (.amoAdd x.d x.a x.b x.z x.c x.l)
  | 0x01 => .ok (.amoAnd x.d x.a x.b x.z x.c x.l)
  | 0x02 => .ok (.amoOr x.d x.a x.b x.z x.c x.l)
  | 0x03 => .ok (.amoXor x.d x.a x.b x.z x.c x.l)
  | 0x04 => .ok (.amoMin x.d x.a x.b x.z x.c x.l)
  | 0x05 => .ok (.amoMax x.d x.a x.b x.z x.c x.l)
  | 0x06 => .ok (.amoMinn x.d x.a x.b x.z x.c x.l)
  | 0x07 => .ok (.amoMaxn x.d x.a x.b x.z x.c x.l)
  | 0x08 => .ok (.amoSwp x.d x.a x.b x.z x.c x.l)
  | 0x09 => .ok (.amoCas x.d x.a x.b x.z x.c x.l)
  | 0x0A => .ok (.amoFadd x.d x.a x.b x.z x.c x.l)
  | 0x0B => .ok (.amoRedOrd x.d x.a x.b x.z x.c x.l)
  | _ => .error .func

/-- Functions of major 0x22 (R359). -/
def decodeStrand (x : FmtX) : Except IllegalCode Instr :=
  match x.f with
  | 0x00 => need2 (x.d == 0) (x.l == 0) (.spawn x.a x.b x.g)
  | 0x01 => need2 (x.d == 0 && x.b == 0) (x.l == 0) (.join x.a x.g)
  | 0x02 => need2 (x.b == 0) (x.l == 0) (.migr x.d x.a x.g)
  | 0x03 => need2 (x.b.extractLsb' 3 2 == 0) (x.l == 0) (.migv x.d x.a (x.b.extractLsb' 0 3) x.g)
  | 0x04 => need2 (x.d == 0 && x.a == 0 && x.b == 0) (x.l == 0) (.yield x.g)
  | 0x05 =>
    if x.b == 0 then
      if x.l == 0 then (if x.a == 0 then .ok (.park x.d x.g) else if x.a == 1 then .ok (.parkE x.d x.g) else .error .operand)
      else .error .operand
    else .error .rsvField
  | 0x06 => .ok (.rfill x.d x.a x.b x.g x.l)
  | 0x07 => need .rsvField (x.a == 0 && x.b == 0) (.self x.d x.g x.l)
  | _ => .error .func

/-- Functions of major 0x23 (R367). -/
def decodeMsg (x : FmtX) : Except IllegalCode Instr :=
  match x.f with
  | 0x00 => .ok (.msend x.d x.a x.b x.g x.l)
  | 0x01 => .ok (.mrecv x.d x.a x.b x.g x.l)
  | 0x02 => need .rsvField (x.b == 0) (.mpeek x.d x.a x.g x.l)
  | _ => .error .func

/-- Functions of major 0x24 (R370). -/
def decodeTask (x : FmtX) : Except IllegalCode Instr :=
  match x.f with
  | 0x00 => need .rsvField (x.b == 0) (.tpost x.d x.a x.g x.l)
  | 0x01 => need2 (x.d == 0 && x.a == 0 && x.b == 0) (x.l == 0) (.tdone x.g)
  | 0x02 => .ok (.qpush x.d x.a x.b x.g x.l)
  | 0x03 => .ok (.qpop x.d x.a x.b x.g x.l)
  | 0x04 => need .rsvField (x.a == 0 && x.b == 0) (.tcard x.d x.g x.l)
  | 0x05 => need .rsvField (x.b == 0) (.qpopW x.d x.a x.g x.l)
  | _ => .error .func

/-- Functions of major 0x25 (R375). -/
def decodeStream (x : FmtX) : Except IllegalCode Instr :=
  match x.f with
  | 0x00 => .ok (.sfork x.d x.a x.b x.g x.l)
  | 0x01 => need .rsvField (x.b == 0) (.sstep x.d x.a x.g x.l)
  | 0x02 => .ok (.sact x.d x.a x.b x.g x.l)
  | 0x03 => .ok (.sret x.d x.a x.b x.g x.l)
  | 0x04 => .ok (.sjoin x.d x.a x.b x.g x.l)
  | 0x05 => need .rsvField (x.d == 0 && x.b == 0) (.sretire x.a x.g x.l)
  | 0x06 => .ok (.sevict x.d x.a x.b x.g x.l)
  | 0x07 => .ok (.smig x.d x.a x.b x.g x.l)
  | 0x08 => .ok (.sstat x.d x.a x.b x.g x.l)
  | 0x09 => need .rsvField (x.b == 0) (.sjoinOpen x.d x.a x.g x.l)
  | 0x0A => .ok (.sstop x.d x.a x.b x.g x.l)
  | _ => .error .func

/-- Functions of major 0x26 (R385). -/
def decodeCast (x : FmtX) : Except IllegalCode Instr :=
  match x.f with
  | 0x00 => .ok (.clook x.d x.a x.b x.g x.l)
  | 0x01 => need .rsvField (x.b == 0) (.cput x.d x.a x.g x.l)
  | 0x02 => need .rsvField (x.b == 0) (.cinvk x.d x.a x.g x.l)
  | 0x03 => need .rsvField (x.b == 0) (.cflusht x.d x.a x.g x.l)
  | _ => .error .func

/-- Functions of major 0x27 (R420). -/
def decodeGram (x : FmtX) : Except IllegalCode Instr :=
  match x.f with
  | 0x00 => .ok (.gset x.d x.a x.b x.g x.l)
  | 0x01 => need .rsvField (x.d.extractLsb' 0 2 == 0) (.gmask (x.d.extractLsb' 2 3) x.a x.b x.g x.l)
  | 0x02 => need .rsvField (x.d.extractLsb' 0 2 == 0) (.gmaskS (x.d.extractLsb' 2 3) x.a x.b x.g x.l)
  | 0x03 => .ok (.gadv x.d x.a x.b x.g x.l)
  | 0x04 => .ok (.gadvS x.d x.a x.b x.g x.l)
  | 0x05 => need .rsvField (x.d.extractLsb' 0 2 == 0) (.gchk (x.d.extractLsb' 2 3) x.a x.b x.g x.l)
  | 0x06 => need .rsvField (x.b == 0) (.gsave x.d x.a x.g x.l)
  | 0x07 => need .rsvField (x.d == 0) (.gload x.a x.b x.g x.l)
  | _ => .error .func

/-- Functions of major 0x28 (R387). -/
def decodeSys (x : FmtA) : Except IllegalCode Instr :=
  match x.f with
  | 0x00 => need .rsvField (x.d.extractLsb' 2 3 == 0 && x.b == 0) (.trap (x.d.extractLsb' 0 2 ++ x.a) x.g)
  | 0x01 => need .rsvField (x.d == 0 && x.a == 0 && x.b == 0) (.trapack x.g)
  | 0x02 => need .rsvField (x.d == 0 && x.a == 0 && x.b == 0) (.rett x.g)
  | 0x03 => need .rsvField (x.b == 0) (.sysc x.d x.a x.g)
  | 0x04 => need .rsvField (x.d == 0 && x.b == 0) (.sleep x.a x.g)
  | 0x10 | 0x11 | 0x12 | 0x13 => .ok (.csrr x.d x.a x.b x.g (x.f.extractLsb' 0 2))
  | 0x14 | 0x15 | 0x16 | 0x17 => .ok (.csrw x.d x.a x.b x.g (x.f.extractLsb' 0 2))
  | 0x18 | 0x19 | 0x1A | 0x1B => .ok (.csrs x.d x.a x.b x.g (x.f.extractLsb' 0 2))
  | 0x1C | 0x1D | 0x1E | 0x1F => .ok (.csrc x.d x.a x.b x.g (x.f.extractLsb' 0 2))
  | _ => .error .func

/-- Functions of major 0x30 (R396). -/
def decodeValu (x : FmtV) : Except IllegalCode Instr :=
  match x.f with
  | 0x00 => .ok (.vadd x.d x.a x.b x.m x.t x.l)
  | 0x01 => .ok (.vsub x.d x.a x.b x.m x.t x.l)
  | 0x02 => .ok (.vmul x.d x.a x.b x.m x.t x.l)
  | 0x03 => .ok (.vmulh x.d x.a x.b x.m x.t x.l)
  | 0x04 => .ok (.vmulhn x.d x.a x.b x.m x.t x.l)
  | 0x05 => .ok (.vand x.d x.a x.b x.m x.t x.l)
  | 0x06 => .ok (.vor x.d x.a x.b x.m x.t x.l)
  | 0x07 => .ok (.vxor x.d x.a x.b x.m x.t x.l)
  | 0x08 => .ok (.vshl x.d x.a x.b x.m x.t x.l)
  | 0x09 => .ok (.vshr x.d x.a x.b x.m x.t x.l)
  | 0x0A => .ok (.vsra x.d x.a x.b x.m x.t x.l)
  | 0x0B => .ok (.vmin x.d x.a x.b x.m x.t x.l)
  | 0x0C => .ok (.vmax x.d x.a x.b x.m x.t x.l)
  | 0x0D => .ok (.vminn x.d x.a x.b x.m x.t x.l)
  | 0x0E => .ok (.vmaxn x.d x.a x.b x.m x.t x.l)
  | 0x0F => .ok (.vadds x.d x.a x.b x.m x.t x.l)
  | 0x10 => .ok (.vaddsn x.d x.a x.b x.m x.t x.l)
  | 0x11 => .ok (.vsubs x.d x.a x.b x.m x.t x.l)
  | 0x12 => .ok (.vsubsn x.d x.a x.b x.m x.t x.l)
  | 0x13 => need .rsvField (x.b == 0) (.vmov x.d x.a x.m x.t x.l)
  | _ => .error .func

/-- Functions of major 0x31 (R397). -/
def decodeVfp (x : FmtV) : Except IllegalCode Instr :=
  match x.f with
  | 0x00 => .ok (.vfadd x.d x.a x.b x.m x.t x.l)
  | 0x01 => .ok (.vfsub x.d x.a x.b x.m x.t x.l)
  | 0x02 => .ok (.vfmul x.d x.a x.b x.m x.t x.l)
  | 0x03 => .ok (.vfma x.d x.a x.b x.m x.t x.l)
  | 0x04 => .ok (.vfdiv x.d x.a x.b x.m x.t x.l)
  | 0x05 => need .rsvField (x.b == 0) (.vfsqrt x.d x.a x.m x.t x.l)
  | 0x06 => .ok (.vfmin x.d x.a x.b x.m x.t x.l)
  | 0x07 => .ok (.vfmax x.d x.a x.b x.m x.t x.l)
  | 0x08 => need .rsvField (x.b == 0) (.vexp2 x.d x.a x.m x.t x.l)
  | 0x09 => need .rsvField (x.b == 0) (.vlog2 x.d x.a x.m x.t x.l)
  | 0x0A => need .rsvField (x.b == 0) (.vrcp x.d x.a x.m x.t x.l)
  | 0x0B => need .rsvField (x.b == 0) (.vrsq x.d x.a x.m x.t x.l)
  | _ => .error .func

/-- Functions of major 0x32 (R399). -/
def decodeVmem (x : FmtW) : Except IllegalCode Instr :=
  match x.f with
  | 0x00 => need .rsvField (x.b == 0) (.vld x.d x.a x.m x.t x.l)
  | 0x01 => .ok (.vlds x.d x.a x.b x.m x.t x.l)
  | 0x02 => need .rsvField (x.b.extractLsb' 3 2 == 0) (.vldx x.d x.a (x.b.extractLsb' 0 3) x.m x.t x.l)
  | 0x03 => need .rsvField (x.b == 0) (.vst x.d x.a x.m x.t x.l)
  | 0x04 => .ok (.vsts x.d x.a x.b x.m x.t x.l)
  | 0x05 => need .rsvField (x.b.extractLsb' 3 2 == 0) (.vstx x.d x.a (x.b.extractLsb' 0 3) x.m x.t x.l)
  | 0x06 => need .rsvField (x.d.extractLsb' 2 1 == 0 && x.b == 0 && x.m == 0 && x.t == 0) (.vldm (x.d.extractLsb' 0 2) x.a x.l)
  | 0x07 => need .rsvField (x.d.extractLsb' 2 1 == 0 && x.b == 0 && x.m == 0 && x.t == 0) (.vstm (x.d.extractLsb' 0 2) x.a x.l)
  | _ => .error .func

/-- Functions of major 0x33 (R402). -/
def decodeVred (x : FmtV) : Except IllegalCode Instr :=
  match x.f with
  | 0x00 => need .rsvField (x.b == 0) (.vrsum x.d x.a x.m x.t x.l)
  | 0x01 => need .rsvField (x.b == 0) (.vrmin x.d x.a x.m x.t x.l)
  | 0x02 => need .rsvField (x.b == 0) (.vrmax x.d x.a x.m x.t x.l)
  | 0x03 => need .rsvField (x.b == 0) (.vrminn x.d x.a x.m x.t x.l)
  | 0x04 => need .rsvField (x.b == 0) (.vrmaxn x.d x.a x.m x.t x.l)
  | 0x05 => need .rsvField (x.b == 0) (.vrand x.d x.a x.m x.t x.l)
  | 0x06 => need .rsvField (x.b == 0) (.vror x.d x.a x.m x.t x.l)
  | 0x07 => need .rsvField (x.b == 0) (.vrxor x.d x.a x.m x.t x.l)
  | 0x08 => need .rsvField (x.b == 0) (.vscan x.d x.a x.m x.t x.l)
  | 0x09 => need .rsvField (x.b == 0) (.vscanmax x.d x.a x.m x.t x.l)
  | 0x10 => .ok (.vtopk x.d x.a x.b x.m x.t x.l)
  | _ => .error .func

/-- Functions of major 0x34 (R405). -/
def decodeVperm (x : FmtV) : Except IllegalCode Instr :=
  match x.f with
  | 0x00 => .ok (.vperm x.d x.a x.b x.m x.t x.l)
  | 0x01 => need .rsvField (x.b.extractLsb' 0 1 == 0) (.vbcastg x.d (x.a ++ x.b.extractLsb' 1 2) x.m x.t x.l)
  | 0x02 => need .rsvField (x.b.extractLsb' 0 1 == 0 && x.m == 0) (.vmovg x.d (x.a ++ x.b.extractLsb' 1 2) x.t x.l)
  | 0x03 => need .rsvField (x.a == 0 && x.b == 0) (.viota x.d x.m x.t x.l)
  | 0x04 => need .rsvField (x.b == 0) (.vbcast x.d x.a x.m x.t x.l)
  | 0x05 => need .rsvField (x.b == 0) (.vcompress x.d x.a x.m x.t x.l)
  | _ => .error .func

/-- Functions of major 0x35 (R406, R407). -/
def decodeVmask (x : FmtV) : Except IllegalCode Instr :=
  match x.f with
  | 0x00 | 0x01 | 0x02 | 0x03 | 0x04 | 0x05 =>
    need .rsvField (x.d.extractLsb' 2 1 == 0) (.vcmp (x.d.extractLsb' 0 2) x.a x.b x.m x.t x.l (x.f.extractLsb' 0 3))
  | 0x08 | 0x09 | 0x0A | 0x0B | 0x0C =>
    need .rsvField (x.d.extractLsb' 2 1 == 0) (.vfcmp (x.d.extractLsb' 0 2) x.a x.b x.m x.t x.l (x.f.extractLsb' 0 3))
  | 0x10 => need .rsvField (x.d.extractLsb' 2 1 == 0 && x.a.extractLsb' 2 1 == 0 && x.b.extractLsb' 2 1 == 0 && x.m == 0 && x.t == 0) (.vmand (x.d.extractLsb' 0 2) (x.a.extractLsb' 0 2) (x.b.extractLsb' 0 2) x.l)
  | 0x11 => need .rsvField (x.d.extractLsb' 2 1 == 0 && x.a.extractLsb' 2 1 == 0 && x.b.extractLsb' 2 1 == 0 && x.m == 0 && x.t == 0) (.vmor (x.d.extractLsb' 0 2) (x.a.extractLsb' 0 2) (x.b.extractLsb' 0 2) x.l)
  | 0x12 => need .rsvField (x.d.extractLsb' 2 1 == 0 && x.a.extractLsb' 2 1 == 0 && x.b.extractLsb' 2 1 == 0 && x.m == 0 && x.t == 0) (.vmxor (x.d.extractLsb' 0 2) (x.a.extractLsb' 0 2) (x.b.extractLsb' 0 2) x.l)
  | 0x13 => need .rsvField (x.d.extractLsb' 2 1 == 0 && x.a.extractLsb' 2 1 == 0 && x.b == 0 && x.m == 0 && x.t == 0) (.vmnot (x.d.extractLsb' 0 2) (x.a.extractLsb' 0 2) x.l)
  | 0x18 => need .rsvField (x.d == 0 && x.b.extractLsb' 0 1 == 0) (.vmpopc (x.a ++ x.b.extractLsb' 1 2) x.m x.t x.l)
  | 0x19 => need .rsvField (x.d == 0 && x.b.extractLsb' 0 1 == 0) (.vmfirst (x.a ++ x.b.extractLsb' 1 2) x.m x.t x.l)
  | _ => .error .func

/-- Functions of major 0x37 (R419). -/
def decodeVgen (x : FmtV) : Except IllegalCode Instr :=
  match x.f with
  | 0x00 => need .operand (x.t == 5) (.vpen x.d x.a x.b x.m x.l)
  | 0x01 => need .operand (x.t == 5) (.vbias x.d x.a x.b x.m x.l)
  | 0x02 => need2 (x.a == 0 && x.b == 0) (x.t == 5) (.vban x.d x.m x.l)
  | 0x03 => need .operand (x.t == 5) (.vsamp x.d x.a x.b x.m x.l)
  | 0x04 => need .operand (x.t == 5) (.vrng x.d x.a x.b x.m x.l)
  | 0x05 => need .operand (x.t == 5) (.vacc x.d x.a x.b x.m x.l)
  | 0x06 => need .operand (x.t == 5) (.vresid x.d x.a x.b x.m x.l)
  | 0x07 => need2 (x.m == 0) (x.t == 3) (.vtree x.d x.a x.b x.l)
  | 0x08 => need2 (x.m == 0) (x.t == 2) (.vmatch x.d x.a x.b x.l)
  | 0x09 => need2 (x.a == 0) (x.t == 5) (.vsoftT x.d x.b x.m x.l)
  | 0x0A => need2 (x.a == 0) (x.t == 5) (.vsoftW x.d x.b x.m x.l)
  | _ => .error .func

/-- The instruction of one 32-bit word, or the lowest-numbered decoding case of R313 that applies. A TCMD word needs its
payload, which `decodeBytes` reads. -/
def decodeWord (w : Word) : Except IllegalCode Instr :=
  match w.extractLsb' 26 6 with
  | 0x00 => .error .major
  | 0x01 => decodeAlu (.unpack w)
  | 0x02 => decodeImm .addi (.unpack w)
  | 0x03 => decodeImm .andi (.unpack w)
  | 0x04 => decodeImm .ori (.unpack w)
  | 0x05 => decodeImm .xori (.unpack w)
  | 0x06 => decodeShiftImm (.unpack w)
  | 0x07 => decodeCmpi (.unpack w)
  | 0x08 => decodeU .lih (.unpack w)
  | 0x09 => decodeU .addpc (.unpack w)
  | 0x0A => decodeCmp (.unpack w)
  | 0x0B => decodePred (.unpack w)
  | 0x0C => decodeFp (.unpack w)
  | 0x0D => decodeMulDiv (.unpack w)
  | 0x10 => decodeB .br (.unpack w)
  | 0x11 => decodeB .brn (.unpack w)
  | 0x12 => decodeU .jal (.unpack w)
  | 0x13 => decodeImm .jalr (.unpack w)
  | 0x14 => decodeMem .ldb (.unpack w)
  | 0x15 => decodeMem .ldh (.unpack w)
  | 0x16 => decodeMem .ldw (.unpack w)
  | 0x17 => decodeMem .ldd (.unpack w)
  | 0x18 => decodeMem .ldbn (.unpack w)
  | 0x19 => decodeMem .ldhn (.unpack w)
  | 0x1A => decodeMem .ldwn (.unpack w)
  | 0x1B => decodeMem .stb (.unpack w)
  | 0x1C => decodeMem .sth (.unpack w)
  | 0x1D => decodeMem .stw (.unpack w)
  | 0x1E => decodeMem .std (.unpack w)
  | 0x1F => decodeMemx (.unpack w)
  | 0x20 => decodeFence (.unpack w)
  | 0x21 => decodeAmo (.unpack w)
  | 0x22 => decodeStrand (.unpack w)
  | 0x23 => decodeMsg (.unpack w)
  | 0x24 => decodeTask (.unpack w)
  | 0x25 => decodeStream (.unpack w)
  | 0x26 => decodeCast (.unpack w)
  | 0x27 => decodeGram (.unpack w)
  | 0x28 => decodeSys (.unpack w)
  | 0x29 => decodeCsrfi (.unpack w)
  | 0x30 => decodeValu (.unpack w)
  | 0x31 => decodeVfp (.unpack w)
  | 0x32 => decodeVmem (.unpack w)
  | 0x33 => decodeVred (.unpack w)
  | 0x34 => decodeVperm (.unpack w)
  | 0x35 => decodeVmask (.unpack w)
  | 0x36 => decodeVcvt (.unpack w)
  | 0x37 => decodeVgen (.unpack w)
  | 0x3C => decodeTcmd (.unpack w) ⟨0, 0, 0, 0, 0, 0, 0, 0⟩
  | 0x3F => .error .major
  | _ => .error .rsvMajor

/-- The nine words of a tile frame from its bytes (R316). -/
def payloadOf (bs : List Byte) : TilePayload :=
  let w := fun k => BitVec.ofNat 32 (leNat ((bs.drop (4 * k)).take 4))
  ⟨w 0, w 1, w 2, w 3, w 4, w 5, w 6, w 7⟩

/-- Why bytes give no instruction: too few of them, or a case of R313. -/
inductive DecodeError where
  | tooShort
  | illegal (c : IllegalCode)
  deriving DecidableEq, Repr

/-- The instruction at the front of `bs` and the rest of the list. A word is little-endian (R306); a TCMD word is
followed by its eight payload words (R316). -/
def decodeBytes (bs : List Byte) : Except DecodeError (Instr × List Byte) :=
  if bs.length < 4 then .error .tooShort
  else
    let w : Word := BitVec.ofNat 32 (leNat (bs.take 4))
    if w.extractLsb' 26 6 == 0x3C then
      if bs.length < 36 then .error .tooShort
      else match decodeTcmd (.unpack w) (payloadOf (bs.drop 4)) with
        | .ok i => .ok (i, bs.drop 36)
        | .error c => .error (.illegal c)
    else match decodeWord w with
      | .ok i => .ok (i, bs.drop 4)
      | .error c => .error (.illegal c)

/-- The first word of an instruction that has an encoding (R307); `none` for a step that is no instruction word. -/
def encodeWord : Instr → Option Word
  | .add d a b g => some (FmtA.pack ⟨0x01, d, a, b, g, 0#8⟩)
  | .sub d a b g => some (FmtA.pack ⟨0x01, d, a, b, g, 1#8⟩)
  | .and d a b g => some (FmtA.pack ⟨0x01, d, a, b, g, 2#8⟩)
  | .or d a b g => some (FmtA.pack ⟨0x01, d, a, b, g, 3#8⟩)
  | .xor d a b g => some (FmtA.pack ⟨0x01, d, a, b, g, 4#8⟩)
  | .shl d a b g => some (FmtA.pack ⟨0x01, d, a, b, g, 5#8⟩)
  | .shr d a b g => some (FmtA.pack ⟨0x01, d, a, b, g, 6#8⟩)
  | .sra d a b g => some (FmtA.pack ⟨0x01, d, a, b, g, 7#8⟩)
  | .min d a b g => some (FmtA.pack ⟨0x01, d, a, b, g, 8#8⟩)
  | .max d a b g => some (FmtA.pack ⟨0x01, d, a, b, g, 9#8⟩)
  | .minn d a b g => some (FmtA.pack ⟨0x01, d, a, b, g, 10#8⟩)
  | .maxn d a b g => some (FmtA.pack ⟨0x01, d, a, b, g, 11#8⟩)
  | .clz d a g => some (FmtA.pack ⟨0x01, d, a, 0#5, g, 12#8⟩)
  | .ctz d a g => some (FmtA.pack ⟨0x01, d, a, 0#5, g, 13#8⟩)
  | .popc d a g => some (FmtA.pack ⟨0x01, d, a, 0#5, g, 14#8⟩)
  | .brev d a g => some (FmtA.pack ⟨0x01, d, a, 0#5, g, 15#8⟩)
  | .exts d a b g => some (FmtA.pack ⟨0x01, d, a, b, g, 16#8⟩)
  | .extz d a b g => some (FmtA.pack ⟨0x01, d, a, b, g, 17#8⟩)
  | .insf d a b g => some (FmtA.pack ⟨0x01, d, a, b, g, 18#8⟩)
  | .addi d a g i => some (FmtI.pack ⟨0x02, d, a, g, i⟩)
  | .andi d a g i => some (FmtI.pack ⟨0x03, d, a, g, i⟩)
  | .ori d a g i => some (FmtI.pack ⟨0x04, d, a, g, i⟩)
  | .xori d a g i => some (FmtI.pack ⟨0x05, d, a, g, i⟩)
  | .shli d a g c => some (FmtI.pack ⟨0x06, d, a, g, (0#7 ++ c)⟩)
  | .shri d a g c => some (FmtI.pack ⟨0x06, d, a, g, (32#7 ++ c)⟩)
  | .srai d a g c => some (FmtI.pack ⟨0x06, d, a, g, (64#7 ++ c)⟩)
  | .cmpi p a g k i => some (FmtI.pack ⟨0x07, (p ++ 0#2), a, g, (k ++ i)⟩)
  | .lih d i => some (FmtU.pack ⟨0x08, d, i⟩)
  | .addpc d i => some (FmtU.pack ⟨0x09, d, i⟩)
  | .cmp p a b g k => some (FmtA.pack ⟨0x0A, (p ++ 0#2), a, b, g, (0#5 ++ k)⟩)
  | .pand p q r g => some (FmtA.pack ⟨0x0B, (p ++ 0#2), (q ++ 0#2), (r ++ 0#2), g, 0#8⟩)
  | .por p q r g => some (FmtA.pack ⟨0x0B, (p ++ 0#2), (q ++ 0#2), (r ++ 0#2), g, 1#8⟩)
  | .pxor p q r g => some (FmtA.pack ⟨0x0B, (p ++ 0#2), (q ++ 0#2), (r ++ 0#2), g, 2#8⟩)
  | .pnot p q g => some (FmtA.pack ⟨0x0B, (p ++ 0#2), (q ++ 0#2), 0#5, g, 3#8⟩)
  | .sel d a b g n => some (FmtA.pack ⟨0x0B, d, a, b, g, (1#5 ++ n)⟩)
  | .fadd d a b g s => some (FmtA.pack ⟨0x0C, d, a, b, g, (s ++ 0#7)⟩)
  | .fsub d a b g s => some (FmtA.pack ⟨0x0C, d, a, b, g, (s ++ 1#7)⟩)
  | .fmul d a b g s => some (FmtA.pack ⟨0x0C, d, a, b, g, (s ++ 2#7)⟩)
  | .fma d a b g s => some (FmtA.pack ⟨0x0C, d, a, b, g, (s ++ 3#7)⟩)
  | .fdiv d a b g s => some (FmtA.pack ⟨0x0C, d, a, b, g, (s ++ 4#7)⟩)
  | .fsqrt d a g s => some (FmtA.pack ⟨0x0C, d, a, 0#5, g, (s ++ 5#7)⟩)
  | .fmin d a b g s => some (FmtA.pack ⟨0x0C, d, a, b, g, (s ++ 6#7)⟩)
  | .fmax d a b g s => some (FmtA.pack ⟨0x0C, d, a, b, g, (s ++ 7#7)⟩)
  | .fsgn d a b g s => some (FmtA.pack ⟨0x0C, d, a, b, g, (s ++ 8#7)⟩)
  | .fneg d a g s => some (FmtA.pack ⟨0x0C, d, a, 0#5, g, (s ++ 9#7)⟩)
  | .fabs d a g s => some (FmtA.pack ⟨0x0C, d, a, 0#5, g, (s ++ 10#7)⟩)
  | .fclass d a g s => some (FmtA.pack ⟨0x0C, d, a, 0#5, g, (s ++ 11#7)⟩)
  | .fcmp p a b g s k => some (FmtA.pack ⟨0x0C, (p ++ 0#2), a, b, g, (s ++ 2#4 ++ k)⟩)
  | .fcvt d a m t g u c => some (FmtA.pack ⟨0x0C, d, a, (m ++ t ++ 0#2), g, (1#2 ++ u ++ c)⟩)
  | .mul d a b g l => some (FmtX.pack ⟨0x0D, d, a, b, g, l, 0#4⟩)
  | .mulh d a b g l => some (FmtX.pack ⟨0x0D, d, a, b, g, l, 1#4⟩)
  | .mulhn d a b g l => some (FmtX.pack ⟨0x0D, d, a, b, g, l, 2#4⟩)
  | .div d a b g l => some (FmtX.pack ⟨0x0D, d, a, b, g, l, 3#4⟩)
  | .divn d a b g l => some (FmtX.pack ⟨0x0D, d, a, b, g, l, 4#4⟩)
  | .rem d a b g l => some (FmtX.pack ⟨0x0D, d, a, b, g, l, 5#4⟩)
  | .remn d a b g l => some (FmtX.pack ⟨0x0D, d, a, b, g, l, 6#4⟩)
  | .br p i => some (FmtB.pack ⟨0x10, p, i⟩)
  | .brn p i => some (FmtB.pack ⟨0x11, p, i⟩)
  | .jal d i => some (FmtU.pack ⟨0x12, d, i⟩)
  | .jalr d a g i => some (FmtI.pack ⟨0x13, d, a, g, i⟩)
  | .ldb d b g l o => some (FmtM.pack ⟨0x14, d, b, g, l, o⟩)
  | .ldh d b g l o => some (FmtM.pack ⟨0x15, d, b, g, l, o⟩)
  | .ldw d b g l o => some (FmtM.pack ⟨0x16, d, b, g, l, o⟩)
  | .ldd d b g l o => some (FmtM.pack ⟨0x17, d, b, g, l, o⟩)
  | .ldbn d b g l o => some (FmtM.pack ⟨0x18, d, b, g, l, o⟩)
  | .ldhn d b g l o => some (FmtM.pack ⟨0x19, d, b, g, l, o⟩)
  | .ldwn d b g l o => some (FmtM.pack ⟨0x1A, d, b, g, l, o⟩)
  | .stb s b g l o => some (FmtM.pack ⟨0x1B, s, b, g, l, o⟩)
  | .sth s b g l o => some (FmtM.pack ⟨0x1C, s, b, g, l, o⟩)
  | .stw s b g l o => some (FmtM.pack ⟨0x1D, s, b, g, l, o⟩)
  | .std s b g l o => some (FmtM.pack ⟨0x1E, s, b, g, l, o⟩)
  | .ldf d a b g l => some (FmtX.pack ⟨0x1F, d, a, b, g, l, 0#4⟩)
  | .stf s a b g l => some (FmtX.pack ⟨0x1F, s, a, b, g, l, 1#4⟩)
  | .ldfp d a b g l => some (FmtX.pack ⟨0x1F, d, a, b, g, l, 2#4⟩)
  | .feget d a b g l => some (FmtX.pack ⟨0x1F, d, a, b, g, l, 3#4⟩)
  | .feset s a b g l => some (FmtX.pack ⟨0x1F, s, a, b, g, l, 4#4⟩)
  | .pref v a b g l => some (FmtX.pack ⟨0x1F, v, a, b, g, l, 5#4⟩)
  | .cflush a b g l => some (FmtX.pack ⟨0x1F, 0#5, a, b, g, l, 6#4⟩)
  | .cinv g l => some (FmtX.pack ⟨0x1F, 0#5, 0#5, 0#5, g, l, 7#4⟩)
  | .fenceRel g c => some (FmtA.pack ⟨0x20, 0#5, 0#5, 0#5, g, (0#5 ++ c)⟩)
  | .fenceAcq g c => some (FmtA.pack ⟨0x20, 0#5, 0#5, 0#5, g, (1#5 ++ c)⟩)
  | .fenceFull g c => some (FmtA.pack ⟨0x20, 0#5, 0#5, 0#5, g, (2#5 ++ c)⟩)
  | .amoAdd d a b z c l => some (FmtO.pack ⟨0x21, d, a, b, z, c, l, 0#4⟩)
  | .amoAnd d a b z c l => some (FmtO.pack ⟨0x21, d, a, b, z, c, l, 1#4⟩)
  | .amoOr d a b z c l => some (FmtO.pack ⟨0x21, d, a, b, z, c, l, 2#4⟩)
  | .amoXor d a b z c l => some (FmtO.pack ⟨0x21, d, a, b, z, c, l, 3#4⟩)
  | .amoMin d a b z c l => some (FmtO.pack ⟨0x21, d, a, b, z, c, l, 4#4⟩)
  | .amoMax d a b z c l => some (FmtO.pack ⟨0x21, d, a, b, z, c, l, 5#4⟩)
  | .amoMinn d a b z c l => some (FmtO.pack ⟨0x21, d, a, b, z, c, l, 6#4⟩)
  | .amoMaxn d a b z c l => some (FmtO.pack ⟨0x21, d, a, b, z, c, l, 7#4⟩)
  | .amoSwp d a b z c l => some (FmtO.pack ⟨0x21, d, a, b, z, c, l, 8#4⟩)
  | .amoCas d a b z c l => some (FmtO.pack ⟨0x21, d, a, b, z, c, l, 9#4⟩)
  | .amoFadd d a b z c l => some (FmtO.pack ⟨0x21, d, a, b, z, c, l, 10#4⟩)
  | .amoRedOrd d a b z c l => some (FmtO.pack ⟨0x21, d, a, b, z, c, l, 11#4⟩)
  | .spawn a b g => some (FmtX.pack ⟨0x22, 0#5, a, b, g, 0#4, 0#4⟩)
  | .join a g => some (FmtX.pack ⟨0x22, 0#5, a, 0#5, g, 0#4, 1#4⟩)
  | .migr d a g => some (FmtX.pack ⟨0x22, d, a, 0#5, g, 0#4, 2#4⟩)
  | .migv d a v g => some (FmtX.pack ⟨0x22, d, a, (0#2 ++ v), g, 0#4, 3#4⟩)
  | .yield g => some (FmtX.pack ⟨0x22, 0#5, 0#5, 0#5, g, 0#4, 4#4⟩)
  | .park d g => some (FmtX.pack ⟨0x22, d, 0#5, 0#5, g, 0#4, 5#4⟩)
  | .parkE d g => some (FmtX.pack ⟨0x22, d, 1#5, 0#5, g, 0#4, 5#4⟩)
  | .rfill d a b g l => some (FmtX.pack ⟨0x22, d, a, b, g, l, 6#4⟩)
  | .self d g l => some (FmtX.pack ⟨0x22, d, 0#5, 0#5, g, l, 7#4⟩)
  | .msend d a b g l => some (FmtX.pack ⟨0x23, d, a, b, g, l, 0#4⟩)
  | .mrecv d a b g l => some (FmtX.pack ⟨0x23, d, a, b, g, l, 1#4⟩)
  | .mpeek d a g l => some (FmtX.pack ⟨0x23, d, a, 0#5, g, l, 2#4⟩)
  | .tpost d a g l => some (FmtX.pack ⟨0x24, d, a, 0#5, g, l, 0#4⟩)
  | .tdone g => some (FmtX.pack ⟨0x24, 0#5, 0#5, 0#5, g, 0#4, 1#4⟩)
  | .qpush d a b g l => some (FmtX.pack ⟨0x24, d, a, b, g, l, 2#4⟩)
  | .qpop d a b g l => some (FmtX.pack ⟨0x24, d, a, b, g, l, 3#4⟩)
  | .tcard d g l => some (FmtX.pack ⟨0x24, d, 0#5, 0#5, g, l, 4#4⟩)
  | .qpopW d a g l => some (FmtX.pack ⟨0x24, d, a, 0#5, g, l, 5#4⟩)
  | .sfork d a b g l => some (FmtX.pack ⟨0x25, d, a, b, g, l, 0#4⟩)
  | .sstep d a g l => some (FmtX.pack ⟨0x25, d, a, 0#5, g, l, 1#4⟩)
  | .sact d a b g l => some (FmtX.pack ⟨0x25, d, a, b, g, l, 2#4⟩)
  | .sret d a b g l => some (FmtX.pack ⟨0x25, d, a, b, g, l, 3#4⟩)
  | .sjoin d a b g l => some (FmtX.pack ⟨0x25, d, a, b, g, l, 4#4⟩)
  | .sretire a g l => some (FmtX.pack ⟨0x25, 0#5, a, 0#5, g, l, 5#4⟩)
  | .sevict d a b g l => some (FmtX.pack ⟨0x25, d, a, b, g, l, 6#4⟩)
  | .smig d a b g l => some (FmtX.pack ⟨0x25, d, a, b, g, l, 7#4⟩)
  | .sstat d a b g l => some (FmtX.pack ⟨0x25, d, a, b, g, l, 8#4⟩)
  | .sjoinOpen d a g l => some (FmtX.pack ⟨0x25, d, a, 0#5, g, l, 9#4⟩)
  | .sstop d a b g l => some (FmtX.pack ⟨0x25, d, a, b, g, l, 10#4⟩)
  | .clook d a b g l => some (FmtX.pack ⟨0x26, d, a, b, g, l, 0#4⟩)
  | .cput d a g l => some (FmtX.pack ⟨0x26, d, a, 0#5, g, l, 1#4⟩)
  | .cinvk d a g l => some (FmtX.pack ⟨0x26, d, a, 0#5, g, l, 2#4⟩)
  | .cflusht d a g l => some (FmtX.pack ⟨0x26, d, a, 0#5, g, l, 3#4⟩)
  | .gset d a b g l => some (FmtX.pack ⟨0x27, d, a, b, g, l, 0#4⟩)
  | .gmask p a b g l => some (FmtX.pack ⟨0x27, (p ++ 0#2), a, b, g, l, 1#4⟩)
  | .gmaskS p a b g l => some (FmtX.pack ⟨0x27, (p ++ 0#2), a, b, g, l, 2#4⟩)
  | .gadv d a b g l => some (FmtX.pack ⟨0x27, d, a, b, g, l, 3#4⟩)
  | .gadvS d a b g l => some (FmtX.pack ⟨0x27, d, a, b, g, l, 4#4⟩)
  | .gchk p a b g l => some (FmtX.pack ⟨0x27, (p ++ 0#2), a, b, g, l, 5#4⟩)
  | .gsave d a g l => some (FmtX.pack ⟨0x27, d, a, 0#5, g, l, 6#4⟩)
  | .gload a b g l => some (FmtX.pack ⟨0x27, 0#5, a, b, g, l, 7#4⟩)
  | .trap c g => some (FmtA.pack ⟨0x28, (0#3 ++ c.extractLsb' 5 2), (c.extractLsb' 0 5), 0#5, g, 0#8⟩)
  | .trapack g => some (FmtA.pack ⟨0x28, 0#5, 0#5, 0#5, g, 1#8⟩)
  | .rett g => some (FmtA.pack ⟨0x28, 0#5, 0#5, 0#5, g, 2#8⟩)
  | .sysc d a g => some (FmtA.pack ⟨0x28, d, a, 0#5, g, 3#8⟩)
  | .sleep a g => some (FmtA.pack ⟨0x28, 0#5, a, 0#5, g, 4#8⟩)
  | .csrr d n m g k => some (FmtA.pack ⟨0x28, d, n, m, g, (4#6 ++ k)⟩)
  | .csrw s n m g k => some (FmtA.pack ⟨0x28, s, n, m, g, (5#6 ++ k)⟩)
  | .csrs s n m g k => some (FmtA.pack ⟨0x28, s, n, m, g, (6#6 ++ k)⟩)
  | .csrc s n m g k => some (FmtA.pack ⟨0x28, s, n, m, g, (7#6 ++ k)⟩)
  | .csrfi v p g c => some (FmtI.pack ⟨0x29, v, p, g, (0#1 ++ c)⟩)
  | .vadd d a b m t l => some (FmtV.pack ⟨0x30, d, a, b, m, t, l, 0#8⟩)
  | .vsub d a b m t l => some (FmtV.pack ⟨0x30, d, a, b, m, t, l, 1#8⟩)
  | .vmul d a b m t l => some (FmtV.pack ⟨0x30, d, a, b, m, t, l, 2#8⟩)
  | .vmulh d a b m t l => some (FmtV.pack ⟨0x30, d, a, b, m, t, l, 3#8⟩)
  | .vmulhn d a b m t l => some (FmtV.pack ⟨0x30, d, a, b, m, t, l, 4#8⟩)
  | .vand d a b m t l => some (FmtV.pack ⟨0x30, d, a, b, m, t, l, 5#8⟩)
  | .vor d a b m t l => some (FmtV.pack ⟨0x30, d, a, b, m, t, l, 6#8⟩)
  | .vxor d a b m t l => some (FmtV.pack ⟨0x30, d, a, b, m, t, l, 7#8⟩)
  | .vshl d a b m t l => some (FmtV.pack ⟨0x30, d, a, b, m, t, l, 8#8⟩)
  | .vshr d a b m t l => some (FmtV.pack ⟨0x30, d, a, b, m, t, l, 9#8⟩)
  | .vsra d a b m t l => some (FmtV.pack ⟨0x30, d, a, b, m, t, l, 10#8⟩)
  | .vmin d a b m t l => some (FmtV.pack ⟨0x30, d, a, b, m, t, l, 11#8⟩)
  | .vmax d a b m t l => some (FmtV.pack ⟨0x30, d, a, b, m, t, l, 12#8⟩)
  | .vminn d a b m t l => some (FmtV.pack ⟨0x30, d, a, b, m, t, l, 13#8⟩)
  | .vmaxn d a b m t l => some (FmtV.pack ⟨0x30, d, a, b, m, t, l, 14#8⟩)
  | .vadds d a b m t l => some (FmtV.pack ⟨0x30, d, a, b, m, t, l, 15#8⟩)
  | .vaddsn d a b m t l => some (FmtV.pack ⟨0x30, d, a, b, m, t, l, 16#8⟩)
  | .vsubs d a b m t l => some (FmtV.pack ⟨0x30, d, a, b, m, t, l, 17#8⟩)
  | .vsubsn d a b m t l => some (FmtV.pack ⟨0x30, d, a, b, m, t, l, 18#8⟩)
  | .vmov d a m t l => some (FmtV.pack ⟨0x30, d, a, 0#3, m, t, l, 19#8⟩)
  | .vfadd d a b m t l => some (FmtV.pack ⟨0x31, d, a, b, m, t, l, 0#8⟩)
  | .vfsub d a b m t l => some (FmtV.pack ⟨0x31, d, a, b, m, t, l, 1#8⟩)
  | .vfmul d a b m t l => some (FmtV.pack ⟨0x31, d, a, b, m, t, l, 2#8⟩)
  | .vfma d a b m t l => some (FmtV.pack ⟨0x31, d, a, b, m, t, l, 3#8⟩)
  | .vfdiv d a b m t l => some (FmtV.pack ⟨0x31, d, a, b, m, t, l, 4#8⟩)
  | .vfsqrt d a m t l => some (FmtV.pack ⟨0x31, d, a, 0#3, m, t, l, 5#8⟩)
  | .vfmin d a b m t l => some (FmtV.pack ⟨0x31, d, a, b, m, t, l, 6#8⟩)
  | .vfmax d a b m t l => some (FmtV.pack ⟨0x31, d, a, b, m, t, l, 7#8⟩)
  | .vexp2 d a m t l => some (FmtV.pack ⟨0x31, d, a, 0#3, m, t, l, 8#8⟩)
  | .vlog2 d a m t l => some (FmtV.pack ⟨0x31, d, a, 0#3, m, t, l, 9#8⟩)
  | .vrcp d a m t l => some (FmtV.pack ⟨0x31, d, a, 0#3, m, t, l, 10#8⟩)
  | .vrsq d a m t l => some (FmtV.pack ⟨0x31, d, a, 0#3, m, t, l, 11#8⟩)
  | .vld d b m t l => some (FmtW.pack ⟨0x32, d, b, 0#5, m, t, l, 0#4⟩)
  | .vlds d b s m t l => some (FmtW.pack ⟨0x32, d, b, s, m, t, l, 1#4⟩)
  | .vldx d b x m t l => some (FmtW.pack ⟨0x32, d, b, (0#2 ++ x), m, t, l, 2#4⟩)
  | .vst d b m t l => some (FmtW.pack ⟨0x32, d, b, 0#5, m, t, l, 3#4⟩)
  | .vsts d b s m t l => some (FmtW.pack ⟨0x32, d, b, s, m, t, l, 4#4⟩)
  | .vstx d b x m t l => some (FmtW.pack ⟨0x32, d, b, (0#2 ++ x), m, t, l, 5#4⟩)
  | .vldm n b l => some (FmtW.pack ⟨0x32, (0#1 ++ n), b, 0#5, 0#2, 0#3, l, 6#4⟩)
  | .vstm n b l => some (FmtW.pack ⟨0x32, (0#1 ++ n), b, 0#5, 0#2, 0#3, l, 7#4⟩)
  | .vrsum d a m t l => some (FmtV.pack ⟨0x33, d, a, 0#3, m, t, l, 0#8⟩)
  | .vrmin d a m t l => some (FmtV.pack ⟨0x33, d, a, 0#3, m, t, l, 1#8⟩)
  | .vrmax d a m t l => some (FmtV.pack ⟨0x33, d, a, 0#3, m, t, l, 2#8⟩)
  | .vrminn d a m t l => some (FmtV.pack ⟨0x33, d, a, 0#3, m, t, l, 3#8⟩)
  | .vrmaxn d a m t l => some (FmtV.pack ⟨0x33, d, a, 0#3, m, t, l, 4#8⟩)
  | .vrand d a m t l => some (FmtV.pack ⟨0x33, d, a, 0#3, m, t, l, 5#8⟩)
  | .vror d a m t l => some (FmtV.pack ⟨0x33, d, a, 0#3, m, t, l, 6#8⟩)
  | .vrxor d a m t l => some (FmtV.pack ⟨0x33, d, a, 0#3, m, t, l, 7#8⟩)
  | .vscan d a m t l => some (FmtV.pack ⟨0x33, d, a, 0#3, m, t, l, 8#8⟩)
  | .vscanmax d a m t l => some (FmtV.pack ⟨0x33, d, a, 0#3, m, t, l, 9#8⟩)
  | .vtopk d a b m t l => some (FmtV.pack ⟨0x33, d, a, b, m, t, l, 16#8⟩)
  | .vperm d a b m t l => some (FmtV.pack ⟨0x34, d, a, b, m, t, l, 0#8⟩)
  | .vbcastg d r m t l => some (FmtV.pack ⟨0x34, d, (r.extractLsb' 2 3), (r.extractLsb' 0 2 ++ 0#1), m, t, l, 1#8⟩)
  | .vmovg d r t l => some (FmtV.pack ⟨0x34, d, (r.extractLsb' 2 3), (r.extractLsb' 0 2 ++ 0#1), 0#2, t, l, 2#8⟩)
  | .viota d m t l => some (FmtV.pack ⟨0x34, d, 0#3, 0#3, m, t, l, 3#8⟩)
  | .vbcast d a m t l => some (FmtV.pack ⟨0x34, d, a, 0#3, m, t, l, 4#8⟩)
  | .vcompress d a m t l => some (FmtV.pack ⟨0x34, d, a, 0#3, m, t, l, 5#8⟩)
  | .vcmp n a b m t l k => some (FmtV.pack ⟨0x35, (0#1 ++ n), a, b, m, t, l, (0#5 ++ k)⟩)
  | .vfcmp n a b m t l k => some (FmtV.pack ⟨0x35, (0#1 ++ n), a, b, m, t, l, (1#5 ++ k)⟩)
  | .vmand n q r l => some (FmtV.pack ⟨0x35, (0#1 ++ n), (0#1 ++ q), (0#1 ++ r), 0#2, 0#3, l, 16#8⟩)
  | .vmor n q r l => some (FmtV.pack ⟨0x35, (0#1 ++ n), (0#1 ++ q), (0#1 ++ r), 0#2, 0#3, l, 17#8⟩)
  | .vmxor n q r l => some (FmtV.pack ⟨0x35, (0#1 ++ n), (0#1 ++ q), (0#1 ++ r), 0#2, 0#3, l, 18#8⟩)
  | .vmnot n q l => some (FmtV.pack ⟨0x35, (0#1 ++ n), (0#1 ++ q), 0#3, 0#2, 0#3, l, 19#8⟩)
  | .vmpopc r m t l => some (FmtV.pack ⟨0x35, 0#3, (r.extractLsb' 2 3), (r.extractLsb' 0 2 ++ 0#1), m, t, l, 24#8⟩)
  | .vmfirst r m t l => some (FmtV.pack ⟨0x35, 0#3, (r.extractLsb' 2 3), (r.extractLsb' 0 2 ++ 0#1), m, t, l, 25#8⟩)
  | .vcvt d a p m t l x u v c => some (FmtV.pack ⟨0x36, d, a, p, m, t, l, (x ++ u ++ v ++ c)⟩)
  | .vpen d a b m l => some (FmtV.pack ⟨0x37, d, a, b, m, 5#3, l, 0#8⟩)
  | .vbias d a b m l => some (FmtV.pack ⟨0x37, d, a, b, m, 5#3, l, 1#8⟩)
  | .vban d m l => some (FmtV.pack ⟨0x37, d, 0#3, 0#3, m, 5#3, l, 2#8⟩)
  | .vsamp d a b m l => some (FmtV.pack ⟨0x37, d, a, b, m, 5#3, l, 3#8⟩)
  | .vrng d a b m l => some (FmtV.pack ⟨0x37, d, a, b, m, 5#3, l, 4#8⟩)
  | .vacc d a b m l => some (FmtV.pack ⟨0x37, d, a, b, m, 5#3, l, 5#8⟩)
  | .vresid d a b m l => some (FmtV.pack ⟨0x37, d, a, b, m, 5#3, l, 6#8⟩)
  | .vtree d a b l => some (FmtV.pack ⟨0x37, d, a, b, 0#2, 3#3, l, 7#8⟩)
  | .vmatch d a b l => some (FmtV.pack ⟨0x37, d, a, b, 0#2, 2#3, l, 8#8⟩)
  | .vsoftT d b m l => some (FmtV.pack ⟨0x37, d, 0#3, b, m, 5#3, l, 9#8⟩)
  | .vsoftW d b m l => some (FmtV.pack ⟨0x37, d, 0#3, b, m, 5#3, l, 10#8⟩)
  | .tcmd a b g l q h _ => some (FmtT.pack ⟨0x3C, a, b, g, l, q, h⟩)
  | _ => none

/-- The words of an instruction: one word, or the nine words of a tile frame (R306, R316). -/
def encode (i : Instr) : Option (List Word) :=
  match i with
  | .tcmd _ _ _ _ _ _ p => (encodeWord i).map fun w => [w, p.w0, p.w1, p.w2, p.w3, p.w4, p.w5, p.w6, p.w7]
  | i => (encodeWord i).map fun w => [w]

/-- The bytes of an instruction in memory, each word little-endian (R2, R306). -/
def encodeBytes (i : Instr) : Option (List Byte) :=
  (encode i).map fun ws => ws.flatMap fun w => leBytes 4 w.toNat

/-- The instruction whose bits are `w`, numbered from bit 0 of the first word upward; bits from `nbits` on are zero. -/
def decodeTableWord (nbits w : Nat) : Option Instr :=
  match decodeBytes (leBytes 36 (w % 2 ^ nbits)) with
  | .ok (i, _) => some i
  | .error _ => none

end Sys2Proof
end

