-- ==== Sys2Proof/Machine/Fetch.lean ====
section
/-! DEFINITION. Instruction fetch (R68, R145, R185, R306, R316): which slot has its core's issue turn, and the instruction
that its PC names. -/

namespace Sys2Proof.Machine

/-- A slot that may issue: it holds a strand that is not stopped, asleep, parked or to be displaced, and no trap is due (R137,
R145, R270, R272). -/
def Slot.canTry (x : Slot) : Bool :=
  decide (x.occ = .active) && x.due.isNone && x.fatals.isEmpty &&
    (x.async.isEmpty || x.frozen || x.replay.isSome) && x.cmd.isNone &&
    x.sleeping.isNone && !x.stalled && !x.parked && !x.displ

/-- A SAVE of the slot, or a MOVE of its core, has stopped its issue (R280, R282). -/
def State.saving (s : State) (k : Nat) : Bool :=
  (List.range 8).any fun i =>
    let j := coreOf k * 8 + i
    j != k && match (s.slot j).cmd with
      | some (n, v) => n == 0x0E1 && ((bits v 63 60 == 0 && bits v 58 56 == k % 8) ||
          (bits v 63 60 == 4 && !(k % 8 == 7 && (s.core (coreOf k)).urgcfg.msb)))
      | none => false

/-- The slots of core `c` that may issue, from its rotation pointer on (R145); a sleeping core has none (R264). Slot 7 issues
nothing while URGCFG.EN and the strand in it do not agree (R146). -/
def State.turnSlots (s : State) (c : Nat) : List Nat :=
  if (s.core c).asleep then []
  else ((List.range 8).map fun i => 8 * c + ((s.core c).rot.toNat + i) % 8).filter fun k =>
    (s.slot k).canTry && !s.saving k && !(k % 8 == 7 && (s.core c).urgcfg.msb != (s.core c).urg)

/-- The exact trap of a fetch of one word (R68, R185, R189). -/
def State.fetchTrap (s : State) (k : Nat) (pc : Dword) : Option Trap :=
  let x := s.slot k
  firstTrap [s.regionTrap k pc, s.plinthTrap k pc,
    if x.pureBound && !(decide (regionOf pc = .tenant) && (s.taskOf x).any fun t => s.inCode t pc.toNat 4) then
      some (purityTrap 0x03 pc) else none]

/-- Reads `n` bytes of code at `pc` (R84, ACCESS 3; R76, X). A word of another die's local store waits as R99 says. -/
def fetchBytes (k : Nat) (pc : Dword) (n : Nat) : M (List Byte) := do
  let s ← get
  let w := s.whoSlot k (.fetch k)
  match lsPlace w.cluster pc with
  | some (c, o) =>
    if c / 40 ≠ w.die && !s.lsCovered w.die c o n then throw (.wait id)
    set (s.noteAccess w 3 n (.ls c o))
    pure (s.readLs c o n)
  | none => readMemFrom w 3 3 3 pc n

/-- The first trap among the words of an instruction. -/
def State.fetchTraps (s : State) (k : Nat) (pc : Dword) (words : Nat) : Option Trap :=
  firstTrap ((List.range words).map fun i => s.fetchTrap k (pc + dw (4 * i)))

/-- The instruction at the slot's PC: one word, or the nine words of a tile frame (R316). Bytes that are no instruction
give the word itself. -/
def fetchM (k : Nat) : M Instr := do
  let s ← get
  let pc := (s.slot k).pc
  match s.fetchTraps k pc 1 with
  | some t => throw (.trap t)
  | none =>
    let bs ← fetchBytes k pc 4
    let w : Word := BitVec.ofNat 32 (leNat bs)
    let bs ← if w.extractLsb' 26 6 == 0x3C then
        match s.fetchTraps k pc 9 with
        | some t => throw (.trap t)
        | none => fetchBytes k pc 36
      else pure bs
    modify fun s => (s.dropFault (.fetch k)).dropRequests (.fetch k)
    match decodeBytes bs with
    | .ok (i, _) => pure i
    | .error _ => pure (.illegalWord w)

/-- What a fetch gives: the instruction and the state after the fetch, or the state in which the slot issues nothing. -/
def State.fetch (s : State) (k : Nat) : State × Option Instr :=
  match fetchM k s with
  | .ok (i, t) => (t, some i)
  | .error (.wait f) => (f s, none)
  | .error (.fatal sub va) => (((s.dropFault (.fetch k)).dropRequests (.fetch k)).fatalIssue k sub va, none)
  | .error (.trap t) => (s.raise k t, none)

end Sys2Proof.Machine
end

