-- ==== Sys2Proof/Machine/Complete.lean ====
section
/-! DEFINITION. The completion of outstanding instructions (R241, R242), the vector unit (R256, R257), a core's sleep (R264,
R265), and a word that is no instruction (R313). -/

namespace Sys2Proof.Machine

/-- A word that is no instruction (R313): ILLEGAL with the subcode of its lowest-numbered case. -/
def execIllegalWord (word : Word) (s : State) : Res :=
  if !(s.slot s.focus).windowsOpen then .next s
  else match decodeWord word with
    | .error c => .next (s.raise s.focus { cause := 0x01, sub := c.subcode })
    | .ok _ => .next s

/-- A mask request completes once its mask is visible (R208, R241); the request of a dead stream stays for its stop (R210). -/
def gmaskM (k : Nat) (o : Outst) (n : Nat) (p : BitVec 3) : M Unit := do
  let s ← get
  match (s.die (dieOf k)).maskq.find? fun r => r.n = n with
  | none => pure ()
  | some r => match r.done with
    | none => throw (.wait id)
    | some dead =>
      settleWrites (s.whoOp k o) r.writes
      modify fun s =>
        let s := (s.dropFault (.op k o.id)).dropRequests (.op k o.id)
        let s := if dead && r.stream.isSome then s else s.dropMask r.die r.n
        s.complete k o [.p p dead]

/-- A mask request goes on to its completion; one whose mask write ends FATAL is over, and applies no stop (R210). -/
def State.gmaskStep (s : State) (k : Nat) (o : Outst) (n : Nat) (p : BitVec 3) : State :=
  runM (gmaskM k o n p)
    (fun sub va s => (((s.dropFault (.op k o.id)).dropRequests (.op k o.id)).dropMask (dieOf k) n).fatal k o sub va false)
    (fun t s => s.raise k t) s

/-- An advance goes on (R421): the Armature writes its nodes, and it completes once they are visible; then its stream and its
register take the configuration (R207, R422). -/
def gadvM (k : Nat) (o : Outst) (nodes : Option (Dword × List Byte)) (writes : List Nat) (stream : Option Nat) (cfg : Dword)
    (d : BitVec 5) : M Unit := do
  let s ← get
  let w := { s.whoOp k o with core := none, uid := 0 }
  match nodes with
  | some (va, bs) => do
    let ws ← writeMem w va bs 5
    modify fun s => ((s.dropFault w.req).dropRequests w.req).setOut k { o with op := .gadv none ws stream cfg d }
  | none => do
    settleWrites w writes
    modify fun s =>
      let s := (s.dropFault w.req).dropRequests w.req
      let s := match stream with
        | some id => if scbState (s.scb id) = 0 then s else s.setGcfg id cfg
        | none => s
      s.complete k o [.g d cfg]

/-- A tile frame's nine words reach its engine queue (R241, R318). -/
def State.tcmdStep (s : State) (k : Nat) (o : Outst) (n : Nat) : State :=
  match s.acceptCmd n with
  | some s' => s'.complete k o []
  | none => s

/-- The scope of an atomic (R105). -/
def Op.scope : Op → Scope
  | .atomic _ _ _ _ _ sc _ => sc
  | .redord _ _ _ _ sc _ _ => sc
  | _ => .strand

/-- The FENCE.ACQ that ends an atomic (R102, R105): the strand's earlier loads have returned and its die has applied the writes
that the value came from, and those that the values of earlier atomics came from; at SYSTEM scope the die's view goes on to cover
the frontier. -/
def State.acquireStep (s : State) (k : Nat) (o : Outst) (need : List Stamp) (fs : List Fill) : State :=
  if !need.all (s.viewCovers (dieOf k)) || ((s.slot k).earlier o).any Outst.readPending || s.owing k then s
  else if o.op.scope = .system then s.setOut k { o with st := .gathered s.frontier fs }
  else s.complete k o fs

/-- The step of an instruction that waits for an access with its slot free. -/
def deferredBody : Instr → Option (State → M Dword)
  | .tpost d a _ _ => some (tpostBody d a)
  | .qpush d a b _ _ => some (qpushBody d a b)
  | .qpop d a b _ _ => some (qpopBody d a b)
  | .clook d a b _ _ => some (clookBody d a b)
  | .cput d a _ _ => some (cputBody d a)
  | .cinvk d a _ _ => some (cinvkBody d a)
  | .sact d a b _ _ => some (streamBody a sactSub (sactAct d b))
  | .sevict d a b _ _ => some (streamBody a (sevictSub b) (sevictAct d b))
  | .sjoinOpen d a _ _ => some (streamBody a sjoinOpenSub (sjoinOpenAct d a))
  | _ => none

/-- A deferred instruction acts, with the registers that it read at its issue, and gives gd its value (R84, R241). -/
def deferredM (k : Nat) (o : Outst) (i : Instr) (g : List Dword) (d : BitVec 5) : M Unit := do
  match deferredBody i with
  | none => throw (.wait id)
  | some body =>
    let s ← get
    let x ← body (s.asIssued k o g)
    modify fun s => ((s.dropFault (.op k o.id)).dropRequests (.op k o.id)).complete k o [.g d x]

/-- The copy of an SCB leaves as a store does, and gd takes its value (R383). -/
def copyOutStep (k : Nat) (o : Outst) (va : Dword) (bs : List Byte) (x : Dword) (d : BitVec 5) : M Unit := do
  let s ← get
  let w := s.whoOp k o
  if !(s.slot k).mayLeave o || ((lsPlace w.cluster va).isSome && !s.allPerformed w.uid) then throw (.wait id)
  let _ ← writeMem w va bs 1
  modify fun s => ((s.dropFault (.op k o.id)).dropRequests (.op k o.id)).complete k o [.g d x]

/-- An outstanding instruction goes on to its completion (R241). A store may take later stores with it (R101): the step's flag
says whether it does. -/
def State.completeOp (s : State) (k : Nat) (o : Outst) : State :=
  match o.st with
  | .returned fs => s.complete k o fs
  | .after need fs => s.acquireStep k o need fs
  | .gathered need fs => if s.viewCovers (dieOf k) need then s.complete k o fs else s
  | .refused => s
  | .queued => s
  | _ =>
    match o.op with
    | .compute fs => s.complete k o fs
    | .load parts got into => runOp k o (loadM k o parts got into false true) s
    | .store parts => runOp k o (storeM k o parts s.ev.flag) s
    | .deferred i g d => runOp k o (deferredM k o i g d) s
    | .copyOut va bs x d => runOp k o (copyOutStep k o va bs x d) s
    | .cflush ea => if s.flushDone k o ea then s.complete k o [] else s
    | .rfill target r x d => s.rfillStep k o target r x d
    | .msend place ea none d => runOp k o (msendM k o place ea d) s
    | .mrecv mbox ea ws d => runOp k o (mrecvM k o mbox ea ws d) s
    | .qpopw d => s.qpopwStep k o d
    | .gmask n p => s.gmaskStep k o n p
    | .gadv nodes ws stream cfg d => runOp k o (gadvM k o nodes ws stream cfg d) s
    | .tcmd n => s.tcmdStep k o n
    | .msend _ _ (some _) _ | .vector _ | .atomic .. | .redord .. | .sync .. | .remote .. => s

/-- INSTRUCTION_COMPLETE (R241). -/
def execInstructionComplete (s : State) : Res :=
  .next <| match s.target with
    | some (k, o) => s.completeOp k o
    | none => s

/-! ### The vector unit (R256) -/

/-- The head of a core's vector dispatch queue: its slot and the instruction dispatched first. -/
def State.vectorHead (s : State) (c : Nat) : Option (Nat × Outst) :=
  let all := (List.range 8).flatMap fun i => ((s.slot (8 * c + i)).outs.filter Outst.inVecQueue).map fun o => (8 * c + i, o)
  all.foldl (fun (b : Option (Nat × Outst)) x => match b with
    | none => some x
    | some y => if x.2.id < y.2.id then some x else some y) none

/-- VECTOR_ISSUE (R256, R257): the unit serves the first core after the one served last whose queue has a head; a load or store
goes on to its accesses. -/
def execVectorIssue (s : State) : Res :=
  let cl := s.ev.who
  let r := (s.cluster cl).vrot
  .next <| match ((List.range 4).map fun i => (r + 1 + i) % 4).findSome? fun i => (s.vectorHead (4 * cl + i)).map fun h => (i, h) with
    | some (i, k, o) => match o.op with
      | .vector fs => (s.setOut k { o with st := .returned fs }).modCluster cl fun x => { x with vrot := i }
      | _ => (s.setOut k { o with st := .ready }).modCluster cl fun x => { x with vrot := i }
    | none => s

/-! ### Sleep (R264, R265) -/

/-- A slot that keeps its core awake no more: parked, stalled, sleeping, halted, or empty with nothing to take or steal. -/
def State.idleSlot (s : State) (k : Nat) : Bool :=
  let x := s.slot k
  match x.occ with
  | .empty => s.urgentSlot k || ((s.takeRec (coreOf k)).isNone && !s.dispatchFor (coreOf k) && (s.theft k).isNone)
  | .halted | .stopped => true
  | .active => x.due.isNone && x.fatals.isEmpty && (x.async.isEmpty || x.frozen) &&
      (x.sleeping.isSome || x.stalled || x.parked || (x.waitOn.contains .vector && decide (8 ≤ s.vecQueued (coreOf k)))) && x.cmd.isNone
  | _ => false

/-- Every slot of a core lets it sleep. -/
def State.idleCoreNow (s : State) (c : Nat) : Bool := (List.range 8).all fun i => s.idleSlot (8 * c + i)

/-- CORE_SLEEP (R264). -/
def execCoreSleep (s : State) : Res :=
  .next <| if s.idleCoreNow s.ev.who then s.modCore s.ev.who fun c => { c with asleep := true } else s

/-- CORE_WAKE (R265). -/
def execCoreWake (s : State) : Res :=
  .next <| if s.idleCoreNow s.ev.who then s else s.modCore s.ev.who fun c => { c with asleep := false }

end Sys2Proof.Machine
end

