-- ==== Sys2Proof/Machine/Control.lean ====
section
/-! DEFINITION. Branches and jumps (R344). A replayed transfer goes on at TRNPC (R271). -/

namespace Sys2Proof.Machine

/-- The PC of the strand after a transfer to `target`; a replayed instruction returns to TRNPC all the same (R271). -/
def State.goto (before t : State) (target : Dword) : State :=
  if (before.slot before.focus).replay.isSome then t else t.modSlot before.focus fun x => { x with pc := target }

/-- A branch on a predicate that must equal `want` (R344). -/
def branch (i : Instr) (p : BitVec 3) (disp : BitVec 23) (want : Bool) : State → Res :=
  issue { instr := i, reads := [.p p] } fun s t =>
    let x := s.slot s.focus
    if x.readP p = want then s.goto t (x.pc + sext disp * 4) else t

/-- BR (R344). -/
def execBr (p : BitVec 3) (i : BitVec 23) : State → Res := branch (.br p i) p i true

/-- BRN (R344). -/
def execBrn (p : BitVec 3) (i : BitVec 23) : State → Res := branch (.brn p i) p i false

/-- JAL (R344): the link is PC + 4. -/
def execJal (d : BitVec 5) (i : BitVec 21) : State → Res :=
  issue { instr := .jal d i, writes := [.g d] } fun s t =>
    let x := s.slot s.focus
    (s.goto t (x.pc + sext i * 4)).writeG s.focus d (x.pc + 4)

/-- JALR (R344): the target is computed from ga as read at issue. -/
def execJalr (d a : BitVec 5) (g : BitVec 3) (i : BitVec 13) : State → Res :=
  issue { instr := .jalr d a g i, guard := g, reads := [.g a], writes := [.g d] } fun s t =>
    let x := s.slot s.focus
    (s.goto t ((x.readG a + sext i) &&& ~~~ 3)).writeG s.focus d (x.pc + 4)

end Sys2Proof.Machine
end

