-- ==== Sys2Proof/Machine/StreamDev.lean ====
section
/-! DEFINITION. What the stream scheduler, the Trick unit and the Cast unit of a die do by themselves (R160–R163, R168–R175,
R177, R196). -/

namespace Sys2Proof.Machine

/-! ### Batches (R161, R162) -/

/-- The members of a group of the layer board in order of joining, then of id (R161). -/
def State.boardGroup (s : State) (d m l : Nat) : List Nat :=
  let es := (s.die d).board.filter fun e => e.model == m && e.layer == l
  let put := fun (xs : List BoardEntry) (e : BoardEntry) =>
    let before := fun (o : BoardEntry) => decide (o.since < e.since ∨ (o.since = e.since ∧ o.id < e.id))
    xs.takeWhile before ++ e :: xs.dropWhile before
  (es.foldl put []).map (·.id)

/-- A group is due (R161). -/
def State.groupDue (s : State) (d m l : Nat) : Bool :=
  let e := s.model m
  let es := (s.die d).board.filter fun x => x.model == m && x.layer == l
  !es.isEmpty && (decide (rd e 4 2 ≤ es.length) || es.any fun x => decide (x.since + rd e 8 4 ≤ s.timer.toNat))

/-- List and card of a batch slot (R162). -/
def batchList (e : List Byte) (d j : Nat) : Nat := rd e 0x20 8 + d * 0x20000 + j * 4096
def batchCard (e : List Byte) (d j : Nat) : Nat := rd e 0x20 8 + d * 0x20000 + 0x10000 + j * 128
def listImage (m l : Nat) (ids : List Nat) : List Byte :=
  leBytes 2 m ++ leBytes 2 l ++ leBytes 2 ids.length ++ List.replicate 10 0 ++ ids.flatMap (leBytes 4)

/-- A batch that is being written, with its layer in `part`. -/
def State.formingTask (s : State) (d m l : Nat) : Option Task :=
  s.tasks.find? fun t => t.phase == .forming && t.die == d && t.part == l && (t.batch.map (·.1)) == some m

/-- A due group that the board can take now: its model has a batch slot and its tenant is not being destroyed (R46, R161). -/
def State.takeable (s : State) (d m l : Nat) : Bool :=
  s.groupDue d m l && (s.freeBatch d m false).isSome && !s.dying (modelTenant (s.model m))

/-- No group that the board can take stands before this one (R161). -/
def State.firstDue (s : State) (d m l : Nat) : Bool :=
  (s.die d).board.all fun e => !(decide (e.model < m ∨ (e.model = m ∧ e.layer < l)) && s.takeable d e.model e.layer)

/-- A due group with a free batch slot is taken: its streams become RUNNING with QUEUED (R161). -/
def State.beginBatch (s : State) (d m l : Nat) : State :=
  match s.freeBatch d m false with
  | none => s
  | some j =>
    if !s.takeable d m l || !s.firstDue d m l then s
    else
      let e := s.model m
      let ids := (s.boardGroup d m l).take (rd e 6 2)
      let s := ids.foldl (fun s i => s.scbStep i fun r => setQueued (setState r 2) true) s
      let s := s.modDie d fun x => { x with batches := x.batches ++ [⟨m, j, false⟩] }
      let img := modelCard e (rd e 0x10 8) (batchList e d j) (16 + 4 * ids.length)
      let t := { newTask s d (dw (batchCard e d j)) img (modelTenant e) none .forming with batch := some (m, j, ids), part := l }
      { s with tasks := s.tasks ++ [t], nextN := s.nextN + 1 }

/-- Writes the list and the card of a batch, which stand everywhere before it queues the card on the die that holds it (R122,
R162, R460). -/
def writeBatch (t : Task) : M Unit := do
  let (m, _, ids) := t.batch.getD (0, 0, [])
  let w := whoUnit t.die t.tenant (.task t.n) 0
  storeMem w 3 (dw (rd t.img 8 8)) (listImage m t.part ids)
  storeMem w 2 t.card t.img
  let p ← placeRead w t.card 128 5 1
  match p with
  | .mem pa =>
    let d := homeDie pa
    modify fun s => s.modTask t.n fun t => { t with part := 0 }
    let _ ← queueCard { w with die := d } d (cardStage t.img) t.card t.img none
    modify (·.clearTask t.n)
  | _ => throw (.fatal 0x27 t.card)

/-- A batch that could not be posted (R162): its slot is free, its streams settle, and the fault queue names the card. -/
def State.failBatch (s : State) (t : Task) (sub : Byte) (va : Dword) : State :=
  let (m, j, ids) := t.batch.getD (0, 0, [])
  let s := s.clearTask t.n
  let s := { s with tasks := s.tasks.filter fun (x : Task) => x.n ≠ t.n }.modDie t.die fun x => { x with
    batches := x.batches.filter fun b => !(b.model == m && b.slot == j && !b.recomp) }
  let s := ids.foldl (fun s i =>
    let s := s.scbStep i fun r => setQueued r false
    if scbState (s.scb i) = 2 then s.settle i else s.release i) s
  s.postFaultEntry t.die (faultEntry t.card 0x07 sub 0xFFFFFFFF 0 va) none

/-- BATCH_FORM (R161, R162). -/
def execBatchForm (s : State) : Res :=
  let d := s.ev.who; let m := s.ev.n; let l := s.ev.m
  .next <|
    let s := if (s.formingTask d m l).isSome then s else s.beginBatch d m l
    match s.formingTask d m l with
    | none => s
    | some t => runM (writeBatch t) (fun sub va s => s.failBatch t sub va) (fun _ s => s) s

/-! ### Sibling groups (R168–R171) -/

/-- The message is the oldest one on its way to its group. -/
def State.firstForGroup (s : State) (m : Msg) : Bool :=
  (s.msgs.find? fun x => (x.kind == 5 || x.kind == 6) && x.mbox == m.mbox).any fun x => x.n == m.n

/-- Steps 3–5 of R170. -/
def State.endGroup (s : State) (gid : Nat) (g : Group) (winners : List Nat) : State :=
  let members := (s.scbs.filter fun e => scbGroup e.2 == gid && scbMember e.2).map (·.1)
  let s := (members.filter fun i => !winners.contains i).foldl State.kill s
  let steps := rd g.img 0x20 4
  let win := fun (s : State) (i : Nat) =>
    if !members.contains i then s
    else
      let s := s.scbStep i fun r =>
        let r := wr r 0x2C 4 0
        if rd g.img 0xE 1 = 0 then wr (wr r 0x20 4 steps) 0x1E 1 0 else r
      if scbState (s.scb i) = 5 then s.scbStep i fun r => setPrev r (nextState r)
      else if scbState (s.scb i) = 2 then s else s.settle i
  let s := winners.foldl win s
  { s with
    groups := s.groups.del gid
    msgs := s.msgs.filter fun (m : Msg) => !((m.kind == 5 || m.kind == 6) && m.mbox == gid) }

/-- The packages that hold bytes of the result record. -/
def recordPeers (w : Who) (va : Dword) : M (List Nat) := do
  let a ← placeWrite w va 64 5
  let b ← placeWrite w (va + 0xF0) 64 5
  pure ([a, b].filterMap fun p => match p with
    | .peer g => some (peerWrite g)
    | .host => some hostWrite
    | _ => none)

/-- Steps 1 and 2 of R170: the record, and once it is visible SIGNAL. -/
def resolveM (m : Msg) (g : Group) : M Unit := do
  let die := m.mbox / 2 ^ 30
  let w := whoUnit die g.tenant (.device m.n) m.n
  let va := dw (rd g.img 0x10 8)
  if m.since = 0 then
    let _ ← writeMem w va m.bytes 5
    modify fun s => { (s.dropFault w.req).dropRequests w.req with
      msgs := s.msgs.map fun (x : Msg) => if x.n = m.n then { x with since := 1 } else x }
  else
    let s ← get
    if !s.allVisible m.n then throw (.wait id)
    let ps ← recordPeers w va
    settleWrites w ps
    gatherAdd w (dw (rd g.img 0x18 8)) 1 0
    let n := rd m.bytes 4 4
    modify fun s => ((s.dropFault w.req).dropRequests w.req).endGroup m.mbox g
      ((List.range n).map fun i => rd m.bytes (0x10 + 4 * i) 4)

/-- GROUP_MEMBER_UPDATE (R168–R171): a member's standing reaches its group's die, or the unit goes on with a resolution. -/
def execGroupMemberUpdate (s : State) : Res :=
  .next <| match (s.msg? s.ev.who 5).or (s.msg? s.ev.who 6) with
    | none => s
    | some m =>
      if !s.firstForGroup m then s
      else match s.group? m.mbox with
        | none => s.dropMsg m.n
        | some g =>
          if m.kind = 5 then
            ({ s.dropMsg m.n with groups := s.groups.put m.mbox (g.update m.src true (m.since % 2 == 1) (2 ≤ m.since)) }).checkGroup m.mbox
          else runM (resolveM m g)
            (fun sub va s => (((s.dropFault (.device m.n)).dropRequests (.device m.n)).dropMsg m.n).postFaultEntry (m.mbox / 2 ^ 30)
              (faultEntry (dw (m.mbox + 2 ^ 62)) 0x07 sub 0xFFFFFFFF 0 va) none) (fun _ s => s) s

/-! ### Eviction and restore (R172–R177) -/

/-- EVICTION_ROUND (R172, R173): a round that has begun goes on until the free frames reach HIGH or no candidate is left. -/
def execEvictionRound (s : State) : Res :=
  let d := s.ev.who
  let e := (s.die d).evlow
  .next <| if s.freeFrames d < bits e 31 0 ∨ (s.die d).round = true then
      let r := State.evictRound d (bits e 63 32) State.evictMove s.scbs.length [] ⟨s, 0, false⟩
      r.st.modDie d fun x => { x with round := r.more }
    else s

/-- STREAM_RESTORE_SELF (R175): the oldest eviction, while free frames stay at or above HIGH and would remain above LOW. A
restore that ends FATAL leaves the stream where it is. -/
def execStreamRestoreSelf (s : State) : Res :=
  let d := s.ev.who
  let e := (s.die d).evlow
  .next <| match (s.die d).evicted with
    | [] => s
    | id :: _ =>
      let free := s.freeFrames d
      if bits e 63 32 ≤ free ∧ bits e 31 0 + s.awayLeaves id < free then
        let w := whoUnit d (scbTenant (s.scb id)) (.stream id) 0
        runM (do
            let _ ← restoreM w id
            modify fun s => (s.dropFault w.req).dropRequests w.req)
          (fun _ _ s => (s.dropFault w.req).dropRequests w.req) (fun _ s => s) s
      else s

/-- SNAPREQ_RETRY (R177): a transfer goes on. -/
def execSnapreqRetry (s : State) : Res := .next (s.moveStep s.ev.who)

/-- TRANSFER_DISCARD (R46): 2^27 cycles without a packet of the transfer. -/
def execTransferDiscard (s : State) : Res :=
  .next <| match s.arrivals.find? fun t => t.n = s.ev.who with
    | none => s
    | some t =>
      if t.since + 2 ^ 27 ≤ s.timer.toNat then
        let s := { s with arrivals := s.arrivals.filter fun (x : Transfer) => x.n ≠ t.n }
        if t.root = 0 then s else State.lowerNode 3 s t.root
      else s

/-! ### The model table (R160) -/

/-- The result of writing a model entry (R160, R183): 0 OK, 2 BADARG, 3 BUSY. -/
def State.modelResult (s : State) (m : Nat) (e : List Byte) : BitVec 4 :=
  let bad := rd e 0 2 != 0 && (decide (rd e 2 2 = 0 ∨ 4096 < rd e 2 2) || decide (rd e 4 2 = 0 ∨ rd e 6 2 < rd e 4 2) ||
    decide (1020 < rd e 6 2) || decide (15 < rd e 0xC 1) || rd e 0xD 1 / 128 != 0 || rd e 0xD 1 % 16 != 0 || rd e 0xE 2 != 0 ||
    rd e 0x10 8 % 4 != 0 || rd e 0x18 8 % 4 != 0 || rd e 0x20 8 % 65536 != 0 ||
    decide (0xFE000000000000 < rd e 0x20 8 + 0x80000) || (e.drop 0x28).any (· != 0))
  if bad then 2
  else if s.scbs.any fun x => scbState x.2 != 0 && scbModel x.2 == m then 3 else 0

/-- MODEL_ENTRY_WRITE (R160, R183). -/
def execModelEntryWrite (s : State) : Res :=
  let k := s.ev.who
  let result := fun (s : State) (r : BitVec 4) => s.modDie (dieOf k) fun d => { d with strmRes := r }
  .next <| match s.cmd? k 0x092 with
    | none => s
    | some v =>
      if bits v 63 62 ≠ 0 then (result s 2).finishCmd k
      else runCmd k (do
        let s ← get
        let e ← readMem (s.whoSlot k (.issue k)) (keepBits (v <<< 6) 55 6) 64 0
        let m := bits v 57 50
        modify fun s =>
          let r := s.modelResult m e
          let s := if r ≠ 0 then s else { s with models := if rd e 0 2 = 0 then s.models.del m else s.models.put m e }
          result s r) s

/-! ### The Cast unit (R196) -/

/-- CAST_INVALIDATE (R196): the oldest written frame of the die's queue taints its watching tasks and frees its watching
entries. -/
def execCastInvalidate (s : State) : Res :=
  let d := s.ev.who
  .next <| match (s.die d).inval with
    | [] => s
    | f :: rest =>
      let ws := s.watch.getD (f / 65536) []
      let s := s.modDie d fun x => { x with inval := rest }
      let s := { s with watch := s.watch.del (f / 65536) }
      ws.foldl (fun s w =>
        if w % 2 = 0 then s.modTask (w / 2) fun t => { t with taint := true } else s.castFree (w / 2)) s

end Sys2Proof.Machine
end

