-- ==== Sys2Proof/Machine/LinkDev.lean ====
section
/-! DEFINITION. Brynry packets that come in (R23–R35, R177, R178, R180): requests at their destination, responses, time-outs,
ports and credits. -/

namespace Sys2Proof.Machine

/-! ### Requests that have come in -/

def State.modIn (s : State) (n : Nat) (f : Inbound → Inbound) : State :=
  { s with inbox := s.inbox.map fun (e : Inbound) => if e.n = n then f e else e }
def State.dropIn (s : State) (n : Nat) : State := { s with inbox := s.inbox.filter fun (e : Inbound) => e.n ≠ n }

/-- The packet of an entry. -/
def Inbound.pkt (e : Inbound) : Packet := e.args.pkt

/-- The step's own request is forgotten: its faults and its questions to others. -/
def State.endIn (s : State) (n : Nat) : State := ((s.dropFault (.device n)).dropRequests (.device n)).dropIn n

/-- Adds one to the requests performed for a source die (R35). -/
def State.countPerformed (s : State) (die : Nat) (p : Packet) : State :=
  let key := Packet.src p * 4 + Packet.srcDie p
  s.modDie die fun d => { d with performed := d.performed.put key ((d.performed.getD key 0 + 1) % 2 ^ 48) }

/-- Answers a request, which is dealt with (R31) and counts as performed (R35). -/
def State.answerIn (s : State) (e : Inbound) (status : Byte) (fs : List (Nat × Nat × Nat)) (data : List Byte) : State :=
  let s := (s.endIn e.n).countPerformed e.args.who e.pkt
  s.sendLink e.args.who (Packet.reply e.pkt s.pkgid.toNat status fs data)

/-- A WRITE whose writes have all been performed counts as performed (R35). -/
def State.settleInbox (s : State) : State :=
  (s.inbox.filter fun (e : Inbound) => e.kind == 2 && e.stage == 1 && s.allPerformed e.n).foldl
    (fun s e => (s.endIn e.n).countPerformed e.args.who e.pkt) s

/-! ### Field limits (R29, R30, R32) -/

/-- The common header breaks a limit. -/
def headBad (p : Packet) : Bool :=
  p.head.length != 64 || p.data.length != 64 * Packet.len p || decide (64 < Packet.len p) || rd p.head 2 1 / 32 != 0 ||
    rd p.head 3 1 != 0 || decide (0xFFF < Packet.tag p) || rd p.head 0xC 4 != 0 || decide (2 ≤ Packet.cls p)

/-- The place of a MSG or STRAND is none. -/
def placeBad (p : Packet) : Bool :=
  decide (4 ≤ Packet.fld p 0x10 1 ∨ 40 ≤ Packet.fld p 0x11 1 ∨ 4 ≤ Packet.fld p 0x12 1)

/-- LEN does not fit BYTES, which may stand in the header flit. -/
def inlineLenBad (p : Packet) : Bool :=
  let n := Packet.fld p 0x18 4
  Packet.len p != (if n ≤ 32 then 0 else ceilDiv n 64)

/-- A request breaks a limit of R29 or R30 (R32). DESIGN CHOICE: the address of an AMO that is not aligned to its SIZE, for
which the table has no limit, counts as a broken one (log entry 50). -/
def requestBad (p : Packet) : Bool :=
  let n := Packet.fld p 0x18 4
  headBad p || match Packet.type p with
    | 1 => Packet.fld p 0x17 1 != 0 || decide (n = 0 ∨ 4096 < n) || Packet.len p != 0
    | 2 => Packet.fld p 0x17 1 != 0 || decide (n = 0 ∨ 4096 < n) || inlineLenBad p
    | 3 => Packet.fld p 0x17 1 != 0 || decide (11 < Packet.fld p 0x18 1) || decide (1 < Packet.fld p 0x19 1) || Packet.len p != 0 ||
        Packet.fld p 0x10 8 % (if Packet.fld p 0x19 1 = 0 then 4 else 8) != 0
    | 4 => placeBad p || decide (16 ≤ Packet.fld p 0x13 1) || decide (n < 8 ∨ 256 < n) || n % 8 != 0 || inlineLenBad p ||
        (decide (n ≤ 32) && (p.head.drop (0x20 + n)).any (· != 0))
    | 5 => placeBad p || decide (1 < Packet.fld p 0x13 1) || Packet.len p != (if Packet.fld p 0x13 1 = 0 then 2 else 10)
    | 6 => Packet.len p != 0
    | 7 => Packet.len p != 64 || Packet.fld p 0x18 4 % 4096 != 0 || decide (65536 ≤ Packet.fld p 0x18 4)
    | 8 => Packet.len p != 64 || Packet.fld p 0x20 8 % 4096 != 0 || decide (65536 ≤ Packet.fld p 0x20 8)
    | 9 => Packet.len p != 0 || Packet.fld p 0x16 2 != 0
    | _ => true

/-- The data of a WRITE or MSG. -/
def Packet.payload (p : Packet) : List Byte :=
  let n := Packet.fld p 0x18 4
  if n ≤ 32 then (p.head.drop 0x20).take n else p.data.take n

/-- The address of a request, and its tenant as an accessor (R30). -/
def Packet.va (p : Packet) : Dword := dw (Packet.fld p 0x10 8)
def Inbound.whoIs (e : Inbound) : Who := whoUnit e.args.who (Packet.tenant e.pkt) (.device e.n) e.n

/-- Unknown tenant, or an address outside the tenant's region (R31). DESIGN CHOICE: TENANT 0 names no tenant, so READ, WRITE, AMO
and the stream transfers are denied with it, while MSG and STRAND, which use no address space, pass (log entry 50). -/
def State.denied (s : State) (p : Packet) : Bool :=
  let known := (s.tenant? (Packet.tenant p)).isSome
  match Packet.type p with
  | 1 | 2 | 3 => !known || regionOf (Packet.va p) != .tenant
  | 6 | 7 => !known
  | 4 | 5 => Packet.tenant p != 0 && !known
  | _ => false

/-- What a packet names, which keeps the requests of one source to it in order (R27): lines, a core, or a stream. -/
def Packet.object (p : Packet) : Nat × Nat × Nat :=
  match Packet.type p with
  | 1 | 2 => (1, Packet.fld p 0x10 8 / 64, ceilDiv (Packet.fld p 0x10 8 % 64 + Packet.fld p 0x18 4) 64)
  | 3 => (1, Packet.fld p 0x10 8 / 64, 1)
  | 4 | 5 => (2, Packet.fld p 0x10 1 * 160 + Packet.fld p 0x11 1 * 4 + Packet.fld p 0x12 1, 1)
  | 6 | 7 => (3, Packet.fld p 0x10 4, 1)
  | 8 => (4, Packet.fld p 0x28 8 / 64, 64)
  | t => (t, 0, 0)

/-- An earlier request of the same source die to the same object is not yet dealt with (R27). -/
def State.inBlocked (s : State) (e : Inbound) : Bool :=
  (s.inbox.takeWhile fun (x : Inbound) => x.n != e.n).any fun x =>
    let a := Packet.object x.pkt
    let b := Packet.object e.pkt
    decide (x.kind < 9) && Packet.src x.pkt == Packet.src e.pkt && Packet.srcDie x.pkt == Packet.srcDie e.pkt && a.1 == b.1 &&
      rangesMeet a.2.1 a.2.2 b.2.1 b.2.2 && !(x.kind == 2 && x.stage == 1)

/-- Deals with a request as far as it can go (R26, R32). -/
def State.serveIn (s : State) (e : Inbound) (f : Inbound → M Unit) : State :=
  let p := e.pkt
  let refuse := fun (st : Byte) (s : State) =>
    if Packet.type p = 2 then
      let s := (s.endIn e.n).countPerformed e.args.who p
      if st = 4 then s.modDie e.args.who fun d => { d with linkErr := d.linkErr + 1 } else s
    else s.answerIn e st [] []
  if requestBad p then refuse 4 s
  else if s.denied p then refuse 1 s
  else if s.inBlocked e then s
  else runM (f e) (fun sub _ s => refuse (if 1 ≤ sub.toNat ∧ sub.toNat < 8 then sub else 2) s) (fun _ s => s) s

/-- The request that a step deals with: the waiting one that it names, or the packet that now arrives (log entry 26), which
leaves its receiving buffer (R25). A packet for another package goes on its way; a reserved TYPE is MALFORMED. -/
def State.packetIn (s : State) (kind : Nat) (f : Inbound → M Unit) : State :=
  let p := s.ev.pkt
  let s := s.settleInbox
  if s.ev.k ≠ 0 then
    match s.inbox.find? fun e => e.n = s.ev.k ∧ e.kind = kind with
    | some e => s.serveIn e f
    | none => s
  else if !s.rxRoom s.ev then s
  else if Packet.dst p ≠ s.pkgid.toNat then s.sendOn (StepArgs.rxDie s.ev) (some (StepArgs.link s.ev)) p
  else if Packet.cls p = 1 ∨ (Packet.type p ≠ kind ∧ 1 ≤ Packet.type p ∧ Packet.type p ≤ 9) then s
  else
    let e : Inbound := ⟨s.nextN, kind, { who := StepArgs.rxDie s.ev, pkt := p }, 0, [], []⟩
    { s.giveBack (some (StepArgs.link s.ev)) (Packet.flits p) with
      inbox := s.inbox ++ [e], nextN := s.nextN + 1 }.serveIn e f

/-- The answer of a step that has run to its end. -/
def answer (e : Inbound) (status : Byte) (fs : List (Nat × Nat × Nat)) (data : List Byte) : M Unit :=
  modify fun s => s.answerIn e status fs data

/-! ### READ, WRITE, AMO (R30, R35) -/

/-- The frame of an address has seen an uncorrectable soft error (R31, R77). -/
def State.poisoned (s : State) (pa : Nat) : Bool := (s.frameDesc (pa / 65536 * 65536)).poison

/-- Bytes at their homes, page by page; the data of a poisoned frame is answered POISON (R31). -/
def readHomes (w : Who) (acc : Nat) : Nat → Dword → Nat → M (List Byte)
  | 0, _, _ => pure []
  | fuel + 1, va, n => do
    if n = 0 then return []
    let k := chunkLen va n
    let p ← placeRead w va k acc 1
    let bs ← (match p with
      | .mem pa => (do
        let s ← get
        if s.poisoned pa then throw (.fatal 7 va)
        return s.readHome pa k)
      | p => readPlace w va p k : M (List Byte))
    let rest ← readHomes w acc fuel (va + dw k) (n - k)
    pure (bs ++ rest)

/-- READ_REQUEST (R30). -/
def execReadRequest (s : State) : Res :=
  .next <| s.packetIn 1 fun e => do
    let n := Packet.fld e.pkt 0x18 4
    let bs ← readHomes e.whoIs 0 (n / 4096 + 2) (Packet.va e.pkt) n
    answer e 0 [] bs

/-- WRITE_REQUEST (R30, R32): the request is performed once its writes are. -/
def execWriteRequest (s : State) : Res :=
  .next <| State.settleInbox <| s.packetIn 2 fun e => do
    if e.stage ≠ 0 then throw (.wait id)
    let ws ← writeMem e.whoIs (Packet.va e.pkt) (Packet.payload e.pkt) 1
    modify fun s => ((s.dropFault (.device e.n)).dropRequests (.device e.n)).modIn e.n fun x => { x with stage := 1, writes := ws }

/-- A read-modify-write at its home (R105), once its write may be performed there (R93, R98, R100). -/
def homeAtomic (w : Who) (pa size op : Nat) (x cmp : Nat) : M Nat := do
  homeTurn w.die pa size
  let s ← get
  let old := leNat (s.readHome pa size)
  set (s.performNow w.die w.uid (.bytes pa (leBytes size (atomicValue size op old x cmp)))).1
  pure old

/-- An incoming atomic whose page lies elsewhere (R76); `none` when a RED.ORD is refused there. -/
def farAtomic (w : Who) (p : Place) (va : Dword) (size op x cmp ticket : Nat) : M (Option Nat) := do
  match p with
  | .peer pkg =>
    let a ← askPeer w pkg 3 va [] [(0x10, 8, va.toNat), (0x18, 1, op), (0x19, 1, size / 8), (0x20, 8, x), (0x28, 8, cmp),
      (0x30, 8, ticket)] []
    if a.1 = 6 then pure none
    else
      let bs ← statusOk w a va
      pure (some (leNat (bs.take size)))
  | _ =>
    if size ≠ 8 ∨ (op ≠ 0 ∧ op ≠ 9) then throw (.fatal 2 va)
    let bs ← askHost w (if op = 9 then 0x102 else 0x103) va 8 (dw (if op = 9 then cmp else x)) (dw x)
    pure (some (leNat (bs.take 8)))

/-- AMO_REQUEST (R30, R107): a RED.ORD contribution is answered once it has folded, or REFUSED. -/
def execAmoRequest (s : State) : Res :=
  .next <| s.packetIn 3 fun e => do
    let p := e.pkt
    let w := e.whoIs
    let va := Packet.va p
    let op := Packet.fld p 0x18 1
    let size := if Packet.fld p 0x19 1 = 0 then 4 else 8
    let x := Packet.fld p 0x20 8
    let cmp := Packet.fld p 0x28 8
    let ticket := Packet.fld p 0x30 8
    let old := fun (v : Nat) => answer e 0 [(0x20, 8, v)] []
    if e.stage = 2 then old (leNat e.value)
    else if e.stage = 1 then
      let s ← get
      match s.redHeld.find? fun r => r.cmd = some e.n with
      | some r => set (State.redRelease r.addr 65 s)
      | none => throw (.wait id)
    else
      let pl ← placeWrite w va size 2
      match pl with
      | .mem pa =>
        let s ← get
        if s.poisoned pa then throw (.fatal 7 va)
        if op = 11 then
          let s ← get
          let r : RedHeld := { addr := pa, bank := redBank pa, die := w.die, size := size, ticket := ticket % 2 ^ 32
                               last := ticket / 2 ^ 32, x := dw x, stamp := (s.die w.die).view, who := none, cmd := some e.n }
          match (s.modIn e.n fun y => { y with stage := 1 }).redArrive r with
          | (s', true) => set s'
          | (s', false) => do
            set s'
            answer e 6 [] []
        else
          let v ← homeAtomic w pa size op x cmp
          old v
      | pl =>
        let r ← farAtomic w pl va size op x cmp ticket
        match r with
        | some v => old v
        | none => answer e 6 [] []

/-! ### MSG and STRAND (R363, R367) -/

/-- The core that a MSG or STRAND packet names. -/
def Packet.core (p : Packet) : Nat := Packet.fld p 0x10 1 * 160 + Packet.fld p 0x11 1 * 4 + Packet.fld p 0x12 1

/-- MSG_REQUEST (R30, R367). -/
def execMsgRequest (s : State) : Res :=
  .next <| s.packetIn 4 fun e => do
    let s ← get
    match s.forwarded (Packet.core e.pkt) with
    | none => throw (.wait id)
    | some c => match s.arriveMbox c (Packet.fld e.pkt 0x13 1) (Packet.payload e.pkt) with
      | some s' => set s'; answer e 0 [] []
      | none => answer e 6 [] []

/-- STRAND_REQUEST (R30, R363): the record enters the run queue, with the vector register of a MIGV (log entry 27). -/
def execStrandRequest (s : State) : Res :=
  .next <| s.packetIn 5 fun e => do
    let s ← get
    match s.forwarded (Packet.core e.pkt) with
    | none => throw (.wait id)
    | some c =>
      let r := recOfBytes (e.pkt.data.take 128) s.nextN (c / 4)
      let r := if Packet.fld e.pkt 0x13 1 = 1 then
          { r with vreg := some (BitVec.ofNat 3 (Packet.fld e.pkt 0x14 1), BitVec.ofNat 4096 (leNat ((e.pkt.data.drop 128).take 512))) }
        else r
      match { s with nextN := s.nextN + 1 }.pushRun c r with
      | some s' => set s'; answer e 0 [] []
      | none => answer e 6 [] []

/-! ### Stream transfers at the receiver (R177, R178) -/

/-- The transfer of a packet. -/
def State.arrival? (s : State) (p : Packet) : Option Transfer :=
  s.arrivals.find? fun t => t.peer == Packet.src p && t.id == Packet.fld p 0x10 4
def State.modArrival (s : State) (n : Nat) (f : Transfer → Transfer) : State :=
  { s with arrivals := s.arrivals.map fun (t : Transfer) => if t.n = n then f t else t }

/-- An empty node of a level for a tenant. -/
def State.newNode (s : State) (d level : Nat) (t : Half) : Option (State × Nat) :=
  (s.allocNode d).map fun pa =>
    ({ s with mem := [0, 1, 2, 3].foldl (fun m v => replaceMem m (viewKey v pa) 8192 []) s.mem }.modNode pa
      fun _ => ⟨1, level, false, t⟩, pa)

/-- The transfer of a packet, begun with an empty space if it is the first; `none` when the die keeps 64 or the pool is
empty. -/
def State.openArrival (s : State) (die : Nat) (p : Packet) : Option (State × Transfer) :=
  match s.arrival? p with
  | some t => let t := { t with since := s.timer.toNat }; some (s.modArrival t.n fun _ => t, t)
  | none =>
    if 64 ≤ (s.arrivals.filter fun (t : Transfer) => t.die == die).length then none
    else (s.newNode die 3 (Packet.tenant p)).map fun r =>
      let t : Transfer := ⟨r.1.nextN, die, Packet.src p, Packet.fld p 0x10 4, Packet.tenant p, r.2, [], 0, 0, [], s.timer.toNat⟩
      ({ r.1 with arrivals := r.1.arrivals ++ [t], nextN := r.1.nextN + 1 }, t)

/-- The level-0 entry of a page of a new space, with new nodes on the path. -/
def State.buildPath (va : Nat) (t : Half) (d : Nat) : Nat → State → Nat → Option (State × Nat)
  | 0, s, node => some (s, node + 8 * ptIndex va 0)
  | level + 1, s, node =>
    let slot := node + 8 * ptIndex va (level + 1)
    let e := s.entry slot
    if e.getLsbD 0 then State.buildPath va t d level s (bits e 39 13 * 8192)
    else match s.newNode d level t with
      | none => none
      | some (s, nd) => State.buildPath va t d level (s.setEntry slot (setBits 1 39 13 (nd / 8192))) nd

/-- A leaf of a new space: V, R and W (log entry 28), with its tier and frame. -/
def newLeaf (tier frame : Nat) : Dword := setBits (setBits 7 39 16 (frame / 65536)) 57 56 tier

/-- Puts a leaf where the transfer's space has the page; the frame that stood there goes. -/
def State.mapArrival (s : State) (t : Transfer) (page : Nat) (leaf : Dword) : Option State :=
  (State.buildPath (page * 65536) t.tenant t.die 3 s t.root).map fun r =>
    let old := r.1.entry r.2
    let u := r.1.setEntry r.2 leaf
    if leafV old && leafTier old == 0 then u.lowerFrame (leafFrame old) else u

/-- The frame of a tenant with a 128-bit hash; of several the lowest. -/
def State.frameWithHash (s : State) (t : Half) (h1 h2 : Dword) : Option Nat :=
  (List.find? (fun (e : Nat × FrameDesc) => e.2.hv && e.2.owner == t && e.2.hash1 == h1 && e.2.hash2 == h2 &&
    e.2.refcnt != 0xFFFFFFFF) s.frames).map (·.1 * 65536)

/-- Ends an unfinished transfer. -/
def State.dropArrival (s : State) (t : Transfer) : State :=
  State.lowerNode 3 { s with arrivals := s.arrivals.filter fun (x : Transfer) => x.n ≠ t.n } t.root

/-- SNAPREQ (R177, R178). -/
def execSnapreq (s : State) : Res :=
  .next <| s.packetIn 6 fun e => do
    let s ← get
    let p := e.pkt
    let h1 := dw (Packet.fld p 0x18 8)
    let h2 := dw (Packet.fld p 0x20 8)
    match s.openArrival e.args.who p with
    | none => answer e 6 [] []
    | some (s1, t) =>
      let have_ := if h1 = 0 ∧ h2 = 0 then none else s1.frameWithHash t.tenant h1 h2
      match have_ with
      | some f => match (s1.raiseFrame f).clearExclFrame f |>.mapArrival t (Packet.fld p 0x14 4) (newLeaf 0 f) with
        | some s2 => set s2; answer e 0 [(0x11, 1, 1)] []
        | none => answer e 6 [] []
      | none => match s1.mapArrival t (Packet.fld p 0x14 4) (newLeaf 3 0) with
        | some s2 => set s2; answer e 0 [(0x11, 1, 0)] []
        | none => answer e 6 [] []

/-- A part of a page enters its frame, which is allocated and zeroed at the first; `none` when the pool is empty, and
`false` when the page is shared. -/
def State.arrivalData (s : State) (t : Transfer) (page off : Nat) (bs : List Byte) : Option (State × Bool) :=
  match State.buildPath (page * 65536) t.tenant t.die 3 s t.root with
  | none => none
  | some (s, slot) =>
    let e := s.entry slot
    if leafV e && leafTier e == 0 then
      (if (s.frameDesc (leafFrame e)).refcnt = 1 then some (s.pokeAll (leafFrame e + off) bs, true) else some (s, false))
    else (s.allocFrame t.die).map fun f =>
      let s := { s with mem := [0, 1, 2, 3].foldl (fun m d => replaceMem m (viewKey d f) 65536 []) s.mem }
      let s := s.modFrame f fun _ => { FrameDesc.zero with refcnt := 1, gen := s.ckgen, owner := t.tenant }
      ((s.setEntry slot (newLeaf 0 f)).pokeAll (f + off) bs, true)

/-- The last SNAPDATA of a transfer (R178): the stream stands here under a new id, and the reply word goes to the sender. -/
def endArrival (e : Inbound) (t : Transfer) : M Unit := do
  let s ← get
  let reply := dw (rd e.pkt.data 0x100 8)
  let fail : M Unit := modify fun s => (s.dropArrival t).answerIn e 2 [] []
  match s.freeStream e.args.who with
  | none => fail
  | some id =>
    if reply ≠ noReply ∧ regionOf reply ≠ .tenant then fail
    else
      if reply ≠ noReply then tellPeer e.whoIs (Packet.src e.pkt) reply (leBytes 8 (2 ^ 63 + id))
      let r := wr (wr (wr (wr (wr (e.pkt.data.take 256) 0 4 id) 0x30 4 0xFFFFFFFF) 0x2C 4 0) 7 1 0) 8 8 t.root
      modify fun s => { s with
        scbs := s.scbs.put id (setState r 0), arrivals := s.arrivals.filter fun (x : Transfer) => x.n ≠ t.n }.settle id
      answer e 0 [] []

/-- The frame of a page of a transfer's space that a drain holds (R93). -/
def State.arrivalHeld (s : State) (t : Transfer) (page : Nat) : Option Nat :=
  (State.buildPath (page * 65536) t.tenant t.die 3 s t.root).bind fun r =>
    let e := r.1.entry r.2
    if leafV e && leafTier e == 0 && r.1.oldFrame (leafFrame e) then some (leafFrame e) else none

/-- SNAPDATA (R177, R178). -/
def execSnapdata (s : State) : Res :=
  .next <| s.packetIn 7 fun e => do
    let s ← get
    let p := e.pkt
    let page := Packet.fld p 0x14 4
    match (if page = 0xFFFFFFFF then s.openArrival e.args.who p else (s.arrival? p).bind fun _ => s.openArrival e.args.who p) with
    | none => answer e (if page = 0xFFFFFFFF then 6 else 2) [] []
    | some (s1, t) =>
      if page = 0xFFFFFFFF then
        set s1
        endArrival e t
      else
        match s1.arrivalHeld t page with
        | some f => throw (.wait fun u => u.beginSide f)
        | none => match s1.arrivalData t page (Packet.fld p 0x18 4) p.data with
          | none => answer e 6 [] []
          | some (s2, ok) => set s2; answer e (if ok then 0 else 2) [] []

/-! ### CKPT and FENCE at their destination (R35, R180) -/

/-- CKPT_PACKET_RECEIVE (R180): the bytes are stored once their writes have been performed. -/
def execCkptPacketReceive (s : State) : Res :=
  .next <| s.packetIn 8 fun e => do
    let s ← get
    let a := Packet.fld e.pkt 0x28 8
    let base := bits s.ckrecv 47 4 * 4096
    if !s.ckrecv.msb then answer e 3 [] []
    else if a < base ∨ base + bits s.ckrecv 62 48 * 2 ^ 30 < a + 4096 then answer e 1 [] []
    else if e.stage = 0 then
      let _ ← writeMem { e.whoIs with tenant := 0 } (dw a) e.pkt.data 5
      modify fun s => ((s.dropFault (.device e.n)).dropRequests (.device e.n)).modIn e.n fun x => { x with stage := 1 }
    else if s.allPerformed e.n then answer e 0 [] []
    else throw (.wait id)

/-- FENCE_PACKET (R35). -/
def execFencePacket (s : State) : Res :=
  .next <| s.packetIn 9 fun e => do
    let s ← get
    let key := Packet.src e.pkt * 4 + Packet.srcDie e.pkt
    let done := ([0, 1, 2, 3].map fun d => (s.die d).performed.getD key 0).sum
    if (done + 2 ^ 48 - Packet.fld e.pkt 0x10 6) % 2 ^ 48 < 2 ^ 47 then answer e 0 [] []
    else throw (.wait id)

/-! ### Responses (R32, R33) -/

/-- The LEN that a response has (R30). -/
def responseLen (r : Request) : Nat := if r.opc = 1 then ceilDiv (rd r.bytes 8 4) 64 else 0

/-- The request has not yet left (R33). -/
def State.unsent (s : State) (r : Request) : Bool :=
  s.egress.any fun e => e.link.isNone && Packet.cls e.pkt == 0 && Packet.type e.pkt != 2 && Packet.srcDie e.pkt == r.die &&
    Packet.tag e.pkt == r.tag

/-- No response has come 2^27 cycles after the request left (R33). -/
def State.timedOut (s : State) (r : Request) : Bool := !s.unsent r && decide (r.since + 2 ^ 27 ≤ s.timer.toNat)

/-- Bytes 0x11–0x3F of a response but for those that R30 names. -/
def responseRest (p : Packet) : List Byte :=
  match Packet.type p with
  | 3 => (p.head.drop 0x11).take 15 ++ p.head.drop 0x28
  | 6 => p.head.drop 0x12
  | _ => p.head.drop 0x11

/-- A transfer whose request has its answer goes on. -/
def State.moveOfTag (s : State) (die tag : Nat) : State :=
  (s.moves.filter fun (t : Transfer) => t.die == die && t.tags.contains tag).foldl (fun s t => s.moveStep t.n) s

/-- RESPONSE_RECEIVE (R31–R33): it leaves its receiving buffer; an unknown TAG or a broken limit discards it, a reserved STATUS is
MALFORMED, and one that comes after the time of R33 finds its TAG retired. The TAG is one of the die that the response names as
its request's source die. -/
def execResponseReceive (s : State) : Res :=
  let p := s.ev.pkt
  let die := Packet.srcDie p
  let link := some (StepArgs.link s.ev)
  .next <| if !s.rxRoom s.ev then s
    else if Packet.dst p ≠ s.pkgid.toNat then s.sendOn (StepArgs.rxDie s.ev) link p
    else
      let s := s.giveBack link (Packet.flits p)
      if Packet.cls p ≠ 1 || headBad p || (responseRest p).any (· != 0) then s
      else match s.requests.find? fun r => r.die = die ∧ r.tag = Packet.tag p ∧ r.answer.isNone ∧ r.opc = Packet.type p with
        | none => s
        | some r =>
          let st := p.head.getD 0x10 0
          let st := if 8 ≤ st.toNat then 4 else st
          if s.timedOut r then (s.answerRequest die r.tag 5 []).moveOfTag die r.tag
          else if Packet.len p ≠ responseLen r then s
          else (s.answerRequest die r.tag st (Packet.result p)).moveOfTag die r.tag

/-- RESPONSE_TIMEOUT (R33). -/
def execResponseTimeout (s : State) : Res :=
  let die := s.ev.who
  .next <| if s.requests.any fun r => decide (r.die = die ∧ r.tag = s.ev.n ∧ r.answer.isNone ∧ r.dst < 65536) && s.timedOut r then
      (s.answerRequest die s.ev.n 5 []).moveOfTag die s.ev.n
    else s

/-! ### Routing, ports and credits (R23–R28) -/

/-- PACKET_FORWARD (R23, R25): a packet for another package waits in its receiving buffer until its next port has credits. One
for this package is no packet to forward: the step of its type takes it, with the checks of R32. -/
def execPacketForward (s : State) : Res :=
  .next <| if s.rxRoom s.ev && Packet.dst s.ev.pkt != s.pkgid.toNat then
      s.sendOn (StepArgs.rxDie s.ev) (some (StepArgs.link s.ev)) s.ev.pkt
    else s

/-- A port changes its service, and its group waits for the neighbour's report (R28). -/
def State.drainGroup (s : State) (d : Nat) : State :=
  { s with draining := if s.draining.contains d then s.draining else s.draining ++ [d] }

/-- PORT_LEAVE_SERVICE (R28): after eight failures of one flit in a row, or training lost for 1 ms, the LINKUP bit clears, and the
group waits for the neighbour's report. -/
def execPortLeaveService (s : State) : Res :=
  let d := s.ev.who % 8
  let i := 8 * d + s.ev.n % 8
  .next <| if s.linkup.getLsbD i && (s.ev.flag || decide (8 ≤ s.crcFails.getD i 0)) then
      { s with linkup := s.linkup &&& ~~~ BitVec.twoPow 64 i, crcFails := s.crcFails.del i }.drainGroup d
    else s

/-- PORT_REJOIN (R28): the retrained port is in service with empty buffers, and its group waits for the same report. -/
def execPortRejoin (s : State) : Res :=
  let d := s.ev.who % 8
  let o := s.ev.n % 8
  .next <| if s.linkup.getLsbD (8 * d + o) then s
    else
      { s with linkup := s.linkup ||| BitVec.twoPow 64 (8 * d + o)
               crcFails := s.crcFails.del (8 * d + o)
               credits := (List.range 4).foldl (fun t v => t.del (creditKey d o v)) s.credits }.drainGroup d

/-- NEIGHBOUR_DRAIN_REPORT (R28). -/
def execNeighbourDrainReport (s : State) : Res :=
  .next { s with draining := s.draining.filter (· ≠ s.ev.who % 8) }.flushLinks

/-- CREDIT_RETURN (R25): the receiver returns credits of a virtual channel. -/
def execCreditReturn (s : State) : Res :=
  let key := creditKey (s.ev.who % 8) (s.ev.n % 8) (s.ev.m % 4)
  .next { s with credits := s.credits.put key (s.credits.getD key 0 - s.ev.k) }.flushLinks

/-- FLIT_REPLAY (R28): a flit that fails its CRC is sent again from the replay buffer; the failures of one flit in a row are
counted. -/
def execFlitReplay (s : State) : Res :=
  let i := 8 * (s.ev.who % 8) + s.ev.n % 8
  .next { s with crcFails := s.crcFails.put i (if s.ev.flag then s.crcFails.getD i 0 + 1 else 1) }

end Sys2Proof.Machine
end

