-- ==== Sys2Proof/Machine/EtherDev.lean ====
section
/-! DEFINITION. RoCE messages that come in (R38–R42), system-call replies (R59), and page ownership (R60–R62). -/

namespace Sys2Proof.Machine

/-! ### Messages that have come in -/

/-- The tenant of an open queue pair that is bound (R39, R43). -/
def State.qpTenant (s : State) (q : Nat) : Option Half :=
  if (s.qp q).opened && (s.qp q).tenant != 0 && decide (q < 4096) then some (s.qp q).tenant else none


/-- A frame is dropped and counted (R39, R59). -/
def State.dropFrame (s : State) (q : Nat) : State := s.modDie (qpDie q) fun d => { d with drops := d.drops + 1 }

/-- The entry is a RoCE message. -/
def Inbound.roce (e : Inbound) : Bool := decide (0x20 ≤ e.kind ∧ e.kind < 0x30)

/-- Bytes that an incoming message carries, there or back. -/
def inSize (kind : Nat) (a : StepArgs) : Nat := if kind = 0x22 then a.m else a.bs.length

/-- The number of the last packet of a message that came in on a queue pair (R38). -/
def State.lastPsn (s : State) (kind : Nat) (a : StepArgs) : Nat :=
  (a.psn + mtuPackets (s.qp a.who).mtu (inSize kind a) - 1) % 2 ^ 24

/-- A message is dealt with: an acknowledgement or response (status 0), or 1 + the code of a NAK. The answers of the last 16
atomics are kept (R38). -/
def State.ackIn (s : State) (e : Inbound) (status : Byte) (bs : List Byte) : State :=
  let q := e.args.who
  let n := s.lastPsn e.kind e.args
  let s := if status = 0 ∧ 0x23 ≤ e.kind then s.modQp q fun x => { x with done := (n, bs) :: x.done.take 15 } else s
  (s.endIn e.n).emitRoce q (.rdmaAnswer q n status bs)

/-- Deals with a message of a queue pair, one after another in the order received (R41). An access that ends FATAL is
answered with a remote operational error. -/
def State.serveRoce (s : State) (e : Inbound) (f : Inbound → Half → M Unit) : State :=
  match s.inbox.find? fun x => x.roce && x.args.who == e.args.who with
  | some h =>
    if h.n ≠ e.n then s
    else match s.qpTenant e.args.who with
      | none => (s.endIn e.n).dropFrame e.args.who
      | some t => runM (f e t) (fun _ _ s => s.ackIn e 4 []) (fun _ s => s) s
  | none => s

/-- RDMA READs and atomics of a queue pair that have come in and are not answered. -/
def State.readsIn (s : State) (q : Nat) : Nat := (s.inbox.filter fun e => e.args.who == q && decide (0x22 ≤ e.kind ∧ e.kind ≤ 0x24)).length

/-- A message up to packet n comes before message n, or is it, in the order of 24-bit numbers. -/
def psnUpTo (n p : Nat) : Bool := decide ((n + 2 ^ 24 - p) % 2 ^ 24 < 2 ^ 23)

/-- The queue pair of the message that arrives expects the next one. -/
def State.expectNext (s : State) (kind : Nat) : State :=
  s.modQp s.ev.who fun x => { x with epsn := (s.lastPsn kind s.ev + 1) % 2 ^ 24, nakked := false }

/-- A message that has come before comes again (R38): an RDMA READ is made again, an atomic has the answer that it had, and
another message that has been dealt with is acknowledged again (PRESUMED, log entry 35). -/
def State.roceAgain (s : State) (kind : Nat) (f : Inbound → Half → M Unit) : State :=
  let q := s.ev.who
  let n := s.lastPsn kind s.ev
  if s.inbox.any fun e => e.roce && e.args.who == q && e.args.psn == s.ev.psn then s
  else if kind = 0x22 then
    let e : Inbound := ⟨s.nextN, kind, s.ev, 0, [], []⟩
    { s with inbox := s.inbox ++ [e], nextN := s.nextN + 1 }.serveRoce e f
  else if kind < 0x22 then s.emitRoce q (.rdmaAnswer q n 0 [])
  else match (s.qp q).done.find? fun x => x.1 == n with
    | some x => s.emitRoce q (.rdmaAnswer q n 0 x.2)
    | none => s

/-- The message that a step deals with: the waiting one that it names, or the one that now arrives; `flag` is its congestion
mark, which a notification answers (R38), and `psn` the number of its first packet. A message is taken in the order of its
queue pair's numbers: one that has come before is not performed again, and one that comes too early is dropped, and the loss
reported once as a sequence error (go-back-N). The immediate of a SEND or WRITE has no use in the device. A 17th outstanding READ
or atomic is answered with an invalid request NAK (log entry 35). -/
def State.roceIn (s : State) (kind : Nat) (f : Inbound → Half → M Unit) : State :=
  if s.ev.k ≠ 0 then
    match s.inbox.find? fun e => e.n = s.ev.k ∧ e.kind = kind with
    | some e => s.serveRoce e f
    | none => s
  else match s.qpTenant s.ev.who with
    | none => s.dropFrame s.ev.who
    | some _ =>
      let q := s.ev.who
      let s := if s.ev.flag then s.emitRoce q (.cnp q) else s
      let x := s.qp q
      if s.ev.psn % 2 ^ 24 ≠ x.epsn then
        if psnUpTo x.epsn (s.ev.psn % 2 ^ 24) then s.roceAgain kind f
        else if x.nakked then s
        else (s.emitRoce q (.rdmaAnswer q x.epsn 1 [])).modQp q fun x => { x with nakked := true }
      else if 0x22 ≤ kind ∧ kind ≤ 0x24 ∧ 16 ≤ s.readsIn q then s.emitRoce q (.rdmaAnswer q (s.lastPsn kind s.ev) 2 [])
      else
        let e : Inbound := ⟨s.nextN, kind, s.ev, 0, [], []⟩
        { s.expectNext kind with inbox := s.inbox ++ [e], nextN := s.nextN + 1 }.serveRoce e f

/-- The message is dealt with. -/
def ack (e : Inbound) (status : Byte) (bs : List Byte) : M Unit := modify (·.ackIn e status bs)

/-! ### RDMA WRITE, READ and atomics (R40, R41) -/

/-- The message as an accessor: the die of its port, and the tenant of its queue pair. -/
def Inbound.rdma (e : Inbound) (t : Half) : Who := whoUnit (qpDie e.args.who) t (.device e.n) e.n

/-- The access lies in the region of its key, which grants the right and is of the queue pair's tenant (R40). -/
def State.keyOk (s : State) (key : Nat) (t : Half) (va : Dword) (n : Nat) (right : RemoteKey → Bool) : Bool :=
  match s.rkeys.find? key with
  | some r => r.tenant == t && inside va.toNat n r.base.toNat r.len.toNat && right r
  | none => false

/-- The landing frame of a page, which RDMA writes on the tenant's system queue pair reach (R61). -/
def State.landingFrame (s : State) (q : Nat) (t : Half) (va : Dword) : Option Nat :=
  if s.sysQp t != q then none
  else (s.pages.find? fun p => p.tenant == t && p.asked && p.frame != 0 && p.va.toNat / 65536 == va.toNat / 65536).map (·.frame)

/-- Writes one line (R41). -/
def writeLine (q : Nat) (w : Who) (va : Dword) (bs : List Byte) : M Unit := do
  let s ← get
  match s.landingFrame q w.tenant va with
  | some f => let _ ← writePlace w va (.mem (f + va.toNat % 65536)) bs
  | none =>
    let p ← placeWrite w va bs.length 6
    let _ ← writePlace w va p bs

/-- RDMA_WRITE (R40, R41): its lines are written in ascending order, one in a step, and it is acknowledged once they have been
performed. -/
def execRdmaWrite (s : State) : Res :=
  .next <| s.roceIn 0x21 fun e t => do
    let s ← get
    let va := e.args.a
    let bs := e.args.bs.drop e.stage
    if e.args.bs = [] ∨ 2 ^ 30 < e.args.bs.length then ack e 2 []
    else if e.stage = 0 ∧ !s.keyOk e.args.n t va e.args.bs.length (·.write) then ack e 3 []
    else if bs = [] then (if s.allPerformed e.n then ack e 0 [] else throw (.wait id))
    else
      let va := va + dw e.stage
      let k := min bs.length (64 - va.toNat % 64)
      writeLine e.args.who (e.rdma t) va (bs.take k)
      modify fun s => ((s.dropFault (.device e.n)).dropRequests (.device e.n)).modIn e.n fun x => { x with stage := x.stage + k }

/-- RDMA_READ (R38, R40). -/
def execRdmaRead (s : State) : Res :=
  .next <| s.roceIn 0x22 fun e t => do
    let s ← get
    let n := e.args.m
    if n = 0 ∨ 2 ^ 30 < n then ack e 2 []
    else if !s.keyOk e.args.n t e.args.a n (·.read) then ack e 3 []
    else
      let bs ← readHomes (e.rdma t) 6 (n / 4096 + 2) e.args.a n
      ack e 0 bs

/-- An 8-byte atomic of the host at its home bank (R38): the old value. -/
def roceAtomic (e : Inbound) (t : Half) (op x cmp : Nat) : M Unit := do
  let s ← get
  let va := e.args.a
  if va.toNat % 8 ≠ 0 then ack e 2 []
  else if !s.keyOk e.args.n t va 8 (·.atomic) then ack e 3 []
  else
    let w := e.rdma t
    let p ← placeWrite w va 8 6
    match p with
    | .mem pa =>
      let v ← homeAtomic w pa 8 op x cmp
      ack e 0 (leBytes 8 v)
    | p =>
      let r ← farAtomic w p va 8 op x cmp 0
      ack e 0 (leBytes 8 (r.getD 0))

/-- ROCE_CAS (R38). -/
def execRoceCas (s : State) : Res := .next <| s.roceIn 0x23 fun e t => roceAtomic e t 9 e.args.c.toNat e.args.b.toNat
/-- ROCE_FETCH_ADD (R38). -/
def execRoceFetchAdd (s : State) : Res := .next <| s.roceIn 0x24 fun e t => roceAtomic e t 0 e.args.b.toNat 0

/-! ### Acknowledgements, retransmission and congestion (R38, R42) -/

/-- The host's answer to a request of this package, or the end of a write (R103). -/
def State.answerHost (s : State) (die tag : Nat) (status : Byte) (data : List Byte) : State :=
  { s with requests := (s.requests.filter fun (r : Request) => !(r.die == die && r.tag == tag && r.opc == 0x104)).map fun r =>
      if r.die = die ∧ r.tag = tag ∧ r.answer.isNone ∧ r.dst = 0x10000 then { r with answer := some (status, data) } else r }


/-- Bytes that a response must have. -/
def Out.responseLen : Out → Nat
  | .rdmaRead _ _ _ n => n
  | .rdmaAtomic .. => 8
  | _ => 0

/-- Sends the messages of a queue pair from packet n on again (R38). -/
def State.resend (s : State) (q n : Nat) : State :=
  ((s.qp q).pend.filter fun p => p.1 == n || !psnUpTo n p.1).foldl (fun s p => s.emitRoce q p.2.2.2) s

/-- Messages up to packet n that carry no response are acknowledged. -/
def State.ackUpTo (s : State) (q n : Nat) : State :=
  let done := (s.qp q).pend.filter fun p => psnUpTo n p.1 && !p.2.2.2.reads
  let s := s.modQp q fun x => { x with
    pend := x.pend.filter fun p => !(psnUpTo n p.1 && !p.2.2.2.reads)
    tries := if done.isEmpty then x.tries else 0
    since := if done.isEmpty then x.since else s.timer.toNat }
  done.foldl (fun s p => s.answerHost p.2.1 p.2.2.1 0 []) s

/-- A message of a queue pair ends with a STATUS that the spec does not give (log entry 29). -/
def State.endMessage (s : State) (p : Nat × Nat × Nat × Out) : State :=
  let r := s.free
  r.1.answerHost p.2.1 p.2.2.1 (BitVec.ofNat 8 (1 + r.2.toNat % 7)) []

/-- The retries of a queue pair are used up (R38): it sends no more, and what it has not had acknowledged ends (PRESUMED, log entry
35). -/
def State.failQp (s : State) (q : Nat) : State :=
  (s.qp q).pend.foldl State.endMessage (s.modQp q fun x => { x with opened := false, pend := [], wait := [], tries := 0 })

/-- ROCE_ACK_RECEIVE (R38): an acknowledgement of all up to a number, a response, or a NAK, whose code 0 is a sequence error;
another NAK ends the message, with a STATUS that the spec does not give (log entry 29). -/
def execRoceAckReceive (s : State) : Res :=
  let q := s.ev.who
  let n := s.ev.n
  .next <| if (s.qpTenant q).isNone then s.dropFrame q
    else
      let head := (s.qp q).pend.find? fun p => p.1 == n
      if s.ev.flag then
        let s := s.ackUpTo q ((n + 2 ^ 24 - 1) % 2 ^ 24)
        if s.ev.bs.getD 0 0 = 0 then s.resend q n
        else match head with
          | none => s
          | some p => (s.modQp q fun x => { x with pend := x.pend.filter fun p => p.1 != n }).endMessage p
      else
        let s := s.ackUpTo q n
        match head with
        | none => s
        | some p =>
          if p.2.2.2.reads && p.2.2.2.responseLen == s.ev.bs.length then
            (s.modQp q fun x => { x with
              pend := x.pend.filter fun p => p.1 != n, tries := 0, since := s.timer.toNat }).answerHost p.2.1 p.2.2.1 0 s.ev.bs
          else s

/-- ROCE_RETRANSMIT (R38): go-back-N, once the queue pair's timeout has passed, as often as its retry count allows. -/
def execRoceRetransmit (s : State) : Res :=
  let q := s.ev.who
  let x := s.qp q
  .next <| match x.pend with
    | [] => s
    | p :: _ =>
      if !x.opened || decide (s.timer.toNat < x.since + x.timeout) then s
      else if x.retries ≤ x.tries then s.failQp q
      else (s.resend q p.1).modQp q fun x => { x with tries := x.tries + 1, since := s.timer.toNat }

/-- CNP_RECEIVE (R42): halves the rate, at most once in 50 µs. -/
def execCnpReceive (s : State) : Res :=
  let q := s.ev.who
  .next <| if (s.qpTenant q).isNone then s.dropFrame q
    else s.modQp q fun x =>
      let may := match x.lastCut with
        | none => true
        | some c => decide (c + 65000 ≤ s.timer.toNat)
      if may then { x with rate := x.rate / 2, lastCut := some s.timer.toNat, lastCnp := s.timer.toNat }
      else { x with lastCnp := s.timer.toNat }

/-- RATE_RECOVER (R42): 55 µs without a notification. -/
def execRateRecover (s : State) : Res :=
  let q := s.ev.who
  .next <| if (s.qp q).opened ∧ (s.qp q).rate < 1 ∧ (s.qp q).lastCnp + 71500 ≤ s.timer.toNat then
      s.modQp q fun x => { x with rate := min 1 (x.rate + 1 / 20), lastCnp := s.timer.toNat }
    else s

/-- The frames that a queue pair holds leave, if the host has not closed it meanwhile (R18). -/
def State.flushQp (s : State) (q : Nat) : State :=
  let t := s.modQp q fun x => { x with wait := [] }
  if (s.qp q).opened then (s.qp q).wait.foldl State.emit t else t

/-- PFC_PAUSE_FRAME (R38): a priority of a port, one of at most two, pauses or goes on sending what its queue pairs hold. -/
def execPfcPauseFrame (s : State) : Res :=
  let x := (s.ev.who % 4, s.ev.n)
  .next <| if !s.ev.flag then
      ((s.qps.filter fun (e : Nat × QueuePair) => decide ((qpDie e.1, e.2.prio) = x)).map (·.1)).foldl State.flushQp
        { s with pause := s.pause.filter (· ≠ x) }
    else if s.pause.contains x || decide (7 < s.ev.n ∨ 2 ≤ (s.pause.filter fun p => p.1 = x.1).length) then s
    else { s with pause := s.pause ++ [x] }

/-! ### SYSREPLY (R59) -/

/-- A frame of a system queue pair that is dropped and counted, but acknowledged on the wire. -/
def dropSend (e : Inbound) : M Unit := do
  modify (·.dropFrame e.args.who)
  ack e 0 []

/-- A launch that has been aborted (R59). -/
def State.launchGone (s : State) (n : Option Nat) : Bool :=
  match n with
  | none => false
  | some n => match s.launches.find? fun l => l.n = n with
    | some l => l.aborted
    | none => false

/-- SYSREPLY at the die that its TAG names (R59). -/
def sysreply (e : Inbound) : M Unit := do
  let s ← get
  let bs := e.args.bs
  let tag := rd bs 4 4
  let d := tag / 256 % 4
  let i := tag % 256
  match (s.die d).sysc.find? i with
  | none => dropSend e
  | some x =>
    if bs.length ≠ 16 ∨ rd bs 1 3 ≠ 0 ∨ !x.busy ∨ x.gen.toNat ≠ tag / 1024 then dropSend e
    else
      let s := s.modDie d fun y => { y with sysc := y.sysc.put i { x with busy := false } }
      if s.launchGone x.launch then
        set s
        dropSend e
      else
        set (if x.slot < 5120 then s.deliverFill x.slot x.reg (dw (rd bs 8 8)) true else s)
        ack e 0 []

/-! ### Pages (R60–R62) -/

/-- Pages of a request: bit 0 marks 2 MiB. -/
def pageCount (va : Nat) : Nat := if va % 2 = 1 then 32 else 1

/-- A PAGEREQ or PAGEREP whose length, zero bytes or address break R58. -/
def pageMsgBad (bs : List Byte) : Bool :=
  let va := rd bs 8 8
  bs.length != 16 || rd bs 2 2 != 0 || decide (2 ^ 56 ≤ va) || (va / 2 * 2) % (65536 * pageCount va) != 0 ||
    (if rd bs 0 1 = 3 then rd bs 1 1 != 0 else decide (1 < rd bs 1 1))

/-- A PAGEREP (R58). -/
def pagerep (result : Byte) (bs : List Byte) : List Byte := [4, result, 0, 0] ++ (bs.drop 4).take 12

def State.dropPage (s : State) (p : PageState) : State := { s with pages := s.pages.filter fun (x : PageState) => x ≠ p }

/-- The leaf of a page becomes `f` of itself on a path of the space's own (R80), and its translations go (TLBINV). -/
def State.rewriteLeaf (s : State) (t : Half) (va : Nat) (f : Dword → Dword) : Option State :=
  match s.slotWalk (.tenant t) va with
  | (s, .slot pa _) => some ((s.setEntry pa (f (s.entry pa))).tlbDrop ((s.rootOf (.tenant t)).getD 0) va)
  | _ => none

/-- The entry of a page as a walk finds it, valid or not. -/
def State.pageEntry (s : State) (t : Half) (va : Nat) : Dword :=
  match s.walk (.tenant t) va with
  | .leaf _ e _ => e
  | .fault _ _ e => e

/-- The device may give a page: no other path leads to it (R81), and nothing pins it or keeps it (R60, R90). DESIGN CHOICE: a page
of a contiguity run, and one whose size is not the message's, stays (log entry 57). -/
def State.mayGrant (s : State) (t : Half) (va : Nat) (big : Bool) : Bool :=
  match s.walk (.tenant t) va with
  | .leaf _ e excl =>
    let fd := s.frameDesc (leafFrame e)
    excl && !leafPerm e 8 && leafPerm e 10 == big && !leafPerm e 11 && fd.pincnt == 0 && !fd.lq &&
      !(s.drain.isSome && decide (fd.gen.toNat < s.ckgen.toNat))
  | .fault .. => false

/-- The host holds the page: HOST = 1 and V = 0 (R61). -/
def hostLeaf (e : Dword) : Dword := setBits (setBits (setBits (setBits e 57 56 0) 39 16 0) 8 8 1) 0 0 0

/-- Grants one page to the host (R61): its contents leave, and the leaf, the translations and the frame go. -/
def grantPage (q : Nat) (t : Half) (va : Nat) : M Unit := do
  let s ← get
  let f := leafFrame (s.pageEntry t va)
  if !s.frameQuiet f then throw (.wait id)
  let s := s.sendRoce q 0 4096 (.rdmaWrite q (dw va) (s.readHome f 65536))
  match s.rewriteLeaf t va hostLeaf with
  | none => throw (.wait id)
  | some s => set (s.lowerFrame f)

/-- The leaf of a page that stays with the host in a crossing (R62): mapped to the host tier. -/
def remoteLeaf (e : Dword) : Dword :=
  setBits (setBits (setBits (setBits (setBits e 57 56 2) 39 16 0) 11 10 0) 8 8 1) 2 0 7

/-- The landing frame of a page goes (R61). -/
def State.freeLanding (s : State) (p : PageState) : State :=
  if p.frame = 0 then s else s.unpinFrame p.frame

/-- The faults on a page whose settle time runs are answered REMOTE (R62). -/
def State.settleFaults (s : State) (t : Half) (va : Nat) : State :=
  (s.faults.filter fun (f : FaultRec) => f.tenant == t && f.va.toNat / 65536 == va / 65536 && f.tag.isSome && f.verdict.isNone).foldl
    (fun s f => s.setVerdict f .remote) s

/-- PAGEREQ of the host (R60–R62). A crossing waits until the page can be mapped remote. DESIGN CHOICE: a malformed one is
acknowledged, dropped and counted, as R59 has it for a SYSREPLY (log entry 57). -/
def hostPagereq (e : Inbound) (t : Half) : M Unit := do
  let s ← get
  let bs := e.args.bs
  let q := e.args.who
  let va := rd bs 8 8 / 2 * 2
  let reply := fun (r : Byte) (s : State) => s.sendRoce q 0 4096 (.frame q (pagerep r bs))
  if pageMsgBad bs then dropSend e
  else
    match s.pageState t va with
    | some p =>
      if !p.asked then
        set (reply 1 s)
        ack e 0 []
      else
        match ((s.freeLanding p).dropPage p).rewriteLeaf t va remoteLeaf with
        | none => throw (.wait id)
        | some s =>
          let p : PageState := ⟨t, dw (va / 65536 * 65536), 0, false, s.timer.toNat + 1300000⟩
          set (reply 0 ({ s with pages := s.pages ++ [p] }.settleFaults t va))
          ack e 0 []
    | none =>
      let big := rd bs 8 8 % 2 == 1
      let pages := (List.range (pageCount (rd bs 8 8))).map fun i => va + i * 65536
      if pages.all fun a => s.mayGrant t a big then
        for a in pages do grantPage q t a
        modify (reply 0)
        ack e 0 []
      else
        set (reply 1 s)
        ack e 0 []

/-- PAGEREP of the host (R61). DESIGN CHOICE: a malformed one, and one for a page that is not asked for, is acknowledged and
dropped, and counted as R59 has it for a SYSREPLY; a leaf that allows nothing is given R and W (log entry 57). -/
def hostPagerep (e : Inbound) (t : Half) : M Unit := do
  let s ← get
  let bs := e.args.bs
  let va := rd bs 8 8 / 2 * 2
  if pageMsgBad bs then dropSend e
  else match s.pageState t va with
    | none => dropSend e
    | some p =>
      if !p.asked then dropSend e
      else if rd bs 1 1 = 1 then
        set ((s.freeLanding p).dropPage p)
        ack e 0 []
      else
        let leaf := fun (x : Dword) =>
          let x := setBits (setBits (setBits (setBits (setBits x 57 56 0) 39 16 (p.frame / 65536)) 11 10 0) 8 8 0) 0 0 1
          if bits x 3 1 = 0 then setBits x 2 1 3 else x
        match s.rewriteLeaf t va leaf with
        | none => throw (.wait id)
        | some s =>
          let s := ((s.modFrame p.frame fun f => { f with refcnt := 1, pincnt := 0 }).dropPage p).noteHash (s.pageEntry t va)
          set ((s.faults.filter fun (f : FaultRec) => f.tenant == t && f.kind == kHostPage && f.va.toNat / 65536 == va / 65536 &&
            f.verdict.isNone).foldl (fun s f => s.setVerdict f .retry) s)
          ack e 0 []

/-- A SEND on a tenant's system queue pair (R58); one of another TYPE, or on another queue pair, is dropped and counted. -/
def deliverSend (e : Inbound) (t : Half) (types : List Nat) : M Unit := do
  let s ← get
  let ty := rd e.args.bs 0 1
  if s.sysQp t ≠ e.args.who ∨ !types.contains ty then dropSend e
  else if ty = 2 then sysreply e
  else if ty = 3 then hostPagereq e t
  else hostPagerep e t

/-- ROCE_SEND_RECEIVE (R38, R58). -/
def execRoceSendReceive (s : State) : Res := .next <| s.roceIn 0x20 fun e t => deliverSend e t [2, 3, 4]

/-- SYSREPLY (R59). -/
def execSysreply (s : State) : Res := .next <| s.roceIn 0x20 fun e t => deliverSend e t [2]

/-- The device asks for the page of its oldest fault on a host-held page (R60, R61, R88): a landing frame and a PAGEREQ. -/
def State.ownPagereq (s : State) : State :=
  match s.faults.find? fun f => f.kind = kHostPage ∧ f.tag.isSome ∧ f.verdict.isNone ∧
      (s.pageState f.tenant f.va.toNat).isNone ∧ (s.tenant? f.tenant).isSome with
  | none => s
  | some f =>
    match s.allocFrame f.die with
    | none => s
    | some fr =>
      let va := f.va.toNat / 65536 * 65536
      let s := s.modFrame fr fun _ => { FrameDesc.zero with pincnt := 1, gen := s.ckgen, owner := f.tenant }
      let q := s.sysQp f.tenant
      let p : PageState := ⟨f.tenant, dw va, fr, true, 0⟩
      { s with pages := s.pages ++ [p] }.sendRoce q 0 4096
        (.frame q ([3, 0, 0, 0] ++ leBytes 4 0 ++ leBytes 8 va))

/-- The service core's own step: REMOTE to the faults on pages whose settle time runs, else a PAGEREQ (R60–R62, R88). -/
def State.servePages (s : State) : State :=
  let u := (s.pages.filter fun p => !p.asked).foldl (fun s p => s.settleFaults p.tenant p.va.toNat) s
  if u = s then s.ownPagereq else u

/-- PAGEREQ (R60–R62): the host's, or with no bytes the service core's own (log entry 30). -/
def execPagereq (s : State) : Res :=
  .next <| if s.ev.k = 0 ∧ s.ev.bs = [] then s.servePages else s.roceIn 0x20 fun e t => deliverSend e t [3]

/-- PAGEREP (R61). -/
def execPagerep (s : State) : Res := .next <| s.roceIn 0x20 fun e t => deliverSend e t [4]

/-- SETTLE_TIME_END (R62): the page is a host-held page again, which the device may ask for. -/
def execSettleTimeEnd (s : State) : Res :=
  .next <| match s.pageState s.ev.id s.ev.a.toNat with
    | none => s
    | some p =>
      if p.asked ∨ s.timer.toNat < p.limit then s
      else ((s.dropPage p).rewriteLeaf s.ev.id p.va.toNat hostLeaf).getD (s.dropPage p)

end Sys2Proof.Machine
end

