-- ==== Sys2Proof/Machine/DrainDev.lean ====
section
/-! DEFINITION. The drain of a checkpoint to the safe tier (R36, R64, R92, R93, R179–R182). -/

namespace Sys2Proof.Machine

/-- The requester of the packets of the drain. -/
def drainReq : Requester := .device 0

/-- The contents at the cut of a frame of tables that is still to be sent. -/
def Drain.table? (d : Drain) (f : Nat) : Option Memory :=
  (List.find? (fun e : Nat × Memory => e.1 == f) d.tables).map (·.2)

/-- What the drain sends of a frame: its side copy, the contents at the cut of a frame of tables, or the frame; that of a locked
tenant and those of the tenant table encrypted (R93, R182). -/
def State.drainBytes (s : State) (d : Drain) (f : Nat) : List Byte :=
  let bs := match s.side.find? f, d.table? f with
    | some fr, _ => s.readHome fr 65536
    | none, some img => Memory.readBytes img 0 65536
    | none, none => s.readHome (f * 65536) 65536
  let owner := (s.frameDesc (f * 65536)).owner
  if (s.tenant? owner).any (·.locked) || s.inRegion 8 0 f then Config.encryptFrame s.ckgen.toNat (f * 65536) bs else bs

/-- A CKPT packet (R30, R180). -/
def State.ckptPacket (s : State) (pkg : BitVec 16) (base : Dword) (f off tag : Nat) (bs : List Byte) : Packet :=
  let pa := f * 65536
  requestPacket 8 (homeDie pa) pkg.toNat s.pkgid.toNat 0 tag
    [(0x10, 4, s.ckgen.toNat), (0x14, 4, homeDie pa), (0x18, 4, f), (0x20, 8, off), (0x28, 8, base.toNat + pa + off)] bs

/-- Sends a packet in the first of some directions that has credits. -/
def State.sendFirst (s : State) (p : Packet) : List Nat → Option State
  | [] => none
  | d :: ds => match s.sendVia [d] p with
    | some s' => some s'
    | none => s.sendFirst p ds

/-- Sends the next packets of a frame, as many as ports and tags allow; the directions take turns. -/
def State.drainPackets (f : Nat) : Nat → State → State
  | 0, s => s
  | n + 1, s =>
    match s.drain, s.tier with
    | some d, some (pkg, base, _) =>
      let tags := Table.getD d.busy f []
      let die := homeDie (f * 65536)
      let dirs := s.dirsUp d.mask
      match s.freeTag die with
      | none => s
      | some tag =>
        if 16 ≤ tags.length then s
        else if !s.canTouch die pkg.toNat then s.relieveTouched die
        else
          let off := tags.length * 4096
          let pkt := s.ckptPacket pkg base f off tag (((s.drainBytes d f).drop off).take 4096)
          match s.sendFirst pkt (dirs.rotate (f + tags.length)) with
          | none => s
          | some s' =>
            let r : Request := ⟨die, tag, pkg.toNat, 8, s.timer.toNat, drainReq, 0, [], none⟩
            let s' := (s'.countSent die pkg.toNat 1).modDie die fun x => { x with
              touched := if x.touched.contains pkg.toNat then x.touched else x.touched ++ [pkg.toNat] }
            State.drainPackets f n { s' with
              requests := s'.requests ++ [r]
              drain := some { d with since := s.timer.toNat, busy := Table.put d.busy f (tags ++ [tag]) } }
    | _, _ => s

/-- The packets of a frame are forgotten. -/
def State.dropDrain (s : State) (d : Drain) (f : Nat) : State :=
  let tags := Table.getD d.busy f []
  { s with
    requests := s.requests.filter fun r => !(decide (r.who = drainReq) && r.die == homeDie (f * 65536) && tags.contains r.tag)
    drain := some { d with busy := Table.del d.busy f } }

/-- A frame that was held until the drain had sent it is freed, unless it is in use again (R179). -/
def State.freeHeld (s : State) (f : Nat) : State := { s with
  heldFree := s.heldFree.filter (· ≠ f)
  frames := if (s.frameDesc (f * 65536)).refcnt = 0 ∧ (s.frameDesc (f * 65536)).pincnt = 0 then s.frames.del f else s.frames }

/-- The drain has sent a frame (R93, R179): its side copy is freed, a held frame is freed, and another takes the new GEN. -/
def State.drained (s : State) (d : Drain) (f : Nat) : State :=
  let s := s.dropDrain d f
  let s := { s with drain := s.drain.map fun (e : Drain) => { e with first := e.first.filter (· ≠ f) } }
  match s.side.find? f with
  | some fr =>
    let s := { s with side := s.side.del f, frames := s.frames.del (fr / 65536) }
    if s.heldFree.contains f then s.freeHeld f else s.modFrame (f * 65536) fun x => { x with gen := s.ckgen }
  | none =>
    if s.heldFree.contains f then s.freeHeld f
    else if s.drain.any fun (e : Drain) => (e.table? f).isSome then
      { s with drain := s.drain.map fun (e : Drain) => { e with tables := e.tables.filter fun t => t.1 ≠ f } }
    else s.modFrame (f * 65536) fun x => { x with gen := s.ckgen }

/-- A side copy whose contents are not yet in place (R93). -/
def State.sideBusy (s : State) (f : Nat) : Bool :=
  match s.side.find? f with
  | some fr => (s.frameDesc fr).pincnt != 0
  | none => false

/-- DRAIN_SEND (R180): packets of one undrained frame leave; once all 16 are answered OK it is drained, UNSUP, DENY or UNREACH
fails the drain (R36), and after another answer the frame is sent again. -/
def execDrainSend (s : State) : Res :=
  let f := s.ev.who
  .next <| match s.drain with
    | none => s
    | some d =>
      if d.failed || s.sideBusy f then s
      else
        let tags := Table.getD d.busy f []
        let answers := tags.map fun g => (s.requests.find? fun r => r.who = drainReq ∧ r.die = homeDie (f * 65536) ∧ r.tag = g).bind (·.answer)
        if answers.any fun a => match a with
            | some x => x.1 == 3 || x.1 == 1 || x.1 == 5
            | none => false then { s with drain := some { d with failed := true } }
        else if tags.length = 16 then
          match allSome answers with
          | none => s
          | some as => if as.all fun a => a.1 == 0 then s.drained d f else s.dropDrain d f
        else if s.drainNext f then State.drainPackets f 16 s else s

/-- DRAIN_STALL_TIMEOUT (R64). -/
def execDrainStallTimeout (s : State) : Res :=
  .next <| match s.drain with
    | some d => if d.since + 2 ^ 27 ≤ s.timer.toNat then { s with drain := some { d with failed := true } } else s
    | none => s

/-- DRAIN_END (R36, R64): the management event carries the generation and DONE (0) or FAILED (1). -/
def execDrainEnd (s : State) : Res :=
  .next <| match s.drain with
    | some d =>
      if d.failed || (s.undrained.isEmpty && d.busy.isEmpty) then
        { s with
          drain := none
          requests := s.requests.filter fun r => r.who ≠ drainReq }.emit
            (.event 2 (leBytes 4 s.ckgen.toNat ++ [if d.failed then 1 else 0]))
      else s
    | none => s

/-- SIDE_COPY_DONE (R93): the side copy stands and the frame takes the new GEN, so that the held write goes on. -/
def execSideCopyDone (s : State) : Res :=
  let f := s.ev.who
  .next <| match s.side.find? f with
    | none => s
    | some fr =>
      if !s.sideBusy f then s
      else
        let img := sliceMem s.mem (viewKey (homeDie (f * 65536)) (f * 65536)) 65536
        let s := { s with mem := [0, 1, 2, 3].foldl (fun m d => replaceMem m (viewKey d fr) 65536 img) s.mem }
        (s.modFrame fr fun x => { x with pincnt := 0 }).modFrame (f * 65536) fun x => { x with gen := s.ckgen }

end Sys2Proof.Machine
end

