-- ==== Sys2Proof/Machine/Vector.lean ====
section
/-! DEFINITION. Vector instructions (R393–R408): each reads its sources when it issues into its core's vector dispatch queue
(R256) and leaves its result outstanding. -/

namespace Sys2Proof.Machine

/-! ### Common forms (R393) -/


/-- A vector instruction that is no memory access: `f` gives its fills from the sources as read at issue. -/
def vecOp (i : Instr) (l : BitVec 4) (reads dests : List RegRef) (f : Slot → List Fill) : State → Res :=
  longOp { instr := i, reads := reads, hold := State.vecFull, vec := true } l dests fun s => .vector (f (s.slot s.focus))

/-- A mask other than m0 is read, and with it vd, whose inactive elements stay (R393). -/
def keepReads (d : BitVec 3) (m : BitVec 2) : List RegRef := if m = 0 then [] else [.m m, .v d]

/-- A vector instruction that gives each active element of vd a value and keeps the others. -/
def vecMap (i : Instr) (d : BitVec 3) (srcs : List RegRef) (m : BitVec 2) (l : BitVec 4) (w : Nat)
    (f : Slot → Nat → Nat) : State → Res :=
  vecOp i l (srcs ++ keepReads d m) [.v d] fun x => [.v d (mapActive w (x.readM m) (x.readV d) (f x))]

/-- An operation of two elements of `w` bits. -/
def vecBin (i : Instr) (d a b : BitVec 3) (m : BitVec 2) (l : BitVec 4) (w : Nat) (f : Nat → Nat → Nat) : State → Res :=
  vecMap i d [.v a, .v b] m l w fun x e => f (elem (x.readV a) w e) (elem (x.readV b) w e)

/-- An operation of one element of `w` bits. -/
def vecUn (i : Instr) (d a : BitVec 3) (m : BitVec 2) (l : BitVec 4) (w : Nat) (f : Nat → Nat) : State → Res :=
  vecMap i d [.v a] m l w fun x e => f (elem (x.readV a) w e)

/-! ### VALU (R396) -/

/-- The integer operations of R396 on patterns of `w` bits. -/
def valu (op w x y : Nat) : Nat :=
  match op with
  | 0 => x + y
  | 1 => ofI w (toI w x - toI w y)
  | 2 => x * y
  | 3 => ofI w (toI w x * toI w y / 2 ^ w)
  | 4 => x * y / 2 ^ w
  | 5 => x &&& y
  | 6 => x ||| y
  | 7 => x ^^^ y
  | 8 => x * 2 ^ (y % w)
  | 9 => x / 2 ^ (y % w)
  | 10 => ofI w (toI w x / 2 ^ (y % w))
  | 11 => if toI w x < toI w y then x else y
  | 12 => if toI w y < toI w x then x else y
  | 13 => min x y
  | 14 => max x y
  | 15 => clampI w true (toI w x + toI w y)
  | 16 => clampI w false ((x : Int) + (y : Int))
  | 17 => clampI w true (toI w x - toI w y)
  | _ => clampI w false ((x : Int) - (y : Int))

/-- VADD (R396). -/
def execVadd (d a b : BitVec 3) (m : BitVec 2) (t : BitVec 3) (l : BitVec 4) : State → Res :=
  vecBin (.vadd d a b m t l) d a b m l (typeWidth t) (valu 0 (typeWidth t))

/-- VSUB (R396). -/
def execVsub (d a b : BitVec 3) (m : BitVec 2) (t : BitVec 3) (l : BitVec 4) : State → Res :=
  vecBin (.vsub d a b m t l) d a b m l (typeWidth t) (valu 1 (typeWidth t))

/-- VMUL (R396). -/
def execVmul (d a b : BitVec 3) (m : BitVec 2) (t : BitVec 3) (l : BitVec 4) : State → Res :=
  vecBin (.vmul d a b m t l) d a b m l (typeWidth t) (valu 2 (typeWidth t))

/-- VMULH (R396). -/
def execVmulh (d a b : BitVec 3) (m : BitVec 2) (t : BitVec 3) (l : BitVec 4) : State → Res :=
  vecBin (.vmulh d a b m t l) d a b m l (typeWidth t) (valu 3 (typeWidth t))

/-- VMULHN (R396). -/
def execVmulhn (d a b : BitVec 3) (m : BitVec 2) (t : BitVec 3) (l : BitVec 4) : State → Res :=
  vecBin (.vmulhn d a b m t l) d a b m l (typeWidth t) (valu 4 (typeWidth t))

/-- VAND (R396). -/
def execVand (d a b : BitVec 3) (m : BitVec 2) (t : BitVec 3) (l : BitVec 4) : State → Res :=
  vecBin (.vand d a b m t l) d a b m l (typeWidth t) (valu 5 (typeWidth t))

/-- VOR (R396). -/
def execVor (d a b : BitVec 3) (m : BitVec 2) (t : BitVec 3) (l : BitVec 4) : State → Res :=
  vecBin (.vor d a b m t l) d a b m l (typeWidth t) (valu 6 (typeWidth t))

/-- VXOR (R396). -/
def execVxor (d a b : BitVec 3) (m : BitVec 2) (t : BitVec 3) (l : BitVec 4) : State → Res :=
  vecBin (.vxor d a b m t l) d a b m l (typeWidth t) (valu 7 (typeWidth t))

/-- VSHL (R396). -/
def execVshl (d a b : BitVec 3) (m : BitVec 2) (t : BitVec 3) (l : BitVec 4) : State → Res :=
  vecBin (.vshl d a b m t l) d a b m l (typeWidth t) (valu 8 (typeWidth t))

/-- VSHR (R396). -/
def execVshr (d a b : BitVec 3) (m : BitVec 2) (t : BitVec 3) (l : BitVec 4) : State → Res :=
  vecBin (.vshr d a b m t l) d a b m l (typeWidth t) (valu 9 (typeWidth t))

/-- VSRA (R396). -/
def execVsra (d a b : BitVec 3) (m : BitVec 2) (t : BitVec 3) (l : BitVec 4) : State → Res :=
  vecBin (.vsra d a b m t l) d a b m l (typeWidth t) (valu 10 (typeWidth t))

/-- VMIN (R396). -/
def execVmin (d a b : BitVec 3) (m : BitVec 2) (t : BitVec 3) (l : BitVec 4) : State → Res :=
  vecBin (.vmin d a b m t l) d a b m l (typeWidth t) (valu 11 (typeWidth t))

/-- VMAX (R396). -/
def execVmax (d a b : BitVec 3) (m : BitVec 2) (t : BitVec 3) (l : BitVec 4) : State → Res :=
  vecBin (.vmax d a b m t l) d a b m l (typeWidth t) (valu 12 (typeWidth t))

/-- VMINN (R396). -/
def execVminn (d a b : BitVec 3) (m : BitVec 2) (t : BitVec 3) (l : BitVec 4) : State → Res :=
  vecBin (.vminn d a b m t l) d a b m l (typeWidth t) (valu 13 (typeWidth t))

/-- VMAXN (R396). -/
def execVmaxn (d a b : BitVec 3) (m : BitVec 2) (t : BitVec 3) (l : BitVec 4) : State → Res :=
  vecBin (.vmaxn d a b m t l) d a b m l (typeWidth t) (valu 14 (typeWidth t))

/-- VADDS (R396). -/
def execVadds (d a b : BitVec 3) (m : BitVec 2) (t : BitVec 3) (l : BitVec 4) : State → Res :=
  vecBin (.vadds d a b m t l) d a b m l (typeWidth t) (valu 15 (typeWidth t))

/-- VADDSN (R396). -/
def execVaddsn (d a b : BitVec 3) (m : BitVec 2) (t : BitVec 3) (l : BitVec 4) : State → Res :=
  vecBin (.vaddsn d a b m t l) d a b m l (typeWidth t) (valu 16 (typeWidth t))

/-- VSUBS (R396). -/
def execVsubs (d a b : BitVec 3) (m : BitVec 2) (t : BitVec 3) (l : BitVec 4) : State → Res :=
  vecBin (.vsubs d a b m t l) d a b m l (typeWidth t) (valu 17 (typeWidth t))

/-- VSUBSN (R396). -/
def execVsubsn (d a b : BitVec 3) (m : BitVec 2) (t : BitVec 3) (l : BitVec 4) : State → Res :=
  vecBin (.vsubsn d a b m t l) d a b m l (typeWidth t) (valu 18 (typeWidth t))

/-- VMOV (R396): with a mask, the merge of va into vd. -/
def execVmov (d a : BitVec 3) (m : BitVec 2) (t : BitVec 3) (l : BitVec 4) : State → Res :=
  vecUn (.vmov d a m t l) d a m l (typeWidth t) id

/-! ### VFP (R397, R398) -/

/-- VFADD (R397). -/
def execVfadd (d a b : BitVec 3) (m : BitVec 2) (t : BitVec 3) (l : BitVec 4) : State → Res :=
  vecBin (.vfadd d a b m t l) d a b m l (typeWidth t) (fmtOfType t).add

/-- VFSUB (R397). -/
def execVfsub (d a b : BitVec 3) (m : BitVec 2) (t : BitVec 3) (l : BitVec 4) : State → Res :=
  vecBin (.vfsub d a b m t l) d a b m l (typeWidth t) (fmtOfType t).sub

/-- VFMUL (R397). -/
def execVfmul (d a b : BitVec 3) (m : BitVec 2) (t : BitVec 3) (l : BitVec 4) : State → Res :=
  vecBin (.vfmul d a b m t l) d a b m l (typeWidth t) (fmtOfType t).mul

/-- VFMA (R397): one rounding; vd is the addend. -/
def execVfma (d a b : BitVec 3) (m : BitVec 2) (t : BitVec 3) (l : BitVec 4) : State → Res :=
  let w := typeWidth t
  vecMap (.vfma d a b m t l) d [.v a, .v b, .v d] m l w fun x e =>
    (fmtOfType t).fma (elem (x.readV a) w e) (elem (x.readV b) w e) (elem (x.readV d) w e)

/-- VFDIV (R397, R340). -/
def execVfdiv (d a b : BitVec 3) (m : BitVec 2) (t : BitVec 3) (l : BitVec 4) : State → Res :=
  vecBin (.vfdiv d a b m t l) d a b m l (typeWidth t) (fmtOfType t).div

/-- VFSQRT (R397, R340). -/
def execVfsqrt (d a : BitVec 3) (m : BitVec 2) (t : BitVec 3) (l : BitVec 4) : State → Res :=
  vecUn (.vfsqrt d a m t l) d a m l (typeWidth t) (fmtOfType t).sqrt

/-- VFMIN (R291, R397). -/
def execVfmin (d a b : BitVec 3) (m : BitVec 2) (t : BitVec 3) (l : BitVec 4) : State → Res :=
  vecBin (.vfmin d a b m t l) d a b m l (typeWidth t) (fmtOfType t).min

/-- VFMAX (R291, R397). -/
def execVfmax (d a b : BitVec 3) (m : BitVec 2) (t : BitVec 3) (l : BitVec 4) : State → Res :=
  vecBin (.vfmax d a b m t l) d a b m l (typeWidth t) (fmtOfType t).max

/-- A correctly rounded function of one element (R398). -/
def vecFn (i : Instr) (d a : BitVec 3) (m : BitVec 2) (t : BitVec 3) (l : BitVec 4) (f : Fp.Val → Fp.Val) : State → Res :=
  vecUn i d a m l (typeWidth t) fun x => (fmtOfType t).rne (f ((fmtOfType t).val x))

/-- VEXP2 (R398). -/
def execVexp2 (d a : BitVec 3) (m : BitVec 2) (t : BitVec 3) (l : BitVec 4) : State → Res :=
  vecFn (.vexp2 d a m t l) d a m t l Fp.vexp2

/-- VLOG2 (R398). -/
def execVlog2 (d a : BitVec 3) (m : BitVec 2) (t : BitVec 3) (l : BitVec 4) : State → Res :=
  vecFn (.vlog2 d a m t l) d a m t l Fp.vlog2

/-- VRCP (R398). -/
def execVrcp (d a : BitVec 3) (m : BitVec 2) (t : BitVec 3) (l : BitVec 4) : State → Res :=
  vecFn (.vrcp d a m t l) d a m t l Fp.vrcp

/-- VRSQ (R398). -/
def execVrsq (d a : BitVec 3) (m : BitVec 2) (t : BitVec 3) (l : BitVec 4) : State → Res :=
  vecFn (.vrsq d a m t l) d a m t l Fp.vrsq

/-! ### VMEM (R399–R401) -/

/-- Indices of the active elements (R393). -/
def activeElems (mask : BitVec 512) (n : Nat) : List Nat := (List.range n).filter fun i => mask.getLsbD i

/-- The checks of every active element, in element order: TRADDR is the element's address (R400). -/
def State.vecTrap (s : State) (eas : List Dword) (size : Nat) (write : Bool) : Option Trap :=
  firstTrap (eas.map fun ea => (s.accessTrap s.focus ea size write).map fun t => { t with addr := ea })

/-- A vector memory access: it issues when the dispatch queue has room and the strand may access memory. -/
def vecMem (i : Instr) (l : BitVec 4) (reads dests : List RegRef) (eas : State → List Dword) (size : Nat) (write : Bool)
    (op : State → Op) : State → Res :=
  issue { instr := i, reads := reads, writes := dests, la := some l
          hold := fun s => s.vecFull || (s.slot s.focus).acquiring
          vec := true
          check := fun s => s.vecTrap (eas s) size write } fun s t => s.departQueued t l (op s) dests

/-- A vector load: `ea` gives the address of an element (R399, R401). -/
def vecLoad (i : Instr) (d : BitVec 3) (srcs : List RegRef) (m : BitVec 2) (t : BitVec 3) (l : BitVec 4)
    (ea : Slot → Nat → Dword) : State → Res :=
  let w := typeWidth t
  let es := fun (s : State) => activeElems ((s.slot s.focus).readM m) (elemCount w)
  vecMem i l (srcs ++ keepReads d m) [.v d] (fun s => (es s).map (ea (s.slot s.focus))) (w / 8) false fun s =>
    .load ((es s).map fun e => (ea (s.slot s.focus) e, w / 8)) [] (.v d w (es s) ((s.slot s.focus).readV d))

/-- A vector store: one store for each active element, in ascending order (R401). -/
def vecStore (i : Instr) (d : BitVec 3) (srcs : List RegRef) (m : BitVec 2) (t : BitVec 3) (l : BitVec 4)
    (ea : Slot → Nat → Dword) : State → Res :=
  let w := typeWidth t
  let es := fun (s : State) => activeElems ((s.slot s.focus).readM m) (elemCount w)
  vecMem i l (.v d :: srcs ++ (if m = 0 then [] else [.m m])) [] (fun s => (es s).map (ea (s.slot s.focus))) (w / 8) true
    fun s => .store ((es s).map fun e =>
      (ea (s.slot s.focus) e, leBytes (w / 8) (elem ((s.slot s.focus).readV d) w e)))

/-- Addresses of the three forms (R399). -/
def eaUnit (b : BitVec 5) (t : BitVec 3) (x : Slot) (i : Nat) : Dword := x.readG b + dw (i * (typeWidth t / 8))
def eaStride (b s : BitVec 5) (x : Slot) (i : Nat) : Dword := x.readG b + dw i * x.readG s
def eaIndex (b : BitVec 5) (v : BitVec 3) (x : Slot) (i : Nat) : Dword :=
  x.readG b + sext (BitVec.ofNat 32 (elem (x.readV v) 32 i))

/-- VLD (R399). -/
def execVld (d : BitVec 3) (b : BitVec 5) (m : BitVec 2) (t : BitVec 3) (l : BitVec 4) : State → Res :=
  vecLoad (.vld d b m t l) d [.g b] m t l (eaUnit b t)

/-- VLDS (R399). -/
def execVlds (d : BitVec 3) (b s : BitVec 5) (m : BitVec 2) (t : BitVec 3) (l : BitVec 4) : State → Res :=
  vecLoad (.vlds d b s m t l) d [.g b, .g s] m t l (eaStride b s)

/-- VLDX (R399). -/
def execVldx (d : BitVec 3) (b : BitVec 5) (x : BitVec 3) (m : BitVec 2) (t : BitVec 3) (l : BitVec 4) : State → Res :=
  vecLoad (.vldx d b x m t l) d [.g b, .v x] m t l (eaIndex b x)

/-- VST (R399). -/
def execVst (d : BitVec 3) (b : BitVec 5) (m : BitVec 2) (t : BitVec 3) (l : BitVec 4) : State → Res :=
  vecStore (.vst d b m t l) d [.g b] m t l (eaUnit b t)

/-- VSTS (R399). -/
def execVsts (d : BitVec 3) (b s : BitVec 5) (m : BitVec 2) (t : BitVec 3) (l : BitVec 4) : State → Res :=
  vecStore (.vsts d b s m t l) d [.g b, .g s] m t l (eaStride b s)

/-- VSTX (R399). -/
def execVstx (d : BitVec 3) (b : BitVec 5) (x : BitVec 3) (m : BitVec 2) (t : BitVec 3) (l : BitVec 4) : State → Res :=
  vecStore (.vstx d b x m t l) d [.g b, .v x] m t l (eaIndex b x)

/-- VLDM (R399). -/
def execVldm (n : BitVec 2) (b : BitVec 5) (l : BitVec 4) : State → Res :=
  vecMem (.vldm n b l) l [.g b] [.m n] (fun s => [s.readG s.focus b]) 64 false fun s =>
    .load [(s.readG s.focus b, 64)] [] (.m n)

/-- VSTM (R399). -/
def execVstm (n : BitVec 2) (b : BitVec 5) (l : BitVec 4) : State → Res :=
  vecMem (.vstm n b l) l [.g b, .m n] [] (fun s => [s.readG s.focus b]) 64 true fun s =>
    .store [(s.readG s.focus b, leBytes 64 ((s.slot s.focus).readM n).toNat)]

/-! ### Reductions (R300, R402–R404) -/

/-- One level of TreeReduce (R300): a missing element gives the other one. -/
def treeStep (op : Nat → Nat → Nat) : List (Option Nat) → List (Option Nat)
  | a :: b :: r => (match a, b with
      | some x, some y => some (op x y)
      | none, y => y
      | x, none => x) :: treeStep op r
  | l => l

/-- The levels of TreeReduce. -/
def treeLevels (op : Nat → Nat → Nat) : Nat → List (Option Nat) → List (Option Nat)
  | 0, l => l
  | n + 1, l => treeLevels op n (treeStep op l)

/-- TreeReduce (R300) over at most 512 elements. -/
def treeReduce (op : Nat → Nat → Nat) (identity : Nat) (l : List (Option Nat)) : Nat :=
  ((treeLevels op 9 l).headD none).getD identity

/-- The active elements of a register, the others missing. -/
def contributors (v : BitVec 4096) (w : Nat) (mask : BitVec 512) : List (Option Nat) :=
  (List.range (elemCount w)).map fun i => if mask.getLsbD i then some (elem v w i) else none

/-- A reduction (R402): element 0 takes the result, every other element zero. -/
def vecReduce (i : Instr) (d a : BitVec 3) (m : BitVec 2) (t : BitVec 3) (l : BitVec 4) (op : Nat → Nat → Nat)
    (identity : Nat) : State → Res :=
  let w := typeWidth t
  vecOp i l [.v a, .m m] [.v d] fun x =>
    [.v d (BitVec.ofNat 4096 (treeReduce op identity (contributors (x.readV a) w (x.readM m)) % 2 ^ w))]

/-- Sum, minimum and maximum of a type (R287, R291, R300). -/
def typeSum (t : BitVec 3) (x y : Nat) : Nat := if typeFp t then (fmtOfType t).add x y else (x + y) % 2 ^ typeWidth t
def typeMin (t : BitVec 3) (x y : Nat) : Nat := if typeFp t then (fmtOfType t).min x y else valu 11 (typeWidth t) x y
def typeMax (t : BitVec 3) (x y : Nat) : Nat := if typeFp t then (fmtOfType t).max x y else valu 12 (typeWidth t) x y
/-- The lowest and the highest value of a type: the identities of MAX and MIN (R300). -/
def typeLow (t : BitVec 3) : Nat := if typeFp t then (fmtOfType t).rne (.inf true) else 2 ^ (typeWidth t - 1)
def typeHigh (t : BitVec 3) : Nat := if typeFp t then (fmtOfType t).rne (.inf false) else 2 ^ (typeWidth t - 1) - 1

/-- VRSUM (R402). -/
def execVrsum (d a : BitVec 3) (m : BitVec 2) (t : BitVec 3) (l : BitVec 4) : State → Res :=
  vecReduce (.vrsum d a m t l) d a m t l (typeSum t) 0

/-- VRMIN (R402). -/
def execVrmin (d a : BitVec 3) (m : BitVec 2) (t : BitVec 3) (l : BitVec 4) : State → Res :=
  vecReduce (.vrmin d a m t l) d a m t l (typeMin t) (typeHigh t)

/-- VRMAX (R402). -/
def execVrmax (d a : BitVec 3) (m : BitVec 2) (t : BitVec 3) (l : BitVec 4) : State → Res :=
  vecReduce (.vrmax d a m t l) d a m t l (typeMax t) (typeLow t)

/-- VRMINN (R402). -/
def execVrminn (d a : BitVec 3) (m : BitVec 2) (t : BitVec 3) (l : BitVec 4) : State → Res :=
  vecReduce (.vrminn d a m t l) d a m t l min (2 ^ typeWidth t - 1)

/-- VRMAXN (R402). -/
def execVrmaxn (d a : BitVec 3) (m : BitVec 2) (t : BitVec 3) (l : BitVec 4) : State → Res :=
  vecReduce (.vrmaxn d a m t l) d a m t l max 0

/-- VRAND (R402). -/
def execVrand (d a : BitVec 3) (m : BitVec 2) (t : BitVec 3) (l : BitVec 4) : State → Res :=
  vecReduce (.vrand d a m t l) d a m t l (· &&& ·) (2 ^ typeWidth t - 1)

/-- VROR (R402). -/
def execVror (d a : BitVec 3) (m : BitVec 2) (t : BitVec 3) (l : BitVec 4) : State → Res :=
  vecReduce (.vror d a m t l) d a m t l (· ||| ·) 0

/-- VRXOR (R402). -/
def execVrxor (d a : BitVec 3) (m : BitVec 2) (t : BitVec 3) (l : BitVec 4) : State → Res :=
  vecReduce (.vrxor d a m t l) d a m t l (· ^^^ ·) 0

/-- A scan over the active elements in ascending index (R403). -/
def scanFrom (op : Nat → Nat → Nat) (mask : BitVec 512) (v old : BitVec 4096) (w : Nat) : Nat → Nat → Nat → List Nat
  | 0, _, _ => []
  | n + 1, i, acc =>
    if mask.getLsbD i then
      let acc := op acc (elem v w i)
      acc :: scanFrom op mask v old w n (i + 1) acc
    else elem old w i :: scanFrom op mask v old w n (i + 1) acc

/-- An inclusive scan (R403). -/
def vecScan (i : Instr) (d a : BitVec 3) (m : BitVec 2) (t : BitVec 3) (l : BitVec 4) (op : Nat → Nat → Nat) (identity : Nat) :
    State → Res :=
  let w := typeWidth t
  vecOp i l (.v a :: keepReads d m) [.v d] fun x =>
    [.v d (ofElems w (scanFrom op (x.readM m) (x.readV a) (x.readV d) w (elemCount w) 0 identity))]

/-- VSCAN (R403). -/
def execVscan (d a : BitVec 3) (m : BitVec 2) (t : BitVec 3) (l : BitVec 4) : State → Res :=
  vecScan (.vscan d a m t l) d a m t l (typeSum t) 0

/-- VSCANMAX (R403). -/
def execVscanmax (d a : BitVec 3) (m : BitVec 2) (t : BitVec 3) (l : BitVec 4) : State → Res :=
  vecScan (.vscanmax d a m t l) d a m t l (typeMax t) (typeLow t)

/-- The rank order of VTOPK (R404) on (value, id, element): the higher value, a NaN last, then the lower id, then the lower
element. -/
def topkBefore (fp : Bool) (x y : Nat × Nat × Nat) : Bool :=
  let tie := decide (x.2.1 < y.2.1) || (x.2.1 == y.2.1 && decide (x.2.2 ≤ y.2.2))
  if fp then
    let u := Fp.f32.val x.1; let v := Fp.f32.val y.1
    if u.isNan || v.isNan then (if u.isNan && v.isNan then tie else v.isNan)
    else if Fp.veq u v then tie else Fp.vlt v u
  else if toI 32 x.1 = toI 32 y.1 then tie else decide (toI 32 y.1 < toI 32 x.1)

/-- Inserts a contender into a ranked list. -/
def topkInsert (fp : Bool) (x : Nat × Nat × Nat) : List (Nat × Nat × Nat) → List (Nat × Nat × Nat)
  | [] => [x]
  | y :: r => if topkBefore fp x y then x :: y :: r else y :: topkInsert fp x r

/-- VTOPK's result (R404): the winners' values in lanes 0–63, their ids in lanes 64–127. -/
def topk (fp : Bool) (v ids : BitVec 4096) (mask : BitVec 512) : BitVec 4096 :=
  let cs := (activeElems mask 128).map fun i => (elem v 32 i, elem ids 32 i, i)
  let win := (cs.foldr (topkInsert fp) []).take 64
  let pad := 64 - win.length
  ofElems 32 (win.map (·.1) ++ List.replicate pad (if fp then 0xFF800000 else 0x80000000) ++
    win.map (·.2.1) ++ List.replicate pad 0xFFFFFFFF)

/-- VTOPK (R404). -/
def execVtopk (d a b : BitVec 3) (m : BitVec 2) (t : BitVec 3) (l : BitVec 4) : State → Res :=
  vecOp (.vtopk d a b m t l) l [.v a, .v b, .m m] [.v d] fun x =>
    [.v d (topk (t == 5) (x.readV a) (x.readV b) (x.readM m))]

/-! ### VPERM (R405) -/

/-- VPERM (R405): inactive elements of va are read too. -/
def execVperm (d a b : BitVec 3) (m : BitVec 2) (t : BitVec 3) (l : BitVec 4) : State → Res :=
  let w := typeWidth t
  vecMap (.vperm d a b m t l) d [.v a, .v b] m l w fun x e =>
    elem (x.readV a) w (elem (x.readV b) w e % elemCount w)

/-- VBCASTG (R405). -/
def execVbcastg (d : BitVec 3) (r : BitVec 5) (m : BitVec 2) (t : BitVec 3) (l : BitVec 4) : State → Res :=
  vecMap (.vbcastg d r m t l) d [.g r] m l (typeWidth t) fun x _ => (x.readG r).toNat % 2 ^ typeWidth t

/-- VMOVG (R405): element 0 to a g register, sign-extended for an integer type. -/
def execVmovg (d : BitVec 3) (r : BitVec 5) (t : BitVec 3) (l : BitVec 4) : State → Res :=
  let w := typeWidth t
  vecOp (.vmovg d r t l) l [.v d] [.g r] fun x =>
    let e := elem (x.readV d) w 0
    [.g r (if typeInt t then dw (ofI 64 (toI w e)) else dw e)]

/-- VIOTA (R405). -/
def execViota (d : BitVec 3) (m : BitVec 2) (t : BitVec 3) (l : BitVec 4) : State → Res :=
  vecMap (.viota d m t l) d [] m l (typeWidth t) fun _ e => e % 2 ^ typeWidth t

/-- VBCAST (R405). -/
def execVbcast (d a : BitVec 3) (m : BitVec 2) (t : BitVec 3) (l : BitVec 4) : State → Res :=
  vecMap (.vbcast d a m t l) d [.v a] m l (typeWidth t) fun x _ => elem (x.readV a) (typeWidth t) 0

/-- VCOMPRESS (R405): it writes all of vd. -/
def execVcompress (d a : BitVec 3) (m : BitVec 2) (t : BitVec 3) (l : BitVec 4) : State → Res :=
  let w := typeWidth t
  vecOp (.vcompress d a m t l) l [.v a, .m m] [.v d] fun x =>
    [.v d (ofElems w ((activeElems (x.readM m) (elemCount w)).map fun i => elem (x.readV a) w i))]

/-! ### VMASK (R406, R407) -/

/-- A mask of the elements that meet a condition; inactive bits stay and bits beyond the count are zero (R406). -/
def condMask (n : Nat) (mask old : BitVec 512) (c : Nat → Bool) : BitVec 512 :=
  BitVec.ofNat 512 (((List.range n).map fun i =>
    if (if mask.getLsbD i then c i else old.getLsbD i) then 2 ^ i else 0).sum)

/-- A compare (R406). -/
def vecCompare (i : Instr) (n : BitVec 2) (a b : BitVec 3) (m : BitVec 2) (t : BitVec 3) (l : BitVec 4)
    (c : Nat → Nat → Bool) : State → Res :=
  let w := typeWidth t
  vecOp i l ([.v a, .v b] ++ (if m = 0 then [] else [.m m, .m n])) [.m n] fun x =>
    [.m n (condMask (elemCount w) (x.readM m) (x.readM n) fun e => c (elem (x.readV a) w e) (elem (x.readV b) w e))]

/-- VCMP (R337, R406). -/
def execVcmp (n : BitVec 2) (a b : BitVec 3) (m : BitVec 2) (t : BitVec 3) (l : BitVec 4) (k : BitVec 3) : State → Res :=
  vecCompare (.vcmp n a b m t l k) n a b m t l (intCond (typeWidth t) k.toNat)

/-- VFCMP (R341, R406). -/
def execVfcmp (n : BitVec 2) (a b : BitVec 3) (m : BitVec 2) (t : BitVec 3) (l : BitVec 4) (k : BitVec 3) : State → Res :=
  vecCompare (.vfcmp n a b m t l k) n a b m t l (fpCond (fmtOfType t) k.toNat)

/-- Mask logic on all 512 bits (R407). -/
def maskLogic (i : Instr) (n q r : BitVec 2) (l : BitVec 4) (f : BitVec 512 → BitVec 512 → BitVec 512) : State → Res :=
  vecOp i l [.m q, .m r] [.m n] fun x => [.m n (f (x.readM q) (x.readM r))]

/-- VMAND (R407). -/
def execVmand (n q r : BitVec 2) (l : BitVec 4) : State → Res :=
  maskLogic (.vmand n q r l) n q r l (· &&& ·)

/-- VMOR (R407). -/
def execVmor (n q r : BitVec 2) (l : BitVec 4) : State → Res :=
  maskLogic (.vmor n q r l) n q r l (· ||| ·)

/-- VMXOR (R407). -/
def execVmxor (n q r : BitVec 2) (l : BitVec 4) : State → Res :=
  maskLogic (.vmxor n q r l) n q r l (· ^^^ ·)

/-- VMNOT (R407). -/
def execVmnot (n q : BitVec 2) (l : BitVec 4) : State → Res :=
  maskLogic (.vmnot n q l) n q q l fun x _ => ~~~x

/-- The index of the lowest set bit below `i + n`, from bit i on. -/
def firstBit (x : BitVec 512) : Nat → Nat → Option Nat
  | 0, _ => none
  | n + 1, i => if x.getLsbD i then some i else firstBit x n (i + 1)

/-- VMPOPC (R407). -/
def execVmpopc (r : BitVec 5) (m : BitVec 2) (t : BitVec 3) (l : BitVec 4) : State → Res :=
  vecOp (.vmpopc r m t l) l [.m m] [.g r] fun x => [.g r (dw (popBelow (x.readM m) (elemCount (typeWidth t))))]

/-- VMFIRST (R407). -/
def execVmfirst (r : BitVec 5) (m : BitVec 2) (t : BitVec 3) (l : BitVec 4) : State → Res :=
  vecOp (.vmfirst r m t l) l [.m m] [.g r] fun x =>
    [.g r (match firstBit (x.readM m) (elemCount (typeWidth t)) 0 with
      | some i => dw i
      | none => BitVec.allOnes 64)]

/-! ### VCVT (R408) -/

/-- The format code of a source type (R285, R408): VAR marks an unsigned source, or E5M2. -/
def cvtSource (t : BitVec 3) (var : Bool) : Nat :=
  if typeInt t then t.toNat + (if var then 4 else 0) else if t = 7 then (if var then 12 else 11) else t.toNat + 4

/-- The source element of target element j, when PART selects one (R408). -/
def cvtFrom (ws wd part j : Nat) : Option Nat :=
  let n := 4096 / max ws wd
  if ws ≤ wd then some (part * n + j) else if part * n ≤ j ∧ j < part * n + n then some (j - part * n) else none

/-- VCVT (R408): the mask enables target elements; a narrowing form keeps the elements outside its part. -/
def execVcvt (d a p : BitVec 3) (m : BitVec 2) (t : BitVec 3) (l : BitVec 4) (x : BitVec 1) (u : BitVec 2) (v : BitVec 1)
    (c : BitVec 4) : State → Res :=
  let ws := typeWidth t; let wd := formatWidth c.toNat
  vecOp (.vcvt d a p m t l x u v c) l
    (.v a :: (if m = 0 then [] else [.m m]) ++ (if m ≠ 0 ∨ wd < ws then [.v d] else [])) [.v d] fun y =>
    [.v d (mapActive wd (y.readM m) (y.readV d) fun j =>
      match cvtFrom ws wd p.toNat j with
      | some i => convert (cvtSource t (v == 1)) c.toNat (Fp.Rm.ofBits u) (x == 1) (elem (y.readV a) ws i)
      | none => elem (y.readV d) wd j)]

end Sys2Proof.Machine
end

