-- ==== Sys2Proof/Machine/Gen.lean ====
section
/-! DEFINITION. The sampler instructions (R409–R418) on chunks of 128 FP32 lanes. -/

namespace Sys2Proof.Machine

/-- A sampler instruction that gives each active lane of vd a value. -/
def genMap (i : Instr) (d : BitVec 3) (srcs : List RegRef) (m : BitVec 2) (l : BitVec 4) (f : Slot → Nat → Nat) :
    State → Res :=
  vecMap i d srcs m l 32 f

/-- 2^x in FP32, correctly rounded (R226). -/
def exp2Cr (x : Nat) : Nat := Fp.f32.rne (Fp.vexp2 (Fp.f32.val x))
/-- LOG2E (R232). -/
def log2e : Nat := 0x3FB8AA3B
/-- FP32 −∞. -/
def negInf32 : Nat := 0xFF800000

/-- x < y in FP32. -/
def lt32 (x y : Nat) : Bool := Fp.vlt (Fp.f32.val x) (Fp.f32.val y)

/-- The per-token steps of R410. -/
def penalize (x h c rep freq pres : Nat) : Nat :=
  let x := if (Fp.f32.val x).isNan || x == 0x7F800000 then negInf32 else x
  let x := if h = 1 then (if lt32 0 x then Fp.f32.div x rep else Fp.f32.mul x rep) else x
  let cnt := min 65535 c
  let x := Fp.f32.sub x (Fp.f32.mul freq (Fp.f32.rne (Fp.ofInt cnt)))
  if 0 < cnt then Fp.f32.sub x pres else x

/-- VPEN (R410). -/
def execVpen (d a b : BitVec 3) (m : BitVec 2) (l : BitVec 4) : State → Res :=
  genMap (.vpen d a b m l) d [.v a, .v b, .v d] m l fun x i =>
    let h := elem (x.readV a) 32 i
    let p := fun (n : Nat) => elem (x.readV b) 32 n
    penalize (elem (x.readV d) 32 i) (h / 2 ^ 31) (h % 2 ^ 31) (p 0) (p 1) (p 2)

/-- The pairs of R411 that name token `tok`, applied in list order. -/
def biasFrom (pairs : BitVec 4096) (tok : Int) : Nat → Nat → Nat → Nat
  | 0, _, x => x
  | n + 1, j, x =>
    let t := elem pairs 32 (2 * j)
    biasFrom pairs tok n (j + 1)
      (if t ≠ 0xFFFFFFFF ∧ toI 32 t = tok then Fp.f32.add x (elem pairs 32 (2 * j + 1)) else x)

/-- VBIAS (R411). -/
def execVbias (d a b : BitVec 3) (m : BitVec 2) (l : BitVec 4) : State → Res :=
  genMap (.vbias d a b m l) d [.v a, .v b, .v d] m l fun x i =>
    biasFrom (x.readV a) (toI 32 (elem (x.readV b) 32 0) + i) 64 0 (elem (x.readV d) 32 i)

/-- VBAN (R412). -/
def execVban (d : BitVec 3) (m : BitVec 2) (l : BitVec 4) : State → Res :=
  genMap (.vban d m l) d [] m l fun _ _ => negInf32

/-- VSOFT.T (R413). -/
def execVsoftT (d b : BitVec 3) (m : BitVec 2) (l : BitVec 4) : State → Res :=
  genMap (.vsoftT d b m l) d [.v b, .v d] m l fun x i =>
    Fp.f32.div (elem (x.readV d) 32 i) (elem (x.readV b) 32 0)

/-- VSOFT.W (R413). -/
def execVsoftW (d b : BitVec 3) (m : BitVec 2) (l : BitVec 4) : State → Res :=
  genMap (.vsoftW d b m l) d [.v b, .v d] m l fun x i =>
    let v := elem (x.readV d) 32 i
    if v = negInf32 then 0 else exp2Cr (Fp.f32.mul (Fp.f32.sub v (elem (x.readV b) 32 0)) log2e)

/-- One round of Philox4x32 (R233; its constants are the published ones, log entry 24). -/
def philoxRound (k0 k1 : Nat) (c : Nat × Nat × Nat × Nat) : Nat × Nat × Nat × Nat :=
  let p0 := 0xD2511F53 * c.1; let p1 := 0xCD9E8D57 * c.2.2.1
  ((p1 / 2 ^ 32) ^^^ c.2.1 ^^^ k0, p1 % 2 ^ 32, (p0 / 2 ^ 32) ^^^ c.2.2.2 ^^^ k1, p0 % 2 ^ 32)

/-- `n` rounds, the key words rising after each. -/
def philoxFrom : Nat → Nat → Nat → Nat × Nat × Nat × Nat → Nat × Nat × Nat × Nat
  | 0, _, _, c => c
  | n + 1, k0, k1, c => philoxFrom n ((k0 + 0x9E3779B9) % 2 ^ 32) ((k1 + 0xBB67AE85) % 2 ^ 32) (philoxRound k0 k1 c)

/-- A uniform (R233): (x0 >> 8) × 2^−24. -/
def uniform (k0 k1 c0 c1 c2 c3 : Nat) : Nat :=
  Fp.f32.round .rne false false ((philoxFrom 10 k0 k1 (c0, c1, c2, c3)).1 / 256) (-24)

/-- VRNG (R414): lanes 64–127 of vd stay. -/
def execVrng (d a b : BitVec 3) (m : BitVec 2) (l : BitVec 4) : State → Res :=
  genMap (.vrng d a b m l) d [.v a, .v b, .v d] m l fun x j =>
    let k := fun (n : Nat) => elem (x.readV a) 32 n
    if j < 64 then uniform (k 0) (k 1) (elem (x.readV b) 32 (2 * j)) (elem (x.readV b) 32 (2 * j + 1)) (k 2) (k 3)
    else elem (x.readV d) 32 j

/-- VACC (R415). -/
def execVacc (d a b : BitVec 3) (m : BitVec 2) (l : BitVec 4) : State → Res :=
  genMap (.vacc d a b m l) d [.v a, .v b, .v d] m l fun x i =>
    if lt32 (Fp.f32.mul (elem (x.readV a) 32 i) (elem (x.readV b) 32 i)) (elem (x.readV d) 32 i) then 1 else 0

/-- VRESID (R415). -/
def execVresid (d a b : BitVec 3) (m : BitVec 2) (l : BitVec 4) : State → Res :=
  genMap (.vresid d a b m l) d [.v a, .v b] m l fun x i =>
    Fp.f32.max (Fp.f32.sub (elem (x.readV a) 32 i) (elem (x.readV b) 32 i)) 0

/-- The carry of VSAMP (R416). -/
structure Carry where
  cum    : Nat
  target : Nat
  base   : Nat
  pick   : Nat
  last   : Nat
  deriving DecidableEq, Repr

/-- The walk over the weights from lane i on (R416). -/
def sampFrom (w : BitVec 4096) (mask : BitVec 512) : Nat → Nat → Carry → Carry
  | 0, _, c => c
  | n + 1, i, c =>
    if c.pick ≠ 0xFFFFFFFF then c
    else if mask.getLsbD i && lt32 0 (elem w 32 i) then
      let cum := Fp.f32.add c.cum (elem w 32 i)
      let tok := (c.base + i) % 2 ^ 32
      sampFrom w mask n (i + 1) { c with cum := cum, last := tok, pick := if lt32 c.target cum then tok else c.pick }
    else sampFrom w mask n (i + 1) c

/-- VSAMP (R416). -/
def execVsamp (d a b : BitVec 3) (m : BitVec 2) (l : BitVec 4) : State → Res :=
  vecOp (.vsamp d a b m l) l [.v a, .v b, .m m] [.v d] fun x =>
    let p := fun (n : Nat) => elem (x.readV b) 32 n
    let c := sampFrom (x.readV a) (x.readM m) 128 0 ⟨p 0, p 1, p 2, p 3, p 4⟩
    [.v d (ofElems 32 [c.cum, c.target, c.base, c.pick, c.last])]

/-- The rows of R225 and R417 in ascending node, from the parents: a bad parent, or a parent with row 0, gives 0. -/
def treeRows (parents : List Nat) : List Nat :=
  parents.zipIdx.foldl (fun rows (p : Nat × Nat) =>
    rows ++ [if p.1 = 0xFF then 2 ^ p.2 else if p.1 < p.2 ∧ rows.getD p.1 0 ≠ 0 then rows.getD p.1 0 ||| 2 ^ p.2 else 0]) []

/-- VTREE (R417). -/
def execVtree (d a b : BitVec 3) (l : BitVec 4) : State → Res :=
  vecOp (.vtree d a b l) l [.v a, .v b] [.v d] fun x =>
    let n := elem (x.readV b) 32 0
    [.v d (if n = 0 ∨ 64 < n then 0 else ofElems 64 (treeRows ((List.range n).map (elem (x.readV a) 8))))]

/-- Stop string s matches the text that ends at byte e (R418). -/
def stopAt (text stops : BitVec 4096) (e s : Nat) : Bool :=
  let n := elem stops 8 (64 * s)
  decide (1 ≤ n ∧ n ≤ 32 ∧ n ≤ e + 1) &&
    (List.range n).all fun j => elem text 8 (e + 1 - n + j) == elem stops 8 (64 * s + 1 + j)

/-- VMATCH (R418). -/
def execVmatch (d a b : BitVec 3) (l : BitVec 4) : State → Res :=
  vecOp (.vmatch d a b l) l [.v a, .v b] [.v d] fun x =>
    let text := x.readV a; let stops := x.readV b
    let len := elem text 8 128; let first := elem text 8 129; let nstop := elem text 8 130
    let none4 := [0xFFFFFFFF, 0xFFFFFFFF, 0xFFFFFFFF]
    [.v d (ofElems 32 (if len = 0 ∨ 96 < len ∨ len < first ∨ 8 < nstop then none4 ++ [1]
      else match (List.range (len - first)).findSome? fun i =>
          ((List.range nstop).find? (stopAt text stops (first + i))).map fun s => (first + i, s) with
        | some (e, s) => [e + 1 - elem stops 8 (64 * s), s, e]
        | none => none4))]

end Sys2Proof.Machine
end

