-- ==== Sys2Proof/Machine/LaunchDev.lean ====
section
/-! DEFINITION. Launch queues and launches (R47–R57, R114–R118, R122, R135, R138, R156, R157). -/

namespace Sys2Proof.Machine

/-! ### Fields of a launch packet (R50–R53) -/


def Launch.serial (l : Launch) : Bool := rd l.pkt 1 1 % 2 == 1
def Launch.waits? (l : Launch) : Bool := rd l.pkt 1 1 / 2 % 2 == 1
def Launch.waitq (l : Launch) : Nat := rd l.pkt 3 1 % 64
def Launch.resvid (l : Launch) : Nat := rd l.pkt 6 2
def Launch.waitseq (l : Launch) : Word := BitVec.ofNat 32 (rd l.pkt 0xC 4)
def Launch.comp (l : Launch) : Dword := dw (rd l.pkt 0x10 8)
def Launch.entries (l : Launch) : Nat := rd l.pkt 0x48 4

/-! ### Taking a packet (R49, R54) -/

/-- Bytes off .. off + n − 1 of a packet are zero. -/
def zeroAt (p : List Byte) (off n : Nat) : Bool := ((p.drop off).take n).all (· == 0)

/-- RSVD (R54). -/
def packetRsvd (p : List Byte) : Bool :=
  rd p 1 1 / 16 != 0 || rd p 2 1 / 8 != 0 || rd p 3 1 / 64 != 0 || !zeroAt p 0x24 28 || !zeroAt p 0xF0 8 || !zeroAt p 0xFC 4 ||
  (match rd p 0 1 with
   | 1 => !zeroAt p 0x61 0x8F
   | 2 => !zeroAt p 0x4C 0xA4
   | _ => !zeroAt p 0x4D 1 || !zeroAt p 0x54 4 || !zeroAt p 0x60 0x90)

/-- LIMIT (R50–R53, R115). -/
def packetLimit (l : Launch) : Bool :=
  let p := l.pkt
  decide (4096 < rd p 0x20 4) || (rd p 0x18 8 == 0 && rd p 0x20 4 != 0) || (!l.cls && l.resvid != 0) ||
  (l.waits? == (rd p 0xC 4 == 0)) ||
  (match l.kind with
   | 1 => ([0, 1, 2].any fun i => decide (l.subExt i = 0 ∨ 0x100000 < l.subExt i)) || decide (l.slots = 0 ∨ 8 < l.slots) ||
     decide (2 ^ 47 < l.tiles)
   | 2 => decide (l.entries = 0 ∨ 65536 < l.entries)
   | _ => decide (l.entries = 0 ∨ 65536 < l.entries) ||
     (if rd p 0x4C 1 = 1 then decide (rd p 0x50 4 = 0 ∨ 0x1000000 < rd p 0x50 4) || rd p 0x58 8 != 0 else rd p 0x50 4 != 0))

/-- ALIGN (R50–R53). -/
def packetAlign (p : List Byte) : Bool :=
  rd p 0x10 8 % 8 != 0 || rd p 0x18 8 % 64 != 0 ||
  (match rd p 0 1 with
   | 1 => rd p 0x40 8 % 4 != 0
   | 2 => rd p 0x40 8 % 128 != 0
   | _ => rd p 0x40 8 % 4 != 0 || rd p 0x58 8 % 256 != 0)

/-- NOADMIT (R135). -/
def State.noAdmit (s : State) (l : Launch) : Bool :=
  l.cls && (decide (64 ≤ l.resvid) || rd (s.resvEntry l.resvid) 0 2 == 0 || rd (s.resvEntry l.resvid) 0 2 != l.tenant.toNat ||
    (s.resvLive.find? l.resvid).isSome)

/-- The reason of R54 that a packet earns, or zero. -/
def State.launchReason (s : State) (q : LaunchQueue) (l : Launch) : Byte :=
  let p := l.pkt
  if l.kind = 0 ∨ 3 < l.kind ∨ l.domain = 3 ∨ (l.kind = 3 ∧ 1 < rd p 0x4C 1) then 1
  else if packetRsvd p then 2
  else if rd p 4 2 ≠ q.tenant.toNat then 3
  else if rd p 8 4 ≠ l.seq.toNat ∨ rd p 0xF8 4 ≠ l.seq.toNat then 4
  else if packetLimit l then 5
  else if packetAlign p then 6
  else if l.waits? ∧ (s.lqs.find? l.waitq).isNone then 7
  else if s.noAdmit l then 8 else 0

/-- A launch as its packet is taken. -/
def newLaunch (s : State) (q : Nat) (x : LaunchQueue) (pkt : List Byte) (home : Nat) : Launch where
  n := s.nextN
  q := q
  slot := x.head
  seq := x.expseq
  pkt := pkt
  tenant := x.tenant
  home := home
  started := []
  finished := []
  next := []
  ended := []
  live := []
  bad := []
  faults := 0
  start := 0
  step := []
  aborted := false
  mark := s.orderN

/-- Launches of a queue in slot order. -/
def State.queueLaunches (s : State) (q : Nat) : List Launch := s.launches.filter fun l => l.q == q

/-- COMPLETED follows the launches that have completed with all before them (R47). A launch goes once its completion word is
written and those before it have gone. -/
def State.retireLaunches (s : State) (q : Nat) : State :=
  let done := (s.queueLaunches q).takeWhile (·.done)
  match done.getLast? with
  | none => s
  | some l =>
    let past := (done.takeWhile fun x => x.stage == 2).map (·.n)
    { s with
      lqs := match s.lqs.find? q with
        | some x => s.lqs.put q { x with completed := l.seq }
        | none => s.lqs
      launches := s.launches.filter fun (x : Launch) => !past.contains x.n }

/-- LAUNCH_UNIT_TAKE (R49, R54); a tenant that is being destroyed has its launches aborted (R46). -/
def execLaunchUnitTake (s : State) : Res :=
  let q := s.ev.who
  .next <| match s.lqs.find? q with
    | none => s
    | some x => match x.frames with
      | [] => s
      | f :: _ =>
        if !(x.arms.getD x.head false) then s
        else
          let l := newLaunch s q x (s.readHome (f + 256 * x.head) 256) (homeDie f)
          let dying := s.dying x.tenant
          let r := if dying then 0 else s.launchReason x l
          let x := { x with
            arms := x.arms.set x.head false, head := (x.head + 1) % x.depth
            expseq := if x.expseq = 0xFFFFFFFF then 1 else x.expseq + 1 }
          let l := { l with reason := r, done := r != 0, aborted := dying }
          let s := { s with
            lqs := s.lqs.put q x, launches := s.launches ++ [l], nextN := s.nextN + 1
            resvLive := if r = 0 ∧ l.cls ∧ !dying then s.resvLive.put l.resvid l.n else s.resvLive }
          s.retireLaunches q

/-! ### Starting (R55, R114) -/

/-- WAIT holds (R55). -/
def State.waitMet (s : State) (l : Launch) : Bool :=
  !l.waits? || match s.lqs.find? l.waitq with
    | some x => x.completed != 0 && decide ((x.completed - l.waitseq).toNat < 2 ^ 31)
    | none => false

/-- A die may start a launch: the earlier ones of its queue have started there, SERIAL and WAIT hold, and the die has applied
what had been performed when the arm word was full (R55, R114). -/
def State.canStartLaunch (s : State) (d : Nat) (l : Launch) : Bool :=
  let before := (s.queueLaunches l.q).filter fun e => decide (e.n < l.n)
  l.reason == 0 && !l.aborted && !l.started.contains d && (before.all fun e => e.done || e.started.contains d) &&
    (!l.serial || before.getLast?.all (·.done)) && s.waitMet l &&
    s.writes.all fun w => !(w.performed && decide (w.order < l.mark) && w.todo.contains d)

/-- A launch by its number. -/
def State.launch? (s : State) (n : Nat) : Option Launch := s.launches.find? fun l => l.n = n

/-- A die starts its share; the first start reloads the reservation's counters from then on (R136). -/
def State.startLaunch (s : State) (d : Nat) (l : Launch) : State :=
  let s := s.modLaunch l.n fun l => { l with
    started := l.started ++ [d], start := if l.started = [] then max 1 s.timer.toNat else l.start }
  if l.cls then s.reload d l.resvid else s

/-- A step of a launch on a die: `go` runs once the die has started it, starting it first where it may. -/
def launchStep (kind : Nat) (go : Launch → State → State) (s : State) : State :=
  match s.launch? s.ev.n with
  | none => s
  | some l =>
    if l.kind ≠ kind ∨ l.aborted then s
    else if l.started.contains s.ev.who then go l s
    else if s.canStartLaunch s.ev.who l then go { l with started := l.started ++ [s.ev.who] } (s.startLaunch s.ev.who l)
    else s

/-- SWEEP_LAUNCH_START (R115). -/
def execSweepLaunchStart (s : State) : Res := .next (launchStep 1 (fun _ s => s) s)


/-- The record of the strand of a tile (R116). -/
def Launch.record (l : Launch) (tile core uid : Nat) : StrandRec where
  pc := dw (rd l.pkt 0x40 8)
  pw := 1
  flags := BitVec.ofNat 32 (l.tenant.toNat * 65536 + 16 + l.prio * 4 + (if l.cls then 2 else 0))
  g := [0, 0, l.tag tile, dw (rd l.pkt 0x18 8), dw (rd l.pkt 0x20 4), 0, 0, 0, 0, 0, 0, 0]
  joinblk := 0
  owner := l.tag tile
  uid := uid
  cl := core / 4

/-- The tile that a worker runs now, or ran last. -/
def Launch.workerTile (l : Launch) (w : Nat) : Nat := (l.next.getD w 0 - 1) * l.workers + w

/-- SWEEP_STRAND_START (R115, R118, R139): a worker's next strand enters its core's run queue once its last one has executed
TDONE; a full run queue holds it at the launch unit. -/
def execSweepStrandStart (s : State) : Res :=
  .next <| match s.launch? s.ev.n with
    | none => s
    | some l =>
      let w := s.ev.m
      let c := workerCore w
      if l.kind ≠ 1 ∨ l.aborted ∨ !l.started.contains s.ev.who ∨ l.workers ≤ w ∨ c / 160 ≠ s.ev.who ∨
          l.next.getD w 0 ≠ l.ended.getD w 0 ∨ l.rounds ≤ l.next.getD w 0 then s
      else
        let tile := l.next.getD w 0 * l.workers + w
        match s.pushRun c (l.record tile c s.nextN) with
        | none => s.modLaunch l.n fun l => { l with held := if (l.held.find? w).isSome then l.held else l.held.put w s.timer.toNat }
        | some s => { s with nextN := s.nextN + 1 }.modLaunch l.n fun l => { l with
            next := bump l.next w, live := bump l.live tile, held := l.held.del w }

/-! ### GRAPH (R122, R123) -/

/-- The accessor of a launch unit. -/
def Launch.who (l : Launch) (d : Nat) : Who := whoUnit d l.tenant (.launch l.n d) 0

/-- The next entry of a launch's array is dealt with on a die. -/
def State.nextEntry (s : State) (d : Nat) (l : Launch) : State :=
  ((s.dropFault (.launch l.n d)).dropRequests (.launch l.n d)).modLaunch l.n fun l => { l with step := bump l.step d }

/-- One card of the array on a die: queued, or waiting with STATUS 0 (R122). A FATAL reply on a STATUS write faults the task on
the card's die (R119). -/
def graphCard (d : Nat) (l : Launch) (card : Dword) : M Unit := do
  let w := l.who d
  let p ← cardPlace w card
  match p with
  | .error e => throw (.fatal e.2 card)
  | .ok pa =>
    if homeDie pa = d then
      let img ← readPlace w card (.mem pa) 128
      let s ← get
      if ((s.launch? l.n).map (·.posted.contains card)).getD false then pure ()
      else if cardPredcnt img = 0 then
        let _ ← queueCard w d (cardStage img) card img (some l.n)
      else
        orFatal (do
          writeStatus w card 0
          modify fun s => (s.putTask { newTask s d card img l.tenant (some l.n) .waiting with queue := cardStage img }).1)
          fun sub _ => modify fun s => s.refuseReady d (cardStage img) card img l.tenant (some l.n) 0x07 sub

/-- GRAPH_LAUNCH_START (R122): a die starts its share, and then deals with the array's cards in order. A card that cannot be
read or queued has one entry, from the launch's home die (R121). -/
def execGraphLaunchStart (s : State) : Res :=
  let d := s.ev.who
  .next <| launchStep 2 (fun l s =>
    let i := l.step.getD d 0
    if l.entries ≤ i then s
    else
      let card := dw (rd l.pkt 0x40 8 + 128 * i)
      runM (do
          graphCard d l card
          modify (·.nextEntry d l))
        (fun sub _ s =>
          let s := s.nextEntry d l
          if d = l.home then s.refuseCard d card l.tenant (some l.n) 0x07 sub else s)
        (fun _ s => s) s) s

/-! ### STREAMSET (R156, R157) -/

/-- A failed element or pair (R156): an entry of the fault queue, counted once. -/
def State.failPair (s : State) (d : Nat) (l : Launch) (card : Dword) (cause sub : Byte) (va : Dword) : State :=
  (s.postFaultEntry d (faultEntry card cause sub 0xFFFFFFFF 0 va) none).modLaunch l.n fun l => { l with faults := l.faults + 1 }

/-- The launch's home die reports an element of SIDS that cannot be read. -/
def failElement (d : Nat) (l : Launch) (va : Dword) (sub : Byte) : M Unit :=
  if d = l.home then modify (·.failPair d l va 0x07 sub va) else pure ()

/-- A model that a stream of the launch may not name (R155, R157). DESIGN CHOICE: a pair whose MODEL is valid but is not the
launch's fails with MODEL (log entry 61). -/
def State.modelBad (s : State) (l : Launch) (m : Nat) : Bool :=
  m != rd l.pkt 0x4E 2 || decide (255 < m) || (s.models.find? m).isNone || modelTenant (s.model m) != l.tenant

/-- The subcode that an image earns (R155, R156). -/
def State.imageSub (s : State) (l : Launch) (id : Nat) (r : List Byte) : Option Byte :=
  firstSub [subIf (!sidOk id) 1, subIf (scbTenant r != l.tenant) 2, subIf (scbState (s.scb id) != 0) 3,
    subIf (scbGroup r != 0 && !s.groupOpen (scbGroup r) l.tenant) 5, subIf (s.modelBad l (scbModel r)) 7,
    subIf (rd r 0 4 != id || scbRoot r != 0 || scbFlags r != 0 || scbPages r != 0 || scbState r != 0 ||
      decide (scbAlog2 r = 0 ∨ 12 < scbAlog2 r) || decide (modelLayers (s.model (scbModel r)) ≤ scbCursor r) ||
      rd r 0x10 8 % 64 != 0 || rd r 0x1D 1 != 0 || rd r 0x1F 1 != 0 || rd r 0x5C 4 != 0) 8]

/-- A fresh empty state space on the stream's die (R156): its level-3 node. -/
def freshRoot (w : Who) (va : Dword) : M Nat := do
  let _ ← verdict w va
  let s ← get
  match s.allocNode w.die with
  | none => throw (stopFault s w (.tenant w.tenant) va 5 8192 kPoolEmpty 3 0)
  | some pa =>
    set { s with mem := [0, 1, 2, 3].foldl (fun m d => replaceMem m (viewKey d pa) 8192 []) s.mem }
    modify (·.modNode pa fun _ => ⟨1, 3, false, w.tenant⟩)
    pure pa

/-- START of one pair on the home die of its id (R156). -/
def startPair (d : Nat) (l : Launch) (i id : Nat) : M Unit := do
  let w := l.who d
  let va := dw (rd l.pkt 0x58 8 + 256 * i)
  let r ← readMem w va 256 4
  let s ← get
  match s.imageSub l id r with
  | some sub => modify (·.failPair d l (dw id) 0x0D sub 0)
  | none =>
    let root ← freshRoot w va
    let c := wr (wr (wr (wr (wr (wr r 8 8 root) 0x30 4 0xFFFFFFFF) 0x28 2 0) 0x18 2 0) 0x1A 2 0) 0x1E 1 0
    modify fun s => ({ s with scbs := s.scbs.put id c }.settle id).joinGroup id

/-- The subcode that ADVANCE of a stream earns (R157). -/
def State.advanceSub (s : State) (l : Launch) (id : Nat) : Option Byte :=
  let r := s.scb id
  firstSub [subIf (!sidOk id || scbState r == 0) 1, subIf (scbTenant r != l.tenant) 2,
    subIf (!((scbState r == 4 && scbHorizon r == 0) || (scbState r == 5 && scbPrev r == 4))) 3, subIf (s.modelBad l (scbModel r)) 7]

/-- ADVANCE of one stream (R157). -/
def State.advancePair (s : State) (d : Nat) (l : Launch) (id : Nat) : State :=
  match s.advanceSub l id with
  | some sub => s.failPair d l (dw id) 0x0D sub 0
  | none =>
    let s := s.scbStep id fun r =>
      let r := wr (wr r 0x20 4 (rd l.pkt 0x50 4)) 0x1E 1 0
      if scbState r = 5 then setPrev r (nextState r) else r
    if scbState (s.scb id) = 5 then s else s.settle id

/-- One element of SIDS on a die (R156): the home die of the id deals with it. -/
def streamElement (op d : Nat) (l : Launch) (i : Nat) : M Unit := do
  let va := dw (rd l.pkt 0x40 8 + 4 * i)
  let r ← orFatal (do
      let bs ← readMem (l.who d) va 4 4
      pure (some (leNat bs))) fun sub _ => do
        failElement d l va sub
        pure none
  match r with
  | none => pure ()
  | some id =>
    if scbHome id = d then
      if op = 0 then orFatal (startPair d l i id) fun sub va => modify (·.failPair d l (dw id) 0x07 sub va)
      else modify (·.advancePair d l id)

/-- A STREAMSET launch with an OP on a die. -/
def streamset (op : Nat) (s : State) : State :=
  let d := s.ev.who
  launchStep 3 (fun l s =>
    let i := l.step.getD d 0
    if rd l.pkt 0x4C 1 ≠ op ∨ l.entries ≤ i then s
    else runM (do
        streamElement op d l i
        modify (·.nextEntry d l)) (fun _ _ s => s) (fun _ s => s) s) s

/-- STREAMSET_START (R156). -/
def execStreamsetStart (s : State) : Res := .next (streamset 0 s)

/-- STREAMSET_ADVANCE (R157). -/
def execStreamsetAdvance (s : State) : Res := .next (streamset 1 s)

/-! ### Completion (R56, R57) -/

/-- Successors of a card. -/
def cardSuccs (img : List Byte) : List Dword := ([dw (rd img 0x20 8), dw (rd img 0x28 8)]).filter (· != 0)

/-- Waiting tasks of a launch that wait on a task in the fault queue, found in `n` rounds. -/
def State.blockedTasks (s : State) (l : Nat) : Nat → List Nat → List Nat
  | 0, known => known
  | n + 1, known =>
    let ts := s.tasks.filter fun t => decide (t.launch = some l)
    let from_ := (ts.filter fun t => t.phase == .faulted || known.contains t.n).flatMap fun t => cardSuccs t.img
    State.blockedTasks s l n ((ts.filter fun t => t.phase == .waiting && from_.contains t.card).map (·.n))

/-- Every task of the launch on a die has retired, stands in the fault queue, or waits on one that does (R56). -/
def State.tasksDone (s : State) (d : Nat) (l : Launch) : Bool :=
  let mine := s.tasks.filter fun t => decide (t.launch = some l.n)
  let blocked := s.blockedTasks l.n mine.length []
  mine.all fun t => t.die != d || t.phase == .faulted || blocked.contains t.n

/-- Every SWEEP strand of the workers of a die has ended, but for those of tiles in the fault queue. -/
def State.sweepDone (d : Nat) (l : Launch) : Bool :=
  let ws := (List.range l.workers).filter fun w => w % 4 == d
  (ws.all fun w => l.ended.getD w 0 == l.rounds || (l.next.getD w 0 != 0 && l.bad.contains (l.workerTile w))) &&
    l.live.all fun e => e.1 % l.workers % 4 != d || e.2 == 0 || l.bad.contains e.1

/-- No tile command of the launch from a die is unfinished (R56), and a strand of it that stays in its slot has neither a store that
has yet to leave nor an MSEND or RFILL that has yet to be delivered, as a release at PACKAGE scope waits for them (R114). -/
def State.cmdsDone (s : State) (d : Nat) (l : Launch) : Bool :=
  let mine := fun (owner : Dword) (t : Half) => decide ((s.strandLaunch owner t).map (·.n) = some l.n)
  (s.cmds.all fun m => dieOf m.slot != d || !mine m.owner m.tenant) &&
    s.slots.all fun (e : Nat × Slot) => dieOf e.1 != d || decide (e.2.occ ≠ .stopped ∧ e.2.occ ≠ .halted) ||
      (!e.2.outs.any Outst.writePending && s.delivered e.2.outs (·.isSome)) || !mine e.2.owner e.2.tenant

/-- A die's share of a launch is over; one of a launch that was aborted is when its commands have ended (R46, R56). -/
def State.shareDone (s : State) (d : Nat) (l : Launch) : Bool :=
  s.cmdsDone d l && (l.aborted || (l.started.contains d && s.tasksDone d l &&
    match l.kind with
    | 1 => l.tiles == 0 || State.sweepDone d l
    | _ => decide (l.entries ≤ l.step.getD d 0)))

/-- LAUNCH_DIE_DONE (R56). -/
def execLaunchDieDone (s : State) : Res :=
  let d := s.ev.who
  .next <| match s.launch? s.ev.n with
    | none => s
    | some l => if l.reason = 0 ∧ ¬l.finished.contains d ∧ s.shareDone d l then
        s.modLaunch l.n fun l => { l with finished := l.finished ++ [d] } else s

/-- The launch missed its admitted bound (R138). -/
def State.launchLate (s : State) (l : Launch) : Bool :=
  l.cls && l.reason == 0 && decide (l.start + rd (s.resvEntry l.resvid) 0x14 4 < s.timer.toNat)

/-- Tasks of the launch in fault queues (R57): its tasks, its tiles, and the pairs of a STREAMSET that failed (R156). -/
def State.faultCount (s : State) (l : Launch) : Nat :=
  l.faults + l.bad.length +
    (s.tasks.filter fun t => decide (t.launch = some l.n) && (t.phase == .faulting || t.phase == .faulted)).length

/-- STATUS of the completion word (R57). -/
def State.launchStatus (s : State) (l : Launch) : Nat :=
  if l.reason ≠ 0 then 4 else if l.aborted then 5 else if s.faultCount l ≠ 0 then 2 else if s.launchLate l then 3 else 1

/-- The completion word (R57). -/
def State.compWord (s : State) (l : Launch) : Nat :=
  l.seq.toNat * 2 ^ 32 + min 255 (s.faultCount l) * 2 ^ 24 + l.reason.toNat * 256 + s.launchStatus l

/-- Writes the completion word; one in host memory goes by the queue's completion queue pair (R57). -/
def writeComp (l : Launch) : M Unit := do
  let s ← get
  let w := l.who l.home
  let bs := leBytes 8 (s.compWord l)
  let p ← placeWrite w l.comp 8 5
  match p with
  | .host =>
    match s.freeTag l.home with
    | none => throw (.wait id)
    | some tag =>
      let q := ((s.lqs.find? l.q).map (·.qp)).getD 0
      modify fun s => ((s.addRequest { w with req := .device s.nextN } tag 0x10000 0x104 []).sendRoce q l.home tag
        (.rdmaWrite q l.comp bs))
  | p =>
    let _ ← writePlace w l.comp p bs

/-- The launch is over: its reservation is free, and COMPLETED follows (R47, R56). DESIGN CHOICE: a late launch whose STATUS is
FAULTED or ABORTED does not raise SCHEDSTAT.LATE (log entry 19). -/
def State.closeLaunch (s : State) (l : Launch) : State :=
  let s := (s.dropFault (.launch l.n l.home)).dropRequests (.launch l.n l.home)
  let s := if l.reason = 0 ∧ s.launchStatus l = 3 then s.modDie l.home fun d => { d with late := evAdd d.late 1 } else s
  let s := s.modLaunch l.n fun l => { l with done := true, stage := 2 }
  let s := if s.resvLive.find? l.resvid = some l.n then { s with resvLive := s.resvLive.del l.resvid } else s
  s.retireLaunches l.q

/-- A completion word that cannot be written is counted as lost, with a fault queue entry (R54). -/
def State.loseComp (s : State) (l : Launch) (cause sub : Byte) : State :=
  let s := match s.lqs.find? l.q with
    | some x => { s with lqs := s.lqs.put l.q { x with lost := x.lost + 1 } }
    | none => s
  (s.postFaultEntry l.home (faultEntry 0 cause sub 0xFFFFFFFF 0 l.comp) none).closeLaunch l

/-- Steps 1–4 of R56. Writes to another package have been performed once its FENCE is answered OK (R111, R114); one that is
answered otherwise is sent again. -/
def completeM (l : Launch) : M Unit := do
  let s ← get
  if l.reason ≠ 0 ∨ l.stage = 1 then
    if !l.waits.all s.writeDone then throw (.wait id)
    if l.reason = 0 then
      for d in [0, 1, 2, 3] do
        orFatal (fenceTouched d (.launch l.n l.home)) fun _ _ => throw (.wait fun s =>
          { s with requests := s.requests.filter fun (r : Request) => !(decide (r.who = .launch l.n l.home) && r.die == d && r.opc == 9) })
    writeComp l
    modify (·.closeLaunch l)
  else modify fun s => s.modLaunch l.n fun l => { l with stage := 1, waits := s.writes.map (·.n) }

/-- LAUNCH_COMPLETE (R56, R57): the fourth addition, then the writes, the completion word and COMPLETED. The flush of every
L1 changes no value that a die view gives. -/
def execLaunchComplete (s : State) : Res :=
  .next <| match s.launch? s.ev.who with
    | none => s
    | some l =>
      if l.stage = 2 ∨ (l.reason = 0 ∧ l.finished.length < 4) then s
      else if l.comp.toNat % 8 ≠ 0 then s.loseComp l 0x03 0x03
      else runM (completeM l) (fun sub _ s => s.loseComp l 0x07 sub) (fun _ s => s) s

end Sys2Proof.Machine
end

