-- ==== Sys2Proof/Machine/Power.lean ====
section
/-! DEFINITION. Package reset and restore (R9, R17, R20, R181, R182), power, freeze, thaw and read-out (R12–R19). -/

namespace Sys2Proof.Machine

/-! ### Package reset (R9, R17, R20, R181) -/

/-- A boot configuration that stops the boot with BADCFG (R9, R20). -/
def bootBad (b : Boot) (id : BitVec 16) : Bool :=
  let dims := [b.wsz, b.xsz, b.ysz, b.zsz]
  decide (16 < b.poolsz) || dims.any (fun n => decide (n = 0 ∨ 16 < n)) ||
    (dims.zipIdx.any fun d => decide (d.1 ≤ coordOf id.toNat d.2))

/-- The firmware check of every die passes: the image's key is the vendor's, whose digest is fused, its signature holds under that
key, and its version is not below the fused counter (R17). -/
def State.firmwareOk (s : State) (b : Boot) : Bool :=
  b.images.length == 4 && b.images.all fun i => decide (Sha.sha512 i.key = s.fuseKey) && i.signed && decide (s.fuseVer ≤ i.version)

/-- The part as a package reset leaves it; what the fuses hold, and the model's own fields, stay. DESIGN CHOICE: a freeze that is
in force goes with PWRSTAT, whatever its source (log entry 48). -/
def State.afterReset (s : State) : State :=
  { State.reset with
    agenda := s.agenda, focus := s.focus, ev := s.ev, freeCtr := s.freeCtr, nextN := s.nextN, out := s.out, regions := s.regions
    pkgid := s.pkgid, pkgBurnt := s.pkgBurnt, fuseVer := s.fuseVer, fuseKey := s.fuseKey }

/-- PACKAGE_RESET (R9, R17, R20, R181): the firmware check, then the boot configuration; a stopped boot leaves the package in
reset and reports its cause, 1 BOOTAUTH or 2 BADCFG. -/
def execPackageReset (s : State) : Res :=
  let b := s.ev.boot
  let t := s.afterReset
  .next <| if !s.firmwareOk b then { t with boot := 1, images := [] }.emit (.event 3 [1])
    else if bootBad b s.pkgid then { t with boot := 2, images := b.images }.emit (.event 3 [2])
    else
      let t := { t with poolsz := b.poolsz, torus := (b.wsz, b.xsz, b.ysz, b.zsz), linkup := b.linkup, images := b.images }
      match b.restore with
      | some (gen, img) => t.restoreImage gen img
      | none => t

/-- PACKAGE_ID_BURN (R20): once. -/
def execPackageIdBurn (s : State) : Res := .next <| if s.pkgBurnt then s else { s with pkgid := s.ev.id, pkgBurnt := true }

/-! ### Power (R12, R13) -/

/-- PWRSTAT with a bit set or clear (R13). -/
def setPwr (p : Dword) (i : Nat) (b : Bool) : Dword := setBits p i i (if b then 1 else 0)
/-- WARN follows HOTDIE. -/
def fixWarn (p : Dword) : Dword := setPwr p 4 (bits p 3 0 != 0)

/-- THERMAL_WARNING (R12): PWRSTAT, and the event of the host completion path; the 100 ms of R16 start again. -/
def execThermalWarning (s : State) : Res :=
  let d := s.ev.who % 4
  .next ({ s with pwr := fixWarn (setPwr s.pwr d true), freeze := { s.freeze with thermalOk := false } }.emit
    (.event 1 [BitVec.ofNat 8 d]))

/-- THERMAL_WARNING_CLEAR (R13). -/
def execThermalWarningClear (s : State) : Res := .next { s with pwr := fixWarn (setPwr s.pwr (s.ev.who % 4) false) }

/-- THROTTLE_START (R12, R13): timing only, and PWRSTAT.THROT. -/
def execThrottleStart (s : State) : Res := .next { s with pwr := setPwr s.pwr 5 true }

/-- THROTTLE_END (R12, R13). -/
def execThrottleEnd (s : State) : Res := .next { s with pwr := setPwr s.pwr 5 false }

/-! ### Freeze and thaw (R14, R16) -/

/-- A freeze is in force. -/
def Freeze.any (f : Freeze) : Bool := f.pin || f.aigon || f.thermal || f.current

/-- A source asserts the freeze; TRIP keeps the cause of the first (R16). -/
def State.assertFreeze (s : State) (cause : Nat) (f : Freeze → Freeze) : State :=
  { s with pwr := if s.freeze.any then s.pwr else setBits s.pwr 7 6 cause, freeze := f s.freeze }

/-- TRIP (R12, R14): thermal, or by current where the flag says so. -/
def execTrip (s : State) : Res :=
  .next <| if s.ev.flag then s.assertFreeze 2 fun f => { f with current := true, currentOk := false }
    else s.assertFreeze 1 fun f => { f with thermal := true, thermalOk := false }

/-- FREEZE_PIN_ASSERT (R14). -/
def execFreezePinAssert (s : State) : Res := .next <| s.assertFreeze 3 fun f => { f with pin := true, edges := none }

/-- AIGON_FREEZE_REQUEST (R14). DESIGN CHOICE: PWRSTAT.TRIP, which R13 names no value for, is 3 as for the pin (log entry 48). -/
def execAigonFreezeRequest (s : State) : Res := .next <| s.assertFreeze 3 fun f => { f with aigon := true, aigonOk := false }

/-- FREEZE_PIN_DEASSERT (R16): the count to the 64th edge starts. -/
def execFreezePinDeassert (s : State) : Res :=
  .next <| if s.freeze.pin then { s with freeze := { s.freeze with edges := some 0 } } else s

/-- THERMAL_THAW (R16): every junction has been below 95 °C for 100 ms, so no bit of HOTDIE is set. -/
def execThermalThaw (s : State) : Res :=
  .next <| if s.freeze.thermal && bits s.pwr 3 0 == 0 then { s with freeze := { s.freeze with thermalOk := true } } else s

/-- CURRENT_THAW (R16). -/
def execCurrentThaw (s : State) : Res :=
  .next <| if s.freeze.current then { s with freeze := { s.freeze with currentOk := true } } else s

/-- The conditions of the sources other than an Aigon request (R16). -/
def Freeze.othersOk (f : Freeze) : Bool :=
  (!f.pin || f.edges.isSome) && (!f.thermal || f.thermalOk) && (!f.current || f.currentOk)

/-- AIGON_THAW_REQUEST (R16): a request made before the other conditions hold is refused. -/
def execAigonThawRequest (s : State) : Res :=
  .next <| if s.freeze.aigon && s.freeze.othersOk then { s with freeze := { s.freeze with aigonOk := true } } else s

/-- THAW_RESTART (R16): once every source's condition holds, the clocks restart, at the 64th edge after the pin's
deassertion; the packets that came in meanwhile are dealt with first (R14). DESIGN CHOICE: PWRSTAT.TRIP keeps its cause until the
next freeze (log entry 48). -/
def execThawRestart (s : State) : Res :=
  let f := s.freeze
  .next <| if f.any && f.othersOk && (!f.aigon || f.aigonOk) then
      { s with
        freeze := ⟨false, false, false, false, none, false, false, false⟩
        agenda := s.linkHeld ++ s.agenda
        linkHeld := [] }.flushLinks
    else s

/-! ### Read-out (R15, R18) -/

/-- A register of a slot by the read-out's number (log entry 31): 0–31 g, 32–39 v, 64–67 m, 72 predicates, 73 PC, and
0x1000 + n control register n. -/
def State.readoutRegister (s : State) (k n : Nat) : List Byte :=
  let x := s.slot k
  if n < 32 then leBytes 8 (x.readG (BitVec.ofNat 5 n)).toNat
  else if n < 40 then leBytes 512 (x.readV (BitVec.ofNat 3 n)).toNat
  else if 64 ≤ n ∧ n < 68 then leBytes 64 (x.readM (BitVec.ofNat 2 n)).toNat
  else if n = 72 then [x.p]
  else if n = 73 then leBytes 8 x.pc.toNat
  else if 0x1000 ≤ n ∧ n < 0x2000 then leBytes 8 (s.csr k (n - 0x1000)).toNat
  else []

/-- A queue of a die by its id: the cards of a task queue, the fault queue (R124) and the Dealer queue (R373). -/
def State.readoutQueue (s : State) (d n : Nat) : List Byte :=
  if n = 16 then (s.die d).faultq.flatten
  else if n = 17 then (s.die d).dealer.flatMap fun x => leBytes 8 x.toNat
  else (s.queueOf d n).flatMap fun t => match s.tasks.find? fun x => x.n = t with
    | some x => leBytes 8 x.card.toNat
    | none => []

/-- A table of a die (log entry 31): 0 streams, 1 models, 2 groups, 3 reservations, 4 node and 5 frame descriptors of its home,
6 Cast entries, 7 arenas, 8 stages, 9 grammar slots, 10 tenants without their keys, 11 the deck. The key table, 12, reads as zeros
(R45). DESIGN CHOICE: a table is given as those of its entries that are not as at reset, in their order and without their numbers,
and an unknown id as 64 zero bytes (log entry 31). -/
def State.readoutTable (s : State) (d n : Nat) : List Byte :=
  match n with
  | 0 => (s.scbs.filter fun e => scbHome e.1 == d).flatMap (·.2)
  | 1 => s.models.flatMap (·.2)
  | 2 => (s.groups.filter fun e => e.1 / 2 ^ 30 == d).flatMap (·.2.img)
  | 3 => s.resv.flatMap (·.2)
  | 4 => (s.nodes.filter fun e => homeDie (e.1 * 8192) == d).flatMap fun e => e.2.image
  | 5 => (s.frames.filter fun e => homeDie (e.1 * 65536) == d).flatMap fun e => e.2.image
  | 6 => (s.cast.filter fun e => e.1 / 65536 == d).flatMap fun e => CastEntry.image e.2
  | 7 => (s.arenas.filter fun e => e.1 / 1024 == d).flatMap fun e =>
      leBytes 2 e.2.tenant.toNat ++ [if e.2.slot.isSome then 2 else 1, if e.2.cur then 1 else 0] ++ leBytes 4 e.2.next ++
        leBytes 8 e.2.base.toNat
  | 8 => (s.die d).stages.flatMap (·.2)
  | 9 => s.grams.flatMap fun e => [BitVec.ofNat 8 e.1, if e.2.unloading then 2 else 1] ++ leBytes 2 e.2.tenant.toNat ++
      leBytes 4 e.2.img.length ++ (e.2.frames.drop (d % 4)).head?.toList.flatMap (leBytes 8)
  | 10 => s.tenants.flatMap fun e => leBytes 2 e.1 ++ e.2.openImage.drop 2
  | 11 => (s.die d).deck.flatMap (·.bytes)
  | _ => List.replicate 64 0

/-- A byte of physical memory as the read-out gives it: in a frame that the firmware reserves for a table, that of the table's
record there (R77, R179), but zero for the tenants' keys (R45). -/
def State.readoutByte (s : State) (cells : Memory) (pa : Nat) : List Byte :=
  if s.inRegion 8 0 (pa / 65536) then [if 8 ≤ pa % 64 ∧ pa % 64 < 24 then 0 else cells.readByte pa]
  else if s.reserved (pa / 65536) then [cells.readByte pa]
  else s.readHome pa 1

/-- The page of an address is a locked tenant's (R18). -/
def State.lockedAt (s : State) (pa : Nat) : Bool := (s.tenant? (s.frameDesc pa).owner).any (·.locked)

/-- READOUT_REQUEST (R15, R18): only while frozen; no state changes. The reply is the denial flag and the bytes; those of
a locked tenant's pages are zeros. DESIGN CHOICE: the flag is the first byte, and a queue or register of no known number gives no
bytes (log entry 31); a request to a device that is not frozen gets no reply (log entry 48). -/
def execReadoutRequest (s : State) : Res :=
  let reply := fun (denied : Bool) (bs : List Byte) => s.emit (.readout ((if denied then 1 else 0) :: bs))
  .next <| if !s.freeze.any then s
    else match s.ev.target with
      | .register k n => reply false (s.readoutRegister k n)
      | .queue d n => reply false (s.readoutQueue d n)
      | .table d n => reply false (s.readoutTable d n)
      | .physical a n =>
        reply ((List.range n).any fun i => s.lockedAt (a + i))
          (let cells := s.tableCells
           (List.range n).flatMap fun i => if s.lockedAt (a + i) then [0] else s.readoutByte cells (a + i))

/-! ### Attestation (R19) -/

/-- The quote over a nonce (R19): the nonce, the package id, the SHA-512 measurement of each die's image, the fused security
version, POOLSZ and the ids of the locked tenants. DESIGN CHOICE: their order and widths, and a nonce of another length is cut or
padded with zeros to 64 bytes (log entry 49). -/
def State.quote (s : State) (nonce : List Byte) : List Byte :=
  (nonce ++ List.replicate 64 0).take 64 ++ leBytes 2 s.pkgid.toNat ++ (s.images.flatMap fun i => Sha.sha512 i.bytes) ++
    leBytes 4 s.fuseVer ++ [BitVec.ofNat 8 s.poolsz] ++ (s.tenants.filter fun e => e.2.locked).flatMap fun e => leBytes 2 e.1

/-- ATTEST (R19): the quote, and its signature. Firmware that has not passed its check does not run and gives none (R17). -/
def execAttest (s : State) : Res :=
  let q := s.quote s.ev.bs
  .next (if s.boot = 1 then s else s.emit (.answer (0 :: q ++ Config.quoteSignature q)))

end Sys2Proof.Machine
end

