-- ==== Sys2Proof/Machine/TileMove.lean ====
section
/-! DEFINITION. The commands of the copy engines and the snapshot engine, and the collective commands (R262, R263,
R445–R455). -/

namespace Sys2Proof.Machine

/-! ### COPY, GATH, SCAT and FILL (R445–R447) -/

/-- A source value in the destination's format. -/
def moveValue (m : Cmd) (a b : Layout) (x : Nat) : Nat :=
  if a.fmt = b.fmt then x else convert a.fmt b.fmt (rmOf m) (m.w.modeBit 2) x

/-- Reads source elements and pairs them with the destination elements that are in bounds; the rest is dropped (R434). -/
def moveWindow (m : Cmd) (a b : Layout) (src dst : List Nat → List Int) : List (List Nat) → M (List (Dword × List Byte))
  | [] => pure []
  | c :: rest => do
    let r ← moveWindow m a b src dst rest
    if b.inBounds (dst c) then
      let x ← readElem m a (src c)
      pure ((b.addr (dst c), leBytes b.es (moveValue m a b x)) :: r)
    else pure r

/-- COPY's start. -/
def startCopyCmd (m : Cmd) : Run := do
  if m.w.toring then madeRun m [] 0
  else do
    let a := m.rec_ 0; let b := m.rec_ 1
    let ws ← moveWindow m a b a.idxOf b.idxOf (if a.empty then [] else b.points)
    madeRun m (joinWrites ws) 0

/-- The writes of part `t` into the slot that it has reserved (R445). -/
def ringPart (m : Cmd) (t slot : Nat) : M (List (Dword × List Byte)) := do
  let s ← get
  let a := m.rec_ 0
  let n := m.w.w5.toNat
  let p := (m.rec_ 1).part n
  let p := { p with base := (ownAddr ((s.ringOf m.cluster m.w.ringB).slotOff slot)).toNat }
  let last := p.rank - 1
  let src := fun (c : List Nat) => a.idxOf (c.set last (c.getD last 0 + t * p.wextAt last))
  moveWindow m a p src p.idxOf (if a.empty then [] else p.points)

/-- TORING goes on by tiles: it reserves a slot, writes the tile there, and the slot counts as written (R251). -/
def afterCopy (m : Cmd) : M Bool := do
  if !m.w.toring || m.part == m.w.w5.toNat then pure true
  else do
    let s ← get
    let r := s.ringOf m.cluster m.w.ringB
    match m.resv with
    | [] => do
      if r.free = 0 then throw (.wait id)
      modify (·.modRing m.cluster m.w.ringB Ring.reserve)
      putCmd { m with resv := [r.tail] }
      pure false
    | slot :: _ => do
      let ws ← ringPart m m.part slot
      for w in ws do
        let _ ← writeMem m.who w.1 w.2 5
      modify (·.modRing m.cluster m.w.ringB fun x => x.written slot)
      putCmd { m with resv := [], part := m.part + 1, bytes := m.bytes + (ws.map (·.2.length)).sum }
      pure false

/-- COPY (R445). -/
def execCopy (s : State) : Res := .next <| runTile 0x10 startCopyCmd postPlain afterCopy s

/-- The index list of GATH and SCAT (R446). -/
def State.indexList (s : State) (m : Cmd) (n : Nat) : List Int :=
  (List.range n).map fun j => toI 32 (leNat (s.readLs m.cluster (m.w.idxOff + 4 * j) 4))

/-- The tensor index that an index names in the indexed record `x`. -/
def Layout.idxBy (x : Layout) (ids : List Int) (c : List Nat) : List Int :=
  (List.range x.dims).map fun d => x.worgAt d + (if d + 1 = x.dims then ids.getD (c.getD d 0) 0 else (c.getD d 0 : Int))

/-- An index falls outside the extent under FILLMODE 2. -/
def indexBad (x : Layout) (ids : List Int) : Bool :=
  let l := x.rank - 1
  x.mode == 2 && ids.any fun i => decide (x.worgAt l + i < 0) || decide ((x.extAt l : Int) ≤ x.worgAt l + i)

/-- GATH's and SCAT's start: `x` is the indexed record and `o` the other one. -/
def startIndexed (gath : Bool) (m : Cmd) : Run := do
  let s ← get
  let a := m.rec_ 0; let b := m.rec_ 1
  let x := if gath then a else b
  let o := if gath then b else a
  let ids := s.indexList m (o.wextAt (x.rank - 1))
  if indexBad x ids && !(x.empty || o.empty) then return some 0x14
  let by_ := x.idxBy ids
  let ws ← moveWindow m a b (if gath then by_ else a.idxOf) (if gath then b.idxOf else by_)
    (if x.empty then [] else o.points)
  madeRun m (joinWrites ws) 0

/-- GATH (R446). -/
def execGath (s : State) : Res := .next <| runTile 0x11 (startIndexed true) postPlain atOnce s
/-- SCAT (R446). -/
def execScat (s : State) : Res := .next <| runTile 0x12 (startIndexed false) postPlain atOnce s

/-- FILL (R447). -/
def execFill (s : State) : Res := .next <| runTile 0x15 (fun m => do
  let l := m.rec_ 0
  madeRun m (joinWrites (l.points.filterMap fun c =>
    if l.inBounds (l.idxOf c) then some (l.addr (l.idxOf c), leBytes l.es l.fillPattern) else none)) 0) postPlain atOnce s

/-! ### HASHPG (R449) -/

/-- Hashes one page; whether it was hashed. -/
def State.hashPage (s : State) (w : Who) (va : Dword) : State × Nat :=
  match w.space va with
  | some (sp, a) => match s.walk sp a with
    | .leaf _ e _ =>
      if leafTier e = 0 && leafPerm e 9 then
        let pa := leafFrame e
        let t := (s.tenant? (s.frameDesc pa).owner).getD ⟨0, 0, 0, 0, 0, 0, false⟩
        let img := sliceMem s.mem (viewKey (homeDie pa) pa) 65536
        (s.modFrame pa fun f => { f with hv := true, hash1 := pageHash t.key1 img, hash2 := pageHash t.key2 img }, 1)
      else (s, 0)
    | .fault .. => (s, 0)
  | none => (s, 0)

/-- HASHPG (R449). -/
def execHashpg (s : State) : Res := .next <| runTile 0x18 (fun m => do
  let mut n := 0
  for i in List.range m.w.w5.toNat do
    let s ← get
    let r := s.hashPage m.who (dw (m.w.a12 + i * 65536))
    set r.1
    n := n + r.2
  madeRun m [] n) postNone atOnce s

/-! ### Collective commands (R450–R453) -/

/-- MCAST (R262, R450): the window packed into every cluster of the mask. -/
def execMcast (s : State) : Res := .next <| runTile 0x13 (fun m => do
  let l := m.rec_ 0
  let mut bs : List Byte := []
  for c in l.points do
    let x ← readElem m l (l.idxOf c)
    bs := bs ++ leBytes l.es x
  let cs := ((List.range 40).filter fun c => m.w.mask.testBit c).map (m.die * 40 + ·)
  for c in cs do
    modify (·.storeLs m.die c m.w.doff bs)
  madeRun { m with counts := cs.map fun c => (c, bs.length) } [] bs.length) postNone atOnce s

/-- Op(element, source) of REDST (R287, R291, R451). -/
def redstOp (fmt op old src : Nat) : Nat :=
  let w := formatWidth fmt
  if codeInt fmt then
    let v := fun (x : Nat) => if codeSigned fmt then toI w x else ((x % 2 ^ w : Nat) : Int)
    match op with
    | 0 => (old + src) % 2 ^ w
    | 1 => if v src < v old then src else old
    | _ => if v old < v src then src else old
  else
    let f := fmtOfCode fmt
    match op with
    | 0 => f.add old src
    | 1 => f.min old src
    | _ => f.max old src

/-- The AMO code that does the same at another package (R30, R353). -/
def redstAmo (fmt op : Nat) : Option Nat :=
  if formatWidth fmt < 32 then none
  else if codeInt fmt then
    some (match op with
      | 0 => 0
      | 1 => if codeSigned fmt then 4 else 6
      | _ => if codeSigned fmt then 5 else 7)
  else if op = 0 then some 10 else none

/-- REDST's start: per destination, elements in ascending window order. -/
def startRedst (m : Cmd) : Run := do
  let a := m.rec_ 0
  let mut ws : List (Dword × List Byte) := []
  for r in m.recs.drop 1 do
    let b := Layout.parse r
    let w ← moveWindow m a b a.idxOf b.idxOf (if a.empty then [] else b.points)
    ws := ws ++ w
  madeRun m ws 0

/-- REDST (R451). -/
def execRedst (s : State) : Res := .next <| runTile 0x14 startRedst (fun m va bs =>
  postHome 5 m va bs (fun old => redstOp (m.rec_ 0).fmt (m.w.mode % 4) old (leNat bs)) (redstAmo (m.rec_ 0).fmt (m.w.mode % 4))) atOnce s

/-- BARM (R263, R453). -/
def execBarm (s : State) : Res := .next <| runTile 0x16 (fun m => do
  modify fun s => s.arrive m.die m.cluster (m.w.w3.toNat * 64) m.w.a12 true
  madeRun m [] 0) postNone atOnce s

/-! ### SNAP and CKPT (R454, R455) -/

/-- One page of SNAP (R454). -/
def snapPage (m : Cmd) (src dst : Dword) : M (Option Byte) := do
  let w := m.who
  let _ ← verdict w src
  let s ← get
  match s.spaceOf w src, s.spaceOf w dst with
  | .ok (sp, a), .ok (dp, b) =>
    if s.walkBusy sp a then throw (.wait id)
    match s.walk sp a with
    | .fault kind level e => throw (stopFault s w sp src 4 65536 kind level e)
    | .leaf _ e _ => do
      let _ ← verdict w dst
      let s ← get
      match s.slotWalk dp b with
      | (t, .slot pa _) =>
        let d := t.entry pa
        if !leafV d then throw (stopFault s w dp dst 5 65536 (if leafPerm d 8 then kHostPage else kNotMapped) 0 d)
        if leafTier e = 1 || leafTier e = 2 || leafPerm e 10 || leafPerm e 11 || leafPerm d 10 || leafPerm d 11 then
          return some 0x17
        let frame := leafFrame e
        let kept := leafTier e == 0
        if kept && t.frameFull frame then throw (.fatal 0x23 src)
        let t := if kept then (t.raiseFrame frame).clearExclFrame frame else t
        let t := t.mapLeaf pa (setBits (setBits (setBits d 57 56 (leafTier e)) 55 40 0) 39 16 (if kept then frame / 65536 else 0))
        let t := if leafTier d = 0 then t.lowerFrame (leafFrame d) else t
        set (t.tlbDrop ((t.rootOf dp).getD 0) b)
        pure none
      | (_, .fault kind level e) => throw (stopFault s w dp dst 5 65536 kind level e)
      | (_, .empty level node) => throw (stopEmpty s w dp dst 5 65536 level node 0)
      | (_, .busy _) => throw (.wait id)
      | (_, .refsat) => throw (.fatal 0x23 dst)
  | .error sub, _ => throw (.fatal sub src)
  | _, .error sub => throw (.fatal sub dst)

/-- SNAP goes on page by page; MAP ends it. -/
def afterSnap (m : Cmd) : M Bool := do
  if m.part = m.w.w5.toNat then pure true
  else do
    let r ← snapPage m (dw (m.w.a12 + m.part * 65536)) (dw (m.w.a34 + m.part * 65536))
    match r with
    | some f => do
      modify fun s => s.endCmd m f 0
      pure false
    | none => do
      putCmd { m with part := m.part + 1, count := m.count + 1 }
      pure false

/-- SNAP (R454). -/
def execSnap (s : State) : Res := .next <| runTile 0x20 (fun m => madeRun m [] 0) postNone afterSnap s

/-- CKPT's start (R64, R455). -/
def startCkpt (m : Cmd) : Run := do
  let s ← get
  let mask := BitVec.ofNat 8 m.w.w5.toNat
  if s.drain.isSome then return some 0x1A
  if s.tier.isNone || (s.dirsUp mask).isEmpty then return some 0x1B
  if !s.cutReady then throw (.wait id)
  modify (·.takeCut mask)
  madeRun m [] (s.ckgen + 1).toNat

/-- CKPT (R455). -/
def execCkpt (s : State) : Res := .next <| runTile 0x21 startCkpt postNone atOnce s

end Sys2Proof.Machine
end

