-- ==== Sys2Proof/Machine/Manage.lean ====
section
/-! DEFINITION. The management path (R39, R43–R47, R63, R64). -/

namespace Sys2Proof.Machine

/-- The answers of the management path (R44); the numbers are the model's own (log entry 32). -/
inductive Reply where
  | ok | badarg | exists_ | notfound | busy
  deriving DecidableEq, Repr

def Reply.code : Reply → Byte
  | .ok => 0
  | .badarg => 1
  | .exists_ => 2
  | .notfound => 3
  | .busy => 4

/-- Answers a command. -/
def State.reply (s : State) (r : Reply) : State := s.emit (.answer [r.code])

/-- The first refusal that applies; with none the command has its effect and is answered OK. DESIGN CHOICE: of several refusals
that apply, EXISTS or NOTFOUND comes first, then BADARG, then BUSY (log entry 12). -/
def State.manage (s : State) (checks : List (Bool × Reply)) (go : State → State) : State :=
  match checks.find? fun c => c.1 with
  | some c => s.reply c.2
  | none => (go s).reply .ok

/-- A live tenant, and a queue pair that is open (R39). -/
def State.live (s : State) (t : Half) : Bool := (s.tenant? t).isSome
def State.qpOpen (s : State) (q : Nat) : Bool := (s.qp q).opened

/-! ### Tenants and queue pairs -/

/-- The root that a tenant may have (R44). -/
def State.rootBad (s : State) (r : Dword) : Bool :=
  r == 0 || r.toNat % 8192 != 0 || !s.isFrame r.toNat || (s.nodeDesc r.toNat).level != 3

/-- TCREATE (R43, R44). -/
def execTcreate (s : State) : Res :=
  let e := s.ev
  .next <| s.manage [(s.live e.id, .exists_),
    (e.id == 0 || e.b == 0 || e.c == 0 || e.b == e.c || !s.qpOpen e.who || s.rootBad e.a, .badarg),
    (decide (4096 ≤ s.tenants.length) || (s.qp e.who).tenant != 0, .busy)] fun s =>
    { s with tenants := s.tenants.put e.id.toNat ⟨e.a, e.b, e.c, BitVec.ofNat 32 e.n, BitVec.ofNat 32 e.m, e.who, false⟩ }.modQp e.who
      fun q => { q with tenant := e.id }

/-- TLOCK (R44). -/
def execTlock (s : State) : Res :=
  let t := s.ev.id
  .next <| s.manage [(!s.live t, .notfound)] fun s =>
    match s.tenant? t with
    | some x => { s with tenants := s.tenants.put t.toNat { x with locked := true } }
    | none => s

/-- QPBIND (R39, R44). -/
def execQpbind (s : State) : Res :=
  let e := s.ev
  .next <| s.manage [(!s.live e.id || !s.qpOpen e.who, .notfound), ((s.qp e.who).tenant != 0, .busy)] fun s =>
    s.modQp e.who fun q => { q with tenant := e.id }

/-- QUEUE_PAIR_SETUP (R38–R40): the host opens or closes a queue pair and gives it its addresses, its path MTU (n), timeout (b),
retry count (c) and priority (k); a path MTU that R38 does not list sets nothing. The same path registers a remote key n of a
tenant with its rights (m = 1; bits 0–2 of c: read, write, atomic) or removes it (m = 2) (log entry 33). -/
def execQueuePairSetup (s : State) : Res :=
  let e := s.ev
  .next <| if e.m = 1 then
      { s with rkeys := s.rkeys.put e.n ⟨e.id, e.a, e.b, e.c.getLsbD 0, e.c.getLsbD 1, e.c.getLsbD 2⟩ }
    else if e.m = 2 then { s with rkeys := s.rkeys.del e.n }
    else if 4096 ≤ e.who ∨ !([1024, 2048, 4096].contains e.n) then s
    else
      let was := (s.qp e.who).opened
      let s := if e.flag then s else s.failQp e.who
      s.modQp e.who fun q => { q with
        opened := e.flag, addr := e.addr, mtu := e.n, timeout := e.b.toNat, retries := e.c.toNat, prio := e.k % 8, tries := 0
        since := s.timer.toNat
        psn := if was then q.psn else e.psn / 2 ^ 24 % 2 ^ 24
        epsn := if was then q.epsn else e.psn % 2 ^ 24
        nakked := was && q.nakked, done := if was then q.done else [] }

/-! ### Launch queues (R47) -/

/-- The frame of a launch queue's page, if the page is backed by a pool frame. -/
def State.lqFrame (s : State) (t : Half) (base : Dword) : Option Nat :=
  match s.walk (.tenant t) base.toNat with
  | .leaf _ e _ => if leafPool e then some (leafFrame e) else none
  | .fault .. => none

/-- LQCREATE (R44, R47, R79). -/
def execLqcreate (s : State) : Res :=
  let e := s.ev
  let f := s.lqFrame e.id e.a
  .next <| s.manage [(!s.live e.id, .notfound), ((s.lqs.find? e.who).isSome, .exists_),
    (decide (64 ≤ e.who) || regionOf e.a != .tenant || e.a.toNat % 65536 != 0 || f.isNone || !([16, 32, 64, 128, 256].contains e.n),
      .badarg),
    ((s.frameDesc (f.getD 0)).pincnt == 0xFFFF, .busy)] fun s =>
    let pa := f.getD 0
    let q : LaunchQueue := {
      tenant := e.id, base := e.a, depth := e.n, qp := e.m, head := 0, expseq := 1, completed := 0
      arms := List.replicate e.n false, overrun := 0, lost := 0, frames := [pa] }
    let s := s.modFrame pa fun x => { x with pincnt := x.pincnt + 1, lq := true }
    { s with lqs := s.lqs.put e.who q }

/-- A launch queue goes, with its pin (R46, R47). -/
def State.dropQueue (s : State) (q : Nat) : State :=
  match s.lqs.find? q with
  | none => s
  | some x => x.frames.foldl (fun s f => (s.modFrame f fun y => { y with lq := false }).unpinFrame f) { s with lqs := s.lqs.del q }

/-- LQDESTROY (R44). DESIGN CHOICE: a rejected launch whose completion word is not written yet keeps its queue busy (log entry
12). -/
def execLqdestroy (s : State) : Res :=
  let q := s.ev.who
  .next <| s.manage [((s.lqs.find? q).isNone, .notfound),
    ((s.launches.any fun l => l.q == q) || (s.lqs.find? q).any fun x => x.arms.any id, .busy)] fun s => s.dropQueue q

/-! ### Destroying a tenant (R46) -/

/-- A slot that holds the tenant's work. -/
def State.slotOfTenant (s : State) (t : Half) (k : Nat) : Bool :=
  let x := s.slot k
  match x.occ with
  | .empty => false
  | .reserved n => s.tasks.any fun y => y.n == n && y.tenant == t
  | _ => x.tenant == t

/-- The work of a slot stops. -/
def State.stopSlot (s : State) (k : Nat) : State :=
  let s := (s.leave k).modSlot k fun x => { x with outs := [], fatals := [], due := none, async := [], cmd := none, sysc := 0 }
  s.modDie (dieOf k) fun d => { d with
    maskq := d.maskq.filter fun r => r.slot ≠ k
    sysc := d.sysc.map fun e => if e.2.slot = k then (e.1, { e.2 with busy := false }) else e }

/-- A task stops and retires without its stream (R46, step 2). -/
def State.stopTask (s : State) (t : Task) : State :=
  let s := ((s.clearTask t.n).unpinTask t.n).dropWatcher (2 * t.n)
  let s := if t.phase = .hit then t.reads.foldl State.lowerFrame s else s
  let s := (s.unqueue t).modDie t.die fun d => { d with held := d.held.filter (· ≠ t.n) }
  (s.modTask t.n fun t => { t with stream := none }).endTask t

/-- A core's deque, with its records in their places of the plinth (R249). -/
def State.setDeque (s : State) (c : Nat) (rs : List StrandRec) : State :=
  let h := (s.core c).dqHead
  (rs.zipIdx.foldl (fun s (e : StrandRec × Nat) => s.putRec c ((h + e.2) % 64 * 128) e.1) s).modCore c fun x => { x with deque := rs }

/-- Steps 1 and 2 of R46: the tenant's launches, strands and tasks stop. -/
def State.abortTenant (s : State) (t : Half) : State :=
  let mine := fun (r : StrandRec) => r.tenant == t
  let ls := (s.launches.filter fun l => l.tenant == t).map (·.n)
  let s := { s with launches := s.launches.map fun (l : Launch) => if l.tenant = t ∧ !l.done then { l with aborted := true } else l }
  let s := (((s.slots.map (·.1)).filter (s.slotOfTenant t)).foldl State.stopSlot s)
  let s := (s.tasks.filter fun x => x.tenant == t).foldl State.stopTask s
  let s := (s.dropFaults fun f => f.tenant == t)
  let s := (s.cores.filter fun (e : Nat × Core) => e.2.deque.any mine).foldl
    (fun s (e : Nat × Core) => s.setDeque e.1 (e.2.deque.filter (!mine ·))) s
  { s with
    cores := s.cores.map fun e => (e.1, { e.2 with runq := e.2.runq.filter (!mine ·) })
    dies := s.dies.map fun e => (e.1, { e.2 with
      deck := e.2.deck.filter (!mine ·)
      sysc := e.2.sysc.map fun x => if (x.2.launch.map fun n => ls.contains n).getD false then (x.1, { x.2 with busy := false }) else x })
    msgs := s.msgs.filter fun (m : Msg) => !((m.record.map mine).getD false)
    cmds := (s.cmds.filter fun (m : Cmd) => m.tenant != t || m.started).map fun m => if m.tenant = t then { m with target := none } else m
    moves := s.moves.filter fun (m : Transfer) => m.tenant ≠ t }

/-- Frames whose owner is the tenant. -/
def State.framesOf (s : State) (t : Half) : List Nat := (s.frames.filter fun e => e.2.owner == t).map (·.1 * 65536)

/-- Nothing of the tenant runs any more: its armed slots have been consumed and its launches have their completion words, its
tasks, strands, commands, copies and walker requests have ended, and no write to its frames is on its way or held by a drain
(R93). -/
def State.quietTenant (s : State) (t : Half) : Bool :=
  !(s.lqs.any fun e => e.2.tenant == t && e.2.arms.getD e.2.head false) &&
    !(s.launches.any fun l => l.tenant == t) && !(s.tasks.any fun x => x.tenant == t) &&
    !((s.slots.map (·.1)).any (s.slotOfTenant t)) && !(s.cmds.any fun m => m.tenant == t) &&
    !(s.grams.any fun e => e.2.tenant == t && s.walkerBusy e.1) &&
    (let fs := s.framesOf t
     fs.all (fun f => s.frameQuiet f && !s.oldFrame f) && !(s.copies.any fun c => fs.contains c.old || fs.contains c.fresh))

/-- Zeros in a frame, in every view (R46, step 8). -/
def State.zeroFrame (s : State) (pa : Nat) : State :=
  { s with mem := [0, 1, 2, 3].foldl (fun m d => replaceMem m (viewKey d pa) 65536 []) s.mem }

/-- A stream retires (R46, step 4). -/
def State.retireTenantStream (s : State) (id : Nat) : State :=
  (s.scbStep id fun r => wr (setFlags r false false 0 0) 0x1E 1 5).kill id

/-- Steps 3–9 of R46; the tenant's address space goes with it (log entry 34). -/
def State.destroyTenant (s : State) (t : Half) : State :=
  let fs := s.framesOf t
  let root := ((s.tenant? t).map (·.root.toNat)).getD 0
  let gone := (s.groups.filter fun e => e.2.tenant == t).map (·.1)
  let s := { s with
    groups := s.groups.filter fun e => e.2.tenant != t
    msgs := s.msgs.filter fun (m : Msg) => !((m.kind == 5 || m.kind == 6) && gone.contains m.mbox) }
  let s := ((s.scbs.filter fun e => scbState e.2 != 0 && scbTenant e.2 == t).map (·.1)).foldl State.retireTenantStream s
  let s := ((s.cast.filter fun e => e.2.tenant == t).map (·.1)).foldl State.castFree s
  let s := ((s.grams.filter fun e => e.2.tenant == t).map (·.1)).foldl State.unloadGram s
  let resv := (s.resv.filter fun e => rd e.2 0 2 == t.toNat).map (·.1)
  let s := { s with
    arenas := s.arenas.filter fun e => e.2.tenant != t
    models := s.models.filter fun e => modelTenant e.2 != t
    resv := s.resv.filter fun e => !resv.contains e.1
    resvLive := s.resvLive.filter fun e => !resv.contains e.1
    dies := s.dies.map fun (e : Nat × Die) => (e.1, { e.2 with resvCtr := e.2.resvCtr.filter fun x => !resv.contains x.1 }) }
  let s := ((s.lqs.filter fun e => e.2.tenant == t).map (·.1)).foldl State.dropQueue s
  let s := (s.pages.filter fun p => p.tenant == t).foldl (fun s p => (s.freeLanding p).dropPage p) s
  let s := { s with
    qps := s.qps.map fun e => if e.2.tenant = t then (e.1, { e.2 with tenant := 0 }) else e
    rkeys := s.rkeys.filter fun e => e.2.tenant != t
    launches := s.launches.filter fun (l : Launch) => l.tenant ≠ t }
  let s := (State.lowerNode 3 s root).tlbDropRoot root
  { fs.foldl State.zeroFrame s with tenants := s.tenants.del t.toNat }

/-- TDESTROY (R44, R46): the command waits, between its steps 2 and 3, for what has been stopped to end; what another package
still sends for the tenant meanwhile is stopped too. -/
def execTdestroy (s : State) : Res :=
  let done := fun (n : Nat) (s : State) (r : Reply) => (s.dropIn n).reply r
  .next <| if s.ev.k = 0 then
      if !s.live s.ev.id then s.reply .notfound
      else
        let e : Inbound := { n := s.nextN, kind := 0x41, args := s.ev, stage := 1 }
        { s with inbox := s.inbox ++ [e], nextN := s.nextN + 1 }.abortTenant s.ev.id
    else match s.inbox.find? fun e => e.n = s.ev.k ∧ e.kind = 0x41 with
      | none => s
      | some e =>
        if !s.live e.args.id then done e.n s .notfound
        else
          let u := s.abortTenant e.args.id
          if u.quietTenant e.args.id then done e.n (u.destroyTenant e.args.id) .ok else u

/-! ### Safe tier, checkpoints and thaw (R63, R64, R16) -/

/-- TIERSET (R63): endpoint = id, TIERADDR = a, size = b. -/
def execTierset (s : State) : Res :=
  let e := s.ev
  .next <| s.manage [(decide (e.b.toNat < 544 * 2 ^ 30) || !s.pkgOk e.id.toNat || e.a.toNat % 4096 != 0, .badarg),
    (s.drain.isSome, .busy)] fun s => { s with tier := some (e.id, e.a, e.b) }

/-- CKPTREQ (R64, R92): the cut is taken once every write has been performed and copies have ended; the answer carries the
generation. -/
def execCkptreq (s : State) : Res :=
  let serve := fun (n mask : Nat) (s : State) =>
    if s.drain.isSome then (s.dropIn n).reply .busy
    else if !s.cutReady then s
    else
      let s := (s.dropIn n).takeCut (BitVec.ofNat 8 mask)
      s.emit (.answer (Reply.ok.code :: leBytes 4 s.ckgen.toNat))
  .next <| if s.ev.k = 0 then
      let m := s.ev.n % 256
      if m = 0 ∨ s.tier.isNone ∨ s.dirsUp (BitVec.ofNat 8 m) = [] then s.reply .badarg
      else
        let e : Inbound := { n := s.nextN, kind := 0x40, args := s.ev }
        serve e.n m { s with inbox := s.inbox ++ [e], nextN := s.nextN + 1 }
    else match s.inbox.find? fun e => e.n = s.ev.k ∧ e.kind = 0x40 with
      | some e => serve e.n (e.args.n % 256) s
      | none => s

/-- THAW (R16, R44). Firmware that has not passed its check does not run and answers nothing (R17). -/
def execThaw (s : State) : Res :=
  .next <| if s.boot = 1 then s else s.manage [(!s.freeze.aigon, .notfound), (!s.freeze.othersOk, .busy)] fun s =>
    { s with freeze := { s.freeze with aigonOk := true } }

end Sys2Proof.Machine
end

