-- ==== Sys2Proof/Machine/Scalar.lean ====
section
/-! DEFINITION. The scalar integer, compare, predicate and floating-point instructions (R331–R343). -/

namespace Sys2Proof.Machine

/-- A short instruction with two register sources. -/
def binG (i : Instr) (d a b : BitVec 5) (g : BitVec 3) (f : Dword → Dword → Dword) : State → Res :=
  shortG { instr := i, guard := g, reads := [.g a, .g b] } d fun x => f (x.readG a) (x.readG b)

/-- A short instruction with one register source. -/
def unG (i : Instr) (d a : BitVec 5) (g : BitVec 3) (f : Dword → Dword) : State → Res :=
  shortG { instr := i, guard := g, reads := [.g a] } d fun x => f (x.readG a)

/-- MULDIV is long-latency (R339); its result is fixed at issue. -/
def mulDiv (i : Instr) (d a b : BitVec 5) (g : BitVec 3) (l : BitVec 4) (f : Dword → Dword → Dword) : State → Res :=
  longOp { instr := i, guard := g, reads := [.g a, .g b] } l [.g d] fun s =>
    .compute [.g d (f (s.readG s.focus a) (s.readG s.focus b))]

/-- The scalar format: 0 FP32, 1 binary64 (R340). -/
def fmtOfD (t : BitVec 1) : Fp.Fmt := if t = 0 then Fp.f32 else Fp.f64
/-- The bits of a register that a scalar floating-point operation reads (R330). -/
def low (t : BitVec 1) (x : Dword) : Nat := if t = 0 then x.toNat % 2 ^ 32 else x.toNat
/-- The format code of a kind of FCVT (R343). -/
def kindCode (k : BitVec 3) : Nat :=
  match k with
  | 0 => 2 | 1 => 3 | 2 => 6 | 3 => 7 | 4 => 8 | 5 => 9 | _ => 10

/-- A scalar floating-point operation of two operands (R340). -/
def fp2 (i : Instr) (d a b : BitVec 5) (g : BitVec 3) (t : BitVec 1) (f : Fp.Fmt → Nat → Nat → Nat) : State → Res :=
  binG i d a b g fun x y => dw (f (fmtOfD t) (low t x) (low t y))
/-- A scalar floating-point operation of one operand (R340). -/
def fp1 (i : Instr) (d a : BitVec 5) (g : BitVec 3) (t : BitVec 1) (f : Fp.Fmt → Nat → Nat) : State → Res :=
  unG i d a g fun x => dw (f (fmtOfD t) (low t x))

/-- ADD (R331): sum modulo 2^64. -/
def execAdd (d a b : BitVec 5) (g : BitVec 3) : State → Res :=
  binG (.add d a b g) d a b g (fun x y => x + y)

/-- SUB (R331): difference modulo 2^64. -/
def execSub (d a b : BitVec 5) (g : BitVec 3) : State → Res :=
  binG (.sub d a b g) d a b g (fun x y => x - y)

/-- AND (R331): bitwise and. -/
def execAnd (d a b : BitVec 5) (g : BitVec 3) : State → Res :=
  binG (.and d a b g) d a b g (fun x y => x &&& y)

/-- OR (R331): bitwise or. -/
def execOr (d a b : BitVec 5) (g : BitVec 3) : State → Res :=
  binG (.or d a b g) d a b g (fun x y => x ||| y)

/-- XOR (R331): exclusive or. -/
def execXor (d a b : BitVec 5) (g : BitVec 3) : State → Res :=
  binG (.xor d a b g) d a b g (fun x y => x ^^^ y)

/-- SHL (R331): shifted left by gb[5:0]. -/
def execShl (d a b : BitVec 5) (g : BitVec 3) : State → Res :=
  binG (.shl d a b g) d a b g (fun x y => x <<< (y.toNat % 64))

/-- SHR (R331): shifted right by gb[5:0], zeros enter. -/
def execShr (d a b : BitVec 5) (g : BitVec 3) : State → Res :=
  binG (.shr d a b g) d a b g (fun x y => x >>> (y.toNat % 64))

/-- SRA (R331): shifted right by gb[5:0], copies of bit 63 enter. -/
def execSra (d a b : BitVec 5) (g : BitVec 3) : State → Res :=
  binG (.sra d a b g) d a b g (fun x y => x.sshiftRight (y.toNat % 64))

/-- MIN (R331): smaller as i64. -/
def execMin (d a b : BitVec 5) (g : BitVec 3) : State → Res :=
  binG (.min d a b g) d a b g (fun x y => if y.slt x then y else x)

/-- MAX (R331): larger as i64. -/
def execMax (d a b : BitVec 5) (g : BitVec 3) : State → Res :=
  binG (.max d a b g) d a b g (fun x y => if x.slt y then y else x)

/-- MINN (R331): smaller as n64. -/
def execMinn (d a b : BitVec 5) (g : BitVec 3) : State → Res :=
  binG (.minn d a b g) d a b g (fun x y => if y.ult x then y else x)

/-- MAXN (R331): larger as n64. -/
def execMaxn (d a b : BitVec 5) (g : BitVec 3) : State → Res :=
  binG (.maxn d a b g) d a b g (fun x y => if x.ult y then y else x)

/-- CLZ (R331): leading zero bits. -/
def execClz (d a : BitVec 5) (g : BitVec 3) : State → Res :=
  unG (.clz d a g) d a g (fun x => dw (clz x))

/-- CTZ (R331): trailing zero bits. -/
def execCtz (d a : BitVec 5) (g : BitVec 3) : State → Res :=
  unG (.ctz d a g) d a g (fun x => dw (ctz x))

/-- POPC (R331): set bits. -/
def execPopc (d a : BitVec 5) (g : BitVec 3) : State → Res :=
  unG (.popc d a g) d a g (fun x => dw (popBelow x 64))

/-- BREV (R331): bit order reversed. -/
def execBrev (d a : BitVec 5) (g : BitVec 3) : State → Res :=
  unG (.brev d a g) d a g (brev)

/-- EXTS (R332): the field of ga that gb names, sign-extended. -/
def execExts (d a b : BitVec 5) (g : BitVec 3) : State → Res :=
  binG (.exts d a b g) d a b g (fun x y => dw (ofI 64 (toI (fieldWidth y) (fieldOf x y))))

/-- EXTZ (R332): the field of ga that gb names, zero-extended. -/
def execExtz (d a b : BitVec 5) (g : BitVec 3) : State → Res :=
  binG (.extz d a b g) d a b g (fun x y => dw (fieldOf x y))

/-- INSF (R332): low bits of ga into gd at the field that gb names; gd is a source. -/
def execInsf (d a b : BitVec 5) (g : BitVec 3) : State → Res :=
  shortG { instr := .insf d a b g, guard := g, reads := [.g a, .g b, .g d] } d fun x =>
    let w := x.readG b
    setBits (x.readG d) (fieldPos w + fieldWidth w - 1) (fieldPos w) (x.readG a).toNat

/-- ADDI (R333): sum with the sign-extended immediate. -/
def execAddi (d a : BitVec 5) (g : BitVec 3) (i : BitVec 13) : State → Res :=
  unG (.addi d a g i) d a g fun x => (fun x i => x + sext i) x i

/-- ANDI (R333): and with the sign-extended immediate. -/
def execAndi (d a : BitVec 5) (g : BitVec 3) (i : BitVec 13) : State → Res :=
  unG (.andi d a g i) d a g fun x => (fun x i => x &&& sext i) x i

/-- ORI (R333): or with the zero-extended immediate. -/
def execOri (d a : BitVec 5) (g : BitVec 3) (i : BitVec 13) : State → Res :=
  unG (.ori d a g i) d a g fun x => (fun x i => x ||| zext i) x i

/-- XORI (R333): exclusive or with the sign-extended immediate. -/
def execXori (d a : BitVec 5) (g : BitVec 3) (i : BitVec 13) : State → Res :=
  unG (.xori d a g i) d a g fun x => (fun x i => x ^^^ sext i) x i

/-- SHLI (R334): left shift by COUNT. -/
def execShli (d a : BitVec 5) (g : BitVec 3) (c : BitVec 6) : State → Res :=
  unG (.shli d a g c) d a g fun x => x <<< c.toNat

/-- SHRI (R334): logical right shift by COUNT. -/
def execShri (d a : BitVec 5) (g : BitVec 3) (c : BitVec 6) : State → Res :=
  unG (.shri d a g c) d a g fun x => x >>> c.toNat

/-- SRAI (R334): arithmetic right shift by COUNT. -/
def execSrai (d a : BitVec 5) (g : BitVec 3) (c : BitVec 6) : State → Res :=
  unG (.srai d a g c) d a g fun x => x.sshiftRight c.toNat

/-- LIH (R335): SignExtend(imm21) × 2^13. -/
def execLih (d : BitVec 5) (i : BitVec 21) : State → Res :=
  shortG { instr := .lih d i } d fun _ => sext i <<< 13

/-- ADDPC (R336): the instruction's own address plus SignExtend(imm21) × 4. -/
def execAddpc (d : BitVec 5) (i : BitVec 21) : State → Res :=
  shortG { instr := .addpc d i } d fun x => x.pc + sext i * 4

/-- CMP (R337). -/
def execCmp (p : BitVec 3) (a b : BitVec 5) (g k : BitVec 3) : State → Res :=
  shortP { instr := .cmp p a b g k, guard := g, reads := [.g a, .g b] } p fun x =>
    intCond 64 k.toNat (x.readG a).toNat (x.readG b).toNat

/-- CMPI (R337). -/
def execCmpi (p : BitVec 3) (a : BitVec 5) (g k : BitVec 3) (i : BitVec 10) : State → Res :=
  shortP { instr := .cmpi p a g k i, guard := g, reads := [.g a] } p fun x =>
    intCond 64 k.toNat (x.readG a).toNat (sext i).toNat

/-- PAND (R338). -/
def execPand (p a b : BitVec 3) (g : BitVec 3) : State → Res :=
  shortP { instr := .pand p a b g, guard := g, reads := [.p a, .p b] } p fun x => x.readP a && x.readP b

/-- POR (R338). -/
def execPor (p a b : BitVec 3) (g : BitVec 3) : State → Res :=
  shortP { instr := .por p a b g, guard := g, reads := [.p a, .p b] } p fun x => x.readP a || x.readP b

/-- PXOR (R338). -/
def execPxor (p a b : BitVec 3) (g : BitVec 3) : State → Res :=
  shortP { instr := .pxor p a b g, guard := g, reads := [.p a, .p b] } p fun x => x.readP a != x.readP b

/-- PNOT (R338). -/
def execPnot (p a : BitVec 3) (g : BitVec 3) : State → Res :=
  shortP { instr := .pnot p a g, guard := g, reads := [.p a] } p fun x => !x.readP a

/-- SEL (R338): ga when the named predicate is true, else gb. -/
def execSel (d a b : BitVec 5) (g p : BitVec 3) : State → Res :=
  shortG { instr := .sel d a b g p, guard := g, reads := [.g a, .g b, .p p] } d fun x =>
    if x.readP p then x.readG a else x.readG b

/-- MUL (R339): low half of the product. -/
def execMul (d a b : BitVec 5) (g : BitVec 3) (l : BitVec 4) : State → Res :=
  mulDiv (.mul d a b g l) d a b g l fun x y => x * y

/-- MULH (R339): high half of the signed product. -/
def execMulh (d a b : BitVec 5) (g : BitVec 3) (l : BitVec 4) : State → Res :=
  mulDiv (.mulh d a b g l) d a b g l fun x y => dw (ofI 64 (x.toInt * y.toInt / 2 ^ 64))

/-- MULHN (R339): high half of the unsigned product. -/
def execMulhn (d a b : BitVec 5) (g : BitVec 3) (l : BitVec 4) : State → Res :=
  mulDiv (.mulhn d a b g l) d a b g l fun x y => dw (x.toNat * y.toNat / 2 ^ 64)

/-- DIV (R339): signed quotient. -/
def execDiv (d a b : BitVec 5) (g : BitVec 3) (l : BitVec 4) : State → Res :=
  mulDiv (.div d a b g l) d a b g l fun x y => dw (divide true false x.toNat y.toNat)

/-- DIVN (R339): unsigned quotient. -/
def execDivn (d a b : BitVec 5) (g : BitVec 3) (l : BitVec 4) : State → Res :=
  mulDiv (.divn d a b g l) d a b g l fun x y => dw (divide false false x.toNat y.toNat)

/-- REM (R339): signed remainder. -/
def execRem (d a b : BitVec 5) (g : BitVec 3) (l : BitVec 4) : State → Res :=
  mulDiv (.rem d a b g l) d a b g l fun x y => dw (divide true true x.toNat y.toNat)

/-- REMN (R339): unsigned remainder. -/
def execRemn (d a b : BitVec 5) (g : BitVec 3) (l : BitVec 4) : State → Res :=
  mulDiv (.remn d a b g l) d a b g l fun x y => dw (divide false true x.toNat y.toNat)

/-- FADD (R340). -/
def execFadd (d a b : BitVec 5) (g : BitVec 3) (t : BitVec 1) : State → Res :=
  fp2 (.fadd d a b g t) d a b g t fun f x y => f.add x y

/-- FSUB (R340). -/
def execFsub (d a b : BitVec 5) (g : BitVec 3) (t : BitVec 1) : State → Res :=
  fp2 (.fsub d a b g t) d a b g t fun f x y => f.sub x y

/-- FMUL (R340). -/
def execFmul (d a b : BitVec 5) (g : BitVec 3) (t : BitVec 1) : State → Res :=
  fp2 (.fmul d a b g t) d a b g t fun f x y => f.mul x y

/-- FDIV (R340). -/
def execFdiv (d a b : BitVec 5) (g : BitVec 3) (t : BitVec 1) : State → Res :=
  fp2 (.fdiv d a b g t) d a b g t fun f x y => f.div x y

/-- FMIN (R340). -/
def execFmin (d a b : BitVec 5) (g : BitVec 3) (t : BitVec 1) : State → Res :=
  fp2 (.fmin d a b g t) d a b g t fun f x y => f.min x y

/-- FMAX (R340). -/
def execFmax (d a b : BitVec 5) (g : BitVec 3) (t : BitVec 1) : State → Res :=
  fp2 (.fmax d a b g t) d a b g t fun f x y => f.max x y

/-- FMA (R340): ga × gb + gdOld with one rounding. -/
def execFma (d a b : BitVec 5) (g : BitVec 3) (t : BitVec 1) : State → Res :=
  shortG { instr := .fma d a b g t, guard := g, reads := [.g a, .g b, .g d] } d fun x =>
    dw ((fmtOfD t).fma (low t (x.readG a)) (low t (x.readG b)) (low t (x.readG d)))

/-- FSGN (R340): magnitude of ga, sign bit of gb. -/
def execFsgn (d a b : BitVec 5) (g : BitVec 3) (t : BitVec 1) : State → Res :=
  fp2 (.fsgn d a b g t) d a b g t fun f x y => f.setSign x (f.neg y)

/-- FSQRT (R340): square root. -/
def execFsqrt (d a : BitVec 5) (g : BitVec 3) (t : BitVec 1) : State → Res :=
  fp1 (.fsqrt d a g t) d a g t fun f x => f.sqrt x

/-- FNEG (R340): sign inverted. -/
def execFneg (d a : BitVec 5) (g : BitVec 3) (t : BitVec 1) : State → Res :=
  fp1 (.fneg d a g t) d a g t fun f x => f.setSign x (!f.neg x)

/-- FABS (R340): sign cleared. -/
def execFabs (d a : BitVec 5) (g : BitVec 3) (t : BitVec 1) : State → Res :=
  fp1 (.fabs d a g t) d a g t fun f x => f.setSign x false

/-- FCLASS (R340): class word (R342). -/
def execFclass (d a : BitVec 5) (g : BitVec 3) (t : BitVec 1) : State → Res :=
  fp1 (.fclass d a g t) d a g t fun f x => f.classWord x

/-- FCMP (R341). -/
def execFcmp (p : BitVec 3) (a b : BitVec 5) (g : BitVec 3) (t : BitVec 1) (k : BitVec 3) : State → Res :=
  shortP { instr := .fcmp p a b g t k, guard := g, reads := [.g a, .g b] } p fun x =>
    fpCond (fmtOfD t) k.toNat (low t (x.readG a)) (low t (x.readG b))

/-- FCVT (R343): source kind u, target kind c, rounding m, SAT t. -/
def execFcvt (d a : BitVec 5) (m : BitVec 2) (t : BitVec 1) (g u c : BitVec 3) : State → Res :=
  shortG { instr := .fcvt d a m t g u c, guard := g, reads := [.g a] } d fun x =>
    let src := kindCode u; let dst := kindCode c
    let r := convert src dst (Fp.Rm.ofBits m) (t == 1) ((x.readG a).toNat % 2 ^ formatWidth src)
    if codeSigned dst then dw (ofI 64 (toI (formatWidth dst) r)) else dw r

end Sys2Proof.Machine
end

