-- ==== Sys2Proof/Machine/Dispatch.lean ====
section
/-! DEFINITION. The meaning of each step: one arm per constructor. -/

namespace Sys2Proof.Machine

/-- Runs one step. -/
def exec (i : Instr) (s : State) : Host.Outcome State Fault Refusal :=
  match i with
  | .add d a b g => Sys2Proof.Machine.execAdd d a b g s
  | .sub d a b g => Sys2Proof.Machine.execSub d a b g s
  | .and d a b g => Sys2Proof.Machine.execAnd d a b g s
  | .or d a b g => Sys2Proof.Machine.execOr d a b g s
  | .xor d a b g => Sys2Proof.Machine.execXor d a b g s
  | .shl d a b g => Sys2Proof.Machine.execShl d a b g s
  | .shr d a b g => Sys2Proof.Machine.execShr d a b g s
  | .sra d a b g => Sys2Proof.Machine.execSra d a b g s
  | .min d a b g => Sys2Proof.Machine.execMin d a b g s
  | .max d a b g => Sys2Proof.Machine.execMax d a b g s
  | .minn d a b g => Sys2Proof.Machine.execMinn d a b g s
  | .maxn d a b g => Sys2Proof.Machine.execMaxn d a b g s
  | .clz d a g => Sys2Proof.Machine.execClz d a g s
  | .ctz d a g => Sys2Proof.Machine.execCtz d a g s
  | .popc d a g => Sys2Proof.Machine.execPopc d a g s
  | .brev d a g => Sys2Proof.Machine.execBrev d a g s
  | .exts d a b g => Sys2Proof.Machine.execExts d a b g s
  | .extz d a b g => Sys2Proof.Machine.execExtz d a b g s
  | .insf d a b g => Sys2Proof.Machine.execInsf d a b g s
  | .addi d a g imm => Sys2Proof.Machine.execAddi d a g imm s
  | .andi d a g imm => Sys2Proof.Machine.execAndi d a g imm s
  | .ori d a g imm => Sys2Proof.Machine.execOri d a g imm s
  | .xori d a g imm => Sys2Proof.Machine.execXori d a g imm s
  | .shli d a g c => Sys2Proof.Machine.execShli d a g c s
  | .shri d a g c => Sys2Proof.Machine.execShri d a g c s
  | .srai d a g c => Sys2Proof.Machine.execSrai d a g c s
  | .cmpi p a g k imm => Sys2Proof.Machine.execCmpi p a g k imm s
  | .lih d imm => Sys2Proof.Machine.execLih d imm s
  | .addpc d imm => Sys2Proof.Machine.execAddpc d imm s
  | .cmp p a b g k => Sys2Proof.Machine.execCmp p a b g k s
  | .pand p q r g => Sys2Proof.Machine.execPand p q r g s
  | .por p q r g => Sys2Proof.Machine.execPor p q r g s
  | .pxor p q r g => Sys2Proof.Machine.execPxor p q r g s
  | .pnot p q g => Sys2Proof.Machine.execPnot p q g s
  | .sel d a b g n => Sys2Proof.Machine.execSel d a b g n s
  | .fadd d a b g r => Sys2Proof.Machine.execFadd d a b g r s
  | .fsub d a b g r => Sys2Proof.Machine.execFsub d a b g r s
  | .fmul d a b g r => Sys2Proof.Machine.execFmul d a b g r s
  | .fma d a b g r => Sys2Proof.Machine.execFma d a b g r s
  | .fdiv d a b g r => Sys2Proof.Machine.execFdiv d a b g r s
  | .fsqrt d a g r => Sys2Proof.Machine.execFsqrt d a g r s
  | .fmin d a b g r => Sys2Proof.Machine.execFmin d a b g r s
  | .fmax d a b g r => Sys2Proof.Machine.execFmax d a b g r s
  | .fsgn d a b g r => Sys2Proof.Machine.execFsgn d a b g r s
  | .fneg d a g r => Sys2Proof.Machine.execFneg d a g r s
  | .fabs d a g r => Sys2Proof.Machine.execFabs d a g r s
  | .fclass d a g r => Sys2Proof.Machine.execFclass d a g r s
  | .fcmp p a b g r k => Sys2Proof.Machine.execFcmp p a b g r k s
  | .fcvt d a m t g u c => Sys2Proof.Machine.execFcvt d a m t g u c s
  | .mul d a b g l => Sys2Proof.Machine.execMul d a b g l s
  | .mulh d a b g l => Sys2Proof.Machine.execMulh d a b g l s
  | .mulhn d a b g l => Sys2Proof.Machine.execMulhn d a b g l s
  | .div d a b g l => Sys2Proof.Machine.execDiv d a b g l s
  | .divn d a b g l => Sys2Proof.Machine.execDivn d a b g l s
  | .rem d a b g l => Sys2Proof.Machine.execRem d a b g l s
  | .remn d a b g l => Sys2Proof.Machine.execRemn d a b g l s
  | .br p imm => Sys2Proof.Machine.execBr p imm s
  | .brn p imm => Sys2Proof.Machine.execBrn p imm s
  | .jal d imm => Sys2Proof.Machine.execJal d imm s
  | .jalr d a g imm => Sys2Proof.Machine.execJalr d a g imm s
  | .ldb d b g l o => Sys2Proof.Machine.execLdb d b g l o s
  | .ldh d b g l o => Sys2Proof.Machine.execLdh d b g l o s
  | .ldw d b g l o => Sys2Proof.Machine.execLdw d b g l o s
  | .ldd d b g l o => Sys2Proof.Machine.execLdd d b g l o s
  | .ldbn d b g l o => Sys2Proof.Machine.execLdbn d b g l o s
  | .ldhn d b g l o => Sys2Proof.Machine.execLdhn d b g l o s
  | .ldwn d b g l o => Sys2Proof.Machine.execLdwn d b g l o s
  | .stb r b g l o => Sys2Proof.Machine.execStb r b g l o s
  | .sth r b g l o => Sys2Proof.Machine.execSth r b g l o s
  | .stw r b g l o => Sys2Proof.Machine.execStw r b g l o s
  | .std r b g l o => Sys2Proof.Machine.execStd r b g l o s
  | .ldf d a b g l => Sys2Proof.Machine.execLdf d a b g l s
  | .stf r a b g l => Sys2Proof.Machine.execStf r a b g l s
  | .ldfp d a b g l => Sys2Proof.Machine.execLdfp d a b g l s
  | .feget d a b g l => Sys2Proof.Machine.execFeget d a b g l s
  | .feset r a b g l => Sys2Proof.Machine.execFeset r a b g l s
  | .pref v a b g l => Sys2Proof.Machine.execPref v a b g l s
  | .cflush a b g l => Sys2Proof.Machine.execCflush a b g l s
  | .cinv g l => Sys2Proof.Machine.execCinv g l s
  | .fenceRel g c => Sys2Proof.Machine.execFenceRel g c s
  | .fenceAcq g c => Sys2Proof.Machine.execFenceAcq g c s
  | .fenceFull g c => Sys2Proof.Machine.execFenceFull g c s
  | .amoAdd d a b z c l => Sys2Proof.Machine.execAmoAdd d a b z c l s
  | .amoAnd d a b z c l => Sys2Proof.Machine.execAmoAnd d a b z c l s
  | .amoOr d a b z c l => Sys2Proof.Machine.execAmoOr d a b z c l s
  | .amoXor d a b z c l => Sys2Proof.Machine.execAmoXor d a b z c l s
  | .amoMin d a b z c l => Sys2Proof.Machine.execAmoMin d a b z c l s
  | .amoMax d a b z c l => Sys2Proof.Machine.execAmoMax d a b z c l s
  | .amoMinn d a b z c l => Sys2Proof.Machine.execAmoMinn d a b z c l s
  | .amoMaxn d a b z c l => Sys2Proof.Machine.execAmoMaxn d a b z c l s
  | .amoSwp d a b z c l => Sys2Proof.Machine.execAmoSwp d a b z c l s
  | .amoCas d a b z c l => Sys2Proof.Machine.execAmoCas d a b z c l s
  | .amoFadd d a b z c l => Sys2Proof.Machine.execAmoFadd d a b z c l s
  | .amoRedOrd d a b z c l => Sys2Proof.Machine.execAmoRedOrd d a b z c l s
  | .spawn a b g => Sys2Proof.Machine.execSpawn a b g s
  | .join a g => Sys2Proof.Machine.execJoin a g s
  | .migr d a g => Sys2Proof.Machine.execMigr d a g s
  | .migv d a v g => Sys2Proof.Machine.execMigv d a v g s
  | .yield g => Sys2Proof.Machine.execYield g s
  | .park d g => Sys2Proof.Machine.execPark d g s
  | .parkE d g => Sys2Proof.Machine.execParkE d g s
  | .rfill d a b g l => Sys2Proof.Machine.execRfill d a b g l s
  | .self d g l => Sys2Proof.Machine.execSelf d g l s
  | .msend d a b g l => Sys2Proof.Machine.execMsend d a b g l s
  | .mrecv d a b g l => Sys2Proof.Machine.execMrecv d a b g l s
  | .mpeek d a g l => Sys2Proof.Machine.execMpeek d a g l s
  | .tpost d a g l => Sys2Proof.Machine.execTpost d a g l s
  | .tdone g => Sys2Proof.Machine.execTdone g s
  | .qpush d a b g l => Sys2Proof.Machine.execQpush d a b g l s
  | .qpop d a b g l => Sys2Proof.Machine.execQpop d a b g l s
  | .tcard d g l => Sys2Proof.Machine.execTcard d g l s
  | .qpopW d a g l => Sys2Proof.Machine.execQpopW d a g l s
  | .sfork d a b g l => Sys2Proof.Machine.execSfork d a b g l s
  | .sstep d a g l => Sys2Proof.Machine.execSstep d a g l s
  | .sact d a b g l => Sys2Proof.Machine.execSact d a b g l s
  | .sret d a b g l => Sys2Proof.Machine.execSret d a b g l s
  | .sjoin d a b g l => Sys2Proof.Machine.execSjoin d a b g l s
  | .sretire a g l => Sys2Proof.Machine.execSretire a g l s
  | .sevict d a b g l => Sys2Proof.Machine.execSevict d a b g l s
  | .smig d a b g l => Sys2Proof.Machine.execSmig d a b g l s
  | .sstat d a b g l => Sys2Proof.Machine.execSstat d a b g l s
  | .sjoinOpen d a g l => Sys2Proof.Machine.execSjoinOpen d a g l s
  | .sstop d a b g l => Sys2Proof.Machine.execSstop d a b g l s
  | .clook d a b g l => Sys2Proof.Machine.execClook d a b g l s
  | .cput d a g l => Sys2Proof.Machine.execCput d a g l s
  | .cinvk d a g l => Sys2Proof.Machine.execCinvk d a g l s
  | .cflusht d a g l => Sys2Proof.Machine.execCflusht d a g l s
  | .gset d a b g l => Sys2Proof.Machine.execGset d a b g l s
  | .gmask p a b g l => Sys2Proof.Machine.execGmask p a b g l s
  | .gmaskS p a b g l => Sys2Proof.Machine.execGmaskS p a b g l s
  | .gadv d a b g l => Sys2Proof.Machine.execGadv d a b g l s
  | .gadvS d a b g l => Sys2Proof.Machine.execGadvS d a b g l s
  | .gchk p a b g l => Sys2Proof.Machine.execGchk p a b g l s
  | .gsave d a g l => Sys2Proof.Machine.execGsave d a g l s
  | .gload a b g l => Sys2Proof.Machine.execGload a b g l s
  | .trap c g => Sys2Proof.Machine.execTrap c g s
  | .trapack g => Sys2Proof.Machine.execTrapack g s
  | .rett g => Sys2Proof.Machine.execRett g s
  | .sysc d a g => Sys2Proof.Machine.execSysc d a g s
  | .sleep a g => Sys2Proof.Machine.execSleep a g s
  | .csrr d n m g k => Sys2Proof.Machine.execCsrr d n m g k s
  | .csrw r n m g k => Sys2Proof.Machine.execCsrw r n m g k s
  | .csrs r n m g k => Sys2Proof.Machine.execCsrs r n m g k s
  | .csrc r n m g k => Sys2Proof.Machine.execCsrc r n m g k s
  | .csrfi v p g c => Sys2Proof.Machine.execCsrfi v p g c s
  | .vadd d a b m t l => Sys2Proof.Machine.execVadd d a b m t l s
  | .vsub d a b m t l => Sys2Proof.Machine.execVsub d a b m t l s
  | .vmul d a b m t l => Sys2Proof.Machine.execVmul d a b m t l s
  | .vmulh d a b m t l => Sys2Proof.Machine.execVmulh d a b m t l s
  | .vmulhn d a b m t l => Sys2Proof.Machine.execVmulhn d a b m t l s
  | .vand d a b m t l => Sys2Proof.Machine.execVand d a b m t l s
  | .vor d a b m t l => Sys2Proof.Machine.execVor d a b m t l s
  | .vxor d a b m t l => Sys2Proof.Machine.execVxor d a b m t l s
  | .vshl d a b m t l => Sys2Proof.Machine.execVshl d a b m t l s
  | .vshr d a b m t l => Sys2Proof.Machine.execVshr d a b m t l s
  | .vsra d a b m t l => Sys2Proof.Machine.execVsra d a b m t l s
  | .vmin d a b m t l => Sys2Proof.Machine.execVmin d a b m t l s
  | .vmax d a b m t l => Sys2Proof.Machine.execVmax d a b m t l s
  | .vminn d a b m t l => Sys2Proof.Machine.execVminn d a b m t l s
  | .vmaxn d a b m t l => Sys2Proof.Machine.execVmaxn d a b m t l s
  | .vadds d a b m t l => Sys2Proof.Machine.execVadds d a b m t l s
  | .vaddsn d a b m t l => Sys2Proof.Machine.execVaddsn d a b m t l s
  | .vsubs d a b m t l => Sys2Proof.Machine.execVsubs d a b m t l s
  | .vsubsn d a b m t l => Sys2Proof.Machine.execVsubsn d a b m t l s
  | .vmov d a m t l => Sys2Proof.Machine.execVmov d a m t l s
  | .vfadd d a b m t l => Sys2Proof.Machine.execVfadd d a b m t l s
  | .vfsub d a b m t l => Sys2Proof.Machine.execVfsub d a b m t l s
  | .vfmul d a b m t l => Sys2Proof.Machine.execVfmul d a b m t l s
  | .vfma d a b m t l => Sys2Proof.Machine.execVfma d a b m t l s
  | .vfdiv d a b m t l => Sys2Proof.Machine.execVfdiv d a b m t l s
  | .vfsqrt d a m t l => Sys2Proof.Machine.execVfsqrt d a m t l s
  | .vfmin d a b m t l => Sys2Proof.Machine.execVfmin d a b m t l s
  | .vfmax d a b m t l => Sys2Proof.Machine.execVfmax d a b m t l s
  | .vexp2 d a m t l => Sys2Proof.Machine.execVexp2 d a m t l s
  | .vlog2 d a m t l => Sys2Proof.Machine.execVlog2 d a m t l s
  | .vrcp d a m t l => Sys2Proof.Machine.execVrcp d a m t l s
  | .vrsq d a m t l => Sys2Proof.Machine.execVrsq d a m t l s
  | .vld d b m t l => Sys2Proof.Machine.execVld d b m t l s
  | .vlds d b r m t l => Sys2Proof.Machine.execVlds d b r m t l s
  | .vldx d b x m t l => Sys2Proof.Machine.execVldx d b x m t l s
  | .vst d b m t l => Sys2Proof.Machine.execVst d b m t l s
  | .vsts d b r m t l => Sys2Proof.Machine.execVsts d b r m t l s
  | .vstx d b x m t l => Sys2Proof.Machine.execVstx d b x m t l s
  | .vldm n b l => Sys2Proof.Machine.execVldm n b l s
  | .vstm n b l => Sys2Proof.Machine.execVstm n b l s
  | .vrsum d a m t l => Sys2Proof.Machine.execVrsum d a m t l s
  | .vrmin d a m t l => Sys2Proof.Machine.execVrmin d a m t l s
  | .vrmax d a m t l => Sys2Proof.Machine.execVrmax d a m t l s
  | .vrminn d a m t l => Sys2Proof.Machine.execVrminn d a m t l s
  | .vrmaxn d a m t l => Sys2Proof.Machine.execVrmaxn d a m t l s
  | .vrand d a m t l => Sys2Proof.Machine.execVrand d a m t l s
  | .vror d a m t l => Sys2Proof.Machine.execVror d a m t l s
  | .vrxor d a m t l => Sys2Proof.Machine.execVrxor d a m t l s
  | .vscan d a m t l => Sys2Proof.Machine.execVscan d a m t l s
  | .vscanmax d a m t l => Sys2Proof.Machine.execVscanmax d a m t l s
  | .vtopk d a b m t l => Sys2Proof.Machine.execVtopk d a b m t l s
  | .vperm d a b m t l => Sys2Proof.Machine.execVperm d a b m t l s
  | .vbcastg d r m t l => Sys2Proof.Machine.execVbcastg d r m t l s
  | .vmovg d r t l => Sys2Proof.Machine.execVmovg d r t l s
  | .viota d m t l => Sys2Proof.Machine.execViota d m t l s
  | .vbcast d a m t l => Sys2Proof.Machine.execVbcast d a m t l s
  | .vcompress d a m t l => Sys2Proof.Machine.execVcompress d a m t l s
  | .vcmp n a b m t l k => Sys2Proof.Machine.execVcmp n a b m t l k s
  | .vfcmp n a b m t l k => Sys2Proof.Machine.execVfcmp n a b m t l k s
  | .vmand n q r l => Sys2Proof.Machine.execVmand n q r l s
  | .vmor n q r l => Sys2Proof.Machine.execVmor n q r l s
  | .vmxor n q r l => Sys2Proof.Machine.execVmxor n q r l s
  | .vmnot n q l => Sys2Proof.Machine.execVmnot n q l s
  | .vmpopc r m t l => Sys2Proof.Machine.execVmpopc r m t l s
  | .vmfirst r m t l => Sys2Proof.Machine.execVmfirst r m t l s
  | .vcvt d a p m t l x u v c => Sys2Proof.Machine.execVcvt d a p m t l x u v c s
  | .vpen d a b m l => Sys2Proof.Machine.execVpen d a b m l s
  | .vbias d a b m l => Sys2Proof.Machine.execVbias d a b m l s
  | .vban d m l => Sys2Proof.Machine.execVban d m l s
  | .vsamp d a b m l => Sys2Proof.Machine.execVsamp d a b m l s
  | .vrng d a b m l => Sys2Proof.Machine.execVrng d a b m l s
  | .vacc d a b m l => Sys2Proof.Machine.execVacc d a b m l s
  | .vresid d a b m l => Sys2Proof.Machine.execVresid d a b m l s
  | .vtree d a b l => Sys2Proof.Machine.execVtree d a b l s
  | .vmatch d a b l => Sys2Proof.Machine.execVmatch d a b l s
  | .vsoftT d b m l => Sys2Proof.Machine.execVsoftT d b m l s
  | .vsoftW d b m l => Sys2Proof.Machine.execVsoftW d b m l s
  | .tcmd a b g l q h w => Sys2Proof.Machine.execTcmd a b g l q h w s
  | .illegalWord word => Sys2Proof.Machine.execIllegalWord word s
  | .packageReset => Sys2Proof.Machine.execPackageReset s
  | .thermalWarning => Sys2Proof.Machine.execThermalWarning s
  | .throttleStart => Sys2Proof.Machine.execThrottleStart s
  | .throttleEnd => Sys2Proof.Machine.execThrottleEnd s
  | .trip => Sys2Proof.Machine.execTrip s
  | .freezePinAssert => Sys2Proof.Machine.execFreezePinAssert s
  | .aigonFreezeRequest => Sys2Proof.Machine.execAigonFreezeRequest s
  | .freezePinDeassert => Sys2Proof.Machine.execFreezePinDeassert s
  | .thawRestart => Sys2Proof.Machine.execThawRestart s
  | .thermalThaw => Sys2Proof.Machine.execThermalThaw s
  | .currentThaw => Sys2Proof.Machine.execCurrentThaw s
  | .readoutRequest => Sys2Proof.Machine.execReadoutRequest s
  | .tcreate => Sys2Proof.Machine.execTcreate s
  | .tlock => Sys2Proof.Machine.execTlock s
  | .tdestroy => Sys2Proof.Machine.execTdestroy s
  | .qpbind => Sys2Proof.Machine.execQpbind s
  | .queuePairSetup => Sys2Proof.Machine.execQueuePairSetup s
  | .lqcreate => Sys2Proof.Machine.execLqcreate s
  | .lqdestroy => Sys2Proof.Machine.execLqdestroy s
  | .tierset => Sys2Proof.Machine.execTierset s
  | .ckptreq => Sys2Proof.Machine.execCkptreq s
  | .attest => Sys2Proof.Machine.execAttest s
  | .thaw => Sys2Proof.Machine.execThaw s
  | .readRequest => Sys2Proof.Machine.execReadRequest s
  | .writeRequest => Sys2Proof.Machine.execWriteRequest s
  | .amoRequest => Sys2Proof.Machine.execAmoRequest s
  | .msgRequest => Sys2Proof.Machine.execMsgRequest s
  | .strandRequest => Sys2Proof.Machine.execStrandRequest s
  | .snapreq => Sys2Proof.Machine.execSnapreq s
  | .snapdata => Sys2Proof.Machine.execSnapdata s
  | .ckptPacketReceive => Sys2Proof.Machine.execCkptPacketReceive s
  | .fencePacket => Sys2Proof.Machine.execFencePacket s
  | .responseReceive => Sys2Proof.Machine.execResponseReceive s
  | .responseTimeout => Sys2Proof.Machine.execResponseTimeout s
  | .packetForward => Sys2Proof.Machine.execPacketForward s
  | .portLeaveService => Sys2Proof.Machine.execPortLeaveService s
  | .portRejoin => Sys2Proof.Machine.execPortRejoin s
  | .roceSendReceive => Sys2Proof.Machine.execRoceSendReceive s
  | .rdmaWrite => Sys2Proof.Machine.execRdmaWrite s
  | .rdmaRead => Sys2Proof.Machine.execRdmaRead s
  | .roceCas => Sys2Proof.Machine.execRoceCas s
  | .roceFetchAdd => Sys2Proof.Machine.execRoceFetchAdd s
  | .roceAckReceive => Sys2Proof.Machine.execRoceAckReceive s
  | .roceRetransmit => Sys2Proof.Machine.execRoceRetransmit s
  | .cnpReceive => Sys2Proof.Machine.execCnpReceive s
  | .rateRecover => Sys2Proof.Machine.execRateRecover s
  | .sysreply => Sys2Proof.Machine.execSysreply s
  | .pagereq => Sys2Proof.Machine.execPagereq s
  | .pagerep => Sys2Proof.Machine.execPagerep s
  | .settleTimeEnd => Sys2Proof.Machine.execSettleTimeEnd s
  | .launchUnitTake => Sys2Proof.Machine.execLaunchUnitTake s
  | .sweepLaunchStart => Sys2Proof.Machine.execSweepLaunchStart s
  | .graphLaunchStart => Sys2Proof.Machine.execGraphLaunchStart s
  | .streamsetStart => Sys2Proof.Machine.execStreamsetStart s
  | .streamsetAdvance => Sys2Proof.Machine.execStreamsetAdvance s
  | .launchDieDone => Sys2Proof.Machine.execLaunchDieDone s
  | .launchComplete => Sys2Proof.Machine.execLaunchComplete s
  | .sweepStrandStart => Sys2Proof.Machine.execSweepStrandStart s
  | .drainSend => Sys2Proof.Machine.execDrainSend s
  | .drainStallTimeout => Sys2Proof.Machine.execDrainStallTimeout s
  | .drainEnd => Sys2Proof.Machine.execDrainEnd s
  | .sideCopyDone => Sys2Proof.Machine.execSideCopyDone s
  | .faultMessageSend => Sys2Proof.Machine.execFaultMessageSend s
  | .faultReply => Sys2Proof.Machine.execFaultReply s
  | .walkBusyResume => Sys2Proof.Machine.execWalkBusyResume s
  | .frameCopyDone => Sys2Proof.Machine.execFrameCopyDone s
  | .writePerform => Sys2Proof.Machine.execWritePerform s
  | .announcementApply => Sys2Proof.Machine.execAnnouncementApply s
  | .loadViewReturn => Sys2Proof.Machine.execLoadViewReturn s
  | .atomicHomePerform => Sys2Proof.Machine.execAtomicHomePerform s
  | .redordArrive => Sys2Proof.Machine.execRedordArrive s
  | .redordResend => Sys2Proof.Machine.execRedordResend s
  | .syncAccessGrant => Sys2Proof.Machine.execSyncAccessGrant s
  | .feTimeout => Sys2Proof.Machine.execFeTimeout s
  | .runQueueArrive => Sys2Proof.Machine.execRunQueueArrive s
  | .dispatch => Sys2Proof.Machine.execDispatch s
  | .taskStart => Sys2Proof.Machine.execTaskStart s
  | .taskRetire => Sys2Proof.Machine.execTaskRetire s
  | .heldCardEnqueue => Sys2Proof.Machine.execHeldCardEnqueue s
  | .faultEntryPost => Sys2Proof.Machine.execFaultEntryPost s
  | .slotFill => Sys2Proof.Machine.execSlotFill s
  | .steal => Sys2Proof.Machine.execSteal s
  | .deckRoomResume => Sys2Proof.Machine.execDeckRoomResume s
  | .displace => Sys2Proof.Machine.execDisplace s
  | .reservationReload => Sys2Proof.Machine.execReservationReload s
  | .reservationWrite => Sys2Proof.Machine.execReservationWrite s
  | .stageWrite => Sys2Proof.Machine.execStageWrite s
  | .governorTick => Sys2Proof.Machine.execGovernorTick s
  | .urgentEnable => Sys2Proof.Machine.execUrgentEnable s
  | .urgentStart => Sys2Proof.Machine.execUrgentStart s
  | .urgentDisable => Sys2Proof.Machine.execUrgentDisable s
  | .batchForm => Sys2Proof.Machine.execBatchForm s
  | .groupMemberUpdate => Sys2Proof.Machine.execGroupMemberUpdate s
  | .evictionRound => Sys2Proof.Machine.execEvictionRound s
  | .streamRestoreSelf => Sys2Proof.Machine.execStreamRestoreSelf s
  | .transferDiscard => Sys2Proof.Machine.execTransferDiscard s
  | .snapreqRetry => Sys2Proof.Machine.execSnapreqRetry s
  | .modelEntryWrite => Sys2Proof.Machine.execModelEntryWrite s
  | .castInvalidate => Sys2Proof.Machine.execCastInvalidate s
  | .maskWalk => Sys2Proof.Machine.execMaskWalk s
  | .grammarDeadStop => Sys2Proof.Machine.execGrammarDeadStop s
  | .grammarLoad => Sys2Proof.Machine.execGrammarLoad s
  | .grammarUnload => Sys2Proof.Machine.execGrammarUnload s
  | .unloadTakeEffect => Sys2Proof.Machine.execUnloadTakeEffect s
  | .arenaOpen => Sys2Proof.Machine.execArenaOpen s
  | .arenaCommit => Sys2Proof.Machine.execArenaCommit s
  | .arenaClose => Sys2Proof.Machine.execArenaClose s
  | .kvAlloc => Sys2Proof.Machine.execKvAlloc s
  | .kvOpen => Sys2Proof.Machine.execKvOpen s
  | .kvRelease => Sys2Proof.Machine.execKvRelease s
  | .kvSetlen => Sys2Proof.Machine.execKvSetlen s
  | .instructionComplete => Sys2Proof.Machine.execInstructionComplete s
  | .vectorIssue => Sys2Proof.Machine.execVectorIssue s
  | .leaseGrant => Sys2Proof.Machine.execLeaseGrant s
  | .leaseEnd => Sys2Proof.Machine.execLeaseEnd s
  | .accumClaim => Sys2Proof.Machine.execAccumClaim s
  | .accumRelease => Sys2Proof.Machine.execAccumRelease s
  | .arrivalCount => Sys2Proof.Machine.execArrivalCount s
  | .coreSleep => Sys2Proof.Machine.execCoreSleep s
  | .coreWake => Sys2Proof.Machine.execCoreWake s
  | .evgath => Sys2Proof.Machine.execEvgath s
  | .evselWrite => Sys2Proof.Machine.execEvselWrite s
  | .tlbinv => Sys2Proof.Machine.execTlbinv s
  | .caststatClear => Sys2Proof.Machine.execCaststatClear s
  | .registerWrite => Sys2Proof.Machine.execRegisterWrite s
  | .takeTrap => Sys2Proof.Machine.execTakeTrap s
  | .timerCompare => Sys2Proof.Machine.execTimerCompare s
  | .slotSave => Sys2Proof.Machine.execSlotSave s
  | .slotRestore => Sys2Proof.Machine.execSlotRestore s
  | .lssave => Sys2Proof.Machine.execLssave s
  | .lsload => Sys2Proof.Machine.execLsload s
  | .coreMove => Sys2Proof.Machine.execCoreMove s
  | .fwdclr => Sys2Proof.Machine.execFwdclr s
  | .forwardDeliver => Sys2Proof.Machine.execForwardDeliver s
  | .joinRecordPush => Sys2Proof.Machine.execJoinRecordPush s
  | .joinRecordRetry => Sys2Proof.Machine.execJoinRecordRetry s
  | .migrAnswer => Sys2Proof.Machine.execMigrAnswer s
  | .mailboxDeliver => Sys2Proof.Machine.execMailboxDeliver s
  | .commandComplete => Sys2Proof.Machine.execCommandComplete s
  | .mma => Sys2Proof.Machine.execMma s
  | .mmacb => Sys2Proof.Machine.execMmacb s
  | .mmaf8 => Sys2Proof.Machine.execMmaf8 s
  | .cellp => Sys2Proof.Machine.execCellp s
  | .cell => Sys2Proof.Machine.execCell s
  | .att => Sys2Proof.Machine.execAtt s
  | .scan => Sys2Proof.Machine.execScan s
  | .accrd => Sys2Proof.Machine.execAccrd s
  | .acclr => Sys2Proof.Machine.execAcclr s
  | .fmtld => Sys2Proof.Machine.execFmtld s
  | .ringcfg => Sys2Proof.Machine.execRingcfg s
  | .copy => Sys2Proof.Machine.execCopy s
  | .gath => Sys2Proof.Machine.execGath s
  | .scat => Sys2Proof.Machine.execScat s
  | .fill => Sys2Proof.Machine.execFill s
  | .compact => Sys2Proof.Machine.execCompact s
  | .hashpg => Sys2Proof.Machine.execHashpg s
  | .mcast => Sys2Proof.Machine.execMcast s
  | .redst => Sys2Proof.Machine.execRedst s
  | .barm => Sys2Proof.Machine.execBarm s
  | .snap => Sys2Proof.Machine.execSnap s
  | .ckpt => Sys2Proof.Machine.execCkpt s
  | .packageIdBurn => Sys2Proof.Machine.execPackageIdBurn s
  | .thermalWarningClear => Sys2Proof.Machine.execThermalWarningClear s
  | .aigonThawRequest => Sys2Proof.Machine.execAigonThawRequest s
  | .sleepTimerLimit => Sys2Proof.Machine.execSleepTimerLimit s
  | .creditReturn => Sys2Proof.Machine.execCreditReturn s
  | .flitReplay => Sys2Proof.Machine.execFlitReplay s
  | .neighbourDrainReport => Sys2Proof.Machine.execNeighbourDrainReport s
  | .pfcPauseFrame => Sys2Proof.Machine.execPfcPauseFrame s

end Sys2Proof.Machine
end

