-- ==== Sys2Proof/Machine/Auto.lean ====
section
/-! DEFINITION. The issue turn of a core (R145), and the turn that is taken when the agenda is empty (log entry 1): the first
step of a unit that changes the state, else the next issue turn, else a cycle. -/

namespace Sys2Proof.Machine

/-! ### The issue turn (R145) -/

/-- Slot `k` takes the turn of its core: the rotation pointer passes it, and the turn is charged (R133, R145). -/
def State.turnOf (s : State) (k : Nat) : State :=
  { (s.modCore (coreOf k) fun x => { x with rot := BitVec.ofNat 3 (k + 1) }).charge k (dieOf k) 0 1 with focus := k }

/-- Slot `k` tries its next instruction at its turn. -/
def State.tryIssue (s : State) (k : Nat) : Host.Outcome State Fault Refusal :=
  match (s.turnOf k).fetch k with
  | (t, some i) => exec i t
  | (t, none) => .next t

/-- Between two states slot `k` has issued, or a trap of it has come to be due: more has changed than what it waits for. -/
def State.issuedAt (s t : State) (k : Nat) : Bool :=
  decide ({ t.slot k with waitOn := [] } ≠ { s.slot k with waitOn := [] })

/-- A slot whose next instruction was not ready gives the turn back. -/
def State.passTurn (s u : State) (k : Nat) : State :=
  (u.modCore (coreOf k) fun x => { x with rot := (s.core (coreOf k)).rot }).modDie (dieOf k) fun x => { x with
    resvCtr := (s.die (dieOf k)).resvCtr }

/-- The first of the slots whose next instruction is ready issues (R145). -/
def State.issueTurn : List Nat → State → Host.Outcome State Fault Refusal
  | [], s => .next s
  | k :: ks, s => match s.tryIssue k with
    | .next u => if s.issuedAt u k then .next u else State.issueTurn ks (s.passTurn u k)
    | r => r

/-- The issue turn of core `c`. -/
def State.coreTurn (s : State) (c : Nat) : Host.Outcome State Fault Refusal := State.issueTurn (s.turnSlots c) s

/-! ### Steps that a unit could take -/

/-- A step with its operands. -/
abbrev Cand := Instr × StepArgs
def cand (i : Instr) (who n : Nat) : Cand := (i, { who := who, n := n })
def candM (i : Instr) (who n m : Nat) : Cand := (i, { who := who, n := n, m := m })
/-- The flagged form of a step. -/
def candF (i : Instr) (n : Nat) : Cand := (i, { n := n, flag := true })

/-- Steps of an outstanding instruction. -/
def opSteps (k id : Nat) : List Cand :=
  [Instr.loadViewReturn, Instr.atomicHomePerform, Instr.redordArrive, Instr.redordResend, Instr.syncAccessGrant,
   Instr.instructionComplete, Instr.walkBusyResume, Instr.feTimeout].map fun i => cand i k id

/-- Steps of a slot. -/
def slotSteps (k : Nat) : List Cand :=
  [Instr.takeTrap, Instr.migrAnswer, Instr.deckRoomResume, Instr.slotFill, Instr.steal, Instr.timerCompare,
   Instr.sleepTimerLimit].map fun i => cand i k 0

/-- Steps of a posted command register. -/
def postedSteps (k : Nat) : List Cand :=
  [Instr.evgath, Instr.evselWrite, Instr.tlbinv, Instr.caststatClear, Instr.registerWrite, Instr.modelEntryWrite,
   Instr.reservationWrite, Instr.stageWrite, Instr.grammarLoad, Instr.grammarUnload, Instr.arenaOpen, Instr.arenaCommit,
   Instr.arenaClose, Instr.kvAlloc, Instr.kvOpen, Instr.kvRelease, Instr.kvSetlen, Instr.slotSave, Instr.slotRestore,
   Instr.lssave, Instr.lsload, Instr.coreMove, Instr.fwdclr, Instr.accumClaim, Instr.accumRelease,
   Instr.governorTick].map fun i => cand i k 0

/-- Steps of the slots. -/
def State.slotCands (s : State) : List Cand :=
  (s.slots.map (·.1)).flatMap fun k => List.flatten
    [(s.slot k).outs.flatMap fun o => opSteps k o.id, slotSteps k, if (s.slot k).cmd.isNone then [] else postedSteps k]

/-- Steps of writes, copies and contributions on their way. -/
def State.memoryCands (s : State) : List Cand := List.flatten
  [s.writes.flatMap fun w => cand .writePerform w.n 0 :: w.todo.map fun d => cand .announcementApply d w.n,
   s.copies.map fun c => cand .frameCopyDone c.n 0,
   s.redFly.map fun f => candF .redordArrive f.1,
   s.redFly.map fun f => candF .redordResend f.1,
   s.cmds.map fun c => candF .redordResend c.n]

/-- Steps of a message of the fabric. -/
def msgSteps (n : Nat) : List Cand :=
  [Instr.runQueueArrive, Instr.joinRecordPush, Instr.joinRecordRetry, Instr.mailboxDeliver,
   Instr.groupMemberUpdate].map fun i => cand i n 0

/-- The step that goes on with a request that has come in. -/
def inboxStep (kind : Nat) : Option Instr :=
  match kind with
  | 1 => some .readRequest
  | 2 => some .writeRequest
  | 3 => some .amoRequest
  | 4 => some .msgRequest
  | 5 => some .strandRequest
  | 6 => some .snapreq
  | 7 => some .snapdata
  | 8 => some .ckptPacketReceive
  | 9 => some .fencePacket
  | 0x20 => some .roceSendReceive
  | 0x21 => some .rdmaWrite
  | 0x22 => some .rdmaRead
  | 0x23 => some .roceCas
  | 0x24 => some .roceFetchAdd
  | 0x40 => some .ckptreq
  | 0x41 => some .tdestroy
  | _ => none

/-- Steps of messages, requests and stream transfers. -/
def State.linkCands (s : State) : List Cand := List.flatten
  [s.msgs.flatMap fun m => msgSteps m.n,
   s.requests.map fun r => cand .responseTimeout r.die r.tag,
   s.inbox.filterMap fun (e : Inbound) => (inboxStep e.kind).map fun i => (i, { e.args with k := e.n }),
   s.crcFails.map fun e => cand .portLeaveService (e.1 / 8) (e.1 % 8),
   s.pages.map fun (p : PageState) => (Instr.settleTimeEnd, { id := p.tenant, a := p.va }),
   [cand .pagereq 0 0],
   s.moves.map fun t => cand .snapreqRetry t.n 0,
   s.arrivals.map fun t => cand .transferDiscard t.n 0]

/-- Steps of a tile command. -/
def cmdSteps (n : Nat) : List Cand :=
  [Instr.mma, Instr.mmacb, Instr.mmaf8, Instr.cellp, Instr.cell, Instr.att, Instr.scan, Instr.accrd, Instr.acclr, Instr.fmtld,
   Instr.ringcfg, Instr.copy, Instr.gath, Instr.scat, Instr.fill, Instr.compact, Instr.hashpg, Instr.mcast, Instr.redst,
   Instr.barm, Instr.snap, Instr.ckpt, Instr.arrivalCount, Instr.commandComplete].map fun i => cand i n 0

/-- Steps of the engines and units of the clusters. -/
def State.engineCands (s : State) : List Cand := List.flatten
  [s.cmds.flatMap fun c => cmdSteps c.n,
   (s.slots.map fun e => clusterOf e.1).dedup.flatMap fun c => [Instr.vectorIssue, Instr.leaseGrant, Instr.leaseEnd].map fun i => cand i c 0]

/-- Steps of a launch on a die. -/
def launchSteps (l : Launch) (d : Nat) : List Cand := List.flatten
  [[Instr.sweepLaunchStart, Instr.graphLaunchStart, Instr.streamsetStart, Instr.streamsetAdvance, Instr.launchDieDone].map fun i =>
     cand i d l.n,
   if rd l.pkt 0 1 = 1 then (List.range l.workers).map fun w => candM .sweepStrandStart d l.n w else []]

/-- Steps of a die's scheduler and units. -/
def dieSteps (d : Nat) (x : Die) : List Cand := List.flatten
  [x.queues.map fun q => cand .dispatch d q.1,
   x.queues.map fun q => cand .heldCardEnqueue d q.1,
   x.board.map fun b => candM .batchForm d b.model b.layer,
   x.maskq.map fun r => cand .grammarDeadStop r.n 0,
   [Instr.faultMessageSend, Instr.faultEntryPost, Instr.evictionRound, Instr.streamRestoreSelf, Instr.castInvalidate,
    Instr.maskWalk, Instr.displace].map fun i => cand i d 0]

/-- Steps of launches, tasks, streams, cores and the drain. -/
def State.schedCands (s : State) : List Cand := List.flatten
  [s.lqs.map fun e => cand .launchUnitTake e.1 0,
   s.launches.flatMap fun l => cand .launchComplete l.n 0 :: [0, 1, 2, 3].flatMap (launchSteps l),
   s.tasks.flatMap fun t => [cand .taskStart t.n 0, cand .taskRetire t.n 0],
   s.dies.flatMap fun e => dieSteps e.1 e.2,
   s.resvLive.flatMap fun e => [0, 1, 2, 3].map fun d => cand .reservationReload d e.1,
   s.grams.map fun e => cand .unloadTakeEffect e.1 0,
   s.cores.flatMap fun e => [Instr.forwardDeliver, Instr.urgentEnable, Instr.urgentStart, Instr.urgentDisable, Instr.coreSleep,
     Instr.coreWake].map fun i => cand i e.1 0,
   match s.drain with
   | some d => List.flatten
      [s.side.map fun e => cand .sideCopyDone e.1 0,
       s.undrained.map fun f => cand .drainSend f 0,
       d.busy.map fun f => cand .drainSend f.1 0,
       [cand .drainStallTimeout 0 0, cand .drainEnd 0 0]]
   | none => []]

/-- The step changes the state. -/
def State.changes (s : State) (c : Cand) : Bool :=
  let s := { s with ev := c.2 }
  match exec c.1 s with
  | .next t => decide (t ≠ s)
  | _ => false

/-- The issue turn of a core changes more than which slot is in focus. -/
def State.coreMoves (s : State) (c : Nat) : Bool :=
  match s.coreTurn c with
  | .next t => decide ({ t with focus := s.focus } ≠ s)
  | _ => true

/-- The core that has the next issue turn: the first, from the core after the one in focus, with a slot that issues. -/
def State.nextCore (s : State) : Option Nat :=
  let cs := (s.slots.map fun e => coreOf e.1).dedup
  ((cs.filter fun c => decide (coreOf s.focus < c)) ++ (cs.filter fun c => decide (c ≤ coreOf s.focus))).find? s.coreMoves

/-- The turn of an empty agenda. -/
def State.autoTurn (s : State) : Turn :=
  match (List.flatten [s.slotCands, s.memoryCands, s.linkCands, s.engineCands, s.schedCands]).find? s.changes with
  | some c => .step c.1 c.2
  | none => match s.kvFree with
    | f :: _ => .home f
    | [] => match s.nextCore with
      | some c => .core c
      | none => .elapse 1

end Sys2Proof.Machine
end

