-- ==== Sys2Proof/Machine/Step.lean ====
section
/-! DEFINITION. One step of the part: the next turn of the agenda, or the turn that the model picks when the agenda is
empty (log entry 1). -/

namespace Sys2Proof.Machine

/-- The step is a word of the instruction stream and no device step. -/
def isWord (i : Instr) : Bool := decide (i.ctorIdx ≤ Instr.ctorIdx (.illegalWord 0))

/-- Takes one turn. A frozen device takes only the steps of the always-on domain, and keeps the packets that arrive (R14). -/
def State.take (s : State) (t : Turn) : Host.Outcome State Fault Refusal :=
  match t with
  | .step i a =>
    if isWord i then .next s
    else if s.frozen && !alwaysOn i then .next (s.holdArrival i a)
    else exec i { s with ev := a }
  | .core c => if s.frozen then .next s else s.coreTurn c
  | .home f => .next (if s.frozen then s else s.homeFree f)
  | .elapse n => .next (s.elapse n)

/-- One step of the part. -/
def step (s : State) : Host.Outcome State Fault Refusal :=
  match s.agenda with
  | t :: rest => { s with agenda := rest }.take t
  | [] => s.take s.autoTurn

/-- The state with an instruction where the next step fetches: at offset 0 of the local store of cluster 0, which slot 0
of core 0 runs from the own-cluster window in user mode (log entry 1). -/
def State.withFetchWord (s : State) (nbits w : Nat) : State :=
  { (s.writeLs 0 0 (leBytes 36 (w % 2 ^ nbits))).modSlot 0 fun x =>
      { x with occ := .active, pc := ownAddr 0, due := none, fatals := [], async := [], cmd := none, sleeping := none,
               outs := [], waitOn := [], displ := false } with
    cores := s.cores.map fun e => if e.1 = 0 then (e.1, { e.2 with asleep := false }) else e
    agenda := [.core 0]
    boot := 0
    freeze := ⟨false, false, false, false, none, false, false, false⟩ }

end Sys2Proof.Machine
end

