-- ==== Sys2Proof/Laws/Encoding.lean ====
section
/-! SUPPORT. The formats of R307: unpacking a packed word gives its fields back, and its top six bits are its major
opcode. -/

namespace Sys2Proof

theorem FmtA.unpack_pack (x : FmtA) : FmtA.unpack x.pack = x := by
  cases x
  simp only [FmtA.pack, FmtA.unpack, FmtA.mk.injEq]
  refine ⟨?_, ?_, ?_, ?_, ?_, ?_⟩ <;>
    (ext i hi; simp [BitVec.getElem_extractLsb']; grind)

theorem FmtA.major_pack (x : FmtA) : x.pack.extractLsb' 26 6 = x.maj := by
  rw [show x.pack.extractLsb' 26 6 = (FmtA.unpack x.pack).maj from rfl, FmtA.unpack_pack]

theorem FmtI.unpack_pack (x : FmtI) : FmtI.unpack x.pack = x := by
  cases x
  simp only [FmtI.pack, FmtI.unpack, FmtI.mk.injEq]
  refine ⟨?_, ?_, ?_, ?_, ?_⟩ <;>
    (ext i hi; simp [BitVec.getElem_extractLsb']; grind)

theorem FmtI.major_pack (x : FmtI) : x.pack.extractLsb' 26 6 = x.maj := by
  rw [show x.pack.extractLsb' 26 6 = (FmtI.unpack x.pack).maj from rfl, FmtI.unpack_pack]

theorem FmtU.unpack_pack (x : FmtU) : FmtU.unpack x.pack = x := by
  cases x
  simp only [FmtU.pack, FmtU.unpack, FmtU.mk.injEq]
  refine ⟨?_, ?_, ?_⟩ <;>
    (ext i hi; simp [BitVec.getElem_extractLsb']; grind)

theorem FmtU.major_pack (x : FmtU) : x.pack.extractLsb' 26 6 = x.maj := by
  rw [show x.pack.extractLsb' 26 6 = (FmtU.unpack x.pack).maj from rfl, FmtU.unpack_pack]

theorem FmtB.unpack_pack (x : FmtB) : FmtB.unpack x.pack = x := by
  cases x
  simp only [FmtB.pack, FmtB.unpack, FmtB.mk.injEq]
  refine ⟨?_, ?_, ?_⟩ <;>
    (ext i hi; simp [BitVec.getElem_extractLsb']; grind)

theorem FmtB.major_pack (x : FmtB) : x.pack.extractLsb' 26 6 = x.maj := by
  rw [show x.pack.extractLsb' 26 6 = (FmtB.unpack x.pack).maj from rfl, FmtB.unpack_pack]

theorem FmtM.unpack_pack (x : FmtM) : FmtM.unpack x.pack = x := by
  cases x
  simp only [FmtM.pack, FmtM.unpack, FmtM.mk.injEq]
  refine ⟨?_, ?_, ?_, ?_, ?_, ?_⟩ <;>
    (ext i hi; simp [BitVec.getElem_extractLsb']; grind)

theorem FmtM.major_pack (x : FmtM) : x.pack.extractLsb' 26 6 = x.maj := by
  rw [show x.pack.extractLsb' 26 6 = (FmtM.unpack x.pack).maj from rfl, FmtM.unpack_pack]

theorem FmtX.unpack_pack (x : FmtX) : FmtX.unpack x.pack = x := by
  cases x
  simp only [FmtX.pack, FmtX.unpack, FmtX.mk.injEq]
  refine ⟨?_, ?_, ?_, ?_, ?_, ?_, ?_⟩ <;>
    (ext i hi; simp [BitVec.getElem_extractLsb']; grind)

theorem FmtX.major_pack (x : FmtX) : x.pack.extractLsb' 26 6 = x.maj := by
  rw [show x.pack.extractLsb' 26 6 = (FmtX.unpack x.pack).maj from rfl, FmtX.unpack_pack]

theorem FmtO.unpack_pack (x : FmtO) : FmtO.unpack x.pack = x := by
  cases x
  simp only [FmtO.pack, FmtO.unpack, FmtO.mk.injEq]
  refine ⟨?_, ?_, ?_, ?_, ?_, ?_, ?_, ?_⟩ <;>
    (ext i hi; simp [BitVec.getElem_extractLsb']; grind)

theorem FmtO.major_pack (x : FmtO) : x.pack.extractLsb' 26 6 = x.maj := by
  rw [show x.pack.extractLsb' 26 6 = (FmtO.unpack x.pack).maj from rfl, FmtO.unpack_pack]

theorem FmtV.unpack_pack (x : FmtV) : FmtV.unpack x.pack = x := by
  cases x
  simp only [FmtV.pack, FmtV.unpack, FmtV.mk.injEq]
  refine ⟨?_, ?_, ?_, ?_, ?_, ?_, ?_, ?_⟩ <;>
    (ext i hi; simp [BitVec.getElem_extractLsb']; grind)

theorem FmtV.major_pack (x : FmtV) : x.pack.extractLsb' 26 6 = x.maj := by
  rw [show x.pack.extractLsb' 26 6 = (FmtV.unpack x.pack).maj from rfl, FmtV.unpack_pack]

theorem FmtW.unpack_pack (x : FmtW) : FmtW.unpack x.pack = x := by
  cases x
  simp only [FmtW.pack, FmtW.unpack, FmtW.mk.injEq]
  refine ⟨?_, ?_, ?_, ?_, ?_, ?_, ?_, ?_⟩ <;>
    (ext i hi; simp [BitVec.getElem_extractLsb']; grind)

theorem FmtW.major_pack (x : FmtW) : x.pack.extractLsb' 26 6 = x.maj := by
  rw [show x.pack.extractLsb' 26 6 = (FmtW.unpack x.pack).maj from rfl, FmtW.unpack_pack]

theorem FmtT.unpack_pack (x : FmtT) : FmtT.unpack x.pack = x := by
  cases x
  simp only [FmtT.pack, FmtT.unpack, FmtT.mk.injEq]
  refine ⟨?_, ?_, ?_, ?_, ?_, ?_, ?_⟩ <;>
    (ext i hi; simp [BitVec.getElem_extractLsb']; grind)

theorem FmtT.major_pack (x : FmtT) : x.pack.extractLsb' 26 6 = x.maj := by
  rw [show x.pack.extractLsb' 26 6 = (FmtT.unpack x.pack).maj from rfl, FmtT.unpack_pack]

end Sys2Proof
end

