-- ==== Sys2Proof/Laws/PerInstr.lean ====
section
/-! SUPPORT. Per-instruction families: `roundTrip`, decoding of the bytes of a well-formed instruction gives it back. -/

namespace Sys2Proof.Laws

set_option Elab.async false
set_option linter.unusedSimpArgs false

/-- The bytes that an instruction encodes to decode to it and leave the bytes behind them; only a device step and the
model's name for a word that is no instruction have no bytes. -/
def roundTrip.Statement (i : Instr) : Prop :=
  match encodeBytes i with
  | some bs => i.wf = true → ∀ rest, decodeBytes (bs ++ rest) = .ok (i, rest)
  | none => Instr.ctorIdx (.illegalWord 0) ≤ i.ctorIdx

/-- The four bytes of a word read back as the word. -/
theorem leNat_leBytes_word (w : Word) : BitVec.ofNat 32 (leNat (leBytes 4 w.toNat)) = w := by
  apply BitVec.eq_of_toNat_eq
  simp [leNat, leBytes]
  omega

theorem length_leBytes (n v : Nat) : (leBytes n v).length = n := by
  induction n generalizing v with
  | zero => rfl
  | succ n ih => simp [leBytes, ih]

/-- A one-word instruction follows from its word. -/
theorem roundTrip.of_word (i : Instr) (w : Word) (h1 : encode i = some [w]) (h2 : i.wf = true → decodeWord w = .ok i)
    (h3 : (w.extractLsb' 26 6 == 0x3C) = false) : roundTrip.Statement i := by
  have h4 : encodeBytes i = some (leBytes 4 w.toNat) := by simp [encodeBytes, h1]
  simp only [roundTrip.Statement, h4]
  intro hw rest
  have h5 : (leBytes 4 w.toNat ++ rest).take 4 = leBytes 4 w.toNat := by
    rw [List.take_append_of_le_length (by simp [length_leBytes])]
    rw [List.take_of_length_le (by simp [length_leBytes])]
  have h6 : (leBytes 4 w.toNat ++ rest).drop 4 = rest := by
    rw [List.drop_append_of_le_length (by simp [length_leBytes])]
    rw [List.drop_of_length_le (by simp [length_leBytes]), List.nil_append]
  have h7 : ¬ (leBytes 4 w.toNat ++ rest).length < 4 := by simp [length_leBytes]
  simp only [decodeBytes, h7, if_false, h5, leNat_leBytes_word, h3, h2 hw, h6]
  rfl

/-! Small fields inside a field. -/

theorem hi3 : ∀ p : BitVec 3, (p ++ 0#2 : BitVec 5).extractLsb' 2 3 = p := by decide
theorem lo3 : ∀ p : BitVec 3, (p ++ 0#2 : BitVec 5).extractLsb' 0 2 = 0#2 := by decide
theorem low3 : ∀ p : BitVec 3, (0#2 ++ p : BitVec 5).extractLsb' 0 3 = p := by decide
theorem high3 : ∀ p : BitVec 3, (0#2 ++ p : BitVec 5).extractLsb' 3 2 = 0#2 := by decide
theorem low2 : ∀ p : BitVec 2, (0#1 ++ p : BitVec 3).extractLsb' 0 2 = p := by decide
theorem high2 : ∀ p : BitVec 2, (0#1 ++ p : BitVec 3).extractLsb' 2 1 = 0#1 := by decide
theorem split5 : ∀ r : BitVec 5, r.extractLsb' 2 3 ++ (r.extractLsb' 0 2 ++ 0#1 : BitVec 3).extractLsb' 1 2 = r := by decide
theorem tail5 : ∀ r : BitVec 5, (r.extractLsb' 0 2 ++ 0#1 : BitVec 3).extractLsb' 0 1 = 0#1 := by decide
theorem shiftF : ∀ c : BitVec 6, (0#7 ++ c : BitVec 13).extractLsb' 11 2 = 0#2 ∧ (32#7 ++ c : BitVec 13).extractLsb' 11 2 = 1#2 ∧
    (64#7 ++ c : BitVec 13).extractLsb' 11 2 = 2#2 := by decide
theorem shiftZ : ∀ c : BitVec 6, (0#7 ++ c : BitVec 13).extractLsb' 6 5 = 0#5 ∧ (32#7 ++ c : BitVec 13).extractLsb' 6 5 = 0#5 ∧
    (64#7 ++ c : BitVec 13).extractLsb' 6 5 = 0#5 := by decide
theorem shiftC : ∀ c : BitVec 6, (0#7 ++ c : BitVec 13).extractLsb' 0 6 = c ∧ (32#7 ++ c : BitVec 13).extractLsb' 0 6 = c ∧
    (64#7 ++ c : BitVec 13).extractLsb' 0 6 = c := by decide
theorem cmpiK (k : BitVec 3) (i : BitVec 10) : (k ++ i : BitVec 13).extractLsb' 10 3 = k := by
  ext j hj; simp [BitVec.getElem_extractLsb']; grind
theorem cmpiI (k : BitVec 3) (i : BitVec 10) : (k ++ i : BitVec 13).extractLsb' 0 10 = i := by
  ext j hj; simp [BitVec.getElem_extractLsb']; grind
theorem csrC (c : BitVec 12) : (0#1 ++ c : BitVec 13).extractLsb' 0 12 = c := by
  ext j hj; simp [BitVec.getElem_extractLsb']; grind
theorem csrZ (c : BitVec 12) : (0#1 ++ c : BitVec 13).extractLsb' 12 1 = 0#1 := by
  ext j hj; simp [BitVec.getElem_extractLsb']; grind
theorem fcvtB : ∀ (m : BitVec 2) (t : BitVec 1), (m ++ t ++ 0#2 : BitVec 5).extractLsb' 3 2 = m ∧
    (m ++ t ++ 0#2 : BitVec 5).extractLsb' 2 1 = t ∧ (m ++ t ++ 0#2 : BitVec 5).extractLsb' 0 2 = 0#2 := by decide
theorem trapD : ∀ c : BitVec 7, (0#3 ++ c.extractLsb' 5 2 : BitVec 5).extractLsb' 2 3 = 0#3 ∧
    (0#3 ++ c.extractLsb' 5 2 : BitVec 5).extractLsb' 0 2 ++ c.extractLsb' 0 5 = c := by decide
theorem vcvtF : ∀ (x : BitVec 1) (u : BitVec 2) (v : BitVec 1) (c : BitVec 4), (x ++ u ++ v ++ c : BitVec 8).extractLsb' 7 1 = x ∧
    (x ++ u ++ v ++ c : BitVec 8).extractLsb' 5 2 = u ∧ (x ++ u ++ v ++ c : BitVec 8).extractLsb' 4 1 = v ∧
    (x ++ u ++ v ++ c : BitVec 8).extractLsb' 0 4 = c := by decide
theorem all1 : ∀ s : BitVec 1, s = 0 ∨ s = 1 := by decide
theorem all2 : ∀ s : BitVec 2, s = 0 ∨ s = 1 ∨ s = 2 ∨ s = 3 := by decide
theorem all3 : ∀ s : BitVec 3, s = 0 ∨ s = 1 ∨ s = 2 ∨ s = 3 ∨ s = 4 ∨ s = 5 ∨ s = 6 ∨ s = 7 := by decide

/-! The instruction words. -/

theorem decodeWord_01 {w : Word} (h : w.extractLsb' 26 6 = 0x01#6) : decodeWord w = decodeAlu (.unpack w) := by
  simp only [decodeWord, h]
theorem decodeWord_02 {w : Word} (h : w.extractLsb' 26 6 = 0x02#6) : decodeWord w = decodeImm .addi (.unpack w) := by
  simp only [decodeWord, h]
theorem decodeWord_03 {w : Word} (h : w.extractLsb' 26 6 = 0x03#6) : decodeWord w = decodeImm .andi (.unpack w) := by
  simp only [decodeWord, h]
theorem decodeWord_04 {w : Word} (h : w.extractLsb' 26 6 = 0x04#6) : decodeWord w = decodeImm .ori (.unpack w) := by
  simp only [decodeWord, h]
theorem decodeWord_05 {w : Word} (h : w.extractLsb' 26 6 = 0x05#6) : decodeWord w = decodeImm .xori (.unpack w) := by
  simp only [decodeWord, h]
theorem decodeWord_06 {w : Word} (h : w.extractLsb' 26 6 = 0x06#6) : decodeWord w = decodeShiftImm (.unpack w) := by
  simp only [decodeWord, h]
theorem decodeWord_07 {w : Word} (h : w.extractLsb' 26 6 = 0x07#6) : decodeWord w = decodeCmpi (.unpack w) := by
  simp only [decodeWord, h]
theorem decodeWord_08 {w : Word} (h : w.extractLsb' 26 6 = 0x08#6) : decodeWord w = decodeU .lih (.unpack w) := by
  simp only [decodeWord, h]
theorem decodeWord_09 {w : Word} (h : w.extractLsb' 26 6 = 0x09#6) : decodeWord w = decodeU .addpc (.unpack w) := by
  simp only [decodeWord, h]
theorem decodeWord_0A {w : Word} (h : w.extractLsb' 26 6 = 0x0A#6) : decodeWord w = decodeCmp (.unpack w) := by
  simp only [decodeWord, h]
theorem decodeWord_0B {w : Word} (h : w.extractLsb' 26 6 = 0x0B#6) : decodeWord w = decodePred (.unpack w) := by
  simp only [decodeWord, h]
theorem decodeWord_0C {w : Word} (h : w.extractLsb' 26 6 = 0x0C#6) : decodeWord w = decodeFp (.unpack w) := by
  simp only [decodeWord, h]
theorem decodeWord_0D {w : Word} (h : w.extractLsb' 26 6 = 0x0D#6) : decodeWord w = decodeMulDiv (.unpack w) := by
  simp only [decodeWord, h]
theorem decodeWord_10 {w : Word} (h : w.extractLsb' 26 6 = 0x10#6) : decodeWord w = decodeB .br (.unpack w) := by
  simp only [decodeWord, h]
theorem decodeWord_11 {w : Word} (h : w.extractLsb' 26 6 = 0x11#6) : decodeWord w = decodeB .brn (.unpack w) := by
  simp only [decodeWord, h]
theorem decodeWord_12 {w : Word} (h : w.extractLsb' 26 6 = 0x12#6) : decodeWord w = decodeU .jal (.unpack w) := by
  simp only [decodeWord, h]
theorem decodeWord_13 {w : Word} (h : w.extractLsb' 26 6 = 0x13#6) : decodeWord w = decodeImm .jalr (.unpack w) := by
  simp only [decodeWord, h]
theorem decodeWord_14 {w : Word} (h : w.extractLsb' 26 6 = 0x14#6) : decodeWord w = decodeMem .ldb (.unpack w) := by
  simp only [decodeWord, h]
theorem decodeWord_15 {w : Word} (h : w.extractLsb' 26 6 = 0x15#6) : decodeWord w = decodeMem .ldh (.unpack w) := by
  simp only [decodeWord, h]
theorem decodeWord_16 {w : Word} (h : w.extractLsb' 26 6 = 0x16#6) : decodeWord w = decodeMem .ldw (.unpack w) := by
  simp only [decodeWord, h]
theorem decodeWord_17 {w : Word} (h : w.extractLsb' 26 6 = 0x17#6) : decodeWord w = decodeMem .ldd (.unpack w) := by
  simp only [decodeWord, h]
theorem decodeWord_18 {w : Word} (h : w.extractLsb' 26 6 = 0x18#6) : decodeWord w = decodeMem .ldbn (.unpack w) := by
  simp only [decodeWord, h]
theorem decodeWord_19 {w : Word} (h : w.extractLsb' 26 6 = 0x19#6) : decodeWord w = decodeMem .ldhn (.unpack w) := by
  simp only [decodeWord, h]
theorem decodeWord_1A {w : Word} (h : w.extractLsb' 26 6 = 0x1A#6) : decodeWord w = decodeMem .ldwn (.unpack w) := by
  simp only [decodeWord, h]
theorem decodeWord_1B {w : Word} (h : w.extractLsb' 26 6 = 0x1B#6) : decodeWord w = decodeMem .stb (.unpack w) := by
  simp only [decodeWord, h]
theorem decodeWord_1C {w : Word} (h : w.extractLsb' 26 6 = 0x1C#6) : decodeWord w = decodeMem .sth (.unpack w) := by
  simp only [decodeWord, h]
theorem decodeWord_1D {w : Word} (h : w.extractLsb' 26 6 = 0x1D#6) : decodeWord w = decodeMem .stw (.unpack w) := by
  simp only [decodeWord, h]
theorem decodeWord_1E {w : Word} (h : w.extractLsb' 26 6 = 0x1E#6) : decodeWord w = decodeMem .std (.unpack w) := by
  simp only [decodeWord, h]
theorem decodeWord_1F {w : Word} (h : w.extractLsb' 26 6 = 0x1F#6) : decodeWord w = decodeMemx (.unpack w) := by
  simp only [decodeWord, h]
theorem decodeWord_20 {w : Word} (h : w.extractLsb' 26 6 = 0x20#6) : decodeWord w = decodeFence (.unpack w) := by
  simp only [decodeWord, h]
theorem decodeWord_21 {w : Word} (h : w.extractLsb' 26 6 = 0x21#6) : decodeWord w = decodeAmo (.unpack w) := by
  simp only [decodeWord, h]
theorem decodeWord_22 {w : Word} (h : w.extractLsb' 26 6 = 0x22#6) : decodeWord w = decodeStrand (.unpack w) := by
  simp only [decodeWord, h]
theorem decodeWord_23 {w : Word} (h : w.extractLsb' 26 6 = 0x23#6) : decodeWord w = decodeMsg (.unpack w) := by
  simp only [decodeWord, h]
theorem decodeWord_24 {w : Word} (h : w.extractLsb' 26 6 = 0x24#6) : decodeWord w = decodeTask (.unpack w) := by
  simp only [decodeWord, h]
theorem decodeWord_25 {w : Word} (h : w.extractLsb' 26 6 = 0x25#6) : decodeWord w = decodeStream (.unpack w) := by
  simp only [decodeWord, h]
theorem decodeWord_26 {w : Word} (h : w.extractLsb' 26 6 = 0x26#6) : decodeWord w = decodeCast (.unpack w) := by
  simp only [decodeWord, h]
theorem decodeWord_27 {w : Word} (h : w.extractLsb' 26 6 = 0x27#6) : decodeWord w = decodeGram (.unpack w) := by
  simp only [decodeWord, h]
theorem decodeWord_28 {w : Word} (h : w.extractLsb' 26 6 = 0x28#6) : decodeWord w = decodeSys (.unpack w) := by
  simp only [decodeWord, h]
theorem decodeWord_29 {w : Word} (h : w.extractLsb' 26 6 = 0x29#6) : decodeWord w = decodeCsrfi (.unpack w) := by
  simp only [decodeWord, h]
theorem decodeWord_30 {w : Word} (h : w.extractLsb' 26 6 = 0x30#6) : decodeWord w = decodeValu (.unpack w) := by
  simp only [decodeWord, h]
theorem decodeWord_31 {w : Word} (h : w.extractLsb' 26 6 = 0x31#6) : decodeWord w = decodeVfp (.unpack w) := by
  simp only [decodeWord, h]
theorem decodeWord_32 {w : Word} (h : w.extractLsb' 26 6 = 0x32#6) : decodeWord w = decodeVmem (.unpack w) := by
  simp only [decodeWord, h]
theorem decodeWord_33 {w : Word} (h : w.extractLsb' 26 6 = 0x33#6) : decodeWord w = decodeVred (.unpack w) := by
  simp only [decodeWord, h]
theorem decodeWord_34 {w : Word} (h : w.extractLsb' 26 6 = 0x34#6) : decodeWord w = decodeVperm (.unpack w) := by
  simp only [decodeWord, h]
theorem decodeWord_35 {w : Word} (h : w.extractLsb' 26 6 = 0x35#6) : decodeWord w = decodeVmask (.unpack w) := by
  simp only [decodeWord, h]
theorem decodeWord_36 {w : Word} (h : w.extractLsb' 26 6 = 0x36#6) : decodeWord w = decodeVcvt (.unpack w) := by
  simp only [decodeWord, h]
theorem decodeWord_37 {w : Word} (h : w.extractLsb' 26 6 = 0x37#6) : decodeWord w = decodeVgen (.unpack w) := by
  simp only [decodeWord, h]

theorem roundTrip.add (d a b g) : roundTrip.Statement (.add d a b g) := by
  exact roundTrip.of_word _ _ rfl (fun _ => by rw [decodeWord_01 (FmtA.major_pack _), FmtA.unpack_pack]; rfl) (by rw [FmtA.major_pack]; rfl)
theorem roundTrip.sub (d a b g) : roundTrip.Statement (.sub d a b g) := by
  exact roundTrip.of_word _ _ rfl (fun _ => by rw [decodeWord_01 (FmtA.major_pack _), FmtA.unpack_pack]; rfl) (by rw [FmtA.major_pack]; rfl)
theorem roundTrip.and (d a b g) : roundTrip.Statement (.and d a b g) := by
  exact roundTrip.of_word _ _ rfl (fun _ => by rw [decodeWord_01 (FmtA.major_pack _), FmtA.unpack_pack]; rfl) (by rw [FmtA.major_pack]; rfl)
theorem roundTrip.or (d a b g) : roundTrip.Statement (.or d a b g) := by
  exact roundTrip.of_word _ _ rfl (fun _ => by rw [decodeWord_01 (FmtA.major_pack _), FmtA.unpack_pack]; rfl) (by rw [FmtA.major_pack]; rfl)
theorem roundTrip.xor (d a b g) : roundTrip.Statement (.xor d a b g) := by
  exact roundTrip.of_word _ _ rfl (fun _ => by rw [decodeWord_01 (FmtA.major_pack _), FmtA.unpack_pack]; rfl) (by rw [FmtA.major_pack]; rfl)
theorem roundTrip.shl (d a b g) : roundTrip.Statement (.shl d a b g) := by
  exact roundTrip.of_word _ _ rfl (fun _ => by rw [decodeWord_01 (FmtA.major_pack _), FmtA.unpack_pack]; rfl) (by rw [FmtA.major_pack]; rfl)
theorem roundTrip.shr (d a b g) : roundTrip.Statement (.shr d a b g) := by
  exact roundTrip.of_word _ _ rfl (fun _ => by rw [decodeWord_01 (FmtA.major_pack _), FmtA.unpack_pack]; rfl) (by rw [FmtA.major_pack]; rfl)
theorem roundTrip.sra (d a b g) : roundTrip.Statement (.sra d a b g) := by
  exact roundTrip.of_word _ _ rfl (fun _ => by rw [decodeWord_01 (FmtA.major_pack _), FmtA.unpack_pack]; rfl) (by rw [FmtA.major_pack]; rfl)
theorem roundTrip.min (d a b g) : roundTrip.Statement (.min d a b g) := by
  exact roundTrip.of_word _ _ rfl (fun _ => by rw [decodeWord_01 (FmtA.major_pack _), FmtA.unpack_pack]; rfl) (by rw [FmtA.major_pack]; rfl)
theorem roundTrip.max (d a b g) : roundTrip.Statement (.max d a b g) := by
  exact roundTrip.of_word _ _ rfl (fun _ => by rw [decodeWord_01 (FmtA.major_pack _), FmtA.unpack_pack]; rfl) (by rw [FmtA.major_pack]; rfl)
theorem roundTrip.minn (d a b g) : roundTrip.Statement (.minn d a b g) := by
  exact roundTrip.of_word _ _ rfl (fun _ => by rw [decodeWord_01 (FmtA.major_pack _), FmtA.unpack_pack]; rfl) (by rw [FmtA.major_pack]; rfl)
theorem roundTrip.maxn (d a b g) : roundTrip.Statement (.maxn d a b g) := by
  exact roundTrip.of_word _ _ rfl (fun _ => by rw [decodeWord_01 (FmtA.major_pack _), FmtA.unpack_pack]; rfl) (by rw [FmtA.major_pack]; rfl)
theorem roundTrip.clz (d a g) : roundTrip.Statement (.clz d a g) := by
  exact roundTrip.of_word _ _ rfl (fun _ => by rw [decodeWord_01 (FmtA.major_pack _), FmtA.unpack_pack]; rfl) (by rw [FmtA.major_pack]; rfl)
theorem roundTrip.ctz (d a g) : roundTrip.Statement (.ctz d a g) := by
  exact roundTrip.of_word _ _ rfl (fun _ => by rw [decodeWord_01 (FmtA.major_pack _), FmtA.unpack_pack]; rfl) (by rw [FmtA.major_pack]; rfl)
theorem roundTrip.popc (d a g) : roundTrip.Statement (.popc d a g) := by
  exact roundTrip.of_word _ _ rfl (fun _ => by rw [decodeWord_01 (FmtA.major_pack _), FmtA.unpack_pack]; rfl) (by rw [FmtA.major_pack]; rfl)
theorem roundTrip.brev (d a g) : roundTrip.Statement (.brev d a g) := by
  exact roundTrip.of_word _ _ rfl (fun _ => by rw [decodeWord_01 (FmtA.major_pack _), FmtA.unpack_pack]; rfl) (by rw [FmtA.major_pack]; rfl)
theorem roundTrip.exts (d a b g) : roundTrip.Statement (.exts d a b g) := by
  exact roundTrip.of_word _ _ rfl (fun _ => by rw [decodeWord_01 (FmtA.major_pack _), FmtA.unpack_pack]; rfl) (by rw [FmtA.major_pack]; rfl)
theorem roundTrip.extz (d a b g) : roundTrip.Statement (.extz d a b g) := by
  exact roundTrip.of_word _ _ rfl (fun _ => by rw [decodeWord_01 (FmtA.major_pack _), FmtA.unpack_pack]; rfl) (by rw [FmtA.major_pack]; rfl)
theorem roundTrip.insf (d a b g) : roundTrip.Statement (.insf d a b g) := by
  exact roundTrip.of_word _ _ rfl (fun _ => by rw [decodeWord_01 (FmtA.major_pack _), FmtA.unpack_pack]; rfl) (by rw [FmtA.major_pack]; rfl)
theorem roundTrip.addi (d a g i) : roundTrip.Statement (.addi d a g i) := by
  exact roundTrip.of_word _ _ rfl (fun _ => by rw [decodeWord_02 (FmtI.major_pack _), FmtI.unpack_pack]; rfl) (by rw [FmtI.major_pack]; rfl)
theorem roundTrip.andi (d a g i) : roundTrip.Statement (.andi d a g i) := by
  exact roundTrip.of_word _ _ rfl (fun _ => by rw [decodeWord_03 (FmtI.major_pack _), FmtI.unpack_pack]; rfl) (by rw [FmtI.major_pack]; rfl)
theorem roundTrip.ori (d a g i) : roundTrip.Statement (.ori d a g i) := by
  exact roundTrip.of_word _ _ rfl (fun _ => by rw [decodeWord_04 (FmtI.major_pack _), FmtI.unpack_pack]; rfl) (by rw [FmtI.major_pack]; rfl)
theorem roundTrip.xori (d a g i) : roundTrip.Statement (.xori d a g i) := by
  exact roundTrip.of_word _ _ rfl (fun _ => by rw [decodeWord_05 (FmtI.major_pack _), FmtI.unpack_pack]; rfl) (by rw [FmtI.major_pack]; rfl)
theorem roundTrip.shli (d a g c) : roundTrip.Statement (.shli d a g c) := by
  exact roundTrip.of_word _ _ rfl (fun h => by rw [decodeWord_06 (FmtI.major_pack _), FmtI.unpack_pack]; simp [decodeShiftImm, need, need2, (shiftF _).1, (shiftZ _).1, (shiftC _).1]) (by rw [FmtI.major_pack]; rfl)
theorem roundTrip.shri (d a g c) : roundTrip.Statement (.shri d a g c) := by
  exact roundTrip.of_word _ _ rfl (fun h => by rw [decodeWord_06 (FmtI.major_pack _), FmtI.unpack_pack]; simp [decodeShiftImm, need, need2, (shiftF _).2.1, (shiftZ _).2.1, (shiftC _).2.1]) (by rw [FmtI.major_pack]; rfl)
theorem roundTrip.srai (d a g c) : roundTrip.Statement (.srai d a g c) := by
  exact roundTrip.of_word _ _ rfl (fun h => by rw [decodeWord_06 (FmtI.major_pack _), FmtI.unpack_pack]; simp [decodeShiftImm, need, need2, (shiftF _).2.2, (shiftZ _).2.2, (shiftC _).2.2]) (by rw [FmtI.major_pack]; rfl)
theorem roundTrip.cmpi (p a g k i) : roundTrip.Statement (.cmpi p a g k i) := by
  rcases all3 k with rfl | rfl | rfl | rfl | rfl | rfl | rfl | rfl <;>
  exact roundTrip.of_word _ _ rfl (fun h => by rw [decodeWord_07 (FmtI.major_pack _), FmtI.unpack_pack]; simp_all [Instr.wf, Instr.illegal, illegalIf, decodeCmpi, need, cmpiK, cmpiI, hi3, lo3]) (by rw [FmtI.major_pack]; rfl)
theorem roundTrip.lih (d i) : roundTrip.Statement (.lih d i) := by
  exact roundTrip.of_word _ _ rfl (fun _ => by rw [decodeWord_08 (FmtU.major_pack _), FmtU.unpack_pack]; rfl) (by rw [FmtU.major_pack]; rfl)
theorem roundTrip.addpc (d i) : roundTrip.Statement (.addpc d i) := by
  exact roundTrip.of_word _ _ rfl (fun _ => by rw [decodeWord_09 (FmtU.major_pack _), FmtU.unpack_pack]; rfl) (by rw [FmtU.major_pack]; rfl)
theorem roundTrip.cmp (p a b g k) : roundTrip.Statement (.cmp p a b g k) := by
  rcases all3 k with rfl | rfl | rfl | rfl | rfl | rfl | rfl | rfl <;>
  exact roundTrip.of_word _ _ rfl (fun h => by rw [decodeWord_0A (FmtA.major_pack _), FmtA.unpack_pack]; simp_all [Instr.wf, Instr.illegal, illegalIf, decodeCmp, need, hi3, lo3]) (by rw [FmtA.major_pack]; rfl)
theorem roundTrip.pand (p q r g) : roundTrip.Statement (.pand p q r g) := by
  exact roundTrip.of_word _ _ rfl (fun h => by rw [decodeWord_0B (FmtA.major_pack _), FmtA.unpack_pack]; simp [decodePred, need, need2, hi3, lo3]) (by rw [FmtA.major_pack]; rfl)
theorem roundTrip.por (p q r g) : roundTrip.Statement (.por p q r g) := by
  exact roundTrip.of_word _ _ rfl (fun h => by rw [decodeWord_0B (FmtA.major_pack _), FmtA.unpack_pack]; simp [decodePred, need, need2, hi3, lo3]) (by rw [FmtA.major_pack]; rfl)
theorem roundTrip.pxor (p q r g) : roundTrip.Statement (.pxor p q r g) := by
  exact roundTrip.of_word _ _ rfl (fun h => by rw [decodeWord_0B (FmtA.major_pack _), FmtA.unpack_pack]; simp [decodePred, need, need2, hi3, lo3]) (by rw [FmtA.major_pack]; rfl)
theorem roundTrip.pnot (p q g) : roundTrip.Statement (.pnot p q g) := by
  exact roundTrip.of_word _ _ rfl (fun h => by rw [decodeWord_0B (FmtA.major_pack _), FmtA.unpack_pack]; simp [decodePred, need, need2, hi3, lo3]) (by rw [FmtA.major_pack]; rfl)
theorem roundTrip.sel (d a b g n) : roundTrip.Statement (.sel d a b g n) := by
  rcases all3 n with rfl | rfl | rfl | rfl | rfl | rfl | rfl | rfl <;>
  exact roundTrip.of_word _ _ rfl (fun h => by rw [decodeWord_0B (FmtA.major_pack _), FmtA.unpack_pack]; simp [decodePred, need, need2]) (by rw [FmtA.major_pack]; rfl)
theorem roundTrip.fadd (d a b g s) : roundTrip.Statement (.fadd d a b g s) := by
  rcases all1 s with rfl | rfl <;>
  exact roundTrip.of_word _ _ rfl (fun h => by rw [decodeWord_0C (FmtA.major_pack _), FmtA.unpack_pack]; simp [decodeFp, need, need2]) (by rw [FmtA.major_pack]; rfl)
theorem roundTrip.fsub (d a b g s) : roundTrip.Statement (.fsub d a b g s) := by
  rcases all1 s with rfl | rfl <;>
  exact roundTrip.of_word _ _ rfl (fun h => by rw [decodeWord_0C (FmtA.major_pack _), FmtA.unpack_pack]; simp [decodeFp, need, need2]) (by rw [FmtA.major_pack]; rfl)
theorem roundTrip.fmul (d a b g s) : roundTrip.Statement (.fmul d a b g s) := by
  rcases all1 s with rfl | rfl <;>
  exact roundTrip.of_word _ _ rfl (fun h => by rw [decodeWord_0C (FmtA.major_pack _), FmtA.unpack_pack]; simp [decodeFp, need, need2]) (by rw [FmtA.major_pack]; rfl)
theorem roundTrip.fma (d a b g s) : roundTrip.Statement (.fma d a b g s) := by
  rcases all1 s with rfl | rfl <;>
  exact roundTrip.of_word _ _ rfl (fun h => by rw [decodeWord_0C (FmtA.major_pack _), FmtA.unpack_pack]; simp [decodeFp, need, need2]) (by rw [FmtA.major_pack]; rfl)
theorem roundTrip.fdiv (d a b g s) : roundTrip.Statement (.fdiv d a b g s) := by
  rcases all1 s with rfl | rfl <;>
  exact roundTrip.of_word _ _ rfl (fun h => by rw [decodeWord_0C (FmtA.major_pack _), FmtA.unpack_pack]; simp [decodeFp, need, need2]) (by rw [FmtA.major_pack]; rfl)
theorem roundTrip.fsqrt (d a g s) : roundTrip.Statement (.fsqrt d a g s) := by
  rcases all1 s with rfl | rfl <;>
  exact roundTrip.of_word _ _ rfl (fun h => by rw [decodeWord_0C (FmtA.major_pack _), FmtA.unpack_pack]; simp [decodeFp, need, need2]) (by rw [FmtA.major_pack]; rfl)
theorem roundTrip.fmin (d a b g s) : roundTrip.Statement (.fmin d a b g s) := by
  rcases all1 s with rfl | rfl <;>
  exact roundTrip.of_word _ _ rfl (fun h => by rw [decodeWord_0C (FmtA.major_pack _), FmtA.unpack_pack]; simp [decodeFp, need, need2]) (by rw [FmtA.major_pack]; rfl)
theorem roundTrip.fmax (d a b g s) : roundTrip.Statement (.fmax d a b g s) := by
  rcases all1 s with rfl | rfl <;>
  exact roundTrip.of_word _ _ rfl (fun h => by rw [decodeWord_0C (FmtA.major_pack _), FmtA.unpack_pack]; simp [decodeFp, need, need2]) (by rw [FmtA.major_pack]; rfl)
theorem roundTrip.fsgn (d a b g s) : roundTrip.Statement (.fsgn d a b g s) := by
  rcases all1 s with rfl | rfl <;>
  exact roundTrip.of_word _ _ rfl (fun h => by rw [decodeWord_0C (FmtA.major_pack _), FmtA.unpack_pack]; simp [decodeFp, need, need2]) (by rw [FmtA.major_pack]; rfl)
theorem roundTrip.fneg (d a g s) : roundTrip.Statement (.fneg d a g s) := by
  rcases all1 s with rfl | rfl <;>
  exact roundTrip.of_word _ _ rfl (fun h => by rw [decodeWord_0C (FmtA.major_pack _), FmtA.unpack_pack]; simp [decodeFp, need, need2]) (by rw [FmtA.major_pack]; rfl)
theorem roundTrip.fabs (d a g s) : roundTrip.Statement (.fabs d a g s) := by
  rcases all1 s with rfl | rfl <;>
  exact roundTrip.of_word _ _ rfl (fun h => by rw [decodeWord_0C (FmtA.major_pack _), FmtA.unpack_pack]; simp [decodeFp, need, need2]) (by rw [FmtA.major_pack]; rfl)
theorem roundTrip.fclass (d a g s) : roundTrip.Statement (.fclass d a g s) := by
  rcases all1 s with rfl | rfl <;>
  exact roundTrip.of_word _ _ rfl (fun h => by rw [decodeWord_0C (FmtA.major_pack _), FmtA.unpack_pack]; simp [decodeFp, need, need2]) (by rw [FmtA.major_pack]; rfl)
theorem roundTrip.fcmp (p a b g s k) : roundTrip.Statement (.fcmp p a b g s k) := by
  rcases all3 k with rfl | rfl | rfl | rfl | rfl | rfl | rfl | rfl <;>
  rcases all1 s with rfl | rfl <;>
  exact roundTrip.of_word _ _ rfl (fun h => by rw [decodeWord_0C (FmtA.major_pack _), FmtA.unpack_pack]; simp_all [Instr.wf, Instr.illegal, illegalIf, decodeFp, need, hi3, lo3]) (by rw [FmtA.major_pack]; rfl)
theorem roundTrip.fcvt (d a m t g u c) : roundTrip.Statement (.fcvt d a m t g u c) := by
  rcases all3 u with rfl | rfl | rfl | rfl | rfl | rfl | rfl | rfl <;>
  rcases all3 c with rfl | rfl | rfl | rfl | rfl | rfl | rfl | rfl <;>
  exact roundTrip.of_word _ _ rfl (fun h => by rw [decodeWord_0C (FmtA.major_pack _), FmtA.unpack_pack]; simp_all [Instr.wf, Instr.illegal, illegalIf, decodeFp, need, (fcvtB _ _).1, (fcvtB _ _).2.1, (fcvtB _ _).2.2, fcvtFuncBad]) (by rw [FmtA.major_pack]; rfl)
theorem roundTrip.mul (d a b g l) : roundTrip.Statement (.mul d a b g l) := by
  exact roundTrip.of_word _ _ rfl (fun _ => by rw [decodeWord_0D (FmtX.major_pack _), FmtX.unpack_pack]; rfl) (by rw [FmtX.major_pack]; rfl)
theorem roundTrip.mulh (d a b g l) : roundTrip.Statement (.mulh d a b g l) := by
  exact roundTrip.of_word _ _ rfl (fun _ => by rw [decodeWord_0D (FmtX.major_pack _), FmtX.unpack_pack]; rfl) (by rw [FmtX.major_pack]; rfl)
theorem roundTrip.mulhn (d a b g l) : roundTrip.Statement (.mulhn d a b g l) := by
  exact roundTrip.of_word _ _ rfl (fun _ => by rw [decodeWord_0D (FmtX.major_pack _), FmtX.unpack_pack]; rfl) (by rw [FmtX.major_pack]; rfl)
theorem roundTrip.div (d a b g l) : roundTrip.Statement (.div d a b g l) := by
  exact roundTrip.of_word _ _ rfl (fun _ => by rw [decodeWord_0D (FmtX.major_pack _), FmtX.unpack_pack]; rfl) (by rw [FmtX.major_pack]; rfl)
theorem roundTrip.divn (d a b g l) : roundTrip.Statement (.divn d a b g l) := by
  exact roundTrip.of_word _ _ rfl (fun _ => by rw [decodeWord_0D (FmtX.major_pack _), FmtX.unpack_pack]; rfl) (by rw [FmtX.major_pack]; rfl)
theorem roundTrip.rem (d a b g l) : roundTrip.Statement (.rem d a b g l) := by
  exact roundTrip.of_word _ _ rfl (fun _ => by rw [decodeWord_0D (FmtX.major_pack _), FmtX.unpack_pack]; rfl) (by rw [FmtX.major_pack]; rfl)
theorem roundTrip.remn (d a b g l) : roundTrip.Statement (.remn d a b g l) := by
  exact roundTrip.of_word _ _ rfl (fun _ => by rw [decodeWord_0D (FmtX.major_pack _), FmtX.unpack_pack]; rfl) (by rw [FmtX.major_pack]; rfl)
theorem roundTrip.br (p i) : roundTrip.Statement (.br p i) := by
  exact roundTrip.of_word _ _ rfl (fun _ => by rw [decodeWord_10 (FmtB.major_pack _), FmtB.unpack_pack]; rfl) (by rw [FmtB.major_pack]; rfl)
theorem roundTrip.brn (p i) : roundTrip.Statement (.brn p i) := by
  exact roundTrip.of_word _ _ rfl (fun _ => by rw [decodeWord_11 (FmtB.major_pack _), FmtB.unpack_pack]; rfl) (by rw [FmtB.major_pack]; rfl)
theorem roundTrip.jal (d i) : roundTrip.Statement (.jal d i) := by
  exact roundTrip.of_word _ _ rfl (fun _ => by rw [decodeWord_12 (FmtU.major_pack _), FmtU.unpack_pack]; rfl) (by rw [FmtU.major_pack]; rfl)
theorem roundTrip.jalr (d a g i) : roundTrip.Statement (.jalr d a g i) := by
  exact roundTrip.of_word _ _ rfl (fun _ => by rw [decodeWord_13 (FmtI.major_pack _), FmtI.unpack_pack]; rfl) (by rw [FmtI.major_pack]; rfl)
theorem roundTrip.ldb (d b g l o) : roundTrip.Statement (.ldb d b g l o) := by
  exact roundTrip.of_word _ _ rfl (fun _ => by rw [decodeWord_14 (FmtM.major_pack _), FmtM.unpack_pack]; rfl) (by rw [FmtM.major_pack]; rfl)
theorem roundTrip.ldh (d b g l o) : roundTrip.Statement (.ldh d b g l o) := by
  exact roundTrip.of_word _ _ rfl (fun _ => by rw [decodeWord_15 (FmtM.major_pack _), FmtM.unpack_pack]; rfl) (by rw [FmtM.major_pack]; rfl)
theorem roundTrip.ldw (d b g l o) : roundTrip.Statement (.ldw d b g l o) := by
  exact roundTrip.of_word _ _ rfl (fun _ => by rw [decodeWord_16 (FmtM.major_pack _), FmtM.unpack_pack]; rfl) (by rw [FmtM.major_pack]; rfl)
theorem roundTrip.ldd (d b g l o) : roundTrip.Statement (.ldd d b g l o) := by
  exact roundTrip.of_word _ _ rfl (fun _ => by rw [decodeWord_17 (FmtM.major_pack _), FmtM.unpack_pack]; rfl) (by rw [FmtM.major_pack]; rfl)
theorem roundTrip.ldbn (d b g l o) : roundTrip.Statement (.ldbn d b g l o) := by
  exact roundTrip.of_word _ _ rfl (fun _ => by rw [decodeWord_18 (FmtM.major_pack _), FmtM.unpack_pack]; rfl) (by rw [FmtM.major_pack]; rfl)
theorem roundTrip.ldhn (d b g l o) : roundTrip.Statement (.ldhn d b g l o) := by
  exact roundTrip.of_word _ _ rfl (fun _ => by rw [decodeWord_19 (FmtM.major_pack _), FmtM.unpack_pack]; rfl) (by rw [FmtM.major_pack]; rfl)
theorem roundTrip.ldwn (d b g l o) : roundTrip.Statement (.ldwn d b g l o) := by
  exact roundTrip.of_word _ _ rfl (fun _ => by rw [decodeWord_1A (FmtM.major_pack _), FmtM.unpack_pack]; rfl) (by rw [FmtM.major_pack]; rfl)
theorem roundTrip.stb (s b g l o) : roundTrip.Statement (.stb s b g l o) := by
  exact roundTrip.of_word _ _ rfl (fun _ => by rw [decodeWord_1B (FmtM.major_pack _), FmtM.unpack_pack]; rfl) (by rw [FmtM.major_pack]; rfl)
theorem roundTrip.sth (s b g l o) : roundTrip.Statement (.sth s b g l o) := by
  exact roundTrip.of_word _ _ rfl (fun _ => by rw [decodeWord_1C (FmtM.major_pack _), FmtM.unpack_pack]; rfl) (by rw [FmtM.major_pack]; rfl)
theorem roundTrip.stw (s b g l o) : roundTrip.Statement (.stw s b g l o) := by
  exact roundTrip.of_word _ _ rfl (fun _ => by rw [decodeWord_1D (FmtM.major_pack _), FmtM.unpack_pack]; rfl) (by rw [FmtM.major_pack]; rfl)
theorem roundTrip.std (s b g l o) : roundTrip.Statement (.std s b g l o) := by
  exact roundTrip.of_word _ _ rfl (fun _ => by rw [decodeWord_1E (FmtM.major_pack _), FmtM.unpack_pack]; rfl) (by rw [FmtM.major_pack]; rfl)
theorem roundTrip.ldf (d a b g l) : roundTrip.Statement (.ldf d a b g l) := by
  exact roundTrip.of_word _ _ rfl (fun _ => by rw [decodeWord_1F (FmtX.major_pack _), FmtX.unpack_pack]; rfl) (by rw [FmtX.major_pack]; rfl)
theorem roundTrip.stf (s a b g l) : roundTrip.Statement (.stf s a b g l) := by
  exact roundTrip.of_word _ _ rfl (fun _ => by rw [decodeWord_1F (FmtX.major_pack _), FmtX.unpack_pack]; rfl) (by rw [FmtX.major_pack]; rfl)
theorem roundTrip.ldfp (d a b g l) : roundTrip.Statement (.ldfp d a b g l) := by
  exact roundTrip.of_word _ _ rfl (fun _ => by rw [decodeWord_1F (FmtX.major_pack _), FmtX.unpack_pack]; rfl) (by rw [FmtX.major_pack]; rfl)
theorem roundTrip.feget (d a b g l) : roundTrip.Statement (.feget d a b g l) := by
  exact roundTrip.of_word _ _ rfl (fun _ => by rw [decodeWord_1F (FmtX.major_pack _), FmtX.unpack_pack]; rfl) (by rw [FmtX.major_pack]; rfl)
theorem roundTrip.feset (s a b g l) : roundTrip.Statement (.feset s a b g l) := by
  exact roundTrip.of_word _ _ rfl (fun _ => by rw [decodeWord_1F (FmtX.major_pack _), FmtX.unpack_pack]; rfl) (by rw [FmtX.major_pack]; rfl)
theorem roundTrip.pref (v a b g l) : roundTrip.Statement (.pref v a b g l) := by
  exact roundTrip.of_word _ _ rfl (fun _ => by rw [decodeWord_1F (FmtX.major_pack _), FmtX.unpack_pack]; rfl) (by rw [FmtX.major_pack]; rfl)
theorem roundTrip.cflush (a b g l) : roundTrip.Statement (.cflush a b g l) := by
  exact roundTrip.of_word _ _ rfl (fun _ => by rw [decodeWord_1F (FmtX.major_pack _), FmtX.unpack_pack]; rfl) (by rw [FmtX.major_pack]; rfl)
theorem roundTrip.cinv (g l) : roundTrip.Statement (.cinv g l) := by
  exact roundTrip.of_word _ _ rfl (fun _ => by rw [decodeWord_1F (FmtX.major_pack _), FmtX.unpack_pack]; rfl) (by rw [FmtX.major_pack]; rfl)
theorem roundTrip.fenceRel (g c) : roundTrip.Statement (.fenceRel g c) := by
  rcases all3 c with rfl | rfl | rfl | rfl | rfl | rfl | rfl | rfl <;>
  exact roundTrip.of_word _ _ rfl (fun h => by rw [decodeWord_20 (FmtA.major_pack _), FmtA.unpack_pack]; simp [decodeFence, need, need2]) (by rw [FmtA.major_pack]; rfl)
theorem roundTrip.fenceAcq (g c) : roundTrip.Statement (.fenceAcq g c) := by
  rcases all3 c with rfl | rfl | rfl | rfl | rfl | rfl | rfl | rfl <;>
  exact roundTrip.of_word _ _ rfl (fun h => by rw [decodeWord_20 (FmtA.major_pack _), FmtA.unpack_pack]; simp [decodeFence, need, need2]) (by rw [FmtA.major_pack]; rfl)
theorem roundTrip.fenceFull (g c) : roundTrip.Statement (.fenceFull g c) := by
  rcases all3 c with rfl | rfl | rfl | rfl | rfl | rfl | rfl | rfl <;>
  exact roundTrip.of_word _ _ rfl (fun h => by rw [decodeWord_20 (FmtA.major_pack _), FmtA.unpack_pack]; simp [decodeFence, need, need2]) (by rw [FmtA.major_pack]; rfl)
theorem roundTrip.amoAdd (d a b z c l) : roundTrip.Statement (.amoAdd d a b z c l) := by
  exact roundTrip.of_word _ _ rfl (fun _ => by rw [decodeWord_21 (FmtO.major_pack _), FmtO.unpack_pack]; rfl) (by rw [FmtO.major_pack]; rfl)
theorem roundTrip.amoAnd (d a b z c l) : roundTrip.Statement (.amoAnd d a b z c l) := by
  exact roundTrip.of_word _ _ rfl (fun _ => by rw [decodeWord_21 (FmtO.major_pack _), FmtO.unpack_pack]; rfl) (by rw [FmtO.major_pack]; rfl)
theorem roundTrip.amoOr (d a b z c l) : roundTrip.Statement (.amoOr d a b z c l) := by
  exact roundTrip.of_word _ _ rfl (fun _ => by rw [decodeWord_21 (FmtO.major_pack _), FmtO.unpack_pack]; rfl) (by rw [FmtO.major_pack]; rfl)
theorem roundTrip.amoXor (d a b z c l) : roundTrip.Statement (.amoXor d a b z c l) := by
  exact roundTrip.of_word _ _ rfl (fun _ => by rw [decodeWord_21 (FmtO.major_pack _), FmtO.unpack_pack]; rfl) (by rw [FmtO.major_pack]; rfl)
theorem roundTrip.amoMin (d a b z c l) : roundTrip.Statement (.amoMin d a b z c l) := by
  exact roundTrip.of_word _ _ rfl (fun _ => by rw [decodeWord_21 (FmtO.major_pack _), FmtO.unpack_pack]; rfl) (by rw [FmtO.major_pack]; rfl)
theorem roundTrip.amoMax (d a b z c l) : roundTrip.Statement (.amoMax d a b z c l) := by
  exact roundTrip.of_word _ _ rfl (fun _ => by rw [decodeWord_21 (FmtO.major_pack _), FmtO.unpack_pack]; rfl) (by rw [FmtO.major_pack]; rfl)
theorem roundTrip.amoMinn (d a b z c l) : roundTrip.Statement (.amoMinn d a b z c l) := by
  exact roundTrip.of_word _ _ rfl (fun _ => by rw [decodeWord_21 (FmtO.major_pack _), FmtO.unpack_pack]; rfl) (by rw [FmtO.major_pack]; rfl)
theorem roundTrip.amoMaxn (d a b z c l) : roundTrip.Statement (.amoMaxn d a b z c l) := by
  exact roundTrip.of_word _ _ rfl (fun _ => by rw [decodeWord_21 (FmtO.major_pack _), FmtO.unpack_pack]; rfl) (by rw [FmtO.major_pack]; rfl)
theorem roundTrip.amoSwp (d a b z c l) : roundTrip.Statement (.amoSwp d a b z c l) := by
  exact roundTrip.of_word _ _ rfl (fun _ => by rw [decodeWord_21 (FmtO.major_pack _), FmtO.unpack_pack]; rfl) (by rw [FmtO.major_pack]; rfl)
theorem roundTrip.amoCas (d a b z c l) : roundTrip.Statement (.amoCas d a b z c l) := by
  exact roundTrip.of_word _ _ rfl (fun _ => by rw [decodeWord_21 (FmtO.major_pack _), FmtO.unpack_pack]; rfl) (by rw [FmtO.major_pack]; rfl)
theorem roundTrip.amoFadd (d a b z c l) : roundTrip.Statement (.amoFadd d a b z c l) := by
  exact roundTrip.of_word _ _ rfl (fun _ => by rw [decodeWord_21 (FmtO.major_pack _), FmtO.unpack_pack]; rfl) (by rw [FmtO.major_pack]; rfl)
theorem roundTrip.amoRedOrd (d a b z c l) : roundTrip.Statement (.amoRedOrd d a b z c l) := by
  exact roundTrip.of_word _ _ rfl (fun _ => by rw [decodeWord_21 (FmtO.major_pack _), FmtO.unpack_pack]; rfl) (by rw [FmtO.major_pack]; rfl)
theorem roundTrip.spawn (a b g) : roundTrip.Statement (.spawn a b g) := by
  exact roundTrip.of_word _ _ rfl (fun _ => by rw [decodeWord_22 (FmtX.major_pack _), FmtX.unpack_pack]; rfl) (by rw [FmtX.major_pack]; rfl)
theorem roundTrip.join (a g) : roundTrip.Statement (.join a g) := by
  exact roundTrip.of_word _ _ rfl (fun _ => by rw [decodeWord_22 (FmtX.major_pack _), FmtX.unpack_pack]; rfl) (by rw [FmtX.major_pack]; rfl)
theorem roundTrip.migr (d a g) : roundTrip.Statement (.migr d a g) := by
  exact roundTrip.of_word _ _ rfl (fun _ => by rw [decodeWord_22 (FmtX.major_pack _), FmtX.unpack_pack]; rfl) (by rw [FmtX.major_pack]; rfl)
theorem roundTrip.migv (d a v g) : roundTrip.Statement (.migv d a v g) := by
  exact roundTrip.of_word _ _ rfl (fun h => by rw [decodeWord_22 (FmtX.major_pack _), FmtX.unpack_pack]; simp [decodeStrand, need, need2, low3, high3]) (by rw [FmtX.major_pack]; rfl)
theorem roundTrip.yield (g) : roundTrip.Statement (.yield g) := by
  exact roundTrip.of_word _ _ rfl (fun _ => by rw [decodeWord_22 (FmtX.major_pack _), FmtX.unpack_pack]; rfl) (by rw [FmtX.major_pack]; rfl)
theorem roundTrip.park (d g) : roundTrip.Statement (.park d g) := by
  exact roundTrip.of_word _ _ rfl (fun _ => by rw [decodeWord_22 (FmtX.major_pack _), FmtX.unpack_pack]; rfl) (by rw [FmtX.major_pack]; rfl)
theorem roundTrip.parkE (d g) : roundTrip.Statement (.parkE d g) := by
  exact roundTrip.of_word _ _ rfl (fun _ => by rw [decodeWord_22 (FmtX.major_pack _), FmtX.unpack_pack]; rfl) (by rw [FmtX.major_pack]; rfl)
theorem roundTrip.rfill (d a b g l) : roundTrip.Statement (.rfill d a b g l) := by
  exact roundTrip.of_word _ _ rfl (fun _ => by rw [decodeWord_22 (FmtX.major_pack _), FmtX.unpack_pack]; rfl) (by rw [FmtX.major_pack]; rfl)
theorem roundTrip.self (d g l) : roundTrip.Statement (.self d g l) := by
  exact roundTrip.of_word _ _ rfl (fun _ => by rw [decodeWord_22 (FmtX.major_pack _), FmtX.unpack_pack]; rfl) (by rw [FmtX.major_pack]; rfl)
theorem roundTrip.msend (d a b g l) : roundTrip.Statement (.msend d a b g l) := by
  exact roundTrip.of_word _ _ rfl (fun _ => by rw [decodeWord_23 (FmtX.major_pack _), FmtX.unpack_pack]; rfl) (by rw [FmtX.major_pack]; rfl)
theorem roundTrip.mrecv (d a b g l) : roundTrip.Statement (.mrecv d a b g l) := by
  exact roundTrip.of_word _ _ rfl (fun _ => by rw [decodeWord_23 (FmtX.major_pack _), FmtX.unpack_pack]; rfl) (by rw [FmtX.major_pack]; rfl)
theorem roundTrip.mpeek (d a g l) : roundTrip.Statement (.mpeek d a g l) := by
  exact roundTrip.of_word _ _ rfl (fun _ => by rw [decodeWord_23 (FmtX.major_pack _), FmtX.unpack_pack]; rfl) (by rw [FmtX.major_pack]; rfl)
theorem roundTrip.tpost (d a g l) : roundTrip.Statement (.tpost d a g l) := by
  exact roundTrip.of_word _ _ rfl (fun _ => by rw [decodeWord_24 (FmtX.major_pack _), FmtX.unpack_pack]; rfl) (by rw [FmtX.major_pack]; rfl)
theorem roundTrip.tdone (g) : roundTrip.Statement (.tdone g) := by
  exact roundTrip.of_word _ _ rfl (fun _ => by rw [decodeWord_24 (FmtX.major_pack _), FmtX.unpack_pack]; rfl) (by rw [FmtX.major_pack]; rfl)
theorem roundTrip.qpush (d a b g l) : roundTrip.Statement (.qpush d a b g l) := by
  exact roundTrip.of_word _ _ rfl (fun _ => by rw [decodeWord_24 (FmtX.major_pack _), FmtX.unpack_pack]; rfl) (by rw [FmtX.major_pack]; rfl)
theorem roundTrip.qpop (d a b g l) : roundTrip.Statement (.qpop d a b g l) := by
  exact roundTrip.of_word _ _ rfl (fun _ => by rw [decodeWord_24 (FmtX.major_pack _), FmtX.unpack_pack]; rfl) (by rw [FmtX.major_pack]; rfl)
theorem roundTrip.tcard (d g l) : roundTrip.Statement (.tcard d g l) := by
  exact roundTrip.of_word _ _ rfl (fun _ => by rw [decodeWord_24 (FmtX.major_pack _), FmtX.unpack_pack]; rfl) (by rw [FmtX.major_pack]; rfl)
theorem roundTrip.qpopW (d a g l) : roundTrip.Statement (.qpopW d a g l) := by
  exact roundTrip.of_word _ _ rfl (fun _ => by rw [decodeWord_24 (FmtX.major_pack _), FmtX.unpack_pack]; rfl) (by rw [FmtX.major_pack]; rfl)
theorem roundTrip.sfork (d a b g l) : roundTrip.Statement (.sfork d a b g l) := by
  exact roundTrip.of_word _ _ rfl (fun _ => by rw [decodeWord_25 (FmtX.major_pack _), FmtX.unpack_pack]; rfl) (by rw [FmtX.major_pack]; rfl)
theorem roundTrip.sstep (d a g l) : roundTrip.Statement (.sstep d a g l) := by
  exact roundTrip.of_word _ _ rfl (fun _ => by rw [decodeWord_25 (FmtX.major_pack _), FmtX.unpack_pack]; rfl) (by rw [FmtX.major_pack]; rfl)
theorem roundTrip.sact (d a b g l) : roundTrip.Statement (.sact d a b g l) := by
  exact roundTrip.of_word _ _ rfl (fun _ => by rw [decodeWord_25 (FmtX.major_pack _), FmtX.unpack_pack]; rfl) (by rw [FmtX.major_pack]; rfl)
theorem roundTrip.sret (d a b g l) : roundTrip.Statement (.sret d a b g l) := by
  exact roundTrip.of_word _ _ rfl (fun _ => by rw [decodeWord_25 (FmtX.major_pack _), FmtX.unpack_pack]; rfl) (by rw [FmtX.major_pack]; rfl)
theorem roundTrip.sjoin (d a b g l) : roundTrip.Statement (.sjoin d a b g l) := by
  exact roundTrip.of_word _ _ rfl (fun _ => by rw [decodeWord_25 (FmtX.major_pack _), FmtX.unpack_pack]; rfl) (by rw [FmtX.major_pack]; rfl)
theorem roundTrip.sretire (a g l) : roundTrip.Statement (.sretire a g l) := by
  exact roundTrip.of_word _ _ rfl (fun _ => by rw [decodeWord_25 (FmtX.major_pack _), FmtX.unpack_pack]; rfl) (by rw [FmtX.major_pack]; rfl)
theorem roundTrip.sevict (d a b g l) : roundTrip.Statement (.sevict d a b g l) := by
  exact roundTrip.of_word _ _ rfl (fun _ => by rw [decodeWord_25 (FmtX.major_pack _), FmtX.unpack_pack]; rfl) (by rw [FmtX.major_pack]; rfl)
theorem roundTrip.smig (d a b g l) : roundTrip.Statement (.smig d a b g l) := by
  exact roundTrip.of_word _ _ rfl (fun _ => by rw [decodeWord_25 (FmtX.major_pack _), FmtX.unpack_pack]; rfl) (by rw [FmtX.major_pack]; rfl)
theorem roundTrip.sstat (d a b g l) : roundTrip.Statement (.sstat d a b g l) := by
  exact roundTrip.of_word _ _ rfl (fun _ => by rw [decodeWord_25 (FmtX.major_pack _), FmtX.unpack_pack]; rfl) (by rw [FmtX.major_pack]; rfl)
theorem roundTrip.sjoinOpen (d a g l) : roundTrip.Statement (.sjoinOpen d a g l) := by
  exact roundTrip.of_word _ _ rfl (fun _ => by rw [decodeWord_25 (FmtX.major_pack _), FmtX.unpack_pack]; rfl) (by rw [FmtX.major_pack]; rfl)
theorem roundTrip.sstop (d a b g l) : roundTrip.Statement (.sstop d a b g l) := by
  exact roundTrip.of_word _ _ rfl (fun _ => by rw [decodeWord_25 (FmtX.major_pack _), FmtX.unpack_pack]; rfl) (by rw [FmtX.major_pack]; rfl)
theorem roundTrip.clook (d a b g l) : roundTrip.Statement (.clook d a b g l) := by
  exact roundTrip.of_word _ _ rfl (fun _ => by rw [decodeWord_26 (FmtX.major_pack _), FmtX.unpack_pack]; rfl) (by rw [FmtX.major_pack]; rfl)
theorem roundTrip.cput (d a g l) : roundTrip.Statement (.cput d a g l) := by
  exact roundTrip.of_word _ _ rfl (fun _ => by rw [decodeWord_26 (FmtX.major_pack _), FmtX.unpack_pack]; rfl) (by rw [FmtX.major_pack]; rfl)
theorem roundTrip.cinvk (d a g l) : roundTrip.Statement (.cinvk d a g l) := by
  exact roundTrip.of_word _ _ rfl (fun _ => by rw [decodeWord_26 (FmtX.major_pack _), FmtX.unpack_pack]; rfl) (by rw [FmtX.major_pack]; rfl)
theorem roundTrip.cflusht (d a g l) : roundTrip.Statement (.cflusht d a g l) := by
  exact roundTrip.of_word _ _ rfl (fun _ => by rw [decodeWord_26 (FmtX.major_pack _), FmtX.unpack_pack]; rfl) (by rw [FmtX.major_pack]; rfl)
theorem roundTrip.gset (d a b g l) : roundTrip.Statement (.gset d a b g l) := by
  exact roundTrip.of_word _ _ rfl (fun _ => by rw [decodeWord_27 (FmtX.major_pack _), FmtX.unpack_pack]; rfl) (by rw [FmtX.major_pack]; rfl)
theorem roundTrip.gmask (p a b g l) : roundTrip.Statement (.gmask p a b g l) := by
  exact roundTrip.of_word _ _ rfl (fun h => by rw [decodeWord_27 (FmtX.major_pack _), FmtX.unpack_pack]; simp [decodeGram, need, need2, hi3, lo3]) (by rw [FmtX.major_pack]; rfl)
theorem roundTrip.gmaskS (p a b g l) : roundTrip.Statement (.gmaskS p a b g l) := by
  exact roundTrip.of_word _ _ rfl (fun h => by rw [decodeWord_27 (FmtX.major_pack _), FmtX.unpack_pack]; simp [decodeGram, need, need2, hi3, lo3]) (by rw [FmtX.major_pack]; rfl)
theorem roundTrip.gadv (d a b g l) : roundTrip.Statement (.gadv d a b g l) := by
  exact roundTrip.of_word _ _ rfl (fun _ => by rw [decodeWord_27 (FmtX.major_pack _), FmtX.unpack_pack]; rfl) (by rw [FmtX.major_pack]; rfl)
theorem roundTrip.gadvS (d a b g l) : roundTrip.Statement (.gadvS d a b g l) := by
  exact roundTrip.of_word _ _ rfl (fun _ => by rw [decodeWord_27 (FmtX.major_pack _), FmtX.unpack_pack]; rfl) (by rw [FmtX.major_pack]; rfl)
theorem roundTrip.gchk (p a b g l) : roundTrip.Statement (.gchk p a b g l) := by
  exact roundTrip.of_word _ _ rfl (fun h => by rw [decodeWord_27 (FmtX.major_pack _), FmtX.unpack_pack]; simp [decodeGram, need, need2, hi3, lo3]) (by rw [FmtX.major_pack]; rfl)
theorem roundTrip.gsave (d a g l) : roundTrip.Statement (.gsave d a g l) := by
  exact roundTrip.of_word _ _ rfl (fun _ => by rw [decodeWord_27 (FmtX.major_pack _), FmtX.unpack_pack]; rfl) (by rw [FmtX.major_pack]; rfl)
theorem roundTrip.gload (a b g l) : roundTrip.Statement (.gload a b g l) := by
  exact roundTrip.of_word _ _ rfl (fun _ => by rw [decodeWord_27 (FmtX.major_pack _), FmtX.unpack_pack]; rfl) (by rw [FmtX.major_pack]; rfl)
theorem roundTrip.trap (c g) : roundTrip.Statement (.trap c g) := by
  exact roundTrip.of_word _ _ rfl (fun h => by rw [decodeWord_28 (FmtA.major_pack _), FmtA.unpack_pack]; simp [decodeSys, need, need2, (trapD _).1, (trapD _).2]) (by rw [FmtA.major_pack]; rfl)
theorem roundTrip.trapack (g) : roundTrip.Statement (.trapack g) := by
  exact roundTrip.of_word _ _ rfl (fun _ => by rw [decodeWord_28 (FmtA.major_pack _), FmtA.unpack_pack]; rfl) (by rw [FmtA.major_pack]; rfl)
theorem roundTrip.rett (g) : roundTrip.Statement (.rett g) := by
  exact roundTrip.of_word _ _ rfl (fun _ => by rw [decodeWord_28 (FmtA.major_pack _), FmtA.unpack_pack]; rfl) (by rw [FmtA.major_pack]; rfl)
theorem roundTrip.sysc (d a g) : roundTrip.Statement (.sysc d a g) := by
  exact roundTrip.of_word _ _ rfl (fun _ => by rw [decodeWord_28 (FmtA.major_pack _), FmtA.unpack_pack]; rfl) (by rw [FmtA.major_pack]; rfl)
theorem roundTrip.sleep (a g) : roundTrip.Statement (.sleep a g) := by
  exact roundTrip.of_word _ _ rfl (fun _ => by rw [decodeWord_28 (FmtA.major_pack _), FmtA.unpack_pack]; rfl) (by rw [FmtA.major_pack]; rfl)
theorem roundTrip.csrr (d n m g k) : roundTrip.Statement (.csrr d n m g k) := by
  rcases all2 k with rfl | rfl | rfl | rfl <;>
  exact roundTrip.of_word _ _ rfl (fun h => by rw [decodeWord_28 (FmtA.major_pack _), FmtA.unpack_pack]; simp [decodeSys, need, need2]) (by rw [FmtA.major_pack]; rfl)
theorem roundTrip.csrw (s n m g k) : roundTrip.Statement (.csrw s n m g k) := by
  rcases all2 k with rfl | rfl | rfl | rfl <;>
  exact roundTrip.of_word _ _ rfl (fun h => by rw [decodeWord_28 (FmtA.major_pack _), FmtA.unpack_pack]; simp [decodeSys, need, need2]) (by rw [FmtA.major_pack]; rfl)
theorem roundTrip.csrs (s n m g k) : roundTrip.Statement (.csrs s n m g k) := by
  rcases all2 k with rfl | rfl | rfl | rfl <;>
  exact roundTrip.of_word _ _ rfl (fun h => by rw [decodeWord_28 (FmtA.major_pack _), FmtA.unpack_pack]; simp [decodeSys, need, need2]) (by rw [FmtA.major_pack]; rfl)
theorem roundTrip.csrc (s n m g k) : roundTrip.Statement (.csrc s n m g k) := by
  rcases all2 k with rfl | rfl | rfl | rfl <;>
  exact roundTrip.of_word _ _ rfl (fun h => by rw [decodeWord_28 (FmtA.major_pack _), FmtA.unpack_pack]; simp [decodeSys, need, need2]) (by rw [FmtA.major_pack]; rfl)
theorem roundTrip.csrfi (v p g c) : roundTrip.Statement (.csrfi v p g c) := by
  exact roundTrip.of_word _ _ rfl (fun h => by rw [decodeWord_29 (FmtI.major_pack _), FmtI.unpack_pack]; simp [decodeCsrfi, need, need2, csrC, csrZ]) (by rw [FmtI.major_pack]; rfl)
theorem roundTrip.vadd (d a b m t l) : roundTrip.Statement (.vadd d a b m t l) := by
  exact roundTrip.of_word _ _ rfl (fun _ => by rw [decodeWord_30 (FmtV.major_pack _), FmtV.unpack_pack]; rfl) (by rw [FmtV.major_pack]; rfl)
theorem roundTrip.vsub (d a b m t l) : roundTrip.Statement (.vsub d a b m t l) := by
  exact roundTrip.of_word _ _ rfl (fun _ => by rw [decodeWord_30 (FmtV.major_pack _), FmtV.unpack_pack]; rfl) (by rw [FmtV.major_pack]; rfl)
theorem roundTrip.vmul (d a b m t l) : roundTrip.Statement (.vmul d a b m t l) := by
  exact roundTrip.of_word _ _ rfl (fun _ => by rw [decodeWord_30 (FmtV.major_pack _), FmtV.unpack_pack]; rfl) (by rw [FmtV.major_pack]; rfl)
theorem roundTrip.vmulh (d a b m t l) : roundTrip.Statement (.vmulh d a b m t l) := by
  exact roundTrip.of_word _ _ rfl (fun _ => by rw [decodeWord_30 (FmtV.major_pack _), FmtV.unpack_pack]; rfl) (by rw [FmtV.major_pack]; rfl)
theorem roundTrip.vmulhn (d a b m t l) : roundTrip.Statement (.vmulhn d a b m t l) := by
  exact roundTrip.of_word _ _ rfl (fun _ => by rw [decodeWord_30 (FmtV.major_pack _), FmtV.unpack_pack]; rfl) (by rw [FmtV.major_pack]; rfl)
theorem roundTrip.vand (d a b m t l) : roundTrip.Statement (.vand d a b m t l) := by
  exact roundTrip.of_word _ _ rfl (fun _ => by rw [decodeWord_30 (FmtV.major_pack _), FmtV.unpack_pack]; rfl) (by rw [FmtV.major_pack]; rfl)
theorem roundTrip.vor (d a b m t l) : roundTrip.Statement (.vor d a b m t l) := by
  exact roundTrip.of_word _ _ rfl (fun _ => by rw [decodeWord_30 (FmtV.major_pack _), FmtV.unpack_pack]; rfl) (by rw [FmtV.major_pack]; rfl)
theorem roundTrip.vxor (d a b m t l) : roundTrip.Statement (.vxor d a b m t l) := by
  exact roundTrip.of_word _ _ rfl (fun _ => by rw [decodeWord_30 (FmtV.major_pack _), FmtV.unpack_pack]; rfl) (by rw [FmtV.major_pack]; rfl)
theorem roundTrip.vshl (d a b m t l) : roundTrip.Statement (.vshl d a b m t l) := by
  exact roundTrip.of_word _ _ rfl (fun _ => by rw [decodeWord_30 (FmtV.major_pack _), FmtV.unpack_pack]; rfl) (by rw [FmtV.major_pack]; rfl)
theorem roundTrip.vshr (d a b m t l) : roundTrip.Statement (.vshr d a b m t l) := by
  exact roundTrip.of_word _ _ rfl (fun _ => by rw [decodeWord_30 (FmtV.major_pack _), FmtV.unpack_pack]; rfl) (by rw [FmtV.major_pack]; rfl)
theorem roundTrip.vsra (d a b m t l) : roundTrip.Statement (.vsra d a b m t l) := by
  exact roundTrip.of_word _ _ rfl (fun _ => by rw [decodeWord_30 (FmtV.major_pack _), FmtV.unpack_pack]; rfl) (by rw [FmtV.major_pack]; rfl)
theorem roundTrip.vmin (d a b m t l) : roundTrip.Statement (.vmin d a b m t l) := by
  exact roundTrip.of_word _ _ rfl (fun _ => by rw [decodeWord_30 (FmtV.major_pack _), FmtV.unpack_pack]; rfl) (by rw [FmtV.major_pack]; rfl)
theorem roundTrip.vmax (d a b m t l) : roundTrip.Statement (.vmax d a b m t l) := by
  exact roundTrip.of_word _ _ rfl (fun _ => by rw [decodeWord_30 (FmtV.major_pack _), FmtV.unpack_pack]; rfl) (by rw [FmtV.major_pack]; rfl)
theorem roundTrip.vminn (d a b m t l) : roundTrip.Statement (.vminn d a b m t l) := by
  exact roundTrip.of_word _ _ rfl (fun _ => by rw [decodeWord_30 (FmtV.major_pack _), FmtV.unpack_pack]; rfl) (by rw [FmtV.major_pack]; rfl)
theorem roundTrip.vmaxn (d a b m t l) : roundTrip.Statement (.vmaxn d a b m t l) := by
  exact roundTrip.of_word _ _ rfl (fun _ => by rw [decodeWord_30 (FmtV.major_pack _), FmtV.unpack_pack]; rfl) (by rw [FmtV.major_pack]; rfl)
theorem roundTrip.vadds (d a b m t l) : roundTrip.Statement (.vadds d a b m t l) := by
  exact roundTrip.of_word _ _ rfl (fun _ => by rw [decodeWord_30 (FmtV.major_pack _), FmtV.unpack_pack]; rfl) (by rw [FmtV.major_pack]; rfl)
theorem roundTrip.vaddsn (d a b m t l) : roundTrip.Statement (.vaddsn d a b m t l) := by
  exact roundTrip.of_word _ _ rfl (fun _ => by rw [decodeWord_30 (FmtV.major_pack _), FmtV.unpack_pack]; rfl) (by rw [FmtV.major_pack]; rfl)
theorem roundTrip.vsubs (d a b m t l) : roundTrip.Statement (.vsubs d a b m t l) := by
  exact roundTrip.of_word _ _ rfl (fun _ => by rw [decodeWord_30 (FmtV.major_pack _), FmtV.unpack_pack]; rfl) (by rw [FmtV.major_pack]; rfl)
theorem roundTrip.vsubsn (d a b m t l) : roundTrip.Statement (.vsubsn d a b m t l) := by
  exact roundTrip.of_word _ _ rfl (fun _ => by rw [decodeWord_30 (FmtV.major_pack _), FmtV.unpack_pack]; rfl) (by rw [FmtV.major_pack]; rfl)
theorem roundTrip.vmov (d a m t l) : roundTrip.Statement (.vmov d a m t l) := by
  exact roundTrip.of_word _ _ rfl (fun _ => by rw [decodeWord_30 (FmtV.major_pack _), FmtV.unpack_pack]; rfl) (by rw [FmtV.major_pack]; rfl)
theorem roundTrip.vfadd (d a b m t l) : roundTrip.Statement (.vfadd d a b m t l) := by
  exact roundTrip.of_word _ _ rfl (fun _ => by rw [decodeWord_31 (FmtV.major_pack _), FmtV.unpack_pack]; rfl) (by rw [FmtV.major_pack]; rfl)
theorem roundTrip.vfsub (d a b m t l) : roundTrip.Statement (.vfsub d a b m t l) := by
  exact roundTrip.of_word _ _ rfl (fun _ => by rw [decodeWord_31 (FmtV.major_pack _), FmtV.unpack_pack]; rfl) (by rw [FmtV.major_pack]; rfl)
theorem roundTrip.vfmul (d a b m t l) : roundTrip.Statement (.vfmul d a b m t l) := by
  exact roundTrip.of_word _ _ rfl (fun _ => by rw [decodeWord_31 (FmtV.major_pack _), FmtV.unpack_pack]; rfl) (by rw [FmtV.major_pack]; rfl)
theorem roundTrip.vfma (d a b m t l) : roundTrip.Statement (.vfma d a b m t l) := by
  exact roundTrip.of_word _ _ rfl (fun _ => by rw [decodeWord_31 (FmtV.major_pack _), FmtV.unpack_pack]; rfl) (by rw [FmtV.major_pack]; rfl)
theorem roundTrip.vfdiv (d a b m t l) : roundTrip.Statement (.vfdiv d a b m t l) := by
  exact roundTrip.of_word _ _ rfl (fun _ => by rw [decodeWord_31 (FmtV.major_pack _), FmtV.unpack_pack]; rfl) (by rw [FmtV.major_pack]; rfl)
theorem roundTrip.vfsqrt (d a m t l) : roundTrip.Statement (.vfsqrt d a m t l) := by
  exact roundTrip.of_word _ _ rfl (fun _ => by rw [decodeWord_31 (FmtV.major_pack _), FmtV.unpack_pack]; rfl) (by rw [FmtV.major_pack]; rfl)
theorem roundTrip.vfmin (d a b m t l) : roundTrip.Statement (.vfmin d a b m t l) := by
  exact roundTrip.of_word _ _ rfl (fun _ => by rw [decodeWord_31 (FmtV.major_pack _), FmtV.unpack_pack]; rfl) (by rw [FmtV.major_pack]; rfl)
theorem roundTrip.vfmax (d a b m t l) : roundTrip.Statement (.vfmax d a b m t l) := by
  exact roundTrip.of_word _ _ rfl (fun _ => by rw [decodeWord_31 (FmtV.major_pack _), FmtV.unpack_pack]; rfl) (by rw [FmtV.major_pack]; rfl)
theorem roundTrip.vexp2 (d a m t l) : roundTrip.Statement (.vexp2 d a m t l) := by
  exact roundTrip.of_word _ _ rfl (fun _ => by rw [decodeWord_31 (FmtV.major_pack _), FmtV.unpack_pack]; rfl) (by rw [FmtV.major_pack]; rfl)
theorem roundTrip.vlog2 (d a m t l) : roundTrip.Statement (.vlog2 d a m t l) := by
  exact roundTrip.of_word _ _ rfl (fun _ => by rw [decodeWord_31 (FmtV.major_pack _), FmtV.unpack_pack]; rfl) (by rw [FmtV.major_pack]; rfl)
theorem roundTrip.vrcp (d a m t l) : roundTrip.Statement (.vrcp d a m t l) := by
  exact roundTrip.of_word _ _ rfl (fun _ => by rw [decodeWord_31 (FmtV.major_pack _), FmtV.unpack_pack]; rfl) (by rw [FmtV.major_pack]; rfl)
theorem roundTrip.vrsq (d a m t l) : roundTrip.Statement (.vrsq d a m t l) := by
  exact roundTrip.of_word _ _ rfl (fun _ => by rw [decodeWord_31 (FmtV.major_pack _), FmtV.unpack_pack]; rfl) (by rw [FmtV.major_pack]; rfl)
theorem roundTrip.vld (d b m t l) : roundTrip.Statement (.vld d b m t l) := by
  exact roundTrip.of_word _ _ rfl (fun _ => by rw [decodeWord_32 (FmtW.major_pack _), FmtW.unpack_pack]; rfl) (by rw [FmtW.major_pack]; rfl)
theorem roundTrip.vlds (d b s m t l) : roundTrip.Statement (.vlds d b s m t l) := by
  exact roundTrip.of_word _ _ rfl (fun _ => by rw [decodeWord_32 (FmtW.major_pack _), FmtW.unpack_pack]; rfl) (by rw [FmtW.major_pack]; rfl)
theorem roundTrip.vldx (d b x m t l) : roundTrip.Statement (.vldx d b x m t l) := by
  exact roundTrip.of_word _ _ rfl (fun h => by rw [decodeWord_32 (FmtW.major_pack _), FmtW.unpack_pack]; simp [decodeVmem, need, need2, low3, high3]) (by rw [FmtW.major_pack]; rfl)
theorem roundTrip.vst (d b m t l) : roundTrip.Statement (.vst d b m t l) := by
  exact roundTrip.of_word _ _ rfl (fun _ => by rw [decodeWord_32 (FmtW.major_pack _), FmtW.unpack_pack]; rfl) (by rw [FmtW.major_pack]; rfl)
theorem roundTrip.vsts (d b s m t l) : roundTrip.Statement (.vsts d b s m t l) := by
  exact roundTrip.of_word _ _ rfl (fun _ => by rw [decodeWord_32 (FmtW.major_pack _), FmtW.unpack_pack]; rfl) (by rw [FmtW.major_pack]; rfl)
theorem roundTrip.vstx (d b x m t l) : roundTrip.Statement (.vstx d b x m t l) := by
  exact roundTrip.of_word _ _ rfl (fun h => by rw [decodeWord_32 (FmtW.major_pack _), FmtW.unpack_pack]; simp [decodeVmem, need, need2, low3, high3]) (by rw [FmtW.major_pack]; rfl)
theorem roundTrip.vldm (n b l) : roundTrip.Statement (.vldm n b l) := by
  exact roundTrip.of_word _ _ rfl (fun h => by rw [decodeWord_32 (FmtW.major_pack _), FmtW.unpack_pack]; simp [decodeVmem, need, need2, low2, high2]) (by rw [FmtW.major_pack]; rfl)
theorem roundTrip.vstm (n b l) : roundTrip.Statement (.vstm n b l) := by
  exact roundTrip.of_word _ _ rfl (fun h => by rw [decodeWord_32 (FmtW.major_pack _), FmtW.unpack_pack]; simp [decodeVmem, need, need2, low2, high2]) (by rw [FmtW.major_pack]; rfl)
theorem roundTrip.vrsum (d a m t l) : roundTrip.Statement (.vrsum d a m t l) := by
  exact roundTrip.of_word _ _ rfl (fun _ => by rw [decodeWord_33 (FmtV.major_pack _), FmtV.unpack_pack]; rfl) (by rw [FmtV.major_pack]; rfl)
theorem roundTrip.vrmin (d a m t l) : roundTrip.Statement (.vrmin d a m t l) := by
  exact roundTrip.of_word _ _ rfl (fun _ => by rw [decodeWord_33 (FmtV.major_pack _), FmtV.unpack_pack]; rfl) (by rw [FmtV.major_pack]; rfl)
theorem roundTrip.vrmax (d a m t l) : roundTrip.Statement (.vrmax d a m t l) := by
  exact roundTrip.of_word _ _ rfl (fun _ => by rw [decodeWord_33 (FmtV.major_pack _), FmtV.unpack_pack]; rfl) (by rw [FmtV.major_pack]; rfl)
theorem roundTrip.vrminn (d a m t l) : roundTrip.Statement (.vrminn d a m t l) := by
  exact roundTrip.of_word _ _ rfl (fun _ => by rw [decodeWord_33 (FmtV.major_pack _), FmtV.unpack_pack]; rfl) (by rw [FmtV.major_pack]; rfl)
theorem roundTrip.vrmaxn (d a m t l) : roundTrip.Statement (.vrmaxn d a m t l) := by
  exact roundTrip.of_word _ _ rfl (fun _ => by rw [decodeWord_33 (FmtV.major_pack _), FmtV.unpack_pack]; rfl) (by rw [FmtV.major_pack]; rfl)
theorem roundTrip.vrand (d a m t l) : roundTrip.Statement (.vrand d a m t l) := by
  exact roundTrip.of_word _ _ rfl (fun _ => by rw [decodeWord_33 (FmtV.major_pack _), FmtV.unpack_pack]; rfl) (by rw [FmtV.major_pack]; rfl)
theorem roundTrip.vror (d a m t l) : roundTrip.Statement (.vror d a m t l) := by
  exact roundTrip.of_word _ _ rfl (fun _ => by rw [decodeWord_33 (FmtV.major_pack _), FmtV.unpack_pack]; rfl) (by rw [FmtV.major_pack]; rfl)
theorem roundTrip.vrxor (d a m t l) : roundTrip.Statement (.vrxor d a m t l) := by
  exact roundTrip.of_word _ _ rfl (fun _ => by rw [decodeWord_33 (FmtV.major_pack _), FmtV.unpack_pack]; rfl) (by rw [FmtV.major_pack]; rfl)
theorem roundTrip.vscan (d a m t l) : roundTrip.Statement (.vscan d a m t l) := by
  exact roundTrip.of_word _ _ rfl (fun _ => by rw [decodeWord_33 (FmtV.major_pack _), FmtV.unpack_pack]; rfl) (by rw [FmtV.major_pack]; rfl)
theorem roundTrip.vscanmax (d a m t l) : roundTrip.Statement (.vscanmax d a m t l) := by
  exact roundTrip.of_word _ _ rfl (fun _ => by rw [decodeWord_33 (FmtV.major_pack _), FmtV.unpack_pack]; rfl) (by rw [FmtV.major_pack]; rfl)
theorem roundTrip.vtopk (d a b m t l) : roundTrip.Statement (.vtopk d a b m t l) := by
  exact roundTrip.of_word _ _ rfl (fun _ => by rw [decodeWord_33 (FmtV.major_pack _), FmtV.unpack_pack]; rfl) (by rw [FmtV.major_pack]; rfl)
theorem roundTrip.vperm (d a b m t l) : roundTrip.Statement (.vperm d a b m t l) := by
  exact roundTrip.of_word _ _ rfl (fun _ => by rw [decodeWord_34 (FmtV.major_pack _), FmtV.unpack_pack]; rfl) (by rw [FmtV.major_pack]; rfl)
theorem roundTrip.vbcastg (d r m t l) : roundTrip.Statement (.vbcastg d r m t l) := by
  exact roundTrip.of_word _ _ rfl (fun h => by rw [decodeWord_34 (FmtV.major_pack _), FmtV.unpack_pack]; simp [decodeVperm, need, need2, split5, tail5]) (by rw [FmtV.major_pack]; rfl)
theorem roundTrip.vmovg (d r t l) : roundTrip.Statement (.vmovg d r t l) := by
  exact roundTrip.of_word _ _ rfl (fun h => by rw [decodeWord_34 (FmtV.major_pack _), FmtV.unpack_pack]; simp [decodeVperm, need, need2, split5, tail5]) (by rw [FmtV.major_pack]; rfl)
theorem roundTrip.viota (d m t l) : roundTrip.Statement (.viota d m t l) := by
  exact roundTrip.of_word _ _ rfl (fun _ => by rw [decodeWord_34 (FmtV.major_pack _), FmtV.unpack_pack]; rfl) (by rw [FmtV.major_pack]; rfl)
theorem roundTrip.vbcast (d a m t l) : roundTrip.Statement (.vbcast d a m t l) := by
  exact roundTrip.of_word _ _ rfl (fun _ => by rw [decodeWord_34 (FmtV.major_pack _), FmtV.unpack_pack]; rfl) (by rw [FmtV.major_pack]; rfl)
theorem roundTrip.vcompress (d a m t l) : roundTrip.Statement (.vcompress d a m t l) := by
  exact roundTrip.of_word _ _ rfl (fun _ => by rw [decodeWord_34 (FmtV.major_pack _), FmtV.unpack_pack]; rfl) (by rw [FmtV.major_pack]; rfl)
theorem roundTrip.vcmp (n a b m t l k) : roundTrip.Statement (.vcmp n a b m t l k) := by
  rcases all3 k with rfl | rfl | rfl | rfl | rfl | rfl | rfl | rfl <;>
  exact roundTrip.of_word _ _ rfl (fun h => by rw [decodeWord_35 (FmtV.major_pack _), FmtV.unpack_pack]; simp_all [Instr.wf, Instr.illegal, illegalIf, decodeVmask, need, low2, high2]) (by rw [FmtV.major_pack]; rfl)
theorem roundTrip.vfcmp (n a b m t l k) : roundTrip.Statement (.vfcmp n a b m t l k) := by
  rcases all3 k with rfl | rfl | rfl | rfl | rfl | rfl | rfl | rfl <;>
  exact roundTrip.of_word _ _ rfl (fun h => by rw [decodeWord_35 (FmtV.major_pack _), FmtV.unpack_pack]; simp_all [Instr.wf, Instr.illegal, illegalIf, decodeVmask, need, low2, high2]) (by rw [FmtV.major_pack]; rfl)
theorem roundTrip.vmand (n q r l) : roundTrip.Statement (.vmand n q r l) := by
  exact roundTrip.of_word _ _ rfl (fun h => by rw [decodeWord_35 (FmtV.major_pack _), FmtV.unpack_pack]; simp [decodeVmask, need, need2, low2, high2]) (by rw [FmtV.major_pack]; rfl)
theorem roundTrip.vmor (n q r l) : roundTrip.Statement (.vmor n q r l) := by
  exact roundTrip.of_word _ _ rfl (fun h => by rw [decodeWord_35 (FmtV.major_pack _), FmtV.unpack_pack]; simp [decodeVmask, need, need2, low2, high2]) (by rw [FmtV.major_pack]; rfl)
theorem roundTrip.vmxor (n q r l) : roundTrip.Statement (.vmxor n q r l) := by
  exact roundTrip.of_word _ _ rfl (fun h => by rw [decodeWord_35 (FmtV.major_pack _), FmtV.unpack_pack]; simp [decodeVmask, need, need2, low2, high2]) (by rw [FmtV.major_pack]; rfl)
theorem roundTrip.vmnot (n q l) : roundTrip.Statement (.vmnot n q l) := by
  exact roundTrip.of_word _ _ rfl (fun h => by rw [decodeWord_35 (FmtV.major_pack _), FmtV.unpack_pack]; simp [decodeVmask, need, need2, low2, high2]) (by rw [FmtV.major_pack]; rfl)
theorem roundTrip.vmpopc (r m t l) : roundTrip.Statement (.vmpopc r m t l) := by
  exact roundTrip.of_word _ _ rfl (fun h => by rw [decodeWord_35 (FmtV.major_pack _), FmtV.unpack_pack]; simp [decodeVmask, need, need2, split5, tail5]) (by rw [FmtV.major_pack]; rfl)
theorem roundTrip.vmfirst (r m t l) : roundTrip.Statement (.vmfirst r m t l) := by
  exact roundTrip.of_word _ _ rfl (fun h => by rw [decodeWord_35 (FmtV.major_pack _), FmtV.unpack_pack]; simp [decodeVmask, need, need2, split5, tail5]) (by rw [FmtV.major_pack]; rfl)
theorem roundTrip.vcvt (d a p m t l x u v c) : roundTrip.Statement (.vcvt d a p m t l x u v c) := by
  exact roundTrip.of_word _ _ rfl (fun h => by rw [decodeWord_36 (FmtV.major_pack _), FmtV.unpack_pack]; simp [decodeVcvt, need, need2, (vcvtF _ _ _ _).1, (vcvtF _ _ _ _).2.1, (vcvtF _ _ _ _).2.2.1, (vcvtF _ _ _ _).2.2.2]) (by rw [FmtV.major_pack]; rfl)
theorem roundTrip.vpen (d a b m l) : roundTrip.Statement (.vpen d a b m l) := by
  exact roundTrip.of_word _ _ rfl (fun _ => by rw [decodeWord_37 (FmtV.major_pack _), FmtV.unpack_pack]; rfl) (by rw [FmtV.major_pack]; rfl)
theorem roundTrip.vbias (d a b m l) : roundTrip.Statement (.vbias d a b m l) := by
  exact roundTrip.of_word _ _ rfl (fun _ => by rw [decodeWord_37 (FmtV.major_pack _), FmtV.unpack_pack]; rfl) (by rw [FmtV.major_pack]; rfl)
theorem roundTrip.vban (d m l) : roundTrip.Statement (.vban d m l) := by
  exact roundTrip.of_word _ _ rfl (fun _ => by rw [decodeWord_37 (FmtV.major_pack _), FmtV.unpack_pack]; rfl) (by rw [FmtV.major_pack]; rfl)
theorem roundTrip.vsamp (d a b m l) : roundTrip.Statement (.vsamp d a b m l) := by
  exact roundTrip.of_word _ _ rfl (fun _ => by rw [decodeWord_37 (FmtV.major_pack _), FmtV.unpack_pack]; rfl) (by rw [FmtV.major_pack]; rfl)
theorem roundTrip.vrng (d a b m l) : roundTrip.Statement (.vrng d a b m l) := by
  exact roundTrip.of_word _ _ rfl (fun _ => by rw [decodeWord_37 (FmtV.major_pack _), FmtV.unpack_pack]; rfl) (by rw [FmtV.major_pack]; rfl)
theorem roundTrip.vacc (d a b m l) : roundTrip.Statement (.vacc d a b m l) := by
  exact roundTrip.of_word _ _ rfl (fun _ => by rw [decodeWord_37 (FmtV.major_pack _), FmtV.unpack_pack]; rfl) (by rw [FmtV.major_pack]; rfl)
theorem roundTrip.vresid (d a b m l) : roundTrip.Statement (.vresid d a b m l) := by
  exact roundTrip.of_word _ _ rfl (fun _ => by rw [decodeWord_37 (FmtV.major_pack _), FmtV.unpack_pack]; rfl) (by rw [FmtV.major_pack]; rfl)
theorem roundTrip.vtree (d a b l) : roundTrip.Statement (.vtree d a b l) := by
  exact roundTrip.of_word _ _ rfl (fun _ => by rw [decodeWord_37 (FmtV.major_pack _), FmtV.unpack_pack]; rfl) (by rw [FmtV.major_pack]; rfl)
theorem roundTrip.vmatch (d a b l) : roundTrip.Statement (.vmatch d a b l) := by
  exact roundTrip.of_word _ _ rfl (fun _ => by rw [decodeWord_37 (FmtV.major_pack _), FmtV.unpack_pack]; rfl) (by rw [FmtV.major_pack]; rfl)
theorem roundTrip.vsoftT (d b m l) : roundTrip.Statement (.vsoftT d b m l) := by
  exact roundTrip.of_word _ _ rfl (fun _ => by rw [decodeWord_37 (FmtV.major_pack _), FmtV.unpack_pack]; rfl) (by rw [FmtV.major_pack]; rfl)
theorem roundTrip.vsoftW (d b m l) : roundTrip.Statement (.vsoftW d b m l) := by
  exact roundTrip.of_word _ _ rfl (fun _ => by rw [decodeWord_37 (FmtV.major_pack _), FmtV.unpack_pack]; rfl) (by rw [FmtV.major_pack]; rfl)

/-- The four bytes of a payload word at its place. -/
theorem word_at (pre post : List Byte) (w : Word) (n : Nat) (h : pre.length = n) :
    BitVec.ofNat 32 (leNat (((pre ++ (leBytes 4 w.toNat ++ post)).drop n).take 4)) = w := by
  subst h
  rw [List.drop_left, List.take_append_of_le_length (by simp [length_leBytes]),
    List.take_of_length_le (by simp [length_leBytes]), leNat_leBytes_word]

/-- Nothing is left of a word's bytes after four of them. -/
theorem drop_word (v n : Nat) : (leBytes 4 v).drop (n + 4) = [] := List.drop_of_length_le (by simp [length_leBytes])

theorem payloadOf_bytes (p : TilePayload) (rest : List Byte) :
    payloadOf (leBytes 4 p.w0.toNat ++ (leBytes 4 p.w1.toNat ++ (leBytes 4 p.w2.toNat ++ (leBytes 4 p.w3.toNat ++
      (leBytes 4 p.w4.toNat ++ (leBytes 4 p.w5.toNat ++ (leBytes 4 p.w6.toNat ++ (leBytes 4 p.w7.toNat ++ rest)))))))) = p := by
  cases p with
  | mk a b c d e f g h =>
    simp only [payloadOf, TilePayload.mk.injEq, Nat.mul_zero, List.drop_zero]
    refine ⟨?_, ?_, ?_, ?_, ?_, ?_, ?_, ?_⟩
    · simpa using word_at [] _ a 0 rfl
    · simpa using word_at (leBytes 4 a.toNat) _ b 4 rfl
    · simpa using word_at (leBytes 4 a.toNat ++ leBytes 4 b.toNat) _ c 8 rfl
    · simpa using word_at (leBytes 4 a.toNat ++ leBytes 4 b.toNat ++ leBytes 4 c.toNat) _ d 12 rfl
    · simpa using word_at (leBytes 4 a.toNat ++ leBytes 4 b.toNat ++ leBytes 4 c.toNat ++ leBytes 4 d.toNat) _ e 16 rfl
    · simpa using word_at (leBytes 4 a.toNat ++ leBytes 4 b.toNat ++ leBytes 4 c.toNat ++ leBytes 4 d.toNat ++ leBytes 4 e.toNat) _ f 20 rfl
    · simpa using word_at (leBytes 4 a.toNat ++ leBytes 4 b.toNat ++ leBytes 4 c.toNat ++ leBytes 4 d.toNat ++ leBytes 4 e.toNat ++ leBytes 4 f.toNat) _ g 24 rfl
    · simpa using word_at (leBytes 4 a.toNat ++ leBytes 4 b.toNat ++ leBytes 4 c.toNat ++ leBytes 4 d.toNat ++ leBytes 4 e.toNat ++ leBytes 4 f.toNat ++ leBytes 4 g.toNat) _ h 28 rfl

theorem roundTrip.tcmd (a b g l q h p) : roundTrip.Statement (.tcmd a b g l q h p) := by
  have h4 : encodeBytes (.tcmd a b g l q h p) = some ([FmtT.pack ⟨0x3C, a, b, g, l, q, h⟩, p.w0, p.w1, p.w2, p.w3, p.w4, p.w5, p.w6, p.w7].flatMap
      fun w => leBytes 4 w.toNat) := rfl
  simp only [roundTrip.Statement, h4]
  intro _ rest
  have h5 : (([FmtT.pack ⟨0x3C, a, b, g, l, q, h⟩, p.w0, p.w1, p.w2, p.w3, p.w4, p.w5, p.w6, p.w7].flatMap
      fun w => leBytes 4 w.toNat) ++ rest) = leBytes 4 (FmtT.pack ⟨0x3C, a, b, g, l, q, h⟩).toNat ++ (leBytes 4 p.w0.toNat ++ (leBytes 4 p.w1.toNat ++ (leBytes 4 p.w2.toNat ++ (leBytes 4 p.w3.toNat ++
      (leBytes 4 p.w4.toNat ++ (leBytes 4 p.w5.toNat ++ (leBytes 4 p.w6.toNat ++ (leBytes 4 p.w7.toNat ++ rest)))))))) := by
    simp [List.flatMap_cons]
  rw [h5]
  unfold decodeBytes
  simp [length_leBytes, List.take_append, List.drop_append, leNat_leBytes_word, FmtT.major_pack, FmtT.unpack_pack, payloadOf_bytes, decodeTcmd, drop_word]
  omega

/-! The steps that are no instruction words. -/

theorem roundTrip.illegalWord (a) : roundTrip.Statement (.illegalWord a) := (by decide : Instr.ctorIdx (.illegalWord 0) ≤ Instr.ctorIdx (.illegalWord 0))
theorem roundTrip.packageReset : roundTrip.Statement (.packageReset) := (by decide : Instr.ctorIdx (.illegalWord 0) ≤ Instr.ctorIdx .packageReset)
theorem roundTrip.thermalWarning : roundTrip.Statement (.thermalWarning) := (by decide : Instr.ctorIdx (.illegalWord 0) ≤ Instr.ctorIdx .thermalWarning)
theorem roundTrip.throttleStart : roundTrip.Statement (.throttleStart) := (by decide : Instr.ctorIdx (.illegalWord 0) ≤ Instr.ctorIdx .throttleStart)
theorem roundTrip.throttleEnd : roundTrip.Statement (.throttleEnd) := (by decide : Instr.ctorIdx (.illegalWord 0) ≤ Instr.ctorIdx .throttleEnd)
theorem roundTrip.trip : roundTrip.Statement (.trip) := (by decide : Instr.ctorIdx (.illegalWord 0) ≤ Instr.ctorIdx .trip)
theorem roundTrip.freezePinAssert : roundTrip.Statement (.freezePinAssert) := (by decide : Instr.ctorIdx (.illegalWord 0) ≤ Instr.ctorIdx .freezePinAssert)
theorem roundTrip.aigonFreezeRequest : roundTrip.Statement (.aigonFreezeRequest) := (by decide : Instr.ctorIdx (.illegalWord 0) ≤ Instr.ctorIdx .aigonFreezeRequest)
theorem roundTrip.freezePinDeassert : roundTrip.Statement (.freezePinDeassert) := (by decide : Instr.ctorIdx (.illegalWord 0) ≤ Instr.ctorIdx .freezePinDeassert)
theorem roundTrip.thawRestart : roundTrip.Statement (.thawRestart) := (by decide : Instr.ctorIdx (.illegalWord 0) ≤ Instr.ctorIdx .thawRestart)
theorem roundTrip.thermalThaw : roundTrip.Statement (.thermalThaw) := (by decide : Instr.ctorIdx (.illegalWord 0) ≤ Instr.ctorIdx .thermalThaw)
theorem roundTrip.currentThaw : roundTrip.Statement (.currentThaw) := (by decide : Instr.ctorIdx (.illegalWord 0) ≤ Instr.ctorIdx .currentThaw)
theorem roundTrip.readoutRequest : roundTrip.Statement (.readoutRequest) := (by decide : Instr.ctorIdx (.illegalWord 0) ≤ Instr.ctorIdx .readoutRequest)
theorem roundTrip.tcreate : roundTrip.Statement (.tcreate) := (by decide : Instr.ctorIdx (.illegalWord 0) ≤ Instr.ctorIdx .tcreate)
theorem roundTrip.tlock : roundTrip.Statement (.tlock) := (by decide : Instr.ctorIdx (.illegalWord 0) ≤ Instr.ctorIdx .tlock)
theorem roundTrip.tdestroy : roundTrip.Statement (.tdestroy) := (by decide : Instr.ctorIdx (.illegalWord 0) ≤ Instr.ctorIdx .tdestroy)
theorem roundTrip.qpbind : roundTrip.Statement (.qpbind) := (by decide : Instr.ctorIdx (.illegalWord 0) ≤ Instr.ctorIdx .qpbind)
theorem roundTrip.queuePairSetup : roundTrip.Statement (.queuePairSetup) := (by decide : Instr.ctorIdx (.illegalWord 0) ≤ Instr.ctorIdx .queuePairSetup)
theorem roundTrip.lqcreate : roundTrip.Statement (.lqcreate) := (by decide : Instr.ctorIdx (.illegalWord 0) ≤ Instr.ctorIdx .lqcreate)
theorem roundTrip.lqdestroy : roundTrip.Statement (.lqdestroy) := (by decide : Instr.ctorIdx (.illegalWord 0) ≤ Instr.ctorIdx .lqdestroy)
theorem roundTrip.tierset : roundTrip.Statement (.tierset) := (by decide : Instr.ctorIdx (.illegalWord 0) ≤ Instr.ctorIdx .tierset)
theorem roundTrip.ckptreq : roundTrip.Statement (.ckptreq) := (by decide : Instr.ctorIdx (.illegalWord 0) ≤ Instr.ctorIdx .ckptreq)
theorem roundTrip.attest : roundTrip.Statement (.attest) := (by decide : Instr.ctorIdx (.illegalWord 0) ≤ Instr.ctorIdx .attest)
theorem roundTrip.thaw : roundTrip.Statement (.thaw) := (by decide : Instr.ctorIdx (.illegalWord 0) ≤ Instr.ctorIdx .thaw)
theorem roundTrip.readRequest : roundTrip.Statement (.readRequest) := (by decide : Instr.ctorIdx (.illegalWord 0) ≤ Instr.ctorIdx .readRequest)
theorem roundTrip.writeRequest : roundTrip.Statement (.writeRequest) := (by decide : Instr.ctorIdx (.illegalWord 0) ≤ Instr.ctorIdx .writeRequest)
theorem roundTrip.amoRequest : roundTrip.Statement (.amoRequest) := (by decide : Instr.ctorIdx (.illegalWord 0) ≤ Instr.ctorIdx .amoRequest)
theorem roundTrip.msgRequest : roundTrip.Statement (.msgRequest) := (by decide : Instr.ctorIdx (.illegalWord 0) ≤ Instr.ctorIdx .msgRequest)
theorem roundTrip.strandRequest : roundTrip.Statement (.strandRequest) := (by decide : Instr.ctorIdx (.illegalWord 0) ≤ Instr.ctorIdx .strandRequest)
theorem roundTrip.snapreq : roundTrip.Statement (.snapreq) := (by decide : Instr.ctorIdx (.illegalWord 0) ≤ Instr.ctorIdx .snapreq)
theorem roundTrip.snapdata : roundTrip.Statement (.snapdata) := (by decide : Instr.ctorIdx (.illegalWord 0) ≤ Instr.ctorIdx .snapdata)
theorem roundTrip.ckptPacketReceive : roundTrip.Statement (.ckptPacketReceive) := (by decide : Instr.ctorIdx (.illegalWord 0) ≤ Instr.ctorIdx .ckptPacketReceive)
theorem roundTrip.fencePacket : roundTrip.Statement (.fencePacket) := (by decide : Instr.ctorIdx (.illegalWord 0) ≤ Instr.ctorIdx .fencePacket)
theorem roundTrip.responseReceive : roundTrip.Statement (.responseReceive) := (by decide : Instr.ctorIdx (.illegalWord 0) ≤ Instr.ctorIdx .responseReceive)
theorem roundTrip.responseTimeout : roundTrip.Statement (.responseTimeout) := (by decide : Instr.ctorIdx (.illegalWord 0) ≤ Instr.ctorIdx .responseTimeout)
theorem roundTrip.packetForward : roundTrip.Statement (.packetForward) := (by decide : Instr.ctorIdx (.illegalWord 0) ≤ Instr.ctorIdx .packetForward)
theorem roundTrip.portLeaveService : roundTrip.Statement (.portLeaveService) := (by decide : Instr.ctorIdx (.illegalWord 0) ≤ Instr.ctorIdx .portLeaveService)
theorem roundTrip.portRejoin : roundTrip.Statement (.portRejoin) := (by decide : Instr.ctorIdx (.illegalWord 0) ≤ Instr.ctorIdx .portRejoin)
theorem roundTrip.roceSendReceive : roundTrip.Statement (.roceSendReceive) := (by decide : Instr.ctorIdx (.illegalWord 0) ≤ Instr.ctorIdx .roceSendReceive)
theorem roundTrip.rdmaWrite : roundTrip.Statement (.rdmaWrite) := (by decide : Instr.ctorIdx (.illegalWord 0) ≤ Instr.ctorIdx .rdmaWrite)
theorem roundTrip.rdmaRead : roundTrip.Statement (.rdmaRead) := (by decide : Instr.ctorIdx (.illegalWord 0) ≤ Instr.ctorIdx .rdmaRead)
theorem roundTrip.roceCas : roundTrip.Statement (.roceCas) := (by decide : Instr.ctorIdx (.illegalWord 0) ≤ Instr.ctorIdx .roceCas)
theorem roundTrip.roceFetchAdd : roundTrip.Statement (.roceFetchAdd) := (by decide : Instr.ctorIdx (.illegalWord 0) ≤ Instr.ctorIdx .roceFetchAdd)
theorem roundTrip.roceAckReceive : roundTrip.Statement (.roceAckReceive) := (by decide : Instr.ctorIdx (.illegalWord 0) ≤ Instr.ctorIdx .roceAckReceive)
theorem roundTrip.roceRetransmit : roundTrip.Statement (.roceRetransmit) := (by decide : Instr.ctorIdx (.illegalWord 0) ≤ Instr.ctorIdx .roceRetransmit)
theorem roundTrip.cnpReceive : roundTrip.Statement (.cnpReceive) := (by decide : Instr.ctorIdx (.illegalWord 0) ≤ Instr.ctorIdx .cnpReceive)
theorem roundTrip.rateRecover : roundTrip.Statement (.rateRecover) := (by decide : Instr.ctorIdx (.illegalWord 0) ≤ Instr.ctorIdx .rateRecover)
theorem roundTrip.sysreply : roundTrip.Statement (.sysreply) := (by decide : Instr.ctorIdx (.illegalWord 0) ≤ Instr.ctorIdx .sysreply)
theorem roundTrip.pagereq : roundTrip.Statement (.pagereq) := (by decide : Instr.ctorIdx (.illegalWord 0) ≤ Instr.ctorIdx .pagereq)
theorem roundTrip.pagerep : roundTrip.Statement (.pagerep) := (by decide : Instr.ctorIdx (.illegalWord 0) ≤ Instr.ctorIdx .pagerep)
theorem roundTrip.settleTimeEnd : roundTrip.Statement (.settleTimeEnd) := (by decide : Instr.ctorIdx (.illegalWord 0) ≤ Instr.ctorIdx .settleTimeEnd)
theorem roundTrip.launchUnitTake : roundTrip.Statement (.launchUnitTake) := (by decide : Instr.ctorIdx (.illegalWord 0) ≤ Instr.ctorIdx .launchUnitTake)
theorem roundTrip.sweepLaunchStart : roundTrip.Statement (.sweepLaunchStart) := (by decide : Instr.ctorIdx (.illegalWord 0) ≤ Instr.ctorIdx .sweepLaunchStart)
theorem roundTrip.graphLaunchStart : roundTrip.Statement (.graphLaunchStart) := (by decide : Instr.ctorIdx (.illegalWord 0) ≤ Instr.ctorIdx .graphLaunchStart)
theorem roundTrip.streamsetStart : roundTrip.Statement (.streamsetStart) := (by decide : Instr.ctorIdx (.illegalWord 0) ≤ Instr.ctorIdx .streamsetStart)
theorem roundTrip.streamsetAdvance : roundTrip.Statement (.streamsetAdvance) := (by decide : Instr.ctorIdx (.illegalWord 0) ≤ Instr.ctorIdx .streamsetAdvance)
theorem roundTrip.launchDieDone : roundTrip.Statement (.launchDieDone) := (by decide : Instr.ctorIdx (.illegalWord 0) ≤ Instr.ctorIdx .launchDieDone)
theorem roundTrip.launchComplete : roundTrip.Statement (.launchComplete) := (by decide : Instr.ctorIdx (.illegalWord 0) ≤ Instr.ctorIdx .launchComplete)
theorem roundTrip.sweepStrandStart : roundTrip.Statement (.sweepStrandStart) := (by decide : Instr.ctorIdx (.illegalWord 0) ≤ Instr.ctorIdx .sweepStrandStart)
theorem roundTrip.drainSend : roundTrip.Statement (.drainSend) := (by decide : Instr.ctorIdx (.illegalWord 0) ≤ Instr.ctorIdx .drainSend)
theorem roundTrip.drainStallTimeout : roundTrip.Statement (.drainStallTimeout) := (by decide : Instr.ctorIdx (.illegalWord 0) ≤ Instr.ctorIdx .drainStallTimeout)
theorem roundTrip.drainEnd : roundTrip.Statement (.drainEnd) := (by decide : Instr.ctorIdx (.illegalWord 0) ≤ Instr.ctorIdx .drainEnd)
theorem roundTrip.sideCopyDone : roundTrip.Statement (.sideCopyDone) := (by decide : Instr.ctorIdx (.illegalWord 0) ≤ Instr.ctorIdx .sideCopyDone)
theorem roundTrip.faultMessageSend : roundTrip.Statement (.faultMessageSend) := (by decide : Instr.ctorIdx (.illegalWord 0) ≤ Instr.ctorIdx .faultMessageSend)
theorem roundTrip.faultReply : roundTrip.Statement (.faultReply) := (by decide : Instr.ctorIdx (.illegalWord 0) ≤ Instr.ctorIdx .faultReply)
theorem roundTrip.walkBusyResume : roundTrip.Statement (.walkBusyResume) := (by decide : Instr.ctorIdx (.illegalWord 0) ≤ Instr.ctorIdx .walkBusyResume)
theorem roundTrip.frameCopyDone : roundTrip.Statement (.frameCopyDone) := (by decide : Instr.ctorIdx (.illegalWord 0) ≤ Instr.ctorIdx .frameCopyDone)
theorem roundTrip.writePerform : roundTrip.Statement (.writePerform) := (by decide : Instr.ctorIdx (.illegalWord 0) ≤ Instr.ctorIdx .writePerform)
theorem roundTrip.announcementApply : roundTrip.Statement (.announcementApply) := (by decide : Instr.ctorIdx (.illegalWord 0) ≤ Instr.ctorIdx .announcementApply)
theorem roundTrip.loadViewReturn : roundTrip.Statement (.loadViewReturn) := (by decide : Instr.ctorIdx (.illegalWord 0) ≤ Instr.ctorIdx .loadViewReturn)
theorem roundTrip.atomicHomePerform : roundTrip.Statement (.atomicHomePerform) := (by decide : Instr.ctorIdx (.illegalWord 0) ≤ Instr.ctorIdx .atomicHomePerform)
theorem roundTrip.redordArrive : roundTrip.Statement (.redordArrive) := (by decide : Instr.ctorIdx (.illegalWord 0) ≤ Instr.ctorIdx .redordArrive)
theorem roundTrip.redordResend : roundTrip.Statement (.redordResend) := (by decide : Instr.ctorIdx (.illegalWord 0) ≤ Instr.ctorIdx .redordResend)
theorem roundTrip.syncAccessGrant : roundTrip.Statement (.syncAccessGrant) := (by decide : Instr.ctorIdx (.illegalWord 0) ≤ Instr.ctorIdx .syncAccessGrant)
theorem roundTrip.feTimeout : roundTrip.Statement (.feTimeout) := (by decide : Instr.ctorIdx (.illegalWord 0) ≤ Instr.ctorIdx .feTimeout)
theorem roundTrip.runQueueArrive : roundTrip.Statement (.runQueueArrive) := (by decide : Instr.ctorIdx (.illegalWord 0) ≤ Instr.ctorIdx .runQueueArrive)
theorem roundTrip.dispatch : roundTrip.Statement (.dispatch) := (by decide : Instr.ctorIdx (.illegalWord 0) ≤ Instr.ctorIdx .dispatch)
theorem roundTrip.taskStart : roundTrip.Statement (.taskStart) := (by decide : Instr.ctorIdx (.illegalWord 0) ≤ Instr.ctorIdx .taskStart)
theorem roundTrip.taskRetire : roundTrip.Statement (.taskRetire) := (by decide : Instr.ctorIdx (.illegalWord 0) ≤ Instr.ctorIdx .taskRetire)
theorem roundTrip.heldCardEnqueue : roundTrip.Statement (.heldCardEnqueue) := (by decide : Instr.ctorIdx (.illegalWord 0) ≤ Instr.ctorIdx .heldCardEnqueue)
theorem roundTrip.faultEntryPost : roundTrip.Statement (.faultEntryPost) := (by decide : Instr.ctorIdx (.illegalWord 0) ≤ Instr.ctorIdx .faultEntryPost)
theorem roundTrip.slotFill : roundTrip.Statement (.slotFill) := (by decide : Instr.ctorIdx (.illegalWord 0) ≤ Instr.ctorIdx .slotFill)
theorem roundTrip.steal : roundTrip.Statement (.steal) := (by decide : Instr.ctorIdx (.illegalWord 0) ≤ Instr.ctorIdx .steal)
theorem roundTrip.deckRoomResume : roundTrip.Statement (.deckRoomResume) := (by decide : Instr.ctorIdx (.illegalWord 0) ≤ Instr.ctorIdx .deckRoomResume)
theorem roundTrip.displace : roundTrip.Statement (.displace) := (by decide : Instr.ctorIdx (.illegalWord 0) ≤ Instr.ctorIdx .displace)
theorem roundTrip.reservationReload : roundTrip.Statement (.reservationReload) := (by decide : Instr.ctorIdx (.illegalWord 0) ≤ Instr.ctorIdx .reservationReload)
theorem roundTrip.reservationWrite : roundTrip.Statement (.reservationWrite) := (by decide : Instr.ctorIdx (.illegalWord 0) ≤ Instr.ctorIdx .reservationWrite)
theorem roundTrip.stageWrite : roundTrip.Statement (.stageWrite) := (by decide : Instr.ctorIdx (.illegalWord 0) ≤ Instr.ctorIdx .stageWrite)
theorem roundTrip.governorTick : roundTrip.Statement (.governorTick) := (by decide : Instr.ctorIdx (.illegalWord 0) ≤ Instr.ctorIdx .governorTick)
theorem roundTrip.urgentEnable : roundTrip.Statement (.urgentEnable) := (by decide : Instr.ctorIdx (.illegalWord 0) ≤ Instr.ctorIdx .urgentEnable)
theorem roundTrip.urgentStart : roundTrip.Statement (.urgentStart) := (by decide : Instr.ctorIdx (.illegalWord 0) ≤ Instr.ctorIdx .urgentStart)
theorem roundTrip.urgentDisable : roundTrip.Statement (.urgentDisable) := (by decide : Instr.ctorIdx (.illegalWord 0) ≤ Instr.ctorIdx .urgentDisable)
theorem roundTrip.batchForm : roundTrip.Statement (.batchForm) := (by decide : Instr.ctorIdx (.illegalWord 0) ≤ Instr.ctorIdx .batchForm)
theorem roundTrip.groupMemberUpdate : roundTrip.Statement (.groupMemberUpdate) := (by decide : Instr.ctorIdx (.illegalWord 0) ≤ Instr.ctorIdx .groupMemberUpdate)
theorem roundTrip.evictionRound : roundTrip.Statement (.evictionRound) := (by decide : Instr.ctorIdx (.illegalWord 0) ≤ Instr.ctorIdx .evictionRound)
theorem roundTrip.streamRestoreSelf : roundTrip.Statement (.streamRestoreSelf) := (by decide : Instr.ctorIdx (.illegalWord 0) ≤ Instr.ctorIdx .streamRestoreSelf)
theorem roundTrip.transferDiscard : roundTrip.Statement (.transferDiscard) := (by decide : Instr.ctorIdx (.illegalWord 0) ≤ Instr.ctorIdx .transferDiscard)
theorem roundTrip.snapreqRetry : roundTrip.Statement (.snapreqRetry) := (by decide : Instr.ctorIdx (.illegalWord 0) ≤ Instr.ctorIdx .snapreqRetry)
theorem roundTrip.modelEntryWrite : roundTrip.Statement (.modelEntryWrite) := (by decide : Instr.ctorIdx (.illegalWord 0) ≤ Instr.ctorIdx .modelEntryWrite)
theorem roundTrip.castInvalidate : roundTrip.Statement (.castInvalidate) := (by decide : Instr.ctorIdx (.illegalWord 0) ≤ Instr.ctorIdx .castInvalidate)
theorem roundTrip.maskWalk : roundTrip.Statement (.maskWalk) := (by decide : Instr.ctorIdx (.illegalWord 0) ≤ Instr.ctorIdx .maskWalk)
theorem roundTrip.grammarDeadStop : roundTrip.Statement (.grammarDeadStop) := (by decide : Instr.ctorIdx (.illegalWord 0) ≤ Instr.ctorIdx .grammarDeadStop)
theorem roundTrip.grammarLoad : roundTrip.Statement (.grammarLoad) := (by decide : Instr.ctorIdx (.illegalWord 0) ≤ Instr.ctorIdx .grammarLoad)
theorem roundTrip.grammarUnload : roundTrip.Statement (.grammarUnload) := (by decide : Instr.ctorIdx (.illegalWord 0) ≤ Instr.ctorIdx .grammarUnload)
theorem roundTrip.unloadTakeEffect : roundTrip.Statement (.unloadTakeEffect) := (by decide : Instr.ctorIdx (.illegalWord 0) ≤ Instr.ctorIdx .unloadTakeEffect)
theorem roundTrip.arenaOpen : roundTrip.Statement (.arenaOpen) := (by decide : Instr.ctorIdx (.illegalWord 0) ≤ Instr.ctorIdx .arenaOpen)
theorem roundTrip.arenaCommit : roundTrip.Statement (.arenaCommit) := (by decide : Instr.ctorIdx (.illegalWord 0) ≤ Instr.ctorIdx .arenaCommit)
theorem roundTrip.arenaClose : roundTrip.Statement (.arenaClose) := (by decide : Instr.ctorIdx (.illegalWord 0) ≤ Instr.ctorIdx .arenaClose)
theorem roundTrip.kvAlloc : roundTrip.Statement (.kvAlloc) := (by decide : Instr.ctorIdx (.illegalWord 0) ≤ Instr.ctorIdx .kvAlloc)
theorem roundTrip.kvOpen : roundTrip.Statement (.kvOpen) := (by decide : Instr.ctorIdx (.illegalWord 0) ≤ Instr.ctorIdx .kvOpen)
theorem roundTrip.kvRelease : roundTrip.Statement (.kvRelease) := (by decide : Instr.ctorIdx (.illegalWord 0) ≤ Instr.ctorIdx .kvRelease)
theorem roundTrip.kvSetlen : roundTrip.Statement (.kvSetlen) := (by decide : Instr.ctorIdx (.illegalWord 0) ≤ Instr.ctorIdx .kvSetlen)
theorem roundTrip.instructionComplete : roundTrip.Statement (.instructionComplete) := (by decide : Instr.ctorIdx (.illegalWord 0) ≤ Instr.ctorIdx .instructionComplete)
theorem roundTrip.vectorIssue : roundTrip.Statement (.vectorIssue) := (by decide : Instr.ctorIdx (.illegalWord 0) ≤ Instr.ctorIdx .vectorIssue)
theorem roundTrip.leaseGrant : roundTrip.Statement (.leaseGrant) := (by decide : Instr.ctorIdx (.illegalWord 0) ≤ Instr.ctorIdx .leaseGrant)
theorem roundTrip.leaseEnd : roundTrip.Statement (.leaseEnd) := (by decide : Instr.ctorIdx (.illegalWord 0) ≤ Instr.ctorIdx .leaseEnd)
theorem roundTrip.accumClaim : roundTrip.Statement (.accumClaim) := (by decide : Instr.ctorIdx (.illegalWord 0) ≤ Instr.ctorIdx .accumClaim)
theorem roundTrip.accumRelease : roundTrip.Statement (.accumRelease) := (by decide : Instr.ctorIdx (.illegalWord 0) ≤ Instr.ctorIdx .accumRelease)
theorem roundTrip.arrivalCount : roundTrip.Statement (.arrivalCount) := (by decide : Instr.ctorIdx (.illegalWord 0) ≤ Instr.ctorIdx .arrivalCount)
theorem roundTrip.coreSleep : roundTrip.Statement (.coreSleep) := (by decide : Instr.ctorIdx (.illegalWord 0) ≤ Instr.ctorIdx .coreSleep)
theorem roundTrip.coreWake : roundTrip.Statement (.coreWake) := (by decide : Instr.ctorIdx (.illegalWord 0) ≤ Instr.ctorIdx .coreWake)
theorem roundTrip.evgath : roundTrip.Statement (.evgath) := (by decide : Instr.ctorIdx (.illegalWord 0) ≤ Instr.ctorIdx .evgath)
theorem roundTrip.evselWrite : roundTrip.Statement (.evselWrite) := (by decide : Instr.ctorIdx (.illegalWord 0) ≤ Instr.ctorIdx .evselWrite)
theorem roundTrip.tlbinv : roundTrip.Statement (.tlbinv) := (by decide : Instr.ctorIdx (.illegalWord 0) ≤ Instr.ctorIdx .tlbinv)
theorem roundTrip.caststatClear : roundTrip.Statement (.caststatClear) := (by decide : Instr.ctorIdx (.illegalWord 0) ≤ Instr.ctorIdx .caststatClear)
theorem roundTrip.registerWrite : roundTrip.Statement (.registerWrite) := (by decide : Instr.ctorIdx (.illegalWord 0) ≤ Instr.ctorIdx .registerWrite)
theorem roundTrip.takeTrap : roundTrip.Statement (.takeTrap) := (by decide : Instr.ctorIdx (.illegalWord 0) ≤ Instr.ctorIdx .takeTrap)
theorem roundTrip.timerCompare : roundTrip.Statement (.timerCompare) := (by decide : Instr.ctorIdx (.illegalWord 0) ≤ Instr.ctorIdx .timerCompare)
theorem roundTrip.slotSave : roundTrip.Statement (.slotSave) := (by decide : Instr.ctorIdx (.illegalWord 0) ≤ Instr.ctorIdx .slotSave)
theorem roundTrip.slotRestore : roundTrip.Statement (.slotRestore) := (by decide : Instr.ctorIdx (.illegalWord 0) ≤ Instr.ctorIdx .slotRestore)
theorem roundTrip.lssave : roundTrip.Statement (.lssave) := (by decide : Instr.ctorIdx (.illegalWord 0) ≤ Instr.ctorIdx .lssave)
theorem roundTrip.lsload : roundTrip.Statement (.lsload) := (by decide : Instr.ctorIdx (.illegalWord 0) ≤ Instr.ctorIdx .lsload)
theorem roundTrip.coreMove : roundTrip.Statement (.coreMove) := (by decide : Instr.ctorIdx (.illegalWord 0) ≤ Instr.ctorIdx .coreMove)
theorem roundTrip.fwdclr : roundTrip.Statement (.fwdclr) := (by decide : Instr.ctorIdx (.illegalWord 0) ≤ Instr.ctorIdx .fwdclr)
theorem roundTrip.forwardDeliver : roundTrip.Statement (.forwardDeliver) := (by decide : Instr.ctorIdx (.illegalWord 0) ≤ Instr.ctorIdx .forwardDeliver)
theorem roundTrip.joinRecordPush : roundTrip.Statement (.joinRecordPush) := (by decide : Instr.ctorIdx (.illegalWord 0) ≤ Instr.ctorIdx .joinRecordPush)
theorem roundTrip.joinRecordRetry : roundTrip.Statement (.joinRecordRetry) := (by decide : Instr.ctorIdx (.illegalWord 0) ≤ Instr.ctorIdx .joinRecordRetry)
theorem roundTrip.migrAnswer : roundTrip.Statement (.migrAnswer) := (by decide : Instr.ctorIdx (.illegalWord 0) ≤ Instr.ctorIdx .migrAnswer)
theorem roundTrip.mailboxDeliver : roundTrip.Statement (.mailboxDeliver) := (by decide : Instr.ctorIdx (.illegalWord 0) ≤ Instr.ctorIdx .mailboxDeliver)
theorem roundTrip.commandComplete : roundTrip.Statement (.commandComplete) := (by decide : Instr.ctorIdx (.illegalWord 0) ≤ Instr.ctorIdx .commandComplete)
theorem roundTrip.mma : roundTrip.Statement (.mma) := (by decide : Instr.ctorIdx (.illegalWord 0) ≤ Instr.ctorIdx .mma)
theorem roundTrip.mmacb : roundTrip.Statement (.mmacb) := (by decide : Instr.ctorIdx (.illegalWord 0) ≤ Instr.ctorIdx .mmacb)
theorem roundTrip.mmaf8 : roundTrip.Statement (.mmaf8) := (by decide : Instr.ctorIdx (.illegalWord 0) ≤ Instr.ctorIdx .mmaf8)
theorem roundTrip.cellp : roundTrip.Statement (.cellp) := (by decide : Instr.ctorIdx (.illegalWord 0) ≤ Instr.ctorIdx .cellp)
theorem roundTrip.cell : roundTrip.Statement (.cell) := (by decide : Instr.ctorIdx (.illegalWord 0) ≤ Instr.ctorIdx .cell)
theorem roundTrip.att : roundTrip.Statement (.att) := (by decide : Instr.ctorIdx (.illegalWord 0) ≤ Instr.ctorIdx .att)
theorem roundTrip.scan : roundTrip.Statement (.scan) := (by decide : Instr.ctorIdx (.illegalWord 0) ≤ Instr.ctorIdx .scan)
theorem roundTrip.accrd : roundTrip.Statement (.accrd) := (by decide : Instr.ctorIdx (.illegalWord 0) ≤ Instr.ctorIdx .accrd)
theorem roundTrip.acclr : roundTrip.Statement (.acclr) := (by decide : Instr.ctorIdx (.illegalWord 0) ≤ Instr.ctorIdx .acclr)
theorem roundTrip.fmtld : roundTrip.Statement (.fmtld) := (by decide : Instr.ctorIdx (.illegalWord 0) ≤ Instr.ctorIdx .fmtld)
theorem roundTrip.ringcfg : roundTrip.Statement (.ringcfg) := (by decide : Instr.ctorIdx (.illegalWord 0) ≤ Instr.ctorIdx .ringcfg)
theorem roundTrip.copy : roundTrip.Statement (.copy) := (by decide : Instr.ctorIdx (.illegalWord 0) ≤ Instr.ctorIdx .copy)
theorem roundTrip.gath : roundTrip.Statement (.gath) := (by decide : Instr.ctorIdx (.illegalWord 0) ≤ Instr.ctorIdx .gath)
theorem roundTrip.scat : roundTrip.Statement (.scat) := (by decide : Instr.ctorIdx (.illegalWord 0) ≤ Instr.ctorIdx .scat)
theorem roundTrip.fill : roundTrip.Statement (.fill) := (by decide : Instr.ctorIdx (.illegalWord 0) ≤ Instr.ctorIdx .fill)
theorem roundTrip.compact : roundTrip.Statement (.compact) := (by decide : Instr.ctorIdx (.illegalWord 0) ≤ Instr.ctorIdx .compact)
theorem roundTrip.hashpg : roundTrip.Statement (.hashpg) := (by decide : Instr.ctorIdx (.illegalWord 0) ≤ Instr.ctorIdx .hashpg)
theorem roundTrip.mcast : roundTrip.Statement (.mcast) := (by decide : Instr.ctorIdx (.illegalWord 0) ≤ Instr.ctorIdx .mcast)
theorem roundTrip.redst : roundTrip.Statement (.redst) := (by decide : Instr.ctorIdx (.illegalWord 0) ≤ Instr.ctorIdx .redst)
theorem roundTrip.barm : roundTrip.Statement (.barm) := (by decide : Instr.ctorIdx (.illegalWord 0) ≤ Instr.ctorIdx .barm)
theorem roundTrip.snap : roundTrip.Statement (.snap) := (by decide : Instr.ctorIdx (.illegalWord 0) ≤ Instr.ctorIdx .snap)
theorem roundTrip.ckpt : roundTrip.Statement (.ckpt) := (by decide : Instr.ctorIdx (.illegalWord 0) ≤ Instr.ctorIdx .ckpt)
theorem roundTrip.packageIdBurn : roundTrip.Statement (.packageIdBurn) := (by decide : Instr.ctorIdx (.illegalWord 0) ≤ Instr.ctorIdx .packageIdBurn)
theorem roundTrip.thermalWarningClear : roundTrip.Statement (.thermalWarningClear) := (by decide : Instr.ctorIdx (.illegalWord 0) ≤ Instr.ctorIdx .thermalWarningClear)
theorem roundTrip.aigonThawRequest : roundTrip.Statement (.aigonThawRequest) := (by decide : Instr.ctorIdx (.illegalWord 0) ≤ Instr.ctorIdx .aigonThawRequest)
theorem roundTrip.sleepTimerLimit : roundTrip.Statement (.sleepTimerLimit) := (by decide : Instr.ctorIdx (.illegalWord 0) ≤ Instr.ctorIdx .sleepTimerLimit)
theorem roundTrip.creditReturn : roundTrip.Statement (.creditReturn) := (by decide : Instr.ctorIdx (.illegalWord 0) ≤ Instr.ctorIdx .creditReturn)
theorem roundTrip.flitReplay : roundTrip.Statement (.flitReplay) := (by decide : Instr.ctorIdx (.illegalWord 0) ≤ Instr.ctorIdx .flitReplay)
theorem roundTrip.neighbourDrainReport : roundTrip.Statement (.neighbourDrainReport) := (by decide : Instr.ctorIdx (.illegalWord 0) ≤ Instr.ctorIdx .neighbourDrainReport)
theorem roundTrip.pfcPauseFrame : roundTrip.Statement (.pfcPauseFrame) := (by decide : Instr.ctorIdx (.illegalWord 0) ≤ Instr.ctorIdx .pfcPauseFrame)

end Sys2Proof.Laws
end

