-- ==== Sys2Proof/Safety.lean ====
section
/-! DEFINITION. The terms in which claims are stated: when an instruction issues normally (R239–R245, R309, R310), the
state that its issue leaves, and what a step may leave unchanged. -/

namespace Sys2Proof.Machine

/-- The strand in focus issues an instruction with guard `g` that reads `reads` and writes `writes` (R240, R244, R309, R310):
no lookahead window is used up, a long-latency instruction finds fewer than eight outstanding, the guard is known and true,
every register read is full, and no register written is empty. -/
structure Ready (s : State) (g : BitVec 3) (long : Bool) (reads writes : List RegRef) : Prop where
  windows : ∀ o ∈ (s.slot s.focus).outs, o.after.length < o.la
  room    : long = true → (s.slot s.focus).outs.length < 8
  guard   : (s.slot s.focus).readP g = true
  known   : (s.slot s.focus).ready (.p g) = true
  full    : ∀ r ∈ reads, (s.slot s.focus).ready r = true ∧ (s.slot s.focus).isVoid r = false
  dest    : ∀ r ∈ writes, (s.slot s.focus).ready r = true

/-- The state that the issue of an instruction of `size` bytes leaves: the strand goes on at the next instruction, or at TRNPC
after a replay (R271), every outstanding instruction has one more issued after it (R240), event 0x02 counts (R266), and stores do
not merge across one that `bar` says is a barrier (R101); `rel` says that it is a release fence (R102). -/
def State.issued (s : State) (size : Nat) (bar rel : Bool := false) : State :=
  (s.modSlot s.focus fun x =>
    { x.advance (x.replay.getD (x.pc + dw size)) with
      bar := if bar then x.seq + 1 else x.bar
      rel := if rel then x.seq + 1 else x.rel }).count (coreOf s.focus) 0x02 1

/-- No trap is due at a slot, none is pending, and none of its accesses has ended FATAL. -/
def Slot.calm (x : Slot) : Prop := x.due = none ∧ x.fatals = [] ∧ x.async = []

/-- What every register, mode and trap field of a slot holds but those that an issue moves: the PC, the replay address, the
outstanding list and the issue number. -/
structure Slot.SameRegs (x y : Slot) : Prop where
  g    : y.g = x.g
  gst  : y.gst = x.gst
  v    : y.v = x.v
  vst  : y.vst = x.vst
  m    : y.m = x.m
  mst  : y.mst = x.mst
  p    : y.p = x.p
  mode : y.mode = x.mode ∧ y.pmode = x.pmode ∧ y.frozen = x.frozen ∧ y.pt = x.pt
  trap : y.trcause = x.trcause ∧ y.trpc = x.trpc ∧ y.traddr = x.traddr ∧ y.trwin = x.trwin ∧ y.trnpc = x.trnpc ∧
    y.trstack = x.trstack

/-- Every byte of memory, local store and accumulators, and every full/empty bit, is unchanged. -/
structure SameMemory (s t : State) : Prop where
  mem : t.mem = s.mem
  ls  : t.ls = s.ls
  fe  : t.feEmpty = s.feEmpty
  acc : t.acc = s.acc

/-- What an instruction that acts at its issue leaves once its accesses are answered: its faults and requests are forgotten. -/
def State.answered (s : State) (k : Nat) : State := (s.dropFault (.issue k)).dropRequests (.issue k)

/-- The accessor's TLBs serve a read at `va` from physical address `pa` (R76, R83). -/
def State.Mapped (s : State) (w : Who) (va : Dword) (size acc perm pa : Nat) : Prop :=
  placeRead w va size acc perm s = .ok (.mem pa, s)

/-- The accessor's TLBs serve a write at `va` to physical address `pa`, exclusively (R80, R83). -/
def State.Writable (s : State) (w : Who) (va : Dword) (size acc pa : Nat) : Prop :=
  placeWrite w va size acc s = .ok (.mem pa, s)

/-- The newest outstanding instruction of a slot will fill these values. -/
def Slot.lastGives (x : Slot) (fs : List Fill) : Prop := (x.outs.getLast?.map fun o => o.op) = some (.compute fs)

/-! ### Tile commands -/

/-- A command of an opcode starts in this step: it is accepted, not started, not done, nothing holds it, and the strand's stores to
other packages that its regions may hold are acknowledged (R108, R109). -/
def State.Starts (s : State) (op : Nat) (m : Cmd) : Prop :=
  s.cmdOf s.ev.who = some m ∧ m.op = op ∧ m.done = none ∧ m.accepted = true ∧ m.started = false ∧ s.canStart m = true ∧
    settleWrites m.who ((s.regionPeers m).map peerWrite) s = .ok ((), s)

/-- A command is over without a fault, with COUNT. -/
def State.Over (s : State) (m : Cmd) (count : Nat) : Prop :=
  (s.cmdOf m.n).map (fun x => (x.done, x.count)) = some (some (0, 0), count)

/-- A command has started and has these writes still to make; without any it is over. -/
def State.Made (s : State) (m : Cmd) (todo : List (Dword × List Byte)) (count : Nat) : Prop :=
  if todo = [] then s.Over m count
  else (s.cmdOf m.n).map (fun x => (x.done, x.started, x.todo, x.count)) = some (none, true, todo, count)

/-- Nothing that a command made is on its way. -/
def State.Settled (s : State) (m : Cmd) : Prop :=
  m.pending = [] ∧ m.acc = [] ∧ ∀ r ∈ s.requests, r.who ≠ .cmd m.n

/-! ### Packets -/

/-- A step deals with a request of a kind in state `t`: the waiting one that the step names, or the packet that arrives, which then
waits as the last and has left its receiving buffer; it breaks no limit, is not denied, and no earlier request of its source to the same object is before it
(R25–R27, R32). -/
def State.Serves (s : State) (kind : Nat) (e : Inbound) (t : State) : Prop :=
  let u := s.settleInbox
  ((s.ev.k ≠ 0 ∧ u.inbox.find? (fun (x : Inbound) => decide (x.n = s.ev.k ∧ x.kind = kind)) = some e ∧ t = u) ∨
    (s.ev.k = 0 ∧ u.rxRoom s.ev = true ∧ Packet.dst s.ev.pkt = s.pkgid.toNat ∧ Packet.cls s.ev.pkt ≠ 1 ∧ Packet.type s.ev.pkt = kind ∧
      e = ⟨u.nextN, kind, { who := StepArgs.rxDie s.ev, pkt := s.ev.pkt }, 0, [], []⟩ ∧
      t = { u.giveBack (some (StepArgs.link s.ev)) (Packet.flits s.ev.pkt) with
        inbox := u.inbox ++ [e], nextN := u.nextN + 1 })) ∧
  requestBad e.pkt = false ∧ t.denied e.pkt = false ∧ t.inBlocked e = false

/-- A step deals with a RoCE message of a kind on a queue pair of tenant `t` in state `u`: the waiting one that the step names, or the
one that arrives as its queue pair's next, which then waits as the last; no earlier message of its queue pair waits, and fewer than 16 READs and atomics of it
where it is one (R38, R39, R41). -/
def State.Hears (s : State) (kind : Nat) (e : Inbound) (t : Half) (u : State) : Prop :=
  ((s.ev.k ≠ 0 ∧ s.inbox.find? (fun (x : Inbound) => decide (x.n = s.ev.k ∧ x.kind = kind)) = some e ∧ u = s) ∨
    (s.ev.k = 0 ∧ s.qpTenant s.ev.who = some t ∧ s.ev.flag = false ∧
      ¬ (0x22 ≤ kind ∧ kind ≤ 0x24 ∧ 16 ≤ s.readsIn s.ev.who) ∧ s.ev.psn % 2 ^ 24 = (s.qp s.ev.who).epsn ∧
      e = ⟨s.nextN, kind, s.ev, 0, [], []⟩ ∧
      u = { s.expectNext kind with inbox := s.inbox ++ [e], nextN := s.nextN + 1 })) ∧
  (u.inbox.find? fun (x : Inbound) => x.roce && x.args.who == e.args.who) = some e ∧ u.qpTenant e.args.who = some t

/-- A RoCE message is dealt with and acknowledged with these bytes. -/
def State.acked (s : State) (e : Inbound) (bs : List Byte) : State := s.ackIn e 0 bs

/-- The canonical form of the memories (what every reader of them relies on), and of the frames that writes in flight carry. -/
structure State.MemoryForm (s : State) : Prop where
  mem    : s.mem.wf = true
  ls     : s.ls.wf = true
  acc    : s.acc.wf = true
  frames : ∀ w ∈ s.writes, ∀ pa img, w.data = .frame pa img → img.wf = true ∧ ∀ c ∈ img, c.1 < 65536

end Sys2Proof.Machine
end

