-- ==== Sys2Proof/Certificates/Slice0/Obligations.lean ====
section
/-! DEFINITION. The statements for the provers. -/

open Sys2Proof Sys2Proof.Machine

/-! ### Encoding -/

/-- R306, R307: the bytes of a well-formed instruction decode to it, whatever follows them, for every constructor and every
operand. The steps that are no instruction words have no bytes. -/
def Obligations.DecodeOfEncode : Prop := ∀ i : Instr, Laws.roundTrip.Statement i

/-- R313: an accepted word is the encoding of the instruction that it decodes to, so no reserved bit is ignored and no two words
of one major mean the same instruction. -/
def Obligations.EncodeOfDecode : Prop := ∀ (w : Word) (i : Instr), decodeWord w = .ok i → encodeWord i = some w

/-- Words worked out from the spec's encoding tables decode to the instructions that they stand for. R307, R313: a word whose
major opcode is 0x00 or 0x3F is refused as ILLEGAL MAJOR, and one of a reserved major as ILLEGAL RSVMAJOR. -/
def Obligations.DecodedWords : Prop :=
  (decodeWord 0x5E886402 = .ok (.ldd 20 8 3 2 2) ∧ decodeWord 0x41000010 = .ok (.br 2 16) ∧
  decodeWord 0x483FFFC0 = .ok (.jal 1 0x1FFFC0) ∧ decodeWord 0x08A21FF0 = .ok (.addi 5 2 0 0x1FF0) ∧
  decodeWord 0x2CC7400A = .ok (.sel 6 7 8 0 2) ∧ decodeWord 0x7EA80040 = .ok (.ldf 21 8 0 0 4) ∧
  decodeWord 0x80000004 = .ok (.fenceRel 0 4) ∧ decodeWord 0x88095000 = .ok (.spawn 9 10 0) ∧
  decodeWord 0x880A0001 = .ok (.join 10 0) ∧ decodeWord 0xA0A0A810 = .ok (.csrr 5 0 21 0 0) ∧
  decodeWord 0xA0050000 = .ok (.trap 5 0) ∧ decodeWord 0xC9200D40 = .ok (.vld 2 8 1 5 4)) ∧
  (∀ w : Word,
    ((w.extractLsb' 26 6 = 0x00 ∨ w.extractLsb' 26 6 = 0x3F) → decodeWord w = .error .major) ∧
    (w.extractLsb' 26 6 ∈ ([0x0E, 0x0F, 0x2A, 0x2B, 0x2C, 0x2D, 0x2E, 0x2F, 0x38, 0x39, 0x3A, 0x3B, 0x3D, 0x3E] : List (BitVec 6)) →
      decodeWord w = .error .rsvMajor))

/-! ### Reset, steps, issue and traps -/

/-- What reset leaves (R66, R70, R148, R244, R265, R269, R277, R437): STATUS zero with user mode and no freeze, TRSTACK at the top
of each slot's handler stack, TRVEC of each core, FERETRY, MIGTHR, EVCFG, AFMT and BFMT, and every local-store word zero and
full. -/
def Obligations.ResetValues : Prop :=
  (∀ k, ((State.reset.slot k).status = 0 ∧ (State.reset.slot k).trstack =
      BitVec.ofNat 64 (0xFFFFFFFFFC0000 + k / 8 % 4 * 0x10000 + 0xF000 + (k % 8 + 1) * 0x200) ∧
      (State.reset.slot k).migthr = 0x400 ∧ (State.reset.slot k).occ = .empty)) ∧
  (∀ c, (State.reset.core c).trvec = BitVec.ofNat 64 (0xE000 + c % 4 * 0x10000) ∧ (State.reset.core c).feretry = 0x00100000 ∧
      (State.reset.core c).fmt.take 2 = [8, 8]) ∧
  (∀ d, (State.reset.die d).evcfg = 0x133B001001) ∧
  (∀ c off, State.reset.lsDword c off = 0 ∧ State.reset.isFull c off = true) ∧ State.reset.timer = 0

/-- The memories at reset have their canonical form: addresses rise strictly, and no entry holds what an unlisted address reads as.
The form is the model's (log entry 5). -/
def Obligations.ResetMemoryForm : Prop :=
  State.reset.mem.wf = true ∧ State.reset.ls.wf = true ∧ State.reset.acc.wf = true

/-- A step runs the decoded instruction: when a core has the next turn, and the bytes at the PC of the first of its slots that may
issue are those of a well-formed instruction in the own local store below the plinth, the step is `exec` of that instruction in the
state with the slot in focus, the core's rotation past it (R145), its issue charged (R136), and no fetch outstanding. Where
nothing of the slot has changed, its instruction was not ready: it gives the turn back, and the turn passes to its siblings
(R145). A frozen part (R14) takes no core turn, no cycle passes, and of the device steps only those of the always-on domain run; a
packet that arrives on a Brynry port waits for the thaw, and nothing else does.
The model's choices, and no rule of the spec: the turns of an agenda, one of which a step takes (log entry 1); which steps run while
the part is frozen, and that what arrives at a port is held until the thaw (log entry 44); how often a fetch counts event 0x06,
which is free (log entry 53). -/
def Obligations.StepRunsDecoded : Prop :=
  (∀ (s : State) (rest : List Turn) (c k off : Nat) (ks : List Nat) (i : Instr) (bs : List Byte),
    s.agenda = .core c :: rest → s.frozen = false → ({ s with agenda := rest } : State).turnSlots c = k :: ks →
    regionOf (s.slot k).pc = .own off → off + 36 ≤ 0x3C0000 → (s.slot k).pt = false →
    encodeBytes i = some bs → i.wf = true → s.readLs (clusterOf k) off bs.length = bs →
    let t := { s with agenda := rest }
    let u := { (t.modCore c fun x => { x with rot := BitVec.ofNat 3 (k + 1) }).charge k (dieOf k) 0 1 with focus := k }
    let u := u.countFree c 0x06 2
    let u := if bs.length = 36 then u.countFree c 0x06 2 else u
    ∀ v, exec i ((u.dropFault (.fetch k)).dropRequests (.fetch k)) = .next v →
      (({ v.slot k with waitOn := [] } : Slot) ≠ { s.slot k with waitOn := [] } → step s = .next v) ∧
      (({ v.slot k with waitOn := [] } : Slot) = { s.slot k with waitOn := [] } → step s = State.issueTurn ks (t.passTurn v k))) ∧
  (∀ (s : State) (t : Turn) (rest : List Turn), s.agenda = t :: rest → s.frozen = true →
    (∀ c, t = .core c → step s = .next { s with agenda := rest }) ∧
    (∀ f, t = .home f → step s = .next { s with agenda := rest }) ∧
    (∀ n, t = .elapse n → step s = .next { s with agenda := rest }) ∧
    (∀ i a, t = .step i a → alwaysOn i = false →
      (isArrival i = false → step s = .next { s with agenda := rest }) ∧
      (isArrival i = true → s.boot = 0 → a.k = 0 → s.rxRoom a = true →
        step s = .next { s with agenda := rest, linkHeld := s.linkHeld ++ [.step i a] })))

/-- Every instruction and every step of the part answers a next state: the part has no stop of its own (R6). -/
def Obligations.EveryStepGoesOn : Prop := ∀ s : State, ∃ t, step s = .next t

/-- R240: while a lookahead window of the strand is used up, no instruction of it issues, whatever it is. R313, R239: an
instruction whose operands break a limit traps ILLEGAL with the lowest-numbered case, before its guard is looked at; so does a
word that is no instruction. R309: an instruction whose guard is false issues without effect: only the PC, the windows and the
issue event move. One form of each guarded family. R244: reading a void register traps VOID_REG with the register's number,
and nothing is written. -/
def Obligations.IssueChecks : Prop :=
  (∀ (s : State) (i : Instr), isWord i = true → (∃ o ∈ (s.slot s.focus).outs, o.la ≤ o.after.length) → exec i s = .next s) ∧
  (∀ (s : State), (∀ o ∈ (s.slot s.focus).outs, o.after.length < o.la) →
    (∀ (i : Instr) (c : IllegalCode), i.illegal = some c → exec i s = .next (s.raise s.focus ⟨0x01, c.subcode, 0, false, false, [], 0⟩)) ∧
    (∀ (w : Word) (c : IllegalCode), decodeWord w = .error c →
      exec (.illegalWord w) s = .next (s.raise s.focus ⟨0x01, c.subcode, 0, false, false, [], 0⟩))) ∧
  (∀ (s : State) (d a b : BitVec 5) (g : BitVec 3) (l : BitVec 4) (o : BitVec 9) (c : BitVec 7),
    (∀ o ∈ (s.slot s.focus).outs, o.after.length < o.la) → (s.slot s.focus).outs.length < 8 →
    (s.slot s.focus).readP g = false → (s.slot s.focus).ready (.p g) = true →
    (s.slot s.focus).ready (.g a) = true → (s.slot s.focus).ready (.g b) = true → (s.slot s.focus).ready (.g d) = true →
    exec (.add d a b g) s = .next (s.issued 4) ∧ exec (.fadd d a b g 0) s = .next (s.issued 4) ∧
    exec (.mul d a b g l) s = .next (s.issued 4) ∧ exec (.ldd d a g l o) s = .next (s.issued 4) ∧
    exec (.std d a g l o) s = .next (s.issued 4) ∧ exec (.ldf d a b g l) s = .next (s.issued 4) ∧
    exec (.msend d a b g l) s = .next (s.issued 4 true) ∧ exec (.sfork d a b g l) s = .next (s.issued 4) ∧
    exec (.trap c g) s = .next (s.issued 4) ∧ exec (.sleep a g) s = .next (s.issued 4)) ∧
  (∀ (s : State) (d a b : BitVec 5) (g : BitVec 3) (l : BitVec 4) (o : BitVec 9),
    (∀ o ∈ (s.slot s.focus).outs, o.after.length < o.la) → (s.slot s.focus).outs.length < 8 →
    (s.slot s.focus).readP g = true → (s.slot s.focus).ready (.p g) = true →
    (s.slot s.focus).ready (.g b) = true → (s.slot s.focus).ready (.g d) = true → (s.slot s.focus).gState a = .void →
    let trap := s.raise s.focus ⟨0x06, BitVec.ofNat 8 a.toNat, 0, false, false, [], 0⟩
    exec (.add d a b g) s = .next trap ∧ exec (.ldd d a g l o) s = .next trap ∧ exec (.jalr d a g 0) s = .next trap ∧
    exec (.fmul d a b g 1) s = .next trap ∧ exec (.sleep a g) s = .next trap)

/-- R270, R269: what taking a trap that no FATAL precedes leaves in its slot, when nothing is outstanding, g2 is full and FROZEN
is clear: the trap registers, supervisor mode with the old mode in PMODE, FROZEN, g2 and TRSTACK exchanged, and the PC at
TRVEC's entry. Every other register keeps its value and state, and DIRTY, VDIRTY, TENANT and STATESEL are unchanged. R272,
R273: any trap raised while FROZEN is set halts the slot; the trap registers keep the first trap, and the die posts a fault
entry of cause DOUBLE whose subcode is the second cause. So does a FATAL of an outstanding instruction, whose own PC stands in the
entry. -/
def Obligations.TrapEntry : Prop :=
  (∀ (s : State) (k : Nat) (t : Trap), (s.slot k).outs = [] → (s.slot k).fatals = [] → (s.slot k).gst[2] = .full →
    (s.slot k).frozen = false → (s.slot k).replay = none → t.cause ≠ 0x07 →
    let x := s.slot k
    let y := (s.raise k t).slot k
    y.trcause = BitVec.ofNat 64 (t.cause.toNat + t.sub.toNat * 256 + (if t.async then 65536 else 0)) ∧
    y.trpc = x.pc ∧ y.traddr = t.addr ∧ y.trnpc = (if t.toNext then x.pc + 4 else x.pc) ∧
    y.pmode = x.mode ∧ y.mode = true ∧ y.frozen = true ∧ y.g[2] = x.trstack ∧ y.trstack = x.g[2] ∧
    y.pc = BitVec.ofNat 64 (0xFFFFFFFFFC0000 + bits (s.core (coreOf k)).trvec 17 2 * 4) ∧
    (∀ n : Fin 32, n.val ≠ 2 → y.g[n] = x.g[n] ∧ y.gst[n] = x.gst[n]) ∧ y.v = x.v ∧ y.vst = x.vst ∧ y.m = x.m ∧ y.mst = x.mst ∧
    y.p = x.p ∧ y.dirty = x.dirty ∧ y.vdirty = x.vdirty ∧ y.tenant = x.tenant ∧ y.statesel = x.statesel) ∧
  (∀ (s : State) (k : Nat) (t : Trap), (s.slot k).fatals = [] → (s.slot k).frozen = true →
    let x := s.slot k
    let y := (s.raise k t).slot k
    y.occ = .halted ∧ y.trcause = x.trcause ∧ y.trpc = x.trpc ∧ y.traddr = x.traddr ∧ y.trwin = x.trwin ∧ y.trnpc = x.trnpc ∧
    y.trstack = x.trstack ∧ y.g = x.g ∧
    ((s.raise k t).die (dieOf k)).faultWait = (s.die (dieOf k)).faultWait ++
      [(leBytes 8 x.owner.toNat ++ [0x0F, t.cause, 0, 0] ++ leBytes 4 (whereWord k).toNat ++ leBytes 8 x.pc.toNat ++
        leBytes 8 t.addr.toNat, ({ s with slots := (s.raise k t).slots } : State).taskNo x)]) ∧
  (∀ (s : State) (k : Nat) (o : Outst) (sub : Byte) (addr : Dword) (stay : Bool), (s.slot k).fatals = [] →
    (s.slot k).frozen = true →
    let x := s.slot k
    let t := s.fatal k o sub addr stay
    (t.slot k).occ = .halted ∧ (t.slot k).trcause = x.trcause ∧ (t.slot k).trpc = x.trpc ∧ (t.slot k).g = x.g ∧
    (t.die (dieOf k)).faultWait = (s.die (dieOf k)).faultWait ++
      [(leBytes 8 x.owner.toNat ++ [0x0F, 0x07, 0, 0] ++ leBytes 4 (whereWord k).toNat ++ leBytes 8 o.pc.toNat ++
        leBytes 8 addr.toNat, s.taskNo x)])

/-- R388, R271: TRAP raises BREAK with its operand as subcode and returns to the next instruction; TRAPACK clears FROZEN and
changes nothing else of the slot but what an issue moves; RETT restores the mode, exchanges g2 and TRSTACK again, clears
FROZEN and goes to TRNPC, by way of TRPC when REPLAY is set. TRAPACK and RETT trap PRIV in user mode. -/
def Obligations.TrapInstructions : Prop :=
  ∀ (s : State) (c : BitVec 7) (g : BitVec 3),
    let x := s.slot s.focus
    (Ready s g false [] [] →
      exec (.trap c g) s = .next (s.raise s.focus ⟨0x0B, c.setWidth 8, 0, false, true, [], 0⟩) ∧
      (x.calm → x.outs = [] → x.gst[2] = .full → x.frozen = false → x.replay = none → ∃ t, exec (.trap c g) s = .next t ∧
        let y := t.slot s.focus
        y.trcause = BitVec.ofNat 64 (0x0B + c.toNat * 256) ∧ y.trpc = x.pc ∧ y.trnpc = x.pc + 4 ∧ y.pmode = x.mode ∧ y.mode = true ∧
        y.frozen = true ∧ y.pc = BitVec.ofNat 64 (0xFFFFFFFFFC0000 + bits (s.core (coreOf s.focus)).trvec 17 2 * 4)) ∧
      (x.mode = true → exec (.trapack g) s = .next ((s.issued 4).modSlot s.focus fun y => { y with frozen := false })) ∧
      (x.mode = false → exec (.trapack g) s = .next (s.raise s.focus ⟨0x02, 0x01, 0, false, false, [], 0⟩))) ∧
    (Ready s g false [] [.g 2] →
      (x.mode = false → exec (.rett g) s = .next (s.raise s.focus ⟨0x02, 0x01, 0, false, false, [], 0⟩)) ∧
      (x.mode = true → ∃ t, exec (.rett g) s = .next t ∧
        let y := t.slot s.focus
        y.mode = x.pmode ∧ y.frozen = false ∧ y.g[2] = x.trstack ∧ y.gst[2] = .full ∧
        y.trstack = (if x.gst[2] = .void then (0 : Dword) else x.g[2]) ∧
        (x.trnpc.getLsbD 0 = false → y.pc = x.trnpc &&& ~~~ 3 ∧ y.replay = none) ∧
        (x.trnpc.getLsbD 0 = true → y.pc = x.trpc &&& ~~~ 3 ∧ y.replay = some (x.trnpc &&& ~~~ 3))))

/-- R272, R276: a synchronous trap that is due is taken when nothing is outstanding; an asynchronous one is taken once FROZEN is
clear, the oldest first, and stays pending while FROZEN is set. R276, R390: a strand's timer trap falls due when the timer
reaches TIMECMP, which clears it and ends a SLEEP; a SLEEP ends when the timer reaches its limit. -/
def Obligations.PendingTraps : Prop :=
  (∀ (s : State) (k : Nat) (t : Trap) (rest : List Trap), s.ev.who = k → (s.slot k).occ = .active → (s.slot k).fatals = [] →
    ((s.slot k).due = some t → (s.slot k).outs = [] → (s.slot k).frozen = false → (s.slot k).gst[2] = .full →
      exec .takeTrap s = .next (s.takePlain k t)) ∧
    ((s.slot k).due = none → (s.slot k).async = t :: rest → (s.slot k).replay = none → (s.slot k).cmd = none →
      (s.slot k).gst[2] = .full → (s.slot k).frozen = false →
      exec .takeTrap s = .next (((s.modSlot k fun x => { x with async := rest }).modCore (coreOf k) fun c =>
        { c with asleep := false }).takePlain k t)) ∧
    ((s.slot k).due = none → (s.slot k).frozen = true → exec .takeTrap s = .next s)) ∧
  (∀ (s : State) (k : Nat), s.ev.who = k →
    ((s.slot k).timecmp ≠ 0 → (s.slot k).timecmp.toNat ≤ s.timer.toNat → (s.slot k).occ = .active → (s.slot k).async = [] →
      ∃ t, exec .timerCompare s = .next t ∧ (t.slot k).timecmp = 0 ∧ (t.slot k).sleeping = none ∧
        (t.slot k).async = [⟨0x0B, 0x80, 0, true, false, [], s.timer.toNat⟩]) ∧
    (∀ lim, (s.slot k).sleeping = some lim → lim ≠ 0 → lim.toNat ≤ s.timer.toNat →
      ∃ t, exec .sleepTimerLimit s = .next t ∧ (t.slot k).sleeping = none))

/-! ### Scalar instructions -/

/-- R331: the two-operand integer instructions write gd and nothing else but what every issue moves; only bits [5:0] of a shift
count are read. MIN and MAX compare as i64, MINN and MAXN as n64. R331: CLZ and CTZ count the zero bits above the highest and
below the lowest set bit, 64 for zero; POPC counts the set bits; bit i of the result of BREV is bit 63 − i of ga. R332: EXTZ,
EXTS and INSF on the field from POS = gb[5:0] to TOP = Min(63, POS + LEN − 1), LEN = gb[13:8] + 1. -/
def Obligations.IntegerResults : Prop :=
  (∀ (s : State) (d a b : BitVec 5) (g : BitVec 3), Ready s g false [.g a, .g b] [.g d] →
    let A := s.readG s.focus a
    let B := s.readG s.focus b
    let gives := fun (i : Instr) (v : Dword) => exec i s = .next ((s.issued 4).writeG s.focus d v)
    gives (.add d a b g) (BitVec.ofNat 64 (A.toNat + B.toNat)) ∧
    gives (.sub d a b g) (BitVec.ofInt 64 (A.toNat - B.toNat)) ∧
    gives (.and d a b g) (A &&& B) ∧
    gives (.or d a b g) (A ||| B) ∧
    gives (.xor d a b g) (A ^^^ B) ∧
    gives (.shl d a b g) (A <<< (B.toNat % 64)) ∧
    gives (.shr d a b g) (A >>> (B.toNat % 64)) ∧
    gives (.sra d a b g) (A.sshiftRight (B.toNat % 64)) ∧
    gives (.min d a b g) (if A.toInt ≤ B.toInt then A else B) ∧
    gives (.max d a b g) (if A.toInt ≤ B.toInt then B else A) ∧
    gives (.minn d a b g) (if A.toNat ≤ B.toNat then A else B) ∧
    gives (.maxn d a b g) (if A.toNat ≤ B.toNat then B else A)) ∧
  (∀ (s : State) (d a : BitVec 5) (g : BitVec 3), Ready s g false [.g a] [.g d] →
    let A := s.readG s.focus a
    let gives := fun (i : Instr) (v : Dword) => exec i s = .next ((s.issued 4).writeG s.focus d v)
    (∃ n : Nat, gives (.clz d a g) (BitVec.ofNat 64 n) ∧ (A = 0 → n = 64) ∧
      (A ≠ 0 → n < 64 ∧ A.getLsbD (63 - n) = true ∧ ∀ j, 63 - n < j → A.getLsbD j = false)) ∧
    (∃ n : Nat, gives (.ctz d a g) (BitVec.ofNat 64 n) ∧ (A = 0 → n = 64) ∧
      (A ≠ 0 → n < 64 ∧ A.getLsbD n = true ∧ ∀ j, j < n → A.getLsbD j = false)) ∧
    gives (.popc d a g) (BitVec.ofNat 64 ((List.range 64).countP fun j => A.getLsbD j)) ∧
    (∃ v : Dword, gives (.brev d a g) v ∧ ∀ j, j < 64 → v.getLsbD j = A.getLsbD (63 - j))) ∧
  (∀ (s : State) (d a b : BitVec 5) (g : BitVec 3),
    let A := s.readG s.focus a
    let B := s.readG s.focus b
    let D := s.readG s.focus d
    let pos := B.toNat % 64
    let width := min 63 (pos + (B.toNat / 256 % 64 + 1) - 1) - pos + 1
    let field := A.toNat / 2 ^ pos % 2 ^ width
    let gives := fun (i : Instr) (v : Dword) => exec i s = .next ((s.issued 4).writeG s.focus d v)
    (Ready s g false [.g a, .g b] [.g d] →
      gives (.extz d a b g) (BitVec.ofNat 64 field) ∧
      gives (.exts d a b g) (BitVec.ofInt 64 (if field < 2 ^ (width - 1) then (field : Int) else (field : Int) - 2 ^ width))) ∧
    (Ready s g false [.g a, .g b, .g d] [.g d] → ∃ v : Dword, gives (.insf d a b g) v ∧
      ∀ j, j < 64 → v.getLsbD j = if pos ≤ j ∧ j < pos + width then A.getLsbD (j - pos) else D.getLsbD j))

/-- R333, R334: gd ← ga op imm, sign-extended but for ORI, and the shifts by COUNT. R335, R336: LIH writes SignExtend(imm21) ×
2^13 and ADDPC its own address plus SignExtend(imm21) × 4; neither is guarded. -/
def Obligations.ImmediateResults : Prop :=
  (∀ (s : State) (d a : BitVec 5) (g : BitVec 3) (i : BitVec 13) (c : BitVec 6), Ready s g false [.g a] [.g d] →
    let A := s.readG s.focus a
    let gives := fun (j : Instr) (v : Dword) => exec j s = .next ((s.issued 4).writeG s.focus d v)
    gives (.addi d a g i) (A + i.signExtend 64) ∧
    gives (.andi d a g i) (A &&& i.signExtend 64) ∧
    gives (.ori d a g i) (A ||| i.setWidth 64) ∧
    gives (.xori d a g i) (A ^^^ i.signExtend 64) ∧
    gives (.shli d a g c) (A <<< c.toNat) ∧
    gives (.shri d a g c) (A >>> c.toNat) ∧
    gives (.srai d a g c) (A.sshiftRight c.toNat)) ∧
  (∀ (s : State) (d : BitVec 5) (i : BitVec 21), Ready s 0 false [] [.g d] →
    exec (.lih d i) s = .next ((s.issued 4).writeG s.focus d (BitVec.ofInt 64 (i.toInt * 2 ^ 13))) ∧
    exec (.addpc d i) s = .next ((s.issued 4).writeG s.focus d (BitVec.ofInt 64 ((s.slot s.focus).pc.toInt + i.toInt * 4))))

/-- R337, R338: CMP and CMPI under each condition code, the predicate functions, and SEL. R339, R287: MULDIV leaves gd empty and
its product or quotient outstanding. Division rounds toward zero; by zero it gives all ones, and the remainder the dividend;
the signed minimum by −1 gives itself and remainder 0. -/
def Obligations.CompareAndDivideResults : Prop :=
  (∀ (s : State) (g : BitVec 3) (k : BitVec 3) (X Y : Dword) (p q r : BitVec 3) (d a b : BitVec 5) (i : BitVec 10),
    let x := s.slot s.focus
    let cond := (k = 0 ∧ X = Y) ∨ (k = 1 ∧ X ≠ Y) ∨ (k = 2 ∧ X.toInt < Y.toInt) ∨ (k = 3 ∧ Y.toInt ≤ X.toInt) ∨
      (k = 4 ∧ X.toNat < Y.toNat) ∨ (k = 5 ∧ Y.toNat ≤ X.toNat)
    (Ready s g false [.g a, .g b] [.p p] → k.toNat ≤ 5 → X = x.readG a → Y = x.readG b → ∃ c : Bool, (c = true ↔ cond) ∧
      exec (.cmp p a b g k) s = .next ((s.issued 4).writeP s.focus p c)) ∧
    (Ready s g false [.g a] [.p p] → k.toNat ≤ 5 → X = x.readG a → Y = i.signExtend 64 → ∃ c : Bool, (c = true ↔ cond) ∧
      exec (.cmpi p a g k i) s = .next ((s.issued 4).writeP s.focus p c)) ∧
    (Ready s g false [.p q, .p r] [.p p] →
      exec (.pand p q r g) s = .next ((s.issued 4).writeP s.focus p (x.readP q && x.readP r)) ∧
      exec (.por p q r g) s = .next ((s.issued 4).writeP s.focus p (x.readP q || x.readP r)) ∧
      exec (.pxor p q r g) s = .next ((s.issued 4).writeP s.focus p (x.readP q ^^ x.readP r))) ∧
    (Ready s g false [.p q] [.p p] → exec (.pnot p q g) s = .next ((s.issued 4).writeP s.focus p (!x.readP q))) ∧
    (Ready s g false [.g a, .g b, .p q] [.g d] →
      exec (.sel d a b g q) s = .next ((s.issued 4).writeG s.focus d (if x.readP q then x.readG a else x.readG b)))) ∧
  (∀ (s : State) (d a b : BitVec 5) (g : BitVec 3) (l : BitVec 4), Ready s g true [.g a, .g b] [.g d] →
    let A := s.readG s.focus a
    let B := s.readG s.focus b
    let gives := fun (i : Instr) (v : Dword) => exec i s = .next (s.depart (s.issued 4) l (.compute [.g d v]) [.g d])
    gives (.mul d a b g l) (BitVec.ofNat 64 (A.toNat * B.toNat)) ∧
    gives (.mulh d a b g l) (BitVec.ofInt 64 (A.toInt * B.toInt / 2 ^ 64)) ∧
    gives (.mulhn d a b g l) (BitVec.ofNat 64 (A.toNat * B.toNat / 2 ^ 64)) ∧
    gives (.div d a b g l) (if B = 0 then BitVec.allOnes 64 else BitVec.ofInt 64 (A.toInt.tdiv B.toInt)) ∧
    gives (.divn d a b g l) (if B = 0 then BitVec.allOnes 64 else BitVec.ofNat 64 (A.toNat / B.toNat)) ∧
    gives (.rem d a b g l) (if B = 0 then A else BitVec.ofInt 64 (A.toInt.tmod B.toInt)) ∧
    gives (.remn d a b g l) (if B = 0 then A else BitVec.ofNat 64 (A.toNat % B.toNat)))

/-- R340–R343: the scalar floating-point instructions in the format that D selects, with the low 32 bits of an FP32 source, and
FCVT, whose signed integer results are sign-extended. -/
def Obligations.FloatResults : Prop :=
  ∀ (s : State) (d a b : BitVec 5) (g p k : BitVec 3) (t : BitVec 1),
    let F := if t = 0 then Fp.f32 else Fp.f64
    let src := fun (n : BitVec 5) => if t = 0 then (s.readG s.focus n).toNat % 2 ^ 32 else (s.readG s.focus n).toNat
    let gives := fun (i : Instr) (v : Nat) => exec i s = .next ((s.issued 4).writeG s.focus d (BitVec.ofNat 64 v))
    (Ready s g false [.g a, .g b] [.g d] →
      gives (.fadd d a b g t) (F.add (src a) (src b)) ∧
      gives (.fsub d a b g t) (F.sub (src a) (src b)) ∧
      gives (.fmul d a b g t) (F.mul (src a) (src b)) ∧
      gives (.fdiv d a b g t) (F.div (src a) (src b)) ∧
      gives (.fmin d a b g t) (F.min (src a) (src b)) ∧
      gives (.fmax d a b g t) (F.max (src a) (src b)) ∧
      gives (.fsgn d a b g t) (F.setSign (src a) (F.neg (src b)))) ∧
    (Ready s g false [.g a, .g b, .g d] [.g d] → gives (.fma d a b g t) (F.fma (src a) (src b) (src d))) ∧
    (Ready s g false [.g a] [.g d] →
      gives (.fsqrt d a g t) (F.sqrt (src a)) ∧
      gives (.fneg d a g t) (F.setSign (src a) (!F.neg (src a))) ∧
      gives (.fabs d a g t) (F.setSign (src a) false) ∧
      gives (.fclass d a g t) (F.classWord (src a))) ∧
    (Ready s g false [.g a, .g b] [.p p] → k.toNat ≤ 4 →
      exec (.fcmp p a b g t k) s = .next ((s.issued 4).writeP s.focus p (fpCond F k.toNat (src a) (src b)))) ∧
    (∀ (m : BitVec 2) (sat : BitVec 1) (u c : BitVec 3), (Instr.fcvt d a m sat g u c).wf = true → Ready s g false [.g a] [.g d] →
      let r := convert (kindCode u) (kindCode c) (Fp.Rm.ofBits m) (sat == 1)
        ((s.readG s.focus a).toNat % 2 ^ formatWidth (kindCode u))
      exec (.fcvt d a m sat g u c) s = .next ((s.issued 4).writeG s.focus d
        (if c = 0 ∨ c = 1 then BitVec.ofInt 64 (toI (formatWidth (kindCode c)) r) else BitVec.ofNat 64 r)))

/-- R344: branches and jumps. PC is the address of the instruction; a replayed transfer goes on at TRNPC all the same (R271). -/
def Obligations.TransferResults : Prop :=
  ∀ (s : State) (p g : BitVec 3) (disp : BitVec 23) (u : BitVec 21) (d a : BitVec 5) (i : BitVec 13),
    let x := s.slot s.focus
    let go := fun (target : Dword) =>
      if x.replay.isSome then s.issued 4 else (s.issued 4).modSlot s.focus fun y => { y with pc := target }
    (Ready s 0 false [.p p] [] →
      exec (.br p disp) s = .next (if x.readP p then go (x.pc + BitVec.ofInt 64 (disp.toInt * 4)) else s.issued 4) ∧
      exec (.brn p disp) s = .next (if x.readP p then s.issued 4 else go (x.pc + BitVec.ofInt 64 (disp.toInt * 4)))) ∧
    (Ready s 0 false [] [.g d] →
      exec (.jal d u) s = .next ((go (x.pc + BitVec.ofInt 64 (u.toInt * 4))).writeG s.focus d (x.pc + 4))) ∧
    (Ready s g false [.g a] [.g d] →
      exec (.jalr d a g i) s = .next ((go ((x.readG a + i.signExtend 64) &&& ~~~ 3)).writeG s.focus d (x.pc + 4)))

/-! ### Loads, stores, synchronising accesses, fences and atomics -/

/-- R346, R68: the checks of a load or store of `size` bytes, in their order. R345, R346: a load whose checks pass issues: gd is
empty and the access outstanding. R345, R346: a store whose checks pass issues with the low bytes of gs as read at issue. -/
def Obligations.AccessIssues : Prop :=
  (∀ (s : State) (k : Nat) (va : Dword) (size : Nat) (write : Bool),
    (2 ^ 56 ≤ va.toNat → s.accessTrap k va size write = some ⟨0x07, 0x20, va, false, false, [], 0⟩) ∧
    (∀ o, regionOf va = .own o ∨ regionOf va = .tenant →
      (va.toNat % size ≠ 0 → s.accessTrap k va size write = some ⟨0x03, log2Size size, va, false, false, [], 0⟩) ∧
      (va.toNat % size = 0 → (s.slot k).mode = true → s.accessTrap k va size write = none) ∧
      (va.toNat % size = 0 → regionOf va = .own o → 0x3C0000 ≤ o → (s.slot k).mode = false →
        s.accessTrap k va size write = some ⟨0x02, 0x03, 0, false, false, [], 0⟩) ∧
      (va.toNat % size = 0 → regionOf va = .tenant → (s.slot k).pt = false → s.accessTrap k va size write = none))) ∧
  (∀ (s : State) (d b : BitVec 5) (g : BitVec 3) (l : BitVec 4) (o : BitVec 9),
    Ready s g true [.g b] [.g d] → (s.slot s.focus).acquiring = false →
    let gives := fun (i : Instr) (size : Nat) (signed : Bool) =>
      let ea := BitVec.ofInt 64 ((s.readG s.focus b).toInt + o.toInt * size)
      s.accessTrap s.focus ea size false = none →
        exec i s = .next (s.depart (s.issued 4) l (.load [(ea, size)] [] (.g d size signed)) [.g d])
    gives (.ldb d b g l o) 1 true ∧ gives (.ldh d b g l o) 2 true ∧ gives (.ldw d b g l o) 4 true ∧
    gives (.ldd d b g l o) 8 true ∧ gives (.ldbn d b g l o) 1 false ∧ gives (.ldhn d b g l o) 2 false ∧
    gives (.ldwn d b g l o) 4 false) ∧
  (∀ (s : State) (r b : BitVec 5) (g : BitVec 3) (l : BitVec 4) (o : BitVec 9),
    Ready s g true [.g b, .g r] [] → (s.slot s.focus).acquiring = false →
    let gives := fun (i : Instr) (size : Nat) =>
      let ea := BitVec.ofInt 64 ((s.readG s.focus b).toInt + o.toInt * size)
      s.accessTrap s.focus ea size true = none →
        exec i s = .next (s.depart (s.issued 4) l (.store [(ea, leBytes size (s.readG s.focus r).toNat)]) [])
    gives (.stb r b g l o) 1 ∧ gives (.sth r b g l o) 2 ∧ gives (.stw r b g l o) 4 ∧ gives (.std r b g l o) 8)

/-- R241, R242, R345: a load of the own local store completes with the little-endian value at its address, sign- or
zero-extended; LOAD_VIEW_RETURN brings the same value back without the fill. R241, R66, R101: a store to the own local store
completes by writing its bytes there, once every earlier access of the slot has returned or left and every earlier write of the
strand is performed; plain stores leave the full/empty bits unchanged. R266: how often event 0x06 counts is free (log entry 53).
The bytes of a local store after a write of some bytes: the written ones where they were written, every other byte as before;
the same for one die's view of memory. -/
def Obligations.LocalAccessCompletes : Prop :=
  (∀ (s : State) (k : Nat) (o : Outst) (ea : Dword) (off size : Nat) (d : BitVec 5) (signed : Bool),
    s.ev.who = k → s.out? k s.ev.n = some o → o.op = .load [(ea, size)] [] (.g d size signed) → o.st = .ready →
    regionOf ea = .own off →
    ((s.slot k).earlier o).any Outst.readPending = false → s.loadBlocked k o [(ea, size)] = false →
    let n := leNat (s.readLs (clusterOf k) off size)
    let v := if signed then BitVec.ofInt 64 (toI (8 * size) n) else BitVec.ofNat 64 n
    let u := if (s.slot k).seen.isSome then s.modSlot k fun x => { x with seen := none } else s
    let t := ((u.countFree (coreOf k) 0x06 2).dropFault (.op k o.id)).dropRequests (.op k o.id)
    exec .instructionComplete s = .next (t.complete k o [.g d v]) ∧
    exec .loadViewReturn s = .next (t.setOut k { o with st := .returned [.g d v] })) ∧
  (∀ (s : State) (k : Nat) (o : Outst) (ea : Dword) (off : Nat) (bs : List Byte),
    s.ev.who = k → s.out? k s.ev.n = some o → o.op = .store [(ea, bs)] → o.st = .ready → regionOf ea = .own off →
    (s.slot k).mayLeave o = true → s.allPerformed (s.slot k).uid = true →
    let t := (s.countFree (coreOf k) 0x06 2).storeLs (dieOf k) (clusterOf k) off bs
    exec .instructionComplete s = .next (((t.dropFault (.op k o.id)).dropRequests (.op k o.id)).complete k o []) ∧
    t.feEmpty = s.feEmpty ∧ t.mem = s.mem ∧ t.acc = s.acc) ∧
  (∀ (s : State) (w cl off a d pa : Nat) (bs : List Byte), s.ls.wf = true → s.mem.wf = true →
    ((s.storeLs w cl off bs).ls.readByte a =
      if h : lsKey cl off ≤ a ∧ a < lsKey cl off + bs.length then bs[a - lsKey cl off] else s.ls.readByte a) ∧
    ((s.pokeView d pa bs).mem.readByte a =
      if h : viewKey d pa ≤ a ∧ a < viewKey d pa + bs.length then bs[a - viewKey d pa] else s.mem.readByte a))

/-- R349: the synchronising accesses issue at an aligned dword of the own local store outside the plinth. R112, R349: at its bank
an access acts on the data and the full/empty bit in one step. LDF takes a full word and leaves it empty, LDFP leaves it full,
STF fills an empty word, FEGET reads the bit and FESET sets it; a word in the other state parks LDF, STF and LDFP at the bank, which
then change nothing, in the order of their arrival. R277: an LDF, STF or LDFP that has waited longer than FERETRY, and whose grant
is not due, is withdrawn, its register as before its issue, and its slot traps FE_TIMEOUT at it. How often event 0x06 counts is
free (log entry 53). -/
def Obligations.SyncAccesses : Prop :=
  (∀ (s : State) (d a b : BitVec 5) (g : BitVec 3) (l : BitVec 4) (off : Nat),
    let ea := s.readG s.focus a + s.readG s.focus b
    (s.slot s.focus).acquiring = false → (s.slot s.focus).pt = false → regionOf ea = .own off → off < 0x3C0000 →
    ea.toNat % 8 = 0 →
    (Ready s g true [.g a, .g b] [.g d] →
      exec (.ldf d a b g l) s = .next (s.depart (s.issued 4) l (.sync 0 ea 0 d s.timer.toNat) [.g d]) ∧
      exec (.ldfp d a b g l) s = .next (s.depart (s.issued 4) l (.sync 2 ea 0 d s.timer.toNat) [.g d]) ∧
      exec (.feget d a b g l) s = .next (s.depart (s.issued 4) l (.sync 3 ea 0 d s.timer.toNat) [.g d])) ∧
    (Ready s g true [.g a, .g b, .g d] [] →
      exec (.stf d a b g l) s = .next (s.depart (s.issued 4 true) l (.sync 1 ea (s.readG s.focus d) 0 s.timer.toNat) []) ∧
      exec (.feset d a b g l) s = .next (s.depart (s.issued 4 true) l (.sync 4 ea (s.readG s.focus d) 0 s.timer.toNat) []))) ∧
  (∀ (s : State) (k : Nat) (o : Outst) (kind : Nat) (ea x : Dword) (d : BitVec 5) (since off : Nat),
    s.ev.who = k → s.out? k s.ev.n = some o → o.op = .sync kind ea x d since → regionOf ea = .own off → off < 0x3C0000 →
    let c := clusterOf k
    o.arrival.isSome = true ∨ s.syncReady k o kind c = true → s.syncOlder o (c, off) = false →
    let u := s.countFree (coreOf k) 0x06 2
    (kind = 0 → s.isFull c off = true →
      exec .syncAccessGrant s = .next ((u.setFull c off false).complete k o [.g d (s.lsDword c off)])) ∧
    (kind = 1 → s.isFull c off = false →
      exec .syncAccessGrant s = .next (((u.storeLs (dieOf k) c off (leBytes 8 x.toNat)).setFull c off true).complete k o [])) ∧
    (kind = 2 → s.isFull c off = true → exec .syncAccessGrant s = .next (u.complete k o [.g d (s.lsDword c off)])) ∧
    (kind = 3 → exec .syncAccessGrant s = .next (u.complete k o [.g d (if s.isFull c off then 1 else 0)])) ∧
    (kind = 4 → exec .syncAccessGrant s =
      .next (((u.stampLs (dieOf k) c off 8).setFull c off (x.getLsbD 0)).complete k o [])) ∧
    ((kind = 0 ∨ kind = 2) ∧ s.isFull c off = false ∨ kind = 1 ∧ s.isFull c off = true →
      (o.arrival.isSome = true → exec .syncAccessGrant s = .next s) ∧
      (o.arrival = none → exec .syncAccessGrant s =
        .next { s.setOut k { o with st := .parked s.nextN } with nextN := s.nextN + 1 }))) ∧
  (∀ (s : State) (k : Nat) (o : Outst) (kind : Nat) (ea x : Dword) (d : BitVec 5) (since : Nat),
    s.ev.who = k → s.out? k s.ev.n = some o → o.op = .sync kind ea x d since → kind < 3 →
    (o.dests = [] ∨ o.dests = [.g d]) →
    since + (if (s.core (coreOf k)).feretry = 0 then 2 ^ 32 else (s.core (coreOf k)).feretry.toNat) < s.timer.toNat →
    s.syncDue k o kind ea = false →
    exec .feTimeout s = .next (((s.modSlot k fun y =>
      { (if o.dests = [] then y else y.mark_ (.g d) (if o.voids.contains (.g d) then .void else .full)) with
        outs := y.outs.filter (fun u => u.id ≠ o.id), replay := if o.replay then some y.pc else none, pc := o.pc }).raise k
        ⟨0x05, BitVec.ofNat 8 (kind + 1), ea, false, false, [], 0⟩).wake (coreOf k)))

/-- R350–R352: PREF, CFLUSH, CINV and the three fences, where nothing holds the fence: it then only issues. PREF reads no
register's value. R99, R102: an acquire waits until the die's view covers what the strand's relaxed atomics returned; the SYSTEM
acquire gathers the frontier once, and goes on when the die's view covers what it gathered. R103: the SYSTEM release sends a
FENCE to every package of the touched set. -/
def Obligations.FencesAndCache : Prop :=
  ∀ (s : State) (v a b : BitVec 5) (g : BitVec 3) (l : BitVec 4) (c : BitVec 3),
    (v.toNat ≤ 1 → Ready s g true [] [.g a, .g b] → exec (.pref v a b g l) s = .next (s.issued 4)) ∧
    (Ready s g true [.g a, .g b] [] → exec (.cflush a b g l) s =
      .next (s.depart (s.issued 4) l (.cflush (some (s.readG s.focus a + s.readG s.focus b))) [])) ∧
    (Ready s g true [] [] → exec (.cinv g l) s = .next (s.depart (s.issued 4) l (.cflush none) [])) ∧
    (Ready s g false [] [] →
      let d := dieOf s.focus
      let t := s.issued 4 true
      let r := s.issued 4 true true
      let back := (t.slot s.focus).outs.any Outst.readPending = false
      let returned := back ∧ (s.slot s.focus).owed = []
      (c.toNat ≤ 3 → r.released s.focus (Scope.ofCode c) = true → exec (.fenceRel g c) s = .next r) ∧
      (c.toNat ≤ 3 → returned → exec (.fenceAcq g c) s = .next t) ∧
      (c.toNat ≤ 3 → back → (s.slot s.focus).owed ≠ [] →
        ((s.slot s.focus).owed.all (s.viewCovers d) = true →
          exec (.fenceAcq g c) s = .next (t.modSlot s.focus fun x => { x with owed := [] })) ∧
        ((s.slot s.focus).owed.all (s.viewCovers d) = false → exec (.fenceAcq g c) s = .next s)) ∧
      (c.toNat ≤ 3 → r.released s.focus (Scope.ofCode c) = true → returned → exec (.fenceFull g c) s = .next r) ∧
      let acquires := fun (i : Instr) (t : State) => returned →
        (∀ f, (s.slot s.focus).gather = some f → s.viewCovers d f = true →
          exec i s = .next (t.modSlot s.focus fun x => { x with gather := none })) ∧
        ((s.slot s.focus).gather = none → exec i s = .next (s.modSlot s.focus fun x => { x with gather := some s.frontier }))
      acquires (.fenceAcq g 4) t ∧
      (r.released s.focus .system = true →
        (∀ q ∈ s.requests, q.die = d → q.opc < 0x102 ∧ q.who ≠ .fence d s.focus) →
        ((s.die d).touched = [] → exec (.fenceRel g 4) s = .next r ∧ acquires (.fenceFull g 4) r) ∧
        ((s.die d).touched ≠ [] →
          (s.requests.filter fun q => q.die == d).length + (s.die d).touched.length ≤ 4096 →
          let tok := (s.slot s.focus).uid * 2 ^ 64 + ((s.slot s.focus).seq + 1)
          exec (.fenceRel g 4) s = .next ((s.die d).touched.foldl (fun u p => u.sendFence d p (.fence d s.focus) tok)
            (s.dropRequests (.fence d s.focus))))))

/-- R353, R354: an atomic whose checks pass issues with its operands as read at issue; CAS and RED.ORD read gd. R105: above STRAND
scope its FENCE.FULL is before it: the release of the scope is complete and every earlier load has returned; at SYSTEM scope no
package is touched and the die's view covers the gathered frontier.
R353: the values of the atomics on 32- and 64-bit words. R105, R354: at a local store an atomic replaces the old value by its
new one in one step, and the old value comes back; a step of its walker does the same. How often event 0x06 counts is free (log
entry 53). -/
def Obligations.Atomics : Prop :=
  (∀ (s : State) (d a b : BitVec 5) (z : BitVec 1) (c : BitVec 2) (l : BitVec 4),
    let x := s.slot s.focus
    let ea := x.readG a
    let size := if z = 0 then 4 else 8
    let sc := Scope.ofField c
    let t := s.issued 4 true
    x.acquiring = false → x.pt = false → s.accessTrap s.focus ea size true = none →
    (c = 0 ∨ (t.released s.focus sc = true ∧ (t.slot s.focus).outs.any Outst.readPending = false ∧ x.owed = [] ∧
      (c = 3 → (s.die (dieOf s.focus)).touched = [] ∧
        (∀ r ∈ s.requests, r.die = dieOf s.focus → r.opc < 0x102 ∧ r.who ≠ .fence (dieOf s.focus) s.focus) ∧
        ∃ f, x.gather = some f ∧ s.viewCovers (dieOf s.focus) f = true))) →
    let t := if c = 3 then t.modSlot s.focus fun y => { y with gather := none } else t
    let gives := fun (i : Instr) (op : Nat) =>
      exec i s = .next (s.depart t l (.atomic ea size op (x.readG b) (x.readG d) sc d) [.g d])
    (Ready s 0 true [.g a, .g b] [.g d] →
      gives (.amoAdd d a b z c l) 0 ∧ gives (.amoAnd d a b z c l) 1 ∧ gives (.amoOr d a b z c l) 2 ∧
      gives (.amoXor d a b z c l) 3 ∧ gives (.amoMin d a b z c l) 4 ∧ gives (.amoMax d a b z c l) 5 ∧
      gives (.amoMinn d a b z c l) 6 ∧ gives (.amoMaxn d a b z c l) 7 ∧ gives (.amoSwp d a b z c l) 8 ∧
      gives (.amoFadd d a b z c l) 10) ∧
    (Ready s 0 true [.g a, .g b, .g d] [.g d] →
      gives (.amoCas d a b z c l) 9 ∧
      exec (.amoRedOrd d a b z c l) s =
        .next (s.depart t l (.redord ea size (x.readG b) (x.readG d) sc d false) [.g d]))) ∧
  (∀ (old x cmp : Nat), old < 2 ^ 64 → x < 2 ^ 64 → cmp < 2 ^ 64 →
    atomicValue 8 0 old x cmp = (old + x) % 2 ^ 64 ∧ atomicValue 8 1 old x cmp = old &&& x ∧
    atomicValue 8 2 old x cmp = old ||| x ∧ atomicValue 8 3 old x cmp = old ^^^ x ∧
    atomicValue 8 4 old x cmp = (if (BitVec.ofNat 64 x).toInt < (BitVec.ofNat 64 old).toInt then x else old) ∧
    atomicValue 8 5 old x cmp = (if (BitVec.ofNat 64 old).toInt < (BitVec.ofNat 64 x).toInt then x else old) ∧
    atomicValue 8 6 old x cmp = min old x ∧ atomicValue 8 7 old x cmp = max old x ∧ atomicValue 8 8 old x cmp = x ∧
    atomicValue 8 9 old x cmp = (if old = cmp then x else old) ∧
    (old < 2 ^ 32 → atomicValue 4 0 old x cmp = (old + x) % 2 ^ 32 ∧ atomicValue 4 8 old x cmp = x % 2 ^ 32)) ∧
  (∀ (s : State) (k : Nat) (o : Outst) (ea x cmp : Dword) (size op off : Nat) (d : BitVec 5),
    s.ev.who = k → s.out? k s.ev.n = some o → o.op = .atomic ea size op x cmp .strand d → o.st = .ready →
    regionOf ea = .own off → (s.slot k).mayLeave o = true →
    s.allPerformed (s.slot k).uid = true →
    let c := clusterOf k
    let old := leNat (s.readLs c off size)
    let t := (s.countFree (coreOf k) 0x06 2).storeLs (dieOf k) c off (leBytes size (atomicValue size op old x.toNat cmp.toNat))
    let clean := fun (u : State) => (u.dropFault (.op k o.id)).dropRequests (.op k o.id)
    exec .atomicHomePerform s =
      .next (((clean t).setOut k { o with st := .returned [.g d (BitVec.ofNat 64 old)] }).owe k []) ∧
    exec .walkBusyResume s = exec .atomicHomePerform s)

/-- R80, R82, R98: WALK_BUSY_RESUME of a store, an atomic or a RED.ORD whose walker met a BUSY node or a copy that is under way.
The walker walks again. While the slot is still BUSY or the copy not over it holds on, with no effect of the access; once the walk
ends at a frame the store leaves, with its stamp, to the frame's page, and is over; the atomic replaces the frame's latest value by
its new one, and the old value comes back. The access is in tenant space, no fault of it is outstanding, and no TLB entry serves
it. -/
def Obligations.WalkResumes : Prop :=
  ∀ (s : State) (k : Nat) (o : Outst) (ea : Dword),
    s.ev.who = k → s.ev.flag = false → s.out? k s.ev.n = some o → o.st = .ready → (s.slot k).mayLeave o = true →
    regionOf ea = .tenant → s.faultOf (.op k o.id) ea = none →
    s.tlbFind (dieOf k) (some (coreOf k)) ((s.rootOf (.tenant o.ten)).getD 0) ea.toNat = none →
    let r := s.writeWalk (.tenant o.ten) ea.toNat
    let at_ := fun (pa : Nat) => pa + ea.toNat % 65536
    let ends := fun (pa : Nat) => r.2 = .frame pa ∧ ∃ sp e x, r.1.walk (.tenant o.ten) ea.toNat = .leaf sp e x
    ((∃ bs, o.op = .store [(ea, bs)]) ∨ (∃ n op x cmp sc d, o.op = .atomic ea n op x cmp sc d) ∨
        (∃ n x t sc d, o.op = .redord ea n x t sc d false) →
      (∀ n, r.2 = .busy n → exec .walkBusyResume s = .next r.1) ∧
      (∀ n, r.2 = .copying n → exec .walkBusyResume s = .next { r.1 with
        copies := r.1.copies.map fun c => if c.n = n then { c with who := some (.op k o.id, ea) } else c })) ∧
    (∀ bs pa, o.op = .store [(ea, bs)] → ends pa → r.1.announceRoom (dieOf k) = true → ∃ t, exec .walkBusyResume s = .next t ∧
      t.out? k o.id = none ∧ t.mem = r.1.mem ∧
      t.writes = r.1.writes ++
        [⟨r.1.nextN, (s.slot k).uid, dieOf k, r.1.stampOf (dieOf k), .bytes (at_ pa) bs, false, 0, []⟩]) ∧
    (∀ n op x cmp sc d pa, o.op = .atomic ea n op x cmp sc d → ends pa → r.1.announceRoom (dieOf k) = true →
      r.1.canPerformNow (dieOf k) (at_ pa) n = true → r.1.oldFrame (at_ pa) = false →
      let old := leNat (r.1.readHome (at_ pa) n)
      let need := r.1.producers (dieOf k) (at_ pa) n
      ∃ t, exec .walkBusyResume s = .next t ∧
        (t.out? k o.id).map (fun u => u.st) = some (if sc = .strand then .returned [.g d (BitVec.ofNat 64 old)]
          else .after need [.g d (BitVec.ofNat 64 old)]) ∧
        t.writes.any (fun w => w.n == r.1.nextN && w.performed) = true)

/-! ### Strands -/

/-- R357, R360: SPAWN pushes the continuation at the near end of its core's deque, and the child goes on in the slot at ga with
the parent's g1–g12 and join block gb, every other register void; a join block's COUNT goes up by one. The join block is 0 or
lies in the own local store, and the deque has room; the record stands in the deque's part of the plinth too (R249). R362: JOIN
waits while W is set; at a join block of the own local store it goes on when COUNT is 0; otherwise its record stands at the block's
second 128 bytes, the join word holds W and this core, and the slot is empty. The model also waits while the claim bit 62 of the
join word is set, which is the model's own (log entry 20). -/
def Obligations.SpawnAndJoin : Prop :=
  (∀ (s : State) (a b : BitVec 5) (g : BitVec 3) (off : Nat),
    let k := s.focus
    let x := s.slot k
    let jb := x.readG b
    Ready s g true [.g a, .g b] [] → x.suspHeld = false → x.noRecord = false → (s.core (coreOf k)).deque.length < 64 →
    s.objTrap k (x.readG a) 4 2 4 false = none →
    (jb = 0 ∨ (regionOf jb = .own off ∧ s.objTrap k jb 128 7 8 false = none ∧ joinCount (s.lsDword (clusterOf k) off) ≠ 0xFFFFFFFF)) →
    ∃ t, exec (.spawn a b g) s = .next t ∧
      (t.core (coreOf k)).deque = (s.core (coreOf k)).deque ++ [s.recOf k (x.replay.getD (x.pc + 4))] ∧
      (t.slot k).pc = x.readG a ∧ (t.slot k).joinblk = jb ∧ (t.slot k).occ = x.occ ∧ (t.slot k).g = x.g ∧
      (∀ n : Fin 32, (t.slot k).gst[n] = if 13 ≤ n.val then .void else x.gst[n]) ∧
      (∀ n : Fin 8, (t.slot k).vst[n] = .void) ∧
      t.ls = (if jb = 0 then s.ls
        else s.ls.writeBytes (lsKey (clusterOf k) off) (leBytes 8 (s.lsDword (clusterOf k) off + 1).toNat)).writeBytes
        (lsKey (clusterOf k) (plinthOff (coreOf k) +
          ((s.core (coreOf k)).dqHead + (s.core (coreOf k)).deque.length) % 64 * 128))
        (x.toRec k (x.replay.getD (x.pc + 4))).bytes ∧ t.mem = s.mem) ∧
  (∀ (s : State) (a : BitVec 5) (g : BitVec 3) (off : Nat),
    let k := s.focus
    let x := s.slot k
    let jb := x.readG a
    let j := s.lsDword (clusterOf k) off
    Ready s g true [.g a] [] → x.suspHeld = false → s.objTrap k jb 128 7 8 false = none → regionOf jb = .own off →
    off + 256 ≤ 2 ^ 22 → x.mark = none → x.occ = .active →
    (joinTaken j = true → exec (.join a g) s = .next s) ∧
    (joinTaken j = false → joinCount j = 0 → ∃ t, exec (.join a g) s = .next t ∧ (t.slot k).occ = .active ∧
      (t.slot k).pc = x.replay.getD (x.pc + 4) ∧ (t.slot k).g = x.g ∧
      (∀ n : Fin 32, (t.slot k).gst[n] = if 13 ≤ n.val then .void else x.gst[n]) ∧ SameMemory s t) ∧
    (joinTaken j = false → joinCount j ≠ 0 → x.noRecord = false → ∃ t, exec (.join a g) s = .next t ∧ (t.slot k).occ = .empty ∧
      t.ls = (s.ls.writeBytes (lsKey (clusterOf k) (off + 128)) (x.toRec k (x.replay.getD (x.pc + 4))).bytes).writeBytes
        (lsKey (clusterOf k) off) (leBytes 8 (joinWait j s.pkgid.toNat (coreOf k)).toNat) ∧ t.mem = s.mem))

/-- R363–R366: YIELD puts the record in the core's run queue, or goes on when the queue is full; PARK goes on once its register
is full, whatever the others hold; PARK.E leaves its register empty and waits for nothing; SELF reads the place word; RFILL is
outstanding; MIGR and MIGV inside the package send the record, with gd 0 and for MIGV one v register, and leave the slot waiting
for the answer. -/
def Obligations.StrandResults : Prop :=
  ∀ (s : State) (d a b : BitVec 5) (g v : BitVec 3) (l : BitVec 4),
    let k := s.focus
    let x := s.slot k
    let w := x.readG a
    let r := s.recOf k (x.replay.getD (x.pc + 4))
    (Ready s g true [] [] → x.suspHeld = false → x.mark = none → x.occ = .active →
      (x.noRecord = false → (s.core (coreOf k)).runq.length < 32 → ∃ t, exec (.yield g) s = .next t ∧ (t.slot k).occ = .empty ∧
        (t.core (coreOf k)).runq = (s.core (coreOf k)).runq ++
          [{ r with age := s.timer.toNat, place := (s.core (coreOf k)).runPlace }] ∧
        t.ls = s.ls.writeBytes (lsKey (clusterOf k) (plinthOff (coreOf k) + (0x2000 + (s.core (coreOf k)).runPlace * 128))) r.bytes) ∧
      (x.noRecord = false → 32 ≤ (s.core (coreOf k)).runq.length →
        exec (.yield g) s = .next ((s.issued 4).modSlot k fun y => y.voidAtPoint none)) ∧
      (d.toNat ≤ 12 → x.gState d = .full → exec (.park d g) s = .next ((s.issued 4).modSlot k fun y => y.voidAtPoint none))) ∧
    (Ready s g true [] [] →
      exec (.parkE d g) s = .next ((s.issued 4).modSlot k fun y => y.mark_ (.g d) .empty)) ∧
    (Ready s g true [] [.g d] → x.pureBound = false →
      exec (.self d g l) s = .next (s.depart (s.issued 4) l (.compute [.g d (placeWord s.pkgid k)]) [.g d])) ∧
    (Ready s g true [.g a, .g b] [.g d] → placeCluster w < 40 → x.pureBound = false →
      exec (.rfill d a b g l) s = .next
        (s.depart (s.issued 4 true) l (.rfill (placeSlot w) (BitVec.ofNat 5 (w.toNat % 32)) (x.readG b) d) [.g d])) ∧
    (d.toNat ≤ 12 → x.suspHeld = false → x.noRecord = false → placeCluster w < 40 → placePkg w = s.pkgid.toNat →
      let posted := fun (t : State) (q : StrandRec) => (t.slot k).occ = .migrating s.nextN ∧
        t.msgs = s.msgs ++ [{ Msg.to 1 (placeCore w) with
          n := s.nextN, src := k, uid := x.uid, mbox := d.toNat, record := some q, stn := some (clusterOf k) }]
      (Ready s g true [.g a] [.g d] → ∃ t, exec (.migr d a g) s = .next t ∧ posted t (r.setG d 0)) ∧
      (Ready s g true [.g a, .v v] [.g d] → ∃ t, exec (.migv d a v g) s = .next t ∧
        posted t { r.setG d 0 with vreg := some (v, x.readV v) }))

/-- R139–R141, R362, R363, R365: records arrive at run queues, enter deques, are stolen and start in empty slots; the answer to a
MIGR empties the slot or, REFUSED, writes 6 into gd, and a strand whose task has faulted meanwhile is stopped (R131); an RFILL is
delivered to a full or void register. R117, R245, R280: what a strand that starts from a record finds in its slot, when no
displacement made the record; its PC is a multiple of 4 (R306). -/
def Obligations.StrandSteps : Prop :=
  (∀ (s : State) (k : Nat) (m : Msg) (r : StrandRec), s.ev.who = k →
    (∀ (n : Nat), s.msg? k 1 = some m → m.record = some r → s.msgTurn m = true → (s.core m.core).fwd = none →
      s.moveInto m.core = false → (s.slot m.src).occ = .migrating n → n = m.n →
      ((s.core m.core).runq.length < 32 → ∃ t, exec .runQueueArrive s = .next t ∧
        (t.core m.core).runq = (s.core m.core).runq ++
          [{ r with age := s.timer.toNat, place := (s.core m.core).runPlace }]) ∧
      (32 ≤ (s.core m.core).runq.length → exec .runQueueArrive s = .next (((s.dropMsg m.n).postMsg
        { Msg.to 2 (coreOf m.src) with
          src := m.src, mbox := m.mbox, bytes := [6, BitVec.ofNat 8 ((r.vreg.map (·.1.toNat)).getD 255)]
          stn := some (m.core / 4) }).1))) ∧
    (∀ (n : Nat) (st vr : Byte), (s.slot k).occ = .migrating n → s.msgs.find? (fun u => decide (u.kind = 2 ∧ u.src = k)) = some m →
      m.bytes = [st, vr] → s.msgTurn m = true →
      (st = 0 → exec .migrAnswer s = .next ((s.dropMsg m.n).leave k)) ∧
      (st = 6 → m.mbox < 32 → m.mbox ≠ 0 → ∃ t, exec .migrAnswer s = .next t ∧
        (t.slot k).occ = (if s.taskStopped (s.slot k).owner (s.slot k).tenant then .stopped else .active) ∧
        (t.slot k).readG (BitVec.ofNat 5 m.mbox) = 6 ∧ (t.slot k).pc = (s.slot k).replay.getD ((s.slot k).pc + 4) ∧
        (∀ v : Fin 8, vr.toNat = v.val → (t.slot k).v[v] = (s.slot k).v[v] ∧ (t.slot k).vst[v] = (s.slot k).vst[v]))) ∧
    (∀ (u : State) (key : Nat) (jb : Dword), s.msg? k 3 = some m → m.record = some r → s.msgTurn m = true →
      (s.core m.core).fwd = none → s.moveInto m.core = false →
      s.pushNear m.core r = some u → m.join = some (key, jb) → 2 ^ 50 ≤ key → key < 2 ^ 64 → ∃ t, exec .joinRecordPush s = .next t ∧
        t.cores = u.cores ∧ t.msgs = s.msgs.filter (fun x => x.n ≠ m.n) ∧ t.ls = u.ls.writeBytes (key - 2 ^ 50)
          (leBytes 8 (leNat (u.ls.readBytes (key - 2 ^ 50) 8) % 2 ^ 63))) ∧
    (∀ (q : Request) (bs : List Byte), s.msg? k 4 = some m → m.record = some r →
      s.requests.find? (fun q => decide (q.who = .device m.n)) = some q → q.answer = some (6, bs) →
      q.since + 1024 ≤ s.timer.toNat →
      exec .joinRecordRetry s = .next ((s.dropRequests (.device m.n)).sendJoin m r)) ∧
    ((s.slot k).occ = .empty → s.urgentSlot k = false → (s.core (coreOf k)).fwd = none → s.moveInto (coreOf k) = false →
      (∀ c, s.takeRec (coreOf k) = some (r, c) →
        exec .slotFill s = .next ((s.setCore (coreOf k) { c with asleep := false }).startRec k r)) ∧
      (∀ q, s.takeRec (coreOf k) = none → s.dispatchFor (coreOf k) = false → s.stealFrom k = some q →
        s.farEnd q = some r → r.ctx = none → ∃ t, exec .steal s = .next t ∧ (t.slot k).pc = r.pc &&& ~~~ 3 ∧
          (t.slot k).owner = r.owner ∧ (t.slot k).tenant = r.tenant)) ∧
    ((s.slot k).occ = .active → (s.die (dieOf k)).deck.length < 65536 →
      exec .deckRoomResume s = .next (s.modCore (coreOf k) fun c => { c with asleep := false }))) ∧
  (∀ (s : State) (k : Nat) (r : StrandRec), r.ctx = none → r.vreg = none →
    let y := (s.startRec k r).slot k
    y.pc = r.pc &&& ~~~ 3 ∧ (∀ n : Fin 12, y.g[n.val + 1] = r.g.getD n.val 0 ∧
      y.gst[n.val + 1] = if r.pw.getLsbD (8 + n.val) then .void else .full) ∧
    (∀ n : Fin 32, 13 ≤ n.val → y.gst[n] = .void) ∧ (∀ n : Fin 8, y.vst[n] = .void) ∧ (∀ n : Fin 4, 1 ≤ n.val → y.mst[n] = .void) ∧
    y.readP 0 = true ∧ (∀ n : BitVec 3, n ≠ 0 → y.readP n = r.pw.getLsbD n.toNat) ∧
    y.mode = r.flags.getLsbD 5 ∧ y.pt = r.flags.getLsbD 0 ∧ y.cls = r.flags.getLsbD 1 ∧ y.prio = r.flags.extractLsb' 2 2 ∧
    y.tenant = r.flags.extractLsb' 16 16 ∧ y.joinblk = r.joinblk ∧ y.owner = r.owner ∧ y.frozen = false ∧
    y.outs = [] ∧ y.timecmp = 0 ∧ y.migthr = 0x400 ∧ y.dirty = 0x1FFFFFFFE ∧ y.vdirty = 0xEFF)

/-! ### Messages, tasks and control registers -/

/-- R367–R369: MSEND and MRECV issue with the place, mailbox and address that they read, MPEEK with the number of dwords of its
mailbox; a message enters an empty mailbox, or the pending queue behind a full one, and is REFUSED (6) when that is full. -/
def Obligations.MessageResults : Prop :=
  ∀ (s : State) (d a b : BitVec 5) (g : BitVec 3) (l : BitVec 4),
    let k := s.focus
    let x := s.slot k
    (Ready s g true [.g a, .g b] [.g d] → x.acquiring = false → x.pt = false → placeCluster (x.readG a) < 40 →
      s.objTrap k (x.readG b) 8 3 (8 * ((x.readG a).toNat / 2 ^ 56)) false = none → exec (.msend d a b g l) s =
        .next (s.depart (s.issued 4 true) l (.msend (x.readG a) (x.readG b) none d) [.g d])) ∧
    (Ready s g true [.g a, .g b] [.g d] → x.acquiring = false → x.pt = false → s.accessTrap k (x.readG b) 8 true = none →
      exec (.mrecv d a b g l) s =
        .next (s.depart (s.issued 4) l (.mrecv ((x.readG a).toNat % 16) (x.readG b) none d) [.g d])) ∧
    (Ready s g true [.g a] [.g d] → x.pt = false → ∀ bs,
      (s.core (coreOf k)).mbox.get (mboxFin ((x.readG a).toNat % 16)) = bs → exec (.mpeek d a g l) s =
        .next (s.depart (s.issued 4) l (.compute [.g d (BitVec.ofNat 64 ((bs.map List.length).getD 0))]) [.g d])) ∧
    (∀ m, s.msg? s.ev.who 0 = some m → s.msgTurn m = true → (s.core m.core).fwd = none → s.moveInto m.core = false →
      let q := s.core m.core
      (q.mbox.get (mboxFin m.mbox) = none → ∃ t, exec .mailboxDeliver s = .next t ∧
        (t.core m.core).mbox.get (mboxFin m.mbox) = some m.bytes ∧ t.msgs = s.msgs.filter fun u => u.n ≠ m.n) ∧
      (q.mbox.get (mboxFin m.mbox) ≠ none → q.mpend.length < 16 → ∃ t, exec .mailboxDeliver s = .next t ∧
        (t.core m.core).mpend = q.mpend ++ [(m.mbox % 16, m.bytes)] ∧ t.msgs = s.msgs.filter fun u => u.n ≠ m.n) ∧
      (∀ o e p y, q.mbox.get (mboxFin m.mbox) ≠ none → 16 ≤ q.mpend.length → m.device = false →
        (s.slot m.src).outs = [o] → o.op = .msend p e (some m.n) y →
        exec .mailboxDeliver s = .next ((s.dropMsg m.n).complete m.src o [.g y 6])))

/-- R371, R373, R374: TCARD; TPOST of a card that has been posted (3) and of a ready one, which is queued with STATUS 1 (0); QPUSH
and QPOP of the Dealer queue and of a queue that does not exist; QPOP of an empty queue, and of the fault queue into the own
local store; QPOP.W. R372, R361: TDONE of a strand without a join block, or of a SWEEP worker, ends its task's or worker's
strand and empties the slot; with a join block in the own local store it lowers COUNT by one, once its package release is
complete. R131, R186: a strand that ends in a trap which its handler has not resumed faults its task instead (log entry 51). -/
def Obligations.TaskResults : Prop :=
  (∀ (s : State) (d a b : BitVec 5) (g : BitVec 3) (l : BitVec 4),
    let k := s.focus
    let x := s.slot k
    let A := x.readG a
    let B := x.readG b
    let die := dieOf k
    let gives := fun (i : Instr) (u : State) (v : Dword) =>
      exec i s = .next (s.depart ((u.dropFault (.op k s.nextN)).dropRequests (.op k s.nextN)) l (.compute [.g d v]) [.g d])
    x.pt = false → x.acquiring = false →
    (Ready s g true [] [.g d] → exec (.tcard d g l) s = .next (s.depart (s.issued 4) l (.compute [.g d x.owner]) [.g d])) ∧
    (Ready s g true [.g a] [.g d] →
      exec (.qpopW d a g l) s = .next (s.depart (s.issued 4) l (if A = 17 then .qpopw d else .compute [.g d 1]) [.g d]) ∧
      (∀ pa, regionOf A = .tenant → A.toNat % 128 = 0 → s.strandLaunch x.owner x.tenant = none →
        (s.issued 4).Mapped (s.whoIssue d) A 128 4 1 pa → s.issueBlocked k [(A, 128)] = false →
        let img := s.readView die pa 128
        (cardStatus img ≠ 0 → cardStatus img ≠ 3 → gives (.tpost d a g l) (s.issued 4) 3) ∧
        (∀ pb, (cardStatus img = 0 ∨ cardStatus img = 3) → cardPredcnt img = 0 → cardBad img x.tenant = none →
          (s.queueOf (homeDie pa) (cardStage img)).length < queueCap (cardStage img) → s.cardTask A x.tenant = none →
          s.heldFor (homeDie pa) (cardStage img) = false → s.announceRoom die = true →
          (s.issued 4).Writable (s.whoIssue d) (A + 0x30) 1 5 pb →
          ∃ t, exec (.tpost d a g l) s = .next t ∧ (t.slot k).lastGives [.g d 0] ∧
            t.queueOf (homeDie pa) (cardStage img) = s.queueOf (homeDie pa) (cardStage img) ++ [s.nextN + 1] ∧
            (t.cardTask A x.tenant).map (fun z => (z.n, z.phase, z.img)) = some (s.nextN + 1, .queued, img) ∧
            t.writes = s.writes ++ [⟨s.nextN, x.uid, die, s.stampOf die, .bytes pb [1], false, 0, []⟩]))) ∧
    (Ready s g true [.g a, .g b] [.g d] →
      (15 < A.toNat → A ≠ 17 → gives (.qpush d a b g l) (s.issued 4) 4) ∧
      (A = 17 → B.toNat % 64 = 0 → (s.die die).dealer.length < 4096 → gives (.qpush d a b g l)
        ((s.issued 4).modDie die fun y => { y with dealer := y.dealer ++ [B] }) 0) ∧
      (17 < A.toNat → gives (.qpop d a b g l) (s.issued 4) 1) ∧
      (A = 17 → (s.die die).dealer = [] → gives (.qpop d a b g l) (s.issued 4) 0) ∧
      (∀ v rest, A = 17 → (s.die die).dealer = v :: rest → gives (.qpop d a b g l)
        ((s.issued 4).modDie die fun y => { y with dealer := rest }) v) ∧
      (x.mode = true → A.toNat ≤ 15 → s.firstTask die A.toNat = none → gives (.qpop d a b g l) (s.issued 4) 0) ∧
      (∀ f rest off, x.mode = true → A = 16 → (s.die die).faultq = f :: rest → f.length = 32 → regionOf B = .own off →
        off % 32 = 0 → (∀ o ∈ x.outs, o.readPending = false ∧ o.writePending = false) → ∃ t, exec (.qpop d a b g l) s = .next t ∧ (t.slot k).lastGives [.g d 1] ∧
          t.ls = s.ls.writeBytes (lsKey (clusterOf k) off) f ∧ (t.die die).faultq = rest))) ∧
  (∀ (s : State) (g : BitVec 3),
    let k := s.focus
    let x := s.slot k
    Ready s g true [] [] → x.suspHeld = false → s.urgentSlot k = false →
    (∀ e : Byte × Byte × Dword × Dword, x.unresumed = some e →
      (s.die (dieOf k)).faultq.length + (s.die (dieOf k)).faultWait.length < 1024 →
      exec (.tdone g) s = .next ((((s.issued 4).postFaultEntry (dieOf k) (faultEntry x.owner e.1 e.2.1 (whereWord k) e.2.2.1 e.2.2.2)
        (s.taskNo x)).leave k).answered k)) ∧
    (x.unresumed = none → x.sw = true ∨ x.joinblk = 0 → exec (.tdone g) s = .next ((((s.issued 4).strandEnded x).leave k).answered k)) ∧
    (∀ off, x.unresumed = none → x.sw = false → x.joinblk ≠ 0 → s.ownerTask x.owner x.tenant = none → s.sweepLaunch x.owner = none →
      (s.issued 4).released k .package = true → regionOf x.joinblk = .own off →
      let j := s.lsDword (clusterOf k) off
      joinCount j ≠ 0 → (joinCount j = 1 → joinW j = false) → ∃ t, exec (.tdone g) s = .next t ∧ (t.slot k).occ = .empty ∧
        t.ls = s.ls.writeBytes (lsKey (clusterOf k) off) (leBytes 8 (j - 1).toNat)))

/-- R391, R392: CSRR reads its register; CSRW, CSRS, CSRC and CSRFI write the new value, at once or through the unit that holds
the register; R389, R390: SYSC without a tenant gives all ones, and with one sends a SYSCALL and leaves gd empty; SLEEP takes
its limit. R321, R322: what a control register that software writes at once reads as afterwards. -/
def Obligations.ControlRegisters : Prop :=
  (∀ (s : State) (d a n m v p : BitVec 5) (g : BitVec 3) (q : BitVec 2) (c : BitVec 12),
    let k := s.focus
    let x := s.slot k
    let r := (csrNumber q n m).toNat
    let old := s.csr k r
    let writes := fun (r : Nat) (v : Dword) => if csrPosted r then
        s.modSlot k fun y => { y with cmd := some (r, if r = 0x0E1 then keepBits v 63 46 else v) }
      else (s.issued 4).writeCsr k r v
    (csrAssigned (csrNumber q n m) = true → Ready s g false [] [.g d] → s.csrTrap k r true false 0 = none →
      exec (.csrr d n m g q) s = .next ((s.issued 4).writeG k d old)) ∧
    (csrAssigned (csrNumber q n m) = true → Ready s g false [.g a] [] → x.acquiring = false →
      (s.csrTrap k r false true (x.readG a) = none → exec (.csrw a n m g q) s = .next (writes r (x.readG a))) ∧
      (s.csrTrap k r true true (old ||| x.readG a) = none → exec (.csrs a n m g q) s = .next (writes r (old ||| x.readG a))) ∧
      (s.csrTrap k r true true (old &&& ~~~ x.readG a) = none →
        exec (.csrc a n m g q) s = .next (writes r (old &&& ~~~ x.readG a)))) ∧
    (csrAssigned c = true → Ready s g false [] [] → x.acquiring = false →
      let new := setBits (s.csr k c.toNat) (min 63 (p.toNat + 4)) p.toNat v.toNat
      s.csrTrap k c.toNat true true new = none → exec (.csrfi v p g c) s = .next (writes c.toNat new)) ∧
    (Ready s g false (.g a :: (List.range 8).map fun i => .g (BitVec.ofNat 5 (4 + i))) [.g d] → x.pt = false →
      (x.tenant = 0 → exec (.sysc d a g) s = .next ((s.issued 4 true).writeG k d (BitVec.allOnes 64))) ∧
      (∀ i, x.tenant ≠ 0 → d ≠ 0 → s.freeSys (dieOf k) = some i → (s.qp (s.sysQp x.tenant)).opened = true →
        ∃ t, exec (.sysc d a g) s = .next t ∧ (t.slot k).gState d = .empty ∧ (t.slot k).sysc = x.sysc + 1 ∧
          ∃ tag, t.out = s.out ++ [.frame (s.sysQp x.tenant) (s.syscall k tag ((x.readG a).extractLsb' 0 32))])) ∧
    (Ready s g false [.g a] [] → exec (.sleep a g) s =
      .next ((s.issued 4).modSlot k fun y => { y with sleeping := some (x.readG a) }))) ∧
  (∀ (s : State) (k : Nat) (v : Dword),
    let after := fun (n : Nat) => (s.writeCsr k n v).csr k n
    ((s.slot k).frozen = false → after 0x001 = v &&& 0x1FFFF ∧ after 0x002 = v ∧ after 0x003 = v ∧ after 0x004 = v &&& 0x1FFFFF) ∧
    ((s.slot k).frozen = true → ∀ n ∈ [0x001, 0x002, 0x003, 0x004], after n = s.csr k n) ∧
    after 0x005 = v &&& 0x3FFFC ∧ after 0x006 = v ∧ after 0x009 = v ∧ after 0x00B = v &&& 0xFFFFFFFF ∧
    after 0x010 = v &&& 0xFFFF ∧ after 0x015 = v &&& 0xFFFF ∧
    after 0x060 = (s.slot k).dirty &&& ~~~ v ∧ after 0x061 = (s.slot k).vdirty &&& ~~~ v ∧
    after 0x070 = v &&& 0x8000FFFF ∧ after 0x086 = v &&& 0x80000000FFFFFFFF ∧ after 0x0E0 = v &&& ~~~ 2 ∧
    (∀ n ∈ [0x000, 0x007, 0x008, 0x011, 0x012, 0x013, 0x014, 0x018, 0x01D, 0x080, 0x085, 0x0A9, 0x0B1, 0x0E2], after n = s.csr k n))

/-- R83, R198, R255, R266, R267, R391: what the units do with the posted writes of the registers that they hold, after which the
slot goes on. -/
def Obligations.RegisterSteps : Prop :=
  ∀ (s : State) (k : Nat) (v : Dword), s.ev.who = k →
    let c := coreOf k
    (s.cmd? k 0x0A0 = some v → exec .registerWrite s = .next (({ s with castcfg := keepBits v 63 62 } : State).finishCmd k)) ∧
    (s.cmd? k 0x094 = some v → exec .registerWrite s = .next (({ s with ckrecv := v &&& ~~~ 15 } : State).finishCmd k)) ∧
    (∀ n ∈ [0x090, 0x091, 0x0E3], s.cmd? k n = some v → exec .registerWrite s = .next ((s.writeShared k n v).finishCmd k)) ∧
    (s.cmd? k 0x040 = some v → ∃ t, exec .evselWrite s = .next t ∧ (t.core c).evctr = v.extractLsb' 60 4 ∧
      (t.core c).evsel.get (mboxFin (bits v 63 60)) = v.extractLsb' 0 8 ∧ (t.slot k).cmd = none) ∧
    (∀ off, s.ls.wf = true → s.cmd? k 0x0D0 = some v → regionOf (v &&& 0x00FFFFFFFFFFFF00) = .own off → ∃ t, exec .evgath s = .next t ∧
      (t.slot k).cmd = none ∧ (∀ i, i < 16 → t.lsDword (clusterOf k) (off + 8 * i) =
        s.lsDword (clusterOf k) (off + 8 * i) + ((s.core c).evc.get (mboxFin i)).setWidth 64) ∧
      t.lsDword (clusterOf k) (off + 128) = s.lsDword (clusterOf k) (off + 128) + 1) ∧
    (∀ r, s.cmd? k 0x084 = some v → s.rootOf (if v.getLsbD 1 then .stream (bits (s.slot k).statesel 31 0) else .tenant (s.slot k).tenant)
      = some r → exec .tlbinv s = .next ((if v.getLsbD 0 then { s with tlb := s.tlb.filter fun (t : TlbEntry) => t.root ≠ r }
        else s.tlbDrop r (v.toNat / 2 ^ 16 % 2 ^ 40 * 65536)).finishCmd k)) ∧
    (s.cmd? k 0x0A1 = some v → exec .caststatClear s = .next ((s.modDie (dieOf k) fun d => { d with caststat := 0 }).finishCmd k)) ∧
    (s.cmd? k 0x020 = some v → s.accBusy k v = false → (s.core c).accmask &&& ~~~ v.extractLsb' 0 8 = 0 →
      ∃ t, exec .accumClaim s = .next t ∧ (t.core c).accmask = v.extractLsb' 0 8 ∧ (t.slot k).cmd = none ∧
        ∀ i : Fin 8, v.getLsbD i.val = true → (s.core c).accmask.getLsbD i.val = false →
          (t.cluster (c / 4)).accHold.get i = some c ∧ (t.cluster (c / 4)).kend.get i = false) ∧
    (s.cmd? k 0x020 = some v → (∀ i : Fin 8, v.getLsbD i.val = true → (s.core c).accmask.getLsbD i.val = true) →
      (∀ i : Fin 8, s.accInUse c i.val = false) → ∃ t, exec .accumRelease s = .next t ∧
        (t.core c).accmask = v.extractLsb' 0 8 ∧ (t.slot k).cmd = none ∧
        ∀ i : Fin 8, v.getLsbD i.val = false → (s.core c).accmask.getLsbD i.val = true →
          (t.cluster (c / 4)).accHold.get i = none)

/-- R280–R283: SAVE of a slot whose strand is quiet writes every full register and the PC to the slot's area and empties the slot;
RESTORE gives an empty slot what its area holds; LSSAVE and LSLOAD move one page a step, and the records and messages that the
hardware keeps in a plinth are those of the restored bytes; MOVE sets the forwarding entry and then moves; a fill that waits at the
source goes on to the target, and FWDCLR ends the entry once none waits. R319: a fill of a slot that holds no strand is lost, and
counted (R283). -/
def Obligations.SaveSteps : Prop :=
  (∀ (s : State) (k : Nat) (v : Dword), s.ev.who = k → s.cmd? k 0x0E1 = some v →
    let t := saveTarget k v
    let x := s.slot t
    let done := fun (u : State) => (u.modCore (coreOf k) fun c => { c with savestat := 0 }).finishCmd k
    let w := { s.whoSlot k (.issue k) with tenant := 0 }
    (s.ls.wf = true → saveOp v = 0 → v.getLsbD 59 = false → t ≠ k → s.urgentSlot t = false → x.occ = .active → x.outs = [] → x.fatals = [] →
      x.due = none → x.cmd = none → x.replay = none → x.anyEmpty = false → s.allVisible x.uid = true →
      x.seen.all (s.viewCovers (dieOf t)) = true → s.owing t = false →
      ∃ u, exec .slotSave s = .next u ∧ (u.slot t).occ = .empty ∧ (u.core (coreOf k)).savestat = 0 ∧
        u.areaDword t 0x11D8 = x.pc ∧
        (∀ n : BitVec 5, x.gState n = .full → u.areaDword t (0x1000 + 8 * n.toNat) = x.readG n)) ∧
    (saveOp v = 1 → t ≠ k → s.urgentSlot t = false → x.occ = .empty → s.areaBad t = false →
      exec .slotRestore s = .next (done (({ s.setSlot t (s.areaSlot t) with nextN := s.nextN + 1 } : State).dropTrap (s.areaSlot t)))) ∧
    (∀ pa, saveOp v = 2 → bits v 45 0 < 64 → s.Writable w (s.streamVa k (bits v 45 0)) 65536 5 pa → s.announceRoom w.die = true →
      exec .lssave s = .next (((s.postWrite w.die w.uid
        (.frame pa (sliceMem s.ls (lsKey (clusterOf k) (bits v 45 0 * 65536)) 65536))).1).streamNext k v)) ∧
    (∀ bs, saveOp v = 3 → bits v 45 0 < 64 → readMem w (s.streamVa k (bits v 45 0)) 65536 4 s = .ok (bs, s) →
      let u := s.storeLs w.die (clusterOf k) (bits v 45 0 * 65536) bs
      exec .lsload s = .next ((if bits v 45 0 < 60 then u else u.rereadPlinth (clusterOf k * 4 + (bits v 45 0 - 60))).streamNext k v)) ∧
    (saveOp v = 4 → (s.core (coreOf k)).moving = true →
      exec .coreMove s = .next (done (s.moveCore k (moveTarget v)))) ∧
    (saveOp v = 4 → (s.core (coreOf k)).moving = false → bits v 53 48 < 40 → s.moveOk k (moveTarget v) = true →
      (s.core (moveTarget v)).runq = [] → (s.core (moveTarget v)).deque = [] →
      (∀ j ∈ s.movedSlots k, (s.slot j).outs = [] ∧ (s.slot j).cmd = none ∧ (s.slot j).due = none ∧ (s.slot j).fatals = [] ∧
        (s.slot j).replay = none ∧ ((s.slot j).occ = .active ∨ (s.slot j).occ = .empty)) →
      exec .coreMove s = .next (s.modCore (coreOf k) fun c => { c with fwd := some (moveTarget v), moving := true })) ∧
    (saveOp v = 5 → (s.core (coreOf k)).fwdq = [] →
      exec .fwdclr s = .next (done (s.modCore (coreOf k) fun c => { c with fwd := none }))) ∧
    (saveOp v = 5 → (s.core (coreOf k)).fwdq ≠ [] → exec .fwdclr s = .next s)) ∧
  (∀ (s : State) (k : Nat) j r y sys rest c, s.ev.who = k → (s.core k).fwdq = (j, r, y, sys) :: rest → (s.core k).fwd = some c →
    (s.core k).moving = false → c ≠ k →
      exec .forwardDeliver s = .next ((s.modCore k fun z => { z with fwdq := rest }).deliverFill (8 * c + j % 8) r y sys)) ∧
  (∀ (s : State) (k : Nat) r y sys, (s.slot k).holdsStrand = false → (s.core (coreOf k)).fwd = none →
    s.deliverFill k r y sys = s.modDie (dieOf k) fun d => { d with drops := d.drops + 1 })

/-! ### Streams, casts and grammars -/

/-- R158, R159, R164, R170, R375–R384: the stream instructions on a stream of the strand's tenant. A stream in the listed states
passes the checks; the result is outstanding for gd. SFORK gives the child's id; SSTEP steps the layer; SRET adds to RETURN;
SJOIN gives the group's members; SRETIRE ends the stream; SSTOP stops it (0) unless STOPCODE is set (1). R381–R383, R379:
SEVICT, SMIG, SSTAT and SJOIN.OPEN. R154, R158: what a layer step, and the settling of a stream, leave in the fields of a
block of 256 bytes. -/
def Obligations.StreamResults : Prop :=
  (∀ (s : State) (d a b : BitVec 5) (g : BitVec 3) (l : BitVec 4),
    let k := s.focus
    let x := s.slot k
    let t := s.issued 4
    let id := bits (x.readG a) 31 0
    let B := x.readG b
    let r := s.scb id
    let clean := fun (u : State) => (u.dropFault (.op k s.nextN)).dropRequests (.op k s.nextN)
    let gives := fun (i : Instr) (u : State) (v : Dword) => exec i s = .next (s.depart (clean u) l (.compute [.g d v]) [.g d])
    x.pt = false → x.acquiring = false → sidOk id = true → scbTenant r = x.tenant →
    (Ready s g true [.g a] [.g d] →
      (scbPinned r = true → scbState r = 6 → gives (.sstep d a g l) t (BitVec.ofNat 64 (3 * 2 ^ 56))) ∧
      (scbPinned r = true → scbState r ≠ 0 → scbState r ≠ 6 → scbHorizon r ≠ 0 →
        let u := t.scbStep id (stepLayer (modelLayers (s.model (scbModel r))))
        gives (.sstep d a g l) u (BitVec.ofNat 64 (scbHorizon (u.scb id) * 2 ^ 16 + scbCursor (u.scb id))))) ∧
    (Ready s g true [.g a, .g b] [.g d] →
      (∀ child, scbState r ∈ [1, 2, 3, 4] → scbGroup r = 0 → s.freeStream (scbHome id) = some child →
        (s.nodeDesc (scbRoot r)).refcnt ≠ 0xFFFFFFFF → gives (.sfork d a b g l) (t.fork id child B) (BitVec.ofNat 64 child)) ∧
      (scbState r = 6 → scbPinned r = true → gives (.sret d a b g l) t (BitVec.ofNat 64 (3 * 2 ^ 56))) ∧
      (scbState r ≠ 0 → scbState r ≠ 6 →
        let v := Fp.f32.add (scbReturn r) (B.toNat % 2 ^ 32)
        gives (.sret d a b g l) (t.scbStep id fun r => wr r 0x34 4 v) (BitVec.ofNat 64 v)) ∧
      (scbGroup r = 0 → scbState r ≠ 0 → scbState r ≠ 6 → s.groupOpen B.toNat x.tenant = true →
        let u := ({ t with scbs := t.scbs.put id (wr r 0x2C 4 B.toNat) } : State).joinGroup id
        gives (.sjoin d a b g l) u (BitVec.ofNat 64 (((u.group? B.toNat).map (·.members)).getD 0))) ∧
      (scbState r ∈ [1, 2, 3, 4, 5] → B.toNat % 256 ∈ [2, 3, 4] →
        (scbStop r = 0 → gives (.sstop d a b g l) (t.stopStream id (B.toNat % 256)) 0) ∧
        (scbStop r ≠ 0 → gives (.sstop d a b g l) t 1)) ∧
      (∀ bs pa t1 t2 u, scbState r ∈ [1, 2, 3, 4, 5] → actionCount r ≠ 2 ^ scbAlog2 r → s.objTrap k B 8 3 64 false = none →
        let w := s.whoIssue d
        let ws := { w with stream := some id }
        let q := t1.scb id
        let va := BitVec.ofNat 64 (0xFE000000000000 + (rd q 0x10 8 + scbAtail q % 2 ^ scbAlog2 q * 64) % 2 ^ 48)
        s.issueBlocked k [(B, 64)] = false → readMem w B 64 0 t = .ok (bs, t1) → placeWrite ws va 64 1 t1 = .ok (.mem pa, t2) →
        settledWrite ws (.mem pa) bs t2 = .ok ((), u) →
        gives (.sact d a b g l) (u.scbStep id fun r =>
          let q := wr r 0x1A 2 ((scbAtail r + 1) % 65536)
          if scbState q = 3 then setState q 1 else q)
          (BitVec.ofNat 64 (scbAtail q)))) ∧
    (Ready s g true [.g a] [.g 0] → scbState r ∈ [1, 2, 3, 4, 5] → scbEvkind r ≠ 3 → exec (.sretire a g l) s =
      .next (s.depart (clean ((t.scbStep id fun r => wr r 0x1E 1 5).kill id)) l (.compute [.g 0 0]) [.g 0]))) ∧
  (∀ (s : State) (d a b : BitVec 5) (g : BitVec 3) (l : BitVec 4),
    let k := s.focus
    let x := s.slot k
    let t := s.issued 4
    let w := s.whoIssue d
    let id := bits (x.readG a) 31 0
    let B := x.readG b
    let r := s.scb id
    let gives := fun (i : Instr) (u : State) (v : Dword) =>
      exec i s = .next (s.depart ((u.dropFault (.op k s.nextN)).dropRequests (.op k s.nextN)) l (.compute [.g d v]) [.g d])
    x.pt = false → x.acquiring = false →
    (Ready s g true [.g a, .g b] [.g d] → sidOk id = true → scbState r ≠ 0 → scbTenant r = x.tenant →
      (B = 0 → t.candidate id = false → gives (.sevict d a b g l) t (BitVec.ofNat 64 (2 ^ 56))) ∧
      (∀ u, B = 0 → t.candidate id = true → t.evictQuiet id = true →
        t.evict (scbHome id) id State.evictMove = some u →
        gives (.sevict d a b g l) u (BitVec.ofNat 64 (t.exclusivePool id).length)) ∧
      (∀ n u, B = 1 → scbState r = 5 → scbEvkind r ≠ 3 → restoreM w id t = .ok (n, u) →
        gives (.sevict d a b g l) u (BitVec.ofNat 64 n)) ∧
      (B = 1 → scbState r ≠ 5 → scbState r ≠ 2 → gives (.sevict d a b g l) t (BitVec.ofNat 64 (2 ^ 56))) ∧
      (B = 2 → x.mode = true → t.roundQuiet (dieOf k) = true →
        let u := State.evictRound (dieOf k) (bits (s.die (dieOf k)).evlow 63 32) State.evictMove s.scbs.length [] ⟨t, 0, false⟩
        gives (.sevict d a b g l) u.st (BitVec.ofNat 64 u.pages)) ∧
      (2 < B.toNat → gives (.sevict d a b g l) t (BitVec.ofNat 64 (2 ^ 57))) ∧
      (scbGroup r = 0 → scbState r ∈ [1, 3, 4] → bits (x.readG a) 47 32 ≠ s.pkgid.toNat → s.lastPage id = false →
        s.objTrap k B 8 3 8 true = none →
        gives (.smig d a b g l) (t.startMove id (bits (x.readG a) 47 32) B) 0) ∧
      (B = 0 ∨ s.objTrap k B 8 3 256 true = none →
        let u := t.recount id
        let v := BitVec.ofNat 64 (rd (u.scb id) 0 8)
        exec (.sstat d a b g l) s = .next (s.depart u l
          (if B = 0 then .compute [.g d v] else .copyOut B ((u.scb id).take 256) v d) [.g d]))) ∧
    (Ready s g true [.g a, .g b] [.g d] → sidOk id = true → scbState r = 0 → (B = 0 ∨ s.objTrap k B 8 3 256 true = none) →
      exec (.sstat d a b g l) s = .next (s.depart t l (.compute [.g d (BitVec.ofNat 64 id)]) [.g d])) ∧
    (∀ img gid u, Ready s g true [.g a] [.g d] → s.objTrap k (x.readG a) 64 6 64 false = none →
      s.issueBlocked k [(x.readG a, 64)] = false → readMem w (x.readG a) 64 0 t = .ok (img, u) → groupImageBad img = false →
      s.freeGroup (dieOf k) = some gid → u.freeGroup (dieOf k) = some gid →
      gives (.sjoinOpen d a g l)
        { u with groups := u.groups.put gid ⟨wr (wr (wr img 0 4 gid) 4 2 x.tenant.toNat) 0xF 1 1, []⟩ } (BitVec.ofNat 64 gid))) ∧
  (∀ (r : List Byte) (layers : Nat), r.length = 256 →
    let c := scbCursor r
    let q := stepLayer layers r
    q.length = 256 ∧ scbState q = scbState r ∧ scbRoot q = scbRoot r ∧ scbReturn q = scbReturn r ∧
    (c + 1 = layers → scbHorizon r ≠ 0 → scbCursor q = 0 ∧ scbPosition q = (scbPosition r + 1) % 2 ^ 32 ∧
      scbHorizon q = scbHorizon r - 1 ∧ scbAhead q = (scbAhead r + 1) % 65536) ∧
    (c + 1 ≠ layers → c + 1 < 65536 → scbCursor q = c + 1 ∧ scbPosition q = scbPosition r ∧ scbHorizon q = scbHorizon r ∧
      scbAhead q = scbAhead r) ∧
    nextState r = (if scbHorizon r = 0 then 4 else if scbCursor r = 0 ∧ scbAtail r % 65536 = scbAhead r % 65536 then 3 else 1))

/-- R385, R386, R198: the Cast instructions, with the key that the task's card and inputs give; CLOOK finds nothing while
CASTCFG.LOOK is clear. -/
def Obligations.CastResults : Prop :=
  ∀ (s : State) (d a b : BitVec 5) (g : BitVec 3) (l : BitVec 4) (img key : List Byte) (reads : List Nat),
    let k := s.focus
    let x := s.slot k
    let t := s.issued 4
    let w := s.whoIssue d
    let A := x.readG a
    let gives := fun (i : Instr) (u : State) (v : Dword) =>
      exec i s = .next (s.depart ((u.dropFault (.op k s.nextN)).dropRequests (.op k s.nextN)) l (.compute [.g d v]) [.g d])
    x.pt = false → x.acquiring = false →
    (∀ t1 t2, readObj s d A 128 t = .ok (img, t1) → s.objTrap k A 128 7 128 false = none →
      (Ready s g true [.g a, .g b] [.g d] → x.readG b = 0 →
        (taskKey w img t1 = .ok (none, t2) → gives (.clook d a b g l) t2 2) ∧
        (taskKey w img t1 = .ok (some (key, reads), t2) → t2.invalWaits reads = false →
          gives (.clook d a b g l) t2 (if t2.castcfg.getLsbD 63 && (t2.castHit key x.tenant img).isSome then 1 else 0))) ∧
      (Ready s g true [.g a] [.g d] → x.mode = true →
        (taskKey w img t1 = .ok (none, t2) → gives (.cput d a g l) t2 2) ∧
        (∀ c u, taskKey w img t1 = .ok (some (key, reads), t2) → t2.invalWaits reads = false →
          castInsert w false img key reads t2 = .ok (c, u) → gives (.cput d a g l) u (if c then 0 else 1)))) ∧
    (∀ t1, Ready s g true [.g a] [.g d] → readObj s d A 32 t = .ok (key, t1) → s.objTrap k A 8 3 32 false = none →
      (t1.castFind key x.tenant = none → gives (.cinvk d a g l) t1 0) ∧
      (∀ i e, t1.castFind key x.tenant = some (i, e) → gives (.cinvk d a g l) (t1.castFree i) 1)) ∧
    (Ready s g true [.g a] [.g d] → A.toNat % 65536 = x.tenant.toNat →
      let is := (s.cast.filter fun e => e.2.tenant.toNat == x.tenant.toNat).map (·.1)
      gives (.cflusht d a g l) (is.foldl State.castFree t) (BitVec.ofNat 64 is.length))

/-- R206, R207, R420–R424: the grammar instructions. GADV and GCHK follow Run on the token's terminals: REJECT gives all ones, and
ACCEPT without pushed symbols the new state and TOP. ACCEPT with pushed symbols takes a node of the arena for each, whose writes are
outstanding, and gives the new state with the last node as TOP. -/
def Obligations.GrammarResults : Prop :=
  ∀ (s : State) (p : BitVec 3) (d a b : BitVec 5) (g : BitVec 3) (l : BitVec 4),
    let k := s.focus
    let x := s.slot k
    let t := s.issued 4
    let w := t.whoGram k (.issue k)
    let wd := { w with dest := BitVec.ofNat 8 d.toNat }
    let A := x.readG a
    let B := x.readG b
    let id := bits A 31 0
    let tok := bits B 31 0
    let gives := fun (i : Instr) (u : State) (v : Dword) =>
      exec i s = .next ((s.depart u l (.compute [.g d v]) [.g d]).answered k)
    let asks := fun (i : Instr) (c : Dword) (st : Option Nat) => exec i s = .next ((s.askMask t l p c B st).answered k)
    let usable := sidOk id = true ∧ scbState (s.scb id) ≠ 0 ∧ scbState (s.scb id) ≠ 6 ∧ scbTenant (s.scb id) = x.tenant
    x.pt = false → x.acquiring = false →
    (Ready s g true [.g a, .g b] [.g d] → usable → B.toNat % 256 = 0 → gives (.gset d a b g l) (t.setGcfg id 0) 0) ∧
    (∀ y, Ready s g true [.g a, .g b] [.g d] → usable → B.toNat % 256 ≠ 0 → s.gramFor x.tenant (B.toNat % 256) = some y →
      let c := BitVec.ofNat 64 (B.toNat % 256 * 2 ^ 24 + gramStart y.img)
      gives (.gset d a b g l) (t.setGcfg id c) c) ∧
    (Ready s g true [.g a, .g b] [.p p] → s.objTrap k B 64 6 64 true = none →
      (s.cfgBad x.tenant A = none → asks (.gmask p a b g l) A none) ∧
      (usable → s.cfgBad x.tenant (scbGcfg (s.scb id)) = none → asks (.gmaskS p a b g l) (scbGcfg (s.scb id)) (some id))) ∧
    (Ready s g true [.g a, .g b] [.g d] → let f := bits B 43 32
      (s.gramFor x.tenant (cfgGram A) = none → cfgGram A = 0 → gives (.gadv d a b g l) t A) ∧
      (∀ y, s.gramFor x.tenant (cfgGram A) = some y → s.advanceBad x.tenant A tok (some f) = none →
        s.committing (handleArena (cfgTop A)) = false → s.committing f = false →
        (∀ u, runToken wd y.img A tok t = .ok (.reject, u) → gives (.gadv d a b g l) u (BitVec.allOnes 64)) ∧
        (∀ st top n u, runToken wd y.img A tok t = .ok (.accept st top [] n, u) → exec (.gadv d a b g l) s = .next ((s.depart u l
          (.gadv none [] none (BitVec.ofNat 64 (top * 2 ^ 32 + cfgGram A * 2 ^ 24 + st)) d) [.g d]).answered k)) ∧
        (∀ st top ov n r base u v, runToken wd y.img A tok t = .ok (.accept st top ov n, u) → ov ≠ [] →
          let r0 := if cfgTop A = 0 then f else handleArena (cfgTop A)
          u.arenaFor x.tenant r0 = some r → r.next + ov.length ≤ 524287 → topDepth wd top (n - ov.length) u = .ok (base, v) →
          let last := r0 * 2 ^ 20 + (if r.cur then 2 ^ 19 else 0) + r.next + ov.length - 1
          exec (.gadv d a b g l) s = .next ((s.depart
            { v with arenas := v.arenas.put r0 { r with next := r.next + ov.length } } l
            (.gadv (some (nodeAddr r.base r.cur r.next,
                (newNodes r0 r.cur r.next top base ov).flatMap fun z => leBytes 8 z.toNat)) [] none
              (BitVec.ofNat 64 (last * 2 ^ 32 + cfgGram A * 2 ^ 24 + st)) d) [.g d]).answered k))) ∧
      (∀ y, usable →
        let c := scbGcfg (s.scb id)
        s.gramFor x.tenant (cfgGram c) = some y → s.advanceBad x.tenant c tok (some f) = none →
        s.committing (handleArena (cfgTop c)) = false → s.committing f = false →
        (∀ u, runToken wd y.img c tok t = .ok (.reject, u) → gives (.gadvS d a b g l) u (BitVec.allOnes 64)) ∧
        (∀ st top n u, runToken wd y.img c tok t = .ok (.accept st top [] n, u) → exec (.gadvS d a b g l) s = .next ((s.depart u l
          (.gadv none [] (some id) (BitVec.ofNat 64 (top * 2 ^ 32 + cfgGram c * 2 ^ 24 + st)) d) [.g d]).answered k)))) ∧
    (∀ y e u (ok : Bool), (ok = true ↔ ∃ st top ov n, e = .accept st top ov n) → Ready s g true [.g a, .g b] [.p p] →
      s.gramFor x.tenant (cfgGram A) = some y → s.advanceBad x.tenant A tok none = none →
      runToken w y.img A tok t = .ok (e, u) → exec (.gchk p a b g l) s =
        .next ((s.depart u l (.compute [.p p ok]) [.p p]).answered k)) ∧
    (Ready s g true [.g a] [.g d] → usable → s.cfgBad x.tenant (scbGcfg (s.scb id)) = none →
      gives (.gsave d a g l) t (scbGcfg (s.scb id))) ∧
    (Ready s g true [.g a, .g b] [] → usable → s.cfgBad x.tenant B = none →
      exec (.gload a b g l) s = .next ((s.depart (t.setGcfg id B) l (.compute []) []).answered k))

/-! ### Vector instructions -/

/-- R393, R396: the integer vector instructions, element by element; an inactive element keeps its value. -/
def Obligations.VectorIntegerResults : Prop :=
  ∀ (s : State) (d a b : BitVec 3) (m : BitVec 2) (t : BitVec 3) (l : BitVec 4),
    let x := s.slot s.focus
    let w := typeWidth t
    let I := toI w
    let N := fun (z : Int) => (z % 2 ^ w).toNat
    let lowest : Int := -(2 ^ (w - 1))
    let highest : Int := 2 ^ (w - 1) - 1
    let gives := fun (i : Instr) (f : Nat → Nat → Nat) => ∃ v,
      exec i s = .next (s.depart (s.issued 4) l (.vector [.v d v]) [.v d]) ∧
      ∀ e, e < 4096 / w → elem v w e =
        if (x.readM m).getLsbD e then f (elem (x.readV a) w e) (elem (x.readV b) w e) else elem (x.readV d) w e
    t.toNat ≤ 3 → s.vecFull = false →
    (Ready s 0 true ([.v a, .v b] ++ if m = 0 then [] else [.m m, .v d]) [.v d] →
      gives (.vadd d a b m t l) (fun y z => (y + z) % 2 ^ w) ∧
      gives (.vsub d a b m t l) (fun y z => (y + 2 ^ w - z) % 2 ^ w) ∧
      gives (.vmul d a b m t l) (fun y z => y * z % 2 ^ w) ∧
      gives (.vmulh d a b m t l) (fun y z => N (I y * I z / 2 ^ w)) ∧
      gives (.vmulhn d a b m t l) (fun y z => y * z / 2 ^ w) ∧
      gives (.vand d a b m t l) (fun y z => y &&& z) ∧
      gives (.vor d a b m t l) (fun y z => y ||| z) ∧
      gives (.vxor d a b m t l) (fun y z => y ^^^ z) ∧
      gives (.vshl d a b m t l) (fun y z => y * 2 ^ (z % w) % 2 ^ w) ∧
      gives (.vshr d a b m t l) (fun y z => y / 2 ^ (z % w)) ∧
      gives (.vsra d a b m t l) (fun y z => N (I y / 2 ^ (z % w))) ∧
      gives (.vmin d a b m t l) (fun y z => if I y < I z then y else z) ∧
      gives (.vmax d a b m t l) (fun y z => if I z < I y then y else z) ∧
      gives (.vminn d a b m t l) (fun y z => min y z) ∧
      gives (.vmaxn d a b m t l) (fun y z => max y z) ∧
      gives (.vadds d a b m t l) (fun y z => N (max lowest (min (I y + I z) highest))) ∧
      gives (.vaddsn d a b m t l) (fun y z => min (y + z) (2 ^ w - 1)) ∧
      gives (.vsubs d a b m t l) (fun y z => N (max lowest (min (I y - I z) highest))) ∧
      gives (.vsubsn d a b m t l) (fun y z => y - z)) ∧
    (Ready s 0 true (.v a :: if m = 0 then [] else [.m m, .v d]) [.v d] → gives (.vmov d a m t l) fun y _ => y)

/-- R397, R398: the floating-point vector instructions, element by element in the type's format; VFMA adds the old element of vd. -/
def Obligations.VectorFloatResults : Prop :=
  ∀ (s : State) (d a b : BitVec 3) (m : BitVec 2) (t : BitVec 3) (l : BitVec 4),
    let x := s.slot s.focus
    let w := typeWidth t
    let F := if t = 4 then Fp.bf16 else if t = 5 then Fp.f32 else Fp.f64
    let keep : List RegRef := if m = 0 then [] else [.m m, .v d]
    let gives := fun (i : Instr) (f : Nat → Nat → Nat → Nat) => ∃ v,
      exec i s = .next (s.depart (s.issued 4) l (.vector [.v d v]) [.v d]) ∧
      ∀ e, e < 4096 / w → elem v w e =
        if (x.readM m).getLsbD e then f (elem (x.readV a) w e) (elem (x.readV b) w e) (elem (x.readV d) w e) % 2 ^ w
        else elem (x.readV d) w e
    (4 ≤ t.toNat ∧ t.toNat ≤ 6) → s.vecFull = false →
    (Ready s 0 true ([.v a, .v b] ++ keep) [.v d] →
      gives (.vfadd d a b m t l) (fun y z _ => F.add y z) ∧ gives (.vfsub d a b m t l) (fun y z _ => F.sub y z) ∧
      gives (.vfmul d a b m t l) (fun y z _ => F.mul y z) ∧ gives (.vfdiv d a b m t l) (fun y z _ => F.div y z) ∧
      gives (.vfmin d a b m t l) (fun y z _ => F.min y z) ∧ gives (.vfmax d a b m t l) (fun y z _ => F.max y z)) ∧
    (Ready s 0 true ([.v a, .v b, .v d] ++ keep) [.v d] → gives (.vfma d a b m t l) fun y z c => F.fma y z c) ∧
    (Ready s 0 true ([.v a] ++ keep) [.v d] →
      gives (.vfsqrt d a m t l) (fun y _ _ => F.sqrt y) ∧
      gives (.vexp2 d a m t l) (fun y _ _ => F.rne (Fp.vexp2 (F.val y))) ∧
      gives (.vlog2 d a m t l) (fun y _ _ => F.rne (Fp.vlog2 (F.val y))) ∧
      gives (.vrcp d a m t l) (fun y _ _ => F.rne (Fp.vrcp (F.val y))) ∧
      gives (.vrsq d a m t l) (fun y _ _ => F.rne (Fp.vrsq (F.val y))))

/-- R399–R401: the vector loads and stores issue with one access for each active element, in ascending order, at its address; the
checks of every element come first. VLDM and VSTM move a mask register. -/
def Obligations.VectorMemoryIssues : Prop :=
  ∀ (s : State) (d v : BitVec 3) (b r : BitVec 5) (m : BitVec 2) (t : BitVec 3) (l : BitVec 4),
    let k := s.focus
    let x := s.slot k
    let w := typeWidth t
    let es := (List.range (4096 / w)).filter fun i => (x.readM m).getLsbD i
    let base := x.readG b
    let keep : List RegRef := if m = 0 then [] else [.m m, .v d]
    let unit := fun (i : Nat) => base + BitVec.ofNat 64 (i * (w / 8))
    let strided := fun (i : Nat) => base + BitVec.ofNat 64 i * x.readG r
    let indexed := fun (i : Nat) => base + (BitVec.ofNat 32 (elem (x.readV v) 32 i)).signExtend 64
    let checks := fun (ea : Nat → Dword) (wr : Bool) => ∀ e ∈ es, s.accessTrap k (ea e) (w / 8) wr = none
    let loads := fun (i : Instr) (ea : Nat → Dword) => checks ea false → exec i s =
      .next (s.departQueued (s.issued 4) l (.load (es.map fun e => (ea e, w / 8)) [] (.v d w es (x.readV d))) [.v d])
    let stores := fun (i : Instr) (ea : Nat → Dword) => checks ea true → exec i s =
      .next (s.departQueued (s.issued 4) l (.store (es.map fun e => (ea e, leBytes (w / 8) (elem (x.readV d) w e)))) [])
    s.vecFull = false → x.acquiring = false →
    (Ready s 0 true ([.g b] ++ keep) [.v d] → loads (.vld d b m t l) unit) ∧
    (typeWide t = true → Ready s 0 true ([.g b, .g r] ++ keep) [.v d] → loads (.vlds d b r m t l) strided) ∧
    (typeWide t = true → Ready s 0 true ([.g b, .v v] ++ keep) [.v d] → loads (.vldx d b v m t l) indexed) ∧
    (Ready s 0 true (.v d :: [.g b] ++ if m = 0 then [] else [.m m]) [] → stores (.vst d b m t l) unit) ∧
    (typeWide t = true → Ready s 0 true (.v d :: [.g b, .g r] ++ if m = 0 then [] else [.m m]) [] → stores (.vsts d b r m t l) strided) ∧
    (typeWide t = true → Ready s 0 true (.v d :: [.g b, .v v] ++ if m = 0 then [] else [.m m]) [] → stores (.vstx d b v m t l) indexed) ∧
    (Ready s 0 true [.g b] [.m m] → s.accessTrap k base 64 false = none → exec (.vldm m b l) s =
      .next (s.departQueued (s.issued 4) l (.load [(base, 64)] [] (.m m)) [.m m])) ∧
    (Ready s 0 true [.g b, .m m] [] → s.accessTrap k base 64 true = none → exec (.vstm m b l) s =
      .next (s.departQueued (s.issued 4) l (.store [(base, leBytes 64 (x.readM m).toNat)]) []))

/-- R300, R402–R405: reductions leave TreeReduce of the active elements in element 0 and zeros elsewhere, and an integer sum is
the sum of the elements; scans, VTOPK, permutations and broadcasts. -/
def Obligations.VectorReduceResults : Prop :=
  ∀ (s : State) (d a b : BitVec 3) (r : BitVec 5) (m : BitVec 2) (t : BitVec 3) (l : BitVec 4),
    let x := s.slot s.focus
    let w := typeWidth t
    let n := 4096 / w
    let M := x.readM m
    let A := elem (x.readV a) w
    let act := (List.range n).filter fun i => M.getLsbD i
    let keep : List RegRef := if m = 0 then [] else [.m m, .v d]
    let gives := fun (i : Instr) (f : Nat → Nat) => ∃ v,
      exec i s = .next (s.depart (s.issued 4) l (.vector [.v d v]) [.v d]) ∧ ∀ e, e < n → elem v w e = f e
    let reduces := fun (i : Instr) (op : Nat → Nat → Nat) (one : Nat) => gives i fun e => if e = 0 then
      treeReduce op one ((List.range n).map fun i => if M.getLsbD i then some (A i) else none) % 2 ^ w else 0
    let masked := fun (f : Nat → Nat) (e : Nat) => if M.getLsbD e then f e else elem (x.readV d) w e
    s.vecFull = false →
    (Ready s 0 true [.v a, .m m] [.v d] →
      (t.toNat ≤ 6 → reduces (.vrsum d a m t l) (typeSum t) 0 ∧ reduces (.vrmin d a m t l) (typeMin t) (typeHigh t) ∧
        reduces (.vrmax d a m t l) (typeMax t) (typeLow t)) ∧
      gives (.vcompress d a m t l) (fun e => if h : e < act.length then A act[e] else 0) ∧
      (t.toNat ≤ 3 → reduces (.vrminn d a m t l) min (2 ^ w - 1) ∧ reduces (.vrmaxn d a m t l) max 0 ∧
        reduces (.vrand d a m t l) (· &&& ·) (2 ^ w - 1) ∧ reduces (.vror d a m t l) (· ||| ·) 0 ∧
        reduces (.vrxor d a m t l) (· ^^^ ·) 0)) ∧
    (∀ q : List (Option Nat), q.length ≤ 512 → treeReduce (fun y z => (y + z) % 2 ^ w) 0 q % 2 ^ w =
      (q.map fun e => e.getD 0).sum % 2 ^ w) ∧
    (t ≠ 0 → t.toNat ≤ 6 → Ready s 0 true (.v a :: keep) [.v d] →
      gives (.vscan d a m t l) (masked fun e => ((act.filter (· ≤ e)).foldl (fun y i => typeSum t y (A i)) 0) % 2 ^ w) ∧
      gives (.vscanmax d a m t l)
        (masked fun e => ((act.filter (· ≤ e)).foldl (fun y i => typeMax t y (A i)) (typeLow t)) % 2 ^ w)) ∧
    (Ready s 0 true (.v a :: keep) [.v d] → gives (.vbcast d a m t l) (masked fun _ => A 0)) ∧
    ((t = 2 ∨ t = 5) → Ready s 0 true [.v a, .v b, .m m] [.v d] → exec (.vtopk d a b m t l) s =
      .next (s.depart (s.issued 4) l (.vector [.v d (topk (t == 5) (x.readV a) (x.readV b) M)]) [.v d])) ∧
    (t ≠ 0 → t ≠ 7 → Ready s 0 true ([.v a, .v b] ++ keep) [.v d] →
      gives (.vperm d a b m t l) (masked fun e => A (elem (x.readV b) w e % n))) ∧
    (Ready s 0 true (.g r :: keep) [.v d] →
      gives (.vbcastg d r m t l) (masked fun _ => (x.readG r).toNat % 2 ^ w)) ∧
    (t.toNat ≤ 3 → Ready s 0 true keep [.v d] → gives (.viota d m t l) (masked fun e => e % 2 ^ w)) ∧
    (Ready s 0 true [.v d] [.g r] → exec (.vmovg d r t l) s = .next (s.depart (s.issued 4) l
      (.vector [.g r (if t.toNat ≤ 3 then BitVec.ofInt 64 (toI w (elem (x.readV d) w 0))
        else BitVec.ofNat 64 (elem (x.readV d) w 0))]) [.g r]))

/-- R406–R408: compares write a mask whose inactive bits stay and whose bits beyond the elements are zero; mask logic; VMPOPC and
VMFIRST; VCVT converts the elements of one part. -/
def Obligations.VectorMaskResults : Prop :=
  ∀ (s : State) (d a p : BitVec 3) (r : BitVec 5) (n m q : BitVec 2) (t k : BitVec 3) (l : BitVec 4),
    let x := s.slot s.focus
    let w := typeWidth t
    let A := elem (x.readV a) w
    let P := elem (x.readV p) w
    let gives := fun (i : Instr) (f : Nat → Bool) => ∃ v,
      exec i s = .next (s.depart (s.issued 4) l (.vector [.m n v]) [.m n]) ∧ ∀ e, e < 512 → v.getLsbD e = f e
    s.vecFull = false →
    (Ready s 0 true ([.v a, .v p] ++ if m = 0 then [] else [.m m, .m n]) [.m n] →
      (t.toNat ≤ 3 → k.toNat ≤ 5 → gives (.vcmp n a p m t l k) fun e => decide (e < 4096 / w) &&
        if (x.readM m).getLsbD e then intCond w k.toNat (A e) (P e) else (x.readM n).getLsbD e) ∧
      (4 ≤ t.toNat → t.toNat ≤ 6 → k.toNat ≤ 4 → gives (.vfcmp n a p m t l k) fun e => decide (e < 4096 / w) &&
        if (x.readM m).getLsbD e then fpCond (if t = 4 then Fp.bf16 else if t = 5 then Fp.f32 else Fp.f64) k.toNat (A e) (P e)
        else (x.readM n).getLsbD e)) ∧
    (Ready s 0 true [.m m, .m q] [.m n] →
      gives (.vmand n m q l) (fun e => (x.readM m).getLsbD e && (x.readM q).getLsbD e) ∧
      gives (.vmor n m q l) (fun e => (x.readM m).getLsbD e || (x.readM q).getLsbD e) ∧
      gives (.vmxor n m q l) (fun e => (x.readM m).getLsbD e ^^ (x.readM q).getLsbD e)) ∧
    (Ready s 0 true [.m m, .m m] [.m n] → gives (.vmnot n m l) fun e => !(x.readM m).getLsbD e) ∧
    (Ready s 0 true [.m m] [.g r] →
      exec (.vmpopc r m t l) s = .next (s.depart (s.issued 4) l
        (.vector [.g r (BitVec.ofNat 64 ((List.range (4096 / w)).countP fun i => (x.readM m).getLsbD i))]) [.g r]) ∧
      exec (.vmfirst r m t l) s = .next (s.depart (s.issued 4) l
        (.vector [.g r (match (List.range (4096 / w)).find? fun i => (x.readM m).getLsbD i with
          | some i => BitVec.ofNat 64 i
          | none => BitVec.allOnes 64)]) [.g r])) ∧
    (∀ (z y : BitVec 1) (u : BitVec 2) (c : BitVec 4), (Instr.vcvt d a p m t l z u y c).wf = true →
      let wd := formatWidth c.toNat
      Ready s 0 true (.v a :: (if m = 0 then [] else [.m m]) ++ (if m ≠ 0 ∨ wd < w then [.v d] else [])) [.v d] →
      let cv := fun (i : Nat) => convert (cvtSource t (y == 1)) c.toNat (Fp.Rm.ofBits u) (z == 1) (A i) % 2 ^ wd
      let from_ := p.toNat * (4096 / max w wd)
      ∃ v, exec (.vcvt d a p m t l z u y c) s = .next (s.depart (s.issued 4) l (.vector [.v d v]) [.v d]) ∧
        ∀ e, e < 4096 / wd → elem v wd e =
          if (x.readM m).getLsbD e = false then elem (x.readV d) wd e
          else if w ≤ wd then cv (from_ + e)
          else if from_ ≤ e ∧ e < from_ + 4096 / w then cv (e - from_) else elem (x.readV d) wd e)

/-- R409–R418: the sampler instructions on 128 FP32 lanes. -/
def Obligations.SamplerResults : Prop :=
  ∀ (s : State) (d a b : BitVec 3) (m : BitVec 2) (l : BitVec 4),
    let x := s.slot s.focus
    let A := elem (x.readV a) 32
    let B := elem (x.readV b) 32
    let D := elem (x.readV d) 32
    let F := Fp.f32
    let keep : List RegRef := if m = 0 then [] else [.m m, .v d]
    let gives := fun (i : Instr) (f : Nat → Nat) => ∃ v,
      exec i s = .next (s.depart (s.issued 4) l (.vector [.v d v]) [.v d]) ∧
      ∀ e, e < 128 → elem v 32 e = if (x.readM m).getLsbD e then f e % 2 ^ 32 else D e
    s.vecFull = false →
    (Ready s 0 true ([.v a, .v b, .v d] ++ keep) [.v d] →
      gives (.vpen d a b m l) (fun e =>
        let y := if (F.val (D e)).isNan || D e == 0x7F800000 then 0xFF800000 else D e
        let y := if A e / 2 ^ 31 = 1 then (if Fp.vlt (F.val 0) (F.val y) then F.div y (B 0) else F.mul y (B 0)) else y
        let c : Nat := min 65535 (A e % 2 ^ 31)
        let y := F.sub y (F.mul (B 1) (F.rne (Fp.ofInt (c : Int))))
        if 0 < c then F.sub y (B 2) else y) ∧
      gives (.vbias d a b m l) (fun e => (List.range 64).foldl (fun y j =>
        if A (2 * j) ≠ 0xFFFFFFFF ∧ toI 32 (A (2 * j)) = toI 32 (B 0) + e then F.add y (A (2 * j + 1)) else y) (D e)) ∧
      gives (.vrng d a b m l) (fun e => if e < 64 then uniform (A 0) (A 1) (B (2 * e)) (B (2 * e + 1)) (A 2) (A 3) else D e) ∧
      gives (.vacc d a b m l) (fun e => if Fp.vlt (F.val (F.mul (A e) (B e))) (F.val (D e)) then 1 else 0)) ∧
    (Ready s 0 true keep [.v d] → gives (.vban d m l) fun _ => 0xFF800000) ∧
    (Ready s 0 true ([.v b, .v d] ++ keep) [.v d] →
      gives (.vsoftT d b m l) (fun e => F.div (D e) (B 0)) ∧
      gives (.vsoftW d b m l) (fun e => if D e = 0xFF800000 then 0
        else F.rne (Fp.vexp2 (F.val (F.mul (F.sub (D e) (B 0)) 0x3FB8AA3B))))) ∧
    (Ready s 0 true ([.v a, .v b] ++ keep) [.v d] → gives (.vresid d a b m l) fun e => F.max (F.sub (A e) (B e)) 0) ∧
    (Ready s 0 true [.v a, .v b, .m m] [.v d] → exec (.vsamp d a b m l) s =
      let c := sampFrom (x.readV a) (x.readM m) 128 0 ⟨B 0, B 1, B 2, B 3, B 4⟩
      .next (s.depart (s.issued 4) l (.vector [.v d (ofElems 32 [c.cum, c.target, c.base, c.pick, c.last])]) [.v d])) ∧
    (Ready s 0 true [.v a, .v b] [.v d] →
      (∃ v, exec (.vtree d a b l) s = .next (s.depart (s.issued 4) l (.vector [.v d v]) [.v d]) ∧
        ((B 0 = 0 ∨ 64 < B 0) → v = 0) ∧
        (1 ≤ B 0 → B 0 ≤ 64 → ∀ i, i < B 0 →
          let parent := elem (x.readV a) 8 i
          elem v 64 i = if parent = 0xFF then 2 ^ i
            else if parent < i ∧ elem v 64 parent ≠ 0 then elem v 64 parent ||| 2 ^ i else 0)) ∧
      (∃ v, exec (.vmatch d a b l) s = .next (s.depart (s.issued 4) l (.vector [.v d v]) [.v d]) ∧
        let len := elem (x.readV a) 8 128
        let first := elem (x.readV a) 8 129
        let nstop := elem (x.readV a) 8 130
        let bad := len = 0 ∨ 96 < len ∨ len < first ∨ 8 < nstop
        (bad → elem v 32 0 = 0xFFFFFFFF ∧ elem v 32 3 = 1) ∧
        (¬ bad → elem v 32 3 = 0 ∧
          (elem v 32 2 = 0xFFFFFFFF → ∀ e j, first ≤ e → e < len → j < nstop → stopAt (x.readV a) (x.readV b) e j = false) ∧
          (elem v 32 2 ≠ 0xFFFFFFFF → first ≤ elem v 32 2 ∧ elem v 32 2 < len ∧ elem v 32 1 < nstop ∧
            stopAt (x.readV a) (x.readV b) (elem v 32 2) (elem v 32 1) = true))))

/-! ### Tile commands -/

/-- R241, R318, R425: TCMD with its patches applied, its records read and no check against it is queued at the issue; R251–R253,
R263, R428, R430: completion fills the target and reports a fault, arrivals reach their counter, and the lease is granted and
ended. -/
def Obligations.TileFrameResults : Prop :=
  ∀ (s : State) (a b : BitVec 5) (g : BitVec 3) (l : BitVec 4) (q : BitVec 5) (h : BitVec 4) (w : TilePayload),
    let k := s.focus
    let y := (w.patch (h.extractLsb' 0 2) (s.readG k a)).patch (h.extractLsb' 2 2) (s.readG k b)
    (∀ as rs u, (Instr.tcmd a b g l q h w).wf = true →
      Ready s g true [.g a, .g b] (match tileTarget w k with
        | some (j, r) => if j = k then [.g r] else []
        | none => []) →
      s.inputQueue (coreOf k) q.toNat < 8 → (s.slot k).acquiring = false →
      (∀ o ∈ (s.slot k).outs, o.readPending = true → (s.slot k).rel ≤ o.seq) → s.tileTrap k q.toNat y = none →
      gatherRecords s k y (s.issued 36 true) = .ok ((as, rs), u) → s.recordTrap k y as rs = none →
      exec (.tcmd a b g l q h w) s = .next ((s.queueFrame u l q.toNat y rs).answered k)) ∧
    (∀ m, s.cmdOf s.ev.who = some m → s.Settled m → s.footprintVisible m = true →
      (∀ f k r, m.done = some (0, f) → m.counts = [] → m.target = some (k, r) → (s.core (coreOf k)).fwd = none →
        (s.slot k).holdsStrand = true →
        ∃ t, exec .commandComplete s = .next t ∧ t.cmds = (s.cmds.filter fun e => e.n ≠ m.n) ∧
          (r ≠ 0 → (t.slot k).readG r = m.value ∧ (t.slot k).gState r = .full)) ∧
      (∀ e f, m.done = some (e, f) → e ≠ 0 → m.counts = [] → m.target = none → (s.slot m.slot).occ = .active →
        (s.slot m.slot).uid = m.uid → (s.slot m.slot).async = [] → ∃ t, exec .commandComplete s = .next t ∧
          (t.slot m.slot).async = [⟨0x0A, e, 0, true, false, [m.pc, m.value], s.timer.toNat⟩]) ∧
      (∀ cl n rest, m.done ≠ none → m.counts = (cl, n) :: rest → exec .arrivalCount s = .next
        ((s.arrive m.die cl (m.w.w6.toNat / 2 ^ 16 * 64) (2 ^ 48 - n % 2 ^ 48) false).setCmd { m with counts := rest }))) ∧
    (∀ cl off x : Nat, s.ls.wf = true → off < 2 ^ 22 → off % 8 = 0 →
      let v := s.lsDword cl off
      let t := s.arrive 0 cl off x true
      if (v.toNat + x) % 2 ^ 48 = 0 then t.lsDword cl off = 0 ∧ t.isFull cl off = true
      else t.lsDword cl off = BitVec.ofNat 64 (2 ^ 63 + (v.toNat + x) % 2 ^ 48)) ∧
    (∀ cl c, s.ev.who = cl → c / 4 = cl →
      ((s.cluster cl).lease = none → s.leaseNext cl = some c → ∃ t, exec .leaseGrant s = .next t ∧
        (t.cluster cl).lease = some c ∧ (t.core c).leaseHeld = true ∧ (t.core c).leaseCmds = 16 ∧ (t.core c).leaseCyc = 4096) ∧
      ((s.cluster cl).lease = some c → ((s.core c).leaseCmds = 0 ∨ (s.core c).leaseCyc = 0) →
        (∀ m ∈ s.cmds, m.q = 0 → m.core = c → m.started = true → m.done.isSome = true ∨ m.atBoundary = true) → ∃ t, exec .leaseEnd s = .next t ∧
        (t.cluster cl).lease = none ∧ (t.core c).leaseHeld = false))

/-- R296, R303, R301, R435–R444: the tensor engine's commands. MMA, MMACB and MMAF8 fold the group sums of their tiles into each
cell of the accumulator slot, or with SPLITK have a contribution per cell and group to send; CELLP and CELL run the
microprogram; SCAN leaves its lanes' states after each of its steps, with the step's outputs written, and is over after the
last; ACCRD reads the slot out; ACCLR clears it; FMTLD and RINGCFG set the context and the ring. -/
def Obligations.TensorCommands : Prop :=
  ∀ (s : State) (m : Cmd) (i : Instr) (op : Nat),
    let cl := m.cluster
    let acc := m.w.acc
    let cell := fun (t : State) (r c : Nat) => t.readAcc cl acc (r * 512 + c * 4) 4
    (∀ marks y v p, s.acc.wf = true → p.acc = s.acc →
      ((s.Starts 7 m ∧ m.part = 0 ∧ m.recs.length = 1 ∧ s.tilesThere m = true ∧
          (if m.w.a12 = 0 then marks = List.replicate (ceilDiv m.w.steps 8) (0 : Byte) ∧ p = s
            else readMem m.who (BitVec.ofNat 64 m.w.a12) (ceilDiv m.w.steps 8) 4 s = .ok (marks, p))) ∨
        (s.cmdOf s.ev.who = some m ∧ m.op = 7 ∧ m.started = true ∧ m.accepted = true ∧ m.done = none ∧ m.todo = [] ∧
          (m.q = 0 → (s.core m.core).leaseHeld = true) ∧ marks = m.recs.getD 1 [] ∧ p = s)) →
      let st := m.scanState
      let ss := st.width / 8
      let n := m.part
      let elem_ := fun (ring x : Nat) =>
        m.scanIn.val (s.tileElem cl ring (n / 32) (m.scanIn.width / 8) (n % 32 * 128 + x))
      let hs := (List.range m.w.lanes).map fun x =>
        if (marks.getD (n / 8) 0).getLsbD (n % 8) then st.rne (elem_ m.w.ringB x)
        else st.rne (Fp.vadd .rne (Fp.vmul (elem_ m.w.ringA x)
          (st.val (if m.w.modeBit 3 && n == 0 then 0 else s.readAcc cl acc (x * ss) ss))) (elem_ m.w.ringB x))
      let l := m.rec_ 0
      let outs := (if l.empty then [] else hs.zipIdx).filterMap fun p =>
        if l.inBounds (l.idxOf [p.2, n]) then some (l.addr (l.idxOf [p.2, n]), leBytes l.es (m.scanOut.rne (st.val p.1))) else none
      let e := if m.started then m else { m with started := true, recs := m.recs ++ [marks], todo := [], count := 0 }
      let u := hs.zipIdx.foldl (fun t p => t.writeAcc cl acc (p.2 * ss) (leBytes ss p.1)) (if m.started then s else p.setCmd e)
      (joinWrites outs).foldlM (fun x w => postPlain x w.1 w.2) e u = .ok (y, v) → y.n = m.n → (v.cmdOf m.n).isSome = true →
      v.acc = u.acc → ∃ t, exec .scan s = .next t ∧ t.mem = v.mem ∧ t.ls = v.ls ∧
        (t.cmdOf m.n).map (fun x => (x.done, x.part, x.count)) =
          some (if n + 1 = m.w.steps then some (0, 0) else none, n + 1, n + 1) ∧
        ∀ x, x < m.w.lanes → t.readAcc cl acc (x * ss) ss = hs.getD x 0 % 2 ^ (8 * ss)) ∧
    (s.Starts op m → s.acc.wf = true →
    (m.w.rows ≤ 128 → m.w.cols ≤ 128 →
      ((i, op) ∈ [(Instr.mma, 1), (.mmacb, 2), (.mmaf8, 3)] → m.w.splitk = false → s.contextOk m = true → s.tilesThere m = true →
        ∃ t, exec i s = .next t ∧ t.Over m m.groups ∧ ∀ r c, r < m.w.rows → c < m.w.cols → cell t r c =
          (List.range m.groups).foldl (fun y g => Fp.f32.add y (s.mmaSum m r c g)) (cell s r c) % 2 ^ 32) ∧
      ((i, op) ∈ [(Instr.mma, 1), (.mmacb, 2), (.mmaf8, 3)] → m.w.splitk = true → s.contextOk m = true → s.tilesThere m = true →
        ∃ t, exec i s = .next t ∧ t.acc = s.acc ∧ SameMemory s t ∧ t.Made m ((List.range m.groups).flatMap fun g =>
          (List.range m.w.rows).flatMap fun r => (List.range m.w.cols).map fun c =>
            (BitVec.ofNat 64 (m.w.dst + r * 512 + c * 4),
              leBytes 4 (s.mmaSum m r c g) ++ leBytes 4 (m.w.w1.toNat / 32 - m.w.w2.toNat + g))) 0) ∧
      ((i, op) ∈ [(Instr.cellp, 4), (.cell, 5)] → s.tilesThere m = true →
        let ctx := (s.core m.core).fmt
        let es := if op = 4 then 4 else 2
        let wide := fun (y : Nat) => if op = 4 then y else y * 65536
        rd ctx 2 1 ≠ 0 → ∃ t, exec i s = .next t ∧ t.Over m m.w.kext ∧ ∀ r c, r < m.w.rows → c < m.w.cols → cell t r c =
          (List.range m.w.kext).foldl (fun y k => cellStep ctx y
            (wide (s.tileElem cl m.w.ringA (k / 32) es (r * 32 + k % 32)))
            (wide (s.tileElem cl m.w.ringB (k / 32) es (k % 32 * 128 + c)))) (cell s r c) % 2 ^ 32)) ∧
    (op = 8 → ∃ t, exec .accrd s = .next t ∧ t.acc = s.acc ∧
      let y := m.rec_ 0
      t.Made m (joinWrites (y.points.filterMap fun c => if y.inBounds (y.idxOf c) then some (y.addr (y.idxOf c), leBytes y.es
        (if m.w.modeBit 3 then s.readAcc cl acc (c.getD 0 0) 1
        else convert 9 y.fmt (rmOf m) (m.w.modeBit 2) (cell s (c.getD 1 0) (c.getD 0 0)))) else none)) 0) ∧
    (op = 9 → ∃ t, exec .acclr s = .next t ∧ t.Over m 65536 ∧ t.mem = s.mem ∧ t.ls = s.ls ∧
      ∀ n, n < 16384 → t.readAcc cl acc (4 * n) 4 = if m.w.modeBit 0 then m.w.w5.toNat else 0) ∧
    (∀ r u, op = 0xA → readMem m.who (BitVec.ofNat 64 m.w.a12) 128 4 s = .ok (r, u) → u.cmds = s.cmds → ∃ t, exec .fmtld s = .next t ∧
      (contextImage r = true → t.Over m 128 ∧ (t.core m.core).fmt = r) ∧
      (contextImage r = false → (t.core m.core).fmt = (u.core m.core).fmt ∧ (t.cmdOf m.n).map (·.done) = some (some (0x10, 0)))) ∧
    (op = 0xB → (s.ringOf cl m.w.cfgRing).writing = [] → (m.w.modeBit 0 = true ∨ (s.ringOf cl m.w.cfgRing).filled = 0) →
      m.w.tilesA = none → m.w.tilesB = none → m.resv = [] → ∃ t, exec .ringcfg s = .next t ∧ t.Over m 0 ∧
      t.ringOf cl m.w.cfgRing = ⟨true, BitVec.ofNat 16 m.w.cfgBase, m.w.cfgSize, m.w.cfgSlots, 0, 0, m.w.cfgSlots, 0, []⟩))

/-- R226–R228, R440, R441, R448: ATT and COMPACT. ATT, where its stream, table, range and entries stand, takes one block a step:
each step leaves every row after its block in the accumulators, or after the last block with LAST the normalised row, and counts
the block; with SCORE a second pass has the score adds of each block to make, and a score add is one step at its home. An entry
that has become invalid ends it with TABLE. COMPACT, where its checks pass and its blocks are allocated, has its writes to make,
makes one a step, lowers the counts of the old blocks one by one, and then sets KVLEN. A check that fails ends either with its
fault before any write. -/
def Obligations.AttentionCommands : Prop :=
  ∀ (s : State) (m : Cmd),
    let sid := m.w.w1.toNat
    let d := m.recs.getD 0 []
    let w := m.whoSid
    let n := m.w.w5.toNat
    let c := m.carry
    let addr := scbKvtab (s.scb sid)
    let kvlen := scbKvlen (s.scb sid)
    let held := m.q = 0 → (s.core m.core).leaseHeld = true
    let runs := fun (op : Nat) => s.cmdOf s.ev.who = some m ∧ m.op = op ∧ m.started = true ∧ m.accepted = true ∧ m.done = none ∧ held
    let cleaned := fun (t : State) => { t.dropFault (.cmd m.n) with
      requests := t.requests.filter fun r => !(decide (r.who = .cmd m.n) && !r.bytes.isEmpty && !r.isRed) }
    (∀ (t : KvTab) (head ids par : List Byte) (len : Nat) (is : List Nat) (rows : Option (List Nat)) (x : Cmd)
        (s1 s2 s3 u v : State) b,
      ((s.Starts 6 m ∧ m.part = 0 ∧ s.tilesThere m = true ∧ sidOk sid = true ∧ s.streamUsable sid m.tenant = true ∧
          readMem w (windowAddr addr) 64 4 s = .ok (head, s1) ∧ kvHeader addr head = some t ∧
          rd d 0 2 < t.layers ∧ rd d 2 1 < t.groups ∧
          m.nrow * t.hdim * 2 ≤ 2 ^ ((s.ringOf m.cluster m.w.ringA).slotsz + 6) ∧ attRange m t d s1 = .ok (some (ids, par), s2) ∧
          entriesValid w ((wordsOf ids).map fun i => t.entryAddr (rd d 0 2) (rd d 2 1) i) s2 = .ok (true, s3) ∧
          s3.cmds = s.cmds ∧ s3.acc = s.acc ∧
          attTreeRows par ≠ none ∧ rows = (if par = [] then none else attTreeRows par) ∧ len = kvlen ∧ is = wordsOf ids ∧
          x = { m with
            stream := some sid, started := true, todo := [], count := 0
            recs := [d, leBytes 8 addr ++ leBytes 4 kvlen, head, ids, par] } ∧
          u = (if m.w.modeBit 3 then s3.putRows m false (List.replicate m.nrow ⟨negInf, 0, List.replicate t.hdim 0⟩)
            else s3).setCmd x) ∨
        (runs 6 ∧ m.todo = [] ∧ m.attWork = some (t, len, is, rows) ∧ x = m ∧ u = s)) →
      s.acc.wf = true → m.nrow ≤ 128 → is ≠ [] → x.part < 2 * is.length →
      attBlock x t (is.getD (x.part % is.length) 0) u = .ok (b, v) → v.cmds = u.cmds → v.acc = u.acc →
      let scored := m.w.modeBit 5 && t.scores != 0
      let a := v.attJob x t len rows
      (b = none → ∃ y, exec .att s = .next y ∧ (y.cmdOf m.n).map (·.done) = some (some (0x11, 0))) ∧
      (∀ k, b = some k → x.part < is.length →
        let out := fun (r : Nat) => a.block t k r (v.attRow x c t.hdim r)
        let row := fun (r : Nat) => (out r).1
        let over_ := x.part + 1 = is.length
        ∃ y, exec .att s = .next y ∧ y.mem = v.mem ∧ y.ls = v.ls ∧
          (y.cmdOf m.n).map (fun z => (z.done, z.part, z.count)) =
            some (if over_ ∧ scored = false then some (0, 0) else none, x.part + 1, if scored then 0 else x.part + 1) ∧
          (y.core m.core).attuf = BitVec.ofNat 64 (min (2 ^ 64 - 1)
            ((v.core m.core).attuf.toNat + ((List.range m.nrow).map fun r => (out r).2).sum)) ∧
          ∀ r, r < m.nrow → y.readAcc m.cluster m.w.acc (carryM c r) 4 = (row r).m % 2 ^ 32 ∧
            y.readAcc m.cluster m.w.acc (carryM c r + 8) (c.width / 8) = (row r).l % 2 ^ c.width ∧
            ∀ j, j < t.hdim →
              (¬ (over_ ∧ m.w.modeBit 4 = true) →
                y.readAcc m.cluster m.w.acc (carryO c r j) (c.width / 8) = (row r).o.getD j 0 % 2 ^ c.width) ∧
              (over_ ∧ m.w.modeBit 4 = true → y.readAcc m.cluster m.w.acc (r * 512 + j * 4) 4 =
                (if (c.val (row r).l).isZero then 0
                  else Fp.f32.rne (Fp.vdiv (c.val ((row r).o.getD j 0)) (c.val (row r).l))) % 2 ^ 32)) ∧
      (∀ k, b = some k → is.length ≤ x.part → ∃ y, exec .att s = .next y ∧ y.mem = v.mem ∧ y.ls = v.ls ∧ y.acc = v.acc ∧
        (y.cmdOf m.n).map (fun z => (z.done, z.part, z.count, z.todo)) =
          some (none, x.part + 1, x.part - is.length, a.adds t k (v.attRows x t)))) ∧
    (∀ t len is rows, runs 6 → m.todo = [] → m.attWork = some (t, len, is, rows) → m.part = 2 * is.length →
      ∃ y, exec .att s = .next y ∧ y.Over m is.length ∧ SameMemory s y) ∧
    (∀ va bs rest pa k u v, runs 6 → m.todo = (va, bs) :: rest → placeWrite m.who va bs.length 2 s = .ok (.mem pa, u) →
      homeWrite m.who (.mem pa) (leBytes bs.length (Fp.f32.add (leNat (u.readHome pa bs.length)) (leNat bs))) u = .ok (k, v) →
      exec .att s = .next (cleaned (v.setCmd { m with
        bytes := m.bytes + bs.length, pending := if k = 0 then m.pending else m.pending ++ [k], todo := rest }))) ∧
    (∀ (head : List Byte) (t : KvTab) (l : List Byte) (new : List (List Nat)) (s1 s2 s3 u x y : State)
        (r : List (Dword × List Byte) × List Dword) (b : List Byte),
      let pairs := (List.range t.layers).flatMap fun y => (List.range t.groups).map fun g => (y, g)
      let keep := (List.range n).map fun i => rd l (4 * i) 4
      let die := m.w.w2.toNat % 4
      let out := (keep.flatMap fun k => (b.drop (4 * k)).take 4) ++ List.replicate (4 * (kvlen - n)) 0
      let todo := r.1 ++ if t.scores = 0 ∨ out = [] then [] else [(windowAddr t.scores, out)]
      s.Starts 0x17 m → sidOk sid = true → s.streamUsable sid m.tenant = true →
      readMem w (windowAddr addr) 64 4 s = .ok (head, s1) → kvHeader addr head = some t → ceilDiv kvlen t.tokens ≤ t.maxblk →
      entriesValid w (pairs.flatMap fun p => (List.range (ceilDiv kvlen t.tokens)).map fun i => t.entryAddr p.1 p.2 i) s1 =
        .ok (true, s2) →
      readMem m.who (BitVec.ofNat 64 m.w.a34) (4 * n) 4 s2 = .ok (l, s3) → ascending keep = true → (∀ i ∈ keep, i < kvlen) →
      allocAll w t die (ceilDiv n t.tokens) pairs.length s3 = .ok (some new, u) →
      compactAll w t kvlen keep die (m.w.w2.toNat / 4 % 4) (pairs.zip new) u = .ok (r, x) →
      (if t.scores = 0 then y = x else readMem w (windowAddr t.scores) (4 * kvlen) 4 x = .ok (b, y)) → y.cmdOf m.n = some m →
      todo ≠ [] → ∃ v, exec .compact s = .next v ∧ v.mem = y.mem ∧ v.ls = y.ls ∧ v.scbs = y.scbs ∧
        (v.cmdOf m.n).map (fun x => (x.done, x.started, x.todo, x.count, x.acc)) =
          some (none, true, todo, 0, r.2.map fun e => (e.toNat, 0))) ∧
    (∀ va bs rest x u, runs 0x17 → m.todo = (va, bs) :: rest → postCompact m va bs s = .ok (x, u) →
      exec .compact s = .next (cleaned (u.setCmd { x with todo := rest }))) ∧
    (runs 0x17 → m.todo = [] → (∀ i ∈ m.pending, 2 ^ 64 ≤ i ∨ s.madePerformed i = true) →
      (∀ e rest t u, m.acc = e :: rest → kvHeader (rd (m.recs.getD 0 []) 0 8) (m.recs.getD 1 []) = some t →
        lowerEntry m.who t (BitVec.ofNat 64 e.1) s = .ok ((), u) →
        exec .compact s = .next (cleaned (u.setCmd { m with acc := rest }))) ∧
      (m.acc = [] → settleWrites m.who m.pending s = .ok ((), s) → ∃ v, exec .compact s = .next v ∧ v.Over m n ∧
        v.scbs = (s.scbStep sid fun r => wr r 0x58 4 n).scbs)) ∧
    (∀ u x va bs rest, u.cmdOf m.n = some x → x.todo = (va, bs) :: rest → s.Starts 0x17 m → startCompact m s = .ok (none, u) →
      exec .compact s = .next (cleaned u)) ∧
    (∀ f u x, u.cmdOf m.n = some x →
      (s.Starts 6 m → startAtt m s = .ok (some f, u) → exec .att s = .next (cleaned (u.endCmd x f 0))) ∧
      (s.Starts 0x17 m → startCompact m s = .ok (some f, u) → exec .compact s = .next (cleaned (u.endCmd x f 0))))

/-- R433, R434, R445–R455: the copy engines, the snapshot engine and the collective commands. A move starts by reading its source;
its writes follow one a step. -/
def Obligations.MoveCommands : Prop :=
  ∀ (s : State) (m : Cmd) (op : Nat) (i : Instr),
    let held := m.q = 0 → (s.core m.core).leaseHeld = true
    let a := m.rec_ 0
    let b := m.rec_ 1
    (s.Starts op m →
      (∀ ws u, op = 0x10 → m.w.toring = false →
        moveWindow m a b a.idxOf b.idxOf (if a.empty then [] else b.points) s = .ok (ws, u) → u.cmds = s.cmds →
        ∃ t, exec .copy s = .next t ∧ t.Made m (joinWrites ws) 0 ∧ SameMemory u t) ∧
      (∀ ws u, op = 0x11 →
        let ids := s.indexList m (b.wextAt (a.rank - 1))
        indexBad a ids = false → moveWindow m a b (a.idxBy ids) b.idxOf (if a.empty then [] else b.points) s = .ok (ws, u) →
        u.cmds = s.cmds →
        ∃ t, exec .gath s = .next t ∧ t.Made m (joinWrites ws) 0 ∧ SameMemory u t) ∧
      (∀ ws u, op = 0x12 →
        let ids := s.indexList m (a.wextAt (b.rank - 1))
        indexBad b ids = false → moveWindow m a b a.idxOf (b.idxBy ids) (if b.empty then [] else a.points) s = .ok (ws, u) →
        u.cmds = s.cmds →
        ∃ t, exec .scat s = .next t ∧ t.Made m (joinWrites ws) 0 ∧ SameMemory u t) ∧
      (op = 0x15 → ∃ t, exec .fill s = .next t ∧ SameMemory s t ∧ t.Made m (joinWrites (a.points.filterMap fun c =>
        if a.inBounds (a.idxOf c) then some (a.addr (a.idxOf c), leBytes a.es a.fillPattern) else none)) 0) ∧
      (op = 0x18 →
        let r := (List.range m.w.w5.toNat).foldl (fun (p : State × Nat) n =>
          let q := p.1.hashPage m.who (BitVec.ofNat 64 (m.w.a12 + n * 65536)); (q.1, p.2 + q.2)) (s, 0)
        ∃ t, exec .hashpg s = .next t ∧ t.Over m r.2 ∧ t.frames = r.1.frames ∧ SameMemory s t) ∧
      (∀ bs u, op = 0x13 → a.points.foldlM (m := M) (fun (bs : List Byte) c => do
          let x ← readElem m a (a.idxOf c)
          pure (bs ++ leBytes a.es x)) [] s = .ok (bs, u) → u.ls.wf = true → m.w.doff + bs.length ≤ 2 ^ 22 →
        ∃ t, exec .mcast s = .next t ∧ t.mem = u.mem ∧ ∀ c, c < 40 → m.w.mask.testBit c = true →
          t.readLs (m.die * 40 + c) m.w.doff bs.length = bs) ∧
      (∀ ra rb ws u, op = 0x14 → m.recs = [ra, rb] →
        moveWindow m a b a.idxOf b.idxOf (if a.empty then [] else b.points) s = .ok (ws, u) → u.cmds = s.cmds →
        ∃ t, exec .redst s = .next t ∧ t.Made m ws 0 ∧ SameMemory u t) ∧
      (op = 0x16 → ∃ t, exec .barm s = .next t ∧ t.Over m 0 ∧
        t.ls = (s.arrive m.die m.cluster (m.w.w3.toNat * 64) m.w.a12 true).ls) ∧

      (op = 0x21 → s.drain = none → s.tier ≠ none → s.dirsUp (BitVec.ofNat 8 m.w.w5.toNat) ≠ [] → s.cutReady = true →
        ∃ t, exec .ckpt s = .next t ∧ t.Over m ((s.ckgen + 1).toNat) ∧ t.ckgen = (s.takeCut (BitVec.ofNat 8 m.w.w5.toNat)).ckgen)) ∧
    (∀ va bs rest off, s.cmdOf s.ev.who = some m → m.op = op → m.started = true → m.accepted = true → m.done = none →
      held → m.todo = (va, bs) :: rest → bs ≠ [] → va.toNat % 4096 + bs.length ≤ 4096 → regionOf va = .own off →
      ((i, op) ∈ [(Instr.copy, 0x10), (.gath, 0x11), (.scat, 0x12), (.fill, 0x15), (.accrd, 8)] →
        ∃ t, exec i s = .next t ∧ t.ls = s.ls.writeBytes (lsKey m.cluster off) bs ∧ t.mem = s.mem ∧
          (t.cmdOf m.n).map (·.todo) = some rest) ∧
      (op = 0x14 → ∃ t, exec .redst s = .next t ∧ t.mem = s.mem ∧
        t.ls = s.ls.writeBytes (lsKey m.cluster off) (leBytes bs.length
          (redstOp a.fmt (m.w.mode % 4) (leNat (s.readLs m.cluster off bs.length)) (leNat bs))) ∧
        (t.cmdOf m.n).map (·.todo) = some rest)) ∧
    (let runs := s.cmdOf s.ev.who = some m ∧ m.op = 0x20 ∧ m.started = true ∧ m.accepted = true ∧ m.done = none ∧ held ∧ m.todo = []
      let x := if m.started then m else { m with started := true, todo := [], count := 0 }
      (∀ t f, s.Starts 0x20 m ∨ runs → m.part < m.w.w5.toNat →
        snapPage x (BitVec.ofNat 64 (m.w.a12 + m.part * 65536)) (BitVec.ofNat 64 (m.w.a34 + m.part * 65536))
          (if m.started then s else s.setCmd x) = .ok (f, t) → t.cmds = (if m.started then s else s.setCmd x).cmds →
        ∃ v, exec .snap s = .next v ∧ v.frames = t.frames ∧ v.mem = t.mem ∧
          (f = none → (v.cmdOf m.n).map (fun y => (y.done, y.part, y.count)) = some (none, m.part + 1, x.count + 1)) ∧
          (∀ e, f = some e → (v.cmdOf m.n).map (fun y => (y.done, y.part, y.count)) = some (some (e, 0), m.part, x.count))) ∧
      (runs → m.part = m.w.w5.toNat → ∃ v, exec .snap s = .next v ∧ v.Over m m.count ∧ SameMemory s v)) ∧
    (s.Starts 0x10 m → m.w.toring = true → m.part ≠ m.w.w5.toNat → m.resv = [] → (s.ringOf m.cluster m.w.ringB).free ≠ 0 →
      ∃ v, exec .copy s = .next v ∧ v.ringOf m.cluster m.w.ringB = (s.ringOf m.cluster m.w.ringB).reserve ∧ SameMemory s v ∧
        (v.cmdOf m.n).map (·.resv) = some [(s.ringOf m.cluster m.w.ringB).tail]) ∧
    (∀ slot ws p u, s.cmdOf s.ev.who = some m → m.op = 0x10 → m.w.toring = true → m.started = true → m.accepted = true →
      m.done = none → held → m.todo = [] → m.part ≠ m.w.w5.toNat → m.resv = [slot] → ringPart m m.part slot s = .ok (ws, p) →
      (ws.forM fun x => do let _ ← writeMem m.who x.1 x.2 5) p = .ok ((), u) → u.cmds = s.cmds →
      ∃ v, exec .copy s = .next v ∧ v.mem = u.mem ∧ v.ls = u.ls ∧
        v.ringOf m.cluster m.w.ringB = (u.ringOf m.cluster m.w.ringB).written slot ∧
        (v.cmdOf m.n).map (fun x => (x.part, x.resv)) = some (m.part + 1, []))

/-! ### The units' own steps -/

/-- R203, R208–R211, R213, R215, R217: the walkers' masks, the stop of a dead stream, and the grammar and arena commands, each
with its command block read and no reason to refuse: GRAMSTAT gets 0 and the strand goes on. -/
def Obligations.GrammarSteps : Prop :=
  ∀ (s : State) (k : Nat) (v : Dword) (b : List Byte), s.ev.who = k →
    let ok := fun (u : State) => ((u.gramDone k 0).answered k).finishCmd k
    let n := rd b 0 1
    let id := rd b 0 2 % 4096
    let count := rd b 4 4
    (∀ r rest o bs ws t u, s.walking k = r :: rest → s.maskOut r = some o → maskOf (s.whoMask r o) r.cfg s = .ok (bs, t) →
      writeMem (s.whoMask r o) r.ea bs 5 t = .ok (ws, u) →
      exec .maskWalk s = .next (((u.dropFault (s.whoMask r o).req).dropRequests (s.whoMask r o).req).modMask r.die r.n fun r =>
        { r with done := some (bs.all (· == 0)), writes := ws })) ∧
    (∀ r sid, (([0, 1, 2, 3] : List Nat).flatMap fun d => (s.die d).maskq).find? (fun r => decide (r.n = k)) = some r →
      r.done = some true → s.maskOut r = none → r.stream = some sid →
      let t := s.dropMask r.die r.n
      scbState (t.scb sid) ≠ 0 → scbState (t.scb sid) ≠ 6 → scbStop (t.scb sid) = 0 →
        exec .grammarDeadStop s = .next (t.stopStream sid 2)) ∧
    (∀ g, s.grams.find? k = some g → g.unloading = true →
      (∀ d < 4, ∀ r ∈ (s.die d).maskq, cfgGram r.cfg ≠ k) →
      exec .unloadTakeEffect s = .next (g.frames.foldl State.lowerFrame { s with grams := s.grams.del k })) ∧
    (∀ e : State, s.cmd? k 0x0A8 = some v → readImage k v s = .ok (b, e) →
      let w := e.whoSlot k (.issue k)
      let free := findFree (fun i => (e.arenas.find? (dieOf k * 1024 + i)).isNone) 1023 1
      (∀ img z u fs, gramOpc v = 0 → n ≠ 0 → e.grams.find? n = none → readGrammar w (dw (rd b 8 8)) e = .ok (some img, z) →
        imageOk img = true → z.gramFrames ((img.length + 65535) / 65536) = some (u, fs) →
        exec .grammarLoad s = .next (ok { u.copyImage img fs with grams := u.grams.put n ⟨w.tenant, img, fs, false⟩ })) ∧
      (∀ g, gramOpc v = 1 → e.gramFor (e.slot k).tenant n = some g →
        exec .grammarUnload s = .next (ok { e with grams := e.grams.put n { g with unloading := true } })) ∧
      (∀ i, gramOpc v = 2 → rd b 0 8 % 65536 = 0 → rd b 0 8 < 2 ^ 56 → free = some i →
        exec .arenaOpen s = .next (ok
          (({ e with arenas := e.arenas.put (dieOf k * 1024 + i) ⟨(e.slot k).tenant, dw (rd b 0 8), false, 0, none, [], []⟩ }).modSlot
            k fun x => { x with gramstat := setBits x.gramstat 43 32 (dieOf k * 1024 + i) }))) ∧
      (∀ a, gramOpc v = 4 → e.arenaFor (e.slot k).tenant id = some a → a.slot = none →
        exec .arenaClose s = .next (ok { e with arenas := e.arenas.del id })) ∧
      (∀ a x z, gramOpc v = 3 → s.myCommit k = none → e.arenaFor w.tenant id = some a → a.slot = none → 1 ≤ count → count ≤ 1024 →
        rd b 8 8 % 4 = 0 → readMem w (dw (rd b 8 8)) (4 * count) 4 e = .ok (x, z) →
        (∀ i < count, sidOk (rd x (4 * i) 4) = true ∧ z.streamUsable (rd x (4 * i) 4) w.tenant = true) →
        exec .arenaCommit s = .next (({ z with arenas := z.arenas.put id { a with
          slot := some k, ids := (List.range count).map fun i => rd x (4 * i) 4, waits := [] } }).answered k))) ∧
    (∀ i a, s.cmd? k 0x0A8 = some v → gramOpc v = 3 → s.myCommit k = some (i, a) →
      (∀ r t ws u, a.ids ≠ [] → s.advancing i = false → copyStacks (s.whoGram k (.issue k)) i a a.ids [] [] s = .ok (r, t) →
        writeMem (s.whoGram k (.issue k)) (nodeAddr a.base (!a.cur) 0) (r.2.1.flatMap fun x => leBytes 8 x.toNat) 5 t = .ok (ws, u) →
        let z := r.2.2.foldl (fun (z : State) p => z.setGcfg p.1 (setBits (scbGcfg (z.scb p.1)) 63 32 p.2)) u
        exec .arenaCommit s = .next (({ z with arenas := z.arenas.put i { a with
          cur := !a.cur, next := r.2.1.length, ids := [], waits := ws } }).answered k)) ∧
      (a.ids = [] → settleWrites (s.whoGram k (.issue k)) a.waits s = .ok ((), s) →
        exec .arenaCommit s = .next (ok { s with arenas := s.arenas.put i { a with slot := none, waits := [] } })))

/-- R80, R222, R223: the key-value commands, with a table, an entry and room as each needs them: the block's address at ADDR, the
entry and the counts as the command leaves them, KVSTAT 0. A released block of another package is lowered there once its entry is
zero. A copied table frame first raises the counts of its blocks. -/
def Obligations.KeyValueSteps : Prop :=
  ∀ (s : State) (k : Nat) (v : Dword) (c : KvCmd), s.ev.who = k →
    let done := fun (u : State) (r : Nat) => ((u.answered k).modSlot k fun x => { x with kvstat := dw r, kvLow := none }).finishCmd k
    let answers := fun (t : State) (block va : Dword) (u : State) => ∃ ws,
      writeMem (t.whoSlot k (.issue k)) (block + 0x30) (leBytes 8 va.toNat) 5 t = .ok (ws, u)
    let later := fun (t : State) (l : KvLow) => (t.modSlot k fun x => { x with kvLow := some l }).answered k
    let count := fun (e : Dword) => c.tab.countVa (c.tab.blockNo e)
    (∀ a : State, s.cmd? k 0x0B0 = some v → (s.slot k).kvLow = none → s.released k .package = true → kvRead k v s = .ok (.ok c, a) →
      let w := a.whoKv k c.sid
      let entry := fun (t : State) (x : Dword) (u : State) => storeEntry w c.tab c.entry x t = .ok ((), u)
      (∀ n t u z, bits v 63 61 = 0 → kvValid c.old = false → rd c.img 7 1 / 4 % 4 ≤ 1 →
        allocBlock w c.tab (rd c.img 7 1 % 4) c.tab.blks 0 a = .ok (some n, t) →
        let x := dw (rd c.img 7 1 / 4 % 4 * 2 ^ 62 + rd c.img 7 1 % 4 * 2 ^ 44 + 2 ^ 32 + n)
        entry t x u → answers u c.block (c.tab.blockVa x) z → exec .kvAlloc s = .next (done z 0)) ∧
      (∀ p n e r q₀ q z, bits v 63 61 = 1 → kvValid c.old = true → kvTier c.old < 2 →
        placeWrite w (windowAddr c.entry) 8 5 a = .ok (p, r) → readEntry w c.entry 0 r = .ok (e, q₀) →
        countRead w (count e) q₀ = .ok (n, q) →
        (n = 1 → answers q c.block (c.tab.blockVa e) z → exec .kvOpen s = .next (done z 0)) ∧
        (∀ m bs t l u y y₁, n ≠ 1 → allocBlock w c.tab (bits e 45 44) c.tab.blks 0 q = .ok (some m, t) →
          readMem w (c.tab.blockVa e) c.tab.blockSize 4 t = .ok (bs, l) →
          let e' := setBits e 31 0 m
          let low : KvLow := ⟨w.die, none, count e, some (c.block, c.tab.blockVa e'), 0⟩
          storeMem w (c.tab.blockSize / 4096 + 2) (c.tab.blockVa e') bs l = .ok ((), u) → entry u e' y →
          (∀ x, low.away w y = .ok (false, y₁) → kvLower w none (count e) y₁ = .ok (0, x) → answers x c.block (c.tab.blockVa e') z →
            exec .kvOpen s = .next (done z 0)) ∧
          (low.away w y = .ok (true, y₁) → exec .kvOpen s = .next (later y₁ low)))) ∧
      (∀ t t₁, bits v 63 61 = 2 → kvValid c.old = true → entry a 0 t →
        let low : KvLow := ⟨w.die, if kvTier c.old = 2 then some (bits c.old 61 46) else none, count c.old, none, 0⟩
        (∀ r u, kvTier c.old < 2 → low.away w t = .ok (false, t₁) → kvLower w none (count c.old) t₁ = .ok (r, u) →
          exec .kvRelease s = .next (done u r)) ∧
        (kvTier c.old < 2 → low.away w t = .ok (true, t₁) → exec .kvRelease s = .next (later t₁ low)) ∧
        (kvTier c.old = 2 → exec .kvRelease s = .next (later t low)) ∧
        (kvTier c.old = 3 → exec .kvRelease s = .next (done t 0))) ∧
      (bits v 63 61 = 3 → rd c.img 0x10 4 ≤ c.tab.maxblk * c.tab.tokens →
        exec .kvSetlen s = .next (done (a.scbStep c.sid fun r => wr r 0x58 4 (rd c.img 0x10 4)) 0))) ∧
    (∀ i op l r u, (i, op) ∈ [(Instr.kvAlloc, 0), (.kvOpen, 1), (.kvRelease, 2)] → s.cmd? k 0x0B0 = some v → bits v 63 61 = op →
      (s.slot k).kvLow = some l → kvLower { s.whoSlot k (.issue k) with core := none, die := l.die } l.pkg l.va s = .ok (r, u) →
      (l.result ≠ 0 → exec i s = .next (done u l.result)) ∧
      (l.result = 0 → l.answer = none ∨ r ≠ 0 → exec i s = .next (done u r)) ∧
      (∀ block va z, l.result = 0 → l.answer = some (block, va) → r = 0 → answers u block va z → exec i s = .next (done z 0))) ∧
    (∀ j u, s.copies.find? (fun c => decide (c.n = k)) = some j → s.writeDone j.write = true →
      raiseCounts (homeDie j.old) j.n (kvCounts (s.frameDesc j.fresh).kv (s.frameImg j.fresh)) s = .ok ((), u) →
      exec .frameCopyDone s = .next (((u.dropFault (.device j.n)).dropRequests (.device j.n)).endCopy j))

/-- R46, R160–R162, R168–R177, R183, R196: what the stream scheduler, the Trick unit and the Cast unit do by themselves, each in
the case that it has work and nothing holds it. -/
def Obligations.StreamSteps : Prop :=
  ∀ (s : State) (k : Nat), s.ev.who = k →
    (∀ j t u, s.formingTask k s.ev.n s.ev.m = none → s.freeBatch k s.ev.n false = some j →
      s.takeable k s.ev.n s.ev.m = true → s.firstDue k s.ev.n s.ev.m = true →
      (s.beginBatch k s.ev.n s.ev.m).formingTask k s.ev.n s.ev.m = some t →
      writeBatch t (s.beginBatch k s.ev.n s.ev.m) = .ok ((), u) → exec .batchForm s = .next u) ∧
    (∀ m g, s.msg? k 5 = some m → s.firstForGroup m = true → s.group? m.mbox = some g →
      exec .groupMemberUpdate s = .next (({ s.dropMsg m.n with
        groups := s.groups.put m.mbox (g.update m.src true (m.since % 2 == 1) (2 ≤ m.since)) }).checkGroup m.mbox)) ∧
    (∀ m g ws u, s.msg? k 5 = none → s.msg? k 6 = some m → s.firstForGroup m = true → s.group? m.mbox = some g → m.since = 0 →
      writeMem (whoUnit (m.mbox / 2 ^ 30) g.tenant (.device m.n) m.n) (dw (rd g.img 0x10 8)) m.bytes 5 s = .ok (ws, u) →
      exec .groupMemberUpdate s = .next { (u.dropFault (.device m.n)).dropRequests (.device m.n) with
        msgs := u.msgs.map fun (x : Msg) => if x.n = m.n then { x with since := 1 } else x }) ∧
    (∀ id, s.freeFrames k < bits (s.die k).evlow 31 0 ∨ (s.die k).round = true → s.freeFrames k < bits (s.die k).evlow 63 32 →
      s.victim k [] = some id →
      (∀ t, s.evictQuiet id = true → s.evict k id State.evictMove = some t →
        (bits (s.die k).evlow 63 32 ≤ t.freeFrames k ∨ t.victim k [id] = none) →
        exec .evictionRound s = .next (t.modDie k fun x => { x with round := false })) ∧
      (s.evictQuiet id = false → exec .evictionRound s = .next (s.modDie k fun x => { x with round := true }))) ∧
    (∀ id rest n u, (s.die k).evicted = id :: rest → bits (s.die k).evlow 63 32 ≤ s.freeFrames k →
      bits (s.die k).evlow 31 0 + s.awayLeaves id < s.freeFrames k →
      restoreM (whoUnit k (scbTenant (s.scb id)) (.stream id) 0) id s = .ok (n, u) →
      exec .streamRestoreSelf s = .next ((u.dropFault (.stream id)).dropRequests (.stream id))) ∧
    (∀ t g p rest, s.move? k = some t → t.stage = 4 → t.since + 1024 ≤ s.timer.toNat → s.pkgOk t.peer = true →
      s.canTouch t.die t.peer = true → s.freeTags t.die 1 = [g] → t.pages = p :: rest → (∀ d < 8, s.dirUp d = true) → t.peer < 65536 →
      s.pkgOk s.pkgid.toNat = true → t.peer ≠ s.pkgid.toNat → s.egress = [] →
      ∃ u r, exec .snapreqRetry s = .next u ∧ (u.move? k).map (fun x => (x.stage, x.tags)) = some (1, [g]) ∧
        r ∈ u.requests ∧ r.die = t.die ∧ r.tag = g ∧ r.answer = none) ∧
    (∀ t, s.arrivals.find? (fun t => decide (t.n = k)) = some t → t.since + 2 ^ 27 ≤ s.timer.toNat →
      let u := { s with arrivals := s.arrivals.filter fun (x : Transfer) => x.n ≠ t.n }
      exec .transferDiscard s = .next (if t.root = 0 then u else State.lowerNode 3 u t.root)) ∧
    (∀ v e a, s.cmd? k 0x092 = some v → bits v 63 62 = 0 →
      readMem (s.whoSlot k (.issue k)) (keepBits (v <<< 6) 55 6) 64 0 s = .ok (e, a) → a.modelResult (bits v 57 50) e = 0 →
      exec .modelEntryWrite s = .next ((((if rd e 0 2 = 0 then { a with models := a.models.del (bits v 57 50) }
          else { a with models := a.models.put (bits v 57 50) e } : State).modDie (dieOf k) fun d =>
        { d with strmRes := 0 }).answered k).finishCmd k)) ∧
    (∀ f rest, (s.die k).inval = f :: rest → exec .castInvalidate s = .next ((s.watch.getD (f / 65536) []).foldl
      (fun (t : State) w => if w % 2 = 0 then t.modTask (w / 2) fun x => { x with taint := true } else t.castFree (w / 2))
      { s.modDie k fun x => { x with inval := rest } with watch := s.watch.del (f / 65536) }))

/-! ### Launches -/

/-- R49, R54–R57, R114–R116, R122, R156, R157: a packet is taken, a die starts its share, its strands, cards, pairs and streams
follow one by one, the share is over, and the launch completes: its writes first, then the completion word and COMPLETED. -/
def Obligations.LaunchSteps : Prop :=
  ∀ (s : State) (d : Nat), s.ev.who = d →
    (∀ x f fs, s.lqs.find? d = some x → x.frames = f :: fs → x.arms.getD x.head false = true →
      (∀ e ∈ s.inbox, e.kind = 0x41 → e.args.id ≠ x.tenant) →
      let l := newLaunch s d x (s.readHome (f + 256 * x.head) 256) (homeDie f)
      let r := s.launchReason x l
      exec .launchUnitTake s = .next (({ s with
        lqs := s.lqs.put d { x with arms := x.arms.set x.head false, head := (x.head + 1) % x.depth
                                    expseq := if x.expseq = 0xFFFFFFFF then 1 else x.expseq + 1 }
        launches := s.launches ++ [{ l with reason := r, done := r != 0, aborted := false }]
        nextN := s.nextN + 1
        resvLive := if r = 0 ∧ l.cls = true then s.resvLive.put l.resvid l.n else s.resvLive } : State).retireLaunches d)) ∧
    (∀ l, s.launch? s.ev.n = some l → l.aborted = false →
      let i := l.step.getD d 0
      (l.kind = 1 → l.started.contains d = false → s.canStartLaunch d l = true →
        exec .sweepLaunchStart s = .next (s.startLaunch d l)) ∧
      (∀ t, l.kind = 1 → l.started.contains d = true → s.ev.m < l.workers → workerCore s.ev.m / 160 = d →
        l.next.getD s.ev.m 0 = l.ended.getD s.ev.m 0 → l.next.getD s.ev.m 0 < l.rounds →
        s.pushRun (workerCore s.ev.m) (l.record (l.next.getD s.ev.m 0 * l.workers + s.ev.m) (workerCore s.ev.m) s.nextN) = some t →
        exec .sweepStrandStart s = .next (({ t with nextN := t.nextN + 1 } : State).modLaunch l.n fun l' => { l' with
          next := bump l'.next s.ev.m
          live := bump l'.live (l.next.getD s.ev.m 0 * l.workers + s.ev.m)
          held := l'.held.del s.ev.m })) ∧
      (∀ u, l.kind = 2 → l.started.contains d = true → i < l.entries → graphCard d l (dw (rd l.pkt 0x40 8 + 128 * i)) s = .ok ((), u) →
        exec .graphLaunchStart s = .next (u.nextEntry d l)) ∧
      (∀ bs a, l.kind = 3 → l.started.contains d = true → i < l.entries →
        readMem (l.who d) (dw (rd l.pkt 0x40 8 + 4 * i)) 4 4 s = .ok (bs, a) →
        (scbHome (leNat bs) ≠ d → rd l.pkt 0x4C 1 = 0 → exec .streamsetStart s = .next (a.nextEntry d l)) ∧
        (∀ u, scbHome (leNat bs) = d → rd l.pkt 0x4C 1 = 0 → startPair d l i (leNat bs) a = .ok ((), u) →
          exec .streamsetStart s = .next (u.nextEntry d l)) ∧
        (scbHome (leNat bs) = d → rd l.pkt 0x4C 1 = 1 →
          exec .streamsetAdvance s = .next ((a.advancePair d l (leNat bs)).nextEntry d l)))) ∧
    (∀ l, s.launch? s.ev.n = some l → l.reason = 0 → l.finished.contains d = false → s.shareDone d l = true →
      exec .launchDieDone s = .next (s.modLaunch l.n fun l => { l with finished := l.finished ++ [d] })) ∧
    (∀ l, s.launch? d = some l → l.comp.toNat % 8 = 0 →
      let fences := fun die (a b : State) => fenceTouched die (.launch l.n l.home) 0 a = .ok ((), b)
      (l.reason = 0 → l.stage = 0 → 4 ≤ l.finished.length →
        exec .launchComplete s = .next (s.modLaunch l.n fun l => { l with stage := 1, waits := s.writes.map (·.n) })) ∧
      (∀ t u, (l.reason = 0 → l.stage = 1 ∧ 4 ≤ l.finished.length) → l.stage ≠ 2 → l.waits.all s.writeDone = true →
        (if l.reason = 0 then ∃ a b c, fences 0 s a ∧ fences 1 a b ∧ fences 2 b c ∧ fences 3 c t else t = s) →
        writeComp l t = .ok ((), u) →
        exec .launchComplete s = .next (u.closeLaunch l)))

/-! ### Links -/

/-- R30, R35, R105, R177, R178, R180, R363, R367: a request that a step deals with is performed and answered with STATUS 0: READ
with the bytes, AMO with the old value, MSG and STRAND once they have entered their core, SNAPREQ with whether the page is
held, SNAPDATA and CKPT once stored, FENCE once as many requests of its source are performed as it names. -/
def Obligations.RequestSteps : Prop :=
  ∀ (s u : State) (e : Inbound),
    let p := e.pkt
    let stores := fun (v : State) (ws : List Nat) => ((v.dropFault (.device e.n)).dropRequests (.device e.n)).modIn e.n fun x =>
      { x with stage := 1, writes := ws }
    (∀ bs v, s.Serves 1 e u → readHomes e.whoIs 0 (Packet.fld p 0x18 4 / 4096 + 2) (Packet.va p) (Packet.fld p 0x18 4) u = .ok (bs, v) →
      exec .readRequest s = .next (v.answerIn e 0 [] bs)) ∧
    (∀ ws v, s.Serves 2 e u → e.stage = 0 → writeMem e.whoIs (Packet.va p) (Packet.payload p) 1 u = .ok (ws, v) →
      exec .writeRequest s = .next (stores v ws).settleInbox) ∧
    (∀ pa n v z, s.Serves 3 e u → e.stage = 0 → Packet.fld p 0x18 1 ≠ 11 →
      let size := if Packet.fld p 0x19 1 = 0 then 4 else 8
      placeWrite e.whoIs (Packet.va p) size 2 u = .ok (.mem pa, v) → v.poisoned pa = false →
      homeAtomic e.whoIs pa size (Packet.fld p 0x18 1) (Packet.fld p 0x20 8) (Packet.fld p 0x28 8) v = .ok (n, z) →
      exec .amoRequest s = .next (z.answerIn e 0 [(0x20, 8, leNat (v.readHome pa size))] [])) ∧
    (∀ c v, s.Serves 4 e u → u.forwarded (Packet.core p) = some c → u.arriveMbox c (Packet.fld p 0x13 1) (Packet.payload p) = some v →
      exec .msgRequest s = .next (v.answerIn e 0 [] [])) ∧
    (∀ c v, s.Serves 5 e u → u.forwarded (Packet.core p) = some c → Packet.fld p 0x13 1 = 0 →
      State.pushRun { u with nextN := u.nextN + 1 } c (recOfBytes (p.data.take 128) u.nextN (c / 4)) = some v →
      exec .strandRequest s = .next (v.answerIn e 0 [] [])) ∧
    (∀ t v, s.Serves 6 e u → u.openArrival e.args.who p = some (v, t) →
      (∀ z, Packet.fld p 0x18 8 = 0 → Packet.fld p 0x20 8 = 0 → v.mapArrival t (Packet.fld p 0x14 4) (newLeaf 3 0) = some z →
        exec .snapreq s = .next (z.answerIn e 0 [(0x11, 1, 0)] [])) ∧
      (∀ f z, (dw (Packet.fld p 0x18 8) ≠ 0 ∨ dw (Packet.fld p 0x20 8) ≠ 0) →
        v.frameWithHash t.tenant (dw (Packet.fld p 0x18 8)) (dw (Packet.fld p 0x20 8)) = some f →
        ((v.raiseFrame f).clearExclFrame f).mapArrival t (Packet.fld p 0x14 4) (newLeaf 0 f) = some z →
        exec .snapreq s = .next (z.answerIn e 0 [(0x11, 1, 1)] []))) ∧
    (∀ t v, s.Serves 7 e u → u.openArrival e.args.who p = some (v, t) →
      (∀ z, Packet.fld p 0x14 4 ≠ 0xFFFFFFFF → (u.arrival? p).isSome = true → v.arrivalHeld t (Packet.fld p 0x14 4) = none →
        v.arrivalData t (Packet.fld p 0x14 4) (Packet.fld p 0x18 4) p.data = some (z, true) →
        exec .snapdata s = .next (z.answerIn e 0 [] [])) ∧
      (∀ id z, Packet.fld p 0x14 4 = 0xFFFFFFFF → v.freeStream e.args.who = some id →
        let reply := dw (rd p.data 0x100 8)
        let r := wr (wr (wr (wr (wr (p.data.take 256) 0 4 id) 0x30 4 0xFFFFFFFF) 0x2C 4 0) 7 1 0) 8 8 t.root
        (if reply = noReply then z = v else regionOf reply = .tenant ∧
          tellPeer e.whoIs (Packet.src p) reply (leBytes 8 (2 ^ 63 + id)) v = .ok ((), z)) →
        exec .snapdata s = .next ((State.settle { z with
          scbs := z.scbs.put id (setState r 0), arrivals := z.arrivals.filter fun (x : Transfer) => x.n ≠ t.n } id).answerIn e 0 [] []))) ∧
    (s.Serves 8 e u → u.ckrecv.msb = true → bits u.ckrecv 47 4 * 4096 ≤ Packet.fld p 0x28 8 →
      Packet.fld p 0x28 8 + 4096 ≤ bits u.ckrecv 47 4 * 4096 + bits u.ckrecv 62 48 * 2 ^ 30 →
      (∀ ws v, e.stage = 0 → writeMem { e.whoIs with tenant := 0 } (dw (Packet.fld p 0x28 8)) p.data 5 u = .ok (ws, v) →
        exec .ckptPacketReceive s = .next (((v.dropFault (.device e.n)).dropRequests (.device e.n)).modIn e.n fun x => { x with stage := 1 })) ∧
      (e.stage ≠ 0 → u.allPerformed e.n = true → exec .ckptPacketReceive s = .next (u.answerIn e 0 [] []))) ∧
    (s.Serves 9 e u →
      let done := (([0, 1, 2, 3] : List Nat).map fun d => (u.die d).performed.getD (Packet.src p * 4 + Packet.srcDie p) 0).sum
      (done + 2 ^ 48 - Packet.fld p 0x10 6) % 2 ^ 48 < 2 ^ 47 → exec .fencePacket s = .next (u.answerIn e 0 [] []))

/-- R23, R25, R28, R31–R33: a response answers the request that its TAG names, and so does the time-out with UNREACH; a packet for
another package leaves by its port when its channel holds credits, and the credits of its buffer go back; ports leave service and
come back, and credits return. -/
def Obligations.LinkSteps : Prop :=
  ∀ (s : State),
    let p := s.ev.pkt
    let die := s.ev.who
    let src := Packet.srcDie p
    let link := StepArgs.link s.ev
    let st := if 8 ≤ (p.head.getD 0x10 0).toNat then 4 else p.head.getD 0x10 0
    let i := 8 * (die % 8) + s.ev.n % 8
    (∀ r, s.rxRoom s.ev = true → Packet.dst p = s.pkgid.toNat → Packet.cls p = 1 → headBad p = false →
      (responseRest p).all (· == 0) = true →
      s.requests.find? (fun (r : Request) => decide (r.die = src ∧ r.tag = Packet.tag p ∧ r.answer.isNone = true ∧ r.opc = Packet.type p))
        = some r → s.timedOut r = false → Packet.len p = responseLen r →
      exec .responseReceive s = .next (((s.emit (.credits link.1 link.2.1 link.2.2 (Packet.flits p))).answerRequest src r.tag st
        (Packet.result p)).moveOfTag src r.tag)) ∧
    (∀ r ∈ s.requests, r.die = die → r.tag = s.ev.n → r.answer = none → r.dst < 65536 → s.timedOut r = true →
      exec .responseTimeout s = .next ((s.answerRequest die s.ev.n 5 []).moveOfTag die s.ev.n)) ∧
    (∀ d o q, let key := creditKey d o (Packet.vc q)
      Packet.dst p ≠ s.pkgid.toNat → s.rxRoom s.ev = true → s.frozen = false → s.egress = [] →
      s.hop none (some link.1) p = some (d, o, q) → s.mayStart d o q = true →
      exec .packetForward s = .next (((State.emit { s with credits := s.credits.put key (s.credits.getD key 0 + Packet.flits q) }
        (.packet d o q)).emit (.credits link.1 link.2.1 link.2.2 (Packet.flits q))))) ∧
    (s.linkup.getLsbD i = true → (s.ev.flag = true ∨ 8 ≤ s.crcFails.getD i 0) → ∃ t, exec .portLeaveService s = .next t ∧
      t.linkup = s.linkup &&& ~~~ BitVec.twoPow 64 i ∧ die % 8 ∈ t.draining) ∧
    (s.linkup.getLsbD i = false → ∃ t, exec .portRejoin s = .next t ∧ t.linkup = s.linkup ||| BitVec.twoPow 64 i ∧
      die % 8 ∈ t.draining) ∧
    (s.egress = [] → exec .neighbourDrainReport s = .next { s with draining := s.draining.filter (· ≠ die % 8) }) ∧
    (let key := creditKey (die % 8) (s.ev.n % 8) (s.ev.m % 4);
      s.egress = [] → exec .creditReturn s = .next { s with credits := s.credits.put key (s.credits.getD key 0 - s.ev.k) }) ∧
    exec .flitReplay s = .next { s with crcFails := s.crcFails.put i (if s.ev.flag then s.crcFails.getD i 0 + 1 else 1) }

/-! ### Ethernet, pages, and the drain of a checkpoint -/

/-- R38–R42: a message on a bound queue pair that its key allows is performed and acknowledged: WRITE, 64-byte line by line,
once its writes are performed, READ with the bytes, CAS and FETCH-ADD with the old value; acknowledgements end what they name, a
queue pair sends again from the oldest message, and notifications and time move its rate. -/
def Obligations.EthernetSteps : Prop :=
  ∀ (s u : State) (e : Inbound) (t : Half),
    let a := e.args
    let q := s.ev.who
    let x := s.qp q
    (s.Hears 0x21 e t u →
      (a.bs ≠ [] → a.bs.length ≤ 2 ^ 30 → (e.stage = 0 → u.keyOk a.n t a.a a.bs.length (·.write) = true) →
        let rest := a.bs.drop e.stage
        let va := a.a + BitVec.ofNat 64 e.stage
        let line := min rest.length (64 - va.toNat % 64)
        (∀ v, rest ≠ [] → writeLine a.who (e.rdma t) va (rest.take line) u = .ok ((), v) →
          exec .rdmaWrite s = .next (((v.dropFault (.device e.n)).dropRequests (.device e.n)).modIn e.n fun y =>
            { y with stage := y.stage + line })) ∧
        (rest = [] → u.allPerformed e.n = true → exec .rdmaWrite s = .next (u.acked e [])))) ∧
    (∀ bs v, s.Hears 0x22 e t u → 1 ≤ a.m → a.m ≤ 2 ^ 30 → u.keyOk a.n t a.a a.m (·.read) = true →
      readHomes (e.rdma t) 6 (a.m / 4096 + 2) a.a a.m u = .ok (bs, v) → exec .rdmaRead s = .next (v.acked e bs)) ∧
    (∀ pa n v z, a.a.toNat % 8 = 0 → u.keyOk a.n t a.a 8 (·.atomic) = true → placeWrite (e.rdma t) a.a 8 6 u = .ok (.mem pa, v) →
      (s.Hears 0x23 e t u → homeAtomic (e.rdma t) pa 8 9 a.c.toNat a.b.toNat v = .ok (n, z) →
        exec .roceCas s = .next (z.acked e (leBytes 8 (leNat (v.readHome pa 8))))) ∧
      (s.Hears 0x24 e t u → homeAtomic (e.rdma t) pa 8 0 a.b.toNat 0 v = .ok (n, z) →
        exec .roceFetchAdd s = .next (z.acked e (leBytes 8 (leNat (v.readHome pa 8)))))) ∧
    ((s.qpTenant q).isSome = true → s.ev.flag = false →
      ((∀ p ∈ x.pend, p.1 = s.ev.n → p.2.2.2.reads = false) → exec .roceAckReceive s = .next (s.ackUpTo q s.ev.n)) ∧
      (∀ p, x.pend.find? (fun p => p.1 == s.ev.n) = some p → p.2.2.2.reads = true → p.2.2.2.responseLen = s.ev.bs.length →
        exec .roceAckReceive s = .next (State.answerHost ((s.ackUpTo q s.ev.n).modQp q fun y => { y with
          pend := y.pend.filter fun p => p.1 != s.ev.n, tries := 0, since := s.timer.toNat }) p.2.1 p.2.2.1 0 s.ev.bs))) ∧
    ((s.qpTenant q).isSome = true → s.ev.flag = true → s.ev.bs.getD 0 0 = 0 →
      exec .roceAckReceive s = .next ((s.ackUpTo q ((s.ev.n + 2 ^ 24 - 1) % 2 ^ 24)).resend q s.ev.n)) ∧
    (∀ p ps, x.pend = p :: ps → x.opened = true → x.since + x.timeout ≤ s.timer.toNat →
      (x.tries < x.retries → exec .roceRetransmit s = .next ((s.resend q p.1).modQp q fun y =>
        { y with tries := y.tries + 1, since := s.timer.toNat })) ∧
      (x.retries ≤ x.tries → exec .roceRetransmit s = .next (s.failQp q))) ∧
    ((s.qpTenant q).isSome = true → x.lastCut = none → exec .cnpReceive s = .next (s.modQp q fun y =>
      { y with rate := y.rate / 2, lastCut := some s.timer.toNat, lastCnp := s.timer.toNat })) ∧
    (∀ c, (s.qpTenant q).isSome = true → x.lastCut = some c → s.timer.toNat < c + 65000 → exec .cnpReceive s = .next (s.modQp q fun y =>
      { y with lastCnp := s.timer.toNat })) ∧
    (x.opened = true → x.rate < 1 → x.lastCnp + 71500 ≤ s.timer.toNat → exec .rateRecover s = .next (s.modQp q fun y =>
      { y with rate := min 1 (y.rate + 1 / 20), lastCnp := s.timer.toNat })) ∧
    (let held := s.qps.filter fun (z : Nat × QueuePair) => decide ((qpDie z.1, z.2.prio) = (q % 4, s.ev.n))
      let go := { s with pause := s.pause.filter (· ≠ (q % 4, s.ev.n)) };
      s.ev.flag = false → (held = [] → exec .pfcPauseFrame s = .next go) ∧
        ∀ j y, held = [(j, y)] → s.qp j = y →
          let t := go.modQp j fun z => { z with wait := [] }
          exec .pfcPauseFrame s = .next (if y.opened then y.wait.foldl State.emit t else t)) ∧
    (s.ev.flag = true → s.ev.n ≤ 7 → s.pause = [] → exec .pfcPauseFrame s = .next { s with pause := [(q % 4, s.ev.n)] })

/-- R58–R62: a SYSREPLY on the tenant's system queue pair that answers a busy entry delivers its result register and frees the
entry; a PAGEREQ for a page that the device may give has it granted; a PAGEREP that grants maps the page at its landing frame;
a page that has settled is the host's again. R36, R62, R64, R93, R179, R180: the packets of an undrained frame leave, and once
all are answered OK it is drained; a drain without progress fails; the drain ends with its event; a side copy takes the
contents, and the frame the new generation; a settled page is the host's again. -/
def Obligations.PageAndDrainSteps : Prop :=
  (∀ (s u : State) (e : Inbound) (t : Half), s.Hears 0x20 e t u → u.sysQp t = e.args.who →
    let bs := e.args.bs
    let d := rd bs 4 4 / 256 % 4
    let i := rd bs 4 4 % 256
    let va := rd bs 8 8 / 2 * 2
    (∀ y, rd bs 0 1 = 2 → (u.die d).sysc.find? i = some y → bs.length = 16 → rd bs 1 3 = 0 → y.busy = true →
      y.gen.toNat = rd bs 4 4 / 1024 → y.launch = none → y.slot < 5120 →
      let v := u.modDie d fun z => { z with sysc := z.sysc.put i { y with busy := false } }
      exec .sysreply s = .next ((v.deliverFill y.slot y.reg (dw (rd bs 8 8)) true).acked e []) ∧
      exec .roceSendReceive s = .next ((v.deliverFill y.slot y.reg (dw (rd bs 8 8)) true).acked e [])) ∧
    (∀ v, rd bs 0 1 = 3 → (s.ev.k ≠ 0 ∨ s.ev.bs ≠ []) → pageMsgBad bs = false → u.pageState t va = none → rd bs 8 8 % 2 = 0 →
      u.mayGrant t va false = true → grantPage e.args.who t va u = .ok ((), v) →
      exec .pagereq s = .next ((v.sendRoce e.args.who 0 4096 (.frame e.args.who (pagerep 0 bs))).acked e [])) ∧
    (∀ p, rd bs 0 1 = 4 → pageMsgBad bs = false → u.pageState t va = some p → p.asked = true →
      (rd bs 1 1 = 1 → exec .pagerep s = .next (((u.freeLanding p).dropPage p).acked e [])) ∧
      (∀ v, rd bs 1 1 = 0 → u.rewriteLeaf t va (fun x =>
          let x := setBits (setBits (setBits (setBits (setBits x 57 56 0) 39 16 (p.frame / 65536)) 11 10 0) 8 8 0) 0 0 1
          if bits x 3 1 = 0 then setBits x 2 1 3 else x) = some v → ∃ w, exec .pagerep s = .next w ∧
        w.pages = v.pages.filter (fun (x : PageState) => x ≠ p) ∧ (w.frameDesc p.frame).refcnt = 1 ∧ (w.frameDesc p.frame).pincnt = 0 ∧
        ∀ f ∈ w.faults, f.tenant = t → f.kind = kHostPage → f.va.toNat / 65536 = va / 65536 → f.verdict.isSome = true))) ∧
  (∀ (s : State) (d : Drain) (f : Nat), s.ev.who = f →
    let tags := Table.getD d.busy f []
    let home := homeDie (f * 65536)
    (s.drain = some d → d.failed = false → s.sideBusy f = false →
      (tags = [] → s.drainNext f = true → exec .drainSend s = .next (State.drainPackets f 16 s)) ∧
      (tags.length = 16 → (∀ g ∈ tags, ∃ bs,
          (s.requests.find? fun (r : Request) => decide (r.who = drainReq ∧ r.die = home ∧ r.tag = g)).bind (·.answer) = some (0, bs)) →
        exec .drainSend s = .next (s.drained d f))) ∧
    (s.drain = some d → d.since + 2 ^ 27 ≤ s.timer.toNat →
      exec .drainStallTimeout s = .next { s with drain := some { d with failed := true } }) ∧
    (s.drain = some d → (d.failed = true ∨ (s.undrained = [] ∧ d.busy = [])) →
      exec .drainEnd s = .next (State.emit { s with
        drain := none, requests := s.requests.filter fun (r : Request) => r.who ≠ drainReq }
          (.event 2 (leBytes 4 s.ckgen.toNat ++ [if d.failed then 1 else 0])))) ∧
    (∀ fr, s.side.find? f = some fr → s.sideBusy f = true →
      let img := sliceMem s.mem (viewKey home (f * 65536)) 65536
      let t := { s with mem := ([0, 1, 2, 3] : List Nat).foldl (fun m v => replaceMem m (viewKey v fr) 65536 img) s.mem }
      exec .sideCopyDone s = .next ((t.modFrame fr fun x => { x with pincnt := 0 }).modFrame (f * 65536) fun x => { x with gen := s.ckgen })) ∧
    (∀ p u, s.pageState s.ev.id s.ev.a.toNat = some p → p.asked = false → p.limit ≤ s.timer.toNat →
      (s.dropPage p).rewriteLeaf s.ev.id p.va.toNat hostLeaf = some u → exec .settleTimeEnd s = .next u))

/-! ### Power, freeze, attestation, and the management path -/

/-- R9, R12–R16, R18–R20: package reset comes up with the boot configuration, or stops with its cause; thermal warnings and
throttling show in PWRSTAT; each source of a freeze asserts it, the first keeps its cause, and the clocks restart once the
conditions of every source in force hold; a read-out while frozen changes no state. -/
def Obligations.PowerSteps : Prop :=
  ∀ (s : State),
    let b := s.ev.boot
    let d := s.ev.who % 4
    let z := s.freeze
    let trip := fun cause (f : Freeze) => { s with pwr := if z.any then s.pwr else setBits s.pwr 7 6 cause, freeze := f }
    (s.firmwareOk b = true → bootBad b s.pkgid = false → b.restore = none → exec .packageReset s = .next { s.afterReset with
      poolsz := b.poolsz, torus := (b.wsz, b.xsz, b.ysz, b.zsz), linkup := b.linkup, images := b.images }) ∧
    (∀ gen img, s.firmwareOk b = true → bootBad b s.pkgid = false → b.restore = some (gen, img) →
      ∃ t, exec .packageReset s = .next t ∧ t.ckgen = gen ∧ t.launches = [] ∧ t.lqs = [] ∧ t.qps = [] ∧ t.slots = [] ∧ t.timer = 0 ∧ t.images = b.images) ∧
    (s.firmwareOk b = false → exec .packageReset s = .next (State.emit { s.afterReset with boot := 1, images := [] } (.event 3 [1]))) ∧
    (s.firmwareOk b = true → bootBad b s.pkgid = true →
      exec .packageReset s = .next (State.emit { s.afterReset with boot := 2, images := b.images } (.event 3 [2]))) ∧
    (s.pkgBurnt = false → exec .packageIdBurn s = .next { s with pkgid := s.ev.id, pkgBurnt := true }) ∧
    (s.pkgBurnt = true → exec .packageIdBurn s = .next s) ∧
    (∃ t, exec .thermalWarning s = .next t ∧ t.pwr.getLsbD d = true ∧ t.pwr.getLsbD 4 = true ∧ t.freeze.thermalOk = false ∧
      ∀ i < 64, i ≠ d → i ≠ 4 → t.pwr.getLsbD i = s.pwr.getLsbD i) ∧
    (∃ t, exec .thermalWarningClear s = .next t ∧ t.pwr.getLsbD d = false ∧
      (t.pwr.getLsbD 4 = true ↔ ∃ i < 4, i ≠ d ∧ s.pwr.getLsbD i = true) ∧
      ∀ i < 64, i ≠ d → i ≠ 4 → t.pwr.getLsbD i = s.pwr.getLsbD i) ∧
    exec .throttleStart s = .next { s with pwr := s.pwr ||| 0x20 } ∧
    exec .throttleEnd s = .next { s with pwr := s.pwr &&& ~~~ 0x20 } ∧
    (s.ev.flag = false → exec .trip s = .next (trip 1 { z with thermal := true, thermalOk := false })) ∧
    (s.ev.flag = true → exec .trip s = .next (trip 2 { z with current := true, currentOk := false })) ∧
    exec .freezePinAssert s = .next (trip 3 { z with pin := true, edges := none }) ∧
    exec .aigonFreezeRequest s = .next (trip 3 { z with aigon := true, aigonOk := false }) ∧
    (z.pin = true → exec .freezePinDeassert s = .next { s with freeze := { z with edges := some 0 } }) ∧
    (z.thermal = true → bits s.pwr 3 0 = 0 → exec .thermalThaw s = .next { s with freeze := { z with thermalOk := true } }) ∧
    (z.current = true → exec .currentThaw s = .next { s with freeze := { z with currentOk := true } }) ∧
    (z.aigon = true → (z.pin = true → z.edges ≠ none) → (z.thermal = true → z.thermalOk = true) →
      (z.current = true → z.currentOk = true) →
      exec .aigonThawRequest s = .next { s with freeze := { z with aigonOk := true } } ∧
      (s.boot ≠ 1 → exec .thaw s = .next (State.emit { s with freeze := { z with aigonOk := true } } (.answer [0])))) ∧
    (s.boot = 1 → exec .thaw s = .next s ∧ exec .attest s = .next s) ∧
    (z.any = true → (z.pin = true → z.edges ≠ none) → (z.thermal = true → z.thermalOk = true) →
      (z.current = true → z.currentOk = true) → (z.aigon = true → z.aigonOk = true) → s.egress = [] →
      ∃ t, exec .thawRestart s = .next t ∧ t.freeze.any = false ∧
        t = { s with freeze := t.freeze, agenda := s.linkHeld ++ s.agenda, linkHeld := [] }) ∧
    (∀ k n, z.any = true → s.ev.target = .register k n → exec .readoutRequest s = .next (s.emit (.readout (0 :: s.readoutRegister k n)))) ∧
    (let q := s.ev.bs ++ leBytes 2 s.pkgid.toNat ++ (s.images.flatMap fun i => Sha.sha512 i.bytes) ++ leBytes 4 s.fuseVer ++
        [BitVec.ofNat 8 s.poolsz] ++ (s.tenants.filter fun e => e.2.locked).flatMap fun e => leBytes 2 e.1;
      s.boot ≠ 1 → s.ev.bs.length = 64 → exec .attest s = .next (s.emit (.answer (0 :: q ++ Config.quoteSignature q))))

/-- R39, R40, R43–R47, R63, R64, R92: a management command that nothing refuses has its effect and is answered OK. (The numbers of
the answers and the registration of a remote key are the model's, log entries 32 and 33.) -/
def Obligations.ManageSteps : Prop :=
  ∀ (s : State),
    let e := s.ev
    let ok := fun (t : State) => t.emit (.answer [0])
    (s.tenant? e.id = none → e.id ≠ 0 → e.b ≠ 0 → e.c ≠ 0 → e.b ≠ e.c → (s.qp e.who).opened = true → s.rootBad e.a = false →
      s.tenants.length < 4096 → (s.qp e.who).tenant = 0 → exec .tcreate s = .next (ok (State.modQp { s with
        tenants := s.tenants.put e.id.toNat ⟨e.a, e.b, e.c, BitVec.ofNat 32 e.n, BitVec.ofNat 32 e.m, e.who, false⟩ } e.who
          fun q => { q with tenant := e.id }))) ∧
    (∀ x, s.tenant? e.id = some x →
      exec .tlock s = .next (ok { s with tenants := s.tenants.put e.id.toNat { x with locked := true } }) ∧
      ((s.qp e.who).opened = true → (s.qp e.who).tenant = 0 →
        exec .qpbind s = .next (ok (s.modQp e.who fun q => { q with tenant := e.id }))) ∧
      (∀ pa, s.lqs.find? e.who = none → e.who < 64 → regionOf e.a = .tenant → e.a.toNat % 65536 = 0 → s.lqFrame e.id e.a = some pa →
        e.n ∈ [16, 32, 64, 128, 256] → (s.frameDesc pa).pincnt ≠ 0xFFFF →
        ∃ t q, exec .lqcreate s = .next t ∧ t.lqs.find? e.who = some q ∧ q.tenant = e.id ∧ q.base = e.a ∧ q.depth = e.n ∧ q.qp = e.m ∧
          q.head = 0 ∧ q.expseq = 1 ∧ q.completed = 0 ∧ q.overrun = 0 ∧ q.lost = 0 ∧ (∀ i, q.arms.getD i false = false) ∧
          (t.frameDesc pa).pincnt = (s.frameDesc pa).pincnt + 1 ∧ (t.frameDesc pa).lq = true)) ∧
    (e.m = 0 → e.who < 4096 → e.n ∈ [1024, 2048, 4096] →
      let was := (s.qp e.who).opened
      let t := if e.flag then s else s.failQp e.who
      exec .queuePairSetup s = .next (t.modQp e.who fun q => { q with
        opened := e.flag, addr := e.addr, mtu := e.n, timeout := e.b.toNat, retries := e.c.toNat, prio := e.k % 8, tries := 0
        since := t.timer.toNat
        psn := if was then q.psn else e.psn / 2 ^ 24 % 2 ^ 24
        epsn := if was then q.epsn else e.psn % 2 ^ 24
        nakked := was && q.nakked, done := if was then q.done else [] })) ∧
    (e.m = 1 → exec .queuePairSetup s = .next { s with
      rkeys := s.rkeys.put e.n ⟨e.id, e.a, e.b, e.c.getLsbD 0, e.c.getLsbD 1, e.c.getLsbD 2⟩ }) ∧
    (e.m = 2 → exec .queuePairSetup s = .next { s with rkeys := s.rkeys.del e.n }) ∧
    (∀ x, s.lqs.find? e.who = some x → x.arms.any id = false → (∀ l ∈ s.launches, l.q ≠ e.who) → exec .lqdestroy s = .next (ok (s.dropQueue e.who))) ∧
    ((s.tenant? e.id).isSome = true → e.k = 0 → exec .tdestroy s = .next (State.abortTenant { s with
      inbox := s.inbox ++ [{ n := s.nextN, kind := 0x41, args := e, stage := 1 }], nextN := s.nextN + 1 } e.id)) ∧
    (∀ x, e.k ≠ 0 → s.inbox.find? (fun (x : Inbound) => decide (x.n = e.k ∧ x.kind = 0x41)) = some x →
      (s.tenant? x.args.id).isSome = true → (s.abortTenant x.args.id).quietTenant x.args.id = true →
      exec .tdestroy s = .next (ok (((s.abortTenant x.args.id).destroyTenant x.args.id).dropIn x.n))) ∧
    (544 * 2 ^ 30 ≤ e.b.toNat → s.pkgOk e.id.toNat = true → e.a.toNat % 4096 = 0 → s.drain = none →
      exec .tierset s = .next (ok { s with tier := some (e.id, e.a, e.b) })) ∧
    (e.k = 0 → e.n % 256 ≠ 0 → s.tier ≠ none → s.dirsUp (BitVec.ofNat 8 (e.n % 256)) ≠ [] → s.drain = none → s.cutReady = true →
      ∃ t d, exec .ckptreq s = .next t ∧ t.ckgen = s.ckgen + 1 ∧ t.drain = some d ∧ d.mask = BitVec.ofNat 8 (e.n % 256) ∧
        d.failed = false ∧ t.out = s.out ++ [.answer (0 :: leBytes 4 (s.ckgen + 1).toNat)] ∧ t.mem = s.mem)

/-! ### Homes, faults, cores, and the scheduler -/

/-- R84, R85, R98, R107, R355: a home performs a write whose stamp conditions hold, and another die applies it; an ordered
contribution folds in the order of its ticket; a fault's message takes the lowest tag and goes to the service core, and a
reply gives the verdict of the fault with its tag. R256, R264, R265: the vector unit serves the first core after the one
served last that has an instruction dispatched, and what it takes has its results from then on; a core sleeps when each of its
slots lets it and wakes when one does not. -/
def Obligations.HomeSteps : Prop :=
  (∀ (s : State) (w : Write) (f : FaultRec) (k : Nat) (o : Outst),
    (s.writes.find? (fun w => decide (w.n = s.ev.who)) = some w → w.performed = false → s.stampHolds (homeDie w.data.base) w = true →
      s.orderHolds (homeDie w.data.base) w = true →
      ((∀ r ∈ w.data.ranges, s.oldFrame r.1 = false) → exec .writePerform s = .next (s.performWrite w)) ∧
      (∀ r, w.data.ranges.find? (fun r => s.oldFrame r.1) = some r → exec .writePerform s = .next (s.beginSide r.1))) ∧
    (s.writes.find? (fun w => decide (w.n = s.ev.n)) = some w → w.performed = true → w.todo.contains s.ev.who = true →
      s.stampHolds s.ev.who w = true → s.orderHolds s.ev.who w = true →
      exec .announcementApply s = .next (s.applyWrite s.ev.who w)) ∧
    (∀ ea size x t sc d p addr u, s.ev.flag = false → s.target = some (k, o) → o.op = .redord ea size x t sc d false → o.st = .ready →
      (s.slot k).mayLeave o = true →
      let w := s.whoOp k o
      placeWrite w ea size 2 s = .ok (p, u) →
      (p = .mem addr ∨ ∃ c off, p = .ls c off ∧ addr = 2 ^ 50 + lsKey c off ∧ s.storeTurn w c = true) →
      let v := (u.setOut k { o with op := .redord ea size x t sc d true }).redArrive
        { addr := addr, bank := redBank addr, die := w.die, size := size, ticket := bits t 31 0, last := bits t 63 32, x := x
          stamp := (u.die w.die).view, who := some (k, o.id), cmd := none, uid := w.uid }
      exec .redordArrive s = .next (if v.2 then v.1 else v.1.setOut k { o with st := .refused })) ∧
    (s.ev.flag = false → s.target = some (k, o) → o.st = .refused →
      exec .redordResend s = .next (s.setOut k { o with st := .ready })) ∧
    (∀ tag, s.faults.find? (fun f => decide (f.die = s.ev.who ∧ f.tag.isNone = true)) = some f →
      findFree (fun t => !(s.faults.any fun g => g.die == f.die && decide (g.tag = some t))) 4096 0 = some tag →
      ∃ t, exec .faultMessageSend s = .next t ∧
        t.msgs = s.msgs ++ [⟨s.nextN, 0, 0, 0, coreOf (svcSlot f.die), 0, f.message tag, none, none, true, 0, s.faultStation f.req⟩] ∧
        t.faults = s.faults.map fun g => if g.req = f.req ∧ g.va = f.va then { g with tag := some tag } else g) ∧
    (∀ v, replyVerdict s.ev.bs = some v → s.faults.find? (fun f =>
        decide (f.die = s.ev.who ∧ f.tag = some (rd s.ev.bs 4 2) ∧ f.verdict = none)) = some f →
      let given := fun (v : Verdict) => { s with
        faults := s.faults.map fun (g : FaultRec) => if g.req = f.req ∧ g.va = f.va then { g with verdict := some v } else g
        nodes := releaseHolds [f] s.nodes }
      (s.pageState f.tenant f.va.toNat = none → exec .faultReply s = .next (given v)) ∧
      ∀ p, s.pageState f.tenant f.va.toNat = some p →
        exec .faultReply s = .next (if p.asked then s else given .remote)) ∧
    (replyVerdict s.ev.bs = none → exec .faultReply s = .next (s.modDie s.ev.who fun x => { x with drops := x.drops + 1 }))) ∧
  (∀ (s : State) (c : Nat), s.ev.who = c →
    (∀ i k o fs, i < 4 → (∀ j < i, s.vectorHead (4 * c + ((s.cluster c).vrot + 1 + j) % 4) = none) →
      s.vectorHead (4 * c + ((s.cluster c).vrot + 1 + i) % 4) = some (k, o) →
      let served := fun (st : OpState) => (s.setOut k { o with st := st }).modCluster c fun x =>
        { x with vrot := ((s.cluster c).vrot + 1 + i) % 4 }
      (o.op = .vector fs → exec .vectorIssue s = .next (served (.returned fs))) ∧
      ((∀ l, o.op ≠ .vector l) → exec .vectorIssue s = .next (served .ready))) ∧
    (s.idleCoreNow c = true → exec .coreSleep s = .next (s.modCore c fun x => { x with asleep := true })) ∧
    (s.idleCoreNow c = false → exec .coreWake s = .next (s.modCore c fun x => { x with asleep := false })))

/-- R125, R127–R133, R136, R137, R143, R144, R146, R148: the first task of a queue takes a slot of the core that the dispatcher
chooses, starts there, and retires step by step; held cards enter their queue and fault entries the fault queue; reservations
reload, and are written as stages are; the urgent slot is claimed, started and given back. -/
def Obligations.SchedulerSteps : Prop :=
  ∀ (s : State) (d : Nat) (t : Task), s.ev.who = d →
    let done := fun (u : State) => (u.answered d).finishCmd d
    (∀ k, s.queueBlocked d s.ev.n = false → s.firstTask d s.ev.n = some t → (cardPure t.img = true → t.looked = true) →
      s.chooseCore t = some k → exec .dispatch s = .next (((((s.unqueue t).modTask t.n fun t => { t with phase := .dispatching, slot := k }).modDie
        t.die fun d => { d with lastCore := d.lastCore.put t.queue (coreOf k % 160) }).modSlot k fun x =>
          { x with occ := .reserved t.n }).modCore (coreOf k) fun c => { c with asleep := false })) ∧
    (∀ u, s.taskIn d .dispatching = some t → startM t { s with nextN := s.nextN + 1 } = .ok ((), u) → exec .taskStart s = .next
      ((u.modTask t.n fun t => { t with uid := s.nextN }).modSlot t.slot fun x => { x with uid := s.nextN })) ∧
    (s.tasks.find? (fun t => decide (t.n = d)) = some t →
      (t.phase = .running → t.root = true → t.strands = 0 → t.part = (outChunks t.img).length →
        exec .taskRetire s = .next (s.modTask t.n fun t => { t with phase := .retiring, part := 0, waits := [] })) ∧
      (∀ u, t.phase = .hit → hitM t s = .ok ((), u) → exec .taskRetire s = .next u) ∧
      (t.phase = .retiring → t.part = 0 → s.taskBusy t = false → exec .taskRetire s = .next
        (s.modTask t.n fun t => { t with part := 1, waits := t.waits ++ s.writes.map (·.n) })) ∧
      (∀ u, t.phase = .retiring → retiringM t s = .ok ((), u) → exec .taskRetire s = .next u) ∧
      (∀ u, t.phase = .offering → offerM t s = .ok ((), u) → exec .taskRetire s = .next u) ∧
      (∀ ws u, t.phase = .releasing → t.part = 0 → writeMem t.who (t.card + 0x30) [3] 5 s = .ok (ws, u) → exec .taskRetire s = .next
        (((u.clearTask t.n).unpinTask t.n).modTask t.n fun t => { t with part := 1 })) ∧
      (t.phase = .releasing → 3 ≤ t.part → exec .taskRetire s = .next (s.endTask t)) ∧
      (∀ ws u, t.phase = .faulting → writeMem t.who (t.card + 0x30) [4] 5 s = .ok (ws, u) → exec .taskRetire s = .next
        ((u.clearTask t.n).modTask t.n fun t => { t with phase := .faulted }))) ∧
    (∀ ws u, (s.queueOf d s.ev.n).length < queueCap s.ev.n →
      ((s.die d).held.findSome? fun n => (s.taskIn n .held).filter fun t => t.queue == s.ev.n) = some t →
      writeMem t.who (t.card + 0x30) [1] 5 s = .ok (ws, u) → ∃ z, exec .heldCardEnqueue s = .next z ∧
        z.queueOf d s.ev.n = u.queueOf d s.ev.n ++ [t.n] ∧ (z.die d).held = (u.die d).held.erase t.n) ∧
    (∀ e rest, (s.die d).faultWait = (e, none) :: rest → (s.die d).faultq.length < 1024 → s.sweepLaunch (dw (rd e 0 8)) = none →
      exec .faultEntryPost s = .next (s.modDie d fun x => { x with faultq := x.faultq ++ [e], faultWait := rest })) ∧
    (∀ e rest n, (s.die d).faultWait = (e, some n) :: rest → (s.die d).faultq.length < 1024 →
      s.tasks.find? (fun t => decide (t.n = n)) = some t →
      let u := s.modDie d fun x => { x with faultq := x.faultq ++ [e], faultWait := rest }
      exec .faultEntryPost s = .next (((u.dropWatcher (2 * t.n)).modTask t.n fun t =>
        { t with phase := if t.phase = .unread then .faulted else .faulting }).stopStrands t.card t.tenant)) ∧
    (∀ e rest l, (s.die d).faultWait = (e, none) :: rest → (s.die d).faultq.length < 1024 → s.sweepLaunch (dw (rd e 0 8)) = some l →
      let u := s.modDie d fun x => { x with faultq := x.faultq ++ [e], faultWait := rest }
      let tile := bits (dw (rd e 0 8)) 47 0
      exec .faultEntryPost s = .next ((u.modLaunch l.n fun l =>
        { l with bad := if l.bad.contains tile then l.bad else l.bad ++ [tile] }).stopStrands (dw (rd e 0 8)) l.tenant)) ∧
    (∀ k, s.displacing d = none → s.guaranteedWaits d = true → s.displaced d = some k →
      let u := s.modSlot k fun x => { x with displ := true }
      (u.displace k = none → exec .displace s = .next u) ∧ ∀ v, u.displace k = some v → exec .displace s = .next v) ∧
    (∀ k v, s.displacing d = some k → s.displace k = some v → exec .displace s = .next v) ∧
    (∀ l, s.launches.find? (fun l => s.resvLive.find? s.ev.n == some l.n && decide (0 < l.start)) = some l →
      let per := (s.timer.toNat - l.start) / max 1 (resvPeriod (s.resvEntry s.ev.n))
      l.step.getD (1000 + d) 0 < per → exec .reservationReload s = .next
        ((s.reload d s.ev.n).modLaunch l.n fun l => { l with step := l.step.put (1000 + d) per })) ∧
    (∀ v e a, s.cmd? d 0x08A = some v →
      (bits v 63 62 = 0 → readImage d v s = .ok (e, a) → a.resvResult (bits v 61 56) e = 0 → exec .reservationWrite s = .next (done
        (State.schedDone (if rd e 0 2 = 0 then { a with resv := a.resv.del (bits v 61 56) }
          else { a with resv := a.resv.put (bits v 61 56) e }) d 0))) ∧
      (∀ u, bits v 63 62 = 1 → readImage d v s = .ok (e, a) → a.stageWrite (dieOf d) (bits v 61 56) e = (u, 0) →
        exec .stageWrite s = .next (done (u.schedDone d 0))) ∧
      (bits v 63 62 = 2 → exec .governorTick s = .next (((s.governorTick (dieOf d)).schedDone d 0).finishCmd d))) ∧
    (∀ k v, s.urgWriter d = some (k, v) →
      (v.msb = true → exec .urgentEnable s = .next ((s.modCore d fun x => { x with urgcfg := urgValue v }).finishCmd k)) ∧
      (v.msb = false → exec .urgentDisable s = .next ((s.modCore d fun x => { x with urgcfg := urgValue v }).finishCmd k))) ∧
    (∀ u, s.urgWriter d = none → (s.core d).urgcfg.msb = true → (s.core d).urg = false → (s.slot (8 * d + 7)).occ = .active →
      s.displace (8 * d + 7) = some u → exec .urgentEnable s = .next u) ∧
    ((s.core d).urgcfg.msb = true → (s.core d).urg = false → (s.slot (8 * d + 7)).occ = .empty → exec .urgentStart s = .next
      ((s.startUrgent (8 * d + 7)).modCore d fun x => { x with urg := true, asleep := false })) ∧
    (s.urgWriter d = none → (s.core d).urgcfg.msb = false → (s.core d).urg = true → (s.slot (8 * d + 7)).outs = [] →
      exec .urgentDisable s = .next (((s.orphanSys (8 * d + 7)).leave (8 * d + 7)).modCore d fun x => { x with urg := false }))

/-! ### Frames, invariants and refusals -/

/-- R304, R244: g0 reads zero, p0 true and m0 all ones, whatever is written to them; each is always full, and a write of any kind
to another register makes it full with the value written and leaves the others. -/
def Obligations.FixedRegisters : Prop :=
  ∀ (x : Slot) (n n' : BitVec 5) (p p' : BitVec 3) (v v' : BitVec 3) (m m' : BitVec 2) (b : Bool) (a : Dword) (e : BitVec 4096)
    (f : BitVec 512) (r : RegState),
    (x.readG 0 = 0 ∧ x.readP 0 = true ∧ x.readM 0 = BitVec.allOnes 512 ∧ x.gState 0 = .full ∧ x.mState 0 = .full) ∧
    (x.setG 0 a = x ∧ x.setP 0 b = x ∧ x.setM 0 f = x) ∧
    (n ≠ 0 → (x.setG n a).readG n = a ∧ (x.setG n a).gState n = .full) ∧
    (n' ≠ n → (x.setG n a).readG n' = x.readG n' ∧ (x.setG n a).gState n' = x.gState n') ∧
    (p ≠ 0 → (x.setP p b).readP p = b) ∧ (p' ≠ p → (x.setP p b).readP p' = x.readP p') ∧
    ((x.setV v e).readV v = e ∧ (x.setV v e).vState v = .full) ∧
    (v' ≠ v → (x.setV v e).readV v' = x.readV v' ∧ (x.setV v e).vState v' = x.vState v') ∧
    (m ≠ 0 → (x.setM m f).readM m = f ∧ (x.setM m f).mState m = .full) ∧
    (m' ≠ m → (x.setM m f).readM m' = x.readM m' ∧ (x.setM m f).mState m' = x.mState m') ∧
    ((x.mark_ (.g 0) r) = x ∧ (x.mark_ (.m 0) r) = x)

/-- The frame of the scalar instructions that write one register: ALU, immediate, upper-immediate and floating-point forms write
gd, compares and predicate functions pd, and a branch nothing. Every other register, every flag and special register of the
slot, every other slot, every byte of memory, local store and accumulators, and every full/empty bit stays as it was; the PC,
the windows and the issue number are what an issue moves. -/
def Obligations.RegisterFrame : Prop :=
  ∀ (s : State) (d a b : BitVec 5) (g p q r k : BitVec 3) (t : BitVec 1) (i : BitVec 13) (c : BitVec 6) (w : BitVec 10) (u : BitVec 21)
    (disp : BitVec 23),
    let x := s.slot s.focus
    let others := fun (z : State) => SameMemory s z ∧ (∀ j, j ≠ s.focus → z.slot j = s.slot j) ∧ z.dies = s.dies ∧
      z.writes = s.writes ∧ z.timer = s.timer
    let specials := fun (y : Slot) => y.v = x.v ∧ y.vst = x.vst ∧ y.m = x.m ∧ y.mst = x.mst ∧ y.mode = x.mode ∧ y.pmode = x.pmode ∧
      y.frozen = x.frozen ∧ y.pt = x.pt ∧ y.trcause = x.trcause ∧ y.trpc = x.trpc ∧ y.traddr = x.traddr ∧ y.trwin = x.trwin ∧
      y.trnpc = x.trnpc ∧ y.trstack = x.trstack ∧ y.timecmp = x.timecmp ∧ y.statesel = x.statesel ∧ y.tenant = x.tenant
    let keepsG := fun (j : Instr) => ∃ z, exec j s = .next z ∧ others z ∧ specials (z.slot s.focus) ∧ (z.slot s.focus).p = x.p ∧
      ∀ n : BitVec 5, n ≠ d → (z.slot s.focus).readG n = x.readG n ∧ (z.slot s.focus).gState n = x.gState n
    let keepsP := fun (j : Instr) => ∃ z, exec j s = .next z ∧ others z ∧ specials (z.slot s.focus) ∧ (z.slot s.focus).g = x.g ∧
      (z.slot s.focus).gst = x.gst ∧ ∀ n : BitVec 3, n ≠ p → (z.slot s.focus).readP n = x.readP n
    (Ready s g false [.g a, .g b] [.g d] → ∀ j ∈ [Instr.add d a b g, .sub d a b g, .and d a b g, .or d a b g, .xor d a b g, .shl d a b g,
      .shr d a b g, .sra d a b g, .min d a b g, .max d a b g, .minn d a b g, .maxn d a b g, .extz d a b g, .exts d a b g,
      .fadd d a b g t, .fsub d a b g t, .fmul d a b g t, .fdiv d a b g t, .fmin d a b g t, .fmax d a b g t, .fsgn d a b g t], keepsG j) ∧
    (Ready s g false [.g a] [.g d] → ∀ j ∈ [Instr.clz d a g, .ctz d a g, .popc d a g, .brev d a g, .addi d a g i, .andi d a g i,
      .ori d a g i, .xori d a g i, .shli d a g c, .shri d a g c, .srai d a g c, .fsqrt d a g t, .fneg d a g t, .fabs d a g t,
      .fclass d a g t], keepsG j) ∧
    (Ready s g false [.g a, .g b, .g d] [.g d] → ∀ j ∈ [Instr.insf d a b g, .fma d a b g t], keepsG j) ∧
    (Ready s g false [.g a, .g b, .p q] [.g d] → keepsG (.sel d a b g q)) ∧
    (Ready s 0 false [] [.g d] → ∀ j ∈ [Instr.lih d u, .addpc d u, .jal d u], keepsG j) ∧
    (Ready s g false [.g a] [.g d] → keepsG (.jalr d a g i)) ∧
    (Ready s g false [.g a, .g b] [.p p] → k.toNat ≤ 4 → ∀ j ∈ [Instr.cmp p a b g k, .fcmp p a b g t k], keepsP j) ∧
    (Ready s g false [.g a] [.p p] → k.toNat ≤ 4 → keepsP (.cmpi p a g k w)) ∧
    (Ready s g false [.p q, .p r] [.p p] → ∀ j ∈ [Instr.pand p q r g, .por p q r g, .pxor p q r g], keepsP j) ∧
    (Ready s g false [.p q] [.p p] → keepsP (.pnot p q g)) ∧
    (Ready s 0 false [.p p] [] → ∀ j ∈ [Instr.br p disp, .brn p disp], keepsG j ∧ keepsP j)

/-- The frame of the issue of a long-latency instruction: its destinations become empty (g0 and m0 excepted) and keep their old
values until its completion (R241); every other register, every flag, special register, byte of memory, local store and
accumulators, and full/empty bit stays as it was. -/
def Obligations.IssueFrame : Prop :=
  ∀ (s : State) (d a b : BitVec 5) (g : BitVec 3) (l : BitVec 4) (o : BitVec 9),
    let x := s.slot s.focus
    let ea := fun (size : Nat) => BitVec.ofInt 64 ((x.readG a).toInt + o.toInt * size)
    let keeps := fun (j : Instr) (dests : List RegRef) => ∃ z q, exec j s = .next z ∧ SameMemory s z ∧
      (∀ n, n ≠ s.focus → z.slot n = s.slot n) ∧ z.writes = s.writes ∧ z.dies = s.dies ∧
      let y := z.slot s.focus
      y.outs.getLast? = some q ∧ q.dests = liveDests dests ∧ q.after = [] ∧ y.outs.length = x.outs.length + 1 ∧
      y.g = x.g ∧ y.v = x.v ∧ y.m = x.m ∧ y.p = x.p ∧ y.mode = x.mode ∧ y.frozen = x.frozen ∧ y.trcause = x.trcause ∧ y.trpc = x.trpc ∧
      (∀ n : BitVec 5, y.gState n = if n ≠ 0 ∧ .g n ∈ dests then .empty else x.gState n) ∧
      (∀ n : BitVec 3, y.vState n = if .v n ∈ dests then .empty else x.vState n)
    x.acquiring = false →
    (Ready s g true [.g a] [.g d] →
      (s.accessTrap s.focus (ea 1) 1 false = none → ∀ j ∈ [Instr.ldb d a g l o, .ldbn d a g l o], keeps j [.g d]) ∧
      (s.accessTrap s.focus (ea 2) 2 false = none → ∀ j ∈ [Instr.ldh d a g l o, .ldhn d a g l o], keeps j [.g d]) ∧
      (s.accessTrap s.focus (ea 4) 4 false = none → ∀ j ∈ [Instr.ldw d a g l o, .ldwn d a g l o], keeps j [.g d]) ∧
      (s.accessTrap s.focus (ea 8) 8 false = none → keeps (.ldd d a g l o) [.g d])) ∧
    (Ready s g true [.g a, .g d] [] →
      (s.accessTrap s.focus (ea 1) 1 true = none → keeps (.stb d a g l o) []) ∧
      (s.accessTrap s.focus (ea 2) 2 true = none → keeps (.sth d a g l o) []) ∧
      (s.accessTrap s.focus (ea 4) 4 true = none → keeps (.stw d a g l o) []) ∧
      (s.accessTrap s.focus (ea 8) 8 true = none → keeps (.std d a g l o) [])) ∧
    (Ready s g true [.g a, .g b] [.g d] → ∀ j ∈ [Instr.mul d a b g l, .mulh d a b g l, .mulhn d a b g l, .div d a b g l,
      .divn d a b g l, .rem d a b g l, .remn d a b g l], keeps j [.g d]) ∧
    (∀ (v va vb t : BitVec 3), Ready s 0 true [.v va, .v vb] [.v v] → t.toNat ≤ 3 → s.vecFull = false →
      ∀ j ∈ [Instr.vadd v va vb 0 t l, .vsub v va vb 0 t l, .vand v va vb 0 t l, .vor v va vb 0 t l, .vxor v va vb 0 t l], keeps j [.v v])

/-- The memories keep their canonical form (the model's, log entry 5) under every step of the machine, whatever it does; and the
frames that a write in flight carries are canonical images of one frame. -/
def Obligations.MemoryFormKept : Prop :=
  ∀ (s t : State), s.MemoryForm → step s = .next t → t.MemoryForm

/-- R34, R63, R135: a request to a package outside the torus ends with UNREACH and nothing leaves; TIERSET is refused when its
size, its endpoint or its address is out of bounds, and while a drain runs; a launch of the guaranteed class is refused
NOADMIT when its entry is not one, not its tenant's, or in use. -/
def Obligations.Refusals : Prop :=
  ∀ (s : State) (w : Who) (pkg type : Nat) (va : Dword) (key : List Byte) (fs : List (Nat × Nat × Nat)) (data : List Byte)
    (q : LaunchQueue) (l : Launch),
    let inTorus := fun (p : Nat) => p % 16 < s.torus.1 ∧ p / 16 % 16 < s.torus.2.1 ∧ p / 256 % 16 < s.torus.2.2.1 ∧
      p / 4096 % 16 < s.torus.2.2.2
    let e := s.ev
    let entry := s.resvEntry l.resvid
    let refused := l.cls = true ∧ (64 ≤ l.resvid ∨ rd entry 0 2 = 0 ∨ rd entry 0 2 ≠ l.tenant.toNat ∨ (s.resvLive.find? l.resvid).isSome = true)
    (¬ inTorus pkg → s.answerTo w type pkg (leBytes 8 va.toNat ++ key) = none →
      askPeer w pkg type va key fs data s = .error (.fatal 5 va)) ∧
    ((e.b.toNat < 544 * 2 ^ 30 ∨ ¬ inTorus e.id.toNat ∨ e.a.toNat % 4096 ≠ 0) → exec .tierset s = .next (s.reply .badarg)) ∧
    (544 * 2 ^ 30 ≤ e.b.toNat → inTorus e.id.toNat → e.a.toNat % 4096 = 0 → s.drain.isSome = true →
      exec .tierset s = .next (s.reply .busy)) ∧
    (544 * 2 ^ 30 ≤ e.b.toNat → inTorus e.id.toNat → e.a.toNat % 4096 = 0 → s.drain = none →
      exec .tierset s = .next (({ s with tier := some (e.id, e.a, e.b) } : State).reply .ok)) ∧
    (s.noAdmit l = true ↔ refused) ∧
    (refused → l.kind ∈ [1, 2, 3] → l.domain ≠ 3 → (l.kind = 3 → rd l.pkt 0x4C 1 ≤ 1) → packetRsvd l.pkt = false →
      rd l.pkt 4 2 = q.tenant.toNat → rd l.pkt 8 4 = l.seq.toNat → rd l.pkt 0xF8 4 = l.seq.toNat → packetLimit l = false →
      packetAlign l.pkt = false → (l.waits? = true → (s.lqs.find? l.waitq).isSome = true) → s.launchReason q l = 8)
end

