-- ==== Sys2Proof/Laws/Issue.lean ====
section
/-! SUPPORT. The issue of an instruction (R239–R245): what it answers under each outcome. -/

namespace Sys2Proof.Machine

theorem Issue.step_eq (p : Issue) (s : State) : p.step s = s.issued p.size (isBarrier p.instr) (isRelease p.instr) := rfl

/-- An instruction that is ready, legal, not held and passes its checks has its own effect. -/
theorem issue_ready {p : Issue} {body : State → State → State} {s : State}
    (h : Ready s p.guard p.la.isSome p.reads p.writes) (hl : p.instr.illegal = none) (hh : p.hold s = false)
    (hc : p.check s = none) : issue p body s = .next (body s (s.issued p.size (isBarrier p.instr) (isRelease p.instr))) := by
  have hw : (s.slot s.focus).windowsOpen = true := by
    simpa [Slot.windowsOpen] using h.windows
  have hr : (p.la.isSome && decide (8 ≤ (s.slot s.focus).outs.length)) = false := by
    cases hp : p.la.isSome with
    | false => rfl
    | true => have := h.room hp; simp; omega
  have hci : p.canIssue (s.slot s.focus) = true := by
    simp only [Issue.canIssue, hw, hr, h.known, Bool.not_false, Bool.true_and, Bool.and_eq_true, List.all_eq_true]
    exact ⟨fun r hr => (h.full r hr).1, h.dest⟩
  have hv : p.void? (s.slot s.focus) = none := by
    simp only [Issue.void?, List.find?_eq_none]
    exact fun r hr => by simp [(h.full r hr).2]
  simp [issue, hw, hl, hci, h.guard, hv, hh, hc, Issue.step_eq]

theorem shortG_ready {p : Issue} {d : BitVec 5} {f : Slot → Dword} {s : State}
    (h : Ready s p.guard p.la.isSome p.reads (.g d :: p.writes)) (hl : p.instr.illegal = none) (hh : p.hold s = false)
    (hc : p.check s = none) : shortG p d f s = .next ((s.issued p.size (isBarrier p.instr) (isRelease p.instr)).writeG s.focus d (f (s.slot s.focus))) :=
  issue_ready (p := { p with writes := .g d :: p.writes }) h hl hh hc

theorem shortP_ready {p : Issue} {d : BitVec 3} {f : Slot → Bool} {s : State}
    (h : Ready s p.guard p.la.isSome p.reads (.p d :: p.writes)) (hl : p.instr.illegal = none) (hh : p.hold s = false)
    (hc : p.check s = none) : shortP p d f s = .next ((s.issued p.size (isBarrier p.instr) (isRelease p.instr)).writeP s.focus d (f (s.slot s.focus))) :=
  issue_ready (p := { p with writes := .p d :: p.writes }) h hl hh hc

theorem longOp_ready {p : Issue} {la : BitVec 4} {dests : List RegRef} {op : State → Op} {s : State}
    (h : Ready s p.guard true p.reads (dests ++ p.writes)) (hl : p.instr.illegal = none) (hh : p.hold s = false)
    (hc : p.check s = none) : longOp p la dests op s = .next (s.depart (s.issued p.size (isBarrier p.instr) (isRelease p.instr)) la (op s) dests) :=
  issue_ready (p := { p with la := some la, writes := dests ++ p.writes }) h hl hh hc

/-- An instruction whose step runs to its end has the effect of the step, and what it asked for is forgotten. -/
theorem issueM_ready {p : Issue} {body : State → M Unit} {stay : Bool} {s u : State}
    (h : Ready s p.guard p.la.isSome p.reads p.writes) (hl : p.instr.illegal = none) (hh : p.hold s = false)
    (hc : p.check s = none) (hb : body s (s.issued p.size (isBarrier p.instr) (isRelease p.instr)) = .ok ((), u)) :
    issueM p body stay s = .next ((u.dropFault (.issue s.focus)).dropRequests (.issue s.focus)) := by
  unfold issueM
  exact (issue_ready h hl hh hc).trans (by simp only [hb])

/-- A check that passes only when every check before it does. -/
theorem firstTrap_none {l : List (Option Trap)} : firstTrap l = none ↔ ∀ x ∈ l, x = none := by
  induction l with
  | nil => simp [firstTrap]
  | cons a l ih => cases a <;> simp [firstTrap, ih]

end Sys2Proof.Machine
end

