-- ==== Sys2Proof/Laws/Issues.lean ====
section
/-! SUPPORT. Every instruction word has its effect through `issue` (R239–R245): one lemma per constructor. -/

namespace Sys2Proof.Machine

set_option Elab.async false

/-- The meaning of an instruction is an issue of it: its checks, then what it does. -/
def ThroughIssue (i : Instr) : Prop :=
  ∀ s, ∃ (p : Issue) (body : State → State → State), p.instr = i ∧ exec i s = issue p body s

theorem throughIssue_add d a b g : ThroughIssue (.add d a b g) := fun s => by
  unfold exec; simp only [execAdd, binG, shortG]; exact ⟨_, _, rfl, rfl⟩
theorem throughIssue_sub d a b g : ThroughIssue (.sub d a b g) := fun s => by
  unfold exec; simp only [execSub, binG, shortG]; exact ⟨_, _, rfl, rfl⟩
theorem throughIssue_and d a b g : ThroughIssue (.and d a b g) := fun s => by
  unfold exec; simp only [execAnd, binG, shortG]; exact ⟨_, _, rfl, rfl⟩
theorem throughIssue_or d a b g : ThroughIssue (.or d a b g) := fun s => by
  unfold exec; simp only [execOr, binG, shortG]; exact ⟨_, _, rfl, rfl⟩
theorem throughIssue_xor d a b g : ThroughIssue (.xor d a b g) := fun s => by
  unfold exec; simp only [execXor, binG, shortG]; exact ⟨_, _, rfl, rfl⟩
theorem throughIssue_shl d a b g : ThroughIssue (.shl d a b g) := fun s => by
  unfold exec; simp only [execShl, binG, shortG]; exact ⟨_, _, rfl, rfl⟩
theorem throughIssue_shr d a b g : ThroughIssue (.shr d a b g) := fun s => by
  unfold exec; simp only [execShr, binG, shortG]; exact ⟨_, _, rfl, rfl⟩
theorem throughIssue_sra d a b g : ThroughIssue (.sra d a b g) := fun s => by
  unfold exec; simp only [execSra, binG, shortG]; exact ⟨_, _, rfl, rfl⟩
theorem throughIssue_min d a b g : ThroughIssue (.min d a b g) := fun s => by
  unfold exec; simp only [execMin, binG, shortG]; exact ⟨_, _, rfl, rfl⟩
theorem throughIssue_max d a b g : ThroughIssue (.max d a b g) := fun s => by
  unfold exec; simp only [execMax, binG, shortG]; exact ⟨_, _, rfl, rfl⟩
theorem throughIssue_minn d a b g : ThroughIssue (.minn d a b g) := fun s => by
  unfold exec; simp only [execMinn, binG, shortG]; exact ⟨_, _, rfl, rfl⟩
theorem throughIssue_maxn d a b g : ThroughIssue (.maxn d a b g) := fun s => by
  unfold exec; simp only [execMaxn, binG, shortG]; exact ⟨_, _, rfl, rfl⟩
theorem throughIssue_clz d a g : ThroughIssue (.clz d a g) := fun s => by
  unfold exec; simp only [execClz, unG, shortG]; exact ⟨_, _, rfl, rfl⟩
theorem throughIssue_ctz d a g : ThroughIssue (.ctz d a g) := fun s => by
  unfold exec; simp only [execCtz, unG, shortG]; exact ⟨_, _, rfl, rfl⟩
theorem throughIssue_popc d a g : ThroughIssue (.popc d a g) := fun s => by
  unfold exec; simp only [execPopc, unG, shortG]; exact ⟨_, _, rfl, rfl⟩
theorem throughIssue_brev d a g : ThroughIssue (.brev d a g) := fun s => by
  unfold exec; simp only [execBrev, unG, shortG]; exact ⟨_, _, rfl, rfl⟩
theorem throughIssue_exts d a b g : ThroughIssue (.exts d a b g) := fun s => by
  unfold exec; simp only [execExts, binG, shortG]; exact ⟨_, _, rfl, rfl⟩
theorem throughIssue_extz d a b g : ThroughIssue (.extz d a b g) := fun s => by
  unfold exec; simp only [execExtz, binG, shortG]; exact ⟨_, _, rfl, rfl⟩
theorem throughIssue_insf d a b g : ThroughIssue (.insf d a b g) := fun s => by
  unfold exec; simp only [execInsf, shortG]; exact ⟨_, _, rfl, rfl⟩
theorem throughIssue_addi d a g i : ThroughIssue (.addi d a g i) := fun s => by
  unfold exec; simp only [execAddi, unG, shortG]; exact ⟨_, _, rfl, rfl⟩
theorem throughIssue_andi d a g i : ThroughIssue (.andi d a g i) := fun s => by
  unfold exec; simp only [execAndi, unG, shortG]; exact ⟨_, _, rfl, rfl⟩
theorem throughIssue_ori d a g i : ThroughIssue (.ori d a g i) := fun s => by
  unfold exec; simp only [execOri, unG, shortG]; exact ⟨_, _, rfl, rfl⟩
theorem throughIssue_xori d a g i : ThroughIssue (.xori d a g i) := fun s => by
  unfold exec; simp only [execXori, unG, shortG]; exact ⟨_, _, rfl, rfl⟩
theorem throughIssue_shli d a g c : ThroughIssue (.shli d a g c) := fun s => by
  unfold exec; simp only [execShli, unG, shortG]; exact ⟨_, _, rfl, rfl⟩
theorem throughIssue_shri d a g c : ThroughIssue (.shri d a g c) := fun s => by
  unfold exec; simp only [execShri, unG, shortG]; exact ⟨_, _, rfl, rfl⟩
theorem throughIssue_srai d a g c : ThroughIssue (.srai d a g c) := fun s => by
  unfold exec; simp only [execSrai, unG, shortG]; exact ⟨_, _, rfl, rfl⟩
theorem throughIssue_cmpi p a g k i : ThroughIssue (.cmpi p a g k i) := fun s => by
  unfold exec; simp only [execCmpi, shortP]; exact ⟨_, _, rfl, rfl⟩
theorem throughIssue_lih d i : ThroughIssue (.lih d i) := fun s => by
  unfold exec; simp only [execLih, shortG]; exact ⟨_, _, rfl, rfl⟩
theorem throughIssue_addpc d i : ThroughIssue (.addpc d i) := fun s => by
  unfold exec; simp only [execAddpc, shortG]; exact ⟨_, _, rfl, rfl⟩
theorem throughIssue_cmp p a b g k : ThroughIssue (.cmp p a b g k) := fun s => by
  unfold exec; simp only [execCmp, shortP]; exact ⟨_, _, rfl, rfl⟩
theorem throughIssue_pand p q r g : ThroughIssue (.pand p q r g) := fun s => by
  unfold exec; simp only [execPand, shortP]; exact ⟨_, _, rfl, rfl⟩
theorem throughIssue_por p q r g : ThroughIssue (.por p q r g) := fun s => by
  unfold exec; simp only [execPor, shortP]; exact ⟨_, _, rfl, rfl⟩
theorem throughIssue_pxor p q r g : ThroughIssue (.pxor p q r g) := fun s => by
  unfold exec; simp only [execPxor, shortP]; exact ⟨_, _, rfl, rfl⟩
theorem throughIssue_pnot p q g : ThroughIssue (.pnot p q g) := fun s => by
  unfold exec; simp only [execPnot, shortP]; exact ⟨_, _, rfl, rfl⟩
theorem throughIssue_sel d a b g n : ThroughIssue (.sel d a b g n) := fun s => by
  unfold exec; simp only [execSel, shortG]; exact ⟨_, _, rfl, rfl⟩
theorem throughIssue_fadd d a b g r : ThroughIssue (.fadd d a b g r) := fun s => by
  unfold exec; simp only [execFadd, fp2, binG, shortG]; exact ⟨_, _, rfl, rfl⟩
theorem throughIssue_fsub d a b g r : ThroughIssue (.fsub d a b g r) := fun s => by
  unfold exec; simp only [execFsub, fp2, binG, shortG]; exact ⟨_, _, rfl, rfl⟩
theorem throughIssue_fmul d a b g r : ThroughIssue (.fmul d a b g r) := fun s => by
  unfold exec; simp only [execFmul, fp2, binG, shortG]; exact ⟨_, _, rfl, rfl⟩
theorem throughIssue_fma d a b g r : ThroughIssue (.fma d a b g r) := fun s => by
  unfold exec; simp only [execFma, shortG]; exact ⟨_, _, rfl, rfl⟩
theorem throughIssue_fdiv d a b g r : ThroughIssue (.fdiv d a b g r) := fun s => by
  unfold exec; simp only [execFdiv, fp2, binG, shortG]; exact ⟨_, _, rfl, rfl⟩
theorem throughIssue_fsqrt d a g r : ThroughIssue (.fsqrt d a g r) := fun s => by
  unfold exec; simp only [execFsqrt, fp1, unG, shortG]; exact ⟨_, _, rfl, rfl⟩
theorem throughIssue_fmin d a b g r : ThroughIssue (.fmin d a b g r) := fun s => by
  unfold exec; simp only [execFmin, fp2, binG, shortG]; exact ⟨_, _, rfl, rfl⟩
theorem throughIssue_fmax d a b g r : ThroughIssue (.fmax d a b g r) := fun s => by
  unfold exec; simp only [execFmax, fp2, binG, shortG]; exact ⟨_, _, rfl, rfl⟩
theorem throughIssue_fsgn d a b g r : ThroughIssue (.fsgn d a b g r) := fun s => by
  unfold exec; simp only [execFsgn, fp2, binG, shortG]; exact ⟨_, _, rfl, rfl⟩
theorem throughIssue_fneg d a g r : ThroughIssue (.fneg d a g r) := fun s => by
  unfold exec; simp only [execFneg, fp1, unG, shortG]; exact ⟨_, _, rfl, rfl⟩
theorem throughIssue_fabs d a g r : ThroughIssue (.fabs d a g r) := fun s => by
  unfold exec; simp only [execFabs, fp1, unG, shortG]; exact ⟨_, _, rfl, rfl⟩
theorem throughIssue_fclass d a g r : ThroughIssue (.fclass d a g r) := fun s => by
  unfold exec; simp only [execFclass, fp1, unG, shortG]; exact ⟨_, _, rfl, rfl⟩
theorem throughIssue_fcmp p a b g r k : ThroughIssue (.fcmp p a b g r k) := fun s => by
  unfold exec; simp only [execFcmp, shortP]; exact ⟨_, _, rfl, rfl⟩
theorem throughIssue_fcvt d a m t g u c : ThroughIssue (.fcvt d a m t g u c) := fun s => by
  unfold exec; simp only [execFcvt, shortG]; exact ⟨_, _, rfl, rfl⟩
theorem throughIssue_mul d a b g l : ThroughIssue (.mul d a b g l) := fun s => by
  unfold exec; simp only [execMul, mulDiv, longOp]; exact ⟨_, _, rfl, rfl⟩
theorem throughIssue_mulh d a b g l : ThroughIssue (.mulh d a b g l) := fun s => by
  unfold exec; simp only [execMulh, mulDiv, longOp]; exact ⟨_, _, rfl, rfl⟩
theorem throughIssue_mulhn d a b g l : ThroughIssue (.mulhn d a b g l) := fun s => by
  unfold exec; simp only [execMulhn, mulDiv, longOp]; exact ⟨_, _, rfl, rfl⟩
theorem throughIssue_div d a b g l : ThroughIssue (.div d a b g l) := fun s => by
  unfold exec; simp only [execDiv, mulDiv, longOp]; exact ⟨_, _, rfl, rfl⟩
theorem throughIssue_divn d a b g l : ThroughIssue (.divn d a b g l) := fun s => by
  unfold exec; simp only [execDivn, mulDiv, longOp]; exact ⟨_, _, rfl, rfl⟩
theorem throughIssue_rem d a b g l : ThroughIssue (.rem d a b g l) := fun s => by
  unfold exec; simp only [execRem, mulDiv, longOp]; exact ⟨_, _, rfl, rfl⟩
theorem throughIssue_remn d a b g l : ThroughIssue (.remn d a b g l) := fun s => by
  unfold exec; simp only [execRemn, mulDiv, longOp]; exact ⟨_, _, rfl, rfl⟩
theorem throughIssue_br p i : ThroughIssue (.br p i) := fun s => by
  unfold exec; simp only [execBr, branch]; exact ⟨_, _, rfl, rfl⟩
theorem throughIssue_brn p i : ThroughIssue (.brn p i) := fun s => by
  unfold exec; simp only [execBrn, branch]; exact ⟨_, _, rfl, rfl⟩
theorem throughIssue_jal d i : ThroughIssue (.jal d i) := fun s => by
  unfold exec; simp only [execJal]; exact ⟨_, _, rfl, rfl⟩
theorem throughIssue_jalr d a g i : ThroughIssue (.jalr d a g i) := fun s => by
  unfold exec; simp only [execJalr]; exact ⟨_, _, rfl, rfl⟩
theorem throughIssue_ldb d b g l o : ThroughIssue (.ldb d b g l o) := fun s => by
  unfold exec; simp only [execLdb, loadG, longOp]; exact ⟨_, _, rfl, rfl⟩
theorem throughIssue_ldh d b g l o : ThroughIssue (.ldh d b g l o) := fun s => by
  unfold exec; simp only [execLdh, loadG, longOp]; exact ⟨_, _, rfl, rfl⟩
theorem throughIssue_ldw d b g l o : ThroughIssue (.ldw d b g l o) := fun s => by
  unfold exec; simp only [execLdw, loadG, longOp]; exact ⟨_, _, rfl, rfl⟩
theorem throughIssue_ldd d b g l o : ThroughIssue (.ldd d b g l o) := fun s => by
  unfold exec; simp only [execLdd, loadG, longOp]; exact ⟨_, _, rfl, rfl⟩
theorem throughIssue_ldbn d b g l o : ThroughIssue (.ldbn d b g l o) := fun s => by
  unfold exec; simp only [execLdbn, loadG, longOp]; exact ⟨_, _, rfl, rfl⟩
theorem throughIssue_ldhn d b g l o : ThroughIssue (.ldhn d b g l o) := fun s => by
  unfold exec; simp only [execLdhn, loadG, longOp]; exact ⟨_, _, rfl, rfl⟩
theorem throughIssue_ldwn d b g l o : ThroughIssue (.ldwn d b g l o) := fun s => by
  unfold exec; simp only [execLdwn, loadG, longOp]; exact ⟨_, _, rfl, rfl⟩
theorem throughIssue_stb r b g l o : ThroughIssue (.stb r b g l o) := fun s => by
  unfold exec; simp only [execStb, storeG, longOp]; exact ⟨_, _, rfl, rfl⟩
theorem throughIssue_sth r b g l o : ThroughIssue (.sth r b g l o) := fun s => by
  unfold exec; simp only [execSth, storeG, longOp]; exact ⟨_, _, rfl, rfl⟩
theorem throughIssue_stw r b g l o : ThroughIssue (.stw r b g l o) := fun s => by
  unfold exec; simp only [execStw, storeG, longOp]; exact ⟨_, _, rfl, rfl⟩
theorem throughIssue_std r b g l o : ThroughIssue (.std r b g l o) := fun s => by
  unfold exec; simp only [execStd, storeG, longOp]; exact ⟨_, _, rfl, rfl⟩
theorem throughIssue_ldf d a b g l : ThroughIssue (.ldf d a b g l) := fun s => by
  unfold exec; simp only [execLdf, syncLoad, longOp]; exact ⟨_, _, rfl, rfl⟩
theorem throughIssue_stf r a b g l : ThroughIssue (.stf r a b g l) := fun s => by
  unfold exec; simp only [execStf, syncStore, longOp]; exact ⟨_, _, rfl, rfl⟩
theorem throughIssue_ldfp d a b g l : ThroughIssue (.ldfp d a b g l) := fun s => by
  unfold exec; simp only [execLdfp, syncLoad, longOp]; exact ⟨_, _, rfl, rfl⟩
theorem throughIssue_feget d a b g l : ThroughIssue (.feget d a b g l) := fun s => by
  unfold exec; simp only [execFeget, syncLoad, longOp]; exact ⟨_, _, rfl, rfl⟩
theorem throughIssue_feset r a b g l : ThroughIssue (.feset r a b g l) := fun s => by
  unfold exec; simp only [execFeset, syncStore, longOp]; exact ⟨_, _, rfl, rfl⟩
theorem throughIssue_pref v a b g l : ThroughIssue (.pref v a b g l) := fun s => by
  unfold exec; simp only [execPref]; exact ⟨_, _, rfl, rfl⟩
theorem throughIssue_cflush a b g l : ThroughIssue (.cflush a b g l) := fun s => by
  unfold exec; simp only [execCflush, longOp]; exact ⟨_, _, rfl, rfl⟩
theorem throughIssue_cinv g l : ThroughIssue (.cinv g l) := fun s => by
  unfold exec; simp only [execCinv, longOp]; exact ⟨_, _, rfl, rfl⟩
theorem throughIssue_fenceRel g c : ThroughIssue (.fenceRel g c) := fun s => by
  unfold exec; simp only [execFenceRel, fence]; exact ⟨_, _, rfl, rfl⟩
theorem throughIssue_fenceAcq g c : ThroughIssue (.fenceAcq g c) := fun s => by
  unfold exec; simp only [execFenceAcq, fence]; exact ⟨_, _, rfl, rfl⟩
theorem throughIssue_fenceFull g c : ThroughIssue (.fenceFull g c) := fun s => by
  unfold exec; simp only [execFenceFull, fence]; exact ⟨_, _, rfl, rfl⟩
theorem throughIssue_amoAdd d a b z c l : ThroughIssue (.amoAdd d a b z c l) := fun s => by
  unfold exec; simp only [execAmoAdd, amo, amoIssue]; exact ⟨_, _, rfl, rfl⟩
theorem throughIssue_amoAnd d a b z c l : ThroughIssue (.amoAnd d a b z c l) := fun s => by
  unfold exec; simp only [execAmoAnd, amo, amoIssue]; exact ⟨_, _, rfl, rfl⟩
theorem throughIssue_amoOr d a b z c l : ThroughIssue (.amoOr d a b z c l) := fun s => by
  unfold exec; simp only [execAmoOr, amo, amoIssue]; exact ⟨_, _, rfl, rfl⟩
theorem throughIssue_amoXor d a b z c l : ThroughIssue (.amoXor d a b z c l) := fun s => by
  unfold exec; simp only [execAmoXor, amo, amoIssue]; exact ⟨_, _, rfl, rfl⟩
theorem throughIssue_amoMin d a b z c l : ThroughIssue (.amoMin d a b z c l) := fun s => by
  unfold exec; simp only [execAmoMin, amo, amoIssue]; exact ⟨_, _, rfl, rfl⟩
theorem throughIssue_amoMax d a b z c l : ThroughIssue (.amoMax d a b z c l) := fun s => by
  unfold exec; simp only [execAmoMax, amo, amoIssue]; exact ⟨_, _, rfl, rfl⟩
theorem throughIssue_amoMinn d a b z c l : ThroughIssue (.amoMinn d a b z c l) := fun s => by
  unfold exec; simp only [execAmoMinn, amo, amoIssue]; exact ⟨_, _, rfl, rfl⟩
theorem throughIssue_amoMaxn d a b z c l : ThroughIssue (.amoMaxn d a b z c l) := fun s => by
  unfold exec; simp only [execAmoMaxn, amo, amoIssue]; exact ⟨_, _, rfl, rfl⟩
theorem throughIssue_amoSwp d a b z c l : ThroughIssue (.amoSwp d a b z c l) := fun s => by
  unfold exec; simp only [execAmoSwp, amo, amoIssue]; exact ⟨_, _, rfl, rfl⟩
theorem throughIssue_amoCas d a b z c l : ThroughIssue (.amoCas d a b z c l) := fun s => by
  unfold exec; simp only [execAmoCas, amo, amoIssue]; exact ⟨_, _, rfl, rfl⟩
theorem throughIssue_amoFadd d a b z c l : ThroughIssue (.amoFadd d a b z c l) := fun s => by
  unfold exec; simp only [execAmoFadd, amo, amoIssue]; exact ⟨_, _, rfl, rfl⟩
theorem throughIssue_amoRedOrd d a b z c l : ThroughIssue (.amoRedOrd d a b z c l) := fun s => by
  unfold exec; simp only [execAmoRedOrd, amoIssue]; exact ⟨_, _, rfl, rfl⟩
theorem throughIssue_spawn a b g : ThroughIssue (.spawn a b g) := fun s => by
  unfold exec; simp only [execSpawn, issueM]; exact ⟨_, _, rfl, rfl⟩
theorem throughIssue_join a g : ThroughIssue (.join a g) := fun s => by
  unfold exec; simp only [execJoin, issueM]; exact ⟨_, _, rfl, rfl⟩
theorem throughIssue_migr d a g : ThroughIssue (.migr d a g) := fun s => by
  unfold exec; simp only [execMigr, migrate, issueM]; exact ⟨_, _, rfl, rfl⟩
theorem throughIssue_migv d a v g : ThroughIssue (.migv d a v g) := fun s => by
  unfold exec; simp only [execMigv, migrate, issueM]; exact ⟨_, _, rfl, rfl⟩
theorem throughIssue_yield g : ThroughIssue (.yield g) := fun s => by
  unfold exec; simp only [execYield]; exact ⟨_, _, rfl, rfl⟩
theorem throughIssue_park d g : ThroughIssue (.park d g) := fun s => by
  unfold exec; simp only [execPark]; exact ⟨_, _, rfl, rfl⟩
theorem throughIssue_parkE d g : ThroughIssue (.parkE d g) := fun s => by
  unfold exec; simp only [execParkE]; exact ⟨_, _, rfl, rfl⟩
theorem throughIssue_rfill d a b g l : ThroughIssue (.rfill d a b g l) := fun s => by
  unfold exec; simp only [execRfill, longOp]; exact ⟨_, _, rfl, rfl⟩
theorem throughIssue_self d g l : ThroughIssue (.self d g l) := fun s => by
  unfold exec; simp only [execSelf, longOp]; exact ⟨_, _, rfl, rfl⟩
theorem throughIssue_msend d a b g l : ThroughIssue (.msend d a b g l) := fun s => by
  unfold exec; simp only [execMsend, longOp]; exact ⟨_, _, rfl, rfl⟩
theorem throughIssue_mrecv d a b g l : ThroughIssue (.mrecv d a b g l) := fun s => by
  unfold exec; simp only [execMrecv, longOp]; exact ⟨_, _, rfl, rfl⟩
theorem throughIssue_mpeek d a g l : ThroughIssue (.mpeek d a g l) := fun s => by
  unfold exec; simp only [execMpeek, longOp]; exact ⟨_, _, rfl, rfl⟩
theorem throughIssue_tpost d a g l : ThroughIssue (.tpost d a g l) := fun s => by
  unfold exec; simp only [execTpost]; exact ⟨_, _, rfl, rfl⟩
theorem throughIssue_tdone g : ThroughIssue (.tdone g) := fun s => by
  unfold exec; simp only [execTdone, issueM]; exact ⟨_, _, rfl, rfl⟩
theorem throughIssue_qpush d a b g l : ThroughIssue (.qpush d a b g l) := fun s => by
  unfold exec; simp only [execQpush]; exact ⟨_, _, rfl, rfl⟩
theorem throughIssue_qpop d a b g l : ThroughIssue (.qpop d a b g l) := fun s => by
  unfold exec; simp only [execQpop]; exact ⟨_, _, rfl, rfl⟩
theorem throughIssue_tcard d g l : ThroughIssue (.tcard d g l) := fun s => by
  unfold exec; simp only [execTcard, longOp]; exact ⟨_, _, rfl, rfl⟩
theorem throughIssue_qpopW d a g l : ThroughIssue (.qpopW d a g l) := fun s => by
  unfold exec; simp only [execQpopW, longOp]; exact ⟨_, _, rfl, rfl⟩
theorem throughIssue_sfork d a b g l : ThroughIssue (.sfork d a b g l) := fun s => by
  unfold exec; simp only [execSfork, streamOp]; exact ⟨_, _, rfl, rfl⟩
theorem throughIssue_sstep d a g l : ThroughIssue (.sstep d a g l) := fun s => by
  unfold exec; simp only [execSstep, streamOp]; exact ⟨_, _, rfl, rfl⟩
theorem throughIssue_sact d a b g l : ThroughIssue (.sact d a b g l) := fun s => by
  unfold exec; simp only [execSact, streamOp]; exact ⟨_, _, rfl, rfl⟩
theorem throughIssue_sret d a b g l : ThroughIssue (.sret d a b g l) := fun s => by
  unfold exec; simp only [execSret, streamOp]; exact ⟨_, _, rfl, rfl⟩
theorem throughIssue_sjoin d a b g l : ThroughIssue (.sjoin d a b g l) := fun s => by
  unfold exec; simp only [execSjoin, streamOp]; exact ⟨_, _, rfl, rfl⟩
theorem throughIssue_sretire a g l : ThroughIssue (.sretire a g l) := fun s => by
  unfold exec; simp only [execSretire, streamOp]; exact ⟨_, _, rfl, rfl⟩
theorem throughIssue_sevict d a b g l : ThroughIssue (.sevict d a b g l) := fun s => by
  unfold exec; simp only [execSevict, streamOp]; exact ⟨_, _, rfl, rfl⟩
theorem throughIssue_smig d a b g l : ThroughIssue (.smig d a b g l) := fun s => by
  unfold exec; simp only [execSmig, streamOp]; exact ⟨_, _, rfl, rfl⟩
theorem throughIssue_sstat d a b g l : ThroughIssue (.sstat d a b g l) := fun s => by
  unfold exec; simp only [execSstat]; exact ⟨_, _, rfl, rfl⟩
theorem throughIssue_sjoinOpen d a g l : ThroughIssue (.sjoinOpen d a g l) := fun s => by
  unfold exec; simp only [execSjoinOpen, streamOp]; exact ⟨_, _, rfl, rfl⟩
theorem throughIssue_sstop d a b g l : ThroughIssue (.sstop d a b g l) := fun s => by
  unfold exec; simp only [execSstop, streamOp]; exact ⟨_, _, rfl, rfl⟩
theorem throughIssue_clook d a b g l : ThroughIssue (.clook d a b g l) := fun s => by
  unfold exec; simp only [execClook, castOp]; exact ⟨_, _, rfl, rfl⟩
theorem throughIssue_cput d a g l : ThroughIssue (.cput d a g l) := fun s => by
  unfold exec; simp only [execCput, castOp]; exact ⟨_, _, rfl, rfl⟩
theorem throughIssue_cinvk d a g l : ThroughIssue (.cinvk d a g l) := fun s => by
  unfold exec; simp only [execCinvk, castOp]; exact ⟨_, _, rfl, rfl⟩
theorem throughIssue_cflusht d a g l : ThroughIssue (.cflusht d a g l) := fun s => by
  unfold exec; simp only [execCflusht, castOp]; exact ⟨_, _, rfl, rfl⟩
theorem throughIssue_gset d a b g l : ThroughIssue (.gset d a b g l) := fun s => by
  unfold exec; simp only [execGset, gramOp, issueM]; exact ⟨_, _, rfl, rfl⟩
theorem throughIssue_gmask p a b g l : ThroughIssue (.gmask p a b g l) := fun s => by
  unfold exec; simp only [execGmask, gramOp, issueM]; exact ⟨_, _, rfl, rfl⟩
theorem throughIssue_gmaskS p a b g l : ThroughIssue (.gmaskS p a b g l) := fun s => by
  unfold exec; simp only [execGmaskS, gramOp, issueM]; exact ⟨_, _, rfl, rfl⟩
theorem throughIssue_gadv d a b g l : ThroughIssue (.gadv d a b g l) := fun s => by
  unfold exec; simp only [execGadv, gramOp, issueM]; exact ⟨_, _, rfl, rfl⟩
theorem throughIssue_gadvS d a b g l : ThroughIssue (.gadvS d a b g l) := fun s => by
  unfold exec; simp only [execGadvS, gramOp, issueM]; exact ⟨_, _, rfl, rfl⟩
theorem throughIssue_gchk p a b g l : ThroughIssue (.gchk p a b g l) := fun s => by
  unfold exec; simp only [execGchk, gramOp, issueM]; exact ⟨_, _, rfl, rfl⟩
theorem throughIssue_gsave d a g l : ThroughIssue (.gsave d a g l) := fun s => by
  unfold exec; simp only [execGsave, gramOp, issueM]; exact ⟨_, _, rfl, rfl⟩
theorem throughIssue_gload a b g l : ThroughIssue (.gload a b g l) := fun s => by
  unfold exec; simp only [execGload, gramOp, issueM]; exact ⟨_, _, rfl, rfl⟩
theorem throughIssue_trap c g : ThroughIssue (.trap c g) := fun s => by
  unfold exec; simp only [execTrap]; exact ⟨_, _, rfl, rfl⟩
theorem throughIssue_trapack g : ThroughIssue (.trapack g) := fun s => by
  unfold exec; simp only [execTrapack]; exact ⟨_, _, rfl, rfl⟩
theorem throughIssue_rett g : ThroughIssue (.rett g) := fun s => by
  unfold exec; simp only [execRett]; exact ⟨_, _, rfl, rfl⟩
theorem throughIssue_sysc d a g : ThroughIssue (.sysc d a g) := fun s => by
  unfold exec; simp only [execSysc]; exact ⟨_, _, rfl, rfl⟩
theorem throughIssue_sleep a g : ThroughIssue (.sleep a g) := fun s => by
  unfold exec; simp only [execSleep]; exact ⟨_, _, rfl, rfl⟩
theorem throughIssue_csrr d n m g k : ThroughIssue (.csrr d n m g k) := fun s => by
  unfold exec; simp only [execCsrr]; exact ⟨_, _, rfl, rfl⟩
theorem throughIssue_csrw r n m g k : ThroughIssue (.csrw r n m g k) := fun s => by
  unfold exec; simp only [execCsrw, csrWrite]; exact ⟨_, _, rfl, rfl⟩
theorem throughIssue_csrs r n m g k : ThroughIssue (.csrs r n m g k) := fun s => by
  unfold exec; simp only [execCsrs, csrWrite]; exact ⟨_, _, rfl, rfl⟩
theorem throughIssue_csrc r n m g k : ThroughIssue (.csrc r n m g k) := fun s => by
  unfold exec; simp only [execCsrc, csrWrite]; exact ⟨_, _, rfl, rfl⟩
theorem throughIssue_csrfi v p g c : ThroughIssue (.csrfi v p g c) := fun s => by
  unfold exec; simp only [execCsrfi, csrWrite]; exact ⟨_, _, rfl, rfl⟩
theorem throughIssue_vadd d a b m t l : ThroughIssue (.vadd d a b m t l) := fun s => by
  unfold exec; simp only [execVadd, vecBin, vecMap, vecOp, longOp]; exact ⟨_, _, rfl, rfl⟩
theorem throughIssue_vsub d a b m t l : ThroughIssue (.vsub d a b m t l) := fun s => by
  unfold exec; simp only [execVsub, vecBin, vecMap, vecOp, longOp]; exact ⟨_, _, rfl, rfl⟩
theorem throughIssue_vmul d a b m t l : ThroughIssue (.vmul d a b m t l) := fun s => by
  unfold exec; simp only [execVmul, vecBin, vecMap, vecOp, longOp]; exact ⟨_, _, rfl, rfl⟩
theorem throughIssue_vmulh d a b m t l : ThroughIssue (.vmulh d a b m t l) := fun s => by
  unfold exec; simp only [execVmulh, vecBin, vecMap, vecOp, longOp]; exact ⟨_, _, rfl, rfl⟩
theorem throughIssue_vmulhn d a b m t l : ThroughIssue (.vmulhn d a b m t l) := fun s => by
  unfold exec; simp only [execVmulhn, vecBin, vecMap, vecOp, longOp]; exact ⟨_, _, rfl, rfl⟩
theorem throughIssue_vand d a b m t l : ThroughIssue (.vand d a b m t l) := fun s => by
  unfold exec; simp only [execVand, vecBin, vecMap, vecOp, longOp]; exact ⟨_, _, rfl, rfl⟩
theorem throughIssue_vor d a b m t l : ThroughIssue (.vor d a b m t l) := fun s => by
  unfold exec; simp only [execVor, vecBin, vecMap, vecOp, longOp]; exact ⟨_, _, rfl, rfl⟩
theorem throughIssue_vxor d a b m t l : ThroughIssue (.vxor d a b m t l) := fun s => by
  unfold exec; simp only [execVxor, vecBin, vecMap, vecOp, longOp]; exact ⟨_, _, rfl, rfl⟩
theorem throughIssue_vshl d a b m t l : ThroughIssue (.vshl d a b m t l) := fun s => by
  unfold exec; simp only [execVshl, vecBin, vecMap, vecOp, longOp]; exact ⟨_, _, rfl, rfl⟩
theorem throughIssue_vshr d a b m t l : ThroughIssue (.vshr d a b m t l) := fun s => by
  unfold exec; simp only [execVshr, vecBin, vecMap, vecOp, longOp]; exact ⟨_, _, rfl, rfl⟩
theorem throughIssue_vsra d a b m t l : ThroughIssue (.vsra d a b m t l) := fun s => by
  unfold exec; simp only [execVsra, vecBin, vecMap, vecOp, longOp]; exact ⟨_, _, rfl, rfl⟩
theorem throughIssue_vmin d a b m t l : ThroughIssue (.vmin d a b m t l) := fun s => by
  unfold exec; simp only [execVmin, vecBin, vecMap, vecOp, longOp]; exact ⟨_, _, rfl, rfl⟩
theorem throughIssue_vmax d a b m t l : ThroughIssue (.vmax d a b m t l) := fun s => by
  unfold exec; simp only [execVmax, vecBin, vecMap, vecOp, longOp]; exact ⟨_, _, rfl, rfl⟩
theorem throughIssue_vminn d a b m t l : ThroughIssue (.vminn d a b m t l) := fun s => by
  unfold exec; simp only [execVminn, vecBin, vecMap, vecOp, longOp]; exact ⟨_, _, rfl, rfl⟩
theorem throughIssue_vmaxn d a b m t l : ThroughIssue (.vmaxn d a b m t l) := fun s => by
  unfold exec; simp only [execVmaxn, vecBin, vecMap, vecOp, longOp]; exact ⟨_, _, rfl, rfl⟩
theorem throughIssue_vadds d a b m t l : ThroughIssue (.vadds d a b m t l) := fun s => by
  unfold exec; simp only [execVadds, vecBin, vecMap, vecOp, longOp]; exact ⟨_, _, rfl, rfl⟩
theorem throughIssue_vaddsn d a b m t l : ThroughIssue (.vaddsn d a b m t l) := fun s => by
  unfold exec; simp only [execVaddsn, vecBin, vecMap, vecOp, longOp]; exact ⟨_, _, rfl, rfl⟩
theorem throughIssue_vsubs d a b m t l : ThroughIssue (.vsubs d a b m t l) := fun s => by
  unfold exec; simp only [execVsubs, vecBin, vecMap, vecOp, longOp]; exact ⟨_, _, rfl, rfl⟩
theorem throughIssue_vsubsn d a b m t l : ThroughIssue (.vsubsn d a b m t l) := fun s => by
  unfold exec; simp only [execVsubsn, vecBin, vecMap, vecOp, longOp]; exact ⟨_, _, rfl, rfl⟩
theorem throughIssue_vmov d a m t l : ThroughIssue (.vmov d a m t l) := fun s => by
  unfold exec; simp only [execVmov, vecUn, vecMap, vecOp, longOp]; exact ⟨_, _, rfl, rfl⟩
theorem throughIssue_vfadd d a b m t l : ThroughIssue (.vfadd d a b m t l) := fun s => by
  unfold exec; simp only [execVfadd, vecBin, vecMap, vecOp, longOp]; exact ⟨_, _, rfl, rfl⟩
theorem throughIssue_vfsub d a b m t l : ThroughIssue (.vfsub d a b m t l) := fun s => by
  unfold exec; simp only [execVfsub, vecBin, vecMap, vecOp, longOp]; exact ⟨_, _, rfl, rfl⟩
theorem throughIssue_vfmul d a b m t l : ThroughIssue (.vfmul d a b m t l) := fun s => by
  unfold exec; simp only [execVfmul, vecBin, vecMap, vecOp, longOp]; exact ⟨_, _, rfl, rfl⟩
theorem throughIssue_vfma d a b m t l : ThroughIssue (.vfma d a b m t l) := fun s => by
  unfold exec; simp only [execVfma, vecMap, vecOp, longOp]; exact ⟨_, _, rfl, rfl⟩
theorem throughIssue_vfdiv d a b m t l : ThroughIssue (.vfdiv d a b m t l) := fun s => by
  unfold exec; simp only [execVfdiv, vecBin, vecMap, vecOp, longOp]; exact ⟨_, _, rfl, rfl⟩
theorem throughIssue_vfsqrt d a m t l : ThroughIssue (.vfsqrt d a m t l) := fun s => by
  unfold exec; simp only [execVfsqrt, vecUn, vecMap, vecOp, longOp]; exact ⟨_, _, rfl, rfl⟩
theorem throughIssue_vfmin d a b m t l : ThroughIssue (.vfmin d a b m t l) := fun s => by
  unfold exec; simp only [execVfmin, vecBin, vecMap, vecOp, longOp]; exact ⟨_, _, rfl, rfl⟩
theorem throughIssue_vfmax d a b m t l : ThroughIssue (.vfmax d a b m t l) := fun s => by
  unfold exec; simp only [execVfmax, vecBin, vecMap, vecOp, longOp]; exact ⟨_, _, rfl, rfl⟩
theorem throughIssue_vexp2 d a m t l : ThroughIssue (.vexp2 d a m t l) := fun s => by
  unfold exec; simp only [execVexp2, vecFn, vecUn, vecMap, vecOp, longOp]; exact ⟨_, _, rfl, rfl⟩
theorem throughIssue_vlog2 d a m t l : ThroughIssue (.vlog2 d a m t l) := fun s => by
  unfold exec; simp only [execVlog2, vecFn, vecUn, vecMap, vecOp, longOp]; exact ⟨_, _, rfl, rfl⟩
theorem throughIssue_vrcp d a m t l : ThroughIssue (.vrcp d a m t l) := fun s => by
  unfold exec; simp only [execVrcp, vecFn, vecUn, vecMap, vecOp, longOp]; exact ⟨_, _, rfl, rfl⟩
theorem throughIssue_vrsq d a m t l : ThroughIssue (.vrsq d a m t l) := fun s => by
  unfold exec; simp only [execVrsq, vecFn, vecUn, vecMap, vecOp, longOp]; exact ⟨_, _, rfl, rfl⟩
theorem throughIssue_vld d b m t l : ThroughIssue (.vld d b m t l) := fun s => by
  unfold exec; simp only [execVld, vecLoad, vecMem]; exact ⟨_, _, rfl, rfl⟩
theorem throughIssue_vlds d b r m t l : ThroughIssue (.vlds d b r m t l) := fun s => by
  unfold exec; simp only [execVlds, vecLoad, vecMem]; exact ⟨_, _, rfl, rfl⟩
theorem throughIssue_vldx d b x m t l : ThroughIssue (.vldx d b x m t l) := fun s => by
  unfold exec; simp only [execVldx, vecLoad, vecMem]; exact ⟨_, _, rfl, rfl⟩
theorem throughIssue_vst d b m t l : ThroughIssue (.vst d b m t l) := fun s => by
  unfold exec; simp only [execVst, vecStore, vecMem]; exact ⟨_, _, rfl, rfl⟩
theorem throughIssue_vsts d b r m t l : ThroughIssue (.vsts d b r m t l) := fun s => by
  unfold exec; simp only [execVsts, vecStore, vecMem]; exact ⟨_, _, rfl, rfl⟩
theorem throughIssue_vstx d b x m t l : ThroughIssue (.vstx d b x m t l) := fun s => by
  unfold exec; simp only [execVstx, vecStore, vecMem]; exact ⟨_, _, rfl, rfl⟩
theorem throughIssue_vldm n b l : ThroughIssue (.vldm n b l) := fun s => by
  unfold exec; simp only [execVldm, vecMem]; exact ⟨_, _, rfl, rfl⟩
theorem throughIssue_vstm n b l : ThroughIssue (.vstm n b l) := fun s => by
  unfold exec; simp only [execVstm, vecMem]; exact ⟨_, _, rfl, rfl⟩
theorem throughIssue_vrsum d a m t l : ThroughIssue (.vrsum d a m t l) := fun s => by
  unfold exec; simp only [execVrsum, vecReduce, vecOp, longOp]; exact ⟨_, _, rfl, rfl⟩
theorem throughIssue_vrmin d a m t l : ThroughIssue (.vrmin d a m t l) := fun s => by
  unfold exec; simp only [execVrmin, vecReduce, vecOp, longOp]; exact ⟨_, _, rfl, rfl⟩
theorem throughIssue_vrmax d a m t l : ThroughIssue (.vrmax d a m t l) := fun s => by
  unfold exec; simp only [execVrmax, vecReduce, vecOp, longOp]; exact ⟨_, _, rfl, rfl⟩
theorem throughIssue_vrminn d a m t l : ThroughIssue (.vrminn d a m t l) := fun s => by
  unfold exec; simp only [execVrminn, vecReduce, vecOp, longOp]; exact ⟨_, _, rfl, rfl⟩
theorem throughIssue_vrmaxn d a m t l : ThroughIssue (.vrmaxn d a m t l) := fun s => by
  unfold exec; simp only [execVrmaxn, vecReduce, vecOp, longOp]; exact ⟨_, _, rfl, rfl⟩
theorem throughIssue_vrand d a m t l : ThroughIssue (.vrand d a m t l) := fun s => by
  unfold exec; simp only [execVrand, vecReduce, vecOp, longOp]; exact ⟨_, _, rfl, rfl⟩
theorem throughIssue_vror d a m t l : ThroughIssue (.vror d a m t l) := fun s => by
  unfold exec; simp only [execVror, vecReduce, vecOp, longOp]; exact ⟨_, _, rfl, rfl⟩
theorem throughIssue_vrxor d a m t l : ThroughIssue (.vrxor d a m t l) := fun s => by
  unfold exec; simp only [execVrxor, vecReduce, vecOp, longOp]; exact ⟨_, _, rfl, rfl⟩
theorem throughIssue_vscan d a m t l : ThroughIssue (.vscan d a m t l) := fun s => by
  unfold exec; simp only [execVscan, vecScan, vecOp, longOp]; exact ⟨_, _, rfl, rfl⟩
theorem throughIssue_vscanmax d a m t l : ThroughIssue (.vscanmax d a m t l) := fun s => by
  unfold exec; simp only [execVscanmax, vecScan, vecOp, longOp]; exact ⟨_, _, rfl, rfl⟩
theorem throughIssue_vtopk d a b m t l : ThroughIssue (.vtopk d a b m t l) := fun s => by
  unfold exec; simp only [execVtopk, vecOp, longOp]; exact ⟨_, _, rfl, rfl⟩
theorem throughIssue_vperm d a b m t l : ThroughIssue (.vperm d a b m t l) := fun s => by
  unfold exec; simp only [execVperm, vecMap, vecOp, longOp]; exact ⟨_, _, rfl, rfl⟩
theorem throughIssue_vbcastg d r m t l : ThroughIssue (.vbcastg d r m t l) := fun s => by
  unfold exec; simp only [execVbcastg, vecMap, vecOp, longOp]; exact ⟨_, _, rfl, rfl⟩
theorem throughIssue_vmovg d r t l : ThroughIssue (.vmovg d r t l) := fun s => by
  unfold exec; simp only [execVmovg, vecOp, longOp]; exact ⟨_, _, rfl, rfl⟩
theorem throughIssue_viota d m t l : ThroughIssue (.viota d m t l) := fun s => by
  unfold exec; simp only [execViota, vecMap, vecOp, longOp]; exact ⟨_, _, rfl, rfl⟩
theorem throughIssue_vbcast d a m t l : ThroughIssue (.vbcast d a m t l) := fun s => by
  unfold exec; simp only [execVbcast, vecMap, vecOp, longOp]; exact ⟨_, _, rfl, rfl⟩
theorem throughIssue_vcompress d a m t l : ThroughIssue (.vcompress d a m t l) := fun s => by
  unfold exec; simp only [execVcompress, vecOp, longOp]; exact ⟨_, _, rfl, rfl⟩
theorem throughIssue_vcmp n a b m t l k : ThroughIssue (.vcmp n a b m t l k) := fun s => by
  unfold exec; simp only [execVcmp, vecCompare, vecOp, longOp]; exact ⟨_, _, rfl, rfl⟩
theorem throughIssue_vfcmp n a b m t l k : ThroughIssue (.vfcmp n a b m t l k) := fun s => by
  unfold exec; simp only [execVfcmp, vecCompare, vecOp, longOp]; exact ⟨_, _, rfl, rfl⟩
theorem throughIssue_vmand n q r l : ThroughIssue (.vmand n q r l) := fun s => by
  unfold exec; simp only [execVmand, maskLogic, vecOp, longOp]; exact ⟨_, _, rfl, rfl⟩
theorem throughIssue_vmor n q r l : ThroughIssue (.vmor n q r l) := fun s => by
  unfold exec; simp only [execVmor, maskLogic, vecOp, longOp]; exact ⟨_, _, rfl, rfl⟩
theorem throughIssue_vmxor n q r l : ThroughIssue (.vmxor n q r l) := fun s => by
  unfold exec; simp only [execVmxor, maskLogic, vecOp, longOp]; exact ⟨_, _, rfl, rfl⟩
theorem throughIssue_vmnot n q l : ThroughIssue (.vmnot n q l) := fun s => by
  unfold exec; simp only [execVmnot, maskLogic, vecOp, longOp]; exact ⟨_, _, rfl, rfl⟩
theorem throughIssue_vmpopc r m t l : ThroughIssue (.vmpopc r m t l) := fun s => by
  unfold exec; simp only [execVmpopc, vecOp, longOp]; exact ⟨_, _, rfl, rfl⟩
theorem throughIssue_vmfirst r m t l : ThroughIssue (.vmfirst r m t l) := fun s => by
  unfold exec; simp only [execVmfirst, vecOp, longOp]; exact ⟨_, _, rfl, rfl⟩
theorem throughIssue_vcvt d a p m t l x u v c : ThroughIssue (.vcvt d a p m t l x u v c) := fun s => by
  unfold exec; simp only [execVcvt, vecOp, longOp]; exact ⟨_, _, rfl, rfl⟩
theorem throughIssue_vpen d a b m l : ThroughIssue (.vpen d a b m l) := fun s => by
  unfold exec; simp only [execVpen, genMap, vecMap, vecOp, longOp]; exact ⟨_, _, rfl, rfl⟩
theorem throughIssue_vbias d a b m l : ThroughIssue (.vbias d a b m l) := fun s => by
  unfold exec; simp only [execVbias, genMap, vecMap, vecOp, longOp]; exact ⟨_, _, rfl, rfl⟩
theorem throughIssue_vban d m l : ThroughIssue (.vban d m l) := fun s => by
  unfold exec; simp only [execVban, genMap, vecMap, vecOp, longOp]; exact ⟨_, _, rfl, rfl⟩
theorem throughIssue_vsamp d a b m l : ThroughIssue (.vsamp d a b m l) := fun s => by
  unfold exec; simp only [execVsamp, vecOp, longOp]; exact ⟨_, _, rfl, rfl⟩
theorem throughIssue_vrng d a b m l : ThroughIssue (.vrng d a b m l) := fun s => by
  unfold exec; simp only [execVrng, genMap, vecMap, vecOp, longOp]; exact ⟨_, _, rfl, rfl⟩
theorem throughIssue_vacc d a b m l : ThroughIssue (.vacc d a b m l) := fun s => by
  unfold exec; simp only [execVacc, genMap, vecMap, vecOp, longOp]; exact ⟨_, _, rfl, rfl⟩
theorem throughIssue_vresid d a b m l : ThroughIssue (.vresid d a b m l) := fun s => by
  unfold exec; simp only [execVresid, genMap, vecMap, vecOp, longOp]; exact ⟨_, _, rfl, rfl⟩
theorem throughIssue_vtree d a b l : ThroughIssue (.vtree d a b l) := fun s => by
  unfold exec; simp only [execVtree, vecOp, longOp]; exact ⟨_, _, rfl, rfl⟩
theorem throughIssue_vmatch d a b l : ThroughIssue (.vmatch d a b l) := fun s => by
  unfold exec; simp only [execVmatch, vecOp, longOp]; exact ⟨_, _, rfl, rfl⟩
theorem throughIssue_vsoftT d b m l : ThroughIssue (.vsoftT d b m l) := fun s => by
  unfold exec; simp only [execVsoftT, genMap, vecMap, vecOp, longOp]; exact ⟨_, _, rfl, rfl⟩
theorem throughIssue_vsoftW d b m l : ThroughIssue (.vsoftW d b m l) := fun s => by
  unfold exec; simp only [execVsoftW, genMap, vecMap, vecOp, longOp]; exact ⟨_, _, rfl, rfl⟩
theorem throughIssue_tcmd a b g l q h w : ThroughIssue (.tcmd a b g l q h w) := fun s => by
  unfold exec; simp only [execTcmd, issueM]; exact ⟨_, _, rfl, rfl⟩

end Sys2Proof.Machine
end

