-- ==== Sys2Proof/Laws/Memory.lean ====
section
/-! SUPPORT. The sparse containers: reading after writing, and the canonical form of byte memory, which every operation on it
keeps. -/

namespace Sys2Proof

theorem Table.sorted_iff {α : Type} (t : Table α) : Table.sorted t = true ↔ t.Pairwise (fun a b => a.1 < b.1) := by
  induction t with
  | nil => simp [Table.sorted]
  | cons x t ih =>
    cases t with
    | nil => simp [Table.sorted]
    | cons y t =>
      obtain ⟨a, u⟩ := x
      obtain ⟨b, v⟩ := y
      simp only [Table.sorted, Bool.and_eq_true, decide_eq_true_eq, ih]
      constructor
      · rintro ⟨h, hp⟩
        refine List.pairwise_cons.2 ⟨fun z hz => ?_, hp⟩
        rcases List.mem_cons.1 hz with rfl | hz
        · exact h
        · exact lt_trans h ((List.pairwise_cons.1 hp).1 z hz)
      · intro hp
        exact ⟨(List.pairwise_cons.1 hp).1 _ (List.mem_cons_self ..), (List.pairwise_cons.1 hp).2⟩

theorem Table.mem_put {α : Type} {t : Table α} {k : Nat} {v : α} {x : Nat × α} (h : x ∈ Table.put t k v) :
    x = (k, v) ∨ x ∈ t := by
  induction t with
  | nil => simpa [Table.put] using h
  | cons y t ih =>
    obtain ⟨a, u⟩ := y
    simp only [Table.put] at h
    split at h
    · rcases List.mem_cons.1 h with rfl | h
      · exact .inl rfl
      · exact .inr (List.mem_cons_of_mem _ h)
    · split at h
      · rcases List.mem_cons.1 h with rfl | h
        · exact .inl rfl
        · exact .inr h
      · rcases List.mem_cons.1 h with rfl | h
        · exact .inr (List.mem_cons_self ..)
        · rcases ih h with rfl | h
          · exact .inl rfl
          · exact .inr (List.mem_cons_of_mem _ h)

theorem Table.mem_del {α : Type} {t : Table α} {k : Nat} {x : Nat × α} (h : x ∈ Table.del t k) : x ∈ t := by
  induction t with
  | nil => simp [Table.del] at h
  | cons y t ih =>
    obtain ⟨a, u⟩ := y
    simp only [Table.del] at h
    split at h
    · exact List.mem_cons_of_mem _ h
    · split at h
      · exact h
      · rcases List.mem_cons.1 h with rfl | h
        · exact List.mem_cons_self ..
        · exact List.mem_cons_of_mem _ (ih h)

theorem Table.sorted_put {α : Type} {t : Table α} (k : Nat) (v : α) (h : Table.sorted t = true) :
    Table.sorted (Table.put t k v) = true := by
  rw [Table.sorted_iff] at h ⊢
  induction t with
  | nil => simp [Table.put]
  | cons y t ih =>
    obtain ⟨a, u⟩ := y
    obtain ⟨h1, h2⟩ := List.pairwise_cons.1 h
    simp only [Table.put]
    split
    · subst a; exact List.pairwise_cons.2 ⟨h1, h2⟩
    · split
      · rename_i hk
        refine List.pairwise_cons.2 ⟨fun z hz => ?_, h⟩
        rcases List.mem_cons.1 hz with rfl | hz
        · exact hk
        · exact lt_trans hk (h1 z hz)
      · refine List.pairwise_cons.2 ⟨fun z hz => ?_, ih h2⟩
        rcases Table.mem_put hz with rfl | hz
        · show a < k; omega
        · exact h1 z hz

theorem Table.sorted_del {α : Type} {t : Table α} (k : Nat) (h : Table.sorted t = true) :
    Table.sorted (Table.del t k) = true := by
  rw [Table.sorted_iff] at h ⊢
  induction t with
  | nil => simp [Table.del]
  | cons y t ih =>
    obtain ⟨a, u⟩ := y
    obtain ⟨h1, h2⟩ := List.pairwise_cons.1 h
    simp only [Table.del]
    split
    · exact h2
    · split
      · exact h
      · exact List.pairwise_cons.2 ⟨fun z hz => h1 z (Table.mem_del hz), ih h2⟩

/-- Putting an entry does not change what another key reads. -/
theorem Table.find?_put {α : Type} (t : Table α) (k j : Nat) (v : α) :
    Table.find? (Table.put t k v) j = if j = k then some v else Table.find? t j := by
  induction t with
  | nil => simp only [Table.put, Table.find?]; grind
  | cons y t ih =>
    obtain ⟨a, u⟩ := y
    simp only [Table.put]
    split <;> [skip; split] <;> simp only [Table.find?, ih] <;> grind

theorem Table.find?_eq_none {α : Type} {t : Table α} {k : Nat} (h : ∀ x ∈ t, k < x.1) : Table.find? t k = none := by
  cases t with
  | nil => rfl
  | cons y t =>
    obtain ⟨a, u⟩ := y
    have := h _ (List.mem_cons_self ..)
    simp only [Table.find?]; grind

theorem Table.find?_del {α : Type} {t : Table α} (k j : Nat) (h : Table.sorted t = true) :
    Table.find? (Table.del t k) j = if j = k then none else Table.find? t j := by
  rw [Table.sorted_iff] at h
  induction t with
  | nil => simp [Table.del, Table.find?]
  | cons y t ih =>
    obtain ⟨a, u⟩ := y
    obtain ⟨h1, h2⟩ := List.pairwise_cons.1 h
    simp only [Table.del]
    split
    · subst a
      by_cases hj : j = k
      · subst j; simp [Table.find?_eq_none h1]
      · simp only [hj, if_false, Table.find?]
        split
        · omega
        · split
          · exact Table.find?_eq_none fun x hx => lt_trans ‹_› (h1 x hx)
          · rfl
    · split <;> simp only [Table.find?, ih h2] <;> grind

/-- An entry put is the entry that its key reads; reset values stand for what a table does not list. -/
theorem Table.getD_put {α : Type} (t : Table α) (k j : Nat) (v d : α) :
    Table.getD (Table.put t k v) j d = if j = k then v else Table.getD t j d := by
  simp only [Table.getD, Table.find?_put]; split <;> rfl

namespace Memory

theorem noZero_iff (m : Memory) : noZero m = true ↔ ∀ x ∈ m, x.2 ≠ 0 := by simp [noZero]

/-- A write keeps the canonical form. -/
theorem wf_writeByte {m : Memory} (a : Nat) (b : Byte) (h : wf m = true) : wf (writeByte m a b) = true := by
  simp only [wf, Bool.and_eq_true, noZero_iff] at h ⊢
  unfold writeByte
  split
  · exact ⟨Table.sorted_del a h.1, fun x hx => h.2 x (Table.mem_del hx)⟩
  · refine ⟨Table.sorted_put a b h.1, fun x hx => ?_⟩
    rcases Table.mem_put hx with rfl | hx
    · assumption
    · exact h.2 x hx

theorem wf_writeBytes {m : Memory} (a : Nat) (bs : List Byte) (h : wf m = true) : wf (writeBytes m a bs) = true := by
  induction bs generalizing m a with
  | nil => exact h
  | cons b bs ih => exact ih (a + 1) (wf_writeByte a b h)

/-- A byte written reads back, and every other byte reads as before. -/
theorem readByte_writeByte {m : Memory} (a j : Nat) (b : Byte) (h : wf m = true) :
    readByte (writeByte m a b) j = if j = a then b else readByte m j := by
  simp only [wf, Bool.and_eq_true] at h
  unfold writeByte readByte
  split
  · subst b
    simp only [Table.getD, Table.find?_del a j h.1]
    split <;> rfl
  · simp only [Table.getD_put]

/-- After a write of several bytes, each address in the range reads its byte and every other one reads as before. -/
theorem readByte_writeBytes {m : Memory} (a j : Nat) (bs : List Byte) (h : wf m = true) :
    readByte (writeBytes m a bs) j = if h : a ≤ j ∧ j < a + bs.length then bs[j - a] else readByte m j := by
  induction bs generalizing m a with
  | nil => simp [writeBytes]
  | cons b bs ih =>
    rw [writeBytes, ih (a + 1) (wf_writeByte a b h), readByte_writeByte a j b h]
    by_cases hj : j = a
    · subst j; simp
    · by_cases h2 : a ≤ j ∧ j < a + (bs.length + 1)
      · have h3 : a + 1 ≤ j ∧ j < a + 1 + bs.length := by omega
        have h4 : j - a = (j - (a + 1)) + 1 := by omega
        simp [h2, h3, h4]
      · have h3 : ¬ (a + 1 ≤ j ∧ j < a + 1 + bs.length) := by omega
        rw [dif_neg h3, if_neg hj, dif_neg (show ¬ (a ≤ j ∧ j < a + (b :: bs).length) from by simpa using h2)]

end Memory

namespace Machine

/-- An image whose offsets lie below the length of the range that it replaces keeps the canonical form. -/
theorem wf_replaceMem {m img : Memory} (lo n : Nat) (hm : m.wf = true) (hi : img.wf = true) (hn : ∀ x ∈ img, x.1 < n) :
    (replaceMem m lo n img).wf = true := by
  simp only [Memory.wf, Bool.and_eq_true, Memory.noZero_iff, Table.sorted_iff] at hm hi ⊢
  unfold replaceMem
  constructor
  · refine List.pairwise_append.2 ⟨List.pairwise_append.2 ⟨hm.1.filter _, ?_, ?_⟩, hm.1.filter _, ?_⟩
    · exact List.pairwise_map.2 (hi.1.imp fun h => Nat.add_lt_add_left h lo)
    · intro a ha b hb
      obtain ⟨c, hc, rfl⟩ := List.mem_map.1 hb
      have := (List.mem_filter.1 ha).2
      simp only [decide_eq_true_eq] at this
      show a.1 < lo + c.1; omega
    · intro a ha b hb
      have h2 := (List.mem_filter.1 hb).2
      simp only [decide_eq_true_eq] at h2
      rcases List.mem_append.1 ha with ha | ha
      · have := (List.mem_filter.1 ha).2
        simp only [decide_eq_true_eq] at this; omega
      · obtain ⟨c, hc, rfl⟩ := List.mem_map.1 ha
        have := hn c hc
        show lo + c.1 < b.1; omega
  · intro x hx
    rcases List.mem_append.1 hx with hx | hx
    · rcases List.mem_append.1 hx with hx | hx
      · exact hm.2 x (List.mem_filter.1 hx).1
      · obtain ⟨c, hc, rfl⟩ := List.mem_map.1 hx
        exact hi.2 c hc
    · exact hm.2 x (List.mem_filter.1 hx).1

/-- A slice of a memory, keyed by offset, is in the canonical form and lies below the length of the slice. -/
theorem wf_sliceMem {m : Memory} (lo n : Nat) (hm : m.wf = true) :
    (sliceMem m lo n).wf = true ∧ ∀ x ∈ sliceMem m lo n, x.1 < n := by
  simp only [Memory.wf, Bool.and_eq_true, Memory.noZero_iff, Table.sorted_iff] at hm ⊢
  unfold sliceMem
  have hf : ∀ x ∈ m.filter (fun c => decide (lo ≤ c.1 ∧ c.1 < lo + n)), lo ≤ x.1 ∧ x.1 < lo + n ∧ x.2 ≠ 0 := by
    intro x hx
    have h1 := List.mem_filter.1 hx
    have h2 := h1.2
    simp only [decide_eq_true_eq] at h2
    exact ⟨h2.1, h2.2, hm.2 x h1.1⟩
  refine ⟨⟨?_, ?_⟩, ?_⟩
  · refine List.pairwise_map.2 ?_
    have hp := hm.1.filter (fun c => decide (lo ≤ c.1 ∧ c.1 < lo + n))
    refine List.Pairwise.imp_of_mem (fun {a b} ha hb hab => ?_) hp
    have h1 := hf a ha
    have h2 := hf b hb
    show a.1 - lo < b.1 - lo; omega
  · intro x hx
    obtain ⟨c, hc, rfl⟩ := List.mem_map.1 hx
    exact (hf c hc).2.2
  · intro x hx
    obtain ⟨c, hc, rfl⟩ := List.mem_map.1 hx
    have := hf c hc
    show c.1 - lo < n; omega

theorem length_readBytes (m : Memory) (a n : Nat) : (m.readBytes a n).length = n := by
  induction n generalizing a with
  | zero => rfl
  | succ n ih => simp [Memory.readBytes, ih]

/-! ### The memory operations of the part -/

theorem mem_pokeView (s : State) (d pa : Nat) (bs : List Byte) : (s.pokeView d pa bs).mem = s.mem.writeBytes (viewKey d pa) bs := rfl
theorem ls_writeLs (s : State) (cl off : Nat) (bs : List Byte) : (s.writeLs cl off bs).ls = s.ls.writeBytes (lsKey cl off) bs := rfl

theorem wf_pokeView {s : State} (d pa : Nat) (bs : List Byte) (h : s.mem.wf = true) : (s.pokeView d pa bs).mem.wf = true :=
  Memory.wf_writeBytes _ _ h

theorem wf_pokeAll {s : State} (pa : Nat) (bs : List Byte) (h : s.mem.wf = true) : (s.pokeAll pa bs).mem.wf = true :=
  wf_pokeView _ _ _ (wf_pokeView _ _ _ (wf_pokeView _ _ _ (wf_pokeView _ _ _ h)))

theorem wf_writeLs {s : State} (cl off : Nat) (bs : List Byte) (h : s.ls.wf = true) : (s.writeLs cl off bs).ls.wf = true :=
  Memory.wf_writeBytes _ _ h

theorem ls_storeLs (s : State) (w cl off : Nat) (bs : List Byte) :
    (s.storeLs w cl off bs).ls = s.ls.writeBytes (lsKey cl off) bs := rfl

theorem wf_storeLs {s : State} (w cl off : Nat) (bs : List Byte) (h : s.ls.wf = true) :
    (s.storeLs w cl off bs).ls.wf = true := by
  rw [ls_storeLs]; exact Memory.wf_writeBytes _ _ h

/-- The parts of stores that merged. -/
theorem wf_pokeParts (d : Nat) (ps : List (Nat × List Byte)) {s : State} (h : s.mem.wf = true) :
    (ps.foldl (fun s p => s.pokeView d p.1 p.2) s).mem.wf = true := by
  induction ps generalizing s with
  | nil => exact h
  | cons p ps ih => exact ih (wf_pokeView _ _ _ h)

theorem wf_applyData {s : State} (d : Nat) (w : WData) (h : s.mem.wf = true)
    (hw : ∀ pa img, w = .frame pa img → img.wf = true ∧ ∀ x ∈ img, x.1 < 65536) : (s.applyData d w).mem.wf = true := by
  cases w with
  | bytes pa bs => exact wf_pokeView _ _ _ h
  | frame pa img => exact wf_replaceMem _ _ h (hw pa img rfl).1 (hw pa img rfl).2
  | parts ps => exact wf_pokeParts d ps h

end Machine
end Sys2Proof
end

