-- ==== Sys2Proof/Laws/State.lean ====
section
/-! SUPPORT. What each named update of the state leaves in each field: one lemma per field, so that no proof unfolds a record
update. -/

namespace Sys2Proof.Machine

set_option Elab.async false

/-! ### Objects by number -/

@[simp] theorem State.slot_setSlot (s : State) (k j : Nat) (x : Slot) : (s.setSlot k x).slot j = if j = k then x else s.slot j := by
  simp only [State.slot, State.setSlot, Table.getD_put]
@[simp] theorem State.modSlot_eq (s : State) (k : Nat) (f : Slot → Slot) : s.modSlot k f = s.setSlot k (f (s.slot k)) := rfl
@[simp] theorem State.core_setSlot (s : State) (k j : Nat) (x : Slot) : (s.setSlot k x).core j = s.core j := rfl
@[simp] theorem State.cluster_setSlot (s : State) (k j : Nat) (x : Slot) : (s.setSlot k x).cluster j = s.cluster j := rfl
@[simp] theorem State.die_setSlot (s : State) (k j : Nat) (x : Slot) : (s.setSlot k x).die j = s.die j := rfl
@[simp] theorem State.core_setCore (s : State) (k j : Nat) (x : Core) : (s.setCore k x).core j = if j = k then x else s.core j := by
  simp only [State.core, State.setCore, Table.getD_put]
@[simp] theorem State.modCore_eq (s : State) (k : Nat) (f : Core → Core) : s.modCore k f = s.setCore k (f (s.core k)) := rfl
@[simp] theorem State.slot_setCore (s : State) (k j : Nat) (x : Core) : (s.setCore k x).slot j = s.slot j := rfl
@[simp] theorem State.cluster_setCore (s : State) (k j : Nat) (x : Core) : (s.setCore k x).cluster j = s.cluster j := rfl
@[simp] theorem State.die_setCore (s : State) (k j : Nat) (x : Core) : (s.setCore k x).die j = s.die j := rfl
@[simp] theorem State.cluster_setCluster (s : State) (k j : Nat) (x : Cluster) : (s.setCluster k x).cluster j = if j = k then x else s.cluster j := by
  simp only [State.cluster, State.setCluster, Table.getD_put]
@[simp] theorem State.modCluster_eq (s : State) (k : Nat) (f : Cluster → Cluster) : s.modCluster k f = s.setCluster k (f (s.cluster k)) := rfl
@[simp] theorem State.slot_setCluster (s : State) (k j : Nat) (x : Cluster) : (s.setCluster k x).slot j = s.slot j := rfl
@[simp] theorem State.core_setCluster (s : State) (k j : Nat) (x : Cluster) : (s.setCluster k x).core j = s.core j := rfl
@[simp] theorem State.die_setCluster (s : State) (k j : Nat) (x : Cluster) : (s.setCluster k x).die j = s.die j := rfl
@[simp] theorem State.die_setDie (s : State) (k j : Nat) (x : Die) : (s.setDie k x).die j = if j = k then x else s.die j := by
  simp only [State.die, State.setDie, Table.getD_put]
@[simp] theorem State.modDie_eq (s : State) (k : Nat) (f : Die → Die) : s.modDie k f = s.setDie k (f (s.die k)) := rfl
@[simp] theorem State.slot_setDie (s : State) (k j : Nat) (x : Die) : (s.setDie k x).slot j = s.slot j := rfl
@[simp] theorem State.core_setDie (s : State) (k j : Nat) (x : Die) : (s.setDie k x).core j = s.core j := rfl
@[simp] theorem State.cluster_setDie (s : State) (k j : Nat) (x : Die) : (s.setDie k x).cluster j = s.cluster j := rfl

/-! ### State.setSlot -/

@[simp] theorem State.setSlot_agenda (s : State) (k : Nat) (x : Slot) : (s.setSlot k x).agenda = s.agenda := rfl
@[simp] theorem State.setSlot_focus (s : State) (k : Nat) (x : Slot) : (s.setSlot k x).focus = s.focus := rfl
@[simp] theorem State.setSlot_ev (s : State) (k : Nat) (x : Slot) : (s.setSlot k x).ev = s.ev := rfl
@[simp] theorem State.setSlot_freeCtr (s : State) (k : Nat) (x : Slot) : (s.setSlot k x).freeCtr = s.freeCtr := rfl
@[simp] theorem State.setSlot_nextN (s : State) (k : Nat) (x : Slot) : (s.setSlot k x).nextN = s.nextN := rfl
@[simp] theorem State.setSlot_out (s : State) (k : Nat) (x : Slot) : (s.setSlot k x).out = s.out := rfl
@[simp] theorem State.setSlot_cores (s : State) (k : Nat) (x : Slot) : (s.setSlot k x).cores = s.cores := rfl
@[simp] theorem State.setSlot_clusters (s : State) (k : Nat) (x : Slot) : (s.setSlot k x).clusters = s.clusters := rfl
@[simp] theorem State.setSlot_dies (s : State) (k : Nat) (x : Slot) : (s.setSlot k x).dies = s.dies := rfl
@[simp] theorem State.setSlot_mem (s : State) (k : Nat) (x : Slot) : (s.setSlot k x).mem = s.mem := rfl
@[simp] theorem State.setSlot_ls (s : State) (k : Nat) (x : Slot) : (s.setSlot k x).ls = s.ls := rfl
@[simp] theorem State.setSlot_feEmpty (s : State) (k : Nat) (x : Slot) : (s.setSlot k x).feEmpty = s.feEmpty := rfl
@[simp] theorem State.setSlot_lsStamp (s : State) (k : Nat) (x : Slot) : (s.setSlot k x).lsStamp = s.lsStamp := rfl
@[simp] theorem State.setSlot_acc (s : State) (k : Nat) (x : Slot) : (s.setSlot k x).acc = s.acc := rfl
@[simp] theorem State.setSlot_timer (s : State) (k : Nat) (x : Slot) : (s.setSlot k x).timer = s.timer := rfl
@[simp] theorem State.setSlot_poolsz (s : State) (k : Nat) (x : Slot) : (s.setSlot k x).poolsz = s.poolsz := rfl
@[simp] theorem State.setSlot_torus (s : State) (k : Nat) (x : Slot) : (s.setSlot k x).torus = s.torus := rfl
@[simp] theorem State.setSlot_pkgid (s : State) (k : Nat) (x : Slot) : (s.setSlot k x).pkgid = s.pkgid := rfl
@[simp] theorem State.setSlot_pkgBurnt (s : State) (k : Nat) (x : Slot) : (s.setSlot k x).pkgBurnt = s.pkgBurnt := rfl
@[simp] theorem State.setSlot_linkup (s : State) (k : Nat) (x : Slot) : (s.setSlot k x).linkup = s.linkup := rfl
@[simp] theorem State.setSlot_draining (s : State) (k : Nat) (x : Slot) : (s.setSlot k x).draining = s.draining := rfl
@[simp] theorem State.setSlot_credits (s : State) (k : Nat) (x : Slot) : (s.setSlot k x).credits = s.credits := rfl
@[simp] theorem State.setSlot_pause (s : State) (k : Nat) (x : Slot) : (s.setSlot k x).pause = s.pause := rfl
@[simp] theorem State.setSlot_pwr (s : State) (k : Nat) (x : Slot) : (s.setSlot k x).pwr = s.pwr := rfl

@[simp] theorem State.setSlot_freeze (s : State) (k : Nat) (x : Slot) : (s.setSlot k x).freeze = s.freeze := rfl
@[simp] theorem State.setSlot_boot (s : State) (k : Nat) (x : Slot) : (s.setSlot k x).boot = s.boot := rfl
@[simp] theorem State.setSlot_ckgen (s : State) (k : Nat) (x : Slot) : (s.setSlot k x).ckgen = s.ckgen := rfl
@[simp] theorem State.setSlot_ckrecv (s : State) (k : Nat) (x : Slot) : (s.setSlot k x).ckrecv = s.ckrecv := rfl
@[simp] theorem State.setSlot_tier (s : State) (k : Nat) (x : Slot) : (s.setSlot k x).tier = s.tier := rfl
@[simp] theorem State.setSlot_drain (s : State) (k : Nat) (x : Slot) : (s.setSlot k x).drain = s.drain := rfl
@[simp] theorem State.setSlot_side (s : State) (k : Nat) (x : Slot) : (s.setSlot k x).side = s.side := rfl
@[simp] theorem State.setSlot_heldFree (s : State) (k : Nat) (x : Slot) : (s.setSlot k x).heldFree = s.heldFree := rfl
@[simp] theorem State.setSlot_nodes (s : State) (k : Nat) (x : Slot) : (s.setSlot k x).nodes = s.nodes := rfl
@[simp] theorem State.setSlot_frames (s : State) (k : Nat) (x : Slot) : (s.setSlot k x).frames = s.frames := rfl
@[simp] theorem State.setSlot_copies (s : State) (k : Nat) (x : Slot) : (s.setSlot k x).copies = s.copies := rfl
@[simp] theorem State.setSlot_tlb (s : State) (k : Nat) (x : Slot) : (s.setSlot k x).tlb = s.tlb := rfl
@[simp] theorem State.setSlot_writes (s : State) (k : Nat) (x : Slot) : (s.setSlot k x).writes = s.writes := rfl
@[simp] theorem State.setSlot_orderN (s : State) (k : Nat) (x : Slot) : (s.setSlot k x).orderN = s.orderN := rfl
@[simp] theorem State.setSlot_faults (s : State) (k : Nat) (x : Slot) : (s.setSlot k x).faults = s.faults := rfl
@[simp] theorem State.setSlot_requests (s : State) (k : Nat) (x : Slot) : (s.setSlot k x).requests = s.requests := rfl
@[simp] theorem State.setSlot_inbox (s : State) (k : Nat) (x : Slot) : (s.setSlot k x).inbox = s.inbox := rfl
@[simp] theorem State.setSlot_egress (s : State) (k : Nat) (x : Slot) : (s.setSlot k x).egress = s.egress := rfl
@[simp] theorem State.setSlot_seqs (s : State) (k : Nat) (x : Slot) : (s.setSlot k x).seqs = s.seqs := rfl
@[simp] theorem State.setSlot_redHeld (s : State) (k : Nat) (x : Slot) : (s.setSlot k x).redHeld = s.redHeld := rfl
@[simp] theorem State.setSlot_redFly (s : State) (k : Nat) (x : Slot) : (s.setSlot k x).redFly = s.redFly := rfl
@[simp] theorem State.setSlot_tenants (s : State) (k : Nat) (x : Slot) : (s.setSlot k x).tenants = s.tenants := rfl
@[simp] theorem State.setSlot_qps (s : State) (k : Nat) (x : Slot) : (s.setSlot k x).qps = s.qps := rfl
@[simp] theorem State.setSlot_rkeys (s : State) (k : Nat) (x : Slot) : (s.setSlot k x).rkeys = s.rkeys := rfl
@[simp] theorem State.setSlot_lqs (s : State) (k : Nat) (x : Slot) : (s.setSlot k x).lqs = s.lqs := rfl
@[simp] theorem State.setSlot_launches (s : State) (k : Nat) (x : Slot) : (s.setSlot k x).launches = s.launches := rfl
@[simp] theorem State.setSlot_tasks (s : State) (k : Nat) (x : Slot) : (s.setSlot k x).tasks = s.tasks := rfl
@[simp] theorem State.setSlot_msgs (s : State) (k : Nat) (x : Slot) : (s.setSlot k x).msgs = s.msgs := rfl
@[simp] theorem State.setSlot_waiting (s : State) (k : Nat) (x : Slot) : (s.setSlot k x).waiting = s.waiting := rfl
@[simp] theorem State.setSlot_cmds (s : State) (k : Nat) (x : Slot) : (s.setSlot k x).cmds = s.cmds := rfl
@[simp] theorem State.setSlot_resv (s : State) (k : Nat) (x : Slot) : (s.setSlot k x).resv = s.resv := rfl
@[simp] theorem State.setSlot_resvLive (s : State) (k : Nat) (x : Slot) : (s.setSlot k x).resvLive = s.resvLive := rfl
@[simp] theorem State.setSlot_scbs (s : State) (k : Nat) (x : Slot) : (s.setSlot k x).scbs = s.scbs := rfl
@[simp] theorem State.setSlot_models (s : State) (k : Nat) (x : Slot) : (s.setSlot k x).models = s.models := rfl
@[simp] theorem State.setSlot_groups (s : State) (k : Nat) (x : Slot) : (s.setSlot k x).groups = s.groups := rfl
@[simp] theorem State.setSlot_moves (s : State) (k : Nat) (x : Slot) : (s.setSlot k x).moves = s.moves := rfl
@[simp] theorem State.setSlot_arrivals (s : State) (k : Nat) (x : Slot) : (s.setSlot k x).arrivals = s.arrivals := rfl
@[simp] theorem State.setSlot_castcfg (s : State) (k : Nat) (x : Slot) : (s.setSlot k x).castcfg = s.castcfg := rfl
@[simp] theorem State.setSlot_cast (s : State) (k : Nat) (x : Slot) : (s.setSlot k x).cast = s.cast := rfl
@[simp] theorem State.setSlot_watch (s : State) (k : Nat) (x : Slot) : (s.setSlot k x).watch = s.watch := rfl
@[simp] theorem State.setSlot_grams (s : State) (k : Nat) (x : Slot) : (s.setSlot k x).grams = s.grams := rfl
@[simp] theorem State.setSlot_arenas (s : State) (k : Nat) (x : Slot) : (s.setSlot k x).arenas = s.arenas := rfl
@[simp] theorem State.setSlot_kvFree (s : State) (k : Nat) (x : Slot) : (s.setSlot k x).kvFree = s.kvFree := rfl
@[simp] theorem State.setSlot_pages (s : State) (k : Nat) (x : Slot) : (s.setSlot k x).pages = s.pages := rfl
@[simp] theorem State.setSlot_fuseVer (s : State) (k : Nat) (x : Slot) : (s.setSlot k x).fuseVer = s.fuseVer := rfl
@[simp] theorem State.setSlot_fuseKey (s : State) (k : Nat) (x : Slot) : (s.setSlot k x).fuseKey = s.fuseKey := rfl
@[simp] theorem State.setSlot_images (s : State) (k : Nat) (x : Slot) : (s.setSlot k x).images = s.images := rfl
@[simp] theorem State.setSlot_crcFails (s : State) (k : Nat) (x : Slot) : (s.setSlot k x).crcFails = s.crcFails := rfl
@[simp] theorem State.setSlot_linkHeld (s : State) (k : Nat) (x : Slot) : (s.setSlot k x).linkHeld = s.linkHeld := rfl
@[simp] theorem State.setSlot_regions (s : State) (k : Nat) (x : Slot) : (s.setSlot k x).regions = s.regions := rfl

/-! ### State.setCore -/

@[simp] theorem State.setCore_agenda (s : State) (c : Nat) (x : Core) : (s.setCore c x).agenda = s.agenda := rfl
@[simp] theorem State.setCore_focus (s : State) (c : Nat) (x : Core) : (s.setCore c x).focus = s.focus := rfl
@[simp] theorem State.setCore_ev (s : State) (c : Nat) (x : Core) : (s.setCore c x).ev = s.ev := rfl
@[simp] theorem State.setCore_freeCtr (s : State) (c : Nat) (x : Core) : (s.setCore c x).freeCtr = s.freeCtr := rfl
@[simp] theorem State.setCore_nextN (s : State) (c : Nat) (x : Core) : (s.setCore c x).nextN = s.nextN := rfl
@[simp] theorem State.setCore_out (s : State) (c : Nat) (x : Core) : (s.setCore c x).out = s.out := rfl
@[simp] theorem State.setCore_slots (s : State) (c : Nat) (x : Core) : (s.setCore c x).slots = s.slots := rfl
@[simp] theorem State.setCore_clusters (s : State) (c : Nat) (x : Core) : (s.setCore c x).clusters = s.clusters := rfl
@[simp] theorem State.setCore_dies (s : State) (c : Nat) (x : Core) : (s.setCore c x).dies = s.dies := rfl
@[simp] theorem State.setCore_mem (s : State) (c : Nat) (x : Core) : (s.setCore c x).mem = s.mem := rfl
@[simp] theorem State.setCore_ls (s : State) (c : Nat) (x : Core) : (s.setCore c x).ls = s.ls := rfl
@[simp] theorem State.setCore_feEmpty (s : State) (c : Nat) (x : Core) : (s.setCore c x).feEmpty = s.feEmpty := rfl
@[simp] theorem State.setCore_lsStamp (s : State) (c : Nat) (x : Core) : (s.setCore c x).lsStamp = s.lsStamp := rfl
@[simp] theorem State.setCore_acc (s : State) (c : Nat) (x : Core) : (s.setCore c x).acc = s.acc := rfl
@[simp] theorem State.setCore_timer (s : State) (c : Nat) (x : Core) : (s.setCore c x).timer = s.timer := rfl
@[simp] theorem State.setCore_poolsz (s : State) (c : Nat) (x : Core) : (s.setCore c x).poolsz = s.poolsz := rfl
@[simp] theorem State.setCore_torus (s : State) (c : Nat) (x : Core) : (s.setCore c x).torus = s.torus := rfl
@[simp] theorem State.setCore_pkgid (s : State) (c : Nat) (x : Core) : (s.setCore c x).pkgid = s.pkgid := rfl
@[simp] theorem State.setCore_pkgBurnt (s : State) (c : Nat) (x : Core) : (s.setCore c x).pkgBurnt = s.pkgBurnt := rfl
@[simp] theorem State.setCore_linkup (s : State) (c : Nat) (x : Core) : (s.setCore c x).linkup = s.linkup := rfl
@[simp] theorem State.setCore_draining (s : State) (c : Nat) (x : Core) : (s.setCore c x).draining = s.draining := rfl
@[simp] theorem State.setCore_credits (s : State) (c : Nat) (x : Core) : (s.setCore c x).credits = s.credits := rfl
@[simp] theorem State.setCore_pause (s : State) (c : Nat) (x : Core) : (s.setCore c x).pause = s.pause := rfl
@[simp] theorem State.setCore_pwr (s : State) (c : Nat) (x : Core) : (s.setCore c x).pwr = s.pwr := rfl

@[simp] theorem State.setCore_freeze (s : State) (c : Nat) (x : Core) : (s.setCore c x).freeze = s.freeze := rfl
@[simp] theorem State.setCore_boot (s : State) (c : Nat) (x : Core) : (s.setCore c x).boot = s.boot := rfl
@[simp] theorem State.setCore_ckgen (s : State) (c : Nat) (x : Core) : (s.setCore c x).ckgen = s.ckgen := rfl
@[simp] theorem State.setCore_ckrecv (s : State) (c : Nat) (x : Core) : (s.setCore c x).ckrecv = s.ckrecv := rfl
@[simp] theorem State.setCore_tier (s : State) (c : Nat) (x : Core) : (s.setCore c x).tier = s.tier := rfl
@[simp] theorem State.setCore_drain (s : State) (c : Nat) (x : Core) : (s.setCore c x).drain = s.drain := rfl
@[simp] theorem State.setCore_side (s : State) (c : Nat) (x : Core) : (s.setCore c x).side = s.side := rfl
@[simp] theorem State.setCore_heldFree (s : State) (c : Nat) (x : Core) : (s.setCore c x).heldFree = s.heldFree := rfl
@[simp] theorem State.setCore_nodes (s : State) (c : Nat) (x : Core) : (s.setCore c x).nodes = s.nodes := rfl
@[simp] theorem State.setCore_frames (s : State) (c : Nat) (x : Core) : (s.setCore c x).frames = s.frames := rfl
@[simp] theorem State.setCore_copies (s : State) (c : Nat) (x : Core) : (s.setCore c x).copies = s.copies := rfl
@[simp] theorem State.setCore_tlb (s : State) (c : Nat) (x : Core) : (s.setCore c x).tlb = s.tlb := rfl
@[simp] theorem State.setCore_writes (s : State) (c : Nat) (x : Core) : (s.setCore c x).writes = s.writes := rfl
@[simp] theorem State.setCore_orderN (s : State) (c : Nat) (x : Core) : (s.setCore c x).orderN = s.orderN := rfl
@[simp] theorem State.setCore_faults (s : State) (c : Nat) (x : Core) : (s.setCore c x).faults = s.faults := rfl
@[simp] theorem State.setCore_requests (s : State) (c : Nat) (x : Core) : (s.setCore c x).requests = s.requests := rfl
@[simp] theorem State.setCore_inbox (s : State) (c : Nat) (x : Core) : (s.setCore c x).inbox = s.inbox := rfl
@[simp] theorem State.setCore_egress (s : State) (c : Nat) (x : Core) : (s.setCore c x).egress = s.egress := rfl
@[simp] theorem State.setCore_seqs (s : State) (c : Nat) (x : Core) : (s.setCore c x).seqs = s.seqs := rfl
@[simp] theorem State.setCore_redHeld (s : State) (c : Nat) (x : Core) : (s.setCore c x).redHeld = s.redHeld := rfl
@[simp] theorem State.setCore_redFly (s : State) (c : Nat) (x : Core) : (s.setCore c x).redFly = s.redFly := rfl
@[simp] theorem State.setCore_tenants (s : State) (c : Nat) (x : Core) : (s.setCore c x).tenants = s.tenants := rfl
@[simp] theorem State.setCore_qps (s : State) (c : Nat) (x : Core) : (s.setCore c x).qps = s.qps := rfl
@[simp] theorem State.setCore_rkeys (s : State) (c : Nat) (x : Core) : (s.setCore c x).rkeys = s.rkeys := rfl
@[simp] theorem State.setCore_lqs (s : State) (c : Nat) (x : Core) : (s.setCore c x).lqs = s.lqs := rfl
@[simp] theorem State.setCore_launches (s : State) (c : Nat) (x : Core) : (s.setCore c x).launches = s.launches := rfl
@[simp] theorem State.setCore_tasks (s : State) (c : Nat) (x : Core) : (s.setCore c x).tasks = s.tasks := rfl
@[simp] theorem State.setCore_msgs (s : State) (c : Nat) (x : Core) : (s.setCore c x).msgs = s.msgs := rfl
@[simp] theorem State.setCore_waiting (s : State) (c : Nat) (x : Core) : (s.setCore c x).waiting = s.waiting := rfl
@[simp] theorem State.setCore_cmds (s : State) (c : Nat) (x : Core) : (s.setCore c x).cmds = s.cmds := rfl
@[simp] theorem State.setCore_resv (s : State) (c : Nat) (x : Core) : (s.setCore c x).resv = s.resv := rfl
@[simp] theorem State.setCore_resvLive (s : State) (c : Nat) (x : Core) : (s.setCore c x).resvLive = s.resvLive := rfl
@[simp] theorem State.setCore_scbs (s : State) (c : Nat) (x : Core) : (s.setCore c x).scbs = s.scbs := rfl
@[simp] theorem State.setCore_models (s : State) (c : Nat) (x : Core) : (s.setCore c x).models = s.models := rfl
@[simp] theorem State.setCore_groups (s : State) (c : Nat) (x : Core) : (s.setCore c x).groups = s.groups := rfl
@[simp] theorem State.setCore_moves (s : State) (c : Nat) (x : Core) : (s.setCore c x).moves = s.moves := rfl
@[simp] theorem State.setCore_arrivals (s : State) (c : Nat) (x : Core) : (s.setCore c x).arrivals = s.arrivals := rfl
@[simp] theorem State.setCore_castcfg (s : State) (c : Nat) (x : Core) : (s.setCore c x).castcfg = s.castcfg := rfl
@[simp] theorem State.setCore_cast (s : State) (c : Nat) (x : Core) : (s.setCore c x).cast = s.cast := rfl
@[simp] theorem State.setCore_watch (s : State) (c : Nat) (x : Core) : (s.setCore c x).watch = s.watch := rfl
@[simp] theorem State.setCore_grams (s : State) (c : Nat) (x : Core) : (s.setCore c x).grams = s.grams := rfl
@[simp] theorem State.setCore_arenas (s : State) (c : Nat) (x : Core) : (s.setCore c x).arenas = s.arenas := rfl
@[simp] theorem State.setCore_kvFree (s : State) (c : Nat) (x : Core) : (s.setCore c x).kvFree = s.kvFree := rfl
@[simp] theorem State.setCore_pages (s : State) (c : Nat) (x : Core) : (s.setCore c x).pages = s.pages := rfl
@[simp] theorem State.setCore_fuseVer (s : State) (c : Nat) (x : Core) : (s.setCore c x).fuseVer = s.fuseVer := rfl
@[simp] theorem State.setCore_fuseKey (s : State) (c : Nat) (x : Core) : (s.setCore c x).fuseKey = s.fuseKey := rfl
@[simp] theorem State.setCore_images (s : State) (c : Nat) (x : Core) : (s.setCore c x).images = s.images := rfl
@[simp] theorem State.setCore_crcFails (s : State) (c : Nat) (x : Core) : (s.setCore c x).crcFails = s.crcFails := rfl
@[simp] theorem State.setCore_linkHeld (s : State) (c : Nat) (x : Core) : (s.setCore c x).linkHeld = s.linkHeld := rfl
@[simp] theorem State.setCore_regions (s : State) (c : Nat) (x : Core) : (s.setCore c x).regions = s.regions := rfl

/-! ### State.setCluster -/

@[simp] theorem State.setCluster_agenda (s : State) (c : Nat) (x : Cluster) : (s.setCluster c x).agenda = s.agenda := rfl
@[simp] theorem State.setCluster_focus (s : State) (c : Nat) (x : Cluster) : (s.setCluster c x).focus = s.focus := rfl
@[simp] theorem State.setCluster_ev (s : State) (c : Nat) (x : Cluster) : (s.setCluster c x).ev = s.ev := rfl
@[simp] theorem State.setCluster_freeCtr (s : State) (c : Nat) (x : Cluster) : (s.setCluster c x).freeCtr = s.freeCtr := rfl
@[simp] theorem State.setCluster_nextN (s : State) (c : Nat) (x : Cluster) : (s.setCluster c x).nextN = s.nextN := rfl
@[simp] theorem State.setCluster_out (s : State) (c : Nat) (x : Cluster) : (s.setCluster c x).out = s.out := rfl
@[simp] theorem State.setCluster_slots (s : State) (c : Nat) (x : Cluster) : (s.setCluster c x).slots = s.slots := rfl
@[simp] theorem State.setCluster_cores (s : State) (c : Nat) (x : Cluster) : (s.setCluster c x).cores = s.cores := rfl
@[simp] theorem State.setCluster_dies (s : State) (c : Nat) (x : Cluster) : (s.setCluster c x).dies = s.dies := rfl
@[simp] theorem State.setCluster_mem (s : State) (c : Nat) (x : Cluster) : (s.setCluster c x).mem = s.mem := rfl
@[simp] theorem State.setCluster_ls (s : State) (c : Nat) (x : Cluster) : (s.setCluster c x).ls = s.ls := rfl
@[simp] theorem State.setCluster_feEmpty (s : State) (c : Nat) (x : Cluster) : (s.setCluster c x).feEmpty = s.feEmpty := rfl
@[simp] theorem State.setCluster_lsStamp (s : State) (c : Nat) (x : Cluster) : (s.setCluster c x).lsStamp = s.lsStamp := rfl
@[simp] theorem State.setCluster_acc (s : State) (c : Nat) (x : Cluster) : (s.setCluster c x).acc = s.acc := rfl
@[simp] theorem State.setCluster_timer (s : State) (c : Nat) (x : Cluster) : (s.setCluster c x).timer = s.timer := rfl
@[simp] theorem State.setCluster_poolsz (s : State) (c : Nat) (x : Cluster) : (s.setCluster c x).poolsz = s.poolsz := rfl
@[simp] theorem State.setCluster_torus (s : State) (c : Nat) (x : Cluster) : (s.setCluster c x).torus = s.torus := rfl
@[simp] theorem State.setCluster_pkgid (s : State) (c : Nat) (x : Cluster) : (s.setCluster c x).pkgid = s.pkgid := rfl
@[simp] theorem State.setCluster_pkgBurnt (s : State) (c : Nat) (x : Cluster) : (s.setCluster c x).pkgBurnt = s.pkgBurnt := rfl
@[simp] theorem State.setCluster_linkup (s : State) (c : Nat) (x : Cluster) : (s.setCluster c x).linkup = s.linkup := rfl
@[simp] theorem State.setCluster_draining (s : State) (c : Nat) (x : Cluster) : (s.setCluster c x).draining = s.draining := rfl
@[simp] theorem State.setCluster_credits (s : State) (c : Nat) (x : Cluster) : (s.setCluster c x).credits = s.credits := rfl
@[simp] theorem State.setCluster_pause (s : State) (c : Nat) (x : Cluster) : (s.setCluster c x).pause = s.pause := rfl
@[simp] theorem State.setCluster_pwr (s : State) (c : Nat) (x : Cluster) : (s.setCluster c x).pwr = s.pwr := rfl

@[simp] theorem State.setCluster_freeze (s : State) (c : Nat) (x : Cluster) : (s.setCluster c x).freeze = s.freeze := rfl
@[simp] theorem State.setCluster_boot (s : State) (c : Nat) (x : Cluster) : (s.setCluster c x).boot = s.boot := rfl
@[simp] theorem State.setCluster_ckgen (s : State) (c : Nat) (x : Cluster) : (s.setCluster c x).ckgen = s.ckgen := rfl
@[simp] theorem State.setCluster_ckrecv (s : State) (c : Nat) (x : Cluster) : (s.setCluster c x).ckrecv = s.ckrecv := rfl
@[simp] theorem State.setCluster_tier (s : State) (c : Nat) (x : Cluster) : (s.setCluster c x).tier = s.tier := rfl
@[simp] theorem State.setCluster_drain (s : State) (c : Nat) (x : Cluster) : (s.setCluster c x).drain = s.drain := rfl
@[simp] theorem State.setCluster_side (s : State) (c : Nat) (x : Cluster) : (s.setCluster c x).side = s.side := rfl
@[simp] theorem State.setCluster_heldFree (s : State) (c : Nat) (x : Cluster) : (s.setCluster c x).heldFree = s.heldFree := rfl
@[simp] theorem State.setCluster_nodes (s : State) (c : Nat) (x : Cluster) : (s.setCluster c x).nodes = s.nodes := rfl
@[simp] theorem State.setCluster_frames (s : State) (c : Nat) (x : Cluster) : (s.setCluster c x).frames = s.frames := rfl
@[simp] theorem State.setCluster_copies (s : State) (c : Nat) (x : Cluster) : (s.setCluster c x).copies = s.copies := rfl
@[simp] theorem State.setCluster_tlb (s : State) (c : Nat) (x : Cluster) : (s.setCluster c x).tlb = s.tlb := rfl
@[simp] theorem State.setCluster_writes (s : State) (c : Nat) (x : Cluster) : (s.setCluster c x).writes = s.writes := rfl
@[simp] theorem State.setCluster_orderN (s : State) (c : Nat) (x : Cluster) : (s.setCluster c x).orderN = s.orderN := rfl
@[simp] theorem State.setCluster_faults (s : State) (c : Nat) (x : Cluster) : (s.setCluster c x).faults = s.faults := rfl
@[simp] theorem State.setCluster_requests (s : State) (c : Nat) (x : Cluster) : (s.setCluster c x).requests = s.requests := rfl
@[simp] theorem State.setCluster_inbox (s : State) (c : Nat) (x : Cluster) : (s.setCluster c x).inbox = s.inbox := rfl
@[simp] theorem State.setCluster_egress (s : State) (c : Nat) (x : Cluster) : (s.setCluster c x).egress = s.egress := rfl
@[simp] theorem State.setCluster_seqs (s : State) (c : Nat) (x : Cluster) : (s.setCluster c x).seqs = s.seqs := rfl
@[simp] theorem State.setCluster_redHeld (s : State) (c : Nat) (x : Cluster) : (s.setCluster c x).redHeld = s.redHeld := rfl
@[simp] theorem State.setCluster_redFly (s : State) (c : Nat) (x : Cluster) : (s.setCluster c x).redFly = s.redFly := rfl
@[simp] theorem State.setCluster_tenants (s : State) (c : Nat) (x : Cluster) : (s.setCluster c x).tenants = s.tenants := rfl
@[simp] theorem State.setCluster_qps (s : State) (c : Nat) (x : Cluster) : (s.setCluster c x).qps = s.qps := rfl
@[simp] theorem State.setCluster_rkeys (s : State) (c : Nat) (x : Cluster) : (s.setCluster c x).rkeys = s.rkeys := rfl
@[simp] theorem State.setCluster_lqs (s : State) (c : Nat) (x : Cluster) : (s.setCluster c x).lqs = s.lqs := rfl
@[simp] theorem State.setCluster_launches (s : State) (c : Nat) (x : Cluster) : (s.setCluster c x).launches = s.launches := rfl
@[simp] theorem State.setCluster_tasks (s : State) (c : Nat) (x : Cluster) : (s.setCluster c x).tasks = s.tasks := rfl
@[simp] theorem State.setCluster_msgs (s : State) (c : Nat) (x : Cluster) : (s.setCluster c x).msgs = s.msgs := rfl
@[simp] theorem State.setCluster_waiting (s : State) (c : Nat) (x : Cluster) : (s.setCluster c x).waiting = s.waiting := rfl
@[simp] theorem State.setCluster_cmds (s : State) (c : Nat) (x : Cluster) : (s.setCluster c x).cmds = s.cmds := rfl
@[simp] theorem State.setCluster_resv (s : State) (c : Nat) (x : Cluster) : (s.setCluster c x).resv = s.resv := rfl
@[simp] theorem State.setCluster_resvLive (s : State) (c : Nat) (x : Cluster) : (s.setCluster c x).resvLive = s.resvLive := rfl
@[simp] theorem State.setCluster_scbs (s : State) (c : Nat) (x : Cluster) : (s.setCluster c x).scbs = s.scbs := rfl
@[simp] theorem State.setCluster_models (s : State) (c : Nat) (x : Cluster) : (s.setCluster c x).models = s.models := rfl
@[simp] theorem State.setCluster_groups (s : State) (c : Nat) (x : Cluster) : (s.setCluster c x).groups = s.groups := rfl
@[simp] theorem State.setCluster_moves (s : State) (c : Nat) (x : Cluster) : (s.setCluster c x).moves = s.moves := rfl
@[simp] theorem State.setCluster_arrivals (s : State) (c : Nat) (x : Cluster) : (s.setCluster c x).arrivals = s.arrivals := rfl
@[simp] theorem State.setCluster_castcfg (s : State) (c : Nat) (x : Cluster) : (s.setCluster c x).castcfg = s.castcfg := rfl
@[simp] theorem State.setCluster_cast (s : State) (c : Nat) (x : Cluster) : (s.setCluster c x).cast = s.cast := rfl
@[simp] theorem State.setCluster_watch (s : State) (c : Nat) (x : Cluster) : (s.setCluster c x).watch = s.watch := rfl
@[simp] theorem State.setCluster_grams (s : State) (c : Nat) (x : Cluster) : (s.setCluster c x).grams = s.grams := rfl
@[simp] theorem State.setCluster_arenas (s : State) (c : Nat) (x : Cluster) : (s.setCluster c x).arenas = s.arenas := rfl
@[simp] theorem State.setCluster_kvFree (s : State) (c : Nat) (x : Cluster) : (s.setCluster c x).kvFree = s.kvFree := rfl
@[simp] theorem State.setCluster_pages (s : State) (c : Nat) (x : Cluster) : (s.setCluster c x).pages = s.pages := rfl
@[simp] theorem State.setCluster_fuseVer (s : State) (c : Nat) (x : Cluster) : (s.setCluster c x).fuseVer = s.fuseVer := rfl
@[simp] theorem State.setCluster_fuseKey (s : State) (c : Nat) (x : Cluster) : (s.setCluster c x).fuseKey = s.fuseKey := rfl
@[simp] theorem State.setCluster_images (s : State) (c : Nat) (x : Cluster) : (s.setCluster c x).images = s.images := rfl
@[simp] theorem State.setCluster_crcFails (s : State) (c : Nat) (x : Cluster) : (s.setCluster c x).crcFails = s.crcFails := rfl
@[simp] theorem State.setCluster_linkHeld (s : State) (c : Nat) (x : Cluster) : (s.setCluster c x).linkHeld = s.linkHeld := rfl
@[simp] theorem State.setCluster_regions (s : State) (c : Nat) (x : Cluster) : (s.setCluster c x).regions = s.regions := rfl

/-! ### State.setDie -/

@[simp] theorem State.setDie_agenda (s : State) (d : Nat) (x : Die) : (s.setDie d x).agenda = s.agenda := rfl
@[simp] theorem State.setDie_focus (s : State) (d : Nat) (x : Die) : (s.setDie d x).focus = s.focus := rfl
@[simp] theorem State.setDie_ev (s : State) (d : Nat) (x : Die) : (s.setDie d x).ev = s.ev := rfl
@[simp] theorem State.setDie_freeCtr (s : State) (d : Nat) (x : Die) : (s.setDie d x).freeCtr = s.freeCtr := rfl
@[simp] theorem State.setDie_nextN (s : State) (d : Nat) (x : Die) : (s.setDie d x).nextN = s.nextN := rfl
@[simp] theorem State.setDie_out (s : State) (d : Nat) (x : Die) : (s.setDie d x).out = s.out := rfl
@[simp] theorem State.setDie_slots (s : State) (d : Nat) (x : Die) : (s.setDie d x).slots = s.slots := rfl
@[simp] theorem State.setDie_cores (s : State) (d : Nat) (x : Die) : (s.setDie d x).cores = s.cores := rfl
@[simp] theorem State.setDie_clusters (s : State) (d : Nat) (x : Die) : (s.setDie d x).clusters = s.clusters := rfl
@[simp] theorem State.setDie_mem (s : State) (d : Nat) (x : Die) : (s.setDie d x).mem = s.mem := rfl
@[simp] theorem State.setDie_ls (s : State) (d : Nat) (x : Die) : (s.setDie d x).ls = s.ls := rfl
@[simp] theorem State.setDie_feEmpty (s : State) (d : Nat) (x : Die) : (s.setDie d x).feEmpty = s.feEmpty := rfl
@[simp] theorem State.setDie_lsStamp (s : State) (d : Nat) (x : Die) : (s.setDie d x).lsStamp = s.lsStamp := rfl
@[simp] theorem State.setDie_acc (s : State) (d : Nat) (x : Die) : (s.setDie d x).acc = s.acc := rfl
@[simp] theorem State.setDie_timer (s : State) (d : Nat) (x : Die) : (s.setDie d x).timer = s.timer := rfl
@[simp] theorem State.setDie_poolsz (s : State) (d : Nat) (x : Die) : (s.setDie d x).poolsz = s.poolsz := rfl
@[simp] theorem State.setDie_torus (s : State) (d : Nat) (x : Die) : (s.setDie d x).torus = s.torus := rfl
@[simp] theorem State.setDie_pkgid (s : State) (d : Nat) (x : Die) : (s.setDie d x).pkgid = s.pkgid := rfl
@[simp] theorem State.setDie_pkgBurnt (s : State) (d : Nat) (x : Die) : (s.setDie d x).pkgBurnt = s.pkgBurnt := rfl
@[simp] theorem State.setDie_linkup (s : State) (d : Nat) (x : Die) : (s.setDie d x).linkup = s.linkup := rfl
@[simp] theorem State.setDie_draining (s : State) (d : Nat) (x : Die) : (s.setDie d x).draining = s.draining := rfl
@[simp] theorem State.setDie_credits (s : State) (d : Nat) (x : Die) : (s.setDie d x).credits = s.credits := rfl
@[simp] theorem State.setDie_pause (s : State) (d : Nat) (x : Die) : (s.setDie d x).pause = s.pause := rfl
@[simp] theorem State.setDie_pwr (s : State) (d : Nat) (x : Die) : (s.setDie d x).pwr = s.pwr := rfl

@[simp] theorem State.setDie_freeze (s : State) (d : Nat) (x : Die) : (s.setDie d x).freeze = s.freeze := rfl
@[simp] theorem State.setDie_boot (s : State) (d : Nat) (x : Die) : (s.setDie d x).boot = s.boot := rfl
@[simp] theorem State.setDie_ckgen (s : State) (d : Nat) (x : Die) : (s.setDie d x).ckgen = s.ckgen := rfl
@[simp] theorem State.setDie_ckrecv (s : State) (d : Nat) (x : Die) : (s.setDie d x).ckrecv = s.ckrecv := rfl
@[simp] theorem State.setDie_tier (s : State) (d : Nat) (x : Die) : (s.setDie d x).tier = s.tier := rfl
@[simp] theorem State.setDie_drain (s : State) (d : Nat) (x : Die) : (s.setDie d x).drain = s.drain := rfl
@[simp] theorem State.setDie_side (s : State) (d : Nat) (x : Die) : (s.setDie d x).side = s.side := rfl
@[simp] theorem State.setDie_heldFree (s : State) (d : Nat) (x : Die) : (s.setDie d x).heldFree = s.heldFree := rfl
@[simp] theorem State.setDie_nodes (s : State) (d : Nat) (x : Die) : (s.setDie d x).nodes = s.nodes := rfl
@[simp] theorem State.setDie_frames (s : State) (d : Nat) (x : Die) : (s.setDie d x).frames = s.frames := rfl
@[simp] theorem State.setDie_copies (s : State) (d : Nat) (x : Die) : (s.setDie d x).copies = s.copies := rfl
@[simp] theorem State.setDie_tlb (s : State) (d : Nat) (x : Die) : (s.setDie d x).tlb = s.tlb := rfl
@[simp] theorem State.setDie_writes (s : State) (d : Nat) (x : Die) : (s.setDie d x).writes = s.writes := rfl
@[simp] theorem State.setDie_orderN (s : State) (d : Nat) (x : Die) : (s.setDie d x).orderN = s.orderN := rfl
@[simp] theorem State.setDie_faults (s : State) (d : Nat) (x : Die) : (s.setDie d x).faults = s.faults := rfl
@[simp] theorem State.setDie_requests (s : State) (d : Nat) (x : Die) : (s.setDie d x).requests = s.requests := rfl
@[simp] theorem State.setDie_inbox (s : State) (d : Nat) (x : Die) : (s.setDie d x).inbox = s.inbox := rfl
@[simp] theorem State.setDie_egress (s : State) (d : Nat) (x : Die) : (s.setDie d x).egress = s.egress := rfl
@[simp] theorem State.setDie_seqs (s : State) (d : Nat) (x : Die) : (s.setDie d x).seqs = s.seqs := rfl
@[simp] theorem State.setDie_redHeld (s : State) (d : Nat) (x : Die) : (s.setDie d x).redHeld = s.redHeld := rfl
@[simp] theorem State.setDie_redFly (s : State) (d : Nat) (x : Die) : (s.setDie d x).redFly = s.redFly := rfl
@[simp] theorem State.setDie_tenants (s : State) (d : Nat) (x : Die) : (s.setDie d x).tenants = s.tenants := rfl
@[simp] theorem State.setDie_qps (s : State) (d : Nat) (x : Die) : (s.setDie d x).qps = s.qps := rfl
@[simp] theorem State.setDie_rkeys (s : State) (d : Nat) (x : Die) : (s.setDie d x).rkeys = s.rkeys := rfl
@[simp] theorem State.setDie_lqs (s : State) (d : Nat) (x : Die) : (s.setDie d x).lqs = s.lqs := rfl
@[simp] theorem State.setDie_launches (s : State) (d : Nat) (x : Die) : (s.setDie d x).launches = s.launches := rfl
@[simp] theorem State.setDie_tasks (s : State) (d : Nat) (x : Die) : (s.setDie d x).tasks = s.tasks := rfl
@[simp] theorem State.setDie_msgs (s : State) (d : Nat) (x : Die) : (s.setDie d x).msgs = s.msgs := rfl
@[simp] theorem State.setDie_waiting (s : State) (d : Nat) (x : Die) : (s.setDie d x).waiting = s.waiting := rfl
@[simp] theorem State.setDie_cmds (s : State) (d : Nat) (x : Die) : (s.setDie d x).cmds = s.cmds := rfl
@[simp] theorem State.setDie_resv (s : State) (d : Nat) (x : Die) : (s.setDie d x).resv = s.resv := rfl
@[simp] theorem State.setDie_resvLive (s : State) (d : Nat) (x : Die) : (s.setDie d x).resvLive = s.resvLive := rfl
@[simp] theorem State.setDie_scbs (s : State) (d : Nat) (x : Die) : (s.setDie d x).scbs = s.scbs := rfl
@[simp] theorem State.setDie_models (s : State) (d : Nat) (x : Die) : (s.setDie d x).models = s.models := rfl
@[simp] theorem State.setDie_groups (s : State) (d : Nat) (x : Die) : (s.setDie d x).groups = s.groups := rfl
@[simp] theorem State.setDie_moves (s : State) (d : Nat) (x : Die) : (s.setDie d x).moves = s.moves := rfl
@[simp] theorem State.setDie_arrivals (s : State) (d : Nat) (x : Die) : (s.setDie d x).arrivals = s.arrivals := rfl
@[simp] theorem State.setDie_castcfg (s : State) (d : Nat) (x : Die) : (s.setDie d x).castcfg = s.castcfg := rfl
@[simp] theorem State.setDie_cast (s : State) (d : Nat) (x : Die) : (s.setDie d x).cast = s.cast := rfl
@[simp] theorem State.setDie_watch (s : State) (d : Nat) (x : Die) : (s.setDie d x).watch = s.watch := rfl
@[simp] theorem State.setDie_grams (s : State) (d : Nat) (x : Die) : (s.setDie d x).grams = s.grams := rfl
@[simp] theorem State.setDie_arenas (s : State) (d : Nat) (x : Die) : (s.setDie d x).arenas = s.arenas := rfl
@[simp] theorem State.setDie_kvFree (s : State) (d : Nat) (x : Die) : (s.setDie d x).kvFree = s.kvFree := rfl
@[simp] theorem State.setDie_pages (s : State) (d : Nat) (x : Die) : (s.setDie d x).pages = s.pages := rfl
@[simp] theorem State.setDie_fuseVer (s : State) (d : Nat) (x : Die) : (s.setDie d x).fuseVer = s.fuseVer := rfl
@[simp] theorem State.setDie_fuseKey (s : State) (d : Nat) (x : Die) : (s.setDie d x).fuseKey = s.fuseKey := rfl
@[simp] theorem State.setDie_images (s : State) (d : Nat) (x : Die) : (s.setDie d x).images = s.images := rfl
@[simp] theorem State.setDie_crcFails (s : State) (d : Nat) (x : Die) : (s.setDie d x).crcFails = s.crcFails := rfl
@[simp] theorem State.setDie_linkHeld (s : State) (d : Nat) (x : Die) : (s.setDie d x).linkHeld = s.linkHeld := rfl
@[simp] theorem State.setDie_regions (s : State) (d : Nat) (x : Die) : (s.setDie d x).regions = s.regions := rfl

/-! ### State.pokeView -/

@[simp] theorem State.pokeView_agenda (s : State) (d pa : Nat) (bs : List Byte) : (s.pokeView d pa bs).agenda = s.agenda := rfl
@[simp] theorem State.pokeView_focus (s : State) (d pa : Nat) (bs : List Byte) : (s.pokeView d pa bs).focus = s.focus := rfl
@[simp] theorem State.pokeView_ev (s : State) (d pa : Nat) (bs : List Byte) : (s.pokeView d pa bs).ev = s.ev := rfl
@[simp] theorem State.pokeView_freeCtr (s : State) (d pa : Nat) (bs : List Byte) : (s.pokeView d pa bs).freeCtr = s.freeCtr := rfl
@[simp] theorem State.pokeView_nextN (s : State) (d pa : Nat) (bs : List Byte) : (s.pokeView d pa bs).nextN = s.nextN := rfl
@[simp] theorem State.pokeView_out (s : State) (d pa : Nat) (bs : List Byte) : (s.pokeView d pa bs).out = s.out := rfl
@[simp] theorem State.pokeView_slots (s : State) (d pa : Nat) (bs : List Byte) : (s.pokeView d pa bs).slots = s.slots := rfl
@[simp] theorem State.pokeView_cores (s : State) (d pa : Nat) (bs : List Byte) : (s.pokeView d pa bs).cores = s.cores := rfl
@[simp] theorem State.pokeView_clusters (s : State) (d pa : Nat) (bs : List Byte) : (s.pokeView d pa bs).clusters = s.clusters := rfl
@[simp] theorem State.pokeView_dies (s : State) (d pa : Nat) (bs : List Byte) : (s.pokeView d pa bs).dies = s.dies := rfl
@[simp] theorem State.pokeView_ls (s : State) (d pa : Nat) (bs : List Byte) : (s.pokeView d pa bs).ls = s.ls := rfl
@[simp] theorem State.pokeView_feEmpty (s : State) (d pa : Nat) (bs : List Byte) : (s.pokeView d pa bs).feEmpty = s.feEmpty := rfl
@[simp] theorem State.pokeView_lsStamp (s : State) (d pa : Nat) (bs : List Byte) : (s.pokeView d pa bs).lsStamp = s.lsStamp := rfl
@[simp] theorem State.pokeView_acc (s : State) (d pa : Nat) (bs : List Byte) : (s.pokeView d pa bs).acc = s.acc := rfl
@[simp] theorem State.pokeView_timer (s : State) (d pa : Nat) (bs : List Byte) : (s.pokeView d pa bs).timer = s.timer := rfl
@[simp] theorem State.pokeView_poolsz (s : State) (d pa : Nat) (bs : List Byte) : (s.pokeView d pa bs).poolsz = s.poolsz := rfl
@[simp] theorem State.pokeView_torus (s : State) (d pa : Nat) (bs : List Byte) : (s.pokeView d pa bs).torus = s.torus := rfl
@[simp] theorem State.pokeView_pkgid (s : State) (d pa : Nat) (bs : List Byte) : (s.pokeView d pa bs).pkgid = s.pkgid := rfl
@[simp] theorem State.pokeView_pkgBurnt (s : State) (d pa : Nat) (bs : List Byte) : (s.pokeView d pa bs).pkgBurnt = s.pkgBurnt := rfl
@[simp] theorem State.pokeView_linkup (s : State) (d pa : Nat) (bs : List Byte) : (s.pokeView d pa bs).linkup = s.linkup := rfl
@[simp] theorem State.pokeView_draining (s : State) (d pa : Nat) (bs : List Byte) : (s.pokeView d pa bs).draining = s.draining := rfl
@[simp] theorem State.pokeView_credits (s : State) (d pa : Nat) (bs : List Byte) : (s.pokeView d pa bs).credits = s.credits := rfl
@[simp] theorem State.pokeView_pause (s : State) (d pa : Nat) (bs : List Byte) : (s.pokeView d pa bs).pause = s.pause := rfl
@[simp] theorem State.pokeView_pwr (s : State) (d pa : Nat) (bs : List Byte) : (s.pokeView d pa bs).pwr = s.pwr := rfl

@[simp] theorem State.pokeView_freeze (s : State) (d pa : Nat) (bs : List Byte) : (s.pokeView d pa bs).freeze = s.freeze := rfl
@[simp] theorem State.pokeView_boot (s : State) (d pa : Nat) (bs : List Byte) : (s.pokeView d pa bs).boot = s.boot := rfl
@[simp] theorem State.pokeView_ckgen (s : State) (d pa : Nat) (bs : List Byte) : (s.pokeView d pa bs).ckgen = s.ckgen := rfl
@[simp] theorem State.pokeView_ckrecv (s : State) (d pa : Nat) (bs : List Byte) : (s.pokeView d pa bs).ckrecv = s.ckrecv := rfl
@[simp] theorem State.pokeView_tier (s : State) (d pa : Nat) (bs : List Byte) : (s.pokeView d pa bs).tier = s.tier := rfl
@[simp] theorem State.pokeView_drain (s : State) (d pa : Nat) (bs : List Byte) : (s.pokeView d pa bs).drain = s.drain := rfl
@[simp] theorem State.pokeView_side (s : State) (d pa : Nat) (bs : List Byte) : (s.pokeView d pa bs).side = s.side := rfl
@[simp] theorem State.pokeView_heldFree (s : State) (d pa : Nat) (bs : List Byte) : (s.pokeView d pa bs).heldFree = s.heldFree := rfl
@[simp] theorem State.pokeView_nodes (s : State) (d pa : Nat) (bs : List Byte) : (s.pokeView d pa bs).nodes = s.nodes := rfl
@[simp] theorem State.pokeView_frames (s : State) (d pa : Nat) (bs : List Byte) : (s.pokeView d pa bs).frames = s.frames := rfl
@[simp] theorem State.pokeView_copies (s : State) (d pa : Nat) (bs : List Byte) : (s.pokeView d pa bs).copies = s.copies := rfl
@[simp] theorem State.pokeView_tlb (s : State) (d pa : Nat) (bs : List Byte) : (s.pokeView d pa bs).tlb = s.tlb := rfl
@[simp] theorem State.pokeView_writes (s : State) (d pa : Nat) (bs : List Byte) : (s.pokeView d pa bs).writes = s.writes := rfl
@[simp] theorem State.pokeView_orderN (s : State) (d pa : Nat) (bs : List Byte) : (s.pokeView d pa bs).orderN = s.orderN := rfl
@[simp] theorem State.pokeView_faults (s : State) (d pa : Nat) (bs : List Byte) : (s.pokeView d pa bs).faults = s.faults := rfl
@[simp] theorem State.pokeView_requests (s : State) (d pa : Nat) (bs : List Byte) : (s.pokeView d pa bs).requests = s.requests := rfl
@[simp] theorem State.pokeView_inbox (s : State) (d pa : Nat) (bs : List Byte) : (s.pokeView d pa bs).inbox = s.inbox := rfl
@[simp] theorem State.pokeView_egress (s : State) (d pa : Nat) (bs : List Byte) : (s.pokeView d pa bs).egress = s.egress := rfl
@[simp] theorem State.pokeView_seqs (s : State) (d pa : Nat) (bs : List Byte) : (s.pokeView d pa bs).seqs = s.seqs := rfl
@[simp] theorem State.pokeView_redHeld (s : State) (d pa : Nat) (bs : List Byte) : (s.pokeView d pa bs).redHeld = s.redHeld := rfl
@[simp] theorem State.pokeView_redFly (s : State) (d pa : Nat) (bs : List Byte) : (s.pokeView d pa bs).redFly = s.redFly := rfl
@[simp] theorem State.pokeView_tenants (s : State) (d pa : Nat) (bs : List Byte) : (s.pokeView d pa bs).tenants = s.tenants := rfl
@[simp] theorem State.pokeView_qps (s : State) (d pa : Nat) (bs : List Byte) : (s.pokeView d pa bs).qps = s.qps := rfl
@[simp] theorem State.pokeView_rkeys (s : State) (d pa : Nat) (bs : List Byte) : (s.pokeView d pa bs).rkeys = s.rkeys := rfl
@[simp] theorem State.pokeView_lqs (s : State) (d pa : Nat) (bs : List Byte) : (s.pokeView d pa bs).lqs = s.lqs := rfl
@[simp] theorem State.pokeView_launches (s : State) (d pa : Nat) (bs : List Byte) : (s.pokeView d pa bs).launches = s.launches := rfl
@[simp] theorem State.pokeView_tasks (s : State) (d pa : Nat) (bs : List Byte) : (s.pokeView d pa bs).tasks = s.tasks := rfl
@[simp] theorem State.pokeView_msgs (s : State) (d pa : Nat) (bs : List Byte) : (s.pokeView d pa bs).msgs = s.msgs := rfl
@[simp] theorem State.pokeView_waiting (s : State) (d pa : Nat) (bs : List Byte) : (s.pokeView d pa bs).waiting = s.waiting := rfl
@[simp] theorem State.pokeView_cmds (s : State) (d pa : Nat) (bs : List Byte) : (s.pokeView d pa bs).cmds = s.cmds := rfl
@[simp] theorem State.pokeView_resv (s : State) (d pa : Nat) (bs : List Byte) : (s.pokeView d pa bs).resv = s.resv := rfl
@[simp] theorem State.pokeView_resvLive (s : State) (d pa : Nat) (bs : List Byte) : (s.pokeView d pa bs).resvLive = s.resvLive := rfl
@[simp] theorem State.pokeView_scbs (s : State) (d pa : Nat) (bs : List Byte) : (s.pokeView d pa bs).scbs = s.scbs := rfl
@[simp] theorem State.pokeView_models (s : State) (d pa : Nat) (bs : List Byte) : (s.pokeView d pa bs).models = s.models := rfl
@[simp] theorem State.pokeView_groups (s : State) (d pa : Nat) (bs : List Byte) : (s.pokeView d pa bs).groups = s.groups := rfl
@[simp] theorem State.pokeView_moves (s : State) (d pa : Nat) (bs : List Byte) : (s.pokeView d pa bs).moves = s.moves := rfl
@[simp] theorem State.pokeView_arrivals (s : State) (d pa : Nat) (bs : List Byte) : (s.pokeView d pa bs).arrivals = s.arrivals := rfl
@[simp] theorem State.pokeView_castcfg (s : State) (d pa : Nat) (bs : List Byte) : (s.pokeView d pa bs).castcfg = s.castcfg := rfl
@[simp] theorem State.pokeView_cast (s : State) (d pa : Nat) (bs : List Byte) : (s.pokeView d pa bs).cast = s.cast := rfl
@[simp] theorem State.pokeView_watch (s : State) (d pa : Nat) (bs : List Byte) : (s.pokeView d pa bs).watch = s.watch := rfl
@[simp] theorem State.pokeView_grams (s : State) (d pa : Nat) (bs : List Byte) : (s.pokeView d pa bs).grams = s.grams := rfl
@[simp] theorem State.pokeView_arenas (s : State) (d pa : Nat) (bs : List Byte) : (s.pokeView d pa bs).arenas = s.arenas := rfl
@[simp] theorem State.pokeView_kvFree (s : State) (d pa : Nat) (bs : List Byte) : (s.pokeView d pa bs).kvFree = s.kvFree := rfl
@[simp] theorem State.pokeView_pages (s : State) (d pa : Nat) (bs : List Byte) : (s.pokeView d pa bs).pages = s.pages := rfl
@[simp] theorem State.pokeView_fuseVer (s : State) (d pa : Nat) (bs : List Byte) : (s.pokeView d pa bs).fuseVer = s.fuseVer := rfl
@[simp] theorem State.pokeView_fuseKey (s : State) (d pa : Nat) (bs : List Byte) : (s.pokeView d pa bs).fuseKey = s.fuseKey := rfl
@[simp] theorem State.pokeView_images (s : State) (d pa : Nat) (bs : List Byte) : (s.pokeView d pa bs).images = s.images := rfl
@[simp] theorem State.pokeView_crcFails (s : State) (d pa : Nat) (bs : List Byte) : (s.pokeView d pa bs).crcFails = s.crcFails := rfl
@[simp] theorem State.pokeView_linkHeld (s : State) (d pa : Nat) (bs : List Byte) : (s.pokeView d pa bs).linkHeld = s.linkHeld := rfl
@[simp] theorem State.pokeView_regions (s : State) (d pa : Nat) (bs : List Byte) : (s.pokeView d pa bs).regions = s.regions := rfl

/-! ### State.writeLs -/

@[simp] theorem State.writeLs_agenda (s : State) (cl off : Nat) (bs : List Byte) : (s.writeLs cl off bs).agenda = s.agenda := rfl
@[simp] theorem State.writeLs_focus (s : State) (cl off : Nat) (bs : List Byte) : (s.writeLs cl off bs).focus = s.focus := rfl
@[simp] theorem State.writeLs_ev (s : State) (cl off : Nat) (bs : List Byte) : (s.writeLs cl off bs).ev = s.ev := rfl
@[simp] theorem State.writeLs_freeCtr (s : State) (cl off : Nat) (bs : List Byte) : (s.writeLs cl off bs).freeCtr = s.freeCtr := rfl
@[simp] theorem State.writeLs_nextN (s : State) (cl off : Nat) (bs : List Byte) : (s.writeLs cl off bs).nextN = s.nextN := rfl
@[simp] theorem State.writeLs_out (s : State) (cl off : Nat) (bs : List Byte) : (s.writeLs cl off bs).out = s.out := rfl
@[simp] theorem State.writeLs_slots (s : State) (cl off : Nat) (bs : List Byte) : (s.writeLs cl off bs).slots = s.slots := rfl
@[simp] theorem State.writeLs_cores (s : State) (cl off : Nat) (bs : List Byte) : (s.writeLs cl off bs).cores = s.cores := rfl
@[simp] theorem State.writeLs_clusters (s : State) (cl off : Nat) (bs : List Byte) : (s.writeLs cl off bs).clusters = s.clusters := rfl
@[simp] theorem State.writeLs_dies (s : State) (cl off : Nat) (bs : List Byte) : (s.writeLs cl off bs).dies = s.dies := rfl
@[simp] theorem State.writeLs_mem (s : State) (cl off : Nat) (bs : List Byte) : (s.writeLs cl off bs).mem = s.mem := rfl
@[simp] theorem State.writeLs_feEmpty (s : State) (cl off : Nat) (bs : List Byte) : (s.writeLs cl off bs).feEmpty = s.feEmpty := rfl
@[simp] theorem State.writeLs_lsStamp (s : State) (cl off : Nat) (bs : List Byte) : (s.writeLs cl off bs).lsStamp = s.lsStamp := rfl
@[simp] theorem State.writeLs_acc (s : State) (cl off : Nat) (bs : List Byte) : (s.writeLs cl off bs).acc = s.acc := rfl
@[simp] theorem State.writeLs_timer (s : State) (cl off : Nat) (bs : List Byte) : (s.writeLs cl off bs).timer = s.timer := rfl
@[simp] theorem State.writeLs_poolsz (s : State) (cl off : Nat) (bs : List Byte) : (s.writeLs cl off bs).poolsz = s.poolsz := rfl
@[simp] theorem State.writeLs_torus (s : State) (cl off : Nat) (bs : List Byte) : (s.writeLs cl off bs).torus = s.torus := rfl
@[simp] theorem State.writeLs_pkgid (s : State) (cl off : Nat) (bs : List Byte) : (s.writeLs cl off bs).pkgid = s.pkgid := rfl
@[simp] theorem State.writeLs_pkgBurnt (s : State) (cl off : Nat) (bs : List Byte) : (s.writeLs cl off bs).pkgBurnt = s.pkgBurnt := rfl
@[simp] theorem State.writeLs_linkup (s : State) (cl off : Nat) (bs : List Byte) : (s.writeLs cl off bs).linkup = s.linkup := rfl
@[simp] theorem State.writeLs_draining (s : State) (cl off : Nat) (bs : List Byte) : (s.writeLs cl off bs).draining = s.draining := rfl
@[simp] theorem State.writeLs_credits (s : State) (cl off : Nat) (bs : List Byte) : (s.writeLs cl off bs).credits = s.credits := rfl
@[simp] theorem State.writeLs_pause (s : State) (cl off : Nat) (bs : List Byte) : (s.writeLs cl off bs).pause = s.pause := rfl
@[simp] theorem State.writeLs_pwr (s : State) (cl off : Nat) (bs : List Byte) : (s.writeLs cl off bs).pwr = s.pwr := rfl

@[simp] theorem State.writeLs_freeze (s : State) (cl off : Nat) (bs : List Byte) : (s.writeLs cl off bs).freeze = s.freeze := rfl
@[simp] theorem State.writeLs_boot (s : State) (cl off : Nat) (bs : List Byte) : (s.writeLs cl off bs).boot = s.boot := rfl
@[simp] theorem State.writeLs_ckgen (s : State) (cl off : Nat) (bs : List Byte) : (s.writeLs cl off bs).ckgen = s.ckgen := rfl
@[simp] theorem State.writeLs_ckrecv (s : State) (cl off : Nat) (bs : List Byte) : (s.writeLs cl off bs).ckrecv = s.ckrecv := rfl
@[simp] theorem State.writeLs_tier (s : State) (cl off : Nat) (bs : List Byte) : (s.writeLs cl off bs).tier = s.tier := rfl
@[simp] theorem State.writeLs_drain (s : State) (cl off : Nat) (bs : List Byte) : (s.writeLs cl off bs).drain = s.drain := rfl
@[simp] theorem State.writeLs_side (s : State) (cl off : Nat) (bs : List Byte) : (s.writeLs cl off bs).side = s.side := rfl
@[simp] theorem State.writeLs_heldFree (s : State) (cl off : Nat) (bs : List Byte) : (s.writeLs cl off bs).heldFree = s.heldFree := rfl
@[simp] theorem State.writeLs_nodes (s : State) (cl off : Nat) (bs : List Byte) : (s.writeLs cl off bs).nodes = s.nodes := rfl
@[simp] theorem State.writeLs_frames (s : State) (cl off : Nat) (bs : List Byte) : (s.writeLs cl off bs).frames = s.frames := rfl
@[simp] theorem State.writeLs_copies (s : State) (cl off : Nat) (bs : List Byte) : (s.writeLs cl off bs).copies = s.copies := rfl
@[simp] theorem State.writeLs_tlb (s : State) (cl off : Nat) (bs : List Byte) : (s.writeLs cl off bs).tlb = s.tlb := rfl
@[simp] theorem State.writeLs_writes (s : State) (cl off : Nat) (bs : List Byte) : (s.writeLs cl off bs).writes = s.writes := rfl
@[simp] theorem State.writeLs_orderN (s : State) (cl off : Nat) (bs : List Byte) : (s.writeLs cl off bs).orderN = s.orderN := rfl
@[simp] theorem State.writeLs_faults (s : State) (cl off : Nat) (bs : List Byte) : (s.writeLs cl off bs).faults = s.faults := rfl
@[simp] theorem State.writeLs_requests (s : State) (cl off : Nat) (bs : List Byte) : (s.writeLs cl off bs).requests = s.requests := rfl
@[simp] theorem State.writeLs_inbox (s : State) (cl off : Nat) (bs : List Byte) : (s.writeLs cl off bs).inbox = s.inbox := rfl
@[simp] theorem State.writeLs_egress (s : State) (cl off : Nat) (bs : List Byte) : (s.writeLs cl off bs).egress = s.egress := rfl
@[simp] theorem State.writeLs_seqs (s : State) (cl off : Nat) (bs : List Byte) : (s.writeLs cl off bs).seqs = s.seqs := rfl
@[simp] theorem State.writeLs_redHeld (s : State) (cl off : Nat) (bs : List Byte) : (s.writeLs cl off bs).redHeld = s.redHeld := rfl
@[simp] theorem State.writeLs_redFly (s : State) (cl off : Nat) (bs : List Byte) : (s.writeLs cl off bs).redFly = s.redFly := rfl
@[simp] theorem State.writeLs_tenants (s : State) (cl off : Nat) (bs : List Byte) : (s.writeLs cl off bs).tenants = s.tenants := rfl
@[simp] theorem State.writeLs_qps (s : State) (cl off : Nat) (bs : List Byte) : (s.writeLs cl off bs).qps = s.qps := rfl
@[simp] theorem State.writeLs_rkeys (s : State) (cl off : Nat) (bs : List Byte) : (s.writeLs cl off bs).rkeys = s.rkeys := rfl
@[simp] theorem State.writeLs_lqs (s : State) (cl off : Nat) (bs : List Byte) : (s.writeLs cl off bs).lqs = s.lqs := rfl
@[simp] theorem State.writeLs_launches (s : State) (cl off : Nat) (bs : List Byte) : (s.writeLs cl off bs).launches = s.launches := rfl
@[simp] theorem State.writeLs_tasks (s : State) (cl off : Nat) (bs : List Byte) : (s.writeLs cl off bs).tasks = s.tasks := rfl
@[simp] theorem State.writeLs_msgs (s : State) (cl off : Nat) (bs : List Byte) : (s.writeLs cl off bs).msgs = s.msgs := rfl
@[simp] theorem State.writeLs_waiting (s : State) (cl off : Nat) (bs : List Byte) : (s.writeLs cl off bs).waiting = s.waiting := rfl
@[simp] theorem State.writeLs_cmds (s : State) (cl off : Nat) (bs : List Byte) : (s.writeLs cl off bs).cmds = s.cmds := rfl
@[simp] theorem State.writeLs_resv (s : State) (cl off : Nat) (bs : List Byte) : (s.writeLs cl off bs).resv = s.resv := rfl
@[simp] theorem State.writeLs_resvLive (s : State) (cl off : Nat) (bs : List Byte) : (s.writeLs cl off bs).resvLive = s.resvLive := rfl
@[simp] theorem State.writeLs_scbs (s : State) (cl off : Nat) (bs : List Byte) : (s.writeLs cl off bs).scbs = s.scbs := rfl
@[simp] theorem State.writeLs_models (s : State) (cl off : Nat) (bs : List Byte) : (s.writeLs cl off bs).models = s.models := rfl
@[simp] theorem State.writeLs_groups (s : State) (cl off : Nat) (bs : List Byte) : (s.writeLs cl off bs).groups = s.groups := rfl
@[simp] theorem State.writeLs_moves (s : State) (cl off : Nat) (bs : List Byte) : (s.writeLs cl off bs).moves = s.moves := rfl
@[simp] theorem State.writeLs_arrivals (s : State) (cl off : Nat) (bs : List Byte) : (s.writeLs cl off bs).arrivals = s.arrivals := rfl
@[simp] theorem State.writeLs_castcfg (s : State) (cl off : Nat) (bs : List Byte) : (s.writeLs cl off bs).castcfg = s.castcfg := rfl
@[simp] theorem State.writeLs_cast (s : State) (cl off : Nat) (bs : List Byte) : (s.writeLs cl off bs).cast = s.cast := rfl
@[simp] theorem State.writeLs_watch (s : State) (cl off : Nat) (bs : List Byte) : (s.writeLs cl off bs).watch = s.watch := rfl
@[simp] theorem State.writeLs_grams (s : State) (cl off : Nat) (bs : List Byte) : (s.writeLs cl off bs).grams = s.grams := rfl
@[simp] theorem State.writeLs_arenas (s : State) (cl off : Nat) (bs : List Byte) : (s.writeLs cl off bs).arenas = s.arenas := rfl
@[simp] theorem State.writeLs_kvFree (s : State) (cl off : Nat) (bs : List Byte) : (s.writeLs cl off bs).kvFree = s.kvFree := rfl
@[simp] theorem State.writeLs_pages (s : State) (cl off : Nat) (bs : List Byte) : (s.writeLs cl off bs).pages = s.pages := rfl
@[simp] theorem State.writeLs_fuseVer (s : State) (cl off : Nat) (bs : List Byte) : (s.writeLs cl off bs).fuseVer = s.fuseVer := rfl
@[simp] theorem State.writeLs_fuseKey (s : State) (cl off : Nat) (bs : List Byte) : (s.writeLs cl off bs).fuseKey = s.fuseKey := rfl
@[simp] theorem State.writeLs_images (s : State) (cl off : Nat) (bs : List Byte) : (s.writeLs cl off bs).images = s.images := rfl
@[simp] theorem State.writeLs_crcFails (s : State) (cl off : Nat) (bs : List Byte) : (s.writeLs cl off bs).crcFails = s.crcFails := rfl
@[simp] theorem State.writeLs_linkHeld (s : State) (cl off : Nat) (bs : List Byte) : (s.writeLs cl off bs).linkHeld = s.linkHeld := rfl
@[simp] theorem State.writeLs_regions (s : State) (cl off : Nat) (bs : List Byte) : (s.writeLs cl off bs).regions = s.regions := rfl

/-! ### State.setFull -/

@[simp] theorem State.setFull_agenda (s : State) (cl off : Nat) (b : Bool) : (s.setFull cl off b).agenda = s.agenda := rfl
@[simp] theorem State.setFull_focus (s : State) (cl off : Nat) (b : Bool) : (s.setFull cl off b).focus = s.focus := rfl
@[simp] theorem State.setFull_ev (s : State) (cl off : Nat) (b : Bool) : (s.setFull cl off b).ev = s.ev := rfl
@[simp] theorem State.setFull_freeCtr (s : State) (cl off : Nat) (b : Bool) : (s.setFull cl off b).freeCtr = s.freeCtr := rfl
@[simp] theorem State.setFull_nextN (s : State) (cl off : Nat) (b : Bool) : (s.setFull cl off b).nextN = s.nextN := rfl
@[simp] theorem State.setFull_out (s : State) (cl off : Nat) (b : Bool) : (s.setFull cl off b).out = s.out := rfl
@[simp] theorem State.setFull_slots (s : State) (cl off : Nat) (b : Bool) : (s.setFull cl off b).slots = s.slots := rfl
@[simp] theorem State.setFull_cores (s : State) (cl off : Nat) (b : Bool) : (s.setFull cl off b).cores = s.cores := rfl
@[simp] theorem State.setFull_clusters (s : State) (cl off : Nat) (b : Bool) : (s.setFull cl off b).clusters = s.clusters := rfl
@[simp] theorem State.setFull_dies (s : State) (cl off : Nat) (b : Bool) : (s.setFull cl off b).dies = s.dies := rfl
@[simp] theorem State.setFull_mem (s : State) (cl off : Nat) (b : Bool) : (s.setFull cl off b).mem = s.mem := rfl
@[simp] theorem State.setFull_ls (s : State) (cl off : Nat) (b : Bool) : (s.setFull cl off b).ls = s.ls := rfl
@[simp] theorem State.setFull_lsStamp (s : State) (cl off : Nat) (b : Bool) : (s.setFull cl off b).lsStamp = s.lsStamp := rfl
@[simp] theorem State.setFull_acc (s : State) (cl off : Nat) (b : Bool) : (s.setFull cl off b).acc = s.acc := rfl
@[simp] theorem State.setFull_timer (s : State) (cl off : Nat) (b : Bool) : (s.setFull cl off b).timer = s.timer := rfl
@[simp] theorem State.setFull_poolsz (s : State) (cl off : Nat) (b : Bool) : (s.setFull cl off b).poolsz = s.poolsz := rfl
@[simp] theorem State.setFull_torus (s : State) (cl off : Nat) (b : Bool) : (s.setFull cl off b).torus = s.torus := rfl
@[simp] theorem State.setFull_pkgid (s : State) (cl off : Nat) (b : Bool) : (s.setFull cl off b).pkgid = s.pkgid := rfl
@[simp] theorem State.setFull_pkgBurnt (s : State) (cl off : Nat) (b : Bool) : (s.setFull cl off b).pkgBurnt = s.pkgBurnt := rfl
@[simp] theorem State.setFull_linkup (s : State) (cl off : Nat) (b : Bool) : (s.setFull cl off b).linkup = s.linkup := rfl
@[simp] theorem State.setFull_draining (s : State) (cl off : Nat) (b : Bool) : (s.setFull cl off b).draining = s.draining := rfl
@[simp] theorem State.setFull_credits (s : State) (cl off : Nat) (b : Bool) : (s.setFull cl off b).credits = s.credits := rfl
@[simp] theorem State.setFull_pause (s : State) (cl off : Nat) (b : Bool) : (s.setFull cl off b).pause = s.pause := rfl
@[simp] theorem State.setFull_pwr (s : State) (cl off : Nat) (b : Bool) : (s.setFull cl off b).pwr = s.pwr := rfl

@[simp] theorem State.setFull_freeze (s : State) (cl off : Nat) (b : Bool) : (s.setFull cl off b).freeze = s.freeze := rfl
@[simp] theorem State.setFull_boot (s : State) (cl off : Nat) (b : Bool) : (s.setFull cl off b).boot = s.boot := rfl
@[simp] theorem State.setFull_ckgen (s : State) (cl off : Nat) (b : Bool) : (s.setFull cl off b).ckgen = s.ckgen := rfl
@[simp] theorem State.setFull_ckrecv (s : State) (cl off : Nat) (b : Bool) : (s.setFull cl off b).ckrecv = s.ckrecv := rfl
@[simp] theorem State.setFull_tier (s : State) (cl off : Nat) (b : Bool) : (s.setFull cl off b).tier = s.tier := rfl
@[simp] theorem State.setFull_drain (s : State) (cl off : Nat) (b : Bool) : (s.setFull cl off b).drain = s.drain := rfl
@[simp] theorem State.setFull_side (s : State) (cl off : Nat) (b : Bool) : (s.setFull cl off b).side = s.side := rfl
@[simp] theorem State.setFull_heldFree (s : State) (cl off : Nat) (b : Bool) : (s.setFull cl off b).heldFree = s.heldFree := rfl
@[simp] theorem State.setFull_nodes (s : State) (cl off : Nat) (b : Bool) : (s.setFull cl off b).nodes = s.nodes := rfl
@[simp] theorem State.setFull_frames (s : State) (cl off : Nat) (b : Bool) : (s.setFull cl off b).frames = s.frames := rfl
@[simp] theorem State.setFull_copies (s : State) (cl off : Nat) (b : Bool) : (s.setFull cl off b).copies = s.copies := rfl
@[simp] theorem State.setFull_tlb (s : State) (cl off : Nat) (b : Bool) : (s.setFull cl off b).tlb = s.tlb := rfl
@[simp] theorem State.setFull_writes (s : State) (cl off : Nat) (b : Bool) : (s.setFull cl off b).writes = s.writes := rfl
@[simp] theorem State.setFull_orderN (s : State) (cl off : Nat) (b : Bool) : (s.setFull cl off b).orderN = s.orderN := rfl
@[simp] theorem State.setFull_faults (s : State) (cl off : Nat) (b : Bool) : (s.setFull cl off b).faults = s.faults := rfl
@[simp] theorem State.setFull_requests (s : State) (cl off : Nat) (b : Bool) : (s.setFull cl off b).requests = s.requests := rfl
@[simp] theorem State.setFull_inbox (s : State) (cl off : Nat) (b : Bool) : (s.setFull cl off b).inbox = s.inbox := rfl
@[simp] theorem State.setFull_egress (s : State) (cl off : Nat) (b : Bool) : (s.setFull cl off b).egress = s.egress := rfl
@[simp] theorem State.setFull_seqs (s : State) (cl off : Nat) (b : Bool) : (s.setFull cl off b).seqs = s.seqs := rfl
@[simp] theorem State.setFull_redHeld (s : State) (cl off : Nat) (b : Bool) : (s.setFull cl off b).redHeld = s.redHeld := rfl
@[simp] theorem State.setFull_redFly (s : State) (cl off : Nat) (b : Bool) : (s.setFull cl off b).redFly = s.redFly := rfl
@[simp] theorem State.setFull_tenants (s : State) (cl off : Nat) (b : Bool) : (s.setFull cl off b).tenants = s.tenants := rfl
@[simp] theorem State.setFull_qps (s : State) (cl off : Nat) (b : Bool) : (s.setFull cl off b).qps = s.qps := rfl
@[simp] theorem State.setFull_rkeys (s : State) (cl off : Nat) (b : Bool) : (s.setFull cl off b).rkeys = s.rkeys := rfl
@[simp] theorem State.setFull_lqs (s : State) (cl off : Nat) (b : Bool) : (s.setFull cl off b).lqs = s.lqs := rfl
@[simp] theorem State.setFull_launches (s : State) (cl off : Nat) (b : Bool) : (s.setFull cl off b).launches = s.launches := rfl
@[simp] theorem State.setFull_tasks (s : State) (cl off : Nat) (b : Bool) : (s.setFull cl off b).tasks = s.tasks := rfl
@[simp] theorem State.setFull_msgs (s : State) (cl off : Nat) (b : Bool) : (s.setFull cl off b).msgs = s.msgs := rfl
@[simp] theorem State.setFull_waiting (s : State) (cl off : Nat) (b : Bool) : (s.setFull cl off b).waiting = s.waiting := rfl
@[simp] theorem State.setFull_cmds (s : State) (cl off : Nat) (b : Bool) : (s.setFull cl off b).cmds = s.cmds := rfl
@[simp] theorem State.setFull_resv (s : State) (cl off : Nat) (b : Bool) : (s.setFull cl off b).resv = s.resv := rfl
@[simp] theorem State.setFull_resvLive (s : State) (cl off : Nat) (b : Bool) : (s.setFull cl off b).resvLive = s.resvLive := rfl
@[simp] theorem State.setFull_scbs (s : State) (cl off : Nat) (b : Bool) : (s.setFull cl off b).scbs = s.scbs := rfl
@[simp] theorem State.setFull_models (s : State) (cl off : Nat) (b : Bool) : (s.setFull cl off b).models = s.models := rfl
@[simp] theorem State.setFull_groups (s : State) (cl off : Nat) (b : Bool) : (s.setFull cl off b).groups = s.groups := rfl
@[simp] theorem State.setFull_moves (s : State) (cl off : Nat) (b : Bool) : (s.setFull cl off b).moves = s.moves := rfl
@[simp] theorem State.setFull_arrivals (s : State) (cl off : Nat) (b : Bool) : (s.setFull cl off b).arrivals = s.arrivals := rfl
@[simp] theorem State.setFull_castcfg (s : State) (cl off : Nat) (b : Bool) : (s.setFull cl off b).castcfg = s.castcfg := rfl
@[simp] theorem State.setFull_cast (s : State) (cl off : Nat) (b : Bool) : (s.setFull cl off b).cast = s.cast := rfl
@[simp] theorem State.setFull_watch (s : State) (cl off : Nat) (b : Bool) : (s.setFull cl off b).watch = s.watch := rfl
@[simp] theorem State.setFull_grams (s : State) (cl off : Nat) (b : Bool) : (s.setFull cl off b).grams = s.grams := rfl
@[simp] theorem State.setFull_arenas (s : State) (cl off : Nat) (b : Bool) : (s.setFull cl off b).arenas = s.arenas := rfl
@[simp] theorem State.setFull_kvFree (s : State) (cl off : Nat) (b : Bool) : (s.setFull cl off b).kvFree = s.kvFree := rfl
@[simp] theorem State.setFull_pages (s : State) (cl off : Nat) (b : Bool) : (s.setFull cl off b).pages = s.pages := rfl
@[simp] theorem State.setFull_fuseVer (s : State) (cl off : Nat) (b : Bool) : (s.setFull cl off b).fuseVer = s.fuseVer := rfl
@[simp] theorem State.setFull_fuseKey (s : State) (cl off : Nat) (b : Bool) : (s.setFull cl off b).fuseKey = s.fuseKey := rfl
@[simp] theorem State.setFull_images (s : State) (cl off : Nat) (b : Bool) : (s.setFull cl off b).images = s.images := rfl
@[simp] theorem State.setFull_crcFails (s : State) (cl off : Nat) (b : Bool) : (s.setFull cl off b).crcFails = s.crcFails := rfl
@[simp] theorem State.setFull_linkHeld (s : State) (cl off : Nat) (b : Bool) : (s.setFull cl off b).linkHeld = s.linkHeld := rfl
@[simp] theorem State.setFull_regions (s : State) (cl off : Nat) (b : Bool) : (s.setFull cl off b).regions = s.regions := rfl

/-! ### State.dropFault -/

@[simp] theorem State.dropFault_agenda (s : State) (r : Requester) : (s.dropFault r).agenda = s.agenda := rfl
@[simp] theorem State.dropFault_focus (s : State) (r : Requester) : (s.dropFault r).focus = s.focus := rfl
@[simp] theorem State.dropFault_ev (s : State) (r : Requester) : (s.dropFault r).ev = s.ev := rfl
@[simp] theorem State.dropFault_freeCtr (s : State) (r : Requester) : (s.dropFault r).freeCtr = s.freeCtr := rfl
@[simp] theorem State.dropFault_nextN (s : State) (r : Requester) : (s.dropFault r).nextN = s.nextN := rfl
@[simp] theorem State.dropFault_out (s : State) (r : Requester) : (s.dropFault r).out = s.out := rfl
@[simp] theorem State.dropFault_slots (s : State) (r : Requester) : (s.dropFault r).slots = s.slots := rfl
@[simp] theorem State.dropFault_cores (s : State) (r : Requester) : (s.dropFault r).cores = s.cores := rfl
@[simp] theorem State.dropFault_clusters (s : State) (r : Requester) : (s.dropFault r).clusters = s.clusters := rfl
@[simp] theorem State.dropFault_dies (s : State) (r : Requester) : (s.dropFault r).dies = s.dies := rfl
@[simp] theorem State.dropFault_mem (s : State) (r : Requester) : (s.dropFault r).mem = s.mem := rfl
@[simp] theorem State.dropFault_ls (s : State) (r : Requester) : (s.dropFault r).ls = s.ls := rfl
@[simp] theorem State.dropFault_feEmpty (s : State) (r : Requester) : (s.dropFault r).feEmpty = s.feEmpty := rfl
@[simp] theorem State.dropFault_lsStamp (s : State) (r : Requester) : (s.dropFault r).lsStamp = s.lsStamp := rfl
@[simp] theorem State.dropFault_acc (s : State) (r : Requester) : (s.dropFault r).acc = s.acc := rfl
@[simp] theorem State.dropFault_timer (s : State) (r : Requester) : (s.dropFault r).timer = s.timer := rfl
@[simp] theorem State.dropFault_poolsz (s : State) (r : Requester) : (s.dropFault r).poolsz = s.poolsz := rfl
@[simp] theorem State.dropFault_torus (s : State) (r : Requester) : (s.dropFault r).torus = s.torus := rfl
@[simp] theorem State.dropFault_pkgid (s : State) (r : Requester) : (s.dropFault r).pkgid = s.pkgid := rfl
@[simp] theorem State.dropFault_pkgBurnt (s : State) (r : Requester) : (s.dropFault r).pkgBurnt = s.pkgBurnt := rfl
@[simp] theorem State.dropFault_linkup (s : State) (r : Requester) : (s.dropFault r).linkup = s.linkup := rfl
@[simp] theorem State.dropFault_draining (s : State) (r : Requester) : (s.dropFault r).draining = s.draining := rfl
@[simp] theorem State.dropFault_credits (s : State) (r : Requester) : (s.dropFault r).credits = s.credits := rfl
@[simp] theorem State.dropFault_pause (s : State) (r : Requester) : (s.dropFault r).pause = s.pause := rfl
@[simp] theorem State.dropFault_pwr (s : State) (r : Requester) : (s.dropFault r).pwr = s.pwr := rfl

@[simp] theorem State.dropFault_freeze (s : State) (r : Requester) : (s.dropFault r).freeze = s.freeze := rfl
@[simp] theorem State.dropFault_boot (s : State) (r : Requester) : (s.dropFault r).boot = s.boot := rfl
@[simp] theorem State.dropFault_ckgen (s : State) (r : Requester) : (s.dropFault r).ckgen = s.ckgen := rfl
@[simp] theorem State.dropFault_ckrecv (s : State) (r : Requester) : (s.dropFault r).ckrecv = s.ckrecv := rfl
@[simp] theorem State.dropFault_tier (s : State) (r : Requester) : (s.dropFault r).tier = s.tier := rfl
@[simp] theorem State.dropFault_drain (s : State) (r : Requester) : (s.dropFault r).drain = s.drain := rfl
@[simp] theorem State.dropFault_side (s : State) (r : Requester) : (s.dropFault r).side = s.side := rfl
@[simp] theorem State.dropFault_heldFree (s : State) (r : Requester) : (s.dropFault r).heldFree = s.heldFree := rfl
/-- Nodes that the dropped faults held are free again (R89). -/
@[simp] theorem State.dropFault_nodes (s : State) (r : Requester) :
    (s.dropFault r).nodes = releaseHolds (s.faults.filter fun f => f.req == r) s.nodes := rfl
@[simp] theorem State.dropFault_frames (s : State) (r : Requester) : (s.dropFault r).frames = s.frames := rfl
@[simp] theorem State.dropFault_copies (s : State) (r : Requester) : (s.dropFault r).copies = s.copies := rfl
@[simp] theorem State.dropFault_tlb (s : State) (r : Requester) : (s.dropFault r).tlb = s.tlb := rfl
@[simp] theorem State.dropFault_writes (s : State) (r : Requester) : (s.dropFault r).writes = s.writes := rfl
@[simp] theorem State.dropFault_orderN (s : State) (r : Requester) : (s.dropFault r).orderN = s.orderN := rfl
@[simp] theorem State.dropFault_requests (s : State) (r : Requester) : (s.dropFault r).requests = s.requests := rfl
@[simp] theorem State.dropFault_inbox (s : State) (r : Requester) : (s.dropFault r).inbox = s.inbox := rfl
@[simp] theorem State.dropFault_egress (s : State) (r : Requester) : (s.dropFault r).egress = s.egress := rfl
@[simp] theorem State.dropFault_seqs (s : State) (r : Requester) : (s.dropFault r).seqs = s.seqs := rfl
@[simp] theorem State.dropFault_redHeld (s : State) (r : Requester) : (s.dropFault r).redHeld = s.redHeld := rfl
@[simp] theorem State.dropFault_redFly (s : State) (r : Requester) : (s.dropFault r).redFly = s.redFly := rfl
@[simp] theorem State.dropFault_tenants (s : State) (r : Requester) : (s.dropFault r).tenants = s.tenants := rfl
@[simp] theorem State.dropFault_qps (s : State) (r : Requester) : (s.dropFault r).qps = s.qps := rfl
@[simp] theorem State.dropFault_rkeys (s : State) (r : Requester) : (s.dropFault r).rkeys = s.rkeys := rfl
@[simp] theorem State.dropFault_lqs (s : State) (r : Requester) : (s.dropFault r).lqs = s.lqs := rfl
@[simp] theorem State.dropFault_launches (s : State) (r : Requester) : (s.dropFault r).launches = s.launches := rfl
@[simp] theorem State.dropFault_tasks (s : State) (r : Requester) : (s.dropFault r).tasks = s.tasks := rfl
@[simp] theorem State.dropFault_msgs (s : State) (r : Requester) : (s.dropFault r).msgs = s.msgs := rfl
@[simp] theorem State.dropFault_waiting (s : State) (r : Requester) : (s.dropFault r).waiting = s.waiting := rfl
@[simp] theorem State.dropFault_cmds (s : State) (r : Requester) : (s.dropFault r).cmds = s.cmds := rfl
@[simp] theorem State.dropFault_resv (s : State) (r : Requester) : (s.dropFault r).resv = s.resv := rfl
@[simp] theorem State.dropFault_resvLive (s : State) (r : Requester) : (s.dropFault r).resvLive = s.resvLive := rfl
@[simp] theorem State.dropFault_scbs (s : State) (r : Requester) : (s.dropFault r).scbs = s.scbs := rfl
@[simp] theorem State.dropFault_models (s : State) (r : Requester) : (s.dropFault r).models = s.models := rfl
@[simp] theorem State.dropFault_groups (s : State) (r : Requester) : (s.dropFault r).groups = s.groups := rfl
@[simp] theorem State.dropFault_moves (s : State) (r : Requester) : (s.dropFault r).moves = s.moves := rfl
@[simp] theorem State.dropFault_arrivals (s : State) (r : Requester) : (s.dropFault r).arrivals = s.arrivals := rfl
@[simp] theorem State.dropFault_castcfg (s : State) (r : Requester) : (s.dropFault r).castcfg = s.castcfg := rfl
@[simp] theorem State.dropFault_cast (s : State) (r : Requester) : (s.dropFault r).cast = s.cast := rfl
@[simp] theorem State.dropFault_watch (s : State) (r : Requester) : (s.dropFault r).watch = s.watch := rfl
@[simp] theorem State.dropFault_grams (s : State) (r : Requester) : (s.dropFault r).grams = s.grams := rfl
@[simp] theorem State.dropFault_arenas (s : State) (r : Requester) : (s.dropFault r).arenas = s.arenas := rfl
@[simp] theorem State.dropFault_kvFree (s : State) (r : Requester) : (s.dropFault r).kvFree = s.kvFree := rfl
@[simp] theorem State.dropFault_pages (s : State) (r : Requester) : (s.dropFault r).pages = s.pages := rfl
@[simp] theorem State.dropFault_fuseVer (s : State) (r : Requester) : (s.dropFault r).fuseVer = s.fuseVer := rfl
@[simp] theorem State.dropFault_fuseKey (s : State) (r : Requester) : (s.dropFault r).fuseKey = s.fuseKey := rfl
@[simp] theorem State.dropFault_images (s : State) (r : Requester) : (s.dropFault r).images = s.images := rfl
@[simp] theorem State.dropFault_crcFails (s : State) (r : Requester) : (s.dropFault r).crcFails = s.crcFails := rfl
@[simp] theorem State.dropFault_linkHeld (s : State) (r : Requester) : (s.dropFault r).linkHeld = s.linkHeld := rfl
@[simp] theorem State.dropFault_regions (s : State) (r : Requester) : (s.dropFault r).regions = s.regions := rfl

/-! ### State.dropRequests -/

@[simp] theorem State.dropRequests_agenda (s : State) (r : Requester) : (s.dropRequests r).agenda = s.agenda := rfl
@[simp] theorem State.dropRequests_focus (s : State) (r : Requester) : (s.dropRequests r).focus = s.focus := rfl
@[simp] theorem State.dropRequests_ev (s : State) (r : Requester) : (s.dropRequests r).ev = s.ev := rfl
@[simp] theorem State.dropRequests_freeCtr (s : State) (r : Requester) : (s.dropRequests r).freeCtr = s.freeCtr := rfl
@[simp] theorem State.dropRequests_nextN (s : State) (r : Requester) : (s.dropRequests r).nextN = s.nextN := rfl
@[simp] theorem State.dropRequests_out (s : State) (r : Requester) : (s.dropRequests r).out = s.out := rfl
@[simp] theorem State.dropRequests_slots (s : State) (r : Requester) : (s.dropRequests r).slots = s.slots := rfl
@[simp] theorem State.dropRequests_cores (s : State) (r : Requester) : (s.dropRequests r).cores = s.cores := rfl
@[simp] theorem State.dropRequests_clusters (s : State) (r : Requester) : (s.dropRequests r).clusters = s.clusters := rfl
@[simp] theorem State.dropRequests_dies (s : State) (r : Requester) : (s.dropRequests r).dies = s.dies := rfl
@[simp] theorem State.dropRequests_mem (s : State) (r : Requester) : (s.dropRequests r).mem = s.mem := rfl
@[simp] theorem State.dropRequests_ls (s : State) (r : Requester) : (s.dropRequests r).ls = s.ls := rfl
@[simp] theorem State.dropRequests_feEmpty (s : State) (r : Requester) : (s.dropRequests r).feEmpty = s.feEmpty := rfl
@[simp] theorem State.dropRequests_lsStamp (s : State) (r : Requester) : (s.dropRequests r).lsStamp = s.lsStamp := rfl
@[simp] theorem State.dropRequests_acc (s : State) (r : Requester) : (s.dropRequests r).acc = s.acc := rfl
@[simp] theorem State.dropRequests_timer (s : State) (r : Requester) : (s.dropRequests r).timer = s.timer := rfl
@[simp] theorem State.dropRequests_poolsz (s : State) (r : Requester) : (s.dropRequests r).poolsz = s.poolsz := rfl
@[simp] theorem State.dropRequests_torus (s : State) (r : Requester) : (s.dropRequests r).torus = s.torus := rfl
@[simp] theorem State.dropRequests_pkgid (s : State) (r : Requester) : (s.dropRequests r).pkgid = s.pkgid := rfl
@[simp] theorem State.dropRequests_pkgBurnt (s : State) (r : Requester) : (s.dropRequests r).pkgBurnt = s.pkgBurnt := rfl
@[simp] theorem State.dropRequests_linkup (s : State) (r : Requester) : (s.dropRequests r).linkup = s.linkup := rfl
@[simp] theorem State.dropRequests_draining (s : State) (r : Requester) : (s.dropRequests r).draining = s.draining := rfl
@[simp] theorem State.dropRequests_credits (s : State) (r : Requester) : (s.dropRequests r).credits = s.credits := rfl
@[simp] theorem State.dropRequests_pause (s : State) (r : Requester) : (s.dropRequests r).pause = s.pause := rfl
@[simp] theorem State.dropRequests_pwr (s : State) (r : Requester) : (s.dropRequests r).pwr = s.pwr := rfl

@[simp] theorem State.dropRequests_freeze (s : State) (r : Requester) : (s.dropRequests r).freeze = s.freeze := rfl
@[simp] theorem State.dropRequests_boot (s : State) (r : Requester) : (s.dropRequests r).boot = s.boot := rfl
@[simp] theorem State.dropRequests_ckgen (s : State) (r : Requester) : (s.dropRequests r).ckgen = s.ckgen := rfl
@[simp] theorem State.dropRequests_ckrecv (s : State) (r : Requester) : (s.dropRequests r).ckrecv = s.ckrecv := rfl
@[simp] theorem State.dropRequests_tier (s : State) (r : Requester) : (s.dropRequests r).tier = s.tier := rfl
@[simp] theorem State.dropRequests_drain (s : State) (r : Requester) : (s.dropRequests r).drain = s.drain := rfl
@[simp] theorem State.dropRequests_side (s : State) (r : Requester) : (s.dropRequests r).side = s.side := rfl
@[simp] theorem State.dropRequests_heldFree (s : State) (r : Requester) : (s.dropRequests r).heldFree = s.heldFree := rfl
@[simp] theorem State.dropRequests_nodes (s : State) (r : Requester) : (s.dropRequests r).nodes = s.nodes := rfl
@[simp] theorem State.dropRequests_frames (s : State) (r : Requester) : (s.dropRequests r).frames = s.frames := rfl
@[simp] theorem State.dropRequests_copies (s : State) (r : Requester) : (s.dropRequests r).copies = s.copies := rfl
@[simp] theorem State.dropRequests_tlb (s : State) (r : Requester) : (s.dropRequests r).tlb = s.tlb := rfl
@[simp] theorem State.dropRequests_writes (s : State) (r : Requester) : (s.dropRequests r).writes = s.writes := rfl
@[simp] theorem State.dropRequests_orderN (s : State) (r : Requester) : (s.dropRequests r).orderN = s.orderN := rfl
@[simp] theorem State.dropRequests_faults (s : State) (r : Requester) : (s.dropRequests r).faults = s.faults := rfl
@[simp] theorem State.dropRequests_inbox (s : State) (r : Requester) : (s.dropRequests r).inbox = s.inbox := rfl
@[simp] theorem State.dropRequests_egress (s : State) (r : Requester) : (s.dropRequests r).egress = s.egress := rfl
@[simp] theorem State.dropRequests_seqs (s : State) (r : Requester) : (s.dropRequests r).seqs = s.seqs := rfl
@[simp] theorem State.dropRequests_redHeld (s : State) (r : Requester) : (s.dropRequests r).redHeld = s.redHeld := rfl
@[simp] theorem State.dropRequests_redFly (s : State) (r : Requester) : (s.dropRequests r).redFly = s.redFly := rfl
@[simp] theorem State.dropRequests_tenants (s : State) (r : Requester) : (s.dropRequests r).tenants = s.tenants := rfl
@[simp] theorem State.dropRequests_qps (s : State) (r : Requester) : (s.dropRequests r).qps = s.qps := rfl
@[simp] theorem State.dropRequests_rkeys (s : State) (r : Requester) : (s.dropRequests r).rkeys = s.rkeys := rfl
@[simp] theorem State.dropRequests_lqs (s : State) (r : Requester) : (s.dropRequests r).lqs = s.lqs := rfl
@[simp] theorem State.dropRequests_launches (s : State) (r : Requester) : (s.dropRequests r).launches = s.launches := rfl
@[simp] theorem State.dropRequests_tasks (s : State) (r : Requester) : (s.dropRequests r).tasks = s.tasks := rfl
@[simp] theorem State.dropRequests_msgs (s : State) (r : Requester) : (s.dropRequests r).msgs = s.msgs := rfl
@[simp] theorem State.dropRequests_waiting (s : State) (r : Requester) : (s.dropRequests r).waiting = s.waiting := rfl
@[simp] theorem State.dropRequests_cmds (s : State) (r : Requester) : (s.dropRequests r).cmds = s.cmds := rfl
@[simp] theorem State.dropRequests_resv (s : State) (r : Requester) : (s.dropRequests r).resv = s.resv := rfl
@[simp] theorem State.dropRequests_resvLive (s : State) (r : Requester) : (s.dropRequests r).resvLive = s.resvLive := rfl
@[simp] theorem State.dropRequests_scbs (s : State) (r : Requester) : (s.dropRequests r).scbs = s.scbs := rfl
@[simp] theorem State.dropRequests_models (s : State) (r : Requester) : (s.dropRequests r).models = s.models := rfl
@[simp] theorem State.dropRequests_groups (s : State) (r : Requester) : (s.dropRequests r).groups = s.groups := rfl
@[simp] theorem State.dropRequests_moves (s : State) (r : Requester) : (s.dropRequests r).moves = s.moves := rfl
@[simp] theorem State.dropRequests_arrivals (s : State) (r : Requester) : (s.dropRequests r).arrivals = s.arrivals := rfl
@[simp] theorem State.dropRequests_castcfg (s : State) (r : Requester) : (s.dropRequests r).castcfg = s.castcfg := rfl
@[simp] theorem State.dropRequests_cast (s : State) (r : Requester) : (s.dropRequests r).cast = s.cast := rfl
@[simp] theorem State.dropRequests_watch (s : State) (r : Requester) : (s.dropRequests r).watch = s.watch := rfl
@[simp] theorem State.dropRequests_grams (s : State) (r : Requester) : (s.dropRequests r).grams = s.grams := rfl
@[simp] theorem State.dropRequests_arenas (s : State) (r : Requester) : (s.dropRequests r).arenas = s.arenas := rfl
@[simp] theorem State.dropRequests_kvFree (s : State) (r : Requester) : (s.dropRequests r).kvFree = s.kvFree := rfl
@[simp] theorem State.dropRequests_pages (s : State) (r : Requester) : (s.dropRequests r).pages = s.pages := rfl
@[simp] theorem State.dropRequests_fuseVer (s : State) (r : Requester) : (s.dropRequests r).fuseVer = s.fuseVer := rfl
@[simp] theorem State.dropRequests_fuseKey (s : State) (r : Requester) : (s.dropRequests r).fuseKey = s.fuseKey := rfl
@[simp] theorem State.dropRequests_images (s : State) (r : Requester) : (s.dropRequests r).images = s.images := rfl
@[simp] theorem State.dropRequests_crcFails (s : State) (r : Requester) : (s.dropRequests r).crcFails = s.crcFails := rfl
@[simp] theorem State.dropRequests_linkHeld (s : State) (r : Requester) : (s.dropRequests r).linkHeld = s.linkHeld := rfl
@[simp] theorem State.dropRequests_regions (s : State) (r : Requester) : (s.dropRequests r).regions = s.regions := rfl

/-! ### Slot.setG -/

@[simp] theorem Slot.setG_v (x : Slot) (n : BitVec 5) (v : Dword) : (x.setG n v).v = x.v := by
  unfold Slot.setG; split <;> rfl
@[simp] theorem Slot.setG_vst (x : Slot) (n : BitVec 5) (v : Dword) : (x.setG n v).vst = x.vst := by
  unfold Slot.setG; split <;> rfl
@[simp] theorem Slot.setG_m (x : Slot) (n : BitVec 5) (v : Dword) : (x.setG n v).m = x.m := by
  unfold Slot.setG; split <;> rfl
@[simp] theorem Slot.setG_mst (x : Slot) (n : BitVec 5) (v : Dword) : (x.setG n v).mst = x.mst := by
  unfold Slot.setG; split <;> rfl
@[simp] theorem Slot.setG_p (x : Slot) (n : BitVec 5) (v : Dword) : (x.setG n v).p = x.p := by
  unfold Slot.setG; split <;> rfl
@[simp] theorem Slot.setG_pc (x : Slot) (n : BitVec 5) (v : Dword) : (x.setG n v).pc = x.pc := by
  unfold Slot.setG; split <;> rfl
@[simp] theorem Slot.setG_pt (x : Slot) (n : BitVec 5) (v : Dword) : (x.setG n v).pt = x.pt := by
  unfold Slot.setG; split <;> rfl
@[simp] theorem Slot.setG_frozen (x : Slot) (n : BitVec 5) (v : Dword) : (x.setG n v).frozen = x.frozen := by
  unfold Slot.setG; split <;> rfl
@[simp] theorem Slot.setG_pmode (x : Slot) (n : BitVec 5) (v : Dword) : (x.setG n v).pmode = x.pmode := by
  unfold Slot.setG; split <;> rfl
@[simp] theorem Slot.setG_mode (x : Slot) (n : BitVec 5) (v : Dword) : (x.setG n v).mode = x.mode := by
  unfold Slot.setG; split <;> rfl
@[simp] theorem Slot.setG_trcause (x : Slot) (n : BitVec 5) (v : Dword) : (x.setG n v).trcause = x.trcause := by
  unfold Slot.setG; split <;> rfl
@[simp] theorem Slot.setG_trpc (x : Slot) (n : BitVec 5) (v : Dword) : (x.setG n v).trpc = x.trpc := by
  unfold Slot.setG; split <;> rfl
@[simp] theorem Slot.setG_traddr (x : Slot) (n : BitVec 5) (v : Dword) : (x.setG n v).traddr = x.traddr := by
  unfold Slot.setG; split <;> rfl
@[simp] theorem Slot.setG_trwin (x : Slot) (n : BitVec 5) (v : Dword) : (x.setG n v).trwin = x.trwin := by
  unfold Slot.setG; split <;> rfl
@[simp] theorem Slot.setG_trnpc (x : Slot) (n : BitVec 5) (v : Dword) : (x.setG n v).trnpc = x.trnpc := by
  unfold Slot.setG; split <;> rfl
@[simp] theorem Slot.setG_trstack (x : Slot) (n : BitVec 5) (v : Dword) : (x.setG n v).trstack = x.trstack := by
  unfold Slot.setG; split <;> rfl
@[simp] theorem Slot.setG_timecmp (x : Slot) (n : BitVec 5) (v : Dword) : (x.setG n v).timecmp = x.timecmp := by
  unfold Slot.setG; split <;> rfl
@[simp] theorem Slot.setG_tenant (x : Slot) (n : BitVec 5) (v : Dword) : (x.setG n v).tenant = x.tenant := by
  unfold Slot.setG; split <;> rfl
@[simp] theorem Slot.setG_org (x : Slot) (n : BitVec 5) (v : Dword) : (x.setG n v).org = x.org := by
  unfold Slot.setG; split <;> rfl
@[simp] theorem Slot.setG_sub (x : Slot) (n : BitVec 5) (v : Dword) : (x.setG n v).sub = x.sub := by
  unfold Slot.setG; split <;> rfl
@[simp] theorem Slot.setG_vdirty (x : Slot) (n : BitVec 5) (v : Dword) : (x.setG n v).vdirty = x.vdirty := by
  unfold Slot.setG; split <;> rfl
@[simp] theorem Slot.setG_migthr (x : Slot) (n : BitVec 5) (v : Dword) : (x.setG n v).migthr = x.migthr := by
  unfold Slot.setG; split <;> rfl
@[simp] theorem Slot.setG_statesel (x : Slot) (n : BitVec 5) (v : Dword) : (x.setG n v).statesel = x.statesel := by
  unfold Slot.setG; split <;> rfl
@[simp] theorem Slot.setG_gramstat (x : Slot) (n : BitVec 5) (v : Dword) : (x.setG n v).gramstat = x.gramstat := by
  unfold Slot.setG; split <;> rfl
@[simp] theorem Slot.setG_kvstat (x : Slot) (n : BitVec 5) (v : Dword) : (x.setG n v).kvstat = x.kvstat := by
  unfold Slot.setG; split <;> rfl
@[simp] theorem Slot.setG_joinblk (x : Slot) (n : BitVec 5) (v : Dword) : (x.setG n v).joinblk = x.joinblk := by
  unfold Slot.setG; split <;> rfl
@[simp] theorem Slot.setG_owner (x : Slot) (n : BitVec 5) (v : Dword) : (x.setG n v).owner = x.owner := by
  unfold Slot.setG; split <;> rfl
@[simp] theorem Slot.setG_sw (x : Slot) (n : BitVec 5) (v : Dword) : (x.setG n v).sw = x.sw := by
  unfold Slot.setG; split <;> rfl
@[simp] theorem Slot.setG_prio (x : Slot) (n : BitVec 5) (v : Dword) : (x.setG n v).prio = x.prio := by
  unfold Slot.setG; split <;> rfl
@[simp] theorem Slot.setG_cls (x : Slot) (n : BitVec 5) (v : Dword) : (x.setG n v).cls = x.cls := by
  unfold Slot.setG; split <;> rfl
@[simp] theorem Slot.setG_occ (x : Slot) (n : BitVec 5) (v : Dword) : (x.setG n v).occ = x.occ := by
  unfold Slot.setG; split <;> rfl
@[simp] theorem Slot.setG_outs (x : Slot) (n : BitVec 5) (v : Dword) : (x.setG n v).outs = x.outs := by
  unfold Slot.setG; split <;> rfl
@[simp] theorem Slot.setG_fatals (x : Slot) (n : BitVec 5) (v : Dword) : (x.setG n v).fatals = x.fatals := by
  unfold Slot.setG; split <;> rfl
@[simp] theorem Slot.setG_due (x : Slot) (n : BitVec 5) (v : Dword) : (x.setG n v).due = x.due := by
  unfold Slot.setG; split <;> rfl
@[simp] theorem Slot.setG_async (x : Slot) (n : BitVec 5) (v : Dword) : (x.setG n v).async = x.async := by
  unfold Slot.setG; split <;> rfl
@[simp] theorem Slot.setG_replay (x : Slot) (n : BitVec 5) (v : Dword) : (x.setG n v).replay = x.replay := by
  unfold Slot.setG; split <;> rfl
@[simp] theorem Slot.setG_sleeping (x : Slot) (n : BitVec 5) (v : Dword) : (x.setG n v).sleeping = x.sleeping := by
  unfold Slot.setG; split <;> rfl
@[simp] theorem Slot.setG_gather (x : Slot) (n : BitVec 5) (v : Dword) : (x.setG n v).gather = x.gather := by
  unfold Slot.setG; split <;> rfl
@[simp] theorem Slot.setG_seen (x : Slot) (n : BitVec 5) (v : Dword) : (x.setG n v).seen = x.seen := by
  unfold Slot.setG; split <;> rfl
@[simp] theorem Slot.setG_bar (x : Slot) (n : BitVec 5) (v : Dword) : (x.setG n v).bar = x.bar := by
  unfold Slot.setG; split <;> rfl
@[simp] theorem Slot.setG_purity (x : Slot) (n : BitVec 5) (v : Dword) : (x.setG n v).purity = x.purity := by
  unfold Slot.setG; split <;> rfl
@[simp] theorem Slot.setG_displ (x : Slot) (n : BitVec 5) (v : Dword) : (x.setG n v).displ = x.displ := by
  unfold Slot.setG; split <;> rfl
@[simp] theorem Slot.setG_kvLow (x : Slot) (n : BitVec 5) (v : Dword) : (x.setG n v).kvLow = x.kvLow := by
  unfold Slot.setG; split <;> rfl
@[simp] theorem Slot.setG_owed (x : Slot) (n : BitVec 5) (v : Dword) : (x.setG n v).owed = x.owed := by
  unfold Slot.setG; split <;> rfl
@[simp] theorem Slot.setG_rel (x : Slot) (n : BitVec 5) (v : Dword) : (x.setG n v).rel = x.rel := by
  unfold Slot.setG; split <;> rfl
@[simp] theorem Slot.setG_waitOn (x : Slot) (n : BitVec 5) (v : Dword) : (x.setG n v).waitOn = x.waitOn := by
  unfold Slot.setG; split <;> rfl
@[simp] theorem Slot.setG_sysc (x : Slot) (n : BitVec 5) (v : Dword) : (x.setG n v).sysc = x.sysc := by
  unfold Slot.setG; split <;> rfl
@[simp] theorem Slot.setG_cmd (x : Slot) (n : BitVec 5) (v : Dword) : (x.setG n v).cmd = x.cmd := by
  unfold Slot.setG; split <;> rfl
@[simp] theorem Slot.setG_remote (x : Slot) (n : BitVec 5) (v : Dword) : (x.setG n v).remote = x.remote := by
  unfold Slot.setG; split <;> rfl
@[simp] theorem Slot.setG_mark (x : Slot) (n : BitVec 5) (v : Dword) : (x.setG n v).mark = x.mark := by
  unfold Slot.setG; split <;> rfl
@[simp] theorem Slot.setG_born (x : Slot) (n : BitVec 5) (v : Dword) : (x.setG n v).born = x.born := by
  unfold Slot.setG; split <;> rfl
@[simp] theorem Slot.setG_uid (x : Slot) (n : BitVec 5) (v : Dword) : (x.setG n v).uid = x.uid := by
  unfold Slot.setG; split <;> rfl
@[simp] theorem Slot.setG_seq (x : Slot) (n : BitVec 5) (v : Dword) : (x.setG n v).seq = x.seq := by
  unfold Slot.setG; split <;> rfl

/-! ### Slot.setP -/

@[simp] theorem Slot.setP_g (x : Slot) (n : BitVec 3) (b : Bool) : (x.setP n b).g = x.g := by
  unfold Slot.setP; split <;> rfl
@[simp] theorem Slot.setP_gst (x : Slot) (n : BitVec 3) (b : Bool) : (x.setP n b).gst = x.gst := by
  unfold Slot.setP; split <;> rfl
@[simp] theorem Slot.setP_v (x : Slot) (n : BitVec 3) (b : Bool) : (x.setP n b).v = x.v := by
  unfold Slot.setP; split <;> rfl
@[simp] theorem Slot.setP_vst (x : Slot) (n : BitVec 3) (b : Bool) : (x.setP n b).vst = x.vst := by
  unfold Slot.setP; split <;> rfl
@[simp] theorem Slot.setP_m (x : Slot) (n : BitVec 3) (b : Bool) : (x.setP n b).m = x.m := by
  unfold Slot.setP; split <;> rfl
@[simp] theorem Slot.setP_mst (x : Slot) (n : BitVec 3) (b : Bool) : (x.setP n b).mst = x.mst := by
  unfold Slot.setP; split <;> rfl
@[simp] theorem Slot.setP_pc (x : Slot) (n : BitVec 3) (b : Bool) : (x.setP n b).pc = x.pc := by
  unfold Slot.setP; split <;> rfl
@[simp] theorem Slot.setP_pt (x : Slot) (n : BitVec 3) (b : Bool) : (x.setP n b).pt = x.pt := by
  unfold Slot.setP; split <;> rfl
@[simp] theorem Slot.setP_frozen (x : Slot) (n : BitVec 3) (b : Bool) : (x.setP n b).frozen = x.frozen := by
  unfold Slot.setP; split <;> rfl
@[simp] theorem Slot.setP_pmode (x : Slot) (n : BitVec 3) (b : Bool) : (x.setP n b).pmode = x.pmode := by
  unfold Slot.setP; split <;> rfl
@[simp] theorem Slot.setP_mode (x : Slot) (n : BitVec 3) (b : Bool) : (x.setP n b).mode = x.mode := by
  unfold Slot.setP; split <;> rfl
@[simp] theorem Slot.setP_trcause (x : Slot) (n : BitVec 3) (b : Bool) : (x.setP n b).trcause = x.trcause := by
  unfold Slot.setP; split <;> rfl
@[simp] theorem Slot.setP_trpc (x : Slot) (n : BitVec 3) (b : Bool) : (x.setP n b).trpc = x.trpc := by
  unfold Slot.setP; split <;> rfl
@[simp] theorem Slot.setP_traddr (x : Slot) (n : BitVec 3) (b : Bool) : (x.setP n b).traddr = x.traddr := by
  unfold Slot.setP; split <;> rfl
@[simp] theorem Slot.setP_trwin (x : Slot) (n : BitVec 3) (b : Bool) : (x.setP n b).trwin = x.trwin := by
  unfold Slot.setP; split <;> rfl
@[simp] theorem Slot.setP_trnpc (x : Slot) (n : BitVec 3) (b : Bool) : (x.setP n b).trnpc = x.trnpc := by
  unfold Slot.setP; split <;> rfl
@[simp] theorem Slot.setP_trstack (x : Slot) (n : BitVec 3) (b : Bool) : (x.setP n b).trstack = x.trstack := by
  unfold Slot.setP; split <;> rfl
@[simp] theorem Slot.setP_timecmp (x : Slot) (n : BitVec 3) (b : Bool) : (x.setP n b).timecmp = x.timecmp := by
  unfold Slot.setP; split <;> rfl
@[simp] theorem Slot.setP_tenant (x : Slot) (n : BitVec 3) (b : Bool) : (x.setP n b).tenant = x.tenant := by
  unfold Slot.setP; split <;> rfl
@[simp] theorem Slot.setP_org (x : Slot) (n : BitVec 3) (b : Bool) : (x.setP n b).org = x.org := by
  unfold Slot.setP; split <;> rfl
@[simp] theorem Slot.setP_sub (x : Slot) (n : BitVec 3) (b : Bool) : (x.setP n b).sub = x.sub := by
  unfold Slot.setP; split <;> rfl
@[simp] theorem Slot.setP_vdirty (x : Slot) (n : BitVec 3) (b : Bool) : (x.setP n b).vdirty = x.vdirty := by
  unfold Slot.setP; split <;> rfl
@[simp] theorem Slot.setP_migthr (x : Slot) (n : BitVec 3) (b : Bool) : (x.setP n b).migthr = x.migthr := by
  unfold Slot.setP; split <;> rfl
@[simp] theorem Slot.setP_statesel (x : Slot) (n : BitVec 3) (b : Bool) : (x.setP n b).statesel = x.statesel := by
  unfold Slot.setP; split <;> rfl
@[simp] theorem Slot.setP_gramstat (x : Slot) (n : BitVec 3) (b : Bool) : (x.setP n b).gramstat = x.gramstat := by
  unfold Slot.setP; split <;> rfl
@[simp] theorem Slot.setP_kvstat (x : Slot) (n : BitVec 3) (b : Bool) : (x.setP n b).kvstat = x.kvstat := by
  unfold Slot.setP; split <;> rfl
@[simp] theorem Slot.setP_joinblk (x : Slot) (n : BitVec 3) (b : Bool) : (x.setP n b).joinblk = x.joinblk := by
  unfold Slot.setP; split <;> rfl
@[simp] theorem Slot.setP_owner (x : Slot) (n : BitVec 3) (b : Bool) : (x.setP n b).owner = x.owner := by
  unfold Slot.setP; split <;> rfl
@[simp] theorem Slot.setP_sw (x : Slot) (n : BitVec 3) (b : Bool) : (x.setP n b).sw = x.sw := by
  unfold Slot.setP; split <;> rfl
@[simp] theorem Slot.setP_prio (x : Slot) (n : BitVec 3) (b : Bool) : (x.setP n b).prio = x.prio := by
  unfold Slot.setP; split <;> rfl
@[simp] theorem Slot.setP_cls (x : Slot) (n : BitVec 3) (b : Bool) : (x.setP n b).cls = x.cls := by
  unfold Slot.setP; split <;> rfl
@[simp] theorem Slot.setP_occ (x : Slot) (n : BitVec 3) (b : Bool) : (x.setP n b).occ = x.occ := by
  unfold Slot.setP; split <;> rfl
@[simp] theorem Slot.setP_outs (x : Slot) (n : BitVec 3) (b : Bool) : (x.setP n b).outs = x.outs := by
  unfold Slot.setP; split <;> rfl
@[simp] theorem Slot.setP_fatals (x : Slot) (n : BitVec 3) (b : Bool) : (x.setP n b).fatals = x.fatals := by
  unfold Slot.setP; split <;> rfl
@[simp] theorem Slot.setP_due (x : Slot) (n : BitVec 3) (b : Bool) : (x.setP n b).due = x.due := by
  unfold Slot.setP; split <;> rfl
@[simp] theorem Slot.setP_async (x : Slot) (n : BitVec 3) (b : Bool) : (x.setP n b).async = x.async := by
  unfold Slot.setP; split <;> rfl
@[simp] theorem Slot.setP_replay (x : Slot) (n : BitVec 3) (b : Bool) : (x.setP n b).replay = x.replay := by
  unfold Slot.setP; split <;> rfl
@[simp] theorem Slot.setP_sleeping (x : Slot) (n : BitVec 3) (b : Bool) : (x.setP n b).sleeping = x.sleeping := by
  unfold Slot.setP; split <;> rfl
@[simp] theorem Slot.setP_gather (x : Slot) (n : BitVec 3) (b : Bool) : (x.setP n b).gather = x.gather := by
  unfold Slot.setP; split <;> rfl
@[simp] theorem Slot.setP_seen (x : Slot) (n : BitVec 3) (b : Bool) : (x.setP n b).seen = x.seen := by
  unfold Slot.setP; split <;> rfl
@[simp] theorem Slot.setP_bar (x : Slot) (n : BitVec 3) (b : Bool) : (x.setP n b).bar = x.bar := by
  unfold Slot.setP; split <;> rfl
@[simp] theorem Slot.setP_purity (x : Slot) (n : BitVec 3) (b : Bool) : (x.setP n b).purity = x.purity := by
  unfold Slot.setP; split <;> rfl
@[simp] theorem Slot.setP_displ (x : Slot) (n : BitVec 3) (b : Bool) : (x.setP n b).displ = x.displ := by
  unfold Slot.setP; split <;> rfl
@[simp] theorem Slot.setP_kvLow (x : Slot) (n : BitVec 3) (b : Bool) : (x.setP n b).kvLow = x.kvLow := by
  unfold Slot.setP; split <;> rfl
@[simp] theorem Slot.setP_owed (x : Slot) (n : BitVec 3) (b : Bool) : (x.setP n b).owed = x.owed := by
  unfold Slot.setP; split <;> rfl
@[simp] theorem Slot.setP_rel (x : Slot) (n : BitVec 3) (b : Bool) : (x.setP n b).rel = x.rel := by
  unfold Slot.setP; split <;> rfl
@[simp] theorem Slot.setP_waitOn (x : Slot) (n : BitVec 3) (b : Bool) : (x.setP n b).waitOn = x.waitOn := by
  unfold Slot.setP; split <;> rfl
@[simp] theorem Slot.setP_sysc (x : Slot) (n : BitVec 3) (b : Bool) : (x.setP n b).sysc = x.sysc := by
  unfold Slot.setP; split <;> rfl
@[simp] theorem Slot.setP_cmd (x : Slot) (n : BitVec 3) (b : Bool) : (x.setP n b).cmd = x.cmd := by
  unfold Slot.setP; split <;> rfl
@[simp] theorem Slot.setP_remote (x : Slot) (n : BitVec 3) (b : Bool) : (x.setP n b).remote = x.remote := by
  unfold Slot.setP; split <;> rfl
@[simp] theorem Slot.setP_mark (x : Slot) (n : BitVec 3) (b : Bool) : (x.setP n b).mark = x.mark := by
  unfold Slot.setP; split <;> rfl
@[simp] theorem Slot.setP_born (x : Slot) (n : BitVec 3) (b : Bool) : (x.setP n b).born = x.born := by
  unfold Slot.setP; split <;> rfl
@[simp] theorem Slot.setP_uid (x : Slot) (n : BitVec 3) (b : Bool) : (x.setP n b).uid = x.uid := by
  unfold Slot.setP; split <;> rfl
@[simp] theorem Slot.setP_seq (x : Slot) (n : BitVec 3) (b : Bool) : (x.setP n b).seq = x.seq := by
  unfold Slot.setP; split <;> rfl

/-! ### Slot.setV -/

@[simp] theorem Slot.setV_g (x : Slot) (n : BitVec 3) (v : BitVec 4096) : (x.setV n v).g = x.g := rfl
@[simp] theorem Slot.setV_gst (x : Slot) (n : BitVec 3) (v : BitVec 4096) : (x.setV n v).gst = x.gst := rfl
@[simp] theorem Slot.setV_m (x : Slot) (n : BitVec 3) (v : BitVec 4096) : (x.setV n v).m = x.m := rfl
@[simp] theorem Slot.setV_mst (x : Slot) (n : BitVec 3) (v : BitVec 4096) : (x.setV n v).mst = x.mst := rfl
@[simp] theorem Slot.setV_p (x : Slot) (n : BitVec 3) (v : BitVec 4096) : (x.setV n v).p = x.p := rfl
@[simp] theorem Slot.setV_pc (x : Slot) (n : BitVec 3) (v : BitVec 4096) : (x.setV n v).pc = x.pc := rfl
@[simp] theorem Slot.setV_pt (x : Slot) (n : BitVec 3) (v : BitVec 4096) : (x.setV n v).pt = x.pt := rfl
@[simp] theorem Slot.setV_frozen (x : Slot) (n : BitVec 3) (v : BitVec 4096) : (x.setV n v).frozen = x.frozen := rfl
@[simp] theorem Slot.setV_pmode (x : Slot) (n : BitVec 3) (v : BitVec 4096) : (x.setV n v).pmode = x.pmode := rfl
@[simp] theorem Slot.setV_mode (x : Slot) (n : BitVec 3) (v : BitVec 4096) : (x.setV n v).mode = x.mode := rfl
@[simp] theorem Slot.setV_trcause (x : Slot) (n : BitVec 3) (v : BitVec 4096) : (x.setV n v).trcause = x.trcause := rfl
@[simp] theorem Slot.setV_trpc (x : Slot) (n : BitVec 3) (v : BitVec 4096) : (x.setV n v).trpc = x.trpc := rfl
@[simp] theorem Slot.setV_traddr (x : Slot) (n : BitVec 3) (v : BitVec 4096) : (x.setV n v).traddr = x.traddr := rfl
@[simp] theorem Slot.setV_trwin (x : Slot) (n : BitVec 3) (v : BitVec 4096) : (x.setV n v).trwin = x.trwin := rfl
@[simp] theorem Slot.setV_trnpc (x : Slot) (n : BitVec 3) (v : BitVec 4096) : (x.setV n v).trnpc = x.trnpc := rfl
@[simp] theorem Slot.setV_trstack (x : Slot) (n : BitVec 3) (v : BitVec 4096) : (x.setV n v).trstack = x.trstack := rfl
@[simp] theorem Slot.setV_timecmp (x : Slot) (n : BitVec 3) (v : BitVec 4096) : (x.setV n v).timecmp = x.timecmp := rfl
@[simp] theorem Slot.setV_tenant (x : Slot) (n : BitVec 3) (v : BitVec 4096) : (x.setV n v).tenant = x.tenant := rfl
@[simp] theorem Slot.setV_org (x : Slot) (n : BitVec 3) (v : BitVec 4096) : (x.setV n v).org = x.org := rfl
@[simp] theorem Slot.setV_sub (x : Slot) (n : BitVec 3) (v : BitVec 4096) : (x.setV n v).sub = x.sub := rfl
@[simp] theorem Slot.setV_dirty (x : Slot) (n : BitVec 3) (v : BitVec 4096) : (x.setV n v).dirty = x.dirty := rfl
@[simp] theorem Slot.setV_migthr (x : Slot) (n : BitVec 3) (v : BitVec 4096) : (x.setV n v).migthr = x.migthr := rfl
@[simp] theorem Slot.setV_statesel (x : Slot) (n : BitVec 3) (v : BitVec 4096) : (x.setV n v).statesel = x.statesel := rfl
@[simp] theorem Slot.setV_gramstat (x : Slot) (n : BitVec 3) (v : BitVec 4096) : (x.setV n v).gramstat = x.gramstat := rfl
@[simp] theorem Slot.setV_kvstat (x : Slot) (n : BitVec 3) (v : BitVec 4096) : (x.setV n v).kvstat = x.kvstat := rfl
@[simp] theorem Slot.setV_joinblk (x : Slot) (n : BitVec 3) (v : BitVec 4096) : (x.setV n v).joinblk = x.joinblk := rfl
@[simp] theorem Slot.setV_owner (x : Slot) (n : BitVec 3) (v : BitVec 4096) : (x.setV n v).owner = x.owner := rfl
@[simp] theorem Slot.setV_sw (x : Slot) (n : BitVec 3) (v : BitVec 4096) : (x.setV n v).sw = x.sw := rfl
@[simp] theorem Slot.setV_prio (x : Slot) (n : BitVec 3) (v : BitVec 4096) : (x.setV n v).prio = x.prio := rfl
@[simp] theorem Slot.setV_cls (x : Slot) (n : BitVec 3) (v : BitVec 4096) : (x.setV n v).cls = x.cls := rfl
@[simp] theorem Slot.setV_occ (x : Slot) (n : BitVec 3) (v : BitVec 4096) : (x.setV n v).occ = x.occ := rfl
@[simp] theorem Slot.setV_outs (x : Slot) (n : BitVec 3) (v : BitVec 4096) : (x.setV n v).outs = x.outs := rfl
@[simp] theorem Slot.setV_fatals (x : Slot) (n : BitVec 3) (v : BitVec 4096) : (x.setV n v).fatals = x.fatals := rfl
@[simp] theorem Slot.setV_due (x : Slot) (n : BitVec 3) (v : BitVec 4096) : (x.setV n v).due = x.due := rfl
@[simp] theorem Slot.setV_async (x : Slot) (n : BitVec 3) (v : BitVec 4096) : (x.setV n v).async = x.async := rfl
@[simp] theorem Slot.setV_replay (x : Slot) (n : BitVec 3) (v : BitVec 4096) : (x.setV n v).replay = x.replay := rfl
@[simp] theorem Slot.setV_sleeping (x : Slot) (n : BitVec 3) (v : BitVec 4096) : (x.setV n v).sleeping = x.sleeping := rfl
@[simp] theorem Slot.setV_gather (x : Slot) (n : BitVec 3) (v : BitVec 4096) : (x.setV n v).gather = x.gather := rfl
@[simp] theorem Slot.setV_seen (x : Slot) (n : BitVec 3) (v : BitVec 4096) : (x.setV n v).seen = x.seen := rfl
@[simp] theorem Slot.setV_bar (x : Slot) (n : BitVec 3) (v : BitVec 4096) : (x.setV n v).bar = x.bar := rfl
@[simp] theorem Slot.setV_purity (x : Slot) (n : BitVec 3) (v : BitVec 4096) : (x.setV n v).purity = x.purity := rfl
@[simp] theorem Slot.setV_displ (x : Slot) (n : BitVec 3) (v : BitVec 4096) : (x.setV n v).displ = x.displ := rfl
@[simp] theorem Slot.setV_kvLow (x : Slot) (n : BitVec 3) (v : BitVec 4096) : (x.setV n v).kvLow = x.kvLow := rfl
@[simp] theorem Slot.setV_owed (x : Slot) (n : BitVec 3) (v : BitVec 4096) : (x.setV n v).owed = x.owed := rfl
@[simp] theorem Slot.setV_rel (x : Slot) (n : BitVec 3) (v : BitVec 4096) : (x.setV n v).rel = x.rel := rfl
@[simp] theorem Slot.setV_waitOn (x : Slot) (n : BitVec 3) (v : BitVec 4096) : (x.setV n v).waitOn = x.waitOn := rfl
@[simp] theorem Slot.setV_sysc (x : Slot) (n : BitVec 3) (v : BitVec 4096) : (x.setV n v).sysc = x.sysc := rfl
@[simp] theorem Slot.setV_cmd (x : Slot) (n : BitVec 3) (v : BitVec 4096) : (x.setV n v).cmd = x.cmd := rfl
@[simp] theorem Slot.setV_remote (x : Slot) (n : BitVec 3) (v : BitVec 4096) : (x.setV n v).remote = x.remote := rfl
@[simp] theorem Slot.setV_mark (x : Slot) (n : BitVec 3) (v : BitVec 4096) : (x.setV n v).mark = x.mark := rfl
@[simp] theorem Slot.setV_born (x : Slot) (n : BitVec 3) (v : BitVec 4096) : (x.setV n v).born = x.born := rfl
@[simp] theorem Slot.setV_uid (x : Slot) (n : BitVec 3) (v : BitVec 4096) : (x.setV n v).uid = x.uid := rfl
@[simp] theorem Slot.setV_seq (x : Slot) (n : BitVec 3) (v : BitVec 4096) : (x.setV n v).seq = x.seq := rfl

/-! ### Slot.setM -/

@[simp] theorem Slot.setM_g (x : Slot) (n : BitVec 2) (v : BitVec 512) : (x.setM n v).g = x.g := by
  unfold Slot.setM; split <;> rfl
@[simp] theorem Slot.setM_gst (x : Slot) (n : BitVec 2) (v : BitVec 512) : (x.setM n v).gst = x.gst := by
  unfold Slot.setM; split <;> rfl
@[simp] theorem Slot.setM_v (x : Slot) (n : BitVec 2) (v : BitVec 512) : (x.setM n v).v = x.v := by
  unfold Slot.setM; split <;> rfl
@[simp] theorem Slot.setM_vst (x : Slot) (n : BitVec 2) (v : BitVec 512) : (x.setM n v).vst = x.vst := by
  unfold Slot.setM; split <;> rfl
@[simp] theorem Slot.setM_p (x : Slot) (n : BitVec 2) (v : BitVec 512) : (x.setM n v).p = x.p := by
  unfold Slot.setM; split <;> rfl
@[simp] theorem Slot.setM_pc (x : Slot) (n : BitVec 2) (v : BitVec 512) : (x.setM n v).pc = x.pc := by
  unfold Slot.setM; split <;> rfl
@[simp] theorem Slot.setM_pt (x : Slot) (n : BitVec 2) (v : BitVec 512) : (x.setM n v).pt = x.pt := by
  unfold Slot.setM; split <;> rfl
@[simp] theorem Slot.setM_frozen (x : Slot) (n : BitVec 2) (v : BitVec 512) : (x.setM n v).frozen = x.frozen := by
  unfold Slot.setM; split <;> rfl
@[simp] theorem Slot.setM_pmode (x : Slot) (n : BitVec 2) (v : BitVec 512) : (x.setM n v).pmode = x.pmode := by
  unfold Slot.setM; split <;> rfl
@[simp] theorem Slot.setM_mode (x : Slot) (n : BitVec 2) (v : BitVec 512) : (x.setM n v).mode = x.mode := by
  unfold Slot.setM; split <;> rfl
@[simp] theorem Slot.setM_trcause (x : Slot) (n : BitVec 2) (v : BitVec 512) : (x.setM n v).trcause = x.trcause := by
  unfold Slot.setM; split <;> rfl
@[simp] theorem Slot.setM_trpc (x : Slot) (n : BitVec 2) (v : BitVec 512) : (x.setM n v).trpc = x.trpc := by
  unfold Slot.setM; split <;> rfl
@[simp] theorem Slot.setM_traddr (x : Slot) (n : BitVec 2) (v : BitVec 512) : (x.setM n v).traddr = x.traddr := by
  unfold Slot.setM; split <;> rfl
@[simp] theorem Slot.setM_trwin (x : Slot) (n : BitVec 2) (v : BitVec 512) : (x.setM n v).trwin = x.trwin := by
  unfold Slot.setM; split <;> rfl
@[simp] theorem Slot.setM_trnpc (x : Slot) (n : BitVec 2) (v : BitVec 512) : (x.setM n v).trnpc = x.trnpc := by
  unfold Slot.setM; split <;> rfl
@[simp] theorem Slot.setM_trstack (x : Slot) (n : BitVec 2) (v : BitVec 512) : (x.setM n v).trstack = x.trstack := by
  unfold Slot.setM; split <;> rfl
@[simp] theorem Slot.setM_timecmp (x : Slot) (n : BitVec 2) (v : BitVec 512) : (x.setM n v).timecmp = x.timecmp := by
  unfold Slot.setM; split <;> rfl
@[simp] theorem Slot.setM_tenant (x : Slot) (n : BitVec 2) (v : BitVec 512) : (x.setM n v).tenant = x.tenant := by
  unfold Slot.setM; split <;> rfl
@[simp] theorem Slot.setM_org (x : Slot) (n : BitVec 2) (v : BitVec 512) : (x.setM n v).org = x.org := by
  unfold Slot.setM; split <;> rfl
@[simp] theorem Slot.setM_sub (x : Slot) (n : BitVec 2) (v : BitVec 512) : (x.setM n v).sub = x.sub := by
  unfold Slot.setM; split <;> rfl
@[simp] theorem Slot.setM_dirty (x : Slot) (n : BitVec 2) (v : BitVec 512) : (x.setM n v).dirty = x.dirty := by
  unfold Slot.setM; split <;> rfl
@[simp] theorem Slot.setM_migthr (x : Slot) (n : BitVec 2) (v : BitVec 512) : (x.setM n v).migthr = x.migthr := by
  unfold Slot.setM; split <;> rfl
@[simp] theorem Slot.setM_statesel (x : Slot) (n : BitVec 2) (v : BitVec 512) : (x.setM n v).statesel = x.statesel := by
  unfold Slot.setM; split <;> rfl
@[simp] theorem Slot.setM_gramstat (x : Slot) (n : BitVec 2) (v : BitVec 512) : (x.setM n v).gramstat = x.gramstat := by
  unfold Slot.setM; split <;> rfl
@[simp] theorem Slot.setM_kvstat (x : Slot) (n : BitVec 2) (v : BitVec 512) : (x.setM n v).kvstat = x.kvstat := by
  unfold Slot.setM; split <;> rfl
@[simp] theorem Slot.setM_joinblk (x : Slot) (n : BitVec 2) (v : BitVec 512) : (x.setM n v).joinblk = x.joinblk := by
  unfold Slot.setM; split <;> rfl
@[simp] theorem Slot.setM_owner (x : Slot) (n : BitVec 2) (v : BitVec 512) : (x.setM n v).owner = x.owner := by
  unfold Slot.setM; split <;> rfl
@[simp] theorem Slot.setM_sw (x : Slot) (n : BitVec 2) (v : BitVec 512) : (x.setM n v).sw = x.sw := by
  unfold Slot.setM; split <;> rfl
@[simp] theorem Slot.setM_prio (x : Slot) (n : BitVec 2) (v : BitVec 512) : (x.setM n v).prio = x.prio := by
  unfold Slot.setM; split <;> rfl
@[simp] theorem Slot.setM_cls (x : Slot) (n : BitVec 2) (v : BitVec 512) : (x.setM n v).cls = x.cls := by
  unfold Slot.setM; split <;> rfl
@[simp] theorem Slot.setM_occ (x : Slot) (n : BitVec 2) (v : BitVec 512) : (x.setM n v).occ = x.occ := by
  unfold Slot.setM; split <;> rfl
@[simp] theorem Slot.setM_outs (x : Slot) (n : BitVec 2) (v : BitVec 512) : (x.setM n v).outs = x.outs := by
  unfold Slot.setM; split <;> rfl
@[simp] theorem Slot.setM_fatals (x : Slot) (n : BitVec 2) (v : BitVec 512) : (x.setM n v).fatals = x.fatals := by
  unfold Slot.setM; split <;> rfl
@[simp] theorem Slot.setM_due (x : Slot) (n : BitVec 2) (v : BitVec 512) : (x.setM n v).due = x.due := by
  unfold Slot.setM; split <;> rfl
@[simp] theorem Slot.setM_async (x : Slot) (n : BitVec 2) (v : BitVec 512) : (x.setM n v).async = x.async := by
  unfold Slot.setM; split <;> rfl
@[simp] theorem Slot.setM_replay (x : Slot) (n : BitVec 2) (v : BitVec 512) : (x.setM n v).replay = x.replay := by
  unfold Slot.setM; split <;> rfl
@[simp] theorem Slot.setM_sleeping (x : Slot) (n : BitVec 2) (v : BitVec 512) : (x.setM n v).sleeping = x.sleeping := by
  unfold Slot.setM; split <;> rfl
@[simp] theorem Slot.setM_gather (x : Slot) (n : BitVec 2) (v : BitVec 512) : (x.setM n v).gather = x.gather := by
  unfold Slot.setM; split <;> rfl
@[simp] theorem Slot.setM_seen (x : Slot) (n : BitVec 2) (v : BitVec 512) : (x.setM n v).seen = x.seen := by
  unfold Slot.setM; split <;> rfl
@[simp] theorem Slot.setM_bar (x : Slot) (n : BitVec 2) (v : BitVec 512) : (x.setM n v).bar = x.bar := by
  unfold Slot.setM; split <;> rfl
@[simp] theorem Slot.setM_purity (x : Slot) (n : BitVec 2) (v : BitVec 512) : (x.setM n v).purity = x.purity := by
  unfold Slot.setM; split <;> rfl
@[simp] theorem Slot.setM_displ (x : Slot) (n : BitVec 2) (v : BitVec 512) : (x.setM n v).displ = x.displ := by
  unfold Slot.setM; split <;> rfl
@[simp] theorem Slot.setM_kvLow (x : Slot) (n : BitVec 2) (v : BitVec 512) : (x.setM n v).kvLow = x.kvLow := by
  unfold Slot.setM; split <;> rfl
@[simp] theorem Slot.setM_owed (x : Slot) (n : BitVec 2) (v : BitVec 512) : (x.setM n v).owed = x.owed := by
  unfold Slot.setM; split <;> rfl
@[simp] theorem Slot.setM_rel (x : Slot) (n : BitVec 2) (v : BitVec 512) : (x.setM n v).rel = x.rel := by
  unfold Slot.setM; split <;> rfl
@[simp] theorem Slot.setM_waitOn (x : Slot) (n : BitVec 2) (v : BitVec 512) : (x.setM n v).waitOn = x.waitOn := by
  unfold Slot.setM; split <;> rfl
@[simp] theorem Slot.setM_sysc (x : Slot) (n : BitVec 2) (v : BitVec 512) : (x.setM n v).sysc = x.sysc := by
  unfold Slot.setM; split <;> rfl
@[simp] theorem Slot.setM_cmd (x : Slot) (n : BitVec 2) (v : BitVec 512) : (x.setM n v).cmd = x.cmd := by
  unfold Slot.setM; split <;> rfl
@[simp] theorem Slot.setM_remote (x : Slot) (n : BitVec 2) (v : BitVec 512) : (x.setM n v).remote = x.remote := by
  unfold Slot.setM; split <;> rfl
@[simp] theorem Slot.setM_mark (x : Slot) (n : BitVec 2) (v : BitVec 512) : (x.setM n v).mark = x.mark := by
  unfold Slot.setM; split <;> rfl
@[simp] theorem Slot.setM_born (x : Slot) (n : BitVec 2) (v : BitVec 512) : (x.setM n v).born = x.born := by
  unfold Slot.setM; split <;> rfl
@[simp] theorem Slot.setM_uid (x : Slot) (n : BitVec 2) (v : BitVec 512) : (x.setM n v).uid = x.uid := by
  unfold Slot.setM; split <;> rfl
@[simp] theorem Slot.setM_seq (x : Slot) (n : BitVec 2) (v : BitVec 512) : (x.setM n v).seq = x.seq := by
  unfold Slot.setM; split <;> rfl

/-! ### Slot.mark_ -/

@[simp] theorem Slot.mark_g (x : Slot) (r : RegRef) (st : RegState) : (x.mark_ r st).g = x.g := by
  cases r <;> simp only [Slot.mark_] <;> (try split) <;> rfl
@[simp] theorem Slot.mark_v (x : Slot) (r : RegRef) (st : RegState) : (x.mark_ r st).v = x.v := by
  cases r <;> simp only [Slot.mark_] <;> (try split) <;> rfl
@[simp] theorem Slot.mark_m (x : Slot) (r : RegRef) (st : RegState) : (x.mark_ r st).m = x.m := by
  cases r <;> simp only [Slot.mark_] <;> (try split) <;> rfl
@[simp] theorem Slot.mark_p (x : Slot) (r : RegRef) (st : RegState) : (x.mark_ r st).p = x.p := by
  cases r <;> simp only [Slot.mark_] <;> (try split) <;> rfl
@[simp] theorem Slot.mark_pc (x : Slot) (r : RegRef) (st : RegState) : (x.mark_ r st).pc = x.pc := by
  cases r <;> simp only [Slot.mark_] <;> (try split) <;> rfl
@[simp] theorem Slot.mark_pt (x : Slot) (r : RegRef) (st : RegState) : (x.mark_ r st).pt = x.pt := by
  cases r <;> simp only [Slot.mark_] <;> (try split) <;> rfl
@[simp] theorem Slot.mark_frozen (x : Slot) (r : RegRef) (st : RegState) : (x.mark_ r st).frozen = x.frozen := by
  cases r <;> simp only [Slot.mark_] <;> (try split) <;> rfl
@[simp] theorem Slot.mark_pmode (x : Slot) (r : RegRef) (st : RegState) : (x.mark_ r st).pmode = x.pmode := by
  cases r <;> simp only [Slot.mark_] <;> (try split) <;> rfl
@[simp] theorem Slot.mark_mode (x : Slot) (r : RegRef) (st : RegState) : (x.mark_ r st).mode = x.mode := by
  cases r <;> simp only [Slot.mark_] <;> (try split) <;> rfl
@[simp] theorem Slot.mark_trcause (x : Slot) (r : RegRef) (st : RegState) : (x.mark_ r st).trcause = x.trcause := by
  cases r <;> simp only [Slot.mark_] <;> (try split) <;> rfl
@[simp] theorem Slot.mark_trpc (x : Slot) (r : RegRef) (st : RegState) : (x.mark_ r st).trpc = x.trpc := by
  cases r <;> simp only [Slot.mark_] <;> (try split) <;> rfl
@[simp] theorem Slot.mark_traddr (x : Slot) (r : RegRef) (st : RegState) : (x.mark_ r st).traddr = x.traddr := by
  cases r <;> simp only [Slot.mark_] <;> (try split) <;> rfl
@[simp] theorem Slot.mark_trwin (x : Slot) (r : RegRef) (st : RegState) : (x.mark_ r st).trwin = x.trwin := by
  cases r <;> simp only [Slot.mark_] <;> (try split) <;> rfl
@[simp] theorem Slot.mark_trnpc (x : Slot) (r : RegRef) (st : RegState) : (x.mark_ r st).trnpc = x.trnpc := by
  cases r <;> simp only [Slot.mark_] <;> (try split) <;> rfl
@[simp] theorem Slot.mark_trstack (x : Slot) (r : RegRef) (st : RegState) : (x.mark_ r st).trstack = x.trstack := by
  cases r <;> simp only [Slot.mark_] <;> (try split) <;> rfl
@[simp] theorem Slot.mark_timecmp (x : Slot) (r : RegRef) (st : RegState) : (x.mark_ r st).timecmp = x.timecmp := by
  cases r <;> simp only [Slot.mark_] <;> (try split) <;> rfl
@[simp] theorem Slot.mark_tenant (x : Slot) (r : RegRef) (st : RegState) : (x.mark_ r st).tenant = x.tenant := by
  cases r <;> simp only [Slot.mark_] <;> (try split) <;> rfl
@[simp] theorem Slot.mark_org (x : Slot) (r : RegRef) (st : RegState) : (x.mark_ r st).org = x.org := by
  cases r <;> simp only [Slot.mark_] <;> (try split) <;> rfl
@[simp] theorem Slot.mark_sub (x : Slot) (r : RegRef) (st : RegState) : (x.mark_ r st).sub = x.sub := by
  cases r <;> simp only [Slot.mark_] <;> (try split) <;> rfl
@[simp] theorem Slot.mark_dirty (x : Slot) (r : RegRef) (st : RegState) : (x.mark_ r st).dirty = x.dirty := by
  cases r <;> simp only [Slot.mark_] <;> (try split) <;> rfl
@[simp] theorem Slot.mark_vdirty (x : Slot) (r : RegRef) (st : RegState) : (x.mark_ r st).vdirty = x.vdirty := by
  cases r <;> simp only [Slot.mark_] <;> (try split) <;> rfl
@[simp] theorem Slot.mark_migthr (x : Slot) (r : RegRef) (st : RegState) : (x.mark_ r st).migthr = x.migthr := by
  cases r <;> simp only [Slot.mark_] <;> (try split) <;> rfl
@[simp] theorem Slot.mark_statesel (x : Slot) (r : RegRef) (st : RegState) : (x.mark_ r st).statesel = x.statesel := by
  cases r <;> simp only [Slot.mark_] <;> (try split) <;> rfl
@[simp] theorem Slot.mark_gramstat (x : Slot) (r : RegRef) (st : RegState) : (x.mark_ r st).gramstat = x.gramstat := by
  cases r <;> simp only [Slot.mark_] <;> (try split) <;> rfl
@[simp] theorem Slot.mark_kvstat (x : Slot) (r : RegRef) (st : RegState) : (x.mark_ r st).kvstat = x.kvstat := by
  cases r <;> simp only [Slot.mark_] <;> (try split) <;> rfl
@[simp] theorem Slot.mark_joinblk (x : Slot) (r : RegRef) (st : RegState) : (x.mark_ r st).joinblk = x.joinblk := by
  cases r <;> simp only [Slot.mark_] <;> (try split) <;> rfl
@[simp] theorem Slot.mark_owner (x : Slot) (r : RegRef) (st : RegState) : (x.mark_ r st).owner = x.owner := by
  cases r <;> simp only [Slot.mark_] <;> (try split) <;> rfl
@[simp] theorem Slot.mark_sw (x : Slot) (r : RegRef) (st : RegState) : (x.mark_ r st).sw = x.sw := by
  cases r <;> simp only [Slot.mark_] <;> (try split) <;> rfl
@[simp] theorem Slot.mark_prio (x : Slot) (r : RegRef) (st : RegState) : (x.mark_ r st).prio = x.prio := by
  cases r <;> simp only [Slot.mark_] <;> (try split) <;> rfl
@[simp] theorem Slot.mark_cls (x : Slot) (r : RegRef) (st : RegState) : (x.mark_ r st).cls = x.cls := by
  cases r <;> simp only [Slot.mark_] <;> (try split) <;> rfl
@[simp] theorem Slot.mark_occ (x : Slot) (r : RegRef) (st : RegState) : (x.mark_ r st).occ = x.occ := by
  cases r <;> simp only [Slot.mark_] <;> (try split) <;> rfl
@[simp] theorem Slot.mark_outs (x : Slot) (r : RegRef) (st : RegState) : (x.mark_ r st).outs = x.outs := by
  cases r <;> simp only [Slot.mark_] <;> (try split) <;> rfl
@[simp] theorem Slot.mark_fatals (x : Slot) (r : RegRef) (st : RegState) : (x.mark_ r st).fatals = x.fatals := by
  cases r <;> simp only [Slot.mark_] <;> (try split) <;> rfl
@[simp] theorem Slot.mark_due (x : Slot) (r : RegRef) (st : RegState) : (x.mark_ r st).due = x.due := by
  cases r <;> simp only [Slot.mark_] <;> (try split) <;> rfl
@[simp] theorem Slot.mark_async (x : Slot) (r : RegRef) (st : RegState) : (x.mark_ r st).async = x.async := by
  cases r <;> simp only [Slot.mark_] <;> (try split) <;> rfl
@[simp] theorem Slot.mark_replay (x : Slot) (r : RegRef) (st : RegState) : (x.mark_ r st).replay = x.replay := by
  cases r <;> simp only [Slot.mark_] <;> (try split) <;> rfl
@[simp] theorem Slot.mark_sleeping (x : Slot) (r : RegRef) (st : RegState) : (x.mark_ r st).sleeping = x.sleeping := by
  cases r <;> simp only [Slot.mark_] <;> (try split) <;> rfl
@[simp] theorem Slot.mark_gather (x : Slot) (r : RegRef) (st : RegState) : (x.mark_ r st).gather = x.gather := by
  cases r <;> simp only [Slot.mark_] <;> (try split) <;> rfl
@[simp] theorem Slot.mark_seen (x : Slot) (r : RegRef) (st : RegState) : (x.mark_ r st).seen = x.seen := by
  cases r <;> simp only [Slot.mark_] <;> (try split) <;> rfl
@[simp] theorem Slot.mark_bar (x : Slot) (r : RegRef) (st : RegState) : (x.mark_ r st).bar = x.bar := by
  cases r <;> simp only [Slot.mark_] <;> (try split) <;> rfl
@[simp] theorem Slot.mark_purity (x : Slot) (r : RegRef) (st : RegState) : (x.mark_ r st).purity = x.purity := by
  cases r <;> simp only [Slot.mark_] <;> (try split) <;> rfl
@[simp] theorem Slot.mark_displ (x : Slot) (r : RegRef) (st : RegState) : (x.mark_ r st).displ = x.displ := by
  cases r <;> simp only [Slot.mark_] <;> (try split) <;> rfl
@[simp] theorem Slot.mark_kvLow (x : Slot) (r : RegRef) (st : RegState) : (x.mark_ r st).kvLow = x.kvLow := by
  cases r <;> simp only [Slot.mark_] <;> (try split) <;> rfl
@[simp] theorem Slot.mark_owed (x : Slot) (r : RegRef) (st : RegState) : (x.mark_ r st).owed = x.owed := by
  cases r <;> simp only [Slot.mark_] <;> (try split) <;> rfl
@[simp] theorem Slot.mark_rel (x : Slot) (r : RegRef) (st : RegState) : (x.mark_ r st).rel = x.rel := by
  cases r <;> simp only [Slot.mark_] <;> (try split) <;> rfl
@[simp] theorem Slot.mark_waitOn (x : Slot) (r : RegRef) (st : RegState) : (x.mark_ r st).waitOn = x.waitOn := by
  cases r <;> simp only [Slot.mark_] <;> (try split) <;> rfl
@[simp] theorem Slot.mark_sysc (x : Slot) (r : RegRef) (st : RegState) : (x.mark_ r st).sysc = x.sysc := by
  cases r <;> simp only [Slot.mark_] <;> (try split) <;> rfl
@[simp] theorem Slot.mark_cmd (x : Slot) (r : RegRef) (st : RegState) : (x.mark_ r st).cmd = x.cmd := by
  cases r <;> simp only [Slot.mark_] <;> (try split) <;> rfl
@[simp] theorem Slot.mark_remote (x : Slot) (r : RegRef) (st : RegState) : (x.mark_ r st).remote = x.remote := by
  cases r <;> simp only [Slot.mark_] <;> (try split) <;> rfl
@[simp] theorem Slot.mark_mark (x : Slot) (r : RegRef) (st : RegState) : (x.mark_ r st).mark = x.mark := by
  cases r <;> simp only [Slot.mark_] <;> (try split) <;> rfl
@[simp] theorem Slot.mark_born (x : Slot) (r : RegRef) (st : RegState) : (x.mark_ r st).born = x.born := by
  cases r <;> simp only [Slot.mark_] <;> (try split) <;> rfl
@[simp] theorem Slot.mark_uid (x : Slot) (r : RegRef) (st : RegState) : (x.mark_ r st).uid = x.uid := by
  cases r <;> simp only [Slot.mark_] <;> (try split) <;> rfl
@[simp] theorem Slot.mark_seq (x : Slot) (r : RegRef) (st : RegState) : (x.mark_ r st).seq = x.seq := by
  cases r <;> simp only [Slot.mark_] <;> (try split) <;> rfl

/-! ### Slot.advance -/

@[simp] theorem Slot.advance_g (x : Slot) (a : Dword) : (x.advance a).g = x.g := rfl
@[simp] theorem Slot.advance_gst (x : Slot) (a : Dword) : (x.advance a).gst = x.gst := rfl
@[simp] theorem Slot.advance_v (x : Slot) (a : Dword) : (x.advance a).v = x.v := rfl
@[simp] theorem Slot.advance_vst (x : Slot) (a : Dword) : (x.advance a).vst = x.vst := rfl
@[simp] theorem Slot.advance_m (x : Slot) (a : Dword) : (x.advance a).m = x.m := rfl
@[simp] theorem Slot.advance_mst (x : Slot) (a : Dword) : (x.advance a).mst = x.mst := rfl
@[simp] theorem Slot.advance_p (x : Slot) (a : Dword) : (x.advance a).p = x.p := rfl
@[simp] theorem Slot.advance_pt (x : Slot) (a : Dword) : (x.advance a).pt = x.pt := rfl
@[simp] theorem Slot.advance_frozen (x : Slot) (a : Dword) : (x.advance a).frozen = x.frozen := rfl
@[simp] theorem Slot.advance_pmode (x : Slot) (a : Dword) : (x.advance a).pmode = x.pmode := rfl
@[simp] theorem Slot.advance_mode (x : Slot) (a : Dword) : (x.advance a).mode = x.mode := rfl
@[simp] theorem Slot.advance_trcause (x : Slot) (a : Dword) : (x.advance a).trcause = x.trcause := rfl
@[simp] theorem Slot.advance_trpc (x : Slot) (a : Dword) : (x.advance a).trpc = x.trpc := rfl
@[simp] theorem Slot.advance_traddr (x : Slot) (a : Dword) : (x.advance a).traddr = x.traddr := rfl
@[simp] theorem Slot.advance_trwin (x : Slot) (a : Dword) : (x.advance a).trwin = x.trwin := rfl
@[simp] theorem Slot.advance_trnpc (x : Slot) (a : Dword) : (x.advance a).trnpc = x.trnpc := rfl
@[simp] theorem Slot.advance_trstack (x : Slot) (a : Dword) : (x.advance a).trstack = x.trstack := rfl
@[simp] theorem Slot.advance_timecmp (x : Slot) (a : Dword) : (x.advance a).timecmp = x.timecmp := rfl
@[simp] theorem Slot.advance_tenant (x : Slot) (a : Dword) : (x.advance a).tenant = x.tenant := rfl
@[simp] theorem Slot.advance_org (x : Slot) (a : Dword) : (x.advance a).org = x.org := rfl
@[simp] theorem Slot.advance_sub (x : Slot) (a : Dword) : (x.advance a).sub = x.sub := rfl
@[simp] theorem Slot.advance_dirty (x : Slot) (a : Dword) : (x.advance a).dirty = x.dirty := rfl
@[simp] theorem Slot.advance_vdirty (x : Slot) (a : Dword) : (x.advance a).vdirty = x.vdirty := rfl
@[simp] theorem Slot.advance_migthr (x : Slot) (a : Dword) : (x.advance a).migthr = x.migthr := rfl
@[simp] theorem Slot.advance_statesel (x : Slot) (a : Dword) : (x.advance a).statesel = x.statesel := rfl
@[simp] theorem Slot.advance_gramstat (x : Slot) (a : Dword) : (x.advance a).gramstat = x.gramstat := rfl
@[simp] theorem Slot.advance_kvstat (x : Slot) (a : Dword) : (x.advance a).kvstat = x.kvstat := rfl
@[simp] theorem Slot.advance_joinblk (x : Slot) (a : Dword) : (x.advance a).joinblk = x.joinblk := rfl
@[simp] theorem Slot.advance_owner (x : Slot) (a : Dword) : (x.advance a).owner = x.owner := rfl
@[simp] theorem Slot.advance_sw (x : Slot) (a : Dword) : (x.advance a).sw = x.sw := rfl
@[simp] theorem Slot.advance_prio (x : Slot) (a : Dword) : (x.advance a).prio = x.prio := rfl
@[simp] theorem Slot.advance_cls (x : Slot) (a : Dword) : (x.advance a).cls = x.cls := rfl
@[simp] theorem Slot.advance_occ (x : Slot) (a : Dword) : (x.advance a).occ = x.occ := rfl
@[simp] theorem Slot.advance_fatals (x : Slot) (a : Dword) : (x.advance a).fatals = x.fatals := rfl
@[simp] theorem Slot.advance_due (x : Slot) (a : Dword) : (x.advance a).due = x.due := rfl
@[simp] theorem Slot.advance_async (x : Slot) (a : Dword) : (x.advance a).async = x.async := rfl
@[simp] theorem Slot.advance_sleeping (x : Slot) (a : Dword) : (x.advance a).sleeping = x.sleeping := rfl
@[simp] theorem Slot.advance_gather (x : Slot) (a : Dword) : (x.advance a).gather = x.gather := rfl
@[simp] theorem Slot.advance_seen (x : Slot) (a : Dword) : (x.advance a).seen = x.seen := rfl
@[simp] theorem Slot.advance_bar (x : Slot) (a : Dword) : (x.advance a).bar = x.bar := rfl
@[simp] theorem Slot.advance_purity (x : Slot) (a : Dword) : (x.advance a).purity = x.purity := rfl
@[simp] theorem Slot.advance_displ (x : Slot) (a : Dword) : (x.advance a).displ = x.displ := rfl
@[simp] theorem Slot.advance_kvLow (x : Slot) (a : Dword) : (x.advance a).kvLow = x.kvLow := rfl
@[simp] theorem Slot.advance_owed (x : Slot) (a : Dword) : (x.advance a).owed = x.owed := rfl
@[simp] theorem Slot.advance_rel (x : Slot) (a : Dword) : (x.advance a).rel = x.rel := rfl
@[simp] theorem Slot.advance_sysc (x : Slot) (a : Dword) : (x.advance a).sysc = x.sysc := rfl
@[simp] theorem Slot.advance_cmd (x : Slot) (a : Dword) : (x.advance a).cmd = x.cmd := rfl
@[simp] theorem Slot.advance_remote (x : Slot) (a : Dword) : (x.advance a).remote = x.remote := rfl
@[simp] theorem Slot.advance_mark (x : Slot) (a : Dword) : (x.advance a).mark = x.mark := rfl
@[simp] theorem Slot.advance_born (x : Slot) (a : Dword) : (x.advance a).born = x.born := rfl
@[simp] theorem Slot.advance_uid (x : Slot) (a : Dword) : (x.advance a).uid = x.uid := rfl

@[simp] theorem State.writeG_eq (s : State) (k : Nat) (n : BitVec 5) (v : Dword) : s.writeG k n v = s.modSlot k (·.setG n v) := rfl
@[simp] theorem State.writeP_eq (s : State) (k : Nat) (n : BitVec 3) (b : Bool) : s.writeP k n b = s.modSlot k (·.setP n b) := rfl

/-! ### State.emit -/

@[simp] theorem State.emit_agenda (s : State) (o : Out) : (s.emit o).agenda = s.agenda := rfl
@[simp] theorem State.emit_focus (s : State) (o : Out) : (s.emit o).focus = s.focus := rfl
@[simp] theorem State.emit_ev (s : State) (o : Out) : (s.emit o).ev = s.ev := rfl
@[simp] theorem State.emit_freeCtr (s : State) (o : Out) : (s.emit o).freeCtr = s.freeCtr := rfl
@[simp] theorem State.emit_nextN (s : State) (o : Out) : (s.emit o).nextN = s.nextN := rfl
@[simp] theorem State.emit_slots (s : State) (o : Out) : (s.emit o).slots = s.slots := rfl
@[simp] theorem State.emit_cores (s : State) (o : Out) : (s.emit o).cores = s.cores := rfl
@[simp] theorem State.emit_clusters (s : State) (o : Out) : (s.emit o).clusters = s.clusters := rfl
@[simp] theorem State.emit_dies (s : State) (o : Out) : (s.emit o).dies = s.dies := rfl
@[simp] theorem State.emit_mem (s : State) (o : Out) : (s.emit o).mem = s.mem := rfl
@[simp] theorem State.emit_ls (s : State) (o : Out) : (s.emit o).ls = s.ls := rfl
@[simp] theorem State.emit_feEmpty (s : State) (o : Out) : (s.emit o).feEmpty = s.feEmpty := rfl
@[simp] theorem State.emit_lsStamp (s : State) (o : Out) : (s.emit o).lsStamp = s.lsStamp := rfl
@[simp] theorem State.emit_acc (s : State) (o : Out) : (s.emit o).acc = s.acc := rfl
@[simp] theorem State.emit_timer (s : State) (o : Out) : (s.emit o).timer = s.timer := rfl
@[simp] theorem State.emit_poolsz (s : State) (o : Out) : (s.emit o).poolsz = s.poolsz := rfl
@[simp] theorem State.emit_torus (s : State) (o : Out) : (s.emit o).torus = s.torus := rfl
@[simp] theorem State.emit_pkgid (s : State) (o : Out) : (s.emit o).pkgid = s.pkgid := rfl
@[simp] theorem State.emit_pkgBurnt (s : State) (o : Out) : (s.emit o).pkgBurnt = s.pkgBurnt := rfl
@[simp] theorem State.emit_fuseVer (s : State) (o : Out) : (s.emit o).fuseVer = s.fuseVer := rfl
@[simp] theorem State.emit_fuseKey (s : State) (o : Out) : (s.emit o).fuseKey = s.fuseKey := rfl
@[simp] theorem State.emit_images (s : State) (o : Out) : (s.emit o).images = s.images := rfl
@[simp] theorem State.emit_linkup (s : State) (o : Out) : (s.emit o).linkup = s.linkup := rfl
@[simp] theorem State.emit_draining (s : State) (o : Out) : (s.emit o).draining = s.draining := rfl
@[simp] theorem State.emit_credits (s : State) (o : Out) : (s.emit o).credits = s.credits := rfl
@[simp] theorem State.emit_crcFails (s : State) (o : Out) : (s.emit o).crcFails = s.crcFails := rfl
@[simp] theorem State.emit_linkHeld (s : State) (o : Out) : (s.emit o).linkHeld = s.linkHeld := rfl
@[simp] theorem State.emit_pause (s : State) (o : Out) : (s.emit o).pause = s.pause := rfl
@[simp] theorem State.emit_pwr (s : State) (o : Out) : (s.emit o).pwr = s.pwr := rfl
@[simp] theorem State.emit_freeze (s : State) (o : Out) : (s.emit o).freeze = s.freeze := rfl
@[simp] theorem State.emit_boot (s : State) (o : Out) : (s.emit o).boot = s.boot := rfl
@[simp] theorem State.emit_ckgen (s : State) (o : Out) : (s.emit o).ckgen = s.ckgen := rfl
@[simp] theorem State.emit_ckrecv (s : State) (o : Out) : (s.emit o).ckrecv = s.ckrecv := rfl
@[simp] theorem State.emit_tier (s : State) (o : Out) : (s.emit o).tier = s.tier := rfl
@[simp] theorem State.emit_drain (s : State) (o : Out) : (s.emit o).drain = s.drain := rfl
@[simp] theorem State.emit_side (s : State) (o : Out) : (s.emit o).side = s.side := rfl
@[simp] theorem State.emit_heldFree (s : State) (o : Out) : (s.emit o).heldFree = s.heldFree := rfl
@[simp] theorem State.emit_nodes (s : State) (o : Out) : (s.emit o).nodes = s.nodes := rfl
@[simp] theorem State.emit_frames (s : State) (o : Out) : (s.emit o).frames = s.frames := rfl
@[simp] theorem State.emit_copies (s : State) (o : Out) : (s.emit o).copies = s.copies := rfl
@[simp] theorem State.emit_tlb (s : State) (o : Out) : (s.emit o).tlb = s.tlb := rfl
@[simp] theorem State.emit_writes (s : State) (o : Out) : (s.emit o).writes = s.writes := rfl
@[simp] theorem State.emit_orderN (s : State) (o : Out) : (s.emit o).orderN = s.orderN := rfl
@[simp] theorem State.emit_faults (s : State) (o : Out) : (s.emit o).faults = s.faults := rfl
@[simp] theorem State.emit_requests (s : State) (o : Out) : (s.emit o).requests = s.requests := rfl
@[simp] theorem State.emit_inbox (s : State) (o : Out) : (s.emit o).inbox = s.inbox := rfl
@[simp] theorem State.emit_egress (s : State) (o : Out) : (s.emit o).egress = s.egress := rfl
@[simp] theorem State.emit_seqs (s : State) (o : Out) : (s.emit o).seqs = s.seqs := rfl
@[simp] theorem State.emit_redHeld (s : State) (o : Out) : (s.emit o).redHeld = s.redHeld := rfl
@[simp] theorem State.emit_redFly (s : State) (o : Out) : (s.emit o).redFly = s.redFly := rfl
@[simp] theorem State.emit_tenants (s : State) (o : Out) : (s.emit o).tenants = s.tenants := rfl
@[simp] theorem State.emit_qps (s : State) (o : Out) : (s.emit o).qps = s.qps := rfl
@[simp] theorem State.emit_rkeys (s : State) (o : Out) : (s.emit o).rkeys = s.rkeys := rfl
@[simp] theorem State.emit_lqs (s : State) (o : Out) : (s.emit o).lqs = s.lqs := rfl
@[simp] theorem State.emit_launches (s : State) (o : Out) : (s.emit o).launches = s.launches := rfl
@[simp] theorem State.emit_tasks (s : State) (o : Out) : (s.emit o).tasks = s.tasks := rfl
@[simp] theorem State.emit_msgs (s : State) (o : Out) : (s.emit o).msgs = s.msgs := rfl
@[simp] theorem State.emit_waiting (s : State) (o : Out) : (s.emit o).waiting = s.waiting := rfl
@[simp] theorem State.emit_cmds (s : State) (o : Out) : (s.emit o).cmds = s.cmds := rfl
@[simp] theorem State.emit_resv (s : State) (o : Out) : (s.emit o).resv = s.resv := rfl
@[simp] theorem State.emit_resvLive (s : State) (o : Out) : (s.emit o).resvLive = s.resvLive := rfl
@[simp] theorem State.emit_scbs (s : State) (o : Out) : (s.emit o).scbs = s.scbs := rfl
@[simp] theorem State.emit_models (s : State) (o : Out) : (s.emit o).models = s.models := rfl
@[simp] theorem State.emit_groups (s : State) (o : Out) : (s.emit o).groups = s.groups := rfl
@[simp] theorem State.emit_moves (s : State) (o : Out) : (s.emit o).moves = s.moves := rfl
@[simp] theorem State.emit_arrivals (s : State) (o : Out) : (s.emit o).arrivals = s.arrivals := rfl
@[simp] theorem State.emit_castcfg (s : State) (o : Out) : (s.emit o).castcfg = s.castcfg := rfl
@[simp] theorem State.emit_cast (s : State) (o : Out) : (s.emit o).cast = s.cast := rfl
@[simp] theorem State.emit_watch (s : State) (o : Out) : (s.emit o).watch = s.watch := rfl
@[simp] theorem State.emit_grams (s : State) (o : Out) : (s.emit o).grams = s.grams := rfl
@[simp] theorem State.emit_arenas (s : State) (o : Out) : (s.emit o).arenas = s.arenas := rfl
@[simp] theorem State.emit_kvFree (s : State) (o : Out) : (s.emit o).kvFree = s.kvFree := rfl
@[simp] theorem State.emit_pages (s : State) (o : Out) : (s.emit o).pages = s.pages := rfl
@[simp] theorem State.emit_regions (s : State) (o : Out) : (s.emit o).regions = s.regions := rfl
@[simp] theorem State.emit_out (s : State) (o : Out) : (s.emit o).out = s.out ++ [o] := rfl
@[simp] theorem State.slot_emit (s : State) (o : Out) (k : Nat) : (s.emit o).slot k = s.slot k := rfl
@[simp] theorem State.core_emit (s : State) (o : Out) (k : Nat) : (s.emit o).core k = s.core k := rfl
@[simp] theorem State.cluster_emit (s : State) (o : Out) (k : Nat) : (s.emit o).cluster k = s.cluster k := rfl
@[simp] theorem State.die_emit (s : State) (o : Out) (k : Nat) : (s.emit o).die k = s.die k := rfl

/-! ### Counting an event (R266) changes one core only -/

@[simp] theorem State.slot_count (s : State) (c : Nat) (e : Byte) (n k : Nat) : (s.count c e n).slot k = s.slot k := by
  unfold State.count; split <;> rfl
@[simp] theorem State.die_count (s : State) (c : Nat) (e : Byte) (n d : Nat) : (s.count c e n).die d = s.die d := by
  unfold State.count; split <;> rfl
@[simp] theorem State.count_agenda (s : State) (c : Nat) (e : Byte) (n : Nat) : (s.count c e n).agenda = s.agenda := by
  unfold State.count; split <;> rfl
@[simp] theorem State.count_focus (s : State) (c : Nat) (e : Byte) (n : Nat) : (s.count c e n).focus = s.focus := by
  unfold State.count; split <;> rfl
@[simp] theorem State.count_ev (s : State) (c : Nat) (e : Byte) (n : Nat) : (s.count c e n).ev = s.ev := by
  unfold State.count; split <;> rfl
@[simp] theorem State.count_freeCtr (s : State) (c : Nat) (e : Byte) (n : Nat) : (s.count c e n).freeCtr = s.freeCtr := by
  unfold State.count; split <;> rfl
@[simp] theorem State.count_nextN (s : State) (c : Nat) (e : Byte) (n : Nat) : (s.count c e n).nextN = s.nextN := by
  unfold State.count; split <;> rfl
@[simp] theorem State.count_out (s : State) (c : Nat) (e : Byte) (n : Nat) : (s.count c e n).out = s.out := by
  unfold State.count; split <;> rfl
@[simp] theorem State.count_slots (s : State) (c : Nat) (e : Byte) (n : Nat) : (s.count c e n).slots = s.slots := by
  unfold State.count; split <;> rfl
@[simp] theorem State.count_clusters (s : State) (c : Nat) (e : Byte) (n : Nat) : (s.count c e n).clusters = s.clusters := by
  unfold State.count; split <;> rfl
@[simp] theorem State.count_dies (s : State) (c : Nat) (e : Byte) (n : Nat) : (s.count c e n).dies = s.dies := by
  unfold State.count; split <;> rfl
@[simp] theorem State.count_mem (s : State) (c : Nat) (e : Byte) (n : Nat) : (s.count c e n).mem = s.mem := by
  unfold State.count; split <;> rfl
@[simp] theorem State.count_ls (s : State) (c : Nat) (e : Byte) (n : Nat) : (s.count c e n).ls = s.ls := by
  unfold State.count; split <;> rfl
@[simp] theorem State.count_feEmpty (s : State) (c : Nat) (e : Byte) (n : Nat) : (s.count c e n).feEmpty = s.feEmpty := by
  unfold State.count; split <;> rfl
@[simp] theorem State.count_lsStamp (s : State) (c : Nat) (e : Byte) (n : Nat) : (s.count c e n).lsStamp = s.lsStamp := by
  unfold State.count; split <;> rfl
@[simp] theorem State.count_acc (s : State) (c : Nat) (e : Byte) (n : Nat) : (s.count c e n).acc = s.acc := by
  unfold State.count; split <;> rfl
@[simp] theorem State.count_timer (s : State) (c : Nat) (e : Byte) (n : Nat) : (s.count c e n).timer = s.timer := by
  unfold State.count; split <;> rfl
@[simp] theorem State.count_fuseVer (s : State) (c : Nat) (e : Byte) (n : Nat) : (s.count c e n).fuseVer = s.fuseVer := by
  unfold State.count; split <;> rfl
@[simp] theorem State.count_fuseKey (s : State) (c : Nat) (e : Byte) (n : Nat) : (s.count c e n).fuseKey = s.fuseKey := by
  unfold State.count; split <;> rfl
@[simp] theorem State.count_images (s : State) (c : Nat) (e : Byte) (n : Nat) : (s.count c e n).images = s.images := by
  unfold State.count; split <;> rfl
@[simp] theorem State.count_crcFails (s : State) (c : Nat) (e : Byte) (n : Nat) : (s.count c e n).crcFails = s.crcFails := by
  unfold State.count; split <;> rfl
@[simp] theorem State.count_linkHeld (s : State) (c : Nat) (e : Byte) (n : Nat) : (s.count c e n).linkHeld = s.linkHeld := by
  unfold State.count; split <;> rfl
@[simp] theorem State.count_regions (s : State) (c : Nat) (e : Byte) (n : Nat) : (s.count c e n).regions = s.regions := by
  unfold State.count; split <;> rfl
@[simp] theorem State.count_poolsz (s : State) (c : Nat) (e : Byte) (n : Nat) : (s.count c e n).poolsz = s.poolsz := by
  unfold State.count; split <;> rfl
@[simp] theorem State.count_torus (s : State) (c : Nat) (e : Byte) (n : Nat) : (s.count c e n).torus = s.torus := by
  unfold State.count; split <;> rfl
@[simp] theorem State.count_pkgid (s : State) (c : Nat) (e : Byte) (n : Nat) : (s.count c e n).pkgid = s.pkgid := by
  unfold State.count; split <;> rfl
@[simp] theorem State.count_pkgBurnt (s : State) (c : Nat) (e : Byte) (n : Nat) : (s.count c e n).pkgBurnt = s.pkgBurnt := by
  unfold State.count; split <;> rfl
@[simp] theorem State.count_linkup (s : State) (c : Nat) (e : Byte) (n : Nat) : (s.count c e n).linkup = s.linkup := by
  unfold State.count; split <;> rfl
@[simp] theorem State.count_draining (s : State) (c : Nat) (e : Byte) (n : Nat) : (s.count c e n).draining = s.draining := by
  unfold State.count; split <;> rfl
@[simp] theorem State.count_credits (s : State) (c : Nat) (e : Byte) (n : Nat) : (s.count c e n).credits = s.credits := by
  unfold State.count; split <;> rfl
@[simp] theorem State.count_pause (s : State) (c : Nat) (e : Byte) (n : Nat) : (s.count c e n).pause = s.pause := by
  unfold State.count; split <;> rfl
@[simp] theorem State.count_pwr (s : State) (c : Nat) (e : Byte) (n : Nat) : (s.count c e n).pwr = s.pwr := by
  unfold State.count; split <;> rfl

@[simp] theorem State.count_freeze (s : State) (c : Nat) (e : Byte) (n : Nat) : (s.count c e n).freeze = s.freeze := by
  unfold State.count; split <;> rfl
@[simp] theorem State.count_boot (s : State) (c : Nat) (e : Byte) (n : Nat) : (s.count c e n).boot = s.boot := by
  unfold State.count; split <;> rfl
@[simp] theorem State.count_ckgen (s : State) (c : Nat) (e : Byte) (n : Nat) : (s.count c e n).ckgen = s.ckgen := by
  unfold State.count; split <;> rfl
@[simp] theorem State.count_ckrecv (s : State) (c : Nat) (e : Byte) (n : Nat) : (s.count c e n).ckrecv = s.ckrecv := by
  unfold State.count; split <;> rfl
@[simp] theorem State.count_tier (s : State) (c : Nat) (e : Byte) (n : Nat) : (s.count c e n).tier = s.tier := by
  unfold State.count; split <;> rfl
@[simp] theorem State.count_drain (s : State) (c : Nat) (e : Byte) (n : Nat) : (s.count c e n).drain = s.drain := by
  unfold State.count; split <;> rfl
@[simp] theorem State.count_side (s : State) (c : Nat) (e : Byte) (n : Nat) : (s.count c e n).side = s.side := by
  unfold State.count; split <;> rfl
@[simp] theorem State.count_heldFree (s : State) (c : Nat) (e : Byte) (n : Nat) : (s.count c e n).heldFree = s.heldFree := by
  unfold State.count; split <;> rfl
@[simp] theorem State.count_nodes (s : State) (c : Nat) (e : Byte) (n : Nat) : (s.count c e n).nodes = s.nodes := by
  unfold State.count; split <;> rfl
@[simp] theorem State.count_frames (s : State) (c : Nat) (e : Byte) (n : Nat) : (s.count c e n).frames = s.frames := by
  unfold State.count; split <;> rfl
@[simp] theorem State.count_copies (s : State) (c : Nat) (e : Byte) (n : Nat) : (s.count c e n).copies = s.copies := by
  unfold State.count; split <;> rfl
@[simp] theorem State.count_tlb (s : State) (c : Nat) (e : Byte) (n : Nat) : (s.count c e n).tlb = s.tlb := by
  unfold State.count; split <;> rfl
@[simp] theorem State.count_writes (s : State) (c : Nat) (e : Byte) (n : Nat) : (s.count c e n).writes = s.writes := by
  unfold State.count; split <;> rfl
@[simp] theorem State.count_orderN (s : State) (c : Nat) (e : Byte) (n : Nat) : (s.count c e n).orderN = s.orderN := by
  unfold State.count; split <;> rfl
@[simp] theorem State.count_faults (s : State) (c : Nat) (e : Byte) (n : Nat) : (s.count c e n).faults = s.faults := by
  unfold State.count; split <;> rfl
@[simp] theorem State.count_requests (s : State) (c : Nat) (e : Byte) (n : Nat) : (s.count c e n).requests = s.requests := by
  unfold State.count; split <;> rfl
@[simp] theorem State.count_inbox (s : State) (c : Nat) (e : Byte) (n : Nat) : (s.count c e n).inbox = s.inbox := by
  unfold State.count; split <;> rfl
@[simp] theorem State.count_egress (s : State) (c : Nat) (e : Byte) (n : Nat) : (s.count c e n).egress = s.egress := by
  unfold State.count; split <;> rfl
@[simp] theorem State.count_seqs (s : State) (c : Nat) (e : Byte) (n : Nat) : (s.count c e n).seqs = s.seqs := by
  unfold State.count; split <;> rfl
@[simp] theorem State.count_redHeld (s : State) (c : Nat) (e : Byte) (n : Nat) : (s.count c e n).redHeld = s.redHeld := by
  unfold State.count; split <;> rfl
@[simp] theorem State.count_redFly (s : State) (c : Nat) (e : Byte) (n : Nat) : (s.count c e n).redFly = s.redFly := by
  unfold State.count; split <;> rfl
@[simp] theorem State.count_tenants (s : State) (c : Nat) (e : Byte) (n : Nat) : (s.count c e n).tenants = s.tenants := by
  unfold State.count; split <;> rfl
@[simp] theorem State.count_qps (s : State) (c : Nat) (e : Byte) (n : Nat) : (s.count c e n).qps = s.qps := by
  unfold State.count; split <;> rfl
@[simp] theorem State.count_rkeys (s : State) (c : Nat) (e : Byte) (n : Nat) : (s.count c e n).rkeys = s.rkeys := by
  unfold State.count; split <;> rfl
@[simp] theorem State.count_lqs (s : State) (c : Nat) (e : Byte) (n : Nat) : (s.count c e n).lqs = s.lqs := by
  unfold State.count; split <;> rfl
@[simp] theorem State.count_launches (s : State) (c : Nat) (e : Byte) (n : Nat) : (s.count c e n).launches = s.launches := by
  unfold State.count; split <;> rfl
@[simp] theorem State.count_tasks (s : State) (c : Nat) (e : Byte) (n : Nat) : (s.count c e n).tasks = s.tasks := by
  unfold State.count; split <;> rfl
@[simp] theorem State.count_msgs (s : State) (c : Nat) (e : Byte) (n : Nat) : (s.count c e n).msgs = s.msgs := by
  unfold State.count; split <;> rfl
@[simp] theorem State.count_waiting (s : State) (c : Nat) (e : Byte) (n : Nat) : (s.count c e n).waiting = s.waiting := by
  unfold State.count; split <;> rfl
@[simp] theorem State.count_cmds (s : State) (c : Nat) (e : Byte) (n : Nat) : (s.count c e n).cmds = s.cmds := by
  unfold State.count; split <;> rfl
@[simp] theorem State.count_resv (s : State) (c : Nat) (e : Byte) (n : Nat) : (s.count c e n).resv = s.resv := by
  unfold State.count; split <;> rfl
@[simp] theorem State.count_resvLive (s : State) (c : Nat) (e : Byte) (n : Nat) : (s.count c e n).resvLive = s.resvLive := by
  unfold State.count; split <;> rfl
@[simp] theorem State.count_scbs (s : State) (c : Nat) (e : Byte) (n : Nat) : (s.count c e n).scbs = s.scbs := by
  unfold State.count; split <;> rfl
@[simp] theorem State.count_models (s : State) (c : Nat) (e : Byte) (n : Nat) : (s.count c e n).models = s.models := by
  unfold State.count; split <;> rfl
@[simp] theorem State.count_groups (s : State) (c : Nat) (e : Byte) (n : Nat) : (s.count c e n).groups = s.groups := by
  unfold State.count; split <;> rfl
@[simp] theorem State.count_moves (s : State) (c : Nat) (e : Byte) (n : Nat) : (s.count c e n).moves = s.moves := by
  unfold State.count; split <;> rfl
@[simp] theorem State.count_arrivals (s : State) (c : Nat) (e : Byte) (n : Nat) : (s.count c e n).arrivals = s.arrivals := by
  unfold State.count; split <;> rfl
@[simp] theorem State.count_castcfg (s : State) (c : Nat) (e : Byte) (n : Nat) : (s.count c e n).castcfg = s.castcfg := by
  unfold State.count; split <;> rfl
@[simp] theorem State.count_cast (s : State) (c : Nat) (e : Byte) (n : Nat) : (s.count c e n).cast = s.cast := by
  unfold State.count; split <;> rfl
@[simp] theorem State.count_watch (s : State) (c : Nat) (e : Byte) (n : Nat) : (s.count c e n).watch = s.watch := by
  unfold State.count; split <;> rfl
@[simp] theorem State.count_grams (s : State) (c : Nat) (e : Byte) (n : Nat) : (s.count c e n).grams = s.grams := by
  unfold State.count; split <;> rfl
@[simp] theorem State.count_arenas (s : State) (c : Nat) (e : Byte) (n : Nat) : (s.count c e n).arenas = s.arenas := by
  unfold State.count; split <;> rfl
@[simp] theorem State.count_kvFree (s : State) (c : Nat) (e : Byte) (n : Nat) : (s.count c e n).kvFree = s.kvFree := by
  unfold State.count; split <;> rfl
@[simp] theorem State.count_pages (s : State) (c : Nat) (e : Byte) (n : Nat) : (s.count c e n).pages = s.pages := by
  unfold State.count; split <;> rfl

end Sys2Proof.Machine
end

