-- ==== Sys2Proof/Laws/Steps.lean ====
section
/-! SUPPORT. The shared operations of the steps that are not issues: what a run answers under each outcome, and what a tile command's
step does. -/

namespace Sys2Proof.Machine

/-! ### A run and its outcomes -/

theorem bind_ok {α β : Type} {m : M α} {f : α → M β} {s t : State} {a : α} (h : m s = .ok (a, t)) : (m >>= f) s = f a t := by
  simp only [bind, StateT.bind, Except.bind, h]

theorem runM_ok {m : M Unit} {f : Byte → Dword → State → State} {g : Trap → State → State} {s t : State} (h : m s = .ok ((), t)) :
    runM m f g s = t := by simp only [runM, h]
theorem runM_wait {m : M Unit} {f : Byte → Dword → State → State} {g : Trap → State → State} {s : State} {leave : State → State}
    (h : m s = .error (.wait leave)) : runM m f g s = leave s := by simp only [runM, h]
theorem runM_fatal {m : M Unit} {f : Byte → Dword → State → State} {g : Trap → State → State} {s : State} {sub : Byte} {va : Dword}
    (h : m s = .error (.fatal sub va)) : runM m f g s = f sub va s := by simp only [runM, h]
theorem runM_trap {m : M Unit} {f : Byte → Dword → State → State} {g : Trap → State → State} {s : State} {t : Trap}
    (h : m s = .error (.trap t)) : runM m f g s = g t s := by simp only [runM, h]

/-- A command that goes through is over: its faults and requests are forgotten, and its slot goes on. -/
theorem runCmd_ok {k : Nat} {m : M Unit} {s t : State} (h : m s = .ok ((), t)) : runCmd k m s = (t.answered k).finishCmd k :=
  runM_ok (bind_ok h)

theorem orFatal_ok {α : Type} {m : M α} {h : Byte → Dword → M α} {s : State} {r : α × State} (hm : m s = .ok r) : orFatal m h s = .ok r := by
  simp only [orFatal, hm]
theorem orFatal_wait {α : Type} {m : M α} {h : Byte → Dword → M α} {s : State} {leave : State → State} (hm : m s = .error (.wait leave)) :
    orFatal m h s = .error (.wait leave) := by simp only [orFatal, hm]
theorem orFatal_fatal {α : Type} {m : M α} {h : Byte → Dword → M α} {s : State} {sub : Byte} {va : Dword} (hm : m s = .error (.fatal sub va)) :
    orFatal m h s = h sub va s := by simp only [orFatal, hm]

/-- No writes meet R111 at once. -/
@[simp] theorem settleWrites_nil (w : Who) (s : State) : settleWrites w [] s = .ok ((), s) := rfl

/-! ### The step of a tile command (R426) -/

/-- What a command's step leaves once it has been through: its faults are forgotten, and its requests but for those without a key and for contributions to
a RED.ORD sequence, which may have to be sent again. -/
def State.afterTile (t : State) (n : Nat) : State :=
  { t.dropFault (.cmd n) with requests := t.requests.filter fun r => !(decide (r.who = .cmd n) && !r.bytes.isEmpty && !r.isRed) }

variable {op : Nat} {start : Cmd → Run} {post : Cmd → Dword → List Byte → M Cmd} {after : Cmd → M Bool} {s t u : State} {m x y : Cmd}

theorem getCmd_ok (h : s.cmdOf m.n = some x) : getCmd m.n s = .ok (x, s) := by
  simp [getCmd, h, bind, StateT.bind, get, getThe, MonadStateOf.get, StateT.get, pure, StateT.pure, Except.bind, Except.pure]

/-- What a start begins with. -/
theorem tileStart_ok {r : Option Byte} (h : s.Starts op m) (hs : start m s = .ok (r, u)) :
    (if m.started = true then pure none else do
      settleWrites m.who ((s.regionPeers m).map peerWrite)
      start m : Run) s = .ok (r, u) := by
  obtain ⟨h1, h2, h3, h4, h5, h6, h7⟩ := h
  rw [h5]
  exact (bind_ok h7).trans hs

/-- A start that ends in a fault of the command. -/
theorem runTile_fault {f : Byte} (h : s.Starts op m) (hs : start m s = .ok (some f, u)) (hx : u.cmdOf m.n = some x) :
    runTile op start post after s = (u.endCmd x f 0).afterTile m.n := by
  have hb := tileStart_ok h hs
  obtain ⟨h1, h2, h3, h4, h5, h6, -⟩ := h
  simp only [runTile, h1, h2, h3, h4, h5, h6]
  rw [if_neg (by simp), if_neg (by simp)]
  rw [h5] at hb
  refine runM_ok ?_
  refine (bind_ok hb).trans ?_
  refine (bind_ok (getCmd_ok hx)).trans ?_
  rfl

/-- A start that leaves writes to make; they follow one a step. -/
theorem runTile_start {va : Dword} {bs : List Byte} {rest : List (Dword × List Byte)} (h : s.Starts op m)
    (hs : start m s = .ok (none, u)) (hx : u.cmdOf m.n = some x) (hw : x.todo = (va, bs) :: rest) :
    runTile op start post after s = u.afterTile m.n := by
  have hb := tileStart_ok h hs
  obtain ⟨h1, h2, h3, h4, h5, h6, -⟩ := h
  simp only [runTile, h1, h2, h3, h4, h5, h6]
  rw [if_neg (by simp), if_neg (by simp)]
  rw [h5] at hb
  refine runM_ok ?_
  refine (bind_ok hb).trans ?_
  refine (bind_ok (getCmd_ok hx)).trans ?_
  rw [hw]
  rfl

/-- A start that leaves nothing to write, and ends the command. -/
theorem runTile_done (h : s.Starts op m) (hs : start m s = .ok (none, u)) (hx : u.cmdOf m.n = some x) (hw : x.todo = [])
    (ha : after x u = .ok (true, t)) (hy : t.cmdOf m.n = some y) :
    runTile op start post after s = (t.endCmd y 0 0).afterTile m.n := by
  have hb := tileStart_ok h hs
  obtain ⟨h1, h2, h3, h4, h5, h6, -⟩ := h
  simp only [runTile, h1, h2, h3, h4, h5, h6]
  rw [if_neg (by simp), if_neg (by simp)]
  rw [h5] at hb
  refine runM_ok ?_
  refine (bind_ok hb).trans ?_
  refine (bind_ok (getCmd_ok hx)).trans ?_
  rw [hw]
  refine (bind_ok ha).trans ?_
  refine (bind_ok (getCmd_ok hy)).trans ?_
  rfl

/-- A started command makes its next write. -/
theorem runTile_post {va : Dword} {bs : List Byte} {rest : List (Dword × List Byte)} (h1 : s.cmdOf s.ev.who = some m) (h2 : m.op = op)
    (h3 : m.done = none) (h4 : m.accepted = true) (h5 : m.started = true) (hl : m.q = 0 → (s.core m.core).leaseHeld = true)
    (hn : s.cmdOf m.n = some m) (hw : m.todo = (va, bs) :: rest) (hp : post m va bs s = .ok (y, t)) :
    runTile op start post after s = (t.setCmd { y with todo := rest }).afterTile m.n := by
  have hq : (m.q == 0 && !(s.core m.core).leaseHeld) = false := by
    cases hc : m.q == 0 with
    | false => rfl
    | true => simp [hl (by simpa using hc)]
  simp only [runTile, h1, h2, h3, h4, h5]
  rw [if_neg (by simp), if_neg (by simp [hq])]
  refine runM_ok ?_
  refine (bind_ok (a := none) (t := s) rfl).trans ?_
  refine (bind_ok (getCmd_ok hn)).trans ?_
  rw [hw]
  refine (bind_ok hp).trans ?_
  rfl

end Sys2Proof.Machine
end

