-- ==== Sys2Proof/Tests/Slice0.lean ====
section
/-! SUPPORT. The model's own tests: an ill-formed term for each check of WellFormed, words written out from the encoding tables,
and for the hypotheses of each statement a state and operands that meet them. -/

namespace Sys2Proof.Tests

open Sys2Proof.Machine

set_option Elab.async false
set_option maxRecDepth 20000

/-! ### Well-formedness: one ill-formed term for each check of R313 -/

def tiles : TilePayload := ⟨0, 0, 0, 0, 0, 0, 0, 0⟩

theorem test_wf_functions : (Instr.cmp 1 2 3 0 6).illegal = some .func ∧ (Instr.cmpi 1 2 0 7 5).illegal = some .func ∧
    (Instr.fcmp 1 2 3 0 0 5).illegal = some .func ∧ (Instr.fcvt 1 2 0 0 0 7 1).illegal = some .func ∧
    (Instr.fcvt 1 2 0 0 0 2 2).illegal = some .func ∧ (Instr.vcmp 0 1 2 0 1 0 6).illegal = some .func ∧
    (Instr.vfcmp 0 1 2 0 4 0 5).illegal = some .func := by decide
theorem test_wf_scalar_operands : (Instr.fcvt 1 2 0 1 0 1 5).illegal = some .operand ∧ (Instr.pref 2 1 1 0 0).illegal = some .operand ∧
    (Instr.fenceRel 0 5).illegal = some .operand ∧ (Instr.fenceAcq 0 6).illegal = some .operand ∧
    (Instr.fenceFull 0 7).illegal = some .operand ∧ (Instr.migr 13 1 0).illegal = some .operand ∧
    (Instr.migv 13 1 0 0).illegal = some .operand ∧ (Instr.park 13 0).illegal = some .operand := by decide
theorem test_wf_control : (Instr.csrr 1 0 7 0 0).wf = false ∧ (Instr.csrw 1 31 31 0 3).wf = false ∧
    (Instr.csrs 1 0 7 0 0).wf = false ∧ (Instr.csrc 1 0 7 0 0).wf = false ∧ (Instr.csrfi 1 0 0 0x007).illegal = some .csrNum := by decide
theorem test_wf_vector_types : (Instr.vadd 0 1 2 0 4 0).wf = false ∧ (Instr.vsubsn 0 1 2 0 5 0).wf = false ∧
    (Instr.vfadd 0 1 2 0 3 0).wf = false ∧ (Instr.vfsqrt 0 1 0 7 0).wf = false ∧ (Instr.vlds 0 1 2 0 1 0).wf = false ∧
    (Instr.vrsum 0 1 0 7 0).wf = false ∧ (Instr.vrand 0 1 0 4 0).wf = false ∧ (Instr.viota 0 0 5 0).wf = false ∧
    (Instr.vscan 0 1 0 0 0).wf = false ∧ (Instr.vtopk 0 1 2 0 3 0).wf = false ∧ (Instr.vperm 0 1 2 0 0 0).wf = false ∧
    (Instr.vcmp 0 1 2 0 4 0 0).wf = false ∧ (Instr.vfcmp 0 1 2 0 3 0 0).wf = false := by decide
theorem test_wf_convert : (Instr.vcvt 0 1 0 0 5 0 0 0 1 0).illegal = some .rsvField ∧ (Instr.vcvt 0 1 0 0 2 0 0 1 0 1).illegal = some .rsvField ∧
    (Instr.vcvt 0 1 0 0 2 0 1 0 0 9).illegal = some .rsvField ∧ (Instr.vcvt 0 1 0 0 5 0 0 0 0 13).illegal = some .operand ∧
    (Instr.vcvt 0 1 4 0 0 0 0 0 0 2).illegal = some .operand := by decide
theorem test_wf_tile : (Instr.tcmd 9 0 0 1 4 1 tiles).illegal = some .queue ∧
    (Instr.tcmd 9 0 0 1 1 3 tiles).illegal = some .patchMap ∧
    (Instr.tcmd 9 0 0 1 1 5 tiles).illegal = some .patchMap ∧
    (Instr.tcmd 9 0 0 1 1 0 tiles).illegal = some .patchMap ∧
    (Instr.tcmd 0 3 0 1 1 0 tiles).illegal = some .patchMap := by decide
theorem test_wf_accepts : (Instr.add 1 2 3 0).wf = true ∧ (Instr.cmp 1 2 3 0 5).wf = true ∧ (Instr.csrr 1 0 21 0 0).wf = true ∧
    (Instr.tcmd 9 0 0 1 1 1 tiles).wf = true ∧ (Instr.vcvt 0 1 3 0 0 0 0 0 0 2).wf = true := by decide

/-! ### Decoding: words written out from the encoding tables, one family after another -/

theorem test_decode_alu : decodeWord 0b000001_00011_00001_00010_000_00000000 = .ok (.add 3 1 2 0) ∧
    decodeWord 0b000010_00101_00010_000_1111111110000 = .ok (.addi 5 2 0 0x1FF0) ∧
    decodeWord 0b000110_01001_01001_000_01_00000_000011 = .ok (.shri 9 9 0 3) ∧
    decodeWord 0b001000_00100_000000000000000010010 = .ok (.lih 4 0x12) ∧
    decodeWord 0b001001_00111_111111111111111111110 = .ok (.addpc 7 0x1FFFFE) := by decide
theorem test_decode_predicates : decodeWord 0b000111_011_00_00111_000_100_0001100100 = .ok (.cmpi 3 7 0 4 100) ∧
    decodeWord 0b001010_001_00_00010_00011_000_00000010 = .ok (.cmp 1 2 3 0 2) ∧
    decodeWord 0b001011_010_00_011_00_100_00_000_00000000 = .ok (.pand 2 3 4 0) ∧
    decodeWord 0b001011_00110_00111_01000_000_00001010 = .ok (.sel 6 7 8 0 2) := by decide
theorem test_decode_float : decodeWord 0b001100_01010_01011_01100_001_1_0000011 = .ok (.fma 10 11 12 1 1) ∧
    decodeWord 0b001100_010_00_00001_00010_000_0_0010010 = .ok (.fcmp 2 1 2 0 0 2) ∧
    decodeWord 0b001100_00011_00100_01_1_00_000_01_101_000 = .ok (.fcvt 3 4 1 1 0 5 0) ∧
    decodeWord 0b001101_01001_01010_01011_000_0011_0011 = .ok (.div 9 10 11 0 3) := by decide
theorem test_decode_transfers : decodeWord 0b010000_010_00000000000000000010000 = .ok (.br 2 16) ∧
    decodeWord 0b010010_00001_111111111111111000000 = .ok (.jal 1 0x1FFFC0) ∧
    decodeWord 0b010011_00000_00001_000_0000000000000 = .ok (.jalr 0 1 0 0) := by decide
theorem test_decode_memory : decodeWord 0b010111_10100_01000_011_0010_000000010 = .ok (.ldd 20 8 3 2 2) ∧
    decodeWord 0b011110_00101_00110_000_0001_111111111 = .ok (.std 5 6 0 1 0x1FF) ∧
    decodeWord 0b011111_10101_01000_00000_000_0100_0000 = .ok (.ldf 21 8 0 0 4) ∧
    decodeWord 0b100000_00000_00000_00000_000_00000100 = .ok (.fenceRel 0 4) ∧
    decodeWord 0b100001_10100_01000_01001_1_10_0001_1001 = .ok (.amoCas 20 8 9 1 2 1) := by decide
theorem test_decode_strands : decodeWord 0b100010_00000_01001_01010_000_0000_0000 = .ok (.spawn 9 10 0) ∧
    decodeWord 0b100010_00000_01010_00000_000_0000_0001 = .ok (.join 10 0) ∧
    decodeWord 0b100011_10100_01000_01001_000_0010_0000 = .ok (.msend 20 8 9 0 2) ∧
    decodeWord 0b100100_00100_00101_00000_000_0001_0000 = .ok (.tpost 4 5 0 1) := by decide
theorem test_decode_streams : decodeWord 0b100101_10101_00110_00111_000_0001_0000 = .ok (.sfork 21 6 7 0 1) ∧
    decodeWord 0b100110_00100_00101_00000_000_0110_0010 = .ok (.cinvk 4 5 0 6) ∧
    decodeWord 0b100111_010_00_00110_01001_000_0011_0010 = .ok (.gmaskS 2 6 9 0 3) := by decide
theorem test_decode_system : decodeWord 0b101000_00101_00000_10101_000_00010000 = .ok (.csrr 5 0 21 0 0) ∧
    decodeWord 0b101001_00010_00000_0000_000000001010 = .ok (.csrfi 2 0 0 0x00A) ∧
    decodeWord 0b101000_00000_00101_00000_000_00000000 = .ok (.trap 5 0) ∧
    decodeWord 0b101000_10100_00101_00000_000_00000011 = .ok (.sysc 20 5 0) := by decide
theorem test_decode_vector : decodeWord 0b110000_001_010_011_00_010_0001_00000000 = .ok (.vadd 1 2 3 0 2 1) ∧
    decodeWord 0b110001_001_010_011_00_101_0010_00000011 = .ok (.vfma 1 2 3 0 5 2) ∧
    decodeWord 0b110010_010_01000_00000_01_101_0100_0000 = .ok (.vld 2 8 1 5 4) ∧
    decodeWord 0b110100_001_010_011_10_101_0000_00000000 = .ok (.vperm 1 2 3 2 5 0) := by decide
theorem test_decode_vector_masks : decodeWord 0b110011_011_001_010_00_101_0000_00010000 = .ok (.vtopk 3 1 2 0 5 0) ∧
    decodeWord 0b110101_0_01_010_011_00_010_0001_00000010 = .ok (.vcmp 1 2 3 0 2 1 2) ∧
    decodeWord 0b110101_0_11_0_01_0_10_00_000_0000_00010000 = .ok (.vmand 3 1 2 0) ∧
    decodeWord 0b110110_010_001_000_00_101_0000_0_00_0_1011 = .ok (.vcvt 2 1 0 0 5 0 0 0 0 11) := by decide
theorem test_decode_sampler : decodeWord 0b110111_100_000_000_10_101_0001_00000010 = .ok (.vban 4 2 1) := by decide
theorem test_decode_tile : (decodeBytes (leBytes 4 0b111100_01001_00000_000_0001_00001_0001 ++ List.replicate 32 0)).toOption =
    some (.tcmd 9 0 0 1 1 1 tiles, []) := by decide
theorem test_decode_refuses : decodeWord 0 = .error .major ∧ decodeWord 0xFFFFFFFF = .error .major ∧
    decodeWord 0b001110_00000_00000_00000_000_00000000 = .error .rsvMajor ∧
    decodeWord 0b000001_00011_00001_00010_000_11111111 = .error .func ∧
    decodeWord 0b001011_001_01_001_00_000_00_000_00000000 = .error .rsvField := by decide

/-! ### States that meet the hypotheses of the statements -/

/-- Whether a strand issues (the terms of `Ready` as a Boolean). -/
def readyB (s : State) (g : BitVec 3) (long : Bool) (reads writes : List RegRef) : Bool :=
  (s.slot s.focus).outs.all (fun o => decide (o.after.length < o.la)) && (!long || decide ((s.slot s.focus).outs.length < 8)) &&
    (s.slot s.focus).readP g && (s.slot s.focus).ready (.p g) &&
    reads.all (fun r => (s.slot s.focus).ready r && !(s.slot s.focus).isVoid r) && writes.all fun r => (s.slot s.focus).ready r

theorem ready_of_readyB {s : State} {g : BitVec 3} {long : Bool} {reads writes : List RegRef}
    (h : readyB s g long reads writes = true) : Ready s g long reads writes := by
  simp only [readyB, Bool.and_eq_true, Bool.or_eq_true, List.all_eq_true, decide_eq_true_eq, Bool.not_eq_true'] at h
  obtain ⟨⟨⟨⟨⟨h1, h2⟩, h3⟩, h4⟩, h5⟩, h6⟩ := h
  exact ⟨h1, fun hl => by simpa [hl] using h2, h3, h4, h5, h6⟩

/-- Slot 0 with a strand: g1 names the own local store at 0x100, g2 is 8, g3 is the slot's own place, p1 is true, p2 false. -/
def strand : Slot :=
  { Slot.reset 0 with occ := .active, pc := ownAddr 0x40, p := 3, g := (Vector.replicate 32 0).set 1 (ownAddr 0x100) |>.set 2 8 }
/-- A part of 2 × 2 packages where slot 0 holds a strand and its turn has come. -/
def base : State :=
  { State.reset with slots := [(0, strand)], torus := (2, 2, 1, 1), pkgid := 0, poolsz := 1, fuseVer := 0, fuseKey := Sha.sha512 [2], images := [], regions := [] }
/-- The same with other contents of slot 0. -/
def withStrand (f : Slot → Slot) : State := { base with slots := [(0, f strand)] }
/-- The same with one long-latency instruction outstanding: number 1, issued at `ownAddr 0x3C`, and a step that names it. -/
def withOp (op : Op) (ds : List RegRef) : State :=
  { withStrand (fun x => { x with outs := [⟨1, 0, ownAddr 0x3C, 15, [], op, ds, .ready, false, false, 0, 0, 0, []⟩], seq := 1 }) with
    ev := { who := 0, n := 1 } }

theorem wit_StepRunsDecoded :
    let s := State.reset.withFetchWord 32 0x08A21FF0
    let a : StepArgs := { who := 0 }
    (s.agenda = .core 0 :: [] ∧ s.frozen = false ∧ ({ s with agenda := [] } : State).turnSlots 0 = 0 :: [] ∧
      regionOf (s.slot 0).pc = .own 0 ∧ (s.slot 0).pt = false ∧
      encodeBytes (.addi 5 2 0 0x1FF0) = some (leBytes 4 0x08A21FF0) ∧ (Instr.addi 5 2 0 0x1FF0).wf = true ∧
      s.readLs (clusterOf 0) 0 4 = leBytes 4 0x08A21FF0) ∧
    ({ s with agenda := [.home 3], boot := 1 } : State).frozen = true ∧ alwaysOn .dispatch = false ∧
    isArrival .dispatch = false ∧ alwaysOn .readRequest = false ∧ isArrival .readRequest = true ∧ a.k = 0 ∧ s.rxRoom a = true ∧
    ({ s with freeze := { s.freeze with pin := true } } : State).frozen = true := by decide +kernel
theorem wit_IssueChecks :
    let s := withStrand fun x => { x with outs := [⟨1, 0, 0, 1, [0], .compute [], [], .ready, false, false, 0, 0, 0, []⟩] }
    let u := withStrand fun x => { x with gst := x.gst.set 4 .void }
    (isWord (.add 3 1 2 0) = true ∧ (s.slot s.focus).outs.any (fun o => decide (o.la ≤ o.after.length)) = true) ∧
    (Instr.csrr 1 0 7 0 0).illegal = some .csrNum ∧ decodeWord 0 = .error .major ∧
    ((base.slot base.focus).outs = [] ∧ (base.slot base.focus).readP 2 = false ∧ (base.slot base.focus).ready (.p 2) = true ∧
      (base.slot base.focus).ready (.g 31) = true) ∧
    ((u.slot u.focus).readP 1 = true ∧ (u.slot u.focus).ready (.p 1) = true ∧ (u.slot u.focus).gState 4 = .void) := by decide
theorem wit_TrapEntry :
    ((base.slot 0).outs = [] ∧ (base.slot 0).fatals = [] ∧ (base.slot 0).gst[2] = .full ∧ (base.slot 0).frozen = false ∧
      (base.slot 0).replay = none ∧ (0x0B : Byte) ≠ 0x07) ∧
    ((withStrand fun x => { x with frozen := true }).slot 0).frozen = true := by decide
theorem wit_TrapInstructions : Ready base 1 false [] [] ∧ Ready base 1 false [] [.g 2] ∧
    (base.slot 0).calm ∧ (base.slot 0).mode = false ∧ ((withStrand fun x => { x with mode := true }).slot 0).mode = true ∧
    (1 : Dword).getLsbD 0 = true :=
  ⟨ready_of_readyB (by decide), ready_of_readyB (by decide), ⟨rfl, rfl, rfl⟩, rfl, rfl, rfl⟩
theorem wit_PendingTraps :
    let t : Trap := ⟨0x06, 4, 0, false, false, [], 0⟩
    let s := { withStrand (fun x => { x with due := some t }) with ev := { who := 0 } }
    let u := { withStrand (fun x => { x with async := [t] }) with ev := { who := 0 } }
    let w := { withStrand (fun x => { x with timecmp := 5, sleeping := some 5 }) with ev := { who := 0 }, timer := 5 }
    (s.ev.who = 0 ∧ (s.slot 0).occ = .active ∧ (s.slot 0).fatals = [] ∧ (s.slot 0).due = some t ∧ (s.slot 0).outs = [] ∧
      (s.slot 0).frozen = false ∧ (s.slot 0).gst[2] = .full) ∧
    ((u.slot 0).due = none ∧ (u.slot 0).async = t :: [] ∧ (u.slot 0).replay = none ∧ (u.slot 0).cmd = none) ∧
    ((withStrand fun x => { x with frozen := true, async := [t] }).slot 0).due = none ∧
    ((w.slot 0).timecmp ≠ 0 ∧ (w.slot 0).timecmp.toNat ≤ w.timer.toNat ∧ (w.slot 0).occ = .active ∧ (w.slot 0).async = [] ∧
      (w.slot 0).sleeping = some 5) := by decide
theorem wit_ScalarResults : Ready base 1 false [.g 1, .g 2, .g 3] [.g 31] ∧ Ready base 0 false [] [.g 31] ∧
    Ready base 1 false [.g 1, .g 2] [.p 7] ∧ Ready base 1 false [.p 1, .p 2] [.p 7] ∧ Ready base 1 false [.g 1, .g 2, .p 7] [.g 0] ∧
    Ready base 1 true [.g 1, .g 2] [.g 31] ∧ (5 : BitVec 3).toNat ≤ 5 ∧ (Instr.fcvt 3 1 2 0 1 5 0).wf = true :=
  ⟨ready_of_readyB (by decide), ready_of_readyB (by decide), ready_of_readyB (by decide), ready_of_readyB (by decide),
    ready_of_readyB (by decide), ready_of_readyB (by decide), by decide, by decide⟩
theorem wit_TransferResults : Ready base 0 false [.p 2] [] ∧ Ready base 0 false [] [.g 1] ∧ Ready base 1 false [.g 1] [.g 1] :=
  ⟨ready_of_readyB (by decide), ready_of_readyB (by decide), ready_of_readyB (by decide)⟩
theorem wit_AccessIssues : Ready base 1 true [.g 1] [.g 31] ∧ Ready base 1 true [.g 1, .g 2] [] ∧
    (base.slot base.focus).acquiring = false ∧ base.accessTrap base.focus (ownAddr 0xF8) 8 false = none ∧
    base.accessTrap base.focus (ownAddr 0x100) 8 true = none ∧ regionOf (ownAddr 0x3C0000) = .own 0x3C0000 ∧
    regionOf 0x1000 = .tenant ∧ 2 ^ 56 ≤ (0x100000000000000 : Dword).toNat :=
  ⟨ready_of_readyB (by decide), ready_of_readyB (by decide), by decide, by decide, by decide, by decide, by decide, by decide⟩
theorem wit_LocalAccessCompletes :
    let s := withOp (.load [(ownAddr 0x100, 8)] [] (.g 5 8 true)) [.g 5]
    let o : Outst := ⟨1, 0, ownAddr 0x3C, 15, [], .load [(ownAddr 0x100, 8)] [] (.g 5 8 true), [.g 5], .ready, false, false, 0, 0, 0, []⟩
    let u := withOp (.store [(ownAddr 0x100, [1, 2])]) []
    let p : Outst := ⟨1, 0, ownAddr 0x3C, 15, [], .store [(ownAddr 0x100, [1, 2])], [], .ready, false, false, 0, 0, 0, []⟩
    (s.ev.who = 0 ∧ s.out? 0 s.ev.n = some o ∧ o.st = .ready ∧ regionOf (ownAddr 0x100) = .own 0x100 ∧
      ((s.slot 0).earlier o).any Outst.readPending = false ∧ s.loadBlocked 0 o [(ownAddr 0x100, 8)] = false) ∧
    (u.out? 0 u.ev.n = some p ∧ (u.slot 0).mayLeave p = true ∧ u.allPerformed (u.slot 0).uid = true) ∧ u.ls.wf = true ∧ u.mem.wf = true := by decide
theorem wit_SyncAccesses :
    let s := withOp (.sync 1 (ownAddr 0x100) 9 0 0) []
    let o : Outst := ⟨1, 0, ownAddr 0x3C, 15, [], .sync 1 (ownAddr 0x100) 9 0 0, [], .ready, false, false, 0, 0, 0, []⟩
    let late := { s with timer := 0x00100001 }
    (Ready base 1 true [.g 1, .g 0] [.g 31] ∧ Ready base 1 true [.g 1, .g 0, .g 2] []) ∧
    ((base.slot base.focus).acquiring = false ∧ (base.slot base.focus).pt = false ∧
      regionOf (base.readG base.focus 1 + base.readG base.focus 0) = .own 0x100 ∧
      (base.readG base.focus 1 + base.readG base.focus 0).toNat % 8 = 0) ∧
    (s.out? 0 s.ev.n = some o ∧ s.syncReady 0 o 1 0 = true ∧ s.syncOlder o (0, 0x100) = false ∧ s.isFull 0 0x100 = true ∧
      (s.setFull 0 0x100 false).isFull 0 0x100 = false) ∧
    ((late.core (coreOf 0)).feretry ≠ 0 ∧ 0 + (late.core (coreOf 0)).feretry.toNat < late.timer.toNat) :=
  ⟨⟨ready_of_readyB (by decide), ready_of_readyB (by decide)⟩, by decide, by decide, by decide⟩
theorem wit_SyncAccesses_parked :
    let o : OpState → Outst := fun st => ⟨1, 0, ownAddr 0x3C, 15, [], .sync 0 (ownAddr 0x100) 0 5 0, [.g 5], st, false, false, 0, 0, 0, [.g 5]⟩
    let s := fun (st : OpState) => ({ withStrand (fun x => { x with outs := [o st], seq := 1, gst := x.gst.set 5 .empty }) with
      ev := { who := 0, n := 1 } } : State).setFull 0 0x100 false;
    (∀ st ∈ [OpState.ready, .parked 0], (s st).out? 0 1 = some (o st) ∧ (s st).syncOlder (o st) (0, 0x100) = false ∧
      (s st).isFull 0 0x100 = false ∧ (o st).dests = [.g 5] ∧ (s st).syncDue 0 (o st) 0 (ownAddr 0x100) = false) ∧
    ((o .ready).arrival = none ∧ (s .ready).syncReady 0 (o .ready) 0 0 = true ∧ (o (.parked 0)).arrival.isSome = true) := by decide
/-- A strand whose relaxed atomic returned a value of another die. -/
def owing : State := withStrand fun x => { x with owed := [Vector.replicate 4 0] }
theorem wit_FencesAndCache :
    let u := base.issued 4 true true
    let z := withStrand fun x => { x with gather := some (Vector.replicate 4 0) }
    (Ready base 1 true [.g 1, .g 2] [] ∧ Ready base 1 true [] [] ∧ Ready base 1 false [] [] ∧ Ready z 1 false [] []) ∧
    u.released base.focus (Scope.ofCode 3) = true ∧ u.released base.focus .system = true ∧
    ((base.issued 4 true).slot base.focus).outs.any Outst.readPending = false ∧ (base.slot base.focus).gather = none ∧
    (base.slot base.focus).owed = [] ∧
    (base.die (dieOf base.focus)).touched = [] ∧ base.requests = [] ∧
    (z.slot z.focus).gather = some (Vector.replicate 4 0) ∧ z.viewCovers (dieOf z.focus) (Vector.replicate 4 0) = true ∧
    ((z.issued 4 true).slot z.focus).outs.any Outst.readPending = false :=
  ⟨⟨ready_of_readyB (by decide), ready_of_readyB (by decide), ready_of_readyB (by decide), ready_of_readyB (by decide)⟩, by decide,
    by decide, by decide, by decide, by decide, by decide, by decide, by decide, by decide, by decide⟩
theorem wit_FencesAndCache_waits :
    let t := base.modDie 0 fun d => { d with touched := [1, 2] };
    (Ready owing 1 false [] [] ∧ Ready t 1 false [] []) ∧
    ((owing.slot 0).owed ≠ [] ∧ (owing.slot 0).owed.all (owing.viewCovers 0) = true ∧
      ((withStrand fun x => { x with owed := [Vector.replicate 4 9] }).slot 0).owed.all (base.viewCovers 0) = false) ∧
    ((t.die 0).touched ≠ [] ∧ (t.issued 4 true true).released 0 .system = true ∧
      (t.requests.filter fun q => q.die == 0).length + (t.die 0).touched.length ≤ 4096) :=
  ⟨⟨ready_of_readyB (by decide), ready_of_readyB (by decide)⟩, by decide, by decide⟩
theorem wit_Atomics :
    let s := withOp (.atomic (ownAddr 0x100) 8 0 5 0 .strand 31) [.g 31]
    let o : Outst := ⟨1, 0, ownAddr 0x3C, 15, [], .atomic (ownAddr 0x100) 8 0 5 0 .strand 31, [.g 31], .ready, false, false, 0, 0, 0, []⟩
    Ready base 0 true [.g 1, .g 2] [.g 31] ∧ Ready base 0 true [.g 1, .g 2, .g 31] [.g 31] ∧
    base.accessTrap base.focus ((base.slot base.focus).readG 1) 8 true = none ∧
    (s.out? 0 s.ev.n = some o ∧ regionOf (ownAddr 0x100) = .own 0x100 ∧ (s.slot 0).mayLeave o = true ∧
      s.allPerformed (s.slot 0).uid = true) ∧
    (∃ z, Ready z 0 true [.g 1, .g 2] [.g 31] ∧ (z.issued 4 true).released z.focus .system = true ∧
      ((z.issued 4 true).slot z.focus).outs.any Outst.readPending = false ∧ (z.slot z.focus).owed = [] ∧ (z.die (dieOf z.focus)).touched = [] ∧ z.requests = [] ∧
      ∃ f, (z.slot z.focus).gather = some f ∧ z.viewCovers (dieOf z.focus) f = true) ∧
    (base.issued 4 true).released base.focus .die = true :=
  ⟨ready_of_readyB (by decide), ready_of_readyB (by decide), by decide, by decide,
    ⟨withStrand fun x => { x with gather := some (Vector.replicate 4 0) }, ready_of_readyB (by decide), by decide, by decide, by decide,
      by decide, by decide, Vector.replicate 4 0, by decide, by decide⟩, by decide⟩
theorem wit_SpawnAndJoin :
    let s := withStrand fun x => { x with g := x.g.set 3 (ownAddr 0x400) }
    let u := { s with ls := s.ls.writeByte 0x100 1 }
    (Ready s 1 true [.g 3, .g 1] [] ∧ Ready s 1 true [.g 1] [] ∧ Ready u 1 true [.g 1] []) ∧
    ((s.slot 0).suspHeld = false ∧ (s.slot 0).noRecord = false ∧ (s.slot 0).occ = .active ∧ (s.core (coreOf 0)).deque.length < 64 ∧ s.objTrap 0 ((s.slot 0).readG 3) 4 2 4 false = none ∧
      regionOf ((s.slot 0).readG 1) = .own 0x100 ∧ s.objTrap 0 ((s.slot 0).readG 1) 128 7 8 false = none ∧
      joinCount (s.lsDword (clusterOf 0) 0x100) ≠ 0xFFFFFFFF ∧ (0x100 + 256 ≤ 2 ^ 22) ∧ joinCount (s.lsDword (clusterOf 0) 0x100) = 0 ∧
      (s.slot 0).mark = none) ∧
    (joinCount (u.lsDword (clusterOf 0) 0x100) ≠ 0 ∧ joinTaken (u.lsDword (clusterOf 0) 0x100) = false ∧
      joinTaken (s.lsDword (clusterOf 0) 0x100) = false ∧ joinTaken 0x4000000000000000 = true) :=
  ⟨⟨ready_of_readyB (by decide), ready_of_readyB (by decide), ready_of_readyB (by decide)⟩, by decide, by decide⟩
theorem wit_StrandResults :
    let full := base.modCore 0 fun c => { c with runq := List.replicate 32 ⟨0, 0, 0, [], 0, 0, 0, 0, 0, none, none, none, [], 0⟩ }
    (Ready base 1 true [] [.g 12] ∧ Ready full 1 true [] [] ∧ Ready base 1 true [.g 3, .g 2] [.g 4] ∧ Ready base 1 true [.g 3, .v 7] [.g 12]) ∧
    ((base.slot 0).suspHeld = false ∧ (base.slot 0).noRecord = false ∧ (base.slot 0).mark = none ∧ (base.slot 0).occ = .active ∧ (base.core (coreOf 0)).runq.length < 32 ∧
      32 ≤ (full.core (coreOf 0)).runq.length ∧ (12 : BitVec 5).toNat ≤ 12 ∧ (base.slot 0).gState 12 = .full ∧
      (base.slot 0).pureBound = false ∧ placeCluster ((base.slot 0).readG 3) < 40 ∧
      placePkg ((base.slot 0).readG 3) = base.pkgid.toNat) :=
  ⟨⟨ready_of_readyB (by decide), ready_of_readyB (by decide), ready_of_readyB (by decide), ready_of_readyB (by decide)⟩, by decide⟩

/-- The record of a strand of tenant 5 that goes on at `ownAddr 0x80`. -/
def waitingRec : StrandRec := ⟨ownAddr 0x80, 0x101, 0x50000, List.replicate 12 7, 0, 0, 0, 0, 0, none, none, none, [], 0⟩
/-- A message on its way, and the step that names it. -/
def withMsg (m : Msg) : State := { base with msgs := [m], nextN := 9, ev := { who := m.n } }
/-- A strand of tenant 5 whose pages 1 and 2 are in the TLBs of every die, readable, writable and exclusive. -/
def mapped (f : Slot → Slot) : State :=
  { withStrand (fun x => f { x with tenant := 5 }) with
    tenants := [(5, ⟨0x200000, 0, 0, 100, 0, 7, false⟩)]
    tlb := [⟨0, none, 0x200000, 1, 16, 0x10007, true⟩, ⟨0, none, 0x200000, 2, 16, 0x20007, true⟩]
    frames := [(1, ⟨1, 0, 0, false, false, false, false, false, 5, 0, 0, []⟩),
      (2, ⟨1, 0, 0, false, false, false, false, false, 5, 0, 0, []⟩)] }
/-- A posted write of a control register that slot 0 waits for. -/
def posted (n : Nat) (v : Dword) : State := { withStrand (fun x => { x with cmd := some (n, v) }) with ev := { who := 0 } }

theorem wit_StrandSteps :
    let s := (withMsg { Msg.to 1 0 with n := 5, src := 8, mbox := 4, record := some waitingRec }).modSlot 8
      fun x => { x with occ := .migrating 5 }
    let f := s.modCore 0 fun c => { c with runq := List.replicate 32 waitingRec }
    let a := { (withMsg { Msg.to 2 0 with n := 6, src := 0, mbox := 4, bytes := [6, 255] }).modSlot 0
      (fun x => { x with occ := .migrating 6 }) with ev := { who := 0 } }
    let j := withMsg { Msg.to 3 0 with n := 5, record := some waitingRec, join := some (2 ^ 50 + 0x100, ownAddr 0x100) }
    let w := { withMsg { Msg.to 4 200 with n := 5, record := some waitingRec } with
      requests := [⟨1, 0, 1, 0x23, 0, .device 5, 0, [], some (6, [])⟩], timer := 1024 }
    let e := ({ base with ev := { who := 1 } }).modCore 0 fun c => { c with runq := [waitingRec] }
    let v := (List.range 8).foldl (fun (s : State) i => s.modSlot (8 + i) fun x => { x with occ := .active })
      { (base.modCore 1 fun c => { c with deque := [waitingRec] }) with ev := { who := 1 } }
    (s.msg? 5 1 = some { Msg.to 1 0 with n := 5, src := 8, mbox := 4, record := some waitingRec } ∧ (s.core 0).fwd = none ∧
      s.msgTurn { Msg.to 1 0 with n := 5, src := 8, mbox := 4, record := some waitingRec } = true ∧ (s.slot 8).occ = .migrating 5 ∧ (s.core 0).runq.length < 32 ∧ 32 ≤ (f.core 0).runq.length) ∧
    ((a.slot 0).occ = .migrating 6 ∧ (a.msgs.find? fun u => decide (u.kind = 2 ∧ u.src = 0)).isSome = true) ∧
    ((j.msg? 5 3).map (fun m => (m.core, m.record, m.join)) = some (0, some waitingRec, some (2 ^ 50 + 0x100, ownAddr 0x100)) ∧
      (j.core 0).fwd = none ∧ (j.pushNear 0 waitingRec).isSome = true) ∧
    ((w.msg? 5 4).isSome = true ∧ (w.requests.find? fun q => decide (q.who = .device 5)).isSome = true ∧ 0 + 1024 ≤ w.timer.toNat) ∧
    ((e.slot 1).occ = .empty ∧ e.urgentSlot 1 = false ∧ (e.core 0).fwd = none ∧ (e.takeRec 0).map (·.1) = some waitingRec) ∧
    ((v.takeRec 0).isNone = true ∧ v.dispatchFor 0 = false ∧ v.stealFrom 1 = some (.inl 1) ∧ v.farEnd (.inl 1) = some waitingRec) ∧
    ((base.slot 0).occ = .active ∧ (base.die 0).deck.length < 65536) ∧
    (s.moveInto 0 = false ∧ j.moveInto 0 = false ∧ e.moveInto 0 = false ∧ v.moveInto 1 = false ∧ waitingRec.ctx = none ∧
      (a.msgs.all a.msgTurn) = true ∧ a.taskStopped (a.slot 0).owner (a.slot 0).tenant = false) := by decide
theorem wit_MessageResults :
    let s := withMsg { Msg.to 0 0 with n := 5, src := 0, mbox := 3, bytes := [1, 2] }
    let f := s.modCore 0 fun c => { c with mbox := Vector.replicate 16 (some [7]), mpend := List.replicate 16 (3, [8]) }
    let h := f.modSlot 0 fun x => { x with outs := [⟨1, 0, 0, 15, [], .msend 0 (ownAddr 0x100) (some 5) 4, [.g 4], .ready, false, false, 0, 0, 0, []⟩] }
    (Ready base 1 true [.g 3, .g 1] [.g 31] ∧ Ready base 1 true [.g 3] [.g 31]) ∧
    ((base.slot base.focus).acquiring = false ∧ (base.slot base.focus).pt = false ∧ placeCluster ((base.slot base.focus).readG 3) < 40 ∧
      base.objTrap base.focus ((base.slot base.focus).readG 1) 8 3 (8 * (((base.slot base.focus).readG 3).toNat / 2 ^ 56)) false = none ∧
      base.accessTrap base.focus ((base.slot base.focus).readG 1) 8 true = none) ∧
    (s.moveInto 0 = false ∧ (s.msg? s.ev.who 0).map (s.msgTurn ·) = some true ∧ (s.core 0).fwd = none ∧ (s.core 0).mbox.get (mboxFin 3) = none) ∧
    ((f.core 0).mbox.get (mboxFin 3) ≠ none ∧ 16 ≤ (f.core 0).mpend.length ∧ (h.slot 0).outs.length = 1) :=
  ⟨⟨ready_of_readyB (by decide), ready_of_readyB (by decide)⟩, by decide, by decide, by decide⟩
/-- A card at 0x10000 whose STATUS is `st`. -/
def withCard (st : Byte) : State :=
  ((mapped fun x => { x with mode := false, g := x.g.set 4 0x10000 |>.set 5 17 |>.set 6 18 |>.set 7 0x40 }).pokeAll 0x10000
    ([0, 0, 1, 0] ++ List.replicate 20 0 ++ [5, 0, 0, 0, 1] ++ List.replicate 19 0 ++ [st]))
/-- A strand in the handler of a purity violation. -/
def trapped : State := withStrand fun x => { x with purity := some (1, 0x80, 0x1000) }
theorem wit_TaskResults :
    let s := withCard 0
    let u := (mapped fun x => { x with mode := true, g := x.g.set 5 16 |>.set 7 (ownAddr 0x200) }).modDie 0 fun d =>
      { d with faultq := [List.replicate 32 3], dealer := [9] }
    let j := withStrand fun x => { x with joinblk := ownAddr 0x100 }
    let jb := { j with ls := j.ls.writeByte 0x100 1 }
    (Ready s 1 true [.g 4] [.g 31] ∧ Ready s 1 true [.g 5, .g 7] [.g 31] ∧ Ready u 1 true [.g 5, .g 7] [.g 31] ∧ Ready jb 1 true [] []) ∧
    ((s.slot 0).pt = false ∧ (s.slot 0).acquiring = false ∧ regionOf (s.readG 0 4) = .tenant ∧ (s.readG 0 4).toNat % 128 = 0 ∧
      s.strandLaunch 0 5 = none ∧ s.issueBlocked 0 [(s.readG 0 4, 128)] = false ∧ s.heldFor 0 0 = false ∧ s.announceRoom 0 = true) ∧
    (cardStatus (s.readView 0 0x10000 128) = 0 ∧ cardPredcnt (s.readView 0 0x10000 128) = 0 ∧
      cardBad (s.readView 0 0x10000 128) 5 = none ∧ (s.queueOf 0 0).length < queueCap 0 ∧ s.cardTask 0x10000 5 = none ∧
      cardStatus ((withCard 2).readView 0 0x10000 128) = 2) ∧
    ((s.readG 0 7).toNat % 64 = 0 ∧ (s.die 0).dealer.length < 4096 ∧ 17 < (s.readG 0 6).toNat ∧ s.firstTask 0 0 = none) ∧
    ((u.slot 0).mode = true ∧ u.readG 0 5 = 16 ∧ (u.die 0).faultq = List.replicate 32 3 :: [] ∧ regionOf (u.readG 0 7) = .own 0x200) ∧
    ((jb.slot 0).suspHeld = false ∧ jb.urgentSlot 0 = false ∧ (jb.slot 0).unresumed = none ∧ (jb.slot 0).joinblk ≠ 0 ∧ jb.ownerTask 0 0 = none ∧
      jb.sweepLaunch 0 = none ∧ (jb.issued 4).released 0 .package = true ∧ regionOf (jb.slot 0).joinblk = .own 0x100 ∧
      joinCount (jb.lsDword (clusterOf 0) 0x100) = 1 ∧ joinW (jb.lsDword (clusterOf 0) 0x100) = false) ∧
    (∃ e : Byte × Byte × Dword × Dword, (trapped.slot 0).unresumed = some e ∧ Ready trapped 1 true [] [] ∧ (trapped.slot 0).suspHeld = false ∧
      (trapped.die 0).faultq.length + (trapped.die 0).faultWait.length < 1024) :=
  ⟨⟨ready_of_readyB (by decide), ready_of_readyB (by decide), ready_of_readyB (by decide), ready_of_readyB (by decide)⟩,
    by decide, by decide, by decide, by decide, by decide, ⟨_, rfl, ready_of_readyB (by decide), by decide, by decide⟩⟩
theorem wit_TaskCardMapped : ((withCard 0).issued 4).Mapped ((withCard 0).whoSlot 0 (.issue 0)) 0x10000 128 4 1 0x10000 ∧
    ((withCard 0).issued 4).Writable ((withCard 0).whoSlot 0 (.issue 0)) (0x10000 + 0x30) 1 5 0x10030 := ⟨rfl, rfl⟩
theorem wit_ControlRegisters :
    let s := { mapped (fun x => x) with qps := [(7, { QueuePair.zero with opened := true, tenant := 5 })] }
    (Ready base 1 false [] [.g 31] ∧ Ready base 1 false [.g 2] [] ∧
      Ready s 1 false (.g 3 :: (List.range 8).map fun i => .g (BitVec.ofNat 5 (4 + i))) [.g 31]) ∧
    (csrAssigned (csrNumber 0 0 6) = true ∧ csrAssigned (csrNumber 0 3 16) = true ∧ base.csrTrap 0 0x070 true true 8 = none ∧
      base.csrTrap 0 0x070 true false 0 = none ∧ (base.slot 0).tenant = 0 ∧ (s.slot 0).tenant ≠ 0 ∧
      s.freeSys (dieOf 0) = some 0 ∧ (s.qp (s.sysQp 5)).opened = true) ∧
    ((base.slot 0).frozen = false ∧ ((withStrand fun x => { x with frozen := true }).slot 0).frozen = true) :=
  ⟨⟨ready_of_readyB (by decide), ready_of_readyB (by decide), ready_of_readyB (by decide)⟩, by decide, by decide⟩
theorem wit_RegisterSteps : (posted 0x0A0 9).cmd? 0 0x0A0 = some 9 ∧ (posted 0x0D0 (ownAddr 0x100)).ls.wf = true ∧
    regionOf (ownAddr 0x100 &&& 0x00FFFFFFFFFFFF00) = .own 0x100 ∧ ({ posted 0x084 1 with
      tenants := [(0, ⟨0x200000, 0, 0, 1, 0, 7, false⟩)] } : State).rootOf (.tenant 0) = some 0x200000 ∧ (posted 0x020 3).accBusy 0 3 = false ∧ ((posted 0x020 3).core 0).accmask = 0 ∧
    (posted 0x020 0).accInUse 0 7 = false := by decide
theorem wit_SaveSteps :
    let save : Dword := 0x0100000000000000
    let a := (posted 0x0E1 save).modSlot 1 fun x => { x with occ := .active }
    let b := posted 0x0E1 0x1100000000000000
    let c := { posted 0x0E1 0x2000000000000001 with
      tlb := [⟨0, none, 0x200000, 1, 16, 0x10007, true⟩]
      tenants := [(0, ⟨0x200000, 0, 0, 1, 0, 7, false⟩)] }
    let m := (posted 0x0E1 0x4001000000000000).modCore 0 fun c => { c with moving := true, fwd := some 4 }
    let q := posted 0x0E1 0x4001000000000000
    let e := posted 0x0E1 0x5000000000000000
    let n := { base.modCore 1 (fun c => { c with fwd := some 4, fwdq := [(8, 5, 77, false)] }) with ev := { who := 1 } }
    (a.cmd? 0 0x0E1 = some save ∧ saveOp save = 0 ∧ save.getLsbD 59 = false ∧ saveTarget 0 save = 1 ∧ a.urgentSlot 1 = false ∧
      (a.slot 1).occ = .active ∧ (a.slot 1).outs = [] ∧ (a.slot 1).fatals = [] ∧ (a.slot 1).due = none ∧ (a.slot 1).cmd = none ∧
      (a.slot 1).replay = none ∧ (a.slot 1).anyEmpty = false ∧ a.allVisible (a.slot 1).uid = true ∧
      (a.slot 1).seen.all (a.viewCovers (dieOf 1)) = true ∧ a.owing 1 = false) ∧
    (saveOp 0x1100000000000000 = 1 ∧ saveTarget 0 0x1100000000000000 = 1 ∧ (b.slot 1).occ = .empty ∧ b.areaBad 1 = false) ∧
    (saveOp 0x2000000000000001 = 2 ∧ bits 0x2000000000000001 45 0 < 64 ∧ c.streamVa 0 1 = 0x10000 ∧ c.announceRoom 0 = true) ∧
    (saveOp 0x4001000000000000 = 4 ∧ (m.core 0).moving = true ∧ moveTarget 0x4001000000000000 = 4 ∧ base.moveOk 0 4 = true) ∧
    ((q.core 0).moving = false ∧ q.moveOk 0 4 = true ∧ (q.core 4).runq = [] ∧ (q.core 4).deque = [] ∧
      ∀ j ∈ q.movedSlots 0, (q.slot j).outs = [] ∧ (q.slot j).cmd = none ∧ (q.slot j).due = none ∧ (q.slot j).fatals = [] ∧
        (q.slot j).replay = none ∧ ((q.slot j).occ = .active ∨ (q.slot j).occ = .empty)) ∧
    (saveOp 0x5000000000000000 = 5 ∧ (e.core 0).fwdq = [] ∧ (n.core 1).fwdq ≠ []) ∧
    ((n.core 1).fwdq = (8, 5, 77, false) :: [] ∧ (n.core 1).fwd = some 4 ∧ (n.core 1).moving = false) ∧
    ((base.slot 9).holdsStrand = false ∧ (base.core 1).fwd = none) := by decide
/-- Whether a run goes through. -/
def through {α : Type} (r : Except Stop (α × State)) : Bool :=
  match r with
  | .ok _ => true
  | .error _ => false
theorem ok_of_through {α : Type} {r : Except Stop (α × State)} (h : through r = true) : ∃ a t, r = .ok (a, t) := by
  cases r with
  | ok x => exact ⟨x.1, x.2, rfl⟩
  | error e => cases h
theorem ok_of_bind {α β : Type} {m : M α} {f : α → M β} {s : State} (h : through ((m >>= f) s) = true) :
    ∃ a t, m s = .ok (a, t) ∧ through (f a t) = true := by
  cases hm : m s with
  | ok x => exact ⟨x.1, x.2, rfl, by simpa [bind, StateT.bind, Except.bind, hm] using h⟩
  | error e => simp [bind, StateT.bind, Except.bind, hm, through] at h
/-- Whether a run gives a value and leaves the state as it is. -/
def gives {α : Type} [DecidableEq α] (r : Except Stop (α × State)) (a : α) (s : State) : Bool :=
  match r with
  | .ok x => decide (x.1 = a) && decide (x.2 = s)
  | .error _ => false
theorem ok_of_gives {α : Type} [DecidableEq α] {r : Except Stop (α × State)} {a : α} {s : State} (h : gives r a s = true) :
    r = .ok (a, s) := by
  cases r with
  | ok x => obtain ⟨rfl, rfl⟩ : x.1 = a ∧ x.2 = s := by simpa [gives] using h
            rfl
  | error e => cases h

theorem wit_SaveSteps_load :
    let c := { posted 0x0E1 0x3000000000000001 with
      tlb := [⟨0, none, 0x200000, 1, 16, 0x10007, true⟩]
      tenants := [(0, ⟨0x200000, 0, 0, 1, 0, 7, false⟩)]
      frames := [(1, ⟨1, 0, 0, false, false, false, false, false, 0, 0, 0, []⟩)] };
    saveOp 0x3000000000000001 = 3 ∧ c.cmd? 0 0x0E1 = some 0x3000000000000001 ∧
      through (readMem { c.whoSlot 0 (.issue 0) with tenant := 0 } (c.streamVa 0 1) 65536 4 c) = true ∧
      c.Writable { c.whoSlot 0 (.issue 0) with tenant := 0 } (c.streamVa 0 1) 65536 5 0x10000 :=
  ⟨by decide, by decide, by decide +kernel, ok_of_gives (by decide +kernel)⟩
/-- A stream control block of tenant 5 with fields (offset, bytes, value). -/
def block (state flags : Nat) (fs : List (Nat × Nat × Nat)) : List Byte :=
  fs.foldl (fun r f => wr r f.1 f.2.1 f.2.2) (wr (wr (wr (List.replicate 256 0) 4 2 5) 6 1 state) 7 1 flags)
/-- Stream 3 with a block, named by g4, with g5 beside it. -/
def withStream (r : List Byte) (v : Dword) : State :=
  { mapped (fun x => { x with g := x.g.set 4 3 |>.set 5 v }) with scbs := [(3, r)] }
/-- A sibling group of tenant 5 that is open. -/
def openGroup : Group := ⟨wr (wr (List.replicate 64 0) 4 2 5) 0xF 1 1, []⟩

theorem wit_StreamResults :
    let run := withStream (block 2 128 [(0x20, 4, 7), (0x1C, 1, 4)]) 0x10000
    let ready := withStream (block 1 0 [(0x20, 4, 7), (0x1C, 1, 4)]) 2
    let dead := withStream (block 6 128 []) 2
    let joining := { ready with groups := [(2, openGroup)] }
    (Ready run 1 true [.g 4] [.g 31] ∧ Ready run 1 true [.g 4, .g 5] [.g 31] ∧ Ready run 1 true [.g 4] [.g 0]) ∧
    ((run.slot 0).pt = false ∧ (run.slot 0).acquiring = false ∧ sidOk 3 = true ∧ bits (run.readG 0 4) 31 0 = 3 ∧
      scbTenant (run.scb 3) = (run.slot 0).tenant ∧ scbPinned (run.scb 3) = true ∧ scbState (run.scb 3) = 2 ∧
      scbHorizon (run.scb 3) ≠ 0) ∧
    (scbPinned (dead.scb 3) = true ∧ scbState (dead.scb 3) = 6) ∧
    (scbState (ready.scb 3) ∈ [1, 2, 3, 4] ∧ scbGroup (ready.scb 3) = 0 ∧ (ready.freeStream (scbHome 3)).isSome = true ∧
      (ready.nodeDesc (scbRoot (ready.scb 3))).refcnt ≠ 0xFFFFFFFF) ∧
    joining.groupOpen (joining.readG 0 5).toNat 5 = true ∧
    ((ready.readG 0 5).toNat % 256 ∈ [2, 3, 4] ∧ scbStop (ready.scb 3) = 0 ∧
      scbStop ((withStream (block 1 0 [(0x1E, 1, 4)]) 2).scb 3) ≠ 0) ∧
    (actionCount (run.scb 3) ≠ 2 ^ scbAlog2 (run.scb 3) ∧ run.objTrap 0 0x10000 8 3 64 false = none ∧
      run.issueBlocked 0 [(0x10000, 64)] = false) ∧
    scbEvkind (run.scb 3) ≠ 3 :=
  ⟨⟨ready_of_readyB (by decide), ready_of_readyB (by decide), ready_of_readyB (by decide)⟩, by decide, by decide, by decide,
    by decide, by decide, by decide, by decide⟩
/-- Stream 3 with a queue of 16 actions at state address 0, which is page 3 of the pool, and an action at 0x10000. -/
def acting : State :=
  { withStream (block 1 0 [(8, 8, 0x300000), (0x1C, 1, 4)]) 0x10000 with
    tlb := [⟨0, none, 0x200000, 1, 16, 0x10007, true⟩, ⟨0, none, 0x300000, 0, 16, 0x30007, true⟩]
    frames := [(1, ⟨1, 0, 0, false, false, false, false, false, 5, 0, 0, []⟩), (3, ⟨1, 0, 0, false, false, false, false, false, 5, 0, 0, []⟩)] }
theorem wit_StreamResults_act :
    let t := acting.issued 4
    let w := acting.whoIssue 31
    let ws := { w with stream := some 3 };
    Ready acting 1 true [.g 4, .g 5] [.g 31] ∧ actionCount (acting.scb 3) ≠ 2 ^ scbAlog2 (acting.scb 3) ∧
    readMem w 0x10000 64 0 t = .ok (List.replicate 64 0, t) ∧ placeWrite ws 0xFE000000000000 64 1 t = .ok (.mem 0x30000, t) ∧
    ∃ a u, settledWrite ws (.mem 0x30000) (List.replicate 64 0) t = .ok (a, u) :=
  ⟨ready_of_readyB (by decide), by decide, ok_of_gives (by decide +kernel), ok_of_gives (by decide +kernel), ok_of_through (by decide +kernel)⟩
theorem wit_StreamEvictions :
    let idle := withStream (block 1 0 []) 0
    let held := withStream (block 1 0 [(0x74, 4, 1)]) 0
    let out := withStream (block 5 0 []) 1
    let two := withStream (block 1 0 []) 2
    let most := withStream (block 1 0 []) 0x10000
    (Ready idle 1 true [.g 4, .g 5] [.g 31] ∧ idle.readG 0 5 = 0 ∧ idle.candidate 3 = false) ∧
    (held.candidate 3 = true ∧ held.evictQuiet 3 = true ∧ (held.evict 0 3 State.evictMove).isSome = true ∧ held.roundQuiet 0 = true) ∧
    (out.readG 0 5 = 1 ∧ scbState (out.scb 3) = 5 ∧ scbEvkind (out.scb 3) ≠ 3) ∧
    ((withStream (block 1 0 []) 1).readG 0 5 = 1 ∧ two.readG 0 5 = 2 ∧
      ((mapped fun x => { x with mode := true }).slot 0).mode = true ∧ 2 < (most.readG 0 5).toNat) ∧
    (scbState (most.scb 3) ∈ [1, 3, 4] ∧ bits ((most.readG 0 4) + 0x100000000) 47 32 ≠ most.pkgid.toNat ∧ most.lastPage 3 = false ∧
      most.objTrap 0 0x10000 8 3 8 true = none) ∧
    (scbState ((withStream (block 0 0 []) 0).scb 3) = 0) ∧
    (groupImageBad (wr (List.replicate 64 0) 0x20 4 1) = false ∧ most.freeGroup 0 = some 1 ∧ (block 1 0 []).length = 256) :=
  ⟨⟨ready_of_readyB (by decide), by decide, by decide⟩, by decide, by decide, by decide, by decide, by decide, by decide⟩
theorem wit_StreamResults_units :
    let out := withStream (block 5 0 []) 1
    let s := (withStream (block 1 0 []) 0x10000).pokeAll 0x10020 [1];
    through (restoreM (out.whoIssue 31) 3 (out.issued 4)) = true ∧
    (s.objTrap 0 0x10000 64 6 64 false = none ∧ s.issueBlocked 0 [(0x10000, 64)] = false ∧ s.freeGroup 0 = some 1 ∧
      readMem (s.whoIssue 31) 0x10000 64 0 (s.issued 4) = .ok (wr (List.replicate 64 0) 0x20 1 1, s.issued 4) ∧
      groupImageBad (wr (List.replicate 64 0) 0x20 1 1) = false) :=
  ⟨by decide +kernel, by decide, by decide, by decide, ok_of_gives (by decide +kernel), by decide⟩
/-- Tenant 5 with page tables: page 1 is frame 1, with every permission and a content hash; page 2 is held by the host. -/
def paged (f : Slot → Slot) : State :=
  { (mapped f).setEntry 0x200000 0x202001 |>.setEntry 0x202000 0x204001 |>.setEntry 0x204000 0x206001
      |>.setEntry 0x206008 0x1020F |>.setEntry 0x206010 0x100 with
    tlb := []
    nodes := [(0x100, ⟨1, 3, false, 5⟩), (0x101, ⟨1, 2, false, 5⟩), (0x102, ⟨1, 1, false, 5⟩), (0x103, ⟨1, 0, false, 5⟩)]
    frames := [(1, ⟨1, 0, 0, false, false, false, false, true, 5, 7, 8, []⟩)] }
/-- A store or an atomic of slot 0 to page 1, whose frame has a reference count. -/
def walks (op : Op) (ds : List RegRef) (n : Nat) : State :=
  { paged (fun x => { x with outs := [⟨1, 0, ownAddr 0x3C, 15, [], op, ds, .ready, false, false, 0, 5, 0, []⟩] }) with
    frames := [(1, ⟨n, 0, 0, false, false, false, false, true, 5, 7, 8, []⟩)]
    ev := { who := 0, n := 1 } }
def walkOps : List (Op × List RegRef) :=
  [(.store [(0x10008, [1, 2])], []), (.atomic 0x10008 8 0 5 0 .strand 31, [.g 31]), (.redord 0x10008 8 5 0 .die 31 false, [.g 31])]
theorem wit_WalkResumes : ∀ p ∈ walkOps,
    let s := walks p.1 p.2 1
    let r := s.writeWalk (.tenant 5) 0x10008
    let u := walks p.1 p.2 2
    let b := { s with copies := [⟨4, 0x103, 0x206008, 0x10000, 0x30000, 0x200000, 1, 77, none⟩] };
    (s.out? 0 1 = some ⟨1, 0, ownAddr 0x3C, 15, [], p.1, p.2, .ready, false, false, 0, 5, 0, []⟩ ∧
      ((s.slot 0).outs.map ((s.slot 0).mayLeave ·)) = [true] ∧ regionOf 0x10008 = .tenant ∧ s.faultOf (.op 0 1) 0x10008 = none ∧
      s.tlbFind 0 (some 0) ((s.rootOf (.tenant 5)).getD 0) 0x10008 = none) ∧
    ((match r.2 with | .frame pa => pa == 0x10000 | _ => false) = true ∧
      (match r.1.walk (.tenant 5) 0x10008 with | .leaf .. => true | _ => false) = true ∧ r.1.announceRoom 0 = true ∧
      r.1.canPerformNow 0 0x10008 8 = true ∧ r.1.oldFrame 0x10008 = false) ∧
    ((match (u.writeWalk (.tenant 5) 0x10008).2 with | .copying _ => true | _ => false) = true ∧
      (match (b.writeWalk (.tenant 5) 0x10008).2 with | .busy _ => true | _ => false) = true) := by decide +kernel
/-- A pure card without regions or arguments. -/
def pureCard : List Byte := wr (wr (wr (wr (List.replicate 128 0) 0 8 0x10000) 0x18 2 5) 0x1B 1 0x80) 0x1C 1 1
/-- A key is found, nothing that it read is being invalidated, and CPUT of it goes through; the state stays as it is. -/
def keyed (z : State) (r : Except Stop (Option (List Byte × List Nat) × State)) : Bool :=
  match r with
  | .ok (some p, u) => decide (u = z) && !z.invalWaits p.2 && through (castInsert (z.whoIssue 31) false pureCard p.1 p.2 z)
  | _ => false
theorem key_of_keyed {z : State} {r : Except Stop (Option (List Byte × List Nat) × State)} (h : keyed z r = true) :
    ∃ key reads, r = .ok (some (key, reads), z) ∧ z.invalWaits reads = false ∧
      ∃ c u, castInsert (z.whoIssue 31) false pureCard key reads z = .ok (c, u) := by
  unfold keyed at h
  split at h
  · rename_i p u
    simp only [Bool.and_eq_true, decide_eq_true_eq, Bool.not_eq_true'] at h
    exact ⟨p.1, p.2, by rw [h.1.1], h.1.2, ok_of_through h.2⟩
  · cases h
theorem wit_CastResults :
    let s := (mapped fun x => { x with mode := true, g := x.g.set 4 0x10000 |>.set 6 5 }).pokeAll 0x10000 pureCard
    let u := s.issued 4
    let e : CastEntry := ⟨s.readView 0 0x10000 32, 5, 0, 0, 0, 0, 0, [], [], []⟩
    (Ready s 1 true [.g 4, .g 0] [.g 31] ∧ Ready s 1 true [.g 4] [.g 31]) ∧
    (readObj s 31 0x10000 128 u = .ok (s.readView 0 0x10000 128, u) ∧ readObj s 31 0x10000 32 u = .ok (s.readView 0 0x10000 32, u)) ∧
    (s.objTrap 0 0x10000 128 7 128 false = none ∧ s.objTrap 0 0x10000 8 3 32 false = none ∧ (s.slot 0).mode = true) ∧
    (taskKey (s.whoIssue 31) (wr pureCard 0x1B 1 0) u = .ok (none, u)) ∧
    (let z := paged fun x => x
      ∃ key reads, taskKey (z.whoIssue 31) pureCard z = .ok (some (key, reads), z) ∧ z.invalWaits reads = false ∧
        ∃ c u, castInsert (z.whoIssue 31) false pureCard key reads z = .ok (c, u)) ∧
    (u.castFind (s.readView 0 0x10000 32) 5 = none ∧ (({ u with cast := [(0x800, e)] } : State).castFind (s.readView 0 0x10000 32) 5) = some (0x800, e) ∧
      (s.readG 0 6).toNat % 65536 = (s.slot 0).tenant.toNat) :=
  ⟨⟨ready_of_readyB (by decide), ready_of_readyB (by decide)⟩, ⟨ok_of_gives (by decide +kernel), ok_of_gives (by decide +kernel)⟩,
    by decide, ok_of_gives (by decide +kernel), key_of_keyed (by decide +kernel), by decide +kernel⟩
/-- A grammar image of two tokens, one terminal and two states: token 0 leads from state 0 to state 1, and no other step exists. -/
def gramCells : List (Nat × Byte) :=
  [(0, 0x31), (1, 0x52), (2, 0x47), (3, 0x4A), (4, 1), (8, 2), (0xC, 2), (0x10, 1), (0x12, 1), (0x18, 0x40), (0x20, 0x80), (0x29, 1),
    (0x30, 0x40), (0x31, 2), (0x40, 1), (0x47, 0x10), (0x80, 0xC0), (0x94, 1), (0xA1, 2), (0xC0, 2), (0xC8, 1), (0x100, 0x40),
    (0x101, 1), (0x104, 1)]
def gramImage : List Byte := (List.range 0x240).map fun i => (gramCells.lookup i).getD 0
/-- Tenant 5 with grammar 1 loaded, and a stream whose configuration is its start. -/
def withGrammar (v : Dword) : State :=
  { withStream (block 1 0 [(0x38, 8, 0x01000000)]) v with grams := [(1, ⟨5, gramImage, [0x20000], false⟩)] }
theorem wit_GrammarResults :
    let s := (withGrammar 1).modSlot 0 fun x => { x with g := x.g.set 6 0x01000000 |>.set 7 0x10000 |>.set 8 0 }
    let t := s.issued 4
    let w := t.whoGram 0 (.issue 0)
    (Ready s 1 true [.g 4, .g 5] [.g 31] ∧ Ready s 1 true [.g 6, .g 7] [.p 7] ∧ Ready s 1 true [.g 6, .g 8] []) ∧
    ((s.slot 0).pt = false ∧ (s.slot 0).acquiring = false ∧ sidOk 3 = true ∧ scbState (s.scb 3) ≠ 0 ∧ scbState (s.scb 3) ≠ 6 ∧
      scbTenant (s.scb 3) = (s.slot 0).tenant ∧ (s.readG 0 8).toNat % 256 = 0 ∧ (s.readG 0 5).toNat % 256 ≠ 0 ∧
      (s.gramFor 5 1).isSome = true ∧ s.objTrap 0 0x10000 64 6 64 true = none) ∧
    (s.cfgBad 5 0x01000000 = none ∧ s.cfgBad 5 (scbGcfg (s.scb 3)) = none ∧ bits (s.readG 0 5) 43 32 = 0 ∧ s.gramFor 5 (cfgGram 0) = none ∧
      s.advanceBad 5 0x01000000 1 (some 0) = none ∧ s.advanceBad 5 0x01000000 0 none = none ∧ s.committing 0 = false ∧
      s.committing (handleArena (cfgTop 0x01000000)) = false) ∧
    (runToken w gramImage 0x01000000 1 t = .ok (.reject, t) ∧ runToken w gramImage 0x01000000 0 t = .ok (.accept 1 0 [] 0, t)) :=
  ⟨⟨ready_of_readyB (by decide), ready_of_readyB (by decide), ready_of_readyB (by decide)⟩, by decide, by decide, ⟨rfl, rfl⟩⟩

theorem wit_Vector : Ready base 0 true [.v 1, .v 2, .v 7, .m 3, .g 1, .g 2] [.v 7] ∧ Ready base 0 true [.v 1, .v 2, .m 3] [.m 2] ∧
    Ready base 0 true [.v 1, .m 3] [.g 31] ∧ base.vecFull = false ∧ (base.slot 0).acquiring = false ∧
    (∀ e ∈ (List.range 64).filter fun i => ((base.slot 0).readM 0).getLsbD i,
      base.accessTrap 0 (base.readG 0 1 + BitVec.ofNat 64 (e * 8)) 8 true = none) ∧ typeWide 3 = true ∧
    base.accessTrap 0 (base.readG 0 1) 64 true = none ∧ (Instr.vcvt 3 1 0 0 5 2 0 0 0 11).wf = true :=
  ⟨ready_of_readyB (by decide), ready_of_readyB (by decide), ready_of_readyB (by decide), by decide, by decide, by decide, by decide,
    by decide, by decide⟩

/-- The payload of an opcode that writes accumulator slot 1 and names rings 0 and 1, with w1, w3 and w5. -/
def payload (op : Nat) (w1 w3 w5 : Word) : TilePayload := ⟨BitVec.ofNat 32 (op + 0x1100000), w1, 0, w3, 0, w5, 0, 0⟩
/-- A layout record of a window of `x` × `y` BF16 elements at an own local-store offset, rows 32 bytes apart. -/
def layout (off x y : Nat) : List Byte :=
  [(0, 8, (ownAddr off).toNat), (8, 1, 8), (9, 1, 2), (0x10, 4, x), (0x14, 4, y), (0x20, 8, 32), (0x48, 4, x), (0x4C, 4, y)].foldl
    (fun r (f : Nat × Nat × Nat) => wr r f.1 f.2.1 f.2.2) (List.replicate 96 0)
/-- Command 1 of slot 0, accepted in a queue, with records. -/
def tileCmd (q : Nat) (w : TilePayload) (rs : List (List Byte)) : Cmd :=
  { n := 1, q := q, slot := 0, pc := 0, w := w, tenant := 5, stream := none, uid := 0, seq := 0, owner := 0, recs := rs, reads := []
    writes := [], target := none, accepted := true }
/-- Rings 0 and 1 with one tile each, the lease held, and a command that the step names. -/
def withCmd (m : Cmd) : State :=
  { ((((mapped fun x => x).modCore 0 fun c => { c with leaseHeld := true, leaseCmds := 16, leaseCyc := 4096, accmask := 255 }).modRing 0 0
      fun _ => ⟨true, 0x100, 10, 2, 0, 1, 1, 1, []⟩).modRing 0 1 fun _ => ⟨true, 0x800, 10, 2, 0, 1, 1, 1, []⟩) with
    cmds := [m], ev := { who := 1 } }
/-- Stream 3 of tenant 5 with a key-value table at state address 0: blocks of 16 tokens of 64 BF16 elements in page 1 of the tenant,
counts in page 2, scores at state address 0x100; entry 0 names block 0, whose count is 1. -/
def withTable (s : State) : State :=
  { (({ s with
        scbs := [(3, block 1 0 [(8, 8, 0x300000), (0x58, 4, 5)])]
        tlb := s.tlb ++ [⟨0, none, 0x300000, 0, 16, 0x30007, true⟩]
        frames := s.frames ++ [(3, ⟨1, 0, 0, false, false, false, false, false, 5, 0, 0, []⟩)] } : State).pokeAll 0x30000
      ([(0, 1, 4), (2, 2, 64), (4, 2, 1), (6, 2, 1), (8, 4, 2), (0x10, 8, 0x10000), (0x18, 4, 2), (0x20, 8, 0x20000), (0x28, 8, 0x100),
        (64, 8, 0x100000000)].foldl (fun r (f : Nat × Nat × Nat) => wr r f.1 f.2.1 f.2.2) (List.replicate 80 0))).pokeAll 0x20000 [1] with
    ev := s.ev }
/-- ATT over block 0 of that table: one row, first and last, with scores; and COMPACT of tokens 1 and 3 to die 0. -/
def attCmd : Cmd :=
  tileCmd 0 { payload 6 3 0 0 with w0 := 0x01003806, w2 := 0x3F800000 } [wr (List.replicate 64 0) 8 4 1]
def compactCmd : Cmd := tileCmd 1 { payload 0x17 3 0x4000 2 with w3 := 0xFFC04000, w4 := 0x00FFFFFF } []
/-- A start that leaves writes to make. -/
def leavesWrites (r : Except Stop (Option Byte × State)) : Bool :=
  match r with
  | .ok (none, u) => match u.cmdOf 1 with
    | some x => !x.todo.isEmpty
    | none => false
  | _ => false
theorem writes_of_leavesWrites {r : Except Stop (Option Byte × State)} (h : leavesWrites r = true) :
    ∃ u x w rest, r = .ok (none, u) ∧ u.cmdOf 1 = some x ∧ x.todo = w :: rest := by
  unfold leavesWrites at h
  split at h
  · rename_i u
    split at h
    · rename_i x hx
      cases ht : x.todo with
      | nil => simp [ht] at h
      | cons w rest => exact ⟨u, x, w, rest, rfl, hx, ht⟩
    · cases h
  · cases h
/-- The blocks of COMPACT, its writes, and the scores it reads. -/
def packs (w : Who) (t : KvTab) (kvlen : Nat) (keep : List Nat) (m : Cmd) (nb : Nat) (s : State) : Bool :=
  match allocAll w t 0 nb 1 s with
  | .ok (some new, u) => decide (u.cmdOf m.n = some m) && (match compactAll w t kvlen keep 0 0 ([(0, 0)].zip new) u with
    | .ok (r, v) => decide (v = u) && decide (r.1 ≠ []) && (match readMem w (windowAddr t.scores) (4 * kvlen) 4 u with
      | .ok (_, z) => decide (z = u)
      | .error _ => false)
    | .error _ => false)
  | _ => false
theorem ok_of_packs {w : Who} {t : KvTab} {kvlen : Nat} {keep : List Nat} {m : Cmd} {nb : Nat} {s : State} (h : packs w t kvlen keep m nb s = true) :
    ∃ new u r b, allocAll w t 0 nb 1 s = .ok (some new, u) ∧ u.cmdOf m.n = some m ∧
      compactAll w t kvlen keep 0 0 ([(0, 0)].zip new) u = .ok (r, u) ∧ r.1 ≠ [] ∧
      readMem w (windowAddr t.scores) (4 * kvlen) 4 u = .ok (b, u) := by
  unfold packs at h
  split at h
  · rename_i new u ha
    simp only [Bool.and_eq_true, decide_eq_true_eq] at h
    obtain ⟨hc, h⟩ := h
    split at h
    · rename_i r v hr
      simp only [Bool.and_eq_true, decide_eq_true_eq] at h
      obtain ⟨⟨rfl, hn⟩, h⟩ := h
      split at h
      · rename_i b z hb
        have hz := of_decide_eq_true h
        subst hz
        exact ⟨new, _, r, b, ha, hc, hr, hn, hb⟩
      · cases h
    · cases h
  · cases h
/-- The header of `withTable`'s table, and the table. -/
def tableHead : List Byte :=
  [(0, 1, 4), (2, 2, 64), (4, 2, 1), (6, 2, 1), (8, 4, 2), (0x10, 8, 0x10000), (0x18, 4, 2), (0x20, 8, 0x20000), (0x28, 8, 0x100)].foldl
    (fun r (f : Nat × Nat × Nat) => wr r f.1 f.2.1 f.2.2) (List.replicate 64 0)
def table : KvTab := ⟨0, 4, 0, 64, 1, 1, 2, 0x10000, 2, 0x20000, 0x100⟩
/-- `State.Starts` of a command whose regions no other package may hold. -/
def startsB (s : State) (op : Nat) (m : Cmd) : Bool :=
  decide (s.cmdOf s.ev.who = some m ∧ m.op = op ∧ m.done = none ∧ m.accepted = true ∧ m.started = false ∧ s.canStart m = true ∧
    s.regionPeers m = [])
theorem starts_of_startsB {s : State} {op : Nat} {m : Cmd} (h : startsB s op m = true) : s.Starts op m := by
  obtain ⟨h1, h2, h3, h4, h5, h6, h7⟩ := of_decide_eq_true h
  refine ⟨h1, h2, h3, h4, h5, h6, ?_⟩
  rw [h7]
  rfl
/-- A fixed format context. -/
def context : List Byte := wr (wr (wr (wr (wr (List.replicate 128 0) 0 1 13) 1 1 8) 2 1 2) 4 2 0x3120) 6 2 0x1030

theorem wit_TileFrameResults :
    let w : TilePayload := { payload 0x10 0 0 0 with w0 := 0x10, w7 := 9 }
    let c := withCmd (tileCmd 0 w [])
    let s := { (c.modSlot 0 fun x => { x with g := x.g.set 1 (ownAddr 0x800) |>.set 2 (ownAddr 0x880) }) with
      cmds := []
      ls := (c.ls.writeBytes 0x800 (layout 0x1000 3 2)).writeBytes 0x880 (layout 0x2000 3 2) }
    let y := (w.patch 1 (s.readG 0 1)).patch 2 (s.readG 0 2);
    let as := [(ownAddr 0x800).toNat, (ownAddr 0x880).toNat]
    let rs := [layout 0x1000 3 2, layout 0x2000 3 2]
    let m := { tileCmd 0 (payload 9 0 0 0) [] with started := true, tenant := 0 }
    let e := base.modCore 2 fun c => { c with leaseWait := true }
    let l := (base.modCluster 0 fun c => { c with lease := some 2 }).modCore 2 fun c => { c with leaseHeld := true, leaseCmds := 0 };
    (Ready s 1 true [.g 1, .g 2] [] ∧ gatherRecords s 0 y (s.issued 36 true) = .ok ((as, rs), s.issued 36 true)) ∧
    ((Instr.tcmd 1 2 1 15 1 9 w).wf = true ∧ tileTarget w 0 = none ∧ s.inputQueue 0 1 < 8 ∧ s.tileTrap 0 1 y = none ∧ (s.slot 0).acquiring = false ∧ (s.slot 0).outs = [] ∧
      s.recordTrap 0 y as rs = none) ∧
    ((withCmd m).cmdOf 1 = some m ∧ m.pending = [] ∧ m.acc = [] ∧ (withCmd m).requests = [] ∧ (withCmd m).footprintVisible m = true ∧
      (let d := { m with done := some (0, 0), target := some (0, 7) };
        d.done = some (0, 0) ∧ d.counts = [] ∧ d.target = some (0, 7) ∧ ((withCmd d).core (coreOf 0)).fwd = none ∧
          ((withCmd d).slot 0).holdsStrand = true) ∧
      (let d := { m with done := some (0x18, 2) };
        d.done = some (0x18, 2) ∧ ((withCmd d).slot 0).occ = .active ∧ ((withCmd d).slot 0).uid = d.uid ∧
          ((withCmd d).slot 0).async = []) ∧
      ({ m with done := some (0, 0), counts := [(2, 9)] } : Cmd).counts = (2, 9) :: []) ∧
    (base.ls.wf = true ∧ ((base.lsDword 0 0x100).toNat + 2 ^ 48) % 2 ^ 48 = 0 ∧ ((base.lsDword 0 0x100).toNat + 5) % 2 ^ 48 ≠ 0) ∧
    ((e.cluster 0).lease = none ∧ e.leaseNext 0 = some 2 ∧ (l.cluster 0).lease = some 2 ∧ (l.core 2).leaseCmds = 0) :=
  ⟨⟨ready_of_readyB (by decide), ok_of_gives (by decide +kernel)⟩, by decide +kernel, by decide +kernel, by decide, by decide +kernel⟩
theorem wit_TensorCommands :
    (∀ op ∈ [1, 2, 3, 4, 5, 7, 8, 9, 0xA, 0xB],
      (withCmd (tileCmd 0 (payload op 0 0 0x10202) [layout 0x1000 3 2])).Starts op
        (tileCmd 0 (payload op 0 0 0x10202) [layout 0x1000 3 2])) ∧
    (let m := tileCmd 0 (payload 2 0 0 0x10202) []
      let s := (withCmd m).modCore 0 fun c => { c with fmt := context };
      s.acc.wf = true ∧ m.w.rows ≤ 128 ∧ m.w.cols ≤ 128 ∧ m.w.splitk = false ∧ s.contextOk m = true ∧
        s.tilesThere m = true ∧ rd (s.core m.core).fmt 2 1 ≠ 0) ∧
    (let m := tileCmd 0 (payload 7 0 0 0x20003) [layout 0x1000 3 3];
      (withCmd m).tilesThere m = true ∧ m.w.a12 = 0 ∧ m.w.modeBit 0 = false ∧ m.w.modeBit 1 = false) ∧
    (let m := tileCmd 0 { payload 0xA 0 0 0 with w1 := 0xFFC04000, w2 := 0x00FFFFFF } []
      let s := fun r => { withCmd m with ls := Memory.writeBytes [] 0x4000 r };
      (∀ r ∈ [context, wr context 3 1 1], readMem m.who (BitVec.ofNat 64 m.w.a12) 128 4 (s r) = .ok (r, s r)) ∧
        contextImage context = true ∧ contextImage (wr context 3 1 1) = false) ∧
    (let m := tileCmd 0 (payload 0xB 0 0 0x28230300) []
      let u := withCmd m;
      (u.ringOf 0 m.w.cfgRing).writing = [] ∧ (u.ringOf 0 m.w.cfgRing).filled = 0 ∧ m.w.tilesA = none ∧ m.w.tilesB = none) :=
  ⟨by intro op h; fin_cases h <;> exact starts_of_startsB (by decide +kernel), by decide +kernel, by decide +kernel,
    ⟨by intro r h; fin_cases h <;> exact ok_of_gives (by decide +kernel), by decide +kernel⟩, by decide +kernel⟩
/-- A SCAN of three steps and three lanes at one of its steps, and an MMA whose groups go out as contributions. -/
def scanCmd (n : Nat) : Cmd :=
  { tileCmd 0 (payload 7 0 0 0x20003) ([layout 0x1000 3 3] ++ if n = 0 then [] else [[2]]) with part := n, started := n ≠ 0 }
def splitkCmd : Cmd := tileCmd 0 { payload 2 0x40 0x10000 0x200101 with w0 := 0x41100002, w2 := 1, w4 := 0x03000000 } []
theorem wit_TensorCommands_scan : ∀ n ∈ [0, 1, 2],
    let s := withCmd (scanCmd n);
    (s.acc.wf = true ∧ s.cmdOf 1 = some (scanCmd n) ∧ (n = 0 → startsB s 7 (scanCmd 0) = true ∧ s.tilesThere (scanCmd 0) = true) ∧
      (n ≠ 0 → (scanCmd n).started = true ∧ (s.core (scanCmd n).core).leaseHeld = true ∧ (scanCmd n).recs.getD 1 [] = [2])) ∧
    through ((joinWrites [(ownAddr 0x1000, [1, 2]), (ownAddr 0x1020, [3, 4])]).foldlM (m := M) (fun x w => postPlain x w.1 w.2) (scanCmd n) s) =
      true := by decide +kernel
theorem wit_TensorCommands_splitk :
    let s := (withCmd splitkCmd).modCore 0 fun c => { c with fmt := context };
    s.Starts 2 splitkCmd ∧ splitkCmd.w.splitk = true ∧ s.contextOk splitkCmd = true ∧ s.tilesThere splitkCmd = true ∧
      splitkCmd.w.rows ≤ 128 ∧ splitkCmd.w.cols ≤ 128 :=
  ⟨starts_of_startsB (by decide +kernel), by decide +kernel⟩
theorem wit_AttentionCommands :
    let a := withTable (withCmd attCmd)
    let t := withTable (withCmd compactCmd)
    let c := { t with ls := (t.ls.writeByte 0x4000 1).writeByte 0x4004 3 }
    let x := { attCmd with w := { attCmd.w with w1 := 4 } }
    let p := { attCmd with started := true, todo := [(0x10000, [0, 0, 0x80, 0x3F])] };
    a.Starts 6 attCmd ∧
    (c.Starts 0x17 compactCmd ∧
      ∃ u x w rest, startCompact compactCmd c = .ok (none, u) ∧ u.cmdOf 1 = some x ∧ x.todo = w :: rest) ∧
    (let s := withTable (withCmd x);
      s.Starts 6 x ∧ startAtt x s = .ok (some 0x16, s) ∧ s.cmdOf 1 = some x) ∧
    ((withCmd p).cmdOf 1 = some p ∧ p.op = 6 ∧ p.started = true ∧ p.accepted = true ∧ p.done = none ∧
      ((withCmd p).core p.core).leaseHeld = true ∧ placeWrite p.who 0x10000 4 2 (withCmd p) = .ok (.mem 0x10000, withCmd p) ∧
      ∃ k v, homeWrite p.who (.mem 0x10000) (leBytes 4 (Fp.f32.add (leNat ((withCmd p).readHome 0x10000 4)) 0x3F800000)) (withCmd p) =
        .ok (k, v)) :=
  ⟨starts_of_startsB (by decide +kernel), ⟨starts_of_startsB (by decide +kernel), writes_of_leavesWrites (by decide +kernel)⟩,
    ⟨starts_of_startsB (by decide +kernel), ok_of_gives (by decide +kernel), by decide +kernel⟩, by decide, by decide, by decide, by decide,
    by decide, by decide, ok_of_gives (by decide +kernel), ok_of_through (by decide +kernel)⟩
/-- The same command once it has started. -/
def attRun (n : Nat) : Cmd :=
  { attCmd with
    stream := some 3, started := true, part := n
    recs := [wr (List.replicate 64 0) 8 4 1, leBytes 8 0 ++ leBytes 4 5, tableHead, leBytes 4 0, []] }
theorem wit_AttentionCommands_att :
    let a := withTable (withCmd attCmd)
    let w := attCmd.whoSid
    let d := attCmd.recs.getD 0 []
    let u := (a.putRows attCmd false (List.replicate 1 ⟨negInf, 0, List.replicate 64 0⟩)).setCmd (attRun 0);
    (a.acc.wf = true ∧ a.tilesThere attCmd = true ∧ sidOk 3 = true ∧ a.streamUsable 3 attCmd.tenant = true) ∧
    readMem w (windowAddr (scbKvtab (a.scb 3))) 64 4 a = .ok (tableHead, a) ∧ kvHeader 0 tableHead = some table ∧
    (rd d 0 2 < 1 ∧ rd d 2 1 < 1 ∧ attCmd.nrow * 64 * 2 ≤ 2 ^ 16 ∧ attCmd.w.modeBit 3 = true ∧ attCmd.nrow = 1) ∧
    attRange attCmd table d a = .ok (some (leBytes 4 0, []), a) ∧
    entriesValid w [table.entryAddr 0 0 0] a = .ok (true, a) ∧ attTreeRows [] ≠ none ∧
    attBlock (attRun 0) table 0 u = .ok (some (0, List.replicate 4096 0), u) :=
  ⟨by decide, ok_of_gives (by decide +kernel), by decide +kernel, by decide +kernel, ok_of_gives (by decide +kernel),
    ok_of_gives (by decide +kernel), by decide, ok_of_gives (by decide +kernel)⟩
theorem wit_AttentionCommands_goes :
    let s := fun (n : Nat) => withTable (withCmd (attRun n))
    let z := (s 1).pokeAll 0x30040 (List.replicate 8 0);
    (∀ n ∈ [0, 1, 2], (s n).cmdOf 1 = some (attRun n) ∧ (attRun n).op = 6 ∧ (attRun n).accepted = true ∧ (attRun n).done = none ∧
      ((s n).core (attRun n).core).leaseHeld = true ∧ (attRun n).todo = [] ∧ (attRun n).attWork = some (table, 5, [0], none)) ∧
    attBlock (attRun 1) table 0 (s 1) = .ok (some (0, List.replicate 4096 0), s 1) ∧ attBlock (attRun 1) table 0 z = .ok (none, z) ∧
    ((attRun 1).w.modeBit 5 && table.scores != 0) = true :=
  ⟨by decide +kernel, ok_of_gives (by decide +kernel), ok_of_gives (by decide +kernel), by decide +kernel⟩
theorem wit_AttentionCommands_compact :
    let t := withTable (withCmd compactCmd)
    let c := { t with ls := (t.ls.writeByte 0x4000 1).writeByte 0x4004 3 }
    let w := compactCmd.whoSid
    let m := { compactCmd with started := true, recs := [List.replicate 8 0, tableHead] }
    let r := withTable (withCmd m)
    let y := { m with acc := [(0x100000000, 0)] };
    (sidOk 3 = true ∧ c.streamUsable 3 compactCmd.tenant = true ∧ kvHeader 0 tableHead = some table) ∧
    readMem w (windowAddr (scbKvtab (c.scb 3))) 64 4 c = .ok (tableHead, c) ∧
    entriesValid w [table.entryAddr 0 0 0] c = .ok (true, c) ∧
    readMem compactCmd.who (BitVec.ofNat 64 compactCmd.w.a34) 8 4 c = .ok ([1, 0, 0, 0, 3, 0, 0, 0], c) ∧
    (∃ new u r b, allocAll w table 0 1 1 c = .ok (some new, u) ∧ u.cmdOf 1 = some compactCmd ∧
      compactAll w table 5 [1, 3] 0 0 ([(0, 0)].zip new) u = .ok (r, u) ∧ r.1 ≠ [] ∧
      readMem w (windowAddr table.scores) (4 * 5) 4 u = .ok (b, u)) ∧
    (∃ x u, postCompact m (ownAddr 0x5000) [1] r = .ok (x, u)) ∧
    (m.todo = [] ∧ m.pending = [] ∧ (r.core m.core).leaseHeld = true ∧ r.cmdOf 1 = some m ∧ m.acc = []) ∧
    (∃ u v, lowerEntry y.who table 0x100000000 (withTable (withCmd y)) = .ok (u, v)) :=
  ⟨by decide +kernel, ok_of_gives (by decide +kernel), ok_of_gives (by decide +kernel), ok_of_gives (by decide +kernel), ok_of_packs (w := compactCmd.whoSid) (t := table) (kvlen := 5) (keep := [1, 3]) (m := compactCmd) (nb := 1) (by decide +kernel),
    ok_of_through (by decide +kernel), by decide +kernel, ok_of_through (by decide +kernel)⟩
/-- Whether a window is read. -/
def windowRead (r : Except Stop (List (Dword × List Byte) × State)) : Bool :=
  match r with
  | .ok _ => true
  | .error _ => false
theorem window_of_windowRead {r : Except Stop (List (Dword × List Byte) × State)} (h : windowRead r = true) : ∃ ws u, r = .ok (ws, u) := by
  cases r with
  | ok x => exact ⟨x.1, x.2, rfl⟩
  | error e => cases h
/-- The page tables of `paged` under a command, with page 3 in frame 3. -/
def pagedCmd (m : Cmd) : State :=
  { (paged fun x => x).setEntry 0x206018 0x3000F with
    frames := [(1, ⟨1, 0, 0, false, false, false, false, true, 5, 7, 8, []⟩), (3, ⟨1, 0, 0, false, false, false, false, false, 5, 0, 0, []⟩)]
    cmds := [m]
    ev := { who := 1 }
    tier := some (0, 0, 0)
    linkup := 1 }
/-- A page was remapped, and no command changed. -/
def pageMade (m : Cmd) (r : Except Stop (Option Byte × State)) : Bool :=
  match r with
  | .ok (none, u) => decide (u.cmds = [m])
  | _ => false
theorem page_of_pageMade {m : Cmd} {r : Except Stop (Option Byte × State)} (h : pageMade m r = true) :
    ∃ u, r = .ok (none, u) ∧ u.cmds = [m] := by
  unfold pageMade at h
  split at h
  · exact ⟨_, rfl, by simpa using h⟩
  · cases h
def moveCmd (q op : Nat) : Cmd := tileCmd q (payload op 0x10000 5 0x3000) [layout 0x1000 3 2, layout 0x2000 3 2]
def snapCmd : Cmd := { tileCmd 3 (payload 0x20 0x10000 0x30000 2) [] with started := true }

theorem wit_MoveCommands :
    (∀ p ∈ [(1, 0x10), (1, 0x11), (1, 0x12), (1, 0x15), (1, 0x18), (2, 0x13), (2, 0x14), (2, 0x16), (3, 0x20), (3, 0x21)],
      (withCmd (moveCmd p.1 p.2)).Starts p.2 (moveCmd p.1 p.2)) ∧
    (let m := moveCmd 1 0x10
      let a := m.rec_ 0
      let b := m.rec_ 1
      let u := withCmd m
      let ids := u.indexList m (b.wextAt (a.rank - 1))
      m.w.toring = false ∧ indexBad a ids = false ∧ indexBad b ids = false ∧ m.w.doff = 0 ∧ m.w.mask = 5 ∧
        windowRead (moveWindow m a b a.idxOf b.idxOf b.points u) = true ∧ windowRead (moveWindow m a b (a.idxBy ids) b.idxOf b.points u) = true ∧
        windowRead (moveWindow m a b a.idxOf (b.idxBy ids) a.points u) = true ∧
        (∀ c ∈ a.points, windowRead ((readElem m a (a.idxOf c) u).map fun x => ([], x.2)) = true)) ∧
    (∀ c ∈ ((moveCmd 2 0x13).rec_ 0).points, readElem (moveCmd 2 0x13) ((moveCmd 2 0x13).rec_ 0) (((moveCmd 2 0x13).rec_ 0).idxOf c)
      (withCmd (moveCmd 2 0x13)) = .ok (0, withCmd (moveCmd 2 0x13))) ∧
    (let m := tileCmd 3 (payload 0x21 0 0 1) [];
      (pagedCmd m).Starts 0x21 m ∧ (pagedCmd m).drain = none ∧ (pagedCmd m).tier ≠ none ∧
        (pagedCmd m).dirsUp (BitVec.ofNat 8 m.w.w5.toNat) ≠ [] ∧ (pagedCmd m).cutReady = true) ∧
    (let m := { moveCmd 1 0x10 with started := true, todo := [(ownAddr 0x5000, [1, 2, 3, 4])] };
      (withCmd m).cmdOf 1 = some m ∧ m.op = 0x10 ∧ m.accepted = true ∧ m.done = none ∧
        (ownAddr 0x5000).toNat % 4096 + 4 ≤ 4096 ∧ regionOf (ownAddr 0x5000) = .own 0x5000) ∧
    (pagedCmd snapCmd).cmdOf 1 = some snapCmd ∧ snapCmd.part < snapCmd.w.w5.toNat ∧
    ∃ u, snapPage snapCmd (BitVec.ofNat 64 (snapCmd.w.a12 + snapCmd.part * 65536)) (BitVec.ofNat 64 (snapCmd.w.a34 + snapCmd.part * 65536))
      (pagedCmd snapCmd) = .ok (none, u) ∧ u.cmds = [snapCmd] :=
  ⟨by intro p h; fin_cases h <;> exact starts_of_startsB (by decide +kernel), by decide +kernel, by
    intro c h
    have : c ∈ [[0, 0, 0, 0], [1, 0, 0, 0], [2, 0, 0, 0], [0, 1, 0, 0], [1, 1, 0, 0], [2, 1, 0, 0]] := h
    fin_cases this <;> exact ok_of_gives (by decide +kernel),
    ⟨starts_of_startsB (by decide +kernel), by decide +kernel⟩, by decide +kernel, by decide +kernel, by decide +kernel, page_of_pageMade (by decide +kernel)⟩
theorem wit_MoveCommands_mcast :
    let m := moveCmd 2 0x13
    let a := m.rec_ 0;
    a.points.foldlM (m := M) (fun (bs : List Byte) c => do
        let x ← readElem m a (a.idxOf c)
        pure (bs ++ leBytes a.es x)) [] (withCmd m) = .ok (List.replicate 12 0, withCmd m) ∧ (withCmd m).ls.wf = true ∧
      m.w.doff + 12 ≤ 2 ^ 22 := ⟨ok_of_gives (by decide +kernel), by decide +kernel⟩
theorem wit_MoveCommands_snap :
    let n := { snapCmd with started := false }
    let e := { snapCmd with part := 2 }
    let z := (pagedCmd snapCmd).setEntry 0x206018 0x3040F;
    (pagedCmd n).Starts 0x20 n ∧ ((pagedCmd e).cmdOf 1 = some e ∧ e.part = e.w.w5.toNat ∧ e.todo = []) ∧
    (∃ u, snapPage snapCmd 0x10000 0x30000 ((pagedCmd n).setCmd snapCmd) = .ok (none, u) ∧ u.cmds = [snapCmd]) ∧
    snapPage snapCmd 0x10000 0x30000 z = .ok (some 0x17, z) :=
  ⟨starts_of_startsB (by decide +kernel), by decide +kernel, page_of_pageMade (by decide +kernel), ok_of_gives (by decide +kernel)⟩
/-- A tile of a TORING command is written, and no command changed. -/
def tileMade (m : Cmd) (s : State) : Bool :=
  match ringPart m m.part 0 s with
  | .ok (ws, t) => decide (t = s) && (match (ws.forM fun x => do let _ ← writeMem m.who x.1 x.2 5) s with
    | .ok ((), u) => decide (u.cmds = s.cmds)
    | .error _ => false)
  | .error _ => false
theorem tile_of_tileMade {m : Cmd} {s : State} (h : tileMade m s = true) : ∃ ws u, ringPart m m.part 0 s = .ok (ws, s) ∧
    (ws.forM fun x => do let _ ← writeMem m.who x.1 x.2 5) s = .ok ((), u) ∧ u.cmds = s.cmds := by
  unfold tileMade at h
  split at h
  · rename_i ws t hr
    simp only [Bool.and_eq_true, decide_eq_true_eq] at h
    obtain ⟨rfl, h⟩ := h
    split at h
    · rename_i u hu
      exact ⟨ws, u, hr, hu, of_decide_eq_true h⟩
    · cases h
  · cases h
theorem wit_MoveCommands_ring :
    let m := tileCmd 1 (payload 0x810 0x10000 5 1) [layout 0x1000 3 2, layout 0x2000 3 2]
    let n := { m with started := true, resv := [0] };
    ((withCmd m).Starts 0x10 m ∧ m.w.toring = true ∧ m.part ≠ m.w.w5.toNat ∧ m.resv = [] ∧
      ((withCmd m).ringOf m.cluster m.w.ringB).free ≠ 0) ∧
    (withCmd n).cmdOf 1 = some n ∧ n.resv = [0] ∧ n.todo = [] ∧
    ∃ ws u, ringPart n n.part 0 (withCmd n) = .ok (ws, withCmd n) ∧
      (ws.forM fun x => do let _ ← writeMem n.who x.1 x.2 5) (withCmd n) = .ok ((), u) ∧ u.cmds = (withCmd n).cmds :=
  ⟨⟨starts_of_startsB (by decide +kernel), by decide +kernel⟩, by decide +kernel, by decide, by decide, tile_of_tileMade (by decide +kernel)⟩

/-! ### The units' own steps -/

/-- A command block or image of 64 bytes with fields (offset, bytes, value). -/
def fields (n : Nat) (l : List (Nat × Nat × Nat)) : List Byte :=
  l.foldl (fun r (f : Nat × Nat × Nat) => wr r f.1 f.2.1 f.2.2) (List.replicate n 0)
/-- The mask request of an outstanding GMASK of slot 0, and that instruction. -/
def maskReq : MaskReq := ⟨7, 0, 0, 0x01000000, 0x10000, some 3, none, []⟩
def maskOp : Outst := ⟨1, 0, 0, 15, [], .gmask 7 3, [], .ready, false, false, 0, 5, 0, []⟩
def withMask : State :=
  { ((withGrammar 1).modDie 0 fun d => { d with maskq := [maskReq] }).modSlot 0 fun x => { x with outs := [maskOp] } with ev := { who := 0 } }
/-- A GRAMCMD of slot 0 whose block lies at own local store 0x100. -/
def gramWord (opc : Nat) : Dword := ownAddr 0x100 + BitVec.ofNat 64 (opc * 2 ^ 61)
def gramCmd (opc : Nat) (b : List Byte) : State :=
  { (withGrammar 1).modSlot 0 (fun x => { x with cmd := some (0x0A8, gramWord opc) }) with
    ls := Memory.writeBytes [] 0x100 b
    ev := { who := 0 } }
/-- An arena of tenant 5 with its nodes from page 1 on. -/
def arena : Arena := ⟨5, 0x10000, false, 1, none, [], []⟩

/-- The grammar of `gramCells` with a PUSH of symbol 0 on its only terminal, and arena 1 to hold the node. -/
def pushImage : List Byte := wr gramImage 0x47 1 0x20
def withPush : State :=
  { (withGrammar 0x100000000).modSlot 0 fun x => { x with g := x.g.set 6 0x01000000 } with
    grams := [(1, ⟨5, pushImage, [0x20000], false⟩)], arenas := [(1, arena)] }
theorem wit_GrammarResults_push :
    let t := withPush.issued 4
    let w := { t.whoGram 0 (.issue 0) with dest := 31 };
    Ready withPush 1 true [.g 6, .g 5] [.g 31] ∧
    (bits (withPush.readG 0 5) 43 32 = 1 ∧ withPush.advanceBad 5 0x01000000 0 (some 1) = none ∧ withPush.committing 1 = false ∧
      t.arenaFor 5 1 = some arena ∧ arena.next + 1 ≤ 524287) ∧
    (runToken w pushImage 0x01000000 0 t = .ok (.accept 1 0 [0] 1, t) ∧ topDepth w 0 0 t = .ok (0, t)) :=
  ⟨ready_of_readyB (by decide), by decide +kernel, ⟨rfl, rfl⟩⟩

def loadBlock : List Byte := fields 64 [(0, 1, 2), (8, 8, 0x10000)]
def loadCmd : State := { gramCmd 0 loadBlock with mem := gramCells.map fun c => (0x10000 + c.1, c.2) }
def commitBlock : List Byte := fields 64 [(0, 2, 1), (4, 4, 1), (8, 8, 0x20000)]
def commitCmd : State := { (gramCmd 3 commitBlock).pokeAll 0x20000 [3] with arenas := [(1, arena)] }
def copying : Arena := { arena with slot := some 0, ids := [3] }
def committing : State := { gramCmd 3 [] with arenas := [(1, copying)] }

theorem wit_GrammarSteps_mask : withMask.walking 0 = [maskReq] ∧ withMask.maskOut maskReq = some maskOp ∧ ∃ bs t ws u,
    maskOf (withMask.whoMask maskReq maskOp) maskReq.cfg withMask = .ok (bs, t) ∧
      writeMem (withMask.whoMask maskReq maskOp) maskReq.ea bs 5 t = .ok (ws, u) := by
  refine ⟨by decide +kernel, by decide +kernel, ?_⟩
  obtain ⟨bs, t, h, g⟩ := ok_of_bind (m := maskOf (withMask.whoMask maskReq maskOp) maskReq.cfg)
    (f := fun bs => writeMem (withMask.whoMask maskReq maskOp) maskReq.ea bs 5) (s := withMask) (by decide +kernel)
  obtain ⟨ws, u, g⟩ := ok_of_through g
  exact ⟨bs, t, ws, u, h, g⟩
theorem wit_GrammarSteps_dead :
    let r := { maskReq with done := some true, die := 1 }
    let s := (withGrammar 1).modDie 1 fun d => { d with maskq := [r] };
    ((([0, 1, 2, 3] : List Nat).flatMap fun d => (s.die d).maskq).find? fun r => decide (r.n = 7)) = some r ∧ s.maskOut r = none ∧
      scbState ((s.dropMask 1 7).scb 3) = 1 ∧ scbStop ((s.dropMask 1 7).scb 3) = 0 := by decide +kernel
theorem wit_GrammarSteps_unload :
    let s := { withGrammar 1 with grams := [(1, ⟨5, gramImage, [0x20000], true⟩)] };
    (s.grams.find? 1).map (fun g => g.unloading) = some true ∧ ∀ d < 4, ∀ r ∈ (s.die d).maskq, cfgGram r.cfg ≠ 1 := by decide +kernel
theorem wit_GrammarSteps_load : (readImage 0 (gramWord 0) loadCmd = .ok (loadBlock, loadCmd) ∧
      readGrammar (loadCmd.whoSlot 0 (.issue 0)) 0x10000 loadCmd = .ok (some gramImage, loadCmd)) ∧
    loadCmd.cmd? 0 0x0A8 = some (gramWord 0) ∧ gramOpc (gramWord 0) = 0 ∧ rd loadBlock 0 1 = 2 ∧ dw (rd loadBlock 8 8) = 0x10000 ∧
    loadCmd.grams.find? 2 = none ∧ imageOk gramImage = true ∧ (loadCmd.gramFrames 1).isSome = true :=
  ⟨⟨ok_of_gives (by decide +kernel), ok_of_gives (by decide +kernel)⟩, by decide +kernel⟩
theorem wit_GrammarSteps_blocks :
    readImage 0 (gramWord 1) (gramCmd 1 (fields 64 [(0, 1, 1)])) = .ok (fields 64 [(0, 1, 1)], gramCmd 1 (fields 64 [(0, 1, 1)])) ∧
    readImage 0 (gramWord 2) (gramCmd 2 (fields 64 [(0, 8, 0x40000)])) =
      .ok (fields 64 [(0, 8, 0x40000)], gramCmd 2 (fields 64 [(0, 8, 0x40000)])) ∧
    readImage 0 (gramWord 4) (gramCmd 4 (fields 64 [(0, 2, 1)])) = .ok (fields 64 [(0, 2, 1)], gramCmd 4 (fields 64 [(0, 2, 1)])) :=
  ⟨ok_of_gives (by decide +kernel), ok_of_gives (by decide +kernel), ok_of_gives (by decide +kernel)⟩
theorem wit_GrammarSteps_arenas : (∀ o ∈ [1, 2, 4], (gramCmd o []).cmd? 0 0x0A8 = some (gramWord o) ∧ gramOpc (gramWord o) = o) ∧
    ((gramCmd 1 []).gramFor 5 1).isSome = true ∧
    findFree (fun i => ((gramCmd 2 []).arenas.find? (dieOf 0 * 1024 + i)).isNone) 1023 1 = some 1 ∧
    ({ gramCmd 4 [] with arenas := [(1, arena)] } : State).arenaFor 5 1 = some arena ∧ arena.slot = none := by decide +kernel
theorem wit_GrammarSteps_commit : (readImage 0 (gramWord 3) commitCmd = .ok (commitBlock, commitCmd) ∧
      readMem (commitCmd.whoSlot 0 (.issue 0)) 0x20000 4 4 commitCmd = .ok ([3, 0, 0, 0], commitCmd)) ∧
    commitCmd.cmd? 0 0x0A8 = some (gramWord 3) ∧ gramOpc (gramWord 3) = 3 ∧ commitCmd.myCommit 0 = none ∧
    commitCmd.arenaFor 5 1 = some arena ∧ sidOk 3 = true ∧ commitCmd.streamUsable 3 5 = true :=
  ⟨⟨ok_of_gives (by decide +kernel), ok_of_gives (by decide +kernel)⟩, by decide +kernel⟩
theorem wit_GrammarSteps_copy : (copyStacks (committing.whoGram 0 (.issue 0)) 1 copying copying.ids [] [] committing = .ok (([], [], []), committing) ∧
      ∃ ws u, writeMem (committing.whoGram 0 (.issue 0)) (nodeAddr copying.base (!copying.cur) 0) [] 5 committing = .ok (ws, u)) ∧
    committing.cmd? 0 0x0A8 = some (gramWord 3) ∧ committing.myCommit 0 = some (1, copying) ∧ copying.ids ≠ [] ∧
    committing.advancing 1 = false :=
  ⟨⟨ok_of_gives (by decide +kernel), ok_of_through (by decide +kernel)⟩, by decide +kernel⟩
theorem wit_GrammarSteps_end :
    settleWrites (committing.whoGram 0 (.issue 0)) { copying with ids := [] }.waits committing = .ok ((), committing) ∧
    ({ committing with arenas := [(1, { copying with ids := [] })] } : State).myCommit 0 = some (1, { copying with ids := [] }) :=
  ⟨ok_of_gives (by decide +kernel), by decide +kernel⟩
/-- A KVCMD of slot 0 on the table of `withTable`, with its block at own local store 0x100. -/
def kvWord (op : Nat) : Dword := ownAddr 0x100 + BitVec.ofNat 64 (op * 2 ^ 61)
def kvBlock (i : Nat) : List Byte := fields 64 [(0, 1, 3), (8, 1, i), (0x10, 1, 9)]
def kvState (op i : Nat) : State :=
  withTable { (mapped fun x => { x with cmd := some (0x0B0, kvWord op) }) with ls := Memory.writeBytes [] 0x100 (kvBlock i), ev := { who := 0 } }
/-- The command that its block and its table give, and its accessor. -/
def kvCmd (i : Nat) : KvCmd := ⟨3, ownAddr 0x100, kvBlock i, ⟨0, 4, 0, 64, 1, 1, 2, 0x10000, 2, 0x20000, 0x100⟩, 64 + 8 * i, if i = 0 then 0x100000000 else 0⟩
def kvWho (s : State) : Who := s.whoKv 0 3
/-- The write of ADDR. -/
def kvAddr (va : Dword) : M (List Nat) := fun s => writeMem (s.whoSlot 0 (.issue 0)) (ownAddr 0x130) (leBytes 8 va.toNat) 5 s
/-- The same with a count of 2 at block 0. -/
def kvShared : State := { kvState 1 0 with mem := (kvState 1 0).mem.writeByte 0x20000 2 }
/-- A copy of frame 1, into frame 3, whose write has been made. -/
def copyJob : CopyJob := { n := 4, node := 0x103, slot := 0x206008, old := 0x10000, fresh := 0x30000, root := 0x200000, page := 1, write := 77 }
def withCopy : State := { pagedCmd snapCmd with copies := [copyJob], ev := { who := 4 } }

/-- RELEASE of an entry that names block 0 of package 1, and its second step, whose AMO is answered. -/
def kvFar : State := { kvState 2 0 with mem := (kvState 2 0).mem.writeBytes 0x30040 (leBytes 8 0x8000400100000000) }
def kvLowering : State :=
  { kvFar.modSlot 0 (fun x => { x with kvLow := some ⟨0, some 1, 0x20000, none, 0⟩ }) with
    requests := [⟨0, 1, 1, 3, 0, .issue 0, 0, leBytes 8 0x20000 ++ leBytes 4 0xFFFFFFFF, some (0, [2, 0, 0, 0])⟩] }

/-- The same commands where the page of the counts maps to package 1, with the answers to what they ask of it. -/
def kvAway (op : Nat) : State :=
  { withTable { ((paged fun x => { x with cmd := some (0x0B0, kvWord op) }).setEntry 0x206010 0x010001000000000F) with
      ls := Memory.writeBytes [] 0x100 (kvBlock 0), ev := { who := 0 } } with
    tlb := [⟨0, none, 0x200000, 1, 16, 0x10007, true⟩, ⟨0, none, 0x200000, 2, 16, 0x010001000000000F, true⟩,
      ⟨0, none, 0x300000, 0, 16, 0x30007, true⟩]
    requests := [⟨0, 1, 1, 1, 0, .issue 0, 0, leBytes 8 0x20000 ++ leBytes 4 4, some (0, [2, 0, 0, 0])⟩,
      ⟨0, 2, 1, 1, 0, .issue 0, 0, leBytes 8 0x20004 ++ leBytes 4 4, some (0, [0, 0, 0, 0])⟩,
      ⟨0, 3, 1, 3, 0, .issue 0, 0, leBytes 8 0x20004 ++ leBytes 4 1, some (0, [0, 0, 0, 0])⟩] }
/-- A count that is still to be lowered: of OPEN, which then answers; of ALLOC, whose result is NOROOM; and of RELEASE. -/
def kvLows : List (Nat × KvLow) :=
  [(1, ⟨0, some 1, 0x20000, some (ownAddr 0x100, 0x11000), 0⟩), (0, ⟨0, some 1, 0x20000, none, 3⟩), (2, ⟨0, some 1, 0x20000, none, 0⟩)]
def kvSecond (p : Nat × KvLow) : State :=
  { (kvState p.1 0).modSlot 0 (fun x => { x with kvLow := some p.2 }) with
    requests := [⟨0, 1, 1, 3, 0, .issue 0, 0, leBytes 8 0x20000 ++ leBytes 4 0xFFFFFFFF, some (0, [2, 0, 0, 0])⟩] }
theorem wit_KeyValueSteps_read (op i : Nat) (h : (op, i) ∈ [(0, 1), (1, 0), (2, 0), (3, 0)]) :
    (kvState op i).cmd? 0 0x0B0 = some (kvWord op) ∧ (kvState op i).released 0 .package = true ∧ ((kvState op i).slot 0).kvLow = none ∧
      bits (kvWord op) 63 61 = op ∧ through (kvRead 0 (kvWord op) (kvState op i)) = true := by
  simp only [List.mem_cons, Prod.mk.injEq, List.not_mem_nil, or_false] at h
  obtain ⟨rfl, rfl⟩ | ⟨rfl, rfl⟩ | ⟨rfl, rfl⟩ | ⟨rfl, rfl⟩ := h <;> decide +kernel
theorem wit_KeyValueSteps_cmd (op i : Nat) (h : (op, i) ∈ [(0, 1), (1, 0), (2, 0), (3, 0)]) :
    kvRead 0 (kvWord op) (kvState op i) = .ok (.ok (kvCmd i), kvState op i) := by
  simp only [List.mem_cons, Prod.mk.injEq, List.not_mem_nil, or_false] at h
  obtain ⟨rfl, rfl⟩ | ⟨rfl, rfl⟩ | ⟨rfl, rfl⟩ | ⟨rfl, rfl⟩ := h <;> exact ok_of_gives (by decide +kernel)
theorem wit_KeyValueSteps_alloc : ∃ t u z ws, allocBlock (kvWho (kvState 0 1)) (kvCmd 1).tab 0 2 0 (kvState 0 1) = .ok (some 1, t) ∧
    storeEntry (kvWho (kvState 0 1)) (kvCmd 1).tab 72 0x100000001 t = .ok ((), u) ∧ kvAddr 0x11000 u = .ok (ws, z) := by
  obtain ⟨b, t, h, g⟩ := ok_of_bind (m := allocBlock (kvWho (kvState 0 1)) (kvCmd 1).tab 0 2 0)
    (f := fun b => if b = some 1 then do storeEntry (kvWho (kvState 0 1)) (kvCmd 1).tab 72 0x100000001; kvAddr 0x11000 else throw (.wait id))
    (s := kvState 0 1) (by decide +kernel)
  by_cases hb : b = some 1
  · subst hb
    rw [if_pos rfl] at g
    obtain ⟨_, u, h2, g⟩ := ok_of_bind g
    obtain ⟨ws, z, g⟩ := ok_of_through g
    exact ⟨t, u, z, ws, h, h2, g⟩
  · rw [if_neg hb] at g
    cases g
theorem wit_KeyValueSteps_open : readEntry (kvWho (kvState 1 0)) 64 0 (kvState 1 0) = .ok (0x100000000, kvState 1 0) ∧
    placeWrite (kvWho (kvState 1 0)) (windowAddr 64) 8 5 (kvState 1 0) = .ok (.mem 0x30040, kvState 1 0) ∧
    countRead (kvWho (kvState 1 0)) 0x20000 (kvState 1 0) = .ok (1, kvState 1 0) ∧ through (kvAddr 0x10000 (kvState 1 0)) = true :=
  ⟨ok_of_gives (by decide +kernel), ok_of_gives (by decide +kernel), ok_of_gives (by decide +kernel), by decide +kernel⟩
theorem wit_KeyValueSteps_copy : countRead (kvWho kvShared) 0x20000 kvShared = .ok (2, kvShared) ∧ through ((do
    let b ← allocBlock (kvWho kvShared) (kvCmd 0).tab 0 2 0
    let bs ← readMem (kvWho kvShared) 0x10000 4096 4
    storeMem (kvWho kvShared) 3 0x11000 bs
    storeEntry (kvWho kvShared) (kvCmd 0).tab 64 0x100000001
    lowerEntry (kvWho kvShared) (kvCmd 0).tab 0x100000000
    let _ ← kvAddr 0x11000
    if b = some 1 then pure () else throw (.wait id) : M Unit) kvShared) = true :=
  ⟨ok_of_gives (by decide +kernel), by decide +kernel⟩
theorem wit_KeyValueSteps_release : through ((do
    storeEntry (kvWho (kvState 2 0)) (kvCmd 0).tab 64 0
    let _ ← kvLower (kvWho (kvState 2 0)) none 0x20000 : M Unit) (kvState 2 0)) = true := by decide +kernel
theorem wit_KeyValueSteps_peer :
    (kvRead 0 (kvWord 2) kvFar = .ok (.ok { kvCmd 0 with old := 0x8000400100000000 }, kvFar) ∧ kvTier 0x8000400100000000 = 2) ∧
    through (storeEntry (kvWho kvFar) (kvCmd 0).tab 64 0 kvFar) = true ∧
    kvLowering.cmd? 0 0x0B0 = some (kvWord 2) ∧ (kvLowering.slot 0).kvLow = some ⟨0, some 1, 0x20000, none, 0⟩ ∧
    through (kvLower { kvLowering.whoSlot 0 (.issue 0) with core := none, die := 0 } (some 1) 0x20000 kvLowering) = true :=
  ⟨⟨ok_of_gives (by decide +kernel), by decide +kernel⟩, by decide +kernel⟩
theorem wit_KeyValueSteps_away :
    KvLow.away (kvWho (kvState 1 0)) ⟨0, none, 0x20000, none, 0⟩ (kvState 1 0) = .ok (false, kvState 1 0) ∧
    KvLow.away (kvWho (kvAway 1)) ⟨0, none, 0x20000, none, 0⟩ (kvAway 1) = .ok (true, kvAway 1) ∧
    countRead (kvWho (kvAway 1)) 0x20000 (kvAway 1) = .ok (2, kvAway 1) ∧
    allocBlock (kvWho (kvAway 1)) (kvCmd 0).tab 0 2 0 (kvAway 1) = .ok (some 1, kvAway 1) ∧
    through ((do
      storeMem (kvWho (kvAway 1)) 3 0x11000 (List.replicate 4096 0)
      storeEntry (kvWho (kvAway 1)) (kvCmd 0).tab 64 0x100000001 : M Unit) (kvAway 1)) = true ∧
    through (storeEntry (kvWho (kvAway 2)) (kvCmd 0).tab 64 0 (kvAway 2)) = true :=
  ⟨ok_of_gives (by decide +kernel), ok_of_gives (by decide +kernel), ok_of_gives (by decide +kernel), ok_of_gives (by decide +kernel),
    by decide +kernel, by decide +kernel⟩
theorem wit_KeyValueSteps_second : ∀ p ∈ kvLows, (kvSecond p).cmd? 0 0x0B0 = some (kvWord p.1) ∧ bits (kvWord p.1) 63 61 = p.1 ∧
    ((kvSecond p).slot 0).kvLow = some p.2 ∧ through (kvLower { (kvSecond p).whoSlot 0 (.issue 0) with core := none, die := 0 } p.2.pkg p.2.va
      (kvSecond p)) = true := by decide +kernel
theorem wit_KeyValueSteps_frame : withCopy.copies.find? (fun c => decide (c.n = 4)) = some copyJob ∧ withCopy.writeDone 77 = true ∧
    through (raiseCounts (homeDie copyJob.old) 4 (kvCounts (withCopy.frameDesc copyJob.fresh).kv (withCopy.frameImg copyJob.fresh)) withCopy) = true := by
  decide +kernel
/-- A model entry of tenant 5: one layer, groups of one to four, its batch memory in pages 1 and 2, a recompute entry. -/
def modelEntry : List Byte :=
  fields 64 [(0, 2, 5), (2, 2, 1), (4, 2, 1), (6, 2, 4), (8, 4, 100), (0x10, 8, 0x8000), (0x18, 8, 0x9000), (0x20, 8, 0x10000)]
/-- Stream 3 of model 1 waits on the layer board. -/
def withBoard : State :=
  { (mapped fun x => x).modDie 0 (fun d => { d with board := [⟨1, 0, 3, 0⟩] }) with
    scbs := [(3, block 1 0 [(0x2A, 1, 1)])]
    models := [(1, modelEntry)]
    ev := { who := 0, n := 1, m := 0 } }
/-- A message of a member of group 2, or of the group's resolution. -/
def withGroup (m : Msg) : State :=
  { mapped (fun x => x) with
    groups := [(2, ⟨wr (wr (wr (List.replicate 64 0) 4 2 5) 0xF 1 1) 0x10 8 0x10000, []⟩)]
    msgs := [{ m with n := 9, mbox := 2 }]
    ev := { who := 9 } }
/-- Stream 3 as a victim in a package without a pool. -/
def withVictim : State :=
  { base.modDie 0 (fun d => { d with evlow := 0x100000001, evcfg := 0x1000 }) with
    scbs := [(3, block 1 0 [(0x2A, 1, 1), (0x74, 4, 1), (0x70, 2, 1)])]
    models := [(1, modelEntry)]
    poolsz := 0
    ev := { who := 0 } }
/-- A transfer at stage 4. -/
def moving : Transfer := ⟨9, 0, 1, 3, 5, 0, [7], 0, 4, [], 0⟩
def withMove : State := { base with moves := [moving], timer := 1024, linkup := 0x0101010101010101, ev := { who := 9 } }
/-- A write of a model entry from own local store 0x100. -/
def modelWord : Dword := (ownAddr 0x100 >>> 6) + 0x0004000000000000
def withModel : State := { posted 0x092 modelWord with ls := Memory.writeBytes [] 0x100 modelEntry }
/-- A stream that its scheduler swapped out, without pages. -/
def swapped : State := { base.modDie 0 (fun d => { d with evicted := [3] }) with scbs := [(3, block 5 0x11 [])], ev := { who := 0 } }

theorem wit_StreamSteps_batch : withBoard.formingTask 0 1 0 = none ∧ withBoard.freeBatch 0 1 false = some 0 ∧
    withBoard.takeable 0 1 0 = true ∧ withBoard.firstDue 0 1 0 = true ∧ (match (withBoard.beginBatch 0 1 0).formingTask 0 1 0 with
      | some t => through (writeBatch t (withBoard.beginBatch 0 1 0))
      | none => false) = true := by decide +kernel
theorem wit_StreamSteps_groups :
    let a := withGroup { Msg.to 5 0 with src := 3, since := 3 }
    let b := withGroup { Msg.to 6 0 with bytes := [1, 2, 3] };
    ((a.msg? 9 5).map a.firstForGroup = some true ∧ (a.group? 2).isSome = true) ∧
    (b.msg? 9 5 = none ∧ (b.msg? 9 6).map b.firstForGroup = some true ∧
      through (writeMem (whoUnit 0 5 (.device 9) 9) 0x10000 [1, 2, 3] 5 b) = true) := by decide +kernel
theorem wit_StreamSteps_eviction : bits (withVictim.die 0).evlow 31 0 > withVictim.freeFrames 0 ∧
    bits (withVictim.die 0).evlow 63 32 > withVictim.freeFrames 0 ∧ withVictim.victim 0 [] = some 3 ∧ withVictim.evictQuiet 3 = true ∧
    (withVictim.evict 0 3 State.evictMove).map (fun t => t.victim 0 [3]) = some none := by decide +kernel
/-- Stream 3 as a victim whose page has a write on its way. -/
def withBusyVictim : State :=
  { ((paged fun x => x).setEntry 0x206008 0x800001020F).modDie 0 (fun d => { d with evlow := 0x100000001, evcfg := 0x1000 }) with
    frames := [(0x800001, ⟨1, 0, 0, false, false, false, false, true, 5, 7, 8, []⟩)]
    scbs := [(3, block 1 0 [(8, 8, 0x200000), (0x2A, 1, 1), (0x74, 4, 1), (0x70, 2, 1)])]
    models := [(1, modelEntry)]
    poolsz := 0
    writes := [⟨4, 1, 0, #v[1, 0, 0, 0], .bytes 0x8000010000 [7], false, 0, []⟩]
    ev := { who := 0 } }
theorem wit_StreamSteps_busy : bits (withBusyVictim.die 0).evlow 31 0 > withBusyVictim.freeFrames 0 ∧
    bits (withBusyVictim.die 0).evlow 63 32 > withBusyVictim.freeFrames 0 ∧ withBusyVictim.victim 0 [] = some 3 ∧
    withBusyVictim.evictQuiet 3 = false := by decide +kernel
theorem wit_StreamSteps_restore : (swapped.die 0).evicted = 3 :: [] ∧ (swapped.die 0).evlow = 0 ∧ swapped.awayLeaves 3 = 0 ∧
    0 < swapped.freeFrames 0 ∧ through (restoreM (whoUnit 0 (scbTenant (swapped.scb 3)) (.stream 3) 0) 3 swapped) = true := by decide +kernel
theorem wit_StreamSteps_moves : withMove.move? 9 = some moving ∧ withMove.pkgOk moving.peer = true ∧ withMove.canTouch 0 1 = true ∧
    withMove.freeTags 0 1 = [0] ∧ (∀ d < 8, withMove.dirUp d = true) ∧ withMove.pkgOk withMove.pkgid.toNat = true ∧
    moving.peer ≠ withMove.pkgid.toNat ∧ withMove.egress = [] ∧
    (∃ t ∈ ({ base with arrivals := [moving], timer := 0x8000000 } : State).arrivals, t.n = 9 ∧ t.since + 2 ^ 27 ≤ 0x8000000) ∧
    ((base.modDie 0 fun x => { x with inval := [0x10000] }).die 0).inval = 0x10000 :: [] := by decide +kernel
theorem wit_StreamSteps_model : (withModel.cmd? 0 0x092 = some modelWord ∧
      readMem (withModel.whoSlot 0 (.issue 0)) (keepBits (modelWord <<< 6) 55 6) 64 0 withModel = .ok (modelEntry, withModel)) ∧
    bits modelWord 63 62 = 0 ∧ withModel.modelResult (bits modelWord 57 50) modelEntry = 0 :=
  ⟨⟨rfl, ok_of_gives (by decide +kernel)⟩, by decide +kernel⟩
/-- A launch packet of tenant 5 with sequence number 1 and its completion word at 0x20000. -/
def packet (kind : Nat) (fs : List (Nat × Nat × Nat)) : List Byte :=
  fields 256 ([(0, 1, kind), (4, 2, 5), (8, 4, 1), (0x12, 1, 2), (0xF8, 4, 1)] ++ fs)
def sweepPacket : List Byte :=
  packet 1 [(0x40, 8, 0x8000), (0x48, 4, 1), (0x4C, 4, 1), (0x50, 4, 1), (0x54, 4, 1), (0x58, 4, 1), (0x5C, 4, 1), (0x60, 1, 1)]
def graphPacket : List Byte := packet 2 [(0x42, 1, 1), (0x48, 4, 1)]
def streamPacket (op home : Nat) : List Byte :=
  packet 3 [(0x42, 1, 1), (0x40, 2, home * 4), (0x48, 4, 1), (0x4C, 1, op), (0x4E, 2, 1), (0x5A, 1, 2)]
/-- Launch 7 of queue 0 with a packet, started on some dies. -/
def launchOf (pkt : List Byte) (started : List Nat) : Launch := ⟨7, 0, 0, 1, pkt, 5, 0, started, [], [], [], [], [], 0, 0, [], false, 0, false, 0, [], [], 0, []⟩
/-- Queue 0 of tenant 5, two packets deep, whose ring stands in frame 1. -/
def queue0 : LaunchQueue := ⟨5, 0x10000, 2, 0, 0, 1, 0, [true, false], 0, 0, [0x10000]⟩
def withLaunch (l : Launch) : State :=
  { mapped (fun x => x) with lqs := [(0, queue0)], launches := [l], models := [(1, modelEntry)], ev := { who := 0, n := 7, m := 0 } }
def sweepCell : State := (withLaunch (launchOf [] [])).pokeAll 0x10000 sweepPacket
def graphed : State := { withCard 0 with launches := [launchOf graphPacket [0]], lqs := [(0, queue0)], ev := { who := 0, n := 7 } }
def streamed (op home : Nat) : State :=
  { ((withLaunch (launchOf (streamPacket op home) [0])).pokeAll 0x10000 (leBytes 4 3 ++ leBytes 4 0x40000000)).pokeAll 0x20000
      (block 0 0 [(0, 4, 3), (0x1C, 1, 4), (0x2A, 2, 1)]) with
    scbs := if op = 1 then [(3, block 4 0 [(0x2A, 2, 1)])] else [] }
/-- A launch whose dies are all done, at a stage of its completion. -/
def ended (stage : Nat) : Launch := { launchOf graphPacket [0, 1, 2, 3] with finished := [0, 1, 2, 3], stage := stage }

theorem wit_LaunchSteps_take : (sweepCell.lqs.find? 0 = some queue0 ∧ queue0.frames = 0x10000 :: [] ∧ queue0.arms.getD queue0.head false = true ∧
    sweepCell.inbox = []) ∧ sweepCell.launchReason queue0 (newLaunch sweepCell 0 queue0 (sweepCell.readHome 0x10000 256) 0) = 0 := by
  decide +kernel
theorem wit_LaunchSteps_sweep :
    let l := launchOf sweepPacket []
    let m := launchOf sweepPacket [0];
    ((withLaunch l).launch? 7 = some l ∧ l.aborted = false ∧ l.kind = 1 ∧ (withLaunch l).canStartLaunch 0 l = true) ∧
    (m.started.contains 0 = true ∧ 0 < m.workers ∧ workerCore 0 / 160 = 0 ∧ m.next.getD 0 0 = m.ended.getD 0 0 ∧ m.next.getD 0 0 < m.rounds ∧
      ((withLaunch m).pushRun 0 (m.record 0 0 (withLaunch m).nextN)).isSome = true) := by decide +kernel
theorem wit_LaunchSteps_graph :
    let l := launchOf graphPacket [0];
    graphed.launch? 7 = some l ∧ l.kind = 2 ∧ l.step.getD 0 0 < l.entries ∧ dw (rd l.pkt 0x40 8) = 0x10000 ∧
      through (graphCard 0 l 0x10000 graphed) = true := by decide +kernel
theorem wit_LaunchSteps_streams :
    (∀ p ∈ [(0, 1), (0, 0), (1, 0)],
      (streamed p.1 p.2).launch? 7 = some (launchOf (streamPacket p.1 p.2) [0]) ∧ (launchOf (streamPacket p.1 p.2) [0]).kind = 3 ∧
        rd (streamPacket p.1 p.2) 0x4C 1 = p.1 ∧ 0 < (launchOf (streamPacket p.1 p.2) [0]).entries ∧
        dw (rd (streamPacket p.1 p.2) 0x40 8) = 0x10000 + 4 * BitVec.ofNat 64 p.2) ∧
    scbHome 0x40000000 ≠ 0 ∧ scbHome 3 = 0 := by decide +kernel
theorem wit_LaunchSteps_elements :
    readMem ((launchOf (streamPacket 0 1) [0]).who 0) 0x10004 4 4 (streamed 0 1) = .ok ([0, 0, 0, 0x40], streamed 0 1) ∧
    readMem ((launchOf (streamPacket 0 0) [0]).who 0) 0x10000 4 4 (streamed 0 0) = .ok ([3, 0, 0, 0], streamed 0 0) ∧
    readMem ((launchOf (streamPacket 1 0) [0]).who 0) 0x10000 4 4 (streamed 1 0) = .ok ([3, 0, 0, 0], streamed 1 0) ∧
    through (startPair 0 (launchOf (streamPacket 0 0) [0]) 0 3 (streamed 0 0)) = true :=
  ⟨ok_of_gives (by decide +kernel), ok_of_gives (by decide +kernel), ok_of_gives (by decide +kernel), by decide +kernel⟩
theorem wit_LaunchSteps_end :
    let l := { launchOf graphPacket [0] with step := [(0, 1)] };
    ((withLaunch l).launch? 7 = some l ∧ l.reason = 0 ∧ l.finished.contains 0 = false ∧ (withLaunch l).shareDone 0 l = true) ∧
    ((withLaunch (ended 0)).launch? 7 = some (ended 0) ∧ (ended 0).comp.toNat % 8 = 0 ∧ 4 ≤ (ended 0).finished.length ∧ (ended 1).waits = []) ∧
    through ((do
      fenceTouched 0 (.launch 7 0)
      fenceTouched 1 (.launch 7 0)
      fenceTouched 2 (.launch 7 0)
      fenceTouched 3 (.launch 7 0)
      writeComp (ended 1) : M Unit) (withLaunch (ended 1))) = true := by decide +kernel
/-- A request of package 1 for tenant 5 arrives at die 0 of a package in service. -/
def arriving (s : State) (type : Nat) (fs : List (Nat × Nat × Nat)) (data : List Byte) : State :=
  { s with linkup := 0x0101010101010101, ev := { who := 0, pkt := requestPacket type 0 0 1 5 3 fs data } }
/-- The entry of the packet that arrives, and the state in which it waits. -/
def entryOf (s : State) (kind : Nat) : Inbound := ⟨s.nextN, kind, { who := 0, pkt := s.ev.pkt }, 0, [], []⟩
def waitingIn (s : State) (kind : Nat) : State :=
  { s.giveBack (some (StepArgs.link s.ev)) (Packet.flits s.ev.pkt) with inbox := [entryOf s kind], nextN := s.nextN + 1 }
/-- The same entry once its writes have been made. -/
def stored (s : State) (kind : Nat) : State :=
  { s with inbox := [{ entryOf s kind with stage := 1 }], nextN := s.nextN + 1, ev := { s.ev with k := s.nextN } }
def reached : State := { mapped (fun x => x) with nextN := 5 }
def readPkt : State := arriving reached 1 [(0x10, 8, 0x10000), (0x18, 4, 8)] []
def writePkt : State := arriving reached 2 [(0x10, 8, 0x10000), (0x18, 4, 4)] [1, 2, 3, 4]
def amoPkt : State := arriving reached 3 [(0x10, 8, 0x10000), (0x19, 1, 1), (0x20, 8, 7)] []
def msgPkt : State := arriving reached 4 [(0x13, 1, 2), (0x18, 4, 8)] [1, 2, 3, 4, 5, 6, 7, 8]
def strandPkt : State := arriving reached 5 [] (List.replicate 128 1)
def snapreqPkt : State := arriving reached 6 [(0x10, 4, 3), (0x14, 4, 1)] []
/-- Frame 0x10000 holds a page with the hash (7, 8). -/
def snapHashPkt : State := arriving { reached with frames := [(1, ⟨1, 0, 0, false, false, false, false, true, 5, 7, 8, []⟩)] } 6
  [(0x10, 4, 3), (0x14, 4, 1), (0x18, 8, 7), (0x20, 8, 8)] []
/-- A transfer of stream 3 of package 1 has begun. -/
def receiving : State := { reached with
  arrivals := [⟨3, 0, 1, 3, 5, 0x8000002000, [], 0, 0, [], 0⟩], nodes := [(0x4000001, ⟨1, 3, false, 5⟩)] }
def snapdataPkt : State := arriving receiving 7 [(0x10, 4, 3), (0x14, 4, 1), (0x18, 4, 4096)] (List.replicate 4096 0)
def snapendPkt : State := arriving receiving 7 [(0x10, 4, 3), (0x14, 4, 0xFFFFFFFF)] (block 1 0 [] ++ List.replicate 8 255 ++ List.replicate 3832 0)
/-- A safe tier of 1 GiB from 0x1000 of device space, which is mapped. -/
def ckptPkt : State := arriving { reached with ckrecv := 0x8001000000000010, tenants := [(0, ⟨0x200000, 0, 0, 100, 0, 7, false⟩)] } 8
  [(0x28, 8, 0x10000)] (List.replicate 4096 0)
def fencePkt : State := arriving reached 9 [] []

theorem wit_RequestSteps_serves : ∀ p ∈ [(1, readPkt), (2, writePkt), (3, amoPkt), (4, msgPkt), (5, strandPkt), (6, snapreqPkt), (6, snapHashPkt),
    (9, fencePkt)], p.2.Serves p.1 (entryOf p.2 p.1) (waitingIn p.2 p.1) := by unfold State.Serves; decide +kernel
theorem wit_RequestSteps_data : ∀ p ∈ [(7, snapdataPkt), (7, snapendPkt), (8, ckptPkt)],
    p.2.Serves p.1 (entryOf p.2 p.1) (waitingIn p.2 p.1) := by unfold State.Serves; decide +kernel
theorem wit_RequestSteps_memory :
    through (readHomes (entryOf readPkt 1).whoIs 0 2 0x10000 8 (waitingIn readPkt 1)) = true ∧
    through (writeMem (entryOf writePkt 2).whoIs 0x10000 [1, 2, 3, 4] 1 (waitingIn writePkt 2)) = true ∧
    through (homeAtomic (entryOf amoPkt 3).whoIs 0x10000 8 0 7 0 (waitingIn amoPkt 3)) = true ∧
    Packet.payload writePkt.ev.pkt = [1, 2, 3, 4] ∧ (waitingIn amoPkt 3).poisoned 0x10000 = false := by decide +kernel
theorem wit_RequestSteps_place :
    placeWrite (entryOf amoPkt 3).whoIs 0x10000 8 2 (waitingIn amoPkt 3) = .ok (.mem 0x10000, waitingIn amoPkt 3) := ok_of_gives (by decide +kernel)
theorem wit_RequestSteps_fabric :
    ((waitingIn msgPkt 4).forwarded 0 = some 0 ∧ Packet.core msgPkt.ev.pkt = 0 ∧
      ((waitingIn msgPkt 4).arriveMbox 0 2 (Packet.payload msgPkt.ev.pkt)).isSome = true) ∧
    ((waitingIn strandPkt 5).forwarded 0 = some 0 ∧ Packet.core strandPkt.ev.pkt = 0 ∧ Packet.fld strandPkt.ev.pkt 0x13 1 = 0 ∧
      (State.pushRun { waitingIn strandPkt 5 with nextN := 7 } 0 (recOfBytes (strandPkt.ev.pkt.data.take 128) 6 0)).isSome = true) := by
  decide +kernel
theorem wit_RequestSteps_snapreq :
    (((waitingIn snapreqPkt 6).openArrival 0 snapreqPkt.ev.pkt).map fun x => (x.1.mapArrival x.2 1 (newLeaf 3 0)).isSome) = some true ∧
    (((waitingIn snapHashPkt 6).openArrival 0 snapHashPkt.ev.pkt).map fun x =>
      (x.1.frameWithHash x.2.tenant 7 8, (((x.1.raiseFrame 0x10000).clearExclFrame 0x10000).mapArrival x.2 1 (newLeaf 0 0x10000)).isSome)) =
      some (some 0x10000, true) := by decide +kernel
theorem wit_RequestSteps_snapdata :
    ((waitingIn snapdataPkt 7).arrival? snapdataPkt.ev.pkt).isSome = true ∧
    (((waitingIn snapdataPkt 7).openArrival 0 snapdataPkt.ev.pkt).bind fun x =>
      (x.1.arrivalData x.2 1 4096 snapdataPkt.ev.pkt.data).map (·.2)) = some true ∧
    (((waitingIn snapendPkt 7).openArrival 0 snapendPkt.ev.pkt).map fun x => (x.1.freeStream 0).isSome) = some true ∧
    dw (rd snapendPkt.ev.pkt.data 0x100 8) = noReply := by decide +kernel
theorem wit_RequestSteps_ckpt :
    (ckptPkt.ckrecv.msb = true ∧ bits ckptPkt.ckrecv 47 4 = 1 ∧ bits ckptPkt.ckrecv 62 48 = 1) ∧
    through (writeMem { (entryOf ckptPkt 8).whoIs with tenant := 0 } 0x10000 (List.replicate 4096 0) 5 (waitingIn ckptPkt 8)) = true ∧
    (stored ckptPkt 8).allPerformed 5 = true := by decide +kernel
theorem wit_RequestSteps_performed : (stored ckptPkt 8).Serves 8 { entryOf ckptPkt 8 with stage := 1 } (stored ckptPkt 8) := by
  unfold State.Serves; decide +kernel

/-! ### Links -/

/-- An atomic on package 1 that waits for its response, and the response. -/
def amoSent : Packet := requestPacket 3 0 1 0 5 3 [(0x10, 8, 0x10000), (0x19, 1, 1), (0x20, 8, 7)] []
def amoRequest : Request := ⟨0, 3, 1, 3, 0, .op 0 1, 0, [], none⟩
def answered : State := { base with requests := [amoRequest], ev := { who := 0, pkt := Packet.reply amoSent 1 0 [(0x20, 8, 9)] [] } }
def overdue : State := { base with requests := [amoRequest], timer := 0x8000000, ev := { who := 0, n := 3 } }
/-- A packet from package 2 to package 1, with a port of each direction in service. -/
def passing : State :=
  { base with linkup := 0x0101010101010101, ev := { who := 0, pkt := requestPacket 3 0 1 2 5 3 [(0x10, 8, 0x10000)] [] } }

theorem wit_LinkSteps_responses :
    (Packet.dst answered.ev.pkt = answered.pkgid.toNat ∧ Packet.cls answered.ev.pkt = 1 ∧ headBad answered.ev.pkt = false ∧
      (responseRest answered.ev.pkt).all (· == 0) = true ∧ (answered.requests.find? fun (r : Request) => decide (r.die = 0 ∧
        r.tag = Packet.tag answered.ev.pkt ∧ r.answer.isNone = true ∧ r.opc = Packet.type answered.ev.pkt)) = some amoRequest ∧
      answered.rxRoom answered.ev = true ∧ answered.timedOut amoRequest = false ∧ Packet.len answered.ev.pkt = responseLen amoRequest) ∧
    (amoRequest ∈ overdue.requests ∧ amoRequest.answer = none ∧ overdue.timedOut amoRequest = true) := by decide +kernel
theorem wit_LinkSteps_ports :
    (Packet.dst passing.ev.pkt ≠ passing.pkgid.toNat ∧ passing.egress = [] ∧ passing.rxRoom passing.ev = true ∧ passing.frozen = false ∧
      (passing.hop none (some (StepArgs.link passing.ev).1) passing.ev.pkt).any (fun h => passing.mayStart h.1 h.2.1 h.2.2) = true) ∧
    passing.linkup.getLsbD (8 * 2 + 0) = true ∧ passing.linkup.getLsbD (8 * 2 + 1) = false := by decide +kernel

/-! ### Ethernet -/

/-- Queue pair 2 of tenant 5 with unacknowledged messages, a registered key, and a step of that queue pair. -/
def qpOf (pend : List (Nat × Nat × Nat × Out)) : QueuePair := { QueuePair.zero with opened := true, addr := 1, tenant := 5, pend := pend }
def hosted (a : StepArgs) (pend : List (Nat × Nat × Nat × Out)) : State :=
  { mapped (fun x => x) with
    nextN := 5
    qps := [(2, qpOf pend)]
    rkeys := [(9, ⟨5, 0x10000, 0x10000, true, true, true⟩)]
    ev := { a with who := 2 } }
/-- The entry of the message that arrives, the state in which it waits, and that in which its writes have been made. -/
def msgIn (s : State) (kind : Nat) : Inbound := ⟨s.nextN, kind, s.ev, 0, [], []⟩
def heard (s : State) (kind : Nat) : State := { s.expectNext kind with inbox := [msgIn s kind], nextN := s.nextN + 1 }
def performedIn (s : State) (kind : Nat) : State :=
  { s with inbox := [{ msgIn s kind with stage := s.ev.bs.length }], nextN := s.nextN + 1, ev := { s.ev with k := s.nextN } }
def hostWrites : State := hosted { n := 9, a := 0x10000, bs := [1, 2, 3, 4] } []
def hostReads : State := hosted { n := 9, a := 0x10000, m := 8 } []
def hostAdds : State := hosted { n := 9, a := 0x10000, b := 1 } []
def sentWrite : Nat × Nat × Nat × Out := (3, 0, 3, .rdmaWrite 2 0x1000 [1])
def sentRead : Nat × Nat × Nat × Out := (3, 0, 3, .rdmaRead 2 3 0x1000 2)
def slowed : State := { hosted {} [] with qps := [(2, { qpOf [] with rate := 1 / 2, lastCut := some 0 })], timer := 71500 }

theorem wit_EthernetSteps_hears : ∀ p ∈ [(0x21, hostWrites), (0x22, hostReads), (0x23, hostAdds), (0x24, hostAdds)],
    p.2.Hears p.1 (msgIn p.2 p.1) 5 (heard p.2 p.1) := by unfold State.Hears; decide +kernel
theorem wit_EthernetSteps_performed : (performedIn hostWrites 0x21).Hears 0x21 { msgIn hostWrites 0x21 with stage := 4 } 5
      (performedIn hostWrites 0x21) ∧ (performedIn hostWrites 0x21).allPerformed 5 = true := by
  unfold State.Hears; decide +kernel
theorem wit_EthernetSteps_memory :
    through (writeLine 2 ((msgIn hostWrites 0x21).rdma 5) 0x10000 [1, 2, 3, 4] (heard hostWrites 0x21)) = true ∧
    through (readHomes ((msgIn hostReads 0x22).rdma 5) 6 2 0x10000 8 (heard hostReads 0x22)) = true ∧
    through (homeAtomic ((msgIn hostAdds 0x23).rdma 5) 0x10000 8 9 0 1 (heard hostAdds 0x23)) = true ∧
    through (homeAtomic ((msgIn hostAdds 0x24).rdma 5) 0x10000 8 0 1 0 (heard hostAdds 0x24)) = true ∧
    hostWrites.keyOk 9 5 0x10000 8 (·.write) = true ∧
    hostReads.keyOk 9 5 0x10000 8 (·.read) = true ∧ hostAdds.keyOk 9 5 0x10000 8 (·.atomic) = true := by decide +kernel
theorem wit_EthernetSteps_place :
    placeWrite ((msgIn hostAdds 0x23).rdma 5) 0x10000 8 6 (heard hostAdds 0x23) = .ok (.mem 0x10000, heard hostAdds 0x23) ∧
    placeWrite ((msgIn hostAdds 0x24).rdma 5) 0x10000 8 6 (heard hostAdds 0x24) = .ok (.mem 0x10000, heard hostAdds 0x24) :=
  ⟨ok_of_gives (by decide +kernel), ok_of_gives (by decide +kernel)⟩
theorem wit_EthernetSteps_acks :
    let a := hosted { n := 3 } [sentWrite]
    let b := hosted { n := 3, bs := [7, 8] } [sentRead];
    ((a.qpTenant 2).isSome = true ∧ a.ev.flag = false ∧ ∀ p ∈ (a.qp 2).pend, p.1 = a.ev.n → p.2.2.2.reads = false) ∧
    ((b.qp 2).pend.find? (fun p => p.1 == b.ev.n) = some sentRead ∧ sentRead.2.2.2.reads = true ∧
      sentRead.2.2.2.responseLen = b.ev.bs.length) ∧
    ((hosted { flag := true } []).ev.flag = true ∧ (hosted { flag := true } []).ev.bs.getD 0 0 = 0 ∧ (a.qp 2).pend = sentWrite :: [] ∧ (a.qp 2).opened = true ∧
      (a.qp 2).since + (a.qp 2).timeout ≤ a.timer.toNat ∧ (a.qp 2).tries < (a.qp 2).retries) := by decide +kernel
theorem wit_EthernetSteps_rates :
    (((hosted {} []).qpTenant 2).isSome = true ∧ ((hosted {} []).qp 2).lastCut = none) ∧
    ((slowed.qpTenant 2).isSome = true ∧ (slowed.qp 2).lastCut = some 0 ∧ ({ slowed with timer := 64999 } : State).timer.toNat < 0 + 65000) ∧
    ((slowed.qp 2).opened = true ∧ (slowed.qp 2).rate < 1 ∧ (slowed.qp 2).lastCnp + 71500 ≤ slowed.timer.toNat) ∧
    (let h := { hosted {} [] with ev := { who := 0, n := 0 } };
      (h.qps.filter fun (z : Nat × QueuePair) => decide ((qpDie z.1, z.2.prio) = (0, h.ev.n))) = [(2, qpOf [])] ∧ h.qp 2 = qpOf []) ∧
    (slowed.pause = [] ∧ (hosted { n := 7, flag := true } []).ev.n ≤ 7) := by decide +kernel

/-! ### Pages and drains -/

/-- Queue pair 7, the system queue pair of tenant 5, gets a message. -/
def sysHost (bs : List Byte) : State := { paged (fun x => x) with nextN := 5, qps := [(7, qpOf [])], ev := { who := 7, bs := bs } }
def sysReply : State :=
  (sysHost (fields 16 [(0, 1, 2), (4, 4, 0xC06), (8, 8, 9)])).modDie 0 fun d => { d with sysc := [(6, ⟨3, 0, 5, none, true⟩)] }
def asksPage : State := sysHost (fields 16 [(0, 1, 3), (8, 8, 0x10000)])
/-- The answer to a page that the device asked for, which lands in frame 0x30000. -/
def landingPage (asked : Bool) : PageState := ⟨5, 0x20000, 0x30000, asked, 0⟩
def grants (r : Nat) : State :=
  { sysHost (fields 16 [(0, 1, 4), (1, 1, r), (8, 8, 0x20000)]) with
    pages := [landingPage true], frames := [(3, ⟨1, 0, 1, false, false, false, false, false, 5, 0, 0, []⟩)] }
def settled : State := { paged (fun x => x) with pages := [landingPage false], ev := { id := 5, a := 0x20000 } }
/-- A drain to package 1 over all directions, with one frame of an older generation. -/
def drainOf (busy : List (Nat × List Nat)) (failed : Bool) : Drain := ⟨0xFF, 0, busy, [], failed, []⟩
def drains (d : Drain) : State :=
  { base with
    linkup := 0x0101010101010101
    tier := some (1, 0, 0x22000000000)
    drain := some d
    ckgen := 1
    frames := [(1, ⟨1, 0, 0, false, false, false, false, false, 5, 0, 0, []⟩)]
    ev := { who := 1 } }
def drainAnswer (t : Nat) : Request := ⟨0, t, 1, 8, 0, drainReq, 0, [], some (0, [])⟩
def copyDone : State :=
  { base with side := [(1, 0x30000)], frames := [(3, ⟨1, 0, 1, false, false, false, false, false, 5, 0, 0, []⟩)], ev := { who := 1 } }

theorem wit_PageAndDrainSteps_hears : ∀ s ∈ [sysReply, asksPage, grants 0, grants 1],
    s.Hears 0x20 (msgIn s 0x20) 5 (heard s 0x20) ∧ (heard s 0x20).sysQp 5 = (msgIn s 0x20).args.who := by
  unfold State.Hears; decide +kernel
theorem wit_PageAndDrainSteps_pages :
    (((heard sysReply 0x20).die 0).sysc.find? 6 = some ⟨3, 0, 5, none, true⟩ ∧ rd sysReply.ev.bs 4 4 / 1024 = 3 ∧
      sysReply.ev.bs.length = 16 ∧ rd sysReply.ev.bs 1 3 = 0) ∧
    (pageMsgBad asksPage.ev.bs = false ∧ (heard asksPage 0x20).pageState 5 0x10000 = none ∧
      (heard asksPage 0x20).mayGrant 5 0x10000 false = true ∧ through (grantPage 7 5 0x10000 (heard asksPage 0x20)) = true) ∧
    (∀ r ∈ [0, 1], pageMsgBad (grants r).ev.bs = false ∧ (heard (grants r) 0x20).pageState 5 0x20000 = some (landingPage true)) ∧
    ((heard (grants 0) 0x20).rewriteLeaf 5 0x20000 fun x =>
      let x := setBits (setBits (setBits (setBits (setBits x 57 56 0) 39 16 (0x30000 / 65536)) 11 10 0) 8 8 0) 0 0 1
      if bits x 3 1 = 0 then setBits x 2 1 3 else x).isSome = true ∧
    (settled.pageState 5 0x20000 = some (landingPage false) ∧ ((settled.dropPage (landingPage false)).rewriteLeaf 5 0x20000 hostLeaf).isSome = true) := by
  decide +kernel
theorem wit_PageAndDrainSteps_drain :
    let d := drainOf [] false
    let full : State := { drains (drainOf [(1, List.range 16)] false) with requests := (List.range 16).map drainAnswer };
    ((drains d).drain = some d ∧ (drains d).sideBusy 1 = false ∧ (drains d).drainNext 1 = true) ∧
    (full.drain = some (drainOf [(1, List.range 16)] false) ∧ full.sideBusy 1 = false ∧ ∀ g ∈ List.range 16,
      (full.requests.find? fun (r : Request) => decide (r.who = drainReq ∧ r.die = homeDie 0x10000 ∧ r.tag = g)).bind (·.answer) = some (0, [])) ∧
    (d.since + 2 ^ 27 ≤ 0x8000000 ∧ ({ drains d with frames := [] } : State).undrained = [] ∧ (drainOf [] true).failed = true) ∧
    (copyDone.side.find? 1 = some 0x30000 ∧ copyDone.sideBusy 1 = true) := by decide +kernel

/-! ### Power and the management path -/

/-- An image of each die that the firmware check passes. -/
def dieImages : List DieImage := List.replicate 4 ⟨[1], [2], true, 0⟩
/-- A package reset with a boot configuration; a freeze by some sources, whose conditions hold. -/
def bootOf : Boot := ⟨dieImages, 4, 2, 2, 1, 1, 0x0101, none⟩
def resets (b : Boot) : State := { mapped (fun x => x) with ev := { boot := b, who := 2, id := 3 } }
def frozenBy (pin aigon thermal current : Bool) : State :=
  { base with
    freeze := ⟨pin, aigon, thermal, current, if pin then some 0 else none, thermal, current, aigon⟩
    ev := { flag := true, target := .register 0 3 } }
/-- A command of the management path for tenant 5 and the open queue pair 2. -/
def managed (a : StepArgs) : State :=
  { paged (fun x => x) with
    qps := [(2, { qpOf [] with tenant := 0 })]
    nextN := 5
    tier := some (1, 0, 0x22000000000)
    linkup := 0x0101010101010101
    ev := { a with who := 2 } }
def tenantFive : Tenant := ⟨0x200000, 0, 0, 100, 0, 7, false⟩
def newQueue : State := (managed { id := 5, a := 0x10000, n := 16, m := 2 }).setEntry 0x206008 0x800001020F
/-- TDESTROY of tenant 5, whose work has ended. -/
def leaving : Inbound := { n := 7, kind := 0x41, args := { id := 5 }, stage := 1 }
def leaves : State := { managed { k := 7 } with inbox := [leaving] }

theorem wit_PowerSteps :
    ((resets bootOf).firmwareOk bootOf = true ∧ (resets bootOf).firmwareOk { bootOf with images := [] } = false ∧ bootBad bootOf (resets bootOf).pkgid = false ∧ bootOf.restore = none) ∧
    (bootBad { bootOf with restore := some (7, []) } 0 = false ∧ bootBad { bootOf with poolsz := 17 } 0 = true) ∧
    ((resets bootOf).pkgBurnt = true ∧ ({ base with pkgBurnt := false } : State).pkgBurnt = false) ∧
    ((resets bootOf).ev.flag = false ∧ (frozenBy true true true true).ev.flag = true) ∧
    (bits (frozenBy true true true true).pwr 3 0 = 0 ∧ (frozenBy true true true true).boot ≠ 1 ∧ ({ base with boot := 1 } : State).boot = 1 ∧
      (frozenBy true true true true).egress = []) ∧
    (∀ f ∈ [(frozenBy true true true true).freeze, (frozenBy false true false false).freeze], f.any = true ∧ f.aigon = true ∧
      (f.pin = true → f.edges ≠ none) ∧ (f.thermal = true → f.thermalOk = true) ∧ (f.current = true → f.currentOk = true) ∧
      (f.aigon = true → f.aigonOk = true)) ∧
    ((frozenBy true true true true).freeze.thermal = true ∧ (frozenBy true true true true).freeze.current = true ∧
      (frozenBy true true true true).ev.target = .register 0 3) := by decide +kernel
theorem wit_ManageSteps_tenants :
    let c := managed { id := 6, a := 0x200000, b := 1, c := 2 };
    (c.tenant? 6 = none ∧ (c.qp 2).opened = true ∧ c.rootBad 0x200000 = false ∧ c.tenants.length < 4096 ∧ (c.qp 2).tenant = 0) ∧
    ((managed { id := 5 }).tenant? 5 = some tenantFive) ∧
    (newQueue.tenant? 5 = some tenantFive ∧ newQueue.lqs.find? 2 = none ∧ regionOf 0x10000 = .tenant ∧
      newQueue.lqFrame 5 0x10000 = some 0x8000010000 ∧ (newQueue.qp 2).opened = true ∧ (newQueue.frameDesc 0x8000010000).pincnt ≠ 0xFFFF) ∧
    (({ base with lqs := [(2, { queue0 with arms := [false, false] })] } : State).lqs.find? 2).isSome = true ∧
    ((managed { n := 4096 }).ev.m = 0 ∧ (managed { m := 1 }).ev.m = 1 ∧ (managed { m := 2 }).ev.m = 2) := by decide +kernel
theorem wit_ManageSteps_destroy :
    (leaves.inbox.find? fun (x : Inbound) => decide (x.n = leaves.ev.k ∧ x.kind = 0x41)) = some leaving ∧
    (leaves.tenant? leaving.args.id).isSome = true ∧
    (leaves.abortTenant leaving.args.id).quietTenant leaving.args.id = true := by decide +kernel
theorem wit_ManageSteps_drain :
    let s := managed { id := 1, b := 0x22000000000, n := 0xFF };
    544 * 2 ^ 30 ≤ s.ev.b.toNat ∧ s.pkgOk s.ev.id.toNat = true ∧ s.ev.a.toNat % 4096 = 0 ∧ s.drain = none ∧
    s.ev.n % 256 ≠ 0 ∧ s.tier ≠ none ∧ s.dirsUp (BitVec.ofNat 8 (s.ev.n % 256)) ≠ [] ∧ s.cutReady = true := by decide +kernel

/-! ### Homes, cores and the scheduler -/

def homeWriteOf (p : Bool) : Write := ⟨4, 1, 0, #v[1, 0, 0, 0], .bytes 0x10000 [7], p, 0, if p then [1, 2, 3] else []⟩
def faultOf0 (tag : Option Nat) : FaultRec := ⟨0, .op 0 1, 1, 0, 8, 0, 5, 0x30000, 0x200000, 0, 0, 0, 0, tag, none, none⟩
/-- A RED.ORD of slot 0 with ticket 0 of 6, and the contribution that it sends. -/
def redOp (ea : Dword) (gone : Bool) (st : OpState) : Outst :=
  ⟨1, 0, ownAddr 0x3C, 15, [], .redord ea 4 9 0x500000000 .die 3 gone, [.g 3], st, false, false, 0, 5, 0, []⟩
def reduces (ea : Dword) (st : OpState) : State :=
  { mapped (fun x => { x with outs := [redOp ea false st] }) with ev := { who := 0, n := 1 } }
def redSent (addr : Nat) (u : State) : RedHeld :=
  { addr := addr, bank := redBank addr, die := 0, size := 4, ticket := 0, last := 5, x := 9, stamp := (u.die 0).view, who := some (0, 1), cmd := none
    uid := strand.uid }
def vecWaits : Outst := ⟨1, 0, ownAddr 0x3C, 15, [], .vector [], [.v 3], .ready, false, false, 0, 0, 0, []⟩
def loadWaits : Outst := ⟨1, 0, ownAddr 0x3C, 15, [], .load [] [] (.v 3 8 [] 0), [.v 3], .queued, false, false, 0, 0, 0, []⟩
/-- A task of slot 9 with a card of no regions. -/
def cardBytes : List Byte := [0, 0, 1, 0] ++ List.replicate 20 0 ++ [5, 0, 0, 0, 1] ++ List.replicate 99 0
def taskOf (ph : TaskPhase) : Task where
  n := 7
  die := 0
  queue := 0
  card := 0x10000
  img := cardBytes
  tenant := 5
  launch := none
  age := 0
  phase := ph
  slot := 9
  pins := []
  looked := false
  key := none
  reads := []
  taint := false
  root := true
  uid := 6
  strands := 0
  batch := none
  stream := none
  waits := []
  part := 0
def tasked (t : Task) (who : Nat) : State := { withCard 0 with tasks := [t], ev := { who := who } }
def waitsEntry (n : Option Nat) : State :=
  { (tasked (taskOf .refused) 0).modDie 0 fun d => { d with faultWait := [(faultEntry 0x10000 1 2 3 4 5, n)] } with ev := {} }
/-- Guaranteed work that has waited for 4,096 cycles with no core in its stage. -/
def resvLaunch : Launch := { launchOf (fields 256 [(2, 1, 4), (6, 2, 3)]) [0] with start := 1 }
def lateTask : Task := { taskOf .queued with queue := 1, img := wr cardBytes 0x1B 1 0x40, launch := some 7 }
def lateWork : State :=
  { (tasked lateTask 0).modDie 0 fun d => { d with queues := d.queues.put 1 [7], resvCtr := [(3, (1, 1, 1))] } with
    launches := [resvLaunch]
    resv := [(3, fields 64 [(0, 2, 5), (4, 4, 1300)])]
    resvLive := [(3, 7)]
    timer := 4096
    ev := { who := 0, n := 3 } }
/-- A SCHEDCMD with its image in the own local store. -/
def schedCmd (op : Nat) : Dword := ownAddr 0x100 + dw (op * 2 ^ 62 + 3 * 2 ^ 56)
def schedules (op : Nat) (img : List Byte) : State := { posted 0x08A (schedCmd op) with ls := Memory.writeBytes [] 0x100 img }
def resvImage : List Byte := fields 64 [(0, 2, 5), (4, 4, 1300), (8, 4, 1300), (0xC, 4, 1300), (0x10, 4, 1300), (0x14, 4, 2600)]
def stageImage : List Byte := fields 64 [(0, 4, 2), (4, 4, 1), (8, 2, 1), (0xA, 2, 2)]
/-- The urgent slot of core 0: enabled or not, its strand started or not. -/
def urgentCore (cfg : Dword) (started : Bool) : State := { base.modCore 0 fun c => { c with urgcfg := cfg, urg := started } with ev := {} }

theorem wit_HomeSteps_writes :
    let a : State := { base with writes := [homeWriteOf false], ev := { who := 4 } }
    let b : State := { base with writes := [homeWriteOf true], ev := { who := 1, n := 4 } };
    (a.writes.find? (fun w => decide (w.n = a.ev.who)) = some (homeWriteOf false) ∧ a.stampHolds (homeDie 0x10000) (homeWriteOf false) = true ∧
      a.orderHolds (homeDie 0x10000) (homeWriteOf false) = true ∧ a.oldFrame 0x10000 = false ∧
      ({ drains (drainOf [] false) with writes := [homeWriteOf false] } : State).oldFrame 0x10000 = true) ∧
    (b.writes.find? (fun w => decide (w.n = b.ev.n)) = some (homeWriteOf true) ∧ (homeWriteOf true).todo.contains 1 = true ∧
      b.stampHolds 1 (homeWriteOf true) = true ∧ b.orderHolds 1 (homeWriteOf true) = true) := by decide +kernel
theorem wit_HomeSteps_contributions :
    let m := reduces 0x10000 .ready
    let l := reduces (ownAddr 0x100) .ready
    let full := { m with redHeld := List.replicate 64 { redSent 0x10000 m with addr := 0x20000, ticket := 4 } };
    (m.target = some (0, redOp 0x10000 false .ready) ∧ (m.slot 0).mayLeave (redOp 0x10000 false .ready) = true ∧ 
      ((m.setOut 0 (redOp 0x10000 true .ready)).redArrive (redSent 0x10000 m)).2 = true) ∧
    (l.target = some (0, redOp (ownAddr 0x100) false .ready) ∧ (l.slot 0).mayLeave (redOp (ownAddr 0x100) false .ready) = true ∧
      ((l.setOut 0 (redOp (ownAddr 0x100) true .ready)).redArrive (redSent (2 ^ 50 + lsKey 0 0x100) l)).2 = true ∧
      l.storeTurn (l.whoOp 0 (redOp (ownAddr 0x100) false .ready)) 0 = true) ∧
    (full.target = some (0, redOp 0x10000 false .ready) ∧
      ((full.setOut 0 (redOp 0x10000 true .ready)).redArrive { redSent 0x10000 full with ticket := 5 }).2 = false) ∧
    (reduces 0x10000 .refused).target = some (0, redOp 0x10000 false .refused) := by decide +kernel
theorem wit_HomeSteps_places :
    placeWrite ((reduces 0x10000 .ready).whoOp 0 (redOp 0x10000 false .ready)) 0x10000 4 2 (reduces 0x10000 .ready) =
      .ok (.mem 0x10000, reduces 0x10000 .ready) ∧
    placeWrite ((reduces (ownAddr 0x100) .ready).whoOp 0 (redOp (ownAddr 0x100) false .ready)) (ownAddr 0x100) 4 2 (reduces (ownAddr 0x100) .ready) =
      .ok (.ls (clusterOf 0) 0x100, reduces (ownAddr 0x100) .ready) := ⟨ok_of_gives (by decide +kernel), ok_of_gives (by decide +kernel)⟩
theorem wit_HomeSteps_faults :
    let a : State := { base with faults := [faultOf0 none] }
    let b : State := { base with faults := [faultOf0 (some 2)], ev := { who := 0, bs := fields 16 [(0, 1, 1), (4, 2, 2)] } };
    (a.faults.find? (fun f => decide (f.die = 0 ∧ f.tag.isNone = true)) = some (faultOf0 none) ∧
      findFree (fun t => !(a.faults.any fun g => g.die == 0 && decide (g.tag = some t))) 4096 0 = some 0) ∧
    (replyVerdict b.ev.bs = some .retry ∧ b.faults.find? (fun f => decide (f.die = 0 ∧ f.tag = some (rd b.ev.bs 4 2) ∧ f.verdict = none)) =
      some (faultOf0 (some 2)) ∧ b.pageState 5 0x30000 = none ∧
      ({ b with pages := [landingPage false] } : State).pageState 5 0x20000 = some (landingPage false)) ∧ replyVerdict [] = none := by decide +kernel
theorem wit_HomeSteps_cores :
    let v := withStrand (fun x => { x with outs := [vecWaits] });
    (∀ j < 3, v.vectorHead ((3 + 1 + j + 1) % 4) = none) ∧ (v.cluster 0).vrot = 3 ∧ v.vectorHead 0 = some (0, vecWaits) ∧
    (withStrand fun x => { x with outs := [loadWaits] }).vectorHead 0 = some (0, loadWaits) ∧
    base.idleCoreNow 1 = true ∧ v.idleCoreNow 0 = false := by decide +kernel

theorem wit_SchedulerSteps_start :
    let q := (tasked (taskOf .queued) 0).modDie 0 fun d => { d with queues := d.queues.put 0 [7] }
    let d := (tasked (taskOf .dispatching) 7).modSlot 9 fun x => { x with occ := .reserved 7 };
    (q.queueBlocked 0 0 = false ∧ q.firstTask 0 0 = some (taskOf .queued) ∧ cardPure cardBytes = false ∧
      q.chooseCore (taskOf .queued) = some 1) ∧
    (d.taskIn 7 .dispatching = some (taskOf .dispatching) ∧ through (startM (taskOf .dispatching) { d with nextN := d.nextN + 1 }) = true) := by
  decide +kernel
theorem wit_SchedulerSteps_retire :
    let h := (tasked (taskOf .held) 0).modDie 0 fun d => { d with held := [7] };
    (∀ ph ∈ [TaskPhase.running, .hit, .retiring, .offering, .releasing, .faulting],
      (tasked (taskOf ph) 7).tasks.find? (fun t => decide (t.n = 7)) = some (taskOf ph)) ∧
    ((taskOf .running).part = (outChunks cardBytes).length ∧ 3 ≤ ({ taskOf .releasing with part := 3 } : Task).part) ∧
    through (hitM (taskOf .hit) (tasked (taskOf .hit) 7)) = true ∧ (tasked (taskOf .retiring) 7).taskBusy (taskOf .retiring) = false ∧
    through (retiringM { taskOf .retiring with part := 1 } (tasked { taskOf .retiring with part := 1 } 7)) = true ∧
    through (offerM (taskOf .offering) (tasked (taskOf .offering) 7)) = true ∧
    through (writeMem (taskOf .releasing).who 0x10030 [3] 5 (tasked (taskOf .releasing) 7)) = true ∧
    through (writeMem (taskOf .faulting).who 0x10030 [4] 5 (tasked (taskOf .faulting) 7)) = true ∧
    ((h.queueOf 0 0).length < queueCap 0 ∧
      ((h.die 0).held.findSome? fun n => (h.taskIn n .held).filter fun t => t.queue == 0) = some (taskOf .held) ∧
      through (writeMem (taskOf .held).who 0x10030 [1] 5 h) = true) := by decide +kernel
theorem wit_SchedulerSteps_queues :
    (((waitsEntry none).die 0).faultWait = (faultEntry 0x10000 1 2 3 4 5, none) :: [] ∧ ((waitsEntry none).die 0).faultq.length < 1024 ∧
      (waitsEntry none).sweepLaunch (dw (rd (faultEntry 0x10000 1 2 3 4 5) 0 8)) = none) ∧
    (((waitsEntry (some 7)).die 0).faultWait = (faultEntry 0x10000 1 2 3 4 5, some 7) :: [] ∧
      (waitsEntry (some 7)).tasks.find? (fun t => decide (t.n = 7)) = some (taskOf .refused)) ∧
    (let e := faultEntry 0x8000000000000005 1 2 3 4 5
     let z : State := { base.modDie 0 (fun d => { d with faultWait := [(e, none)] }) with launches := [launchOf sweepPacket [0]], ev := {} };
      z.sweepLaunch (dw (rd e 0 8)) = some (launchOf sweepPacket [0])) ∧
    (lateWork.displacing 0 = none ∧ lateWork.guaranteedWaits 0 = true ∧ lateWork.displaced 0 = some 0 ∧ ((lateWork.modSlot 0 fun x => { x with displ := true }).displace 0).isSome = true ∧
      (lateWork.modSlot 0 fun x => { x with displ := true }).displacing 0 = some 0 ∧
      ((lateWork.modSlot 0 fun x => { x with displ := true, gst := x.gst.set 1 .empty }).displace 0).isNone = true) ∧
    (lateWork.launches.find? (fun l => lateWork.resvLive.find? 3 == some l.n && decide (0 < l.start)) = some resvLaunch ∧
      resvLaunch.step.getD 1000 0 < (lateWork.timer.toNat - resvLaunch.start) / max 1 (resvPeriod (lateWork.resvEntry 3))) := by decide +kernel
theorem wit_SchedulerSteps_commands :
    readImage 0 (schedCmd 0) (schedules 0 resvImage) = .ok (resvImage, schedules 0 resvImage) ∧
    readImage 0 (schedCmd 1) (schedules 1 stageImage) = .ok (stageImage, schedules 1 stageImage) ∧
    ((∀ op < 3, bits (schedCmd op) 63 62 = op ∧ bits (schedCmd op) 61 56 = 3) ∧ (schedules 2 []).cmd? 0 0x08A = some (schedCmd 2) ∧
      (schedules 0 resvImage).resvResult 3 resvImage = 0 ∧ ((schedules 1 stageImage).stageWrite 0 3 stageImage).2 = 0) :=
  ⟨ok_of_gives (by decide +kernel), ok_of_gives (by decide +kernel), by decide +kernel⟩
theorem wit_SchedulerSteps_urgent :
    let e : Dword := 0x8000000000000000;
    ((posted 0x088 e).urgWriter 0 = some (0, e) ∧ (posted 0x088 0).urgWriter 0 = some (0, 0) ∧ e.msb = true) ∧
    ((urgentCore e false).urgWriter 0 = none ∧ ((urgentCore e false).slot 7).occ = .empty) ∧
    (({ urgentCore e false with slots := [(7, strand)] } : State).displace 7).isSome = true ∧
    (({ urgentCore 0 true with slots := [(7, strand)] } : State).slot 7).outs = [] := by decide +kernel

/-! ### Frames, invariants and refusals -/

theorem wit_RegisterFrame :
    (Ready base 1 false [.g 1, .g 2] [.g 31] ∧ Ready base 1 false [.g 1] [.g 0] ∧ Ready base 1 false [.g 1, .g 2, .g 31] [.g 31]) ∧
    (Ready base 1 false [.g 1, .g 2, .p 2] [.g 31] ∧ Ready base 0 false [] [.g 31] ∧ Ready base 1 false [.g 1, .g 2] [.p 7]) ∧
    (Ready base 1 false [.g 1] [.p 0] ∧ Ready base 1 false [.p 1, .p 2] [.p 3] ∧ Ready base 1 false [.p 1] [.p 3] ∧ Ready base 0 false [.p 1] []) :=
  ⟨⟨ready_of_readyB (by decide), ready_of_readyB (by decide), ready_of_readyB (by decide)⟩,
    ⟨ready_of_readyB (by decide), ready_of_readyB (by decide), ready_of_readyB (by decide)⟩,
    ready_of_readyB (by decide), ready_of_readyB (by decide), ready_of_readyB (by decide), ready_of_readyB (by decide)⟩
theorem wit_IssueFrame :
    (Ready base 1 true [.g 1] [.g 31] ∧ Ready base 1 true [.g 1, .g 31] [] ∧ Ready base 1 true [.g 1, .g 2] [.g 0]) ∧
    Ready base 0 true [.v 0, .v 7] [.v 1] ∧
    ((base.slot base.focus).acquiring = false ∧ base.vecFull = false ∧
      ∀ n ∈ [1, 2, 4, 8], base.accessTrap base.focus (BitVec.ofInt 64 (((base.slot base.focus).readG 1).toInt + 0)) n false = none ∧
        base.accessTrap base.focus (BitVec.ofInt 64 (((base.slot base.focus).readG 1).toInt + 0)) n true = none) :=
  ⟨⟨ready_of_readyB (by decide), ready_of_readyB (by decide), ready_of_readyB (by decide)⟩, ready_of_readyB (by decide), by decide +kernel⟩
theorem wit_MemoryFormKept : State.reset.MemoryForm ∧ (homeWriteOf false).data = .bytes 0x10000 [7] ∧
    ({ base with mem := Memory.writeBytes [] 0x10000 [7], writes := [homeWriteOf false] } : State).MemoryForm := by
  refine ⟨⟨rfl, rfl, rfl, fun w h => by cases h⟩, rfl, ⟨rfl, rfl, rfl, fun w h pa img e => ?_⟩⟩
  obtain rfl := List.mem_singleton.mp h
  cases e
/-- A sweep of the guaranteed class whose reservation entry is free, and the bounds of TIERSET. -/
def guaranteedSweep : Launch := launchOf (wr (wr sweepPacket 2 1 4) 6 2 3) []
theorem wit_Refusals :
    let s : State := { base with lqs := [(0, queue0)], ev := { id := 1, b := 0x22000000000 } };
    (¬ (2 % 16 < s.torus.1) ∧ s.answerTo (s.whoSlot 0 (.issue 0)) 1 2 (leBytes 8 0x10000) = none) ∧
    (544 * 2 ^ 30 ≤ s.ev.b.toNat ∧ s.ev.id.toNat % 16 < s.torus.1 ∧ s.ev.a.toNat % 4096 = 0 ∧ s.drain = none) ∧
    (guaranteedSweep.cls = true ∧ rd (s.resvEntry guaranteedSweep.resvid) 0 2 = 0 ∧ guaranteedSweep.kind = 1 ∧ guaranteedSweep.domain ≠ 3 ∧
      packetRsvd guaranteedSweep.pkt = false ∧ rd guaranteedSweep.pkt 4 2 = queue0.tenant.toNat ∧
      rd guaranteedSweep.pkt 8 4 = guaranteedSweep.seq.toNat ∧ rd guaranteedSweep.pkt 0xF8 4 = guaranteedSweep.seq.toNat ∧
      packetLimit guaranteedSweep = false ∧ packetAlign guaranteedSweep.pkt = false ∧ guaranteedSweep.waits? = false) := by decide +kernel
theorem wit_EncodeOfDecode : decodeWord 0x08A21FF0 = .ok (.addi 5 2 0 0x1FF0) ∧ (Instr.addi 5 2 0 0x1FF0).wf = true ∧
    encodeWord (.addi 5 2 0 0x1FF0) = some 0x08A21FF0 := by decide

end Sys2Proof.Tests
end

section
/-! Every instruction and every step answers a next state (R6): an instruction word through its issue, a device step by what it
does, and a turn through the instructions that it runs. -/

namespace Sys2Proof.Machine

/-! ### Instruction words -/

/-- Whichever check ends an issue, R239–R245, R309 and R313 say what the part does then. -/
theorem issue_next (p : Issue) (body : State → State → State) (s : State) : ∃ t, issue p body s = .next t := by
  simp only [issue]
  split
  · exact ⟨_, rfl⟩ -- a window is used up (R240)
  split
  · exact ⟨_, rfl⟩ -- an operand limit is broken (R313)
  split
  · exact ⟨_, rfl⟩ -- a register is empty, or eight instructions are outstanding (R240, R310)
  split
  · exact ⟨_, rfl⟩ -- the guard is false (R309)
  split
  · exact ⟨_, rfl⟩ -- a register that it reads is void (R244)
  split
  · exact ⟨_, rfl⟩ -- it is held
  split
  · exact ⟨_, rfl⟩ -- a check of its own fails (R243)
  · exact ⟨_, rfl⟩ -- it has its effect

theorem ThroughIssue.next {i : Instr} (h : ThroughIssue i) (s : State) : ∃ t, exec i s = .next t := by
  obtain ⟨p, body, -, he⟩ := h s
  exact he ▸ issue_next p body s

/-- The words of the instruction stream are issues, but for a word that is no instruction. -/
theorem throughIssue_of_isWord {i : Instr} (hi : isWord i = true) (hw : ∀ w, i ≠ .illegalWord w) : ThroughIssue i := by
  cases i with
  | illegalWord w => exact absurd rfl (hw w)
  | add => apply throughIssue_add | sub => apply throughIssue_sub | and => apply throughIssue_and | or => apply throughIssue_or
  | xor => apply throughIssue_xor | shl => apply throughIssue_shl | shr => apply throughIssue_shr | sra => apply throughIssue_sra
  | min => apply throughIssue_min | max => apply throughIssue_max | minn => apply throughIssue_minn
  | maxn => apply throughIssue_maxn | clz => apply throughIssue_clz | ctz => apply throughIssue_ctz
  | popc => apply throughIssue_popc | brev => apply throughIssue_brev | exts => apply throughIssue_exts
  | extz => apply throughIssue_extz | insf => apply throughIssue_insf | addi => apply throughIssue_addi
  | andi => apply throughIssue_andi | ori => apply throughIssue_ori | xori => apply throughIssue_xori
  | shli => apply throughIssue_shli | shri => apply throughIssue_shri | srai => apply throughIssue_srai
  | cmpi => apply throughIssue_cmpi | lih => apply throughIssue_lih | addpc => apply throughIssue_addpc
  | cmp => apply throughIssue_cmp | pand => apply throughIssue_pand | por => apply throughIssue_por
  | pxor => apply throughIssue_pxor | pnot => apply throughIssue_pnot | sel => apply throughIssue_sel
  | fadd => apply throughIssue_fadd | fsub => apply throughIssue_fsub | fmul => apply throughIssue_fmul
  | fma => apply throughIssue_fma | fdiv => apply throughIssue_fdiv | fsqrt => apply throughIssue_fsqrt
  | fmin => apply throughIssue_fmin | fmax => apply throughIssue_fmax | fsgn => apply throughIssue_fsgn
  | fneg => apply throughIssue_fneg | fabs => apply throughIssue_fabs | fclass => apply throughIssue_fclass
  | fcmp => apply throughIssue_fcmp | fcvt => apply throughIssue_fcvt | mul => apply throughIssue_mul
  | mulh => apply throughIssue_mulh | mulhn => apply throughIssue_mulhn | div => apply throughIssue_div
  | divn => apply throughIssue_divn | rem => apply throughIssue_rem | remn => apply throughIssue_remn
  | br => apply throughIssue_br | brn => apply throughIssue_brn | jal => apply throughIssue_jal | jalr => apply throughIssue_jalr
  | ldb => apply throughIssue_ldb | ldh => apply throughIssue_ldh | ldw => apply throughIssue_ldw | ldd => apply throughIssue_ldd
  | ldbn => apply throughIssue_ldbn | ldhn => apply throughIssue_ldhn | ldwn => apply throughIssue_ldwn
  | stb => apply throughIssue_stb | sth => apply throughIssue_sth | stw => apply throughIssue_stw | std => apply throughIssue_std
  | ldf => apply throughIssue_ldf | stf => apply throughIssue_stf | ldfp => apply throughIssue_ldfp
  | feget => apply throughIssue_feget | feset => apply throughIssue_feset | pref => apply throughIssue_pref
  | cflush => apply throughIssue_cflush | cinv => apply throughIssue_cinv | fenceRel => apply throughIssue_fenceRel
  | fenceAcq => apply throughIssue_fenceAcq | fenceFull => apply throughIssue_fenceFull | amoAdd => apply throughIssue_amoAdd
  | amoAnd => apply throughIssue_amoAnd | amoOr => apply throughIssue_amoOr | amoXor => apply throughIssue_amoXor
  | amoMin => apply throughIssue_amoMin | amoMax => apply throughIssue_amoMax | amoMinn => apply throughIssue_amoMinn
  | amoMaxn => apply throughIssue_amoMaxn | amoSwp => apply throughIssue_amoSwp | amoCas => apply throughIssue_amoCas
  | amoFadd => apply throughIssue_amoFadd | amoRedOrd => apply throughIssue_amoRedOrd | spawn => apply throughIssue_spawn
  | join => apply throughIssue_join | migr => apply throughIssue_migr | migv => apply throughIssue_migv
  | yield => apply throughIssue_yield | park => apply throughIssue_park | parkE => apply throughIssue_parkE
  | rfill => apply throughIssue_rfill | self => apply throughIssue_self | msend => apply throughIssue_msend
  | mrecv => apply throughIssue_mrecv | mpeek => apply throughIssue_mpeek | tpost => apply throughIssue_tpost
  | tdone => apply throughIssue_tdone | qpush => apply throughIssue_qpush | qpop => apply throughIssue_qpop
  | tcard => apply throughIssue_tcard | qpopW => apply throughIssue_qpopW | sfork => apply throughIssue_sfork
  | sstep => apply throughIssue_sstep | sact => apply throughIssue_sact | sret => apply throughIssue_sret
  | sjoin => apply throughIssue_sjoin | sretire => apply throughIssue_sretire | sevict => apply throughIssue_sevict
  | smig => apply throughIssue_smig | sstat => apply throughIssue_sstat | sjoinOpen => apply throughIssue_sjoinOpen
  | sstop => apply throughIssue_sstop | clook => apply throughIssue_clook | cput => apply throughIssue_cput
  | cinvk => apply throughIssue_cinvk | cflusht => apply throughIssue_cflusht | gset => apply throughIssue_gset
  | gmask => apply throughIssue_gmask | gmaskS => apply throughIssue_gmaskS | gadv => apply throughIssue_gadv
  | gadvS => apply throughIssue_gadvS | gchk => apply throughIssue_gchk | gsave => apply throughIssue_gsave
  | gload => apply throughIssue_gload | trap => apply throughIssue_trap | trapack => apply throughIssue_trapack
  | rett => apply throughIssue_rett | sysc => apply throughIssue_sysc | sleep => apply throughIssue_sleep
  | csrr => apply throughIssue_csrr | csrw => apply throughIssue_csrw | csrs => apply throughIssue_csrs
  | csrc => apply throughIssue_csrc | csrfi => apply throughIssue_csrfi | vadd => apply throughIssue_vadd
  | vsub => apply throughIssue_vsub | vmul => apply throughIssue_vmul | vmulh => apply throughIssue_vmulh
  | vmulhn => apply throughIssue_vmulhn | vand => apply throughIssue_vand | vor => apply throughIssue_vor
  | vxor => apply throughIssue_vxor | vshl => apply throughIssue_vshl | vshr => apply throughIssue_vshr
  | vsra => apply throughIssue_vsra | vmin => apply throughIssue_vmin | vmax => apply throughIssue_vmax
  | vminn => apply throughIssue_vminn | vmaxn => apply throughIssue_vmaxn | vadds => apply throughIssue_vadds
  | vaddsn => apply throughIssue_vaddsn | vsubs => apply throughIssue_vsubs | vsubsn => apply throughIssue_vsubsn
  | vmov => apply throughIssue_vmov | vfadd => apply throughIssue_vfadd | vfsub => apply throughIssue_vfsub
  | vfmul => apply throughIssue_vfmul | vfma => apply throughIssue_vfma | vfdiv => apply throughIssue_vfdiv
  | vfsqrt => apply throughIssue_vfsqrt | vfmin => apply throughIssue_vfmin | vfmax => apply throughIssue_vfmax
  | vexp2 => apply throughIssue_vexp2 | vlog2 => apply throughIssue_vlog2 | vrcp => apply throughIssue_vrcp
  | vrsq => apply throughIssue_vrsq | vld => apply throughIssue_vld | vlds => apply throughIssue_vlds
  | vldx => apply throughIssue_vldx | vst => apply throughIssue_vst | vsts => apply throughIssue_vsts
  | vstx => apply throughIssue_vstx | vldm => apply throughIssue_vldm | vstm => apply throughIssue_vstm
  | vrsum => apply throughIssue_vrsum | vrmin => apply throughIssue_vrmin | vrmax => apply throughIssue_vrmax
  | vrminn => apply throughIssue_vrminn | vrmaxn => apply throughIssue_vrmaxn | vrand => apply throughIssue_vrand
  | vror => apply throughIssue_vror | vrxor => apply throughIssue_vrxor | vscan => apply throughIssue_vscan
  | vscanmax => apply throughIssue_vscanmax | vtopk => apply throughIssue_vtopk | vperm => apply throughIssue_vperm
  | vbcastg => apply throughIssue_vbcastg | vmovg => apply throughIssue_vmovg | viota => apply throughIssue_viota
  | vbcast => apply throughIssue_vbcast | vcompress => apply throughIssue_vcompress | vcmp => apply throughIssue_vcmp
  | vfcmp => apply throughIssue_vfcmp | vmand => apply throughIssue_vmand | vmor => apply throughIssue_vmor
  | vmxor => apply throughIssue_vmxor | vmnot => apply throughIssue_vmnot | vmpopc => apply throughIssue_vmpopc
  | vmfirst => apply throughIssue_vmfirst | vcvt => apply throughIssue_vcvt | vpen => apply throughIssue_vpen
  | vbias => apply throughIssue_vbias | vban => apply throughIssue_vban | vsamp => apply throughIssue_vsamp
  | vrng => apply throughIssue_vrng | vacc => apply throughIssue_vacc | vresid => apply throughIssue_vresid
  | vtree => apply throughIssue_vtree | vmatch => apply throughIssue_vmatch | vsoftT => apply throughIssue_vsoftT
  | vsoftW => apply throughIssue_vsoftW | tcmd => apply throughIssue_tcmd
  | _ => exact absurd hi (by decide)

theorem exec_illegalWord (w : Word) (s : State) : exec (.illegalWord w) s = execIllegalWord w s := rfl

theorem exec_illegalWord_next (w : Word) (s : State) : ∃ t, exec (.illegalWord w) s = .next t := by
  rw [exec_illegalWord, execIllegalWord]
  split
  · exact ⟨_, rfl⟩ -- a window is used up (R240)
  · cases decodeWord w with
    | error c => exact ⟨_, rfl⟩
    | ok i => exact ⟨_, rfl⟩

/-! ### Device steps -/

/-- A device step whose unit has nothing to do leaves the state, and each says so itself: none has an arm that answers a stop. -/
theorem exec_next_of_not_isWord {i : Instr} (hi : isWord i = false) (s : State) : ∃ t, exec i s = .next t := by
  cases i with
  | packageReset | thermalWarning | throttleStart | throttleEnd | trip | freezePinAssert | aigonFreezeRequest
  | freezePinDeassert | thawRestart | thermalThaw | currentThaw | readoutRequest | tcreate | tlock | tdestroy | qpbind
  | queuePairSetup | lqcreate | lqdestroy | tierset | ckptreq | attest | thaw | readRequest | writeRequest | amoRequest
  | msgRequest | strandRequest | snapreq | snapdata | ckptPacketReceive | fencePacket | responseReceive | responseTimeout
  | packetForward | portLeaveService | portRejoin | roceSendReceive | rdmaWrite | rdmaRead | roceCas | roceFetchAdd
  | roceAckReceive | roceRetransmit | cnpReceive | rateRecover | sysreply | pagereq | pagerep | settleTimeEnd | launchUnitTake
  | sweepLaunchStart | graphLaunchStart | streamsetStart | streamsetAdvance | launchDieDone | launchComplete | sweepStrandStart
  | drainSend | drainStallTimeout | drainEnd | sideCopyDone | faultMessageSend | faultReply | walkBusyResume | frameCopyDone
  | writePerform | announcementApply | loadViewReturn | atomicHomePerform | redordArrive | redordResend | syncAccessGrant
  | feTimeout | runQueueArrive | dispatch | taskStart | taskRetire | heldCardEnqueue | faultEntryPost | slotFill | steal
  | deckRoomResume | displace | reservationReload | reservationWrite | stageWrite | governorTick | urgentEnable | urgentStart
  | urgentDisable | batchForm | groupMemberUpdate | evictionRound | streamRestoreSelf | transferDiscard | snapreqRetry
  | modelEntryWrite | castInvalidate | maskWalk | grammarDeadStop | grammarLoad | grammarUnload | unloadTakeEffect | arenaOpen
  | arenaCommit | arenaClose | kvAlloc | kvOpen | kvRelease | kvSetlen | instructionComplete | vectorIssue | leaseGrant
  | leaseEnd | accumClaim | accumRelease | arrivalCount | coreSleep | coreWake | evgath | evselWrite | tlbinv | caststatClear
  | registerWrite | takeTrap | timerCompare | slotSave | slotRestore | lssave | lsload | coreMove | fwdclr | forwardDeliver
  | joinRecordPush | joinRecordRetry | migrAnswer | mailboxDeliver | commandComplete | mma | mmacb | mmaf8 | cellp | cell | att
  | scan | accrd | acclr | fmtld | ringcfg | copy | gath | scat | fill | compact | hashpg | mcast | redst | barm | snap | ckpt
  | packageIdBurn | thermalWarningClear | aigonThawRequest | sleepTimerLimit | creditReturn | flitReplay | neighbourDrainReport
  | pfcPauseFrame =>
    exact ⟨_, rfl⟩
  | _ => exact Bool.noConfusion hi

/-! ### Turns -/

/-- R6: no instruction and no device step stops the part. -/
theorem exec_next (i : Instr) (s : State) : ∃ t, exec i s = .next t := by
  cases hi : isWord i with
  | false => exact exec_next_of_not_isWord hi s
  | true =>
    by_cases hw : ∃ w, i = .illegalWord w
    · obtain ⟨w, rfl⟩ := hw
      exact exec_illegalWord_next w s
    · exact (throughIssue_of_isWord hi fun w h => hw ⟨w, h⟩).next s

theorem tryIssue_next (s : State) (k : Nat) : ∃ t, s.tryIssue k = .next t := by
  unfold State.tryIssue
  split
  · exact exec_next ..
  · exact ⟨_, rfl⟩

/-- However many slots give the turn back, the turn ends in a state. -/
theorem issueTurn_next (ks : List Nat) (s : State) : ∃ t, State.issueTurn ks s = .next t := by
  induction ks generalizing s with
  | nil => exact ⟨s, rfl⟩
  | cons k ks ih =>
    obtain ⟨u, hu⟩ := tryIssue_next s k
    simp only [State.issueTurn, hu]
    split
    · exact ⟨u, rfl⟩
    · exact ih _

theorem take_next (s : State) (t : Turn) : ∃ u, s.take t = .next u := by
  cases t with
  | step i a =>
    simp only [State.take]
    split
    · exact ⟨s, rfl⟩
    · split
      · exact ⟨_, rfl⟩
      · exact exec_next ..
  | core c =>
    simp only [State.take]
    split
    · exact ⟨s, rfl⟩
    · exact issueTurn_next ..
  | home f => exact ⟨_, rfl⟩
  | elapse n => exact ⟨_, rfl⟩

/-- Settles O7: a step takes the first turn of the agenda, or the turn picked when there is none. -/
theorem everyStepGoesOn : Obligations.EveryStepGoesOn := by
  unfold Obligations.EveryStepGoesOn
  intro s
  unfold step
  split <;> exact take_next ..

end Sys2Proof.Machine
end

section
/-! Package reset and restore, power, freeze, thaw, read-out and attestation (R9, R12–R20, R181). -/

namespace Sys2Proof.Machine

/-! ### The bits of PWRSTAT (R13) -/

/-- Putting `b` for bit `i` of a number changes that bit only. -/
theorem testBit_replace (n i j : Nat) (b : Bool) :
    (n - n / 2 ^ i % 2 * 2 ^ i + b.toNat * 2 ^ i).testBit j = if j = i then b else n.testBit j := by
  have hr : n % 2 ^ i < 2 ^ i := Nat.mod_lt _ (Nat.two_pow_pos i)
  have hn : n = 2 ^ i * (n / 2 ^ i) + n % 2 ^ i := (Nat.div_add_mod n (2 ^ i)).symm
  generalize n / 2 ^ i = q at hn ⊢
  generalize n % 2 ^ i = r at hn hr ⊢
  have hq : 2 ^ i * q = 2 ^ i * (2 * (q / 2)) + q % 2 * 2 ^ i := by
    rw [Nat.mul_comm (q % 2), ← Nat.mul_add, Nat.div_add_mod]
  have hm : n - q % 2 * 2 ^ i + b.toNat * 2 ^ i = 2 ^ i * (2 * (q / 2) + b.toNat) + r := by
    rw [Nat.mul_add, Nat.mul_comm (2 ^ i) b.toNat]; omega
  rw [hm, hn, Nat.testBit_two_pow_mul_add _ hr, Nat.testBit_two_pow_mul_add _ hr]
  rcases lt_trichotomy j i with h | rfl | h
  · simp [h, h.ne]
  · cases b <;> simp
  · obtain ⟨k, rfl⟩ := Nat.exists_eq_add_of_lt h
    have hk : i + k + 1 - i = k + 1 := by omega
    have h2 : (2 * (q / 2) + b.toNat) / 2 = q / 2 := by have := b.toNat_lt; omega
    rw [if_neg (by omega), if_neg (by omega), if_neg (by omega), hk, Nat.testBit_succ, Nat.testBit_succ, h2]

theorem getLsbD_setPwr (p : Dword) {i : Nat} (hi : i < 64) (b : Bool) (j : Nat) :
    (setPwr p i b).getLsbD j = if j = i then b else p.getLsbD j := by
  have hb : (if b = true then 1 else 0) % 2 = b.toNat := by cases b <;> rfl
  simp only [setPwr, setBits, bits, Nat.add_sub_cancel_left, pow_one, hb, BitVec.getLsbD_ofNat, testBit_replace]
  split
  · simp [*]
  · rw [← BitVec.getLsbD, Bool.and_eq_right_iff_imp]
    simpa using BitVec.lt_of_getLsbD

/-- HOTDIE is not zero when one of its bits is set. -/
theorem bits_hotdie_ne_zero (p : Dword) : bits p 3 0 ≠ 0 ↔ ∃ i < 4, p.getLsbD i = true := by
  have hb (i : Nat) : (bits p 3 0).testBit i = (decide (i < 4) && p.getLsbD i) := by
    rw [bits, pow_zero, Nat.div_one, Nat.testBit_mod_two_pow]; rfl
  constructor
  · intro h
    obtain ⟨i, hi⟩ := Nat.exists_testBit_of_ne_zero h
    exact ⟨i, by simpa [hb] using hi⟩
  · rintro ⟨i, hi, hp⟩ h
    simpa [h, hi, hp] using hb i

/-- WARN is set when a bit of HOTDIE is. -/
theorem getLsbD_fixWarn_four (p : Dword) : (fixWarn p).getLsbD 4 = true ↔ ∃ i < 4, p.getLsbD i = true := by
  rw [fixWarn, getLsbD_setPwr p (by decide), if_pos rfl, bne_iff_ne, bits_hotdie_ne_zero]

theorem getLsbD_fixWarn_of_ne (p : Dword) {j : Nat} (hj : j ≠ 4) : (fixWarn p).getLsbD j = p.getLsbD j := by
  rw [fixWarn, getLsbD_setPwr p (by decide), if_neg hj]

/-- PWRSTAT after a change of one bit of HOTDIE: that bit, WARN as HOTDIE then says, and no other bit. -/
theorem getLsbD_fixWarn_setPwr (p : Dword) {d : Nat} (hd : d < 4) (b : Bool) :
    let q := fixWarn (setPwr p d b)
    q.getLsbD d = b ∧ (q.getLsbD 4 = true ↔ b = true ∨ ∃ i < 4, i ≠ d ∧ p.getLsbD i = true) ∧
      ∀ i, i ≠ d → i ≠ 4 → q.getLsbD i = p.getLsbD i := by
  have hs := getLsbD_setPwr p (show d < 64 by omega) b
  refine ⟨?_, ?_, fun i hi h4 => ?_⟩
  · rw [getLsbD_fixWarn_of_ne _ (by omega), hs, if_pos rfl]
  · rw [getLsbD_fixWarn_four]
    simp only [hs]
    constructor
    · rintro ⟨i, hi, h⟩
      split at h
      · exact .inl h
      · exact .inr ⟨i, hi, ‹_›, h⟩
    · rintro (rfl | ⟨i, hi, hne, h⟩)
      · exact ⟨d, hd, if_pos rfl⟩
      · exact ⟨i, hi, by rwa [if_neg hne]⟩
  · rw [getLsbD_fixWarn_of_ne _ h4, hs, if_neg hi]

theorem setPwr_throt_true (p : Dword) : setPwr p 5 true = p ||| 0x20 := by
  refine BitVec.eq_of_getLsbD_eq fun j _ => ?_
  rw [getLsbD_setPwr p (by decide), BitVec.getLsbD_or, show (0x20 : Dword) = BitVec.twoPow 64 5 from rfl, BitVec.getLsbD_twoPow]
  by_cases h : j = 5 <;> simp [h, eq_comm (a := 5)]

theorem setPwr_throt_false (p : Dword) : setPwr p 5 false = p &&& ~~~ 0x20 := by
  refine BitVec.eq_of_getLsbD_eq fun j hj => ?_
  rw [getLsbD_setPwr p (by decide), BitVec.getLsbD_and, BitVec.getLsbD_not, show (0x20 : Dword) = BitVec.twoPow 64 5 from rfl,
    BitVec.getLsbD_twoPow]
  by_cases h : j = 5 <;> simp [h, hj, eq_comm (a := 5)]

theorem execThrottleStart_eq (s : State) : execThrottleStart s = .next { s with pwr := s.pwr ||| 0x20 } := by
  rw [execThrottleStart, setPwr_throt_true]
theorem execThrottleEnd_eq (s : State) : execThrottleEnd s = .next { s with pwr := s.pwr &&& ~~~ 0x20 } := by
  rw [execThrottleEnd, setPwr_throt_false]

/-! ### What a restore leaves as the reset left it (R181) -/

/-- The generation, the launches, queues and queue pairs, the slots, TIMER and the firmware images. -/
def State.restoreKept (s : State) :
    Word × List Launch × Table LaunchQueue × Table QueuePair × Table Slot × Dword × List DieImage :=
  (s.ckgen, s.launches, s.lqs, s.qps, s.slots, s.timer, s.images)

/-- What every step of a fold keeps, the fold keeps. -/
theorem restoreKept_foldl {α : Type} {f : State → α → State} (h : ∀ s a, (f s a).restoreKept = s.restoreKept) (l : List α)
    (s : State) : (l.foldl f s).restoreKept = s.restoreKept := by
  induction l generalizing s with
  | nil => rfl
  | cons a l ih => exact (ih _).trans (h s a)

theorem restoreKept_modDie (s : State) (d : Nat) (f : Die → Die) : (s.modDie d f).restoreKept = s.restoreKept := rfl
theorem restoreKept_modFrame (s : State) (pa : Nat) (f : FrameDesc → FrameDesc) : (s.modFrame pa f).restoreKept = s.restoreKept := rfl
theorem restoreKept_modNode (s : State) (pa : Nat) (f : NodeDesc → NodeDesc) : (s.modNode pa f).restoreKept = s.restoreKept := rfl
theorem restoreKept_postMsg (s : State) (m : Msg) : (s.postMsg m).1.restoreKept = s.restoreKept := rfl
theorem restoreKept_delScb (s : State) (id : Nat) : { s with scbs := s.scbs.del id }.restoreKept = s.restoreKept := rfl
theorem restoreKept_addWatch (s : State) (f who : Nat) : (s.addWatch f who).restoreKept = s.restoreKept := rfl
theorem restoreKept_addRange (s : State) (pa : Nat) (r : KvRange) : (s.addRange pa r).restoreKept = s.restoreKept := rfl
theorem restoreKept_regroup (s : State) : s.regroup.restoreKept = s.restoreKept := rfl

theorem restoreKept_freeFrame (s : State) (pa : Nat) : (s.freeFrame pa).restoreKept = s.restoreKept := by
  simp only [State.freeFrame]; split_ifs <;> rfl

theorem restoreKept_lowerFrame (s : State) (pa : Nat) : (s.lowerFrame pa).restoreKept = s.restoreKept := by
  simp only [State.lowerFrame]
  split_ifs
  · exact restoreKept_freeFrame ..
  · exact restoreKept_modFrame ..
  · exact restoreKept_modFrame ..

theorem restoreKept_lowerNode (l : Nat) (s : State) (pa : Nat) : (State.lowerNode l s pa).restoreKept = s.restoreKept := by
  induction l generalizing s pa with
  | zero =>
    rw [State.lowerNode]
    split
    · exact restoreKept_foldl restoreKept_lowerFrame ..
    · exact restoreKept_modNode ..
  | succ l ih =>
    rw [State.lowerNode]
    split
    · exact restoreKept_foldl ih ..
    · exact restoreKept_modNode ..

theorem restoreKept_boardMove (s : State) (id : Nat) (r r' : List Byte) : (s.boardMove id r r').restoreKept = s.restoreKept := by
  unfold State.boardMove
  split_ifs
  · exact restoreKept_modDie ..
  · exact restoreKept_modDie ..
  · rfl

theorem restoreKept_scbStep (s : State) (id : Nat) (f : List Byte → List Byte) : (s.scbStep id f).restoreKept = s.restoreKept := by
  simp only [State.scbStep]
  split
  · exact restoreKept_boardMove ..
  · exact restoreKept_boardMove ..

theorem restoreKept_release (s : State) (id : Nat) : (s.release id).restoreKept = s.restoreKept := by
  have hroot (f : List Byte → List Byte) :
      ((State.lowerNode 3 s (scbRoot (s.scb id))).scbStep id f).restoreKept = s.restoreKept :=
    (restoreKept_scbStep ..).trans (restoreKept_lowerNode ..)
  simp only [State.release]
  split_ifs
  · rfl
  · rfl
  · exact hroot _
  · rfl
  · exact (restoreKept_delScb _ id).trans (hroot _)

theorem restoreKept_standAgain (s : State) (id : Nat) : (s.standAgain id).restoreKept = s.restoreKept := by
  simp only [State.standAgain]
  split
  · exact restoreKept_modDie ..
  · exact restoreKept_scbStep ..
  · split
    · rfl
    · exact restoreKept_modDie ..
  · exact restoreKept_release ..
  · rfl

theorem restoreKept_markTable (s : State) (flagged : Nat → Bool) (id : Nat) :
    (s.markTable flagged id).restoreKept = s.restoreKept := by
  simp only [State.markTable]
  split
  · rfl
  split
  · rfl
  refine restoreKept_foldl (fun s l => ?_) ..
  split
  · exact restoreKept_addRange ..
  · rfl

theorem restoreKept_checkGroup (s : State) (gid : Nat) : (s.checkGroup gid).restoreKept = s.restoreKept := by
  unfold State.checkGroup
  split
  · rfl
  · split <;> rfl

/-- A restore sets the generation, and leaves the launches, the queues, the slots, TIMER and the images. -/
theorem restoreKept_restoreImage (s : State) (gen : Word) (img : Memory) :
    (s.restoreImage gen img).restoreKept = { s with ckgen := gen }.restoreKept := by
  simp only [State.restoreImage]
  refine (restoreKept_foldl restoreKept_checkGroup ..).trans ?_
  refine (restoreKept_foldl (fun s id => restoreKept_markTable s _ id) ..).trans ?_
  refine (restoreKept_foldl restoreKept_standAgain ..).trans ?_
  refine (restoreKept_regroup _).trans ?_
  exact restoreKept_foldl (fun s e => restoreKept_foldl (fun s f => restoreKept_addWatch s f _) ..) ..

/-! ### Package reset (R9, R17, R20, R181) -/

/-- The reset part with a boot configuration. -/
def State.booted (s : State) (b : Boot) : State :=
  { s.afterReset with poolsz := b.poolsz, torus := (b.wsz, b.xsz, b.ysz, b.zsz), linkup := b.linkup, images := b.images }

theorem execPackageReset_of_unchecked {s : State} (hf : s.firmwareOk s.ev.boot = false) :
    execPackageReset s = .next (State.emit { s.afterReset with boot := 1, images := [] } (.event 3 [1])) := by
  simp [execPackageReset, hf]

section
variable {s : State} (hf : s.firmwareOk s.ev.boot = true)
include hf

theorem execPackageReset_of_bad (hb : bootBad s.ev.boot s.pkgid = true) :
    execPackageReset s = .next (State.emit { s.afterReset with boot := 2, images := s.ev.boot.images } (.event 3 [2])) := by
  simp [execPackageReset, hf, hb]

theorem execPackageReset_boots (hb : bootBad s.ev.boot s.pkgid = false) (hr : s.ev.boot.restore = none) :
    execPackageReset s = .next (s.booted s.ev.boot) := by
  simp [execPackageReset, hf, hb, hr, State.booted]

theorem execPackageReset_restores {gen : Word} {img : Memory} (hb : bootBad s.ev.boot s.pkgid = false)
    (hr : s.ev.boot.restore = some (gen, img)) : execPackageReset s = .next ((s.booted s.ev.boot).restoreImage gen img) := by
  simp [execPackageReset, hf, hb, hr, State.booted]

end

/-- A reset has no launches, queues or slots in use, and TIMER is 0; a restore gives it the image's generation (R181). -/
theorem restoreImage_booted (s : State) (b : Boot) (gen : Word) (img : Memory) :
    let t := (s.booted b).restoreImage gen img
    t.ckgen = gen ∧ t.launches = [] ∧ t.lqs = [] ∧ t.qps = [] ∧ t.slots = [] ∧ t.timer = 0 ∧ t.images = b.images := by
  have h : ((s.booted b).restoreImage gen img).restoreKept = (gen, [], [], [], [], 0, b.images) :=
    restoreKept_restoreImage ..
  simpa only [State.restoreKept, Prod.mk.injEq] using h

/-! ### Freeze and thaw (R14, R16) -/

/-- The conditions of the pin, of a thermal trip and of a trip by current, each where it is in force. -/
theorem Freeze.othersOk_of {f : Freeze} (hp : f.pin = true → f.edges ≠ none) (ht : f.thermal = true → f.thermalOk = true)
    (hc : f.current = true → f.currentOk = true) : f.othersOk = true := by
  have hp' : (!f.pin || f.edges.isSome) = true := by
    cases h : f.pin with
    | false => rfl
    | true => simpa [Option.isSome_iff_ne_none] using hp h
  have himp {a b : Bool} (h : a = true → b = true) : (!a || b) = true := by cases a <;> simp_all
  simp only [Freeze.othersOk, hp', himp ht, himp hc, Bool.and_self]

/-- With no packet waiting, the links send none. -/
theorem State.flushLinks_of_egress_nil {s : State} (h : s.egress = []) : s.flushLinks = s := by
  have hs : { s with egress := [] } = s := by rw [← h]
  unfold State.flushLinks
  split
  · rfl
  · simp only [h, List.filter_nil, List.foldl_nil, State.pump, hs]

section
variable {s : State}

theorem execTrip_thermal (h : s.ev.flag = false) :
    execTrip s = .next (s.assertFreeze 1 fun f => { f with thermal := true, thermalOk := false }) := by
  simp [execTrip, h]

theorem execTrip_current (h : s.ev.flag = true) :
    execTrip s = .next (s.assertFreeze 2 fun f => { f with current := true, currentOk := false }) := by
  simp [execTrip, h]

theorem execFreezePinDeassert_of_pin (h : s.freeze.pin = true) :
    execFreezePinDeassert s = .next { s with freeze := { s.freeze with edges := some 0 } } := by
  simp [execFreezePinDeassert, h]

theorem execThermalThaw_of_cool (h : s.freeze.thermal = true) (hp : bits s.pwr 3 0 = 0) :
    execThermalThaw s = .next { s with freeze := { s.freeze with thermalOk := true } } := by
  simp [execThermalThaw, h, hp]

theorem execCurrentThaw_of_current (h : s.freeze.current = true) :
    execCurrentThaw s = .next { s with freeze := { s.freeze with currentOk := true } } := by
  simp [execCurrentThaw, h]

theorem execAigonThawRequest_of_ok (h : s.freeze.aigon = true) (ho : s.freeze.othersOk = true) :
    execAigonThawRequest s = .next { s with freeze := { s.freeze with aigonOk := true } } := by
  simp [execAigonThawRequest, h, ho]

/-- THAW does what the Aigon's request does, and answers OK. -/
theorem execThaw_of_ok (hb : s.boot ≠ 1) (h : s.freeze.aigon = true) (ho : s.freeze.othersOk = true) :
    execThaw s = .next (State.emit { s with freeze := { s.freeze with aigonOk := true } } (.answer [0])) := by
  simp [execThaw, hb, State.manage, h, ho, State.reply, Reply.code]

/-- The clocks restart, and the held packets are dealt with first. -/
theorem execThawRestart_of_ok (h : s.freeze.any = true) (ho : s.freeze.othersOk = true)
    (ha : s.freeze.aigon = true → s.freeze.aigonOk = true) (he : s.egress = []) :
    execThawRestart s = .next { s with
      freeze := ⟨false, false, false, false, none, false, false, false⟩, agenda := s.linkHeld ++ s.agenda, linkHeld := [] } := by
  have ha' : (!s.freeze.aigon || s.freeze.aigonOk) = true := by cases hg : s.freeze.aigon <;> simp_all
  simp only [execThawRestart, h, ho, ha', Bool.and_self, if_true]
  exact congrArg _ (State.flushLinks_of_egress_nil he)

/-! ### Read-out and attestation (R15, R18, R19) -/

/-- A frozen part gives a register, and changes nothing. -/
theorem execReadoutRequest_register {k n : Nat} (h : s.freeze.any = true) (ht : s.ev.target = .register k n) :
    execReadoutRequest s = .next (s.emit (.readout (0 :: s.readoutRegister k n))) := by
  simp [execReadoutRequest, h, ht]

/-- A nonce of 64 bytes stands in the quote as it is. -/
theorem State.quote_of_length {nonce : List Byte} (h : nonce.length = 64) : s.quote nonce =
    nonce ++ leBytes 2 s.pkgid.toNat ++ (s.images.flatMap fun i => Sha.sha512 i.bytes) ++ leBytes 4 s.fuseVer ++
      [BitVec.ofNat 8 s.poolsz] ++ (s.tenants.filter fun e => e.2.locked).flatMap fun e => leBytes 2 e.1 := by
  rw [State.quote, List.take_left' h]

/-- Firmware that has not passed its check answers neither THAW nor ATTEST (R17). -/
theorem execThaw_of_boot_one (h : s.boot = 1) : execThaw s = .next s := by simp [execThaw, h]
theorem execAttest_of_boot_one (h : s.boot = 1) : execAttest s = .next s := by simp [execAttest, h]

theorem execAttest_of_boot_ne_one (h : s.boot ≠ 1) :
    execAttest s = .next (s.emit (.answer (0 :: s.quote s.ev.bs ++ Config.quoteSignature (s.quote s.ev.bs)))) := by
  simp [execAttest, h]

end

/-- Settles O52: each step of the always-on domain by what its function does in the case that the clause names; the thermal
warnings by the bits of PWRSTAT, and a restore by what it keeps of the reset state. -/
theorem powerSteps : Obligations.PowerSteps := by
  unfold Obligations.PowerSteps
  intro s
  have hd : s.ev.who % 4 < 4 := Nat.mod_lt _ (by decide)
  refine ⟨execPackageReset_boots, ?restore, execPackageReset_of_unchecked, execPackageReset_of_bad, ?burn, ?burnt, ?warn, ?clear,
    execThrottleStart_eq s, execThrottleEnd_eq s, execTrip_thermal, execTrip_current, rfl, rfl, execFreezePinDeassert_of_pin, execThermalThaw_of_cool,
    execCurrentThaw_of_current, ?aigon, fun h => ⟨execThaw_of_boot_one h, execAttest_of_boot_one h⟩, ?restart,
    fun k n => execReadoutRequest_register, ?attest⟩
  case restore => exact fun gen img hf hb hr => ⟨_, execPackageReset_restores hf hb hr, restoreImage_booted ..⟩
  case burn => exact fun h => congrArg _ (if_neg (by simp [h]))
  case burnt => exact fun h => congrArg _ (if_pos h)
  case warn =>
    obtain ⟨hset, hwarn, hother⟩ := getLsbD_fixWarn_setPwr s.pwr hd true
    exact ⟨_, rfl, hset, hwarn.2 (.inl rfl), rfl, fun i _ => hother i⟩
  case clear =>
    obtain ⟨hclear, hwarn, hother⟩ := getLsbD_fixWarn_setPwr s.pwr hd false
    exact ⟨_, rfl, hclear, by simpa using hwarn, fun i _ => hother i⟩
  case aigon =>
    intro ha hp ht hc
    have ho := Freeze.othersOk_of hp ht hc
    exact ⟨execAigonThawRequest_of_ok ha ho, fun hb => execThaw_of_ok hb ha ho⟩
  case restart =>
    intro hany hp ht hc ha he
    exact ⟨_, execThawRestart_of_ok hany (Freeze.othersOk_of hp ht hc) ha he, rfl, rfl⟩
  case attest =>
    intro q hb hl
    have hq : s.quote s.ev.bs = q := State.quote_of_length hl
    exact hq ▸ execAttest_of_boot_ne_one hb

end Sys2Proof.Machine
end

section
/-! Fetch, issue turns and the turns of a frozen part (R14, R68, R136, R145, R306, R316). -/

namespace Sys2Proof.Laws

/-- The per-instruction round trips as one statement; a step that is no instruction word has no bytes. -/
theorem roundTrip_statement (i : Instr) : roundTrip.Statement i := by
  cases i with
  | add => apply roundTrip.add | sub => apply roundTrip.sub | and => apply roundTrip.and | or => apply roundTrip.or
  | xor => apply roundTrip.xor | shl => apply roundTrip.shl | shr => apply roundTrip.shr | sra => apply roundTrip.sra
  | min => apply roundTrip.min | max => apply roundTrip.max | minn => apply roundTrip.minn | maxn => apply roundTrip.maxn
  | clz => apply roundTrip.clz | ctz => apply roundTrip.ctz | popc => apply roundTrip.popc | brev => apply roundTrip.brev
  | exts => apply roundTrip.exts | extz => apply roundTrip.extz | insf => apply roundTrip.insf | addi => apply roundTrip.addi
  | andi => apply roundTrip.andi | ori => apply roundTrip.ori | xori => apply roundTrip.xori | shli => apply roundTrip.shli
  | shri => apply roundTrip.shri | srai => apply roundTrip.srai | cmpi => apply roundTrip.cmpi | lih => apply roundTrip.lih
  | addpc => apply roundTrip.addpc | cmp => apply roundTrip.cmp | pand => apply roundTrip.pand | por => apply roundTrip.por
  | pxor => apply roundTrip.pxor | pnot => apply roundTrip.pnot | sel => apply roundTrip.sel | fadd => apply roundTrip.fadd
  | fsub => apply roundTrip.fsub | fmul => apply roundTrip.fmul | fma => apply roundTrip.fma | fdiv => apply roundTrip.fdiv
  | fsqrt => apply roundTrip.fsqrt | fmin => apply roundTrip.fmin | fmax => apply roundTrip.fmax | fsgn => apply roundTrip.fsgn
  | fneg => apply roundTrip.fneg | fabs => apply roundTrip.fabs | fclass => apply roundTrip.fclass
  | fcmp => apply roundTrip.fcmp | fcvt => apply roundTrip.fcvt | mul => apply roundTrip.mul | mulh => apply roundTrip.mulh
  | mulhn => apply roundTrip.mulhn | div => apply roundTrip.div | divn => apply roundTrip.divn | rem => apply roundTrip.rem
  | remn => apply roundTrip.remn | br => apply roundTrip.br | brn => apply roundTrip.brn | jal => apply roundTrip.jal
  | jalr => apply roundTrip.jalr | ldb => apply roundTrip.ldb | ldh => apply roundTrip.ldh | ldw => apply roundTrip.ldw
  | ldd => apply roundTrip.ldd | ldbn => apply roundTrip.ldbn | ldhn => apply roundTrip.ldhn | ldwn => apply roundTrip.ldwn
  | stb => apply roundTrip.stb | sth => apply roundTrip.sth | stw => apply roundTrip.stw | std => apply roundTrip.std
  | ldf => apply roundTrip.ldf | stf => apply roundTrip.stf | ldfp => apply roundTrip.ldfp | feget => apply roundTrip.feget
  | feset => apply roundTrip.feset | pref => apply roundTrip.pref | cflush => apply roundTrip.cflush
  | cinv => apply roundTrip.cinv | fenceRel => apply roundTrip.fenceRel | fenceAcq => apply roundTrip.fenceAcq
  | fenceFull => apply roundTrip.fenceFull | amoAdd => apply roundTrip.amoAdd | amoAnd => apply roundTrip.amoAnd
  | amoOr => apply roundTrip.amoOr | amoXor => apply roundTrip.amoXor | amoMin => apply roundTrip.amoMin
  | amoMax => apply roundTrip.amoMax | amoMinn => apply roundTrip.amoMinn | amoMaxn => apply roundTrip.amoMaxn
  | amoSwp => apply roundTrip.amoSwp | amoCas => apply roundTrip.amoCas | amoFadd => apply roundTrip.amoFadd
  | amoRedOrd => apply roundTrip.amoRedOrd | spawn => apply roundTrip.spawn | join => apply roundTrip.join
  | migr => apply roundTrip.migr | migv => apply roundTrip.migv | yield => apply roundTrip.yield | park => apply roundTrip.park
  | parkE => apply roundTrip.parkE | rfill => apply roundTrip.rfill | self => apply roundTrip.self
  | msend => apply roundTrip.msend | mrecv => apply roundTrip.mrecv | mpeek => apply roundTrip.mpeek
  | tpost => apply roundTrip.tpost | tdone => apply roundTrip.tdone | qpush => apply roundTrip.qpush
  | qpop => apply roundTrip.qpop | tcard => apply roundTrip.tcard | qpopW => apply roundTrip.qpopW
  | sfork => apply roundTrip.sfork | sstep => apply roundTrip.sstep | sact => apply roundTrip.sact
  | sret => apply roundTrip.sret | sjoin => apply roundTrip.sjoin | sretire => apply roundTrip.sretire
  | sevict => apply roundTrip.sevict | smig => apply roundTrip.smig | sstat => apply roundTrip.sstat
  | sjoinOpen => apply roundTrip.sjoinOpen | sstop => apply roundTrip.sstop | clook => apply roundTrip.clook
  | cput => apply roundTrip.cput | cinvk => apply roundTrip.cinvk | cflusht => apply roundTrip.cflusht
  | gset => apply roundTrip.gset | gmask => apply roundTrip.gmask | gmaskS => apply roundTrip.gmaskS
  | gadv => apply roundTrip.gadv | gadvS => apply roundTrip.gadvS | gchk => apply roundTrip.gchk
  | gsave => apply roundTrip.gsave | gload => apply roundTrip.gload | trap => apply roundTrip.trap
  | trapack => apply roundTrip.trapack | rett => apply roundTrip.rett | sysc => apply roundTrip.sysc
  | sleep => apply roundTrip.sleep | csrr => apply roundTrip.csrr | csrw => apply roundTrip.csrw | csrs => apply roundTrip.csrs
  | csrc => apply roundTrip.csrc | csrfi => apply roundTrip.csrfi | vadd => apply roundTrip.vadd | vsub => apply roundTrip.vsub
  | vmul => apply roundTrip.vmul | vmulh => apply roundTrip.vmulh | vmulhn => apply roundTrip.vmulhn
  | vand => apply roundTrip.vand | vor => apply roundTrip.vor | vxor => apply roundTrip.vxor | vshl => apply roundTrip.vshl
  | vshr => apply roundTrip.vshr | vsra => apply roundTrip.vsra | vmin => apply roundTrip.vmin | vmax => apply roundTrip.vmax
  | vminn => apply roundTrip.vminn | vmaxn => apply roundTrip.vmaxn | vadds => apply roundTrip.vadds
  | vaddsn => apply roundTrip.vaddsn | vsubs => apply roundTrip.vsubs | vsubsn => apply roundTrip.vsubsn
  | vmov => apply roundTrip.vmov | vfadd => apply roundTrip.vfadd | vfsub => apply roundTrip.vfsub
  | vfmul => apply roundTrip.vfmul | vfma => apply roundTrip.vfma | vfdiv => apply roundTrip.vfdiv
  | vfsqrt => apply roundTrip.vfsqrt | vfmin => apply roundTrip.vfmin | vfmax => apply roundTrip.vfmax
  | vexp2 => apply roundTrip.vexp2 | vlog2 => apply roundTrip.vlog2 | vrcp => apply roundTrip.vrcp
  | vrsq => apply roundTrip.vrsq | vld => apply roundTrip.vld | vlds => apply roundTrip.vlds | vldx => apply roundTrip.vldx
  | vst => apply roundTrip.vst | vsts => apply roundTrip.vsts | vstx => apply roundTrip.vstx | vldm => apply roundTrip.vldm
  | vstm => apply roundTrip.vstm | vrsum => apply roundTrip.vrsum | vrmin => apply roundTrip.vrmin
  | vrmax => apply roundTrip.vrmax | vrminn => apply roundTrip.vrminn | vrmaxn => apply roundTrip.vrmaxn
  | vrand => apply roundTrip.vrand | vror => apply roundTrip.vror | vrxor => apply roundTrip.vrxor
  | vscan => apply roundTrip.vscan | vscanmax => apply roundTrip.vscanmax | vtopk => apply roundTrip.vtopk
  | vperm => apply roundTrip.vperm | vbcastg => apply roundTrip.vbcastg | vmovg => apply roundTrip.vmovg
  | viota => apply roundTrip.viota | vbcast => apply roundTrip.vbcast | vcompress => apply roundTrip.vcompress
  | vcmp => apply roundTrip.vcmp | vfcmp => apply roundTrip.vfcmp | vmand => apply roundTrip.vmand
  | vmor => apply roundTrip.vmor | vmxor => apply roundTrip.vmxor | vmnot => apply roundTrip.vmnot
  | vmpopc => apply roundTrip.vmpopc | vmfirst => apply roundTrip.vmfirst | vcvt => apply roundTrip.vcvt
  | vpen => apply roundTrip.vpen | vbias => apply roundTrip.vbias | vban => apply roundTrip.vban
  | vsamp => apply roundTrip.vsamp | vrng => apply roundTrip.vrng | vacc => apply roundTrip.vacc
  | vresid => apply roundTrip.vresid | vtree => apply roundTrip.vtree | vmatch => apply roundTrip.vmatch
  | vsoftT => apply roundTrip.vsoftT | vsoftW => apply roundTrip.vsoftW | tcmd => apply roundTrip.tcmd
  | illegalWord w => apply roundTrip.illegalWord
  | _ => exact Nat.le_of_ble_eq_true rfl

end Sys2Proof.Laws

namespace Sys2Proof.Machine

/-! ### The bytes of an instruction (R306, R316) -/

/-- The first word of the bytes is of the tile-frame major. -/
def frameMajor (bs : List Byte) : Bool := (BitVec.ofNat 32 (leNat (bs.take 4)) : Word).extractLsb' 26 6 == 0x3C

/-- Bytes that are one instruction and no more are nine words for a tile frame, and one word for any other. -/
theorem length_of_decodeBytes {bs : List Byte} {i : Instr} (h : decodeBytes bs = .ok (i, [])) :
    bs.length = if frameMajor bs then 36 else 4 := by
  have hrest {j : Instr} {n : Nat} (hj : Except.ok (j, bs.drop n) = (.ok (i, []) : Except DecodeError (Instr × List Byte))) :
      bs.length ≤ n := List.drop_eq_nil_iff.1 (Prod.mk.inj (Except.ok.inj hj)).2
  simp only [decodeBytes] at h
  split at h
  · exact absurd h (by simp)
  next hlong =>
  split at h
  next hm =>
    rw [frameMajor, hm, if_pos rfl]
    split at h
    · exact absurd h (by simp)
    split at h
    · have := hrest h; omega
    · exact absurd h (by simp)
  next hm =>
    rw [frameMajor, if_neg hm]
    split at h
    · have := hrest h; omega
    · exact absurd h (by simp)

/-! ### Addresses of the own local store (R67) -/

theorem regionOf_eq_own_iff {va : Dword} {off : Nat} :
    regionOf va = .own off ↔ va.toNat = 0xFFFFFFFFC00000 + off ∧ off < 2 ^ 22 := by
  have hb : bits va 21 0 = va.toNat % 2 ^ 22 := by simp [bits]
  unfold regionOf
  simp only [hb]
  split_ifs <;> simp only [false_iff, Region.own.injEq] <;> omega

/-- The words that follow an address of the own local store lie behind it there. -/
theorem regionOf_add_own {va : Dword} {off n : Nat} (h : regionOf va = .own off) (hn : off + n < 2 ^ 22) :
    regionOf (va + dw n) = .own (off + n) := by
  obtain ⟨hv, -⟩ := regionOf_eq_own_iff.1 h
  refine regionOf_eq_own_iff.2 ⟨?_, hn⟩
  simp only [dw, BitVec.toNat_add, BitVec.toNat_ofNat]
  omega

theorem lsPlace_own {va : Dword} {off : Nat} (h : regionOf va = .own off) (cl : Nat) : lsPlace cl va = some (cl, off) := by
  simp only [lsPlace, h]

theorem readBytes_take (m : Memory) (a : Nat) {n k : Nat} (h : k ≤ n) : (m.readBytes a n).take k = m.readBytes a k := by
  induction k generalizing a n with
  | zero => rfl
  | succ k ih =>
    obtain ⟨n, rfl⟩ : ∃ m, n = m + 1 := ⟨n - 1, by omega⟩
    simp only [Memory.readBytes, List.take_succ_cons, ih (a + 1) (Nat.le_of_succ_le_succ h)]

/-! ### What charging, counting and a slot's turn leave unchanged -/

@[simp] theorem State.slots_chargeWork (s : State) (w : Dword) (t : Half) (d i n : Nat) : (s.chargeWork w t d i n).slots = s.slots := by
  unfold State.chargeWork
  split
  · split <;> rfl
  · rfl
@[simp] theorem State.ls_chargeWork (s : State) (w : Dword) (t : Half) (d i n : Nat) : (s.chargeWork w t d i n).ls = s.ls := by
  unfold State.chargeWork
  split
  · split <;> rfl
  · rfl
@[simp] theorem State.slots_charge (s : State) (k d i n : Nat) : (s.charge k d i n).slots = s.slots := by
  simp only [State.charge]; split <;> simp
@[simp] theorem State.ls_charge (s : State) (k d i n : Nat) : (s.charge k d i n).ls = s.ls := by
  simp only [State.charge]; split <;> simp
@[simp] theorem State.slots_countFree (s : State) (c : Nat) (e : Byte) (n : Nat) : (s.countFree c e n).slots = s.slots := by
  unfold State.countFree; split <;> simp [State.free]
@[simp] theorem State.ls_countFree (s : State) (c : Nat) (e : Byte) (n : Nat) : (s.countFree c e n).ls = s.ls := by
  unfold State.countFree; split <;> simp [State.free]
@[simp] theorem State.slots_turnOf (s : State) (k : Nat) : (s.turnOf k).slots = s.slots := by simp [State.turnOf]
@[simp] theorem State.ls_turnOf (s : State) (k : Nat) : (s.turnOf k).ls = s.ls := by simp [State.turnOf]

theorem slot_of_slots {s t : State} (h : t.slots = s.slots) (k : Nat) : t.slot k = s.slot k := by rw [State.slot, State.slot, h]
theorem readLs_of_ls {s t : State} (h : t.ls = s.ls) (cl off n : Nat) : t.readLs cl off n = s.readLs cl off n := by
  rw [State.readLs, State.readLs, h]

/-! ### A fetch from the own local store (R68, R84, R306, R316) -/

theorem firstTrap_eq_none {l : List (Option Trap)} (h : ∀ t ∈ l, t = none) : firstTrap l = none := by
  induction l with
  | nil => rfl
  | cons t l ih =>
    rw [h t (List.mem_cons_self ..)]
    exact ih fun u hu => h u (List.mem_cons_of_mem _ hu)

section
variable {s : State} {k off : Nat} {pc : Dword}

/-- Below the plinth, a strand that is not pure has no trap of a fetch. -/
theorem fetchTrap_own (hr : regionOf pc = .own off) (ho : off < 0x3C0000) (hp : (s.slot k).pt = false) : s.fetchTrap k pc = none := by
  have hplinth : ¬ 0x3C0000 ≤ off := by omega
  simp [State.fetchTrap, State.regionTrap, State.plinthTrap, lsPlace_own hr, hr, hplinth, Slot.pureBound, hp, firstTrap]

theorem fetchTraps_own {words : Nat} (hr : regionOf pc = .own off) (ho : off + 4 * words ≤ 0x3C0000) (hp : (s.slot k).pt = false) :
    s.fetchTraps k pc words = none := by
  refine firstTrap_eq_none fun t ht => ?_
  obtain ⟨i, hi, rfl⟩ := List.mem_map.1 ht
  have hi := List.mem_range.1 hi
  exact fetchTrap_own (regionOf_add_own hr (by omega)) (by omega) hp

theorem dieOf_cluster (k : Nat) : clusterOf k / 40 = dieOf k := Nat.div_div_eq_div_mul ..

/-- A fetch from the own local store counts one access that may have waited for a bank. -/
theorem noteAccess_own (s : State) (k o n : Nat) (r : Requester) :
    s.noteAccess (s.whoSlot k r) 3 n (.ls (clusterOf k) o) = s.countFree (coreOf k) 0x06 2 := by
  simp [State.noteAccess, State.whoSlot, dieOf_cluster]

theorem fetchBytes_own (hr : regionOf pc = .own off) (n : Nat) :
    fetchBytes k pc n s = .ok (s.readLs (clusterOf k) off n, s.countFree (coreOf k) 0x06 2) := by
  unfold fetchBytes
  refine (bind_ok (a := s) (t := s) rfl).trans ?_
  rw [show (s.whoSlot k (.fetch k)).cluster = clusterOf k from rfl, lsPlace_own hr]
  simp only [show (s.whoSlot k (.fetch k)).die = dieOf k from rfl, dieOf_cluster]
  rw [if_neg (by simp), ← noteAccess_own s k off n (.fetch k)]
  rfl

/-- The state after a fetch of bytes from the own local store: each read counts, a tile frame's twice, and no fetch is
outstanding. -/
def State.afterFetch (s : State) (k : Nat) (bs : List Byte) : State :=
  let u := s.countFree (coreOf k) 0x06 2
  ((if bs.length = 36 then u.countFree (coreOf k) 0x06 2 else u).dropFault (.fetch k)).dropRequests (.fetch k)

/-- Where the bytes at the PC are those of one instruction, the fetch gives it. -/
theorem fetchM_own {bs : List Byte} {i : Instr} (hr : regionOf (s.slot k).pc = .own off) (ho : off + 36 ≤ 0x3C0000)
    (hp : (s.slot k).pt = false) (hd : decodeBytes bs = .ok (i, [])) (hb : s.readLs (clusterOf k) off bs.length = bs) :
    fetchM k s = .ok (i, s.afterFetch k bs) := by
  have hlen := length_of_decodeBytes hd
  have hword : s.readLs (clusterOf k) off 4 = bs.take 4 := by
    rw [← hb, State.readLs, State.readLs, readBytes_take _ _ (by split at hlen <;> omega)]
  have hmajor : (BitVec.ofNat 32 (leNat (bs.take 4)) : Word).extractLsb' 26 6 = 0x3C ↔ bs.length = 36 := by
    rw [hlen, ← beq_iff_eq]
    change frameMajor bs = true ↔ _
    split <;> simp [*]
  unfold fetchM
  refine (bind_ok (a := s) (t := s) rfl).trans ?_
  simp only [fetchTraps_own (words := 1) hr (by omega) hp]
  refine (bind_ok (fetchBytes_own hr 4)).trans ?_
  simp only [hword, beq_iff_eq, hmajor]
  split
  next hl =>
    have hframe : (s.countFree (coreOf k) 0x06 2).readLs (clusterOf k) off 36 = bs := by
      rw [readLs_of_ls (State.ls_countFree ..), ← hl, hb]
    simp only [fetchTraps_own (words := 9) hr (by omega) hp]
    refine (bind_ok (fetchBytes_own hr 36)).trans ?_
    refine (bind_ok (a := ()) rfl).trans ?_
    simp only [hframe, hd, State.afterFetch, if_pos hl]
    rfl
  next hl =>
    have hone : bs.take 4 = bs := List.take_of_length_le (by split at hlen <;> omega)
    refine (bind_ok (a := bs) (by rw [hone]; rfl)).trans ?_
    refine (bind_ok (a := ()) rfl).trans ?_
    simp only [hd, State.afterFetch, if_neg hl]
    rfl

theorem fetch_own {bs : List Byte} {i : Instr} (hr : regionOf (s.slot k).pc = .own off) (ho : off + 36 ≤ 0x3C0000)
    (hp : (s.slot k).pt = false) (hd : decodeBytes bs = .ok (i, [])) (hb : s.readLs (clusterOf k) off bs.length = bs) :
    s.fetch k = (s.afterFetch k bs, some i) := by
  simp only [State.fetch, fetchM_own hr ho hp hd hb]
end

/-! ### An issue turn (R136, R145) -/

theorem coreOf_of_mem_turnSlots {s : State} {c k : Nat} (h : k ∈ s.turnSlots c) : coreOf k = c := by
  unfold State.turnSlots at h
  split at h
  · exact absurd h (List.not_mem_nil)
  · obtain ⟨i, -, rfl⟩ := List.mem_map.1 (List.mem_of_mem_filter h)
    unfold coreOf
    omega

/-- At its turn a slot runs the instruction whose bytes stand at its PC in the own local store. -/
theorem tryIssue_own {s : State} {k off : Nat} {bs : List Byte} {i : Instr} (hr : regionOf (s.slot k).pc = .own off)
    (ho : off + 36 ≤ 0x3C0000) (hp : (s.slot k).pt = false) (he : encodeBytes i = some bs) (hw : i.wf = true)
    (hb : s.readLs (clusterOf k) off bs.length = bs) : s.tryIssue k = exec i ((s.turnOf k).afterFetch k bs) := by
  have hslot : (s.turnOf k).slot k = s.slot k := slot_of_slots (State.slots_turnOf s k) k
  have hd : decodeBytes bs = .ok (i, []) := by
    have h := Laws.roundTrip_statement i
    simp only [Laws.roundTrip.Statement, he] at h
    simpa using h hw []
  rw [← hslot] at hr hp
  rw [← readLs_of_ls (State.ls_turnOf s k)] at hb
  simp only [State.tryIssue, fetch_own hr ho hp hd hb]

section
variable {s v : State} {k : Nat} {ks : List Nat} (h : s.tryIssue k = .next v)
include h

/-- A slot of which something has changed has issued, and the turn is over. -/
theorem issueTurn_of_issued (hv : ({ v.slot k with waitOn := [] } : Slot) ≠ { s.slot k with waitOn := [] }) :
    State.issueTurn (k :: ks) s = .next v := by
  simp only [State.issueTurn, h, State.issuedAt, decide_eq_true hv, if_true]

/-- A slot of which nothing has changed gives the turn to the next. -/
theorem issueTurn_of_not_ready (hv : ({ v.slot k with waitOn := [] } : Slot) = { s.slot k with waitOn := [] }) :
    State.issueTurn (k :: ks) s = State.issueTurn ks (s.passTurn v k) := by
  simp [State.issueTurn, h, State.issuedAt, hv]

end

/-! ### The turns of the agenda -/

theorem step_of_agenda {s : State} {t : Turn} {rest : List Turn} (h : s.agenda = t :: rest) :
    step s = ({ s with agenda := rest } : State).take t := by
  simp only [step, h]

theorem take_core {s : State} (h : s.frozen = false) (c : Nat) : s.take (.core c) = State.issueTurn (s.turnSlots c) s := by
  simp [State.take, h, State.coreTurn]

theorem isWord_eq_false_of_isArrival {i : Instr} (h : isArrival i = true) : isWord i = false := by
  unfold isArrival at h
  split at h
  case h_12 => exact absurd h (by decide)
  all_goals rfl

section
variable {s : State} (h : s.frozen = true)
include h

/-- A frozen part takes no core turn, frees no frame, and lets no cycle pass (R14). -/
theorem take_core_frozen (c : Nat) : s.take (.core c) = .next s := by simp [State.take, h]
theorem take_home_frozen (f : Nat) : s.take (.home f) = .next s := by simp [State.take, h]
theorem take_elapse_frozen (n : Nat) : s.take (.elapse n) = .next s := by simp [State.take, State.elapse, h]

theorem take_step_frozen {i : Instr} {a : StepArgs} (hi : alwaysOn i = false) (ha : isArrival i = false) :
    s.take (.step i a) = .next s := by
  cases hw : isWord i <;> simp [State.take, State.holdArrival, h, hi, ha, hw]

/-- A packet that arrives stays in its port's buffer until the thaw. -/
theorem take_arrival_frozen {i : Instr} {a : StepArgs} (hi : alwaysOn i = false) (ha : isArrival i = true) (hb : s.boot = 0)
    (hk : a.k = 0) (hr : s.rxRoom a = true) : s.take (.step i a) = .next { s with linkHeld := s.linkHeld ++ [.step i a] } := by
  simp [State.take, State.holdArrival, isWord_eq_false_of_isArrival ha, h, hi, ha, hb, hk, hr]

end

/-- Settles O6: a core's turn by its first slot's turn, whose fetch gives the instruction that the bytes encode; the turns of a
frozen part one by one. -/
theorem stepRunsDecoded : Obligations.StepRunsDecoded := by
  unfold Obligations.StepRunsDecoded
  refine ⟨?runs, ?frozen⟩
  case runs =>
    intro s rest c k off ks i bs hagenda hfrozen hslots hr ho hp he hw hb t u u₁ u₂ v hv
    obtain rfl : coreOf k = c := coreOf_of_mem_turnSlots (hslots ▸ List.mem_cons_self ..)
    have htry : t.tryIssue k = .next v := (tryIssue_own (s := t) hr ho hp he hw hb).trans hv
    have hstep : step s = State.issueTurn (k :: ks) t :=
      (step_of_agenda hagenda).trans ((take_core (s := t) hfrozen _).trans (congrArg (State.issueTurn · t) hslots))
    exact ⟨fun h => hstep.trans (issueTurn_of_issued htry h), fun h => hstep.trans (issueTurn_of_not_ready htry h)⟩
  case frozen =>
    intro s t rest hagenda hfrozen
    let u : State := { s with agenda := rest }
    have hu : u.frozen = true := hfrozen
    have hstep : step s = u.take t := step_of_agenda hagenda
    refine ⟨?_, ?_, ?_, ?_⟩
    · rintro c rfl
      exact hstep.trans (take_core_frozen hu c)
    · rintro f rfl
      exact hstep.trans (take_home_frozen hu f)
    · rintro n rfl
      exact hstep.trans (take_elapse_frozen hu n)
    · rintro i a rfl hi
      exact ⟨fun ha => hstep.trans (take_step_frozen hu hi ha),
        fun ha hb hk hr => hstep.trans (take_arrival_frozen hu hi ha hb hk hr)⟩

end Sys2Proof.Machine
end

section
/-! Requests of another package over Brynry: what a step that deals with one leaves (R26–R32, R35, R105, R177–R180, R363, R367). -/

namespace Sys2Proof.Machine

/-! ### Runs -/

/-- A run of two parts that ends has ended in both. -/
theorem of_bind_ok {α β : Type} {m : M α} {f : α → M β} {s : State} {r : β × State} (h : (m >>= f) s = .ok r) :
    ∃ a t, m s = .ok (a, t) ∧ f a t = .ok r := by
  cases hm : m s with
  | error x => simp [bind, StateT.bind, Except.bind, hm] at h
  | ok y => exact ⟨y.1, y.2, rfl, (bind_ok hm).symm.trans h⟩

/-! ### The request that a step deals with (R25–R27, R32) -/

@[simp] theorem State.endIn_ev (s : State) (n : Nat) : (s.endIn n).ev = s.ev := rfl
@[simp] theorem State.endIn_pkgid (s : State) (n : Nat) : (s.endIn n).pkgid = s.pkgid := rfl
@[simp] theorem State.countPerformed_ev (s : State) (die : Nat) (p : Packet) : (s.countPerformed die p).ev = s.ev := rfl
@[simp] theorem State.countPerformed_pkgid (s : State) (die : Nat) (p : Packet) : (s.countPerformed die p).pkgid = s.pkgid := rfl

/-- A WRITE that now counts as performed changes neither the operands of the step nor the package's id. -/
theorem settleInbox_kept (s : State) : s.settleInbox.ev = s.ev ∧ s.settleInbox.pkgid = s.pkgid := by
  unfold State.settleInbox
  refine List.foldlRecOn (motive := fun (t : State) => t.ev = s.ev ∧ t.pkgid = s.pkgid) _ _ ⟨rfl, rfl⟩ fun t ht e _ => ?_
  simpa using ht

@[simp] theorem State.settleInbox_ev (s : State) : s.settleInbox.ev = s.ev := (settleInbox_kept s).1
@[simp] theorem State.settleInbox_pkgid (s : State) : s.settleInbox.pkgid = s.pkgid := (settleInbox_kept s).2

section
variable {s t u v : State} {e : Inbound}

/-- A step that deals with a request leaves what the request's own run leaves. -/
theorem packetIn_of_serves {kind : Nat} {f : Inbound → M Unit} (h : s.Serves kind e u) (hf : f e u = .ok ((), t)) :
    s.packetIn kind f = t := by
  obtain ⟨hcame, hbad, hdenied, hblocked⟩ := h
  have hserve : u.serveIn e f = t := by
    simp only [State.serveIn, hbad, hdenied, hblocked, Bool.false_eq_true, if_false]
    exact runM_ok hf
  obtain ⟨hk, hfind, rfl⟩ | ⟨hk, hroom, hdst, hcls, htype, rfl, rfl⟩ := hcame
  · simp only [State.packetIn, State.settleInbox_ev, if_pos hk, hfind, hserve]
  · have hkind : ¬(Packet.cls s.ev.pkt = 1 ∨
        (Packet.type s.ev.pkt ≠ kind ∧ 1 ≤ Packet.type s.ev.pkt ∧ Packet.type s.ev.pkt ≤ 9)) := by simp [hcls, htype]
    simp only [State.packetIn, State.settleInbox_ev, State.settleInbox_pkgid, hk, hroom, hdst, hkind, ne_eq, not_true_eq_false,
      Bool.not_true, Bool.false_eq_true, if_false]
    exact hserve

/-! ### READ, WRITE and AMO (R30, R35, R105) -/

theorem execReadRequest_of_serves {bs : List Byte} (h : s.Serves 1 e u)
    (hr : readHomes e.whoIs 0 (Packet.fld e.pkt 0x18 4 / 4096 + 2) (Packet.va e.pkt) (Packet.fld e.pkt 0x18 4) u = .ok (bs, v)) :
    execReadRequest s = .next (v.answerIn e 0 [] bs) :=
  congrArg _ (packetIn_of_serves h (bind_ok hr))

theorem execWriteRequest_of_serves {ws : List Nat} (h : s.Serves 2 e u) (hs : e.stage = 0)
    (hw : writeMem e.whoIs (Packet.va e.pkt) (Packet.payload e.pkt) 1 u = .ok (ws, v)) :
    execWriteRequest s = .next (State.settleInbox (((v.dropFault (.device e.n)).dropRequests (.device e.n)).modIn e.n fun x =>
      { x with stage := 1, writes := ws })) := by
  refine congrArg (fun t => .next (State.settleInbox t) : State → Res) (packetIn_of_serves h ?_)
  simp only [hs, ne_eq, not_true_eq_false, if_false]
  exact bind_ok hw

/-- An atomic may be performed at its home only in the state in which its turn is asked for. -/
theorem homeTurn_ok {die pa n : Nat} {x : Unit} (h : homeTurn die pa n s = .ok (x, t)) : t = s := by
  simp only [homeTurn] at h
  obtain ⟨_, _, hget, h⟩ := of_bind_ok h
  cases hget
  split_ifs at h
  all_goals cases h
  rfl

/-- An atomic at its home gives the value that stood there. -/
theorem homeAtomic_old {w : Who} {pa size op x cmp n : Nat} (h : homeAtomic w pa size op x cmp s = .ok (n, t)) :
    n = leNat (s.readHome pa size) := by
  obtain ⟨_, _, hturn, h⟩ := of_bind_ok h
  cases homeTurn_ok hturn
  cases h
  rfl

theorem execAmoRequest_of_serves {pa n : Nat} {z : State} (h : s.Serves 3 e u) (hs : e.stage = 0) (hop : Packet.fld e.pkt 0x18 1 ≠ 11)
    (hp : placeWrite e.whoIs (Packet.va e.pkt) (if Packet.fld e.pkt 0x19 1 = 0 then 4 else 8) 2 u = .ok (.mem pa, v))
    (hgood : v.poisoned pa = false)
    (ha : homeAtomic e.whoIs pa (if Packet.fld e.pkt 0x19 1 = 0 then 4 else 8) (Packet.fld e.pkt 0x18 1) (Packet.fld e.pkt 0x20 8)
      (Packet.fld e.pkt 0x28 8) v = .ok (n, z)) :
    execAmoRequest s = .next (z.answerIn e 0 [(0x20, 8, leNat (v.readHome pa (if Packet.fld e.pkt 0x19 1 = 0 then 4 else 8)))] []) := by
  rw [← homeAtomic_old ha]
  refine congrArg _ (packetIn_of_serves h ?_)
  simp only [hs, OfNat.zero_ne_ofNat, zero_ne_one, if_false]
  refine (bind_ok hp).trans ?_
  refine (bind_ok (a := v) (t := v) rfl).trans ?_
  simp only [hgood, hop, Bool.false_eq_true, if_false]
  exact bind_ok ha

/-! ### MSG and STRAND (R363, R367) -/

theorem execMsgRequest_of_serves {c : Nat} (h : s.Serves 4 e u) (hc : u.forwarded (Packet.core e.pkt) = some c)
    (hm : u.arriveMbox c (Packet.fld e.pkt 0x13 1) (Packet.payload e.pkt) = some v) :
    execMsgRequest s = .next (v.answerIn e 0 [] []) := by
  refine congrArg _ (packetIn_of_serves h ((bind_ok (a := u) (t := u) rfl).trans ?_))
  simp only [hc, hm]
  rfl

theorem execStrandRequest_of_serves {c : Nat} (h : s.Serves 5 e u) (hc : u.forwarded (Packet.core e.pkt) = some c)
    (hreg : Packet.fld e.pkt 0x13 1 = 0)
    (hr : State.pushRun { u with nextN := u.nextN + 1 } c (recOfBytes (e.pkt.data.take 128) u.nextN (c / 4)) = some v) :
    execStrandRequest s = .next (v.answerIn e 0 [] []) := by
  refine congrArg _ (packetIn_of_serves h ((bind_ok (a := u) (t := u) rfl).trans ?_))
  simp only [hc, hreg, hr, zero_ne_one, if_false]
  rfl

/-! ### Stream transfers (R177, R178) -/

section
variable {t : Transfer} (ho : u.openArrival e.args.who e.pkt = some (v, t))
include ho

/-- A page without a hash is not held: its entry stands as dropped until its data come. -/
theorem execSnapreq_of_unhashed {z : State} (h : s.Serves 6 e u) (h1 : Packet.fld e.pkt 0x18 8 = 0) (h2 : Packet.fld e.pkt 0x20 8 = 0)
    (hm : v.mapArrival t (Packet.fld e.pkt 0x14 4) (newLeaf 3 0) = some z) :
    execSnapreq s = .next (z.answerIn e 0 [(0x11, 1, 0)] []) := by
  refine congrArg _ (packetIn_of_serves h ((bind_ok (a := u) (t := u) rfl).trans ?_))
  have hz : dw 0 = 0 := rfl
  simp only [h1, h2, ho, hz, and_self, if_true, hm]
  rfl

/-- A page whose hash a frame of the tenant has is mapped there, and the sender is told that it is held. -/
theorem execSnapreq_of_held {f : Nat} {z : State} (h : s.Serves 6 e u)
    (hh : dw (Packet.fld e.pkt 0x18 8) ≠ 0 ∨ dw (Packet.fld e.pkt 0x20 8) ≠ 0)
    (hf : v.frameWithHash t.tenant (dw (Packet.fld e.pkt 0x18 8)) (dw (Packet.fld e.pkt 0x20 8)) = some f)
    (hm : ((v.raiseFrame f).clearExclFrame f).mapArrival t (Packet.fld e.pkt 0x14 4) (newLeaf 0 f) = some z) :
    execSnapreq s = .next (z.answerIn e 0 [(0x11, 1, 1)] []) := by
  refine congrArg _ (packetIn_of_serves h ((bind_ok (a := u) (t := u) rfl).trans ?_))
  have hnone : ¬(dw (Packet.fld e.pkt 0x18 8) = 0 ∧ dw (Packet.fld e.pkt 0x20 8) = 0) := not_and_or.2 hh
  simp only [ho, hnone, if_false, hf, hm]
  rfl

/-- A part of a page of an open transfer is stored. -/
theorem execSnapdata_of_page {z : State} (h : s.Serves 7 e u) (hpage : Packet.fld e.pkt 0x14 4 ≠ 0xFFFFFFFF)
    (hopen : (u.arrival? e.pkt).isSome = true) (hfree : v.arrivalHeld t (Packet.fld e.pkt 0x14 4) = none)
    (hd : v.arrivalData t (Packet.fld e.pkt 0x14 4) (Packet.fld e.pkt 0x18 4) e.pkt.data = some (z, true)) :
    execSnapdata s = .next (z.answerIn e 0 [] []) := by
  obtain ⟨x, hx⟩ := Option.isSome_iff_exists.1 hopen
  refine congrArg _ (packetIn_of_serves h ((bind_ok (a := u) (t := u) rfl).trans ?_))
  simp only [hpage, if_false, hx, Option.bind_some, ho, hfree, hd]
  rfl

end

/-- The state in which an arrived stream stands under its new id: its control block names its own space and no place of its former
package, and its transfer is over. -/
def State.withArrived (z : State) (e : Inbound) (t : Transfer) (id : Nat) : State :=
  let r := wr (wr (wr (wr (wr (e.pkt.data.take 256) 0 4 id) 0x30 4 0xFFFFFFFF) 0x2C 4 0) 7 1 0) 8 8 t.root
  State.settle { z with scbs := z.scbs.put id (setState r 0), arrivals := z.arrivals.filter fun (x : Transfer) => x.n ≠ t.n } id

/-- The sender of a stream is told its new id, from `v` to `z`, unless it named no reply word. -/
def SenderTold (e : Inbound) (id : Nat) (v z : State) : Prop :=
  if dw (rd e.pkt.data 0x100 8) = noReply then z = v
  else regionOf (dw (rd e.pkt.data 0x100 8)) = .tenant ∧
    tellPeer e.whoIs (Packet.src e.pkt) (dw (rd e.pkt.data 0x100 8)) (leBytes 8 (2 ^ 63 + id)) v = .ok ((), z)

theorem endArrival_ok {t : Transfer} {id : Nat} {z : State} (hid : v.freeStream e.args.who = some id) (hr : SenderTold e id v z) :
    endArrival e t v = .ok ((), (z.withArrived e t id).answerIn e 0 [] []) := by
  refine (bind_ok (a := v) (t := v) rfl).trans ?_
  simp only [hid]
  unfold SenderTold at hr
  split at hr
  next hno =>
    subst hr
    simp only [hno, ne_eq, not_true_eq_false, false_and, if_false]
    rfl
  next hreply =>
    obtain ⟨hregion, htell⟩ := hr
    simp only [hreply, hregion, ne_eq, not_true_eq_false, and_false, not_false_eq_true, if_true, if_false]
    exact bind_ok htell

/-- The last part of a transfer makes the stream stand here. -/
theorem execSnapdata_of_last {t : Transfer} {id : Nat} {z : State} (h : s.Serves 7 e u)
    (ho : u.openArrival e.args.who e.pkt = some (v, t)) (hlast : Packet.fld e.pkt 0x14 4 = 0xFFFFFFFF)
    (hid : v.freeStream e.args.who = some id) (hr : SenderTold e id v z) :
    execSnapdata s = .next ((z.withArrived e t id).answerIn e 0 [] []) := by
  refine congrArg _ (packetIn_of_serves h ((bind_ok (a := u) (t := u) rfl).trans ?_))
  simp only [hlast, if_true, ho]
  exact (bind_ok (a := ()) (t := v) rfl).trans (endArrival_ok hid hr)

/-! ### CKPT and FENCE (R35, R180) -/

section
variable (h : s.Serves 8 e u) (hon : u.ckrecv.msb = true) (hlo : bits u.ckrecv 47 4 * 4096 ≤ Packet.fld e.pkt 0x28 8)
  (hhi : Packet.fld e.pkt 0x28 8 + 4096 ≤ bits u.ckrecv 47 4 * 4096 + bits u.ckrecv 62 48 * 2 ^ 30)
include h hon hlo hhi

/-- Bytes of a checkpoint that lie in the receiving region are written. -/
theorem execCkptPacketReceive_writes {ws : List Nat} (hs : e.stage = 0)
    (hw : writeMem { e.whoIs with tenant := 0 } (dw (Packet.fld e.pkt 0x28 8)) e.pkt.data 5 u = .ok (ws, v)) :
    execCkptPacketReceive s = .next (((v.dropFault (.device e.n)).dropRequests (.device e.n)).modIn e.n fun x =>
      { x with stage := 1 }) := by
  refine congrArg _ (packetIn_of_serves h ((bind_ok (a := u) (t := u) rfl).trans ?_))
  simp only [hon, Nat.not_lt.2 hlo, Nat.not_lt.2 hhi, hs, Bool.not_true, Bool.false_eq_true, or_self, if_false, if_true]
  exact bind_ok hw

/-- They are answered once their writes have been performed. -/
theorem execCkptPacketReceive_answers (hs : e.stage ≠ 0) (hw : u.allPerformed e.n = true) :
    execCkptPacketReceive s = .next (u.answerIn e 0 [] []) := by
  refine congrArg _ (packetIn_of_serves h ((bind_ok (a := u) (t := u) rfl).trans ?_))
  simp only [hon, Nat.not_lt.2 hlo, Nat.not_lt.2 hhi, hs, hw, Bool.not_true, Bool.false_eq_true, or_self, if_false, if_true]
  rfl

end

theorem execFencePacket_of_serves (h : s.Serves 9 e u)
    (hn : ((([0, 1, 2, 3] : List Nat).map fun d => (u.die d).performed.getD (Packet.src e.pkt * 4 + Packet.srcDie e.pkt) 0).sum + 2 ^ 48 -
      Packet.fld e.pkt 0x10 6) % 2 ^ 48 < 2 ^ 47) : execFencePacket s = .next (u.answerIn e 0 [] []) := by
  refine congrArg _ (packetIn_of_serves h ((bind_ok (a := u) (t := u) rfl).trans ?_))
  rw [if_pos hn]
  rfl

end

/-- Settles O48: each request by what its step answers in the case that the clause names. -/
theorem requestSteps : Obligations.RequestSteps := by
  unfold Obligations.RequestSteps
  intro s u e
  refine ⟨fun bs v => execReadRequest_of_serves, fun ws v => execWriteRequest_of_serves, fun pa n v z => execAmoRequest_of_serves,
    fun c v => execMsgRequest_of_serves, fun c v => execStrandRequest_of_serves, ?snapreq, ?snapdata, ?ckpt, execFencePacket_of_serves⟩
  case snapreq => exact fun t v h ho => ⟨fun z => execSnapreq_of_unhashed ho h, fun f z => execSnapreq_of_held ho h⟩
  case snapdata => exact fun t v h ho => ⟨fun z => execSnapdata_of_page ho h, fun id z => execSnapdata_of_last h ho⟩
  case ckpt =>
    exact fun h hon hlo hhi => ⟨fun ws v => execCkptPacketReceive_writes h hon hlo hhi, execCkptPacketReceive_answers h hon hlo hhi⟩

end Sys2Proof.Machine
end

section
/-! Brynry links: responses and the time-out, forwarding, ports and credits (R23, R25, R28, R31–R33). -/

namespace Sys2Proof.Machine

section
variable {s : State}

/-! ### Responses and the time-out (R31–R33) -/

/-- A response that breaks no limit and names a request of the package answers it, and a transfer that waited for it goes on. -/
theorem execResponseReceive_of_awaited {r : Request} (hroom : s.rxRoom s.ev = true) (hdst : Packet.dst s.ev.pkt = s.pkgid.toNat)
    (hcls : Packet.cls s.ev.pkt = 1) (hhead : headBad s.ev.pkt = false) (hrest : (responseRest s.ev.pkt).all (· == 0) = true)
    (hr : s.requests.find? (fun (r : Request) => decide (r.die = Packet.srcDie s.ev.pkt ∧ r.tag = Packet.tag s.ev.pkt ∧
      r.answer.isNone = true ∧ r.opc = Packet.type s.ev.pkt)) = some r)
    (htime : s.timedOut r = false) (hlen : Packet.len s.ev.pkt = responseLen r) :
    execResponseReceive s = .next (((s.giveBack (some (StepArgs.link s.ev)) (Packet.flits s.ev.pkt)).answerRequest
      (Packet.srcDie s.ev.pkt) r.tag (if 8 ≤ (s.ev.pkt.head.getD 0x10 0).toNat then 4 else s.ev.pkt.head.getD 0x10 0)
      (Packet.result s.ev.pkt)).moveOfTag (Packet.srcDie s.ev.pkt) r.tag) := by
  have hany : (responseRest s.ev.pkt).any (· != 0) = false := by
    rw [List.any_eq_not_all_not]
    simpa using hrest
  have hreq : (s.giveBack (some (StepArgs.link s.ev)) (Packet.flits s.ev.pkt)).requests = s.requests := rfl
  have htime' : (s.giveBack (some (StepArgs.link s.ev)) (Packet.flits s.ev.pkt)).timedOut r = false := htime
  simp only [execResponseReceive, hroom, hdst, hcls, hhead, hany, hreq, hr, htime', hlen, ne_eq, not_true_eq_false, Bool.not_true,
    Bool.or_self, Bool.false_eq_true, if_false, decide_false]

/-- A request without an answer 2^27 cycles after it left is answered UNREACH. -/
theorem execResponseTimeout_of_mem {r : Request} (hr : r ∈ s.requests) (hd : r.die = s.ev.who) (ht : r.tag = s.ev.n)
    (ha : r.answer = none) (hdst : r.dst < 65536) (htime : s.timedOut r = true) :
    execResponseTimeout s = .next ((s.answerRequest s.ev.who s.ev.n 5 []).moveOfTag s.ev.who s.ev.n) := by
  refine congrArg _ (if_pos (List.any_eq_true.2 ⟨r, hr, ?_⟩))
  simp [hd, ht, ha, hdst, htime]

/-! ### Forwarding (R23, R25) -/

/-- A packet that finds none waiting leaves by its port, when its channel holds credits. -/
theorem flushLinks_single {e : Egress} {d o : Nat} {q : Packet} (hf : s.frozen = false) (he : s.egress = [])
    (hh : s.hopOf e = some (d, o, q)) (hm : s.mayStart d o q = true) :
    State.flushLinks { s with egress := [e] } = s.depart_ { e with die := dieAfter e.die (dirDie d) } d o q := by
  have hs : { s with egress := [] } = s := by rw [← he]
  have hh' (l : List Egress) : State.hopOf { s with egress := l } e = some (d, o, q) := hh
  have hf' : State.frozen { s with egress := [e] } = false := hf
  simp [State.flushLinks, hf', hh', State.pump, hs, hm]

/-- A packet takes a credit of its channel for each of its flits. -/
def State.spendCredits (s : State) (d o : Nat) (q : Packet) : State :=
  let key := creditKey d o (Packet.vc q)
  { s with credits := s.credits.put key (s.credits.getD key 0 + Packet.flits q) }

/-- A packet that goes on from a link's buffer takes credits of its channel, and the credits of its buffer go back. -/
theorem depart_link (s : State) (die d o : Nat) (l : Nat × Nat × Nat) (p q : Packet) :
    s.depart_ ⟨die, some l, p⟩ d o q =
      ((s.spendCredits d o q).emit (.packet d o q)).emit (.credits l.1 l.2.1 l.2.2 (Packet.flits q)) := by
  simp only [State.depart_, State.spendCredits, reduceCtorEq, and_false, if_false, State.giveBack]

/-- A packet for another package that finds no other packet waiting, and credits on its channel, goes on. -/
theorem execPacketForward_of_credits {d o : Nat} {q : Packet} (hdst : Packet.dst s.ev.pkt ≠ s.pkgid.toNat)
    (hroom : s.rxRoom s.ev = true) (hf : s.frozen = false) (he : s.egress = [])
    (hh : s.hop none (some (StepArgs.link s.ev).1) s.ev.pkt = some (d, o, q)) (hm : s.mayStart d o q = true) :
    execPacketForward s = .next (((s.spendCredits d o q).emit (.packet d o q)).emit
        (.credits (StepArgs.link s.ev).1 (StepArgs.link s.ev).2.1 (StepArgs.link s.ev).2.2 (Packet.flits q))) := by
  have hgo := flushLinks_single (e := ⟨StepArgs.rxDie s.ev, some (StepArgs.link s.ev), s.ev.pkt⟩) hf he hh hm
  rw [depart_link] at hgo
  simp only [execPacketForward, hroom, Bool.true_and, bne_iff_ne, hdst, ne_eq, not_false_eq_true, if_true, State.sendOn, if_false, he,
    List.nil_append]
  exact congrArg _ hgo

/-! ### Ports and credits (R25, R28) -/

/-- A group whose port has changed waits for its neighbour's report. -/
theorem mem_draining_drainGroup (s : State) (d : Nat) : d ∈ (s.drainGroup d).draining := by
  simp only [State.drainGroup]
  split
  next h => simpa using h
  next => simp

theorem execPortLeaveService_of_failed (hup : s.linkup.getLsbD (8 * (s.ev.who % 8) + s.ev.n % 8) = true)
    (hbad : s.ev.flag = true ∨ 8 ≤ s.crcFails.getD (8 * (s.ev.who % 8) + s.ev.n % 8) 0) :
    execPortLeaveService s = .next (State.drainGroup { s with
      linkup := s.linkup &&& ~~~ BitVec.twoPow 64 (8 * (s.ev.who % 8) + s.ev.n % 8)
      crcFails := s.crcFails.del (8 * (s.ev.who % 8) + s.ev.n % 8) } (s.ev.who % 8)) := by
  refine congrArg _ (if_pos ?_)
  simpa [hup] using hbad

theorem execPortRejoin_of_down (hdown : s.linkup.getLsbD (8 * (s.ev.who % 8) + s.ev.n % 8) = false) :
    execPortRejoin s = .next (State.drainGroup { s with
      linkup := s.linkup ||| BitVec.twoPow 64 (8 * (s.ev.who % 8) + s.ev.n % 8)
      crcFails := s.crcFails.del (8 * (s.ev.who % 8) + s.ev.n % 8)
      credits := (List.range 4).foldl (fun t v => t.del (creditKey (s.ev.who % 8) (s.ev.n % 8) v)) s.credits } (s.ev.who % 8)) :=
  congrArg _ (if_neg (by simp [hdown]))

end

/-- Settles O49: responses, the time-out and forwarding by what their steps do in the case that the clause names; where no packet
waits, the links send none when a group or credits come back. -/
theorem linkSteps : Obligations.LinkSteps := by
  unfold Obligations.LinkSteps
  intro s
  refine ⟨fun r => execResponseReceive_of_awaited, fun r => execResponseTimeout_of_mem, fun d o q => execPacketForward_of_credits,
    ?leave, ?rejoin, ?report, ?credit, rfl⟩
  case leave => exact fun hup hbad => ⟨_, execPortLeaveService_of_failed hup hbad, rfl, mem_draining_drainGroup ..⟩
  case rejoin => exact fun hdown => ⟨_, execPortRejoin_of_down hdown, rfl, mem_draining_drainGroup ..⟩
  case report => exact fun he => congrArg Host.Outcome.next (State.flushLinks_of_egress_nil (by exact he))
  case credit => exact fun he => congrArg Host.Outcome.next (State.flushLinks_of_egress_nil (by exact he))

end Sys2Proof.Machine
end

section
/-! RoCE: the messages of the host, acknowledgements, retransmission and rates (R38–R42). -/

namespace Sys2Proof.Machine

section
variable {s u v z : State} {e : Inbound} {t : Half}

/-! ### The message that a step deals with (R38, R39, R41) -/

/-- A step that deals with a message leaves what the message's own run leaves. -/
theorem roceIn_of_hears {kind : Nat} {f : Inbound → Half → M Unit} (h : s.Hears kind e t u) (hf : f e t u = .ok ((), v)) :
    s.roceIn kind f = v := by
  obtain ⟨hcame, hfirst, htenant⟩ := h
  have hserve : u.serveRoce e f = v := by
    simp only [State.serveRoce, hfirst, ne_eq, not_true_eq_false, if_false, htenant]
    exact runM_ok hf
  obtain ⟨hk, hfind, rfl⟩ | ⟨hk, hq, hflag, hroom, hpsn, rfl, rfl⟩ := hcame
  · simp only [State.roceIn, if_pos hk, hfind, hserve]
  · simp only [State.roceIn, hk, ne_eq, not_true_eq_false, hq, hflag, hpsn, hroom, Bool.false_eq_true, if_false]
    exact hserve

/-! ### WRITE and READ (R40, R41) -/

section
variable (h : s.Hears 0x21 e t u) (hsize : ¬(e.args.bs = [] ∨ 2 ^ 30 < e.args.bs.length))
  (hkey : ¬(e.stage = 0 ∧ (!u.keyOk e.args.n t e.args.a e.args.bs.length (·.write)) = true))
include h hsize hkey

/-- A line of a WRITE is written in a step, and the next one is its turn. -/
theorem execRdmaWrite_line (hrest : e.args.bs.drop e.stage ≠ [])
    (hw : writeLine e.args.who (e.rdma t) (e.args.a + BitVec.ofNat 64 e.stage) ((e.args.bs.drop e.stage).take
      (min (e.args.bs.drop e.stage).length (64 - (e.args.a + BitVec.ofNat 64 e.stage).toNat % 64))) u = .ok ((), v)) :
    execRdmaWrite s = .next (((v.dropFault (.device e.n)).dropRequests (.device e.n)).modIn e.n fun y => { y with
      stage := y.stage + min (e.args.bs.drop e.stage).length (64 - (e.args.a + BitVec.ofNat 64 e.stage).toNat % 64) }) := by
  refine congrArg _ (roceIn_of_hears h ((bind_ok (a := u) (t := u) rfl).trans ?_))
  simp only [hsize, hkey, hrest, if_false]
  exact bind_ok hw

/-- A WRITE of which no line is left is acknowledged once its writes are performed. -/
theorem execRdmaWrite_ends (hrest : e.args.bs.drop e.stage = []) (hdone : u.allPerformed e.n = true) :
    execRdmaWrite s = .next (u.acked e []) := by
  refine congrArg _ (roceIn_of_hears h ((bind_ok (a := u) (t := u) rfl).trans ?_))
  simp only [hsize, hkey, hrest, hdone, if_false, if_true]
  rfl

end

theorem execRdmaRead_of_hears {bs : List Byte} (h : s.Hears 0x22 e t u) (hlo : 1 ≤ e.args.m) (hhi : e.args.m ≤ 2 ^ 30)
    (hkey : u.keyOk e.args.n t e.args.a e.args.m (·.read) = true)
    (hr : readHomes (e.rdma t) 6 (e.args.m / 4096 + 2) e.args.a e.args.m u = .ok (bs, v)) :
    execRdmaRead s = .next (v.acked e bs) := by
  refine congrArg _ (roceIn_of_hears h ((bind_ok (a := u) (t := u) rfl).trans ?_))
  have hlimit : ¬(e.args.m = 0 ∨ 2 ^ 30 < e.args.m) := by omega
  simp only [hlimit, hkey, Bool.not_true, Bool.false_eq_true, if_false]
  exact bind_ok hr

/-! ### Atomics (R38) -/

/-- An atomic that its key allows, at a home of this package, is acknowledged with the value that stood there. -/
theorem roceAtomic_ok {op x cmp pa n : Nat} (hal : e.args.a.toNat % 8 = 0) (hkey : u.keyOk e.args.n t e.args.a 8 (·.atomic) = true)
    (hp : placeWrite (e.rdma t) e.args.a 8 6 u = .ok (.mem pa, v)) (ha : homeAtomic (e.rdma t) pa 8 op x cmp v = .ok (n, z)) :
    roceAtomic e t op x cmp u = .ok ((), z.acked e (leBytes 8 (leNat (v.readHome pa 8)))) := by
  rw [← homeAtomic_old ha]
  refine (bind_ok (a := u) (t := u) rfl).trans ?_
  simp only [hal, hkey, ne_eq, not_true_eq_false, Bool.not_true, Bool.false_eq_true, if_false]
  exact (bind_ok hp).trans (bind_ok ha)

end

/-! ### Acknowledgements and retransmission (R38) -/

/-- Acknowledging messages leaves the operands of the step and TIMER. -/
theorem ackUpTo_kept (s : State) (q n : Nat) : (s.ackUpTo q n).ev = s.ev ∧ (s.ackUpTo q n).timer = s.timer := by
  unfold State.ackUpTo
  exact List.foldlRecOn (motive := fun (t : State) => t.ev = s.ev ∧ t.timer = s.timer) _ _ ⟨rfl, rfl⟩ fun t ht p _ => ht

@[simp] theorem State.ackUpTo_ev (s : State) (q n : Nat) : (s.ackUpTo q n).ev = s.ev := (ackUpTo_kept s q n).1
@[simp] theorem State.ackUpTo_timer (s : State) (q n : Nat) : (s.ackUpTo q n).timer = s.timer := (ackUpTo_kept s q n).2

section
variable {s : State} (hq : (s.qpTenant s.ev.who).isSome = true)
include hq

/-- An acknowledgement ends the messages up to its number that have no response. -/
theorem execRoceAckReceive_of_writes (hf : s.ev.flag = false)
    (hp : ∀ p ∈ (s.qp s.ev.who).pend, p.1 = s.ev.n → p.2.2.2.reads = false) :
    execRoceAckReceive s = .next (s.ackUpTo s.ev.who s.ev.n) := by
  simp only [execRoceAckReceive, Option.isNone_eq_false_iff.2 hq, hf, Bool.false_eq_true, if_false]
  split
  · rfl
  next p hfind =>
    have hreads : p.2.2.2.reads = false := hp p (List.mem_of_find?_eq_some hfind) (by simpa using List.find?_some hfind)
    simp only [hreads, Bool.false_and, Bool.false_eq_true, if_false]

/-- A response ends the READ or atomic of its number with its bytes. -/
theorem execRoceAckReceive_of_response {p : Nat × Nat × Nat × Out} (hf : s.ev.flag = false)
    (hp : (s.qp s.ev.who).pend.find? (fun p => p.1 == s.ev.n) = some p) (hr : p.2.2.2.reads = true)
    (hl : p.2.2.2.responseLen = s.ev.bs.length) :
    execRoceAckReceive s = .next (State.answerHost ((s.ackUpTo s.ev.who s.ev.n).modQp s.ev.who fun y => { y with
      pend := y.pend.filter fun p => p.1 != s.ev.n, tries := 0, since := s.timer.toNat }) p.2.1 p.2.2.1 0 s.ev.bs) := by
  simp only [execRoceAckReceive, Option.isNone_eq_false_iff.2 hq, hf, hp, hr, hl, State.ackUpTo_ev, State.ackUpTo_timer, BEq.rfl,
    Bool.and_self, Bool.false_eq_true, if_false, if_true]

/-- A sequence error ends what came before its number, and the queue pair sends again from there. -/
theorem execRoceAckReceive_of_sequence (hf : s.ev.flag = true) (hc : s.ev.bs.getD 0 0 = 0) :
    execRoceAckReceive s = .next ((s.ackUpTo s.ev.who ((s.ev.n + 2 ^ 24 - 1) % 2 ^ 24)).resend s.ev.who s.ev.n) := by
  simp only [execRoceAckReceive, Option.isNone_eq_false_iff.2 hq, hf, State.ackUpTo_ev, hc, Bool.false_eq_true, if_false, if_true]

end

section
variable {s : State}

section
variable {p : Nat × Nat × Nat × Out} {ps : List (Nat × Nat × Nat × Out)} (hp : (s.qp s.ev.who).pend = p :: ps)
  (ho : (s.qp s.ev.who).opened = true) (ht : (s.qp s.ev.who).since + (s.qp s.ev.who).timeout ≤ s.timer.toNat)
include hp ho ht

/-- A queue pair whose timeout has passed sends again from its oldest message, while it has retries left. -/
theorem execRoceRetransmit_resends (hr : (s.qp s.ev.who).tries < (s.qp s.ev.who).retries) :
    execRoceRetransmit s = .next ((s.resend s.ev.who p.1).modQp s.ev.who fun y => { y with
      tries := y.tries + 1, since := s.timer.toNat }) := by
  simp [execRoceRetransmit, hp, ho, Nat.not_lt.2 ht, Nat.not_le.2 hr]

/-- Without retries left it is closed. -/
theorem execRoceRetransmit_fails (hr : (s.qp s.ev.who).retries ≤ (s.qp s.ev.who).tries) :
    execRoceRetransmit s = .next (s.failQp s.ev.who) := by
  simp [execRoceRetransmit, hp, ho, Nat.not_lt.2 ht, hr]

end

/-! ### Rates (R42) -/

/-- A first notification halves the rate. -/
theorem execCnpReceive_first (hq : (s.qpTenant s.ev.who).isSome = true) (hc : (s.qp s.ev.who).lastCut = none) :
    execCnpReceive s = .next (s.modQp s.ev.who fun y => { y with
      rate := y.rate / 2, lastCut := some s.timer.toNat, lastCnp := s.timer.toNat }) := by
  simp [execCnpReceive, Option.isNone_eq_false_iff.2 hq, State.modQp, hc]

/-- A notification within 50 µs of the last cut leaves the rate. -/
theorem execCnpReceive_early {c : Nat} (hq : (s.qpTenant s.ev.who).isSome = true) (hc : (s.qp s.ev.who).lastCut = some c)
    (ht : s.timer.toNat < c + 65000) :
    execCnpReceive s = .next (s.modQp s.ev.who fun y => { y with lastCnp := s.timer.toNat }) := by
  simp [execCnpReceive, Option.isNone_eq_false_iff.2 hq, State.modQp, hc, Nat.not_le.2 ht]

theorem execRateRecover_of_quiet (ho : (s.qp s.ev.who).opened = true) (hr : (s.qp s.ev.who).rate < 1)
    (ht : (s.qp s.ev.who).lastCnp + 71500 ≤ s.timer.toNat) :
    execRateRecover s = .next (s.modQp s.ev.who fun y => { y with rate := min 1 (y.rate + 1 / 20), lastCnp := s.timer.toNat }) :=
  congrArg _ (if_pos ⟨ho, hr, ht⟩)

/-! ### Pauses (R38) -/

/-- The state in which a priority of a port goes on. -/
def State.resumed (s : State) : State := { s with pause := s.pause.filter (· ≠ (s.ev.who % 4, s.ev.n)) }

/-- The queue pairs of the priority that a pause frame names. -/
def State.pausedQps (s : State) : Table QueuePair :=
  s.qps.filter fun (z : Nat × QueuePair) => decide ((qpDie z.1, z.2.prio) = (s.ev.who % 4, s.ev.n))

/-- A priority goes on, and its queue pairs send what they hold. -/
theorem execPfcPauseFrame_resumes (hf : s.ev.flag = false) :
    execPfcPauseFrame s = .next ((s.pausedQps.map (·.1)).foldl State.flushQp s.resumed) := by
  simp only [execPfcPauseFrame, hf, Bool.not_false, if_true]
  rfl

/-- A priority of a port pauses. -/
theorem execPfcPauseFrame_pauses (hf : s.ev.flag = true) (hn : s.ev.n ≤ 7) (hp : s.pause = []) :
    execPfcPauseFrame s = .next { s with pause := [(s.ev.who % 4, s.ev.n)] } := by
  simp [execPfcPauseFrame, hf, Nat.not_lt.2 hn, hp]

end

/-- Settles O50: the messages by what their run answers, the others by what their step does in the case that the clause names. -/
theorem ethernetSteps : Obligations.EthernetSteps := by
  unfold Obligations.EthernetSteps
  intro s u e t
  refine ⟨?write, fun bs v => execRdmaRead_of_hears, ?atomics, ?acks, execRoceAckReceive_of_sequence, ?again, execCnpReceive_first,
    fun c => execCnpReceive_early, execRateRecover_of_quiet, ?resume, execPfcPauseFrame_pauses⟩
  case write =>
    intro h hne hlen hkey
    have hsize := not_or.2 ⟨hne, Nat.not_lt.2 hlen⟩
    have hallowed : ¬(e.stage = 0 ∧ (!u.keyOk e.args.n t e.args.a e.args.bs.length (·.write)) = true) := by simpa using hkey
    exact ⟨fun v => execRdmaWrite_line h hsize hallowed, execRdmaWrite_ends h hsize hallowed⟩
  case atomics =>
    exact fun pa n v z hal hkey hp => ⟨fun h ha => congrArg _ (roceIn_of_hears h (roceAtomic_ok hal hkey hp ha)),
      fun h ha => congrArg _ (roceIn_of_hears h (roceAtomic_ok hal hkey hp ha))⟩
  case acks => exact fun hq hf => ⟨execRoceAckReceive_of_writes hq hf, fun p => execRoceAckReceive_of_response hq hf⟩
  case again => exact fun p ps hp ho ht => ⟨execRoceRetransmit_resends hp ho ht, execRoceRetransmit_fails hp ho ht⟩
  case resume =>
    intro held go hf
    have hgo := execPfcPauseFrame_resumes hf
    refine ⟨fun hnone => ?_, fun j y hone hy => ?_⟩
    · rw [show s.pausedQps = [] from hnone] at hgo
      exact hgo
    · subst hy
      rw [show s.pausedQps = [(j, s.qp j)] from hone] at hgo
      exact hgo

end Sys2Proof.Machine
end

section
/-! System-call replies, page ownership, and the drain of a checkpoint (R36, R58–R64, R93, R179, R180). -/

namespace Sys2Proof.Machine

/-! ### SEND on a system queue pair (R58, R59) -/

section
variable {s u v : State} {e : Inbound} {t : Half} {types : List Nat}

/-- A SYSREPLY that answers a busy entry, whose launch has not been aborted, delivers its result and frees the entry. -/
theorem sysreply_ok {y : SysEntry} (hy : (u.die (rd e.args.bs 4 4 / 256 % 4)).sysc.find? (rd e.args.bs 4 4 % 256) = some y)
    (hlen : e.args.bs.length = 16) (hz : rd e.args.bs 1 3 = 0) (hbusy : y.busy = true) (hgen : y.gen.toNat = rd e.args.bs 4 4 / 1024)
    (hl : y.launch = none) (hslot : y.slot < 5120) :
    sysreply e u = .ok ((), ((u.modDie (rd e.args.bs 4 4 / 256 % 4) fun z => { z with
      sysc := z.sysc.put (rd e.args.bs 4 4 % 256) { y with busy := false } }).deliverFill y.slot y.reg (dw (rd e.args.bs 8 8)) true).acked
        e []) := by
  refine (bind_ok (a := u) (t := u) rfl).trans ?_
  have hok : ¬(e.args.bs.length ≠ 16 ∨ rd e.args.bs 1 3 ≠ 0 ∨ (!y.busy) = true ∨ y.gen.toNat ≠ rd e.args.bs 4 4 / 1024) := by
    simp [hlen, hz, hbusy, hgen]
  simp only [hy, hok, if_false, hl, State.launchGone, Bool.false_eq_true, hslot, if_true]
  rfl

/-- A SEND of TYPE 2 on the tenant's system queue pair is a SYSREPLY. -/
theorem deliverSend_sysreply (hq : u.sysQp t = e.args.who) (hty : rd e.args.bs 0 1 = 2) (hm : types.contains 2 = true) :
    deliverSend e t types u = sysreply e u := by
  refine (bind_ok (a := u) (t := u) rfl).trans ?_
  simp only [hq, hty, hm, ne_eq, not_true_eq_false, Bool.not_true, Bool.false_eq_true, or_self, if_false, if_true]

theorem deliverSend_pagereq (hq : u.sysQp t = e.args.who) (hty : rd e.args.bs 0 1 = 3) (hm : types.contains 3 = true) :
    deliverSend e t types u = hostPagereq e t u := by
  refine (bind_ok (a := u) (t := u) rfl).trans ?_
  simp only [hq, hty, hm, ne_eq, not_true_eq_false, Bool.not_true, Bool.false_eq_true, or_self, if_false, if_true,
    Nat.reduceEqDiff]

theorem deliverSend_pagerep (hq : u.sysQp t = e.args.who) (hty : rd e.args.bs 0 1 = 4) (hm : types.contains 4 = true) :
    deliverSend e t types u = hostPagerep e t u := by
  refine (bind_ok (a := u) (t := u) rfl).trans ?_
  simp only [hq, hty, hm, ne_eq, not_true_eq_false, Bool.not_true, Bool.false_eq_true, or_self, if_false, Nat.reduceEqDiff]

/-! ### Pages (R60–R62) -/

/-- A page that the device may give is granted, and its request answered. -/
theorem hostPagereq_grants (hbad : pageMsgBad e.args.bs = false) (hp : u.pageState t (rd e.args.bs 8 8 / 2 * 2) = none)
    (hsmall : rd e.args.bs 8 8 % 2 = 0) (hmay : u.mayGrant t (rd e.args.bs 8 8 / 2 * 2) false = true)
    (hg : grantPage e.args.who t (rd e.args.bs 8 8 / 2 * 2) u = .ok ((), v)) :
    hostPagereq e t u = .ok ((), (v.sendRoce e.args.who 0 4096 (.frame e.args.who (pagerep 0 e.args.bs))).acked e []) := by
  refine (bind_ok (a := u) (t := u) rfl).trans ?_
  have hpages : (List.range (pageCount (rd e.args.bs 8 8))).map (fun i => rd e.args.bs 8 8 / 2 * 2 + i * 65536) =
      [rd e.args.bs 8 8 / 2 * 2] := by simp [pageCount, hsmall]
  have hbig : (rd e.args.bs 8 8 % 2 == 1) = false := by simp [hsmall]
  simp only [hbad, hp, hpages, hbig, List.all_cons, List.all_nil, hmay, Bool.and_true, Bool.false_eq_true, if_false, if_true,
    List.forIn_cons, List.forIn_nil]
  refine (bind_ok (a := PUnit.unit) (t := v) ?_).trans rfl
  exact bind_ok (a := ForInStep.yield PUnit.unit) (t := v) (bind_ok hg)

/-- The leaf of a page that has landed: mapped at its landing frame, with R and W where it allowed nothing. -/
def landedLeaf (p : PageState) (x : Dword) : Dword :=
  let x := setBits (setBits (setBits (setBits (setBits x 57 56 0) 39 16 (p.frame / 65536)) 11 10 0) 8 8 0) 0 0 1
  if bits x 3 1 = 0 then setBits x 2 1 3 else x

/-- The page has landed in its frame, which its leaf names already, and is no longer asked for. -/
def State.landed (s : State) (t : Half) (va : Nat) (p : PageState) : State :=
  ((s.modFrame p.frame fun f => { f with refcnt := 1, pincnt := 0 }).dropPage p).noteHash (s.pageEntry t va)

/-- The faults on a host-held page that have no verdict are tried again. -/
def State.retryFaults (s : State) (t : Half) (va : Nat) : State :=
  (s.faults.filter fun (f : FaultRec) => f.tenant == t && f.kind == kHostPage && f.va.toNat / 65536 == va / 65536 &&
    f.verdict.isNone).foldl (fun s f => s.setVerdict f .retry) s

section
variable {p : PageState} (hbad : pageMsgBad e.args.bs = false) (hp : u.pageState t (rd e.args.bs 8 8 / 2 * 2) = some p)
  (ha : p.asked = true)
include hbad hp ha

/-- A page that is refused is given up with its landing frame. -/
theorem hostPagerep_refused (hr : rd e.args.bs 1 1 = 1) :
    hostPagerep e t u = .ok ((), ((u.freeLanding p).dropPage p).acked e []) := by
  refine (bind_ok (a := u) (t := u) rfl).trans ?_
  simp only [hbad, hp, ha, hr, Bool.not_true, Bool.false_eq_true, if_false, if_true]
  rfl

/-- A page that is granted is mapped where it landed, and the faults on it are tried again. -/
theorem hostPagerep_grants (hr : rd e.args.bs 1 1 = 0)
    (hw : u.rewriteLeaf t (rd e.args.bs 8 8 / 2 * 2) (landedLeaf p) = some v) :
    hostPagerep e t u = .ok ((), ((v.landed t (rd e.args.bs 8 8 / 2 * 2) p).retryFaults t (rd e.args.bs 8 8 / 2 * 2)).acked e []) := by
  unfold landedLeaf at hw
  refine (bind_ok (a := u) (t := u) rfl).trans ?_
  simp only [hbad, hp, ha, hr, hw, Bool.not_true, Bool.false_eq_true, if_false, zero_ne_one]
  rfl

end

end

/-! ### What granting a page changes (R61, R85) -/

theorem State.frameDesc_modFrame (s : State) (pa pb : Nat) (f : FrameDesc → FrameDesc) :
    (s.modFrame pa f).frameDesc pb = if pb / 65536 = pa / 65536 then f (s.frameDesc pa) else s.frameDesc pb := by
  simp only [State.frameDesc, State.modFrame, Table.getD_put]

@[simp] theorem State.frameDesc_dropPage (s : State) (p : PageState) (pa : Nat) : (s.dropPage p).frameDesc pa = s.frameDesc pa := rfl

/-- A hash is taken of a frame whose counts stay. -/
theorem noteHash_counts (s : State) (e : Dword) (pa : Nat) :
    ((s.noteHash e).frameDesc pa).refcnt = (s.frameDesc pa).refcnt ∧
      ((s.noteHash e).frameDesc pa).pincnt = (s.frameDesc pa).pincnt := by
  simp only [State.noteHash]
  split
  · rw [State.frameDesc_modFrame]
    split
    next h => simp only [State.frameDesc, h, and_self]
    next => exact ⟨rfl, rfl⟩
  · exact ⟨rfl, rfl⟩

@[simp] theorem State.noteHash_pages (s : State) (e : Dword) : (s.noteHash e).pages = s.pages := by
  simp only [State.noteHash]; split <;> rfl
@[simp] theorem State.noteHash_faults (s : State) (e : Dword) : (s.noteHash e).faults = s.faults := by
  simp only [State.noteHash]; split <;> rfl

/-- Verdicts change no page and no frame. -/
theorem foldl_setVerdict_kept (l : List FaultRec) (v : Verdict) (s : State) :
    (l.foldl (fun s f => s.setVerdict f v) s).pages = s.pages ∧ (l.foldl (fun s f => s.setVerdict f v) s).frames = s.frames :=
  List.foldlRecOn (motive := fun (t : State) => t.pages = s.pages ∧ t.frames = s.frames) _ _ ⟨rfl, rfl⟩ fun _ ht _ _ => ht

/-- A fault takes the verdict that is given to a fault of its requester at its address. -/
def FaultRec.decided (l : List FaultRec) (v : Verdict) (g : FaultRec) : FaultRec :=
  if l.any fun f => decide (g.req = f.req ∧ g.va = f.va) then { g with verdict := some v } else g

theorem faults_foldl_setVerdict (l : List FaultRec) (v : Verdict) (s : State) :
    (l.foldl (fun s f => s.setVerdict f v) s).faults = s.faults.map (FaultRec.decided l v) := by
  induction l generalizing s with
  | nil => exact (List.map_id _).symm
  | cons f l ih =>
    rw [List.foldl_cons, ih, State.setVerdict, List.map_map]
    refine List.map_congr_left fun g _ => ?_
    by_cases h : g.req = f.req ∧ g.va = f.va
    · simp [FaultRec.decided, h]
    · simp [FaultRec.decided, h]

@[simp] theorem State.retryFaults_pages (s : State) (t : Half) (va : Nat) : (s.retryFaults t va).pages = s.pages :=
  (foldl_setVerdict_kept ..).1
@[simp] theorem State.retryFaults_frames (s : State) (t : Half) (va : Nat) : (s.retryFaults t va).frames = s.frames :=
  (foldl_setVerdict_kept ..).2

/-- Every fault on the host-held page has a verdict then. -/
theorem verdict_of_mem_retryFaults {s : State} {t : Half} {va : Nat} {f : FaultRec} (hf : f ∈ (s.retryFaults t va).faults)
    (ht : f.tenant = t) (hk : f.kind = kHostPage) (hva : f.va.toNat / 65536 = va / 65536) : f.verdict.isSome = true := by
  rw [State.retryFaults, faults_foldl_setVerdict] at hf
  obtain ⟨g, hg, rfl⟩ := List.mem_map.1 hf
  simp only [FaultRec.decided] at ht hk hva ⊢
  split at ht
  next h => simp only [h, if_true, Option.isSome_some]
  next h =>
    simp only [h, if_false, Bool.false_eq_true] at hk hva ⊢
    by_contra hv
    refine h (List.any_eq_true.2 ⟨g, List.mem_filter.2 ⟨hg, ?_⟩, by simp⟩)
    simpa [ht, hk, hva] using hv

@[simp] theorem State.emitRoce_pages (s : State) (q : Nat) (o : Out) : (s.emitRoce q o).pages = s.pages := by
  unfold State.emitRoce; split <;> rfl
@[simp] theorem State.emitRoce_frames (s : State) (q : Nat) (o : Out) : (s.emitRoce q o).frames = s.frames := by
  unfold State.emitRoce; split <;> rfl
@[simp] theorem State.emitRoce_faults (s : State) (q : Nat) (o : Out) : (s.emitRoce q o).faults = s.faults := by
  unfold State.emitRoce; split <;> rfl

@[simp] theorem State.endIn_pages (s : State) (n : Nat) : (s.endIn n).pages = s.pages := rfl
@[simp] theorem State.endIn_frames (s : State) (n : Nat) : (s.endIn n).frames = s.frames := rfl
theorem State.endIn_faults (s : State) (n : Nat) :
    (s.endIn n).faults = s.faults.filter fun f => !decide (f.req = .device n) := rfl

@[simp] theorem State.acked_pages (s : State) (e : Inbound) (bs : List Byte) : (s.acked e bs).pages = s.pages := by
  simp only [State.acked, State.ackIn, State.emitRoce_pages, State.endIn_pages]
  split <;> rfl
@[simp] theorem State.acked_frames (s : State) (e : Inbound) (bs : List Byte) : (s.acked e bs).frames = s.frames := by
  simp only [State.acked, State.ackIn, State.emitRoce_frames, State.endIn_frames]
  split <;> rfl

/-- An acknowledgement forgets faults of its message, and makes none. -/
theorem mem_faults_of_acked {s : State} {e : Inbound} {bs : List Byte} {f : FaultRec} (hf : f ∈ (s.acked e bs).faults) :
    f ∈ s.faults := by
  simp only [State.acked, State.ackIn, State.emitRoce_faults, State.endIn_faults] at hf
  have hmem := (List.mem_filter.1 hf).1
  split at hmem <;> exact hmem

/-- What a granted page leaves: it is no longer asked for, its frame has one reference and no pin, and the faults on it have verdicts. -/
theorem landed_retried (s : State) (t : Half) (va : Nat) (p : PageState) (e : Inbound) :
    let w := ((s.landed t va p).retryFaults t va).acked e []
    w.pages = s.pages.filter (fun (x : PageState) => x ≠ p) ∧ (w.frameDesc p.frame).refcnt = 1 ∧
      (w.frameDesc p.frame).pincnt = 0 ∧ ∀ f ∈ w.faults, f.tenant = t → f.kind = kHostPage →
        f.va.toNat / 65536 = va / 65536 → f.verdict.isSome = true := by
  intro w
  have hframe : w.frameDesc p.frame = (s.landed t va p).frameDesc p.frame := by simp [w, State.frameDesc]
  have hcounts :=
    noteHash_counts ((s.modFrame p.frame fun f => { f with refcnt := 1, pincnt := 0 }).dropPage p) (s.pageEntry t va) p.frame
  have hset : (s.modFrame p.frame fun f => { f with refcnt := 1, pincnt := 0 }).frameDesc p.frame =
      { s.frameDesc p.frame with refcnt := 1, pincnt := 0 } := (State.frameDesc_modFrame s p.frame p.frame _).trans (if_pos rfl)
  rw [State.frameDesc_dropPage, hset] at hcounts
  rw [hframe]
  exact ⟨by simp [w, State.landed, State.dropPage, State.modFrame], hcounts.1, hcounts.2,
    fun f hf => verdict_of_mem_retryFaults (mem_faults_of_acked hf)⟩

/-! ### The drain of a checkpoint (R36, R64, R93, R180) -/

/-- The answer to a packet of a frame that the drain has sent. -/
def State.drainAnswer (s : State) (f g : Nat) : Option (Byte × List Byte) :=
  (s.requests.find? fun (r : Request) => decide (r.who = drainReq ∧ r.die = homeDie (f * 65536) ∧ r.tag = g)).bind (·.answer)

theorem allSome_map_of_forall {α β : Type} {f : α → Option β} {P : β → Prop} {l : List α}
    (h : ∀ a ∈ l, ∃ b, f a = some b ∧ P b) :
    ∃ bs, allSome (l.map f) = some bs ∧ ∀ b ∈ bs, P b := by
  induction l with
  | nil => exact ⟨[], rfl, by simp⟩
  | cons a l ih =>
    obtain ⟨b, hb, hP⟩ := h a (List.mem_cons_self ..)
    obtain ⟨bs, hbs, hall⟩ := ih fun x hx => h x (List.mem_cons_of_mem _ hx)
    exact ⟨b :: bs, by simp [allSome, hb, hbs], List.forall_mem_cons.2 ⟨hP, hall⟩⟩

section
variable {s : State} {d : Drain}

section
variable (hd : s.drain = some d) (hok : d.failed = false) (hside : s.sideBusy s.ev.who = false)
include hd hok hside

/-- The packets of a frame that is next leave. -/
theorem execDrainSend_begins (ht : Table.getD d.busy s.ev.who [] = []) (hn : s.drainNext s.ev.who = true) :
    execDrainSend s = .next (State.drainPackets s.ev.who 16 s) := by
  simp [execDrainSend, hd, hok, hside, ht, hn]

/-- A frame whose sixteen packets are all answered OK is drained. -/
theorem execDrainSend_ends (ht : (Table.getD d.busy s.ev.who []).length = 16)
    (ha : ∀ g ∈ Table.getD d.busy s.ev.who [], ∃ bs, s.drainAnswer s.ev.who g = some (0, bs)) :
    execDrainSend s = .next (s.drained d s.ev.who) := by
  have hgood : ∀ g ∈ Table.getD d.busy s.ev.who [], ∃ a, s.drainAnswer s.ev.who g = some a ∧ a.1 = 0 := fun g hg =>
    (ha g hg).elim fun bs hbs => ⟨_, hbs, rfl⟩
  obtain ⟨as, has, hall⟩ := allSome_map_of_forall hgood
  have hnone : ((Table.getD d.busy s.ev.who []).map (s.drainAnswer s.ev.who)).any (fun a => match a with
      | some x => x.1 == 3 || x.1 == 1 || x.1 == 5
      | none => false) = false := by
    simp only [List.any_map, List.any_eq_false]
    intro g hg
    obtain ⟨a, hga, h0⟩ := hgood g hg
    simp [hga, h0]
  have hzero : (as.all fun a => a.1 == 0) = true := by simpa using hall
  unfold State.drainAnswer at has hnone
  simp only [execDrainSend, hd, hok, hside, ht, has, hzero, Bool.or_self, Bool.false_eq_true, if_false, if_true]
  exact congrArg _ (if_neg (ne_true_of_eq_false hnone))

end

theorem execDrainStallTimeout_of_stalled (hd : s.drain = some d) (ht : d.since + 2 ^ 27 ≤ s.timer.toNat) :
    execDrainStallTimeout s = .next { s with drain := some { d with failed := true } } := by
  simp only [execDrainStallTimeout, hd, ht, if_true]

theorem execDrainEnd_of_over (hd : s.drain = some d) (h : d.failed = true ∨ (s.undrained = [] ∧ d.busy = [])) :
    execDrainEnd s = .next (State.emit { s with
      drain := none, requests := s.requests.filter fun (r : Request) => r.who ≠ drainReq }
        (.event 2 (leBytes 4 s.ckgen.toNat ++ [if d.failed then 1 else 0]))) := by
  have hover : (d.failed || (s.undrained.isEmpty && d.busy.isEmpty)) = true := by simpa using h
  simp only [execDrainEnd, hd, hover, if_true]

/-- The side copy of a frame stands, and the frame has the new generation. -/
def State.sideCopied (s : State) (f fr : Nat) : State :=
  let img := sliceMem s.mem (viewKey (homeDie (f * 65536)) (f * 65536)) 65536
  let t := { s with mem := ([0, 1, 2, 3] : List Nat).foldl (fun m v => replaceMem m (viewKey v fr) 65536 img) s.mem }
  (t.modFrame fr fun x => { x with pincnt := 0 }).modFrame (f * 65536) fun x => { x with gen := s.ckgen }

theorem execSideCopyDone_of_busy {fr : Nat} (hf : s.side.find? s.ev.who = some fr) (hb : s.sideBusy s.ev.who = true) :
    execSideCopyDone s = .next (s.sideCopied s.ev.who fr) := by
  simp only [execSideCopyDone, hf, hb, Bool.not_true, Bool.false_eq_true, if_false]
  rfl

theorem execSettleTimeEnd_of_settled {p : PageState} {u : State} (hp : s.pageState s.ev.id s.ev.a.toNat = some p) (ha : p.asked = false)
    (ht : p.limit ≤ s.timer.toNat) (hw : (s.dropPage p).rewriteLeaf s.ev.id p.va.toNat hostLeaf = some u) :
    execSettleTimeEnd s = .next u := by
  simp [execSettleTimeEnd, hp, ha, Nat.not_lt.2 ht, hw]

end

/-- Settles O51: a SEND by what its message does, a granted page by what the landing leaves of its page, its frame and its faults, and
the steps of the drain by their functions. -/
theorem pageAndDrainSteps : Obligations.PageAndDrainSteps := by
  unfold Obligations.PageAndDrainSteps
  refine ⟨?sends, ?drains⟩
  case sends =>
    intro s u e t h hq bs d i va
    refine ⟨?sysreply, ?pagereq, ?pagerep⟩
    case sysreply =>
      intro y hty hy hlen hz hbusy hgen hl hslot v
      have hrun {types : List Nat} (hm : types.contains 2 = true) : deliverSend e t types u = _ :=
        (deliverSend_sysreply hq hty hm).trans (sysreply_ok hy hlen hz hbusy hgen hl hslot)
      exact ⟨congrArg _ (roceIn_of_hears h (hrun rfl)), congrArg _ (roceIn_of_hears h (hrun rfl))⟩
    case pagereq =>
      intro v hty hhost hbad hp hsmall hmay hg
      have hrun : deliverSend e t [3] u = _ := (deliverSend_pagereq hq hty rfl).trans (hostPagereq_grants hbad hp hsmall hmay hg)
      exact congrArg _ ((if_neg (not_and_or.2 hhost)).trans (roceIn_of_hears h hrun))
    case pagerep =>
      intro p hty hbad hp ha
      have hsend : deliverSend e t [4] u = hostPagerep e t u := deliverSend_pagerep hq hty rfl
      refine ⟨fun hr => congrArg _ (roceIn_of_hears h (hsend.trans (hostPagerep_refused hbad hp ha hr))), fun v hr hw => ?_⟩
      have hrun := roceIn_of_hears (f := fun e t => deliverSend e t [4]) h (hsend.trans (hostPagerep_grants hbad hp ha hr hw))
      exact ⟨_, congrArg Host.Outcome.next hrun, landed_retried ..⟩
  case drains =>
    rintro s d f rfl tags home
    exact ⟨fun hd hok hside => ⟨execDrainSend_begins hd hok hside, execDrainSend_ends hd hok hside⟩,
      execDrainStallTimeout_of_stalled, execDrainEnd_of_over, fun fr => execSideCopyDone_of_busy, fun p u => execSettleTimeEnd_of_settled⟩

end Sys2Proof.Machine
end

section
/-! The management path (R39, R40, R43–R47, R63, R64, R92). -/

namespace Sys2Proof.Machine

section
variable {s : State}

/-- The first refusal that applies is the answer; with none the command has its effect and is answered OK. -/
@[simp] theorem State.manage_nil (s : State) (go : State → State) : s.manage [] go = (go s).reply .ok := rfl
@[simp] theorem State.manage_cons (s : State) (b : Bool) (r : Reply) (cs : List (Bool × Reply)) (go : State → State) :
    s.manage ((b, r) :: cs) go = if b = true then s.reply r else s.manage cs go := by
  unfold State.manage
  cases b <;> simp

/-! ### Tenants and queue pairs (R39, R40, R43, R44) -/

/-- The tenant that TCREATE makes. -/
def newTenant (e : StepArgs) : Tenant := ⟨e.a, e.b, e.c, BitVec.ofNat 32 e.n, BitVec.ofNat 32 e.m, e.who, false⟩

theorem execTcreate_ok (hnew : s.tenant? s.ev.id = none) (hid : s.ev.id ≠ 0) (hb : s.ev.b ≠ 0) (hc : s.ev.c ≠ 0)
    (hbc : s.ev.b ≠ s.ev.c) (ho : (s.qp s.ev.who).opened = true) (hr : s.rootBad s.ev.a = false) (hn : s.tenants.length < 4096)
    (hq : (s.qp s.ev.who).tenant = 0) :
    execTcreate s = .next ((State.modQp { s with tenants := s.tenants.put s.ev.id.toNat (newTenant s.ev) } s.ev.who fun q =>
      { q with tenant := s.ev.id }).reply .ok) := by
  have hargs : (s.ev.id == 0 || s.ev.b == 0 || s.ev.c == 0 || s.ev.b == s.ev.c || !s.qpOpen s.ev.who || s.rootBad s.ev.a) = false := by
    simp only [State.qpOpen, beq_eq_false_iff_ne.2 hid, beq_eq_false_iff_ne.2 hb, beq_eq_false_iff_ne.2 hc, beq_eq_false_iff_ne.2 hbc,
      ho, hr, Bool.not_true, Bool.or_self]
  have hroom : (decide (4096 ≤ s.tenants.length) || (s.qp s.ev.who).tenant != 0) = false := by simp [Nat.not_le.2 hn, hq]
  simp only [execTcreate, State.manage_cons, State.manage_nil, State.live, hnew, hargs, hroom, Option.isSome_none, Bool.false_eq_true,
    if_false]
  rfl

section
variable {x : Tenant} (hx : s.tenant? s.ev.id = some x)
include hx

theorem execTlock_ok :
    execTlock s = .next (State.reply { s with tenants := s.tenants.put s.ev.id.toNat { x with locked := true } } .ok) := by
  simp [execTlock, State.live, hx]

theorem execQpbind_ok (ho : (s.qp s.ev.who).opened = true) (hq : (s.qp s.ev.who).tenant = 0) :
    execQpbind s = .next ((s.modQp s.ev.who fun q => { q with tenant := s.ev.id }).reply .ok) := by
  simp [execQpbind, State.live, State.qpOpen, hx, ho, hq]

end

/-- A queue pair opens or closes with its addresses; what a newly opened one expects and sends first is given with it. -/
theorem execQueuePairSetup_pair (hm : s.ev.m = 0) (hw : s.ev.who < 4096) (hn : s.ev.n ∈ [1024, 2048, 4096]) :
    execQueuePairSetup s = .next ((if s.ev.flag then s else s.failQp s.ev.who).modQp s.ev.who fun q => { q with
      opened := s.ev.flag, addr := s.ev.addr, mtu := s.ev.n, timeout := s.ev.b.toNat, retries := s.ev.c.toNat, prio := s.ev.k % 8
      tries := 0, since := (if s.ev.flag then s else s.failQp s.ev.who).timer.toNat
      psn := if (s.qp s.ev.who).opened then q.psn else s.ev.psn / 2 ^ 24 % 2 ^ 24
      epsn := if (s.qp s.ev.who).opened then q.epsn else s.ev.psn % 2 ^ 24
      nakked := (s.qp s.ev.who).opened && q.nakked, done := if (s.qp s.ev.who).opened then q.done else [] }) := by
  have hok : ¬(4096 ≤ s.ev.who ∨ (!([1024, 2048, 4096] : List Nat).contains s.ev.n) = true) :=
    not_or.2 ⟨Nat.not_le.2 hw, by rw [List.contains_iff_mem.2 hn]; decide⟩
  simp only [execQueuePairSetup, hm, zero_ne_one, OfNat.zero_ne_ofNat, hok, if_false]

theorem execQueuePairSetup_register (hm : s.ev.m = 1) :
    execQueuePairSetup s = .next { s with
      rkeys := s.rkeys.put s.ev.n ⟨s.ev.id, s.ev.a, s.ev.b, s.ev.c.getLsbD 0, s.ev.c.getLsbD 1, s.ev.c.getLsbD 2⟩ } :=
  congrArg _ (if_pos hm)

theorem execQueuePairSetup_withdraw (hm : s.ev.m = 2) : execQueuePairSetup s = .next { s with rkeys := s.rkeys.del s.ev.n } := by
  simp [execQueuePairSetup, hm]

/-! ### Launch queues (R44, R47, R79) -/

/-- The launch queue that LQCREATE makes in the frame of its page. -/
def newQueue (e : StepArgs) (pa : Nat) : LaunchQueue where
  tenant := e.id
  base := e.a
  depth := e.n
  qp := e.m
  head := 0
  expseq := 1
  completed := 0
  arms := List.replicate e.n false
  overrun := 0
  lost := 0
  frames := [pa]

theorem execLqcreate_ok {x : Tenant} {pa : Nat} (hx : s.tenant? s.ev.id = some x) (hnew : s.lqs.find? s.ev.who = none)
    (hw : s.ev.who < 64) (hr : regionOf s.ev.a = .tenant) (ha : s.ev.a.toNat % 65536 = 0) (hf : s.lqFrame s.ev.id s.ev.a = some pa)
    (hn : s.ev.n ∈ [16, 32, 64, 128, 256]) (hp : (s.frameDesc pa).pincnt ≠ 0xFFFF) :
    execLqcreate s = .next (State.reply { s.modFrame pa fun x => { x with pincnt := x.pincnt + 1, lq := true } with
      lqs := s.lqs.put s.ev.who (newQueue s.ev pa) } .ok) := by
  have hdepth : ([16, 32, 64, 128, 256] : List Nat).contains s.ev.n = true := List.contains_iff_mem.2 hn
  simp only [execLqcreate, State.manage_cons, State.manage_nil, State.live, hx, hnew, hr, ha, hf, hdepth, Nat.not_le.2 hw,
    beq_eq_false_iff_ne.2 hp, Option.isSome_some, Option.isSome_none, Option.isNone_some, Option.getD_some, bne_self_eq_false,
    decide_false, Bool.not_true, Bool.or_self, Bool.false_eq_true, if_false]
  rfl

theorem execLqdestroy_ok {x : LaunchQueue} (hx : s.lqs.find? s.ev.who = some x) (ha : x.arms.any id = false)
    (hl : ∀ l ∈ s.launches, l.q ≠ s.ev.who) : execLqdestroy s = .next ((s.dropQueue s.ev.who).reply .ok) := by
  have hidle : (s.launches.any fun l => l.q == s.ev.who) = false := by simpa using hl
  simp only [execLqdestroy, State.manage_cons, State.manage_nil, hx, ha, hidle, Option.isNone_some, Option.any_some, Bool.or_self,
    Bool.false_eq_true, if_false]

/-! ### TDESTROY (R46) -/

/-- The first step of TDESTROY: the command waits, and the tenant's work stops. -/
theorem execTdestroy_begins (ht : (s.tenant? s.ev.id).isSome = true) (hk : s.ev.k = 0) :
    execTdestroy s = .next (State.abortTenant { s with
      inbox := s.inbox ++ [{ n := s.nextN, kind := 0x41, args := s.ev, stage := 1 }], nextN := s.nextN + 1 } s.ev.id) := by
  simp [execTdestroy, hk, State.live, ht]

/-- Once nothing of the tenant runs, what it holds is freed. -/
theorem execTdestroy_ends {x : Inbound} (hk : s.ev.k ≠ 0)
    (hx : s.inbox.find? (fun (x : Inbound) => decide (x.n = s.ev.k ∧ x.kind = 0x41)) = some x)
    (ht : (s.tenant? x.args.id).isSome = true) (hq : (s.abortTenant x.args.id).quietTenant x.args.id = true) :
    execTdestroy s = .next ((((s.abortTenant x.args.id).destroyTenant x.args.id).dropIn x.n).reply .ok) := by
  simp only [execTdestroy, hk, if_false, hx, State.live, ht, Bool.not_true, Bool.false_eq_true, hq, if_true]

/-! ### Safe tier and checkpoints (R63, R64, R92) -/

/-- The coordinates of a package lie in the torus. -/
theorem pkgOk_iff (s : State) (p : Nat) : s.pkgOk p = true ↔
    p % 16 < s.torus.1 ∧ p / 16 % 16 < s.torus.2.1 ∧ p / 256 % 16 < s.torus.2.2.1 ∧ p / 4096 % 16 < s.torus.2.2.2 := by
  simp [State.pkgOk, and_assoc]

theorem execTierset_badarg (h : s.ev.b.toNat < 544 * 2 ^ 30 ∨ s.pkgOk s.ev.id.toNat = false ∨ s.ev.a.toNat % 4096 ≠ 0) :
    execTierset s = .next (s.reply .badarg) := by
  have hbad : (decide (s.ev.b.toNat < 544 * 2 ^ 30) || !s.pkgOk s.ev.id.toNat || s.ev.a.toNat % 4096 != 0) = true := by
    simpa [or_assoc] using h
  simp only [execTierset, State.manage_cons, hbad, if_true]

section
variable (hb : 544 * 2 ^ 30 ≤ s.ev.b.toNat) (hp : s.pkgOk s.ev.id.toNat = true) (ha : s.ev.a.toNat % 4096 = 0)
include hb hp ha

theorem execTierset_busy (hd : s.drain.isSome = true) : execTierset s = .next (s.reply .busy) := by
  simp only [execTierset, State.manage_cons, Nat.not_lt.2 hb, hp, ha, hd, bne_self_eq_false, decide_false,
    Bool.not_true, Bool.or_self, Bool.false_eq_true, if_false, if_true]

theorem execTierset_ok (hd : s.drain = none) :
    execTierset s = .next (State.reply { s with tier := some (s.ev.id, s.ev.a, s.ev.b) } .ok) := by
  simp only [execTierset, State.manage_cons, State.manage_nil, Nat.not_lt.2 hb, hp, ha, hd, bne_self_eq_false,
    decide_false, Bool.not_true, Bool.or_self, Bool.false_eq_true, if_false, Option.isSome_none]

end

/-- A checkpoint whose cut is ready is taken at once, and answered with its generation. -/
theorem execCkptreq_cuts (hk : s.ev.k = 0) (hm : s.ev.n % 256 ≠ 0) (ht : s.tier ≠ none)
    (hu : s.dirsUp (BitVec.ofNat 8 (s.ev.n % 256)) ≠ []) (hd : s.drain = none) (hc : s.cutReady = true) :
    execCkptreq s = .next (State.emit ((State.dropIn { s with
      inbox := s.inbox ++ [{ n := s.nextN, kind := 0x40, args := s.ev }], nextN := s.nextN + 1 } s.nextN).takeCut
        (BitVec.ofNat 8 (s.ev.n % 256))) (.answer (0 :: leBytes 4 (s.ckgen + 1).toNat))) := by
  have hok : ¬(s.ev.n % 256 = 0 ∨ s.tier.isNone = true ∨ s.dirsUp (BitVec.ofNat 8 (s.ev.n % 256)) = []) := by simp [hm, ht, hu]
  refine congrArg _ ((if_pos hk).trans ((if_neg hok).trans ?_))
  refine (if_neg ?undrained).trans ((if_neg ?ready).trans rfl)
  case undrained => simp [hd]
  case ready => exact Bool.eq_false_iff.1 (congrArg not hc)

end

/-- Settles O53: each command by its effect, where none of its refusals applies. -/
theorem manageSteps : Obligations.ManageSteps := by
  unfold Obligations.ManageSteps
  intro s e ok
  refine ⟨execTcreate_ok, ?tenant, execQueuePairSetup_pair, execQueuePairSetup_register, execQueuePairSetup_withdraw,
    fun x => execLqdestroy_ok, execTdestroy_begins, fun x => execTdestroy_ends, execTierset_ok, ?ckptreq⟩
  case tenant =>
    refine fun x hx => ⟨execTlock_ok hx, execQpbind_ok hx, fun pa hnew hw hr ha hf hn hp => ?_⟩
    have hframe := (State.frameDesc_modFrame s pa pa fun x => { x with pincnt := x.pincnt + 1, lq := true }).trans (if_pos rfl)
    refine ⟨_, newQueue e pa, execLqcreate_ok hx hnew hw hr ha hf hn hp, (Table.find?_put ..).trans (if_pos rfl), rfl, rfl, rfl, rfl,
      rfl, rfl, rfl, rfl, rfl, fun i => by simp [newQueue], congrArg FrameDesc.pincnt hframe, congrArg FrameDesc.lq hframe⟩
  case ckptreq =>
    exact fun hk hm ht hu hd hc => ⟨_, _, execCkptreq_cuts hk hm ht hu hd hc, rfl, rfl, rfl, rfl, rfl, rfl⟩

end Sys2Proof.Machine
end

section
/-! Refusals: UNREACH outside the torus, TIERSET, and NOADMIT (R34, R63, R135). -/

namespace Sys2Proof.Machine

/-- A request to a package outside the torus ends FATAL with UNREACH, and nothing leaves. -/
theorem askPeer_unreach {s : State} {w : Who} {dst type : Nat} {va : Dword} {key : List Byte} {fs : List (Nat × Nat × Nat)}
    {data : List Byte} (hp : s.pkgOk dst = false) (ha : s.answerTo w type dst (leBytes 8 va.toNat ++ key) = none) :
    askPeer w dst type va key fs data s = .error (.fatal 5 va) := by
  refine (bind_ok (a := s) (t := s) rfl).trans ?_
  simp only [ha, hp, Bool.not_false, if_true]
  rfl

/-- A guaranteed launch is not admitted when its entry is none, another tenant's, or in use. -/
theorem noAdmit_iff (s : State) (l : Launch) : s.noAdmit l = true ↔ l.cls = true ∧ (64 ≤ l.resvid ∨
    rd (s.resvEntry l.resvid) 0 2 = 0 ∨ rd (s.resvEntry l.resvid) 0 2 ≠ l.tenant.toNat ∨
    (s.resvLive.find? l.resvid).isSome = true) := by
  simp [State.noAdmit, or_assoc]

/-- A launch that earns no earlier reason is refused NOADMIT. -/
theorem launchReason_noAdmit {s : State} {q : LaunchQueue} {l : Launch} (hn : s.noAdmit l = true) (hk : l.kind ∈ [1, 2, 3])
    (hd : l.domain ≠ 3) (hs : l.kind = 3 → rd l.pkt 0x4C 1 ≤ 1) (hr : packetRsvd l.pkt = false) (ht : rd l.pkt 4 2 = q.tenant.toNat)
    (hseq : rd l.pkt 8 4 = l.seq.toNat) (hend : rd l.pkt 0xF8 4 = l.seq.toNat) (hl : packetLimit l = false)
    (ha : packetAlign l.pkt = false) (hw : l.waits? = true → (s.lqs.find? l.waitq).isSome = true) : s.launchReason q l = 8 := by
  have hkind : ¬(l.kind = 0 ∨ 3 < l.kind ∨ l.domain = 3 ∨ (l.kind = 3 ∧ 1 < rd l.pkt 0x4C 1)) := by
    have hmem : l.kind = 1 ∨ l.kind = 2 ∨ l.kind = 3 := by simpa using hk
    omega
  have hwait : ¬(l.waits? = true ∧ (s.lqs.find? l.waitq).isNone = true) := fun ⟨hset, hnone⟩ => by
    simpa [Option.isNone_iff_eq_none.1 hnone] using hw hset
  simp only [State.launchReason, hkind, hr, ht, hseq, hend, hl, ha, hwait, hn, ne_eq, not_true_eq_false, or_self,
    Bool.false_eq_true, if_false, if_true]

/-- Settles O60: the torus by the coordinates that a package id has, TIERSET by its refusals in their order, and NOADMIT as the last
reason of a packet that is otherwise good. -/
theorem refusals : Obligations.Refusals := by
  unfold Obligations.Refusals
  intro s w pkg type va key fs data q l inTorus e entry refused
  have hout {p : Nat} (h : ¬inTorus p) : s.pkgOk p = false := Bool.eq_false_iff.2 fun hp => h ((pkgOk_iff s p).1 hp)
  have hin {p : Nat} (h : inTorus p) : s.pkgOk p = true := (pkgOk_iff s p).2 h
  exact ⟨fun hp => askPeer_unreach (hout hp), fun h => execTierset_badarg (h.imp_right (Or.imp_left hout)),
    fun hb hp ha => execTierset_busy hb (hin hp) ha, fun hb hp ha => execTierset_ok hb (hin hp) ha, noAdmit_iff s l,
    fun h => launchReason_noAdmit ((noAdmit_iff s l).2 h)⟩

end Sys2Proof.Machine
end

section
/-! Steps of the stream scheduler, the Trick unit and the Cast unit (R46, R160–R162, R168–R177, R183, R196). -/

namespace Sys2Proof.Machine

/-! ### A request packet names its packages (R29) -/

theorem length_wr {r : List Byte} {off n v : Nat} (h : off + n ≤ r.length) : (wr r off n v).length = r.length := by
  simp only [wr, List.length_append, List.length_take, List.length_drop, Laws.length_leBytes]
  omega

/-- A field that is written leaves the bytes before it. -/
theorem take_wr {r : List Byte} {m off n v : Nat} (hm : m ≤ off) (h : off ≤ r.length) : (wr r off n v).take m = r.take m := by
  have hlen : (r.take off).length = off := by simpa using h
  rw [wr, List.append_assoc, List.take_append_of_le_length (by omega), List.take_take, Nat.min_eq_left hm]

/-- The type-specific fields leave the first twelve bytes of a header. -/
theorem take_packetHead {type len cls die dst src tag : Nat} {tenant : Half} {fs : List (Nat × Nat × Nat)}
    (hfs : ∀ f ∈ fs, 12 ≤ f.1 ∧ f.1 + f.2.1 ≤ 64) :
    (packetHead type len cls die dst src tenant tag fs).take 12 = leBytes 1 type ++ leBytes 1 len ++ leBytes 1 (die * 8 + cls) ++
      [0] ++ leBytes 2 dst ++ leBytes 2 src ++ leBytes 2 tenant.toNat ++ leBytes 2 tag := by
  refine (List.foldlRecOn (motive := fun (h : List Byte) => h.length = 64 ∧ h.take 12 = _) fs _ ?_ fun h hh f hf => ?_).2
  · have hlen : ∀ n v, (leBytes n v).length = n := Laws.length_leBytes
    constructor
    · simp [hlen]
    · rw [List.take_left' (by simp [hlen])]
  obtain ⟨hlen, htake⟩ := hh
  obtain ⟨hlo, hhi⟩ := hfs f hf
  exact ⟨(length_wr (by omega)).trans hlen, (take_wr hlo (by omega)).trans htake⟩

/-- A field among the first bytes of a header is read from them. -/
theorem rd_take {r : List Byte} {m off n : Nat} (h : off + n ≤ m) : rd (r.take m) off n = rd r off n := by
  rw [rd, rd, List.drop_take, List.take_take, Nat.min_eq_left (by omega)]

section
variable {type len cls die dst src tag : Nat} {tenant : Half} {fs : List (Nat × Nat × Nat)} {data : List Byte}
  (hfs : ∀ f ∈ fs, 12 ≤ f.1 ∧ f.1 + f.2.1 ≤ 64)
include hfs

theorem dst_packetHead (hd : dst < 65536) : Packet.dst ⟨packetHead type len cls die dst src tenant tag fs, data⟩ = dst := by
  rw [Packet.dst, ← rd_take (m := 12) (by decide), take_packetHead hfs]
  simp [rd, leBytes, leNat]
  omega

theorem src_packetHead (hs : src < 65536) : Packet.src ⟨packetHead type len cls die dst src tenant tag fs, data⟩ = src := by
  rw [Packet.src, ← rd_take (m := 12) (by decide), take_packetHead hfs]
  simp [rd, leBytes, leNat]
  omega

end

/-! ### Routes (R20–R23, R27) -/

section
variable {s : State}

/-- A direction in service has a port for any packet. -/
theorem portOf_isSome {d : Nat} (hd : s.dirUp d = true) (f : Nat) : (s.portOf d f).isSome = true := by
  have hne : s.linkup.toNat / 2 ^ (8 * d) % 2 ^ 8 ≠ 0 := by simpa [State.dirUp] using hd
  obtain ⟨i, hi⟩ := Nat.exists_testBit_of_ne_zero hne
  rw [Nat.testBit_mod_two_pow, Nat.testBit_div_two_pow, Nat.add_comm] at hi
  obtain ⟨hlt, hbit⟩ : i < 8 ∧ s.linkup.getLsbD (8 * d + i) = true := by simpa [BitVec.getLsbD] using hi
  refine List.find?_isSome.2 ⟨i, List.mem_map.2 ⟨(i + 8 - f % 8) % 8, ?_, ?_⟩, hbit⟩
  · simpa using Nat.mod_lt _ (by decide)
  · omega

/-- Package ids that differ do so in a coordinate. -/
theorem exists_coordOf_ne {a b : Nat} (ha : a < 65536) (hb : b < 65536) (h : a ≠ b) :
    ∃ i ∈ [0, 1, 2, 3], coordOf a i ≠ coordOf b i := by
  by_contra hall
  push Not at hall
  simp only [coordOf, List.forall_mem_cons, List.not_mem_nil, false_implies, implies_true] at hall
  omega

theorem coordOf_lt_dim {p i : Nat} (hp : s.pkgOk p = true) (hi : i ∈ [0, 1, 2, 3]) : coordOf p i < s.dim i := by
  obtain ⟨h0, h1, h2, h3⟩ := (pkgOk_iff s p).1 hp
  simp only [List.mem_cons, List.not_mem_nil, or_false] at hi
  obtain rfl | rfl | rfl | rfl := hi
  · simpa [coordOf, State.dim] using h0
  · simpa [coordOf, State.dim] using h1
  · simpa [coordOf, State.dim] using h2
  · simpa [coordOf, State.dim] using h3

/-- Between two packages that differ in a dimension, a direction of it is given. -/
theorem dirOf_of_coordOf_ne {a b i : Nat} (ha : s.pkgOk a = true) (hb : s.pkgOk b = true) (hi : i ∈ [0, 1, 2, 3])
    (h : coordOf b i ≠ coordOf a i) : ∃ d < 8, s.dirOf a b i = some d := by
  have hla := coordOf_lt_dim ha hi
  have hlb := coordOf_lt_dim hb hi
  have hi4 : i < 4 := List.mem_range.1 (show i ∈ List.range 4 from hi)
  have hdelta : (coordOf b i + s.dim i - coordOf a i) % s.dim i ≠ 0 := by
    rcases Nat.lt_or_gt_of_ne h with hlt | hgt
    · rw [Nat.mod_eq_of_lt (by omega)]; omega
    · rw [show coordOf b i + s.dim i - coordOf a i = coordOf b i - coordOf a i + s.dim i by omega, Nat.add_mod_right,
        Nat.mod_eq_of_lt (by omega)]
      omega
  simp only [State.dirOf, hdelta, if_false]
  split
  · exact ⟨2 * i, by omega, rfl⟩
  · exact ⟨2 * i + 1, by omega, rfl⟩

/-- Another package of the torus, while every direction has a port in service. -/
structure State.Reaches (s : State) (dst : Nat) : Prop where
  inTorus : s.pkgOk dst = true
  isId : dst < 65536
  ownInTorus : s.pkgOk s.pkgid.toNat = true
  other : dst ≠ s.pkgid.toNat
  up : ∀ d < 8, s.dirUp d = true

/-- What a package reaches depends on its links, its id and the torus. -/
theorem State.Reaches.congr {t : State} {dst : Nat} (h : s.Reaches dst) (ht : t.torus = s.torus) (hp : t.pkgid = s.pkgid)
    (hl : t.linkup = s.linkup) : t.Reaches dst where
  inTorus := by simpa only [State.pkgOk, ht] using h.inTorus
  isId := h.isId
  ownInTorus := by simpa only [State.pkgOk, ht, hp] using h.ownInTorus
  other := hp ▸ h.other
  up := by simpa only [State.dirUp, hl] using h.up

/-- A packet from here to a package that is reached has a hop. -/
theorem hop_isSome {p : Packet} (h : s.Reaches (Packet.dst p)) (hsrc : Packet.src p = s.pkgid.toNat) :
    (s.hop none none p).isSome = true := by
  obtain ⟨i, hi⟩ : ∃ i, s.nextDim (Packet.dst p) = some i := by
    refine Option.isSome_iff_exists.1 (List.find?_isSome.2 ?_)
    simpa using exists_coordOf_ne h.isId s.pkgid.isLt h.other
  have hmem : i ∈ [0, 1, 2, 3] := List.mem_of_find?_eq_some hi
  have hdiff : coordOf (Packet.dst p) i ≠ coordOf s.pkgid.toNat i := by simpa using List.find?_some hi
  obtain ⟨d, hd, hdir⟩ := dirOf_of_coordOf_ne h.ownInTorus h.inTorus hmem hdiff
  have hroute : s.route none p = some d := by simp [State.route, hi, hsrc, hdir, onward, h.up d hd]
  obtain ⟨o, ho⟩ := Option.isSome_iff_exists.1 (portOf_isSome (h.up d hd) (Packet.fold p))
  simp [State.hop, hroute, ho]

/-! ### A packet that enters idle links -/

/-- From `s` to `t` no transfer changes, and of the requests at most when their time starts (R33). -/
def LinksKeep (s t : State) : Prop :=
  t.moves = s.moves ∧ ∃ f : Request → Nat, t.requests = s.requests.map fun r => { r with since := f r }

theorem LinksKeep.of_eq {t : State} (hm : t.moves = s.moves) (hr : t.requests = s.requests) : LinksKeep s t :=
  ⟨hm, fun r => r.since, by simp [hr]⟩

@[simp] theorem State.giveBack_moves (s : State) (l : Option (Nat × Nat × Nat)) (n : Nat) : (s.giveBack l n).moves = s.moves := by
  cases l <;> rfl
@[simp] theorem State.giveBack_requests (s : State) (l : Option (Nat × Nat × Nat)) (n : Nat) :
    (s.giveBack l n).requests = s.requests := by cases l <;> rfl

/-- The time of a request starts when its packet departs. -/
theorem depart_keeps (e : Egress) (d o : Nat) (q : Packet) : LinksKeep s (s.depart_ e d o q) := by
  by_cases h : Packet.cls q = 0 ∧ Packet.type q ≠ 2 ∧ e.link = none
  · refine ⟨by simp [State.depart_], fun r =>
      if r.die = Packet.srcDie q ∧ r.tag = Packet.tag q ∧ r.dst < 65536 then s.timer.toNat else r.since, ?_⟩
    simp only [State.depart_, State.giveBack_requests, State.emit_requests, if_pos h]
    refine List.map_congr_left fun r _ => ?_
    split
    · rfl
    · rfl
  · exact .of_eq (by simp [State.depart_]) (by simp [State.depart_, h])

/-- A packet that has a hop leaves, or waits for credits, and nothing is answered. -/
theorem flushLinks_keeps {e : Egress} (he : s.egress = [e]) (hh : (s.hopOf e).isSome = true) : LinksKeep s s.flushLinks := by
  obtain ⟨⟨d, o, q⟩, hhop⟩ := Option.isSome_iff_exists.1 hh
  have hsame (l : List Egress) : State.hopOf { s with egress := l } e = some (d, o, q) := hhop
  unfold State.flushLinks
  split
  · exact .of_eq rfl rfl
  simp only [he, List.filter_cons, hhop, Option.isNone_some, Option.isSome_some, Bool.false_eq_true, if_false, if_true,
    List.filter_nil, List.foldl_nil, State.pump, hsame]
  split
  · exact .of_eq rfl rfl
  · exact depart_keeps (s := { s with egress := [] }) ..

/-- A packet that this package sends to one that is reached enters idle links. -/
theorem sendLink_keeps {die : Nat} {p : Packet} (h : s.Reaches (Packet.dst p)) (hsrc : Packet.src p = s.pkgid.toNat)
    (he : s.egress = []) : LinksKeep s (s.sendLink die p) := by
  unfold State.sendLink State.sendOn
  rw [if_neg h.other]
  obtain ⟨hm, hr⟩ := flushLinks_keeps (s := { s with egress := s.egress ++ [⟨die, none, p⟩] }) (congrArg (· ++ _) he)
    (hop_isSome (h.congr rfl rfl rfl) hsrc)
  exact ⟨hm, hr⟩

/-- Counting a request and touching its package change neither requests nor transfers (R35, R103). -/
theorem sendPacket_keeps {die dst : Nat} {p : Packet} (h : s.Reaches dst) (he : s.egress = []) (hdst : Packet.dst p = dst)
    (hsrc : Packet.src p = s.pkgid.toNat) : LinksKeep s (s.sendPacket die dst p) := by
  subst hdst
  unfold State.sendPacket
  extract_lets z
  obtain ⟨hm, hr⟩ := sendLink_keeps (s := z) (die := die) (h.congr rfl rfl rfl) hsrc he
  exact ⟨hm, hr⟩

end

/-! ### A transfer goes on (R177) -/

section
variable {s : State} {t : Transfer} {n : Nat}

theorem move?_modMove {f : Transfer → Transfer} (ht : s.move? n = some t) (hf : ∀ x, (f x).n = x.n) :
    (s.modMove n f).move? n = some (f t) := by
  rw [← Option.map_some (f := f), ← ht]
  simp only [State.move?, State.modMove]
  induction s.moves with
  | nil => rfl
  | cons x xs ih => by_cases h : x.n = n <;> simp [h, hf, ih]

@[simp] theorem State.modMove_canTouch (s : State) (n : Nat) (f : Transfer → Transfer) (die dst : Nat) :
    (s.modMove n f).canTouch die dst = s.canTouch die dst := rfl
@[simp] theorem State.modMove_freeTags (s : State) (n : Nat) (f : Transfer → Transfer) (d k : Nat) :
    (s.modMove n f).freeTags d k = s.freeTags d k := rfl
@[simp] theorem State.modMove_requests (s : State) (n : Nat) (f : Transfer → Transfer) : (s.modMove n f).requests = s.requests := rfl

/-- The transfer begins its page again. -/
def Transfer.again (t : Transfer) : Transfer := { t with stage := 0 }
/-- The transfer has asked for its page, with a tag. -/
def Transfer.asking (g : Nat) (t : Transfer) : Transfer := { t with stage := 1, tags := [g] }

/-- After 1,024 cycles a refused transfer goes on where it was. -/
theorem moveOnce_of_refused (ht : s.move? n = some t) (hs : t.stage = 4) (hw : t.since + 1024 ≤ s.timer.toNat) :
    s.moveOnce n = s.modMove n Transfer.again := by
  simp only [State.moveOnce, ht, hs, hw, if_true]
  rfl

/-- The state in which a transfer has sent its question whether the receiver holds a page (SNAPREQ). -/
def State.snapreqOf (s : State) (t : Transfer) (g p : Nat) : State :=
  s.sendMove t 6 g [(0x10, 4, t.id), (0x14, 4, p), (0x18, 16, s.moveHash (s.movePage t p))] []

theorem moveOnce_of_page {g p : Nat} {rest : List Nat} (ht : s.move? n = some t) (hs : t.stage = 0) (hp : s.pkgOk t.peer = true)
    (hc : s.canTouch t.die t.peer = true) (hg : s.freeTags t.die 1 = [g]) (hps : t.pages = p :: rest) :
    s.moveOnce n = (s.snapreqOf t g p).modMove n (Transfer.asking g) := by
  simp only [State.moveOnce, ht, hs, hp, hc, hg, hps, Bool.not_true, Bool.false_eq_true, if_false]
  rfl

/-- A transfer that waits for an answer does nothing. -/
theorem moveOnce_of_unanswered (ht : s.move? n = some t) (hs : t.stage = 1) (ha : s.moveAnswers t = none) : s.moveOnce n = s := by
  simp only [State.moveOnce, ht, hs, ha]

/-- The request that goes with that packet. -/
def snapreqRequest (s : State) (t : Transfer) (g : Nat) : Request :=
  ⟨t.die, g, t.peer, 6, s.timer.toNat, .stream t.id, 0, leBytes 8 g, none⟩

/-- On idle links the packet enters with its request, and no transfer changes. -/
theorem snapreqOf_keeps {g p : Nat} (h : s.Reaches t.peer) (he : s.egress = []) :
    LinksKeep { s with requests := s.requests ++ [snapreqRequest s t g] } (s.snapreqOf t g p) := by
  have hfields : ∀ f ∈ [(0x10, 4, t.id), (0x14, 4, p), (0x18, 16, s.moveHash (s.movePage t p))], 12 ≤ f.1 ∧ f.1 + f.2.1 ≤ 64 := by
    simp
  exact sendPacket_keeps (s := { s with requests := s.requests ++ [snapreqRequest s t g] }) (h.congr rfl rfl rfl) he
    (dst_packetHead hfields h.isId) (src_packetHead hfields s.pkgid.isLt)

/-- The request is the first of its die and tag, and has no answer. -/
theorem moveAnswers_of_free {g : Nat} {r : Request} {rs : List Request} {f : Request → Nat} (hg : t.tags = [g])
    (hr : s.requests = (rs ++ [r]).map fun r => { r with since := f r }) (hfree : ∀ x ∈ rs, ¬(x.die = t.die ∧ x.tag = g))
    (hd : r.die = t.die) (ht : r.tag = g) (ha : r.answer = none) : s.moveAnswers t = none := by
  have hfind : rs.find? (fun x => x.die == t.die && x.tag == g) = none := by simpa using hfree
  have hlast : s.requests.find? (fun x => x.die == t.die && x.tag == g) = some { r with since := f r } := by
    rw [hr, List.find?_map, List.find?_append]
    simp [hfind, hd, ht]
  simp [State.moveAnswers, hg, hlast, ha, allSome]

theorem free_of_freeTags {d g : Nat} (hg : s.freeTags d 1 = [g]) : ∀ x ∈ s.requests, ¬(x.die = d ∧ x.tag = g) := by
  have hmem : g ∈ s.freeTags d 1 := hg ▸ List.mem_singleton_self g
  have hfree := (List.mem_filter.1 (List.mem_of_mem_take hmem)).2
  simpa using hfree

/-- A transfer that begins a page asks for it, and waits for the answer. -/
theorem moveOnce_asks {g p : Nat} {rest : List Nat} (ht : s.move? n = some t) (hs : t.stage = 0) (hr : s.Reaches t.peer)
    (hc : s.canTouch t.die t.peer = true) (hg : s.freeTags t.die 1 = [g]) (hp : t.pages = p :: rest) (he : s.egress = []) :
    ∃ u, s.moveOnce n = u ∧ u.moveOnce n = u ∧ u.move? n = some (t.asking g) ∧
      ∃ r ∈ u.requests, r.die = t.die ∧ r.tag = g ∧ r.answer = none := by
  obtain ⟨hmoves, f, hreq⟩ := snapreqOf_keeps (g := g) (p := p) hr he
  have hkept : (s.snapreqOf t g p).move? n = some t := by rw [State.move?, hmoves]; exact ht
  have hasked := move?_modMove (f := Transfer.asking g) hkept fun _ => rfl
  rw [← State.modMove_requests _ n (Transfer.asking g)] at hreq
  have hnone := moveAnswers_of_free (t := t.asking g) rfl hreq (free_of_freeTags hg) rfl rfl rfl
  refine ⟨_, moveOnce_of_page ht hs hr.inTorus hc hg hp, moveOnce_of_unanswered hasked rfl hnone, hasked,
    { snapreqRequest s t g with since := f (snapreqRequest s t g) }, ?_, rfl, rfl, rfl⟩
  exact hreq ▸ List.mem_map_of_mem (List.mem_append_right _ (List.mem_singleton_self _))

/-- After its time a refused transfer asks again, and waits for the answer. -/
theorem moveStep_of_refused {g p : Nat} {rest : List Nat} (ht : s.move? n = some t) (hs : t.stage = 4)
    (hw : t.since + 1024 ≤ s.timer.toNat) (hr : s.Reaches t.peer) (hc : s.canTouch t.die t.peer = true) (hg : s.freeTags t.die 1 = [g])
    (hp : t.pages = p :: rest) (he : s.egress = []) :
    ((s.moveStep n).move? n).map (fun x => (x.stage, x.tags)) = some (1, [g]) ∧
      ∃ r ∈ (s.moveStep n).requests, r.die = t.die ∧ r.tag = g ∧ r.answer = none := by
  have hbegun := move?_modMove (f := Transfer.again) ht fun _ => rfl
  obtain ⟨u, hask, hwait, hasked, hreq⟩ := moveOnce_asks hbegun rfl (hr.congr rfl rfl rfl)
    ((State.modMove_canTouch ..).trans hc) ((State.modMove_freeTags ..).trans hg) hp he
  have hstep : s.moveStep n = u := by rw [State.moveStep, moveOnce_of_refused ht hs hw, hask, hwait, hwait]
  rw [hstep, hasked]
  exact ⟨rfl, hreq⟩

end

/-! ### Eviction and restore (R172–R175) -/

section
variable {s : State}

theorem scbs_ne_nil_of_victim {d id : Nat} {skip : List Nat} (h : s.victim d skip = some id) : s.scbs ≠ [] := by
  intro hnil
  simp [State.victim, hnil] at h

section
variable {d high id n : Nat} {migrate : State → Nat → Nat → State} {skip : List Nat} {r : EvictRound}

/-- A round is over at HIGH, or without a candidate. -/
theorem evictRound_over (h : high ≤ r.st.freeFrames d ∨ r.st.victim d skip = none) :
    State.evictRound d high migrate n skip r = r := by
  cases n with
  | zero => rfl
  | succ n =>
    unfold State.evictRound
    split
    · rfl
    · rw [h.resolve_left ‹_›]

section
variable (hf : r.st.freeFrames d < high) (hv : r.st.victim d skip = some id)
include hf hv

/-- A victim with a write on its way ends the steps of the turn. -/
theorem evictRound_of_busy (hq : r.st.evictQuiet id = false) :
    State.evictRound d high migrate (n + 1) skip r = { r with more := true } := by
  simp only [State.evictRound, Nat.not_le.2 hf, hv, hq, Bool.not_false, if_false, if_true]

/-- A quiet victim is evicted, and the round goes on without it. -/
theorem evictRound_of_evicted {t : State} (hq : r.st.evictQuiet id = true) (he : r.st.evict d id migrate = some t) :
    State.evictRound d high migrate (n + 1) skip r =
      State.evictRound d high migrate n (id :: skip) { r with st := t, pages := r.pages + (r.st.exclusivePool id).length } := by
  simp only [State.evictRound, Nat.not_le.2 hf, hv, hq, he, Bool.not_true, Bool.false_eq_true, if_false]

end

end

section
variable {id : Nat}
  (hdue : s.freeFrames s.ev.who < bits (s.die s.ev.who).evlow 31 0 ∨ (s.die s.ev.who).round = true)
  (hf : s.freeFrames s.ev.who < bits (s.die s.ev.who).evlow 63 32) (hv : s.victim s.ev.who [] = some id)
include hdue hf hv

/-- A round whose first victim is its last is over once that is evicted. -/
theorem execEvictionRound_evicts {t : State} (hq : s.evictQuiet id = true) (he : s.evict s.ev.who id State.evictMove = some t)
    (hend : bits (s.die s.ev.who).evlow 63 32 ≤ t.freeFrames s.ev.who ∨ t.victim s.ev.who [id] = none) :
    execEvictionRound s = .next (t.modDie s.ev.who fun x => { x with round := false }) := by
  obtain ⟨n, hn⟩ := Nat.exists_eq_succ_of_ne_zero (List.length_eq_zero_iff.not.2 (scbs_ne_nil_of_victim hv))
  refine congrArg _ ((if_pos hdue).trans ?_)
  simp only [hn, evictRound_of_evicted (r := ⟨s, 0, false⟩) hf hv hq he]
  rw [evictRound_over (by exact hend)]

/-- A round whose victim has a write on its way goes on with it in another step. -/
theorem execEvictionRound_waits (hq : s.evictQuiet id = false) :
    execEvictionRound s = .next (s.modDie s.ev.who fun x => { x with round := true }) := by
  obtain ⟨n, hn⟩ := Nat.exists_eq_succ_of_ne_zero (List.length_eq_zero_iff.not.2 (scbs_ne_nil_of_victim hv))
  refine congrArg _ ((if_pos hdue).trans ?_)
  simp only [hn, evictRound_of_busy (r := ⟨s, 0, false⟩) hf hv hq]

end

/-- The oldest eviction is restored while the free frames stay at HIGH and would remain above LOW. -/
theorem execStreamRestoreSelf_of_room {id n : Nat} {rest : List Nat} {u : State} (he : (s.die s.ev.who).evicted = id :: rest)
    (hh : bits (s.die s.ev.who).evlow 63 32 ≤ s.freeFrames s.ev.who)
    (hl : bits (s.die s.ev.who).evlow 31 0 + s.awayLeaves id < s.freeFrames s.ev.who)
    (hr : restoreM (whoUnit s.ev.who (scbTenant (s.scb id)) (.stream id) 0) id s = .ok (n, u)) :
    execStreamRestoreSelf s = .next ((u.dropFault (.stream id)).dropRequests (.stream id)) := by
  simp only [execStreamRestoreSelf, he, hh, hl, and_self, if_true]
  exact congrArg _ (runM_ok (bind_ok hr))

/-! ### Batches (R161, R162) -/

/-- A due group becomes a batch, whose list and card are written. -/
theorem execBatchForm_of_due {t : Task} {u : State} (hn : s.formingTask s.ev.who s.ev.n s.ev.m = none)
    (ht : (s.beginBatch s.ev.who s.ev.n s.ev.m).formingTask s.ev.who s.ev.n s.ev.m = some t)
    (hw : writeBatch t (s.beginBatch s.ev.who s.ev.n s.ev.m) = .ok ((), u)) : execBatchForm s = .next u := by
  simp only [execBatchForm, hn, Option.isSome_none, Bool.false_eq_true, if_false, ht]
  exact congrArg _ (runM_ok hw)

/-! ### Sibling groups (R168–R170) -/

theorem kind_of_msg? {n kind : Nat} {m : Msg} (h : s.msg? n kind = some m) : m.kind = kind := by
  have hm : m.n = n ∧ m.kind = kind := by simpa using List.find?_some h
  exact hm.2

section
variable {m : Msg} {g : Group}

/-- The record of a resolution is written. -/
theorem resolveM_writes {ws : List Nat} {u : State} (hs : m.since = 0)
    (hw : writeMem (whoUnit (m.mbox / 2 ^ 30) g.tenant (.device m.n) m.n) (dw (rd g.img 0x10 8)) m.bytes 5 s = .ok (ws, u)) :
    resolveM m g s = .ok ((), { (u.dropFault (.device m.n)).dropRequests (.device m.n) with
      msgs := u.msgs.map fun (x : Msg) => if x.n = m.n then { x with since := 1 } else x }) := by
  simp only [resolveM, hs, if_true]
  exact bind_ok hw

section
variable (hfirst : s.firstForGroup m = true) (hg : s.group? m.mbox = some g)
include hfirst hg

/-- A member's standing reaches its group. -/
theorem execGroupMemberUpdate_of_member (hm : s.msg? s.ev.who 5 = some m) :
    execGroupMemberUpdate s = .next (({ s.dropMsg m.n with
      groups := s.groups.put m.mbox (g.update m.src true (m.since % 2 == 1) (2 ≤ m.since)) }).checkGroup m.mbox) := by
  simp only [execGroupMemberUpdate, hm, Option.some_or, hfirst, hg, kind_of_msg? hm, Bool.not_true, Bool.false_eq_true,
    if_false, if_true]

theorem execGroupMemberUpdate_of_resolution {u : State} (hnone : s.msg? s.ev.who 5 = none) (hm : s.msg? s.ev.who 6 = some m)
    (hr : resolveM m g s = .ok ((), u)) : execGroupMemberUpdate s = .next u := by
  simp only [execGroupMemberUpdate, hnone, Option.none_or, hm, hfirst, hg, kind_of_msg? hm, Nat.reduceEqDiff, Bool.not_true,
    Bool.false_eq_true, if_false]
  exact congrArg _ (runM_ok hr)

end

end

/-! ### Transfers, models and the Cast unit (R46, R160, R183, R196) -/

/-- After 2^27 cycles without a packet an arriving transfer is discarded. -/
theorem execTransferDiscard_of_old {t : Transfer} (ht : s.arrivals.find? (fun t => decide (t.n = s.ev.who)) = some t)
    (hw : t.since + 2 ^ 27 ≤ s.timer.toNat) :
    let u := { s with arrivals := s.arrivals.filter fun (x : Transfer) => x.n ≠ t.n }
    execTransferDiscard s = .next (if t.root = 0 then u else State.lowerNode 3 u t.root) := by
  simp only [execTransferDiscard, ht, hw, if_true]

theorem modify_ok (f : State → State) (s : State) : (modify f : M Unit) s = .ok ((), f s) := rfl

/-- A good model entry is written, or the model withdrawn. -/
theorem execModelEntryWrite_ok {v : Dword} {e : List Byte} {a : State} (hc : s.cmd? s.ev.who 0x092 = some v) (hv : bits v 63 62 = 0)
    (hr : readMem (s.whoSlot s.ev.who (.issue s.ev.who)) (keepBits (v <<< 6) 55 6) 64 0 s = .ok (e, a))
    (hm : a.modelResult (bits v 57 50) e = 0) :
    execModelEntryWrite s = .next ((((if rd e 0 2 = 0 then { a with models := a.models.del (bits v 57 50) }
        else { a with models := a.models.put (bits v 57 50) e } : State).modDie (dieOf s.ev.who) fun d =>
      { d with strmRes := 0 }).answered s.ev.who).finishCmd s.ev.who) := by
  simp only [execModelEntryWrite, hc, hv, ne_eq, not_true_eq_false, if_false]
  refine congrArg _ (runCmd_ok ((bind_ok (a := s) (t := s) rfl).trans ((bind_ok hr).trans ?_)))
  refine (modify_ok ..).trans ?_
  rw [hm, if_neg (not_not.2 rfl)]
  by_cases h : rd e 0 2 = 0
  · rw [if_pos h, if_pos h]
  · rw [if_neg h, if_neg h]

theorem execCastInvalidate_of_written {f : Nat} {rest : List Nat} (hf : (s.die s.ev.who).inval = f :: rest) :
    execCastInvalidate s = .next ((s.watch.getD (f / 65536) []).foldl
      (fun (t : State) w => if w % 2 = 0 then t.modTask (w / 2) fun x => { x with taint := true } else t.castFree (w / 2))
      { s.modDie s.ev.who fun x => { x with inval := rest } with watch := s.watch.del (f / 65536) }) := by
  simp only [execCastInvalidate, hf]
  rfl

end

/-- Settles O46: each step by what its function does in the case that the clause names; a refused transfer that asks again waits, as
the packet enters the links or stands before them, and nothing answers it. -/
theorem streamSteps : Obligations.StreamSteps := by
  unfold Obligations.StreamSteps
  rintro s _ rfl
  refine ⟨fun j t u hn _ _ _ => execBatchForm_of_due hn, fun m g hm hfirst hg => execGroupMemberUpdate_of_member hfirst hg hm,
    ?resolution, ?eviction, fun id rest n u => execStreamRestoreSelf_of_room, ?retry, fun t => execTransferDiscard_of_old,
    fun v e a => execModelEntryWrite_ok, fun f rest => execCastInvalidate_of_written⟩
  case resolution =>
    exact fun m g ws u hnone hm hfirst hg hs hw => execGroupMemberUpdate_of_resolution hfirst hg hnone hm (resolveM_writes hs hw)
  case eviction =>
    exact fun id hdue hf hv => ⟨fun t => execEvictionRound_evicts hdue hf hv, execEvictionRound_waits hdue hf hv⟩
  case retry =>
    intro t g p rest ht hs hw hpeer hc hg hp hup hlt hown hne he
    obtain ⟨hmove, r, hr⟩ := moveStep_of_refused ht hs hw ⟨hpeer, hlt, hown, hne, hup⟩ hc hg hp he
    exact ⟨_, r, rfl, hmove, hr⟩

end Sys2Proof.Machine
end

section
/-! The course of a launch: a packet is taken, its shares start and end on the dies, and its completion (R49, R54–R57, R114–R116,
R122, R156, R157). -/

namespace Sys2Proof.Machine

section
variable {s : State}

/-! ### Taking a packet (R49, R54) -/

/-- A tenant for which no TDESTROY waits is not being destroyed. -/
theorem dying_eq_false {t : Half} (h : ∀ e ∈ s.inbox, e.kind = 0x41 → e.args.id ≠ t) : s.dying t = false := by
  simpa [State.dying] using h

/-- The packet in an armed slot becomes a launch with the reason that it earns, and its queue goes on to the next slot. -/
theorem execLaunchUnitTake_of_armed {x : LaunchQueue} {f : Nat} {fs : List Nat} (hx : s.lqs.find? s.ev.who = some x)
    (hf : x.frames = f :: fs) (ha : x.arms.getD x.head false = true) (hd : s.dying x.tenant = false) :
    let l := newLaunch s s.ev.who x (s.readHome (f + 256 * x.head) 256) (homeDie f)
    let r := s.launchReason x l
    execLaunchUnitTake s = .next (State.retireLaunches { s with
      lqs := s.lqs.put s.ev.who { x with
        arms := x.arms.set x.head false, head := (x.head + 1) % x.depth
        expseq := if x.expseq = 0xFFFFFFFF then 1 else x.expseq + 1 }
      launches := s.launches ++ [{ l with reason := r, done := r != 0, aborted := false }]
      nextN := s.nextN + 1
      resvLive := if r = 0 ∧ l.cls = true then s.resvLive.put l.resvid l.n else s.resvLive } s.ev.who) := by
  simp only [execLaunchUnitTake, hx, hf, ha, hd, Bool.not_true, Bool.false_eq_true, if_false, Bool.not_false, and_true]
  rfl

/-! ### A launch's share of a die (R55, R114–R116, R122, R156, R157) -/

section
variable {l : Launch} (hl : s.launch? s.ev.n = some l) (ha : l.aborted = false)
include hl ha

/-- A launch that may start on a die starts its share there. -/
theorem launchStep_starts {kind : Nat} {go : Launch → State → State} (hk : l.kind = kind) (hs : l.started.contains s.ev.who = false)
    (hc : s.canStartLaunch s.ev.who l = true) :
    launchStep kind go s = go { l with started := l.started ++ [s.ev.who] } (s.startLaunch s.ev.who l) := by
  simp only [launchStep, hl, ha, hk, hs, hc, ne_eq, not_true_eq_false, Bool.false_eq_true, or_self, if_false, if_true]

/-- A share that has started goes on. -/
theorem launchStep_goes {kind : Nat} {go : Launch → State → State} (hk : l.kind = kind) (hs : l.started.contains s.ev.who = true) :
    launchStep kind go s = go l s := by
  simp only [launchStep, hl, ha, hk, hs, ne_eq, not_true_eq_false, Bool.false_eq_true, or_self, if_false, if_true]

theorem execSweepLaunchStart_starts (hk : l.kind = 1) (hs : l.started.contains s.ev.who = false)
    (hc : s.canStartLaunch s.ev.who l = true) : execSweepLaunchStart s = .next (s.startLaunch s.ev.who l) :=
  congrArg _ (launchStep_starts hl ha hk hs hc)

/-- A worker whose last strand has ended has its next one in its core's run queue. -/
theorem execSweepStrandStart_of_room {t : State} (hk : l.kind = 1) (hs : l.started.contains s.ev.who = true)
    (hw : s.ev.m < l.workers) (hc : workerCore s.ev.m / 160 = s.ev.who) (he : l.next.getD s.ev.m 0 = l.ended.getD s.ev.m 0)
    (hr : l.next.getD s.ev.m 0 < l.rounds)
    (hp : s.pushRun (workerCore s.ev.m) (l.record (l.next.getD s.ev.m 0 * l.workers + s.ev.m) (workerCore s.ev.m) s.nextN) = some t) :
    execSweepStrandStart s = .next (({ t with nextN := t.nextN + 1 } : State).modLaunch l.n fun l' => { l' with
      next := bump l'.next s.ev.m
      live := bump l'.live (l.next.getD s.ev.m 0 * l.workers + s.ev.m)
      held := l'.held.del s.ev.m }) := by
  simp only [execSweepStrandStart, hl, hk, ha, hs, hc, ← he, hp, Nat.not_le.2 hw, Nat.not_le.2 hr, ne_eq, not_true_eq_false,
    Bool.not_true, Bool.false_eq_true, or_self, if_false]

/-- The next card of a GRAPH launch is dealt with. -/
theorem execGraphLaunchStart_of_card {u : State} (hk : l.kind = 2) (hs : l.started.contains s.ev.who = true)
    (hi : l.step.getD s.ev.who 0 < l.entries)
    (hg : graphCard s.ev.who l (dw (rd l.pkt 0x40 8 + 128 * l.step.getD s.ev.who 0)) s = .ok ((), u)) :
    execGraphLaunchStart s = .next (u.nextEntry s.ev.who l) := by
  refine congrArg _ ((launchStep_goes hl ha hk hs).trans ((if_neg (Nat.not_le.2 hi)).trans (runM_ok ?_)))
  exact bind_ok hg

/-- The next element of a STREAMSET launch is dealt with. -/
theorem streamset_of_element {op : Nat} {u : State} (hk : l.kind = 3) (hs : l.started.contains s.ev.who = true)
    (hi : l.step.getD s.ev.who 0 < l.entries) (hop : rd l.pkt 0x4C 1 = op)
    (he : streamElement op s.ev.who l (l.step.getD s.ev.who 0) s = .ok ((), u)) :
    streamset op s = u.nextEntry s.ev.who l := by
  have hgo : ¬(rd l.pkt 0x4C 1 ≠ op ∨ l.entries ≤ l.step.getD s.ev.who 0) := by omega
  simp only [streamset, launchStep_goes hl ha hk hs, hgo, if_false]
  exact runM_ok (bind_ok he)

end

section
variable {l : Launch} {op d i : Nat} {bs : List Byte} {a u : State}
  (hr : readMem (l.who d) (dw (rd l.pkt 0x40 8 + 4 * i)) 4 4 s = .ok (bs, a))
include hr

/-- An element whose id has its home on another die is left to that die. -/
theorem streamElement_elsewhere (hd : scbHome (leNat bs) ≠ d) : streamElement op d l i s = .ok ((), a) := by
  refine (bind_ok (orFatal_ok (bind_ok hr))).trans ?_
  simp only [hd, if_false]
  rfl

/-- START of an element at home. -/
theorem streamElement_start (hd : scbHome (leNat bs) = d) (hp : startPair d l i (leNat bs) a = .ok ((), u)) :
    streamElement 0 d l i s = .ok ((), u) := by
  refine (bind_ok (orFatal_ok (bind_ok hr))).trans ?_
  simp only [hd, if_true]
  exact orFatal_ok hp

/-- ADVANCE of an element at home. -/
theorem streamElement_advance (hd : scbHome (leNat bs) = d) : streamElement 1 d l i s = .ok ((), a.advancePair d l (leNat bs)) := by
  refine (bind_ok (orFatal_ok (bind_ok hr))).trans ?_
  simp only [hd, one_ne_zero, if_true, if_false]
  rfl

end

theorem execLaunchDieDone_of_over {l : Launch} (hl : s.launch? s.ev.n = some l) (hr : l.reason = 0)
    (hf : l.finished.contains s.ev.who = false) (hd : s.shareDone s.ev.who l = true) :
    execLaunchDieDone s = .next (s.modLaunch l.n fun l => { l with finished := l.finished ++ [s.ev.who] }) := by
  simp only [execLaunchDieDone, hl, hr, hf, hd, Bool.false_eq_true, not_false_eq_true, and_self, if_true]

/-! ### Completion (R56, R57) -/

section
variable {l : Launch} (hl : s.launch? s.ev.who = some l) (hc : l.comp.toNat % 8 = 0)
include hl hc

/-- A launch whose end is due goes on with its completion. -/
theorem execLaunchComplete_of_due {u : State} (hs : l.stage ≠ 2) (hf : l.reason = 0 → 4 ≤ l.finished.length)
    (hm : completeM l s = .ok ((), u)) : execLaunchComplete s = .next u := by
  have hdue : ¬(l.stage = 2 ∨ (l.reason = 0 ∧ l.finished.length < 4)) := by
    rintro (h | ⟨hr, h⟩)
    · exact hs h
    · exact absurd (hf hr) (Nat.not_le.2 h)
  simp only [execLaunchComplete, hl, hdue, hc, ne_eq, not_true_eq_false, if_false]
  exact congrArg _ (runM_ok hm)

end

/-- Once all dies are done, the launch waits for the writes that are in flight. -/
theorem completeM_begins {l : Launch} (hr : l.reason = 0) (hs : l.stage = 0) :
    completeM l s = .ok ((), s.modLaunch l.n fun l => { l with stage := 1, waits := s.writes.map (·.n) }) := by
  refine (bind_ok (a := s) (t := s) rfl).trans ?_
  simp only [hr, hs, ne_eq, not_true_eq_false, zero_ne_one, or_self, if_false]
  rfl

/-- A round of a loop that goes through leaves the rounds after it. -/
theorem forIn_cons_ok {α : Type} {x : α} {xs : List α} {f : α → PUnit → M (ForInStep PUnit)} {s t : State}
    (h : f x ⟨⟩ s = .ok (.yield ⟨⟩, t)) : forIn (x :: xs) PUnit.unit f s = forIn xs PUnit.unit f t := by
  rw [List.forIn_cons]
  exact bind_ok h

/-- What the dies of a launch wrote to other packages has been performed, die by die. -/
def FencedAll (l : Launch) (s t : State) : Prop :=
  ∃ a b c, fenceTouched 0 (.launch l.n l.home) 0 s = .ok ((), a) ∧ fenceTouched 1 (.launch l.n l.home) 0 a = .ok ((), b) ∧
    fenceTouched 2 (.launch l.n l.home) 0 b = .ok ((), c) ∧ fenceTouched 3 (.launch l.n l.home) 0 c = .ok ((), t)

/-- Its writes performed, here and at the other packages, the launch writes its completion word and is over. -/
theorem completeM_ends {l : Launch} {t u : State} (hs : l.reason = 0 → l.stage = 1) (hw : l.waits.all s.writeDone = true)
    (hf : if l.reason = 0 then FencedAll l s t else t = s) (hc : writeComp l t = .ok ((), u)) :
    completeM l s = .ok ((), u.closeLaunch l) := by
  refine (bind_ok (a := s) (t := s) rfl).trans ?_
  have hend : l.reason ≠ 0 ∨ l.stage = 1 := or_iff_not_imp_left.2 fun h => hs (not_not.1 h)
  have hword : (do writeComp l; modify (·.closeLaunch l) : M Unit) t = .ok ((), u.closeLaunch l) := bind_ok hc
  simp only [hend, hw, if_true, Bool.not_true, Bool.false_eq_true, if_false]
  split at hf
  next hr =>
    obtain ⟨a, b, c, h0, h1, h2, h3⟩ := hf
    rw [if_pos hr]
    refine (bind_ok (a := PUnit.unit) (t := t) ?_).trans hword
    exact (forIn_cons_ok (bind_ok (orFatal_ok h0))).trans <| (forIn_cons_ok (bind_ok (orFatal_ok h1))).trans <|
      (forIn_cons_ok (bind_ok (orFatal_ok h2))).trans <| (forIn_cons_ok (bind_ok (orFatal_ok h3))).trans rfl
  next hr =>
    subst hf
    simp only [hr, if_false]
    exact hword

end

end Sys2Proof.Machine

/-! The name `launchSteps` stands for a list of steps in `Sys2Proof.Machine`, so the theorem stands one namespace further out. -/

namespace Sys2Proof
open Machine

/-- Settles O47: each step of a launch by what its function does in the case that the clause names. -/
theorem launchSteps : Obligations.LaunchSteps := by
  unfold Obligations.LaunchSteps
  rintro s _ rfl
  refine ⟨?take, ?share, fun l => execLaunchDieDone_of_over, ?complete⟩
  case take => exact fun x f fs hx hf ha hd => execLaunchUnitTake_of_armed hx hf ha (dying_eq_false hd)
  case share =>
    intro l hl ha
    refine ⟨execSweepLaunchStart_starts hl ha, fun t => execSweepStrandStart_of_room hl ha,
      fun u => execGraphLaunchStart_of_card hl ha, fun bs a hk hs hi hr => ⟨?elsewhere, ?start, ?advance⟩⟩
    case elsewhere =>
      exact fun hd hop => congrArg _ (streamset_of_element hl ha hk hs hi hop (streamElement_elsewhere hr hd))
    case start =>
      exact fun u hd hop hp => congrArg _ (streamset_of_element hl ha hk hs hi hop (streamElement_start hr hd hp))
    case advance =>
      exact fun hd hop => congrArg _ (streamset_of_element hl ha hk hs hi hop (streamElement_advance hr hd))
  case complete =>
    intro l hl hc
    refine ⟨fun hr hs hf => ?begins, fun t u hr hs hw hf hu => ?ends⟩
    case begins => exact execLaunchComplete_of_due hl hc (by omega) (fun _ => hf) (completeM_begins hr hs)
    case ends => exact execLaunchComplete_of_due hl hc hs (fun h => (hr h).2) (completeM_ends (fun h => (hr h).1) hw hf hu)

end Sys2Proof
end

section
/-! What reset leaves. -/

namespace Sys2Proof.Machine

/-- At reset no slot, core or die is listed, so each reads as its own reset value. -/
theorem slot_reset (k : Nat) : State.reset.slot k = Slot.reset k := rfl

theorem core_reset (c : Nat) : State.reset.core c = Core.reset c := rfl

theorem die_reset (d : Nat) : State.reset.die d = Die.reset := rfl

/-- Settles O4: the reset values of a slot, a core and a die, and of the local store. -/
theorem resetValues : Obligations.ResetValues := by
  unfold Obligations.ResetValues
  refine ⟨fun k => ?slots, fun c => ?cores, fun d => ?dies, fun c off => ?localStore, rfl⟩
  case slots => rw [slot_reset]; exact ⟨rfl, rfl, rfl, rfl⟩
  case cores => rw [core_reset]; exact ⟨rfl, rfl, rfl⟩
  case dies => rw [die_reset]; rfl
  case localStore => exact ⟨rfl, rfl⟩

/-- Settles O5: no memory lists an address at reset. -/
theorem resetMemoryForm : Obligations.ResetMemoryForm := ⟨rfl, rfl, rfl⟩

end Sys2Proof.Machine
end

section
/-! The canonical form of the memories, kept by every step: the rules for what may keep it, then each function of the model that
changes the state, in the order of the model's files, up to the step itself. -/

namespace Sys2Proof.Machine

/-! ### What keeps the canonical form -/

/-- The parts of the state that the canonical form speaks of. -/
abbrev State.memories (s : State) : Memory × Memory × Memory × List Write := (s.mem, s.ls, s.acc, s.writes)

/-- The canonical form speaks of nothing else in the state. -/
theorem State.MemoryForm.upd {s t : State} (h : s.MemoryForm) (e : t.memories = s.memories) : t.MemoryForm := by
  simp only [State.memories, Prod.mk.injEq] at e
  obtain ⟨hmem, hls, hacc, hwrites⟩ := e
  exact ⟨hmem ▸ h.mem, hls ▸ h.ls, hacc ▸ h.acc, hwrites ▸ h.frames⟩

/-- A frame's range replaced in the view of every die. -/
theorem wf_replaceViews {m img : Memory} {n : Nat} {lo : Nat → Nat} {ds : List Nat} (hm : m.wf = true) (hi : img.wf = true)
    (hk : ∀ c ∈ img, c.1 < n) : (ds.foldl (fun m d => replaceMem m (lo d) n img) m).wf = true := by
  induction ds generalizing m with
  | nil => exact hm
  | cons d ds ih => exact ih (wf_replaceMem _ _ hm hi hk)

theorem mem_writeByte {m : Memory} {a : Nat} {b : Byte} {c : Nat × Byte} (h : c ∈ m.writeByte a b) : c ∈ m ∨ c.1 = a := by
  unfold Memory.writeByte at h
  split at h
  · exact .inl (Table.mem_del h)
  · exact (Table.mem_put h).elim (fun e => .inr (congrArg Prod.fst e)) .inl

/-- What bytes written from an address upward list. -/
theorem mem_writeBytes {m : Memory} {a : Nat} {bs : List Byte} {c : Nat × Byte} (h : c ∈ m.writeBytes a bs) :
    c ∈ m ∨ c.1 < a + bs.length := by
  induction bs generalizing m a with
  | nil => exact .inl h
  | cons b bs ih =>
    rcases ih h with h | h
    · exact (mem_writeByte h).imp_right fun e => by simp [e]
    · exact .inr (by simpa [Nat.add_assoc, Nat.add_comm 1] using h)

/-- Bytes laid out from offset 0 are a canonical image below their length. -/
theorem wf_image {n : Nat} {bs : List Byte} (h : bs.length ≤ n) :
    (Memory.writeBytes [] 0 bs).wf = true ∧ ∀ c ∈ Memory.writeBytes [] 0 bs, c.1 < n :=
  ⟨Memory.wf_writeBytes 0 bs rfl, fun _ hc => ((mem_writeBytes hc).resolve_left List.not_mem_nil).trans_le (by simpa using h)⟩

/-- What a write in flight may carry: any bytes, and of a frame a canonical image. -/
abbrev WData.Formed (d : WData) : Prop := ∀ pa img, d = .frame pa img → img.wf = true ∧ ∀ c ∈ img, c.1 < 65536

section
variable {s t : State} (h : s.MemoryForm)
include h

/-! One memory changes, or the writes in flight do, and nothing else of these. -/

theorem State.MemoryForm.withMem (e : (t.ls, t.acc, t.writes) = (s.ls, s.acc, s.writes)) (hm : t.mem.wf = true) : t.MemoryForm := by
  simp only [Prod.mk.injEq] at e
  obtain ⟨hls, hacc, hwrites⟩ := e
  exact ⟨hm, hls ▸ h.ls, hacc ▸ h.acc, hwrites ▸ h.frames⟩

theorem State.MemoryForm.withLs (e : (t.mem, t.acc, t.writes) = (s.mem, s.acc, s.writes)) (hl : t.ls.wf = true) : t.MemoryForm := by
  simp only [Prod.mk.injEq] at e
  obtain ⟨hmem, hacc, hwrites⟩ := e
  exact ⟨hmem ▸ h.mem, hl, hacc ▸ h.acc, hwrites ▸ h.frames⟩

theorem State.MemoryForm.withAcc (e : (t.mem, t.ls, t.writes) = (s.mem, s.ls, s.writes)) (ha : t.acc.wf = true) : t.MemoryForm := by
  simp only [Prod.mk.injEq] at e
  obtain ⟨hmem, hls, hwrites⟩ := e
  exact ⟨hmem ▸ h.mem, hls ▸ h.ls, ha, hwrites ▸ h.frames⟩

theorem State.MemoryForm.withWrites (e : (t.mem, t.ls, t.acc) = (s.mem, s.ls, s.acc)) (hw : ∀ w ∈ t.writes, w.data.Formed) :
    t.MemoryForm := by
  simp only [Prod.mk.injEq] at e
  obtain ⟨hmem, hls, hacc⟩ := e
  exact ⟨hmem ▸ h.mem, hls ▸ h.ls, hacc ▸ h.acc, hw⟩

end

theorem State.MemoryForm.ite {c : Prop} [Decidable c] {a b : State} (ha : a.MemoryForm) (hb : b.MemoryForm) :
    (if c then a else b).MemoryForm := by
  split
  · exact ha
  · exact hb

theorem State.MemoryForm.foldl {α : Type} {f : State → α → State} {l : List α} {s : State} (h : s.MemoryForm)
    (hf : ∀ s a, s.MemoryForm → (f s a).MemoryForm) : (l.foldl f s).MemoryForm := by
  induction l generalizing s with
  | nil => exact h
  | cons a l ih => exact ih (hf _ _ h)

theorem formed_foldl_fst {α β : Type} {f : State × β → α → State × β} {l : List α} {r : State × β} (h : r.1.MemoryForm)
    (hf : ∀ u a, u.1.MemoryForm → (f u a).1.MemoryForm) : (l.foldl f r).1.MemoryForm := by
  induction l generalizing r with
  | nil => exact h
  | cons a l ih => exact ih (hf _ _ h)

/-- What a step leaves that stops keeps the canonical form. -/
def Stop.KeepsForm : Stop → Prop
  | .wait f => ∀ t, t.MemoryForm → (f t).MemoryForm
  | _ => True

/-- What a step that may wait gives is canonical: the state that it goes on in, or what its stop leaves. -/
def FormKept {α : Type} : Except Stop (α × State) → Prop
  | .ok r => r.2.MemoryForm
  | .error e => e.KeepsForm

/-- A step that may wait keeps the canonical form, whether it goes through or stops. -/
def KeepsForm {α : Type} (m : M α) : Prop := ∀ s, s.MemoryForm → FormKept (m s)

/-- A wait that leaves nothing behind. -/
theorem Stop.KeepsForm.plain : (Stop.wait id).KeepsForm := fun _ h => h

theorem Stop.KeepsForm.wait {f : State → State} (hf : ∀ t, t.MemoryForm → (f t).MemoryForm) : (Stop.wait f).KeepsForm := hf

theorem Stop.KeepsForm.fatal {sub : Byte} {va : Dword} : (Stop.fatal sub va).KeepsForm := trivial

theorem Stop.KeepsForm.trap {t : Trap} : (Stop.trap t).KeepsForm := trivial

/-- A wait that first does something else. -/
theorem Stop.KeepsForm.after {x : Stop} {g : State → State} (hx : x.KeepsForm) (hg : ∀ t, t.MemoryForm → (g t).MemoryForm) :
    Stop.KeepsForm (match x with | .wait f => .wait fun t => f (g t) | x => x) := by
  cases x with
  | wait f => exact fun t ht => hx _ (hg t ht)
  | fatal sub va => trivial
  | trap t => trivial

namespace KeepsForm

variable {α β : Type} {m : M α} {f : α → M β}

theorem pure {a : α} : KeepsForm (pure a) := fun _ h => h

theorem bind_ok (hm : KeepsForm m) (hf : ∀ s a t, m s = .ok (a, t) → KeepsForm (f a)) : KeepsForm (m >>= f) := by
  intro s h
  have hms := hm s h
  cases e : m s with
  | ok r =>
    obtain ⟨a, t⟩ := r
    rw [e] at hms
    rw [Machine.bind_ok e]
    exact hf s a t e t hms
  | error x =>
    rw [e] at hms
    simp only [Bind.bind, StateT.bind, Except.bind, e]
    exact hms

theorem bind (hm : KeepsForm m) (hf : ∀ a, KeepsForm (f a)) : KeepsForm (m >>= f) := hm.bind_ok fun _ a _ _ => hf a

theorem get {f : State → M β} (hf : ∀ s, s.MemoryForm → KeepsForm (f s)) : KeepsForm (get >>= f) := fun s h => hf s h s h

theorem set {t : State} (h : t.MemoryForm) : KeepsForm (set t : M PUnit) := fun _ _ => h

theorem modify {f : State → State} (hf : ∀ s, s.MemoryForm → (f s).MemoryForm) : KeepsForm (modify f : M PUnit) :=
  fun s h => hf s h

theorem throw {e : Stop} (he : e.KeepsForm) : KeepsForm (throw e : M α) := fun _ _ => he

/-- What follows a stop does not matter. -/
theorem stop {e : Stop} (he : e.KeepsForm) : KeepsForm (MonadExcept.throw e >>= f) := fun _ _ => he

theorem ite {c : Prop} [Decidable c] {a b : M α} (ha : KeepsForm a) (hb : KeepsForm b) : KeepsForm (if c then a else b) := by
  split
  · exact ha
  · exact hb

theorem map {g : α → β} (hm : KeepsForm m) : KeepsForm (g <$> m) := hm.bind fun _ => pure

theorem forIn {γ : Type} {l : List γ} {b : β} {f : γ → β → M (ForInStep β)} (hf : ∀ a b, KeepsForm (f a b)) :
    KeepsForm (forIn l b f) := by
  induction l generalizing b with
  | nil => exact pure
  | cons a l ih =>
    rw [List.forIn_cons]
    refine bind (hf a b) fun r => ?_
    cases r with
    | done b => exact pure
    | yield b => exact ih

end KeepsForm

/-- The state that an operation answers, where it answers one. -/
def SomeFormed (o : Option State) : Prop := ∀ t, o = some t → t.MemoryForm

namespace SomeFormed

variable {o : Option State} {s : State}

theorem none : SomeFormed none := fun _ e => nomatch e

theorem some (h : s.MemoryForm) : SomeFormed (some s) := fun _ e => Option.some.inj e ▸ h

theorem ite {c : Prop} [Decidable c] {a b : Option State} (ha : SomeFormed a) (hb : SomeFormed b) :
    SomeFormed (if c then a else b) := by
  split
  · exact ha
  · exact hb

theorem map {f : State → State} (ho : SomeFormed o) (hf : ∀ s, s.MemoryForm → (f s).MemoryForm) : SomeFormed (o.map f) := by
  intro t e
  obtain ⟨u, hu, rfl⟩ := Option.map_eq_some_iff.1 e
  exact hf u (ho u hu)

theorem mapPair {α : Type} {o : Option (State × α)} {f : State × α → State} (ho : ∀ r, o = Option.some r → r.1.MemoryForm)
    (hf : ∀ r, r.1.MemoryForm → (f r).MemoryForm) : SomeFormed (o.map f) := by
  intro t e
  obtain ⟨r, hr, rfl⟩ := Option.map_eq_some_iff.1 e
  exact hf r (ho r hr)

theorem mapOf {α : Type} {o : Option α} {f : α → State} (hf : ∀ a, (f a).MemoryForm) : SomeFormed (o.map f) := by
  intro t e
  obtain ⟨a, -, rfl⟩ := Option.map_eq_some_iff.1 e
  exact hf a

theorem bindOf {α : Type} {o : Option α} {f : α → Option State} (hf : ∀ a, SomeFormed (f a)) : SomeFormed (o.bind f) := by
  intro t e
  obtain ⟨a, -, ha⟩ := Option.bind_eq_some_iff.1 e
  exact hf a t ha

/-- A chain of operations that ends with the first that answers no state. -/
theorem foldl {α : Type} {f : α → State → Option State} {l : List α} (ho : SomeFormed o)
    (hf : ∀ a s, s.MemoryForm → SomeFormed (f a s)) : SomeFormed (l.foldl (fun u a => u.bind fun s => f a s) o) := by
  induction l generalizing o with
  | nil => exact ho
  | cons a l ih =>
    refine ih fun t e => ?_
    obtain ⟨u, hu, ht⟩ := Option.bind_eq_some_iff.1 e
    exact hf a u (ho u hu) t ht

end SomeFormed

theorem State.MemoryForm.getD {o : Option State} {s : State} (ho : SomeFormed o) (h : s.MemoryForm) : (o.getD s).MemoryForm := by
  cases o with
  | none => exact h
  | some t => exact ho t rfl

/-- The same where it answers something else beside the state. -/
def PairFormed {α : Type} (o : Option (State × α)) : Prop := ∀ r, o = some r → r.1.MemoryForm

namespace PairFormed

variable {α : Type} {r : State × α}

theorem none : PairFormed (none : Option (State × α)) := fun _ e => nomatch e

theorem some (h : r.1.MemoryForm) : PairFormed (some r) := fun _ e => Option.some.inj e ▸ h

theorem ite {c : Prop} [Decidable c] {a b : Option (State × α)} (ha : PairFormed a) (hb : PairFormed b) :
    PairFormed (if c then a else b) := by
  split
  · exact ha
  · exact hb

theorem map {f : State → State × α} {o : Option State} (ho : SomeFormed o) (hf : ∀ s, s.MemoryForm → (f s).1.MemoryForm) :
    PairFormed (o.map f) := by
  intro t e
  obtain ⟨u, hu, rfl⟩ := Option.map_eq_some_iff.1 e
  exact hf u (ho u hu)

theorem mapPair {β : Type} {o : Option (State × β)} {f : State × β → State × α} (ho : PairFormed o)
    (hf : ∀ r, r.1.MemoryForm → (f r).1.MemoryForm) : PairFormed (o.map f) := by
  intro t e
  obtain ⟨r, hr, rfl⟩ := Option.map_eq_some_iff.1 e
  exact hf r (ho r hr)

/-- A chain of operations that ends with the first that answers nothing. -/
theorem foldl {β : Type} {f : β → State × α → Option (State × α)} {l : List β} {o : Option (State × α)} (ho : PairFormed o)
    (hf : ∀ b r, r.1.MemoryForm → PairFormed (f b r)) : PairFormed (l.foldl (fun u b => u.bind fun r => f b r) o) := by
  induction l generalizing o with
  | nil => exact ho
  | cons b l ih =>
    refine ih fun t e => ?_
    obtain ⟨u, hu, ht⟩ := Option.bind_eq_some_iff.1 e
    exact hf b u (ho u hu) t ht

theorem mapOf {β : Type} {o : Option β} {f : β → State × α} (hf : ∀ a, (f a).1.MemoryForm) : PairFormed (o.map f) := by
  intro t e
  obtain ⟨a, -, rfl⟩ := Option.map_eq_some_iff.1 e
  exact hf a

end PairFormed

theorem State.MemoryForm.of_fst {α : Type} {p : State × α} {t : State} {a : α} (h : p.1.MemoryForm) (e : p = (t, a)) : t.MemoryForm := by
  have hp : p.1 = t := congrArg Prod.fst e
  exact hp ▸ h

/-- Whatever a step that may wait answers has this property. -/
def Answers {α : Type} (m : M α) (P : α → Prop) : Prop := ∀ s a t, m s = .ok (a, t) → P a

namespace Answers

variable {α β : Type} {m : M α} {f : α → M β} {P : β → Prop} {Q : α → Prop}

theorem any : Answers m fun _ => True := fun _ _ _ _ => trivial

theorem pure {b : β} (h : P b) : Answers (pure b) P := by
  rintro s _ _ ⟨⟩
  exact h

theorem bind (hm : Answers m Q) (hf : ∀ a, Q a → Answers (f a) P) : Answers (m >>= f) P := by
  intro s b t e
  cases em : m s with
  | ok r => exact hf r.1 (hm s r.1 r.2 em) r.2 b t ((Machine.bind_ok em).symm.trans e)
  | error x => simp [Bind.bind, StateT.bind, Except.bind, em] at e

theorem throw {e : Stop} : Answers (throw e : M β) P := fun _ _ _ h => nomatch h

theorem ite {c : Prop} [Decidable c] {a b : M β} (ha : Answers a P) (hb : Answers b P) : Answers (if c then a else b) P := by
  split
  · exact ha
  · exact hb

end Answers

/-- The answer of a step of the part keeps the canonical form. -/
def Res.Formed : Res → Prop
  | .next t => t.MemoryForm
  | _ => True

section
variable {s : State}

/-! ### State -/

theorem State.MemoryForm.reset : State.reset.MemoryForm := ⟨rfl, rfl, rfl, fun _ hw => nomatch hw⟩

/-! ### Ops -/

theorem State.MemoryForm.setSlot {k x} (h : s.MemoryForm) : (s.setSlot k x).MemoryForm := h.upd rfl

theorem State.MemoryForm.setCore {c x} (h : s.MemoryForm) : (s.setCore c x).MemoryForm := h.upd rfl

theorem State.MemoryForm.setCluster {c x} (h : s.MemoryForm) : (s.setCluster c x).MemoryForm := h.upd rfl

theorem State.MemoryForm.setDie {d x} (h : s.MemoryForm) : (s.setDie d x).MemoryForm := h.upd rfl

theorem State.MemoryForm.modSlot {k f} (h : s.MemoryForm) : (s.modSlot k f).MemoryForm := h.setSlot

theorem State.MemoryForm.modCore {c f} (h : s.MemoryForm) : (s.modCore c f).MemoryForm := h.setCore

theorem State.MemoryForm.modCluster {c f} (h : s.MemoryForm) : (s.modCluster c f).MemoryForm := h.setCluster

theorem State.MemoryForm.modDie {d f} (h : s.MemoryForm) : (s.modDie d f).MemoryForm := h.setDie

theorem State.MemoryForm.wake {c} (h : s.MemoryForm) : (s.wake c).MemoryForm := .ite h.modCore h

theorem State.MemoryForm.free (h : s.MemoryForm) : (s.free).1.MemoryForm := h.upd rfl

theorem State.MemoryForm.emit {o} (h : s.MemoryForm) : (s.emit o).MemoryForm := h.upd rfl

theorem State.MemoryForm.modQp {q f} (h : s.MemoryForm) : (s.modQp q f).MemoryForm := h.upd rfl

theorem State.MemoryForm.emitRoce {q o} (h : s.MemoryForm) : (s.emitRoce q o).MemoryForm := .ite h.modQp h.emit

theorem State.MemoryForm.sendRoce {q die tag o} (h : s.MemoryForm) : (s.sendRoce q die tag o).MemoryForm :=
  .ite h.emitRoce.modQp h

theorem State.MemoryForm.writeG {k n v} (h : s.MemoryForm) : (s.writeG k n v).MemoryForm := h.modSlot

theorem State.MemoryForm.writeP {k n b} (h : s.MemoryForm) : (s.writeP k n b).MemoryForm := h.modSlot

theorem State.MemoryForm.count {c code n} (h : s.MemoryForm) : (s.count c code n).MemoryForm := .ite h.modCore h

theorem State.MemoryForm.pokeView {d pa bs} (h : s.MemoryForm) : (s.pokeView d pa bs).MemoryForm :=
  h.withMem rfl (wf_pokeView d pa bs h.mem)

theorem State.MemoryForm.pokeAll {pa bs} (h : s.MemoryForm) : (s.pokeAll pa bs).MemoryForm :=
  h.pokeView.pokeView.pokeView.pokeView

theorem State.MemoryForm.writeLs {cl off bs} (h : s.MemoryForm) : (s.writeLs cl off bs).MemoryForm :=
  h.withLs rfl (wf_writeLs cl off bs h.ls)

theorem State.MemoryForm.storeLs {w cl off bs} (h : s.MemoryForm) : (s.storeLs w cl off bs).MemoryForm := h.writeLs.upd rfl

theorem State.MemoryForm.setFull {cl off full} (h : s.MemoryForm) : (s.setFull cl off full).MemoryForm := h.upd rfl

theorem State.MemoryForm.stampLs {w cl off n} (h : s.MemoryForm) : (s.stampLs w cl off n).MemoryForm := h.upd rfl

theorem State.MemoryForm.postWrite {die src data} (h : s.MemoryForm) (hd : data.Formed := by nofun) :
    (s.postWrite die src data).1.MemoryForm := by
  refine h.withWrites rfl fun w hw => ?_
  rcases List.mem_append.1 hw with hw | hw
  · exact h.frames w hw
  · rw [List.mem_singleton.1 hw]; exact hd

theorem State.MemoryForm.applyData {d a} (h : s.MemoryForm) (ha : a.Formed) : (s.applyData d a).MemoryForm := by
  cases a with
  | bytes pa bs => exact h.pokeView
  | frame pa img => obtain ⟨hi, hk⟩ := ha pa img rfl; exact h.withMem rfl (wf_replaceMem _ _ h.mem hi hk)
  | parts ps => exact h.foldl fun _ _ hs => hs.pokeView

theorem State.MemoryForm.modFrame {pa f} (h : s.MemoryForm) : (s.modFrame pa f).MemoryForm := h.upd rfl

theorem State.MemoryForm.modNode {pa f} (h : s.MemoryForm) : (s.modNode pa f).MemoryForm := h.upd rfl

theorem State.MemoryForm.clearWatch {pa} (h : s.MemoryForm) : (s.clearWatch pa).MemoryForm := .ite h.modFrame.modDie h

theorem State.MemoryForm.keepHash {pa bs} (h : s.MemoryForm) : (s.keepHash pa bs).MemoryForm := by
  unfold State.keepHash
  exact .ite h.modFrame h

theorem State.MemoryForm.newHash {pa img} (h : s.MemoryForm) : (s.newHash pa img).MemoryForm := by
  unfold State.newHash
  exact .ite h.modFrame h

theorem State.MemoryForm.frameHooks {data} (h : s.MemoryForm) : (s.frameHooks data).MemoryForm := by
  unfold State.frameHooks
  split
  · exact h.clearWatch.keepHash
  · exact h.clearWatch.newHash
  · exact h.foldl fun _ _ hs1 => hs1.clearWatch.keepHash.pokeView

theorem State.MemoryForm.queueWrite {key fuel pa bs} (h : s.MemoryForm) : (s.queueWrite key fuel pa bs).1.MemoryForm := by
  induction fuel generalizing s pa bs with
  | zero => exact h
  | succ fuel ih =>
    unfold State.queueWrite
    split
    · exact h
    dsimp only
    refine ih ?_
    split
    · exact h.upd rfl
    · exact h

theorem State.MemoryForm.landBytes {pa bs} (h : s.MemoryForm) : (s.landBytes pa bs).1.MemoryForm := by
  unfold State.landBytes
  split
  · exact h.queueWrite
  · exact h

theorem State.MemoryForm.landing {d} (h : s.MemoryForm) : (s.landing d).1.MemoryForm := by
  unfold State.landing
  split
  · exact h.landBytes
  · exact h
  · dsimp only
    exact formed_foldl_fst h fun _ _ hu => hu.landBytes

/-- What a home makes of a write's bytes leaves a frame as it is. -/
theorem WData.Formed.landing {d : WData} (hd : d.Formed) : (s.landing d).2.Formed := by
  cases d with
  | frame pa img => exact hd
  | bytes pa bs => nofun
  | parts ps => nofun

theorem State.MemoryForm.performWrite {w} (h : s.MemoryForm) (hw : w.data.Formed) : (s.performWrite w).MemoryForm := by
  have hs := (h.landing (d := w.data)).frameHooks (data := (s.landing w.data).2)
    |>.applyData (d := homeDie w.data.base) (hw.landing (s := s))
  refine hs.withWrites rfl fun x hx => ?_
  obtain ⟨y, hy, rfl⟩ := List.mem_map.1 hx
  split
  · exact hw.landing
  · exact hs.frames y hy

theorem State.MemoryForm.applyWrite {d w} (h : s.MemoryForm) (hw : w.data.Formed) : (s.applyWrite d w).MemoryForm := by
  have hs := h.applyData (d := d) hw
  refine hs.withWrites rfl fun x hx => ?_
  unfold State.applyWrite at hx
  dsimp only at hx
  split at hx
  · exact hs.frames x (List.mem_filter.1 hx).1
  · obtain ⟨y, hy, rfl⟩ := List.mem_map.1 hx
    split
    · exact hw
    · exact hs.frames y hy

theorem State.MemoryForm.postFaultEntry {d entry task} (h : s.MemoryForm) : (s.postFaultEntry d entry task).MemoryForm :=
  h.modDie

theorem State.MemoryForm.doubleTrap {k cause pc addr} (h : s.MemoryForm) : (s.doubleTrap k cause pc addr).MemoryForm := by
  unfold State.doubleTrap
  exact h.modSlot.postFaultEntry

theorem State.MemoryForm.writeWindow {k ds} (h : s.MemoryForm) : (s.writeWindow k ds).MemoryForm := h.writeLs

theorem State.MemoryForm.takePlain {k t} (h : s.MemoryForm) : (s.takePlain k t).MemoryForm := by
  unfold State.takePlain
  extract_lets x trnpc win trwin u v
  have hu : u.MemoryForm := .ite h h.writeWindow
  have hv : v.MemoryForm := .ite (hu.upd rfl) hu
  exact (hv.upd (by rfl)).count

theorem State.MemoryForm.takeFatal {k f} (h : s.MemoryForm) : (s.takeFatal k f).MemoryForm := by
  unfold State.takeFatal
  exact h.setSlot.writeWindow.modSlot.count

theorem State.MemoryForm.takeDue {k} (h : s.MemoryForm) : (s.takeDue k).MemoryForm := by
  unfold State.takeDue
  dsimp only
  split
  · exact .ite h.doubleTrap (.ite h.takeFatal h)
  split
  · exact .ite h.doubleTrap (.ite h.takePlain h)
  · exact h

theorem State.MemoryForm.raise {k t} (h : s.MemoryForm) : (s.raise k t).MemoryForm := h.modSlot.takeDue

theorem State.MemoryForm.postAsync {k t} (h : s.MemoryForm) : (s.postAsync k t).MemoryForm := by
  unfold State.postAsync
  exact h.modSlot

theorem State.MemoryForm.fatal {k o sub addr stay} (h : s.MemoryForm) : (s.fatal k o sub addr stay).MemoryForm :=
  h.modSlot.takeDue.wake

theorem State.MemoryForm.fatalIssue {k sub addr} (h : s.MemoryForm) : (s.fatalIssue k sub addr).MemoryForm :=
  h.modSlot.takeDue

theorem State.MemoryForm.step {p} (h : s.MemoryForm) : (Issue.step p s).MemoryForm := h.modSlot.count

theorem issue_formed {p body} (h : s.MemoryForm) (hbody : ∀ a0 a1, a0.MemoryForm → a1.MemoryForm → (body a0 a1).MemoryForm) :
    Res.Formed (issue p body s) := by
  unfold issue
  dsimp only
  split
  · exact h
  split
  · exact h.raise
  split
  · exact h.modSlot
  split
  · exact h.step
  split
  · exact h.raise
  split
  · exact .ite h.modSlot h
  split
  · exact h.raise
  · exact hbody _ _ h h.step

theorem shortG_formed {p d f} (h : s.MemoryForm) : Res.Formed (shortG p d f s) := issue_formed h (fun _ _ _ ht => ht.writeG)

theorem shortP_formed {p d f} (h : s.MemoryForm) : Res.Formed (shortP p d f s) := issue_formed h (fun _ _ _ ht => ht.writeP)

theorem State.MemoryForm.depart {before t : State} {la op dests} (ht : t.MemoryForm) :
    (before.depart t la op dests).MemoryForm := ht.upd rfl

theorem State.MemoryForm.departQueued {before t : State} {la op dests} (ht : t.MemoryForm) :
    (before.departQueued t la op dests).MemoryForm :=
  ht.depart.modSlot

theorem longOp_formed {p la dests op} (h : s.MemoryForm) : Res.Formed (longOp p la dests op s) := issue_formed h
    (fun _ _ _ ht => ht.depart)

theorem State.MemoryForm.setOut {k o} (h : s.MemoryForm) : (s.setOut k o).MemoryForm := h.modSlot

theorem State.MemoryForm.complete {k o fs} (h : s.MemoryForm) : (s.complete k o fs).MemoryForm := h.modSlot.takeDue.wake

/-! ### Launches -/

theorem State.MemoryForm.modTask {n f} (h : s.MemoryForm) : (s.modTask n f).MemoryForm := h.upd rfl

theorem State.MemoryForm.modLaunch {n f} (h : s.MemoryForm) : (s.modLaunch n f).MemoryForm := h.upd rfl

theorem State.MemoryForm.chargeWork {owner tenant d i n} (h : s.MemoryForm) : (s.chargeWork owner tenant d i n).MemoryForm :=
    by
  unfold State.chargeWork
  split
  · exact .ite h h.modDie
  · exact h

theorem State.MemoryForm.charge {k d i n} (h : s.MemoryForm) : (s.charge k d i n).MemoryForm := by
  unfold State.charge
  exact .ite h.chargeWork h

/-! ### Clock -/

theorem State.MemoryForm.countCycles {n c} (h : s.MemoryForm) : (s.countCycles n c).MemoryForm := by
  unfold State.countCycles
  exact h.count.count.count.count.count.count

theorem State.MemoryForm.chargeEngine {n m} (h : s.MemoryForm) : (s.chargeEngine n m).MemoryForm := .ite h.chargeWork h

theorem State.MemoryForm.elapse {n} (h : s.MemoryForm) : (s.elapse n).MemoryForm :=
  .ite h (((h.foldl fun _ _ hs1 => hs1.countCycles).foldl fun _ _ hs1 => hs1.chargeEngine).upd rfl)

/-! ### Links -/

theorem State.MemoryForm.giveBack {l n} (h : s.MemoryForm) : (s.giveBack l n).MemoryForm := by
  unfold State.giveBack
  split
  · exact h.emit
  · exact h

theorem State.MemoryForm.depart_ {e d o q} (h : s.MemoryForm) : (s.depart_ e d o q).MemoryForm := by
  unfold State.depart_
  exact (h.upd (by rfl)).emit.giveBack

theorem State.MemoryForm.pump {es stuck} {s : State} (h : s.MemoryForm) : (State.pump es stuck s).MemoryForm := by
  induction es generalizing stuck s with
  | nil => exact h
  | cons e es ih =>
    unfold State.pump
    split
    · exact ih (h.upd rfl)
    · dsimp only
      exact .ite (ih (h.upd rfl)) (ih h.depart_)

theorem State.MemoryForm.answerRequest {die tag status data} (h : s.MemoryForm) :
    (s.answerRequest die tag status data).MemoryForm :=
  h.upd rfl

theorem State.MemoryForm.arrivePacket {die p} (h : s.MemoryForm) : (s.arrivePacket die p).MemoryForm :=
  .ite h.answerRequest (h.upd rfl)

theorem State.MemoryForm.countSent {die dst n} (h : s.MemoryForm) : (s.countSent die dst n).MemoryForm := h.modDie

theorem State.MemoryForm.unreach {e} (h : s.MemoryForm) : (s.unreach e).MemoryForm := by
  unfold State.unreach
  exact .ite h.giveBack (.ite (.ite h.giveBack.countSent h.giveBack.countSent.answerRequest)
      (.ite h.giveBack (.ite (h.giveBack.upd rfl) h.giveBack)))

theorem State.MemoryForm.flushLinks (h : s.MemoryForm) : s.flushLinks.MemoryForm := by
  unfold State.flushLinks
  extract_lets t
  have ht : t.MemoryForm := (h.upd (by rfl)).foldl fun _ _ hs => hs.unreach
  exact .ite h (ht.upd (by rfl)).pump

theorem State.MemoryForm.sendOn {die link p} (h : s.MemoryForm) : (s.sendOn die link p).MemoryForm :=
  .ite h.giveBack.arrivePacket (h.upd (by rfl)).flushLinks

theorem State.MemoryForm.sendLink {die p} (h : s.MemoryForm) : (s.sendLink die p).MemoryForm := h.sendOn

theorem State.MemoryForm.sendVia {ds p} (h : s.MemoryForm) : SomeFormed (s.sendVia ds p) := by
  unfold State.sendVia
  split
  · exact .none
  · exact .ite (.some h.depart_) .none

theorem State.MemoryForm.holdArrival {i a} (h : s.MemoryForm) : (s.holdArrival i a).MemoryForm := .ite (h.upd rfl) h

/-! ### Trans -/

theorem State.MemoryForm.setRoot {sp pa} (h : s.MemoryForm) : (s.setRoot sp pa).MemoryForm := by
  unfold State.setRoot
  split
  · exact h.upd rfl
  · exact h.upd rfl

theorem State.MemoryForm.setEntry {pa e} (h : s.MemoryForm) : (s.setEntry pa e).MemoryForm := h.pokeAll

theorem State.MemoryForm.tlbInsert {die core root va slotPa e excl} (h : s.MemoryForm) :
    (s.tlbInsert die core root va slotPa e excl).MemoryForm := by
  unfold State.tlbInsert
  dsimp only
  split
  · exact h.upd rfl
  · exact h.upd rfl

theorem State.MemoryForm.tlbDrop {root va} (h : s.MemoryForm) : (s.tlbDrop root va).MemoryForm := h.upd rfl

theorem State.MemoryForm.clearExcl {lo n} (h : s.MemoryForm) : (s.clearExcl lo n).MemoryForm := h.upd rfl

theorem State.MemoryForm.clearExclFrame {pa} (h : s.MemoryForm) : (s.clearExclFrame pa).MemoryForm := h.upd rfl

theorem State.MemoryForm.freeFrame {pa} (h : s.MemoryForm) : (s.freeFrame pa).MemoryForm := by
  unfold State.freeFrame
  exact .ite (h.upd rfl) (.ite (h.upd rfl) (h.upd rfl))

theorem State.MemoryForm.lowerFrame {pa} (h : s.MemoryForm) : (s.lowerFrame pa).MemoryForm := by
  unfold State.lowerFrame
  exact .ite (.ite h.freeFrame h.modFrame) h.modFrame

theorem State.MemoryForm.raiseFrame {pa} (h : s.MemoryForm) : (s.raiseFrame pa).MemoryForm := h.modFrame

theorem State.MemoryForm.raiseFrames {fs} {s : State} (h : s.MemoryForm) : SomeFormed (State.raiseFrames fs s) := by
  induction fs generalizing s with
  | nil => exact .some h
  | cons f fs ih => exact .ite .none (ih (h.upd rfl))

theorem State.MemoryForm.raiseNodes {ns} {s : State} (h : s.MemoryForm) : SomeFormed (State.raiseNodes ns s) := by
  induction ns generalizing s with
  | nil => exact .some h
  | cons n ns ih => exact .ite .none (ih (h.upd rfl))

theorem State.MemoryForm.unpinFrame {pa} (h : s.MemoryForm) : (s.unpinFrame pa).MemoryForm := by
  unfold State.unpinFrame
  exact .ite h.modFrame.freeFrame h.modFrame

theorem State.MemoryForm.lowerNode {level} {s : State} {pa} (h : s.MemoryForm) : (State.lowerNode level s pa).MemoryForm := by
  induction level generalizing s pa with
  | zero => exact .ite ((h.upd (by rfl)).foldl fun _ _ hs => hs.lowerFrame) (h.upd rfl)
  | succ level ih => exact .ite ((h.upd (by rfl)).foldl fun _ _ hs => ih hs) (h.upd rfl)

theorem State.MemoryForm.setSlotNode {t pa} (h : s.MemoryForm) : (s.setSlotNode t pa).MemoryForm := by
  unfold State.setSlotNode
  split
  · exact h.setRoot
  · exact h.setEntry

theorem State.MemoryForm.raiseKids {node level} (h : s.MemoryForm) : SomeFormed (s.raiseKids node level) :=
  .ite h.raiseFrames h.raiseNodes

theorem State.MemoryForm.copyNode {t node copy level va} (h : s.MemoryForm) :
    (s.copyNode t node copy level va).MemoryForm := by
  obtain ⟨hi, hk⟩ := wf_sliceMem (viewKey (homeDie node) node) 8192 h.mem
  unfold State.copyNode
  extract_lets u v w span
  have hu : u.MemoryForm := h.withMem rfl (wf_replaceViews h.mem hi hk)
  exact hu.modNode.modNode.clearExcl.setSlotNode

theorem State.MemoryForm.startCopy {node slotPa old fresh root page} (h : s.MemoryForm) :
    (s.startCopy node slotPa old fresh root page).1.MemoryForm := by
  refine h.withWrites rfl fun w hw => ?_
  rcases List.mem_append.1 hw with hw | hw
  · exact h.frames w hw
  · rw [List.mem_singleton.1 hw]
    exact fun _ _ e => (WData.frame.inj e).2 ▸ wf_sliceMem (viewKey (homeDie old) old) 65536 h.mem

theorem State.MemoryForm.ownNode {t node level va} (h : s.MemoryForm) : (s.ownNode t node level va).1.MemoryForm := by
  unfold State.ownNode
  split
  · exact h
  split
  · exact h
  split
  · exact h
  split
  · exact h
  next u eu => exact (h.raiseKids _ eu).copyNode

theorem State.MemoryForm.slotWalkFrom {va level} {s : State} {t node} (h : s.MemoryForm) :
    (State.slotWalkFrom va level s t node).1.MemoryForm := by
  induction level generalizing s t node with
  | zero =>
    unfold State.slotWalkFrom
    split
    next e => exact h.ownNode.of_fst e
    next e => exact h.ownNode.of_fst e
  | succ level ih =>
    unfold State.slotWalkFrom
    split
    next e => exact h.ownNode.of_fst e
    next e =>
      have hs := h.ownNode.of_fst e
      dsimp only
      split
      · exact hs
      split
      · exact hs
      · exact ih hs

theorem State.MemoryForm.slotWalk {sp va} (h : s.MemoryForm) : (s.slotWalk sp va).1.MemoryForm := by
  unfold State.slotWalk
  split
  · exact h.slotWalkFrom
  · exact h

theorem State.MemoryForm.leafStep {root va slotPa node force} (h : s.MemoryForm) :
    (s.leafStep root va slotPa node force).1.MemoryForm := by
  unfold State.leafStep
  dsimp only
  split
  · exact h
  split
  · exact h
  split
  · exact h
  split
  · split
    · exact h
    · exact h.startCopy
  · exact h

theorem State.MemoryForm.writeWalk {sp va force} (h : s.MemoryForm) : (s.writeWalk sp va force).1.MemoryForm := by
  unfold State.writeWalk
  split
  next t pa node et => exact (h.slotWalk.of_fst et).leafStep
  next t kind level e et => exact (h.slotWalk.of_fst et)
  next t level node et => exact (h.slotWalk.of_fst et)
  next t node et => exact (h.slotWalk.of_fst et)
  next t et => exact (h.slotWalk.of_fst et)

theorem State.MemoryForm.noteHash {e} (h : s.MemoryForm) : (s.noteHash e).MemoryForm := by
  unfold State.noteHash
  exact .ite h.modFrame h

theorem State.MemoryForm.mapLeaf {pa e} (h : s.MemoryForm) : (s.mapLeaf pa e).MemoryForm := h.setEntry.noteHash

theorem State.MemoryForm.dropFaults {gone} (h : s.MemoryForm) : (s.dropFaults gone).MemoryForm := h.upd rfl

theorem State.MemoryForm.dropFault {r} (h : s.MemoryForm) : (s.dropFault r).MemoryForm := h.dropFaults

theorem State.MemoryForm.dropFaultAt {r va} (h : s.MemoryForm) : (s.dropFaultAt r va).MemoryForm := h.dropFaults

theorem stopFault_kept {w sp va acc size kind level e} : Stop.KeepsForm (stopFault s w sp va acc size kind level e) := by
  unfold stopFault
  split
  · exact .fatal
  split
  · exact .fatal
  · exact .wait fun _ ht => ht.upd rfl

/-- What an access leaves that waits for its fault's reply. -/
theorem stopEmpty_kept {w sp va acc size level node e} : Stop.KeepsForm (stopEmpty s w sp va acc size level node e) := by
  unfold stopEmpty
  have hx := stopFault_kept (s := s) (w := w) (sp := sp) (va := va) (acc := acc) (size := size) (kind := kPoolEmpty)
      (level := level) (e := e)
  split
  next f ef => exact .wait fun t ht => State.MemoryForm.upd ((ef ▸ hx : Stop.KeepsForm (.wait f)) t ht) rfl
  · exact hx

theorem verdict_keeps {w va} : KeepsForm (verdict w va) := by
  unfold verdict
  refine .get fun _ hs => ?_
  split
  · exact .pure
  split
  · exact .throw .plain
  · exact .bind (.set hs.dropFaultAt) fun _ => .pure
  · exact .pure
  · exact .throw .fatal

theorem State.MemoryForm.countFree {c code n} (h : s.MemoryForm) : (s.countFree c code n).MemoryForm := .ite h.free.count h

theorem State.MemoryForm.noteAccess {w acc size p} (h : s.MemoryForm) : (s.noteAccess w acc size p).MemoryForm := by
  unfold State.noteAccess
  split
  · split
    · exact h.chargeWork
    · exact h
  · exact .ite (.countFree (.ite h.charge.countFree h.charge))
        (.modSlot (.count (.countFree (.ite h.charge.countFree h.charge))))
  · exact .ite (.ite h.countFree h.countFree.countFree) (.count (.ite h.countFree h.countFree.countFree))
  · exact h

theorem atPlace_keeps {w acc size p} : KeepsForm (atPlace w acc size p) := .bind (.modify fun _ hx => hx.noteAccess) fun _ =>
    .pure

theorem placeRead_keeps {w va size acc perm} : KeepsForm (placeRead w va size acc perm) := by
  unfold placeRead
  split
  · exact atPlace_keeps
  refine .bind verdict_keeps fun _ => .get fun _ hs => ?_
  split
  · exact .throw .fatal
  refine .ite (.ite (.stop .plain) ?_) ?_
  · split
    · exact atPlace_keeps
    · exact .stop .fatal
  · dsimp only
    split
    · exact .ite (.ite (.throw stopFault_kept) atPlace_keeps) (.throw stopFault_kept)
    refine .ite (.stop .plain) ?_
    split
    · exact .throw stopFault_kept
    · exact .ite (.throw stopFault_kept) (.ite (.throw stopFault_kept)
          (.bind (.set hs.noteHash.tlbInsert) fun _ => atPlace_keeps))

theorem placeWrite_keeps {w va size acc} : KeepsForm (placeWrite w va size acc) := by
  unfold placeWrite
  split
  · exact atPlace_keeps
  refine .bind verdict_keeps fun remote => .get fun s hs => ?_
  split
  · exact .throw .fatal
  next sp a _ =>
  have hw t ht := State.MemoryForm.writeWalk (s := t) (sp := sp) (va := a) (force := remote) ht
  have hr := hw s hs
  dsimp only
  split
  · exact atPlace_keeps
  split
  · split
    · exact .bind (.set (.ite hr hr.noteHash.tlbInsert)) fun _ => atPlace_keeps
    · exact .bind (.set hr) fun _ => atPlace_keeps
  · exact .bind (.set hr) fun _ => atPlace_keeps
  · refine .ite (.throw (stopFault_kept.after hw)) ?_
    split
    · exact atPlace_keeps
    · exact .throw .fatal
  · exact .throw (stopEmpty_kept.after hw)
  · exact .throw (.wait hw)
  · exact .throw (.wait fun t ht => (hw t ht).upd rfl)
  · exact .throw .fatal

theorem State.MemoryForm.runM {m onFatal onTrap} {s : State} (h : s.MemoryForm) (hm : KeepsForm m)
    (hfatal : ∀ sub va t, t.MemoryForm → (onFatal sub va t).MemoryForm)
        (htrap : ∀ tr t, t.MemoryForm → (onTrap tr t).MemoryForm) :
    (runM m onFatal onTrap s).MemoryForm := by
  have hs := hm s h
  unfold Machine.runM
  split
  next e => rw [e] at hs; exact hs
  next e => rw [e] at hs; exact hs s h
  · exact hfatal _ _ _ h
  · exact htrap _ _ h

/-! ### Remote -/

theorem State.MemoryForm.sendPacket {die dst pkt} (h : s.MemoryForm) : (s.sendPacket die dst pkt).MemoryForm := by
  unfold State.sendPacket
  exact h.countSent.modDie.sendLink

theorem State.MemoryForm.addRequest {w tag dst opc key} (h : s.MemoryForm) : (s.addRequest w tag dst opc key).MemoryForm :=
  h.upd rfl

theorem State.MemoryForm.sendFence {die dst who tok} (h : s.MemoryForm) : (s.sendFence die dst who tok).MemoryForm := by
  unfold State.sendFence
  split
  · exact h
  · exact (h.upd (by rfl)).countSent.sendLink

theorem State.MemoryForm.fenced {die rs} (h : s.MemoryForm) : (s.fenced die rs).MemoryForm := h.modDie

theorem State.MemoryForm.relieveTouched {die} (h : s.MemoryForm) : (s.relieveTouched die).MemoryForm := by
  unfold State.relieveTouched
  split
  · split
    · exact h
    · exact .ite (h.upd (by rfl)).fenced (h.upd rfl)
  split
  · exact h
  · exact h.sendFence

theorem askPeer_keeps {w dst type va key fs data} : KeepsForm (askPeer w dst type va key fs data) := by
  unfold askPeer
  refine .get fun _ _ => ?_
  dsimp only
  split
  · split
    · exact .pure
    · exact .throw .plain
  refine .ite (.throw .fatal) (.ite (.throw (.wait fun _ ht => ht.relieveTouched)) ?_)
  split
  · exact .throw .plain
  · exact .throw (.wait fun _ ht => ht.addRequest.sendPacket)

theorem State.MemoryForm.resendRefused {r} (h : s.MemoryForm) : (s.resendRefused r).MemoryForm := h.upd rfl

theorem statusOk_keeps {w a va} : KeepsForm (statusOk w a va) :=
  .ite .pure (.ite (.throw (.wait fun _ ht => ht.resendRefused)) (.throw .fatal))

theorem tellPeer_keeps {w dst va bs} : KeepsForm (tellPeer w dst va bs) :=
  .get fun _ hs => .ite (.throw .fatal) (.ite (.throw (.wait fun _ ht => ht.relieveTouched)) (.set hs.sendPacket))

theorem askHost_keeps {w opc va len x y} : KeepsForm (askHost w opc va len x y) := by
  unfold askHost
  refine .get fun _ _ => ?_
  dsimp only
  split
  · split
    · exact statusOk_keeps
    · exact .throw .plain
  split
  · exact .throw .plain
  · exact .ite (.stop .plain) (.throw (.wait fun _ ht => ht.addRequest.sendRoce))

theorem tellHost_keeps {w va bs} : KeepsForm (tellHost w va bs) := by
  unfold tellHost
  refine .get fun _ hs => ?_
  split
  · exact .throw .plain
  · exact .set hs.addRequest.sendRoce

theorem State.MemoryForm.dropRequests {r} (h : s.MemoryForm) : (s.dropRequests r).MemoryForm := h.upd rfl

theorem readPlace_keeps {w va p n} : KeepsForm (readPlace w va p n) := by
  unfold readPlace
  split
  · exact .get fun _ _ => .ite (.stop .plain) .pure
  · exact .get fun _ _ => .pure
  · exact .bind askPeer_keeps fun _ => .bind statusOk_keeps fun _ => .pure
  · exact .bind askHost_keeps fun _ => .pure

theorem writePlace_keeps {w va p bs} : KeepsForm (writePlace w va p bs) := by
  unfold writePlace
  split
  · exact .get fun _ hs => .ite (.stop .plain) (.bind (.set hs.storeLs) fun _ => .pure)
  · exact .get fun _ hs => .ite (.stop .plain) (.bind (.set hs.postWrite) fun _ => .pure)
  · exact .bind tellPeer_keeps fun _ => .pure
  · exact .bind tellHost_keeps fun _ => .pure

theorem readMemFrom_keeps {w acc perm fuel va n} : KeepsForm (readMemFrom w acc perm fuel va n) := by
  induction fuel generalizing va n with
  | zero => exact .pure
  | succ fuel ih => exact .ite .pure (.bind placeRead_keeps fun _ => .bind readPlace_keeps fun _ => .bind ih fun _ => .pure)

theorem readMem_keeps {w va n acc} : KeepsForm (readMem w va n acc) := readMemFrom_keeps

theorem writeMemFrom_keeps {w acc fuel va bs} : KeepsForm (writeMemFrom w acc fuel va bs) := by
  induction fuel generalizing va bs with
  | zero => exact .pure
  | succ fuel ih => exact .ite .pure (.bind placeWrite_keeps fun _ => .bind writePlace_keeps fun _ => .bind ih fun _ => .pure)

theorem writeMem_keeps {w va bs acc} : KeepsForm (writeMem w va bs acc) := writeMemFrom_keeps

theorem State.MemoryForm.fatalIssued {b t : State} {dests sub addr} (ht : t.MemoryForm) :
    (b.fatalIssued t dests sub addr).MemoryForm := by
  unfold State.fatalIssued
  exact ht.modSlot.takeDue

theorem issueLater_formed {p l d body} {s : State} (h : s.MemoryForm) (hbody : ∀ b, b.MemoryForm → KeepsForm (body b)) :
    Res.Formed (issueLater p l d body s) := by
  refine issue_formed h fun b t hb ht => ?_
  have hm := hbody b hb t ht
  dsimp only
  split
  next e => rw [e] at hm; exact State.MemoryForm.upd hm rfl
  next e => rw [e] at hm; exact hm _ (ht.upd rfl)
  · exact (ht.upd (by rfl)).fatalIssued
  · exact (hb.upd (by rfl)).raise

theorem issueM_formed {p body stay} {s : State} (h : s.MemoryForm) (hbody : ∀ b, b.MemoryForm → KeepsForm (body b)) :
    Res.Formed (issueM p body stay s) := by
  refine issue_formed h fun b t hb ht => ?_
  have hm := hbody b hb t ht
  dsimp only
  split
  next e => rw [e] at hm; exact State.MemoryForm.upd hm rfl
  next e => rw [e] at hm; exact hm b hb
  · exact .ite (hb.upd (by rfl)).fatalIssue (ht.upd (by rfl)).fatalIssued
  · exact (hb.upd (by rfl)).raise

/-! ### Memory -/

theorem acquireM_keeps {k sc} : KeepsForm (acquireM k sc) := by
  unfold acquireM
  refine .get fun _ _ => .ite (.stop .plain) (.ite (.bind (.modify fun _ hx => hx.modSlot) fun _ => .ite ?_ .pure)
      (.ite ?_ .pure))
  · split
    · exact .throw (.wait fun _ ht => ht.modSlot)
    · exact .ite (.stop .plain) (.modify fun _ hx1 => hx1.modSlot)
  · split
    · exact .throw (.wait fun _ ht => ht.modSlot)
    · exact .ite (.stop .plain) (.modify fun _ hx => hx.modSlot)

theorem fenceTouched_keeps {d who tok} : KeepsForm (fenceTouched d who tok) := by
  unfold fenceTouched
  refine .get fun _ hs => .ite (.stop .plain) (.ite (.ite (.ite (.stop .plain)
      (.throw (.wait fun _ hu => hu.dropRequests.foldl fun _ _ hu1 => hu1.sendFence))) .pure) ?_)
  split
  · exact .throw .fatal
  · exact .ite (.stop .plain) (.set (hs.upd (by rfl)).fenced)

theorem settleWrites_keeps {w ws} : KeepsForm (settleWrites w ws) := by
  unfold settleWrites
  refine .get fun _ _ => .ite (.stop .plain) (.ite (.stop .plain)
      (.bind (.forIn fun _ _ => .get fun _ _ => ?_) fun _ => .pure))
  dsimp only
  split
  · exact .stop (.wait fun _ ht => ht.sendFence)
  split
  · exact .stop .plain
  · exact .ite (.stop .fatal) .pure

theorem fencePackages_keeps {k} : KeepsForm (fencePackages k) := .get fun _ _ => fenceTouched_keeps

theorem fenceM_keeps {k sc rel acq} : KeepsForm (fenceM k sc rel acq) :=
  .get fun _ _ => .ite (.stop .plain) (.ite (.bind fencePackages_keeps fun _ => .ite acquireM_keeps .pure)
      (.ite acquireM_keeps .pure))

theorem fence_formed {i g sc rel acq} {s : State} (h : s.MemoryForm) : Res.Formed (fence i g sc rel acq s) := by
  refine issue_formed h fun b t hb ht => ?_
  have hm := fenceM_keeps (k := b.focus) (sc := sc) (rel := rel) (acq := acq) t ht
  split
  next e => rw [e] at hm; exact hm
  next e => rw [e] at hm; exact hm b hb
  · exact (hb.upd (by rfl)).fatalIssue
  · exact hb.raise

theorem loadG_formed {i d b g l o size signed} (h : s.MemoryForm) : Res.Formed (loadG i d b g l o size signed s) :=
    longOp_formed h

theorem storeG_formed {i r b g l o size} (h : s.MemoryForm) : Res.Formed (storeG i r b g l o size s) := longOp_formed h

theorem syncLoad_formed {i d a b g l kind} (h : s.MemoryForm) : Res.Formed (syncLoad i d a b g l kind s) := longOp_formed h

theorem syncStore_formed {i r a b g l kind} (h : s.MemoryForm) : Res.Formed (syncStore i r a b g l kind s) := longOp_formed h

theorem amoIssue_formed {i d a b z c l op f} {s : State} (h : s.MemoryForm) : Res.Formed (amoIssue i d a b z c l op f s) := by
  unfold amoIssue
  dsimp only
  refine issue_formed h fun u t hu ht => ?_
  have hm := fenceM_keeps (k := u.focus) (sc := Scope.ofField c) (rel := true) (acq := true) t ht
  split
  · exact ht.upd rfl
  split
  next e => rw [e] at hm; exact State.MemoryForm.upd hm rfl
  next e => rw [e] at hm; exact hm u hu
  · exact (hu.upd (by rfl)).fatalIssue
  · exact hu.raise

theorem amo_formed {i d a b z c l op} (h : s.MemoryForm) : Res.Formed (amo i d a b z c l op s) := amoIssue_formed h

/-! ### MemoryDev -/

theorem State.MemoryForm.withdrawTrap {k o t} (h : s.MemoryForm) : (s.withdrawTrap k o t).MemoryForm := h.modSlot.raise.wake

theorem State.MemoryForm.runOp {k o m} (h : s.MemoryForm) (hm : KeepsForm (m)) : (runOp k o m s).MemoryForm :=
  h.runM hm (fun _ _ _ hs1 => hs1.dropFault.dropRequests.fatal) (fun _ _ hs1 => hs1.dropFault.dropRequests.withdrawTrap)

theorem readTurn_keeps {k o parts} : KeepsForm (readTurn k o parts) :=
  .get fun _ _ => .ite (.stop .plain) (.ite (.stop .plain) (.ite (.modify fun _ hx => hx.modSlot) .pure))

theorem readPart_keeps {w far va n} : KeepsForm (readPart w far va n) := by
  unfold readPart
  refine .bind placeRead_keeps fun _ => ?_
  dsimp only
  split
  · exact .get fun _ _ => .ite (.stop .plain) readPlace_keeps
  · exact .ite (.stop .plain) readPlace_keeps
  · exact readPlace_keeps

theorem loadM_keeps {k o parts got into far fin} : KeepsForm (loadM k o parts got into far fin) :=
  .bind readTurn_keeps fun _ => .get fun _ _ => .bind (.forIn fun _ _ => .bind readPart_keeps fun _ => .pure) fun _ =>
      .modify fun _ hs => .ite hs.dropFault.dropRequests.complete
      (.ite hs.dropFault.dropRequests.setOut hs.dropFault.dropRequests.setOut)

theorem attempt_keeps {α : Type} {m : M α} (hm : KeepsForm m) : KeepsForm (attempt m) := by
  intro s h
  have hs := hm s h
  unfold attempt
  split
  next e => rw [e] at hs; exact hs
  · exact h

theorem mergeM_keeps {k bank parts passed} : KeepsForm (mergeM k bank parts passed) := by
  induction parts generalizing passed with
  | nil => exact .pure
  | cons part parts ih =>
    refine .get fun _ _ => .bind (attempt_keeps placeWrite_keeps) fun place => ?_
    split
    · exact .pure
    · exact .bind ih fun _ => .pure

theorem State.MemoryForm.dropParts {k taken} (h : s.MemoryForm) : (s.dropParts k taken).MemoryForm := by
  unfold State.dropParts
  refine h.foldl fun _ _ hs1 => ?_
  split
  · split
    · exact .ite hs1.dropFault.dropRequests.complete hs1.dropFault.dropRequests.setOut
    · exact hs1
  · exact hs1

theorem storeM_keeps {k o parts merge} : KeepsForm (storeM k o parts merge) := by
  unfold storeM
  refine .get fun _ _ => .ite (.stop .plain) ?_
  split
  · exact .modify fun _ hx1 => hx1.complete
  refine .bind placeWrite_keeps fun _ => ?_
  split
  · exact .get fun _ _ => .ite (.bind mergeM_keeps fun _ => .ite
        (.bind writePlace_keeps fun _ => .modify fun _ hx1 => hx1.dropParts)
        (.get fun _ hs2 => .ite (.stop .plain) (.bind (.set hs2.postWrite) fun _ => .modify fun _ hx1 => hx1.dropParts)))
        (.bind .pure fun _ => .ite (.bind writePlace_keeps fun _ => .modify fun _ hx1 => hx1.dropParts)
        (.get fun _ hs2 => .ite (.stop .plain) (.bind (.set hs2.postWrite) fun _ => .modify fun _ hx1 => hx1.dropParts)))
  · exact .ite (.stop .plain) (.bind writePlace_keeps fun _ => .modify fun _ hx1 => hx1.dropParts)

theorem State.MemoryForm.beginSide {pa} (h : s.MemoryForm) : (s.beginSide pa).MemoryForm := by
  unfold State.beginSide
  refine .ite h ?_
  split
  · exact h.upd rfl
  · exact h.upd rfl

theorem homeTurn_keeps {die pa n} : KeepsForm (homeTurn die pa n) :=
  .get fun _ _ => .ite (.stop .plain) (.ite (.throw (.wait fun _ ht => ht.beginSide)) .pure)

theorem State.MemoryForm.performNow {die src data} (h : s.MemoryForm) (hd : data.Formed := by nofun) :
    (s.performNow die src data).1.MemoryForm := by
  have hp := h.postWrite (die := die) (src := src) hd
  unfold State.performNow
  dsimp only
  split
  next v e => exact hp.performWrite (hp.frames v (List.mem_of_find?_eq_some e))
  · exact hp

theorem State.MemoryForm.owe {k need} (h : s.MemoryForm) : (s.owe k need).MemoryForm := h.modSlot

theorem State.MemoryForm.valueBack {k o sc need fs} (h : s.MemoryForm) : (s.valueBack k o sc need fs).MemoryForm :=
  .ite h.setOut.owe h.setOut

theorem State.MemoryForm.atomicDone {k o sc d need old} (h : s.MemoryForm) : (s.atomicDone k o sc d need old).MemoryForm :=
  h.dropFault.dropRequests.valueBack

theorem atomicM_keeps {k o ea size op x cmp sc d} : KeepsForm (atomicM k o ea size op x cmp sc d) := by
  unfold atomicM
  refine .get fun _ _ => .ite (.stop .plain) (.bind placeWrite_keeps fun _ => ?_)
  split
  · exact .ite (.stop .plain) (.modify fun _ hs1 => hs1.storeLs.atomicDone)
  · exact .bind homeTurn_keeps fun _ => .get fun _ hs1 => .set hs1.performNow.atomicDone
  · exact .bind askPeer_keeps fun _ => .bind statusOk_keeps fun _ => .modify fun _ hs1 => hs1.atomicDone
  · exact .ite (.stop .fatal) (.bind askHost_keeps fun _ => .modify fun _ hs1 => hs1.atomicDone)

theorem State.MemoryForm.redWrite {r v} (h : s.MemoryForm) : (s.redWrite r v).1.MemoryForm := by
  unfold State.redWrite
  dsimp only
  split
  · exact h.performNow
  · exact h.storeLs

theorem State.MemoryForm.redFold {r} (h : s.MemoryForm) : (s.redFold r).MemoryForm := by
  unfold State.redFold
  extract_lets f v p t u
  have ht : t.MemoryForm := h.redWrite
  have hu : u.MemoryForm := by
    dsimp only [u]
    split
    · split
      · split
        · exact ht.valueBack
        · exact ht
      · exact ht
    · exact ht
  split
  · exact hu.upd rfl
  · exact hu

theorem State.MemoryForm.redNext {r} (h : s.MemoryForm) : (s.redNext r).MemoryForm := h.upd rfl

theorem State.MemoryForm.redRelease {addr n} {s : State} (h : s.MemoryForm) : (State.redRelease addr n s).MemoryForm := by
  induction n generalizing s with
  | zero => exact h
  | succ n ih =>
    unfold State.redRelease
    split
    · exact h
    split
    · exact h
    · exact .ite h.beginSide (.ite h (ih (h.upd (by rfl)).redFold.redNext))

theorem State.MemoryForm.redArrive {r} (h : s.MemoryForm) : (s.redArrive r).1.MemoryForm := by
  unfold State.redArrive
  extract_lets isOpen t
  split
  · exact h
  have ht : t.MemoryForm := .ite h (h.upd rfl)
  split
  · exact ht
  · exact (ht.upd (by rfl)).redRelease

theorem redordM_keeps {k o ea size x ticket sc d} : KeepsForm (redordM k o ea size x ticket sc d) := by
  unfold redordM
  refine .get fun _ _ => .ite (.stop .plain) (.bind placeWrite_keeps fun _ => ?_)
  dsimp only
  split
  · refine .ite (.stop .plain) (.modify fun _ hs1 => ?_)
    split
    next x1 ex1 => exact (hs1.setOut.redArrive.of_fst ex1)
    next x1 ex1 => exact (hs1.setOut.redArrive.of_fst ex1).setOut
  · refine .modify fun _ hs1 => ?_
    split
    next x1 ex1 => exact (hs1.setOut.redArrive.of_fst ex1)
    next x1 ex1 => exact (hs1.setOut.redArrive.of_fst ex1).setOut
  · exact .bind askPeer_keeps fun _ => .ite (.modify fun _ hs1 => hs1.dropFault.dropRequests.setOut)
        (.bind statusOk_keeps fun _ => .modify fun _ hs1 => hs1.atomicDone)
  · exact .throw .fatal

theorem syncM_keeps {k o kind ea x d} : KeepsForm (syncM k o kind ea x d) := by
  unfold syncM
  refine .get fun _ _ => ?_
  split
  · exact .throw .plain
  refine .ite (.stop .plain) (.ite (.stop (.wait fun _ ht => .ite ht (ht.upd rfl)))
      (.ite (.stop .plain) (.modify fun _ hs1 => ?_)))
  dsimp only
  split
  · exact hs1.noteAccess.setFull.complete
  · exact hs1.noteAccess.storeLs.setFull.complete
  · exact hs1.noteAccess.complete
  · exact hs1.noteAccess.complete
  · exact hs1.noteAccess.stampLs.setFull.complete

theorem execLoadViewReturn_formed (h : s.MemoryForm) : Res.Formed (execLoadViewReturn s) := by
  unfold execLoadViewReturn
  split
  · split
    · exact h.runOp loadM_keeps
    · exact h
  · exact h

theorem execAtomicHomePerform_formed (h : s.MemoryForm) : Res.Formed (execAtomicHomePerform s) := by
  unfold execAtomicHomePerform
  split
  · split
    · exact h.runOp atomicM_keeps
    · exact h
  · exact h

theorem execRedordArrive_formed (h : s.MemoryForm) : Res.Formed (execRedordArrive s) := by
  unfold execRedordArrive
  refine .ite ?_ ?_
  · split
    · split
      next x ex => exact (h.redArrive.of_fst ex).upd rfl
      next x ex => exact (h.redArrive.of_fst ex).upd rfl
    · exact h.foldl fun _ _ hs1 => hs1.redRelease
  · split
    · split
      · exact h.runOp redordM_keeps
      · split
        · exact h.redRelease
        · exact h.redRelease
        · exact h
      · exact h
    · exact h

theorem State.MemoryForm.resendRed {n} (h : s.MemoryForm) : (s.resendRed n).MemoryForm :=
  h.foldl fun _ _ hs1 => (hs1.upd (by rfl)).sendPacket

theorem execRedordResend_formed (h : s.MemoryForm) : Res.Formed (execRedordResend s) := by
  unfold execRedordResend
  refine .ite (h.upd (by rfl)).resendRed ?_
  split
  · exact .ite h.setOut h
  · exact h

theorem execSyncAccessGrant_formed (h : s.MemoryForm) : Res.Formed (execSyncAccessGrant s) := by
  unfold execSyncAccessGrant
  split
  · split
    · exact h.runOp syncM_keeps
    · exact h
  · exact h

theorem execFeTimeout_formed (h : s.MemoryForm) : Res.Formed (execFeTimeout s) := by
  unfold execFeTimeout
  split
  · split
    · exact .ite h.withdrawTrap h
    · exact h
  · exact h

theorem execWritePerform_formed (h : s.MemoryForm) : Res.Formed (execWritePerform s) := by
  unfold execWritePerform
  show State.MemoryForm _
  split
  next w e =>
    dsimp only
    split
    · exact h
    split
    · exact h.beginSide
    · exact h.performWrite (h.frames w (List.mem_of_find?_eq_some e))
  · exact h

theorem execAnnouncementApply_formed (h : s.MemoryForm) : Res.Formed (execAnnouncementApply s) := by
  unfold execAnnouncementApply
  show State.MemoryForm _
  split
  next w e => exact .ite (h.applyWrite (h.frames w (List.mem_of_find?_eq_some e))) h
  · exact h

theorem State.MemoryForm.progressOp {k o} (h : s.MemoryForm) : (s.progressOp k o).MemoryForm := by
  unfold State.progressOp
  split
  · exact h.runOp storeM_keeps
  · exact h.runOp atomicM_keeps
  · exact h.runOp redordM_keeps
  · exact h

theorem execWalkBusyResume_formed (h : s.MemoryForm) : Res.Formed (execWalkBusyResume s) := by
  unfold execWalkBusyResume
  split
  · exact h.progressOp
  · exact h

theorem execFaultMessageSend_formed (h : s.MemoryForm) : Res.Formed (execFaultMessageSend s) := by
  unfold execFaultMessageSend
  show State.MemoryForm _
  split
  · split
    · exact h
    · extract_lets t u m
      have ht : t.MemoryForm := h.upd rfl
      have hu : u.MemoryForm := by
        dsimp only [u]
        split
        · exact ht.count
        · exact ht.count
        · exact ht.count
        · exact ht
      exact hu.upd rfl
  · exact h

theorem State.MemoryForm.setVerdict {f v} (h : s.MemoryForm) : (s.setVerdict f v).MemoryForm := h.upd rfl

theorem State.MemoryForm.faultReply {d bs} (h : s.MemoryForm) : (s.faultReply d bs).MemoryForm := by
  unfold State.faultReply
  split
  · split
    · exact h.setVerdict
    · exact h
  · exact h.modDie

/-! ### Sched -/

theorem State.MemoryForm.startRec {k r} (h : s.MemoryForm) : (s.startRec k r).MemoryForm := by
  unfold State.startRec
  dsimp only
  split
  · exact h.modSlot
  · exact h.modSlot

theorem State.MemoryForm.leave {k} (h : s.MemoryForm) : (s.leave k).MemoryForm := h.modSlot

theorem State.MemoryForm.wakeThief {r} (h : s.MemoryForm) : (s.wakeThief r).MemoryForm := by
  unfold State.wakeThief
  split
  · exact h.wake
  · exact h

theorem State.MemoryForm.putRec {c off r} (h : s.MemoryForm) : (s.putRec c off r).MemoryForm := h.storeLs

theorem State.MemoryForm.pushNear {c r} (h : s.MemoryForm) : SomeFormed (s.pushNear c r) := by
  unfold State.pushNear
  refine .ite (.some h.putRec.modCore.wakeThief) (.ite .none ?_)
  split
  · exact .none
  · exact .some h.putRec.modDie.modCore.wakeThief.wakeThief

theorem State.MemoryForm.pushRun {c r} (h : s.MemoryForm) : SomeFormed (s.pushRun c r) := .ite .none (.some h.putRec.modCore)

theorem State.MemoryForm.popFar {p} (h : s.MemoryForm) : (s.popFar p).MemoryForm := by
  unfold State.popFar
  split
  · exact h.modCore
  · exact h.modDie

theorem State.MemoryForm.postMsg {m} (h : s.MemoryForm) : (s.postMsg m).1.MemoryForm := h.upd rfl

theorem homeStore_keeps {die src p bs} : KeepsForm (homeStore die src p bs) := by
  unfold homeStore
  split
  · exact .bind (.modify fun _ hx => hx.storeLs) fun _ => .pure
  · exact .bind homeTurn_keeps fun _ => .get fun _ hx1 => .bind (.set hx1.performNow) fun _ => .pure
  · exact .pure

theorem homeWrite_keeps {w p bs} : KeepsForm (homeWrite w p bs) := homeStore_keeps

theorem State.MemoryForm.applyAll {n} (h : s.MemoryForm) : SomeFormed (s.applyAll n) := by
  refine SomeFormed.foldl (.some h) fun d s hs => ?_
  split
  next v e => exact .ite (.some hs) (.ite (.some (hs.applyWrite (hs.frames v (List.mem_of_find?_eq_some e)))) .none)
  · exact .some hs

theorem settledWrite_keeps {w p bs} : KeepsForm (settledWrite w p bs) := by
  unfold settledWrite
  refine .bind homeWrite_keeps fun _ => ?_
  split
  · refine .get fun _ hs => ?_
    split
    next t et => exact .set (hs.applyAll _ et)
    · exact .throw .plain
  · exact .pure

theorem storePlace_keeps {w va p bs} : KeepsForm (storePlace w va p bs) := by
  unfold storePlace
  split
  · exact .bind writePlace_keeps fun _ => .pure
  · exact .bind writePlace_keeps fun _ => .pure
  · exact settledWrite_keeps

theorem storeMem_keeps {w fuel va bs} : KeepsForm (storeMem w fuel va bs) := by
  induction fuel generalizing va bs with
  | zero => exact .pure
  | succ fuel ih => exact .ite .pure (.bind placeWrite_keeps fun _ => .bind storePlace_keeps fun _ => ih)

theorem peerStep_keeps {w pkg va f} : KeepsForm (peerStep w pkg va f) := by
  unfold peerStep
  refine .bind askPeer_keeps fun _ => .bind statusOk_keeps fun _ => ?_
  dsimp only
  split
  · exact .pure
  · exact .bind askPeer_keeps fun _ => .bind statusOk_keeps fun _ => .ite .pure (.throw (.wait fun _ ht => ht.dropRequests))

theorem peerStore_keeps {w pkg va bs} : KeepsForm (peerStore w pkg va bs) :=
  .bind (.forIn fun _ _ => .bind askPeer_keeps fun _ => .bind statusOk_keeps fun _ => .pure) fun _ => .pure

theorem joinRaise_keeps {w jb} : KeepsForm (joinRaise w jb) := by
  unfold joinRaise
  refine .bind placeWrite_keeps fun _ => ?_
  dsimp only
  split
  · exact .throw .fatal
  · exact .bind peerStep_keeps fun _ => .pure
  refine .get fun _ _ => ?_
  split
  · exact .pure
  · exact .bind homeWrite_keeps fun _ => .pure

theorem joinLower_keeps {w jb} : KeepsForm (joinLower w jb) := by
  unfold joinLower
  refine .bind placeWrite_keeps fun _ => ?_
  split
  · exact .throw .fatal
  · exact .bind peerStep_keeps fun _ => .ite (.bind askPeer_keeps fun _ => .bind statusOk_keeps fun _ => .modify fun _ hs =>
        hs.postMsg) .pure
  · exact .get fun _ _ => .ite (.modify fun _ hx => hx.modDie)
        (.bind homeWrite_keeps fun _ => .ite (.bind placeRead_keeps fun _ => .modify fun _ hs1 => hs1.postMsg) .pure)

/-! ### Strand -/

theorem State.MemoryForm.shipMarked {k pc} (h : s.MemoryForm) : (s.shipMarked k pc).MemoryForm := by
  unfold State.shipMarked
  split
  · exact h
  split
  next e =>
    obtain ⟨c, -, hc⟩ := Option.bind_eq_some_iff.1 e
    exact (h.pushRun _ hc).leave
  · exact h.upd rfl

theorem State.MemoryForm.suspend {k} (h : s.MemoryForm) : (s.suspend k).MemoryForm := by
  unfold State.suspend
  exact .ite h.shipMarked h.shipMarked.modSlot

theorem execSpawn_formed {a b g} {s : State} (h : s.MemoryForm) : Res.Formed (execSpawn a b g s) := by
  unfold execSpawn
  refine issueM_formed h fun u hu => .ite (.bind joinRaise_keeps fun _ => .ite (.bind (.set hu.fatalIssue) fun _ => .pure)
    (.modify fun t ht => ?_)) (.modify fun t ht => ?_)
  -- The child starts with a join block and without one alike.
  all_goals
    extract_lets v w x
    have hv : v.MemoryForm := State.MemoryForm.getD ht.pushNear ht
    have hw : w.MemoryForm := by
      dsimp only [w]
      split
      · exact hv.upd rfl
      · exact hv
    have hx : x.MemoryForm := hw.count
    exact hx.upd rfl

theorem shipJoin_keeps {b : State} {k} : KeepsForm (shipJoin b k) :=
  .ite .pure (.bind (.modify fun _ hx => hx.shipMarked) fun _ => .get fun _ _ => .pure)

theorem setJoinW_keeps {w pkg jb f} : KeepsForm (setJoinW w pkg jb f) :=
  .bind askPeer_keeps fun _ => .bind statusOk_keeps fun _ => .bind askPeer_keeps fun _ => .bind statusOk_keeps fun _ => .ite
      .pure (.throw (.wait fun _ ht => ht.upd rfl))

theorem joinHere_keeps {b : State} {w k p jb r} : KeepsForm (joinHere b w k p jb r) :=
  .get fun _ _ => .ite (.throw .plain) (.ite (.ite (.stop .plain) (.modify fun _ hx => hx.suspend))
      (.ite (.throw .plain) (.bind shipJoin_keeps fun _ => .ite .pure
      (.bind placeWrite_keeps fun _ => .bind homeWrite_keeps fun _ => .bind homeWrite_keeps fun _ => .modify fun _ hs1 =>
      (hs1.upd (by rfl)).leave))))

theorem joinThere_keeps {b : State} {w k pkg jb r} : KeepsForm (joinThere b w k pkg jb r) := by
  unfold joinThere
  exact .bind peerStep_keeps fun _ => .ite (.throw (.wait fun _ ht => ht.dropRequests))
      (.ite (.modify fun _ hx => hx.suspend) (.ite (.throw (.wait fun _ ht => ht.dropRequests))
      (.ite (.throw (.wait fun _ ht => ht.dropRequests.shipMarked))
      (.bind peerStore_keeps fun _ => .bind setJoinW_keeps fun _ => .ite (.modify fun _ hx1 => hx1.suspend)
      (.modify fun _ hx1 => hx1.leave)))))

theorem execJoin_formed {a g} (h : s.MemoryForm) : Res.Formed (execJoin a g s) := by
  unfold execJoin
  refine issueM_formed h (fun _ _ => .bind placeWrite_keeps fun _ => ?_)
  split
  · exact .throw .fatal
  · exact joinThere_keeps
  · exact joinHere_keeps

theorem migrate_formed {i d a g v} {s : State} (h : s.MemoryForm) : Res.Formed (migrate i d a g v s) := by
  unfold migrate
  refine issueM_formed h fun b hb => .ite (.set ?_) (.ite (.throw .fatal)
      (.ite (.throw (.wait fun _ ht => ht.relieveTouched)) ?_))
  · exact State.MemoryForm.modSlot hb.count.postMsg
  · split
    · exact .throw .plain
    · extract_lets c data who pkt v
      have hv : v.MemoryForm := hb.count.addRequest.sendPacket
      clear_value v
      exact .set (hv.upd rfl)

theorem execYield_formed {g} (h : s.MemoryForm) : Res.Formed (execYield g s) := by
  unfold execYield
  refine issue_formed h (fun _ _ _ ht => .ite ht.suspend ?_)
  split
  next u eu => exact (ht.suspend.pushRun _ eu).leave
  · exact ht.suspend

theorem State.MemoryForm.fillReg {k r x} (h : s.MemoryForm) : (s.fillReg k r x).MemoryForm := h.modSlot.modCore

theorem State.MemoryForm.rfillStep {k o target r x d} (h : s.MemoryForm) : (s.rfillStep k o target r x d).MemoryForm := by
  unfold State.rfillStep
  refine .ite h ?_
  split
  · exact h
  · exact .ite h.complete (.ite h h.fillReg.complete)

theorem State.MemoryForm.dropMsg {n} (h : s.MemoryForm) : (s.dropMsg n).MemoryForm := h.upd rfl

theorem State.MemoryForm.clearPeerW {m} (h : s.MemoryForm) : (s.clearPeerW m).MemoryForm := by
  unfold State.clearPeerW
  split
  · exact .ite h.postMsg h
  · exact h

theorem execRunQueueArrive_formed (h : s.MemoryForm) : Res.Formed (execRunQueueArrive s) := by
  unfold execRunQueueArrive
  split
  · exact h
  refine .ite h ?_
  split
  · dsimp only
    split
    next s2 es2 => exact .ite (h.dropMsg.pushRun _ es2).postMsg (h.dropMsg.pushRun _ es2).clearPeerW
    · exact .ite h.dropMsg.postMsg h
  · exact h

theorem State.MemoryForm.migrDone {k d st v} (h : s.MemoryForm) : (s.migrDone k d st v).MemoryForm := by
  unfold State.migrDone
  exact .ite h.leave (.ite h.modSlot h.setSlot.fatalIssue)

theorem execMigrAnswer_formed (h : s.MemoryForm) : Res.Formed (execMigrAnswer s) := by
  unfold execMigrAnswer
  split
  · split
    · exact .ite h h.dropMsg.migrDone
    split
    · split
      · exact h.dropRequests.migrDone
      · exact h
    · exact h
  · exact h

theorem clearW_keeps {key} : KeepsForm (clearW key) := .get fun _ _ => .bind homeStore_keeps fun _ => .pure

theorem joinDone_keeps {m} : KeepsForm (joinDone m) := by
  unfold joinDone
  split
  · exact .modify fun _ hx1 => hx1.dropMsg
  · exact .ite (.modify fun _ hs => hs.dropMsg.clearPeerW) (.bind clearW_keeps fun _ => .modify fun _ hs => hs.upd rfl)

theorem State.MemoryForm.finishJoin {s t : State} {m} (h : s.MemoryForm) (ht : t.MemoryForm) : (s.finishJoin m t).MemoryForm
    :=
  h.runM (.bind (.set ht) fun _ => joinDone_keeps) (fun _ _ _ hs1 => hs1) (fun _ _ hs1 => hs1)

theorem State.MemoryForm.sendJoin {m r} (h : s.MemoryForm) : (s.sendJoin m r).MemoryForm := by
  unfold State.sendJoin
  dsimp only
  split
  · exact h
  · exact .ite h.relieveTouched (h.upd (by rfl)).sendPacket

theorem clearPeer_keeps {d m} : KeepsForm (clearPeer d m) := by
  unfold clearPeer
  exact .bind askPeer_keeps fun _ => .ite (.stop (.wait fun _ ht => ht.resendRefused))
      (.modify fun _ hs => hs.dropRequests.dropMsg)

theorem execJoinRecordPush_formed (h : s.MemoryForm) : Res.Formed (execJoinRecordPush s) := by
  unfold execJoinRecordPush
  split
  · refine .ite h ?_
    split
    · split
      next x ex => exact h.finishJoin (h.pushNear _ ex)
      · exact h
    · exact h
  split
  · split
    · exact h.sendJoin
    · split
      · exact .ite (h.finishJoin h.dropRequests) h
      · exact h
    · exact h
  split
  · exact h.runM clearPeer_keeps (fun _ _ _ hs1 => hs1.dropRequests.dropMsg) (fun _ _ hs1 => hs1)
  · exact h

theorem execJoinRecordRetry_formed (h : s.MemoryForm) : Res.Formed (execJoinRecordRetry s) := by
  unfold execJoinRecordRetry
  split
  · split
    · split
      · exact .ite h.dropRequests.sendJoin h
      · exact h
    · exact h
  · exact h

theorem execSlotFill_formed (h : s.MemoryForm) : Res.Formed (execSlotFill s) := by
  unfold execSlotFill
  refine .ite h ?_
  split
  · exact h.setCore.startRec
  · exact h

/-! ### Msg -/

theorem State.MemoryForm.fillMbox {c n bs} (h : s.MemoryForm) : (s.fillMbox c n bs).MemoryForm := by
  unfold State.fillMbox
  exact h.writeLs.modCore.foldl fun _ _ hs1 => .ite hs1.modSlot hs1

theorem State.MemoryForm.arriveMbox {c n bs} (h : s.MemoryForm) : SomeFormed (s.arriveMbox c n bs) := by
  unfold State.arriveMbox
  split
  · exact .some h.fillMbox
  · exact .ite .none (.some h.modCore)

theorem State.MemoryForm.emptyMbox {c n} (h : s.MemoryForm) : (s.emptyMbox c n).MemoryForm := by
  unfold State.emptyMbox
  dsimp only
  split
  · exact h.modCore
  · exact h.modCore.modCore.fillMbox

theorem msendM_keeps {k o place ea d} : KeepsForm (msendM k o place ea d) := by
  unfold msendM
  exact .ite (.stop .fatal) (.bind readTurn_keeps fun _ => .get fun _ _ => .bind readMem_keeps fun _ => .get fun _ hs => .ite
      (.ite (.stop .plain) (.set hs.postMsg.dropFault.dropRequests.setOut))
      (.bind askPeer_keeps fun _ => .ite (.modify fun _ hs1 => hs1.dropFault.dropRequests.complete)
      (.bind statusOk_keeps fun _ => .modify fun _ hs1 => hs1.dropFault.dropRequests.complete)))

theorem mrecvM_keeps {k o mbox ea ws d} : KeepsForm (mrecvM k o mbox ea ws d) := by
  unfold mrecvM
  refine .get fun _ _ => ?_
  dsimp only
  split
  · exact .throw .plain
  split
  · exact .ite (.stop .plain) (.bind writeMem_keeps fun _ => .modify fun _ hs1 => hs1.dropFault.dropRequests.setOut)
  · exact .bind settleWrites_keeps fun _ => .modify fun _ hs1 => hs1.emptyMbox.dropFault.dropRequests.complete

theorem execMailboxDeliver_formed (h : s.MemoryForm) : Res.Formed (execMailboxDeliver s) := by
  unfold execMailboxDeliver
  split
  · exact h
  refine .ite h ?_
  split
  · exact h
  dsimp only
  split
  next x ex =>
    split
    · split
      · exact (h.arriveMbox _ ex).dropMsg.complete
      · exact (h.arriveMbox _ ex).dropMsg
    · exact (h.arriveMbox _ ex).dropMsg
  refine .ite h ?_
  split
  · split
    · exact h.dropMsg.complete
    · exact h.dropMsg
  · exact h.dropMsg

/-! ### StreamLib -/

theorem State.MemoryForm.checkGroup {gid} (h : s.MemoryForm) : (s.checkGroup gid).MemoryForm := by
  unfold State.checkGroup
  split
  · exact h
  · exact .ite (h.upd (by rfl)).postMsg h

theorem State.MemoryForm.joinGroup {id} (h : s.MemoryForm) : (s.joinGroup id).MemoryForm := by
  unfold State.joinGroup
  dsimp only
  split
  · exact h
  · exact (h.upd (by rfl)).checkGroup

theorem State.MemoryForm.boardMove {id r a} (h : s.MemoryForm) : (s.boardMove id r a).MemoryForm :=
  .ite h.modDie (.ite h.modDie h)

theorem State.MemoryForm.scbStep {id f} (h : s.MemoryForm) : (s.scbStep id f).MemoryForm := by
  unfold State.scbStep
  exact .ite (h.upd (by rfl)).boardMove.postMsg (h.upd (by rfl)).boardMove

theorem State.MemoryForm.settle {id} (h : s.MemoryForm) : (s.settle id).MemoryForm := h.scbStep

theorem State.MemoryForm.recount {id} (h : s.MemoryForm) : (s.recount id).MemoryForm := h.scbStep

theorem State.MemoryForm.release {id} (h : s.MemoryForm) : (s.release id).MemoryForm := by
  unfold State.release
  refine .ite h (.ite (.ite h h.lowerNode.scbStep) ?_)
  split
  · exact h.upd rfl
  · exact h.lowerNode.scbStep.upd rfl

theorem State.MemoryForm.kill {id} (h : s.MemoryForm) : (s.kill id).MemoryForm := (h.upd (by rfl)).scbStep.release

theorem State.MemoryForm.stopStream {id code} (h : s.MemoryForm) : (s.stopStream id code).MemoryForm := by
  unfold State.stopStream
  exact .ite h.scbStep h.scbStep.settle

theorem State.MemoryForm.fork {src child key} (h : s.MemoryForm) : (s.fork src child key).MemoryForm := by
  unfold State.fork
  exact State.MemoryForm.joinGroup (State.MemoryForm.settle (h.upd rfl))

theorem State.MemoryForm.moveFrame {slot old new} (h : s.MemoryForm) : (s.moveFrame slot old new).MemoryForm := by
  unfold State.moveFrame
  extract_lets fd img t u v
  obtain ⟨hi, hk⟩ := wf_sliceMem (viewKey (homeDie old) old) 65536 h.mem
  have ht : t.MemoryForm := h.withMem rfl (wf_replaceViews h.mem hi hk)
  have hv : v.MemoryForm := State.MemoryForm.setEntry (ht.upd rfl)
  exact (hv.upd (by rfl)).freeFrame

theorem State.MemoryForm.tlbDropRoot {root} (h : s.MemoryForm) : (s.tlbDropRoot root).MemoryForm := h.upd rfl

theorem State.MemoryForm.swapOut {d id} (h : s.MemoryForm) : SomeFormed (s.swapOut d id) :=
  .map (.foldl (.some h) fun _ _ hs => .mapOf fun _ => hs.moveFrame) fun _ hs => (hs.upd (by rfl)).recount

theorem State.MemoryForm.dropOutPages {id} (h : s.MemoryForm) : (s.dropOutPages id).MemoryForm := by
  unfold State.dropOutPages
  exact (h.foldl fun _ _ hs1 => hs1.setEntry.lowerFrame).tlbDropRoot.recount

theorem State.MemoryForm.markEvicted {d id kind} (h : s.MemoryForm) : (s.markEvicted d id kind).MemoryForm := by
  unfold State.markEvicted
  exact h.scbStep.modDie

theorem State.MemoryForm.evict {d id migrate} (h : s.MemoryForm)
    (hmigrate : ∀ a0 a1 a2, a0.MemoryForm → (migrate a0 a1 a2).MemoryForm) : SomeFormed (s.evict d id migrate) := by
  unfold State.evict
  refine .ite (.some h.dropOutPages.markEvicted) ?_
  split
  next x ex => exact .some (h.swapOut _ ex).markEvicted
  · exact .ite (.some (hmigrate _ _ _ h).modDie) (.ite (.some h.dropOutPages.markEvicted) .none)

theorem State.MemoryForm.evictRound {d high migrate n skip r} (h : r.st.MemoryForm)
    (hmigrate : ∀ t id peer, t.MemoryForm → (migrate t id peer).MemoryForm) :
    (State.evictRound d high migrate n skip r).st.MemoryForm := by
  induction n generalizing skip r with
  | zero => exact h
  | succ n ih =>
    unfold State.evictRound
    split
    · exact h
    split
    · exact h
    split
    · exact h
    refine ih ?_
    split
    next e => exact h.evict hmigrate _ e
    · exact h

theorem swapIn_keeps {w id} : KeepsForm (swapIn w id) := by
  unfold swapIn
  refine .get fun _ _ => .bind (.forIn fun _ _ => .ite (.get fun _ hs1 => .ite (.stop (.wait fun _ ht => ht))
      (.bind verdict_keeps fun _ => ?_)) .pure) fun _ => .modify fun _ hs1 => hs1.tlbDropRoot.scbStep.recount.modDie
  split
  · exact .stop stopFault_kept
  · exact .bind (.set hs1.moveFrame) fun _ => .pure

theorem refillDropped_keeps {w id} : KeepsForm (refillDropped w id) := by
  refine .get fun _ _ => .bind (.forIn fun l _ => .ite (.get fun s hs => .bind verdict_keeps fun _ => ?_) .pure) fun _ =>
    .modify fun _ hs => hs.recount
  split
  · exact .throw stopFault_kept
  next n _ =>
    extract_lets u
    have hu : u.MemoryForm := hs.withMem rfl (wf_replaceViews hs.mem rfl nofun)
    exact .bind (.set (hu.upd (by rfl)).setEntry) fun _ => .pure

/-! ### CastLib -/

theorem orFatal_keeps {α : Type} {m : M α} {f} (hm : KeepsForm m) (hf : ∀ sub va, KeepsForm (f sub va)) : KeepsForm
    (orFatal m f) := by
  intro s h
  have hs := hm s h
  unfold orFatal
  split
  · exact hf _ _ s h
  · exact hs

theorem taskKey_keeps {w img} : KeepsForm (taskKey w img) := by
  unfold taskKey
  refine .get fun _ _ => ?_
  split
  · exact .pure
  · exact .bind readMem_keeps fun _ => .get fun _ _ => .pure

theorem State.MemoryForm.addWatch {f who} (h : s.MemoryForm) : (s.addWatch f who).MemoryForm := h.upd rfl

theorem State.MemoryForm.dropWatcher {who} (h : s.MemoryForm) : (s.dropWatcher who).MemoryForm := h.upd rfl

theorem State.MemoryForm.freeList {pa} (h : s.MemoryForm) : (s.freeList pa).MemoryForm := h.upd rfl

theorem State.MemoryForm.castFree {i} (h : s.MemoryForm) : (s.castFree i).MemoryForm := by
  unfold State.castFree
  split
  · exact h
  next e _ =>
    have hs : ((e.res0 ++ e.res1).foldl State.lowerFrame s).MemoryForm := h.foldl fun _ _ ht => ht.lowerFrame
    exact State.MemoryForm.freeList (hs.upd rfl)

theorem State.MemoryForm.castCount {d lo} (h : s.MemoryForm) : (s.castCount d lo).MemoryForm := h.modDie

theorem mapResult_keeps {w page frame} : KeepsForm (mapResult w page frame) := by
  unfold mapResult
  refine .bind verdict_keeps fun _ => .get fun _ hs => ?_
  split
  next t pa node et =>
    exact .ite (.stop .fatal) (.set (.tlbDrop (.ite (hs.slotWalk.of_fst et).raiseFrame.mapLeaf.lowerFrame
        (hs.slotWalk.of_fst et).raiseFrame.mapLeaf)))
  · exact .throw stopFault_kept
  · exact .throw stopEmpty_kept
  · exact .throw .plain
  · exact .throw .fatal

theorem placePage_keeps {w r j frame} : KeepsForm (placePage w r j frame) :=
  .get fun _ _ => .ite (.bind mapResult_keeps fun _ => .pure) writeMem_keeps

theorem State.MemoryForm.beginHit {i e} (h : s.MemoryForm) : SomeFormed (s.beginHit i e) :=
  .map h.raiseFrames (fun _ hs1 => hs1.upd rfl)

theorem length_readPlace {w va p n} : Answers (readPlace w va p n) fun bs => bs.length ≤ n := by
  cases p with
  | ls c o =>
    exact .bind .any fun _ _ => .ite (.bind .any fun _ _ => .pure (length_readBytes ..).le) (.pure (length_readBytes ..).le)
  | mem pa => exact .bind .any fun _ _ => .pure (length_readBytes ..).le
  | peer pkg => exact .bind .any fun _ _ => .bind .any fun _ _ => .pure (List.length_take_le ..)
  | host => exact .bind .any fun _ _ => .pure (List.length_take_le ..)

theorem length_readMemFrom {w acc perm fuel va n} : Answers (readMemFrom w acc perm fuel va n) fun bs => bs.length ≤ n := by
  induction fuel generalizing va n with
  | zero => exact .pure n.zero_le
  | succ fuel ih =>
    refine .ite (.pure n.zero_le) (.bind .any fun _ _ => .bind length_readPlace fun bs hbs => .bind ih fun rest hrest => .pure
        ?_)
    have hk : chunkLen va n ≤ n := Nat.min_le_left ..
    rw [List.length_append]
    omega

theorem packRegion_keeps {w d r n i} : KeepsForm (packRegion w d r n i) := by
  induction n generalizing i with
  | zero => exact .pure
  | succ n ih =>
    refine .bind_ok readMem_keeps fun s bs t e => .get fun u hu => ?_
    have hbs : bs.length ≤ 65536 := (length_readMemFrom s bs t e).trans (Nat.min_le_left ..)
    split
    · exact .pure
    · obtain ⟨hi, hk⟩ := wf_image hbs
      exact .bind (.set (hu.withMem rfl (wf_replaceViews hu.mem hi hk))) fun _ => .bind ih fun _ => .pure

theorem resultFrames_keeps {w d r} : KeepsForm (resultFrames w d r) := by
  unfold resultFrames
  refine .get fun _ hs => .ite .pure (.ite ?_ (orFatal_keeps packRegion_keeps (fun _ _ => .pure)))
  split
  · exact .pure
  split
  · exact .throw .fatal
  next u eu => exact .bind (.set ((hs.raiseFrames _ eu).foldl fun _ _ hs1 => hs1.clearExclFrame)) fun _ => .pure

theorem castFillWay_keeps {w i img key reads} : KeepsForm (castFillWay w i img key reads) := by
  unfold castFillWay
  refine .get fun _ _ => ?_
  split
  · exact .pure
  refine .bind (.modify fun _ hs => hs.upd rfl) fun _ => .bind resultFrames_keeps fun _ => .bind resultFrames_keeps fun _ =>
      .get fun s hs => ?_
  split
  · extract_lets t u e
    have ht : t.MemoryForm := hs.pokeAll
    have hu : u.MemoryForm := ht.foldl fun _ _ hv => hv.upd rfl
    exact .bind (.set (hu.upd rfl)) fun _ => .pure
  · exact .pure

theorem castInsert_keeps {w taint img key reads} : KeepsForm (castInsert w taint img key reads) := by
  unfold castInsert
  exact .get fun _ hs => .ite (.bind (.set hs.castCount) fun _ => .pure)
      (.bind (.modify fun _ hx => hx.castFree) fun _ => .get fun _ hs1 => .bind castFillWay_keeps fun _ => .ite
      (.bind (.set hs1.castCount) fun _ => .pure) .pure)

/-! ### Task -/

theorem State.MemoryForm.putTask {t} (h : s.MemoryForm) : (s.putTask t).1.MemoryForm := by
  unfold State.putTask
  split
  · exact h.upd rfl
  · exact h.upd rfl

theorem State.MemoryForm.postRefusal {t cause sub wher} (h : s.MemoryForm) : (s.postRefusal t cause sub wher).MemoryForm :=
  h.postFaultEntry

theorem State.MemoryForm.refuseTask {n cause sub wher} (h : s.MemoryForm) : (s.refuseTask n cause sub wher).MemoryForm := by
  unfold State.refuseTask
  split
  · exact h
  · exact h.modTask.postRefusal

theorem State.MemoryForm.refuseReady {d q card img t launch cause sub} (h : s.MemoryForm) :
    (s.refuseReady d q card img t launch cause sub).MemoryForm := by
  unfold State.refuseReady
  exact h.putTask.refuseTask

theorem State.MemoryForm.refuseCard {d card t launch cause sub} (h : s.MemoryForm) :
    (s.refuseCard d card t launch cause sub).MemoryForm := by
  unfold State.refuseCard
  exact (h.upd (by rfl)).postRefusal

theorem State.MemoryForm.setQueue {d q l} (h : s.MemoryForm) : (s.setQueue d q l).MemoryForm := h.modDie

theorem writeStatus_keeps {w card x} : KeepsForm (writeStatus w card x) := .bind writeMem_keeps fun _ => .pure

theorem queueCard_keeps {w d q card img launch} : KeepsForm (queueCard w d q card img launch) := by
  unfold queueCard
  dsimp only
  split
  · refine .bind (.modify fun _ hs => hs.modLaunch) fun _ => .get fun _ hs => ?_
    split
    · exact .bind (.set hs.refuseReady) fun _ => .pure
    · exact orFatal_keeps (.bind writeStatus_keeps fun _ => .bind
          (.modify fun _ hs1 => .ite hs1.putTask.modDie hs1.putTask.setQueue) fun _ => .pure)
          (fun _ _ => .bind (.modify fun _ hs1 => hs1.refuseReady) fun _ => .pure)
  refine .get fun _ hs => ?_
  split
  · exact .bind (.set hs.refuseReady) fun _ => .pure
  · exact orFatal_keeps (.bind writeStatus_keeps fun _ => .bind
        (.modify fun _ hs1 => .ite hs1.putTask.modDie hs1.putTask.setQueue) fun _ => .pure)
        (fun _ _ => .bind (.modify fun _ hs1 => hs1.refuseReady) fun _ => .pure)

theorem cardPlace_keeps {w card} : KeepsForm (cardPlace w card) := by
  unfold cardPlace
  refine .ite .pure ?_
  split
  · refine .bind placeRead_keeps fun _ => ?_
    split
    · exact .pure
    · exact .pure
  · exact .pure
  · exact .pure

theorem postCard_keeps {w die q card img launch} : KeepsForm (postCard w die q card img launch) := by
  unfold postCard
  exact .ite .pure (.ite queueCard_keeps (.bind (orFatal_keeps
      (.bind writeStatus_keeps fun _ => .modify fun _ hs => hs.putTask)
      (fun _ _ => .modify fun _ hs => hs.refuseReady)) fun _ => .pure))

theorem storeTurn_keeps {b : State} : KeepsForm (storeTurn b) := .ite .pure (.throw .plain)

theorem readCard_keeps {b : State} {w k card launch} : KeepsForm (readCard b w k card launch) := by
  unfold readCard
  refine .bind (orFatal_keeps cardPlace_keeps (fun _ _ => .pure)) fun _ => ?_
  split
  · exact .ite (.stop .plain) (.bind readPlace_keeps fun _ => .pure)
  · exact .bind (.modify fun _ hx => hx.refuseCard) fun _ => .pure

theorem giveG_keeps {b : State} {l d x} : KeepsForm (giveG b l d x) := .modify fun _ ht => ht.depart

theorem tpostBody_keeps {b : State} {d a} : KeepsForm (tpostBody d a b) := by
  unfold tpostBody
  refine .bind readCard_keeps fun _ => ?_
  split
  · exact .pure
  · exact .bind postCard_keeps fun _ => .pure

theorem qpushBody_keeps {s0 : State} {d a b} : KeepsForm (qpushBody d a b s0) := by
  unfold qpushBody
  refine .ite (.bind (.modify fun _ hx => hx.modDie) fun _ => .pure) (.ite .pure (.bind readCard_keeps fun _ => ?_))
  split
  · exact .pure
  · exact .ite .pure (.ite .pure (.bind postCard_keeps fun _ => .pure))

theorem popCard_keeps {w e q} : KeepsForm (popCard w e q) := by
  unfold popCard
  refine .get fun _ _ => ?_
  split
  · exact .pure
  · exact .bind (orFatal_keeps (.bind writeStatus_keeps fun _ => .modify fun _ hs1 => hs1.modTask.setQueue)
        (fun _ _ => .modify fun _ hs1 => hs1.refuseTask.setQueue)) fun _ => .pure

theorem popFault_keeps {w e dst} : KeepsForm (popFault w e dst) := by
  unfold popFault
  refine .get fun _ _ => ?_
  split
  · exact .pure
  · exact .bind writeMem_keeps fun _ => .bind (.modify fun _ hx1 => hx1.modDie) fun _ => .pure

theorem qpopBody_keeps {s0 : State} {d a b} : KeepsForm (qpopBody d a b s0) := by
  unfold qpopBody
  refine .ite popCard_keeps (.ite (.bind storeTurn_keeps fun _ => popFault_keeps) (.ite (.get fun _ _ => ?_) .pure))
  split
  · exact .pure
  · exact .bind (.modify fun _ hx1 => hx1.modDie) fun _ => .pure

theorem State.MemoryForm.qpopwStep {k o d} (h : s.MemoryForm) : (s.qpopwStep k o d).MemoryForm := by
  unfold State.qpopwStep
  split
  · exact h
  · exact h.modDie.complete

theorem State.MemoryForm.startUrgent {k} (h : s.MemoryForm) : (s.startUrgent k).MemoryForm := h.startRec.upd rfl

theorem State.MemoryForm.strandEnded {x} (h : s.MemoryForm) : (s.strandEnded x).MemoryForm := by
  unfold State.strandEnded
  split
  · exact h.modLaunch
  split
  · exact h.modTask
  · exact h

theorem endTrapped_keeps {k x e} : KeepsForm (endTrapped k x e) := .get fun _ hs => .ite (.stop .plain)
    (.set hs.postFaultEntry.leave)

theorem execTdone_formed {g} (h : s.MemoryForm) : Res.Formed (execTdone g s) := by
  unfold execTdone
  refine issueM_formed h (fun _ _ => .ite (.modify fun _ hx => hx.startUrgent) ?_)
  split
  · exact endTrapped_keeps
  refine .ite (.get fun _ _ => .ite (.stop .plain) (.bind placeWrite_keeps fun _ => ?_))
      (.modify fun _ hs1 => hs1.strandEnded.leave)
  dsimp only
  split
  · exact .bind fenceM_keeps fun _ => .bind joinLower_keeps fun _ => .modify fun _ hs2 => hs2.strandEnded.leave
  · exact .bind joinLower_keeps fun _ => .modify fun _ hs2 => hs2.strandEnded.leave

/-! ### StreamMove -/

theorem State.MemoryForm.modMove {n f} (h : s.MemoryForm) : (s.modMove n f).MemoryForm := h.upd rfl

theorem State.MemoryForm.endMove {n} (h : s.MemoryForm) : (s.endMove n).MemoryForm := h.upd rfl

theorem State.MemoryForm.sendMove {t type tag fs data} (h : s.MemoryForm) : (s.sendMove t type tag fs data).MemoryForm := by
  unfold State.sendMove
  exact (h.upd (by rfl)).sendPacket

theorem State.MemoryForm.dropMoveRequests {t} (h : s.MemoryForm) : (s.dropMoveRequests t).MemoryForm := h.upd rfl

theorem State.MemoryForm.unevict {id} (h : s.MemoryForm) : (s.unevict id).MemoryForm := h.scbStep

theorem State.MemoryForm.failMove {t st} (h : s.MemoryForm) : (s.failMove t st).MemoryForm := by
  unfold State.failMove
  exact .ite h.dropMoveRequests.unevict.endMove h.dropMoveRequests.unevict.modMove

theorem State.MemoryForm.retireMove {t} (h : s.MemoryForm) : (s.retireMove t).MemoryForm := by
  unfold State.retireMove
  extract_lets root u
  have hu : u.MemoryForm := State.MemoryForm.scbStep (State.MemoryForm.lowerNode (h.upd rfl))
  exact State.MemoryForm.endMove (hu.upd rfl)

theorem replyM_keeps {t} : KeepsForm (replyM t) := by
  unfold replyM
  exact .bind writeMem_keeps fun _ => .modify fun _ hs => hs.dropFault.dropRequests.endMove

theorem State.MemoryForm.moveOnce {n} (h : s.MemoryForm) : (s.moveOnce n).MemoryForm := by
  unfold State.moveOnce
  split
  · exact h
  dsimp only
  split
  · refine .ite h.failMove (.ite h.relieveTouched ?_)
    split
    · exact h.sendMove.modMove
    · exact h.sendMove.modMove
    · exact h
  · split
    · exact .ite h.dropMoveRequests.modMove (.ite h.dropMoveRequests.modMove h.failMove)
    · exact h
  · exact .ite h (h.foldl fun _ _ hs1 => hs1.sendMove).modMove
  · split
    · refine .ite h.dropMoveRequests.modMove ?_
      split
      · exact h.failMove
      · exact h.dropMoveRequests.modMove
    · exact h
  · exact .ite h.modMove h
  · exact .ite h.modMove h
  · split
    · exact .ite h.retireMove (.ite h.dropMoveRequests.modMove h.failMove)
    · exact h
  · exact h.runM replyM_keeps (fun _ _ _ hs1 => hs1.dropFault.dropRequests.endMove) (fun _ _ hs1 => hs1)

theorem State.MemoryForm.moveStep {n} (h : s.MemoryForm) : (s.moveStep n).MemoryForm := h.moveOnce.moveOnce.moveOnce.moveOnce

theorem State.MemoryForm.startMove {id dst reply} (h : s.MemoryForm) : (s.startMove id dst reply).MemoryForm := by
  unfold State.startMove
  exact (h.scbStep.upd (by rfl)).moveStep

theorem State.MemoryForm.evictMove {id dst} (h : s.MemoryForm) : (s.evictMove id dst).MemoryForm := h.startMove

theorem postOwnCard_keeps {w card img batch stream} : KeepsForm (postOwnCard w card img batch stream) := by
  unfold postOwnCard
  refine .bind storeMem_keeps fun _ => .bind placeRead_keeps fun _ => ?_
  split
  · refine .get fun _ _ => .ite (.stop .plain) (.bind queueCard_keeps fun _ => .modify fun _ hs1 => ?_)
    split
    · exact hs1.modTask
    · exact hs1
  · exact .throw .fatal

theorem restoreM_keeps {w id} : KeepsForm (restoreM w id) := by
  unfold restoreM
  refine .get fun _ _ => .ite (.bind swapIn_keeps fun _ => .ite (.bind (.modify fun _ hx1 => hx1.scbStep) fun _ => .pure)
      .pure) ?_
  dsimp only
  split
  · exact .stop (.wait fun _ hs1 => hs1)
  · exact .bind refillDropped_keeps fun _ => .bind postOwnCard_keeps fun _ => .bind (.modify fun _ hx2 => hx2.modDie) fun _ =>
        .pure

/-! ### Streams -/

theorem streamBody_keeps {b : State} {a sub act} (h : b.MemoryForm) (hact : ∀ a0 a1, a0.MemoryForm → KeepsForm (act a0 a1)) :
    KeepsForm (streamBody a sub act b) := by
  unfold streamBody
  dsimp only
  split
  · exact .throw .trap
  · exact hact _ _ h

theorem streamOp_formed {p d a l priv acc sub act} (h : s.MemoryForm) (hact : ∀ a0 a1, a0.MemoryForm → KeepsForm (act a0 a1))
    : Res.Formed (streamOp p d a l priv acc sub act s) := issueLater_formed h (fun _ hb => streamBody_keeps hb hact)

theorem execSfork_formed {d a b g l} (h : s.MemoryForm) : Res.Formed (execSfork d a b g l s) := by
  unfold execSfork
  refine streamOp_formed h (fun _ _ _ => .get fun _ hs1 => ?_)
  split
  · exact .throw .trap
  · exact .ite (.stop .fatal) (.bind (.set hs1.fork) fun _ => .pure)

theorem sactAct_keeps {s0 : State} {d b id} : KeepsForm (sactAct d b s0 id) := by
  unfold sactAct
  exact .ite (.stop (.wait fun _ hs => hs)) (.bind readMem_keeps fun _ => .get fun _ _ => .bind placeWrite_keeps fun _ =>
      .bind storePlace_keeps fun _ => .bind (.modify fun _ hx1 => hx1.scbStep) fun _ => .pure)

theorem evictM_keeps {id} : KeepsForm (evictM id) := by
  unfold evictM
  refine .get fun _ hs => .ite .pure (.ite (.stop (.wait fun _ hs1 => hs1)) ?_)
  split
  next x ex => exact .bind (.set (hs.evict (fun _ _ _ hs1 => hs1.evictMove) _ ex)) fun _ => .pure
  · exact .pure

theorem sevictAct_keeps {d b} {s : State} {id} : KeepsForm (sevictAct d b s id) := by
  refine .get fun t ht => ?_
  dsimp only
  split
  · exact evictM_keeps
  · exact .ite (.bind restoreM_keeps fun _ => .pure) .pure
  · exact .ite (.stop (.wait fun _ hu => hu)) (.bind (.set (State.MemoryForm.evictRound ht fun _ _ _ hu =>
        hu.evictMove)) fun _ => .pure)
  · exact .pure

theorem sjoinOpenAct_keeps {s0 : State} {d a x} : KeepsForm (sjoinOpenAct d a s0 x) := by
  unfold sjoinOpenAct
  refine .ite (.stop (.wait fun _ hs => hs)) (.bind readMem_keeps fun _ => .get fun _ hs => ?_)
  split
  · exact .bind (.set (hs.upd rfl)) fun _ => .pure
  · exact .throw .trap

theorem castOp_formed {p d l priv acc act} (h : s.MemoryForm) (hact : ∀ a0, a0.MemoryForm → KeepsForm (act a0)) : Res.Formed
    (castOp p d l priv acc act s) := issueLater_formed h hact

theorem readObj_keeps {b : State} {d va n} : KeepsForm (readObj b d va n) := by
  unfold readObj
  exact .ite (.stop (.wait fun _ hs => hs)) readMem_keeps

theorem clookBody_keeps {s0 : State} {d a b} : KeepsForm (clookBody d a b s0) := by
  unfold clookBody
  refine .bind readObj_keeps fun _ => .bind taskKey_keeps fun _ => ?_
  split
  · exact .pure
  · exact .get fun _ _ => .ite (.stop .plain) (.ite (.bind storeTurn_keeps fun _ => .bind writeMem_keeps fun _ =>
        .get fun _ _ => .pure) (.get fun _ _ => .pure))

theorem cputBody_keeps {s0 : State} {d a} : KeepsForm (cputBody d a s0) := by
  unfold cputBody
  refine .bind readObj_keeps fun _ => .bind taskKey_keeps fun _ => ?_
  split
  · exact .pure
  · exact .get fun _ _ => .ite (.stop .plain) (.bind castInsert_keeps fun _ => .pure)

theorem cinvkBody_keeps {s0 : State} {d a} : KeepsForm (cinvkBody d a s0) := by
  unfold cinvkBody
  refine .bind readObj_keeps fun _ => .get fun _ hs => ?_
  split
  · exact .bind (.set hs.castFree) fun _ => .pure
  · exact .pure

/-! ### Sys -/

theorem State.MemoryForm.writeShared {k n v} (h : s.MemoryForm) : (s.writeShared k n v).MemoryForm := by
  unfold State.writeShared
  split
  · exact h.modDie
  · exact h.modDie
  · exact h.upd rfl
  · exact h.upd rfl
  · exact h.modDie
  · exact h

theorem State.MemoryForm.writeCsr {k n v} (h : s.MemoryForm) : (s.writeCsr k n v).MemoryForm := h.modSlot.modCore

theorem State.MemoryForm.finishCmd {k} (h : s.MemoryForm) : (s.finishCmd k).MemoryForm := h.modSlot.count

theorem State.MemoryForm.cmdFatal {k sub va} (h : s.MemoryForm) : (s.cmdFatal k sub va).MemoryForm :=
  h.dropFault.dropRequests.modSlot.takeDue

theorem State.MemoryForm.runCmd {k m} (h : s.MemoryForm) (hm : KeepsForm (m)) : (runCmd k m s).MemoryForm :=
  h.runM (.bind hm fun _ => .modify fun _ hs1 => hs1.dropFault.dropRequests.finishCmd) (fun _ _ _ hs1 => hs1.cmdFatal)
      (fun _ _ hs1 => hs1.modSlot.raise)

theorem csrWrite_formed {p n isRead f} (h : s.MemoryForm) : Res.Formed (csrWrite p n isRead f s) := issue_formed h
    (fun _ _ hb ht => .ite hb.modSlot ht.writeCsr)

theorem execCsrr_formed {d n m g k} {s : State} (h : s.MemoryForm) : Res.Formed (execCsrr d n m g k s) := by
  unfold execCsrr
  exact issue_formed h fun _ _ _ ht => ht.upd rfl

theorem execSysc_formed {d a g} (h : s.MemoryForm) : Res.Formed (execSysc d a g s) := by
  unfold execSysc
  refine issue_formed h (fun _ _ hb ht => .ite ht.writeG ?_)
  split
  · exact hb
  · exact ht.modDie.modSlot.sendRoce

theorem execTakeTrap_formed (h : s.MemoryForm) : Res.Formed (execTakeTrap s) := by
  unfold execTakeTrap
  refine .ite h (.ite h.takeDue ?_)
  split
  · exact h
  · exact .ite h h.modSlot.modCore.takePlain

theorem execTimerCompare_formed (h : s.MemoryForm) : Res.Formed (execTimerCompare s) := by
  unfold execTimerCompare
  exact .ite h h.modSlot.modCore.postAsync

theorem execSleepTimerLimit_formed (h : s.MemoryForm) : Res.Formed (execSleepTimerLimit s) := by
  unfold execSleepTimerLimit
  dsimp only
  split
  · exact .ite h.modSlot.modCore h
  · exact h

theorem execRegisterWrite_formed (h : s.MemoryForm) : Res.Formed (execRegisterWrite s) := by
  unfold execRegisterWrite
  dsimp only
  split
  · exact .ite h.writeShared.finishCmd h
  · exact h

theorem execEvselWrite_formed (h : s.MemoryForm) : Res.Formed (execEvselWrite s) := by
  unfold execEvselWrite
  dsimp only
  split
  · exact h.modCore.finishCmd
  · exact h

theorem gatherAdd_keeps {w va x i} : KeepsForm (gatherAdd w va x i) := by
  unfold gatherAdd
  refine .bind placeWrite_keeps fun _ => ?_
  split
  · exact .bind askPeer_keeps fun _ => .bind statusOk_keeps fun _ => .pure
  · exact .get fun _ _ => .bind askHost_keeps fun _ => .pure
  · exact .get fun _ _ => .bind homeWrite_keeps fun _ => .pure

theorem execEvgath_formed (h : s.MemoryForm) : Res.Formed (execEvgath s) := by
  unfold execEvgath
  dsimp only
  split
  · exact h.runCmd (.bind (.forIn fun _ _ => .bind gatherAdd_keeps fun _ => .pure) fun _ => .pure)
  · exact h

theorem execTlbinv_formed (h : s.MemoryForm) : Res.Formed (execTlbinv s) := by
  unfold execTlbinv
  dsimp only
  split
  · refine .finishCmd ?_
    split
    · exact .ite (h.upd rfl) h.tlbDrop
    · exact h
  · exact h

theorem execCaststatClear_formed (h : s.MemoryForm) : Res.Formed (execCaststatClear s) := by
  unfold execCaststatClear
  dsimp only
  split
  · exact h.modDie.finishCmd
  · exact h

theorem State.MemoryForm.claimAcc {c i} (h : s.MemoryForm) : (s.claimAcc c i).MemoryForm := by
  unfold State.claimAcc
  dsimp only
  split
  · exact h.upd rfl
  · exact h.withAcc rfl (wf_replaceMem _ _ h.acc rfl nofun)

theorem execAccumClaim_formed (h : s.MemoryForm) : Res.Formed (execAccumClaim s) := by
  unfold execAccumClaim
  dsimp only
  split
  · exact .ite h.modSlot.raise (.ite (h.foldl fun _ _ hs1 => hs1.claimAcc).finishCmd (h.foldl fun _ _ hs1 => hs1.claimAcc))
  · exact h

theorem execAccumRelease_formed (h : s.MemoryForm) : Res.Formed (execAccumRelease s) := by
  unfold execAccumRelease
  dsimp only
  split
  · exact .ite h h.modCore.modCluster.finishCmd
  · exact h

/-! ### Save -/

theorem State.MemoryForm.writeArea {k inc} (h : s.MemoryForm) : (s.writeArea k inc).MemoryForm :=
  (h.foldl fun _ _ hs1 => hs1.writeLs).upd rfl

theorem State.MemoryForm.orphanSys {k} (h : s.MemoryForm) : (s.orphanSys k).MemoryForm := h.modDie

theorem State.MemoryForm.displace {k} (h : s.MemoryForm) : SomeFormed (s.displace k) := by
  unfold State.displace
  exact .ite .none (.map h.setSlot.writeArea.pushRun (fun _ hu => hu.orphanSys.leave))

theorem State.MemoryForm.saveDone {k r} (h : s.MemoryForm) : (s.saveDone k r).MemoryForm := h.modCore.finishCmd

theorem State.MemoryForm.keepTrap {k} (h : s.MemoryForm) : (s.keepTrap k).MemoryForm := by
  unfold State.keepTrap
  exact .ite (h.upd rfl) h

theorem execSlotSave_formed (h : s.MemoryForm) : Res.Formed (execSlotSave s) := by
  unfold execSlotSave
  dsimp only
  split
  · refine .ite h.saveDone (.ite h (.ite h.saveDone (.ite h.saveDone ?_)))
    split
    · exact h.saveDone
    · exact .ite h h.keepTrap.setSlot.writeArea.modSlot.orphanSys.leave.saveDone
  · exact h

theorem State.MemoryForm.dropTrap {x} (h : s.MemoryForm) : (s.dropTrap x).MemoryForm := .ite (h.upd rfl) h

theorem execSlotRestore_formed (h : s.MemoryForm) : Res.Formed (execSlotRestore s) := by
  unfold execSlotRestore
  dsimp only
  split
  · exact .ite h (.ite h.saveDone (.ite h.saveDone (.ite h.saveDone (h.upd (by rfl)).dropTrap.saveDone)))
  · exact h

theorem State.MemoryForm.streamNext {k v} (h : s.MemoryForm) : (s.streamNext k v).MemoryForm := by
  unfold State.streamNext
  exact .ite h.dropFault.dropRequests.saveDone h.dropFault.dropRequests.modSlot

theorem State.MemoryForm.streamFault {k} (h : s.MemoryForm) : (s.streamFault k).MemoryForm :=
  h.dropFault.dropRequests.saveDone

theorem length_feImage {cl} : (s.feImage cl).length = 65536 := by simp [State.feImage]

theorem lssaveM_keeps {k v} : KeepsForm (lssaveM k v) := by
  refine .get fun _ _ => .bind placeWrite_keeps fun p => ?_
  split
  · refine .get fun s hs => .ite (.stop .plain) (.bind (.set (hs.postWrite fun pa img e => ?_)) fun _ => .modify fun _ hu =>
        hu.streamNext)
    rw [← (WData.frame.inj e).2]
    split
    · exact wf_sliceMem _ _ hs.ls
    · exact wf_image length_feImage.le
  · exact .bind (.forIn fun _ _ => .bind writePlace_keeps fun _ => .pure) fun _ => .modify fun _ hu => hu.streamNext

theorem execLssave_formed (h : s.MemoryForm) : Res.Formed (execLssave s) := by
  unfold execLssave
  dsimp only
  split
  · exact .ite h (h.runM lssaveM_keeps (fun _ _ _ hs1 => hs1.streamFault) (fun _ _ hs1 => hs1))
  · exact h

theorem State.MemoryForm.rereadPlinth {c} (h : s.MemoryForm) : (s.rereadPlinth c).MemoryForm := h.upd rfl

theorem lsloadM_keeps {k v} : KeepsForm (lsloadM k v) :=
  .get fun _ _ => .bind readMem_keeps fun _ => .modify fun _ hs1 => .streamNext
      (.ite hs1.storeLs (.ite hs1.storeLs.rereadPlinth (hs1.upd rfl)))

theorem execLsload_formed (h : s.MemoryForm) : Res.Formed (execLsload s) := by
  unfold execLsload
  dsimp only
  split
  · exact .ite h (h.runM lsloadM_keeps (fun _ _ _ hs1 => hs1.streamFault) (fun _ _ hs1 => hs1))
  · exact h

theorem State.MemoryForm.moveCore {k t} (h : s.MemoryForm) : (s.moveCore k t).MemoryForm := by
  unfold State.moveCore
  extract_lets c u img src dst
  have hu : u.MemoryForm := h.foldl fun _ _ hs => .ite (hs.upd rfl) hs
  obtain ⟨hi, hk⟩ := wf_sliceMem (lsKey (c / 4) (plinthOff c)) 65536 hu.ls
  exact hu.withLs rfl (wf_replaceMem _ _ hu.ls hi hk)

theorem execCoreMove_formed (h : s.MemoryForm) : Res.Formed (execCoreMove s) := by
  unfold execCoreMove
  dsimp only
  split
  · exact .ite h (.ite h.moveCore.saveDone (.ite h.saveDone (.ite h.saveDone (.ite h (.ite h h.modCore)))))
  · exact h

theorem execFwdclr_formed (h : s.MemoryForm) : Res.Formed (execFwdclr s) := by
  unfold execFwdclr
  dsimp only
  split
  · exact .ite h h.modCore.saveDone
  · exact h

theorem State.MemoryForm.fillHere {k r x sys} (h : s.MemoryForm) : (s.fillHere k r x sys).MemoryForm :=
  .ite h.modDie (.ite h.fillReg.modSlot h.fillReg)

theorem State.MemoryForm.deliverFill {k r x sys} (h : s.MemoryForm) : (s.deliverFill k r x sys).MemoryForm :=
  .ite h.modCore h.fillHere

theorem execForwardDeliver_formed (h : s.MemoryForm) : Res.Formed (execForwardDeliver s) := by
  unfold execForwardDeliver
  dsimp only
  split
  · exact .ite h h.modCore.deliverFill
  · exact h

/-! ### TaskDev -/

theorem State.MemoryForm.clearTask {n} (h : s.MemoryForm) : (s.clearTask n).MemoryForm := h.dropFault.dropRequests

theorem pinPages_keeps {w ps} : KeepsForm (pinPages w ps) := by
  induction ps with
  | nil => exact .pure
  | cons a ps ih =>
    refine .bind placeRead_keeps fun p => .bind ?_ fun _ => .bind ih fun _ => .pure
    split
    · exact .get fun s hs => .ite (.stop .fatal) (.bind (.set (hs.upd rfl)) fun _ => .pure)
    · exact .pure

theorem State.MemoryForm.unqueue {t} (h : s.MemoryForm) : (s.unqueue t).MemoryForm := h.setQueue

theorem lookM_keeps {t} : KeepsForm (lookM t) := by
  unfold lookM
  refine .get fun _ _ => .bind pinPages_keeps fun pins => .bind taskKey_keeps fun key => .get fun s hs => .ite (.stop .plain)
      ?_
  dsimp only
  split
  · exact .bind (.set (.modTask (.ite (hs.upd rfl) hs))) fun _ => .modify fun _ hx => hx.upd rfl
  next value reads =>
    have hu : State.MemoryForm (if s.watchRoom (2 * t.n) reads then reads.foldl (fun s f => s.addWatch f (2 * t.n)) s else s)
        :=
      .ite (hs.foldl fun _ _ ht => ht.upd rfl) hs
    split
    · split
      · exact .stop .fatal
      next e =>
        have hv := hu.beginHit _ e
        exact .bind (.set (hv.upd rfl)) fun _ => .modify fun _ hx => hx.upd rfl
    · have hv := State.MemoryForm.ite (c := s.castcfg.getLsbD 63) (hu.castCount (d := castDie value) (lo := 32)) hu
      exact .bind (.set (.modTask (.ite hv.castCount hv))) fun _ => .modify fun _ hx => hx.upd rfl

theorem State.MemoryForm.unpinTask {n} (h : s.MemoryForm) : (s.unpinTask n).MemoryForm := by
  unfold State.unpinTask
  split
  · exact h
  · exact (h.foldl fun _ _ hs1 => hs1.unpinFrame).modTask

theorem State.MemoryForm.failDispatch {t sub} (h : s.MemoryForm) : (s.failDispatch t sub).MemoryForm := by
  unfold State.failDispatch
  exact .refuseTask (.unqueue (.ite h.clearTask.unpinTask.dropWatcher.modSlot h.clearTask.unpinTask.dropWatcher))

theorem execDispatch_formed (h : s.MemoryForm) : Res.Formed (execDispatch s) := by
  unfold execDispatch
  refine .ite h ?_
  split
  · exact h
  refine .ite (h.runM lookM_keeps (fun _ _ _ hs1 => hs1.failDispatch) (fun _ _ hs1 => hs1)) ?_
  split
  · exact h
  · exact h.unqueue.modTask.modDie.modSlot.modCore

theorem startStream_keeps {w id} : KeepsForm (startStream w id) :=
  .get fun _ _ => .ite (.modify fun _ hs1 => hs1.scbStep.release)
      (.bind (.modify fun _ hx => hx.scbStep) fun _ => .ite swapIn_keeps .pure)

theorem startM_keeps {t} : KeepsForm (startM t) := by
  unfold startM
  exact .get fun _ _ => .ite (.stop .plain) (.bind pinPages_keeps fun _ => .bind
      (.forIn fun _ _ => .bind readMem_keeps fun _ => .bind (.modify fun _ hx1 => hx1.storeLs) fun _ => .pure) fun _ => .bind
      (.forIn fun _ _ => .bind startStream_keeps fun _ => .pure) fun _ => .bind writeStatus_keeps fun _ => .modify fun _ hu =>
      (hu.startRec.upd (by rfl)).clearTask.modTask)

theorem execTaskStart_formed (h : s.MemoryForm) : Res.Formed (execTaskStart s) := by
  unfold execTaskStart
  show State.MemoryForm _
  split
  · exact h
  next t _ =>
    have hm := startM_keeps (t := t) { s with nextN := s.nextN + 1 } (h.upd rfl)
    split
    next e => rw [e] at hm; exact State.MemoryForm.upd hm rfl
    next e => rw [e] at hm; exact hm s h
    · exact h.failDispatch
    · exact h

theorem copyOutM_keeps {t} : KeepsForm (copyOutM t) := by
  unfold copyOutM
  split
  · exact .get fun _ _ => .bind writeMem_keeps fun _ => .modify fun _ hs1 => hs1.clearTask.modTask
  · exact .modify fun _ hs => hs.modTask

theorem hitM_keeps {t} : KeepsForm (hitM t) := by
  unfold hitM
  split
  · exact .bind placePage_keeps fun _ => .modify fun _ hs => hs.clearTask.modTask
  · exact .modify fun _ hs => (hs.foldl fun _ _ hs1 => hs1.lowerFrame).modTask

theorem State.MemoryForm.retireStream {id} (h : s.MemoryForm) : (s.retireStream id).MemoryForm := by
  unfold State.retireStream
  exact .ite (.release (.ite h h.scbStep)) (.ite (.settle (.ite h h.scbStep)) (.ite h h.scbStep))

theorem retiringM_keeps {t} : KeepsForm (retiringM t) := by
  refine .get fun _ hs => .ite (.ite (.stop .plain) (.set (hs.upd rfl))) (.ite (.stop .plain)
    (.bind (.forIn fun _ _ => .bind fenceTouched_keeps fun _ => .pure) fun _ => .modify fun s hs => ?_))
  extract_lets u offers
  have hu : u.MemoryForm := (hs.upd (by rfl)).foldl fun _ _ ht => ht.retireStream
  have hw : State.MemoryForm (if offers then u else u.dropWatcher (2 * t.n)) := .ite hu (hu.upd rfl)
  exact hw.upd rfl

theorem offerM_keeps {t} : KeepsForm (offerM t) :=
  .get fun _ _ => .bind (orFatal_keeps castInsert_keeps fun _ _ => .bind (.modify fun _ hs => hs.upd rfl) fun _ =>
      .pure) fun _ =>
    .modify fun _ hs => hs.clearTask.dropWatcher.modTask

theorem decrement_keeps {t succ} : KeepsForm (decrement t succ) := by
  unfold decrement
  refine .bind cardPlace_keeps fun _ => ?_
  split
  · exact .modify fun _ hx => hx.refuseCard
  refine .bind placeWrite_keeps fun _ => .get fun _ _ => ?_
  split
  · exact .ite (.modify fun _ hs1 => hs1.modDie.postFaultEntry)
        (.bind homeWrite_keeps fun _ => .ite (.get fun _ _ => .bind queueCard_keeps fun _ => .pure) .pure)
  · exact .modify fun _ hx1 => hx1.refuseCard

theorem succM_keeps {t off} : KeepsForm (succM t off) := by
  unfold succM
  exact .ite (.bind (orFatal_keeps decrement_keeps (fun _ _ => .modify fun _ hx1 => hx1.refuseCard)) fun _ =>
      .modify fun _ hs => hs.clearTask.modTask) (.modify fun _ hs => hs.clearTask.modTask)

theorem State.MemoryForm.endTask {t} (h : s.MemoryForm) : (s.endTask t).MemoryForm := by
  unfold State.endTask
  dsimp only
  split
  · refine .ite (.modDie (.unevict ?_)) ?_
    · split
      · exact (h.upd (by rfl)).modDie
      · exact h.upd rfl
    · split
      · exact (h.upd (by rfl)).modDie
      · exact h.upd rfl
  split
  · exact (h.upd (by rfl)).modDie
  · exact h.upd rfl

theorem releasingM_keeps {t} : KeepsForm (releasingM t) := by
  unfold releasingM
  split
  · exact .bind writeStatus_keeps fun _ => .modify fun _ hs => hs.clearTask.unpinTask.modTask
  · exact succM_keeps
  · exact succM_keeps
  · exact .modify fun _ hx1 => hx1.endTask

theorem faultingM_keeps {t} : KeepsForm (faultingM t) :=
  .bind (orFatal_keeps writeStatus_keeps (fun _ _ => .pure)) fun _ => .modify fun _ hs => hs.clearTask.modTask

theorem State.MemoryForm.failRetire {t sub} (h : s.MemoryForm) : (s.failRetire t sub).MemoryForm := by
  unfold State.failRetire
  exact .refuseTask (.dropWatcher (.ite (h.clearTask.foldl fun _ _ hs1 => hs1.lowerFrame) h.clearTask))

theorem execTaskRetire_formed (h : s.MemoryForm) : Res.Formed (execTaskRetire s) := by
  unfold execTaskRetire
  split
  · exact h
  dsimp only
  split
  · exact .ite (h.runM copyOutM_keeps (fun _ _ _ hs1 => hs1.failRetire) (fun _ _ hs1 => hs1)) h
  · exact h.runM hitM_keeps (fun _ _ _ hs1 => hs1.failRetire) (fun _ _ hs1 => hs1)
  · exact h.runM retiringM_keeps (fun _ _ _ hs1 => hs1.failRetire) (fun _ _ hs1 => hs1)
  · exact h.runM offerM_keeps (fun _ _ _ hs1 => hs1.failRetire) (fun _ _ hs1 => hs1)
  · exact h.runM releasingM_keeps (fun _ _ _ hs1 => hs1.failRetire) (fun _ _ hs1 => hs1)
  · exact h.runM faultingM_keeps (fun _ _ _ hs1 => hs1.failRetire) (fun _ _ hs1 => hs1)
  · exact h

theorem execHeldCardEnqueue_formed (h : s.MemoryForm) : Res.Formed (execHeldCardEnqueue s) := by
  unfold execHeldCardEnqueue
  refine .ite h ?_
  split
  · exact h
  · exact h.runM (.bind writeStatus_keeps fun _ => .modify fun _ hs1 => hs1.modDie.clearTask.setQueue.modTask)
        (fun _ _ _ hs1 => hs1.modDie.clearTask.refuseTask) (fun _ _ hs1 => hs1)

theorem State.MemoryForm.stopStrands {card t} (h : s.MemoryForm) : (s.stopStrands card t).MemoryForm := h.upd rfl

theorem execFaultEntryPost_formed (h : s.MemoryForm) : Res.Formed (execFaultEntryPost s) := by
  unfold execFaultEntryPost
  dsimp only
  split
  · exact h
  refine .ite h ?_
  split
  · exact h.modDie.dropWatcher.modTask.stopStrands
  split
  · exact h.modDie.modLaunch.stopStrands
  · exact h.modDie

theorem execDisplace_formed (h : s.MemoryForm) : Res.Formed (execDisplace s) := by
  unfold execDisplace
  split
  · exact .getD h.displace h
  refine .ite h ?_
  split
  · exact h
  · exact .getD h.modSlot.displace h.modSlot

theorem State.MemoryForm.reload {d i} (h : s.MemoryForm) : (s.reload d i).MemoryForm := by
  unfold State.reload
  exact h.modDie

theorem execReservationReload_formed (h : s.MemoryForm) : Res.Formed (execReservationReload s) := by
  unfold execReservationReload
  dsimp only
  split
  · exact h
  · exact .ite h.reload.modLaunch h

theorem State.MemoryForm.schedDone {k r} (h : s.MemoryForm) : (s.schedDone k r).MemoryForm := h.modDie

theorem readImage_keeps {k v} : KeepsForm (readImage k v) := .get fun _ _ => readMem_keeps

theorem execReservationWrite_formed (h : s.MemoryForm) : Res.Formed (execReservationWrite s) := by
  unfold execReservationWrite
  dsimp only
  split
  · exact .ite h.schedDone.finishCmd (.ite h (h.runCmd (.bind readImage_keeps fun _ => .modify fun _ hs1 => .schedDone
        (.ite hs1 (hs1.upd rfl)))))
  · exact h

theorem State.MemoryForm.setStage {d st cs} (h : s.MemoryForm) : (s.setStage d st cs).MemoryForm :=
  h.foldl fun _ _ hs1 => hs1.modCore

theorem State.MemoryForm.stageWrite {d st e} (h : s.MemoryForm) : (s.stageWrite d st e).1.MemoryForm := by
  unfold State.stageWrite
  extract_lets want cores zero u
  have hu : u.MemoryForm := .ite h.setStage h.setStage
  split
  · exact h
  split
  · exact h
  · exact hu.upd rfl

theorem execStageWrite_formed (h : s.MemoryForm) : Res.Formed (execStageWrite s) := by
  unfold execStageWrite
  dsimp only
  split
  · exact .ite h (h.runCmd (.bind readImage_keeps fun _ => .modify fun _ hs1 => hs1.stageWrite.schedDone))
  · exact h

theorem State.MemoryForm.tickMoves {d n done given} {s : State} (h : s.MemoryForm) :
    (State.tickMoves d n done given s).MemoryForm := by
  induction n generalizing done given s with
  | zero => exact h
  | succ n ih =>
    unfold State.tickMoves
    split
    · exact h
    split
    · exact ih h
    split
    · exact h
    · exact ih (h.upd rfl)

theorem State.MemoryForm.governorTick {d} (h : s.MemoryForm) : (s.governorTick d).MemoryForm := by
  unfold State.governorTick
  exact (h.upd (by rfl)).tickMoves

theorem execGovernorTick_formed (h : s.MemoryForm) : Res.Formed (execGovernorTick s) := by
  unfold execGovernorTick
  dsimp only
  split
  · exact .ite h h.governorTick.schedDone.finishCmd
  · exact h

theorem execUrgentEnable_formed (h : s.MemoryForm) : Res.Formed (execUrgentEnable s) := by
  unfold execUrgentEnable
  dsimp only
  split
  · exact .ite h h.modCore.finishCmd
  · exact .ite (.getD h.displace h) h

theorem execUrgentStart_formed (h : s.MemoryForm) : Res.Formed (execUrgentStart s) := by
  unfold execUrgentStart
  exact .ite h.startUrgent.modCore h

theorem execUrgentDisable_formed (h : s.MemoryForm) : Res.Formed (execUrgentDisable s) := by
  unfold execUrgentDisable
  dsimp only
  split
  · exact .ite h h.modCore.finishCmd
  · exact .ite (.ite h.orphanSys.leave.modCore h) h

theorem execSteal_formed (h : s.MemoryForm) : Res.Formed (execSteal s) := by
  unfold execSteal
  dsimp only
  split
  · exact h
  split
  · exact h
  · exact h.popFar.startRec.count.modCore

/-! ### Armature -/

theorem readNode_keeps {w f} : KeepsForm (readNode w f) := by
  unfold readNode
  refine .get fun _ _ => .ite (.stop .plain) ?_
  split
  · exact .pure
  · exact .bind readMem_keeps fun _ => .pure

theorem runTerms_keeps {w img ts state top ov depth} : KeepsForm (runTerms w img ts state top ov depth) := by
  induction ts generalizing state top ov depth with
  | nil => exact .pure
  | cons t ts ih =>
    unfold runTerms
    dsimp only
    split
    · exact ih
    · exact .ite .pure ih
    · split
      · exact .ite ih .pure
      · refine .ite .pure (.bind readNode_keeps fun nd => ?_)
        split
        · exact .pure
        · exact .ite ih .pure
    · exact .ite .pure ih
    · exact .pure

theorem runToken_keeps {w img c tok} : KeepsForm (runToken w img c tok) := by
  unfold runToken
  refine .ite .pure (.ite runTerms_keeps (.bind readNode_keeps fun _ => ?_))
  split
  · exact .pure
  · exact runTerms_keeps

theorem gramOp_formed {p l dests chk act} (h : s.MemoryForm) (hact : ∀ a0, a0.MemoryForm → KeepsForm (act a0)) : Res.Formed
    (gramOp p l dests chk act s) := issueM_formed h hact

theorem State.MemoryForm.setGcfg {id c} (h : s.MemoryForm) : (s.setGcfg id c).MemoryForm := h.scbStep

theorem State.MemoryForm.askMask {b t : State} {l p c ea stream} (ht : t.MemoryForm) :
    (b.askMask t l p c ea stream).MemoryForm := by
  unfold State.askMask
  exact (ht.upd (by rfl)).modDie.depart

theorem topDepth_keeps {w top counted} : KeepsForm (topDepth w top counted) := by
  unfold topDepth
  refine .ite .pure (.bind readNode_keeps fun _ => ?_)
  split
  · exact .pure
  · exact .pure

theorem advance_keeps {b0 : State} {l d c tok field stream} : KeepsForm (advance b0 l d c tok field stream) := by
  unfold advance
  refine .get fun _ _ => ?_
  dsimp only
  split
  · exact giveG_keeps
  refine .ite (.stop .plain) (.bind runToken_keeps fun _ => ?_)
  split
  · exact giveG_keeps
  · exact .throw .trap
  refine .ite (.modify fun _ ht => ht.depart) (.get fun _ _ => ?_)
  split
  · exact .throw .trap
  · exact .ite (.stop .trap) (.bind topDepth_keeps fun _ => .modify fun _ ht => (ht.upd (by rfl)).depart)

theorem execGchk_formed {p a b g l} (h : s.MemoryForm) : Res.Formed (execGchk p a b g l s) := by
  unfold execGchk
  refine gramOp_formed h (fun _ _ => .get fun _ _ => ?_)
  dsimp only
  split
  · exact .modify fun _ ht => ht.depart
  · exact .bind runToken_keeps fun _ => .modify fun _ ht => ht.depart

theorem acceptedDeps_keeps {w img c ts} : KeepsForm (acceptedDeps w img c ts) := by
  induction ts with
  | nil => exact .pure
  | cons t ts ih => exact .bind runToken_keeps fun _ => .bind ih fun _ => .pure

theorem maskOf_keeps {w c} : KeepsForm (maskOf w c) := by
  unfold maskOf
  refine .get fun _ _ => ?_
  split
  · exact .pure
  · exact .bind acceptedDeps_keeps fun _ => .pure

theorem State.MemoryForm.modMask {d n f} (h : s.MemoryForm) : (s.modMask d n f).MemoryForm := h.modDie

theorem State.MemoryForm.dropMask {d n} (h : s.MemoryForm) : (s.dropMask d n).MemoryForm := h.modDie

theorem maskM_keeps {r o} : KeepsForm (maskM r o) :=
  .get fun _ _ => .bind maskOf_keeps fun _ => .bind writeMem_keeps fun _ => .modify fun _ hs1 =>
      hs1.dropFault.dropRequests.modMask

theorem State.MemoryForm.walkMasks {rs} {s : State} (h : s.MemoryForm) : (State.walkMasks rs s).MemoryForm := by
  induction rs generalizing s with
  | nil => exact h
  | cons r rs ih =>
    unfold State.walkMasks
    split
    · exact ih h
    next o _ =>
      have hm := maskM_keeps (r := r) (o := o) s h
      split
      next e => rw [e] at hm; exact hm
      next e => rw [e] at hm; exact ih (hm s h)
      · exact (h.upd (by rfl)).fatal
      · exact h

theorem execGrammarDeadStop_formed (h : s.MemoryForm) : Res.Formed (execGrammarDeadStop s) := by
  unfold execGrammarDeadStop
  split
  · exact h
  refine .ite h ?_
  dsimp only
  split
  · exact .ite h.dropMask.stopStream h.dropMask
  · exact h.dropMask

theorem State.MemoryForm.gramDone {k r} (h : s.MemoryForm) : (s.gramDone k r).MemoryForm := h.modSlot

theorem State.MemoryForm.gramFrames {n} (h : s.MemoryForm) : PairFormed (s.gramFrames n) :=
  .foldl (.some h) fun _ _ hr => .mapOf fun _ => hr.upd rfl

theorem State.MemoryForm.copyImage {img fs} (h : s.MemoryForm) : (s.copyImage img fs).MemoryForm := by
  unfold State.copyImage
  exact h.foldl fun _ _ hs1 => hs1.pokeAll

theorem readGrammar_keeps {w va} : KeepsForm (readGrammar w va) :=
  orFatal_keeps (.ite .pure (.bind readMem_keeps fun _ => .ite .pure (.bind readMem_keeps fun _ => .pure))) (fun _ _ => .pure)

theorem execGrammarLoad_formed (h : s.MemoryForm) : Res.Formed (execGrammarLoad s) := by
  unfold execGrammarLoad
  dsimp only
  split
  · refine .ite h.gramDone.finishCmd (.ite h (h.runCmd (.bind readImage_keeps fun _ => .get fun _ _ => .ite
        (.modify fun _ hx => hx.gramDone) (.bind readGrammar_keeps fun _ => .modify fun _ hs2 => ?_))))
    split
    · exact hs2.gramDone
    refine .ite hs2.gramDone ?_
    split
    · exact hs2.gramDone
    next u fs eu => exact ((hs2.gramFrames _ eu).copyImage.upd (by rfl)).gramDone
  · exact h

theorem execGrammarUnload_formed (h : s.MemoryForm) : Res.Formed (execGrammarUnload s) := by
  unfold execGrammarUnload
  dsimp only
  split
  · refine .ite h (h.runCmd (.bind readImage_keeps fun _ => .modify fun _ hs1 => ?_))
    split
    · exact hs1.gramDone
    · exact (hs1.upd (by rfl)).gramDone
  · exact h

theorem State.MemoryForm.unloadGram {n} (h : s.MemoryForm) : (s.unloadGram n).MemoryForm := by
  unfold State.unloadGram
  split
  · exact h
  · exact (h.upd (by rfl)).foldl fun _ _ hs1 => hs1.lowerFrame

theorem execUnloadTakeEffect_formed (h : s.MemoryForm) : Res.Formed (execUnloadTakeEffect s) := by
  unfold execUnloadTakeEffect
  exact .ite h.unloadGram h

theorem execArenaOpen_formed (h : s.MemoryForm) : Res.Formed (execArenaOpen s) := by
  unfold execArenaOpen
  dsimp only
  split
  · refine .ite h (h.runCmd (.bind readImage_keeps fun _ => .modify fun _ hs1 => .ite hs1.gramDone ?_))
    split
    · exact hs1.gramDone
    · exact (hs1.upd (by rfl)).modSlot.gramDone
  · exact h

theorem execArenaClose_formed (h : s.MemoryForm) : Res.Formed (execArenaClose s) := by
  unfold execArenaClose
  dsimp only
  split
  · refine .ite h (h.runCmd (.bind readImage_keeps fun _ => .modify fun _ hs1 => ?_))
    split
    · exact hs1.gramDone
    · exact .ite hs1.gramDone (hs1.upd (by rfl)).gramDone
  · exact h

theorem commitStart_keeps {k v} : KeepsForm (commitStart k v) := by
  unfold commitStart
  refine .bind readImage_keeps fun _ => .get fun _ _ => ?_
  dsimp only
  split
  · exact .bind (.modify fun _ hx1 => hx1.gramDone) fun _ => .pure
  refine .ite (.bind (.modify fun _ hx => hx.gramDone) fun _ => .pure)
      (.ite (.bind (.modify fun _ hx => hx.gramDone) fun _ => .pure)
      (.bind (orFatal_keeps (.bind readMem_keeps fun _ => .pure) (fun _ _ => .pure)) fun _ => .get fun _ hs1 => ?_))
  split
  · exact .bind (.modify fun _ hx1 => hx1.gramDone) fun _ => .pure
  · exact .ite (.bind (.set (hs1.upd rfl)) fun _ => .pure) (.bind (.modify fun _ hx => hx.gramDone) fun _ => .pure)

theorem chain_keeps {w id a memo fuel n} : KeepsForm (chain w id a memo fuel n) := by
  induction fuel generalizing n with
  | zero => exact .pure
  | succ fuel ih => exact .ite .pure (.bind readMem_keeps fun _ => .bind ih fun _ => .pure)

theorem copyStacks_keeps {w id a sids memo out} : KeepsForm (copyStacks w id a sids memo out) := by
  induction sids generalizing memo out with
  | nil => exact .pure
  | cons sid sids ih => exact .get fun _ _ => .ite ih (.bind chain_keeps fun _ => .bind ih fun _ => .pure)

theorem commitCopy_keeps {k id a} : KeepsForm (commitCopy k id a) :=
  .get fun _ _ => .ite (.stop (.wait fun _ ht => ht)) (.bind copyStacks_keeps fun _ => .bind writeMem_keeps fun _ =>
      .modify fun _ hs1 => (hs1.foldl fun _ _ hs2 => hs2.setGcfg).upd rfl)

theorem execArenaCommit_formed (h : s.MemoryForm) : Res.Formed (execArenaCommit s) := by
  unfold execArenaCommit
  dsimp only
  split
  · refine .ite h (h.runM (.bind ?_ fun _ => .modify fun _ hs1 => .ite hs1.dropFault.dropRequests.finishCmd
        hs1.dropFault.dropRequests) (fun _ _ _ hs1 => .cmdFatal ?_) (fun _ _ hs1 => hs1))
    · split
      · exact commitStart_keeps
      · exact .ite (.bind commitCopy_keeps fun _ => .pure) (.bind settleWrites_keeps fun _ => .bind
            (.modify fun _ hs1 => (hs1.upd (by rfl)).gramDone) fun _ => .pure)
    · split
      · exact hs1.upd rfl
      · exact hs1
  · exact h

/-! ### Kv -/

theorem countAdd_keeps {w pkg va x} : KeepsForm (countAdd w pkg va x) := by
  unfold countAdd
  split
  · exact .bind askPeer_keeps fun _ => .bind statusOk_keeps fun _ => .pure
  refine .bind placeWrite_keeps fun _ => ?_
  split
  · exact .bind askPeer_keeps fun _ => .bind statusOk_keeps fun _ => .pure
  · exact .throw .fatal
  · exact .get fun _ _ => .bind settledWrite_keeps fun _ => .pure

theorem countRead_keeps {w va} : KeepsForm (countRead w va) := by
  unfold countRead
  refine .bind placeRead_keeps fun _ => ?_
  split
  · exact .bind readPlace_keeps fun _ => .pure
  · exact .bind readPlace_keeps fun _ => .pure
  · exact .get fun _ _ => .pure

theorem lowerEntry_keeps {w t e} : KeepsForm (lowerEntry w t e) := .ite (.bind countAdd_keeps fun _ => .pure) .pure

theorem allocBlock_keeps {w t die n i} : KeepsForm (allocBlock w t die n i) := by
  induction n generalizing i with
  | zero => exact .pure
  | succ n ih => exact .bind countRead_keeps fun _ => .ite (.bind countAdd_keeps fun _ => .pure) ih

theorem readKvTab_keeps {w addr acc} : KeepsForm (readKvTab w addr acc) := .bind readMem_keeps fun _ => .pure

theorem readEntry_keeps {w a acc} : KeepsForm (readEntry w a acc) := .bind readMem_keeps fun _ => .pure

theorem State.MemoryForm.addRange {pa r} (h : s.MemoryForm) : (s.addRange pa r).MemoryForm := h.modFrame

theorem noteEntry_keeps {w t a p} : KeepsForm (noteEntry w t a p) := by
  unfold noteEntry
  split
  · exact .modify fun _ hx => hx.addRange
  · exact .pure

theorem writeEntry_keeps {w t a e} : KeepsForm (writeEntry w t a e) :=
  .bind placeWrite_keeps fun _ => .bind writePlace_keeps fun _ => .bind noteEntry_keeps fun _ => .pure

theorem storeEntry_keeps {w t a e} : KeepsForm (storeEntry w t a e) :=
  .bind placeWrite_keeps fun _ => .bind storePlace_keeps fun _ => noteEntry_keeps

theorem kvRead_keeps {k v} : KeepsForm (kvRead k v) := by
  unfold kvRead
  refine .bind readImage_keeps fun _ => .get fun _ _ => .ite .pure (.bind readKvTab_keeps fun _ => ?_)
  split
  · exact .pure
  · exact .ite .pure (.bind readEntry_keeps fun _ => .pure)

theorem kvAnswer_keeps {k block va} : KeepsForm (kvAnswer k block va) :=
  orFatal_keeps (.get fun _ _ => .bind writeMem_keeps fun _ => .pure) (fun _ _ => .pure)

theorem kvLower_keeps {w pkg va} : KeepsForm (kvLower w pkg va) :=
  orFatal_keeps (.bind countAdd_keeps fun _ => .pure) (fun _ _ => .bind (.modify fun _ hx2 => hx2.modDie) fun _ => .pure)

theorem finish_keeps {k l r} : KeepsForm (KvLow.finish k l r) := by
  unfold KvLow.finish
  refine .ite .pure ?_
  split
  · exact .ite kvAnswer_keeps .pure
  · exact .pure

theorem away_keeps {w l} : KeepsForm (KvLow.away w l) := by
  unfold KvLow.away
  split
  · exact .pure
  refine orFatal_keeps (.bind placeWrite_keeps fun _ => ?_) (fun _ _ => .pure)
  split
  · exact .pure
  · exact .pure

theorem kvLowerAfter_keeps {k w l} : KeepsForm (kvLowerAfter k w l) :=
  .bind away_keeps fun _ => .ite (.bind (.modify fun _ hx => hx.modSlot) fun _ => .pure)
      (.bind kvLower_keeps fun _ => .map finish_keeps)

theorem kvStep_keeps {k v act} (hact : ∀ a0 a1, KeepsForm (act a0 a1)) : KeepsForm (kvStep k v act) := by
  unfold kvStep
  refine .get fun _ _ => ?_
  split
  · exact .bind kvLower_keeps fun _ => .map finish_keeps
  refine .bind fenceM_keeps fun _ => orFatal_keeps (.ite .pure (.bind kvRead_keeps fun _ => ?_)) (fun _ _ => .pure)
  split
  · exact .pure
  · exact .get fun _ _ => hact _ _

theorem State.MemoryForm.runKv {op act} (h : s.MemoryForm) (hact : ∀ a0 a1, KeepsForm (act a0 a1)) :
    (runKv op act s).MemoryForm := by
  unfold Machine.runKv
  dsimp only
  split
  · exact h
  refine .ite h (h.runM (.bind (kvStep_keeps hact) fun _ => .modify fun _ hs1 => ?_) (fun _ _ _ hs1 => hs1.cmdFatal)
      (fun _ _ hs1 => hs1.modSlot.raise))
  split
  · exact hs1.dropFault.dropRequests
  · exact hs1.dropFault.dropRequests.modSlot.finishCmd

theorem kvTaken_keeps {k w c e m go} (hm : KeepsForm (m)) (hgo : KeepsForm (go)) : KeepsForm (kvTaken k w c e m go) :=
  .bind (orFatal_keeps (.bind hm fun _ => .pure) (fun _ _ => .pure)) fun _ => .ite hgo kvLowerAfter_keeps

theorem execKvAlloc_formed (h : s.MemoryForm) : Res.Formed (execKvAlloc s) := by
  unfold execKvAlloc
  refine h.runKv (fun _ _ => .ite .pure (.bind allocBlock_keeps fun _ => ?_))
  split
  · exact .pure
  · exact kvTaken_keeps storeEntry_keeps (.map kvAnswer_keeps)

theorem execKvOpen_formed (h : s.MemoryForm) : Res.Formed (execKvOpen s) := by
  unfold execKvOpen
  refine h.runKv (fun _ _ => .ite .pure (.bind placeWrite_keeps fun _ => .bind readEntry_keeps fun _ => .bind
      countRead_keeps fun _ => .ite (.map kvAnswer_keeps) (.bind allocBlock_keeps fun _ => ?_)))
  split
  · exact .pure
  · exact kvTaken_keeps (.bind readMem_keeps fun _ => .bind storeMem_keeps fun _ => storeEntry_keeps) kvLowerAfter_keeps

theorem raiseCounts_keeps {die n cs} : KeepsForm (raiseCounts die n cs) := by
  induction cs with
  | nil => exact .pure
  | cons c cs ih => exact .bind countAdd_keeps fun _ => ih

theorem lowerCounts_keeps {die n cs} : KeepsForm (lowerCounts die n cs) := by
  induction cs with
  | nil => exact .pure
  | cons c cs ih =>
    have hlost : KeepsForm (modify (·.modDie die fun d => { d with schedErr := d.schedErr + 1 }) : M Unit) :=
        .modify fun _ hs => hs.upd rfl
    exact .get fun _ _ => .ite (.bind hlost fun _ => ih)
      (.bind (orFatal_keeps (.bind countAdd_keeps fun _ => .pure) fun _ _ => hlost) fun _ => ih)

theorem State.MemoryForm.homeFree {frame} (h : s.MemoryForm) : (s.homeFree frame).MemoryForm :=
  .ite h (h.runM (.bind lowerCounts_keeps fun _ => .modify fun _ hs1 => (hs1.upd (by rfl)).freeFrame) (fun _ _ _ hs1 => hs1)
      (fun _ _ hs1 => hs1))

theorem State.MemoryForm.endCopy {c} (h : s.MemoryForm) : (s.endCopy c).MemoryForm := by
  unfold State.endCopy
  extract_lets t u v w
  have ht : t.MemoryForm := h.upd rfl
  have hv : v.MemoryForm := ht.setEntry.lowerFrame.tlbDrop
  clear_value v
  exact hv.upd rfl

theorem State.MemoryForm.failCopy {c sub va} (h : s.MemoryForm) : (s.failCopy c sub va).MemoryForm := by
  unfold State.failCopy
  dsimp only
  split
  · exact h.upd rfl
  · exact h.upd rfl

theorem execFrameCopyDone_formed (h : s.MemoryForm) : Res.Formed (execFrameCopyDone s) := by
  unfold execFrameCopyDone
  split
  · exact .ite h (h.runM (.bind raiseCounts_keeps fun _ => .modify fun _ hs1 => hs1.dropFault.dropRequests.endCopy)
        (fun _ _ _ hs1 => hs1.failCopy) (fun _ _ hs1 => hs1))
  · exact h

/-! ### Tables -/

theorem State.MemoryForm.standAgain {id} (h : s.MemoryForm) : (s.standAgain id).MemoryForm := by
  unfold State.standAgain
  dsimp only
  split
  · exact h.modDie
  · exact h.settle
  · exact .ite h h.modDie
  · exact h.release
  · exact h

theorem State.MemoryForm.markTable {flagged id} (h : s.MemoryForm) : (s.markTable flagged id).MemoryForm := by
  unfold State.markTable
  refine .ite h ?_
  dsimp only
  split
  · exact h
  · exact h.foldl fun _ _ hs1 => .ite hs1.addRange hs1

/-- What a restore takes from an image: canonical, and beyond the physical addresses only in frames of a region. -/
def ImageFormed (s : State) (img : Memory) : Prop := img.wf = true ∧ ∀ c ∈ img, c.1 < 2 ^ 40 ∨ s.reserved (c.1 / 65536) = true

theorem mem_replaceMem {m img : Memory} {lo n : Nat} {c : Nat × Byte} (h : c ∈ replaceMem m lo n img) :
    c ∈ m ∨ ∃ x ∈ img, c.1 = lo + x.1 := by
  unfold replaceMem at h
  rcases List.mem_append.1 h with h | h
  · rcases List.mem_append.1 h with h | h
    · exact .inl (List.mem_filter.1 h).1
    · obtain ⟨x, hx, rfl⟩ := List.mem_map.1 h
      exact .inr ⟨x, hx, rfl⟩
  · exact .inl (List.mem_filter.1 h).1

theorem ImageFormed.decryptAt {gen img f} (h : ImageFormed s img) (hf : f < 2 ^ 24 ∨ s.reserved f = true) :
    ImageFormed s (decryptAt gen img f) := by
  obtain ⟨hi, hk⟩ := wf_image (bs := (Config.decryptFrame gen.toNat (f * 65536) (img.readBytes (f * 65536) 65536)).take 65536)
    (List.length_take_le ..)
  refine ⟨wf_replaceMem _ _ h.1 hi hk, fun c hc => ?_⟩
  rcases mem_replaceMem hc with hc | ⟨x, hx, e⟩
  · exact h.2 c hc
  · have hx := hk x hx
    have hframe : c.1 / 65536 = f := by omega
    rw [hframe]
    exact hf.imp_left fun hf => by omega

theorem reserved_of_region {r d j b : Nat} (hr : r < 9) (hd : d < 4) (hb : s.regionBase r d = some b)
    (hj : j < regionFrames r d) : s.reserved (b + j) = true := by
  refine List.any_eq_true.2 ⟨4 * r + d, List.mem_range.2 (by omega), ?_⟩
  have hquot : (4 * r + d) / 4 = r := by omega
  have hrem : (4 * r + d) % 4 = d := by omega
  simp only [State.inRegion, hquot, hrem, hb, Option.any_some, decide_eq_true_eq]
  omega

/-- What a table made by puts lists. -/
theorem mem_foldl_put {α β : Type} {k : β → Nat} {v : β → α} {xs : List β} {t : Table α} {e : Nat × α}
    (h : e ∈ xs.foldl (fun (t : Table α) x => t.put (k x) (v x)) t) : e ∈ t ∨ ∃ x ∈ xs, e.1 = k x := by
  refine List.foldlRecOn (motive := fun u => e ∈ u → e ∈ t ∨ ∃ x ∈ xs, e.1 = k x) xs _ .inl (fun u hu x hx he => ?_) h
  exact (Table.mem_put he).elim (fun e => .inr ⟨x, hx, congrArg Prod.fst e⟩) hu

theorem mem_readTable {α : Type} {s : State} {img r key} {f : List Byte → α} {e : Nat × α} (h : e ∈ s.readTable img r key f) :
    ∃ d < 4, ∃ x ∈ s.readRecords img r d, e.1 = key d x.1 := by
  refine List.foldlRecOn (motive := fun (u : Table α) => e ∈ u → ∃ d < 4, ∃ x ∈ s.readRecords img r d, e.1 = key d x.1) _ _
    (fun h => absurd h List.not_mem_nil) (fun u hu d hd he => ?_) h
  rcases mem_foldl_put he with he | ⟨x, hx, e⟩
  · exact hu he
  · refine ⟨d, ?_, x, hx, e⟩
    fin_cases hd <;> decide

/-- A record of a region has the index of a byte of it. -/
theorem index_readRecords {img r d} {x : Nat × List Byte} (hi : img.wf = true) (h : x ∈ s.readRecords img r d) :
    ∃ n < regionFrames r d * 65536, x.1 = n / regionSize r := by
  unfold State.readRecords at h
  split at h
  · exact nomatch h
  · obtain ⟨i, hm, rfl⟩ := List.mem_map.1 h
    obtain ⟨c, hc, rfl⟩ := List.mem_map.1 (List.mem_dedup.1 hm)
    exact ⟨c.1, (wf_sliceMem _ _ hi).2 c hc, rfl⟩

/-- What the frame descriptors' region describes are frames of physical memory. -/
theorem frameAt_lt {d i : Nat} (hd : d < 4) (hi : i < 1280 * 2048) : frameAt d i / 65536 < 2 ^ 24 := by
  unfold frameAt bankFrame
  split <;> omega

/-- Each view of the package starts from the same memory. -/
theorem wf_views {m : Memory} (hm : m.wf = true) (hk : ∀ c ∈ m, c.1 < 2 ^ 40) :
    Memory.wf (([0, 1, 2, 3] : List Nat).flatMap fun d => m.map fun c => (viewKey d c.1, c.2)) = true := by
  simp only [Memory.wf, Bool.and_eq_true, Memory.noZero_iff, Table.sorted_iff] at hm ⊢
  obtain ⟨hs, hz⟩ := hm
  constructor
  · refine List.pairwise_flatMap.2 ⟨fun d _ => List.pairwise_map.2 (hs.imp fun h => Nat.add_lt_add_left h _), ?_⟩
    have hlt : ∀ d e : Nat, d < e → ∀ x ∈ m.map (fun c => (viewKey d c.1, c.2)), ∀ y ∈ m.map (fun c => (viewKey e c.1, c.2)),
        x.1 < y.1 := by
      rintro d e hde _ hx _ hy
      obtain ⟨a, ha, rfl⟩ := List.mem_map.1 hx
      obtain ⟨b, -, rfl⟩ := List.mem_map.1 hy
      have := hk a ha
      show d * 2 ^ 40 + a.1 < e * 2 ^ 40 + b.1
      omega
    exact List.Pairwise.imp (fun h => hlt _ _ h) (by decide : List.Pairwise (· < ·) [0, 1, 2, 3])
  · intro x hx
    obtain ⟨d, -, hx⟩ := List.mem_flatMap.1 hx
    obtain ⟨c, hc, rfl⟩ := List.mem_map.1 hx
    exact hz c hc

theorem State.MemoryForm.restoreImage {gen img} (h : s.MemoryForm) : (s.restoreImage gen img).MemoryForm := by
  unfold State.restoreImage
  extract_lets raw opened tenants frames locked image plain bit t u ids young v w
  have hraw : ImageFormed s raw := by
    refine List.foldlRecOn (motive := ImageFormed s) _ _ ⟨rfl, fun _ hc => nomatch hc⟩ fun m hm c _ => ?_
    split
    next hc =>
      refine ⟨Memory.wf_writeByte _ _ hm.1, fun x hx => ?_⟩
      exact (mem_writeByte hx).elim (hm.2 x) fun e => .inl (e ▸ hc)
    · exact hm
  have hopened : ImageFormed s opened := by
    refine List.foldlRecOn (motive := ImageFormed s) _ _ hraw fun m hm j hj => ?_
    split
    next hb => exact hm.decryptAt (.inr (reserved_of_region (by decide) (by decide) hb (List.mem_range.1 hj)))
    · exact hm
  have himage : ImageFormed s image := by
    refine List.foldlRecOn (motive := ImageFormed s) _ _ hopened fun m hm f hf => hm.decryptAt (.inl ?_)
    obtain ⟨e, he, rfl⟩ := List.mem_map.1 hf
    obtain ⟨d, hd, x, hx, hkey⟩ := mem_readTable (List.mem_filter.1 (List.mem_filter.1 he).1).1
    obtain ⟨n, hn, hidx⟩ := index_readRecords hopened.1 hx
    have hframes : regionFrames 1 d = 1280 := by simp [regionFrames]
    rw [hframes] at hn
    have hx : n / regionSize 1 < 1280 * 2048 := by simp only [regionSize, List.getD_cons_succ, List.getD_cons_zero]; omega
    exact hkey ▸ hidx ▸ frameAt_lt hd hx
  have hplain : plain.wf = true ∧ ∀ c ∈ plain, c.1 < 2 ^ 40 := by
    simp only [Memory.wf, Bool.and_eq_true, Memory.noZero_iff, Table.sorted_iff]
    have hi := himage.1
    simp only [Memory.wf, Bool.and_eq_true, Memory.noZero_iff, Table.sorted_iff] at hi
    refine ⟨⟨hi.1.filter _, fun c hc => hi.2 c (List.mem_filter.1 hc).1⟩, fun c hc => ?_⟩
    obtain ⟨hc, hr⟩ := List.mem_filter.1 hc
    exact (himage.2 c hc).resolve_right (by simpa using hr)
  have ht : t.MemoryForm := h.withMem rfl (wf_views hplain.1 hplain.2)
  have hu : u.MemoryForm := ht.foldl fun _ _ hs => hs.foldl fun _ _ hr => hr.upd rfl
  have hv : v.MemoryForm := (hu.upd (by rfl)).foldl fun _ _ hs => hs.standAgain
  have hw : w.MemoryForm := hv.foldl fun _ _ hs => hs.markTable
  exact hw.foldl fun _ _ hs => hs.checkGroup

/-! ### TileIssue -/

theorem readRecord_keeps {b : State} {k va n} : KeepsForm (readRecord b k va n) := by
  unfold readRecord
  dsimp only
  split
  · exact .throw .trap
  · exact .ite (.stop .plain) readMem_keeps

theorem readRecords_keeps {b : State} {k as} : KeepsForm (readRecords b k as) := by
  induction as with
  | nil => exact .pure
  | cons a as ih => exact .bind readRecord_keeps fun _ => .bind ih fun _ => .pure

theorem gatherRecords_keeps {b : State} {k w} : KeepsForm (gatherRecords b k w) :=
  .ite (.bind readRecord_keeps fun _ => .pure) (.bind readRecords_keeps fun _ => .ite
      (.bind readRecord_keeps fun _ => .bind readRecords_keeps fun _ => .pure) .pure)

theorem State.MemoryForm.noteKend {cl w} (h : s.MemoryForm) : (s.noteKend cl w).MemoryForm := by
  unfold State.noteKend
  split
  · exact .ite (h.upd rfl) (.ite (h.upd rfl) h)
  · exact h

theorem State.MemoryForm.queueFrame {b t : State} {l q w rs} (ht : t.MemoryForm) : (b.queueFrame t l q w rs).MemoryForm := by
  unfold State.queueFrame
  dsimp only
  split
  · exact .ite (ht.noteKend.upd (by rfl)).depart.modSlot (ht.noteKend.upd (by rfl)).depart
  · exact (ht.noteKend.upd (by rfl)).depart

theorem execTcmd_formed {a b g l q f w} (h : s.MemoryForm) : Res.Formed (execTcmd a b g l q f w s) := by
  unfold execTcmd
  refine issueM_formed h (fun _ _ => .bind gatherRecords_keeps fun _ => ?_)
  split
  · exact .throw .trap
  · exact .modify fun _ ht => ht.queueFrame

/-! ### Tile -/

theorem State.MemoryForm.setCmd {m} (h : s.MemoryForm) : (s.setCmd m).MemoryForm := h.upd rfl

theorem State.MemoryForm.acceptCmd {n} (h : s.MemoryForm) : SomeFormed (s.acceptCmd n) := by
  unfold State.acceptCmd
  split
  · exact .some h
  · exact .ite .none (.some (.ite (h.upd rfl) (h.upd (by rfl)).modCore))

theorem State.MemoryForm.modRing {cl n f} (h : s.MemoryForm) : (s.modRing cl n f).MemoryForm := h.modCluster

theorem State.MemoryForm.retireRings {m} (h : s.MemoryForm) : (s.retireRings m).MemoryForm := by
  unfold State.retireRings
  exact .ite (h.foldl fun _ _ hs1 => hs1.modRing).modRing (.ite
      (.modRing (.ite (h.foldl fun _ _ hs1 => hs1.modRing).modRing (h.foldl fun _ _ hs1 => hs1.modRing)))
      (.ite (h.foldl fun _ _ hs1 => hs1.modRing).modRing (h.foldl fun _ _ hs1 => hs1.modRing)))

theorem State.MemoryForm.endCmd {m estat fsub} (h : s.MemoryForm) : (s.endCmd m estat fsub).MemoryForm := by
  unfold State.endCmd
  exact .ite h.retireRings.setCmd.dropFault.modCore h.retireRings.setCmd.dropFault

theorem getCmd_keeps {n} : KeepsForm (getCmd n) := by
  unfold getCmd
  refine .get fun _ _ => ?_
  split
  · exact .pure
  · exact .throw .plain

theorem putCmd_keeps {m} : KeepsForm (putCmd m) := .modify fun _ hx => hx.setCmd

theorem madeRun_keeps {m todo count} : KeepsForm (madeRun m todo count) := .bind putCmd_keeps fun _ => .pure

theorem State.MemoryForm.runTile {op start post after} (h : s.MemoryForm) (hstart : ∀ a0, KeepsForm (start a0))
    (hpost : ∀ a0 a1 a2, KeepsForm (post a0 a1 a2)) (hafter : ∀ a0, KeepsForm (after a0)) :
    (runTile op start post after s).MemoryForm := by
  unfold Machine.runTile
  split
  · exact h
  refine .ite h (.ite h (h.runM (.bind (.ite .pure (.bind settleWrites_keeps fun _ => hstart _)) fun _ => ?_)
      (fun _ _ _ hs1 => hs1.endCmd) (fun _ _ hs1 => hs1)))
  dsimp only
  split
  · exact .bind getCmd_keeps fun _ => .bind (.modify fun _ hs1 => hs1.endCmd) fun _ => .modify fun _ hs1 => hs1.upd rfl
  refine .bind getCmd_keeps fun _ => ?_
  split
  · exact .ite (.bind (hpost _ _ _) fun _ => .bind putCmd_keeps fun _ => .modify fun _ hs1 => hs1.upd rfl)
        (.modify fun _ hs1 => hs1.upd rfl)
  · exact .bind (hafter _) fun _ => .ite (.bind getCmd_keeps fun _ => .bind (.modify fun _ hs1 => hs1.endCmd) fun _ =>
        .modify fun _ hs1 => hs1.upd rfl) (.modify fun _ hs1 => hs1.upd rfl)

theorem atOnce_keeps {a} : KeepsForm (atOnce a) := .pure

theorem postPlain_keeps {m va bs} : KeepsForm (postPlain m va bs) := .bind writeMem_keeps fun _ => .pure

theorem postNone_keeps {m x x1} : KeepsForm (postNone m x x1) := .pure

theorem sendAmo_keeps {w pkg va size op x ticket} : KeepsForm (sendAmo w pkg va size op x ticket) := by
  unfold sendAmo
  refine .get fun _ hs => .ite (.throw .fatal) (.ite (.throw (.wait fun _ ht => ht.relieveTouched)) ?_)
  split
  · exact .throw .plain
  · exact .set hs.addRequest.sendPacket

theorem postRed_keeps {m va bs} : KeepsForm (postRed m va bs) := by
  unfold postRed
  refine .bind placeWrite_keeps fun _ => ?_
  dsimp only
  split
  · exact .get fun _ hs => .bind (.set (hs.upd rfl)) fun _ => .pure
  · exact .get fun _ hs => .bind (.set (hs.upd rfl)) fun _ => .pure
  · exact .bind sendAmo_keeps fun _ => .pure
  · exact .throw .fatal

theorem postHome_keeps {acc m va bs f peer} : KeepsForm (postHome acc m va bs f peer) := by
  unfold postHome
  refine .bind placeWrite_keeps fun _ => ?_
  dsimp only
  split
  · split
    · exact .bind sendAmo_keeps fun _ => .pure
    · exact .bind peerStep_keeps fun _ => .pure
  · exact .ite (.stop .fatal) (.bind askHost_keeps fun _ => .pure)
  · exact .get fun _ _ => .bind homeWrite_keeps fun _ => .pure

theorem State.MemoryForm.engineFault {m sub} (h : s.MemoryForm) : (s.engineFault m sub).MemoryForm := by
  unfold State.engineFault
  exact .ite h.postAsync.modCore h.postFaultEntry

theorem settleCmd_keeps {m} : KeepsForm (settleCmd m) :=
  orFatal_keeps (.get fun _ _ => .ite (.stop .plain) (.bind settleWrites_keeps fun _ => .pure)) (fun _ _ => .pure)

theorem execCommandComplete_formed (h : s.MemoryForm) : Res.Formed (execCommandComplete s) := by
  unfold execCommandComplete
  split
  · exact h
  refine .ite h (h.runM (.bind settleCmd_keeps fun _ => .modify fun _ hs1 => ?_) (fun _ _ _ hs1 => hs1) (fun _ _ hs1 => hs1))
  dsimp only
  split
  · split
    · exact (hs1.upd (by rfl)).deliverFill
    · exact hs1.upd rfl
  · refine .engineFault ?_
    split
    · exact (hs1.upd (by rfl)).deliverFill
    · exact hs1.upd rfl
  split
  · exact (hs1.upd (by rfl)).deliverFill
  · exact hs1.upd rfl

theorem State.MemoryForm.arrive {d cl off x arm} (h : s.MemoryForm) : (s.arrive d cl off x arm).MemoryForm := by
  unfold State.arrive
  exact .ite h.storeLs.setFull h.storeLs

theorem execArrivalCount_formed (h : s.MemoryForm) : Res.Formed (execArrivalCount s) := by
  unfold execArrivalCount
  split
  · exact h
  split
  · exact h
  · exact h.runM (.bind settleCmd_keeps fun _ => .modify fun _ hs1 => hs1.arrive.setCmd) (fun _ _ _ hs1 => hs1)
        (fun _ _ hs1 => hs1)

theorem execLeaseGrant_formed (h : s.MemoryForm) : Res.Formed (execLeaseGrant s) := by
  unfold execLeaseGrant
  refine .ite h ?_
  split
  · exact h
  · exact h.modCluster.modCore

theorem execLeaseEnd_formed (h : s.MemoryForm) : Res.Formed (execLeaseEnd s) := by
  unfold execLeaseEnd
  dsimp only
  split
  · exact h
  · exact .ite h h.modCluster.modCore

/-! ### Cut -/

theorem State.MemoryForm.takeCut {mask} (h : s.MemoryForm) : (s.takeCut mask).MemoryForm := h.upd rfl

/-! ### TileCmd -/

theorem State.MemoryForm.writeAcc {cl i off bs} (h : s.MemoryForm) : (s.writeAcc cl i off bs).MemoryForm :=
  h.withAcc rfl (Memory.wf_writeBytes _ _ h.acc)

theorem startMma_keeps {m} : KeepsForm (startMma m) :=
  .get fun _ _ => .ite .pure (.ite (.stop .plain) (.ite madeRun_keeps
      (.bind (.forIn fun _ _ => .bind (.modify fun _ hx1 => hx1.writeAcc) fun _ => .pure) fun _ => madeRun_keeps)))

theorem startCell_keeps {m} : KeepsForm (startCell m) :=
  .get fun _ _ => .ite .pure (.ite (.stop .plain) (.bind (.forIn fun _ _ => .bind
      (.forIn fun _ _ => .bind (.modify fun _ hx2 => hx2.writeAcc) fun _ => .pure) fun _ => .pure) fun _ => madeRun_keeps))

theorem readElem_keeps {m l idx} : KeepsForm (readElem m l idx) := .ite (.bind readMem_keeps fun _ => .pure) .pure

theorem startScan_keeps {m} : KeepsForm (startScan m) :=
  .get fun _ _ => .ite (.stop .plain) (.bind (.ite .pure readMem_keeps) fun _ => madeRun_keeps)

theorem afterScan_keeps {m} : KeepsForm (afterScan m) :=
  .get fun _ hs => .bind (.set (hs.foldl fun _ _ hs1 => hs1.writeAcc)) fun _ => .bind
      (.forIn fun _ _ => .bind postPlain_keeps fun _ => .pure) fun _ => .bind putCmd_keeps fun _ => .pure

theorem startAccrd_keeps {m} : KeepsForm (startAccrd m) := .get fun _ _ => madeRun_keeps

theorem startAcclr_keeps {m} : KeepsForm (startAcclr m) := by
  refine .bind (.modify fun s hs => hs.withAcc rfl ?_) fun _ => madeRun_keeps
  have hlen : ((List.range 16384).flatMap fun _ => leBytes 4 m.w.w5.toNat).length ≤ 65536 := by simp
      [List.length_flatMap, Laws.length_leBytes, -List.map_const, -List.reduceReplicate, List.map_const']
  obtain ⟨hi, hk⟩ := wf_image hlen
  refine wf_replaceMem _ _ hs.acc ?_ ?_
  · split
    · exact hi
    · rfl
  · split
    · exact hk
    · nofun

theorem startFmtld_keeps {m} : KeepsForm (startFmtld m) :=
  .bind readMem_keeps fun _ => .ite .pure (.bind (.modify fun _ hx => hx.modCore) fun _ => madeRun_keeps)

theorem startRingcfg_keeps {m} : KeepsForm (startRingcfg m) :=
  .get fun _ _ => .ite (.stop .plain) (.ite .pure (.bind (.modify fun _ hx => hx.modRing) fun _ => madeRun_keeps))

/-! ### Att -/

theorem rangeEntry_keeps {w sid a} : KeepsForm (rangeEntry w sid a) :=
  .bind readEntry_keeps fun _ => .ite .pure (.ite (.get fun _ _ => .stop stopFault_kept) .pure)

theorem entriesValid_keeps {w as} : KeepsForm (entriesValid w as) := by
  induction as with
  | nil => exact .pure
  | cons a as ih => exact .bind readEntry_keeps fun _ => .ite ih .pure

theorem readPeer_keeps {w pkg fuel va n} : KeepsForm (readPeer w pkg fuel va n) := by
  induction fuel generalizing va n with
  | zero => exact .pure
  | succ fuel ih => exact .ite .pure (.bind readPlace_keeps fun _ => .bind ih fun _ => .pure)

theorem readBlock_keeps {w t e} : KeepsForm (readBlock w t e) := .ite readPeer_keeps readMem_keeps

theorem State.MemoryForm.putRow {m c last r x} (h : s.MemoryForm) : (s.putRow m c last r x).MemoryForm := by
  unfold State.putRow
  exact h.writeAcc.foldl fun _ _ hs1 => .ite hs1.writeAcc hs1.writeAcc

theorem attRange_keeps {m t d} : KeepsForm (attRange m t d) := by
  unfold attRange
  dsimp only
  split
  · exact .bind readMem_keeps fun _ => .pure
  · exact .ite .pure (.bind readMem_keeps fun _ => .pure)
  · exact .pure

theorem State.MemoryForm.putRows {m last outs} (h : s.MemoryForm) : (s.putRows m last outs).MemoryForm := by
  unfold State.putRows
  extract_lets t
  have ht : t.MemoryForm := h.foldl fun _ _ hs => hs.putRow
  exact .ite (ht.withAcc rfl (wf_replaceMem _ _ ht.acc rfl nofun)) ht

theorem startAtt_keeps {m} : KeepsForm (startAtt m) := by
  unfold startAtt
  refine .get fun _ _ => .ite (.stop .plain) (.ite .pure (.bind readMem_keeps fun _ => ?_))
  split
  · exact .pure
  refine .ite .pure (.bind attRange_keeps fun _ => ?_)
  split
  · exact .pure
  · exact .bind entriesValid_keeps fun _ => .ite .pure (.ite .pure
        (.ite (.bind (.modify fun _ hs1 => hs1.putRows) fun _ => madeRun_keeps) madeRun_keeps))

theorem attBlock_keeps {m t i} : KeepsForm (attBlock m t i) := by
  unfold attBlock
  refine .bind rangeEntry_keeps fun _ => ?_
  split
  · exact .pure
  · exact .bind readBlock_keeps fun _ => .pure

theorem afterAtt_keeps {m} : KeepsForm (afterAtt m) := by
  unfold afterAtt
  split
  · exact .pure
  refine .ite (.bind putCmd_keeps fun _ => .pure) (.bind attBlock_keeps fun _ => ?_)
  split
  · exact .bind (.modify fun _ hs => hs.endCmd) fun _ => .pure
  · exact .get fun _ _ => .ite (.bind (.modify fun _ hs1 => hs1.putRows.modCore) fun _ => .bind putCmd_keeps fun _ => .pure)
        (.bind putCmd_keeps fun _ => .pure)

theorem postScore_keeps {m va bs} : KeepsForm (postScore m va bs) := postHome_keeps

theorem allocBlocks_keeps {w t die n} : KeepsForm (allocBlocks w t die n) := by
  induction n with
  | zero => exact .pure
  | succ n ih =>
    refine .bind allocBlock_keeps fun b => ?_
    split
    · exact .pure
    · exact .bind ih fun _ => .pure

theorem allocAll_keeps {w t die nb n} : KeepsForm (allocAll w t die nb n) := by
  induction n with
  | zero => exact .pure
  | succ n ih =>
    refine .bind allocBlocks_keeps fun b => ?_
    split
    · exact .pure
    · exact .bind ih fun _ => .pure

theorem compactGroup_keeps {w t kvlen keep new die tier ly g} : KeepsForm (compactGroup w t kvlen keep new die tier ly g) :=
    by
  unfold compactGroup
  exact .bind (.forIn fun _ _ => .bind readEntry_keeps fun _ => .pure) fun _ => .bind
      (.forIn fun _ _ => .ite (.get fun _ _ => .stop stopFault_kept) (.bind readBlock_keeps fun _ => .pure)) fun _ => .pure

theorem compactAll_keeps {w t kvlen keep die tier gs} : KeepsForm (compactAll w t kvlen keep die tier gs) := by
  induction gs with
  | nil => exact .pure
  | cons g gs ih => exact .bind compactGroup_keeps fun _ => .bind ih fun _ => .pure

theorem startCompact_keeps {m} : KeepsForm (startCompact m) := by
  unfold startCompact
  refine .get fun _ _ => .ite .pure (.bind readMem_keeps fun _ => ?_)
  split
  · exact .pure
  refine .ite .pure (.bind entriesValid_keeps fun _ => .ite .pure
      (.bind readMem_keeps fun _ => .ite .pure (.get fun _ hbefore => .bind allocAll_keeps fun _ => ?_)))
  split
  · exact .bind (.set hbefore) fun _ => .pure
  · exact .bind compactAll_keeps fun _ => .bind (.ite .pure (.bind readMem_keeps fun _ => .pure)) fun _ => madeRun_keeps

theorem postCompact_keeps {m va bs} : KeepsForm (postCompact m va bs) := by
  unfold postCompact
  split
  · exact .ite (.bind writeEntry_keeps fun _ => .pure) postPlain_keeps
  · exact postPlain_keeps

theorem afterCompact_keeps {m} : KeepsForm (afterCompact m) := by
  unfold afterCompact
  refine .get fun _ _ => .ite (.stop .plain) ?_
  split
  · exact .bind (orFatal_keeps lowerEntry_keeps (fun _ _ => .modify fun _ hx2 => hx2.modDie)) fun _ => .bind
        putCmd_keeps fun _ => .pure
  · exact .bind settleWrites_keeps fun _ => .bind (.modify fun _ hx3 => hx3.scbStep) fun _ => .bind putCmd_keeps fun _ =>
        .pure

/-! ### Fetch -/

theorem fetchBytes_keeps {k pc n} : KeepsForm (fetchBytes k pc n) := by
  unfold fetchBytes
  refine .get fun _ hs => ?_
  dsimp only
  split
  · exact .ite (.stop .plain) (.bind (.set hs.noteAccess) fun _ => .pure)
  · exact readMemFrom_keeps

theorem fetchM_keeps {k} : KeepsForm (fetchM k) := by
  unfold fetchM
  refine .get fun _ _ => ?_
  dsimp only
  split
  · exact .throw .trap
  refine .bind fetchBytes_keeps fun _ => .ite ?_ (.bind .pure fun _ => .bind
      (.modify fun _ hs1 => hs1.dropFault.dropRequests) fun _ => ?_)
  · split
    · exact .stop .trap
    refine .bind fetchBytes_keeps fun _ => .bind (.modify fun _ hs1 => hs1.dropFault.dropRequests) fun _ => ?_
    split
    · exact .pure
    · exact .pure
  · split
    · exact .pure
    · exact .pure

theorem State.MemoryForm.fetch {k} (h : s.MemoryForm) : (s.fetch k).1.MemoryForm := by
  have hm := fetchM_keeps (k := k) s h
  unfold State.fetch
  split
  next e => rw [e] at hm; exact hm
  next e => rw [e] at hm; exact hm s h
  · exact (h.upd (by rfl)).fatalIssue
  · exact h.raise

/-! ### Complete -/

theorem execIllegalWord_formed {word} (h : s.MemoryForm) : Res.Formed (execIllegalWord word s) := by
  unfold execIllegalWord
  split
  · exact h
  split
  · exact h.raise
  · exact h

theorem gmaskM_keeps {k o n p} : KeepsForm (gmaskM k o n p) := by
  unfold gmaskM
  refine .get fun _ _ => ?_
  split
  · exact .pure
  split
  · exact .throw .plain
  · exact .bind settleWrites_keeps fun _ => .modify fun _ hs1 => .complete
        (.ite hs1.dropFault.dropRequests hs1.dropFault.dropRequests.dropMask)

theorem State.MemoryForm.gmaskStep {k o n p} (h : s.MemoryForm) : (s.gmaskStep k o n p).MemoryForm :=
  h.runM gmaskM_keeps (fun _ _ _ hs1 => hs1.dropFault.dropRequests.dropMask.fatal) (fun _ _ hs1 => hs1.raise)

theorem gadvM_keeps {k o nodes writes stream cfg d} : KeepsForm (gadvM k o nodes writes stream cfg d) := by
  unfold gadvM
  refine .get fun _ _ => ?_
  dsimp only
  split
  · exact .bind writeMem_keeps fun _ => .modify fun _ hs1 => hs1.dropFault.dropRequests.setOut
  refine .bind settleWrites_keeps fun _ => .modify fun _ hs1 => .complete ?_
  split
  · exact .ite hs1.dropFault.dropRequests hs1.dropFault.dropRequests.setGcfg
  · exact hs1.dropFault.dropRequests

theorem State.MemoryForm.tcmdStep {k o n} (h : s.MemoryForm) : (s.tcmdStep k o n).MemoryForm := by
  unfold State.tcmdStep
  split
  next x ex => exact (h.acceptCmd _ ex).complete
  · exact h

theorem State.MemoryForm.acquireStep {k o need fs} (h : s.MemoryForm) : (s.acquireStep k o need fs).MemoryForm :=
  .ite h (.ite h.setOut h.complete)

theorem deferredBody_keeps {i body} (e : deferredBody i = some body) {s : State} (h : s.MemoryForm) : KeepsForm (body s) := by
  unfold deferredBody at e
  split at e
  · exact Option.some.inj e ▸ tpostBody_keeps
  · exact Option.some.inj e ▸ qpushBody_keeps
  · exact Option.some.inj e ▸ qpopBody_keeps
  · exact Option.some.inj e ▸ clookBody_keeps
  · exact Option.some.inj e ▸ cputBody_keeps
  · exact Option.some.inj e ▸ cinvkBody_keeps
  · exact Option.some.inj e ▸ streamBody_keeps h fun _ _ _ => sactAct_keeps
  · exact Option.some.inj e ▸ streamBody_keeps h fun _ _ _ => sevictAct_keeps
  · exact Option.some.inj e ▸ streamBody_keeps h fun _ _ _ => sjoinOpenAct_keeps
  · exact nomatch e

theorem deferredM_keeps {k o i g d} : KeepsForm (deferredM k o i g d) := by
  unfold deferredM
  split
  · exact .throw .plain
  next e =>
    exact .get fun _ hs => .bind (deferredBody_keeps e (hs.upd rfl)) fun _ => .modify fun _ ht => (ht.upd (by rfl)).complete

theorem copyOutStep_keeps {k o va bs x d} : KeepsForm (copyOutStep k o va bs x d) :=
  .get fun _ _ => .ite (.stop .plain) (.bind writeMem_keeps fun _ => .modify fun _ hs1 => hs1.dropFault.dropRequests.complete)

theorem State.MemoryForm.completeOp {k o} (h : s.MemoryForm) : (s.completeOp k o).MemoryForm := by
  unfold State.completeOp
  split
  · exact h.complete
  · exact h.acquireStep
  · exact .ite h.complete h
  · exact h
  · exact h
  split
  · exact h.complete
  · exact h.runOp loadM_keeps
  · exact h.runOp storeM_keeps
  · exact h.runOp deferredM_keeps
  · exact h.runOp copyOutStep_keeps
  · exact .ite h.complete h
  · exact h.rfillStep
  · exact h.runOp msendM_keeps
  · exact h.runOp mrecvM_keeps
  · exact h.qpopwStep
  · exact h.gmaskStep
  · exact h.runOp gadvM_keeps
  · exact h.tcmdStep
  · exact h
  · exact h
  · exact h
  · exact h
  · exact h
  · exact h

theorem execInstructionComplete_formed (h : s.MemoryForm) : Res.Formed (execInstructionComplete s) := by
  unfold execInstructionComplete
  split
  · exact h.completeOp
  · exact h

theorem execVectorIssue_formed (h : s.MemoryForm) : Res.Formed (execVectorIssue s) := by
  unfold execVectorIssue
  dsimp only
  split
  · split
    · exact h.setOut.modCluster
    · exact h.setOut.modCluster
  · exact h

/-! ### Control -/

theorem State.MemoryForm.goto {before t : State} {target} (ht : t.MemoryForm) : (before.goto t target).MemoryForm := .ite ht
    ht.modSlot

theorem branch_formed {i p disp want} (h : s.MemoryForm) : Res.Formed (branch i p disp want s) := issue_formed h
    (fun _ _ _ ht => .ite ht.goto ht)

/-! ### StreamDev -/

theorem State.MemoryForm.beginBatch {d m l} (h : s.MemoryForm) : (s.beginBatch d m l).MemoryForm := by
  unfold State.beginBatch
  split
  · exact h
  · extract_lets e ids t u
    have ht : t.MemoryForm := h.foldl fun _ _ hs => hs.scbStep
    exact .ite h (ht.upd rfl)

theorem writeBatch_keeps {t} : KeepsForm (writeBatch t) := by
  unfold writeBatch
  split
  refine .bind storeMem_keeps fun _ => .bind storeMem_keeps fun _ => .bind placeRead_keeps fun _ => ?_
  split
  · exact .bind (.modify fun _ hs => hs.modTask) fun _ => .bind queueCard_keeps fun _ => .modify fun _ hx4 => hx4.clearTask
  · exact .throw .fatal

theorem State.MemoryForm.failBatch {t sub va} (h : s.MemoryForm) : (s.failBatch t sub va).MemoryForm := by
  unfold State.failBatch
  split
  · exact ((h.upd (by rfl)).modDie.foldl fun _ _ hs1 => .ite hs1.scbStep.settle hs1.scbStep.release).postFaultEntry

theorem execBatchForm_formed (h : s.MemoryForm) : Res.Formed (execBatchForm s) := by
  unfold execBatchForm
  dsimp only
  split
  · exact .ite h h.beginBatch
  · exact .runM (.ite h h.beginBatch) writeBatch_keeps (fun _ _ _ hs1 => hs1.failBatch) (fun _ _ hs1 => hs1)

theorem State.MemoryForm.endGroup {gid g winners} (h : s.MemoryForm) : (s.endGroup gid g winners).MemoryForm :=
  ((h.foldl fun _ _ hs1 => hs1.kill).foldl fun _ _ hs1 => .ite hs1
      (.ite hs1.scbStep.scbStep (.ite hs1.scbStep hs1.scbStep.settle))).upd rfl

theorem recordPeers_keeps {w va} : KeepsForm (recordPeers w va) := .bind placeWrite_keeps fun _ => .bind
    placeWrite_keeps fun _ => .pure

theorem resolveM_keeps {m g} : KeepsForm (resolveM m g) := by
  unfold resolveM
  exact .ite (.bind writeMem_keeps fun _ => .modify fun _ hs => hs.upd rfl)
      (.get fun _ _ => .ite (.stop .plain) (.bind recordPeers_keeps fun _ => .bind settleWrites_keeps fun _ => .bind
      gatherAdd_keeps fun _ => .modify fun _ hs1 => hs1.dropFault.dropRequests.endGroup))

theorem execGroupMemberUpdate_formed (h : s.MemoryForm) : Res.Formed (execGroupMemberUpdate s) := by
  unfold execGroupMemberUpdate
  split
  · exact h
  refine .ite h ?_
  split
  · exact h.dropMsg
  · exact .ite (h.upd (by rfl)).checkGroup (h.runM resolveM_keeps
        (fun _ _ _ hs1 => hs1.dropFault.dropRequests.dropMsg.postFaultEntry) (fun _ _ hs1 => hs1))

theorem execEvictionRound_formed (h : s.MemoryForm) : Res.Formed (execEvictionRound s) := by
  have hr {high n skip pages more} := State.MemoryForm.evictRound (d := s.ev.who) (high := high) (migrate := State.evictMove)
    (n := n) (skip := skip) (r := ⟨s, pages, more⟩) h fun _ _ _ hu => hu.evictMove
  exact State.MemoryForm.ite (hr.upd rfl) h

theorem execStreamRestoreSelf_formed (h : s.MemoryForm) : Res.Formed (execStreamRestoreSelf s) := by
  unfold execStreamRestoreSelf
  dsimp only
  split
  · exact h
  · exact .ite (h.runM (.bind restoreM_keeps fun _ => .modify fun _ hs1 => hs1.dropFault.dropRequests)
        (fun _ _ _ hs1 => hs1.dropFault.dropRequests) (fun _ _ hs1 => hs1)) h

theorem execTransferDiscard_formed (h : s.MemoryForm) : Res.Formed (execTransferDiscard s) := by
  unfold execTransferDiscard
  split
  · exact h
  · exact .ite (.ite (h.upd rfl) (h.upd (by rfl)).lowerNode) h

theorem execModelEntryWrite_formed (h : s.MemoryForm) : Res.Formed (execModelEntryWrite s) := by
  unfold execModelEntryWrite
  dsimp only
  split
  · exact h
  · exact .ite h.modDie.finishCmd (h.runCmd (.get fun _ _ => .bind readMem_keeps fun _ => .modify fun _ hs2 => .modDie
        (.ite hs2 (hs2.upd rfl))))

theorem execCastInvalidate_formed (h : s.MemoryForm) : Res.Formed (execCastInvalidate s) := by
  unfold execCastInvalidate
  dsimp only
  split
  · exact h
  · exact (h.upd (by rfl)).foldl fun _ _ hs1 => .ite hs1.modTask hs1.castFree

/-! ### LinkDev -/

theorem State.MemoryForm.modIn {n f} (h : s.MemoryForm) : (s.modIn n f).MemoryForm := h.upd rfl

theorem State.MemoryForm.dropIn {n} (h : s.MemoryForm) : (s.dropIn n).MemoryForm := h.upd rfl

theorem State.MemoryForm.endIn {n} (h : s.MemoryForm) : (s.endIn n).MemoryForm := h.dropFault.dropRequests.dropIn

theorem State.MemoryForm.countPerformed {die p} (h : s.MemoryForm) : (s.countPerformed die p).MemoryForm := by
  unfold State.countPerformed
  exact h.modDie

theorem State.MemoryForm.answerIn {e status fs data} (h : s.MemoryForm) : (s.answerIn e status fs data).MemoryForm := by
  unfold State.answerIn
  exact h.endIn.countPerformed.sendLink

theorem State.MemoryForm.settleInbox (h : s.MemoryForm) : s.settleInbox.MemoryForm :=
  h.foldl fun _ _ hs1 => hs1.endIn.countPerformed

theorem State.MemoryForm.serveIn {e f} (h : s.MemoryForm) (hf : ∀ a0, KeepsForm (f a0)) : (s.serveIn e f).MemoryForm := by
  unfold State.serveIn
  exact .ite (.ite (.ite h.endIn.countPerformed.modDie h.endIn.countPerformed) h.answerIn)
      (.ite (.ite (.ite h.endIn.countPerformed.modDie h.endIn.countPerformed) h.answerIn)
      (.ite h (h.runM (hf _) (fun _ _ _ hs1 => .ite (.ite hs1.endIn.countPerformed.modDie hs1.endIn.countPerformed)
      hs1.answerIn) (fun _ _ hs1 => hs1))))

theorem State.MemoryForm.packetIn {kind f} (h : s.MemoryForm) (hf : ∀ a0, KeepsForm (f a0)) : (s.packetIn kind f).MemoryForm
    := by
  unfold State.packetIn
  refine .ite ?_ (.ite h.settleInbox (.ite h.settleInbox.sendOn
      (.ite h.settleInbox ((h.settleInbox.giveBack.upd (by rfl)).serveIn hf))))
  split
  · exact h.settleInbox.serveIn hf
  · exact h.settleInbox

theorem answer_keeps {e status fs data} : KeepsForm (answer e status fs data) := .modify fun _ hs => hs.answerIn

theorem readHomes_keeps {w acc fuel va n} : KeepsForm (readHomes w acc fuel va n) := by
  induction fuel generalizing va n with
  | zero => exact .pure
  | succ fuel ih =>
    refine .ite .pure (.bind placeRead_keeps fun p => .bind ?_ fun _ => .bind ih fun _ => .pure)
    split
    · exact .get fun _ _ => .ite (.stop .fatal) .pure
    · exact readPlace_keeps

theorem homeAtomic_keeps {w pa size op x cmp} : KeepsForm (homeAtomic w pa size op x cmp) :=
  .bind homeTurn_keeps fun _ => .get fun _ hs => .bind (.set hs.performNow) fun _ => .pure

theorem farAtomic_keeps {w p va size op x cmp ticket} : KeepsForm (farAtomic w p va size op x cmp ticket) := by
  unfold farAtomic
  split
  · exact .bind askPeer_keeps fun _ => .ite .pure (.bind statusOk_keeps fun _ => .pure)
  · exact .ite (.stop .fatal) (.bind askHost_keeps fun _ => .pure)

theorem execAmoRequest_formed (h : s.MemoryForm) : Res.Formed (execAmoRequest s) := by
  unfold execAmoRequest
  refine h.packetIn (fun _ => .ite answer_keeps (.ite (.get fun _ hs1 => ?_) (.bind placeWrite_keeps fun _ => ?_)))
  · split
    · exact .set hs1.redRelease
    · exact .throw .plain
  · split
    · refine .get fun _ _ => .ite (.stop .fatal) (.ite (.get fun _ hs2 => ?_) (.bind homeAtomic_keeps fun _ => answer_keeps))
      dsimp only
      split
      next x ex => exact .set (hs2.modIn.redArrive.of_fst ex)
      next x ex => exact .bind (.set (hs2.modIn.redArrive.of_fst ex)) fun _ => answer_keeps
    refine .bind farAtomic_keeps fun _ => ?_
    split
    · exact answer_keeps
    · exact answer_keeps

theorem execMsgRequest_formed (h : s.MemoryForm) : Res.Formed (execMsgRequest s) := by
  unfold execMsgRequest
  refine h.packetIn (fun _ => .get fun _ hs1 => ?_)
  split
  · exact .throw .plain
  split
  next x ex => exact .bind (.set (hs1.arriveMbox _ ex)) fun _ => answer_keeps
  · exact answer_keeps

theorem execStrandRequest_formed (h : s.MemoryForm) : Res.Formed (execStrandRequest s) := by
  unfold execStrandRequest
  refine h.packetIn (fun _ => .get fun _ hs1 => ?_)
  split
  · exact .throw .plain
  dsimp only
  split
  next x ex => exact .bind (.set ((hs1.upd (by rfl)).pushRun _ ex)) fun _ => answer_keeps
  · exact answer_keeps

theorem State.MemoryForm.newNode {d level t} (h : s.MemoryForm) : PairFormed (s.newNode d level t) :=
  .mapOf fun _ => h.withMem rfl (wf_replaceViews h.mem rfl nofun)

theorem State.MemoryForm.openArrival {die p} (h : s.MemoryForm) : PairFormed (s.openArrival die p) := by
  unfold State.openArrival
  split
  · exact .some (h.upd rfl)
  · exact .ite .none (.mapPair h.newNode fun _ hr => hr.upd rfl)

theorem State.MemoryForm.buildPath {va t d level} {s : State} {node} (h : s.MemoryForm) :
    PairFormed (State.buildPath va t d level s node) := by
  induction level generalizing s node with
  | zero => exact .some h
  | succ level ih =>
    unfold State.buildPath
    refine .ite (ih h) ?_
    split
    · exact .none
    next e => exact ih (h.newNode _ e).setEntry

theorem State.MemoryForm.mapArrival {t page leaf} (h : s.MemoryForm) : SomeFormed (s.mapArrival t page leaf) :=
  .mapPair h.buildPath fun _ hr => .ite hr.setEntry.lowerFrame hr.setEntry

theorem State.MemoryForm.dropArrival {t} (h : s.MemoryForm) : (s.dropArrival t).MemoryForm := (h.upd (by rfl)).lowerNode

theorem execSnapreq_formed (h : s.MemoryForm) : Res.Formed (execSnapreq s) := by
  unfold execSnapreq
  refine h.packetIn (fun _ => .get fun _ hs1 => ?_)
  dsimp only
  split
  · exact answer_keeps
  next s11 t es11 =>
    split
    · split
      next s2 es2 =>
        exact .bind (.set ((hs1.openArrival _ es11).raiseFrame.clearExclFrame.mapArrival _ es2)) fun _ => answer_keeps
      · exact answer_keeps
    split
    next s2 es2 => exact .bind (.set ((hs1.openArrival _ es11).mapArrival _ es2)) fun _ => answer_keeps
    · exact answer_keeps

theorem State.MemoryForm.arrivalData {t page off bs} (h : s.MemoryForm) : PairFormed (s.arrivalData t page off bs) := by
  unfold State.arrivalData
  split
  · exact .none
  next u slot e =>
    have hu : u.MemoryForm := h.buildPath _ e
    refine .ite (.ite (.some hu.pokeAll) (.some hu)) (.mapOf fun f => ?_)
    extract_lets v w
    have hv : v.MemoryForm := hu.withMem rfl (wf_replaceViews hu.mem rfl nofun)
    exact State.MemoryForm.pokeAll (State.MemoryForm.setEntry (hv.upd rfl))

theorem endArrival_keeps {e t} : KeepsForm (endArrival e t) := by
  unfold endArrival
  refine .get fun _ _ => ?_
  dsimp only
  split
  · exact .modify fun _ hs1 => hs1.dropArrival.answerIn
  · exact .ite (.modify fun _ hs1 => hs1.dropArrival.answerIn)
        (.ite (.bind tellPeer_keeps fun _ => .bind (.modify fun _ hs1 => (hs1.upd (by rfl)).settle) fun _ => answer_keeps)
        (.bind (.modify fun _ hs1 => (hs1.upd (by rfl)).settle) fun _ => answer_keeps))

theorem execSnapdata_formed (h : s.MemoryForm) : Res.Formed (execSnapdata s) := by
  refine h.packetIn fun e => .get fun t ht => ?_
  dsimp only
  split
  · exact answer_keeps
  next u a e =>
    have hu : u.MemoryForm := by
      split at e
      · exact ht.openArrival _ e
      · obtain ⟨x, -, hx⟩ := Option.bind_eq_some_iff.1 e
        exact ht.openArrival _ hx
    refine .ite (.bind (.set hu) fun _ => endArrival_keeps) ?_
    split
    · exact .throw (.wait fun _ hv => hv.beginSide)
    split
    · exact answer_keeps
    next e => exact .bind (.set (hu.arrivalData _ e)) fun _ => answer_keeps

theorem State.MemoryForm.moveOfTag {die tag} (h : s.MemoryForm) : (s.moveOfTag die tag).MemoryForm :=
  h.foldl fun _ _ hs1 => hs1.moveStep

theorem execResponseReceive_formed (h : s.MemoryForm) : Res.Formed (execResponseReceive s) := by
  unfold execResponseReceive
  refine .ite h (.ite h.sendOn (.ite h.giveBack ?_))
  split
  · exact h.giveBack
  · exact .ite h.giveBack.answerRequest.moveOfTag (.ite h.giveBack h.giveBack.answerRequest.moveOfTag)

theorem execResponseTimeout_formed (h : s.MemoryForm) : Res.Formed (execResponseTimeout s) := by
  unfold execResponseTimeout
  exact .ite h.answerRequest.moveOfTag h

theorem State.MemoryForm.drainGroup {d} (h : s.MemoryForm) : (s.drainGroup d).MemoryForm := h.upd rfl

theorem execPortLeaveService_formed (h : s.MemoryForm) : Res.Formed (execPortLeaveService s) := by
  unfold execPortLeaveService
  exact .ite (h.upd (by rfl)).drainGroup h

theorem execPortRejoin_formed (h : s.MemoryForm) : Res.Formed (execPortRejoin s) := by
  unfold execPortRejoin
  exact .ite h (h.upd (by rfl)).drainGroup

theorem execCreditReturn_formed (h : s.MemoryForm) : Res.Formed (execCreditReturn s) := by
  unfold execCreditReturn
  exact (h.upd (by rfl)).flushLinks

/-! ### EtherDev -/

theorem State.MemoryForm.dropFrame {q} (h : s.MemoryForm) : (s.dropFrame q).MemoryForm := h.modDie

theorem State.MemoryForm.ackIn {e status bs} (h : s.MemoryForm) : (s.ackIn e status bs).MemoryForm := by
  unfold State.ackIn
  exact .emitRoce (.endIn (.ite h.modQp h))

theorem State.MemoryForm.serveRoce {e f} (h : s.MemoryForm) (hf : ∀ a0 a1, KeepsForm (f a0 a1)) : (s.serveRoce e f).MemoryForm
    := by
  unfold State.serveRoce
  split
  · refine .ite h ?_
    split
    · exact h.endIn.dropFrame
    · exact h.runM (hf _ _) (fun _ _ _ hs1 => hs1.ackIn) (fun _ _ hs1 => hs1)
  · exact h

theorem State.MemoryForm.expectNext {kind} (h : s.MemoryForm) : (s.expectNext kind).MemoryForm := h.modQp

theorem State.MemoryForm.roceAgain {kind f} (h : s.MemoryForm) (hf : ∀ a0 a1, KeepsForm (f a0 a1)) :
    (s.roceAgain kind f).MemoryForm := by
  unfold State.roceAgain
  refine .ite h (.ite ((h.upd (by rfl)).serveRoce hf) (.ite h.emitRoce ?_))
  split
  · exact h.emitRoce
  · exact h

theorem State.MemoryForm.roceIn {kind f} (h : s.MemoryForm) (hf : ∀ e t, KeepsForm (f e t)) :
    (s.roceIn kind f).MemoryForm := by
  unfold State.roceIn
  split
  · split
    · exact h.serveRoce hf
    · exact h
  split
  · exact h.dropFrame
  extract_lets q u x e
  have hu : u.MemoryForm := .ite h.emitRoce h
  have he := hu.expectNext (kind := kind)
  exact .ite (.ite (hu.roceAgain hf) (.ite hu hu.emitRoce.modQp))
      (.ite hu.emitRoce (State.MemoryForm.serveRoce (he.upd rfl) hf))

theorem ack_keeps {e status bs} : KeepsForm (ack e status bs) := .modify fun _ hx => hx.ackIn

theorem writeLine_keeps {q w va bs} : KeepsForm (writeLine q w va bs) := by
  unfold writeLine
  refine .get fun _ _ => ?_
  split
  · exact .bind writePlace_keeps fun _ => .pure
  · exact .bind placeWrite_keeps fun _ => .bind writePlace_keeps fun _ => .pure

theorem roceAtomic_keeps {e t op x cmp} : KeepsForm (roceAtomic e t op x cmp) := by
  unfold roceAtomic
  refine .get fun _ _ => .ite ack_keeps (.ite ack_keeps (.bind placeWrite_keeps fun _ => ?_))
  split
  · exact .bind homeAtomic_keeps fun _ => ack_keeps
  · exact .bind farAtomic_keeps fun _ => ack_keeps

theorem State.MemoryForm.answerHost {die tag status data} (h : s.MemoryForm) : (s.answerHost die tag status data).MemoryForm
    :=
  h.upd rfl

theorem State.MemoryForm.resend {q n} (h : s.MemoryForm) : (s.resend q n).MemoryForm := h.foldl fun _ _ hs1 => hs1.emitRoce

theorem State.MemoryForm.ackUpTo {q n} (h : s.MemoryForm) : (s.ackUpTo q n).MemoryForm := by
  unfold State.ackUpTo
  exact h.modQp.foldl fun _ _ hs1 => hs1.answerHost

theorem State.MemoryForm.endMessage {p} (h : s.MemoryForm) : (s.endMessage p).MemoryForm := by
  unfold State.endMessage
  exact h.free.answerHost

theorem State.MemoryForm.failQp {q} (h : s.MemoryForm) : (s.failQp q).MemoryForm :=
  h.modQp.foldl fun _ _ hs1 => hs1.endMessage

theorem execRoceAckReceive_formed (h : s.MemoryForm) : Res.Formed (execRoceAckReceive s) := by
  unfold execRoceAckReceive
  refine .ite h.dropFrame (.ite (.ite h.ackUpTo.resend ?_) ?_)
  · split
    · exact h.ackUpTo
    · exact h.ackUpTo.modQp.endMessage
  · dsimp only
    split
    · exact h.ackUpTo
    · exact .ite h.ackUpTo.modQp.answerHost h.ackUpTo

theorem execRoceRetransmit_formed (h : s.MemoryForm) : Res.Formed (execRoceRetransmit s) := by
  unfold execRoceRetransmit
  dsimp only
  split
  · exact h
  · exact .ite h (.ite h.failQp h.resend.modQp)

theorem execCnpReceive_formed (h : s.MemoryForm) : Res.Formed (execCnpReceive s) := by
  unfold execCnpReceive
  exact .ite h.dropFrame h.modQp

theorem execRateRecover_formed (h : s.MemoryForm) : Res.Formed (execRateRecover s) := by
  unfold execRateRecover
  exact .ite h.modQp h

theorem State.MemoryForm.flushQp {q} (h : s.MemoryForm) : (s.flushQp q).MemoryForm := by
  unfold State.flushQp
  exact .ite (h.modQp.foldl fun _ _ hs1 => hs1.emit) h.modQp

theorem execPfcPauseFrame_formed (h : s.MemoryForm) : Res.Formed (execPfcPauseFrame s) := by
  unfold execPfcPauseFrame
  exact .ite ((h.upd (by rfl)).foldl fun _ _ hs1 => hs1.flushQp) (.ite h (h.upd rfl))

theorem dropSend_keeps {e} : KeepsForm (dropSend e) := .bind (.modify fun _ hx => hx.dropFrame) fun _ => ack_keeps

theorem sysreply_keeps {e} : KeepsForm (sysreply e) := by
  unfold sysreply
  refine .get fun _ hs => ?_
  dsimp only
  split
  · exact dropSend_keeps
  · exact .ite dropSend_keeps (.ite (.bind (.set hs.modDie) fun _ => dropSend_keeps)
        (.bind (.set (.ite hs.modDie.deliverFill hs.modDie)) fun _ => ack_keeps))

theorem State.MemoryForm.dropPage {p} (h : s.MemoryForm) : (s.dropPage p).MemoryForm := h.upd rfl

theorem State.MemoryForm.rewriteLeaf {t va f} (h : s.MemoryForm) : SomeFormed (s.rewriteLeaf t va f) := by
  unfold State.rewriteLeaf
  split
  next s1 pa node es1 => exact .some (h.slotWalk.of_fst es1).setEntry.tlbDrop
  · exact .none

theorem grantPage_keeps {q t va} : KeepsForm (grantPage q t va) := by
  unfold grantPage
  refine .get fun _ hs => .ite (.stop .plain) ?_
  dsimp only
  split
  · exact .throw .plain
  next s1 es1 => exact .set (hs.sendRoce.rewriteLeaf _ es1).lowerFrame

theorem State.MemoryForm.freeLanding {p} (h : s.MemoryForm) : (s.freeLanding p).MemoryForm := .ite h h.unpinFrame

theorem State.MemoryForm.settleFaults {t va} (h : s.MemoryForm) : (s.settleFaults t va).MemoryForm :=
  h.foldl fun _ _ hs1 => hs1.setVerdict

theorem hostPagereq_keeps {e t} : KeepsForm (hostPagereq e t) := by
  unfold hostPagereq
  refine .get fun _ hs => .ite dropSend_keeps ?_
  split
  · refine .ite (.bind (.set hs.sendRoce) fun _ => ack_keeps) ?_
    split
    · exact .throw .plain
    next s1 es1 =>
      exact .bind (.set ((hs.freeLanding.dropPage.rewriteLeaf _ es1).upd (by rfl)).settleFaults.sendRoce) fun _ => ack_keeps
  · exact .ite (.bind (.forIn fun _ _ => .bind grantPage_keeps fun _ => .pure) fun _ => .bind
        (.modify fun _ hs1 => hs1.sendRoce) fun _ => ack_keeps) (.bind (.set hs.sendRoce) fun _ => ack_keeps)

theorem hostPagerep_keeps {e t} : KeepsForm (hostPagerep e t) := by
  unfold hostPagerep
  refine .get fun _ hs => .ite dropSend_keeps ?_
  split
  · exact dropSend_keeps
  refine .ite dropSend_keeps (.ite (.bind (.set hs.freeLanding.dropPage) fun _ => ack_keeps) ?_)
  dsimp only
  split
  · exact .throw .plain
  next s1 es1 =>
    exact .bind (.set ((hs.rewriteLeaf _ es1).modFrame.dropPage.noteHash.foldl fun _ _ hs2 => hs2.setVerdict)) fun _ =>
        ack_keeps

theorem deliverSend_keeps {e t types} : KeepsForm (deliverSend e t types) :=
  .get fun _ _ => .ite dropSend_keeps (.ite sysreply_keeps (.ite hostPagereq_keeps hostPagerep_keeps))

theorem State.MemoryForm.ownPagereq (h : s.MemoryForm) : s.ownPagereq.MemoryForm := by
  unfold State.ownPagereq
  split
  · exact h
  split
  · exact h
  · exact (h.upd (by rfl)).sendRoce

theorem State.MemoryForm.servePages (h : s.MemoryForm) : s.servePages.MemoryForm := by
  unfold State.servePages
  exact .ite h.ownPagereq (h.foldl fun _ _ hs1 => hs1.settleFaults)

theorem execSettleTimeEnd_formed (h : s.MemoryForm) : Res.Formed (execSettleTimeEnd s) := by
  unfold execSettleTimeEnd
  split
  · exact h
  · exact .ite h (.getD h.dropPage.rewriteLeaf h.dropPage)

/-! ### DrainDev -/

theorem State.MemoryForm.sendFirst {p ds} (h : s.MemoryForm) : SomeFormed (s.sendFirst p ds) := by
  induction ds with
  | nil => exact .none
  | cons d ds ih =>
    unfold State.sendFirst
    split
    next e => exact .some (h.sendVia _ e)
    · exact ih

theorem State.MemoryForm.drainPackets {f n} {s : State} (h : s.MemoryForm) : (State.drainPackets f n s).MemoryForm := by
  induction n generalizing s with
  | zero => exact h
  | succ n ih =>
    unfold State.drainPackets
    split
    · dsimp only
      split
      · exact h
      split
      · exact h
      split
      · exact h.relieveTouched
      split
      · exact h
      next e => exact ih (State.MemoryForm.upd (h.sendFirst _ e) rfl)
    · exact h

theorem State.MemoryForm.dropDrain {d f} (h : s.MemoryForm) : (s.dropDrain d f).MemoryForm := h.upd rfl

theorem State.MemoryForm.freeHeld {f} (h : s.MemoryForm) : (s.freeHeld f).MemoryForm := h.upd rfl

theorem State.MemoryForm.drained {d f} (h : s.MemoryForm) : (s.drained d f).MemoryForm := by
  unfold State.drained
  dsimp only
  split
  · exact .ite (h.upd (by rfl)).freeHeld (h.upd (by rfl)).modFrame
  · exact .ite (h.upd (by rfl)).freeHeld (.ite (h.upd rfl) (h.upd (by rfl)).modFrame)

theorem execDrainSend_formed (h : s.MemoryForm) : Res.Formed (execDrainSend s) := by
  unfold execDrainSend
  dsimp only
  split
  · exact h
  refine .ite h (.ite (h.upd rfl) (.ite ?_ (.ite h.drainPackets h)))
  split
  · exact h
  · exact .ite h.drained h.dropDrain

theorem execDrainStallTimeout_formed (h : s.MemoryForm) : Res.Formed (execDrainStallTimeout s) := by
  unfold execDrainStallTimeout
  split
  · exact .ite (h.upd rfl) h
  · exact h

theorem execDrainEnd_formed (h : s.MemoryForm) : Res.Formed (execDrainEnd s) := by
  unfold execDrainEnd
  split
  · exact .ite (h.upd (by rfl)).emit h
  · exact h

theorem execSideCopyDone_formed (h : s.MemoryForm) : Res.Formed (execSideCopyDone s) := by
  unfold execSideCopyDone
  show State.MemoryForm _
  split
  · exact h
  obtain ⟨hi, hk⟩ := wf_sliceMem (viewKey (homeDie (s.ev.who * 65536)) (s.ev.who * 65536)) 65536 h.mem
  exact .ite h (h.withMem rfl (wf_replaceViews h.mem hi hk))

/-! ### Vector -/

theorem vecOp_formed {i l reads dests f} (h : s.MemoryForm) : Res.Formed (vecOp i l reads dests f s) := longOp_formed h

theorem vecMap_formed {i d srcs m l w f} (h : s.MemoryForm) : Res.Formed (vecMap i d srcs m l w f s) := vecOp_formed h

theorem vecBin_formed {i d a b m l w f} (h : s.MemoryForm) : Res.Formed (vecBin i d a b m l w f s) := vecMap_formed h

theorem vecUn_formed {i d a m l w f} (h : s.MemoryForm) : Res.Formed (vecUn i d a m l w f s) := vecMap_formed h

theorem execVfma_formed {d a b m t l} (h : s.MemoryForm) : Res.Formed (execVfma d a b m t l s) := by
  unfold execVfma
  exact vecMap_formed h

theorem vecFn_formed {i d a m t l f} (h : s.MemoryForm) : Res.Formed (vecFn i d a m t l f s) := vecUn_formed h

theorem vecMem_formed {i l reads dests eas size write op} (h : s.MemoryForm) : Res.Formed
    (vecMem i l reads dests eas size write op s) := issue_formed h (fun _ _ _ ht => ht.departQueued)

theorem vecLoad_formed {i d srcs m t l ea} (h : s.MemoryForm) : Res.Formed (vecLoad i d srcs m t l ea s) := by
  unfold vecLoad
  exact vecMem_formed h

theorem vecStore_formed {i d srcs m t l ea} (h : s.MemoryForm) : Res.Formed (vecStore i d srcs m t l ea s) := by
  unfold vecStore
  exact vecMem_formed h

theorem vecReduce_formed {i d a m t l op identity} (h : s.MemoryForm) : Res.Formed (vecReduce i d a m t l op identity s) := by
  unfold vecReduce
  exact vecOp_formed h

theorem vecScan_formed {i d a m t l op identity} (h : s.MemoryForm) : Res.Formed (vecScan i d a m t l op identity s) := by
  unfold vecScan
  exact vecOp_formed h

theorem execVperm_formed {d a b m t l} (h : s.MemoryForm) : Res.Formed (execVperm d a b m t l s) := by
  unfold execVperm
  exact vecMap_formed h

theorem execVmovg_formed {d r t l} (h : s.MemoryForm) : Res.Formed (execVmovg d r t l s) := by
  unfold execVmovg
  exact vecOp_formed h

theorem execVcompress_formed {d a m t l} (h : s.MemoryForm) : Res.Formed (execVcompress d a m t l s) := by
  unfold execVcompress
  exact vecOp_formed h

theorem vecCompare_formed {i n a b m t l c} (h : s.MemoryForm) : Res.Formed (vecCompare i n a b m t l c s) := by
  unfold vecCompare
  exact vecOp_formed h

theorem maskLogic_formed {i n q r l f} (h : s.MemoryForm) : Res.Formed (maskLogic i n q r l f s) := vecOp_formed h

theorem execVcvt_formed {d a p m t l x u v c} (h : s.MemoryForm) : Res.Formed (execVcvt d a p m t l x u v c s) := by
  unfold execVcvt
  exact vecOp_formed h

/-! ### Gen -/

theorem genMap_formed {i d srcs m l f} (h : s.MemoryForm) : Res.Formed (genMap i d srcs m l f s) := vecMap_formed h

/-! ### LaunchDev -/

theorem State.MemoryForm.retireLaunches {q} (h : s.MemoryForm) : (s.retireLaunches q).MemoryForm := by
  unfold State.retireLaunches
  dsimp only
  split
  · exact h
  · exact h.upd rfl

theorem execLaunchUnitTake_formed (h : s.MemoryForm) : Res.Formed (execLaunchUnitTake s) := by
  unfold execLaunchUnitTake
  dsimp only
  split
  · exact h
  split
  · exact h
  · exact .ite h (h.upd (by rfl)).retireLaunches

theorem State.MemoryForm.startLaunch {d l} (h : s.MemoryForm) : (s.startLaunch d l).MemoryForm := by
  unfold State.startLaunch
  exact .ite h.modLaunch.reload h.modLaunch

theorem State.MemoryForm.launchStep {kind go} (h : s.MemoryForm) (hgo : ∀ a0 a1, a1.MemoryForm → (go a0 a1).MemoryForm) :
    (launchStep kind go s).MemoryForm := by
  unfold Machine.launchStep
  split
  · exact h
  · exact .ite h (.ite (hgo _ _ h) (.ite (hgo _ _ h.startLaunch) h))

theorem execSweepStrandStart_formed (h : s.MemoryForm) : Res.Formed (execSweepStrandStart s) := by
  unfold execSweepStrandStart
  split
  · exact h
  refine .ite h ?_
  dsimp only
  split
  · exact h.modLaunch
  next s1 es1 => exact ((h.pushRun _ es1).upd (by rfl)).modLaunch

theorem State.MemoryForm.nextEntry {d l} (h : s.MemoryForm) : (s.nextEntry d l).MemoryForm :=
  h.dropFault.dropRequests.modLaunch

theorem graphCard_keeps {d l card} : KeepsForm (graphCard d l card) := by
  unfold graphCard
  refine .bind cardPlace_keeps fun _ => ?_
  split
  · exact .throw .fatal
  · exact .ite (.bind readPlace_keeps fun _ => .get fun _ _ => .ite .pure
        (.ite (.bind queueCard_keeps fun _ => .pure) (orFatal_keeps
        (.bind writeStatus_keeps fun _ => .modify fun _ hs1 => hs1.putTask)
        (fun _ _ => .modify fun _ hs1 => hs1.refuseReady)))) .pure

theorem execGraphLaunchStart_formed (h : s.MemoryForm) : Res.Formed (execGraphLaunchStart s) := by
  unfold execGraphLaunchStart
  exact h.launchStep (fun _ _ hs1 => .ite hs1 (hs1.runM (.bind graphCard_keeps fun _ => .modify fun _ hx1 => hx1.nextEntry)
      (fun _ _ _ hs2 => .ite hs2.nextEntry.refuseCard hs2.nextEntry) (fun _ _ hs2 => hs2)))

theorem State.MemoryForm.failPair {d l card cause sub va} (h : s.MemoryForm) : (s.failPair d l card cause sub va).MemoryForm
    :=
  h.postFaultEntry.modLaunch

theorem failElement_keeps {d l va sub} : KeepsForm (failElement d l va sub) := .ite (.modify fun _ hx => hx.failPair) .pure

theorem freshRoot_keeps {w va} : KeepsForm (freshRoot w va) := by
  refine .bind verdict_keeps fun _ => .get fun s hs => ?_
  split
  · exact .throw stopFault_kept
  · exact .bind (.set (hs.withMem rfl (wf_replaceViews hs.mem rfl nofun))) fun _ => .bind
        (.modify fun _ ht => ht.upd rfl) fun _ => .pure

theorem startPair_keeps {d l i id} : KeepsForm (startPair d l i id) := by
  unfold startPair
  refine .bind readMem_keeps fun _ => .get fun _ _ => ?_
  split
  · exact .modify fun _ hx => hx.failPair
  · exact .bind freshRoot_keeps fun _ => .modify fun _ hs1 => (hs1.upd (by rfl)).settle.joinGroup

theorem State.MemoryForm.advancePair {d l id} (h : s.MemoryForm) : (s.advancePair d l id).MemoryForm := by
  unfold State.advancePair
  split
  · exact h.failPair
  · exact .ite h.scbStep h.scbStep.settle

theorem streamElement_keeps {op d l i} : KeepsForm (streamElement op d l i) := by
  unfold streamElement
  refine .bind (orFatal_keeps (.bind readMem_keeps fun _ => .pure)
      (fun _ _ => .bind failElement_keeps fun _ => .pure)) fun _ => ?_
  split
  · exact .pure
  · exact .ite (.ite (orFatal_keeps startPair_keeps (fun _ _ => .modify fun _ hx => hx.failPair))
        (.modify fun _ hx => hx.advancePair)) .pure

theorem State.MemoryForm.streamset {op} (h : s.MemoryForm) : (streamset op s).MemoryForm := by
  unfold Machine.streamset
  exact h.launchStep (fun _ _ hs1 => .ite hs1 (hs1.runM (.bind streamElement_keeps fun _ => .modify fun _ hx1 =>
      hx1.nextEntry) (fun _ _ _ hs2 => hs2) (fun _ _ hs2 => hs2)))

theorem execLaunchDieDone_formed (h : s.MemoryForm) : Res.Formed (execLaunchDieDone s) := by
  unfold execLaunchDieDone
  dsimp only
  split
  · exact h
  · exact .ite h.modLaunch h

theorem writeComp_keeps {l} : KeepsForm (writeComp l) := by
  unfold writeComp
  refine .get fun _ _ => .bind placeWrite_keeps fun _ => ?_
  split
  · split
    · exact .throw .plain
    · exact .modify fun _ hs1 => hs1.addRequest.sendRoce
  · exact .bind writePlace_keeps fun _ => .pure

theorem State.MemoryForm.closeLaunch {l} (h : s.MemoryForm) : (s.closeLaunch l).MemoryForm := by
  unfold State.closeLaunch
  extract_lets t u v w
  have ht : t.MemoryForm := h.dropFault.dropRequests
  have hu : u.MemoryForm := .ite ht.modDie ht
  have hv : v.MemoryForm := hu.modLaunch
  have hw : w.MemoryForm := .ite (hv.upd rfl) hv
  exact hw.retireLaunches

theorem State.MemoryForm.loseComp {l cause sub} (h : s.MemoryForm) : (s.loseComp l cause sub).MemoryForm := by
  unfold State.loseComp
  refine .closeLaunch (.postFaultEntry ?_)
  split
  · exact h.upd rfl
  · exact h

theorem completeM_keeps {l} : KeepsForm (completeM l) :=
  .get fun _ _ => .ite (.ite (.stop .plain) (.ite (.bind (.forIn fun _ _ => .bind
      (orFatal_keeps fenceTouched_keeps (fun _ _ => .throw (.wait fun _ hs1 => hs1.upd rfl))) fun _ => .pure) fun _ => .bind
      writeComp_keeps fun _ => .modify fun _ hx2 => hx2.closeLaunch)
      (.bind writeComp_keeps fun _ => .modify fun _ hx1 => hx1.closeLaunch))) (.modify fun _ hs1 => hs1.modLaunch)

theorem execLaunchComplete_formed (h : s.MemoryForm) : Res.Formed (execLaunchComplete s) := by
  unfold execLaunchComplete
  split
  · exact h
  · exact .ite h (.ite h.loseComp (h.runM completeM_keeps (fun _ _ _ hs1 => hs1.loseComp) (fun _ _ hs1 => hs1)))

/-! ### Power -/

theorem State.MemoryForm.afterReset : s.afterReset.MemoryForm := State.MemoryForm.reset.upd rfl

theorem execPackageReset_formed : Res.Formed (execPackageReset s) := by
  have hr := State.MemoryForm.afterReset (s := s)
  unfold execPackageReset
  refine State.MemoryForm.ite ?_ (.ite ?_ ?_)
  · exact hr.upd rfl
  · exact hr.upd rfl
  dsimp only
  split
  · exact State.MemoryForm.restoreImage (hr.upd rfl)
  · exact hr.upd rfl

theorem execThermalWarning_formed (h : s.MemoryForm) : Res.Formed (execThermalWarning s) := by
  unfold execThermalWarning
  exact (h.upd (by rfl)).emit

theorem State.MemoryForm.assertFreeze {cause f} (h : s.MemoryForm) : (s.assertFreeze cause f).MemoryForm := h.upd rfl

theorem execThawRestart_formed (h : s.MemoryForm) : Res.Formed (execThawRestart s) := by
  unfold execThawRestart
  exact .ite (h.upd (by rfl)).flushLinks h

theorem execReadoutRequest_formed (h : s.MemoryForm) : Res.Formed (execReadoutRequest s) := by
  unfold execReadoutRequest
  refine .ite h ?_
  split
  · exact h.emit
  · exact h.emit
  · exact h.emit
  · exact h.emit

theorem execAttest_formed (h : s.MemoryForm) : Res.Formed (execAttest s) := by
  unfold execAttest
  exact .ite h h.emit

/-! ### TileMove -/

theorem moveWindow_keeps {m a b src dst cs} : KeepsForm (moveWindow m a b src dst cs) := by
  induction cs with
  | nil => exact .pure
  | cons c cs ih => exact .bind ih fun _ => .ite (.bind readElem_keeps fun _ => .pure) .pure

theorem startCopyCmd_keeps {m} : KeepsForm (startCopyCmd m) := .ite madeRun_keeps
    (.bind moveWindow_keeps fun _ => madeRun_keeps)

theorem ringPart_keeps {m t slot} : KeepsForm (ringPart m t slot) := .get fun _ _ => moveWindow_keeps

theorem afterCopy_keeps {m} : KeepsForm (afterCopy m) := by
  unfold afterCopy
  refine .ite .pure (.get fun _ _ => ?_)
  dsimp only
  split
  · exact .ite (.stop .plain) (.bind (.modify fun _ hx1 => hx1.modRing) fun _ => .bind putCmd_keeps fun _ => .pure)
  · exact .bind ringPart_keeps fun _ => .bind (.forIn fun _ _ => .bind writeMem_keeps fun _ => .pure) fun _ => .bind
        (.modify fun _ hx1 => hx1.modRing) fun _ => .bind putCmd_keeps fun _ => .pure

theorem startIndexed_keeps {gath m} : KeepsForm (startIndexed gath m) :=
  .get fun _ _ => .ite .pure (.bind moveWindow_keeps fun _ => madeRun_keeps)

theorem State.MemoryForm.hashPage {w va} (h : s.MemoryForm) : (s.hashPage w va).1.MemoryForm := by
  unfold State.hashPage
  dsimp only
  split
  · split
    · split
      · exact h.upd rfl
      · exact h
    · exact h
  · exact h

theorem startRedst_keeps {m} : KeepsForm (startRedst m) := by
  unfold startRedst
  exact .bind (.forIn fun _ _ => .bind moveWindow_keeps fun _ => .pure) fun _ => madeRun_keeps

theorem snapPage_keeps {m src dst} : KeepsForm (snapPage m src dst) := by
  unfold snapPage
  refine .bind verdict_keeps fun _ => .get fun _ _ => ?_
  split
  · refine .ite (.stop .plain) ?_
    split
    · exact .throw stopFault_kept
    refine .bind verdict_keeps fun _ => .get fun _ hs1 => ?_
    split
    next t pa node et =>
      exact .ite (.stop stopFault_kept) (.ite .pure (.ite (.stop .fatal)
          (.bind (.set (.tlbDrop (.ite (.lowerFrame (.mapLeaf
          (.ite (hs1.slotWalk.of_fst et).raiseFrame.clearExclFrame (hs1.slotWalk.of_fst et))))
          (.mapLeaf (.ite (hs1.slotWalk.of_fst et).raiseFrame.clearExclFrame (hs1.slotWalk.of_fst et)))))) fun _ => .pure)))
    · exact .throw stopFault_kept
    · exact .throw stopEmpty_kept
    · exact .throw .plain
    · exact .throw .fatal
  · exact .throw .fatal
  · exact .throw .fatal

theorem afterSnap_keeps {m} : KeepsForm (afterSnap m) := by
  unfold afterSnap
  refine .ite .pure (.bind snapPage_keeps fun _ => ?_)
  split
  · exact .bind (.modify fun _ hs => hs.endCmd) fun _ => .pure
  · exact .bind putCmd_keeps fun _ => .pure

theorem startCkpt_keeps {m} : KeepsForm (startCkpt m) :=
  .get fun _ _ => .ite .pure (.ite .pure (.ite (.stop .plain)
      (.bind (.modify fun _ hx => hx.takeCut) fun _ => madeRun_keeps)))

/-! ### Manage -/

theorem State.MemoryForm.reply {r} (h : s.MemoryForm) : (s.reply r).MemoryForm := h.emit

theorem State.MemoryForm.manage {checks go} (h : s.MemoryForm) (hgo : ∀ a0, a0.MemoryForm → (go a0).MemoryForm) :
    (s.manage checks go).MemoryForm := by
  unfold State.manage
  split
  · exact h.reply
  · exact (hgo _ h).reply

theorem execTcreate_formed (h : s.MemoryForm) : Res.Formed (execTcreate s) := by
  unfold execTcreate
  exact h.manage (fun _ hs1 => (hs1.upd (by rfl)).modQp)

theorem execTlock_formed (h : s.MemoryForm) : Res.Formed (execTlock s) := by
  unfold execTlock
  refine h.manage (fun _ hs1 => ?_)
  split
  · exact hs1.upd rfl
  · exact hs1

theorem execQpbind_formed (h : s.MemoryForm) : Res.Formed (execQpbind s) := by
  unfold execQpbind
  exact h.manage (fun _ hs1 => hs1.modQp)

theorem execQueuePairSetup_formed (h : s.MemoryForm) : Res.Formed (execQueuePairSetup s) := by
  unfold execQueuePairSetup
  exact .ite (h.upd rfl) (.ite (h.upd rfl) (.ite h (.modQp (.ite h h.failQp))))

theorem execLqcreate_formed (h : s.MemoryForm) : Res.Formed (execLqcreate s) := by
  unfold execLqcreate
  exact h.manage (fun _ hs1 => hs1.upd rfl)

theorem State.MemoryForm.dropQueue {q} (h : s.MemoryForm) : (s.dropQueue q).MemoryForm := by
  unfold State.dropQueue
  split
  · exact h
  · exact (h.upd (by rfl)).foldl fun _ _ hs1 => hs1.modFrame.unpinFrame

theorem execLqdestroy_formed (h : s.MemoryForm) : Res.Formed (execLqdestroy s) := by
  unfold execLqdestroy
  exact h.manage (fun _ hs1 => hs1.dropQueue)

theorem State.MemoryForm.stopSlot {k} (h : s.MemoryForm) : (s.stopSlot k).MemoryForm := by
  unfold State.stopSlot
  exact h.leave.modSlot.modDie

theorem State.MemoryForm.stopTask {t} (h : s.MemoryForm) : (s.stopTask t).MemoryForm := by
  unfold State.stopTask
  exact .endTask (.modTask (.modDie (.unqueue (.ite (h.clearTask.unpinTask.dropWatcher.foldl fun _ _ hs1 => hs1.lowerFrame)
      h.clearTask.unpinTask.dropWatcher))))

theorem State.MemoryForm.setDeque {c rs} (h : s.MemoryForm) : (s.setDeque c rs).MemoryForm := by
  unfold State.setDeque
  exact (h.foldl fun _ _ hs1 => hs1.putRec).modCore

theorem State.MemoryForm.abortTenant {t} (h : s.MemoryForm) : (s.abortTenant t).MemoryForm := by
  unfold State.abortTenant
  extract_lets mine ls a b c d e
  have ha : a.MemoryForm := h.upd rfl
  have hb : b.MemoryForm := ha.foldl fun _ _ hs => hs.stopSlot
  have hc : c.MemoryForm := hb.foldl fun _ _ hs => hs.stopTask
  have hd : d.MemoryForm := hc.dropFaults
  have he : e.MemoryForm := hd.foldl fun _ _ hs => hs.setDeque
  clear_value e
  exact he.upd rfl

theorem State.MemoryForm.zeroFrame {pa} (h : s.MemoryForm) : (s.zeroFrame pa).MemoryForm :=
  h.withMem rfl (wf_replaceViews h.mem rfl nofun)

theorem State.MemoryForm.retireTenantStream {id} (h : s.MemoryForm) : (s.retireTenantStream id).MemoryForm := h.scbStep.kill

theorem State.MemoryForm.destroyTenant {t} (h : s.MemoryForm) : (s.destroyTenant t).MemoryForm := by
  unfold State.destroyTenant
  extract_lets fs root gone a b c d resv e f g i j
  have ha : a.MemoryForm := h.upd rfl
  have hb : b.MemoryForm := ha.foldl fun _ _ hs => hs.retireTenantStream
  have hc : c.MemoryForm := hb.foldl fun _ _ hs => hs.castFree
  have hd : d.MemoryForm := hc.foldl fun _ _ hs => hs.unloadGram
  have he : e.MemoryForm := by
    clear_value d
    exact hd.upd rfl
  have hf : f.MemoryForm := he.foldl fun _ _ hs => hs.dropQueue
  have hg : g.MemoryForm := hf.foldl fun _ _ hs => hs.freeLanding.dropPage
  have hi : i.MemoryForm := by
    clear_value g
    exact hg.upd rfl
  have hj : j.MemoryForm := hi.lowerNode.tlbDropRoot
  have hk : (fs.foldl State.zeroFrame j).MemoryForm := hj.foldl fun _ _ hs => hs.zeroFrame
  exact hk.upd rfl

theorem execTdestroy_formed (h : s.MemoryForm) : Res.Formed (execTdestroy s) := by
  unfold execTdestroy
  refine .ite (.ite h.reply (h.upd (by rfl)).abortTenant) ?_
  split
  · exact h
  · exact .ite h.dropIn.reply (.ite h.abortTenant.destroyTenant.dropIn.reply h.abortTenant)

theorem execTierset_formed (h : s.MemoryForm) : Res.Formed (execTierset s) := by
  unfold execTierset
  exact h.manage (fun _ hs1 => hs1.upd rfl)

theorem execCkptreq_formed (h : s.MemoryForm) : Res.Formed (execCkptreq s) := by
  unfold execCkptreq
  refine .ite (.ite h.reply (.ite (h.upd (by rfl)).dropIn.reply (.ite (h.upd rfl) (h.upd (by rfl)).dropIn.takeCut.emit))) ?_
  split
  · exact .ite h.dropIn.reply (.ite h h.dropIn.takeCut.emit)
  · exact h

/-! ### Scalar -/

theorem binG_formed {i d a b g f} (h : s.MemoryForm) : Res.Formed (binG i d a b g f s) := shortG_formed h

theorem unG_formed {i d a g f} (h : s.MemoryForm) : Res.Formed (unG i d a g f s) := shortG_formed h

theorem mulDiv_formed {i d a b g l f} (h : s.MemoryForm) : Res.Formed (mulDiv i d a b g l f s) := longOp_formed h

theorem fp2_formed {i d a b g t f} (h : s.MemoryForm) : Res.Formed (fp2 i d a b g t f s) := binG_formed h

theorem fp1_formed {i d a g t f} (h : s.MemoryForm) : Res.Formed (fp1 i d a g t f s) := unG_formed h

/-! ### Dispatch -/

/-- Every instruction and every device step, by what its function keeps. -/
theorem exec_formed {i} (h : s.MemoryForm) : Res.Formed (exec i s) := by
  unfold exec
  cases i with
  | add | sub | and | or | xor | shl | shr | sra | min | max | minn | maxn | exts | extz => exact binG_formed h
  | clz | ctz | popc | brev | addi | andi | ori | xori | shli | shri | srai => exact unG_formed h
  | insf | lih | addpc | sel | fma | fcvt => exact shortG_formed h
  | cmpi | cmp | pand | por | pxor | pnot | fcmp => exact shortP_formed h
  | fadd | fsub | fmul | fdiv | fmin | fmax | fsgn => exact fp2_formed h
  | fsqrt | fneg | fabs | fclass => exact fp1_formed h
  | mul | mulh | mulhn | div | divn | rem | remn => exact mulDiv_formed h
  | br | brn => exact branch_formed h
  | jal | jalr => exact issue_formed h (fun _ _ _ ht => ht.goto.writeG)
  | ldb | ldh | ldw | ldd | ldbn | ldhn | ldwn => exact loadG_formed h
  | stb | sth | stw | std => exact storeG_formed h
  | ldf | ldfp | feget => exact syncLoad_formed h
  | stf | feset => exact syncStore_formed h
  | pref | trap => exact issue_formed h (fun _ _ _ ht => ht)
  | cflush | cinv | rfill | self | msend | mrecv | mpeek | tcard | qpopW => exact longOp_formed h
  | fenceRel | fenceAcq | fenceFull => exact fence_formed h
  | amoAdd | amoAnd | amoOr | amoXor | amoMin | amoMax | amoMinn | amoMaxn | amoSwp | amoCas | amoFadd => exact amo_formed h
  | amoRedOrd => exact amoIssue_formed h
  | spawn => exact execSpawn_formed h
  | join => exact execJoin_formed h
  | migr | migv => exact migrate_formed h
  | yield => exact execYield_formed h
  | park => exact issue_formed h (fun _ _ _ ht => ht.suspend)
  | parkE | trapack | rett | sleep => exact issue_formed h (fun _ _ _ ht => ht.modSlot)
  | tpost => exact issueLater_formed h (fun _ _ => tpostBody_keeps)
  | tdone => exact execTdone_formed h
  | qpush => exact issueLater_formed h (fun _ _ => qpushBody_keeps)
  | qpop => exact issueLater_formed h (fun _ _ => qpopBody_keeps)
  | sfork => exact execSfork_formed h
  | sstep =>
    exact streamOp_formed h (fun _ _ _ => .get fun _ hs1 => .ite .pure
        (.bind (.set hs1.scbStep) fun _ => .get fun _ _ => .pure))
  | sact => exact streamOp_formed h (fun _ _ _ => sactAct_keeps)
  | sret => exact streamOp_formed h (fun _ _ _ => .get fun _ hs1 => .ite .pure (.bind (.set hs1.scbStep) fun _ => .pure))
  | sjoin =>
    exact streamOp_formed h (fun _ _ _ => .bind (.modify fun _ hs1 => (hs1.upd (by rfl)).joinGroup) fun _ => .get fun _ _ =>
        .pure)
  | sretire => exact streamOp_formed h (fun _ _ _ => .bind (.modify fun _ hs1 => hs1.scbStep.kill) fun _ => .pure)
  | sevict => exact streamOp_formed h (fun _ _ _ => sevictAct_keeps)
  | smig => exact streamOp_formed h (fun _ _ _ => .bind (.modify fun _ hx => hx.startMove) fun _ => .pure)
  | sstat => exact issue_formed h (fun _ _ _ ht => .ite ht.depart ht.recount.depart)
  | sjoinOpen => exact streamOp_formed h (fun _ _ _ => sjoinOpenAct_keeps)
  | sstop => exact streamOp_formed h (fun _ _ _ => .get fun _ hs1 => .ite (.bind (.set hs1.stopStream) fun _ => .pure) .pure)
  | clook => exact castOp_formed h (fun _ _ => clookBody_keeps)
  | cput => exact castOp_formed h (fun _ _ => cputBody_keeps)
  | cinvk => exact castOp_formed h (fun _ _ => cinvkBody_keeps)
  | cflusht =>
    exact castOp_formed h (fun _ _ => .get fun _ hs1 => .bind (.set (hs1.foldl fun _ _ hs2 => hs2.castFree)) fun _ => .pure)
  | gset => exact gramOp_formed h (fun _ _ => .bind (.modify fun _ hs1 => hs1.setGcfg) fun _ => giveG_keeps)
  | gmask | gmaskS => exact gramOp_formed h (fun _ _ => .modify fun _ ht => ht.askMask)
  | gadv | gadvS => exact gramOp_formed h (fun _ _ => advance_keeps)
  | gchk => exact execGchk_formed h
  | gsave => exact gramOp_formed h (fun _ _ => giveG_keeps)
  | gload => exact gramOp_formed h (fun _ _ => .modify fun _ ht => ht.setGcfg.depart)
  | sysc => exact execSysc_formed h
  | csrr => exact execCsrr_formed h
  | csrw | csrs | csrc | csrfi => exact csrWrite_formed h
  | vadd | vsub | vmul | vmulh | vmulhn | vand | vor | vxor | vshl | vshr | vsra | vmin | vmax | vminn | vmaxn | vadds |
  vaddsn | vsubs | vsubsn | vfadd | vfsub | vfmul | vfdiv | vfmin | vfmax =>
    exact vecBin_formed h
  | vmov | vfsqrt => exact vecUn_formed h
  | vfma => exact execVfma_formed h
  | vexp2 | vlog2 | vrcp | vrsq => exact vecFn_formed h
  | vld | vlds | vldx => exact vecLoad_formed h
  | vst | vsts | vstx => exact vecStore_formed h
  | vldm | vstm => exact vecMem_formed h
  | vrsum | vrmin | vrmax | vrminn | vrmaxn | vrand | vror | vrxor => exact vecReduce_formed h
  | vscan | vscanmax => exact vecScan_formed h
  | vtopk | vmpopc | vmfirst | vsamp | vtree | vmatch => exact vecOp_formed h
  | vperm => exact execVperm_formed h
  | vbcastg | viota | vbcast => exact vecMap_formed h
  | vmovg => exact execVmovg_formed h
  | vcompress => exact execVcompress_formed h
  | vcmp | vfcmp => exact vecCompare_formed h
  | vmand | vmor | vmxor | vmnot => exact maskLogic_formed h
  | vcvt => exact execVcvt_formed h
  | vpen | vbias | vban | vrng | vacc | vresid | vsoftT | vsoftW => exact genMap_formed h
  | tcmd => exact execTcmd_formed h
  | illegalWord => exact execIllegalWord_formed h
  | packageReset => exact execPackageReset_formed
  | thermalWarning => exact execThermalWarning_formed h
  | throttleStart | throttleEnd | thermalWarningClear | flitReplay => exact h.upd rfl
  | trip => exact State.MemoryForm.ite h.assertFreeze h.assertFreeze
  | freezePinAssert | aigonFreezeRequest => exact h.assertFreeze
  | freezePinDeassert | thermalThaw | currentThaw | aigonThawRequest => exact State.MemoryForm.ite (h.upd rfl) h
  | thawRestart => exact execThawRestart_formed h
  | readoutRequest => exact execReadoutRequest_formed h
  | tcreate => exact execTcreate_formed h
  | tlock => exact execTlock_formed h
  | tdestroy => exact execTdestroy_formed h
  | qpbind => exact execQpbind_formed h
  | queuePairSetup => exact execQueuePairSetup_formed h
  | lqcreate => exact execLqcreate_formed h
  | lqdestroy => exact execLqdestroy_formed h
  | tierset => exact execTierset_formed h
  | ckptreq => exact execCkptreq_formed h
  | attest => exact execAttest_formed h
  | thaw => exact State.MemoryForm.ite h (h.manage (fun _ hs1 => hs1.upd rfl))
  | readRequest => exact h.packetIn (fun _ => .bind readHomes_keeps fun _ => answer_keeps)
  | writeRequest =>
    exact (h.packetIn (fun _ => .ite (.stop .plain) (.bind writeMem_keeps fun _ => .modify fun _ hs1 =>
        hs1.dropFault.dropRequests.modIn))).settleInbox
  | amoRequest => exact execAmoRequest_formed h
  | msgRequest => exact execMsgRequest_formed h
  | strandRequest => exact execStrandRequest_formed h
  | snapreq => exact execSnapreq_formed h
  | snapdata => exact execSnapdata_formed h
  | ckptPacketReceive =>
    exact h.packetIn (fun _ => .get fun _ _ => .ite answer_keeps
        (.ite answer_keeps (.ite (.bind writeMem_keeps fun _ => .modify fun _ hs2 => hs2.dropFault.dropRequests.modIn)
        (.ite answer_keeps (.throw .plain)))))
  | fencePacket => exact h.packetIn (fun _ => .get fun _ _ => .ite answer_keeps (.throw .plain))
  | responseReceive => exact execResponseReceive_formed h
  | responseTimeout => exact execResponseTimeout_formed h
  | packetForward => exact State.MemoryForm.ite h.sendOn h
  | portLeaveService => exact execPortLeaveService_formed h
  | portRejoin => exact execPortRejoin_formed h
  | roceSendReceive | sysreply | pagerep => exact h.roceIn (fun _ _ => deliverSend_keeps)
  | rdmaWrite =>
    exact h.roceIn (fun _ _ => .get fun _ _ => .ite ack_keeps
        (.ite ack_keeps (.ite (.ite ack_keeps (.throw .plain))
        (.bind writeLine_keeps fun _ => .modify fun _ hs2 => hs2.dropFault.dropRequests.modIn))))
  | rdmaRead =>
    exact h.roceIn (fun _ _ => .get fun _ _ => .ite ack_keeps (.ite ack_keeps (.bind readHomes_keeps fun _ => ack_keeps)))
  | roceCas | roceFetchAdd => exact h.roceIn (fun _ _ => roceAtomic_keeps)
  | roceAckReceive => exact execRoceAckReceive_formed h
  | roceRetransmit => exact execRoceRetransmit_formed h
  | cnpReceive => exact execCnpReceive_formed h
  | rateRecover => exact execRateRecover_formed h
  | pagereq => exact State.MemoryForm.ite h.servePages (h.roceIn (fun _ _ => deliverSend_keeps))
  | settleTimeEnd => exact execSettleTimeEnd_formed h
  | launchUnitTake => exact execLaunchUnitTake_formed h
  | sweepLaunchStart => exact h.launchStep (fun _ _ hs1 => hs1)
  | graphLaunchStart => exact execGraphLaunchStart_formed h
  | streamsetStart | streamsetAdvance => exact h.streamset
  | launchDieDone => exact execLaunchDieDone_formed h
  | launchComplete => exact execLaunchComplete_formed h
  | sweepStrandStart => exact execSweepStrandStart_formed h
  | drainSend => exact execDrainSend_formed h
  | drainStallTimeout => exact execDrainStallTimeout_formed h
  | drainEnd => exact execDrainEnd_formed h
  | sideCopyDone => exact execSideCopyDone_formed h
  | faultMessageSend => exact execFaultMessageSend_formed h
  | faultReply => exact h.faultReply
  | walkBusyResume => exact execWalkBusyResume_formed h
  | frameCopyDone => exact execFrameCopyDone_formed h
  | writePerform => exact execWritePerform_formed h
  | announcementApply => exact execAnnouncementApply_formed h
  | loadViewReturn => exact execLoadViewReturn_formed h
  | atomicHomePerform => exact execAtomicHomePerform_formed h
  | redordArrive => exact execRedordArrive_formed h
  | redordResend => exact execRedordResend_formed h
  | syncAccessGrant => exact execSyncAccessGrant_formed h
  | feTimeout => exact execFeTimeout_formed h
  | runQueueArrive => exact execRunQueueArrive_formed h
  | dispatch => exact execDispatch_formed h
  | taskStart => exact execTaskStart_formed h
  | taskRetire => exact execTaskRetire_formed h
  | heldCardEnqueue => exact execHeldCardEnqueue_formed h
  | faultEntryPost => exact execFaultEntryPost_formed h
  | slotFill => exact execSlotFill_formed h
  | steal => exact execSteal_formed h
  | deckRoomResume | coreSleep => exact State.MemoryForm.ite h.modCore h
  | displace => exact execDisplace_formed h
  | reservationReload => exact execReservationReload_formed h
  | reservationWrite => exact execReservationWrite_formed h
  | stageWrite => exact execStageWrite_formed h
  | governorTick => exact execGovernorTick_formed h
  | urgentEnable => exact execUrgentEnable_formed h
  | urgentStart => exact execUrgentStart_formed h
  | urgentDisable => exact execUrgentDisable_formed h
  | batchForm => exact execBatchForm_formed h
  | groupMemberUpdate => exact execGroupMemberUpdate_formed h
  | evictionRound => exact execEvictionRound_formed h
  | streamRestoreSelf => exact execStreamRestoreSelf_formed h
  | transferDiscard => exact execTransferDiscard_formed h
  | snapreqRetry => exact h.moveStep
  | modelEntryWrite => exact execModelEntryWrite_formed h
  | castInvalidate => exact execCastInvalidate_formed h
  | maskWalk => exact h.walkMasks
  | grammarDeadStop => exact execGrammarDeadStop_formed h
  | grammarLoad => exact execGrammarLoad_formed h
  | grammarUnload => exact execGrammarUnload_formed h
  | unloadTakeEffect => exact execUnloadTakeEffect_formed h
  | arenaOpen => exact execArenaOpen_formed h
  | arenaCommit => exact execArenaCommit_formed h
  | arenaClose => exact execArenaClose_formed h
  | kvAlloc => exact execKvAlloc_formed h
  | kvOpen => exact execKvOpen_formed h
  | kvRelease => exact h.runKv (fun _ _ => .ite .pure (.bind storeEntry_keeps fun _ => .ite .pure kvLowerAfter_keeps))
  | kvSetlen => exact h.runKv (fun _ _ => .map (.ite .pure (.bind (.modify fun _ hx1 => hx1.scbStep) fun _ => .pure)))
  | instructionComplete => exact execInstructionComplete_formed h
  | vectorIssue => exact execVectorIssue_formed h
  | leaseGrant => exact execLeaseGrant_formed h
  | leaseEnd => exact execLeaseEnd_formed h
  | accumClaim => exact execAccumClaim_formed h
  | accumRelease => exact execAccumRelease_formed h
  | arrivalCount => exact execArrivalCount_formed h
  | coreWake => exact State.MemoryForm.ite h h.modCore
  | evgath => exact execEvgath_formed h
  | evselWrite => exact execEvselWrite_formed h
  | tlbinv => exact execTlbinv_formed h
  | caststatClear => exact execCaststatClear_formed h
  | registerWrite => exact execRegisterWrite_formed h
  | takeTrap => exact execTakeTrap_formed h
  | timerCompare => exact execTimerCompare_formed h
  | slotSave => exact execSlotSave_formed h
  | slotRestore => exact execSlotRestore_formed h
  | lssave => exact execLssave_formed h
  | lsload => exact execLsload_formed h
  | coreMove => exact execCoreMove_formed h
  | fwdclr => exact execFwdclr_formed h
  | forwardDeliver => exact execForwardDeliver_formed h
  | joinRecordPush => exact execJoinRecordPush_formed h
  | joinRecordRetry => exact execJoinRecordRetry_formed h
  | migrAnswer => exact execMigrAnswer_formed h
  | mailboxDeliver => exact execMailboxDeliver_formed h
  | commandComplete => exact execCommandComplete_formed h
  | mma | mmacb | mmaf8 => exact h.runTile (fun _ => startMma_keeps) (fun _ _ _ => postRed_keeps) (fun _ => atOnce_keeps)
  | cellp | cell => exact h.runTile (fun _ => startCell_keeps) (fun _ _ _ => postNone_keeps) (fun _ => atOnce_keeps)
  | att => exact h.runTile (fun _ => startAtt_keeps) (fun _ _ _ => postScore_keeps) (fun _ => afterAtt_keeps)
  | scan => exact h.runTile (fun _ => startScan_keeps) (fun _ _ _ => postNone_keeps) (fun _ => afterScan_keeps)
  | accrd => exact h.runTile (fun _ => startAccrd_keeps) (fun _ _ _ => postPlain_keeps) (fun _ => atOnce_keeps)
  | acclr => exact h.runTile (fun _ => startAcclr_keeps) (fun _ _ _ => postNone_keeps) (fun _ => atOnce_keeps)
  | fmtld => exact h.runTile (fun _ => startFmtld_keeps) (fun _ _ _ => postNone_keeps) (fun _ => atOnce_keeps)
  | ringcfg => exact h.runTile (fun _ => startRingcfg_keeps) (fun _ _ _ => postNone_keeps) (fun _ => atOnce_keeps)
  | copy => exact h.runTile (fun _ => startCopyCmd_keeps) (fun _ _ _ => postPlain_keeps) (fun _ => afterCopy_keeps)
  | gath | scat => exact h.runTile (fun _ => startIndexed_keeps) (fun _ _ _ => postPlain_keeps) (fun _ => atOnce_keeps)
  | fill => exact h.runTile (fun _ => madeRun_keeps) (fun _ _ _ => postPlain_keeps) (fun _ => atOnce_keeps)
  | compact => exact h.runTile (fun _ => startCompact_keeps) (fun _ _ _ => postCompact_keeps) (fun _ => afterCompact_keeps)
  | hashpg =>
    exact h.runTile (fun _ => .bind (.forIn fun _ _ => .get fun _ hs1 => .bind (.set hs1.hashPage) fun _ => .pure) fun _ =>
        madeRun_keeps) (fun _ _ _ => postNone_keeps) (fun _ => atOnce_keeps)
  | mcast =>
    exact h.runTile (fun _ => .bind (.forIn fun _ _ => .bind readElem_keeps fun _ => .pure) fun _ => .bind
        (.forIn fun _ _ => .bind (.modify fun _ hx2 => hx2.storeLs) fun _ => .pure) fun _ => madeRun_keeps)
        (fun _ _ _ => postNone_keeps) (fun _ => atOnce_keeps)
  | redst => exact h.runTile (fun _ => startRedst_keeps) (fun _ _ _ => postHome_keeps) (fun _ => atOnce_keeps)
  | barm =>
    exact h.runTile (fun _ => .bind (.modify fun _ hs1 => hs1.arrive) fun _ => madeRun_keeps) (fun _ _ _ => postNone_keeps)
        (fun _ => atOnce_keeps)
  | snap => exact h.runTile (fun _ => madeRun_keeps) (fun _ _ _ => postNone_keeps) (fun _ => afterSnap_keeps)
  | ckpt => exact h.runTile (fun _ => startCkpt_keeps) (fun _ _ _ => postNone_keeps) (fun _ => atOnce_keeps)
  | packageIdBurn => exact State.MemoryForm.ite h (h.upd rfl)
  | sleepTimerLimit => exact execSleepTimerLimit_formed h
  | creditReturn => exact execCreditReturn_formed h
  | neighbourDrainReport => exact (h.upd (by rfl)).flushLinks
  | pfcPauseFrame => exact execPfcPauseFrame_formed h

/-! ### Auto -/

theorem State.MemoryForm.turnOf {k} (h : s.MemoryForm) : (s.turnOf k).MemoryForm := h.modCore.charge.upd rfl

theorem tryIssue_formed {k} (h : s.MemoryForm) : Res.Formed (s.tryIssue k) := by
  unfold State.tryIssue
  split
  next t i et => exact exec_formed (h.turnOf.fetch.of_fst et)
  next t et => exact (h.turnOf.fetch.of_fst et)

theorem issueTurn_formed {ks} {s : State} (h : s.MemoryForm) : Res.Formed (State.issueTurn ks s) := by
  induction ks generalizing s with
  | nil => exact h
  | cons k ks ih =>
    have hk := tryIssue_formed (k := k) h
    unfold State.issueTurn
    split
    next u e =>
      rw [e] at hk
      split
      · exact hk
      · exact ih (State.MemoryForm.upd hk rfl)
    · exact hk

theorem coreTurn_formed {c} (h : s.MemoryForm) : Res.Formed (s.coreTurn c) := issueTurn_formed h

/-! ### Step -/

theorem take_formed {t} (h : s.MemoryForm) : Res.Formed (s.take t) := by
  unfold State.take
  split
  · split
    · exact h
    split
    · exact h.holdArrival
    · exact exec_formed (h.upd rfl)
  · split
    · exact h
    · exact coreTurn_formed h
  · exact .ite h h.homeFree
  · exact h.elapse

theorem step_formed (h : s.MemoryForm) : Res.Formed (step s) := by
  unfold step
  split
  · exact take_formed (h.upd rfl)
  · exact take_formed h

end

/-! ### The obligation -/

/-- Settles O59: whatever turn a step takes, each function that it runs through keeps the canonical form. -/
theorem memoryFormKept : Obligations.MemoryFormKept := by
  intro s t h e
  have hs := step_formed h
  rw [e] at hs
  exact hs

end Sys2Proof.Machine
end

section
/-! A walker that resumes at a frame without a descriptor. -/

namespace Sys2Proof.Machine

/-- WALK_BUSY_RESUME goes on with the outstanding operation that it names. -/
theorem exec_walkBusyResume {s : State} {k : Nat} {o : Outst} (hk : s.ev.who = k) (ho : s.out? k s.ev.n = some o) :
    exec .walkBusyResume s = .next (s.progressOp k o) := by
  subst hk
  show execWalkBusyResume s = _
  simp only [execWalkBusyResume, State.target, ho, Option.map_some]

/-- An atomic of slot 0 to offset 8 of page 1. -/
def walkingAtomic : Outst := ⟨1, 0, 0, 15, [], .atomic 0x10008 8 0 5 0 .strand 31, [.g 31], .ready, false, false, 0, 5, 0, []⟩

/-- Tenant 5 has the page tables of page 1: the leaf names frame 1, with every permission and content hashes (H, R76). The frame
has no descriptor yet, the pools are empty, and a drain is on its way (R93). -/
def walksUnlisted : State :=
  { State.reset.setEntry 0x200000 0x202001 |>.setEntry 0x202000 0x204001 |>.setEntry 0x204000 0x206001
      |>.setEntry 0x206008 0x1020F |>.modSlot 0 fun x => { x with tenant := 5, outs := [walkingAtomic] } with
    tenants := [(5, ⟨0x200000, 0, 0, 100, 0, 7, false⟩)], poolsz := 0
    drain := some ⟨0, 0, [], [], false, []⟩, ckgen := 1
    ev := { who := 0, n := 1 } }

/-- The atomic may leave, and nothing stands in its way: no fault, no TLB entry. -/
theorem walksUnlisted_ready :
    walksUnlisted.ev.flag = false ∧ walksUnlisted.out? 0 walksUnlisted.ev.n = some walkingAtomic ∧
    (walksUnlisted.slot 0).mayLeave walkingAtomic = true ∧ regionOf 0x10008 = .tenant ∧
    walksUnlisted.faultOf (.op 0 1) 0x10008 = none ∧
    walksUnlisted.tlbFind 0 (some 0) ((walksUnlisted.rootOf (.tenant 5)).getD 0) 0x10008 = none := by decide +kernel

/-- The walk ends at frame 1, no drain holds it, and its home may perform the write: every condition of the atomic is met. -/
theorem walksUnlisted_ends :
    let r := walksUnlisted.writeWalk (.tenant 5) 0x10008
    r.2 = .frame 0x10000 ∧ r.1.walk (.tenant 5) 0x10008 = .leaf 0x206008 0x1020F false ∧
    r.1.announceRoom 0 = true ∧ r.1.canPerformNow 0 0x10008 8 = true ∧ r.1.oldFrame 0x10008 = false := by decide +kernel

/-- Taking the leaf gives frame 1 a descriptor of generation 0 (R78), older than the drain's: the frame is now one that the drain
holds, so the atomic waits where it stood. -/
theorem walksUnlisted_waits :
    ((walksUnlisted.progressOp 0 walkingAtomic).out? 0 1).map (fun u => u.st) = some .ready := by decide +kernel

/-- Refutes O22: the atomic of `walksUnlisted` meets each condition of the statement and has no value after the step, since the
descriptor that its own walk lists makes its frame one that the drain holds. -/
theorem not_walkResumes : ¬ Obligations.WalkResumes := by
  intro h
  obtain ⟨hflag, hout, hleave, hregion, hfault, htlb⟩ := walksUnlisted_ready
  obtain ⟨hend, hwalk, hroom, hperform, hold⟩ := walksUnlisted_ends
  have hk : walksUnlisted.ev.who = 0 := rfl
  have hst : walkingAtomic.st = .ready := rfl
  obtain ⟨-, -, hatomic⟩ := h walksUnlisted 0 walkingAtomic 0x10008 hk hflag hout hst hleave hregion hfault htlb
  obtain ⟨t, hstep, hvalue, -⟩ := hatomic 8 0 5 0 .strand 31 0x10000 rfl ⟨hend, _, _, _, hwalk⟩ hroom hperform hold
  have ht : walksUnlisted.progressOp 0 walkingAtomic = t := Host.Outcome.next.inj ((exec_walkBusyResume hk hout).symm.trans hstep)
  have hwait := walksUnlisted_waits
  rw [ht] at hwait
  exact absurd (hwait.symm.trans hvalue) (by simp)

end Sys2Proof.Machine
end

section
/-! Posted register writes, as the units that hold the registers take them (R83, R198, R255, R266, R267, R391). -/

namespace Sys2Proof.Machine

/-! ### Dwords of memory -/

theorem leNat_leBytes (n v : Nat) : leNat (leBytes n v) = v % 256 ^ n := by
  induction n generalizing v with
  | zero => simp [leNat, leBytes, Nat.mod_one]
  | succ n ih =>
    rw [leBytes, leNat, ih, Nat.pow_succ, Nat.mul_comm (256 ^ n), Nat.mod_mul]
    simp

theorem dw_leNat_leBytes (v : Dword) : dw (leNat (leBytes 8 v.toNat)) = v := by
  rw [leNat_leBytes, dw, Nat.mod_eq_of_lt (by simpa using v.isLt), BitVec.ofNat_toNat, BitVec.setWidth_eq]

theorem getElem_readBytes (m : Memory) (a : Nat) {n i : Nat} (h : i < (m.readBytes a n).length) :
    (m.readBytes a n)[i] = m.readByte (a + i) := by
  induction n generalizing a i with
  | zero => simp [Memory.readBytes] at h
  | succ n ih =>
    cases i with
    | zero => rfl
    | succ i =>
      simp only [Memory.readBytes, List.getElem_cons_succ]
      rw [ih, Nat.add_assoc, Nat.add_comm 1]

/-- Bytes just written read back. -/
theorem readBytes_writeBytes_same {m : Memory} (a : Nat) (bs : List Byte) (h : m.wf = true) :
    (m.writeBytes a bs).readBytes a bs.length = bs := by
  refine List.ext_getElem (length_readBytes ..) fun i _ hi => ?_
  rw [getElem_readBytes, Memory.readByte_writeBytes _ _ _ h, dif_pos (by omega)]
  simp

/-- Bytes outside a written range read as before. -/
theorem readBytes_writeBytes_apart {m : Memory} {a b n : Nat} {bs : List Byte} (h : m.wf = true)
    (hab : b + n ≤ a ∨ a + bs.length ≤ b) : (m.writeBytes a bs).readBytes b n = m.readBytes b n := by
  refine List.ext_getElem (by simp only [length_readBytes]) fun i hi _ => ?_
  rw [length_readBytes] at hi
  rw [getElem_readBytes, getElem_readBytes, Memory.readByte_writeBytes _ _ _ h, dif_neg (by omega)]

theorem lsDword_storeLs {s : State} {cl off : Nat} (w : Nat) (v : Dword) (h : s.ls.wf = true) :
    (s.storeLs w cl off (leBytes 8 v.toNat)).lsDword cl off = v := by
  have h8 := readBytes_writeBytes_same (lsKey cl off) (leBytes 8 v.toNat) h
  rw [Laws.length_leBytes] at h8
  rw [State.lsDword, State.readLs, ls_storeLs, h8, dw_leNat_leBytes]

theorem lsDword_storeLs_apart {s : State} {cl off o : Nat} (w : Nat) (v : Dword) (h : s.ls.wf = true) (hoff : off + 8 ≤ 2 ^ 22)
    (ho : o + 8 ≤ 2 ^ 22) (hap : off + 8 ≤ o ∨ o + 8 ≤ off) :
    (s.storeLs w cl off (leBytes 8 v.toNat)).lsDword cl o = s.lsDword cl o := by
  rw [State.lsDword, State.readLs, ls_storeLs, readBytes_writeBytes_apart h, State.lsDword, State.readLs]
  rw [Laws.length_leBytes, lsKey, lsKey, Nat.mod_eq_of_lt (by omega), Nat.mod_eq_of_lt (by omega)]
  omega

theorem lsDword_of_ls {s t : State} (h : t.ls = s.ls) (cl off : Nat) : t.lsDword cl off = s.lsDword cl off := by
  rw [State.lsDword, State.lsDword, readLs_of_ls h]

theorem lsDword_answered (s : State) (k cl off : Nat) : (s.answered k).lsDword cl off = s.lsDword cl off := rfl

/-! ### A posted write that is over (R391) -/

section
variable (s : State) (k : Nat)

theorem slot_finishCmd_cmd : ((s.finishCmd k).slot k).cmd = none := by
  rw [State.finishCmd, slot_of_slots (State.count_slots ..)]
  simp

/-- What stands in a core, but for its event counts. -/
theorem core_count (c j : Nat) (e : Byte) (n : Nat) : ∃ evc, (s.count c e n).core j = { s.core j with evc := evc } := by
  unfold State.count
  split
  · by_cases h : j = c
    · exact ⟨_, by rw [State.modCore_eq, State.core_setCore, if_pos h, h]⟩
    · exact ⟨_, by rw [State.modCore_eq, State.core_setCore, if_neg h]⟩
  · exact ⟨_, rfl⟩

theorem core_finishCmd (j : Nat) : ∃ evc, (s.finishCmd k).core j = { s.core j with evc := evc } := core_count ..

@[simp] theorem ls_finishCmd : (s.finishCmd k).ls = s.ls := by simp [State.finishCmd]

theorem cluster_finishCmd (j : Nat) : (s.finishCmd k).cluster j = s.cluster j := by
  simp [State.finishCmd, State.cluster]

end

/-! ### Registers of the die and the package (R391) -/

theorem cmd?_eq_some {s : State} {k n : Nat} {v : Dword} : s.cmd? k n = some v ↔ (s.slot k).cmd = some (n, v) := by
  unfold State.cmd?
  rcases (s.slot k).cmd with - | ⟨m, u⟩
  · simp
  · by_cases h : m = n <;> simp [h]

theorem exec_registerWrite {s : State} {k n : Nat} {v : Dword} (hk : s.ev.who = k) (h : s.cmd? k n = some v)
    (hn : n ∈ [0x090, 0x091, 0x094, 0x0A0, 0x0E3]) : exec .registerWrite s = .next ((s.writeShared k n v).finishCmd k) := by
  subst hk
  show execRegisterWrite s = _
  simp only [List.mem_cons, List.not_mem_nil, or_false] at hn
  rw [execRegisterWrite, cmd?_eq_some.1 h]
  exact congrArg _ (if_pos (by simp only [beq_iff_eq, Bool.or_eq_true]; omega))

theorem writeShared_castcfg (s : State) (k : Nat) (v : Dword) :
    s.writeShared k 0x0A0 v = { s with castcfg := keepBits v 63 62 } := by simp [State.writeShared]

theorem writeShared_ckrecv (s : State) (k : Nat) (v : Dword) : s.writeShared k 0x094 v = { s with ckrecv := v &&& ~~~ 15 } := by
  simp [State.writeShared]

/-! ### Event counters (R266, R267) -/

/-- What EVSEL leaves in its core. -/
def Core.selected (x : Core) (v : Dword) : Core :=
  { x with evctr := BitVec.ofNat 4 (bits v 63 60), evsel := x.evsel.set (mboxFin (bits v 63 60)) (v.extractLsb' 0 8)
           evc := if v.getLsbD 59 then x.evc.set (mboxFin (bits v 63 60)) 0 else x.evc }

theorem evctr_selected (x : Core) (v : Dword) : (x.selected v).evctr = v.extractLsb' 60 4 := by
  refine BitVec.eq_of_toNat_eq ?_
  simp [Core.selected, bits, Nat.shiftRight_eq_div_pow]

theorem evsel_selected (x : Core) (v : Dword) : (x.selected v).evsel.get (mboxFin (bits v 63 60)) = v.extractLsb' 0 8 := by
  simp [Core.selected, Vector.get_eq_getElem]

theorem exec_evselWrite {s : State} {k : Nat} {v : Dword} (hk : s.ev.who = k) (h : s.cmd? k 0x040 = some v) :
    exec .evselWrite s = .next ((s.modCore (coreOf k) (·.selected v)).finishCmd k) := by
  subst hk
  show execEvselWrite s = _
  simp only [execEvselWrite, h]
  rfl

/-- One ADD of EVGATH at a dword of the own local store. -/
def State.addDword (s : State) (k off : Nat) (x : Dword) : State :=
  (s.countFree (coreOf k) 0x06 2).storeLs (dieOf k) (clusterOf k) off (leBytes 8 (s.lsDword (clusterOf k) off + x).toNat)

theorem gatherAdd_own {s b : State} {k off : Nat} {va x : Dword} {r : Requester} (i : Nat) (hr : regionOf va = .own off) :
    gatherAdd (b.whoSlot k r) va x i s = .ok ((), s.addDword k off x) := by
  have hplace : placeWrite (b.whoSlot k r) va 8 2 s = .ok (.ls (clusterOf k) off, s.countFree (coreOf k) 0x06 2) := by
    unfold placeWrite
    rw [show (b.whoSlot k r).cluster = clusterOf k from rfl, lsPlace_own hr]
    simp [atPlace, State.noteAccess, State.whoSlot, dieOf_cluster, bind_ok (modify_ok _ _)]
    rfl
  refine (bind_ok hplace).trans ?_
  rw [State.addDword, ← lsDword_of_ls (s.ls_countFree (coreOf k) 0x06 2)]
  rfl

/-- The ADDs of EVGATH to several dwords from an offset of the own local store on. -/
def State.addDwords (s : State) (k off : Nat) (x : Nat → Dword) (is : List Nat) : State :=
  is.foldl (fun u i => u.addDword k (off + 8 * i) (x i)) s

theorem wf_addDword {s : State} {k off : Nat} {x : Dword} (h : s.ls.wf = true) : (s.addDword k off x).ls.wf = true :=
  wf_storeLs _ _ _ _ (by rwa [State.ls_countFree])

theorem lsDword_addDword {s : State} {k off : Nat} {x : Dword} (h : s.ls.wf = true) :
    (s.addDword k off x).lsDword (clusterOf k) off = s.lsDword (clusterOf k) off + x :=
  lsDword_storeLs _ _ (by rwa [State.ls_countFree])

theorem lsDword_addDword_apart {s : State} {k off o : Nat} {x : Dword} (h : s.ls.wf = true) (hoff : off + 8 ≤ 2 ^ 22)
    (ho : o + 8 ≤ 2 ^ 22) (hap : off + 8 ≤ o ∨ o + 8 ≤ off) :
    (s.addDword k off x).lsDword (clusterOf k) o = s.lsDword (clusterOf k) o := by
  rw [State.addDword, lsDword_storeLs_apart _ _ (by rwa [State.ls_countFree]) hoff ho hap]
  exact lsDword_of_ls (s.ls_countFree ..) ..

/-- Each dword that is named gains its addend, once; the others stay. -/
theorem lsDword_addDwords {s : State} {k off j : Nat} {x : Nat → Dword} {is : List Nat} (h : s.ls.wf = true) (hd : is.Nodup)
    (his : ∀ i ∈ is, off + 8 * i + 8 ≤ 2 ^ 22) (hj : off + 8 * j + 8 ≤ 2 ^ 22) :
    (s.addDwords k off x is).lsDword (clusterOf k) (off + 8 * j) =
      if j ∈ is then s.lsDword (clusterOf k) (off + 8 * j) + x j else s.lsDword (clusterOf k) (off + 8 * j) := by
  induction is generalizing s with
  | nil => simp [State.addDwords]
  | cons i is ih =>
    obtain ⟨hi, hd⟩ := List.nodup_cons.1 hd
    have hrest := ih (wf_addDword (k := k) (off := off + 8 * i) (x := x i) h) hd fun a ha => his a (List.mem_cons_of_mem _ ha)
    refine hrest.trans ?_
    by_cases hij : j = i
    · subst hij
      rw [if_neg hi, if_pos (List.mem_cons_self ..), lsDword_addDword h]
    · rw [lsDword_addDword_apart h (his i (List.mem_cons_self ..)) hj (by omega)]
      simp [hij]

theorem gatherAdds_own {b : State} {k off : Nat} {va : Dword} {r : Requester} {x : Nat → Dword} {is : List Nat} {s : State}
    (hr : regionOf va = .own off) (his : ∀ i ∈ is, off + 8 * i < 2 ^ 22) :
    (forIn is PUnit.unit fun i _ => do
      gatherAdd (b.whoSlot k r) (va + dw (8 * i)) (x i) i
      pure (.yield ⟨⟩) : M PUnit) s = .ok (⟨⟩, s.addDwords k off x is) := by
  induction is generalizing s with
  | nil => rfl
  | cons i is ih =>
    have hi := gatherAdd_own (s := s) (b := b) (k := k) (x := x i) (r := r) i (regionOf_add_own hr (his i (List.mem_cons_self ..)))
    exact (forIn_cons_ok (bind_ok hi)).trans (ih fun a ha => his a (List.mem_cons_of_mem _ ha))

/-- What EVGATH adds to the dwords of the gather record: a core's 16 counts, and 1 (R267). -/
def Core.gathers (x : Core) (i : Nat) : Dword := if i < 16 then zext (x.evc.get (mboxFin i)) else 1

theorem exec_evgath {s : State} {k off : Nat} {v : Dword} (hk : s.ev.who = k) (h : s.cmd? k 0x0D0 = some v)
    (hr : regionOf (v &&& 0x00FFFFFFFFFFFF00) = .own off) (ho : off + 256 ≤ 2 ^ 22) : exec .evgath s =
      .next (((s.addDwords k off (s.core (coreOf k)).gathers (List.range 17)).answered k).finishCmd k) := by
  subst hk
  show execEvgath s = _
  simp only [execEvgath, h]
  refine congrArg _ (runCmd_ok ?_)
  refine bind_ok (gatherAdds_own hr fun i hi => ?_)
  have := List.mem_range.1 hi
  omega

/-- A gather record lies at a multiple of 256 bytes. -/
theorem own_gather_record {v : Dword} {off : Nat} (h : regionOf (v &&& 0x00FFFFFFFFFFFF00) = .own off) : off + 256 ≤ 2 ^ 22 := by
  obtain ⟨hv, ho⟩ := regionOf_eq_own_iff.1 h
  have h8 : (v &&& 0x00FFFFFFFFFFFF00).toNat % 2 ^ 8 = 0 := by
    rw [BitVec.toNat_and, ← Nat.and_two_pow_sub_one_eq_mod, Nat.and_assoc]
    exact Nat.and_zero _
  omega

/-! ### TLBs and the Cast unit (R83, R198) -/

theorem exec_tlbinv {s : State} {k r : Nat} {v : Dword} (hk : s.ev.who = k) (h : s.cmd? k 0x084 = some v)
    (hr : s.rootOf (if v.getLsbD 1 then .stream (bits (s.slot k).statesel 31 0) else .tenant (s.slot k).tenant) = some r) :
    exec .tlbinv s = .next ((if v.getLsbD 0 then { s with tlb := s.tlb.filter fun (t : TlbEntry) => t.root ≠ r }
      else s.tlbDrop r (v.toNat / 2 ^ 16 % 2 ^ 40 * 65536)).finishCmd k) := by
  subst hk
  show execTlbinv s = _
  simp only [execTlbinv, h, hr]
  rfl

theorem exec_caststatClear {s : State} {k : Nat} {v : Dword} (hk : s.ev.who = k) (h : s.cmd? k 0x0A1 = some v) :
    exec .caststatClear s = .next ((s.modDie (dieOf k) fun d => { d with caststat := 0 }).finishCmd k) := by
  subst hk
  show execCaststatClear s = _
  simp only [execCaststatClear, h]

/-! ### Accumulator leases (R255) -/

/-- The accumulator store when a core claims a slot: it is cleared, unless the same core held it last. -/
theorem claimAcc_eq (s : State) (c : Nat) (i : Fin 8) : ∃ a : Memory, s.claimAcc c i =
    (({ s with acc := a } : State).modCluster (c / 4) fun x => { x with
      accHold := x.accHold.set i (some c), accLast := x.accLast.set i (some c), kend := x.kend.set i false }).modCore c
    fun x => { x with accmask := x.accmask ||| BitVec.twoPow 8 i.val } := by
  unfold State.claimAcc
  dsimp only
  split
  · exact ⟨s.acc, rfl⟩
  · exact ⟨_, rfl⟩

theorem accmask_claimAcc (s : State) (c : Nat) (i : Fin 8) :
    ((s.claimAcc c i).core c).accmask = (s.core c).accmask ||| BitVec.twoPow 8 i.val := by
  obtain ⟨a, ha⟩ := claimAcc_eq s c i
  rw [ha, State.modCore_eq, State.core_setCore, if_pos rfl]
  rfl

theorem cluster_claimAcc (s : State) (c : Nat) (i : Fin 8) : ∃ last, (s.claimAcc c i).cluster (c / 4) =
    { s.cluster (c / 4) with accHold := (s.cluster (c / 4)).accHold.set i (some c), accLast := last
                             kend := (s.cluster (c / 4)).kend.set i false } := by
  obtain ⟨a, ha⟩ := claimAcc_eq s c i
  rw [ha, State.modCore_eq, State.cluster_setCore, State.modCluster_eq, State.cluster_setCluster, if_pos rfl]
  exact ⟨_, rfl⟩

/-- A core holds an accumulator slot, without a K-end record. -/
def State.holdsAcc (s : State) (c : Nat) (i : Fin 8) : Prop :=
  (s.cluster (c / 4)).accHold.get i = some c ∧ (s.cluster (c / 4)).kend.get i = false

theorem holdsAcc_claimAcc {s : State} {c : Nat} {i j : Fin 8} (h : j = i ∨ s.holdsAcc c j) : (s.claimAcc c i).holdsAcc c j := by
  obtain ⟨last, hl⟩ := cluster_claimAcc s c i
  by_cases hij : i = j
  · subst hij
    simp [State.holdsAcc, hl, Vector.get_eq_getElem]
  · have hne : i.val ≠ j.val := fun e => hij (Fin.ext e)
    obtain ⟨hh, hk⟩ := h.resolve_left (Ne.symm hij)
    simp only [Vector.get_eq_getElem] at hh hk
    simp [State.holdsAcc, hl, Vector.get_eq_getElem, hh, hk, hne]

/-- Each slot of a list is claimed, and each that was held stays so. -/
theorem claimAcc_foldl {c : Nat} {is : List (Fin 8)} {s : State} :
    let t := is.foldl (fun s i => s.claimAcc c i) s
    (∀ b : Nat, (hb : b < 8) → (t.core c).accmask.getLsbD b = ((s.core c).accmask.getLsbD b || is.contains ⟨b, hb⟩)) ∧
    ∀ j, j ∈ is ∨ s.holdsAcc c j → t.holdsAcc c j := by
  induction is generalizing s with
  | nil => simp
  | cons i is ih =>
    obtain ⟨hmask, hhold⟩ := ih (s := s.claimAcc c i)
    refine ⟨fun b hb => ?_, fun j hj => hhold j ?_⟩
    · rw [List.foldl_cons, hmask b hb, accmask_claimAcc]
      simp [Fin.ext_iff, hb, Bool.or_assoc, eq_comm]
    · rcases hj with hj | hj
      · rcases List.mem_cons.1 hj with rfl | hj
        · exact .inr (holdsAcc_claimAcc (.inl rfl))
        · exact .inl hj
      · exact .inr (holdsAcc_claimAcc (.inr hj))

/-- The slots that a LEASE write newly sets. -/
def State.freshAcc (s : State) (c : Nat) (v : Dword) : List (Fin 8) :=
  (List.finRange 8).filter fun i => v.getLsbD i.val && !(s.core c).accmask.getLsbD i.val

theorem exec_accumClaim {s : State} {k : Nat} {v : Dword} (hk : s.ev.who = k) (h : s.cmd? k 0x020 = some v)
    (hb : s.accBusy k v = false) (hv : (s.core (coreOf k)).accmask &&& ~~~ v.extractLsb' 0 8 = 0) :
    let t := (s.freshAcc (coreOf k) v).foldl (fun s i => s.claimAcc (coreOf k) i) s
    (t.core (coreOf k)).accmask = v.extractLsb' 0 8 ∧ exec .accumClaim s = .next (t.finishCmd k) := by
  subst hk
  intro t
  have hmask : (t.core (coreOf s.ev.who)).accmask = v.extractLsb' 0 8 := by
    refine BitVec.eq_of_getLsbD_eq fun b hb8 => ?_
    have hold : (s.core (coreOf s.ev.who)).accmask.getLsbD b = true → v.getLsbD b = true := by
      simpa [hb8] using congrArg (fun x : BitVec 8 => x.getLsbD b) hv
    rw [claimAcc_foldl.1 b hb8]
    by_cases hbit : v.getLsbD b = true
    · simp [State.freshAcc, hbit, hb8]
    · simpa [State.freshAcc, hbit, hb8] using mt hold hbit
  refine ⟨hmask, ?_⟩
  show execAccumClaim s = _
  simp only [execAccumClaim, h, hb]
  rw [if_neg (by simp)]
  refine congrArg _ (if_pos ?_)
  show (t.core (coreOf s.ev.who)).accmask &&& _ = 0
  rw [hmask]
  exact BitVec.and_not_self _

/-- The slots that a LEASE write clears. -/
def State.goneAcc (s : State) (c : Nat) (v : Dword) : List (Fin 8) :=
  (List.finRange 8).filter fun i => !v.getLsbD i.val && (s.core c).accmask.getLsbD i.val

/-- What a LEASE write that only clears leaves. -/
def State.releaseAcc (s : State) (c : Nat) (v : Dword) : State :=
  (s.modCore c fun x => { x with accmask := x.accmask &&& v.extractLsb' 0 8 }).modCluster (c / 4) fun x =>
    { x with accHold := Vector.ofFn fun i => if (s.goneAcc c v).contains i then none else x.accHold.get i }

theorem exec_accumRelease {s : State} {k : Nat} {v : Dword} (hk : s.ev.who = k) (h : s.cmd? k 0x020 = some v)
    (hv : ∀ i : Fin 8, v.getLsbD i.val = true → (s.core (coreOf k)).accmask.getLsbD i.val = true)
    (hu : ∀ i : Fin 8, s.accInUse (coreOf k) i.val = false) :
    exec .accumRelease s = .next ((s.releaseAcc (coreOf k) v).finishCmd k) := by
  subst hk
  show execAccumRelease s = _
  simp only [execAccumRelease, h, hu]
  refine congrArg _ (if_neg ?_)
  simpa using hv

theorem accmask_releaseAcc {s : State} {c : Nat} {v : Dword}
    (hv : ∀ i : Fin 8, v.getLsbD i.val = true → (s.core c).accmask.getLsbD i.val = true) :
    ((s.releaseAcc c v).core c).accmask = v.extractLsb' 0 8 := by
  refine BitVec.eq_of_getLsbD_eq fun b hb => ?_
  have := hv ⟨b, hb⟩
  by_cases hbit : v.getLsbD b = true <;> simp_all [State.releaseAcc]

theorem accHold_releaseAcc {s : State} {c : Nat} {v : Dword} {i : Fin 8} (hv : v.getLsbD i.val = false)
    (hm : (s.core c).accmask.getLsbD i.val = true) : ((s.releaseAcc c v).cluster (c / 4)).accHold.get i = none := by
  simp [State.releaseAcc, State.goneAcc, Vector.get_eq_getElem, hv, hm]

/-! ### The obligation -/

/-- Settles O29, register by register. -/
theorem registerSteps : Obligations.RegisterSteps := by
  intro s k v hk
  refine ⟨?castcfg, ?ckrecv, ?shared, ?evsel, ?evgath, ?tlbinv, ?caststat, ?claim, ?release⟩
  case castcfg =>
    intro h
    rw [← writeShared_castcfg s k v]
    exact exec_registerWrite hk h (by simp)
  case ckrecv =>
    intro h
    rw [← writeShared_ckrecv s k v]
    exact exec_registerWrite hk h (by simp)
  case shared =>
    intro n hn h
    exact exec_registerWrite hk h (by simp only [List.mem_cons, List.not_mem_nil, or_false] at hn ⊢; omega)
  case evsel =>
    intro h
    obtain ⟨evc, hcore⟩ := core_finishCmd (s.modCore (coreOf k) (·.selected v)) k (coreOf k)
    refine ⟨_, exec_evselWrite hk h, ?_, ?_, slot_finishCmd_cmd ..⟩
    · rw [hcore, State.modCore_eq, State.core_setCore, if_pos rfl]
      exact evctr_selected (s.core (coreOf k)) v
    · rw [hcore, State.modCore_eq, State.core_setCore, if_pos rfl]
      exact evsel_selected (s.core (coreOf k)) v
  case evgath =>
    intro off hw h hr
    have ho := own_gather_record hr
    have hdword : ∀ i < 17,
        (((s.addDwords k off (s.core (coreOf k)).gathers (List.range 17)).answered k).finishCmd k).lsDword (clusterOf k) (off + 8 * i) =
          s.lsDword (clusterOf k) (off + 8 * i) + (s.core (coreOf k)).gathers i := by
      intro i hi
      have hin : ∀ j ∈ List.range 17, off + 8 * j + 8 ≤ 2 ^ 22 := fun j hj => by have := List.mem_range.1 hj; omega
      rw [lsDword_of_ls (ls_finishCmd ..), lsDword_answered, lsDword_addDwords hw List.nodup_range hin (by omega),
        if_pos (List.mem_range.2 hi)]
    refine ⟨_, exec_evgath hk h hr ho, slot_finishCmd_cmd .., fun i hi => ?_, ?_⟩
    · rw [hdword i (by omega), Core.gathers, if_pos hi, zext]
    · exact hdword 16 (by omega)
  case tlbinv => exact fun r h hr => exec_tlbinv hk h hr
  case caststat => exact fun h => exec_caststatClear hk h
  case claim =>
    intro h hb hv
    obtain ⟨hmask, hexec⟩ := exec_accumClaim hk h hb hv
    refine ⟨_, hexec, ?_, slot_finishCmd_cmd .., fun i hi ho => ?_⟩
    · obtain ⟨evc, hcore⟩ := core_finishCmd _ k (coreOf k)
      rw [hcore]
      exact hmask
    · rw [cluster_finishCmd]
      exact claimAcc_foldl.2 i (.inl (by simpa [State.freshAcc, hi] using ho))
  case release =>
    intro h hv hu
    refine ⟨_, exec_accumRelease hk h hv hu, ?_, slot_finishCmd_cmd .., fun i hi ho => ?_⟩
    · obtain ⟨evc, hcore⟩ := core_finishCmd (s.releaseAcc (coreOf k) v) k (coreOf k)
      rw [hcore]
      exact accmask_releaseAcc hv
    · rw [cluster_finishCmd]
      exact accHold_releaseAcc hi ho

end Sys2Proof.Machine
end

section
/-! The key-value commands and the copy of a table frame (R80, R222, R223). -/

namespace Sys2Proof.Machine

/-! ### Runs -/

theorem map_ok {α β : Type} {f : α → β} {m : M α} {s t : State} {a : α} (h : m s = .ok (a, t)) : (f <$> m) s = .ok (f a, t) := by
  simp only [Functor.map, StateT.map, bind, Except.bind, h]
  rfl

/-! ### Lowering a count (R223) -/

section
variable {s t u x : State} {k : Nat} {w : Who} {l : KvLow} {block va : Dword} {r q : Nat}

/-- ADDR has been written. -/
def State.KvAnswered (s : State) (k : Nat) (block va : Dword) (t : State) : Prop :=
  ∃ ws, writeMem (s.whoSlot k (.issue k)) (block + 0x30) (leBytes 8 va.toNat) 5 s = .ok (ws, t)

theorem kvAnswer_ok (h : s.KvAnswered k block va t) : kvAnswer k block va s = .ok (kvOk, t) := by
  obtain ⟨ws, hws⟩ := h
  exact orFatal_ok (bind_ok (m := get) (a := s) (t := s) rfl |>.trans <| (bind_ok hws).trans rfl)

theorem finish_of_result (h : l.result ≠ 0) : l.finish k r s = .ok (l.result, s) := by
  rw [KvLow.finish, kvOk, if_pos h]
  rfl

theorem finish_of_no_answer (h : l.result = 0) (ha : l.answer = none ∨ r ≠ 0) : l.finish k r s = .ok (r, s) := by
  rw [KvLow.finish, kvOk, if_neg (not_not.2 h)]
  rcases hl : l.answer with - | ⟨block, va⟩
  · rfl
  · exact congrFun (if_neg (ha.resolve_left (by simp [hl]))) s

theorem finish_of_answer (h : l.result = 0) (ha : l.answer = some (block, va)) (hs : s.KvAnswered k block va t) :
    l.finish k 0 s = .ok (0, t) := by
  rw [KvLow.finish, kvOk, if_neg (not_not.2 h), ha]
  exact kvAnswer_ok hs

theorem kvLowerAfter_of_near (hn : l.away w s = .ok (false, t)) (hl : kvLower w l.pkg l.va t = .ok (r, u))
    (hf : l.finish k r u = .ok (q, x)) : kvLowerAfter k w l s = .ok (some q, x) :=
  (bind_ok hn).trans <| (bind_ok hl).trans <| map_ok hf

theorem kvLowerAfter_of_away (h : l.away w s = .ok (true, t)) :
    kvLowerAfter k w l s = .ok (none, t.modSlot k fun x => { x with kvLow := some l }) :=
  (bind_ok h).trans rfl

/-- A block that has been taken, and what it takes stands. -/
theorem kvTaken_ok {c : KvCmd} {e : Dword} {m : M Unit} {go : M (Option Nat)} {o : Option Nat} (hm : m s = .ok ((), t))
    (hg : go t = .ok (o, u)) : kvTaken k w c e m go s = .ok (o, u) :=
  (bind_ok (a := true) (orFatal_ok ((bind_ok hm).trans rfl))).trans hg

end

/-! ### The step of a command (R223) -/

/-- What a command leaves that is over. -/
def State.kvDone (u : State) (k r : Nat) : State :=
  ((u.answered k).modSlot k fun x => { x with kvstat := dw r, kvLow := none }).finishCmd k

/-- What a command leaves that has still to lower a count. -/
def State.kvLater (t : State) (k : Nat) (l : KvLow) : State := (t.modSlot k fun x => { x with kvLow := some l }).answered k

/-- The same by its result, which is none where a count is still to be lowered. -/
def State.kvAfter (u : State) (k : Nat) : Option Nat → State
  | none => u.answered k
  | some r => u.kvDone k r

section
variable {s a u : State} {k op : Nat} {v : Dword} {act : Who → KvCmd → M (Option Nat)}

theorem runKv_ok {o : Option Nat} (hk : s.ev.who = k) (hc : s.cmd? k 0x0B0 = some v) (hv : bits v 63 61 = op)
    (h : kvStep k v act s = .ok (o, u)) : runKv op act s = u.kvAfter k o := by
  subst hk
  simp only [runKv, hc]
  rw [if_neg (by simp [hv])]
  refine (runM_ok ((bind_ok h).trans (modify_ok _ _))).trans ?_
  cases o <;> rfl

theorem kvStep_of_low {l : KvLow} {r q : Nat} {z : State} (hl : (s.slot k).kvLow = some l)
    (hr : kvLower { s.whoSlot k (.issue k) with core := none, die := l.die } l.pkg l.va s = .ok (r, u))
    (hf : l.finish k r u = .ok (q, z)) : kvStep k v act s = .ok (some q, z) := by
  refine (bind_ok (m := get) (a := s) (t := s) rfl).trans ?_
  simp only [hl]
  exact (bind_ok hr).trans (map_ok hf)

theorem fenceM_of_released (h : s.released k .package = true) : fenceM k .package true false s = .ok ((), s) := by
  refine (bind_ok (m := get) (a := s) (t := s) rfl).trans ?_
  simp only [h]
  rfl

theorem kvStep_of_read {c : KvCmd} {o : Option Nat} (hl : (s.slot k).kvLow = none) (hf : s.released k .package = true)
    (hv : bits v 63 61 < 4) (hr : kvRead k v s = .ok (.ok c, a)) (ha : act (a.whoKv k c.sid) c a = .ok (o, u)) :
    kvStep k v act s = .ok (o, u) := by
  refine (bind_ok (m := get) (a := s) (t := s) rfl).trans ?_
  simp only [hl]
  refine (bind_ok (fenceM_of_released hf)).trans (orFatal_ok ?_)
  rw [if_neg (by omega)]
  exact (bind_ok hr).trans ha

end

/-! ### The commands (R223) -/

/-- A command of operation `op` that begins: what was posted before has been performed, and the command is a good one. -/
structure State.KvBegins (s : State) (k : Nat) (v : Dword) (op : Nat) (c : KvCmd) (a : State) : Prop where
  who : s.ev.who = k
  cmd : s.cmd? k 0x0B0 = some v
  op : bits v 63 61 = op
  low : (s.slot k).kvLow = none
  released : s.released k .package = true
  read : kvRead k v s = .ok (.ok c, a)

section
variable {s a t u z : State} {k op : Nat} {v : Dword} {c : KvCmd}

theorem runKv_of_begins {act : Who → KvCmd → M (Option Nat)} {o : Option Nat} (h : s.KvBegins k v op c a) (hop : op < 4)
    (ha : act (a.whoKv k c.sid) c a = .ok (o, u)) : runKv op act s = u.kvAfter k o :=
  runKv_ok h.who h.cmd h.op (kvStep_of_read h.low h.released (h.op ▸ hop) h.read ha)

theorem exec_kvAlloc {n : Nat} {x : Dword} (h : s.KvBegins k v 0 c a) (hold : kvValid c.old = false)
    (htier : rd c.img 7 1 / 4 % 4 ≤ 1)
    (hb : allocBlock (a.whoKv k c.sid) c.tab (rd c.img 7 1 % 4) c.tab.blks 0 a = .ok (some n, t))
    (hx : dw (rd c.img 7 1 / 4 % 4 * 2 ^ 62 + rd c.img 7 1 % 4 * 2 ^ 44 + 2 ^ 32 + n) = x)
    (he : storeEntry (a.whoKv k c.sid) c.tab c.entry x t = .ok ((), u)) (hz : u.KvAnswered k c.block (c.tab.blockVa x) z) :
    exec .kvAlloc s = .next (z.kvDone k 0) := by
  obtain rfl := h.who
  refine congrArg _ (runKv_of_begins (o := some 0) h (by omega) ?_)
  dsimp only
  rw [if_neg (by simp [hold, htier])]
  refine (bind_ok hb).trans ?_
  subst hx
  exact kvTaken_ok he (map_ok (kvAnswer_ok hz))

/-- OPEN has the place of its entry, the entry, and the count of the block that it names. -/
structure State.KvOpens (a : State) (w : Who) (c : KvCmd) (e : Dword) (n : Nat) (q : State) : Prop where
  valid : kvValid c.old = true
  tier : kvTier c.old < 2
  read : ∃ p r q₀, placeWrite w (windowAddr c.entry) 8 5 a = .ok (p, r) ∧ readEntry w c.entry 0 r = .ok (e, q₀) ∧
    countRead w (c.tab.countVa (c.tab.blockNo e)) q₀ = .ok (n, q)

theorem exec_kvOpen_unshared {e : Dword} (h : s.KvBegins k v 1 c a) (ho : a.KvOpens (a.whoKv k c.sid) c e 1 t)
    (hz : t.KvAnswered k c.block (c.tab.blockVa e) z) : exec .kvOpen s = .next (z.kvDone k 0) := by
  obtain rfl := h.who
  obtain ⟨hvalid, htier, p, r, q₀, hp, he, hn⟩ := ho
  refine congrArg _ (runKv_of_begins (o := some 0) h (by omega) ?_)
  dsimp only
  rw [if_neg (by simp [hvalid, htier])]
  refine (bind_ok hp).trans <| (bind_ok he).trans <| (bind_ok hn).trans ?_
  rw [if_pos rfl]
  exact map_ok (kvAnswer_ok hz)

/-- OPEN of a shared block copies it into a block that it takes, and its entry names the copy. -/
structure State.KvCopies (q : State) (w : Who) (c : KvCmd) (e e' : Dword) (y : State) : Prop where
  copied : ∃ m bs t l u, allocBlock w c.tab (bits e 45 44) c.tab.blks 0 q = .ok (some m, t) ∧ e' = setBits e 31 0 m ∧
    readMem w (c.tab.blockVa e) c.tab.blockSize 4 t = .ok (bs, l) ∧
    storeMem w (c.tab.blockSize / 4096 + 2) (c.tab.blockVa e') bs l = .ok ((), u) ∧ storeEntry w c.tab c.entry e' u = .ok ((), y)

/-- The count that OPEN lowers once its entry names the copy. -/
def KvCmd.openLow (c : KvCmd) (w : Who) (e e' : Dword) : KvLow :=
  ⟨w.die, none, c.tab.countVa (c.tab.blockNo e), some (c.block, c.tab.blockVa e'), 0⟩

theorem exec_kvOpen_shared {e e' : Dword} {n : Nat} {q y : State} {o : Option Nat} (h : s.KvBegins k v 1 c a)
    (ho : a.KvOpens (a.whoKv k c.sid) c e n q) (hn : n ≠ 1) (hc : q.KvCopies (a.whoKv k c.sid) c e e' y)
    (hz : kvLowerAfter k (a.whoKv k c.sid) (c.openLow (a.whoKv k c.sid) e e') y = .ok (o, z)) :
    exec .kvOpen s = .next (z.kvAfter k o) := by
  obtain rfl := h.who
  obtain ⟨hvalid, htier, p, r, q₀, hp, he, hr⟩ := ho
  obtain ⟨m, bs, t, l, u, hm, rfl, hl, hu, hy⟩ := hc
  refine congrArg _ (runKv_of_begins h (by omega) ?_)
  dsimp only
  rw [if_neg (by simp [hvalid, htier])]
  refine (bind_ok hp).trans <| (bind_ok he).trans <| (bind_ok hr).trans ?_
  rw [if_neg hn]
  exact (bind_ok hm).trans (kvTaken_ok ((bind_ok hl).trans ((bind_ok hu).trans hy)) hz)

/-- The count that RELEASE lowers once its entry is zero. -/
def KvCmd.releaseLow (c : KvCmd) (w : Who) : KvLow :=
  ⟨w.die, if kvTier c.old = 2 then some (bits c.old 61 46) else none, c.tab.countVa (c.tab.blockNo c.old), none, 0⟩

theorem exec_kvRelease {o : Option Nat} (h : s.KvBegins k v 2 c a) (hold : kvValid c.old = true)
    (he : storeEntry (a.whoKv k c.sid) c.tab c.entry 0 a = .ok ((), t)) (htier : kvTier c.old ≠ 3)
    (hz : kvLowerAfter k (a.whoKv k c.sid) (c.releaseLow (a.whoKv k c.sid)) t = .ok (o, z)) :
    exec .kvRelease s = .next (z.kvAfter k o) := by
  obtain rfl := h.who
  refine congrArg _ (runKv_of_begins h (by omega) ?_)
  dsimp only
  rw [if_neg (by simp [hold])]
  refine (bind_ok he).trans ?_
  rw [if_neg htier]
  exact hz

theorem exec_kvRelease_unnamed (h : s.KvBegins k v 2 c a) (hold : kvValid c.old = true)
    (he : storeEntry (a.whoKv k c.sid) c.tab c.entry 0 a = .ok ((), t)) (htier : kvTier c.old = 3) :
    exec .kvRelease s = .next (t.kvDone k 0) := by
  obtain rfl := h.who
  refine congrArg _ (runKv_of_begins (o := some 0) h (by omega) ?_)
  dsimp only
  rw [if_neg (by simp [hold])]
  refine (bind_ok he).trans ?_
  rw [if_pos htier]
  rfl

theorem exec_kvSetlen (h : s.KvBegins k v 3 c a) (hn : rd c.img 0x10 4 ≤ c.tab.maxblk * c.tab.tokens) :
    exec .kvSetlen s = .next ((a.scbStep c.sid fun r => wr r 0x58 4 (rd c.img 0x10 4)).kvDone k 0) := by
  obtain rfl := h.who
  refine congrArg _ (runKv_of_begins (o := some 0) h (by omega) (map_ok ?_))
  rw [if_neg (by omega)]
  rfl

end

/-! ### The copy of a table frame (R80, R222) -/

theorem exec_frameCopyDone {s u : State} {k : Nat} {j : CopyJob} (hk : s.ev.who = k)
    (hj : s.copies.find? (fun c => decide (c.n = k)) = some j) (hw : s.writeDone j.write = true)
    (hr : raiseCounts (homeDie j.old) j.n (kvCounts (s.frameDesc j.fresh).kv (s.frameImg j.fresh)) s = .ok ((), u)) :
    exec .frameCopyDone s = .next (((u.dropFault (.device j.n)).dropRequests (.device j.n)).endCopy j) := by
  subst hk
  show execFrameCopyDone s = _
  simp only [execFrameCopyDone, hj, hw]
  rw [if_neg (by simp)]
  exact congrArg _ (runM_ok ((bind_ok hr).trans (modify_ok _ _)))

/-! ### The obligation -/

/-- The step of a command that has still to lower a count. -/
theorem exec_of_low {s u z : State} {k op r q : Nat} {v : Dword} {i : Instr} {l : KvLow} (hk : s.ev.who = k)
    (hi : (i, op) ∈ [(Instr.kvAlloc, 0), (.kvOpen, 1), (.kvRelease, 2)]) (hc : s.cmd? k 0x0B0 = some v) (hv : bits v 63 61 = op)
    (hl : (s.slot k).kvLow = some l)
    (hr : kvLower { s.whoSlot k (.issue k) with core := none, die := l.die } l.pkg l.va s = .ok (r, u))
    (hf : l.finish k r u = .ok (q, z)) : exec i s = .next (z.kvDone k q) := by
  have hrun : ∀ act, runKv op act s = z.kvDone k q := fun act => runKv_ok hk hc hv (kvStep_of_low hl hr hf)
  simp only [List.mem_cons, Prod.mk.injEq, List.not_mem_nil, or_false] at hi
  rcases hi with ⟨rfl, rfl⟩ | ⟨rfl, rfl⟩ | ⟨rfl, rfl⟩ <;> exact congrArg _ (hrun _)

/-- Settles O45, command by command. -/
theorem keyValueSteps : Obligations.KeyValueSteps := by
  intro s k v c hk done answers later count
  refine ⟨fun a hc hl hf hr => ?begins, fun i op l r u hi hc hv hl hr => ?lowers, fun j u => exec_frameCopyDone hk⟩
  case begins =>
    intro w entry
    have hb : ∀ op, bits v 63 61 = op → s.KvBegins k v op c a := fun op hv => ⟨hk, hc, hv, hl, hf, hr⟩
    refine ⟨?alloc, ?opens, ?release, fun hv hn => exec_kvSetlen (hb 3 hv) hn⟩
    case alloc => exact fun n t u z hv hold htier hn he hz => exec_kvAlloc (hb 0 hv) hold htier hn rfl he hz
    case opens =>
      intro p n e r q₀ q z hv hold htier hp he hn
      have ho : a.KvOpens w c e n q := ⟨hold, htier, p, r, q₀, hp, he, hn⟩
      refine ⟨?unshared, ?shared⟩
      case unshared =>
        rintro rfl hz
        exact exec_kvOpen_unshared (hb 1 hv) ho hz
      case shared =>
        intro m bs t l u y y₁ hn hm hbs e' low hu hy
        have hcopy : q.KvCopies w c e e' y := ⟨m, bs, t, l, u, hm, rfl, hbs, hu, hy⟩
        refine ⟨fun x hnear hlow hz => ?_, fun haway => ?_⟩
        · exact exec_kvOpen_shared (o := some 0) (hb 1 hv) ho hn hcopy
            (kvLowerAfter_of_near hnear hlow (finish_of_answer rfl rfl hz))
        · exact exec_kvOpen_shared (o := none) (hb 1 hv) ho hn hcopy (kvLowerAfter_of_away haway)
    case release =>
      intro t t₁ hv hold he low
      refine ⟨fun r u htier hnear hlow => ?near, fun htier haway => ?away, fun htier => ?_, fun htier => ?_⟩
      case near =>
        have hpkg : (c.releaseLow w).pkg = none := if_neg (by omega)
        exact exec_kvRelease (o := some r) (hb 2 hv) hold he (by omega)
          (kvLowerAfter_of_near hnear (hpkg ▸ hlow) (finish_of_no_answer rfl (.inl rfl)))
      case away => exact exec_kvRelease (o := none) (hb 2 hv) hold he (by omega) (kvLowerAfter_of_away haway)
      · refine exec_kvRelease (o := none) (hb 2 hv) hold he (by omega) (kvLowerAfter_of_away (t := t) ?_)
        simp only [KvLow.away, KvCmd.releaseLow, if_pos htier]
        rfl
      · exact exec_kvRelease_unnamed (hb 2 hv) hold he htier
  case lowers =>
    refine ⟨fun h => ?_, fun h ha => ?_, fun block va z h ha h0 hz => ?_⟩
    · exact exec_of_low hk hi hc hv hl hr (finish_of_result h)
    · exact exec_of_low hk hi hc hv hl hr (finish_of_no_answer h ha)
    · subst h0
      exact exec_of_low hk hi hc hv hl hr (finish_of_answer h ha hz)

end Sys2Proof.Machine
end

section
/-! Homes, ordered folds, the fault protocol, the vector unit and core sleep (R84, R85, R98, R107, R256, R264, R265, R355). -/

namespace Sys2Proof.Machine

/-! ### Homes (R93, R98) -/

section
variable {s : State} {w : Write}

/-- A write that its home may perform now, but for a drain. -/
def State.MayPerform (s : State) (w : Write) : Prop :=
  w.performed = false ∧ s.stampHolds (homeDie w.data.base) w = true ∧ s.orderHolds (homeDie w.data.base) w = true

theorem exec_writePerform (hw : s.writes.find? (fun w => decide (w.n = s.ev.who)) = some w) (h : s.MayPerform w) :
    exec .writePerform s = .next (match w.data.ranges.find? fun r => s.oldFrame r.1 with
      | some r => s.beginSide r.1
      | none => s.performWrite w) := by
  obtain ⟨hperformed, hstamp, horder⟩ := h
  show execWritePerform s = _
  simp only [execWritePerform, hw, hperformed, hstamp, horder]
  rfl

theorem exec_writePerform_of_new (hw : s.writes.find? (fun w => decide (w.n = s.ev.who)) = some w) (h : s.MayPerform w)
    (hr : ∀ r ∈ w.data.ranges, s.oldFrame r.1 = false) : exec .writePerform s = .next (s.performWrite w) := by
  have hnone : (w.data.ranges.find? fun r => s.oldFrame r.1) = none := List.find?_eq_none.2 fun r hm => by simp [hr r hm]
  rw [exec_writePerform hw h, hnone]

theorem exec_writePerform_of_old {r : Nat × Nat} (hw : s.writes.find? (fun w => decide (w.n = s.ev.who)) = some w)
    (h : s.MayPerform w) (hr : w.data.ranges.find? (fun r => s.oldFrame r.1) = some r) :
    exec .writePerform s = .next (s.beginSide r.1) := by
  rw [exec_writePerform hw h, hr]

theorem exec_announcementApply (hw : s.writes.find? (fun w => decide (w.n = s.ev.n)) = some w) (hp : w.performed = true)
    (ht : w.todo.contains s.ev.who = true) (hs : s.stampHolds s.ev.who w = true) (ho : s.orderHolds s.ev.who w = true) :
    exec .announcementApply s = .next (s.applyWrite s.ev.who w) := by
  show execAnnouncementApply s = _
  simp only [execAnnouncementApply, hw, hp, ht, hs, ho]
  rfl

end

/-! ### Ordered folds (R107, R355) -/

section
variable {s u : State} {k : Nat} {o : Outst}

/-- The contribution that a RED.ORD of a slot sends to a home. -/
def State.contribution (u : State) (w : Who) (k : Nat) (o : Outst) (addr size : Nat) (x t : Dword) : RedHeld :=
  { addr := addr, bank := redBank addr, die := w.die, size := size, ticket := bits t 31 0, last := bits t 63 32, x := x
    stamp := (u.die w.die).view, who := some (k, o.id), cmd := none, uid := w.uid }

/-- What a contribution leaves that arrives at its home. -/
def State.redArrived (u : State) (w : Who) (k : Nat) (o : Outst) (ea : Dword) (addr size : Nat) (x t : Dword) (sc : Scope)
    (d : BitVec 5) : State :=
  let v := (u.setOut k { o with op := .redord ea size x t sc d true }).redArrive (u.contribution w k o addr size x t)
  if v.2 then v.1 else v.1.setOut k { o with st := .refused }

theorem redordM_ok {ea x t : Dword} {size addr : Nat} {sc : Scope} {d : BitVec 5} {p : Place} (hl : (s.slot k).mayLeave o = true)
    (hp : placeWrite (s.whoOp k o) ea size 2 s = .ok (p, u))
    (ha : p = .mem addr ∨ ∃ c off, p = .ls c off ∧ addr = 2 ^ 50 + lsKey c off ∧ s.storeTurn (s.whoOp k o) c = true) :
    redordM k o ea size x t sc d s = .ok ((), u.redArrived (s.whoOp k o) k o ea addr size x t sc d) := by
  refine (bind_ok (m := get) (a := s) (t := s) rfl).trans ?_
  rw [if_neg (by simp [hl])]
  refine (bind_ok hp).trans ?_
  unfold State.redArrived State.contribution
  rcases ha with rfl | ⟨c, off, rfl, rfl, ht⟩
  · dsimp only
    rw [modify_ok]
    rcases State.redArrive _ _ with ⟨v, _ | _⟩ <;> rfl
  · dsimp only
    rw [if_neg (by simp [ht]), modify_ok]
    rcases State.redArrive _ _ with ⟨v, _ | _⟩ <;> rfl

theorem exec_redordArrive {ea x t : Dword} {size : Nat} {sc : Scope} {d : BitVec 5} (hf : s.ev.flag = false)
    (ht : s.target = some (k, o)) (ho : o.op = .redord ea size x t sc d false) (hst : o.st = .ready)
    (h : redordM k o ea size x t sc d s = .ok ((), u)) : exec .redordArrive s = .next u := by
  show execRedordArrive s = _
  simp only [execRedordArrive, hf, ht, ho, hst, Bool.false_eq_true, if_false]
  exact congrArg _ (runM_ok h)

theorem exec_redordResend (hf : s.ev.flag = false) (ht : s.target = some (k, o)) (ho : o.st = .refused) :
    exec .redordResend s = .next (s.setOut k { o with st := .ready }) := by
  show execRedordResend s = _
  simp only [execRedordResend, hf, ht, ho]
  rfl

end

/-! ### The fault protocol (R84, R85) -/

section
variable {s : State} {f : FaultRec}

/-- The message of a fault, to mailbox 0 of the service core of its die. -/
def State.faultMsg (s : State) (f : FaultRec) (tag : Nat) : Msg :=
  ⟨s.nextN, 0, 0, 0, coreOf (svcSlot f.die), 0, f.message tag, none, none, true, 0, s.faultStation f.req⟩

theorem faultStation_of_cmds {t : State} (h : t.cmds = s.cmds) (r : Requester) : t.faultStation r = s.faultStation r := by
  unfold State.faultStation
  rw [h]

/-- A message sent for a fault: counting the fault changes neither its message nor the faults. -/
theorem exec_faultMessageSend {tag : Nat} (hf : s.faults.find? (fun f => decide (f.die = s.ev.who ∧ f.tag.isNone = true)) = some f)
    (ht : findFree (fun t => !(s.faults.any fun g => g.die == f.die && decide (g.tag = some t))) 4096 0 = some tag) :
    ∃ t, exec .faultMessageSend s = .next t ∧ t.msgs = s.msgs ++ [s.faultMsg f tag] ∧
      t.faults = s.faults.map fun g => if g.req = f.req ∧ g.va = f.va then { g with tag := some tag } else g := by
  have hst := fun (t : State) (h : t.cmds = s.cmds) => faultStation_of_cmds h f.req
  show ∃ t, execFaultMessageSend s = .next t ∧ _
  simp only [execFaultMessageSend, hf, ht]
  refine ⟨_, rfl, ?msgs, ?faults⟩
  case msgs =>
    simp only [State.faultMsg]
    rw [hst]
    · split <;> simp
    · split <;> simp
  case faults => dsimp only; split <;> simp

theorem exec_faultReply_of_fault {v : Verdict} (hv : replyVerdict s.ev.bs = some v) (hf : s.faults.find? (fun f =>
      decide (f.die = s.ev.who ∧ f.tag = some (rd s.ev.bs 4 2) ∧ f.verdict = none)) = some f) :
    exec .faultReply s = .next (((s.pageVerdict f v).map (s.setVerdict f)).getD s) := by
  show Host.Outcome.next (s.faultReply s.ev.who s.ev.bs) = _
  simp only [State.faultReply, hv, hf]
  cases s.pageVerdict f v with
  | none => rfl
  | some v => rfl

/-- The verdict of a reply stands where the service core knows nothing of the page. -/
theorem pageVerdict_of_none {v : Verdict} (h : s.pageState f.tenant f.va.toNat = none) : s.pageVerdict f v = some v := by
  simp only [State.pageVerdict, h]

theorem pageVerdict_of_page {v : Verdict} {p : PageState} (h : s.pageState f.tenant f.va.toNat = some p) :
    s.pageVerdict f v = if p.asked then none else some .remote := by
  simp only [State.pageVerdict, h]

theorem exec_faultReply_of_bad (hv : replyVerdict s.ev.bs = none) :
    exec .faultReply s = .next (s.modDie s.ev.who fun x => { x with drops := x.drops + 1 }) := by
  show Host.Outcome.next (s.faultReply s.ev.who s.ev.bs) = _
  simp only [State.faultReply, hv]

end

/-! ### The vector unit (R256) -/

theorem findSome?_range {α : Type} {f : Nat → Option α} {n i : Nat} {a : α} (hi : i < n) (hbefore : ∀ j < i, f j = none)
    (ha : f i = some a) : (List.range n).findSome? f = some a := by
  induction n with
  | zero => omega
  | succ n ih =>
    rw [List.range_succ, List.findSome?_append]
    by_cases hin : i = n
    · subst hin
      rw [List.findSome?_eq_none_iff.2 fun j hj => hbefore j (List.mem_range.1 hj)]
      simp [ha]
    · rw [ih (by omega)]
      rfl

section
variable {s : State} {c k i : Nat} {o : Outst}

/-- The core at distance `i` behind the one served last is the first with an instruction, `o` of slot `k`. -/
def State.VectorTurn (s : State) (c i k : Nat) (o : Outst) : Prop :=
  i < 4 ∧ (∀ j < i, s.vectorHead (4 * c + ((s.cluster c).vrot + 1 + j) % 4) = none) ∧
    s.vectorHead (4 * c + ((s.cluster c).vrot + 1 + i) % 4) = some (k, o)

/-- What the vector unit leaves of an instruction that it takes. -/
def State.vectorServed (s : State) (c i k : Nat) (o : Outst) (st : OpState) : State :=
  (s.setOut k { o with st := st }).modCluster c fun x => { x with vrot := ((s.cluster c).vrot + 1 + i) % 4 }

theorem exec_vectorIssue (hc : s.ev.who = c) (h : s.VectorTurn c i k o) : exec .vectorIssue s = .next (match o.op with
    | .vector fs => s.vectorServed c i k o (.returned fs)
    | _ => s.vectorServed c i k o .ready) := by
  subst hc
  obtain ⟨hi, hbefore, hhead⟩ := h
  have hfirst : (((List.range 4).map fun i => ((s.cluster s.ev.who).vrot + 1 + i) % 4).findSome? fun i =>
      (s.vectorHead (4 * s.ev.who + i)).map fun h => (i, h)) = some (((s.cluster s.ev.who).vrot + 1 + i) % 4, k, o) := by
    rw [List.findSome?_map]
    exact findSome?_range hi (fun j hj => by simp [hbefore j hj]) (by simp [hhead])
  show execVectorIssue s = _
  simp only [execVectorIssue, hfirst]
  rfl

end

/-! ### The obligation -/

/-- Settles O54, unit by unit. -/
theorem homeSteps : Obligations.HomeSteps := by
  refine ⟨fun s w f k o => ⟨?perform, ?apply, ?arrive, ?resend, ?send, ?reply, exec_faultReply_of_bad⟩,
    fun s c hc => ⟨?vector, ?sleep, ?wake⟩⟩
  case perform =>
    intro hw hp hs ho
    exact ⟨exec_writePerform_of_new hw ⟨hp, hs, ho⟩, fun r => exec_writePerform_of_old hw ⟨hp, hs, ho⟩⟩
  case apply => exact exec_announcementApply
  case arrive =>
    intro ea size x t sc d p addr u hf ht ho hst hl w hp ha v
    exact exec_redordArrive hf ht ho hst (redordM_ok hl hp ha)
  case resend => exact exec_redordResend
  case send => exact fun tag => exec_faultMessageSend
  case reply =>
    intro v hv hf given
    refine ⟨fun hp => ?_, fun p hp => ?_⟩
    · rw [exec_faultReply_of_fault hv hf, pageVerdict_of_none hp]
      rfl
    · rw [exec_faultReply_of_fault hv hf, pageVerdict_of_page hp]
      cases p.asked <;> rfl
  case vector =>
    intro i k o fs hi hbefore hhead served
    have hexec := exec_vectorIssue hc ⟨hi, hbefore, hhead⟩
    refine ⟨fun ho => ?_, fun ho => ?_⟩
    · simp only [ho] at hexec
      exact hexec
    · refine hexec.trans (congrArg _ ?_)
      split
      next l hl => exact absurd hl (ho l)
      next => rfl
  case sleep =>
    intro h
    subst hc
    exact congrArg _ (if_pos h)
  case wake =>
    intro h
    subst hc
    exact congrArg _ (if_neg (by simp [h]))

end Sys2Proof.Machine
end

section
/-! Synchronising accesses: their issue, what their bank does, and their time-out (R112, R277, R349). -/

namespace Sys2Proof.Machine

/-! ### Issue (R349) -/

section
variable {s : State} {a b d : BitVec 5} {g : BitVec 3} {l : BitVec 4} {i : Instr} {kind off k : Nat} {ea : Dword}

/-- An aligned dword of the own local store outside the plinth passes every check where no pure tag stands. -/
theorem syncTrap_own (hr : regionOf ea = .own off) (ho : off < 0x3C0000) (ha : ea.toNat % 8 = 0) (hp : (s.slot k).pt = false)
    (write : Bool) : s.syncTrap k ea write = none := by
  have hplinth : s.plinthTrap k ea = none := by simp [State.plinthTrap, lsPlace_own hr, Nat.not_le.2 ho]
  have hpure : s.pureSub k write ea 8 = none := by simp [State.pureSub, Slot.pureBound, hp]
  simp [State.syncTrap, ha, lsPlace_own hr, hplinth, hpure, firstTrap]

/-- The strand in focus may make a synchronising access at an address: nothing holds it, and its checks pass. -/
def State.MaySync (s : State) (ea : Dword) : Prop :=
  (s.slot s.focus).acquiring = false ∧ ∀ write, s.syncTrap s.focus ea write = none

theorem syncLoad_ready (h : Ready s g true [.g a, .g b] [.g d]) (hm : s.MaySync (s.readG s.focus a + s.readG s.focus b))
    (hl : i.illegal = none) (hb : isBarrier i = false) (hrel : isRelease i = false) :
    syncLoad i d a b g l kind s =
      .next (s.depart (s.issued 4) l (.sync kind (s.readG s.focus a + s.readG s.focus b) 0 d s.timer.toNat) [.g d]) := by
  refine (longOp_ready h hl hm.1 (hm.2 false)).trans ?_
  rw [hb, hrel]

theorem syncStore_ready (h : Ready s g true [.g a, .g b, .g d] []) (hm : s.MaySync (s.readG s.focus a + s.readG s.focus b))
    (hl : i.illegal = none) (hb : isBarrier i = true) (hrel : isRelease i = false) :
    syncStore i d a b g l kind s = .next (s.depart (s.issued 4 true) l
      (.sync kind (s.readG s.focus a + s.readG s.focus b) (s.readG s.focus d) 0 s.timer.toNat) []) := by
  refine (longOp_ready h hl hm.1 (hm.2 true)).trans ?_
  rw [hb, hrel]

end

/-! ### The bank (R112, R349) -/

section
variable {s : State} {k : Nat} {o : Outst} {kind : Nat} {ea x : Dword} {d : BitVec 5} {since off : Nat}

theorem syncWord_own (hr : regionOf ea = .own off) (ho : off < 0x3C0000) : s.syncWord k ea = some (clusterOf k, off) := by
  simp [State.syncWord, lsPlace_own hr, State.lsRoute, ho]

/-- An access of the own cluster's local store comes behind no message of its station (R259). -/
theorem storeTurn_own_cluster : s.storeTurn (s.whoOp k o) (clusterOf k) = true := by
  simp [State.storeTurn, State.whoOp, State.whoSlot]

/-- All that an access of the own cluster's local store counts is its wait for a bank (log entry 53). -/
theorem noteAccess_own_cluster {acc : Nat} (h : acc ≤ 3) (size off : Nat) :
    s.noteAccess (s.whoOp k o) acc size (.ls (clusterOf k) off) = s.countFree (coreOf k) 0x06 2 := by
  simp [State.noteAccess, State.whoOp, State.whoSlot, h, dieOf_cluster]

@[simp] theorem isFull_countFree (c off core : Nat) (e : Byte) (n : Nat) : (s.countFree core e n).isFull c off = s.isFull c off := by
  unfold State.countFree
  split <;> simp [State.isFull, State.free]

/-- An access has reached its bank, or may leave for it (R112). -/
def State.AtBank (s : State) (k : Nat) (o : Outst) (kind : Nat) : Prop :=
  o.arrival.isSome = true ∨ s.syncReady k o kind (clusterOf k) = true

/-- What a grant of the own cluster's bank leaves of an access, once it has been counted. -/
def State.syncTaken (u : State) (k : Nat) (o : Outst) (kind off : Nat) (x v : Dword) (d : BitVec 5) : State :=
  let c := clusterOf k
  match kind with
  | 0 => (u.setFull c off false).complete k o [.g d v]
  | 1 => ((u.storeLs (dieOf k) c off (leBytes 8 x.toNat)).setFull c off true).complete k o []
  | 2 => u.complete k o [.g d v]
  | 3 => u.complete k o [.g d (if u.isFull c off then 1 else 0)]
  | _ => ((u.stampLs (dieOf k) c off 8).setFull c off (x.getLsbD 0)).complete k o []

/-- What an access leaves that its word's state does not allow: it parks, if it has not yet. -/
def State.syncParked (s : State) (o : Outst) (k : Nat) : State :=
  if o.arrival.isSome then s else { s.setOut k { o with st := .parked s.nextN } with nextN := s.nextN + 1 }

theorem syncM_at_bank (hr : regionOf ea = .own off) (ho : off < 0x3C0000) (hb : s.AtBank k o kind) :
    syncM k o kind ea x d s =
      if s.syncGranted o kind (clusterOf k, off) then
        .ok ((), (s.countFree (coreOf k) 0x06 2).syncTaken k o kind off x (s.lsDword (clusterOf k) off) d)
      else .error (.wait fun t => t.syncParked o k) := by
  have hgo : (o.arrival.isNone && !(s.syncReady k o kind (clusterOf k) && s.storeTurn (s.whoOp k o) (clusterOf k))) = false := by
    rw [storeTurn_own_cluster]
    rcases hb with h | h
    · simp [Option.isSome_iff_ne_none.1 h]
    · simp [h]
  refine (bind_ok (m := get) (a := s) (t := s) rfl).trans ?_
  rw [syncWord_own hr ho]
  dsimp only
  rw [hgo, if_neg Bool.false_ne_true]
  by_cases hg : s.syncGranted o kind (clusterOf k, off) = true
  · rw [if_neg (by simp [hg]), if_neg (by simp [dieOf_cluster]), if_pos hg, modify_ok, noteAccess_own_cluster (by decide)]
    rfl
  · rw [if_pos (by simp [hg]), if_neg hg]
    rfl

theorem exec_syncAccessGrant (ht : s.target = some (k, o)) (hop : o.op = .sync kind ea x d since) :
    exec .syncAccessGrant s = .next (runOp k o (syncM k o kind ea x d) s) := by
  show execSyncAccessGrant s = _
  simp only [execSyncAccessGrant, ht, hop]

theorem target_of_out (hk : s.ev.who = k) (ho : s.out? k s.ev.n = some o) : s.target = some (k, o) := by
  subst hk
  simp only [State.target, ho, Option.map_some]

/-- A step names a synchronising access of the own local store that is at its bank or may leave for it. -/
structure State.SyncAtBank (s : State) (k : Nat) (o : Outst) (kind : Nat) (ea x : Dword) (d : BitVec 5) (since off : Nat) : Prop where
  target : s.target = some (k, o)
  op     : o.op = .sync kind ea x d since
  region : regionOf ea = .own off
  below  : off < 0x3C0000
  there  : s.AtBank k o kind

theorem exec_syncAccessGrant_granted (h : s.SyncAtBank k o kind ea x d since off)
    (hg : s.syncGranted o kind (clusterOf k, off) = true) :
    exec .syncAccessGrant s =
      .next ((s.countFree (coreOf k) 0x06 2).syncTaken k o kind off x (s.lsDword (clusterOf k) off) d) :=
  (exec_syncAccessGrant h.target h.op).trans
    (congrArg _ (runM_ok ((syncM_at_bank h.region h.below h.there).trans (if_pos hg))))

theorem exec_syncAccessGrant_parked (h : s.SyncAtBank k o kind ea x d since off)
    (hg : s.syncGranted o kind (clusterOf k, off) = false) : exec .syncAccessGrant s = .next (s.syncParked o k) :=
  (exec_syncAccessGrant h.target h.op).trans
    (congrArg _ (runM_wait ((syncM_at_bank h.region h.below h.there).trans (if_neg (by simp [hg])))))

end

/-! ### The time-out (R277) -/

section
variable {s : State} {k : Nat} {o : Outst} {kind : Nat} {ea x : Dword} {d : BitVec 5} {since : Nat}

/-- Cycles that an access may wait: FERETRY, or 2^32 where it is 0 (R265, R277). -/
def State.feLimit (s : State) (k : Nat) : Nat :=
  if (s.core (coreOf k)).feretry = 0 then 2 ^ 32 else (s.core (coreOf k)).feretry.toNat

theorem exec_feTimeout_late (ht : s.target = some (k, o)) (hop : o.op = .sync kind ea x d since) (hk : kind < 3)
    (hl : since + s.feLimit k < s.timer.toNat) (hd : s.syncDue k o kind ea = false) :
    exec .feTimeout s = .next (s.withdrawTrap k o { cause := 0x05, sub := BitVec.ofNat 8 (kind + 1), addr := ea }) := by
  show execFeTimeout s = _
  simp only [execFeTimeout, ht, hop]
  exact congrArg _ (if_pos ⟨hk, hl, hd⟩)

/-- The register of an instruction that writes one general register at most, as before its issue (R239). -/
theorem restoreDests_of_one (y : Slot) (outs : List Outst) (h : o.dests = [] ∨ o.dests = [.g d]) :
    { y with outs := outs }.restoreDests o =
      { (if o.dests = [] then y else y.mark_ (.g d) (if o.voids.contains (.g d) then .void else .full)) with outs := outs } := by
  rcases h with h | h
  · simp [Slot.restoreDests, h]
  · simp only [Slot.restoreDests, h, List.foldl_cons, List.foldl_nil, reduceCtorEq, if_false, Slot.mark_]
    split <;> rfl

end

/-! ### The obligation -/

/-- Settles O19: the issue by the checks that pass, the bank by whether it grants the access, and the time-out by the withdrawal. -/
theorem syncAccesses : Obligations.SyncAccesses := by
  refine ⟨?issue, ?bank, ?timeout⟩
  case issue =>
    intro s d a b g l off ea hacq hpt hr ho ha
    have hm : s.MaySync ea := ⟨hacq, syncTrap_own hr ho ha hpt⟩
    refine ⟨fun h => ⟨?ldf, ?ldfp, ?feget⟩, fun h => ⟨?stf, ?feset⟩⟩
    case ldf => exact syncLoad_ready (i := .ldf d a b g l) (kind := 0) h hm rfl rfl rfl
    case ldfp => exact syncLoad_ready (i := .ldfp d a b g l) (kind := 2) h hm rfl rfl rfl
    case feget => exact syncLoad_ready (i := .feget d a b g l) (kind := 3) h hm rfl rfl rfl
    case stf => exact syncStore_ready (i := .stf d a b g l) (kind := 1) h hm rfl rfl rfl
    case feset => exact syncStore_ready (i := .feset d a b g l) (kind := 4) h hm rfl rfl rfl
  case bank =>
    intro s k o kind ea x d since off hk hout hop hr ho c hb hold u
    have h : s.SyncAtBank k o kind ea x d since off := ⟨target_of_out hk hout, hop, hr, ho, hb⟩
    have hgrant : s.syncGranted o kind (c, off) = syncAllowed kind (s.isFull c off) := by simp [State.syncGranted, hold]
    refine ⟨?ldf, ?stf, ?ldfp, ?feget, ?feset, ?waits⟩
    case ldf =>
      rintro rfl hf
      exact exec_syncAccessGrant_granted h (hgrant.trans hf)
    case stf =>
      rintro rfl hf
      exact exec_syncAccessGrant_granted h (hgrant.trans (by simp [syncAllowed, hf]))
    case ldfp =>
      rintro rfl hf
      exact exec_syncAccessGrant_granted h (hgrant.trans hf)
    case feget =>
      rintro rfl
      have hexec := exec_syncAccessGrant_granted h (hgrant.trans rfl)
      simp only [State.syncTaken, isFull_countFree] at hexec
      exact hexec
    case feset =>
      rintro rfl
      exact exec_syncAccessGrant_granted h (hgrant.trans rfl)
    case waits =>
      intro hw
      have hnot : syncAllowed kind (s.isFull c off) = false := by
        rcases hw with ⟨rfl | rfl, hf⟩ | ⟨rfl, hf⟩ <;> simp [syncAllowed, hf]
      have hexec := exec_syncAccessGrant_parked h (hgrant.trans hnot)
      exact ⟨fun ha => hexec.trans (congrArg _ (if_pos ha)), fun ha => hexec.trans (congrArg _ (if_neg (by simp [ha])))⟩
  case timeout =>
    intro s k o kind ea x d since hk hout hop hkind hdests hlate hdue
    refine (exec_feTimeout_late (target_of_out hk hout) hop hkind hlate hdue).trans ?_
    simp only [State.withdrawTrap, restoreDests_of_one _ _ hdests]
    by_cases hd : o.dests = [] <;> simp [hd]

end Sys2Proof.Machine
end

section
/-! Strand records: run queues, deques, steals, starts, and the answer to a MIGR (R117, R131, R139–R141, R245, R280, R362,
R363). -/

namespace Sys2Proof.Machine

/-! ### Where a record goes (R139, R140, R283) -/

section
variable {s u : State} {c : Nat} {r : StrandRec}

theorem forwarded_of_here (hf : (s.core c).fwd = none) (hm : s.moveInto c = false) : s.forwarded c = some c := by
  simp [State.forwarded, hf, hm]

theorem freeSlot_of_empty {k : Nat} (ho : (s.slot k).occ = .empty) (hu : s.urgentSlot k = false)
    (hf : (s.core (coreOf k)).fwd = none) (hm : s.moveInto (coreOf k) = false) : s.freeSlot k = true := by
  simp [State.freeSlot, ho, hu, hf, hm]

/-- A record as a core's run queue holds it: of the cycle in which it came, in the lowest free place. -/
def State.runRec (s : State) (c : Nat) (r : StrandRec) : StrandRec :=
  { r with age := s.timer.toNat, place := (s.core c).runPlace }

/-- A record enters a run queue behind the others. -/
theorem pushRun_of_room (h : (s.core c).runq.length < 32) :
    ∃ u, s.pushRun c r = some u ∧ (u.core c).runq = (s.core c).runq ++ [s.runRec c r] := by
  refine ⟨_, if_neg (Nat.not_le.2 h), ?_⟩
  rw [State.modCore_eq, State.core_setCore, if_pos rfl]
  rfl

theorem pushRun_of_full (h : 32 ≤ (s.core c).runq.length) : s.pushRun c r = none := if_pos h

@[simp] theorem msgs_wakeThief (s : State) (r : StrandRec) : (s.wakeThief r).msgs = s.msgs := by
  unfold State.wakeThief State.wake
  split
  · split <;> rfl
  · rfl

@[simp] theorem msgs_putRec (s : State) (c off : Nat) (r : StrandRec) : (s.putRec c off r).msgs = s.msgs := rfl

/-- A push onto a deque leaves every message on its way. -/
theorem msgs_of_pushNear (h : s.pushNear c r = some u) : u.msgs = s.msgs := by
  simp only [State.pushNear] at h
  split at h
  · simp [← Option.some.inj h]
  split at h
  · exact nomatch h
  split at h
  · exact nomatch h
  · simp [← Option.some.inj h]

end

/-! ### A strand starts from a record that no displacement made (R117, R245, R280) -/

section
variable (s : State) (k : Nat) {r : StrandRec} (hc : r.ctx = none)
include hc

theorem startRec_pc : ((s.startRec k r).slot k).pc = r.pc &&& ~~~ 3 := by simp [State.startRec, hc]
theorem startRec_owner : ((s.startRec k r).slot k).owner = r.owner := by simp [State.startRec, hc]
theorem startRec_tenant : ((s.startRec k r).slot k).tenant = r.tenant := by simp [State.startRec, hc]

/-- g1–g12 come from the record. -/
theorem startRec_g (n : Fin 12) : ((s.startRec k r).slot k).g[n.val + 1] = r.g.getD n.val 0 := by
  have hn : n.val + 1 ≤ 12 := n.isLt
  simp [State.startRec, hc, hn]

/-- Each of g1–g12 is void or full as its bit of VOIDMAP says. -/
theorem startRec_gst (n : Fin 12) :
    ((s.startRec k r).slot k).gst[n.val + 1] = if r.pw.getLsbD (8 + n.val) then .void else .full := by
  have hn : n.val + 1 ≤ 12 := n.isLt
  have hbit : 7 + (n.val + 1) = 8 + n.val := by omega
  simp [State.startRec, hc, hn, hbit]

theorem startRec_gst_of_high {n : Fin 32} (hn : 13 ≤ n.val) : ((s.startRec k r).slot k).gst[n] = .void := by
  have h0 : n ≠ 0 := by rintro rfl; omega
  have h12 : ¬ n.val ≤ 12 := by omega
  simp [State.startRec, hc, h0, h12]

theorem startRec_vst (hv : r.vreg = none) (n : Fin 8) : ((s.startRec k r).slot k).vst[n] = .void := by
  simp [State.startRec, hc, hv]

theorem startRec_mst {n : Fin 4} (hn : 1 ≤ n.val) : ((s.startRec k r).slot k).mst[n] = .void := by
  have h0 : n ≠ 0 := by rintro rfl; omega
  simp [State.startRec, hc, h0]

theorem startRec_p : ((s.startRec k r).slot k).p = r.pw.extractLsb' 0 8 ||| 1 := by simp [State.startRec, hc]

theorem startRec_readP {n : BitVec 3} (hn : n ≠ 0) : ((s.startRec k r).slot k).readP n = r.pw.getLsbD n.toNat := by
  have h0 : n.toNat ≠ 0 := fun h => hn (BitVec.eq_of_toNat_eq h)
  have h8 : n.toNat < 8 := n.isLt
  have hne : (n == 0) = false := beq_false_of_ne hn
  simp only [Slot.readP, startRec_p s k hc, hne, BitVec.getLsbD_or, BitVec.getLsbD_extractLsb']
  simp [h0, h8]

end

/-! ### The record of a MIGR arrives (R139, R363) -/

/-- The answer to the sender of a strand record. -/
def State.answerMigr (s : State) (m : Msg) (r : StrandRec) (st : Byte) : State :=
  (s.postMsg { Msg.to 2 (coreOf m.src) with
    src := m.src, mbox := m.mbox, bytes := [st, BitVec.ofNat 8 ((r.vreg.map (·.1.toNat)).getD 255)], stn := some (m.core / 4) }).1

section
variable {s u : State} {m : Msg} {r : StrandRec} (hm : s.msg? s.ev.who 1 = some m) (hr : m.record = some r)
  (ht : s.msgTurn m = true) (hf : (s.core m.core).fwd = none) (hi : s.moveInto m.core = false)
  (ho : (s.slot m.src).occ = .migrating m.n)
include hm hr ht hf hi ho

theorem execRunQueueArrive_of_room (hp : (s.dropMsg m.n).pushRun m.core r = some u) :
    execRunQueueArrive s = .next (u.answerMigr m r 0) := by
  simp only [execRunQueueArrive, hm, hr, ht, ho, hp, forwarded_of_here hf hi, Bool.not_true, Bool.false_eq_true, if_false, if_true]
  rfl

theorem execRunQueueArrive_of_full (hp : (s.dropMsg m.n).pushRun m.core r = none) :
    execRunQueueArrive s = .next ((s.dropMsg m.n).answerMigr m r 6) := by
  simp only [execRunQueueArrive, hm, hr, ht, ho, hp, forwarded_of_here hf hi, Bool.not_true, Bool.false_eq_true, if_false, if_true]
  rfl

end

/-! ### The answer to a MIGR (R131, R245, R363) -/

theorem execMigrAnswer_of_message {s : State} {m : Msg} {n : Nat} (ho : (s.slot s.ev.who).occ = .migrating n)
    (hm : s.msgs.find? (fun u => decide (u.kind = 2 ∧ u.src = s.ev.who)) = some m) (ht : s.msgTurn m = true) :
    execMigrAnswer s = .next
      ((s.dropMsg m.n).migrDone s.ev.who (BitVec.ofNat 5 m.mbox) (m.bytes.getD 0 0) (m.bytes.getD 1 255)) := by
  simp only [execMigrAnswer, ho, hm, ht, Bool.not_true, Bool.false_eq_true, if_false]

/-- A strand whose MIGR has been refused: it goes on behind the MIGR, with 6 in gd. -/
def Slot.migrRefused (x : Slot) (keep : Option (BitVec 3)) (occ : Occ) (d : BitVec 5) : Slot :=
  ({ x.voidAtPoint keep with occ := occ }.advance (x.replay.getD (x.pc + 4))).setG d 6

section
variable (x : Slot) (keep : Option (BitVec 3)) (occ : Occ) (d : BitVec 5)

@[simp] theorem migrRefused_occ : (x.migrRefused keep occ d).occ = occ := by simp [Slot.migrRefused]
@[simp] theorem migrRefused_pc : (x.migrRefused keep occ d).pc = x.replay.getD (x.pc + 4) := by
  simp [Slot.migrRefused, Slot.advance]
@[simp] theorem migrRefused_v : (x.migrRefused keep occ d).v = x.v := by simp [Slot.migrRefused, Slot.voidAtPoint]

theorem migrRefused_readG (hd : d ≠ 0) : (x.migrRefused keep occ d).readG d = 6 := by
  rw [Slot.migrRefused, Slot.setG, if_neg hd, Slot.readG, if_neg hd]
  simp [Vector.get_eq_getElem]

/-- The v register that a MIGV carries is as before. -/
theorem migrRefused_vst_kept {i : Fin 8} (hk : keep = some (BitVec.ofNat 3 i.val)) :
    (x.migrRefused keep occ d).vst[i] = x.vst[i] := by
  simp [Slot.migrRefused, Slot.voidAtPoint, hk, Vector.get_eq_getElem]

end

section
variable {s : State} {k : Nat} {d : BitVec 5} {v : Byte}

theorem migrDone_of_accepted : s.migrDone k d 0 v = s.leave k := by
  unfold State.migrDone
  exact if_pos rfl

/-- What becomes of a strand whose MIGR has been refused: it is stopped where its task has faulted meanwhile. -/
def State.migrOcc (s : State) (k : Nat) : Occ :=
  if s.taskStopped (s.slot k).owner (s.slot k).tenant then .stopped else .active

theorem migrDone_of_refused : s.migrDone k d 6 v = s.modSlot k fun x =>
    x.migrRefused (if v.toNat < 8 then some (BitVec.ofNat 3 v.toNat) else none) (s.migrOcc k) d := by
  unfold State.migrDone
  exact (if_neg (show ¬ (6 : Byte) = 0 by decide)).trans (if_pos rfl)

end

/-! ### Join records (R362) -/

section
variable {s u : State} {m : Msg} {r : StrandRec} {key : Nat} {jb : Dword}

/-- The dword of a local store that a join word's key names. -/
theorem lsKey_of_key : lsKey ((key - 2 ^ 50) / 2 ^ 22) ((key - 2 ^ 50) % 2 ^ 22) = key - 2 ^ 50 := by
  rw [lsKey, Nat.mod_mod, Nat.mul_comm, Nat.div_add_mod]

/-- What the clearing of W in the local store that holds the join word leaves. -/
def State.clearedW (u : State) (key : Nat) : State :=
  u.storeLs (redDie key) ((key - 2 ^ 50) / 2 ^ 22) ((key - 2 ^ 50) % 2 ^ 22)
    (leBytes 8 (leNat (u.ls.readBytes (key - 2 ^ 50) 8) % 2 ^ 63))

theorem ls_clearedW : (u.clearedW key).ls =
    u.ls.writeBytes (key - 2 ^ 50) (leBytes 8 (leNat (u.ls.readBytes (key - 2 ^ 50) 8) % 2 ^ 63)) := by
  rw [State.clearedW, ls_storeLs, lsKey_of_key]

theorem clearW_own (h : 2 ^ 50 ≤ key) : clearW key u = .ok ((), u.clearedW key) := by
  refine (bind_ok (a := u) (t := u) rfl).trans ?_
  rw [keyPlace, if_pos h, State.clearedW]
  simp only [State.placeBytes, State.readLs, lsKey_of_key]
  rfl

/-- What the end of a message leaves whose record a deque has taken: W of its join word is clear. -/
def State.recordTaken (u : State) (n key : Nat) : State :=
  { (u.clearedW key).dropMsg n with waiting := (u.clearedW key).waiting.del key }

theorem cores_recordTaken (u : State) (n key : Nat) : (u.recordTaken n key).cores = u.cores := rfl
theorem msgs_recordTaken (u : State) (n key : Nat) : (u.recordTaken n key).msgs = u.msgs.filter fun x => x.n ≠ n := rfl
theorem ls_recordTaken (u : State) (n key : Nat) : (u.recordTaken n key).ls = (u.clearedW key).ls := rfl

theorem finishJoin_own (hj : m.join = some (key, jb)) (hlo : 2 ^ 50 ≤ key) (hhi : key < 2 ^ 64) :
    s.finishJoin m u = u.recordTaken m.n key := by
  have hdone : joinDone m u = .ok ((), u.recordTaken m.n key) := by
    simp only [joinDone, hj]
    rw [if_neg (Nat.not_le.2 hhi)]
    exact (bind_ok (clearW_own hlo)).trans rfl
  exact runM_ok ((bind_ok (a := ()) (t := u) rfl).trans hdone)

theorem execJoinRecordPush_of_room (hm : s.msg? s.ev.who 3 = some m) (hr : m.record = some r) (ht : s.msgTurn m = true)
    (hf : (s.core m.core).fwd = none) (hi : s.moveInto m.core = false) (hp : s.pushNear m.core r = some u) :
    execJoinRecordPush s = .next (s.finishJoin m u) := by
  simp only [execJoinRecordPush, hm, hr, ht, hp, forwarded_of_here hf hi, Bool.not_true, Bool.false_eq_true, if_false]

theorem execJoinRecordRetry_of_refused {q : Request} {bs : List Byte} (hm : s.msg? s.ev.who 4 = some m) (hr : m.record = some r)
    (hq : s.requests.find? (fun q => decide (q.who = .device m.n)) = some q) (ha : q.answer = some (6, bs))
    (ht : q.since + 1024 ≤ s.timer.toNat) :
    execJoinRecordRetry s = .next ((s.dropRequests (.device m.n)).sendJoin m r) := by
  simp only [execJoinRecordRetry, hm, hr, hq, ha, ht, and_self, if_true]

end

/-! ### An idle slot finds work (R139, R141) -/

section
variable {s : State} {r : StrandRec} (hfree : s.freeSlot s.ev.who = true)
include hfree

theorem execSlotFill_of_record {c : Core} (ht : s.takeRec (coreOf s.ev.who) = some (r, c)) :
    execSlotFill s = .next ((s.setCore (coreOf s.ev.who) { c with asleep := false }).startRec s.ev.who r) := by
  simp only [execSlotFill, hfree, ht, Bool.not_true, Bool.false_eq_true, if_false]

/-- A slot without work of its own core starts the record that it steals. -/
theorem execSteal_of_record {p : Nat ⊕ Nat} (ht : s.takeRec (coreOf s.ev.who) = none)
    (hd : s.dispatchFor (coreOf s.ev.who) = false) (hs : s.stealFrom s.ev.who = some p) (hr : s.farEnd p = some r) :
    execSteal s = .next ((((s.popFar p).startRec s.ev.who r).count (coreOf s.ev.who) 0x0A 1).modCore (coreOf s.ev.who)
      fun c => { c with asleep := false }) := by
  have htheft : s.theft s.ev.who = some p := by simp [State.theft, hfree, ht, hd, hs]
  simp only [execSteal, htheft, hr]

end

/-! ### The obligation -/

/-- Settles O25, step by step; then the slot in which a strand starts, field by field. -/
theorem strandSteps : Obligations.StrandSteps := by
  refine ⟨?steps, fun s k r hc hv => ?started⟩
  case steps =>
    rintro s _ m r rfl
    refine ⟨?arrive, ?answer, ?push, ?retry, ?idle, fun ho hd => ?deck⟩
    case arrive =>
      rintro n hm hr ht hf hi ho rfl
      refine ⟨fun hroom => ?_, fun hfull => ?_⟩
      · obtain ⟨u, hp, hq⟩ := pushRun_of_room (s := s.dropMsg m.n) (r := r) hroom
        exact ⟨_, execRunQueueArrive_of_room hm hr ht hf hi ho hp, hq⟩
      · exact execRunQueueArrive_of_full hm hr ht hf hi ho (pushRun_of_full (s := s.dropMsg m.n) hfull)
    case answer =>
      intro n st vr ho hm hb ht
      have hexec := execMigrAnswer_of_message ho hm ht
      simp only [hb, List.getD_cons_zero, List.getD_cons_succ] at hexec
      refine ⟨?accepted, ?refused⟩
      case accepted =>
        rintro rfl
        exact hexec.trans (congrArg _ migrDone_of_accepted)
      case refused =>
        rintro rfl hlt hne
        have hd : BitVec.ofNat 5 m.mbox ≠ 0 := fun h =>
          hne (by simpa [Nat.mod_eq_of_lt hlt] using congrArg BitVec.toNat h)
        refine ⟨_, hexec.trans (congrArg _ migrDone_of_refused), ?_⟩
        rw [State.modSlot_eq, State.slot_setSlot, if_pos rfl]
        refine ⟨migrRefused_occ .., migrRefused_readG _ _ _ _ hd, migrRefused_pc .., fun v hvr => ⟨?_, ?_⟩⟩
        · rw [migrRefused_v]
          rfl
        · exact migrRefused_vst_kept _ _ _ _ (by simp [hvr])
    case push =>
      intro u key jb hm hr ht hf hi hp hj hlo hhi
      have hexec := execJoinRecordPush_of_room hm hr ht hf hi hp
      refine ⟨u.recordTaken m.n key, hexec.trans (congrArg _ (finishJoin_own hj hlo hhi)), cores_recordTaken .., ?_, ?_⟩
      · rw [msgs_recordTaken, msgs_of_pushNear hp]
      · rw [ls_recordTaken, ls_clearedW]
    case retry => exact fun q bs => execJoinRecordRetry_of_refused
    case idle =>
      intro ho hu hf hi
      have hfree := freeSlot_of_empty ho hu hf hi
      refine ⟨fun c => execSlotFill_of_record hfree, fun p ht hd hs hr hc => ?_⟩
      refine ⟨_, execSteal_of_record hfree ht hd hs hr, ?_⟩
      rw [State.modCore_eq, State.slot_setCore, State.slot_count]
      exact ⟨startRec_pc _ _ hc, startRec_owner _ _ hc, startRec_tenant _ _ hc⟩
    case deck => exact congrArg _ (if_pos (by simp [ho, hd]))
  case started =>
    have hp0 : ((s.startRec k r).slot k).readP 0 = true := by simp [Slot.readP]
    refine ⟨startRec_pc s k hc, fun n => ⟨startRec_g s k hc n, startRec_gst s k hc n⟩, fun n => startRec_gst_of_high s k hc,
      startRec_vst s k hc hv, fun n => startRec_mst s k hc, hp0, fun n => startRec_readP s k hc, ?flags⟩
    case flags => simp [State.startRec, hc, StrandRec.guaranteed, StrandRec.prio, StrandRec.tenant]

end Sys2Proof.Machine
end

section
/-! The dispatcher and the scheduler of a die: dispatch, start and retirement of tasks, the fault queue, displacement, reservations,
stages and the urgent slot (R125–R148). -/

namespace Sys2Proof.Machine

/-! ### Dispatch and start (R127, R128) -/

section
variable {s u : State} {t : Task} {k : Nat}

/-- What the dispatch of a task to a slot leaves. -/
def State.dispatched (s : State) (t : Task) (k : Nat) : State :=
  ((((s.unqueue t).modTask t.n fun t => { t with phase := .dispatching, slot := k }).modDie
    t.die fun d => { d with lastCore := d.lastCore.put t.queue (coreOf k % 160) }).modSlot k fun x =>
      { x with occ := .reserved t.n }).modCore (coreOf k) fun c => { c with asleep := false }

/-- A task that needs no lookup, or has had it, takes the slot that the dispatcher chooses. -/
theorem execDispatch_of_slot (hb : s.queueBlocked s.ev.who s.ev.n = false) (hf : s.firstTask s.ev.who s.ev.n = some t)
    (hp : cardPure t.img = true → t.looked = true) (hc : s.chooseCore t = some k) :
    execDispatch s = .next (s.dispatched t k) := by
  have hlook : (cardPure t.img && !t.looked) = false := by simpa using hp
  simp only [execDispatch, hb, hf, hlook, hc, Bool.false_eq_true, if_false]
  rfl

theorem execTaskStart_ok (ht : s.taskIn s.ev.who .dispatching = some t)
    (hm : startM t { s with nextN := s.nextN + 1 } = .ok ((), u)) : execTaskStart s = .next
      ((u.modTask t.n fun t => { t with uid := s.nextN }).modSlot t.slot fun x => { x with uid := s.nextN }) := by
  simp only [execTaskStart, ht, hm]

end

/-! ### Retirement (R119, R129, R131, R194, R195) -/

/-- The next part of a task's end, by its phase. -/
def Task.retireM (t : Task) : Option (M Unit) :=
  match t.phase with
  | .running => if t.root ∧ t.strands = 0 then some (copyOutM t) else none
  | .hit => some (hitM t)
  | .retiring => some (retiringM t)
  | .offering => some (offerM t)
  | .releasing => some (releasingM t)
  | .faulting => some (faultingM t)
  | _ => none

section
variable {s u : State} {t : Task} {ws : List Nat}

theorem execTaskRetire_ok {m : M Unit} (ht : s.tasks.find? (fun t => decide (t.n = s.ev.who)) = some t) (hm : t.retireM = some m)
    (h : m s = .ok ((), u)) : execTaskRetire s = .next u := by
  simp only [execTaskRetire, ht]
  cases hp : t.phase with
  | running =>
    rw [Task.retireM, hp] at hm
    dsimp only at hm
    split at hm
    next hend =>
      obtain rfl := Option.some.inj hm
      exact congrArg _ ((if_pos hend).trans (runM_ok h))
    next => exact nomatch hm
  | hit | retiring | offering | releasing | faulting =>
    rw [Task.retireM, hp] at hm
    obtain rfl := Option.some.inj hm
    exact congrArg _ (runM_ok h)
  | _ =>
    rw [Task.retireM, hp] at hm
    exact nomatch hm

/-- Nothing is left to copy out. -/
theorem copyOutM_done (h : t.part = (outChunks t.img).length) :
    copyOutM t s = .ok ((), s.modTask t.n fun t => { t with phase := .retiring, part := 0, waits := [] }) := by
  have hnone : (outChunks t.img)[t.part]? = none := List.getElem?_eq_none (Nat.le_of_eq h.symm)
  rw [copyOutM, hnone]
  rfl

/-- Its tile commands over, a task waits for the writes that are in flight. -/
theorem retiringM_begins (hp : t.part = 0) (hb : s.taskBusy t = false) :
    retiringM t s = .ok ((), s.modTask t.n fun t => { t with part := 1, waits := t.waits ++ s.writes.map (·.n) }) := by
  refine (bind_ok (a := s) (t := s) rfl).trans ?_
  rw [if_pos hp, hb]
  rfl

theorem writeStatus_ok {w : Who} {card : Dword} {x : Byte} (h : writeMem w (card + 0x30) [x] 5 s = .ok (ws, u)) :
    writeStatus w card x s = .ok ((), u) := (bind_ok h).trans rfl

/-- STATUS 3 written, the pins go. -/
theorem releasingM_status (hp : t.part = 0) (hw : writeMem t.who (t.card + 0x30) [3] 5 s = .ok (ws, u)) :
    releasingM t s = .ok ((), ((u.clearTask t.n).unpinTask t.n).modTask t.n fun t => { t with part := 1 }) := by
  simp only [releasingM, hp]
  exact (bind_ok (writeStatus_ok hw)).trans rfl

/-- Both successors dealt with, the task is over. -/
theorem releasingM_ends (hp : 3 ≤ t.part) : releasingM t s = .ok ((), s.endTask t) := by
  obtain ⟨n, hn⟩ : ∃ n, t.part = n + 3 := ⟨t.part - 3, by omega⟩
  simp only [releasingM, hn]
  rfl

theorem faultingM_ok (hw : writeMem t.who (t.card + 0x30) [4] 5 s = .ok (ws, u)) :
    faultingM t s = .ok ((), (u.clearTask t.n).modTask t.n fun t => { t with phase := .faulted }) :=
  (bind_ok (orFatal_ok (writeStatus_ok hw))).trans rfl

end

/-! ### Held cards (R125) -/

section
variable {s u : State} {d q : Nat} {t : Task} {ws : List Nat}

/-- What the entry of a held card into its queue leaves. -/
def State.heldQueued (u : State) (d q : Nat) (t : Task) : State :=
  ((((u.modDie d fun x => { x with held := x.held.erase t.n }).clearTask t.n).setQueue d q (u.queueOf d q ++ [t.n])).modTask
    t.n fun t => { t with phase := .queued })

theorem die_modTask (s : State) (n : Nat) (f : Task → Task) (d : Nat) : (s.modTask n f).die d = s.die d := rfl
theorem die_clearTask (s : State) (n d : Nat) : (s.clearTask n).die d = s.die d := rfl

theorem queueOf_heldQueued : (u.heldQueued d q t).queueOf d q = u.queueOf d q ++ [t.n] := by
  simp [State.heldQueued, State.queueOf, State.setQueue, die_modTask, Table.getD_put]

theorem held_heldQueued : ((u.heldQueued d q t).die d).held = (u.die d).held.erase t.n := by
  simp [State.heldQueued, State.setQueue, die_modTask, die_clearTask]

theorem execHeldCardEnqueue_of_room (hq : (s.queueOf s.ev.who s.ev.n).length < queueCap s.ev.n)
    (ht : ((s.die s.ev.who).held.findSome? fun n => (s.taskIn n .held).filter fun t => t.queue == s.ev.n) = some t)
    (hw : writeMem t.who (t.card + 0x30) [1] 5 s = .ok (ws, u)) :
    execHeldCardEnqueue s = .next (u.heldQueued s.ev.who s.ev.n t) := by
  simp only [execHeldCardEnqueue, Nat.not_le.2 hq, ht, if_false]
  exact congrArg _ (runM_ok ((bind_ok (writeStatus_ok hw)).trans rfl))

end

/-! ### The fault queue (R131, R132) -/

section
variable {s : State} {e : List Byte} {rest : List (List Byte × Option Nat)}

/-- What the entry of the oldest waiting fault leaves in its die's queues. -/
def State.entryPosted (s : State) (d : Nat) (e : List Byte) (rest : List (List Byte × Option Nat)) : State :=
  s.modDie d fun x => { x with faultq := x.faultq ++ [e], faultWait := rest }

/-- An entry that waits with a task stops it. -/
theorem execFaultEntryPost_of_task {n : Nat} {t : Task} (hw : (s.die s.ev.who).faultWait = (e, some n) :: rest)
    (hr : (s.die s.ev.who).faultq.length < 1024) (ht : s.tasks.find? (fun t => decide (t.n = n)) = some t) :
    execFaultEntryPost s = .next ((((s.entryPosted s.ev.who e rest).dropWatcher (2 * t.n)).modTask t.n fun t =>
      { t with phase := if t.phase = .unread then .faulted else .faulting }).stopStrands t.card t.tenant) := by
  have ht' : (s.entryPosted s.ev.who e rest).tasks.find? (fun t => decide (t.n = n)) = some t := ht
  unfold State.entryPosted at ht' ⊢
  simp only [execFaultEntryPost, hw, Nat.not_le.2 hr, if_false, Option.bind_some, ht']

section
variable (hw : (s.die s.ev.who).faultWait = (e, none) :: rest) (hr : (s.die s.ev.who).faultq.length < 1024)
include hw hr

/-- An entry of no task and no tile stops nothing. -/
theorem execFaultEntryPost_of_none (hl : s.sweepLaunch (dw (rd e 0 8)) = none) :
    execFaultEntryPost s = .next (s.entryPosted s.ev.who e rest) := by
  have hl' : (s.entryPosted s.ev.who e rest).sweepLaunch (dw (rd e 0 8)) = none := hl
  unfold State.entryPosted at hl' ⊢
  simp only [execFaultEntryPost, hw, Nat.not_le.2 hr, if_false, Option.bind_none, hl']

/-- An entry of a tile stops its other strands. -/
theorem execFaultEntryPost_of_tile {l : Launch} (hl : s.sweepLaunch (dw (rd e 0 8)) = some l) :
    execFaultEntryPost s = .next (((s.entryPosted s.ev.who e rest).modLaunch l.n fun l => { l with
      bad := if l.bad.contains (bits (dw (rd e 0 8)) 47 0) then l.bad else l.bad ++ [bits (dw (rd e 0 8)) 47 0] }).stopStrands
        (dw (rd e 0 8)) l.tenant) := by
  have hl' : (s.entryPosted s.ev.who e rest).sweepLaunch (dw (rd e 0 8)) = some l := hl
  unfold State.entryPosted at hl' ⊢
  simp only [execFaultEntryPost, hw, Nat.not_le.2 hr, if_false, Option.bind_none, hl']

end

end

/-! ### Displacement (R137) -/

section
variable {s : State} {k : Nat}

/-- A strand is chosen, stops issuing, and is saved at once where it can be. -/
theorem execDisplace_of_chosen (hd : s.displacing s.ev.who = none) (hg : s.guaranteedWaits s.ev.who = true)
    (hk : s.displaced s.ev.who = some k) :
    execDisplace s = .next (((s.modSlot k fun x => { x with displ := true }).displace k).getD
      (s.modSlot k fun x => { x with displ := true })) := by
  simp only [execDisplace, hd, hg, hk, Bool.not_true, Bool.false_eq_true, if_false]

theorem execDisplace_of_stopped {v : State} (hd : s.displacing s.ev.who = some k) (hv : s.displace k = some v) :
    execDisplace s = .next v := by
  simp only [execDisplace, hd, hv, Option.getD_some]

end

/-! ### Reservations, stages and the governor (R133, R134, R136, R143, R144, R148) -/

section
variable {s u a : State} {v : Dword} {e : List Byte}

theorem execReservationReload_of_due {l : Launch}
    (hl : s.launches.find? (fun l => s.resvLive.find? s.ev.n == some l.n && decide (0 < l.start)) = some l)
    (hper : l.step.getD (1000 + s.ev.who) 0 < (s.timer.toNat - l.start) / max 1 (resvPeriod (s.resvEntry s.ev.n))) :
    execReservationReload s = .next ((s.reload s.ev.who s.ev.n).modLaunch l.n fun l' => { l' with
      step := l'.step.put (1000 + s.ev.who) ((s.timer.toNat - l.start) / max 1 (resvPeriod (s.resvEntry s.ev.n))) }) := by
  simp only [execReservationReload, hl, hper, if_true]

section
variable (hc : s.cmd? s.ev.who 0x08A = some v)
include hc

/-- A good reservation entry is written, or the entry freed. -/
theorem execReservationWrite_ok (hv : bits v 63 62 = 0) (hr : readImage s.ev.who v s = .ok (e, a))
    (ha : a.resvResult (bits v 61 56) e = 0) :
    execReservationWrite s = .next (((State.schedDone (if rd e 0 2 = 0 then { a with resv := a.resv.del (bits v 61 56) }
      else { a with resv := a.resv.put (bits v 61 56) e }) s.ev.who 0).answered s.ev.who).finishCmd s.ev.who) := by
  simp only [execReservationWrite, hc, hv, OfNat.zero_ne_ofNat, ne_eq, not_true_eq_false, if_false]
  refine congrArg _ (runCmd_ok ((bind_ok hr).trans ((modify_ok ..).trans ?_)))
  rw [ha, if_neg (not_not.2 rfl)]
  by_cases h : rd e 0 2 = 0
  · rw [if_pos h, if_pos h]
  · rw [if_neg h, if_neg h]

theorem execStageWrite_ok (hv : bits v 63 62 = 1) (hr : readImage s.ev.who v s = .ok (e, a))
    (ha : a.stageWrite (dieOf s.ev.who) (bits v 61 56) e = (u, 0)) :
    execStageWrite s = .next (((u.schedDone s.ev.who 0).answered s.ev.who).finishCmd s.ev.who) := by
  simp only [execStageWrite, hc, hv, ne_eq, not_true_eq_false, if_false]
  refine congrArg _ (runCmd_ok ((bind_ok hr).trans ((modify_ok ..).trans ?_)))
  rw [ha]

theorem execGovernorTick_of_command (hv : bits v 63 62 = 2) :
    execGovernorTick s = .next (((s.governorTick (dieOf s.ev.who)).schedDone s.ev.who 0).finishCmd s.ev.who) := by
  simp only [execGovernorTick, hc, hv, ne_eq, not_true_eq_false, if_false]

end

end

/-! ### The urgent slot (R146) -/

section
variable {s : State}

section
variable {k : Nat} {v : Dword} (hw : s.urgWriter s.ev.who = some (k, v))
include hw

theorem execUrgentEnable_of_write (hv : v.msb = true) :
    execUrgentEnable s = .next ((s.modCore s.ev.who fun x => { x with urgcfg := urgValue v }).finishCmd k) := by
  simp only [execUrgentEnable, hw, hv, Bool.not_true, Bool.false_eq_true, if_false]

theorem execUrgentDisable_of_write (hv : v.msb = false) :
    execUrgentDisable s = .next ((s.modCore s.ev.who fun x => { x with urgcfg := urgValue v }).finishCmd k) := by
  simp only [execUrgentDisable, hw, hv, Bool.false_eq_true, if_false]

end

/-- A strand in the slot that is to be the urgent one is displaced. -/
theorem execUrgentEnable_displaces {u : State} (hw : s.urgWriter s.ev.who = none) (he : (s.core s.ev.who).urgcfg.msb = true)
    (hu : (s.core s.ev.who).urg = false) (ho : (s.slot (8 * s.ev.who + 7)).occ = .active)
    (hd : s.displace (8 * s.ev.who + 7) = some u) : execUrgentEnable s = .next u := by
  simp only [execUrgentEnable, hw, he, hu, ho, hd, decide_true, Bool.not_false, Bool.and_self, if_true, Option.getD_some]

theorem execUrgentStart_of_empty (he : (s.core s.ev.who).urgcfg.msb = true) (hu : (s.core s.ev.who).urg = false)
    (ho : (s.slot (8 * s.ev.who + 7)).occ = .empty) : execUrgentStart s = .next
      ((s.startUrgent (8 * s.ev.who + 7)).modCore s.ev.who fun x => { x with urg := true, asleep := false }) := by
  simp only [execUrgentStart, he, hu, ho, decide_true, Bool.not_false, Bool.and_self, if_true]

/-- The urgent strand ends, with nothing of it outstanding. -/
theorem execUrgentDisable_ends (hw : s.urgWriter s.ev.who = none) (he : (s.core s.ev.who).urgcfg.msb = false)
    (hu : (s.core s.ev.who).urg = true) (ho : (s.slot (8 * s.ev.who + 7)).outs = []) :
    execUrgentDisable s = .next (((s.orphanSys (8 * s.ev.who + 7)).leave (8 * s.ev.who + 7)).modCore s.ev.who fun x =>
      { x with urg := false }) := by
  simp only [execUrgentDisable, hw, he, hu, ho, List.isEmpty_nil, Bool.not_false, Bool.true_and, Bool.true_or, if_true]

end

/-! ### The obligation -/

/-- Settles O55: each step by what its function does in the case that the clause names. -/
theorem schedulerSteps : Obligations.SchedulerSteps := by
  unfold Obligations.SchedulerSteps
  rintro s _ t rfl
  refine ⟨fun k => execDispatch_of_slot, fun u => execTaskStart_ok, fun ht => ?retire, ?held,
    fun e rest hw hr hl => execFaultEntryPost_of_none hw hr hl, fun e rest n hw hr ht => execFaultEntryPost_of_task hw hr ht,
    fun e rest l hw hr hl => execFaultEntryPost_of_tile hw hr hl, fun k hd hg hk => ?chosen, fun k v => execDisplace_of_stopped,
    fun l => execReservationReload_of_due, fun v e a hc => ⟨execReservationWrite_ok hc, fun u => execStageWrite_ok hc,
      execGovernorTick_of_command hc⟩, fun k v hw => ⟨execUrgentEnable_of_write hw, execUrgentDisable_of_write hw⟩,
    fun u => execUrgentEnable_displaces, execUrgentStart_of_empty, execUrgentDisable_ends⟩
  case retire =>
    refine ⟨fun hp hroot hs hpart => ?running, fun u hp hm => ?hit, fun hp hpart hb => ?begins, fun u hp hm => ?retiring,
      fun u hp hm => ?offering, fun ws u hp hpart hw => ?status, fun hp hpart => ?ends, fun ws u hp hw => ?faulting⟩
    case running => exact execTaskRetire_ok ht (by simp [Task.retireM, hp, hroot, hs]) (copyOutM_done hpart)
    case hit => exact execTaskRetire_ok ht (by rw [Task.retireM, hp]) hm
    case begins => exact execTaskRetire_ok ht (by rw [Task.retireM, hp]) (retiringM_begins hpart hb)
    case retiring => exact execTaskRetire_ok ht (by rw [Task.retireM, hp]) hm
    case offering => exact execTaskRetire_ok ht (by rw [Task.retireM, hp]) hm
    case status => exact execTaskRetire_ok ht (by rw [Task.retireM, hp]) (releasingM_status hpart hw)
    case ends => exact execTaskRetire_ok ht (by rw [Task.retireM, hp]) (releasingM_ends hpart)
    case faulting => exact execTaskRetire_ok ht (by rw [Task.retireM, hp]) (faultingM_ok hw)
  case held =>
    exact fun ws u hq ht hw => ⟨_, execHeldCardEnqueue_of_room hq ht hw, queueOf_heldQueued, held_heldQueued⟩
  case chosen =>
    have hexec := execDisplace_of_chosen hd hg hk
    refine ⟨fun hnone => ?_, fun v hv => ?_⟩
    · rw [hnone, Option.getD_none] at hexec
      exact hexec
    · rw [hv, Option.getD_some] at hexec
      exact hexec

end Sys2Proof.Machine
end

section
/-! The stream instructions on streams of the strand's tenant (R158, R159, R164, R170, R375–R384). -/

namespace Sys2Proof.Machine

/-! ### Fields of a byte record -/

theorem leNat_lt (bs : List Byte) : leNat bs < 256 ^ bs.length := by
  induction bs with
  | nil => simp [leNat]
  | cons b bs ih =>
    have hb := b.isLt
    rw [leNat, List.length_cons, Nat.pow_succ]
    omega

theorem rd_lt (r : List Byte) (off n : Nat) : rd r off n < 256 ^ n :=
  (leNat_lt _).trans_le (Nat.pow_le_pow_right (by decide) (List.length_take_le ..))

/-- The length of a record after any write, for `simp` to evaluate. -/
theorem length_wr_eq (r : List Byte) (off n v : Nat) :
    (wr r off n v).length = min off r.length + n + (r.length - (off + n)) := by
  simp only [wr, List.length_append, List.length_take, List.length_drop, Laws.length_leBytes]

theorem rd_wr_same {r : List Byte} {off n v : Nat} (h : off ≤ r.length) : rd (wr r off n v) off n = v % 256 ^ n := by
  rw [rd, wr, List.append_assoc, List.drop_left' (by simpa using h), List.take_left' (Laws.length_leBytes ..), leNat_leBytes]

theorem rd_wr_apart {r : List Byte} {off n v m k : Nat} (h : off + n ≤ r.length) (ha : m + k ≤ off ∨ off + n ≤ m) :
    rd (wr r off n v) m k = rd r m k := by
  rcases ha with ha | ha
  · rw [← rd_take ha, take_wr (Nat.le_refl _) (by omega), rd_take ha]
  · have hdrop : (wr r off n v).drop (off + n) = r.drop (off + n) :=
      List.drop_left' (by rw [List.length_append, List.length_take, Laws.length_leBytes]; omega)
    obtain ⟨j, rfl⟩ := Nat.exists_eq_add_of_le ha
    rw [rd, rd, ← List.drop_drop, hdrop, List.drop_drop]

/-! ### The issue of a stream instruction (R155, R375) -/

/-- What an instruction leaves whose step ends in `u`: its result is outstanding for gd, and what it asked for is forgotten. -/
def State.givesLater (s u : State) (d : BitVec 5) (l : BitVec 4) (v : Dword) : State :=
  s.depart ((u.dropFault (.op s.focus s.nextN)).dropRequests (.op s.focus s.nextN)) l (.compute [.g d v]) [.g d]

/-- An instruction whose step runs to its end is outstanding with the result of the step. -/
theorem issueLater_ready {p : Issue} {l : BitVec 4} {d : BitVec 5} {body : State → M Dword} {s u : State} {v : Dword}
    (h : Ready s p.guard true p.reads (.g d :: p.writes)) (hl : p.instr.illegal = none) (hh : p.hold s = false)
    (hc : p.check s = none) (hb : body s (s.issued p.size (isBarrier p.instr) (isRelease p.instr)) = .ok (v, u)) :
    issueLater p l d body s = .next (s.givesLater u d l v) := by
  unfold issueLater
  exact (issue_ready (p := { p with la := some l, writes := .g d :: p.writes }) h hl hh hc).trans
    (by simp only [hb, State.givesLater])

theorem firstSub_none {l : List (Option Byte)} : firstSub l = none ↔ ∀ x ∈ l, x = none := by
  induction l with
  | nil => simp [firstSub]
  | cons a l ih => cases a <;> simp [firstSub, ih]

theorem subIf_none {c : Bool} {x : Byte} : subIf c x = none ↔ c = false := by simp [subIf]

/-- No pure tag binds the strand in focus, and no acquire of it holds its instructions. -/
structure State.Unheld (s : State) : Prop where
  pure : (s.slot s.focus).pt = false
  free : (s.slot s.focus).acquiring = false

theorem State.Unheld.pureTrap {s : State} (h : s.Unheld) (sub : Byte) : s.pureTrap s.focus sub = none := by
  simp [State.pureTrap, Slot.pureBound, h.pure]

/-- A stream instruction passes its checks where no privilege is missing, its addresses are good, and no subcode applies. -/
theorem State.Unheld.streamTrap {s : State} (h : s.Unheld) {priv : Bool} {acc : Option Trap} {sub : Option Byte}
    (hp : priv = true → (s.slot s.focus).mode = true) (ha : acc = none) (hs : sub = none) :
    s.streamTrap s.focus priv acc sub = none := by
  have hpriv : (priv && !(s.slot s.focus).supervisor) = false := by simpa [Slot.supervisor] using hp
  simp [State.streamTrap, firstTrap_none, hpriv, ha, hs, h.pureTrap]

/-- A stream instruction that passes its checks and whose step runs to its end gives the result of the step. -/
theorem streamOp_ready {p : Issue} {d a : BitVec 5} {l : BitVec 4} {priv : State → Bool} {acc : State → Option Trap}
    {sub : State → Nat → Option Byte} {act : State → Nat → M Dword} {s u : State} {v : Dword} {id : Nat}
    (h : Ready s p.guard true p.reads (.g d :: p.writes)) (hm : s.Unheld) (hid : bits (s.readG s.focus a) 31 0 = id)
    (hact : act s id (s.issued p.size (isBarrier p.instr) (isRelease p.instr)) = .ok (v, u)) (hsub : sub s id = none)
    (hl : p.instr.illegal = none := by rfl) (hp : priv s = true → (s.slot s.focus).mode = true := by exact fun h => nomatch h)
    (ha : acc s = none := by rfl) : streamOp p d a l priv acc sub act s = .next (s.givesLater u d l v) := by
  subst hid
  unfold streamOp
  refine issueLater_ready h hl hm.free (hm.streamTrap hp ha hsub) ?_
  simp only [streamBody, hsub]
  exact hact

/-- A stream that is not FREE, of the tenant of the strand in focus (R155). -/
structure State.Owns (s : State) (id : Nat) : Prop where
  valid  : sidOk id = true
  live   : scbState (s.scb id) ≠ 0
  tenant : scbTenant (s.scb id) = (s.slot s.focus).tenant

theorem State.Owns.idBad {s : State} {id : Nat} (h : s.Owns id) (tenant : Bool) : s.idBad s.focus id tenant = none := by
  simp [State.idBad, h.valid, h.live, h.tenant]

theorem streamIn_of_mem {s : State} {id : Nat} {sts : List Nat} (h : scbState (s.scb id) ∈ sts) : s.streamIn id sts = true := by
  simpa [State.streamIn] using h

theorem get_bind {α : Type} (f : State → M α) (s : State) : (get >>= f) s = f s s := rfl

/-! ### What an issue leaves of streams, groups and models -/

section
variable (s : State) (size : Nat) (bar rel : Bool)

@[simp] theorem State.issued_scbs : (s.issued size bar rel).scbs = s.scbs := by simp [State.issued]
@[simp] theorem State.issued_groups : (s.issued size bar rel).groups = s.groups := by simp [State.issued]
@[simp] theorem State.issued_models : (s.issued size bar rel).models = s.models := by simp [State.issued]
@[simp] theorem State.issued_nodes : (s.issued size bar rel).nodes = s.nodes := by simp [State.issued]
@[simp] theorem State.issued_dies : (s.issued size bar rel).dies = s.dies := by simp [State.issued]
@[simp] theorem State.scb_issued (id : Nat) : (s.issued size bar rel).scb id = s.scb id := by
  rw [State.scb, State.scb, State.issued_scbs]
@[simp] theorem State.model_issued (m : Nat) : (s.issued size bar rel).model m = s.model m := by simp [State.model]
@[simp] theorem State.nodeDesc_issued (pa : Nat) : (s.issued size bar rel).nodeDesc pa = s.nodeDesc pa := by simp [State.nodeDesc]
@[simp] theorem State.die_issued (d : Nat) : (s.issued size bar rel).die d = s.die d := by simp [State.die]
@[simp] theorem State.freeStream_issued (d : Nat) : (s.issued size bar rel).freeStream d = s.freeStream d := by
  simp [State.freeStream]

end

/-! ### The instructions -/

/-- The low bits of a dword as a number. -/
theorem bits_low (x : Dword) (hi : Nat) : bits x hi 0 = x.toNat % 2 ^ (hi + 1) := by simp [bits]

section
variable {s : State} {d a b : BitVec 5} {g : BitVec 3} {l : BitVec 4} {id : Nat}

theorem exec_sfork {child : Nat} (h : Ready s g true [.g a, .g b] [.g d]) (hm : s.Unheld) (hid : bits (s.readG s.focus a) 31 0 = id)
    (ho : s.Owns id) (hst : scbState (s.scb id) ∈ [1, 2, 3, 4]) (hg : scbGroup (s.scb id) = 0)
    (hc : s.freeStream (scbHome id) = some child) (hr : (s.nodeDesc (scbRoot (s.scb id))).refcnt ≠ 0xFFFFFFFF) :
    exec (.sfork d a b g l) s = .next (s.givesLater ((s.issued 4).fork id child (s.readG s.focus b)) d l (dw child)) := by
  show execSfork d a b g l s = _
  rw [execSfork]
  refine streamOp_ready h hm hid ?act (firstSub_none.2 ?checks)
  case act =>
    rw [get_bind]
    simp only [State.freeStream_issued, hc, State.scb_issued, State.nodeDesc_issued, if_neg hr]
    rfl
  case checks => simp [ho.idBad, subIf_none, streamIn_of_mem hst, hc, hg]

/-- SSTEP steps the layer of a PINNED stream, but for one that is DEAD. -/
theorem exec_sstep (h : Ready s g true [.g a] [.g d]) (hm : s.Unheld) (hid : bits (s.readG s.focus a) 31 0 = id)
    (ho : s.Owns id) (hp : scbPinned (s.scb id) = true) :
    exec (.sstep d a g l) s = .next (
      let u := (s.issued 4).scbStep id (stepLayer (modelLayers (s.model (scbModel (s.scb id)))))
      if scbState (s.scb id) = 6 ∨ scbHorizon (s.scb id) = 0 then s.givesLater (s.issued 4) d l (dw (3 * 2 ^ 56))
      else s.givesLater u d l (dw (scbHorizon (u.scb id) * 2 ^ 16 + scbCursor (u.scb id)))) := by
  have hsub : firstSub [s.idBad s.focus id true, subIf (!scbPinned (s.scb id)) 3] = none :=
    firstSub_none.2 (by simp [ho.idBad, subIf_none, hp])
  show execSstep d a g l s = _
  rw [execSstep]
  split
  next hend =>
    refine streamOp_ready h hm hid ?_ hsub
    rw [get_bind]
    simp only [State.scb_issued, if_pos hend]
    rfl
  next hend =>
    refine streamOp_ready h hm hid ?_ hsub
    rw [get_bind]
    simp only [State.scb_issued, if_neg hend, State.model_issued]
    rfl


/-- SRET adds to RETURN, but for a stream that is DEAD, which is PINNED then. -/
theorem exec_sret (h : Ready s g true [.g a, .g b] [.g d]) (hm : s.Unheld) (hid : bits (s.readG s.focus a) 31 0 = id)
    (ho : s.Owns id) (hp : scbState (s.scb id) = 6 → scbPinned (s.scb id) = true) :
    exec (.sret d a b g l) s = .next (
      let v := Fp.f32.add (scbReturn (s.scb id)) ((s.readG s.focus b).toNat % 2 ^ 32)
      if scbState (s.scb id) = 6 then s.givesLater (s.issued 4) d l (dw (3 * 2 ^ 56))
      else s.givesLater ((s.issued 4).scbStep id fun r => wr r 0x34 4 v) d l (dw v)) := by
  have hsub : firstSub [s.idBad s.focus id true, subIf (s.streamIn id [6] && !scbPinned (s.scb id)) 3] = none :=
    firstSub_none.2 (by simpa [ho.idBad, subIf_none, State.streamIn] using hp)
  show execSret d a b g l s = _
  rw [execSret]
  split
  next hdead =>
    refine streamOp_ready h hm hid ?_ hsub
    rw [get_bind]
    simp only [State.scb_issued, if_pos hdead]
    rfl
  next hdead =>
    refine streamOp_ready h hm hid ?_ hsub
    rw [get_bind, ← bits_low]
    simp only [State.scb_issued, if_neg hdead]
    rfl

theorem exec_sjoin (h : Ready s g true [.g a, .g b] [.g d]) (hm : s.Unheld) (hid : bits (s.readG s.focus a) 31 0 = id)
    (ho : s.Owns id) (hg : scbGroup (s.scb id) = 0) (hst : scbState (s.scb id) ≠ 6)
    (hopen : s.groupOpen (s.readG s.focus b).toNat (s.slot s.focus).tenant = true) :
    let gid := (s.readG s.focus b).toNat
    let u := ({ s.issued 4 with scbs := (s.issued 4).scbs.put id (wr (s.scb id) 0x2C 4 gid) } : State).joinGroup id
    exec (.sjoin d a b g l) s = .next (s.givesLater u d l (dw (((u.group? gid).map (·.members)).getD 0))) := by
  show execSjoin d a b g l s = _
  rw [execSjoin]
  refine streamOp_ready h hm hid ?act (firstSub_none.2 ?checks)
  case act =>
    dsimp only
    rw [bind_ok (modify_ok ..), get_bind, State.scb_issued]
    rfl
  case checks => simp [ho.idBad, subIf_none, State.streamIn, hg, hst, hopen]

/-- SSTOP stops a stream that has not been stopped. -/
theorem exec_sstop (h : Ready s g true [.g a, .g b] [.g d]) (hm : s.Unheld) (hid : bits (s.readG s.focus a) 31 0 = id)
    (ho : s.Owns id) (hst : scbState (s.scb id) ∈ [1, 2, 3, 4, 5]) (hc : (s.readG s.focus b).toNat % 256 ∈ [2, 3, 4]) :
    exec (.sstop d a b g l) s = .next (
      if scbStop (s.scb id) = 0 then s.givesLater ((s.issued 4).stopStream id ((s.readG s.focus b).toNat % 256)) d l 0
      else s.givesLater (s.issued 4) d l 1) := by
  have hcode : bits (s.readG s.focus b) 7 0 = (s.readG s.focus b).toNat % 256 := bits_low ..
  have hsub : firstSub [s.idBad s.focus id true, subIf (!s.streamIn id [1, 2, 3, 4, 5]) 3,
      subIf (bits (s.readG s.focus b) 7 0 < 2 || 4 < bits (s.readG s.focus b) 7 0) 0x0A] = none := by
    have hrange : 1 < (s.readG s.focus b).toNat % 256 ∧ (s.readG s.focus b).toNat % 256 ≤ 4 := by
      simp only [List.mem_cons, List.not_mem_nil, or_false] at hc
      omega
    exact firstSub_none.2 (by simp [ho.idBad, subIf_none, streamIn_of_mem hst, hcode, hrange])
  show execSstop d a b g l s = _
  rw [execSstop]
  split
  next hstop =>
    refine streamOp_ready h hm hid ?_ hsub
    rw [get_bind, ← hcode]
    simp only [State.scb_issued, if_pos hstop]
    rfl
  next hstop =>
    refine streamOp_ready h hm hid ?_ hsub
    rw [get_bind]
    simp only [State.scb_issued, if_neg hstop]
    rfl

theorem exec_sact {bs : List Byte} {pa : Nat} {t₁ t₂ u : State} (h : Ready s g true [.g a, .g b] [.g d]) (hm : s.Unheld)
    (hid : bits (s.readG s.focus a) 31 0 = id) (ho : s.Owns id) (hst : scbState (s.scb id) ∈ [1, 2, 3, 4, 5])
    (hroom : actionCount (s.scb id) ≠ 2 ^ scbAlog2 (s.scb id))
    (hobj : s.objTrap s.focus (s.readG s.focus b) 8 3 64 false = none)
    (hfree : s.issueBlocked s.focus [(s.readG s.focus b, 64)] = false)
    (hread : readMem (s.whoIssue d) (s.readG s.focus b) 64 0 (s.issued 4) = .ok (bs, t₁)) :
    let w := { s.whoIssue d with stream := some id }
    let q := t₁.scb id
    let va := dw (0xFE000000000000 + (rd q 0x10 8 + scbAtail q % 2 ^ scbAlog2 q * 64) % 2 ^ 48)
    placeWrite w va 64 1 t₁ = .ok (.mem pa, t₂) → settledWrite w (.mem pa) bs t₂ = .ok ((), u) →
    exec (.sact d a b g l) s = .next (s.givesLater (u.scbStep id fun r =>
      let q := wr r 0x1A 2 ((scbAtail r + 1) % 65536)
      if scbState q = 3 then setState q 1 else q) d l (dw (scbAtail q))) := by
  intro w q va hplace hwrite
  show execSact d a b g l s = _
  rw [execSact]
  refine streamOp_ready h hm hid ?act (firstSub_none.2 ?checks) (ha := hobj)
  case act =>
    rw [sactAct, hfree]
    refine (bind_ok hread).trans ?_
    rw [get_bind]
    exact (bind_ok hplace).trans ((bind_ok hwrite).trans rfl)
  case checks => simp [ho.idBad, subIf_none, streamIn_of_mem hst, hroom]

theorem exec_sretire (h : Ready s g true [.g a] [.g 0]) (hm : s.Unheld) (hid : bits (s.readG s.focus a) 31 0 = id)
    (ho : s.Owns id) (hst : scbState (s.scb id) ∈ [1, 2, 3, 4, 5]) (he : scbEvkind (s.scb id) ≠ 3) :
    exec (.sretire a g l) s =
      .next (s.givesLater (((s.issued 4).scbStep id fun r => wr r 0x1E 1 5).kill id) 0 l 0) := by
  show execSretire a g l s = _
  rw [execSretire]
  refine streamOp_ready h hm hid rfl (firstSub_none.2 ?_)
  simp [ho.idBad, subIf_none, streamIn_of_mem hst, he]

/-- SEVICT gives what its step does (R381). -/
theorem exec_sevict {u : State} {v : Dword} (h : Ready s g true [.g a, .g b] [.g d]) (hm : s.Unheld)
    (hid : bits (s.readG s.focus a) 31 0 = id) (ho : s.Owns id) (hp : s.readG s.focus b = 2 → (s.slot s.focus).mode = true)
    (hact : sevictAct d b s id (s.issued 4) = .ok (v, u)) :
    exec (.sevict d a b g l) s = .next (s.givesLater u d l v) := by
  show execSevict d a b g l s = _
  rw [execSevict]
  refine streamOp_ready h hm hid hact ?_ (hp := by simpa using hp)
  rw [sevictSub, ho.idBad, ite_self]

theorem sevictAct_of_evict {t u : State} {v : Dword} (hb : s.readG s.focus b = 0) (he : evictM id t = .ok (v, u)) :
    sevictAct d b s id t = .ok (v, u) := by
  rw [sevictAct, get_bind, hb]
  exact he

theorem evictM_of_not_candidate {t : State} (hc : t.candidate id = false) : evictM id t = .ok (dw (2 ^ 56), t) := by
  rw [evictM, get_bind, hc]
  rfl

theorem evictM_of_candidate {t u : State} (hc : t.candidate id = true) (hq : t.evictQuiet id = true)
    (he : t.evict (scbHome id) id State.evictMove = some u) : evictM id t = .ok (dw (t.exclusivePool id).length, u) := by
  rw [evictM, get_bind, hc, hq]
  dsimp only
  rw [he]
  rfl

theorem sevictAct_of_restore {t u : State} {n : Nat} (hb : s.readG s.focus b = 1) (hst : scbState (t.scb id) = 5)
    (he : scbEvkind (t.scb id) ≠ 3) (hr : restoreM (s.whoIssue d) id t = .ok (n, u)) :
    sevictAct d b s id t = .ok (dw n, u) := by
  rw [sevictAct, get_bind, hb]
  exact (congrFun (if_pos (.inl ⟨hst, he⟩)) t).trans (bind_ok hr)

theorem sevictAct_of_resident {t : State} (hb : s.readG s.focus b = 1) (h5 : scbState (t.scb id) ≠ 5)
    (h2 : scbState (t.scb id) ≠ 2) : sevictAct d b s id t = .ok (dw (2 ^ 56), t) := by
  rw [sevictAct, get_bind, hb]
  exact congrFun (if_neg (by simp [h5, h2])) t

theorem sevictAct_of_round {t : State} (hb : s.readG s.focus b = 2) (hq : t.roundQuiet (dieOf s.focus) = true) :
    let high := bits (t.die (dieOf s.focus)).evlow 63 32
    let r := State.evictRound (dieOf s.focus) high State.evictMove t.scbs.length [] ⟨t, 0, false⟩
    sevictAct d b s id t = .ok (dw r.pages, r.st) := by
  intro high r
  rw [sevictAct, get_bind, hb]
  exact congrFun (if_neg (by simp [hq])) t

theorem sevictAct_of_bad {t : State} (hb : 2 < (s.readG s.focus b).toNat) : sevictAct d b s id t = .ok (dw (2 ^ 57), t) := by
  rw [sevictAct, get_bind]
  obtain ⟨n, hn⟩ := Nat.exists_eq_add_of_lt hb
  rw [show (s.readG s.focus b).toNat = n + 3 by omega]
  rfl

theorem exec_smig (h : Ready s g true [.g a, .g b] [.g d]) (hm : s.Unheld) (hid : bits (s.readG s.focus a) 31 0 = id)
    (ho : s.Owns id) (hg : scbGroup (s.scb id) = 0) (hst : scbState (s.scb id) ∈ [1, 3, 4])
    (hdst : bits (s.readG s.focus a) 47 32 ≠ s.pkgid.toNat) (hlast : s.lastPage id = false)
    (hobj : s.objTrap s.focus (s.readG s.focus b) 8 3 8 true = none) :
    exec (.smig d a b g l) s = .next (s.givesLater
      ((s.issued 4).startMove id (bits (s.readG s.focus a) 47 32) (s.readG s.focus b)) d l 0) := by
  show execSmig d a b g l s = _
  rw [execSmig]
  refine streamOp_ready h hm hid rfl (firstSub_none.2 ?_) (ha := hobj)
  simp [ho.idBad, subIf_none, streamIn_of_mem hst, hg, hdst, hlast]

theorem streamIn_free : s.streamIn id [0] = decide (scbState (s.scb id) = 0) := by
  simp [State.streamIn]

/-- SSTAT of a stream of the tenant gives the block recounted; of a FREE one it gives the id. -/
theorem exec_sstat (h : Ready s g true [.g a, .g b] [.g d]) (hm : s.Unheld) (hid : bits (s.readG s.focus a) 31 0 = id)
    (hok : sidOk id = true) (ho : scbState (s.scb id) ≠ 0 → s.Owns id)
    (hobj : s.readG s.focus b = 0 ∨ s.objTrap s.focus (s.readG s.focus b) 8 3 256 true = none) :
    let t := s.issued 4
    let u := t.recount id
    let x := s.readG s.focus b
    let v := dw (rd (u.scb id) 0 8)
    exec (.sstat d a b g l) s = .next (
      if scbState (s.scb id) = 0 then s.depart t l (.compute [.g d (dw id)]) [.g d]
      else s.depart u l (if x = 0 then .compute [.g d v] else .copyOut x ((u.scb id).take 256) v d) [.g d]) := by
  subst hid
  intro t u x v
  have hfree : t.streamIn (bits (s.readG s.focus a) 31 0) [0] = decide (scbState (s.scb (bits (s.readG s.focus a) 31 0)) = 0) := by
    rw [streamIn_free, State.scb_issued]
  show execSstat d a b g l s = _
  rw [execSstat]
  refine (issue_ready h rfl hm.free (hm.streamTrap (priv := false) (fun h => nomatch h) ?addr ?sub)).trans ?_
  case addr =>
    rcases hobj with hx | hx
    · exact if_pos hx
    · rw [hx]
      simp [firstTrap_none, hm.pureTrap]
  case sub =>
    by_cases hst : scbState (s.scb (bits (s.readG s.focus a) 31 0)) = 0
    · simp [hok, streamIn_free, hst]
    · simp [hok, streamIn_free, hst, (ho hst).idBad]
  exact congrArg _ (if_congr (hfree ▸ decide_eq_true_iff) rfl rfl)

theorem exec_sjoinOpen {img : List Byte} {gid : Nat} {u : State} (h : Ready s g true [.g a] [.g d]) (hm : s.Unheld)
    (hobj : s.objTrap s.focus (s.readG s.focus a) 64 6 64 false = none)
    (hfree : s.issueBlocked s.focus [(s.readG s.focus a, 64)] = false)
    (hread : readMem (s.whoIssue d) (s.readG s.focus a) 64 0 (s.issued 4) = .ok (img, u)) (hbad : groupImageBad img = false)
    (hgid : s.freeGroup (dieOf s.focus) = some gid) (hgid' : u.freeGroup (dieOf s.focus) = some gid) :
    exec (.sjoinOpen d a g l) s = .next (s.givesLater { u with
      groups := u.groups.put gid ⟨wr (wr (wr img 0 4 gid) 4 2 (s.slot s.focus).tenant.toNat) 0xF 1 1, []⟩ } d l (dw gid)) := by
  show execSjoinOpen d a g l s = _
  rw [execSjoinOpen]
  refine streamOp_ready h hm rfl ?act ?check (ha := hobj)
  case act =>
    rw [sjoinOpenAct, hfree]
    refine (bind_ok hread).trans ?_
    rw [get_bind, hgid', hbad]
    rfl
  case check => simp [sjoinOpenSub, subIf_none, hgid]

end

/-! ### What a layer step leaves in a block (R154, R158) -/

section
variable {r : List Byte} {layers : Nat}

theorem stepLayer_of_last (hc : scbCursor r + 1 = layers) : stepLayer layers r =
    wr (wr (wr (wr r 0x28 2 0) 0x24 4 ((scbPosition r + 1) % 2 ^ 32)) 0x20 4 (scbHorizon r - 1)) 0x18 2
      ((scbAhead r + 1) % 65536) := if_pos hc

theorem stepLayer_of_inner (hc : scbCursor r + 1 ≠ layers) : stepLayer layers r = wr r 0x28 2 (scbCursor r + 1) := if_neg hc

/-- A layer step moves the cursor, the position, the horizon and the head of the action queue, and nothing else. -/
theorem stepLayer_keeps (h : r.length = 256) : (stepLayer layers r).length = 256 ∧
    scbState (stepLayer layers r) = scbState r ∧ scbRoot (stepLayer layers r) = scbRoot r ∧
    scbReturn (stepLayer layers r) = scbReturn r := by
  by_cases hc : scbCursor r + 1 = layers
  · rw [stepLayer_of_last hc]
    simp [scbState, scbRoot, scbReturn, rd_wr_apart, length_wr_eq, h]
  · rw [stepLayer_of_inner hc]
    simp [scbState, scbRoot, scbReturn, rd_wr_apart, length_wr_eq, h]

/-- The step of the last layer ends the model's step: its action is consumed. -/
theorem stepLayer_last_fields (h : r.length = 256) (hc : scbCursor r + 1 = layers) :
    scbCursor (stepLayer layers r) = 0 ∧ scbPosition (stepLayer layers r) = (scbPosition r + 1) % 2 ^ 32 ∧
    scbHorizon (stepLayer layers r) = scbHorizon r - 1 ∧ scbAhead (stepLayer layers r) = (scbAhead r + 1) % 65536 := by
  have hlt : scbHorizon r - 1 < 256 ^ 4 := (Nat.sub_le ..).trans_lt (rd_lt r 0x20 4)
  rw [stepLayer_of_last hc]
  generalize scbPosition r + 1 = x, scbHorizon r - 1 = y, scbAhead r + 1 = z at hlt
  simpa [scbCursor, scbPosition, scbHorizon, scbAhead, rd_wr_same, rd_wr_apart, length_wr_eq, h] using hlt

/-- A step of another layer moves the cursor alone. -/
theorem stepLayer_inner_fields (h : r.length = 256) (hc : scbCursor r + 1 ≠ layers) (hlt : scbCursor r + 1 < 65536) :
    scbCursor (stepLayer layers r) = scbCursor r + 1 ∧ scbPosition (stepLayer layers r) = scbPosition r ∧
    scbHorizon (stepLayer layers r) = scbHorizon r ∧ scbAhead (stepLayer layers r) = scbAhead r := by
  rw [stepLayer_of_inner hc]
  generalize scbCursor r + 1 = x at hlt
  simpa [scbCursor, scbPosition, scbHorizon, scbAhead, rd_wr_same, rd_wr_apart, h] using hlt

theorem actionCount_eq_zero_iff : actionCount r = 0 ↔ scbAtail r % 65536 = scbAhead r % 65536 := by
  have hhead : scbAhead r < 65536 := rd_lt r 0x18 2
  have htail : scbAtail r < 65536 := rd_lt r 0x1A 2
  rw [actionCount]
  omega

theorem nextState_eq : nextState r =
    if scbHorizon r = 0 then 4 else if scbCursor r = 0 ∧ scbAtail r % 65536 = scbAhead r % 65536 then 3 else 1 := by
  simp only [nextState, actionCount_eq_zero_iff]

end

/-! ### The obligation -/

/-- Settles O31, instruction by instruction; then a layer step, field by field. -/
theorem streamResults : Obligations.StreamResults := by
  refine ⟨fun s d a b g l => ?own, fun s d a b g l => ?others, fun r layers h => ?layer⟩
  case own =>
    intro k x t id B r clean gives hpt hacq hok hten
    have hm : s.Unheld := ⟨hpt, hacq⟩
    have ho (hst : scbState r ≠ 0) : s.Owns id := ⟨hok, hst, hten⟩
    have hlive {sts : List Nat} (hst : scbState r ∈ sts) (h0 : 0 ∉ sts) : s.Owns id := ho (ne_of_mem_of_not_mem hst h0)
    refine ⟨fun h => ⟨fun hp h6 => ?sstepDead, fun hp h0 h6 hh => ?sstep⟩,
      fun h => ⟨fun child hst => ?sfork, fun h6 hp => ?sretDead, fun h0 h6 => ?sret, fun hg h0 h6 => ?sjoin,
        fun hst hc => ⟨fun hstop => ?sstop, fun hstop => ?sstopped⟩, fun bs pa t₁ t₂ u hst hroom hobj => ?sact⟩,
      fun h hst => ?sretire⟩
    case sstepDead => exact (exec_sstep h hm rfl (ho (by omega)) hp).trans (congrArg _ (if_pos (.inl h6)))
    case sstep => exact (exec_sstep h hm rfl (ho h0) hp).trans (congrArg _ (if_neg (not_or.2 ⟨h6, hh⟩)))
    case sfork => exact exec_sfork h hm rfl (hlive hst (by decide)) hst
    case sretDead => exact (exec_sret h hm rfl (ho (by omega)) fun _ => hp).trans (congrArg _ (if_pos h6))
    case sret => exact (exec_sret h hm rfl (ho h0) (absurd · h6)).trans (congrArg _ (if_neg h6))
    case sjoin => exact exec_sjoin h hm rfl (ho h0) hg h6
    case sstop => exact (exec_sstop h hm rfl (hlive hst (by decide)) hst hc).trans (congrArg _ (if_pos hstop))
    case sstopped => exact (exec_sstop h hm rfl (hlive hst (by decide)) hst hc).trans (congrArg _ (if_neg hstop))
    case sact => exact exec_sact h hm rfl (hlive hst (by decide)) hst hroom hobj
    case sretire => exact exec_sretire h hm rfl (hlive hst (by decide)) hst
  case others =>
    intro k x t w id B r gives hpt hacq
    have hm : s.Unheld := ⟨hpt, hacq⟩
    refine ⟨fun h hok h0 hten => ?owned, fun h hok h0 hobj => ?sstatFree, fun img gid u h => exec_sjoinOpen h hm⟩
    case owned =>
      have ho : s.Owns id := ⟨hok, h0, hten⟩
      have hr : t.scb id = r := s.scb_issued 4 false false id
      have evicts {u v} (h2 : B ≠ 2) (he : sevictAct d b s id t = .ok (v, u)) : gives (.sevict d a b g l) u v :=
        exec_sevict h hm rfl ho (absurd · h2) he
      refine ⟨fun hb hc => ?notCandidate, fun u hb hc hq he => ?evicts, fun n u hb h5 he hn => ?restores, fun hb h5 h2 => ?resident,
        fun hb hmode hq => ?round, fun hb => ?bad, exec_smig h hm rfl ho, fun hobj => ?sstat⟩
      case notCandidate => exact evicts (by rw [hb]; decide) (sevictAct_of_evict hb (evictM_of_not_candidate hc))
      case evicts => exact evicts (by rw [hb]; decide) (sevictAct_of_evict hb (evictM_of_candidate hc hq he))
      case restores => exact evicts (by rw [hb]; decide) (sevictAct_of_restore hb (hr ▸ h5) (hr ▸ he) hn)
      case resident => exact evicts (by rw [hb]; decide) (sevictAct_of_resident hb (hr ▸ h5) (hr ▸ h2))
      case round =>
        have hact := sevictAct_of_round (d := d) (id := id) hb hq
        rw [State.die_issued, State.issued_scbs] at hact
        exact exec_sevict h hm rfl ho (fun _ => hmode) hact
      case bad => exact evicts (fun h2 => absurd (h2 ▸ hb) (by decide)) (sevictAct_of_bad hb)
      case sstat => exact (exec_sstat h hm rfl hok (fun _ => ho) hobj).trans (congrArg _ (if_neg h0))
    case sstatFree => exact (exec_sstat h hm rfl hok (absurd h0) hobj).trans (congrArg _ (if_pos h0))
  case layer =>
    obtain ⟨hlen, hstate, hroot, hreturn⟩ := stepLayer_keeps (layers := layers) h
    exact ⟨hlen, hstate, hroot, hreturn, fun hc _ => stepLayer_last_fields h hc, stepLayer_inner_fields h, nextState_eq⟩

end Sys2Proof.Machine
end

section
/-! The grammar instructions (R206, R207, R420–R424). -/

namespace Sys2Proof.Machine

/-! ### What an issue leaves of grammars, arenas and the tenant -/

section
variable (s : State) (size : Nat) (bar rel : Bool)

@[simp] theorem State.issued_grams : (s.issued size bar rel).grams = s.grams := by simp [State.issued]
@[simp] theorem State.issued_arenas : (s.issued size bar rel).arenas = s.arenas := by simp [State.issued]
@[simp] theorem State.gramFor_issued (t : Half) (n : Nat) : (s.issued size bar rel).gramFor t n = s.gramFor t n := by
  simp [State.gramFor]
@[simp] theorem State.committing_issued (id : Nat) : (s.issued size bar rel).committing id = s.committing id := by
  simp [State.committing]
@[simp] theorem State.tenant_issued (k : Nat) : ((s.issued size bar rel).slot k).tenant = (s.slot k).tenant := by
  by_cases hk : k = s.focus
  · subst hk
    simp [State.issued]
  · simp [State.issued, hk]
@[simp] theorem State.whoGram_tenant (k : Nat) (r : Requester) : (s.whoGram k r).tenant = (s.slot k).tenant := rfl

end

/-! ### The issue of a grammar instruction (R420) -/

/-- A stream that a grammar instruction may name: of the tenant of the strand in focus, neither FREE nor DEAD (R420). -/
structure State.OwnsAlive (s : State) (id : Nat) : Prop extends s.Owns id where
  alive : scbState (s.scb id) ≠ 6

theorem State.OwnsAlive.gramStream {s : State} {id : Nat} (h : s.OwnsAlive id) : s.gramStream s.focus id = none :=
  firstSub_none.2 (by simp [h.toOwns.idBad, subIf_none, h.alive])

/-- A grammar instruction passes its checks where its mask address, its stream and its configuration are good. -/
theorem State.Unheld.gramTrap {s : State} {stream : Option Nat} {mask : Option Dword} {sub : Option Byte} (h : s.Unheld)
    (hsub : sub = none) (hstream : (stream.bind fun id => s.gramStream s.focus id) = none := by rfl)
    (hmask : (mask.bind fun va => s.objTrap s.focus va 64 6 64 true) = none := by rfl) :
    s.gramTrap s.focus stream mask sub = none := by
  rw [State.gramTrap, hmask, hstream, h.pureTrap, hsub]
  rfl

/-- A grammar instruction that passes its checks and whose step runs to its end has the effect of the step. -/
theorem gramOp_ready {p : Issue} {l : BitVec 4} {dests : List RegRef} {chk : State → Option Trap} {act : State → M Unit}
    {s u : State} (h : Ready s p.guard true p.reads (dests ++ p.writes)) (hm : s.Unheld) (hc : chk s = none)
    (hact : act s (s.issued p.size (isBarrier p.instr) (isRelease p.instr)) = .ok ((), u))
    (hl : p.instr.illegal = none := by rfl) :
    gramOp p l dests chk act s = .next (u.answered s.focus) := by
  unfold gramOp
  exact issueM_ready h hl hm.free hc hact

theorem startCfg_zero (s : State) (t : Half) : s.startCfg t 0 = 0 := by
  unfold State.startCfg
  split <;> rfl

theorem startCfg_of_gramFor {s : State} {t : Half} {n : Nat} {y : Grammar} (hn : n ≠ 0) (hy : s.gramFor t n = some y) :
    s.startCfg t n = dw (n * 2 ^ 24 + gramStart y.img) := by
  simp only [State.startCfg, hy, if_neg hn]

section
variable {s u z : State} {d a b : BitVec 5} {p : BitVec 3} {g : BitVec 3} {l : BitVec 4} {id : Nat}

/-! ### GSET, GSAVE and GLOAD (R424) -/

theorem exec_gset (h : Ready s g true [.g a, .g b] [.g d]) (hm : s.Unheld) (hid : bits (s.readG s.focus a) 31 0 = id)
    (ho : s.OwnsAlive id) {n : Nat} (hn : (s.readG s.focus b).toNat % 256 = n)
    (hy : n ≠ 0 → (s.gramFor (s.slot s.focus).tenant n).isSome = true) {c : Dword}
    (hc : s.startCfg (s.slot s.focus).tenant n = c) :
    exec (.gset d a b g l) s =
      .next ((s.depart ((s.issued 4).setGcfg id c) l (.compute [.g d c]) [.g d]).answered s.focus) := by
  subst hid hn hc
  have hbits : bits (s.readG s.focus b) 7 0 = (s.readG s.focus b).toNat % 256 := bits_low ..
  rw [← hbits] at hy ⊢
  show execGset d a b g l s = _
  rw [execGset]
  exact gramOp_ready h hm (hm.gramTrap (subIf_none.2 (by simpa using hy)) ho.gramStream) rfl

theorem exec_gsave (h : Ready s g true [.g a] [.g d]) (hm : s.Unheld) (hid : bits (s.readG s.focus a) 31 0 = id)
    (ho : s.OwnsAlive id) (hc : s.cfgBad (s.slot s.focus).tenant (scbGcfg (s.scb id)) = none) :
    exec (.gsave d a g l) s =
      .next ((s.depart (s.issued 4) l (.compute [.g d (scbGcfg (s.scb id))]) [.g d]).answered s.focus) := by
  subst hid
  show execGsave d a g l s = _
  rw [execGsave]
  exact gramOp_ready h hm (hm.gramTrap hc ho.gramStream) rfl

theorem exec_gload (h : Ready s g true [.g a, .g b] []) (hm : s.Unheld) (hid : bits (s.readG s.focus a) 31 0 = id)
    (ho : s.OwnsAlive id) (hc : s.cfgBad (s.slot s.focus).tenant (s.readG s.focus b) = none) :
    exec (.gload a b g l) s = .next
      ((s.depart ((s.issued 4).setGcfg id (s.readG s.focus b)) l (.compute []) []).answered s.focus) := by
  subst hid
  show execGload a b g l s = _
  rw [execGload]
  exact gramOp_ready h hm (hm.gramTrap hc ho.gramStream) rfl

/-! ### Masks (R423) -/

theorem exec_gmask (h : Ready s g true [.g a, .g b] [.p p]) (hm : s.Unheld)
    (hobj : s.objTrap s.focus (s.readG s.focus b) 64 6 64 true = none)
    (hc : s.cfgBad (s.slot s.focus).tenant (s.readG s.focus a) = none) :
    exec (.gmask p a b g l) s =
      .next ((s.askMask (s.issued 4) l p (s.readG s.focus a) (s.readG s.focus b) none).answered s.focus) := by
  show execGmask p a b g l s = _
  rw [execGmask]
  exact gramOp_ready h hm (hm.gramTrap hc (hmask := hobj)) rfl

theorem exec_gmaskS (h : Ready s g true [.g a, .g b] [.p p]) (hm : s.Unheld) (hid : bits (s.readG s.focus a) 31 0 = id)
    (ho : s.OwnsAlive id) (hobj : s.objTrap s.focus (s.readG s.focus b) 64 6 64 true = none)
    (hc : s.cfgBad (s.slot s.focus).tenant (scbGcfg (s.scb id)) = none) :
    exec (.gmaskS p a b g l) s =
      .next ((s.askMask (s.issued 4) l p (scbGcfg (s.scb id)) (s.readG s.focus b) (some id)).answered s.focus) := by
  subst hid
  show execGmaskS p a b g l s = _
  rw [execGmaskS]
  exact gramOp_ready h hm (hm.gramTrap hc ho.gramStream hobj) rfl

/-! ### Advances (R207, R422) -/

/-- The accessor of an advance: its faults carry its destination. -/
def State.whoAdvance (s : State) (d : BitVec 5) : Who :=
  { (s.issued 4).whoGram s.focus (.issue s.focus) with dest := BitVec.ofNat 8 d.toNat }

@[simp] theorem State.whoAdvance_tenant (s : State) (d : BitVec 5) : (s.whoAdvance d).tenant = (s.slot s.focus).tenant :=
  s.tenant_issued ..

/-- The arena in which an advance of a configuration takes its nodes, with the arena field (R422). -/
def advanceArena (c : Dword) (field : Nat) : Nat := if cfgTop c = 0 then field else handleArena (cfgTop c)

/-- The handle of the last of `n` nodes that an advance takes in arena `id` (R205, R207). -/
def Arena.lastHandle (r : Arena) (id n : Nat) : Nat := id * 2 ^ 20 + (if r.cur then 2 ^ 19 else 0) + r.next + n - 1

/-- The operand `y` of an advance of configuration `c` passes the checks, the grammar is loaded, and no commit holds the
arenas (R213, R422). -/
structure State.Advances (s : State) (c y : Dword) (x : Grammar) : Prop where
  gram : s.gramFor (s.slot s.focus).tenant (cfgGram c) = some x
  good : s.advanceBad (s.slot s.focus).tenant c (bits y 31 0) (some (bits y 43 32)) = none
  top : s.committing (handleArena (cfgTop c)) = false
  field : s.committing (bits y 43 32) = false

/-- What an advance leaves by the end of Run and the state in which Run ends: REJECT gives all ones, ACCEPT without pushed symbols
the new configuration, and ACCEPT with pushed symbols writes a node for each. -/
inductive AdvanceEnd (s : State) (d : BitVec 5) (l : BitVec 4) (c : Dword) (field : Nat) (stream : Option Nat) :
    RunEnd → State → State → Prop
  | reject {u : State} : AdvanceEnd s d l c field stream .reject u (s.depart u l (.compute [.g d (BitVec.allOnes 64)]) [.g d])
  | accept {st top : Nat} {n : Int} {u : State} : AdvanceEnd s d l c field stream (.accept st top [] n) u
      (s.depart u l (.gadv none [] stream (dw (top * 2 ^ 32 + cfgGram c * 2 ^ 24 + st)) d) [.g d])
  | push {st top base : Nat} {ov : List Nat} {n : Int} {r : Arena} {u v : State} (some_pushed : ov ≠ [])
      (arena : u.arenaFor (s.slot s.focus).tenant (advanceArena c field) = some r) (room : r.next + ov.length ≤ 524287)
      (depth : topDepth (s.whoAdvance d) top (n - ov.length) u = .ok (base, v)) :
      AdvanceEnd s d l c field stream (.accept st top ov n) u
        (s.depart { v with arenas := v.arenas.put (advanceArena c field) { r with next := r.next + ov.length } } l
          (.gadv (some (nodeAddr r.base r.cur r.next,
              (newNodes (advanceArena c field) r.cur r.next top base ov).flatMap fun z => leBytes 8 z.toNat)) [] stream
            (dw (r.lastHandle (advanceArena c field) ov.length * 2 ^ 32 + cfgGram c * 2 ^ 24 + st)) d) [.g d])

theorem advance_ok {c y : Dword} {x : Grammar} {stream : Option Nat} {e : RunEnd} (ha : s.Advances c y x)
    (hrun : runToken (s.whoAdvance d) x.img c (bits y 31 0) (s.issued 4) = .ok (e, u))
    (he : AdvanceEnd s d l c (bits y 43 32) stream e u z) :
    advance s l d c (bits y 31 0) (bits y 43 32) stream (s.issued 4) = .ok ((), z) := by
  have hgram : (s.issued 4).gramFor (s.whoAdvance d).tenant (cfgGram c) = some x := by simpa using ha.gram
  rw [State.whoAdvance] at hgram
  rw [advance, get_bind]
  simp only [hgram, State.committing_issued, ha.top, ha.field]
  refine (bind_ok hrun).trans ?_
  cases he with
  | reject => rfl
  | accept => rfl
  | push some_pushed arena room depth =>
    simp only [List.isEmpty_eq_false_iff.2 some_pushed]
    rw [← s.whoAdvance_tenant d, State.whoAdvance, advanceArena] at arena
    refine (get_bind ..).trans ?_
    simp only [arena]
    exact (congrFun (if_neg (Nat.not_lt.2 room)) _).trans (bind_ok depth)

theorem exec_gadv {x : Grammar} {e : RunEnd} (h : Ready s g true [.g a, .g b] [.g d]) (hm : s.Unheld)
    (ha : s.Advances (s.readG s.focus a) (s.readG s.focus b) x)
    (hrun : runToken (s.whoAdvance d) x.img (s.readG s.focus a) (bits (s.readG s.focus b) 31 0) (s.issued 4) = .ok (e, u))
    (he : AdvanceEnd s d l (s.readG s.focus a) (bits (s.readG s.focus b) 43 32) none e u z) :
    exec (.gadv d a b g l) s = .next (z.answered s.focus) := by
  show execGadv d a b g l s = _
  rw [execGadv]
  exact gramOp_ready h hm (hm.gramTrap ha.good) (advance_ok ha hrun he)

theorem exec_gadvS {x : Grammar} {e : RunEnd} (h : Ready s g true [.g a, .g b] [.g d]) (hm : s.Unheld)
    (hid : bits (s.readG s.focus a) 31 0 = id) (ho : s.OwnsAlive id)
    (ha : s.Advances (scbGcfg (s.scb id)) (s.readG s.focus b) x)
    (hrun : runToken (s.whoAdvance d) x.img (scbGcfg (s.scb id)) (bits (s.readG s.focus b) 31 0) (s.issued 4) = .ok (e, u))
    (he : AdvanceEnd s d l (scbGcfg (s.scb id)) (bits (s.readG s.focus b) 43 32) (some id) e u z) :
    exec (.gadvS d a b g l) s = .next (z.answered s.focus) := by
  subst hid
  show execGadvS d a b g l s = _
  rw [execGadvS]
  exact gramOp_ready h hm (hm.gramTrap ha.good ho.gramStream) (advance_ok ha hrun he)

/-- GADV of a configuration without a grammar gives it unchanged (R421). -/
theorem exec_gadv_without_grammar (h : Ready s g true [.g a, .g b] [.g d]) (hm : s.Unheld)
    (hc : cfgGram (s.readG s.focus a) = 0)
    (hx : s.gramFor (s.slot s.focus).tenant (cfgGram (s.readG s.focus a)) = none) :
    exec (.gadv d a b g l) s =
      .next ((s.depart (s.issued 4) l (.compute [.g d (s.readG s.focus a)]) [.g d]).answered s.focus) := by
  show execGadv d a b g l s = _
  rw [execGadv]
  refine gramOp_ready h hm (hm.gramTrap (if_pos hc)) ?_
  dsimp only
  rw [advance, get_bind]
  simp only [State.whoGram_tenant, State.tenant_issued, State.gramFor_issued, hx]
  rfl

/-- GCHK says whether Run accepts. -/
theorem exec_gchk {x : Grammar} {e : RunEnd} {ok : Bool} (h : Ready s g true [.g a, .g b] [.p p]) (hm : s.Unheld)
    (hx : s.gramFor (s.slot s.focus).tenant (cfgGram (s.readG s.focus a)) = some x)
    (hbad : s.advanceBad (s.slot s.focus).tenant (s.readG s.focus a) (bits (s.readG s.focus b) 31 0) none = none)
    (hrun : runToken ((s.issued 4).whoGram s.focus (.issue s.focus)) x.img (s.readG s.focus a)
      (bits (s.readG s.focus b) 31 0) (s.issued 4) = .ok (e, u))
    (hok : ok = true ↔ ∃ st top ov n, e = .accept st top ov n) :
    exec (.gchk p a b g l) s = .next ((s.depart u l (.compute [.p p ok]) [.p p]).answered s.focus) := by
  show execGchk p a b g l s = _
  rw [execGchk]
  refine gramOp_ready h hm (hm.gramTrap hbad) ?_
  dsimp only
  rw [get_bind]
  simp only [State.whoGram_tenant, State.tenant_issued, State.gramFor_issued, hx]
  refine (bind_ok hrun).trans ?_
  cases e with
  | accept =>
    obtain rfl : ok = true := hok.2 ⟨_, _, _, _, rfl⟩
    rfl
  | reject | overflow =>
    obtain rfl : ok = false := by simpa using hok
    rfl

end

/-! ### The obligation -/

/-- Settles O33, instruction by instruction. -/
theorem grammarResults : Obligations.GrammarResults := by
  intro s p d a b g l k x t w wd A B id tok gives asks usable hpt hacq
  have hm : s.Unheld := ⟨hpt, hacq⟩
  have owns : usable → s.OwnsAlive id := fun ⟨hok, hfree, hdead, hten⟩ => ⟨⟨hok, hfree, hten⟩, hdead⟩
  refine ⟨fun h hu hn => ?gsetZero, fun y h hu hn hy => ?gset, fun h hobj => ⟨?gmask, fun hu hc => ?gmaskS⟩,
    fun h => ⟨fun hx h0 => ?without, fun y hy hbad htop hf => ?gadv, fun y hu => ?gadvS⟩,
    fun y e u ok hok h hy hbad hrun => ?gchk, fun h hu hc => ?gsave, fun h hu hc => ?gload⟩
  case gsetZero => exact exec_gset h hm rfl (owns hu) hn (absurd rfl) (startCfg_zero ..)
  case gset =>
    exact exec_gset h hm rfl (owns hu) rfl (fun _ => Option.isSome_of_eq_some hy) (startCfg_of_gramFor hn hy)
  case gmask => exact exec_gmask h hm hobj
  case gmaskS => exact exec_gmaskS h hm rfl (owns hu) hobj hc
  case without => exact exec_gadv_without_grammar h hm h0 hx
  case gadv =>
    have ha : s.Advances A B y := ⟨hy, hbad, htop, hf⟩
    exact ⟨fun u hrun => exec_gadv h hm ha hrun .reject, fun st top n u hrun => exec_gadv h hm ha hrun .accept,
      fun st top ov n r base u v hrun hov => fun hr hroom hdepth => exec_gadv h hm ha hrun (.push hov hr hroom hdepth)⟩
  case gadvS =>
    intro c hy hbad htop hf
    have ha : s.Advances c B y := ⟨hy, hbad, htop, hf⟩
    exact ⟨fun u hrun => exec_gadvS h hm rfl (owns hu) ha hrun .reject,
      fun st top n u hrun => exec_gadvS h hm rfl (owns hu) ha hrun .accept⟩
  case gchk => exact exec_gchk h hm hy hbad hrun hok
  case gsave => exact exec_gsave h hm rfl (owns hu) hc
  case gload => exact exec_gload h hm rfl (owns hu) hc

end Sys2Proof.Machine
end

section
/-! The steps of the Armature: walkers, dead streams, and the grammar and arena commands (R203, R208–R211, R213, R215, R217). -/

namespace Sys2Proof.Machine

/-! ### Walkers (R208–R210) and the end of an unload (R203) -/

section
variable {s t u : State} {r : MaskReq}

theorem maskM_ok {o : Outst} {bs : List Byte} {ws : List Nat} (hm : maskOf (s.whoMask r o) r.cfg s = .ok (bs, t))
    (hw : writeMem (s.whoMask r o) r.ea bs 5 t = .ok (ws, u)) :
    maskM r o s = .ok ((), ((u.dropFault (s.whoMask r o).req).dropRequests (s.whoMask r o).req).modMask r.die r.n fun r =>
      { r with done := some (bs.all (· == 0)), writes := ws }) :=
  (get_bind ..).trans <| (bind_ok hm).trans <| (bind_ok hw).trans (modify_ok ..)

/-- The oldest request that a walker of the die in focus serves is finished in one step where nothing holds it. -/
theorem exec_maskWalk {rest : List MaskReq} {o : Outst} {bs : List Byte} {ws : List Nat}
    (hr : s.walking s.ev.who = r :: rest) (ho : s.maskOut r = some o) (hm : maskOf (s.whoMask r o) r.cfg s = .ok (bs, t))
    (hw : writeMem (s.whoMask r o) r.ea bs 5 t = .ok (ws, u)) :
    exec .maskWalk s = .next (((u.dropFault (s.whoMask r o).req).dropRequests (s.whoMask r o).req).modMask r.die r.n fun r =>
      { r with done := some (bs.all (· == 0)), writes := ws }) := by
  show Host.Outcome.next (State.walkMasks (s.walking s.ev.who) s) = _
  rw [hr, State.walkMasks, ho]
  simp only [maskM_ok hm hw]

/-- A live stream stops once the mask that admits no token has been written for it. -/
theorem exec_grammarDeadStop {sid : Nat}
    (hr : (([0, 1, 2, 3] : List Nat).flatMap fun d => (s.die d).maskq).find? (fun r => decide (r.n = s.ev.who)) = some r)
    (hd : r.done = some true) (ho : s.maskOut r = none) (hs : r.stream = some sid)
    (hfree : scbState ((s.dropMask r.die r.n).scb sid) ≠ 0) (hdead : scbState ((s.dropMask r.die r.n).scb sid) ≠ 6)
    (hstop : scbStop ((s.dropMask r.die r.n).scb sid) = 0) :
    exec .grammarDeadStop s = .next ((s.dropMask r.die r.n).stopStream sid 2) := by
  show execGrammarDeadStop s = _
  simp only [execGrammarDeadStop, hr, hd, ho, hs, Option.isNone_some, Option.isSome_none, Bool.or_self, Bool.false_eq_true,
    if_false, true_and]
  rw [if_pos ⟨hfree, hdead, hstop⟩]

theorem walkerBusy_eq_false {n : Nat} (h : ∀ d < 4, ∀ r ∈ (s.die d).maskq, cfgGram r.cfg ≠ n) : s.walkerBusy n = false := by
  refine List.any_eq_false.2 fun d hd => Bool.eq_false_iff.1 (List.any_eq_false.2 fun r hr => ?_)
  have hlt : d < 4 := by
    simp only [List.mem_cons, List.not_mem_nil, or_false] at hd
    omega
  simp [h d hlt r hr]

theorem exec_unloadTakeEffect {y : Grammar} (hy : s.grams.find? s.ev.who = some y) (hu : y.unloading = true)
    (hw : ∀ d < 4, ∀ r ∈ (s.die d).maskq, cfgGram r.cfg ≠ s.ev.who) :
    exec .unloadTakeEffect s = .next (y.frames.foldl State.lowerFrame { s with grams := s.grams.del s.ev.who }) := by
  show execUnloadTakeEffect s = _
  simp only [execUnloadTakeEffect, walkerBusy_eq_false hw, hy, Option.any_some, hu, State.unloadGram]
  rfl

end

/-! ### Grammar and arena commands (R203, R211, R215, R217) -/

/-- What a grammar or arena command leaves that is over without a fault. -/
def State.gramOver (u : State) (k : Nat) : State := ((u.gramDone k 0).answered k).finishCmd k

/-- A command of operation `op` begins: its block has been read. -/
structure State.GramBegins (s : State) (k : Nat) (v : Dword) (op : Nat) (b : List Byte) (e : State) : Prop where
  who : s.ev.who = k
  cmd : s.cmd? k 0x0A8 = some v
  op : gramOpc v = op
  read : readImage k v s = .ok (b, e)

section
variable {s e u z : State} {k : Nat} {v : Dword} {b : List Byte}

theorem exec_grammarLoad {img : List Byte} {fs : List Nat} (h : s.GramBegins k v 0 b e) (hn : rd b 0 1 ≠ 0)
    (hfree : e.grams.find? (rd b 0 1) = none)
    (hr : readGrammar (e.whoSlot k (.issue k)) (dw (rd b 8 8)) e = .ok (some img, z)) (himg : imageOk img = true)
    (hf : z.gramFrames ((img.length + 65535) / 65536) = some (u, fs)) :
    exec .grammarLoad s = .next (State.gramOver { u.copyImage img fs with
      grams := u.grams.put (rd b 0 1) ⟨(e.whoSlot k (.issue k)).tenant, img, fs, false⟩ } k) := by
  obtain rfl := h.who
  show execGrammarLoad s = _
  simp only [execGrammarLoad, h.cmd, h.op]
  refine congrArg _ (runCmd_ok ((bind_ok h.read).trans <| (get_bind ..).trans ?_))
  refine (congrFun (if_neg (by simp [hn, hfree])) e).trans <| (bind_ok hr).trans <| (modify_ok ..).trans ?_
  simp only [himg, hf]
  rfl

theorem exec_grammarUnload {y : Grammar} (h : s.GramBegins k v 1 b e)
    (hy : e.gramFor (e.slot k).tenant (rd b 0 1) = some y) :
    exec .grammarUnload s =
      .next (State.gramOver { e with grams := e.grams.put (rd b 0 1) { y with unloading := true } } k) := by
  obtain rfl := h.who
  show execGrammarUnload s = _
  simp only [execGrammarUnload, h.cmd, h.op]
  refine congrArg _ (runCmd_ok ((bind_ok h.read).trans <| (modify_ok ..).trans ?_))
  simp only [hy]

theorem exec_arenaOpen {i : Nat} (h : s.GramBegins k v 2 b e) (hbase : rd b 0 8 % 65536 = 0) (hlt : rd b 0 8 < 2 ^ 56)
    (hi : findFree (fun i => (e.arenas.find? (dieOf k * 1024 + i)).isNone) 1023 1 = some i) :
    exec .arenaOpen s = .next (State.gramOver
      (({ e with arenas := e.arenas.put (dieOf k * 1024 + i) ⟨(e.slot k).tenant, dw (rd b 0 8), false, 0, none, [], []⟩ }).modSlot
        k fun x => { x with gramstat := setBits x.gramstat 43 32 (dieOf k * 1024 + i) }) k) := by
  obtain rfl := h.who
  show execArenaOpen s = _
  simp only [execArenaOpen, h.cmd, h.op]
  refine congrArg _ (runCmd_ok ((bind_ok h.read).trans <| (modify_ok ..).trans ?_))
  rw [if_neg (by omega)]
  simp only [hi]

theorem exec_arenaClose {a : Arena} (h : s.GramBegins k v 4 b e)
    (ha : e.arenaFor (e.slot k).tenant (rd b 0 2 % 4096) = some a) (hslot : a.slot = none) :
    exec .arenaClose s = .next (State.gramOver { e with arenas := e.arenas.del (rd b 0 2 % 4096) } k) := by
  obtain rfl := h.who
  show execArenaClose s = _
  simp only [execArenaClose, h.cmd, h.op]
  refine congrArg _ (runCmd_ok ((bind_ok h.read).trans <| (modify_ok ..).trans ?_))
  simp only [ha, hslot]
  rfl

/-! ### A commit (R213) -/

/-- The list of a commit of `count` streams has been read. -/
theorem commitStart_ok {a : Arena} {x : List Byte} (hr : readImage k v s = .ok (b, e))
    (ha : e.arenaFor (e.whoSlot k (.issue k)).tenant (rd b 0 2 % 4096) = some a) (hslot : a.slot = none)
    (hpos : 1 ≤ rd b 4 4) (hmax : rd b 4 4 ≤ 1024) (halign : rd b 8 8 % 4 = 0)
    (hx : readMem (e.whoSlot k (.issue k)) (dw (rd b 8 8)) (4 * rd b 4 4) 4 e = .ok (x, z))
    (hids : ∀ i < rd b 4 4, sidOk (rd x (4 * i) 4) = true ∧
      z.streamUsable (rd x (4 * i) 4) (e.whoSlot k (.issue k)).tenant = true) :
    commitStart k v s = .ok (false, { z with arenas := z.arenas.put (rd b 0 2 % 4096) { a with
      slot := some k, ids := (List.range (rd b 4 4)).map fun i => rd x (4 * i) 4, waits := [] } }) := by
  refine (bind_ok hr).trans <| (get_bind ..).trans ?_
  simp only [ha, hslot]
  have hgood : ¬ (rd b 4 4 = 0 ∨ 1024 < rd b 4 4 ∨ rd b 8 8 % 4 ≠ 0) := by omega
  refine (congrFun (if_neg hgood) e).trans ?_
  refine (bind_ok (orFatal_ok (r := (some x, z)) ?read)).trans <| (get_bind ..).trans ?_
  case read => exact (bind_ok hx).trans rfl
  exact congrFun (if_pos (by simpa using hids)) z

theorem commitCopy_ok {t : State} {i : Nat} {a : Arena} {r : Table Nat × List Dword × List (Nat × Nat)} {ws : List Nat}
    (hadv : s.advancing i = false) (hr : copyStacks (s.whoGram k (.issue k)) i a a.ids [] [] s = .ok (r, t))
    (hw : writeMem (s.whoGram k (.issue k)) (nodeAddr a.base (!a.cur) 0) (r.2.1.flatMap fun x => leBytes 8 x.toNat) 5 t =
      .ok (ws, u)) :
    let z := r.2.2.foldl (fun (z : State) p => z.setGcfg p.1 (setBits (scbGcfg (z.scb p.1)) 63 32 p.2)) u
    commitCopy k i a s = .ok ((), { z with arenas := z.arenas.put i { a with
      cur := !a.cur, next := r.2.1.length, ids := [], waits := ws } }) := by
  refine (get_bind ..).trans ?_
  simp only [hadv]
  exact (bind_ok hr).trans <| (bind_ok hw).trans (modify_ok ..)

/-- The first step of a commit leaves the arena COMMITTING. -/
theorem exec_arenaCommit_start (hk : s.ev.who = k) (hc : s.cmd? k 0x0A8 = some v) (hv : gramOpc v = 3)
    (hmy : s.myCommit k = none) (h : commitStart k v s = .ok (false, u)) :
    exec .arenaCommit s = .next (u.answered k) := by
  subst hk
  show execArenaCommit s = _
  simp only [execArenaCommit, hc, hv, hmy, ne_eq, not_true_eq_false, if_false]
  exact congrArg _ (runM_ok (bind_ok h))

theorem exec_arenaCommit_copy {i : Nat} {a : Arena} (hk : s.ev.who = k) (hc : s.cmd? k 0x0A8 = some v) (hv : gramOpc v = 3)
    (hmy : s.myCommit k = some (i, a)) (hids : a.ids ≠ []) (h : commitCopy k i a s = .ok ((), u)) :
    exec .arenaCommit s = .next (u.answered k) := by
  subst hk
  show execArenaCommit s = _
  simp only [execArenaCommit, hc, hv, hmy, ne_eq, not_true_eq_false, if_false, if_pos hids]
  refine congrArg _ (runM_ok (bind_ok (a := false) (t := u) ?_))
  exact (bind_ok h).trans rfl

/-- A commit is over once its copies are visible. -/
theorem exec_arenaCommit_end {i : Nat} {a : Arena} (hk : s.ev.who = k) (hc : s.cmd? k 0x0A8 = some v) (hv : gramOpc v = 3)
    (hmy : s.myCommit k = some (i, a)) (hids : a.ids = [])
    (hw : settleWrites (s.whoGram k (.issue k)) a.waits s = .ok ((), s)) :
    exec .arenaCommit s =
      .next (State.gramOver { s with arenas := s.arenas.put i { a with slot := none, waits := [] } } k) := by
  subst hk
  show execArenaCommit s = _
  simp only [execArenaCommit, hc, hv, hmy, ne_eq, not_true_eq_false, if_false, if_neg (not_not.2 hids)]
  refine congrArg _ (runM_ok ((bind_ok (a := true) ?_).trans rfl))
  exact (bind_ok hw).trans rfl

end

/-! ### The obligation -/

/-- Settles O44: the units' steps, the commands that end in the step that reads their block, and the three steps of a commit. -/
theorem grammarSteps : Obligations.GrammarSteps := by
  intro s k v b hk ok n id count
  subst hk
  refine ⟨fun r rest o bs ws t u => exec_maskWalk, fun r sid hr hd ho hs => ?dead, fun y => exec_unloadTakeEffect,
    fun e hc hr => ?begins, fun i a hc hv hmy => ⟨fun r t ws u hids hadv hr hw => ?copy, exec_arenaCommit_end rfl hc hv hmy⟩⟩
  case dead => exact exec_grammarDeadStop hr hd ho hs
  case begins =>
    intro w free
    have hb {op : Nat} (hv : gramOpc v = op) : s.GramBegins s.ev.who v op b e := ⟨rfl, hc, hv, hr⟩
    exact ⟨fun img z u fs hv => exec_grammarLoad (hb hv), fun y hv => exec_grammarUnload (hb hv),
      fun i hv => exec_arenaOpen (hb hv), fun a hv => exec_arenaClose (hb hv),
      fun a x z hv hmy ha hslot hpos hmax halign hx hids =>
        exec_arenaCommit_start rfl hc hv hmy (commitStart_ok hr ha hslot hpos hmax halign hx hids)⟩
  case copy => exact exec_arenaCommit_copy rfl hc hv hmy hids (commitCopy_ok hadv hr hw)

end Sys2Proof.Machine
end

section
/-! ATT and COMPACT: the steps of their commands, and what ATT leaves in the accumulators (R225–R228, R440, R441, R448). -/

namespace Sys2Proof

/-! ### Bytes of the accumulator store (R255) -/

/-- A sorted table gives for a key the entry that it lists. -/
theorem Table.find?_eq_some_iff {α : Type} {t : Table α} (h : Table.sorted t = true) (k : Nat) (v : α) :
    Table.find? t k = some v ↔ (k, v) ∈ t := by
  rw [Table.sorted_iff] at h
  induction t with
  | nil => simp [Table.find?]
  | cons y t ih =>
    obtain ⟨a, u⟩ := y
    obtain ⟨hlt, ht⟩ := List.pairwise_cons.1 h
    have hgt (hk : (k, v) ∈ t) : a < k := hlt _ hk
    rw [Table.find?, List.mem_cons, ← ih ht, Prod.mk.injEq]
    split
    · subst a
      have hnone : Table.find? t k ≠ some v := fun e => lt_irrefl k (hgt ((ih ht).1 e))
      simp only [Option.some.injEq, true_and, hnone, or_false, eq_comm]
    · split
      · have hnone : Table.find? t k ≠ some v := fun e => lt_asymm ‹k < a› (hgt ((ih ht).1 e))
        simp only [reduceCtorEq, hnone, or_false, false_iff, not_and]
        omega
      · simp only [iff_or_self, and_imp]
        omega

namespace Machine

/-- A byte outside a replaced range reads as before. -/
theorem readByte_replaceMem_apart {m img : Memory} {lo n j : Nat} (hm : m.wf = true) (hi : img.wf = true)
    (hn : ∀ x ∈ img, x.1 < n) (hj : j < lo ∨ lo + n ≤ j) : (replaceMem m lo n img).readByte j = m.readByte j := by
  have hw := wf_replaceMem lo n hm hi hn
  simp only [Memory.wf, Bool.and_eq_true] at hm hw
  have hfind : Table.find? (replaceMem m lo n img) j = Table.find? m j := by
    refine Option.ext fun v => ?_
    rw [Table.find?_eq_some_iff hw.1, Table.find?_eq_some_iff hm.1]
    have himg : ¬ ∃ a ∈ img, (lo + a.1, a.2) = (j, v) := by
      rintro ⟨a, ha, he⟩
      have hlt := hn a ha
      have hkey := congrArg Prod.fst he
      dsimp only at hkey
      omega
    simp only [replaceMem, List.mem_append, List.mem_map, himg, or_false, List.mem_filter, decide_eq_true_eq, ← and_or_left]
    exact and_iff_left hj
  rw [Memory.readByte, Memory.readByte, Table.getD, Table.getD, hfind]

theorem readBytes_replaceMem_apart {m img : Memory} {lo n a k : Nat} (hm : m.wf = true) (hi : img.wf = true)
    (hn : ∀ x ∈ img, x.1 < n) (ha : a + k ≤ lo ∨ lo + n ≤ a) :
    (replaceMem m lo n img).readBytes a k = m.readBytes a k := by
  refine List.ext_getElem (by simp only [length_readBytes]) fun i hlt _ => ?_
  rw [length_readBytes] at hlt
  rw [getElem_readBytes, getElem_readBytes, readByte_replaceMem_apart hm hi hn (by omega)]

/-- Bytes within a range that is read. -/
theorem readBytes_within (m : Memory) (a : Nat) {n k l : Nat} (h : k + n ≤ l) :
    m.readBytes (a + k) n = ((m.readBytes a l).drop k).take n := by
  refine List.ext_getElem (by simp only [length_readBytes, List.length_take, List.length_drop]; omega) fun i hi _ => ?_
  rw [List.getElem_take, List.getElem_drop, getElem_readBytes, getElem_readBytes, Nat.add_assoc]

theorem take_leBytes {n k : Nat} (h : n ≤ k) (v : Nat) : (leBytes k v).take n = leBytes n v := by
  induction n generalizing k v with
  | zero => rfl
  | succ n ih =>
    cases k with
    | zero => exact absurd h (Nat.not_succ_le_zero n)
    | succ k => exact congrArg _ (ih (Nat.le_of_succ_le_succ h) _)

/-- The low bytes of a number that is written with more of them. -/
theorem rd_leBytes_low {n k : Nat} (h : n ≤ k) (v : Nat) (bs : List Byte) : rd (leBytes k v ++ bs) 0 n = v % 256 ^ n := by
  rw [rd, List.drop_zero, List.take_append_of_le_length (by simpa only [Laws.length_leBytes] using h), take_leBytes h, leNat_leBytes]

theorem rd_append_leBytes {n k off : Nat} (h : n ≤ k) (v : Nat) {bs : List Byte} (hb : bs.length = off) :
    rd (bs ++ leBytes k v) off n = v % 256 ^ n := by
  rw [rd, List.drop_left' hb, take_leBytes h, leNat_leBytes]

/-! ### Writes to a slot -/

/-- Writes to slot `i` of a cluster, each an offset with its bytes. -/
def State.writeAccs (s : State) (cl i : Nat) (ws : List (Nat × List Byte)) : State :=
  ws.foldl (fun s w => s.writeAcc cl i w.1 w.2) s

/-- The bytes of a write stand. -/
def State.AccHolds (s : State) (cl i : Nat) (w : Nat × List Byte) : Prop :=
  s.acc.readBytes (accKey cl i + w.1) w.2.length = w.2

/-- Two writes share no byte. -/
def Apart (a b : Nat × List Byte) : Prop := a.1 + a.2.length ≤ b.1 ∨ b.1 + b.2.length ≤ a.1

section
variable {s : State} {cl i : Nat} {w a : Nat × List Byte} {ws : List (Nat × List Byte)}

theorem writeAccs_eq (s : State) (cl i : Nat) (ws : List (Nat × List Byte)) :
    s.writeAccs cl i ws = { s with acc := (s.writeAccs cl i ws).acc } := by
  induction ws generalizing s with
  | nil => rfl
  | cons w ws ih => exact ih (s.writeAcc cl i w.1 w.2)

theorem wf_writeAccs (h : s.acc.wf = true) : (s.writeAccs cl i ws).acc.wf = true := by
  induction ws generalizing s with
  | nil => exact h
  | cons w ws ih => exact ih (Memory.wf_writeBytes _ _ h)

theorem State.AccHolds.writeAcc (h : s.acc.wf = true) (hs : s.AccHolds cl i w) (ha : a = w ∨ Apart a w) :
    (s.writeAcc cl i a.1 a.2).AccHolds cl i w := by
  rcases ha with rfl | ha
  · exact readBytes_writeBytes_same _ _ h
  · refine (readBytes_writeBytes_apart h ?_).trans hs
    rcases ha with ha | ha <;> omega

theorem State.AccHolds.writeAccs (h : s.acc.wf = true) (hs : s.AccHolds cl i w) (ha : ∀ a ∈ ws, a = w ∨ Apart a w) :
    (s.writeAccs cl i ws).AccHolds cl i w := by
  induction ws generalizing s with
  | nil => exact hs
  | cons a ws ih =>
    obtain ⟨h1, h2⟩ := List.forall_mem_cons.1 ha
    exact ih (Memory.wf_writeBytes _ _ h) (hs.writeAcc h h1) h2

/-- A write stands after all of them where no other one shares a byte with it. -/
theorem accHolds_of_mem (h : s.acc.wf = true) (hw : w ∈ ws) (ha : ∀ a ∈ ws, a = w ∨ Apart a w) :
    (s.writeAccs cl i ws).AccHolds cl i w := by
  induction ws generalizing s with
  | nil => nomatch hw
  | cons a ws ih =>
    obtain ⟨h1, h2⟩ := List.forall_mem_cons.1 ha
    have hwf := Memory.wf_writeBytes (accKey cl i + a.1) a.2 h
    rcases List.mem_cons.1 hw with rfl | hw
    · exact State.AccHolds.writeAccs (s := s.writeAcc cl i w.1 w.2) hwf (readBytes_writeBytes_same _ _ h) h2
    · exact ih hwf hw h2

/-- What is read within a write that stands. -/
theorem State.AccHolds.readAcc (h : s.AccHolds cl i w) {k n : Nat} (hk : k + n ≤ w.2.length) :
    s.readAcc cl i (w.1 + k) n = rd w.2 k n := by
  rw [State.readAcc, ← Nat.add_assoc, readBytes_within _ _ hk, h, rd]

theorem State.AccHolds.readAcc_leBytes {off n v : Nat} (h : s.AccHolds cl i (off, leBytes n v)) :
    s.readAcc cl i off n = v % 256 ^ n := by
  rw [State.AccHolds, Laws.length_leBytes] at h
  rw [State.readAcc, h, leNat_leBytes]

end

/-! ### The rows of ATT (R226, R441) -/

/-- A value of a row's output over the row's sum, in FP32 (R226). -/
def attNorm (c : Fp.Fmt) (l o : Nat) : Nat := if (c.val l).isZero then 0 else Fp.f32.rne (Fp.vdiv (c.val o) (c.val l))

/-- The bytes of a value of the output: a carry, or after the last block an FP32 number. -/
def outSize (c : Fp.Fmt) (last : Bool) : Nat := if last then 4 else c.width / 8

/-- The write of a row's maximum and sum. -/
def sumWrite (c : Fp.Fmt) (r : Nat) (x : AttRow) : Nat × List Byte := (carryM c r, leBytes 8 x.m ++ leBytes 8 x.l)

/-- The write of value `j` of a row's output. -/
def outWrite (c : Fp.Fmt) (last : Bool) (r j l o : Nat) : Nat × List Byte :=
  (r * (128 * outSize c last) + j * outSize c last, leBytes (outSize c last) (if last then attNorm c l o else o))

/-- The writes of a row, and those of the rows `out` of a command. -/
def rowWrites (c : Fp.Fmt) (last : Bool) (r : Nat) (x : AttRow) : List (Nat × List Byte) :=
  sumWrite c r x :: x.o.zipIdx.map fun z => outWrite c last r z.2 x.l z.1
def rowsWrites (c : Fp.Fmt) (last : Bool) (n : Nat) (out : Nat → AttRow) : List (Nat × List Byte) :=
  (List.range n).flatMap fun r => rowWrites c last r (out r)

section
variable {s : State} {m : Cmd} {c : Fp.Fmt} {last : Bool} {n r j : Nat} {out : Nat → AttRow} {a b : Nat × List Byte}

theorem putRow_eq (s : State) (m : Cmd) (c : Fp.Fmt) (last : Bool) (r : Nat) (x : AttRow) :
    s.putRow m c last r x = s.writeAccs m.cluster m.w.acc (rowWrites c last r x) := by
  simp only [State.putRow, State.writeAccs, rowWrites, List.foldl_cons, List.foldl_map, outWrite, outSize]
  cases last <;> rfl

theorem zipIdx_map_range {α : Type} (f : Nat → α) (n : Nat) :
    ((List.range n).map f).zipIdx = (List.range n).map fun r => (f r, r) :=
  List.ext_getElem (by simp) fun i _ _ => by simp

theorem putRows_eq (s : State) (m : Cmd) (last : Bool) (n : Nat) (out : Nat → AttRow) :
    s.putRows m last ((List.range n).map out) =
      let t := s.writeAccs m.cluster m.w.acc (rowsWrites m.carry last n out)
      if last && m.w.modeBit 6 then { t with acc := replaceMem t.acc (accKey m.cluster (m.w.acc + 1)) 65536 [] } else t := by
  have hfold : (((List.range n).map out).zipIdx.foldl (fun s p => s.putRow m m.carry last p.2 p.1) s) =
      s.writeAccs m.cluster m.w.acc (rowsWrites m.carry last n out) := by
    simp only [zipIdx_map_range, List.foldl_map, putRow_eq, State.writeAccs, rowsWrites, List.foldl_flatMap]
  rw [State.putRows, hfold]

theorem mem_rowsWrites : a ∈ rowsWrites c last n out ↔ ∃ r < n,
    a = sumWrite c r (out r) ∨ ∃ j v, (out r).o[j]? = some v ∧ a = outWrite c last r j (out r).l v := by
  simp only [rowsWrites, rowWrites, List.mem_flatMap, List.mem_range, List.mem_cons, List.mem_map, Prod.exists,
    List.mem_zipIdx_iff_getElem?]
  refine exists_congr fun r => and_congr_right fun _ => or_congr_right ⟨?_, ?_⟩
  · rintro ⟨v, j, hv, rfl⟩
    exact ⟨j, v, hv, rfl⟩
  · rintro ⟨j, v, hv, rfl⟩
    exact ⟨v, j, hv, rfl⟩

theorem length_sumWrite (c : Fp.Fmt) (r : Nat) (x : AttRow) : (sumWrite c r x).2.length = 16 := by
  simp [sumWrite, Laws.length_leBytes]

theorem length_outWrite (c : Fp.Fmt) (last : Bool) (r j l o : Nat) : (outWrite c last r j l o).2.length = outSize c last :=
  Laws.length_leBytes ..

theorem carry_width (m : Cmd) : m.carry.width = 32 ∨ m.carry.width = 64 := by
  unfold Cmd.carry
  split
  · exact .inr rfl
  · exact .inl rfl

/-- The sums of the rows begin where the outputs of 128 rows end, or later. -/
theorem carryM_base (hc : c.width = 32 ∨ c.width = 64) (last : Bool) : ∃ base, (∀ r, carryM c r = base + r * 16) ∧
    (outSize c last = 4 ∧ 65536 ≤ base ∨ outSize c last = 8 ∧ 131072 ≤ base) := by
  refine ⟨(if c.width = 32 then 1 else 2) * 65536, fun r => rfl, ?_⟩
  rcases hc with h | h <;> cases last <;> simp [outSize, h]

/-- The bytes of each value of each row's output, and of each row's sum, are its own. -/
theorem rowsWrites_apart (hc : c.width = 32 ∨ c.width = 64) (hn : n ≤ 128) (ho : ∀ r < n, (out r).o.length ≤ 128)
    (ha : a ∈ rowsWrites c last n out) (hb : b ∈ rowsWrites c last n out) : a = b ∨ Apart a b := by
  obtain ⟨base, hbase, hsize⟩ := carryM_base hc last
  have hlt {r j v : Nat} (hr : r < n) (hv : (out r).o[j]? = some v) : j < 128 :=
    (List.getElem?_eq_some_iff.1 hv).1.trans_le (ho r hr)
  obtain ⟨r, hr, rfl | ⟨j, v, hv, rfl⟩⟩ := mem_rowsWrites.1 ha <;>
    obtain ⟨q, hq, rfl | ⟨i, w, hw, rfl⟩⟩ := mem_rowsWrites.1 hb <;>
    simp only [Apart, length_sumWrite, length_outWrite]
  case inl.inl =>
    by_cases h : r = q
    · exact .inl (by rw [h])
    · simp only [sumWrite, hbase]
      omega
  case inl.inr =>
    have := hlt hq hw
    simp only [sumWrite, outWrite, hbase]
    rcases hsize with ⟨h, h2⟩ | ⟨h, h2⟩ <;> rw [h] <;> omega
  case inr.inl =>
    have := hlt hr hv
    simp only [sumWrite, outWrite, hbase]
    rcases hsize with ⟨h, h2⟩ | ⟨h, h2⟩ <;> rw [h] <;> omega
  case inr.inr =>
    have hj := hlt hr hv
    have hi := hlt hq hw
    by_cases h : r = q ∧ j = i
    · obtain ⟨rfl, rfl⟩ := h
      exact .inl (by rw [Option.some.inj (hv.symm.trans hw)])
    · simp only [outWrite]
      rcases hsize with ⟨h, h2⟩ | ⟨h, h2⟩ <;> rw [h] <;> omega

/-- With binary64 carries, the last rows leave slot ACC + 1 free: their outputs end before it, and their sums begin after it. -/
theorem rowsWrites_apart_next (hc : c.width = 64) (hn : n ≤ 128) (ho : ∀ r < n, (out r).o.length ≤ 128)
    (ha : a ∈ rowsWrites c true n out) : a.1 + a.2.length ≤ 65536 ∨ 131072 ≤ a.1 := by
  obtain ⟨r, hr, rfl | ⟨j, v, hv, rfl⟩⟩ := mem_rowsWrites.1 ha
  · refine .inr ?_
    rw [sumWrite, carryM, if_neg (by omega)]
    omega
  · have hj := (List.getElem?_eq_some_iff.1 hv).1.trans_le (ho r hr)
    refine .inl ?_
    rw [length_outWrite]
    simp only [outWrite, outSize, if_true]
    omega

theorem putRows_holds (hs : s.acc.wf = true) (hn : n ≤ 128) (ho : ∀ r < n, (out r).o.length ≤ 128)
    (ha : a ∈ rowsWrites m.carry last n out) :
    (s.putRows m last ((List.range n).map out)).AccHolds m.cluster m.w.acc a := by
  have hw := accHolds_of_mem (cl := m.cluster) (i := m.w.acc) hs ha fun b hb => rowsWrites_apart (carry_width m) hn ho hb ha
  rw [putRows_eq]
  dsimp only
  split
  next hz =>
    simp only [Bool.and_eq_true] at hz
    obtain ⟨rfl, h6⟩ := hz
    have hfree := rowsWrites_apart_next (by simp only [Cmd.carry, h6]; rfl) hn ho ha
    refine (readBytes_replaceMem_apart (wf_writeAccs hs) rfl (List.forall_mem_nil _) ?_).trans hw
    simp only [accKey]
    omega
  next => exact hw

theorem putRows_frame (s : State) (m : Cmd) (last : Bool) (n : Nat) (out : Nat → AttRow) :
    ∃ acc, s.putRows m last ((List.range n).map out) = { s with acc := acc } := by
  rw [putRows_eq, writeAccs_eq]
  dsimp only
  split
  · exact ⟨_, rfl⟩
  · exact ⟨_, rfl⟩

theorem wf_putRows (h : s.acc.wf = true) : (s.putRows m last ((List.range n).map out)).acc.wf = true := by
  rw [putRows_eq]
  dsimp only
  split
  · exact wf_replaceMem _ _ (wf_writeAccs h) rfl (List.forall_mem_nil _)
  · exact wf_writeAccs h

/-- The slots hold a row of a command (R226, R441): its maximum, its sum, and its carries or after the last block its normalised
values. -/
def State.HoldsRow (y : State) (m : Cmd) (last : Prop) (hdim r : Nat) (x : AttRow) : Prop :=
  y.readAcc m.cluster m.w.acc (carryM m.carry r) 4 = x.m % 2 ^ 32 ∧
  y.readAcc m.cluster m.w.acc (carryM m.carry r + 8) (m.carry.width / 8) = x.l % 2 ^ m.carry.width ∧
  ∀ j, j < hdim →
    (¬ last →
      y.readAcc m.cluster m.w.acc (carryO m.carry r j) (m.carry.width / 8) = x.o.getD j 0 % 2 ^ m.carry.width) ∧
    (last → y.readAcc m.cluster m.w.acc (r * 512 + j * 4) 4 = attNorm m.carry x.l (x.o.getD j 0) % 2 ^ 32)

theorem putRows_holdsRow {hdim : Nat} (hs : s.acc.wf = true) (hn : n ≤ 128) (hd : hdim ≤ 128)
    (ho : ∀ r < n, (out r).o.length = hdim) (hr : r < n) :
    (s.putRows m last ((List.range n).map out)).HoldsRow m (last = true) hdim r (out r) := by
  obtain rfl := ho r hr
  have hle (q : Nat) (hq : q < n) : (out q).o.length ≤ 128 := (ho q hq).trans_le hd
  have hw := carry_width m
  have hpow : 256 ^ (m.carry.width / 8) = 2 ^ m.carry.width := by rcases hw with h | h <;> rw [h] <;> rfl
  have hsum := putRows_holds (m := m) (last := last) hs hn hle (mem_rowsWrites.2 ⟨r, hr, .inl rfl⟩)
  have hout {j : Nat} (hj : j < (out r).o.length) := putRows_holds (m := m) (last := last) hs hn hle
    (mem_rowsWrites.2 ⟨r, hr, .inr ⟨j, _, List.getElem?_eq_getElem hj, rfl⟩⟩)
  refine ⟨?max, ?sum, fun j hj => ⟨fun hl => ?out, fun hl => ?norm⟩⟩
  case max =>
    have h := hsum.readAcc (k := 0) (n := 4) (by rw [length_sumWrite]; omega)
    rwa [Nat.add_zero, sumWrite, rd_leBytes_low (by omega)] at h
  case sum =>
    refine (hsum.readAcc (k := 8) (by rw [length_sumWrite]; omega)).trans ?_
    rw [sumWrite, rd_append_leBytes (by omega) _ (Laws.length_leBytes ..), hpow]
  case out =>
    have hj' := hout hj
    rw [Bool.not_eq_true] at hl
    subst hl
    rw [List.getD_eq_getElem _ _ hj, ← hpow]
    exact hj'.readAcc_leBytes
  case norm =>
    have hj' := hout hj
    subst hl
    rw [List.getD_eq_getElem _ _ hj, show 2 ^ 32 = 256 ^ 4 from rfl]
    exact hj'.readAcc_leBytes

end

/-! ### The step of a command (R426) -/

/-- A command of an opcode runs: it has started, it is not over, and its core holds the lease where it needs one (R252). -/
def State.Runs (s : State) (op : Nat) (m : Cmd) : Prop :=
  s.cmdOf s.ev.who = some m ∧ m.op = op ∧ m.started = true ∧ m.accepted = true ∧ m.done = none ∧
    (m.q = 0 → (s.core m.core).leaseHeld = true)

/-- A step of a command gets past its start, which leaves `u`. -/
structure State.TileRuns (s : State) (op : Nat) (start : Cmd → Run) (m : Cmd) (u : State) : Prop where
  who : s.cmdOf s.ev.who = some m
  op : m.op = op
  done : m.done = none
  accepted : m.accepted = true
  gate : (if m.started then m.q == 0 && !(s.core m.core).leaseHeld else !s.canStart m) = false
  first : (if m.started = true then pure none else do
      settleWrites m.who ((s.regionPeers m).map peerWrite)
      start m : Run) s = .ok (none, u)

/-- What a command leaves that has done its part of a step: over, or as it stands. -/
def State.closed (t : State) (y : Cmd) (over_ : Bool) : State := if over_ then t.endCmd y 0 0 else t

section
variable {s t u v : State} {m x y : Cmd} {op n : Nat} {start : Cmd → Run} {post : Cmd → Dword → List Byte → M Cmd}
  {after : Cmd → M Bool} {over_ : Bool} {estat fsub : Byte}

theorem n_of_cmdOf (h : s.cmdOf n = some m) : m.n = n := by simpa using List.find?_some h

theorem cmdOf_of_cmds (h : t.cmds = s.cmds) (n : Nat) : t.cmdOf n = s.cmdOf n := by rw [State.cmdOf, State.cmdOf, h]

theorem cmdOf_setCmd (h : s.cmdOf y.n = some x) : (s.setCmd y).cmdOf y.n = some y := by
  have hkey : (fun z : Cmd => decide ((if z.n = y.n then y else z).n = y.n)) = fun z => decide (z.n = y.n) := by
    funext z
    by_cases h : z.n = y.n
    · simp only [h, if_true]
    · rw [if_neg h]
  have hmap := List.find?_map (p := fun z : Cmd => decide (z.n = y.n)) (f := fun z => if z.n = y.n then y else z) (l := s.cmds)
  refine hmap.trans ?_
  show Option.map _ (s.cmds.find? fun z : Cmd => decide ((if z.n = y.n then y else z).n = y.n)) = _
  rw [hkey]
  exact (congrArg _ h).trans (congrArg some (if_pos (n_of_cmdOf h)))

theorem State.Runs.cmdOf (h : s.Runs op m) : s.cmdOf m.n = some m := by
  rw [n_of_cmdOf h.1]
  exact h.1

theorem State.Starts.cmdOf (h : s.Starts op m) : s.cmdOf m.n = some m := by
  rw [n_of_cmdOf h.1]
  exact h.1

theorem State.Starts.done (h : s.Starts op m) : m.done = none := by
  obtain ⟨-, -, hdone, -⟩ := h
  exact hdone

theorem State.Runs.done (h : s.Runs op m) : m.done = none := by
  obtain ⟨-, -, -, -, hdone, -⟩ := h
  exact hdone

theorem State.Starts.tileRuns (h : s.Starts op m) (hs : start m s = .ok (none, u)) : s.TileRuns op start m u := by
  have hfirst := tileStart_ok h hs
  obtain ⟨hwho, hop, hdone, hacc, hstarted, hcan, -⟩ := h
  exact ⟨hwho, hop, hdone, hacc, by simp [hstarted, hcan], hfirst⟩

theorem State.Runs.tileRuns (h : s.Runs op m) : s.TileRuns op start m s := by
  obtain ⟨hwho, hop, hstarted, hacc, hdone, hlease⟩ := h
  refine ⟨hwho, hop, hdone, hacc, ?_, congrFun (if_pos hstarted) s⟩
  rw [if_pos hstarted, Bool.and_eq_false_imp]
  intro hq
  simp [hlease (by simpa using hq)]

/-- A command without writes to make goes on by its parts, until one of them says that it is over. -/
theorem State.TileRuns.runTile_eq (h : s.TileRuns op start m u) (hx : u.cmdOf m.n = some x) (hw : x.todo = [])
    (ha : after x u = .ok (over_, t)) (hy : over_ = true → t.cmdOf m.n = some y) :
    runTile op start post after s = (t.closed y over_).afterTile m.n := by
  have hfirst := h.first
  simp only [runTile, h.who, h.op, h.done, h.accepted]
  rw [if_neg (by simp), if_neg (Bool.eq_false_iff.1 h.gate)]
  refine runM_ok ((bind_ok hfirst).trans ((bind_ok (getCmd_ok hx)).trans ?_))
  rw [hw]
  refine (bind_ok ha).trans ?_
  cases over_ with
  | false => rfl
  | true => exact (bind_ok (getCmd_ok (hy rfl))).trans rfl

/-! ### What the end of a command leaves unchanged (R251, R428) -/

/-- Nothing but the clusters is another. -/
def ClustersOnly (s t : State) : Prop := ∃ cs, t = { s with clusters := cs }

theorem ClustersOnly.modRing {cl : Nat} {f : Ring → Ring} (h : ClustersOnly s t) : ClustersOnly s (t.modRing cl n f) := by
  obtain ⟨cs, rfl⟩ := h
  exact ⟨_, rfl⟩

/-- The end of a command changes its cluster's rings only. -/
theorem clustersOnly_retireRings (s : State) (m : Cmd) : ClustersOnly s (s.retireRings m) := by
  have hfold {t : State} (h : ClustersOnly s t) (rs : List Nat) :
      ClustersOnly s (rs.foldl (fun s r => s.modRing m.cluster m.w.ringB fun x => x.written r) t) := by
    induction rs generalizing t with
    | nil => exact h
    | cons r rs ih => exact ih h.modRing
  have h := hfold ⟨s.clusters, rfl⟩ m.resv
  unfold State.retireRings
  dsimp only
  split_ifs
  · exact h.modRing
  · exact h.modRing.modRing
  · exact h.modRing
  · exact h.modRing
  · exact h

/-- A command that is over. -/
def Cmd.ended (m : Cmd) (estat fsub : Byte) : Cmd :=
  { m with
    started := true, done := some (estat, fsub), todo := [], resv := []
    counts := if m.w.notify && m.w.w6.getLsbD 11 then (if m.op = 0x13 then m.counts else [(m.cluster, m.bytes)]) else [] }

theorem endCmd_eq (s : State) (m : Cmd) (estat fsub : Byte) : ∃ cs,
    let t := ({ s with clusters := cs }.setCmd (m.ended estat fsub)).dropFault (.cmd m.n)
    s.endCmd m estat fsub = if m.q = 0 then t.modCore m.core fun c => { c with leaseIdle := 0 } else t := by
  obtain ⟨cs, h⟩ := clustersOnly_retireRings s m
  refine ⟨cs, ?_⟩
  rw [State.endCmd, h]
  rfl

theorem sameMemory_endCmd (s : State) (m : Cmd) (estat fsub : Byte) : SameMemory s (s.endCmd m estat fsub) := by
  obtain ⟨cs, h⟩ := endCmd_eq s m estat fsub
  rw [h]
  split
  · exact ⟨rfl, rfl, rfl, rfl⟩
  · exact ⟨rfl, rfl, rfl, rfl⟩

theorem endCmd_scbs (s : State) (m : Cmd) (estat fsub : Byte) : (s.endCmd m estat fsub).scbs = s.scbs := by
  obtain ⟨cs, h⟩ := endCmd_eq s m estat fsub
  rw [h]
  split
  · rfl
  · rfl

theorem endCmd_attuf (s : State) (m : Cmd) (estat fsub : Byte) (c : Nat) :
    ((s.endCmd m estat fsub).core c).attuf = (s.core c).attuf := by
  obtain ⟨cs, h⟩ := endCmd_eq s m estat fsub
  rw [h]
  split
  · rw [State.modCore_eq, State.core_setCore]
    split
    · subst c
      rfl
    · rfl
  · rfl

theorem cmdOf_endCmd (h : s.cmdOf m.n = some x) : (s.endCmd m estat fsub).cmdOf m.n = some (m.ended estat fsub) := by
  obtain ⟨cs, he⟩ := endCmd_eq s m estat fsub
  have hset := cmdOf_setCmd (s := { s with clusters := cs }) (y := m.ended estat fsub) h
  rw [he]
  split
  · exact hset
  · exact hset

theorem sameMemory_closed (t : State) (y : Cmd) (over_ : Bool) (n : Nat) : SameMemory t ((t.closed y over_).afterTile n) := by
  cases over_ with
  | false => exact ⟨rfl, rfl, rfl, rfl⟩
  | true =>
    obtain ⟨hmem, hls, hfe, hacc⟩ := sameMemory_endCmd t y 0 0
    exact ⟨hmem, hls, hfe, hacc⟩

theorem closed_attuf (t : State) (y : Cmd) (over_ : Bool) (n c : Nat) :
    (((t.closed y over_).afterTile n).core c).attuf = (t.core c).attuf := by
  cases over_ with
  | false => rfl
  | true => exact endCmd_attuf t y 0 0 c

theorem cmdOf_closed (h : t.cmdOf y.n = some y) :
    ((t.closed y over_).afterTile n).cmdOf y.n = some (if over_ = true then y.ended 0 0 else y) := by
  cases over_ with
  | false => exact h
  | true => exact cmdOf_endCmd h

end

/-! ### ATT goes on by its blocks (R226, R227, R440, R441) -/

theorem kvHeader_hdim_le {addr : Nat} {head : List Byte} {t : KvTab} (h : kvHeader addr head = some t) : t.hdim ≤ 128 := by
  unfold kvHeader at h
  dsimp only at h
  split at h
  next hc =>
    simp only [Bool.and_eq_true, Bool.or_eq_true, beq_iff_eq, and_assoc] at hc
    obtain rfl := Option.some.inj h
    obtain ⟨-, hdim, -⟩ := hc
    rcases hdim with h64 | h128
    · exact h64.le.trans (by decide)
    · exact h128.le
  next => cases h

theorem attWork_hdim_le {m : Cmd} {t : KvTab} {len : Nat} {is : List Nat} {rows : Option (List Nat)}
    (h : m.attWork = some (t, len, is, rows)) : t.hdim ≤ 128 := by
  obtain ⟨u, hu, he⟩ := Option.map_eq_some_iff.1 h
  obtain rfl : u = t := congrArg Prod.fst he
  exact kvHeader_hdim_le hu

/-- A block leaves a row with as many values of the output. -/
theorem length_block (a : AttJob) (t : KvTab) (b : Nat × List Byte) (r : Nat) (row : AttRow) :
    (a.block t b r row).1.o.length = row.o.length := by
  unfold AttJob.block AttJob.step
  dsimp only
  split
  · rfl
  · simp only [List.length_map, List.length_zipIdx]

/-- A row after a block, and how many probabilities flushed to zero. -/
def State.attOut (v : State) (x : Cmd) (t : KvTab) (a : AttJob) (k : Nat × List Byte) (r : Nat) : AttRow × Nat :=
  a.block t k r (v.attRow x x.carry t.hdim r)

theorem length_attOut (v : State) (x : Cmd) (t : KvTab) (a : AttJob) (k : Nat × List Byte) (r : Nat) :
    (v.attOut x t a k r).1.o.length = t.hdim := by
  rw [State.attOut, length_block, State.attRow, List.length_map, List.length_range]

/-- What the first pass over a block leaves but for the command: its rows, and the flushed probabilities in ATTUF. -/
def State.attFold (v : State) (x : Cmd) (t : KvTab) (a : AttJob) (k : Nat × List Byte) (last : Bool) : State :=
  (v.putRows x last ((List.range x.nrow).map fun r => (v.attOut x t a k r).1)).modCore x.core fun c =>
    { c with attuf := dw (min (2 ^ 64 - 1) (c.attuf.toNat + ((List.range x.nrow).map fun r => (v.attOut x t a k r).2).sum)) }

/-- The command after the first pass over a block, whether that normalises the rows, and whether it ends the command. -/
def Cmd.folded (x : Cmd) (t : KvTab) : Cmd :=
  { x with part := x.part + 1, count := if x.w.modeBit 5 && t.scores != 0 then 0 else x.part + 1 }
def Cmd.foldNorms (x : Cmd) (is : List Nat) : Bool := decide (x.part + 1 = is.length) && x.w.modeBit 4
def Cmd.foldEnds (x : Cmd) (t : KvTab) (is : List Nat) : Bool :=
  decide (x.part + 1 = is.length) && !(x.w.modeBit 5 && t.scores != 0)

/-- The command after the second pass over a block, which leaves it these score adds to make. -/
def Cmd.rescored (x : Cmd) (is : List Nat) (adds : List (Dword × List Byte)) : Cmd :=
  { x with part := x.part + 1, todo := adds, count := x.part - is.length }

section
variable {s u v : State} {m x : Cmd} {t : KvTab} {len : Nat} {is : List Nat} {rows : Option (List Nat)} {k : Nat × List Byte}

theorem attRows_outs (v : State) (x : Cmd) (t : KvTab) (a : AttJob) (k : Nat × List Byte) :
    ((v.attRows x t).zipIdx.map fun p => a.block t k p.2 p.1) = (List.range x.nrow).map (v.attOut x t a k) := by
  rw [State.attRows, zipIdx_map_range, List.map_map]
  rfl

/-- Both passes have been made. -/
theorem afterAtt_over (hwk : x.attWork = some (t, len, is, rows)) (hp : x.part = 2 * is.length) :
    afterAtt x u = .ok (true, u.setCmd { x with count := is.length }) := by
  unfold afterAtt
  rw [hwk]
  exact (congrFun (if_pos hp) u).trans rfl

theorem afterAtt_lost (hwk : x.attWork = some (t, len, is, rows)) (hp : x.part < 2 * is.length)
    (hb : attBlock x t (is.getD (x.part % is.length) 0) u = .ok (none, v)) :
    afterAtt x u = .ok (false, v.endCmd x 0x11 0) := by
  unfold afterAtt
  rw [hwk]
  exact (congrFun (if_neg hp.ne) u).trans ((bind_ok hb).trans rfl)

theorem afterAtt_fold (hwk : x.attWork = some (t, len, is, rows)) (hp : x.part < is.length)
    (hb : attBlock x t (is.getD (x.part % is.length) 0) u = .ok (some k, v)) :
    afterAtt x u =
      .ok (x.foldEnds t is, (v.attFold x t (v.attJob x t len rows) k (x.foldNorms is)).setCmd (x.folded t)) := by
  unfold afterAtt
  rw [hwk]
  refine (congrFun (if_neg (by omega)) u).trans ((bind_ok hb).trans ((get_bind ..).trans ((congrFun (if_pos hp) v).trans ?_)))
  rw [attRows_outs, List.map_map, List.map_map]
  rfl

theorem afterAtt_scores (hwk : x.attWork = some (t, len, is, rows)) (hp : x.part < 2 * is.length) (hle : is.length ≤ x.part)
    (hb : attBlock x t (is.getD (x.part % is.length) 0) u = .ok (some k, v)) :
    afterAtt x u = .ok (false, v.setCmd (x.rescored is ((v.attJob x t len rows).adds t k (v.attRows x t)))) := by
  unfold afterAtt
  rw [hwk]
  refine (congrFun (if_neg hp.ne) u).trans ((bind_ok hb).trans ((get_bind ..).trans ?_))
  exact (congrFun (if_neg (by omega)) v).trans rfl

theorem foldNorms_eq (x : Cmd) (is : List Nat) : (x.foldNorms is = true) = (x.part + 1 = is.length ∧ x.w.modeBit 4 = true) := by
  simp only [Cmd.foldNorms, Bool.and_eq_true, decide_eq_true_eq]

theorem foldEnds_eq (x : Cmd) (t : KvTab) (is : List Nat) :
    (x.foldEnds t is = true) = (x.part + 1 = is.length ∧ (x.w.modeBit 5 && t.scores != 0) = false) := by
  simp only [Cmd.foldEnds, Bool.and_eq_true, decide_eq_true_eq, Bool.not_eq_true']

/-! ### What a fold leaves -/

theorem attFold_frame (v : State) (x : Cmd) (t : KvTab) (a : AttJob) (k : Nat × List Byte) (last : Bool) :
    (v.attFold x t a k last).mem = v.mem ∧ (v.attFold x t a k last).ls = v.ls ∧ (v.attFold x t a k last).cmds = v.cmds := by
  obtain ⟨acc, h⟩ := putRows_frame v x last x.nrow fun r => (v.attOut x t a k r).1
  rw [State.attFold, h]
  exact ⟨rfl, rfl, rfl⟩

theorem attFold_attuf (v : State) (x : Cmd) (t : KvTab) (a : AttJob) (k : Nat × List Byte) (last : Bool) :
    ((v.attFold x t a k last).core x.core).attuf = dw (min (2 ^ 64 - 1)
      ((v.core x.core).attuf.toNat + ((List.range x.nrow).map fun r => (v.attOut x t a k r).2).sum)) := by
  obtain ⟨acc, h⟩ := putRows_frame v x last x.nrow fun r => (v.attOut x t a k r).1
  rw [State.attFold, h, State.modCore_eq, State.core_setCore, if_pos rfl]
  rfl

theorem State.HoldsRow.of_acc {y z : State} {last : Prop} {hdim r : Nat} {o : AttRow} (h : y.HoldsRow m last hdim r o)
    (he : z.acc = y.acc) : z.HoldsRow m last hdim r o := by
  have hread : z.readAcc = y.readAcc := by
    funext cl i off n
    rw [State.readAcc, State.readAcc, he]
  unfold State.HoldsRow
  rw [hread]
  exact h

theorem attFold_holdsRow {a : AttJob} {last : Bool} {r : Nat} (hs : v.acc.wf = true) (hn : x.nrow ≤ 128) (hd : t.hdim ≤ 128)
    (hr : r < x.nrow) : (v.attFold x t a k last).HoldsRow x (last = true) t.hdim r (v.attOut x t a k r).1 :=
  State.HoldsRow.of_acc (putRows_holdsRow hs hn hd (fun r _ => length_attOut v x t a k r) hr) rfl

/-! ### Steps of ATT -/

theorem exec_att_over (h : s.Runs 6 m) (hw : m.todo = []) (hwk : m.attWork = some (t, len, is, rows))
    (hp : m.part = 2 * is.length) : ∃ y, exec .att s = .next y ∧ y.Over m is.length ∧ SameMemory s y := by
  have hset := cmdOf_setCmd (y := { m with count := is.length }) h.cmdOf
  refine ⟨_, congrArg Host.Outcome.next (h.tileRuns.runTile_eq h.cmdOf hw (afterAtt_over hwk hp) fun _ => hset), ?_, ?_⟩
  · exact congrArg _ (cmdOf_closed (over_ := true) hset)
  · obtain ⟨hmem, hls, hfe, hacc⟩ :=
      sameMemory_closed (s.setCmd { m with count := is.length }) { m with count := is.length } true m.n
    exact ⟨hmem, hls, hfe, hacc⟩

/-- What a step of ATT is given that goes on with a block: the command stands as `x` in state `u`, with its work. -/
structure State.AttGoesOn (s : State) (m x : Cmd) (u : State) (t : KvTab) (len : Nat) (is : List Nat) (rows : Option (List Nat)) :
    Prop where
  runs : s.TileRuns 6 startAtt m u
  same : x.n = m.n
  cmd : u.cmdOf m.n = some x
  todo : x.todo = []
  done : x.done = none
  work : x.attWork = some (t, len, is, rows)
  part : x.part < 2 * is.length

theorem exec_att_lost (h : s.AttGoesOn m x u t len is rows) (hb : attBlock x t (is.getD (x.part % is.length) 0) u = .ok (none, v))
    (hv : v.cmds = u.cmds) :
    ∃ y, exec .att s = .next y ∧ (y.cmdOf x.n).map (·.done) = some (some (0x11, 0)) := by
  have hend : (v.endCmd x 0x11 0).cmdOf x.n = some (x.ended 0x11 0) :=
    cmdOf_endCmd ((cmdOf_of_cmds hv _).trans (h.same ▸ h.cmd))
  refine ⟨_, congrArg Host.Outcome.next
    (h.runs.runTile_eq h.cmd h.todo (afterAtt_lost h.work h.part hb) (y := x) nofun), ?_⟩
  exact congrArg _ hend

theorem exec_att_fold (h : s.AttGoesOn m x u t len is rows) (hb : attBlock x t (is.getD (x.part % is.length) 0) u = .ok (some k, v))
    (hv : v.cmds = u.cmds) (hp : x.part < is.length) (hs : v.acc.wf = true) (hn : x.nrow ≤ 128) :
    let scored := x.w.modeBit 5 && t.scores != 0
    let a := v.attJob x t len rows
    ∃ y, exec .att s = .next y ∧ y.mem = v.mem ∧ y.ls = v.ls ∧
      (y.cmdOf x.n).map (fun z => (z.done, z.part, z.count)) =
        some (if x.part + 1 = is.length ∧ scored = false then some (0, 0) else none, x.part + 1,
          if scored then 0 else x.part + 1) ∧
      (y.core x.core).attuf = dw (min (2 ^ 64 - 1)
        ((v.core x.core).attuf.toNat + ((List.range x.nrow).map fun r => (v.attOut x t a k r).2).sum)) ∧
      ∀ r < x.nrow, y.HoldsRow x (x.part + 1 = is.length ∧ x.w.modeBit 4 = true) t.hdim r (v.attOut x t a k r).1 := by
  intro scored a
  obtain ⟨hzmem, hzls, hzcmds⟩ := attFold_frame v x t a k (x.foldNorms is)
  obtain ⟨hmem, hls, -, hacc⟩ :=
    sameMemory_closed ((v.attFold x t a k (x.foldNorms is)).setCmd (x.folded t)) (x.folded t) (x.foldEnds t is) m.n
  have hset : ((v.attFold x t a k (x.foldNorms is)).setCmd (x.folded t)).cmdOf x.n = some (x.folded t) :=
    cmdOf_setCmd (y := x.folded t) ((cmdOf_of_cmds (hzcmds.trans hv) _).trans (h.same ▸ h.cmd))
  refine ⟨_, congrArg Host.Outcome.next (h.runs.runTile_eq h.cmd h.todo (afterAtt_fold h.work hp hb) fun _ => h.same ▸ hset),
    hmem.trans hzmem, hls.trans hzls, ?cmd, (closed_attuf ..).trans (attFold_attuf ..), fun r hr => ?rows⟩
  case cmd =>
    refine (congrArg _ (cmdOf_closed (over_ := x.foldEnds t is) hset)).trans ?_
    simp only [foldEnds_eq, Option.map_some]
    split
    · rfl
    · rw [← h.done]
      rfl
  case rows => exact foldNorms_eq x is ▸ (attFold_holdsRow hs hn (attWork_hdim_le h.work) hr).of_acc hacc

theorem exec_att_scores (h : s.AttGoesOn m x u t len is rows)
    (hb : attBlock x t (is.getD (x.part % is.length) 0) u = .ok (some k, v)) (hv : v.cmds = u.cmds) (hle : is.length ≤ x.part) :
    ∃ y, exec .att s = .next y ∧ y.mem = v.mem ∧ y.ls = v.ls ∧ y.acc = v.acc ∧
      (y.cmdOf x.n).map (fun z => (z.done, z.part, z.count, z.todo)) =
        some (none, x.part + 1, x.part - is.length, (v.attJob x t len rows).adds t k (v.attRows x t)) := by
  have hset : (v.setCmd (x.rescored is ((v.attJob x t len rows).adds t k (v.attRows x t)))).cmdOf x.n = some _ :=
    cmdOf_setCmd (y := x.rescored is _) ((cmdOf_of_cmds hv _).trans (h.same ▸ h.cmd))
  refine ⟨_, congrArg Host.Outcome.next
    (h.runs.runTile_eq h.cmd h.todo (afterAtt_scores h.work h.part hle hb) (y := x) nofun), rfl, rfl, rfl, ?_⟩
  rw [← h.done]
  exact congrArg _ hset

end

/-! ### ATT begins (R441) -/

/-- What the start of ATT finds: its stream, table, range and entries stand, and its tree is one (R441). -/
structure State.AttBegins (s : State) (m : Cmd) (t : KvTab) (head ids par : List Byte) (s1 s2 s3 : State) : Prop where
  tiles : s.tilesThere m = true
  sid : sidOk m.w.w1.toNat = true
  usable : s.streamUsable m.w.w1.toNat m.tenant = true
  read : readMem m.whoSid (windowAddr (scbKvtab (s.scb m.w.w1.toNat))) 64 4 s = .ok (head, s1)
  header : kvHeader (scbKvtab (s.scb m.w.w1.toNat)) head = some t
  layer : rd (m.recs.getD 0 []) 0 2 < t.layers
  group : rd (m.recs.getD 0 []) 2 1 < t.groups
  fits : m.nrow * t.hdim * 2 ≤ 2 ^ ((s.ringOf m.cluster m.w.ringA).slotsz + 6)
  range : attRange m t (m.recs.getD 0 []) s1 = .ok (some (ids, par), s2)
  valid : entriesValid m.whoSid
    ((wordsOf ids).map fun i => t.entryAddr (rd (m.recs.getD 0 []) 0 2) (rd (m.recs.getD 0 []) 2 1) i) s2 = .ok (true, s3)
  tree : attTreeRows par ≠ none

/-- ATT once it has started, and the carries that FIRST starts anew. -/
def State.attStarted (s : State) (m : Cmd) (head ids par : List Byte) : Cmd :=
  { m with
    stream := some m.w.w1.toNat, started := true, todo := [], count := 0
    recs := [m.recs.getD 0 [], leBytes 8 (scbKvtab (s.scb m.w.w1.toNat)) ++ leBytes 4 (scbKvlen (s.scb m.w.w1.toNat)), head, ids, par] }
def State.attOpened (s : State) (m : Cmd) (t : KvTab) : State :=
  if m.w.modeBit 3 then s.putRows m false (List.replicate m.nrow ⟨negInf, 0, List.replicate t.hdim 0⟩) else s

section
variable {s s1 s2 s3 : State} {m : Cmd} {t : KvTab} {head ids par : List Byte}

theorem startAtt_ok (h : s.AttBegins m t head ids par s1 s2 s3) :
    startAtt m s = .ok (none, (s3.attOpened m t).setCmd (s.attStarted m head ids par)) := by
  refine (get_bind ..).trans ?_
  refine (congrFun (if_neg (by simp [h.tiles])) s).trans ?_
  refine (congrFun (if_neg (by simp [h.sid, h.usable])) s).trans ?_
  refine (bind_ok h.read).trans ?_
  rw [h.header]
  have hlayer := h.layer
  have hgroup := h.group
  have hfits := h.fits
  rw [Cmd.nrow] at hfits
  refine (congrFun (if_neg (by omega)) s1).trans ?_
  refine (bind_ok h.range).trans <| (bind_ok h.valid).trans <| (congrFun (if_neg (by simp)) s3).trans ?_
  refine (congrFun (if_neg (by simpa using h.tree)) s3).trans ?_
  unfold State.attOpened
  split
  · exact (bind_ok (modify_ok _ _)).trans rfl
  · rfl

theorem attOpened_cmds (s : State) (m : Cmd) (t : KvTab) : (s.attOpened m t).cmds = s.cmds := by
  unfold State.attOpened
  split
  · obtain ⟨acc, h⟩ := putRows_frame s m false m.nrow fun _ => ⟨negInf, 0, List.replicate t.hdim 0⟩
    rw [List.map_const', List.length_range] at h
    rw [h]
  · rfl

theorem wf_attOpened (h : s.acc.wf = true) : (s.attOpened m t).acc.wf = true := by
  unfold State.attOpened
  split
  · have hw := wf_putRows (m := m) (last := false) (n := m.nrow) (out := fun _ => ⟨negInf, 0, List.replicate t.hdim 0⟩) h
    rwa [List.map_const', List.length_range] at hw
  · exact h

/-- What ATT goes on with is what its start found. -/
theorem attWork_attStarted (h : kvHeader (scbKvtab (s.scb m.w.w1.toNat)) head = some t) :
    (s.attStarted m head ids par).attWork =
      some (t, scbKvlen (s.scb m.w.w1.toNat), wordsOf ids, if par = [] then none else attTreeRows par) := by
  have haddr : rd (leBytes 8 (scbKvtab (s.scb m.w.w1.toNat)) ++ leBytes 4 (scbKvlen (s.scb m.w.w1.toNat))) 0 8 =
      scbKvtab (s.scb m.w.w1.toNat) :=
    (rd_leBytes_low (by decide) ..).trans (Nat.mod_eq_of_lt (rd_lt ..))
  have hlen : rd (leBytes 8 (scbKvtab (s.scb m.w.w1.toNat)) ++ leBytes 4 (scbKvlen (s.scb m.w.w1.toNat))) 8 4 =
      scbKvlen (s.scb m.w.w1.toNat) :=
    (rd_append_leBytes (by decide) _ (Laws.length_leBytes ..)).trans (Nat.mod_eq_of_lt (rd_lt ..))
  simp only [Cmd.attWork, State.attStarted, List.getD_cons_zero, List.getD_cons_succ, haddr, hlen, h, Option.map_some]

theorem attGoesOn_of_starts (h : s.Starts 6 m) (hb : s.AttBegins m t head ids par s1 s2 s3) (hc : s3.cmds = s.cmds)
    (hp : m.part < 2 * (wordsOf ids).length) :
    s.AttGoesOn m (s.attStarted m head ids par) ((s3.attOpened m t).setCmd (s.attStarted m head ids par)) t
      (scbKvlen (s.scb m.w.w1.toNat)) (wordsOf ids) (if par = [] then none else attTreeRows par) where
  runs := h.tileRuns (startAtt_ok hb)
  same := rfl
  cmd := cmdOf_setCmd (y := s.attStarted m head ids par) ((cmdOf_of_cmds ((attOpened_cmds s3 m t).trans hc) m.n).trans h.cmdOf)
  todo := rfl
  done := h.done
  work := attWork_attStarted hb.header
  part := hp

theorem attGoesOn_of_runs {len : Nat} {is : List Nat} {rows : Option (List Nat)} (h : s.Runs 6 m) (hw : m.todo = [])
    (hwk : m.attWork = some (t, len, is, rows)) (hp : m.part < 2 * is.length) : s.AttGoesOn m m s t len is rows where
  runs := h.tileRuns
  same := rfl
  cmd := h.cmdOf
  todo := hw
  done := h.done
  work := hwk
  part := hp

end

/-! ### Writes of a command (R227, R426) -/

section
variable {s t u v : State} {m x y : Cmd} {va : Dword} {bs : List Byte} {rest : List (Dword × List Byte)}

theorem State.Runs.runTile_post {op : Nat} {start : Cmd → Run} {post : Cmd → Dword → List Byte → M Cmd} {after : Cmd → M Bool}
    (h : s.Runs op m) (hw : m.todo = (va, bs) :: rest) (hp : post m va bs s = .ok (y, t)) :
    runTile op start post after s = (t.setCmd { y with todo := rest }).afterTile m.n := by
  have hn := h.cmdOf
  obtain ⟨hwho, hop, hstarted, hacc, hdone, hlease⟩ := h
  exact Machine.runTile_post hwho hop hdone hacc hstarted hlease hn hw hp

/-- What a score add leaves of its command. -/
def Cmd.scoreAdded (m : Cmd) (bs : List Byte) (k : Nat) : Cmd :=
  { m with bytes := m.bytes + bs.length, pending := if k = 0 then m.pending else m.pending ++ [k] }

theorem postScore_mem {pa k : Nat} (hp : placeWrite m.who va bs.length 2 s = .ok (.mem pa, u))
    (hw : homeWrite m.who (.mem pa) (leBytes bs.length (Fp.f32.add (leNat (u.readHome pa bs.length)) (leNat bs))) u = .ok (k, v)) :
    postScore m va bs s = .ok (m.scoreAdded bs k, v) :=
  (bind_ok hp).trans ((get_bind ..).trans ((bind_ok hw).trans rfl))

/-- A score add is one step at its home. -/
theorem exec_att_score {pa k : Nat} (h : s.Runs 6 m) (hw : m.todo = (va, bs) :: rest)
    (hp : placeWrite m.who va bs.length 2 s = .ok (.mem pa, u))
    (hk : homeWrite m.who (.mem pa) (leBytes bs.length (Fp.f32.add (leNat (u.readHome pa bs.length)) (leNat bs))) u = .ok (k, v)) :
    exec .att s = .next ((v.setCmd { m.scoreAdded bs k with todo := rest }).afterTile m.n) :=
  congrArg Host.Outcome.next (h.runTile_post hw (postScore_mem hp hk))

end

/-! ### COMPACT (R228, R448) -/

/-- The layers and groups of a table. -/
def KvTab.pairs (t : KvTab) : List (Nat × Nat) := (List.range t.layers).flatMap fun y => (List.range t.groups).map fun g => (y, g)

/-- The positions that a COMPACT keeps, from the bytes of its list. -/
def Cmd.kept (m : Cmd) (l : List Byte) : List Nat := (List.range m.w.w5.toNat).map fun i => rd l (4 * i) 4

/-- The scores of the kept positions, packed, from those of a stream of `kvlen` tokens. -/
def Cmd.keptScores (m : Cmd) (l b : List Byte) (kvlen : Nat) : List Byte :=
  ((m.kept l).flatMap fun k => (b.drop (4 * k)).take 4) ++ List.replicate (4 * (kvlen - m.w.w5.toNat)) 0

/-- What the start of COMPACT finds: its checks pass, its blocks are allocated and the old ones are read (R448). -/
structure State.CompactBegins (s : State) (m : Cmd) (t : KvTab) (head l b : List Byte) (new : List (List Nat))
    (r : List (Dword × List Byte) × List Dword) (s1 s2 s3 u x y : State) : Prop where
  sid : sidOk m.w.w1.toNat = true
  usable : s.streamUsable m.w.w1.toNat m.tenant = true
  read : readMem m.whoSid (windowAddr (scbKvtab (s.scb m.w.w1.toNat))) 64 4 s = .ok (head, s1)
  header : kvHeader (scbKvtab (s.scb m.w.w1.toNat)) head = some t
  used : ceilDiv (scbKvlen (s.scb m.w.w1.toNat)) t.tokens ≤ t.maxblk
  valid : entriesValid m.whoSid (t.pairs.flatMap fun p =>
    (List.range (ceilDiv (scbKvlen (s.scb m.w.w1.toNat)) t.tokens)).map fun i => t.entryAddr p.1 p.2 i) s1 = .ok (true, s2)
  list : readMem m.who (dw m.w.a34) (4 * m.w.w5.toNat) 4 s2 = .ok (l, s3)
  rises : ascending (m.kept l) = true
  below : ∀ i ∈ m.kept l, i < scbKvlen (s.scb m.w.w1.toNat)
  alloc : allocAll m.whoSid t (m.w.w2.toNat % 4) (ceilDiv m.w.w5.toNat t.tokens) t.pairs.length s3 = .ok (some new, u)
  pack : compactAll m.whoSid t (scbKvlen (s.scb m.w.w1.toNat)) (m.kept l) (m.w.w2.toNat % 4) (m.w.w2.toNat / 4 % 4)
    (t.pairs.zip new) u = .ok (r, x)
  scores : if t.scores = 0 then y = x
    else readMem m.whoSid (windowAddr t.scores) (4 * scbKvlen (s.scb m.w.w1.toNat)) 4 x = .ok (b, y)

/-- The writes that COMPACT has to make: its blocks and entries, and the packed scores where there are any. -/
def KvTab.compactWrites (t : KvTab) (ws : List (Dword × List Byte)) (out : List Byte) : List (Dword × List Byte) :=
  ws ++ (if t.scores = 0 then [] else [(windowAddr t.scores, out)]).filter fun x => !x.2.isEmpty

theorem compactWrites_eq (t : KvTab) (ws : List (Dword × List Byte)) (out : List Byte) :
    t.compactWrites ws out = ws ++ if t.scores = 0 ∨ out = [] then [] else [(windowAddr t.scores, out)] := by
  rw [KvTab.compactWrites]
  by_cases h0 : t.scores = 0
  · rw [if_pos h0, if_pos (.inl h0), List.filter_nil]
  · cases out with
    | nil => rw [if_neg h0, if_pos (.inr rfl)]; rfl
    | cons b bs => rw [if_neg h0, if_neg (by simp [h0])]; rfl

section
variable {s s1 s2 s3 u x y : State} {m : Cmd} {t : KvTab} {head l b : List Byte} {new : List (List Nat)}
  {r : List (Dword × List Byte) × List Dword}

/-- COMPACT once it has started. -/
def State.compactStarted (s : State) (m : Cmd) (t : KvTab) (head l b : List Byte) (r : List (Dword × List Byte) × List Dword) : Cmd :=
  { m with
    stream := some m.w.w1.toNat, started := true, count := 0
    recs := [leBytes 8 (scbKvtab (s.scb m.w.w1.toNat)), head], acc := r.2.map fun e => (e.toNat, 0)
    todo := t.compactWrites r.1 (m.keptScores l b (scbKvlen (s.scb m.w.w1.toNat))) }

theorem startCompact_ok (h : s.CompactBegins m t head l b new r s1 s2 s3 u x y) :
    startCompact m s = .ok (none, y.setCmd (s.compactStarted m t head l b r)) := by
  refine (get_bind ..).trans ?_
  refine (congrFun (if_neg (by simp [h.sid, h.usable])) s).trans ?_
  refine (bind_ok h.read).trans ?_
  rw [h.header]
  refine (congrFun (if_neg (by simpa using h.used)) s1).trans ?_
  refine (bind_ok h.valid).trans <| (congrFun (if_neg (by simp)) s2).trans <| (bind_ok h.list).trans ?_
  have hkeep : ¬ (!(ascending (m.kept l) && (m.kept l).all (· < scbKvlen (s.scb m.w.w1.toNat)))) = true := by
    simpa [h.rises] using h.below
  refine (congrFun (if_neg hkeep) s3).trans <| (get_bind ..).trans <| (bind_ok h.alloc).trans <| (bind_ok h.pack).trans ?_
  have hs := h.scores
  unfold State.compactStarted KvTab.compactWrites
  by_cases h0 : t.scores = 0
  · rw [if_pos h0] at hs ⊢
    subst hs
    rw [if_pos h0]
    rfl
  · rw [if_neg h0] at hs ⊢
    rw [if_neg h0]
    exact (bind_ok ((bind_ok hs).trans rfl)).trans rfl

theorem exec_compact_start (h : s.Starts 0x17 m) (hb : s.CompactBegins m t head l b new r s1 s2 s3 u x y) (hy : y.cmdOf m.n = some m)
    (hw : t.compactWrites r.1 (m.keptScores l b (scbKvlen (s.scb m.w.w1.toNat))) ≠ []) :
    exec .compact s = .next ((y.setCmd (s.compactStarted m t head l b r)).afterTile m.n) := by
  obtain ⟨⟨va, bs⟩, rest, hcons⟩ := List.exists_cons_of_ne_nil hw
  exact congrArg Host.Outcome.next (runTile_start h (startCompact_ok hb) (cmdOf_setCmd (y := s.compactStarted m t head l b r) hy) hcons)

theorem performed_of_pending (hp : ∀ i ∈ m.pending, 2 ^ 64 ≤ i ∨ s.madePerformed i = true) :
    ¬ (!m.pending.all fun n => decide (2 ^ 64 ≤ n) || s.madePerformed n) = true := by
  rw [Bool.not_eq_true, Bool.not_eq_false', List.all_eq_true]
  exact fun i hi => by simpa only [Bool.or_eq_true, decide_eq_true_eq] using hp i hi

/-- The count of one old block goes down. -/
theorem afterCompact_lower {e : Nat × Nat} {rest : List (Nat × Nat)} (hp : ∀ i ∈ m.pending, 2 ^ 64 ≤ i ∨ s.madePerformed i = true)
    (ha : m.acc = e :: rest) (ht : kvHeader (rd (m.recs.getD 0 []) 0 8) (m.recs.getD 1 []) = some t)
    (hl : lowerEntry m.who t (dw e.1) s = .ok ((), u)) :
    afterCompact m s = .ok (false, u.setCmd { m with acc := rest }) := by
  refine (get_bind ..).trans ?_
  refine (congrFun (if_neg (performed_of_pending hp)) s).trans ?_
  rw [ha, ht]
  exact (bind_ok (orFatal_ok hl)).trans rfl

/-- KVLEN follows when no count is left to lower and the writes have settled. -/
theorem afterCompact_over (hp : ∀ i ∈ m.pending, 2 ^ 64 ≤ i ∨ s.madePerformed i = true) (ha : m.acc = [])
    (hw : settleWrites m.who m.pending s = .ok ((), s)) :
    afterCompact m s = .ok (true, (s.scbStep m.w.w1.toNat fun r => wr r 0x58 4 m.w.w5.toNat).setCmd
      { m with acc := [], count := m.w.w5.toNat }) := by
  refine (get_bind ..).trans ?_
  refine (congrFun (if_neg (performed_of_pending hp)) s).trans ?_
  rw [ha]
  exact (bind_ok hw).trans rfl

theorem exec_compact_lower {e : Nat × Nat} {rest : List (Nat × Nat)} (h : s.Runs 0x17 m) (hw : m.todo = [])
    (hp : ∀ i ∈ m.pending, 2 ^ 64 ≤ i ∨ s.madePerformed i = true) (ha : m.acc = e :: rest)
    (ht : kvHeader (rd (m.recs.getD 0 []) 0 8) (m.recs.getD 1 []) = some t) (hl : lowerEntry m.who t (dw e.1) s = .ok ((), u)) :
    exec .compact s = .next ((u.setCmd { m with acc := rest }).afterTile m.n) :=
  congrArg Host.Outcome.next (h.tileRuns.runTile_eq h.cmdOf hw (afterCompact_lower hp ha ht hl) (y := m) nofun)

theorem scbStep_cmds (s : State) (id : Nat) (f : List Byte → List Byte) : (s.scbStep id f).cmds = s.cmds := by
  have hboard (z : State) (r r' : List Byte) : (z.boardMove id r r').cmds = z.cmds := by
    unfold State.boardMove
    split_ifs
    · rfl
    · rfl
    · rfl
  simp only [State.scbStep]
  split
  · exact hboard ..
  · exact hboard ..

theorem exec_compact_over (h : s.Runs 0x17 m) (hw : m.todo = []) (hp : ∀ i ∈ m.pending, 2 ^ 64 ≤ i ∨ s.madePerformed i = true)
    (ha : m.acc = []) (hs : settleWrites m.who m.pending s = .ok ((), s)) :
    ∃ v, exec .compact s = .next v ∧ v.Over m m.w.w5.toNat ∧
      v.scbs = (s.scbStep m.w.w1.toNat fun r => wr r 0x58 4 m.w.w5.toNat).scbs := by
  have hset := cmdOf_setCmd (y := { m with acc := [], count := m.w.w5.toNat })
    ((cmdOf_of_cmds (scbStep_cmds s m.w.w1.toNat fun r => wr r 0x58 4 m.w.w5.toNat) m.n).trans h.cmdOf)
  refine ⟨_, congrArg Host.Outcome.next (h.tileRuns.runTile_eq h.cmdOf hw (afterCompact_over hp ha hs) fun _ => hset), ?_, ?_⟩
  · exact congrArg _ (cmdOf_closed (over_ := true) hset)
  · exact endCmd_scbs ..

end

/-! ### The obligation -/

/-- Settles O42: each step by the part of the command that it does; ATT's first step and its later ones go on with a block alike. -/
theorem attentionCommands : Obligations.AttentionCommands := by
  intro s m sid d w n c addr kvlen held runs cleaned
  refine ⟨?att, fun t len is rows h hw hwk hp => exec_att_over h hw hwk hp,
    fun va bs rest pa k u v h hw hp hk => exec_att_score h hw hp hk,
    ?compact,
    fun va bs rest x u h hw hp => congrArg Host.Outcome.next (State.Runs.runTile_post h hw hp),
    fun h hw hp => ⟨fun e rest t u ha ht hl => exec_compact_lower h hw hp ha ht hl, exec_compact_over h hw hp⟩,
    fun u x va bs rest hx hw h hs => congrArg Host.Outcome.next (runTile_start h hs hx hw),
    fun f u x hx => ⟨fun h hs => congrArg Host.Outcome.next (runTile_fault h hs hx),
      fun h hs => congrArg Host.Outcome.next (runTile_fault h hs hx)⟩⟩
  case att =>
    intro t head ids par len is rows x s1 s2 s3 u v b hgoes hwf hn hne hpart hb hcmds hacc scored a
    rcases hgoes with ⟨h, -, htiles, hsid, huse, hread, hhead, hlayer, hgroup, hfits, hrange, hvalid, hc3, ha3, htree, rfl, rfl, rfl,
      rfl, rfl⟩ | ⟨h, hw, hwk, rfl, rfl⟩
    · have hg := attGoesOn_of_starts h
        ⟨htiles, hsid, huse, hread, hhead, hlayer, hgroup, hfits, hrange, hvalid, htree⟩ hc3 hpart
      have hv : v.acc.wf = true := hacc ▸ wf_attOpened (ha3 ▸ hwf)
      have hlost (hk : b = none) := exec_att_lost hg (hk ▸ hb) hcmds
      have hfold k (hk : b = some k) hlt := exec_att_fold hg (hk ▸ hb) hcmds hlt hv hn
      have hscores k (hk : b = some k) hle := exec_att_scores hg (hk ▸ hb) hcmds hle
      exact ⟨hlost, hfold, hscores⟩
    · have hg := attGoesOn_of_runs h hw hwk hpart
      exact ⟨fun hk => exec_att_lost hg (hk ▸ hb) hcmds,
        fun k hk hlt => exec_att_fold hg (hk ▸ hb) hcmds hlt (hacc ▸ hwf) hn,
        fun k hk hle => exec_att_scores hg (hk ▸ hb) hcmds hle⟩
  case compact =>
    intro head t l new s1 s2 s3 u x y r b pairs keep die out todo h hsid huse hread hhead hused hvalid hlist hrises hbelow halloc
      hpack hscores hy htodo
    have hwrites : t.compactWrites r.1 (m.keptScores l b kvlen) = todo := compactWrites_eq ..
    have hset := cmdOf_setCmd (y := s.compactStarted m t head l b r) hy
    refine ⟨_, exec_compact_start h ⟨hsid, huse, hread, hhead, hused, hvalid, hlist, hrises, hbelow, halloc, hpack, hscores⟩ hy
      (hwrites ▸ htodo), rfl, rfl, rfl, (congrArg _ hset).trans ?_⟩
    rw [← hwrites, ← h.done]
    rfl

end Machine
end Sys2Proof
end

section
/-! What ends an issue before the instruction has an effect of its own: a window that is used up, an operand limit, a false guard
and a void register (R239, R240, R244, R309, R313). -/

namespace Sys2Proof.Machine

/-! ### The issue, check by check -/

section
variable {p : Issue} {body : State → State → State} {s : State}

theorem windowsOpen_iff {x : Slot} : x.windowsOpen = true ↔ ∀ o ∈ x.outs, o.after.length < o.la := by
  simp [Slot.windowsOpen]

theorem windowsOpen_eq_false {x : Slot} (h : ∃ o ∈ x.outs, o.la ≤ o.after.length) : x.windowsOpen = false := by
  simpa [Slot.windowsOpen] using h

theorem issue_of_window_used (h : (s.slot s.focus).windowsOpen = false) : issue p body s = .next s := by
  simp [issue, h]

theorem issue_of_illegal {c : IllegalCode} (hw : (s.slot s.focus).windowsOpen = true) (hl : p.instr.illegal = some c) :
    issue p body s = .next (s.raise s.focus { cause := 0x01, sub := c.subcode }) := by
  simp [issue, hw, hl]

/-- A legal instruction passes every check before its guard: no window is used up, it finds room among the outstanding ones, and
no register that it names is empty (R240, R310). -/
structure Issue.Reaches (p : Issue) (s : State) : Prop where
  legal : p.instr.illegal = none
  can   : p.canIssue (s.slot s.focus) = true

theorem Issue.Reaches.windowsOpen (h : p.Reaches s) : (s.slot s.focus).windowsOpen = true := by
  have hc := h.can
  simp only [Issue.canIssue, Bool.and_eq_true] at hc
  obtain ⟨⟨⟨⟨hw, -⟩, -⟩, -⟩, -⟩ := hc
  exact hw

theorem issue_of_guard_false (h : p.Reaches s) (hg : (s.slot s.focus).readP p.guard = false) :
    issue p body s = .next (s.issued p.size (isBarrier p.instr) (isRelease p.instr)) := by
  simp [issue, h.windowsOpen, h.legal, h.can, hg, Issue.step_eq]

theorem issue_of_void {r : RegRef} (h : p.Reaches s) (hg : (s.slot s.focus).readP p.guard = true)
    (hv : p.void? (s.slot s.focus) = some r) : issue p body s = .next (s.raise s.focus { cause := 0x06, sub := r.code }) := by
  simp [issue, h.windowsOpen, h.legal, h.can, hg, hv]

end

/-! ### Instruction words -/

theorem exec_word_of_window_used {i : Instr} {s : State} (hi : isWord i = true) (h : (s.slot s.focus).windowsOpen = false) :
    exec i s = .next s := by
  by_cases hw : ∃ w, i = .illegalWord w
  · obtain ⟨w, rfl⟩ := hw
    rw [exec_illegalWord, execIllegalWord, h]
    rfl
  · obtain ⟨p, body, -, he⟩ := throughIssue_of_isWord hi (fun w hiw => hw ⟨w, hiw⟩) s
    rw [he, issue_of_window_used h]

/-- Only an instruction word has an operand limit (R313). -/
theorem isWord_of_illegal {i : Instr} {c : IllegalCode} (h : i.illegal = some c) : isWord i = true := by
  unfold Instr.illegal at h
  split at h
  case h_69 => exact nomatch h
  all_goals rfl

theorem exec_of_illegal {i : Instr} {c : IllegalCode} {s : State} (hw : (s.slot s.focus).windowsOpen = true)
    (hl : i.illegal = some c) : exec i s = .next (s.raise s.focus { cause := 0x01, sub := c.subcode }) := by
  have hno : ∀ w, i ≠ .illegalWord w := by
    rintro w rfl
    exact nomatch hl
  obtain ⟨p, body, rfl, he⟩ := throughIssue_of_isWord (isWord_of_illegal hl) hno s
  rw [he, issue_of_illegal hw hl]

theorem exec_illegalWord_of_decode {w : Word} {c : IllegalCode} {s : State} (hw : (s.slot s.focus).windowsOpen = true)
    (hd : decodeWord w = .error c) :
    exec (.illegalWord w) s = .next (s.raise s.focus { cause := 0x01, sub := c.subcode }) := by
  simp [exec_illegalWord, execIllegalWord, hw, hd]

/-! ### The registers that an instruction names -/

/-- The meaning of an instruction of one word is an issue under guard `g` that reads and writes these registers. -/
def Names (i : Instr) (g : BitVec 3) (reads writes : List RegRef) : Prop :=
  ∀ s, ∃ p body, exec i s = issue p body s ∧ p.instr = i ∧ p.guard = g ∧ p.size = 4 ∧ p.reads = reads ∧ p.writes = writes

section
variable {d a b : BitVec 5} {g : BitVec 3} {l : BitVec 4} {o : BitVec 9} {t : BitVec 1}

theorem names_add : Names (.add d a b g) g [.g a, .g b] [.g d] := fun s => by
  unfold exec; simp only [execAdd, binG, shortG]; exact ⟨_, _, rfl, rfl, rfl, rfl, rfl, rfl⟩
theorem names_fadd : Names (.fadd d a b g t) g [.g a, .g b] [.g d] := fun s => by
  unfold exec; simp only [execFadd, fp2, binG, shortG]; exact ⟨_, _, rfl, rfl, rfl, rfl, rfl, rfl⟩
theorem names_fmul : Names (.fmul d a b g t) g [.g a, .g b] [.g d] := fun s => by
  unfold exec; simp only [execFmul, fp2, binG, shortG]; exact ⟨_, _, rfl, rfl, rfl, rfl, rfl, rfl⟩
theorem names_mul : Names (.mul d a b g l) g [.g a, .g b] [.g d] := fun s => by
  unfold exec; simp only [execMul, mulDiv, longOp]; exact ⟨_, _, rfl, rfl, rfl, rfl, rfl, rfl⟩
theorem names_jalr {i : BitVec 13} : Names (.jalr d a g i) g [.g a] [.g d] := fun s => by
  unfold exec; simp only [execJalr]; exact ⟨_, _, rfl, rfl, rfl, rfl, rfl, rfl⟩
theorem names_ldd : Names (.ldd d a g l o) g [.g a] [.g d] := fun s => by
  unfold exec; simp only [execLdd, loadG, longOp]; exact ⟨_, _, rfl, rfl, rfl, rfl, rfl, rfl⟩
theorem names_std : Names (.std d a g l o) g [.g a, .g d] [] := fun s => by
  unfold exec; simp only [execStd, storeG, longOp]; exact ⟨_, _, rfl, rfl, rfl, rfl, rfl, rfl⟩
theorem names_ldf : Names (.ldf d a b g l) g [.g a, .g b] [.g d] := fun s => by
  unfold exec; simp only [execLdf, syncLoad, longOp]; exact ⟨_, _, rfl, rfl, rfl, rfl, rfl, rfl⟩
theorem names_msend : Names (.msend d a b g l) g [.g a, .g b] [.g d] := fun s => by
  unfold exec; simp only [execMsend, longOp]; exact ⟨_, _, rfl, rfl, rfl, rfl, rfl, rfl⟩
theorem names_sfork : Names (.sfork d a b g l) g [.g a, .g b] [.g d] := fun s => by
  unfold exec; simp only [execSfork, streamOp, issueLater]; exact ⟨_, _, rfl, rfl, rfl, rfl, rfl, rfl⟩
theorem names_trap {c : BitVec 7} : Names (.trap c g) g [] [] := fun s => by
  unfold exec; simp only [execTrap]; exact ⟨_, _, rfl, rfl, rfl, rfl, rfl, rfl⟩
theorem names_sleep : Names (.sleep a g) g [.g a] [] := fun s => by
  unfold exec; simp only [execSleep]; exact ⟨_, _, rfl, rfl, rfl, rfl, rfl, rfl⟩

end

/-! ### The guard and the void registers (R244, R309) -/

section
variable {s : State} {i : Instr} {g : BitVec 3} {reads writes : List RegRef}

/-- The strand in focus may issue anything of guard `g` whose registers are known, be the guard true or false. -/
structure State.Open (s : State) (g : BitVec 3) : Prop where
  windows : ∀ o ∈ (s.slot s.focus).outs, o.after.length < o.la
  room    : (s.slot s.focus).outs.length < 8
  known   : (s.slot s.focus).ready (.p g) = true

theorem State.Open.reaches {p : Issue} (h : s.Open p.guard) (hl : p.instr.illegal = none)
    (hr : ∀ r ∈ p.reads ++ p.writes, (s.slot s.focus).ready r = true) : p.Reaches s := by
  refine ⟨hl, ?_⟩
  have hroom : decide (8 ≤ (s.slot s.focus).outs.length) = false := by simpa using h.room
  simpa [Issue.canIssue, windowsOpen_iff.2 h.windows, hroom, h.known, or_imp, forall_and] using hr

theorem exec_of_guard_false (hn : Names i g reads writes) (h : s.Open g) (hl : i.illegal = none)
    (hr : ∀ r ∈ reads ++ writes, (s.slot s.focus).ready r = true) (hg : (s.slot s.focus).readP g = false) :
    exec i s = .next (s.issued 4 (isBarrier i) (isRelease i)) := by
  obtain ⟨p, body, he, rfl, rfl, hs, rfl, rfl⟩ := hn s
  rw [he, issue_of_guard_false (h.reaches hl hr) hg, hs]

/-- The first register that an instruction reads is void. -/
theorem exec_of_first_void {a : BitVec 5} {rest : List RegRef} (hn : Names i g (.g a :: rest) writes) (h : s.Open g)
    (hl : i.illegal = none) (hr : ∀ r ∈ rest ++ writes, (s.slot s.focus).ready r = true)
    (hg : (s.slot s.focus).readP g = true) (hv : (s.slot s.focus).gState a = .void) :
    exec i s = .next (s.raise s.focus { cause := 0x06, sub := BitVec.ofNat 8 a.toNat }) := by
  obtain ⟨p, body, he, rfl, rfl, -, hp, rfl⟩ := hn s
  have ha : (s.slot s.focus).ready (.g a) = true := by simp [Slot.ready, hv]
  have hreach : p.Reaches s := h.reaches hl (by simpa [hp, ha] using hr)
  rw [he, issue_of_void hreach hg (r := .g a) (by simp [Issue.void?, hp, Slot.isVoid, hv])]
  rfl

end

/-! ### The obligation -/

/-- Settles O8: each check by what an issue answers where it fails. -/
theorem issueChecks : Obligations.IssueChecks := by
  refine ⟨?window, ?illegal, ?guard, ?void⟩
  case window => exact fun s i hi hw => exec_word_of_window_used hi (windowsOpen_eq_false hw)
  case illegal =>
    exact fun s hw => ⟨fun i c hl => exec_of_illegal (windowsOpen_iff.2 hw) hl,
      fun w c hd => exec_illegalWord_of_decode (windowsOpen_iff.2 hw) hd⟩
  case guard =>
    intro s d a b g l o c hw hroom hg hp ha hb hd
    have h : s.Open g := ⟨hw, hroom, hp⟩
    refine ⟨?add, ?fadd, ?mul, ?ldd, ?std, ?ldf, ?msend, ?sfork, ?trap, ?sleep⟩
    case add => exact exec_of_guard_false names_add h rfl (by simp [ha, hb, hd]) hg
    case fadd => exact exec_of_guard_false names_fadd h rfl (by simp [ha, hb, hd]) hg
    case mul => exact exec_of_guard_false names_mul h rfl (by simp [ha, hb, hd]) hg
    case ldd => exact exec_of_guard_false names_ldd h rfl (by simp [ha, hd]) hg
    case std => exact exec_of_guard_false names_std h rfl (by simp [ha, hd]) hg
    case ldf => exact exec_of_guard_false names_ldf h rfl (by simp [ha, hb, hd]) hg
    case msend => exact exec_of_guard_false names_msend h rfl (by simp [ha, hb, hd]) hg
    case sfork => exact exec_of_guard_false names_sfork h rfl (by simp [ha, hb, hd]) hg
    case trap => exact exec_of_guard_false names_trap h rfl (by simp) hg
    case sleep => exact exec_of_guard_false names_sleep h rfl (by simp [ha]) hg
  case void =>
    intro s d a b g l o hw hroom hg hp hb hd hv
    have h : s.Open g := ⟨hw, hroom, hp⟩
    refine ⟨?add, ?ldd, ?jalr, ?fmul, ?sleep⟩
    case add => exact exec_of_first_void names_add h rfl (by simp [hb, hd]) hg hv
    case ldd => exact exec_of_first_void names_ldd h rfl (by simp [hd]) hg hv
    case jalr => exact exec_of_first_void names_jalr h rfl (by simp [hd]) hg hv
    case fmul => exact exec_of_first_void names_fmul h rfl (by simp [hb, hd]) hg hv
    case sleep => exact exec_of_first_void names_sleep h rfl (by simp) hg hv

end Sys2Proof.Machine
end

section
/-! What the issue of an instruction leaves as it was: of a scalar one that writes a register, and of a long-latency one until its
completion (R239–R241, R310). -/

namespace Sys2Proof.Machine

/-! ### One register written, the others -/

section
variable (x : Slot)

theorem readG_setG_other {n m : BitVec 5} (v : Dword) (h : n ≠ m) : (x.setG m v).readG n = x.readG n := by
  have hne : m.toNat ≠ n.toNat := fun e => h (BitVec.eq_of_toNat_eq e.symm)
  unfold Slot.setG
  split
  · rfl
  · simp [Slot.readG, Vector.get_eq_getElem, Vector.getElem_set_ne, hne]

theorem gState_setG_other {n m : BitVec 5} (v : Dword) (h : n ≠ m) : (x.setG m v).gState n = x.gState n := by
  have hne : m.toNat ≠ n.toNat := fun e => h (BitVec.eq_of_toNat_eq e.symm)
  unfold Slot.setG
  split
  · rfl
  · simp [Slot.gState, Vector.get_eq_getElem, Vector.getElem_set_ne, hne]

theorem readP_setP_other {n m : BitVec 3} (b : Bool) (h : n ≠ m) : (x.setP m b).readP n = x.readP n := by
  have hne : n.toNat ≠ m.toNat := fun e => h (BitVec.eq_of_toNat_eq e)
  unfold Slot.setP
  split
  · rfl
  · have hlt : n.toNat < 8 := n.isLt
    cases b <;> simp [Slot.readP, hne, hlt]

theorem gst_mark_g (m : BitVec 5) (st : RegState) :
    (x.mark_ (.g m) st).gst = if m = 0 then x.gst else x.gst.set m.toNat st m.isLt := by
  simp only [Slot.mark_]
  split <;> rfl

theorem gState_mark (r : RegRef) (st : RegState) (n : BitVec 5) :
    (x.mark_ r st).gState n = if n ≠ 0 ∧ r = .g n then st else x.gState n := by
  cases r with
  | g m =>
    by_cases h0 : n = 0
    · rw [Slot.gState, Slot.gState, if_pos h0, if_pos h0, if_neg fun h => h.1 h0]
    · rw [Slot.gState, Slot.gState, if_neg h0, if_neg h0, gst_mark_g]
      by_cases hn : m = n
      · subst hn
        rw [if_neg h0, if_pos ⟨h0, rfl⟩]
        simp [Vector.get_eq_getElem]
      · have hne : m.toNat ≠ n.toNat := fun e => hn (BitVec.eq_of_toNat_eq e)
        have hno : ¬ (n ≠ 0 ∧ RegRef.g m = .g n) := fun h => hn (RegRef.g.inj h.2)
        rw [if_neg hno]
        split
        · rfl
        · simp [Vector.get_eq_getElem, hne]
  | v m => simp [Slot.mark_, Slot.gState]
  | m m => simp only [Slot.mark_]; split <;> simp [Slot.gState]
  | p m => simp [Slot.mark_]

theorem vState_mark (r : RegRef) (st : RegState) (n : BitVec 3) :
    (x.mark_ r st).vState n = if r = .v n then st else x.vState n := by
  cases r with
  | g m => simp only [Slot.mark_]; split <;> simp [Slot.vState]
  | v m =>
    by_cases hn : m = n
    · subst hn
      simp [Slot.mark_, Slot.vState, Vector.get_eq_getElem]
    · have hne : m.toNat ≠ n.toNat := fun e => hn (BitVec.eq_of_toNat_eq e)
      simp [Slot.mark_, Slot.vState, hn, Vector.get_eq_getElem, Vector.getElem_set_ne, hne]
  | m m => simp only [Slot.mark_]; split <;> simp [Slot.vState]
  | p m => simp [Slot.mark_]

end

/-! ### What an issue moves (R240) -/

section
variable {s t z : State}

/-- Every other slot, every memory, and what the dies hold and have in flight stand as before. -/
def State.SameOthers (s z : State) : Prop :=
  SameMemory s z ∧ (∀ j, j ≠ s.focus → z.slot j = s.slot j) ∧ z.dies = s.dies ∧ z.writes = s.writes ∧ z.timer = s.timer

/-- The vector and mask registers of a slot, its flags and its special registers stand as before. -/
def Slot.SameSpecials (x y : Slot) : Prop :=
  y.v = x.v ∧ y.vst = x.vst ∧ y.m = x.m ∧ y.mst = x.mst ∧ y.mode = x.mode ∧ y.pmode = x.pmode ∧ y.frozen = x.frozen ∧ y.pt = x.pt ∧
    y.trcause = x.trcause ∧ y.trpc = x.trpc ∧ y.traddr = x.traddr ∧ y.trwin = x.trwin ∧ y.trnpc = x.trnpc ∧
    y.trstack = x.trstack ∧ y.timecmp = x.timecmp ∧ y.statesel = x.statesel ∧ y.tenant = x.tenant

theorem State.SameOthers.setSlot (h : s.SameOthers t) (x : Slot) : s.SameOthers (t.setSlot s.focus x) := by
  obtain ⟨⟨hm, hls, hfe, hacc⟩, hslots, hdies, hwrites, htimer⟩ := h
  refine ⟨⟨hm, hls, hfe, hacc⟩, fun j hj => ?_, hdies, hwrites, htimer⟩
  rw [State.slot_setSlot, if_neg hj, hslots j hj]

/-- Of the strand in focus, only what an issue moves is new: no register, flag or special register, and nothing elsewhere. -/
structure State.Moved (s t : State) : Prop where
  others   : s.SameOthers t
  specials : (s.slot s.focus).SameSpecials (t.slot s.focus)
  g        : (t.slot s.focus).g = (s.slot s.focus).g
  gst      : (t.slot s.focus).gst = (s.slot s.focus).gst
  p        : (t.slot s.focus).p = (s.slot s.focus).p

theorem slot_issued (s : State) (size : Nat) (bar rel : Bool) (j : Nat) :
    (s.issued size bar rel).slot j = if j = s.focus then
      { (s.slot s.focus).advance ((s.slot s.focus).replay.getD ((s.slot s.focus).pc + dw size)) with
        bar := if bar then (s.slot s.focus).seq + 1 else (s.slot s.focus).bar
        rel := if rel then (s.slot s.focus).seq + 1 else (s.slot s.focus).rel } else s.slot j := by
  rw [State.issued, State.slot_count, State.modSlot_eq, State.slot_setSlot]

theorem moved_issued (s : State) (size : Nat) (bar rel : Bool) : s.Moved (s.issued size bar rel) where
  others := by
    refine ⟨⟨?_, ?_, ?_, ?_⟩, fun j hj => by rw [slot_issued, if_neg hj], ?_, ?_, ?_⟩ <;> simp [State.issued]
  specials := by
    rw [slot_issued, if_pos rfl]
    simp [Slot.SameSpecials]
  g := by rw [slot_issued, if_pos rfl]; rfl
  gst := by rw [slot_issued, if_pos rfl]; rfl
  p := by rw [slot_issued, if_pos rfl]; rfl

/-- A transfer moves the PC alone (R344). -/
theorem State.Moved.goto (h : s.Moved t) (target : Dword) : s.Moved (s.goto t target) := by
  unfold State.goto
  split
  · exact h
  · obtain ⟨ho, hs, hg, hgst, hp⟩ := h
    rw [State.modSlot_eq]
    refine ⟨ho.setSlot _, ?_, ?_, ?_, ?_⟩ <;> rw [State.slot_setSlot, if_pos rfl]
    · exact hs
    · exact hg
    · exact hgst
    · exact hp

/-! ### A write of one register -/

/-- A general register of the strand in focus may be new beside what an issue moves, and nothing else. -/
def State.WritesG (s z : State) (d : BitVec 5) : Prop :=
  s.SameOthers z ∧ (s.slot s.focus).SameSpecials (z.slot s.focus) ∧ (z.slot s.focus).p = (s.slot s.focus).p ∧
    ∀ n : BitVec 5, n ≠ d → (z.slot s.focus).readG n = (s.slot s.focus).readG n ∧ (z.slot s.focus).gState n = (s.slot s.focus).gState n

/-- A predicate of the strand in focus may be new beside what an issue moves, and nothing else. -/
def State.WritesP (s z : State) (p : BitVec 3) : Prop :=
  s.SameOthers z ∧ (s.slot s.focus).SameSpecials (z.slot s.focus) ∧ (z.slot s.focus).g = (s.slot s.focus).g ∧
    (z.slot s.focus).gst = (s.slot s.focus).gst ∧ ∀ n : BitVec 3, n ≠ p → (z.slot s.focus).readP n = (s.slot s.focus).readP n

theorem State.Moved.readG (h : s.Moved t) (n : BitVec 5) : (t.slot s.focus).readG n = (s.slot s.focus).readG n := by
  rw [Slot.readG, Slot.readG, h.g]

theorem State.Moved.gState (h : s.Moved t) (n : BitVec 5) : (t.slot s.focus).gState n = (s.slot s.focus).gState n := by
  rw [Slot.gState, Slot.gState, h.gst]

theorem State.Moved.readP (h : s.Moved t) (n : BitVec 3) : (t.slot s.focus).readP n = (s.slot s.focus).readP n := by
  rw [Slot.readP, Slot.readP, h.p]

theorem State.Moved.writesG (h : s.Moved t) (d : BitVec 5) : s.WritesG t d :=
  ⟨h.others, h.specials, h.p, fun n _ => ⟨h.readG n, h.gState n⟩⟩

theorem State.Moved.writesP (h : s.Moved t) (p : BitVec 3) : s.WritesP t p :=
  ⟨h.others, h.specials, h.g, h.gst, fun n _ => h.readP n⟩

theorem State.Moved.writeG (h : s.Moved t) (d : BitVec 5) (v : Dword) : s.WritesG (t.writeG s.focus d v) d := by
  rw [State.writeG_eq, State.modSlot_eq]
  refine ⟨h.others.setSlot _, ?_, ?_, fun n hn => ?_⟩ <;> rw [State.slot_setSlot, if_pos rfl]
  · simpa [Slot.SameSpecials] using h.specials
  · rw [Slot.setG_p, h.p]
  · rw [readG_setG_other _ _ hn, gState_setG_other _ _ hn, h.readG, h.gState]
    exact ⟨rfl, rfl⟩

theorem State.Moved.writeP (h : s.Moved t) (p : BitVec 3) (b : Bool) : s.WritesP (t.writeP s.focus p b) p := by
  rw [State.writeP_eq, State.modSlot_eq]
  refine ⟨h.others.setSlot _, ?_, ?_, ?_, fun n hn => ?_⟩ <;> rw [State.slot_setSlot, if_pos rfl]
  · simpa [Slot.SameSpecials] using h.specials
  · rw [Slot.setP_g, h.g]
  · rw [Slot.setP_gst, h.gst]
  · rw [readP_setP_other _ _ hn, h.readP]

end

/-! ### The scalar instructions (R331–R344) -/

section
variable {s : State} {d a b : BitVec 5} {g p : BitVec 3}

/-- An instruction goes through and writes no register but a general one. -/
def State.KeepsG (s : State) (d : BitVec 5) (j : Instr) : Prop := ∃ z, exec j s = .next z ∧ s.WritesG z d

/-- An instruction goes through and writes no register but a predicate. -/
def State.KeepsP (s : State) (p : BitVec 3) (j : Instr) : Prop := ∃ z, exec j s = .next z ∧ s.WritesP z p

theorem shortG_keeps {q : Issue} {f : Slot → Dword} (h : Ready s q.guard q.la.isSome q.reads (.g d :: q.writes))
    (hl : q.instr.illegal = none) (hh : q.hold s = false) (hc : q.check s = none) :
    ∃ z, shortG q d f s = .next z ∧ s.WritesG z d :=
  ⟨_, shortG_ready h hl hh hc, (moved_issued ..).writeG ..⟩

theorem shortP_keeps {q : Issue} {f : Slot → Bool} (h : Ready s q.guard q.la.isSome q.reads (.p p :: q.writes))
    (hl : q.instr.illegal = none) (hh : q.hold s = false) (hc : q.check s = none) :
    ∃ z, shortP q p f s = .next z ∧ s.WritesP z p :=
  ⟨_, shortP_ready h hl hh hc, (moved_issued ..).writeP ..⟩

theorem binG_keeps {i : Instr} {f : Dword → Dword → Dword} (h : Ready s g false [.g a, .g b] [.g d]) (hl : i.illegal = none) :
    ∃ z, binG i d a b g f s = .next z ∧ s.WritesG z d :=
  shortG_keeps (q := { instr := i, guard := g, reads := [.g a, .g b] }) h hl rfl rfl

theorem unG_keeps {i : Instr} {f : Dword → Dword} (h : Ready s g false [.g a] [.g d]) (hl : i.illegal = none) :
    ∃ z, unG i d a g f s = .next z ∧ s.WritesG z d :=
  shortG_keeps (q := { instr := i, guard := g, reads := [.g a] }) h hl rfl rfl

theorem keepsG_binary {t : BitVec 1} (h : Ready s g false [.g a, .g b] [.g d]) : ∀ j ∈ [Instr.add d a b g, .sub d a b g,
    .and d a b g, .or d a b g, .xor d a b g, .shl d a b g, .shr d a b g, .sra d a b g, .min d a b g, .max d a b g, .minn d a b g,
    .maxn d a b g, .extz d a b g, .exts d a b g, .fadd d a b g t, .fsub d a b g t, .fmul d a b g t, .fdiv d a b g t,
    .fmin d a b g t, .fmax d a b g t, .fsgn d a b g t], s.KeepsG d j := by
  simp only [List.forall_mem_cons, List.not_mem_nil, false_implies, implies_true, and_true, State.KeepsG]
  refine ⟨?_, ?_, ?_, ?_, ?_, ?_, ?_, ?_, ?_, ?_, ?_, ?_, ?_, ?_, ?_, ?_, ?_, ?_, ?_, ?_, ?_⟩ <;> unfold exec
  all_goals
    simp only [execAdd, execSub, execAnd, execOr, execXor, execShl, execShr, execSra, execMin, execMax, execMinn, execMaxn, execExtz,
      execExts, execFadd, execFsub, execFmul, execFdiv, execFmin, execFmax, execFsgn, fp2]
    exact binG_keeps h rfl

theorem keepsG_unary {t : BitVec 1} {i : BitVec 13} {c : BitVec 6} (h : Ready s g false [.g a] [.g d]) : ∀ j ∈ [Instr.clz d a g,
    .ctz d a g, .popc d a g, .brev d a g, .addi d a g i, .andi d a g i, .ori d a g i, .xori d a g i, .shli d a g c, .shri d a g c,
    .srai d a g c, .fsqrt d a g t, .fneg d a g t, .fabs d a g t, .fclass d a g t], s.KeepsG d j := by
  simp only [List.forall_mem_cons, List.not_mem_nil, false_implies, implies_true, and_true, State.KeepsG]
  refine ⟨?_, ?_, ?_, ?_, ?_, ?_, ?_, ?_, ?_, ?_, ?_, ?_, ?_, ?_, ?_⟩ <;> unfold exec
  all_goals
    simp only [execClz, execCtz, execPopc, execBrev, execAddi, execAndi, execOri, execXori, execShli, execShri, execSrai, execFsqrt,
      execFneg, execFabs, execFclass, fp1]
    exact unG_keeps h rfl

/-- INSF and FMA read the register that they write (R332, R340). -/
theorem keepsG_ternary {t : BitVec 1} (h : Ready s g false [.g a, .g b, .g d] [.g d]) :
    ∀ j ∈ [Instr.insf d a b g, .fma d a b g t], s.KeepsG d j := by
  simp only [List.forall_mem_cons, List.not_mem_nil, false_implies, implies_true, and_true, State.KeepsG]
  refine ⟨?_, ?_⟩ <;> unfold exec
  all_goals
    simp only [execInsf, execFma]
    exact shortG_keeps h rfl rfl rfl

theorem keepsG_sel {q : BitVec 3} (h : Ready s g false [.g a, .g b, .p q] [.g d]) : s.KeepsG d (.sel d a b g q) := by
  unfold State.KeepsG exec
  exact shortG_keeps h rfl rfl rfl

theorem keepsG_upper {u : BitVec 21} (h : Ready s 0 false [] [.g d]) : ∀ j ∈ [Instr.lih d u, .addpc d u, .jal d u], s.KeepsG d j := by
  simp only [List.forall_mem_cons, List.not_mem_nil, false_implies, implies_true, and_true, State.KeepsG]
  refine ⟨?lih, ?addpc, ?jal⟩ <;> unfold exec
  case lih => exact shortG_keeps h rfl rfl rfl
  case addpc => exact shortG_keeps h rfl rfl rfl
  case jal => exact ⟨_, issue_ready h rfl rfl rfl, ((moved_issued ..).goto _).writeG ..⟩

theorem keepsG_jalr {i : BitVec 13} (h : Ready s g false [.g a] [.g d]) : s.KeepsG d (.jalr d a g i) := by
  unfold State.KeepsG exec
  exact ⟨_, issue_ready h rfl rfl rfl, ((moved_issued ..).goto _).writeG ..⟩

theorem keepsP_compare {t : BitVec 1} {k : BitVec 3} (h : Ready s g false [.g a, .g b] [.p p]) (hk : k.toNat ≤ 4) :
    ∀ j ∈ [Instr.cmp p a b g k, .fcmp p a b g t k], s.KeepsP p j := by
  simp only [List.forall_mem_cons, List.not_mem_nil, false_implies, implies_true, and_true, State.KeepsP]
  refine ⟨?cmp, ?fcmp⟩ <;> unfold exec
  case cmp => exact shortP_keeps h (by simp [Instr.illegal, illegalIf]; omega) rfl rfl
  case fcmp => exact shortP_keeps h (by simp [Instr.illegal, illegalIf]; omega) rfl rfl

theorem keepsP_cmpi {k : BitVec 3} {w : BitVec 10} (h : Ready s g false [.g a] [.p p]) (hk : k.toNat ≤ 4) :
    s.KeepsP p (.cmpi p a g k w) := by
  unfold State.KeepsP exec
  exact shortP_keeps h (by simp [Instr.illegal, illegalIf]; omega) rfl rfl

theorem keepsP_logic {q r : BitVec 3} (h : Ready s g false [.p q, .p r] [.p p]) :
    ∀ j ∈ [Instr.pand p q r g, .por p q r g, .pxor p q r g], s.KeepsP p j := by
  simp only [List.forall_mem_cons, List.not_mem_nil, false_implies, implies_true, and_true, State.KeepsP]
  refine ⟨?_, ?_, ?_⟩ <;> unfold exec
  all_goals
    simp only [execPand, execPor, execPxor]
    exact shortP_keeps h rfl rfl rfl

theorem keepsP_pnot {q : BitVec 3} (h : Ready s g false [.p q] [.p p]) : s.KeepsP p (.pnot p q g) := by
  unfold State.KeepsP exec
  exact shortP_keeps h rfl rfl rfl

/-- A branch writes no register at all, so whichever is named stays with the others (R344). -/
theorem branch_moved {i : Instr} {disp : BitVec 23} {want : Bool} (h : Ready s 0 false [.p p] []) (hl : i.illegal = none) :
    ∃ z, branch i p disp want s = .next z ∧ s.Moved z := by
  refine ⟨_, issue_ready h hl rfl rfl, ?_⟩
  dsimp only
  split
  · exact (moved_issued ..).goto _
  · exact moved_issued ..

theorem keeps_branch {disp : BitVec 23} (h : Ready s 0 false [.p p] []) :
    ∀ j ∈ [Instr.br p disp, .brn p disp], s.KeepsG d j ∧ s.KeepsP p j := by
  have hmoved : ∀ j ∈ [Instr.br p disp, .brn p disp], ∃ z, exec j s = .next z ∧ s.Moved z := by
    simp only [List.forall_mem_cons, List.not_mem_nil, false_implies, implies_true, and_true]
    refine ⟨?br, ?brn⟩ <;> unfold exec
    case br => exact branch_moved h rfl
    case brn => exact branch_moved h rfl
  intro j hj
  obtain ⟨z, hz, hm⟩ := hmoved j hj
  exact ⟨⟨z, hz, hm.writesG d⟩, ⟨z, hz, hm.writesP p⟩⟩

end

/-- Settles O57, form by form: each goes through, and writes its register over what an issue moves. -/
theorem registerFrame : Obligations.RegisterFrame := by
  intro s d a b g p q r k t i c w u disp x others specials keepsG keepsP
  exact ⟨keepsG_binary, keepsG_unary, keepsG_ternary, keepsG_sel, keepsG_upper, keepsG_jalr, keepsP_compare, keepsP_cmpi,
    keepsP_logic, keepsP_pnot, keeps_branch⟩

/-! ### What a long-latency instruction leaves at its issue (R241) -/

section
variable {s z : State} {dests : List RegRef}

/-- What no register's state touches stands as before when some are emptied. -/
theorem foldl_mark_same {α : Type} {f : Slot → α} (hf : ∀ x r st, f (x.mark_ r st) = f x) (st : RegState) (rs : List RegRef)
    (x : Slot) : f (rs.foldl (fun y r => y.mark_ r st) x) = f x := by
  induction rs generalizing x with
  | nil => rfl
  | cons r rs ih => rw [List.foldl_cons, ih, hf]

theorem gState_foldl_mark (rs : List RegRef) (x : Slot) (n : BitVec 5) :
    (rs.foldl (fun y r => y.mark_ r .empty) x).gState n = if n ≠ 0 ∧ .g n ∈ rs then .empty else x.gState n := by
  induction rs generalizing x with
  | nil => simp
  | cons r rs ih =>
    rw [List.foldl_cons, ih, gState_mark]
    grind

theorem vState_foldl_mark (rs : List RegRef) (x : Slot) (n : BitVec 3) :
    (rs.foldl (fun y r => y.mark_ r .empty) x).vState n = if .v n ∈ rs then .empty else x.vState n := by
  induction rs generalizing x with
  | nil => simp
  | cons r rs ih =>
    rw [List.foldl_cons, ih, vState_mark]
    grind

theorem g_mem_liveDests {n : BitVec 5} : n ≠ 0 ∧ .g n ∈ liveDests dests ↔ n ≠ 0 ∧ .g n ∈ dests := by
  simp [liveDests]
  tauto

theorem v_mem_liveDests {n : BitVec 3} : .v n ∈ liveDests dests ↔ .v n ∈ dests := by
  simp [liveDests]

/-- A long-latency instruction with these destinations is outstanding as `q`: they are empty and keep their values, and every
other register, flag and memory stands as before. -/
def State.Departed (s z : State) (q : Outst) (dests : List RegRef) : Prop :=
  SameMemory s z ∧ (∀ n, n ≠ s.focus → z.slot n = s.slot n) ∧ z.writes = s.writes ∧ z.dies = s.dies ∧
    let x := s.slot s.focus
    let y := z.slot s.focus
    y.outs.getLast? = some q ∧ q.dests = liveDests dests ∧ q.after = [] ∧ y.outs.length = x.outs.length + 1 ∧
    y.g = x.g ∧ y.v = x.v ∧ y.m = x.m ∧ y.p = x.p ∧ y.mode = x.mode ∧ y.frozen = x.frozen ∧ y.trcause = x.trcause ∧ y.trpc = x.trpc ∧
    (∀ n : BitVec 5, y.gState n = if n ≠ 0 ∧ .g n ∈ dests then .empty else x.gState n) ∧
    (∀ n : BitVec 3, y.vState n = if .v n ∈ dests then .empty else x.vState n)

theorem State.Moved.vState {t : State} (h : s.Moved t) (n : BitVec 3) : (t.slot s.focus).vState n = (s.slot s.focus).vState n := by
  obtain ⟨-, hvst, -⟩ := h.specials
  rw [Slot.vState, Slot.vState, hvst]

theorem length_outs_issued (s : State) (size : Nat) (bar rel : Bool) :
    ((s.issued size bar rel).slot s.focus).outs.length = (s.slot s.focus).outs.length := by
  rw [slot_issued, if_pos rfl]
  simp [Slot.advance]

/-- What an instruction that leaves the pipeline is in its slot (R242). -/
theorem slot_depart (s t : State) (l : BitVec 4) (op : Op) (dests : List RegRef) :
    ∃ q : Outst, q.dests = liveDests dests ∧ q.after = [] ∧ ∀ j, (s.depart t l op dests).slot j = if j = s.focus then
      { (liveDests dests).foldl (fun y r => y.mark_ r .empty) (t.slot s.focus) with outs := (t.slot s.focus).outs ++ [q] }
      else t.slot j :=
  ⟨_, rfl, rfl, fun _ => State.slot_setSlot ..⟩

theorem departed_depart (s : State) (size : Nat) (bar rel : Bool) (l : BitVec 4) (op : Op) (dests : List RegRef) :
    ∃ q, s.Departed (s.depart (s.issued size bar rel) l op dests) q dests := by
  have hm := moved_issued s size bar rel
  have hlen := length_outs_issued s size bar rel
  obtain ⟨q, hq, hafter, hslot⟩ := slot_depart s (s.issued size bar rel) l op dests
  obtain ⟨⟨hmem, hls, hfe, hacc⟩, hslots, hdies, hwrites, -⟩ := hm.others
  obtain ⟨hv, -, hmask, -, hmode, -, hfrozen, -, hcause, hpc, -⟩ := hm.specials
  refine ⟨q, ⟨hmem, hls, hfe, hacc⟩, fun n hn => by rw [hslot, if_neg hn, hslots n hn], hwrites, hdies, ?_⟩
  simp only [hslot, if_pos]
  refine ⟨by simp, hq, hafter, by simp [hlen], ?g, ?v, ?m, ?p, ?mode, ?frozen, ?trcause, ?trpc, fun n => ?gState, fun n => ?vState⟩
  case g => exact (foldl_mark_same Slot.mark_g ..).trans hm.g
  case v => exact (foldl_mark_same Slot.mark_v ..).trans hv
  case m => exact (foldl_mark_same Slot.mark_m ..).trans hmask
  case p => exact (foldl_mark_same Slot.mark_p ..).trans hm.p
  case mode => exact (foldl_mark_same Slot.mark_mode ..).trans hmode
  case frozen => exact (foldl_mark_same Slot.mark_frozen ..).trans hfrozen
  case trcause => exact (foldl_mark_same Slot.mark_trcause ..).trans hcause
  case trpc => exact (foldl_mark_same Slot.mark_trpc ..).trans hpc
  case gState =>
    refine (gState_foldl_mark ..).trans ?_
    simp only [g_mem_liveDests, hm.gState]
  case vState =>
    refine (vState_foldl_mark ..).trans ?_
    simp only [v_mem_liveDests, hm.vState]

/-- An instruction goes through and leaves its destinations to its completion. -/
def State.KeepsTillDone (s : State) (j : Instr) (dests : List RegRef) : Prop := ∃ z q, exec j s = .next z ∧ s.Departed z q dests

theorem longOp_keeps {p : Issue} {l : BitVec 4} {op : State → Op} (h : Ready s p.guard true p.reads (dests ++ p.writes))
    (hl : p.instr.illegal = none) (hh : p.hold s = false) (hc : p.check s = none) :
    ∃ z q, longOp p l dests op s = .next z ∧ s.Departed z q dests := by
  obtain ⟨q, hq⟩ := departed_depart s p.size (isBarrier p.instr) (isRelease p.instr) l (op s) dests
  exact ⟨_, q, longOp_ready h hl hh hc, hq⟩

end

/-! ### Loads, stores, MULDIV and vector operations (R339, R345, R396) -/

section
variable {s : State} {d a b : BitVec 5} {g : BitVec 3} {l : BitVec 4} {o : BitVec 9}

/-- The address of R345 by integers. -/
theorem effAddr_eq (base : Dword) (off : BitVec 9) (size : Nat) :
    effAddr base off size = BitVec.ofInt 64 (base.toInt + off.toInt * size) := by
  rw [BitVec.ofInt_add, BitVec.ofInt_mul, BitVec.ofInt_toInt, BitVec.ofInt_natCast]
  rfl

/-- The address that a load or store of the strand in focus names (R345). -/
def State.operandAddr (s : State) (a : BitVec 5) (o : BitVec 9) (size : Nat) : Dword :=
  BitVec.ofInt 64 (((s.slot s.focus).readG a).toInt + o.toInt * size)

theorem loadG_keeps {i : Instr} {size : Nat} {signed : Bool} (h : Ready s g true [.g a] [.g d]) (hl : i.illegal = none)
    (hacq : (s.slot s.focus).acquiring = false) (hc : s.accessTrap s.focus (s.operandAddr a o size) size false = none) :
    ∃ z q, loadG i d a g l o size signed s = .next z ∧ s.Departed z q [.g d] := by
  refine longOp_keeps h hl hacq ?_
  dsimp only
  rwa [effAddr_eq]

theorem storeG_keeps {i : Instr} {size : Nat} (h : Ready s g true [.g a, .g d] []) (hl : i.illegal = none)
    (hacq : (s.slot s.focus).acquiring = false) (hc : s.accessTrap s.focus (s.operandAddr a o size) size true = none) :
    ∃ z q, storeG i d a g l o size s = .next z ∧ s.Departed z q [] := by
  refine longOp_keeps h hl hacq ?_
  dsimp only
  rwa [effAddr_eq]

theorem mulDiv_keeps {i : Instr} {f : Dword → Dword → Dword} (h : Ready s g true [.g a, .g b] [.g d]) (hl : i.illegal = none) :
    ∃ z q, mulDiv i d a b g l f s = .next z ∧ s.Departed z q [.g d] :=
  longOp_keeps h hl rfl rfl

theorem vecBin_keeps {i : Instr} {v va vb : BitVec 3} {w : Nat} {f : Nat → Nat → Nat} (h : Ready s 0 true [.v va, .v vb] [.v v])
    (hl : i.illegal = none) (hfull : s.vecFull = false) :
    ∃ z q, vecBin i v va vb 0 l w f s = .next z ∧ s.Departed z q [.v v] := by
  unfold vecBin vecMap vecOp
  exact longOp_keeps h hl hfull rfl

theorem keepsTillDone_load (hacq : (s.slot s.focus).acquiring = false) (h : Ready s g true [.g a] [.g d]) :
    (s.accessTrap s.focus (s.operandAddr a o 1) 1 false = none →
      ∀ j ∈ [Instr.ldb d a g l o, .ldbn d a g l o], s.KeepsTillDone j [.g d]) ∧
    (s.accessTrap s.focus (s.operandAddr a o 2) 2 false = none →
      ∀ j ∈ [Instr.ldh d a g l o, .ldhn d a g l o], s.KeepsTillDone j [.g d]) ∧
    (s.accessTrap s.focus (s.operandAddr a o 4) 4 false = none →
      ∀ j ∈ [Instr.ldw d a g l o, .ldwn d a g l o], s.KeepsTillDone j [.g d]) ∧
    (s.accessTrap s.focus (s.operandAddr a o 8) 8 false = none → s.KeepsTillDone (.ldd d a g l o) [.g d]) := by
  simp only [List.forall_mem_cons, List.not_mem_nil, false_implies, implies_true, and_true, State.KeepsTillDone]
  refine ⟨fun hc => ⟨?_, ?_⟩, fun hc => ⟨?_, ?_⟩, fun hc => ⟨?_, ?_⟩, fun hc => ?_⟩ <;> unfold exec
  all_goals
    simp only [execLdb, execLdbn, execLdh, execLdhn, execLdw, execLdwn, execLdd]
    exact loadG_keeps h rfl hacq hc

theorem keepsTillDone_store (hacq : (s.slot s.focus).acquiring = false) (h : Ready s g true [.g a, .g d] []) :
    (s.accessTrap s.focus (s.operandAddr a o 1) 1 true = none → s.KeepsTillDone (.stb d a g l o) []) ∧
    (s.accessTrap s.focus (s.operandAddr a o 2) 2 true = none → s.KeepsTillDone (.sth d a g l o) []) ∧
    (s.accessTrap s.focus (s.operandAddr a o 4) 4 true = none → s.KeepsTillDone (.stw d a g l o) []) ∧
    (s.accessTrap s.focus (s.operandAddr a o 8) 8 true = none → s.KeepsTillDone (.std d a g l o) []) := by
  unfold State.KeepsTillDone
  refine ⟨fun hc => ?_, fun hc => ?_, fun hc => ?_, fun hc => ?_⟩ <;> unfold exec
  all_goals
    simp only [execStb, execSth, execStw, execStd]
    exact storeG_keeps h rfl hacq hc

theorem keepsTillDone_mulDiv (h : Ready s g true [.g a, .g b] [.g d]) : ∀ j ∈ [Instr.mul d a b g l, .mulh d a b g l,
    .mulhn d a b g l, .div d a b g l, .divn d a b g l, .rem d a b g l, .remn d a b g l], s.KeepsTillDone j [.g d] := by
  simp only [List.forall_mem_cons, List.not_mem_nil, false_implies, implies_true, and_true, State.KeepsTillDone]
  refine ⟨?_, ?_, ?_, ?_, ?_, ?_, ?_⟩ <;> unfold exec
  all_goals
    simp only [execMul, execMulh, execMulhn, execDiv, execDivn, execRem, execRemn]
    exact mulDiv_keeps h rfl

theorem keepsTillDone_vector {v va vb t : BitVec 3} (h : Ready s 0 true [.v va, .v vb] [.v v]) (ht : t.toNat ≤ 3)
    (hfull : s.vecFull = false) : ∀ j ∈ [Instr.vadd v va vb 0 t l, .vsub v va vb 0 t l, .vand v va vb 0 t l, .vor v va vb 0 t l,
      .vxor v va vb 0 t l], s.KeepsTillDone j [.v v] := by
  have hl : illegalIf (!typeInt t) .operand = none := by simp [illegalIf, typeInt, ht]
  simp only [List.forall_mem_cons, List.not_mem_nil, false_implies, implies_true, and_true, State.KeepsTillDone]
  refine ⟨?_, ?_, ?_, ?_, ?_⟩ <;> unfold exec
  all_goals
    simp only [execVadd, execVsub, execVand, execVor, execVxor]
    exact vecBin_keeps h hl hfull

end

/-- Settles O58, family by family: each leaves the pipeline, with its destinations empty over what an issue moves. -/
theorem issueFrame : Obligations.IssueFrame := by
  intro s d a b g l o x ea keeps hacq
  exact ⟨keepsTillDone_load hacq, keepsTillDone_store hacq, keepsTillDone_mulDiv, fun _ _ _ _ => keepsTillDone_vector⟩

end Sys2Proof.Machine
end

section
/-! Loads and stores at the own local store, from their turn to their completion (R66, R101, R241, R242, R345). -/

namespace Sys2Proof.Machine

section
variable {s t : State} {k : Nat} {o : Outst} {ea : Dword} {off : Nat}

/-! ### The place of an access of the own local store (R67) -/

/-- An access of the own local store that counts its wait for a bank (log entry 53). -/
theorem atPlace_own {acc : Nat} (h : acc ≤ 3) (size off : Nat) : atPlace (s.whoOp k o) acc size (.ls (clusterOf k) off) s =
    .ok (.ls (clusterOf k) off, s.countFree (coreOf k) 0x06 2) := by
  rw [← noteAccess_own_cluster h size off]
  rfl

theorem placeRead_own (hr : regionOf ea = .own off) {acc : Nat} (h : acc ≤ 3) (size perm : Nat) :
    placeRead (s.whoOp k o) ea size acc perm s = .ok (.ls (clusterOf k) off, s.countFree (coreOf k) 0x06 2) := by
  unfold placeRead
  rw [show (s.whoOp k o).cluster = clusterOf k from rfl, lsPlace_own hr]
  exact atPlace_own h size off

theorem placeWrite_own (hr : regionOf ea = .own off) {acc : Nat} (h : acc ≤ 3) (size : Nat) :
    placeWrite (s.whoOp k o) ea size acc s = .ok (.ls (clusterOf k) off, s.countFree (coreOf k) 0x06 2) := by
  unfold placeWrite
  rw [show (s.whoOp k o).cluster = clusterOf k from rfl, lsPlace_own hr]
  exact atPlace_own h size off

theorem storeTurn_own : t.storeTurn (s.whoOp k o) (clusterOf k) = true := by simp [State.storeTurn, State.whoOp, State.whoSlot]

theorem readPlace_own (n : Nat) : readPlace (s.whoOp k o) ea (.ls (clusterOf k) off) n t = .ok (t.readLs (clusterOf k) off n, t) := by
  unfold readPlace
  refine (get_bind _ _).trans ?_
  rw [storeTurn_own, show (s.whoOp k o).die = dieOf k from rfl, dieOf_cluster, if_neg (by simp)]
  rfl

theorem writePlace_own (bs : List Byte) : writePlace (s.whoOp k o) ea (.ls (clusterOf k) off) bs t =
    .ok ([], t.storeLs (dieOf k) (clusterOf k) off bs) := by
  unfold writePlace
  refine (get_bind _ _).trans ?_
  rw [storeTurn_own]
  rfl

/-! ### A load (R345) -/

theorem readPart_own (hr : regionOf ea = .own off) (far : Bool) (n : Nat) : readPart (s.whoOp k o) far ea n s =
    .ok (s.readLs (clusterOf k) off n, s.countFree (coreOf k) 0x06 2) := by
  refine (bind_ok (placeRead_own hr (by decide) n 1)).trans ?_
  dsimp only
  rw [show (s.whoOp k o).die = dieOf k from rfl, dieOf_cluster]
  refine (get_bind _ _).trans ?_
  rw [if_neg (by simp)]
  rw [readPlace_own, readLs_of_ls (State.ls_countFree ..)]

/-- What the strand saw where it came from is forgotten once its die has caught up (R96). -/
def State.unseen (s : State) (k : Nat) : State :=
  if (s.slot k).seen.isSome then s.modSlot k fun x => { x with seen := none } else s

theorem ls_unseen (s : State) (k : Nat) : (s.unseen k).ls = s.ls := by
  unfold State.unseen
  split <;> rfl

theorem readTurn_ok {parts : List (Dword × Nat)} (he : ((s.slot k).earlier o).any Outst.readPending = false)
    (hb : s.loadBlocked k o parts = false) : readTurn k o parts s = .ok ((), s.unseen k) := by
  unfold readTurn State.unseen
  refine (get_bind _ _).trans ?_
  rw [if_neg (by simp [he]), if_neg (by simp [hb])]
  split <;> rfl

theorem dw_ofI (z : Int) : dw (ofI 64 z) = BitVec.ofInt 64 z := by
  refine BitVec.eq_of_toNat_eq ?_
  simp only [dw, ofI, BitVec.toNat_ofNat, BitVec.toNat_ofInt]
  omega

/-- The value of a load (R345). -/
def loadValue (size : Nat) (signed : Bool) (bs : List Byte) : Dword :=
  if signed then BitVec.ofInt 64 (toI (8 * size) (leNat bs)) else BitVec.ofNat 64 (leNat bs)

theorem loadFill_g (d : BitVec 5) (size : Nat) (signed : Bool) (bs : List Byte) :
    loadFill (.g d size signed) bs = .g d (loadValue size signed bs) := by
  simp only [loadFill, loadValue, dw_ofI]
  rfl

/-- What an access of the own local store leaves of its slot's faults and requests, before it completes. -/
def State.accessed (s : State) (k : Nat) (o : Outst) : State :=
  ((s.countFree (coreOf k) 0x06 2).dropFault (.op k o.id)).dropRequests (.op k o.id)

theorem loadM_own {size : Nat} {d : BitVec 5} {signed : Bool} (hr : regionOf ea = .own off)
    (he : ((s.slot k).earlier o).any Outst.readPending = false) (hb : s.loadBlocked k o [(ea, size)] = false) (far fin : Bool) :
    loadM k o [(ea, size)] [] (.g d size signed) far fin s = .ok ((),
      let fs := [Fill.g d (loadValue size signed (s.readLs (clusterOf k) off size))]
      let t := (s.unseen k).accessed k o
      if fin then t.complete k o fs else t.setOut k { o with st := .returned fs }) := by
  have hone : (if fin = true then [(ea, size)] else [(ea, size)].take 1) = [(ea, size)] := by cases fin <;> rfl
  unfold loadM
  refine (bind_ok (readTurn_ok he hb)).trans ?_
  refine (get_bind _ _).trans ?_
  rw [hone, List.forIn_cons]
  refine (bind_ok ((bind_ok ((bind_ok (readPart_own hr far size)).trans rfl)).trans rfl)).trans ?_
  dsimp only
  refine (modify_ok _ _).trans ?_
  rw [readLs_of_ls (ls_unseen s k)]
  simp only [loadFill_g, List.nil_append]
  cases fin <;> rfl

theorem exec_instructionComplete_load {size : Nat} {d : BitVec 5} {signed : Bool} (ht : s.target = some (k, o))
    (hop : o.op = .load [(ea, size)] [] (.g d size signed)) (hst : o.st = .ready) :
    exec .instructionComplete s = .next (runOp k o (loadM k o [(ea, size)] [] (.g d size signed) false true) s) := by
  show execInstructionComplete s = _
  simp only [execInstructionComplete, ht, State.completeOp, hst, hop]

theorem exec_loadViewReturn {size : Nat} {d : BitVec 5} {signed : Bool} (ht : s.target = some (k, o))
    (hop : o.op = .load [(ea, size)] [] (.g d size signed)) (hst : o.st = .ready) :
    exec .loadViewReturn s = .next (runOp k o (loadM k o [(ea, size)] [] (.g d size signed) true false) s) := by
  show execLoadViewReturn s = _
  simp only [execLoadViewReturn, ht, hst, hop]

/-! ### A store (R101) -/

theorem feEmpty_mem_acc_countFree (s : State) (c : Nat) (e : Byte) (n : Nat) : (s.countFree c e n).feEmpty = s.feEmpty ∧
    (s.countFree c e n).mem = s.mem ∧ (s.countFree c e n).acc = s.acc := by
  unfold State.countFree
  split <;> simp [State.free]

theorem out?_of_slots (h : t.slots = s.slots) (k id : Nat) : t.out? k id = s.out? k id := by
  rw [State.out?, State.out?, slot_of_slots h]

/-- A store of one part is over with it. -/
theorem dropParts_one {bs : List Byte} (ho : s.out? k o.id = some o) (hop : o.op = .store [(ea, bs)]) :
    s.dropParts k [(o.id, 0)] = ((s.dropFault (.op k o.id)).dropRequests (.op k o.id)).complete k o [] := by
  simp [State.dropParts, ho, hop]

theorem exec_instructionComplete_store {bs : List Byte} (ht : s.target = some (k, o)) (hop : o.op = .store [(ea, bs)])
    (hst : o.st = .ready) : exec .instructionComplete s = .next (runOp k o (storeM k o [(ea, bs)] s.ev.flag) s) := by
  show execInstructionComplete s = _
  simp only [execInstructionComplete, ht, State.completeOp, hst, hop]

theorem storeM_own {bs : List Byte} {merge : Bool} (hr : regionOf ea = .own off) (ho : s.out? k o.id = some o)
    (hop : o.op = .store [(ea, bs)]) (hm : (s.slot k).mayLeave o = true) (hp : s.allPerformed (s.slot k).uid = true) :
    storeM k o [(ea, bs)] merge s = .ok ((),
      let t := (s.countFree (coreOf k) 0x06 2).storeLs (dieOf k) (clusterOf k) off bs
      ((t.dropFault (.op k o.id)).dropRequests (.op k o.id)).complete k o []) := by
  unfold storeM
  refine (get_bind _ _).trans ?_
  rw [if_neg (by simp [hm])]
  dsimp only
  refine (bind_ok (placeWrite_own hr (by decide) bs.length)).trans ?_
  dsimp only
  have hw : s.allPerformed (s.whoOp k o).uid = true := hp
  rw [if_neg (by simp [hw])]
  refine (bind_ok (writePlace_own bs)).trans ?_
  refine (modify_ok _ _).trans ?_
  have hslots : ((s.countFree (coreOf k) 0x06 2).storeLs (dieOf k) (clusterOf k) off bs).slots = s.slots := State.slots_countFree ..
  exact congrArg (fun t => Except.ok ((), t)) (dropParts_one ((out?_of_slots hslots k o.id).trans ho) hop)

end

/-! ### The obligation -/

/-- Settles O18: each step by its turn, its place, and what it reads or writes there. -/
theorem localAccessCompletes : Obligations.LocalAccessCompletes := by
  refine ⟨?load, ?store, ?bytes⟩
  case load =>
    intro s k o ea off size d signed hk hout hop hst hr he hb n v u t
    have ht := target_of_out hk hout
    refine ⟨(exec_instructionComplete_load ht hop hst).trans ?_, (exec_loadViewReturn ht hop hst).trans ?_⟩
    · exact congrArg _ (runM_ok (loadM_own hr he hb false true))
    · exact congrArg _ (runM_ok (loadM_own hr he hb true false))
  case store =>
    intro s k o ea off bs hk hout hop hst hr hm hp t
    have hid : o.id = s.ev.n := by simpa using List.find?_some hout
    have ht := target_of_out hk hout
    refine ⟨(exec_instructionComplete_store ht hop hst).trans ?_, feEmpty_mem_acc_countFree ..⟩
    exact congrArg _ (runM_ok (storeM_own hr (hid ▸ hout) hop hm hp))
  case bytes =>
    exact fun s w cl off a d pa bs hls hmem => ⟨by rw [ls_storeLs, Memory.readByte_writeBytes _ _ _ hls],
      by rw [mem_pokeView, Memory.readByte_writeBytes _ _ _ hmem]⟩

end Sys2Proof.Machine
end

section
/-! Tile commands from their issue to their end: the queueing of a frame, completion, arrivals and the lease (R241, R251–R253, R263,
R318, R425, R428, R430). -/

namespace Sys2Proof.Machine

/-! ### The issue of a frame (R318, R425) -/

section
variable {s u : State} {a b : BitVec 5} {g : BitVec 3} {l : BitVec 4} {q : BitVec 5} {h : BitVec 4} {w : TilePayload}

/-- The payload of a frame with its patches, as the strand in focus gives them (R317). -/
def State.patched (s : State) (a b : BitVec 5) (h : BitVec 4) (w : TilePayload) : TilePayload :=
  (w.patch (h.extractLsb' 0 2) (s.readG s.focus a)).patch (h.extractLsb' 2 2) (s.readG s.focus b)

/-- Nothing holds a frame at its issue: its core's input queue has room, no acquire is under way, and the loads and atomics before the
last release fence have returned (R102, R318). -/
theorem tcmd_hold_false (hroom : s.inputQueue (coreOf s.focus) q.toNat < 8) (hacq : (s.slot s.focus).acquiring = false)
    (hrel : ∀ o ∈ (s.slot s.focus).outs, o.readPending = true → (s.slot s.focus).rel ≤ o.seq) :
    (decide (8 ≤ s.inputQueue (coreOf s.focus) q.toNat) || (s.slot s.focus).acquiring ||
      (s.slot s.focus).outs.any fun o => o.readPending && decide (o.seq < (s.slot s.focus).rel)) = false := by
  simpa [hroom, hacq] using hrel

theorem exec_tcmd {as : List Nat} {rs : List (List Byte)} (hwf : (Instr.tcmd a b g l q h w).wf = true)
    (hready : Ready s g true [.g a, .g b] (match tileTarget w s.focus with
      | some (j, r) => if j = s.focus then [.g r] else []
      | none => []))
    (hroom : s.inputQueue (coreOf s.focus) q.toNat < 8) (hacq : (s.slot s.focus).acquiring = false)
    (hrel : ∀ o ∈ (s.slot s.focus).outs, o.readPending = true → (s.slot s.focus).rel ≤ o.seq)
    (htrap : s.tileTrap s.focus q.toNat (s.patched a b h w) = none)
    (hrecs : gatherRecords s s.focus (s.patched a b h w) (s.issued 36 true) = .ok ((as, rs), u))
    (hchecks : s.recordTrap s.focus (s.patched a b h w) as rs = none) :
    exec (.tcmd a b g l q h w) s = .next ((s.queueFrame u l q.toNat (s.patched a b h w) rs).answered s.focus) := by
  show execTcmd a b g l q h w s = _
  unfold execTcmd
  refine issueM_ready hready (Option.isNone_iff_eq_none.1 hwf) (tcmd_hold_false hroom hacq hrel) htrap ?_
  refine (bind_ok hrecs).trans ?_
  simp only [State.patched] at hchecks
  simp only [hchecks]
  rfl

end

/-! ### Completion (R111, R319, R428, R430) -/

section
variable {s : State} {m : Cmd}

/-- Where nothing that a command made is on its way, its end has nothing to wait for and no package has turned it down. -/
theorem settleCmd_ok (h : s.Settled m) : settleCmd m s = .ok (none, s) := by
  obtain ⟨hpending, hacc, hreq⟩ := h
  have hwait : (!m.acc.isEmpty || s.requests.any fun r => decide (r.who = .cmd m.n) && ((r.bytes.isEmpty && r.answer.isNone) ||
      (r.isRed && (r.answer.isNone || r.refusedRed)))) = false := by
    simp only [hacc, List.isEmpty_nil, Bool.not_true, Bool.false_or, List.any_eq_false]
    exact fun r hr => by simp [hreq r hr]
  have hstatus : s.amoStatus m.n = none := by
    simp only [State.amoStatus, List.findSome?_eq_none_iff]
    exact fun r hr => if_neg fun h => hreq r hr h.1
  unfold settleCmd
  refine orFatal_ok ((get_bind _ _).trans ?_)
  rw [hwait, hpending, hstatus]
  rfl

/-- What the end of a command leaves, before its target is filled and a fault of it reported. -/
def State.retireCmd (s : State) (m : Cmd) : State :=
  let u := (s.dropRequests (.cmd m.n)).dropFault (.cmd m.n)
  { u with cmds := u.cmds.filter fun e => e.n ≠ m.n }

theorem exec_commandComplete {e f : Byte} (hm : s.cmdOf s.ev.who = some m) (hs : s.Settled m) (hv : s.footprintVisible m = true)
    (hd : m.done = some (e, f)) (hc : m.counts = []) :
    exec .commandComplete s = .next (
      let u := match m.target with
        | some (k, r) => (s.retireCmd m).deliverFill k r m.value false
        | none => s.retireCmd m
      if e = 0 then u else u.engineFault m e) := by
  show execCommandComplete s = _
  simp only [execCommandComplete, hm, hc, hv]
  rw [if_neg (by simp [hd])]
  refine congrArg _ (runM_ok ((bind_ok (settleCmd_ok hs)).trans ((modify_ok _ _).trans ?_)))
  simp only [hd]
  by_cases he : e = 0
  · subst he
    rfl
  · rw [if_neg he]
    split
    · next h => exact absurd (Prod.mk.inj (Option.some.inj h)).1 he
    · next h =>
      obtain ⟨rfl, -⟩ := Prod.mk.inj (Option.some.inj h)
      rfl
    · next h => exact absurd h (Option.some_ne_none _)

theorem exec_arrivalCount {cl n : Nat} {rest : List (Nat × Nat)} (hm : s.cmdOf s.ev.who = some m) (hs : s.Settled m)
    (hc : m.counts = (cl, n) :: rest) : exec .arrivalCount s = .next
      ((s.arrive m.die cl (m.w.w6.toNat / 2 ^ 16 * 64) (2 ^ 48 - n % 2 ^ 48) false).setCmd { m with counts := rest }) := by
  show execArrivalCount s = _
  simp only [execArrivalCount, hm, hc]
  exact congrArg _ (runM_ok ((bind_ok (settleCmd_ok hs)).trans (modify_ok _ _)))

end

/-! ### What a completion leaves (R242, R319, R430) -/

section
variable {s : State} {m : Cmd}

/-- A fill from outside makes its register full with its value (R242). -/
theorem readG_setG_same {x : Slot} {r : BitVec 5} (v : Dword) (h : r ≠ 0) : (x.setG r v).readG r = v := by
  rw [Slot.setG, if_neg h, Slot.readG, if_neg h]
  simp [Vector.get_eq_getElem]

theorem gState_setG_same {x : Slot} {r : BitVec 5} (v : Dword) (h : r ≠ 0) : (x.setG r v).gState r = .full := by
  rw [Slot.setG, if_neg h, Slot.gState]
  simp [Vector.get_eq_getElem]

/-- At a core without a forwarding entry a fill goes to the slot that holds the strand (R283). -/
theorem deliverFill_here {k : Nat} {r : BitVec 5} {x : Dword} (hfwd : (s.core (coreOf k)).fwd = none)
    (hstrand : (s.slot k).holdsStrand = true) : s.deliverFill k r x false = s.fillReg k r x := by
  simp [State.deliverFill, State.fillHere, hfwd, hstrand]

theorem slot_fillReg (s : State) (k : Nat) (r : BitVec 5) (x : Dword) :
    (s.fillReg k r x).slot k = { (s.slot k).setG r x with sleeping := none } := by
  simp [State.fillReg]

@[simp] theorem slot_retireCmd (s : State) (m : Cmd) (k : Nat) : (s.retireCmd m).slot k = s.slot k := rfl
@[simp] theorem core_retireCmd (s : State) (m : Cmd) (c : Nat) : (s.retireCmd m).core c = s.core c := rfl
@[simp] theorem cmds_retireCmd (s : State) (m : Cmd) : (s.retireCmd m).cmds = s.cmds.filter fun e => e.n ≠ m.n := rfl
@[simp] theorem timer_retireCmd (s : State) (m : Cmd) : (s.retireCmd m).timer = s.timer := rfl

/-- A runtime fault of a command whose strand is still in its slot is the one asynchronous trap that waits there (R430). -/
theorem async_engineFault {e : Byte} (hocc : (s.slot m.slot).occ = .active) (huid : (s.slot m.slot).uid = m.uid)
    (hasync : (s.slot m.slot).async = []) :
    ((s.engineFault m e).slot m.slot).async = [⟨0x0A, e, 0, true, false, [m.pc, m.value], s.timer.toNat⟩] := by
  have hstrand : (s.slot m.slot).holdsStrand = true := by simp [Slot.holdsStrand, hocc]
  simp [State.engineFault, hstrand, huid, State.postAsync, hasync]

end

/-! ### Arrival counters (R263) -/

section
variable {s : State} {cl off x : Nat}

theorem lsDword_storeLs_nat {n : Nat} (d : Nat) (hn : n < 2 ^ 64) (h : s.ls.wf = true) :
    (s.storeLs d cl off (leBytes 8 n)).lsDword cl off = BitVec.ofNat 64 n := by
  have := lsDword_storeLs (cl := cl) (off := off) d (BitVec.ofNat 64 n) h
  rwa [BitVec.toNat_ofNat, Nat.mod_eq_of_lt hn] at this

theorem isFull_setFull_true (s : State) (cl off : Nat) : (s.setFull cl off true).isFull cl off = true := by
  simp [State.setFull, State.isFull]

/-- PENDING is the counter's low 48 bits, so one step on it is a sum modulo 2^48 (R263). -/
theorem pending_add (v : Dword) (x : Nat) : (bits v 47 0 + x) % 2 ^ 48 = (v.toNat + x) % 2 ^ 48 := by
  rw [bits_low, Nat.mod_add_mod]

/-- A step that arms the counter and brings PENDING to zero clears the word and fills it. -/
theorem arrive_zero {d : Nat} (hp : ((s.lsDword cl off).toNat + x) % 2 ^ 48 = 0) :
    s.arrive d cl off x true = (s.storeLs d cl off (leBytes 8 0)).setFull cl off true := by
  rw [State.arrive, pending_add, if_pos ⟨by simp, hp⟩]

/-- One that leaves PENDING above zero stores it with ARMED. -/
theorem arrive_armed {d : Nat} (hp : ((s.lsDword cl off).toNat + x) % 2 ^ 48 ≠ 0) :
    s.arrive d cl off x true =
      s.storeLs d cl off (leBytes 8 (2 ^ 63 + ((s.lsDword cl off).toNat + x) % 2 ^ 48)) := by
  rw [State.arrive, pending_add, if_neg fun h => hp h.2]
  simp

end

/-! ### The lease (R252, R253) -/

section
variable {s : State} {cl c : Nat}

theorem exec_leaseGrant (hw : s.ev.who = cl) (hfree : (s.cluster cl).lease = none) (hnext : s.leaseNext cl = some c) :
    exec .leaseGrant s = .next ((s.modCluster cl fun x => { x with lease := some c, lastLease := c % 4 }).modCore c fun x =>
      { x with leaseHeld := true, leaseWait := false, leaseCmds := 16, leaseCyc := 4096, leaseIdle := 0 }) := by
  subst hw
  show execLeaseGrant s = _
  simp [execLeaseGrant, hfree, hnext]

/-- No command of the holder runs between two boundaries of its groups (R252). -/
theorem between_boundaries_false
    (h : ∀ m ∈ s.cmds, m.q = 0 → m.core = c → m.started = true → m.done.isSome = true ∨ m.atBoundary = true) :
    (s.cmds.any fun m => m.q == 0 && m.core == c && m.started && m.done.isNone && !m.atBoundary) = false := by
  simp only [List.any_eq_false, Bool.and_eq_true, beq_iff_eq, Bool.not_eq_true', Option.isNone_iff_eq_none]
  rintro m hm ⟨⟨⟨⟨hq, hc⟩, hs⟩, hd⟩, hb⟩
  rcases h m hm hq hc hs with h | h
  · simp [hd] at h
  · simp [hb] at h

/-- Out of commands or of cycles, and between two boundaries of its groups with none of its commands, the holder loses the lease. -/
theorem exec_leaseEnd (hw : s.ev.who = cl) (hl : (s.cluster cl).lease = some c)
    (hout : (s.core c).leaseCmds = 0 ∨ (s.core c).leaseCyc = 0)
    (hb : ∀ m ∈ s.cmds, m.q = 0 → m.core = c → m.started = true → m.done.isSome = true ∨ m.atBoundary = true) :
    exec .leaseEnd s = .next ((s.modCluster cl fun y => { y with lease := none }).modCore c fun y => { y with
      leaseHeld := false
      leaseWait := s.cmds.any fun m => m.q == 0 && m.core == c && m.accepted && m.done.isNone
      leaseCmds := 0, leaseCyc := 0, leaseIdle := 0 }) := by
  have hlimit : ((s.core c).leaseCmds == 0 || (s.core c).leaseCyc == 0) = true := by simpa using hout
  subst hw
  show execLeaseEnd s = _
  simp only [execLeaseEnd, hl, between_boundaries_false hb, hlimit, Bool.false_or, Bool.true_or, Bool.not_true]
  rfl

end

/-- Settles O40: each clause is the equation of its step above, read at the parts of the state that it names. -/
theorem tileFrameResults : Obligations.TileFrameResults := by
  intro s a b g l q h w k y
  refine ⟨fun as rs u hwf hready hroom hacq hrel htrap hrecs hchecks => exec_tcmd hwf hready hroom hacq hrel htrap hrecs hchecks,
    fun m hm hs hv => ⟨fun f k r hd hc ht hfwd hstrand => ?_, fun e f hd he hc ht hocc huid hasync => ?_,
      fun cl n rest _ hc => exec_arrivalCount hm hs hc⟩,
    fun cl off x hwf _ _ => ?_, fun cl c hw _ => ⟨fun hfree hnext => ?_, fun hl hout hb => ?_⟩⟩
  · refine ⟨_, exec_commandComplete hm hs hv hd hc, ?_⟩
    simp only [ht, if_true]
    rw [deliverFill_here (s := s.retireCmd m) hfwd hstrand]
    refine ⟨rfl, fun hr => ?_⟩
    rw [slot_fillReg]
    exact ⟨readG_setG_same _ hr, gState_setG_same _ hr⟩
  · refine ⟨_, exec_commandComplete hm hs hv hd hc, ?_⟩
    simp only [ht, if_neg he]
    exact async_engineFault (s := s.retireCmd m) hocc huid hasync
  · dsimp only
    split
    next hp =>
      rw [arrive_zero hp]
      exact ⟨(lsDword_of_ls (State.setFull_ls ..) cl off).trans (lsDword_storeLs_nat 0 (by decide) hwf), isFull_setFull_true ..⟩
    next hp =>
      rw [arrive_armed hp]
      exact lsDword_storeLs_nat 0 (by omega) hwf
  · refine ⟨_, exec_leaseGrant hw hfree hnext, ?_⟩
    simp
  · refine ⟨_, exec_leaseEnd hw hl hout hb, ?_⟩
    simp

end Sys2Proof.Machine
end

section
/-! The encoding, both ways: every instruction comes back from its bytes, and every accepted word from its instruction (R306, R307,
R313). -/

namespace Sys2Proof

/-- Settles O1, constructor by constructor. -/
theorem decodeOfEncode : Obligations.DecodeOfEncode := Laws.roundTrip_statement

/-! ### From a word to its instruction and back -/

/-- What is decoded, if anything, encodes to a word. -/
def EncodesTo (w : Word) : Except IllegalCode Instr → Prop
  | .ok i => encodeWord i = some w
  | .error _ => True

theorem EncodesTo.of_pack {v w : Word} {r : Except IllegalCode Instr} (h : v = w) (he : EncodesTo v r) : EncodesTo w r := h ▸ he

section
variable {e : IllegalCode} {c o : Bool} {i j : Instr} {w : Word}

@[simp] theorem encodesTo_ok : EncodesTo w (.ok i) ↔ encodeWord i = some w := Iff.rfl
@[simp] theorem encodesTo_error : EncodesTo w (.error e) ↔ True := Iff.rfl

@[simp] theorem encodesTo_need : EncodesTo w (need e c i) ↔ (c = true → encodeWord i = some w) := by
  cases c <;> simp [need]

@[simp] theorem encodesTo_need2 : EncodesTo w (need2 c o i) ↔ (c = true → o = true → encodeWord i = some w) := by
  cases c <;> cases o <;> simp [need2]
end

theorem FmtA.pack_unpack (w : Word) : (FmtA.unpack w).pack = w := by
  ext k hk
  simp [FmtA.pack, FmtA.unpack]
  grind

theorem FmtI.pack_unpack (w : Word) : (FmtI.unpack w).pack = w := by
  ext k hk
  simp [FmtI.pack, FmtI.unpack]
  grind

theorem FmtU.pack_unpack (w : Word) : (FmtU.unpack w).pack = w := by
  ext k hk
  simp [FmtU.pack, FmtU.unpack]
  grind

theorem FmtB.pack_unpack (w : Word) : (FmtB.unpack w).pack = w := by
  ext k hk
  simp [FmtB.pack, FmtB.unpack]
  grind

theorem FmtM.pack_unpack (w : Word) : (FmtM.unpack w).pack = w := by
  ext k hk
  simp [FmtM.pack, FmtM.unpack]
  grind

theorem FmtX.pack_unpack (w : Word) : (FmtX.unpack w).pack = w := by
  ext k hk
  simp [FmtX.pack, FmtX.unpack]
  grind

theorem FmtO.pack_unpack (w : Word) : (FmtO.unpack w).pack = w := by
  ext k hk
  simp [FmtO.pack, FmtO.unpack]
  grind

theorem FmtV.pack_unpack (w : Word) : (FmtV.unpack w).pack = w := by
  ext k hk
  simp [FmtV.pack, FmtV.unpack]
  grind

theorem FmtW.pack_unpack (w : Word) : (FmtW.unpack w).pack = w := by
  ext k hk
  simp [FmtW.pack, FmtW.unpack]
  grind

theorem FmtT.pack_unpack (w : Word) : (FmtT.unpack w).pack = w := by
  ext k hk
  simp [FmtT.pack, FmtT.unpack]
  grind

theorem high3_append : ∀ d : BitVec 5, d.extractLsb' 0 2 = 0 → d.extractLsb' 2 3 ++ 0#2 = d := by decide
theorem low3_append : ∀ d : BitVec 5, d.extractLsb' 3 2 = 0 → 0#2 ++ d.extractLsb' 0 3 = d := by decide
theorem low2_append : ∀ d : BitVec 3, d.extractLsb' 2 1 = 0 → 0#1 ++ d.extractLsb' 0 2 = d := by decide

theorem cmpi_append (i : BitVec 13) : i.extractLsb' 10 3 ++ i.extractLsb' 0 10 = i := by
  ext k hk
  simp
  grind

theorem shift_append {i : BitVec 13} {k : BitVec 7} (hk : i.extractLsb' 11 2 ++ i.extractLsb' 6 5 = k) :
    k ++ i.extractLsb' 0 6 = i := by
  subst hk
  ext k hk
  simp
  grind

theorem csrfi_append {i : BitVec 13} (hz : i.extractLsb' 12 1 = 0) : 0#1 ++ i.extractLsb' 0 12 = i := by
  rw [show (0#1 : BitVec 1) = i.extractLsb' 12 1 from hz.symm]
  ext k hk
  simp
  grind

theorem fence_append : ∀ f : BitVec 8, f.extractLsb' 5 3 = 0 → (f.extractLsb' 3 2 = 0 → 0#5 ++ f.extractLsb' 0 3 = f) ∧
    (f.extractLsb' 3 2 = 1 → 1#5 ++ f.extractLsb' 0 3 = f) ∧ (f.extractLsb' 3 2 = 2 → 2#5 ++ f.extractLsb' 0 3 = f) := by decide
theorem fp_append {f : BitVec 8} {k : BitVec 7} (hk : f.extractLsb' 0 7 = k) : f.extractLsb' 7 1 ++ k = f := by
  subst hk
  revert f
  decide
theorem fcmp_append : ∀ f : BitVec 8, 0x10#7 ≤ f.extractLsb' 0 7 → f.extractLsb' 0 7 ≤ 0x14#7 →
    (f.extractLsb' 7 1 ++ 2#4 : BitVec 5) ++ f.extractLsb' 0 3 = f := by decide
theorem fcvt_append : ∀ f : BitVec 8, f.extractLsb' 6 1 = 1 → f.extractLsb' 7 1 ≠ 1 →
    (1#2 ++ f.extractLsb' 3 3 : BitVec 5) ++ f.extractLsb' 0 3 = f := by decide
theorem round_append : ∀ b : BitVec 5, b.extractLsb' 0 2 = 0 → (b.extractLsb' 3 2 ++ b.extractLsb' 2 1 : BitVec 3) ++ 0#2 = b := by
  decide
theorem trap_append : ∀ d a : BitVec 5, (d.extractLsb' 2 3 = 0 → 0#3 ++ (d.extractLsb' 0 2 ++ a : BitVec 7).extractLsb' 5 2 = d) ∧
    (d.extractLsb' 0 2 ++ a : BitVec 7).extractLsb' 0 5 = a := by decide
theorem scalar_append : ∀ a b : BitVec 3, (a ++ b.extractLsb' 1 2 : BitVec 5).extractLsb' 2 3 = a ∧
    (b.extractLsb' 0 1 = 0 → (a ++ b.extractLsb' 1 2 : BitVec 5).extractLsb' 0 2 ++ 0#1 = b) := by decide
theorem vcvt_append : ∀ f : BitVec 8,
    ((f.extractLsb' 7 1 ++ f.extractLsb' 5 2 : BitVec 3) ++ f.extractLsb' 4 1 : BitVec 4) ++ f.extractLsb' 0 4 = f := by decide

theorem encodesTo_decodeAlu {x : FmtA} (h : x.maj = 0x01) : EncodesTo x.pack (decodeAlu x) := by
  obtain ⟨maj, d, a, b, g, f⟩ := x
  subst h
  simp only [decodeAlu]
  split <;> simp only [encodesTo_ok, encodesTo_error, encodesTo_need, beq_iff_eq]
  all_goals (intros; refine congrArg some ?_; simp [*])

theorem encodesTo_decodePred {x : FmtA} (h : x.maj = 0x0B) : EncodesTo x.pack (decodePred x) := by
  obtain ⟨maj, d, a, b, g, f⟩ := x
  subst h
  simp only [decodePred]
  split <;> simp only [encodesTo_ok, encodesTo_error, encodesTo_need, beq_iff_eq, Bool.and_eq_true, and_imp]
  all_goals (intros; refine congrArg some ?_; simp [high3_append, *])

theorem encodesTo_decodeCmp {x : FmtA} (h : x.maj = 0x0A) : EncodesTo x.pack (decodeCmp x) := by
  obtain ⟨maj, d, a, b, g, f⟩ := x
  subst h
  simp only [decodeCmp]
  split <;> simp only [encodesTo_error, encodesTo_need, beq_iff_eq]
  all_goals (intros; refine congrArg some ?_; simp [high3_append, *])

theorem encodesTo_decodeMulDiv {x : FmtX} (h : x.maj = 0x0D) : EncodesTo x.pack (decodeMulDiv x) := by
  obtain ⟨maj, d, a, b, g, l, f⟩ := x
  subst h
  simp only [decodeMulDiv]
  split <;> simp only [encodesTo_ok, encodesTo_error]
  all_goals (refine congrArg some ?_; simp [*])

theorem encodesTo_decodeMemx {x : FmtX} (h : x.maj = 0x1F) : EncodesTo x.pack (decodeMemx x) := by
  obtain ⟨maj, d, a, b, g, l, f⟩ := x
  subst h
  simp only [decodeMemx]
  split <;> simp only [encodesTo_ok, encodesTo_error, encodesTo_need, beq_iff_eq, Bool.and_eq_true, and_imp]
  all_goals (intros; refine congrArg some ?_; simp [*])

theorem encodesTo_decodeFence {x : FmtA} (h : x.maj = 0x20) : EncodesTo x.pack (decodeFence x) := by
  obtain ⟨maj, d, a, b, g, f⟩ := x
  subst h
  simp only [decodeFence]
  split <;> simp only [encodesTo_error, encodesTo_need, beq_iff_eq, Bool.and_eq_true, and_imp]
  all_goals (intros; refine congrArg some ?_; simp [fence_append, *])

theorem encodesTo_decodeAmo {x : FmtO} (h : x.maj = 0x21) : EncodesTo x.pack (decodeAmo x) := by
  obtain ⟨maj, d, a, b, z, c, l, f⟩ := x
  subst h
  simp only [decodeAmo]
  split <;> simp only [encodesTo_ok, encodesTo_error]
  all_goals (refine congrArg some ?_; simp [*])

theorem encodesTo_decodeMsg {x : FmtX} (h : x.maj = 0x23) : EncodesTo x.pack (decodeMsg x) := by
  obtain ⟨maj, d, a, b, g, l, f⟩ := x
  subst h
  simp only [decodeMsg]
  split <;> simp only [encodesTo_ok, encodesTo_error, encodesTo_need, beq_iff_eq]
  all_goals (intros; refine congrArg some ?_; simp [*])

theorem encodesTo_decodeTask {x : FmtX} (h : x.maj = 0x24) : EncodesTo x.pack (decodeTask x) := by
  obtain ⟨maj, d, a, b, g, l, f⟩ := x
  subst h
  simp only [decodeTask]
  split <;> simp only [encodesTo_ok, encodesTo_error, encodesTo_need, encodesTo_need2, beq_iff_eq, Bool.and_eq_true, and_imp]
  all_goals (intros; refine congrArg some ?_; simp [*])

theorem encodesTo_decodeStream {x : FmtX} (h : x.maj = 0x25) : EncodesTo x.pack (decodeStream x) := by
  obtain ⟨maj, d, a, b, g, l, f⟩ := x
  subst h
  simp only [decodeStream]
  split <;> simp only [encodesTo_ok, encodesTo_error, encodesTo_need, beq_iff_eq, Bool.and_eq_true, and_imp]
  all_goals (intros; refine congrArg some ?_; simp [*])

theorem encodesTo_decodeCast {x : FmtX} (h : x.maj = 0x26) : EncodesTo x.pack (decodeCast x) := by
  obtain ⟨maj, d, a, b, g, l, f⟩ := x
  subst h
  simp only [decodeCast]
  split <;> simp only [encodesTo_ok, encodesTo_error, encodesTo_need, beq_iff_eq]
  all_goals (intros; refine congrArg some ?_; simp [*])

theorem encodesTo_decodeGram {x : FmtX} (h : x.maj = 0x27) : EncodesTo x.pack (decodeGram x) := by
  obtain ⟨maj, d, a, b, g, l, f⟩ := x
  subst h
  simp only [decodeGram]
  split <;> simp only [encodesTo_ok, encodesTo_error, encodesTo_need, beq_iff_eq]
  all_goals (intros; refine congrArg some ?_; simp [high3_append, *])

theorem encodesTo_decodeSys {x : FmtA} (h : x.maj = 0x28) : EncodesTo x.pack (decodeSys x) := by
  obtain ⟨maj, d, a, b, g, f⟩ := x
  subst h
  simp only [decodeSys]
  split <;> simp only [encodesTo_ok, encodesTo_error, encodesTo_need, beq_iff_eq, Bool.and_eq_true, and_imp]
  all_goals (intros; refine congrArg some ?_; simp [trap_append, *])

theorem encodesTo_decodeValu {x : FmtV} (h : x.maj = 0x30) : EncodesTo x.pack (decodeValu x) := by
  obtain ⟨maj, d, a, b, m, t, l, f⟩ := x
  subst h
  simp only [decodeValu]
  split <;> simp only [encodesTo_ok, encodesTo_error, encodesTo_need, beq_iff_eq]
  all_goals (intros; refine congrArg some ?_; simp [*])

theorem encodesTo_decodeVfp {x : FmtV} (h : x.maj = 0x31) : EncodesTo x.pack (decodeVfp x) := by
  obtain ⟨maj, d, a, b, m, t, l, f⟩ := x
  subst h
  simp only [decodeVfp]
  split <;> simp only [encodesTo_ok, encodesTo_error, encodesTo_need, beq_iff_eq]
  all_goals (intros; refine congrArg some ?_; simp [*])

theorem encodesTo_decodeVmem {x : FmtW} (h : x.maj = 0x32) : EncodesTo x.pack (decodeVmem x) := by
  obtain ⟨maj, d, a, b, m, t, l, f⟩ := x
  subst h
  simp only [decodeVmem]
  split <;> simp only [encodesTo_ok, encodesTo_error, encodesTo_need, beq_iff_eq, Bool.and_eq_true, and_imp]
  all_goals (intros; refine congrArg some ?_; simp [low3_append, low2_append, *])

theorem encodesTo_decodeVred {x : FmtV} (h : x.maj = 0x33) : EncodesTo x.pack (decodeVred x) := by
  obtain ⟨maj, d, a, b, m, t, l, f⟩ := x
  subst h
  simp only [decodeVred]
  split <;> simp only [encodesTo_ok, encodesTo_error, encodesTo_need, beq_iff_eq]
  all_goals (intros; refine congrArg some ?_; simp [*])

theorem encodesTo_decodeVperm {x : FmtV} (h : x.maj = 0x34) : EncodesTo x.pack (decodeVperm x) := by
  obtain ⟨maj, d, a, b, m, t, l, f⟩ := x
  subst h
  simp only [decodeVperm]
  split <;> simp only [encodesTo_ok, encodesTo_error, encodesTo_need, beq_iff_eq, Bool.and_eq_true, and_imp]
  all_goals (intros; refine congrArg some ?_; simp [scalar_append, *])

theorem encodesTo_decodeVmask {x : FmtV} (h : x.maj = 0x35) : EncodesTo x.pack (decodeVmask x) := by
  obtain ⟨maj, d, a, b, m, t, l, f⟩ := x
  subst h
  simp only [decodeVmask]
  split <;> simp only [encodesTo_error, encodesTo_need, beq_iff_eq, Bool.and_eq_true, and_imp]
  all_goals (intros; refine congrArg some ?_; simp [low2_append, scalar_append, *])

theorem encodesTo_decodeVgen {x : FmtV} (h : x.maj = 0x37) : EncodesTo x.pack (decodeVgen x) := by
  obtain ⟨maj, d, a, b, m, t, l, f⟩ := x
  subst h
  simp only [decodeVgen]
  split <;> simp only [encodesTo_error, encodesTo_need, encodesTo_need2, beq_iff_eq, Bool.and_eq_true, and_imp]
  all_goals (intros; refine congrArg some ?_; simp [*])

theorem encodesTo_decodeShiftImm {x : FmtI} (h : x.maj = 0x06) : EncodesTo x.pack (decodeShiftImm x) := by
  obtain ⟨maj, d, a, g, i⟩ := x
  subst h
  simp only [decodeShiftImm]
  split <;> simp only [encodesTo_error, encodesTo_need, beq_iff_eq]
  all_goals
    intro hz
    refine congrArg some ?_
    simp [shift_append, *]

theorem encodesTo_decodeCmpi {x : FmtI} (h : x.maj = 0x07) : EncodesTo x.pack (decodeCmpi x) := by
  obtain ⟨maj, d, a, g, i⟩ := x
  subst h
  simp only [decodeCmpi]
  split <;> simp only [encodesTo_error, encodesTo_need, beq_iff_eq]
  intro hd
  refine congrArg some ?_
  simp [high3_append d hd, cmpi_append]

theorem encodesTo_decodeCsrfi {x : FmtI} (h : x.maj = 0x29) : EncodesTo x.pack (decodeCsrfi x) := by
  obtain ⟨maj, d, a, g, i⟩ := x
  subst h
  simp only [decodeCsrfi, encodesTo_need, beq_iff_eq]
  intro hz
  refine congrArg some ?_
  simp [csrfi_append hz]

theorem encodesTo_decodeVcvt {x : FmtV} (h : x.maj = 0x36) : EncodesTo x.pack (decodeVcvt x) := by
  obtain ⟨maj, d, a, b, m, t, l, f⟩ := x
  subst h
  refine congrArg some ?_
  simp [vcvt_append]

theorem encodesTo_decodeStrand {x : FmtX} (h : x.maj = 0x22) : EncodesTo x.pack (decodeStrand x) := by
  obtain ⟨maj, d, a, b, g, l, f⟩ := x
  subst h
  simp only [decodeStrand]
  split <;> simp only [encodesTo_ok, encodesTo_error, encodesTo_need, encodesTo_need2, beq_iff_eq, Bool.and_eq_true, and_imp]
  case h_6 =>
    split_ifs <;> simp only [encodesTo_ok, encodesTo_error]
    all_goals (refine congrArg some ?_; simp [*])
  all_goals (intros; refine congrArg some ?_; simp [low3_append, *])

theorem encodesTo_decodeFp {x : FmtA} (h : x.maj = 0x0C) : EncodesTo x.pack (decodeFp x) := by
  obtain ⟨maj, d, a, b, g, f⟩ := x
  subst h
  simp only [decodeFp]
  split
  next hf =>
    split <;> simp only [encodesTo_error, encodesTo_need, beq_iff_eq]
    next hk =>
    intro hb
    refine congrArg some ?_
    simp_all [round_append, fcvt_append]
  next hf =>
    split <;> simp only [encodesTo_ok, encodesTo_error, encodesTo_need, beq_iff_eq]
    all_goals (intros; refine congrArg some ?_; simp [high3_append, fp_append, fcmp_append, *])

/-! The majors whose formats hold one instruction each. -/

theorem encodesTo_decodeImm {c : BitVec 5 → BitVec 5 → BitVec 3 → BitVec 13 → Instr} {x : FmtI} {m : BitVec 6}
    (hc : ∀ d a g i, encodeWord (c d a g i) = some (FmtI.pack ⟨m, d, a, g, i⟩)) (h : x.maj = m) :
    EncodesTo x.pack (decodeImm c x) := by
  subst h
  exact hc ..

theorem encodesTo_decodeU {c : BitVec 5 → BitVec 21 → Instr} {x : FmtU} {m : BitVec 6}
    (hc : ∀ d i, encodeWord (c d i) = some (FmtU.pack ⟨m, d, i⟩)) (h : x.maj = m) :
    EncodesTo x.pack (decodeU c x) := by
  subst h
  exact hc ..

theorem encodesTo_decodeB {c : BitVec 3 → BitVec 23 → Instr} {x : FmtB} {m : BitVec 6}
    (hc : ∀ p i, encodeWord (c p i) = some (FmtB.pack ⟨m, p, i⟩)) (h : x.maj = m) :
    EncodesTo x.pack (decodeB c x) := by
  subst h
  exact hc ..

theorem encodesTo_decodeMem {c : BitVec 5 → BitVec 5 → BitVec 3 → BitVec 4 → BitVec 9 → Instr} {x : FmtM} {m : BitVec 6}
    (hc : ∀ d a g l o, encodeWord (c d a g l o) = some (FmtM.pack ⟨m, d, a, g, l, o⟩)) (h : x.maj = m) :
    EncodesTo x.pack (decodeMem c x) := by
  subst h
  exact hc ..

theorem encodesTo_decodeTcmd {x : FmtT} {p : TilePayload} (h : x.maj = 0x3C) : EncodesTo x.pack (decodeTcmd x p) := by
  obtain ⟨maj, a, b, g, l, q, k⟩ := x
  subst h
  rfl

theorem encodesTo_decodeWord (w : Word) : EncodesTo w (decodeWord w) := by
  unfold decodeWord
  split
  all_goals rename_i h
  · trivial
  · exact .of_pack (FmtA.pack_unpack w) (encodesTo_decodeAlu h)
  · exact .of_pack (FmtI.pack_unpack w) (encodesTo_decodeImm (fun _ _ _ _ => rfl) h)
  · exact .of_pack (FmtI.pack_unpack w) (encodesTo_decodeImm (fun _ _ _ _ => rfl) h)
  · exact .of_pack (FmtI.pack_unpack w) (encodesTo_decodeImm (fun _ _ _ _ => rfl) h)
  · exact .of_pack (FmtI.pack_unpack w) (encodesTo_decodeImm (fun _ _ _ _ => rfl) h)
  · exact .of_pack (FmtI.pack_unpack w) (encodesTo_decodeShiftImm h)
  · exact .of_pack (FmtI.pack_unpack w) (encodesTo_decodeCmpi h)
  · exact .of_pack (FmtU.pack_unpack w) (encodesTo_decodeU (fun _ _ => rfl) h)
  · exact .of_pack (FmtU.pack_unpack w) (encodesTo_decodeU (fun _ _ => rfl) h)
  · exact .of_pack (FmtA.pack_unpack w) (encodesTo_decodeCmp h)
  · exact .of_pack (FmtA.pack_unpack w) (encodesTo_decodePred h)
  · exact .of_pack (FmtA.pack_unpack w) (encodesTo_decodeFp h)
  · exact .of_pack (FmtX.pack_unpack w) (encodesTo_decodeMulDiv h)
  · exact .of_pack (FmtB.pack_unpack w) (encodesTo_decodeB (fun _ _ => rfl) h)
  · exact .of_pack (FmtB.pack_unpack w) (encodesTo_decodeB (fun _ _ => rfl) h)
  · exact .of_pack (FmtU.pack_unpack w) (encodesTo_decodeU (fun _ _ => rfl) h)
  · exact .of_pack (FmtI.pack_unpack w) (encodesTo_decodeImm (fun _ _ _ _ => rfl) h)
  · exact .of_pack (FmtM.pack_unpack w) (encodesTo_decodeMem (fun _ _ _ _ _ => rfl) h)
  · exact .of_pack (FmtM.pack_unpack w) (encodesTo_decodeMem (fun _ _ _ _ _ => rfl) h)
  · exact .of_pack (FmtM.pack_unpack w) (encodesTo_decodeMem (fun _ _ _ _ _ => rfl) h)
  · exact .of_pack (FmtM.pack_unpack w) (encodesTo_decodeMem (fun _ _ _ _ _ => rfl) h)
  · exact .of_pack (FmtM.pack_unpack w) (encodesTo_decodeMem (fun _ _ _ _ _ => rfl) h)
  · exact .of_pack (FmtM.pack_unpack w) (encodesTo_decodeMem (fun _ _ _ _ _ => rfl) h)
  · exact .of_pack (FmtM.pack_unpack w) (encodesTo_decodeMem (fun _ _ _ _ _ => rfl) h)
  · exact .of_pack (FmtM.pack_unpack w) (encodesTo_decodeMem (fun _ _ _ _ _ => rfl) h)
  · exact .of_pack (FmtM.pack_unpack w) (encodesTo_decodeMem (fun _ _ _ _ _ => rfl) h)
  · exact .of_pack (FmtM.pack_unpack w) (encodesTo_decodeMem (fun _ _ _ _ _ => rfl) h)
  · exact .of_pack (FmtM.pack_unpack w) (encodesTo_decodeMem (fun _ _ _ _ _ => rfl) h)
  · exact .of_pack (FmtX.pack_unpack w) (encodesTo_decodeMemx h)
  · exact .of_pack (FmtA.pack_unpack w) (encodesTo_decodeFence h)
  · exact .of_pack (FmtO.pack_unpack w) (encodesTo_decodeAmo h)
  · exact .of_pack (FmtX.pack_unpack w) (encodesTo_decodeStrand h)
  · exact .of_pack (FmtX.pack_unpack w) (encodesTo_decodeMsg h)
  · exact .of_pack (FmtX.pack_unpack w) (encodesTo_decodeTask h)
  · exact .of_pack (FmtX.pack_unpack w) (encodesTo_decodeStream h)
  · exact .of_pack (FmtX.pack_unpack w) (encodesTo_decodeCast h)
  · exact .of_pack (FmtX.pack_unpack w) (encodesTo_decodeGram h)
  · exact .of_pack (FmtA.pack_unpack w) (encodesTo_decodeSys h)
  · exact .of_pack (FmtI.pack_unpack w) (encodesTo_decodeCsrfi h)
  · exact .of_pack (FmtV.pack_unpack w) (encodesTo_decodeValu h)
  · exact .of_pack (FmtV.pack_unpack w) (encodesTo_decodeVfp h)
  · exact .of_pack (FmtW.pack_unpack w) (encodesTo_decodeVmem h)
  · exact .of_pack (FmtV.pack_unpack w) (encodesTo_decodeVred h)
  · exact .of_pack (FmtV.pack_unpack w) (encodesTo_decodeVperm h)
  · exact .of_pack (FmtV.pack_unpack w) (encodesTo_decodeVmask h)
  · exact .of_pack (FmtV.pack_unpack w) (encodesTo_decodeVcvt h)
  · exact .of_pack (FmtV.pack_unpack w) (encodesTo_decodeVgen h)
  · exact .of_pack (FmtT.pack_unpack w) (encodesTo_decodeTcmd h)
  · trivial
  · trivial

/-- Settles O2, major by major: the fields that a decoder reads and the reserved ones that it checks are all that its format packs. -/
theorem encodeOfDecode : Obligations.EncodeOfDecode := by
  intro w i h
  have hw := encodesTo_decodeWord w
  rwa [h] at hw

/-! ### Words of the tables (R307, R308, R313) -/

section
variable {w : Word}

theorem decodeWord_of_unassigned (h : w.extractLsb' 26 6 = 0x00 ∨ w.extractLsb' 26 6 = 0x3F) : decodeWord w = .error .major := by
  rcases h with h | h <;> (rw [decodeWord, h]; rfl)

theorem decodeWord_of_reserved (h : w.extractLsb' 26 6 ∈ ([0x0E, 0x0F, 0x2A, 0x2B, 0x2C, 0x2D, 0x2E, 0x2F, 0x38, 0x39, 0x3A, 0x3B, 0x3D,
    0x3E] : List (BitVec 6))) : decodeWord w = .error .rsvMajor := by
  simp only [List.mem_cons, List.not_mem_nil, or_false] at h
  rcases h with h | h | h | h | h | h | h | h | h | h | h | h | h | h <;> (rw [decodeWord, h]; rfl)

end

/-- Settles O3: the written words by evaluation, the refused majors by the decoder's table. -/
theorem decodedWords : Obligations.DecodedWords :=
  ⟨by decide, fun _ => ⟨decodeWord_of_unassigned, decodeWord_of_reserved⟩⟩

end Sys2Proof
end

section
/-! The registers of a strand: the fixed ones, and a write of any kind (R244, R304). -/

namespace Sys2Proof.Machine

section
variable (x : Slot)

theorem readP_setP_same {n : BitVec 3} (b : Bool) (h : n ≠ 0) : (x.setP n b).readP n = b := by
  have hlt : n.toNat < 8 := n.isLt
  have h0 : n ≠ 0#3 := h
  rw [Slot.setP, if_neg h]
  cases b <;> simp [Slot.readP, h0, hlt]

theorem readV_setV (n m : BitVec 3) (v : BitVec 4096) : (x.setV m v).readV n = if n = m then v else x.readV n := by
  simp only [Slot.readV, Slot.setV, Vector.get_eq_getElem, Vector.getElem_set, BitVec.toNat_inj, eq_comm]

theorem vState_setV (n m : BitVec 3) (v : BitVec 4096) : (x.setV m v).vState n = if n = m then .full else x.vState n := by
  simp only [Slot.vState, Slot.setV, Vector.get_eq_getElem, Vector.getElem_set, BitVec.toNat_inj, eq_comm]

theorem readM_setM (n : BitVec 2) {m : BitVec 2} (v : BitVec 512) (h : m ≠ 0) :
    (x.setM m v).readM n = if n = m then v else x.readM n := by
  simp only [Slot.readM, Slot.setM, if_neg h, Vector.get_eq_getElem, Vector.getElem_set, BitVec.toNat_inj]
  grind

theorem mState_setM (n : BitVec 2) {m : BitVec 2} (v : BitVec 512) (h : m ≠ 0) :
    (x.setM m v).mState n = if n = m then .full else x.mState n := by
  simp only [Slot.mState, Slot.setM, if_neg h, Vector.get_eq_getElem, Vector.getElem_set, BitVec.toNat_inj]
  grind

theorem setM_zero (v : BitVec 512) : x.setM 0 v = x := if_pos rfl

theorem readM_setM_other {n m : BitVec 2} (v : BitVec 512) (h : n ≠ m) :
    (x.setM m v).readM n = x.readM n ∧ (x.setM m v).mState n = x.mState n := by
  by_cases h0 : m = 0
  · subst h0
    rw [setM_zero]
    exact ⟨rfl, rfl⟩
  · rw [readM_setM x n v h0, mState_setM x n v h0, if_neg h, if_neg h]
    exact ⟨rfl, rfl⟩

end

/-- Settles O56, kind by kind. -/
theorem fixedRegisters : Obligations.FixedRegisters := by
  intro x n n' p p' v v' m m' b a e f r
  refine ⟨⟨rfl, rfl, rfl, rfl, rfl⟩, ⟨rfl, rfl, rfl⟩, fun h => ?g, fun h => ?g', readP_setP_same x b, readP_setP_other x b, ?v, fun h => ?v',
    fun h => ?m, readM_setM_other x f, rfl, rfl⟩
  case g => exact ⟨readG_setG_same a h, gState_setG_same a h⟩
  case g' => exact ⟨readG_setG_other x a h, gState_setG_other x a h⟩
  case v => rw [readV_setV, vState_setV, if_pos rfl, if_pos rfl]; exact ⟨rfl, rfl⟩
  case v' => rw [readV_setV, vState_setV, if_neg h, if_neg h]; exact ⟨rfl, rfl⟩
  case m => rw [readM_setM x m f h, mState_setM x m f h, if_pos rfl, if_pos rfl]; exact ⟨rfl, rfl⟩

end Sys2Proof.Machine
end

section
/-! The scalar instructions: integers, immediates, compares, division, floating point, branches and jumps (R331–R344). -/

namespace Sys2Proof.Machine

/-! ### Short instructions and their values (R330) -/

section
variable {s : State} {d a b : BitVec 5} {g p : BitVec 3} {v : Dword} {i : Instr}

/-- An instruction without an operand limit that is neither a barrier nor a release (R101, R102, R313). -/
structure Plain (i : Instr) : Prop where
  legal   : i.illegal = none
  barrier : isBarrier i = false
  release : isRelease i = false

theorem shortG_gives {q : Issue} {f : Slot → Dword} (h : Ready s q.guard q.la.isSome q.reads (.g d :: q.writes)) (hi : Plain q.instr)
    (hs : q.size = 4) (hh : q.hold s = false) (hc : q.check s = none) (hv : f (s.slot s.focus) = v) :
    shortG q d f s = .next ((s.issued 4).writeG s.focus d v) := by
  rw [shortG_ready h hi.legal hh hc, hi.barrier, hi.release, hs, hv]

theorem shortP_gives {q : Issue} {f : Slot → Bool} {c : Bool} (h : Ready s q.guard q.la.isSome q.reads (.p p :: q.writes))
    (hi : Plain q.instr) (hs : q.size = 4) (hh : q.hold s = false) (hc : q.check s = none) (hv : f (s.slot s.focus) = c) :
    shortP q p f s = .next ((s.issued 4).writeP s.focus p c) := by
  rw [shortP_ready h hi.legal hh hc, hi.barrier, hi.release, hs, hv]

theorem binG_gives {f : Dword → Dword → Dword} (h : Ready s g false [.g a, .g b] [.g d]) (hi : Plain i)
    (hv : f (s.readG s.focus a) (s.readG s.focus b) = v) : binG i d a b g f s = .next ((s.issued 4).writeG s.focus d v) :=
  shortG_gives (q := { instr := i, guard := g, reads := [.g a, .g b] }) h hi rfl rfl rfl hv

theorem unG_gives {f : Dword → Dword} (h : Ready s g false [.g a] [.g d]) (hi : Plain i)
    (hv : f (s.readG s.focus a) = v) : unG i d a g f s = .next ((s.issued 4).writeG s.focus d v) :=
  shortG_gives (q := { instr := i, guard := g, reads := [.g a] }) h hi rfl rfl rfl hv

end

/-! ### Numbers as dwords -/

section
variable (x y : Dword)

theorem add_eq_ofNat : x + y = BitVec.ofNat 64 (x.toNat + y.toNat) := by
  rw [BitVec.ofNat_add, BitVec.ofNat_toNat, BitVec.ofNat_toNat, BitVec.setWidth_eq, BitVec.setWidth_eq]

theorem sub_eq_ofInt : x - y = BitVec.ofInt 64 (x.toNat - y.toNat) := by
  rw [Int.sub_eq_add_neg, BitVec.ofInt_add, BitVec.ofInt_neg, BitVec.ofInt_natCast, BitVec.ofInt_natCast, BitVec.sub_eq_add_neg]
  simp

/-- The smaller of two values, by a strict or a weak test. -/
theorem ite_lt_swap {α : Type} [LinearOrder α] (f : Dword → α) : (if f y < f x then y else x) = if f x ≤ f y then x else y := by
  by_cases h : f y < f x
  · rw [if_pos h, if_neg h.not_ge]
  · rw [if_neg h, if_pos (not_lt.1 h)]

/-- The larger of two values, by a strict or a weak test: of equal ones it is the same either way. -/
theorem ite_lt_eq_ite_le {α : Type} [LinearOrder α] {f : Dword → α} (hf : f.Injective) :
    (if f x < f y then y else x) = if f x ≤ f y then y else x := by
  rcases lt_trichotomy (f x) (f y) with h | h | h
  · rw [if_pos h, if_pos h.le]
  · rw [hf h, ite_self, ite_self]
  · rw [if_neg h.not_gt, if_neg h.not_ge]

theorem ite_slt {α : Type} (u v : α) : (if x.slt y then u else v) = if x.toInt < y.toInt then u else v := by
  simp [BitVec.slt_eq_decide]

theorem ite_ult {α : Type} (u v : α) : (if x.ult y then u else v) = if x.toNat < y.toNat then u else v := by
  simp [BitVec.ult_eq_decide]

end

/-! ### Bit counts and fields (R331, R332) -/

section
variable (x y : Dword)

theorem clz_of_ne_zero {x : Dword} (h : x ≠ 0) :
    clz x < 64 ∧ x.getLsbD (63 - clz x) = true ∧ ∀ j, 63 - clz x < j → x.getLsbD j = false := by
  have h0 : x.toNat ≠ 0 := fun e => h (BitVec.eq_of_toNat_eq e)
  have hlt : x.toNat.log2 < 64 := (Nat.log2_lt h0).2 x.isLt
  have hclz : 63 - clz x = x.toNat.log2 := by rw [clz, if_neg h]; omega
  refine ⟨by rw [clz, if_neg h]; omega, ?_, fun j hj => ?_⟩
  · rw [hclz]
    exact Nat.testBit_log2 h0
  · rw [hclz] at hj
    exact Nat.testBit_lt_two_pow (Nat.lt_of_lt_of_le Nat.lt_log2_self (Nat.pow_le_pow_right (by decide) hj))

/-- The lowest set bit among those from 64 − n on. -/
theorem ctzFrom_spec {n : Nat} (hn : n ≤ 64) (h : ∃ j, 64 - n ≤ j ∧ x.getLsbD j = true) :
    ctzFrom x n < 64 ∧ x.getLsbD (ctzFrom x n) = true ∧ ∀ j, 64 - n ≤ j → j < ctzFrom x n → x.getLsbD j = false := by
  induction n with
  | zero =>
    obtain ⟨j, hj, hx⟩ := h
    rw [BitVec.getLsbD_of_ge _ _ (by omega)] at hx
    exact nomatch hx
  | succ n ih =>
    rw [ctzFrom]
    split
    next hb => exact ⟨by omega, hb, fun j _ _ => by omega⟩
    next hb =>
      have hb : x.getLsbD (63 - n) = false := by simpa using hb
      have hj {j : Nat} (hle : 64 - (n + 1) ≤ j) (hne : j ≠ 63 - n) : 64 - n ≤ j := by omega
      obtain ⟨j, hle, hx⟩ := h
      obtain ⟨hlt, hset, hlow⟩ := ih (by omega) ⟨j, hj hle fun e => by simp [e, hb] at hx, hx⟩
      refine ⟨hlt, hset, fun i hi hlo => ?_⟩
      by_cases he : i = 63 - n
      · rw [he, hb]
      · exact hlow i (hj hi he) hlo

theorem ctz_of_ne_zero {x : Dword} (h : x ≠ 0) :
    ctz x < 64 ∧ x.getLsbD (ctz x) = true ∧ ∀ j, j < ctz x → x.getLsbD j = false := by
  obtain ⟨-, hset, -⟩ := clz_of_ne_zero h
  obtain ⟨hlt, hset, hlow⟩ := ctzFrom_spec x (Nat.le_refl 64) ⟨_, Nat.zero_le _, hset⟩
  rw [ctz, if_neg h]
  exact ⟨hlt, hset, fun j => hlow j (Nat.zero_le _)⟩

theorem popBelow_eq {w : Nat} (x : BitVec w) (n : Nat) : popBelow x n = (List.range n).countP fun j => x.getLsbD j := by
  induction n with
  | zero => rfl
  | succ n ih => simp [popBelow, ih, List.range_succ, List.countP_append]

theorem getLsbD_brev {j : Nat} (h : j < 64) : (brev x).getLsbD j = x.getLsbD (63 - j) := by
  rw [brev, BitVec.getLsbD_reverse, BitVec.getMsbD_eq_getLsbD, decide_eq_true h, Bool.true_and]

theorem fieldPos_eq : fieldPos x = x.toNat % 64 := bits_low x 5

theorem fieldWidth_eq : fieldWidth x = min 63 (x.toNat % 64 + (x.toNat / 256 % 64 + 1) - 1) - x.toNat % 64 + 1 := by
  simp [fieldWidth, fieldPos_eq, bits]

theorem dw_ofI_toI {w f : Nat} (h : f < 2 ^ w) :
    dw (ofI 64 (toI w f)) = BitVec.ofInt 64 (if f < 2 ^ (w - 1) then (f : Int) else (f : Int) - 2 ^ w) := by
  rw [dw_ofI, toI, Nat.mod_eq_of_lt h]

/-- The low bits of `v` in place of `w` bits of `n`. -/
theorem testBit_replaceBits (n v i w j : Nat) : (n - n / 2 ^ i % 2 ^ w * 2 ^ i + v % 2 ^ w * 2 ^ i).testBit j =
    if i ≤ j ∧ j < i + w then v.testBit (j - i) else n.testBit j := by
  have hr : n % 2 ^ i < 2 ^ i := Nat.mod_lt _ (Nat.two_pow_pos i)
  have hv : v % 2 ^ w < 2 ^ w := Nat.mod_lt _ (Nat.two_pow_pos w)
  have hm : n - n / 2 ^ i % 2 ^ w * 2 ^ i + v % 2 ^ w * 2 ^ i =
      2 ^ i * (2 ^ w * (n / 2 ^ i / 2 ^ w) + v % 2 ^ w) + n % 2 ^ i := by
    have h1 := Nat.div_add_mod n (2 ^ i)
    have h2 : 2 ^ i * (n / 2 ^ i) = 2 ^ i * (2 ^ w * (n / 2 ^ i / 2 ^ w)) + n / 2 ^ i % 2 ^ w * 2 ^ i := by
      rw [Nat.mul_comm (_ % _), ← Nat.mul_add, Nat.div_add_mod]
    rw [Nat.mul_add, Nat.mul_comm (2 ^ i) (v % _)]
    omega
  rw [hm, Nat.testBit_two_pow_mul_add _ hr, Nat.testBit_two_pow_mul_add _ hv]
  by_cases hij : j < i
  · rw [if_pos hij, if_neg (by omega), Nat.testBit_mod_two_pow, decide_eq_true hij, Bool.true_and]
  · rw [if_neg hij]
    by_cases hjw : j < i + w
    · rw [if_pos (by omega), if_pos (by omega), Nat.testBit_mod_two_pow, decide_eq_true (by omega), Bool.true_and]
    · rw [if_neg (by omega), if_neg (by omega), Nat.testBit_div_two_pow, Nat.testBit_div_two_pow]
      congr 1
      omega

theorem getLsbD_setBits {hi lo v j : Nat} (hj : j < 64) :
    (setBits x hi lo v).getLsbD j = if lo ≤ j ∧ j < lo + (hi + 1 - lo) then v.testBit (j - lo) else x.getLsbD j := by
  rw [setBits, BitVec.getLsbD_ofNat, decide_eq_true hj, Bool.true_and]
  exact testBit_replaceBits ..

/-- The low bits of `y` in the field of `x` that `w` names, with every other bit as it was (R332). -/
theorem getLsbD_insf (w : Dword) {j : Nat} (hj : j < 64) :
    (setBits x (fieldPos w + fieldWidth w - 1) (fieldPos w) y.toNat).getLsbD j =
      if fieldPos w ≤ j ∧ j < fieldPos w + fieldWidth w then y.getLsbD (j - fieldPos w) else x.getLsbD j := by
  have hw : 0 < fieldWidth w := Nat.succ_pos _
  rw [getLsbD_setBits _ hj, show fieldPos w + fieldWidth w - 1 + 1 - fieldPos w = fieldWidth w by omega]
  rfl

end

/-- Settles O12: each instruction by its value. -/
theorem integerResults : Obligations.IntegerResults := by
  refine ⟨fun s d a b g h => ?alu, fun s d a g h => ?counts, fun s d a b g => ?fields⟩ <;> dsimp only [exec]
  case alu =>
    have hint : Function.Injective (BitVec.toInt (n := 64)) := fun _ _ => BitVec.eq_of_toInt_eq
    have hnat : Function.Injective (BitVec.toNat (w := 64)) := fun _ _ => BitVec.eq_of_toNat_eq
    exact ⟨binG_gives h ⟨rfl, rfl, rfl⟩ (add_eq_ofNat ..), binG_gives h ⟨rfl, rfl, rfl⟩ (sub_eq_ofInt ..),
      binG_gives h ⟨rfl, rfl, rfl⟩ rfl, binG_gives h ⟨rfl, rfl, rfl⟩ rfl, binG_gives h ⟨rfl, rfl, rfl⟩ rfl,
      binG_gives h ⟨rfl, rfl, rfl⟩ rfl, binG_gives h ⟨rfl, rfl, rfl⟩ rfl, binG_gives h ⟨rfl, rfl, rfl⟩ rfl,
      binG_gives h ⟨rfl, rfl, rfl⟩ ((ite_slt ..).trans (ite_lt_swap ..)),
      binG_gives h ⟨rfl, rfl, rfl⟩ ((ite_slt ..).trans (ite_lt_eq_ite_le _ _ hint)),
      binG_gives h ⟨rfl, rfl, rfl⟩ ((ite_ult ..).trans (ite_lt_swap ..)),
      binG_gives h ⟨rfl, rfl, rfl⟩ ((ite_ult ..).trans (ite_lt_eq_ite_le _ _ hnat))⟩
  case counts =>
    exact ⟨⟨_, unG_gives h ⟨rfl, rfl, rfl⟩ rfl, fun h0 => if_pos h0, clz_of_ne_zero⟩, ⟨_, unG_gives h ⟨rfl, rfl, rfl⟩ rfl, fun h0 => if_pos h0, ctz_of_ne_zero⟩,
      unG_gives h ⟨rfl, rfl, rfl⟩ (congrArg _ (popBelow_eq ..)), _, unG_gives h ⟨rfl, rfl, rfl⟩ rfl, fun j => getLsbD_brev _⟩
  case fields =>
    rw [← fieldWidth_eq, ← fieldPos_eq]
    refine ⟨fun h => ⟨?extz, ?exts⟩, fun h => ⟨_, shortG_gives h ⟨rfl, rfl, rfl⟩ rfl rfl rfl rfl, fun j hj => ?insf⟩⟩
    case extz => exact binG_gives h ⟨rfl, rfl, rfl⟩ rfl
    case exts => exact binG_gives h ⟨rfl, rfl, rfl⟩ (dw_ofI_toI (Nat.mod_lt _ (Nat.two_pow_pos _)))
    case insf => exact getLsbD_insf _ _ _ hj

end Sys2Proof.Machine
end

section
/-! Immediates, compares, division, floating point, branches and jumps (R333–R344). -/

namespace Sys2Proof.Machine

/-! ### Immediates (R333–R336) -/

theorem sext_shift {n : Nat} (i : BitVec n) (k : Nat) : sext i <<< k = BitVec.ofInt 64 (i.toInt * 2 ^ k) := by
  rw [BitVec.shiftLeft_eq_mul_twoPow, BitVec.ofInt_mul]
  congr 1
  refine BitVec.eq_of_toNat_eq ?_
  rw [BitVec.toNat_twoPow, show (2 : Int) ^ k = ((2 ^ k : Nat) : Int) by push_cast; rfl, BitVec.ofInt_natCast, BitVec.toNat_ofNat]

theorem sext_mul_four {n : Nat} (i : BitVec n) : sext i * 4 = BitVec.ofInt 64 (i.toInt * 4) := by
  rw [BitVec.ofInt_mul]
  rfl

theorem add_sext_mul_four {n : Nat} (x : Dword) (i : BitVec n) : x + sext i * 4 = BitVec.ofInt 64 (x.toInt + i.toInt * 4) := by
  rw [sext_mul_four, BitVec.ofInt_add, BitVec.ofInt_toInt]

/-- Settles O13: each instruction by its value. -/
theorem immediateResults : Obligations.ImmediateResults := by
  refine ⟨fun s d a g i c h => ?imm, fun s d i h => ?upper⟩ <;> dsimp only [exec]
  case imm =>
    exact ⟨unG_gives h ⟨rfl, rfl, rfl⟩ rfl, unG_gives h ⟨rfl, rfl, rfl⟩ rfl, unG_gives h ⟨rfl, rfl, rfl⟩ rfl,
      unG_gives h ⟨rfl, rfl, rfl⟩ rfl, unG_gives h ⟨rfl, rfl, rfl⟩ rfl, unG_gives h ⟨rfl, rfl, rfl⟩ rfl,
      unG_gives h ⟨rfl, rfl, rfl⟩ rfl⟩
  case upper =>
    exact ⟨shortG_gives h ⟨rfl, rfl, rfl⟩ rfl rfl rfl (sext_shift i 13), shortG_gives h ⟨rfl, rfl, rfl⟩ rfl rfl rfl (add_sext_mul_four ..)⟩

/-! ### Compares and MULDIV (R337–R339, R287) -/

theorem toI_toNat (x : Dword) : toI 64 x.toNat = x.toInt := by
  have h := x.isLt
  rw [toI, BitVec.toInt_eq_toNat_cond, Nat.mod_eq_of_lt h]
  split <;> split <;> omega

theorem intCond_iff {k : BitVec 3} (hk : k.toNat ≤ 5) (x y : Dword) : intCond 64 k.toNat x.toNat y.toNat = true ↔
    (k = 0 ∧ x = y) ∨ (k = 1 ∧ x ≠ y) ∨ (k = 2 ∧ x.toInt < y.toInt) ∨ (k = 3 ∧ y.toInt ≤ x.toInt) ∨
      (k = 4 ∧ x.toNat < y.toNat) ∨ (k = 5 ∧ y.toNat ≤ x.toNat) := by
  have hcode : k = 0 ∨ k = 1 ∨ k = 2 ∨ k = 3 ∨ k = 4 ∨ k = 5 := by
    revert hk
    revert k
    decide
  rcases hcode with rfl | rfl | rfl | rfl | rfl | rfl <;> simp [intCond, toI_toNat, BitVec.toNat_inj]

section
variable {s : State} {d a b : BitVec 5} {g : BitVec 3} {l : BitVec 4} {i : Instr}

theorem longOp_gives {q : Issue} {dests : List RegRef} {op : State → Op} {v : Op} (h : Ready s q.guard true q.reads (dests ++ q.writes))
    (hi : Plain q.instr) (hs : q.size = 4) (hh : q.hold s = false) (hc : q.check s = none) (hv : op s = v) :
    longOp q l dests op s = .next (s.depart (s.issued 4) l v dests) := by
  rw [longOp_ready h hi.legal hh hc, hi.barrier, hi.release, hs, hv]

theorem mulDiv_gives {f : Dword → Dword → Dword} {v : Dword} (h : Ready s g true [.g a, .g b] [.g d]) (hi : Plain i)
    (hv : f (s.readG s.focus a) (s.readG s.focus b) = v) :
    mulDiv i d a b g l f s = .next (s.depart (s.issued 4) l (.compute [.g d v]) [.g d]) :=
  longOp_gives (q := { instr := i, guard := g, reads := [.g a, .g b] }) h hi rfl rfl rfl (by rw [hv])

end

section
variable (x y : Dword)

theorem mul_eq_ofNat : x * y = BitVec.ofNat 64 (x.toNat * y.toNat) := by
  rw [BitVec.ofNat_mul, BitVec.ofNat_toNat, BitVec.ofNat_toNat, BitVec.setWidth_eq, BitVec.setWidth_eq]

/-- Division by zero gives all ones, and the dividend as remainder; any other follows the sign that is asked for (R287). -/
theorem divide_eq (signed rem : Bool) : dw (divide signed rem x.toNat y.toNat) = if y = 0 then (if rem then x else BitVec.allOnes 64) else
    if signed then BitVec.ofInt 64 (if rem then x.toInt.tmod y.toInt else x.toInt.tdiv y.toInt)
    else BitVec.ofNat 64 (if rem then x.toNat % y.toNat else x.toNat / y.toNat) := by
  by_cases hy : y = 0
  · subst hy
    cases rem
    · rfl
    · simp [divide, dw]
  · have h0 : y.toNat ≠ 0 := fun e => hy (BitVec.eq_of_toNat_eq e)
    rw [divide, if_neg h0, if_neg hy]
    cases signed <;> cases rem <;> simp [toI_toNat, dw_ofI] <;> rfl

end

/-- Settles O14: each instruction by its value. -/
theorem compareAndDivideResults : Obligations.CompareAndDivideResults := by
  refine ⟨fun s g k X Y p q r d a b i => ?cmp, fun s d a b g l h => ?div⟩ <;> dsimp only [exec]
  case cmp =>
    have hlegal (hk : k.toNat ≤ 5) : illegalIf (5 < k.toNat) .func = none := by simp [illegalIf, hk]
    refine ⟨fun h hk hx hy => ⟨_, ?_, shortP_gives h ⟨hlegal hk, rfl, rfl⟩ rfl rfl rfl rfl⟩,
      fun h hk hx hy => ⟨_, ?_, shortP_gives h ⟨hlegal hk, rfl, rfl⟩ rfl rfl rfl rfl⟩,
      fun h => ⟨shortP_gives h ⟨rfl, rfl, rfl⟩ rfl rfl rfl rfl, shortP_gives h ⟨rfl, rfl, rfl⟩ rfl rfl rfl rfl,
        shortP_gives h ⟨rfl, rfl, rfl⟩ rfl rfl rfl rfl⟩,
      fun h => shortP_gives h ⟨rfl, rfl, rfl⟩ rfl rfl rfl rfl, fun h => shortG_gives h ⟨rfl, rfl, rfl⟩ rfl rfl rfl rfl⟩
    · rw [hx, hy]
      exact intCond_iff hk ..
    · rw [hx, hy]
      exact intCond_iff hk ..
  case div =>
    exact ⟨mulDiv_gives h ⟨rfl, rfl, rfl⟩ (mul_eq_ofNat ..), mulDiv_gives h ⟨rfl, rfl, rfl⟩ (dw_ofI _), mulDiv_gives h ⟨rfl, rfl, rfl⟩ rfl,
      mulDiv_gives h ⟨rfl, rfl, rfl⟩ (divide_eq ..), mulDiv_gives h ⟨rfl, rfl, rfl⟩ (divide_eq ..),
      mulDiv_gives h ⟨rfl, rfl, rfl⟩ (divide_eq ..), mulDiv_gives h ⟨rfl, rfl, rfl⟩ (divide_eq ..)⟩

/-! ### Floating point (R340–R343) -/

theorem codeSigned_kindCode : ∀ c : BitVec 3, codeSigned (kindCode c) = true ↔ c = 0 ∨ c = 1 := by decide

section
variable {s : State} {d a b : BitVec 5} {g : BitVec 3} {t : BitVec 1} {i : Instr}

/-- The format that D selects, and the bits of a source that it reads (R330, R340). -/
theorem fp2_gives {f : Fp.Fmt → Nat → Nat → Nat} (h : Ready s g false [.g a, .g b] [.g d]) (hi : Plain i) :
    fp2 i d a b g t f s = .next ((s.issued 4).writeG s.focus d
      (BitVec.ofNat 64 (f (fmtOfD t) (low t (s.readG s.focus a)) (low t (s.readG s.focus b))))) :=
  binG_gives h hi rfl

theorem fp1_gives {f : Fp.Fmt → Nat → Nat} (h : Ready s g false [.g a] [.g d]) (hi : Plain i) :
    fp1 i d a g t f s = .next ((s.issued 4).writeG s.focus d (BitVec.ofNat 64 (f (fmtOfD t) (low t (s.readG s.focus a))))) :=
  unG_gives h hi rfl

end

/-- Settles O15: each instruction by its value. -/
theorem floatResults : Obligations.FloatResults := by
  intro s d a b g p k t
  dsimp only [exec]
  refine ⟨fun h => ⟨fp2_gives h ⟨rfl, rfl, rfl⟩, fp2_gives h ⟨rfl, rfl, rfl⟩, fp2_gives h ⟨rfl, rfl, rfl⟩, fp2_gives h ⟨rfl, rfl, rfl⟩,
      fp2_gives h ⟨rfl, rfl, rfl⟩, fp2_gives h ⟨rfl, rfl, rfl⟩, fp2_gives h ⟨rfl, rfl, rfl⟩⟩,
    fun h => ?fma, fun h => ⟨fp1_gives h ⟨rfl, rfl, rfl⟩, fp1_gives h ⟨rfl, rfl, rfl⟩, fp1_gives h ⟨rfl, rfl, rfl⟩,
      fp1_gives h ⟨rfl, rfl, rfl⟩⟩, fun h hk => ?fcmp, fun m sat u c hwf h => ?fcvt⟩
  case fma => exact shortG_gives h ⟨rfl, rfl, rfl⟩ rfl rfl rfl rfl
  case fcmp =>
    have hlegal : illegalIf (4 < k.toNat) .func = none := by simp [illegalIf, hk]
    exact shortP_gives h ⟨hlegal, rfl, rfl⟩ rfl rfl rfl rfl
  case fcvt =>
    refine shortG_gives h ⟨Option.isNone_iff_eq_none.1 hwf, rfl, rfl⟩ rfl rfl rfl ?_
    simp only [codeSigned_kindCode, dw_ofI]
    rfl

/-! ### Branches and jumps (R344) -/

theorem issue_gives {q : Issue} {body : State → State → State} {s : State}
    (h : Ready s q.guard q.la.isSome q.reads q.writes) (hi : Plain q.instr) (hs : q.size = 4) (hh : q.hold s = false)
    (hc : q.check s = none) : issue q body s = .next (body s (s.issued 4)) := by
  rw [issue_ready h hi.legal hh hc, hi.barrier, hi.release, hs]

theorem branch_gives {i : Instr} {s : State} {p : BitVec 3} {disp : BitVec 23} {want : Bool} (h : Ready s 0 false [.p p] [])
    (hi : Plain i) : branch i p disp want s = .next (if (s.slot s.focus).readP p = want then
      s.goto (s.issued 4) ((s.slot s.focus).pc + sext disp * 4) else s.issued 4) :=
  issue_gives h hi rfl rfl rfl

/-- Settles O16: each by the state that its transfer leaves. -/
theorem transferResults : Obligations.TransferResults := by
  intro s p g disp u d a i
  dsimp only [exec]
  simp only [← sext_mul_four]
  refine ⟨fun h => ⟨branch_gives h ⟨rfl, rfl, rfl⟩, ?brn⟩, fun h => ?jal, fun h => ?jalr⟩
  case brn =>
    refine (branch_gives h ⟨rfl, rfl, rfl⟩).trans ?_
    cases hp : (s.slot s.focus).readP p <;> rfl
  case jal => exact issue_gives h ⟨rfl, rfl, rfl⟩ rfl rfl rfl
  case jalr => exact issue_gives h ⟨rfl, rfl, rfl⟩ rfl rfl rfl

end Sys2Proof.Machine
end

section
/-! Loads and stores at their issue: the checks, and what leaves the pipeline (R68, R345, R346). -/

namespace Sys2Proof.Machine

/-! ### The checks (R68, R346) -/

section
variable {s : State} {k size : Nat} {va : Dword} {write : Bool}

theorem accessTrap_noncanonical (h : 2 ^ 56 ≤ va.toNat) :
    s.accessTrap k va size write = some ⟨0x07, 0x20, va, false, false, [], 0⟩ := by
  have hr : regionOf va = .noncanon := by rw [regionOf]; exact if_pos h
  simp [State.accessTrap, State.regionTrap, hr, firstTrap, memFatal]

/-- The own local store and tenant space pass the first check (R68). -/
theorem regionTrap_none {o : Nat} (h : regionOf va = .own o ∨ regionOf va = .tenant) : s.regionTrap k va = none := by
  rcases h with h | h <;> simp [State.regionTrap, h]

theorem accessTrap_misaligned (hr : s.regionTrap k va = none) (ha : va.toNat % size ≠ 0) :
    s.accessTrap k va size write = some ⟨0x03, log2Size size, va, false, false, [], 0⟩ := by
  simp [State.accessTrap, hr, ha, firstTrap, alignTrap]

/-- Supervisor mode reaches the plinth, and the pure tag does not bind there (R68, R185). -/
theorem accessTrap_supervisor (hr : s.regionTrap k va = none) (ha : va.toNat % size = 0) (hm : (s.slot k).mode = true) :
    s.accessTrap k va size write = none := by
  have hplinth : s.plinthTrap k va = none := by
    rw [State.plinthTrap]
    split <;> simp [Slot.supervisor, hm]
  simp [State.accessTrap, hr, ha, hplinth, State.pureSub, Slot.pureBound, hm, firstTrap]

theorem accessTrap_plinth {o : Nat} (ha : va.toNat % size = 0) (ho : regionOf va = .own o) (hp : 0x3C0000 ≤ o)
    (hm : (s.slot k).mode = false) : s.accessTrap k va size write = some ⟨0x02, 0x03, 0, false, false, [], 0⟩ := by
  have hr : s.regionTrap k va = none := regionTrap_none (.inl ho)
  have hplinth : s.plinthTrap k va = some (privTrap 0x03 0) := by simp [State.plinthTrap, lsPlace_own ho, hp, Slot.supervisor, hm]
  simp [State.accessTrap, hr, ha, hplinth, firstTrap, privTrap]

theorem accessTrap_tenant (ha : va.toNat % size = 0) (ht : regionOf va = .tenant) (hp : (s.slot k).pt = false) :
    s.accessTrap k va size write = none := by
  have hr : s.regionTrap k va = none := regionTrap_none (o := 0) (.inr ht)
  have hplinth : s.plinthTrap k va = none := by simp [State.plinthTrap, lsPlace, ht]
  simp [State.accessTrap, hr, ha, hplinth, State.pureSub, Slot.pureBound, hp, firstTrap]

end

/-! ### The issue (R345, R346) -/

section
variable {s : State} {d a : BitVec 5} {g : BitVec 3} {l : BitVec 4} {o : BitVec 9} {i : Instr} {size : Nat}

theorem loadG_gives {signed : Bool} (h : Ready s g true [.g a] [.g d]) (hi : Plain i) (hacq : (s.slot s.focus).acquiring = false)
    (hc : s.accessTrap s.focus (s.operandAddr a o size) size false = none) : loadG i d a g l o size signed s =
      .next (s.depart (s.issued 4) l (.load [(s.operandAddr a o size, size)] [] (.g d size signed)) [.g d]) := by
  have hea : effAddr (s.readG s.focus a) o size = s.operandAddr a o size := effAddr_eq ..
  rw [← hea] at hc ⊢
  exact longOp_gives h hi rfl hacq hc rfl

theorem storeG_gives (h : Ready s g true [.g a, .g d] []) (hi : Plain i) (hacq : (s.slot s.focus).acquiring = false)
    (hc : s.accessTrap s.focus (s.operandAddr a o size) size true = none) : storeG i d a g l o size s =
      .next (s.depart (s.issued 4) l (.store [(s.operandAddr a o size, leBytes size (s.readG s.focus d).toNat)]) []) := by
  have hea : effAddr (s.readG s.focus a) o size = s.operandAddr a o size := effAddr_eq ..
  rw [← hea] at hc ⊢
  exact longOp_gives h hi rfl hacq hc rfl

end

/-- Settles O17: the checks in their order, then each load and store by what it leaves outstanding. -/
theorem accessIssues : Obligations.AccessIssues := by
  refine ⟨fun s k va size write => ⟨accessTrap_noncanonical, fun o h => ?checks⟩, fun s d b g l o h hacq => ?loads,
    fun s r b g l o h hacq => ?stores⟩
  case checks =>
    exact ⟨accessTrap_misaligned (regionTrap_none h), accessTrap_supervisor (regionTrap_none h), accessTrap_plinth, accessTrap_tenant⟩
  case loads =>
    dsimp only [exec]
    exact ⟨loadG_gives h ⟨rfl, rfl, rfl⟩ hacq, loadG_gives h ⟨rfl, rfl, rfl⟩ hacq, loadG_gives h ⟨rfl, rfl, rfl⟩ hacq,
      loadG_gives h ⟨rfl, rfl, rfl⟩ hacq, loadG_gives h ⟨rfl, rfl, rfl⟩ hacq, loadG_gives h ⟨rfl, rfl, rfl⟩ hacq,
      loadG_gives h ⟨rfl, rfl, rfl⟩ hacq⟩
  case stores =>
    dsimp only [exec]
    exact ⟨storeG_gives h ⟨rfl, rfl, rfl⟩ hacq, storeG_gives h ⟨rfl, rfl, rfl⟩ hacq, storeG_gives h ⟨rfl, rfl, rfl⟩ hacq,
      storeG_gives h ⟨rfl, rfl, rfl⟩ hacq⟩

end Sys2Proof.Machine
end

section
/-! Traps: entry, a second trap under FROZEN, the trap instructions, and what is pending (R269–R273, R276, R388, R390). -/

namespace Sys2Proof.Machine

/-! ### Entry (R269, R270) -/

section
variable {s : State} {k : Nat} {t : Trap}

/-- Where a strand that replays nothing goes on after its handler (R270). -/
def Slot.trapNext (x : Slot) (t : Trap) : Dword := if t.toNext then x.pc + 4 else x.pc

/-- The slot that a trap other than MEM_FATAL enters with (R270). -/
def Slot.entered (x : Slot) (vec : Dword) (t : Trap) : Slot :=
  { x.enter vec (trcauseOf t.cause t.sub t.async) x.pc t.addr 0 (x.trapNext t) with
    purity := if t.cause = 0x08 then some (t.sub, x.pc, t.addr) else x.purity }

/-- The window record and the taint of a task are in no slot and in no core (R186, R275). -/
theorem slot_takePlain (hc : t.cause ≠ 0x07) (hr : (s.slot k).replay = none) :
    (s.takePlain k t).slot k = (s.slot k).entered (s.core (coreOf k)).trvec t := by
  unfold State.takePlain Slot.entered Slot.trapNext
  rw [State.slot_count, State.modSlot_eq, State.slot_setSlot, if_pos rfl, hr]
  simp only [hc, if_false]
  by_cases hwin : t.win = [] <;> by_cases h8 : t.cause = 0x08 <;> simp only [hwin, h8, if_true, if_false] <;> rfl

/-- What stands in a slot that is about to enter: nothing outstanding, no FATAL, g2 full, and FROZEN clear (R243, R270). -/
structure Slot.CanTrap (x : Slot) : Prop where
  outs   : x.outs = []
  fatals : x.fatals = []
  g2     : x.gst[2] = .full
  frozen : x.frozen = false

theorem Slot.CanTrap.canEnter {x : Slot} (h : x.CanTrap) : x.canEnter = true := by
  simp [Slot.canEnter, h.outs, h.g2]

theorem takeDue_of_canTrap (h : (s.slot k).CanTrap) (hd : (s.slot k).due = some t) : s.takeDue k = s.takePlain k t := by
  unfold State.takeDue
  simp [h.fatals, hd, h.frozen, h.canEnter, oldestFatal]

theorem raise_of_canTrap (h : (s.slot k).CanTrap) :
    s.raise k t = (s.setSlot k { s.slot k with due := some t }).takePlain k t := by
  obtain ⟨houts, hfatals, hg2, hfrozen⟩ := h
  rw [State.raise, State.modSlot_eq]
  exact takeDue_of_canTrap ⟨by simp [houts], by simp [hfatals], by simp [hg2], by simp [hfrozen]⟩ (by simp)

/-- A trap that is raised enters at once, when nothing holds it up. -/
theorem slot_raise (h : (s.slot k).CanTrap) (hc : t.cause ≠ 0x07) (hr : (s.slot k).replay = none) :
    (s.raise k t).slot k = (s.slot k).entered (s.core (coreOf k)).trvec t := by
  rw [raise_of_canTrap h, slot_takePlain hc (by simp [hr]), State.slot_setSlot, if_pos rfl]
  rfl

/-! ### A trap under FROZEN (R272, R273) -/

/-- A halted slot keeps everything else. -/
theorem slot_doubleTrap (cause : Byte) (pc addr : Dword) :
    (s.doubleTrap k cause pc addr).slot k = { s.slot k with occ := .halted, due := none, fatals := [] } := by
  rw [State.doubleTrap, State.postFaultEntry, State.modDie_eq, State.slot_setDie, State.modSlot_eq, State.slot_setSlot, if_pos rfl]

theorem faultWait_doubleTrap (cause : Byte) (pc addr : Dword) :
    ((s.doubleTrap k cause pc addr).die (dieOf k)).faultWait = (s.die (dieOf k)).faultWait ++
      [(faultEntry (s.slot k).owner 0x0F cause (whereWord k) pc addr, s.taskNo (s.slot k))] := by
  rw [State.doubleTrap, State.postFaultEntry, State.modDie_eq, State.die_setDie, if_pos rfl, State.modSlot_eq, State.die_setSlot]

theorem faultEntry_eq (card : Dword) (cause sub : Byte) (wher : Word) (pc addr : Dword) :
    faultEntry card cause sub wher pc addr =
      leBytes 8 card.toNat ++ [cause, sub, 0, 0] ++ leBytes 4 wher.toNat ++ leBytes 8 pc.toNat ++ leBytes 8 addr.toNat := rfl

theorem raise_of_frozen (hfatals : (s.slot k).fatals = []) (hfrozen : (s.slot k).frozen = true) :
    s.raise k t = (s.setSlot k { s.slot k with due := some t }).doubleTrap k t.cause (s.slot k).pc t.addr := by
  rw [State.raise, State.takeDue]
  simp [hfatals, hfrozen, oldestFatal]

/-- The slot of an outstanding instruction that ends FATAL, before the trap is taken (R274). -/
def Slot.withFatal (x : Slot) (o : Outst) (sub : Byte) (addr : Dword) (stay : Bool) : Slot :=
  { x with
    outs := x.outs.filter (fun u => u.id ≠ o.id)
    fatals := x.fatals ++ [⟨o.seq, o.pc, o.after, sub, addr, o.dests, o.replay, stay⟩] }

theorem fatal_of_frozen {o : Outst} {sub : Byte} {addr : Dword} {stay : Bool} (hfatals : (s.slot k).fatals = [])
    (hfrozen : (s.slot k).frozen = true) : s.fatal k o sub addr stay =
      ((s.setSlot k ((s.slot k).withFatal o sub addr stay)).doubleTrap k 0x07 o.pc addr).wake (coreOf k) := by
  rw [State.fatal, State.takeDue]
  simp [Slot.withFatal, hfatals, hfrozen, oldestFatal]

theorem slot_wake (s : State) (c k : Nat) : (s.wake c).slot k = s.slot k := by
  rw [State.wake]
  split <;> rfl

theorem die_wake (s : State) (c d : Nat) : (s.wake c).die d = s.die d := by
  rw [State.wake]
  split <;> rfl

end

/-- Settles O9: the entry by the slot that it leaves, and a second trap by the halted slot and the fault entry. -/
theorem trapEntry : Obligations.TrapEntry := by
  refine ⟨fun s k t houts hfatals hg2 hfrozen hr hc => ?entry, fun s k t hfatals hfrozen => ?double,
    fun s k o sub addr stay hfatals hfrozen => ?fatal⟩
  case entry =>
    dsimp only
    rw [slot_raise ⟨houts, hfatals, hg2, hfrozen⟩ hc hr]
    refine ⟨rfl, rfl, rfl, rfl, rfl, rfl, rfl, ?_, ?_, rfl, fun n hn => ?_, rfl, rfl, rfl, rfl, rfl, rfl, rfl, rfl, rfl⟩
    · simp [Slot.entered, Slot.enter]
    · simp [Slot.entered, Slot.enter, hg2]
    · have hne : 2 ≠ n.val := fun e => hn e.symm
      simp [Slot.entered, Slot.enter, hne]
  case double =>
    dsimp only
    rw [raise_of_frozen hfatals hfrozen, slot_doubleTrap, faultWait_doubleTrap, State.slot_setSlot, if_pos rfl]
    exact ⟨rfl, rfl, rfl, rfl, rfl, rfl, rfl, rfl, rfl⟩
  case fatal =>
    dsimp only
    rw [fatal_of_frozen hfatals hfrozen, slot_wake, die_wake, slot_doubleTrap, faultWait_doubleTrap, State.slot_setSlot, if_pos rfl]
    exact ⟨rfl, rfl, rfl, rfl, rfl⟩

/-! ### TRAP, TRAPACK and RETT (R271, R388) -/

section
variable {s : State} {g : BitVec 3}

/-- A ready instruction passes every check before its own ones (R240, R244, R309, R310). -/
theorem issue_trap {p : Issue} {body : State → State → State} {t : Trap} (h : Ready s p.guard p.la.isSome p.reads p.writes)
    (hl : p.instr.illegal = none) (hh : p.hold s = false) (hc : p.check s = some t) : issue p body s = .next (s.raise s.focus t) := by
  have hw : (s.slot s.focus).windowsOpen = true := windowsOpen_iff.2 h.windows
  have hroom : (p.la.isSome && decide (8 ≤ (s.slot s.focus).outs.length)) = false := by
    cases hp : p.la.isSome with
    | false => rfl
    | true => simpa using h.room hp
  have hcan : p.canIssue (s.slot s.focus) = true := by
    simp only [Issue.canIssue, hw, hroom, h.known, Bool.not_false, Bool.true_and, Bool.and_eq_true, List.all_eq_true]
    exact ⟨fun r hr => (h.full r hr).1, h.dest⟩
  have hvoid : p.void? (s.slot s.focus) = none := List.find?_eq_none.2 fun r hr => by simp [(h.full r hr).2]
  simp [issue, hw, hl, hcan, h.guard, hvoid, hh, hc]

theorem trap_raises {c : BitVec 7} (h : Ready s g false [] []) :
    execTrap c g s = .next (s.raise s.focus ⟨0x0B, c.setWidth 8, 0, false, true, [], 0⟩) :=
  issue_trap h rfl rfl rfl

/-- The check of the instructions of a handler (R388). -/
theorem supervisor_check : (if (s.slot s.focus).supervisor then none else some (privTrap 0x01 0)) =
    if (s.slot s.focus).mode then none else some (⟨0x02, 0x01, 0, false, false, [], 0⟩ : Trap) := rfl

theorem trapack_gives (h : Ready s g false [] []) (hm : (s.slot s.focus).mode = true) :
    execTrapack g s = .next ((s.issued 4).modSlot s.focus fun y => { y with frozen := false }) :=
  issue_gives h ⟨rfl, rfl, rfl⟩ rfl rfl (supervisor_check.trans (if_pos hm))

theorem trapack_raises (h : Ready s g false [] []) (hm : (s.slot s.focus).mode = false) :
    execTrapack g s = .next (s.raise s.focus ⟨0x02, 0x01, 0, false, false, [], 0⟩) :=
  issue_trap h rfl rfl (supervisor_check.trans (by rw [hm]; rfl))

theorem rett_gives (h : Ready s g false [] [.g 2]) (hm : (s.slot s.focus).mode = true) :
    execRett g s = .next ((s.issued 4).modSlot s.focus Slot.ret) :=
  issue_gives h ⟨rfl, rfl, rfl⟩ rfl rfl (supervisor_check.trans (if_pos hm))

theorem rett_raises (h : Ready s g false [] [.g 2]) (hm : (s.slot s.focus).mode = false) :
    execRett g s = .next (s.raise s.focus ⟨0x02, 0x01, 0, false, false, [], 0⟩) :=
  issue_trap h rfl rfl (supervisor_check.trans (by rw [hm]; rfl))

/-- What a return from a trap leaves in its slot, in the terms of the slot before its issue. -/
theorem slot_rett : ((s.issued 4).modSlot s.focus Slot.ret).slot s.focus =
    { ((s.slot s.focus).advance ((s.slot s.focus).replay.getD ((s.slot s.focus).pc + dw 4))).ret with
      bar := (s.slot s.focus).bar, rel := (s.slot s.focus).rel } := by
  rw [State.modSlot_eq, State.slot_setSlot, if_pos rfl, slot_issued, if_pos rfl]
  rfl

end

theorem trcauseOf_break (c : BitVec 7) : trcauseOf 0x0B (c.setWidth 8) false = BitVec.ofNat 64 (0x0B + c.toNat * 256) := by
  have hc : (c.setWidth 8).toNat = c.toNat := BitVec.toNat_setWidth_of_le (by decide)
  simp [trcauseOf, dw, hc]

/-- Settles O10: TRAP by the trap that it raises, TRAPACK and RETT by the slot that they leave. -/
theorem trapInstructions : Obligations.TrapInstructions := by
  intro s c g
  dsimp only [exec]
  refine ⟨fun h => ⟨trap_raises h, fun hcalm houts hg2 hfrozen hr => ?entry, trapack_gives h, trapack_raises h⟩,
    fun h => ⟨rett_raises h, fun hm => ?rett⟩⟩
  case entry =>
    obtain ⟨-, hfatals, -⟩ := hcalm
    refine ⟨_, trap_raises h, ?_⟩
    rw [slot_raise ⟨houts, hfatals, hg2, hfrozen⟩ (show (0x0B : Byte) ≠ 0x07 by decide) hr]
    exact ⟨trcauseOf_break c, rfl, rfl, rfl, rfl, rfl, rfl⟩
  case rett =>
    refine ⟨_, rett_gives h hm, ?_⟩
    rw [slot_rett]
    refine ⟨rfl, rfl, ?_, ?_, rfl, fun hn => ?_, fun hn => ?_⟩
    · simp [Slot.ret, Slot.advance]
    · simp [Slot.ret, Slot.advance]
    · exact ⟨if_neg (Bool.eq_false_iff.1 hn), if_neg (Bool.eq_false_iff.1 hn)⟩
    · exact ⟨if_pos hn, if_pos hn⟩

/-! ### What is due, pending or asleep (R272, R276, R390) -/

section
variable {s : State} {k : Nat} {t : Trap}

theorem takeTrap_due (hk : s.ev.who = k) (hocc : (s.slot k).occ = .active) (hd : (s.slot k).due = some t)
    (h : (s.slot k).CanTrap) : execTakeTrap s = .next (s.takePlain k t) := by
  simp [execTakeTrap, hk, hocc, hd, takeDue_of_canTrap h hd]

/-- The oldest asynchronous trap is taken when nothing holds it up (R272, R276). -/
theorem takeTrap_async {rest : List Trap} (hk : s.ev.who = k) (hocc : (s.slot k).occ = .active) (hf : (s.slot k).fatals = [])
    (hd : (s.slot k).due = none) (ha : (s.slot k).async = t :: rest) (hr : (s.slot k).replay = none)
    (hcmd : (s.slot k).cmd = none) (hg2 : (s.slot k).gst[2] = .full) (hfrozen : (s.slot k).frozen = false) :
    execTakeTrap s = .next (((s.modSlot k fun x => { x with async := rest }).modCore (coreOf k) fun c =>
      { c with asleep := false }).takePlain k t) := by
  simp [execTakeTrap, hk, hocc, hf, hd, ha, hr, hcmd, hg2, hfrozen]

theorem takeTrap_frozen (hk : s.ev.who = k) (hf : (s.slot k).fatals = []) (hd : (s.slot k).due = none)
    (hfrozen : (s.slot k).frozen = true) : execTakeTrap s = .next s := by
  simp only [execTakeTrap, hk, hf, hd, hfrozen]
  split
  · rfl
  · cases (s.slot k).async <;> rfl

/-- The first asynchronous trap of a slot. -/
theorem slot_postAsync_nil (ha : (s.slot k).async = []) :
    (s.postAsync k t).slot k = { s.slot k with async := [{ t with async := true, since := s.timer.toNat }] } := by
  simp [State.postAsync, ha]

theorem timerCompare_of_reached (hk : s.ev.who = k) (hne : (s.slot k).timecmp ≠ 0)
    (hle : (s.slot k).timecmp.toNat ≤ s.timer.toNat) (hocc : (s.slot k).occ = .active) :
    execTimerCompare s = .next (((s.modSlot k fun x => { x with timecmp := 0, sleeping := none }).modCore (coreOf k) fun c =>
      { c with asleep := false }).postAsync k { cause := 0x0B, sub := 0x80 }) := by
  have hholds : (s.slot k).holdsStrand = true := by simp [Slot.holdsStrand, hocc]
  rw [execTimerCompare, hk]
  exact congrArg _ (if_neg (by simp only [hholds, hne, hle.not_gt, or_self, Bool.not_true, Bool.false_eq_true, not_false_eq_true]))

theorem sleepTimerLimit_of_reached {lim : Dword} (hk : s.ev.who = k) (hl : (s.slot k).sleeping = some lim) (hne : lim ≠ 0)
    (hle : lim.toNat ≤ s.timer.toNat) : execSleepTimerLimit s =
      .next ((s.modSlot k fun x => { x with sleeping := none }).modCore (coreOf k) fun c => { c with asleep := false }) := by
  rw [execSleepTimerLimit, hk, hl]
  exact congrArg _ (if_pos ⟨hne, hle⟩)

end

/-- Settles O11: each by the branch of its step that the state meets. -/
theorem pendingTraps : Obligations.PendingTraps := by
  refine ⟨fun s k t rest hk hocc hf => ⟨fun hd houts hfrozen hg2 => takeTrap_due hk hocc hd ⟨houts, hf, hg2, hfrozen⟩,
    fun hd ha hr hcmd hg2 hfrozen => takeTrap_async hk hocc hf hd ha hr hcmd hg2 hfrozen, takeTrap_frozen hk hf⟩,
    fun s k hk => ⟨fun hne hle hocc ha => ⟨_, timerCompare_of_reached hk hne hle hocc, ?timer⟩,
      fun lim hl hne hle => ⟨_, sleepTimerLimit_of_reached hk hl hne hle, ?sleep⟩⟩⟩
  case timer =>
    rw [slot_postAsync_nil (by simp [ha])]
    simp
  case sleep => simp

end Sys2Proof.Machine
end

section
/-! Fences, prefetch and cache instructions (R102, R103, R350–R352). -/

namespace Sys2Proof.Machine

/-- A part that stops, stops the whole. -/
theorem bind_error {α β : Type} {m : M α} {f : α → M β} {s : State} {e : Stop} (h : m s = .error e) : (m >>= f) s = .error e := by
  simp only [bind, StateT.bind, Except.bind, h]

/-! ### The acquire (R99, R102) -/

section
variable {t : State} {k : Nat} {sc : Scope}

/-- Earlier loads have returned, and no stamp of a relaxed atomic is left to cover. -/
structure State.Returned (t : State) (k : Nat) : Prop where
  reads : (t.slot k).outs.any Outst.readPending = false
  owed  : (t.slot k).owed = []

theorem State.Returned.owing (h : t.Returned k) : t.owing k = false := by
  simp [State.owing, h.owed]

theorem acquireM_of_owing (h : (t.slot k).owed.all (t.viewCovers (dieOf k)) = false) : acquireM k sc t = .error (.wait id) := by
  have howing : t.owing k = true := by rw [State.owing, h]; rfl
  refine (get_bind ..).trans ?_
  simp only [howing, Bool.or_true, if_true]
  rfl

theorem acquireM_of_owed (hsc : sc ≠ .system) (hb : (t.slot k).outs.any Outst.readPending = false) (hne : (t.slot k).owed ≠ [])
    (h : (t.slot k).owed.all (t.viewCovers (dieOf k)) = true) :
    acquireM k sc t = .ok ((), t.modSlot k fun x => { x with owed := [] }) := by
  have howing : t.owing k = false := by rw [State.owing, h]; rfl
  refine (get_bind ..).trans ?_
  simp only [hb, howing, hne, hsc, Bool.or_self, Bool.false_eq_true, if_false, ne_eq, not_false_eq_true, if_true]
  rfl

theorem acquireM_of_returned (hsc : sc ≠ .system) (h : t.Returned k) : acquireM k sc t = .ok ((), t) := by
  refine (get_bind ..).trans ?_
  simp only [h.reads, h.owing, h.owed, hsc, Bool.or_self, Bool.false_eq_true, if_false, ne_eq, not_true_eq_false]
  rfl

/-- The SYSTEM acquire goes on when the die's view covers what it gathered. -/
theorem acquireM_of_gathered {f : Stamp} (h : t.Returned k) (hg : (t.slot k).gather = some f)
    (hf : t.viewCovers (dieOf k) f = true) :
    acquireM k .system t = .ok ((), t.modSlot k fun x => { x with gather := none }) := by
  refine (get_bind ..).trans ?_
  simp only [h.reads, h.owing, h.owed, hg, hf, Bool.or_self, Bool.false_eq_true, Bool.not_true, if_false, ne_eq, not_true_eq_false,
    if_true]
  rfl

/-- The SYSTEM acquire gathers the frontier once. -/
theorem acquireM_of_ungathered (h : t.Returned k) (hg : (t.slot k).gather = none) :
    acquireM k .system t = .error (.wait fun u => u.modSlot k fun x => { x with gather := some t.frontier }) := by
  refine (get_bind ..).trans ?_
  simp only [h.reads, h.owing, h.owed, hg, Bool.or_self, Bool.false_eq_true, if_false, ne_eq, not_true_eq_false, if_true]
  rfl

/-! ### The release to other packages (R103) -/

/-- No host write of a die is under way, and no FENCE packet of a slot's fence. -/
def State.NoFence (t : State) (k : Nat) : Prop :=
  ∀ q ∈ t.requests, q.die = dieOf k → q.opc < 0x102 ∧ q.who ≠ .fence (dieOf k) k

theorem State.NoFence.hostFree (h : t.NoFence k) :
    (t.requests.any fun r => r.die == dieOf k && decide (0x102 ≤ r.opc) && r.answer.isNone) = false := by
  refine List.any_eq_false.2 fun q hq => ?_
  by_cases hd : q.die = dieOf k
  · have hopc : ¬ 0x102 ≤ q.opc := Nat.not_le.2 (h q hq hd).1
    simp [hopc]
  · simp [hd]

theorem State.NoFence.unfenced (h : t.NoFence k) (tok : Nat) : (t.requests.filter fun r =>
    decide (r.who = .fence (dieOf k) k ∧ r.opc = 9 ∧ r.uid = tok) && r.die == dieOf k) = [] := by
  refine List.filter_eq_nil_iff.2 fun q hq => ?_
  by_cases hd : q.die = dieOf k
  · have hwho : q.who ≠ .fence (dieOf k) k := (h q hq hd).2
    simp [hwho]
  · simp [hd]

theorem fencePackages_of_untouched (h : t.NoFence k) (ht : (t.die (dieOf k)).touched = []) : fencePackages k t = .ok ((), t) := by
  refine (get_bind ..).trans ((get_bind ..).trans ?_)
  simp only [h.hostFree, h.unfenced, ht, Bool.false_eq_true, if_false, if_true, ne_eq, not_true_eq_false]
  rfl

/-- With a touched set and room the release sends a FENCE to each of its packages. -/
theorem fencePackages_of_touched (h : t.NoFence k) (ht : (t.die (dieOf k)).touched ≠ [])
    (hroom : (t.requests.filter fun r => r.die == dieOf k).length + (t.die (dieOf k)).touched.length ≤ 4096) :
    fencePackages k t = .error (.wait fun u => (t.die (dieOf k)).touched.foldl
      (fun u p => u.sendFence (dieOf k) p (.fence (dieOf k) k) ((t.slot k).uid * 2 ^ 64 + (t.slot k).seq))
      (u.dropRequests (.fence (dieOf k) k))) := by
  refine (get_bind ..).trans ((get_bind ..).trans ?_)
  simp only [h.hostFree, h.unfenced, ht, hroom.not_gt, Bool.false_eq_true, if_false, if_true, ne_eq, not_false_eq_true]
  rfl

/-! ### The parts together -/

theorem fenceM_of_rel {acq : Bool} (hr : t.released k sc = true) (hp : (sc == .system) = true → fencePackages k t = .ok ((), t)) :
    fenceM k sc true acq t = (if acq then acquireM k sc else pure ()) t := by
  refine (get_bind ..).trans ?_
  simp only [hr, Bool.not_true, Bool.and_false, Bool.false_eq_true, if_false, Bool.true_and]
  cases hsc : sc == .system with
  | false => rfl
  | true => exact bind_ok (hp hsc)

/-- A fence without a release part is its acquire. -/
theorem fenceM_acq : fenceM k sc false true t = acquireM k sc t := rfl

theorem fenceM_of_touched {acq : Bool} {e : Stop} (hr : t.released k .system = true) (hp : fencePackages k t = .error e) :
    fenceM k .system true acq t = .error e := by
  refine (get_bind ..).trans ?_
  simp only [hr, Bool.not_true, Bool.and_false, Bool.false_eq_true, if_false, Bool.true_and]
  exact bind_error hp

end

/-! ### The instructions -/

section
variable {s t u : State} {g : BitVec 3} {i : Instr} {sc : Scope} {rel acq : Bool}

/-- A fence that nothing holds issues, with what its acquire leaves. -/
theorem fence_ok (h : Ready s g false [] []) (hl : i.illegal = none) (ht : s.issued 4 (isBarrier i) (isRelease i) = t)
    (hm : fenceM s.focus sc rel acq t = .ok ((), u)) : fence i g sc rel acq s = .next u := by
  refine (issue_ready h hl rfl rfl).trans ?_
  simp only [ht, hm]

/-- A fence that is held leaves what its wait leaves. -/
theorem fence_wait {leave : State → State} (h : Ready s g false [] []) (hl : i.illegal = none)
    (ht : s.issued 4 (isBarrier i) (isRelease i) = t) (hm : fenceM s.focus sc rel acq t = .error (.wait leave)) :
    fence i g sc rel acq s = .next (leave s) := by
  refine (issue_ready h hl rfl rfl).trans ?_
  simp only [ht, hm]

end

section
variable {s : State} {bar rel : Bool} {n : Nat}

/-! What an issue leaves as a fence reads it. -/

theorem owed_issued : ((s.issued n bar rel).slot s.focus).owed = (s.slot s.focus).owed := by
  rw [slot_issued, if_pos rfl]
  rfl

theorem gather_issued : ((s.issued n bar rel).slot s.focus).gather = (s.slot s.focus).gather := by
  rw [slot_issued, if_pos rfl]
  rfl

theorem token_issued : ((s.issued n bar rel).slot s.focus).uid * 2 ^ 64 + ((s.issued n bar rel).slot s.focus).seq =
    (s.slot s.focus).uid * 2 ^ 64 + ((s.slot s.focus).seq + 1) := by
  rw [slot_issued, if_pos rfl]
  rfl

theorem die_issued (d : Nat) : (s.issued n bar rel).die d = s.die d := by simp [State.issued]

theorem requests_issued : (s.issued n bar rel).requests = s.requests := by simp [State.issued]

theorem viewCovers_issued (d : Nat) : (s.issued n bar rel).viewCovers d = s.viewCovers d := by
  funext f
  rw [State.viewCovers, State.viewCovers, die_issued]

theorem frontier_issued : (s.issued n bar rel).frontier = s.frontier := by
  simp only [State.frontier, die_issued]

end

theorem pref_legal {v a b : BitVec 5} {g : BitVec 3} {l : BitVec 4} (hv : v.toNat ≤ 1) : (Instr.pref v a b g l).illegal = none := by
  simp [Instr.illegal, illegalIf, hv]

theorem fenceCode_legal {c : BitVec 3} (hc : c.toNat ≤ 4) : illegalIf (4 < c.toNat) .operand = none := by
  simp [illegalIf, hc]

theorem ofCode_ne_system {c : BitVec 3} (hc : c.toNat ≤ 3) : Scope.ofCode c ≠ .system := by
  revert c
  decide

/-- The SYSTEM acquire of a fence whose release, if it has one, is complete. -/
theorem fence_acquires {s : State} {g : BitVec 3} {i : Instr} {bar rel r : Bool} (h : Ready s g false [] []) (hl : i.illegal = none)
    (hbar : isBarrier i = bar) (hrel : isRelease i = rel) (hret : (s.issued 4 bar rel).Returned s.focus)
    (hm : fenceM s.focus .system r true (s.issued 4 bar rel) = acquireM s.focus .system (s.issued 4 bar rel)) :
    (∀ f, (s.slot s.focus).gather = some f → s.viewCovers (dieOf s.focus) f = true →
      fence i g .system r true s = .next ((s.issued 4 bar rel).modSlot s.focus fun x => { x with gather := none })) ∧
    ((s.slot s.focus).gather = none →
      fence i g .system r true s = .next (s.modSlot s.focus fun x => { x with gather := some s.frontier })) := by
  subst hbar hrel
  refine ⟨fun f hf hc => ?gathered, fun hn => ?ungathered⟩
  case gathered =>
    exact fence_ok h hl rfl (hm.trans (acquireM_of_gathered hret (gather_issued.trans hf) (by rw [viewCovers_issued]; exact hc)))
  case ungathered =>
    have hw := hm.trans (acquireM_of_ungathered hret (gather_issued.trans hn))
    rw [frontier_issued] at hw
    exact fence_wait h hl rfl hw

/-- Settles O20: each instruction by its issue, a fence by its release and its acquire. -/
theorem fencesAndCache : Obligations.FencesAndCache := by
  intro s v a b g l c
  dsimp only [exec]
  refine ⟨fun hv h => issue_gives h ⟨pref_legal hv, rfl, rfl⟩ rfl rfl rfl, fun h => longOp_gives h ⟨rfl, rfl, rfl⟩ rfl rfl rfl rfl,
    fun h => longOp_gives h ⟨rfl, rfl, rfl⟩ rfl rfl rfl rfl, fun h => ?fences⟩
  have hreturned {bar rel : Bool} (hb : ((s.issued 4 true).slot s.focus).outs.any Outst.readPending = false)
      (ho : (s.slot s.focus).owed = []) : (s.issued 4 bar rel).Returned s.focus :=
    ⟨by rw [slot_issued, if_pos rfl] at hb ⊢; exact hb, owed_issued.trans ho⟩
  have hcode (hc : c.toNat ≤ 3) : illegalIf (4 < c.toNat) .operand = none := fenceCode_legal (by omega)
  have hsystem {P : Prop} (hc : c.toNat ≤ 3) (hs : (Scope.ofCode c == .system) = true) : P := absurd (eq_of_beq hs) (ofCode_ne_system hc)
  refine ⟨fun hc hr => ?release, fun hc hret => ?acq, fun hc hb hne => ⟨fun hall => ?covered, fun hall => ?owing⟩, fun hc hr hret => ?full,
    fun hret => ?acqSystem, fun hr hnf => ⟨fun ht => ⟨?relSystem, fun hret => ?fullSystem⟩, fun ht hroom => ?send⟩⟩
  case release => exact fence_ok h (hcode hc) rfl (fenceM_of_rel hr (hsystem hc))
  case acq => exact fence_ok h (hcode hc) rfl (acquireM_of_returned (ofCode_ne_system hc) (hreturned hret.1 hret.2))
  case covered =>
    refine fence_ok h (hcode hc) rfl (acquireM_of_owed (ofCode_ne_system hc) hb ?_ ?_)
    · rwa [owed_issued]
    · rwa [owed_issued, viewCovers_issued]
  case owing =>
    refine fence_wait (i := .fenceAcq g c) (leave := id) h (hcode hc) rfl (acquireM_of_owing ?_)
    rwa [owed_issued, viewCovers_issued]
  case full =>
    refine fence_ok h (hcode hc) rfl ((fenceM_of_rel hr (hsystem hc)).trans ?_)
    exact acquireM_of_returned (ofCode_ne_system hc) (hreturned hret.1 hret.2)
  case acqSystem => exact fence_acquires h rfl rfl rfl (hreturned hret.1 hret.2) rfl
  all_goals
    have hnofence : (s.issued 4 true true).NoFence s.focus := by rwa [State.NoFence, requests_issued]
  case send =>
    rw [← requests_issued (bar := true) (rel := true) (n := 4)] at hroom
    rw [← die_issued (bar := true) (rel := true) (n := 4)] at ht hroom
    have hw := fenceM_of_touched (acq := false) hr (fencePackages_of_touched hnofence ht hroom)
    rw [token_issued, die_issued] at hw
    exact fence_wait (i := .fenceRel g 4) (sc := .system) h rfl rfl hw
  all_goals
    have hpackages : fencePackages s.focus (s.issued 4 true true) = .ok ((), s.issued 4 true true) :=
      fencePackages_of_untouched hnofence (by rwa [die_issued])
  case relSystem => exact fence_ok h rfl rfl (fenceM_of_rel hr fun _ => hpackages)
  case fullSystem => exact fence_acquires h rfl rfl rfl (hreturned hret.1 hret.2) (fenceM_of_rel hr fun _ => hpackages)

end Sys2Proof.Machine
end

section
/-! Atomics: their issue, their values, and their action on a local store (R105, R353, R354). -/

namespace Sys2Proof.Machine

/-! ### The issue (R105, R353) -/

section
variable {s : State} {d a b : BitVec 5} {z : BitVec 1} {c : BitVec 2} {l : BitVec 4} {i : Instr} {op : Nat}

/-- What the issue of an atomic leaves before it departs: at SYSTEM scope the gathered frontier is used up (R102, R105). -/
def State.amoIssued (s : State) (c : BitVec 2) : State :=
  if c = 3 then (s.issued 4 true).modSlot s.focus fun y => { y with gather := none } else s.issued 4 true

/-- The fence before an atomic is over (R105): nothing at STRAND scope; above it the release is complete and earlier loads have
returned, and at SYSTEM scope nothing is touched and the gathered frontier is covered. -/
def State.AmoFenced (s : State) (c : BitVec 2) : Prop :=
  c = 0 ∨ ((s.issued 4 true).released s.focus (Scope.ofField c) = true ∧
    ((s.issued 4 true).slot s.focus).outs.any Outst.readPending = false ∧ (s.slot s.focus).owed = [] ∧
    (c = 3 → (s.die (dieOf s.focus)).touched = [] ∧
      (∀ r ∈ s.requests, r.die = dieOf s.focus → r.opc < 0x102 ∧ r.who ≠ .fence (dieOf s.focus) s.focus) ∧
      ∃ f, (s.slot s.focus).gather = some f ∧ s.viewCovers (dieOf s.focus) f = true))

theorem ofField_eq_system (c : BitVec 2) : Scope.ofField c = .system ↔ c = 3 := by
  revert c
  decide

theorem ofField_eq_strand (c : BitVec 2) : Scope.ofField c = .strand ↔ c = 0 := by
  revert c
  decide

/-- Above STRAND scope the fence before an atomic runs through. -/
theorem fenceM_of_amoFenced (h : s.AmoFenced c) (hc : c ≠ 0) :
    fenceM s.focus (Scope.ofField c) true true (s.issued 4 true) = .ok ((), s.amoIssued c) := by
  rcases h with h0 | ⟨hrel, hreads, howed, hsys⟩
  · exact absurd h0 hc
  have hret : (s.issued 4 true).Returned s.focus := ⟨hreads, owed_issued.trans howed⟩
  by_cases h3 : c = 3
  · obtain ⟨htouched, hnofence, f, hg, hcov⟩ := hsys h3
    rw [State.amoIssued, if_pos h3]
    rw [(ofField_eq_system c).2 h3] at hrel ⊢
    refine (fenceM_of_rel hrel fun _ => fencePackages_of_untouched ?_ ?_).trans (acquireM_of_gathered (f := f) hret ?_ ?_)
    · rwa [State.NoFence, requests_issued]
    · rwa [die_issued]
    · exact gather_issued.trans hg
    · rwa [viewCovers_issued]
  · have hne : Scope.ofField c ≠ .system := mt (ofField_eq_system c).1 h3
    rw [State.amoIssued, if_neg h3]
    exact (fenceM_of_rel hrel fun hs => absurd (eq_of_beq hs) hne).trans (acquireM_of_returned hne hret)

/-- The checks of an atomic are those of a store, and one more for FADD under the pure tag, which is clear here. -/
theorem amoChecks_none {ea : Dword} {size : Nat} (hpt : (s.slot s.focus).pt = false)
    (hc : s.accessTrap s.focus ea size true = none) :
    firstTrap [s.regionTrap s.focus ea, if ea.toNat % size = 0 then none else some (alignTrap (log2Size size) ea),
      s.plinthTrap s.focus ea, (s.pureSub s.focus true ea size).map fun sub => purityTrap sub ea,
      if op = 10 && (s.slot s.focus).pureBound then some (purityTrap 0x04 ea) else none] = none := by
  rw [State.accessTrap, firstTrap_none] at hc
  rw [firstTrap_none]
  have hlast : (if op = 10 && (s.slot s.focus).pureBound then some (purityTrap 0x04 ea) else none) = none := by
    simp [Slot.pureBound, hpt]
  simp only [List.forall_mem_cons] at hc ⊢
  obtain ⟨hregion, halign, hplinth, hpure, -⟩ := hc
  exact ⟨hregion, halign, hplinth, hpure, hlast, fun _ h => nomatch h⟩

theorem amoIssue_gives {f : State → Op} {v : Op}
    (h : Ready s 0 true ([.g a, .g b] ++ if 9 ≤ op ∧ op ≠ 10 then [.g d] else []) [.g d]) (hl : i.illegal = none)
    (hbar : isBarrier i = true) (hrel : isRelease i = false) (hacq : (s.slot s.focus).acquiring = false)
    (hpt : (s.slot s.focus).pt = false) (hc : s.accessTrap s.focus (s.readG s.focus a) (amoSize z) true = none)
    (hfence : s.AmoFenced c) (hv : f s = v) : amoIssue i d a b z c l op f s = .next (s.depart (s.amoIssued c) l v [.g d]) := by
  subst hv
  unfold amoIssue
  refine (issue_ready h hl hacq ?checks).trans ?_
  case checks => exact amoChecks_none hpt hc
  dsimp only
  rw [hbar, hrel]
  by_cases h0 : c = 0
  · rw [if_pos ((ofField_eq_strand c).2 h0), State.amoIssued, if_neg (by rw [h0]; decide)]
  · rw [if_neg (mt (ofField_eq_strand c).1 h0)]
    simp only [fenceM_of_amoFenced hfence h0]

theorem amo_gives (h : Ready s 0 true ([.g a, .g b] ++ if 9 ≤ op ∧ op ≠ 10 then [.g d] else []) [.g d]) (hl : i.illegal = none)
    (hbar : isBarrier i = true) (hrel : isRelease i = false) (hacq : (s.slot s.focus).acquiring = false)
    (hpt : (s.slot s.focus).pt = false) (hc : s.accessTrap s.focus (s.readG s.focus a) (amoSize z) true = none)
    (hfence : s.AmoFenced c) : amo i d a b z c l op s = .next (s.depart (s.amoIssued c) l
      (.atomic (s.readG s.focus a) (amoSize z) op (s.readG s.focus b) (s.readG s.focus d) (Scope.ofField c) d) [.g d]) :=
  amoIssue_gives h hl hbar hrel hacq hpt hc hfence rfl

end

/-! ### The values (R353) -/

theorem toI_eq_toInt_ofNat {x : Nat} (h : x < 2 ^ 64) : toI 64 x = (BitVec.ofNat 64 x).toInt := by
  rw [← toI_toNat, BitVec.toNat_ofNat, Nat.mod_eq_of_lt h]

theorem atomicValue_eight {old x cmp : Nat} (hold : old < 2 ^ 64) (hx : x < 2 ^ 64) (hcmp : cmp < 2 ^ 64) :
    atomicValue 8 0 old x cmp = (old + x) % 2 ^ 64 ∧ atomicValue 8 1 old x cmp = old &&& x ∧
    atomicValue 8 2 old x cmp = old ||| x ∧ atomicValue 8 3 old x cmp = old ^^^ x ∧
    atomicValue 8 4 old x cmp = (if (BitVec.ofNat 64 x).toInt < (BitVec.ofNat 64 old).toInt then x else old) ∧
    atomicValue 8 5 old x cmp = (if (BitVec.ofNat 64 old).toInt < (BitVec.ofNat 64 x).toInt then x else old) ∧
    atomicValue 8 6 old x cmp = min old x ∧ atomicValue 8 7 old x cmp = max old x ∧ atomicValue 8 8 old x cmp = x ∧
    atomicValue 8 9 old x cmp = (if old = cmp then x else old) := by
  rw [← toI_eq_toInt_ofNat hx, ← toI_eq_toInt_ofNat hold]
  simp only [atomicValue, Nat.reduceMul, Nat.mod_eq_of_lt hx, Nat.mod_eq_of_lt hcmp, gt_iff_lt, and_self]

theorem atomicValue_four (old x cmp : Nat) :
    atomicValue 4 0 old x cmp = (old + x) % 2 ^ 32 ∧ atomicValue 4 8 old x cmp = x % 2 ^ 32 := by
  simp only [atomicValue, Nat.reduceMul, Nat.add_mod_mod, and_self]

/-! ### The action on a local store (R105, R354) -/

section
variable {s : State} {k : Nat} {o : Outst} {ea x cmp : Dword} {off size op : Nat} {d : BitVec 5}

/-- An atomic of the own local store replaces the old value in one step. -/
theorem atomicM_own (hr : regionOf ea = .own off) (hm : (s.slot k).mayLeave o = true) (hp : s.allPerformed (s.slot k).uid = true) :
    atomicM k o ea size op x cmp .strand d s = .ok ((),
      let old := leNat (s.readLs (clusterOf k) off size)
      let t := (s.countFree (coreOf k) 0x06 2).storeLs (dieOf k) (clusterOf k) off (leBytes size (atomicValue size op old x.toNat cmp.toNat))
      (((t.dropFault (.op k o.id)).dropRequests (.op k o.id)).setOut k { o with st := .returned [.g d (BitVec.ofNat 64 old)] }).owe k []) := by
  unfold atomicM
  refine (get_bind _ _).trans ?_
  rw [if_neg (by simp [hm])]
  refine (bind_ok (placeWrite_own hr (by decide) size)).trans ?_
  dsimp only
  have hw : s.allPerformed (s.whoOp k o).uid = true := hp
  have hturn : s.storeTurn (s.whoOp k o) (clusterOf k) = true := storeTurn_own
  rw [hw, hturn, if_neg (by simp)]
  refine (modify_ok _ _).trans ?_
  rw [show (s.whoOp k o).die = dieOf k from rfl, dieOf_cluster, if_pos rfl, readLs_of_ls (State.ls_countFree ..)]
  rfl

end

/-- Settles O21: the issue behind its fence, the values by the operation's number, and the one step at a local store. -/
theorem atomics : Obligations.Atomics := by
  refine ⟨?issues, fun old x cmp hold hx hcmp => ?values, fun s k o ea x cmp size op off d hk hout hop hst hr hm hp => ?performs⟩
  case issues =>
    intro s d a b z c l
    dsimp only [exec]
    intro hacq hpt hc hfence
    refine ⟨fun h => ⟨?_, ?_, ?_, ?_, ?_, ?_, ?_, ?_, ?_, ?_⟩, fun h => ⟨?_, ?redOrd⟩⟩
    case redOrd => exact amoIssue_gives (op := 11) h rfl rfl rfl hacq hpt hc hfence rfl
    all_goals exact amo_gives h (by rfl) (by rfl) (by rfl) hacq hpt hc hfence
  case values =>
    obtain ⟨hadd, hand, hor, hxor, hmin, hmax, hminn, hmaxn, hswp, hcas⟩ := atomicValue_eight hold hx hcmp
    exact ⟨hadd, hand, hor, hxor, hmin, hmax, hminn, hmaxn, hswp, hcas, fun _ => atomicValue_four old x cmp⟩
  case performs =>
    have hstep : exec .atomicHomePerform s = .next (runOp k o (atomicM k o ea size op x cmp .strand d) s) := by
      show execAtomicHomePerform s = _
      simp only [execAtomicHomePerform, target_of_out hk hout, hst, hop]
    have hresume : exec .walkBusyResume s = .next (runOp k o (atomicM k o ea size op x cmp .strand d) s) := by
      rw [exec_walkBusyResume hk hout]
      simp only [State.progressOp, hst, hop]
    exact ⟨hstep.trans (congrArg _ (runM_ok (atomicM_own hr hm hp))), hresume.trans hstep.symm⟩

end Sys2Proof.Machine
end

section
/-! Strands at their instructions: SPAWN, JOIN, YIELD, PARK, SELF, RFILL and the migrations (R357–R366). -/

namespace Sys2Proof.Machine

/-! ### What counting leaves -/

/-- The strand records that wait at a core. -/
def Core.queues (x : Core) : List StrandRec × Nat × List StrandRec := (x.deque, x.dqHead, x.runq)

/-- Two states that differ in what is counted, in which cores sleep, and in the free values drawn. -/
structure State.Alike (s t : State) : Prop where
  slots  : t.slots = s.slots
  memory : SameMemory s t
  timer  : t.timer = s.timer
  msgs   : t.msgs = s.msgs
  nextN  : t.nextN = s.nextN
  pkgid  : t.pkgid = s.pkgid
  queues : ∀ c, (t.core c).queues = (s.core c).queues

section
variable {s t u : State} {c : Nat}

theorem SameMemory.trans (h : SameMemory s t) (h' : SameMemory t u) : SameMemory s u :=
  ⟨h'.mem.trans h.mem, h'.ls.trans h.ls, h'.fe.trans h.fe, h'.acc.trans h.acc⟩

theorem State.Alike.trans (h : s.Alike t) (h' : t.Alike u) : s.Alike u :=
  ⟨h'.slots.trans h.slots, h.memory.trans h'.memory, h'.timer.trans h.timer, h'.msgs.trans h.msgs, h'.nextN.trans h.nextN,
    h'.pkgid.trans h.pkgid, fun c => (h'.queues c).trans (h.queues c)⟩

theorem State.Alike.slot (h : s.Alike t) (k : Nat) : t.slot k = s.slot k := slot_of_slots h.slots k

theorem State.Alike.deque (h : s.Alike t) (c : Nat) : (t.core c).deque = (s.core c).deque := congrArg Prod.fst (h.queues c)
theorem State.Alike.dqHead (h : s.Alike t) (c : Nat) : (t.core c).dqHead = (s.core c).dqHead := congrArg (·.2.1) (h.queues c)
theorem State.Alike.runq (h : s.Alike t) (c : Nat) : (t.core c).runq = (s.core c).runq := congrArg (·.2.2) (h.queues c)

theorem State.Alike.runPlace (h : s.Alike t) (c : Nat) : (t.core c).runPlace = (s.core c).runPlace := by
  rw [Core.runPlace, Core.runPlace, h.runq]

theorem alike_count (s : State) (c : Nat) (e : Byte) (n : Nat) : s.Alike (s.count c e n) := by
  refine ⟨by simp, ⟨by simp, by simp, by simp, by simp⟩, by simp, by simp, by simp, by simp, fun j => ?_⟩
  obtain ⟨evc, h⟩ := core_count (s := s) c j e n
  rw [h]
  rfl

theorem alike_countFree (s : State) (c : Nat) (e : Byte) (n : Nat) : s.Alike (s.countFree c e n) := by
  have hfree : s.Alike s.free.1 := ⟨rfl, ⟨rfl, rfl, rfl, rfl⟩, rfl, rfl, rfl, rfl, fun _ => rfl⟩
  unfold State.countFree
  split
  · exact hfree.trans (alike_count ..)
  · exact ⟨rfl, ⟨rfl, rfl, rfl, rfl⟩, rfl, rfl, rfl, rfl, fun _ => rfl⟩

theorem alike_wakeThief (s : State) (r : StrandRec) : s.Alike (s.wakeThief r) := by
  have hwake (c : Nat) : s.Alike (s.wake c) := by
    unfold State.wake
    split
    · refine ⟨rfl, ⟨rfl, rfl, rfl, rfl⟩, rfl, rfl, rfl, rfl, fun j => ?_⟩
      rw [State.modCore_eq, State.core_setCore]
      split
      · next h => rw [h]; rfl
      · rfl
    · exact ⟨rfl, ⟨rfl, rfl, rfl, rfl⟩, rfl, rfl, rfl, rfl, fun _ => rfl⟩
  unfold State.wakeThief
  split
  · exact hwake _
  · exact ⟨rfl, ⟨rfl, rfl, rfl, rfl⟩, rfl, rfl, rfl, rfl, fun _ => rfl⟩

/-- An issue leaves everything outside its slot alike. -/
theorem alike_issued (s : State) (n : Nat) (bar rel : Bool) :
    (s.setSlot s.focus ((s.issued n bar rel).slot s.focus)).Alike (s.issued n bar rel) := by
  rw [slot_issued, if_pos rfl]
  exact alike_count ..

end

/-- An instruction whose step waits leaves what its wait leaves. -/
theorem issueM_wait {p : Issue} {body : State → M Unit} {stay : Bool} {s : State} {leave : State → State}
    (h : Ready s p.guard p.la.isSome p.reads p.writes) (hl : p.instr.illegal = none) (hh : p.hold s = false)
    (hc : p.check s = none) (hb : body s (s.issued p.size (isBarrier p.instr) (isRelease p.instr)) = .error (.wait leave)) :
    issueM p body stay s = .next (leave s) :=
  (issue_ready h hl hh hc).trans (by simp only [hb])

theorem slot_storeLs (s : State) (w cl off : Nat) (bs : List Byte) (j : Nat) : (s.storeLs w cl off bs).slot j = s.slot j := rfl

theorem core_storeLs (s : State) (w cl off : Nat) (bs : List Byte) (j : Nat) : (s.storeLs w cl off bs).core j = s.core j := rfl

theorem mem_storeLs (s : State) (w cl off : Nat) (bs : List Byte) : (s.storeLs w cl off bs).mem = s.mem := rfl

theorem slot_modSlot_self (s : State) (k : Nat) (f : Slot → Slot) : (s.modSlot k f).slot k = f (s.slot k) := by
  rw [State.modSlot_eq, State.slot_setSlot, if_pos rfl]

/-! ### A join block of the own local store (R360, R361) -/

section
variable {b s : State} {k : Nat} {jb : Dword} {off acc size : Nat} {r : Requester}

/-- An instruction that acts at its issue finds its place in the own local store. -/
theorem placeWrite_slot (hr : regionOf jb = .own off) (ha : acc ≤ 3) (size : Nat) :
    placeWrite (b.whoSlot k r) jb size acc s = .ok (.ls (clusterOf k) off, s.countFree (coreOf k) 0x06 2) := by
  have hnote : s.noteAccess (b.whoSlot k r) acc size (.ls (clusterOf k) off) = s.countFree (coreOf k) 0x06 2 := by
    simp [State.noteAccess, State.whoSlot, ha, dieOf_cluster]
  unfold placeWrite
  rw [show (b.whoSlot k r).cluster = clusterOf k from rfl, lsPlace_own hr, ← hnote]
  rfl

theorem homeWrite_slot (bs : List Byte) :
    homeWrite (b.whoSlot k r) (.ls (clusterOf k) off) bs s = .ok (0, s.storeLs (dieOf k) (clusterOf k) off bs) := rfl

/-- COUNT of a join word below its limit goes up by one. -/
theorem joinRaise_own (hr : regionOf jb = .own off) (hn : joinCount (s.lsDword (clusterOf k) off) ≠ 0xFFFFFFFF) :
    joinRaise (b.whoSlot k r) jb s = .ok (true, (s.countFree (coreOf k) 0x06 2).storeLs (dieOf k) (clusterOf k) off
      (leBytes 8 (s.lsDword (clusterOf k) off + 1).toNat)) := by
  have hold : dw (leNat ((s.countFree (coreOf k) 0x06 2).placeBytes (.ls (clusterOf k) off) 8)) = s.lsDword (clusterOf k) off := by
    rw [State.placeBytes, readLs_of_ls (State.ls_countFree ..)]
    rfl
  refine (bind_ok (placeWrite_slot hr (by decide) 8)).trans ?_
  dsimp only
  refine (get_bind ..).trans ?_
  rw [hold, if_neg hn]
  rfl

end

/-! ### SPAWN (R357, R360) -/

section
variable {s : State} {c : Nat} {r : StrandRec}

theorem pushNear_of_room (h : (s.core c).deque.length < 64) : s.pushNear c r =
    some (((s.putRec c (((s.core c).dqHead + (s.core c).deque.length) % 64 * 128) r).modCore c fun x =>
      { x with deque := x.deque ++ [r], asleep := false }).wakeThief r) := by
  rw [State.pushNear]
  simp only [h, if_true]

/-- The slot of a SPAWN goes on as the child (R360). -/
def Slot.child (y : Slot) (pc jb : Dword) (uid born : Nat) : Slot :=
  { y.voidAtPoint none with
    pc := pc, joinblk := jb, sw := false, uid := uid, born := born, dirty := 0x1FFFFFFFE, vdirty := 0xEFF
    remote := Vector.replicate 4 0, mark := none }

/-- The child takes a number of its own. -/
def State.child (s b : State) (a : BitVec 5) (jb : Dword) : State :=
  { s.modSlot b.focus fun y => y.child ((b.slot b.focus).readG a) jb s.nextN s.timer.toNat with nextN := s.nextN + 1 }

/-- What a SPAWN leaves once its join block has been raised: the continuation `r` in the deque, and the child in the slot. -/
def State.spawned (s b : State) (a : BitVec 5) (jb : Dword) (r : StrandRec) : State :=
  let s := (s.pushNear (coreOf b.focus) r).getD s
  let s := match s.ownerTask (b.slot b.focus).owner (b.slot b.focus).tenant with
    | some t => s.modTask t.n fun t => { t with strands := t.strands + 1 }
    | none => s
  (s.count (coreOf b.focus) 0x0B 1).child b a jb

/-- The deque's core with a record pushed, before anything else is counted. -/
def State.pushed (s : State) (c : Nat) (r : StrandRec) : State :=
  (s.putRec c (((s.core c).dqHead + (s.core c).deque.length) % 64 * 128) r).modCore c fun x =>
    { x with deque := x.deque ++ [r], asleep := false }

theorem spawned_eq {b : State} {a : BitVec 5} {jb : Dword} (h : (s.core (coreOf b.focus)).deque.length < 64) :
    ∃ v, (s.pushed (coreOf b.focus) r).Alike v ∧ s.spawned b a jb r = v.child b a jb := by
  refine ⟨_, ?_, rfl⟩
  rw [pushNear_of_room h, Option.getD_some]
  refine (State.Alike.trans (alike_wakeThief _ r) ?_).trans (alike_count ..)
  split <;> exact ⟨rfl, ⟨rfl, rfl, rfl, rfl⟩, rfl, rfl, rfl, rfl, fun _ => rfl⟩

theorem ls_pushed (c : Nat) : (s.pushed c r).ls = s.ls.writeBytes
    (lsKey (c / 4) (plinthOff c + ((s.core c).dqHead + (s.core c).deque.length) % 64 * 128)) r.bytes := rfl

theorem deque_pushed (c : Nat) : ((s.pushed c r).core c).deque = (s.core c).deque ++ [r] := by
  rw [State.pushed, State.modCore_eq, State.core_setCore, if_pos rfl]
  rfl

theorem slot_pushed (c k : Nat) : (s.pushed c r).slot k = s.slot k := rfl

theorem mem_pushed (c : Nat) : (s.pushed c r).mem = s.mem := rfl

end

section
variable {s u : State} {a b : BitVec 5} {g : BitVec 3}

theorem spawn_gives (h : Ready s g true [.g a, .g b] []) (hs : (s.slot s.focus).suspHeld = false)
    (hn : (s.slot s.focus).noRecord = false) (hroom : (s.core (coreOf s.focus)).deque.length < 64)
    (ha : s.objTrap s.focus (s.readG s.focus a) 4 2 4 false = none)
    (hb : s.readG s.focus b = 0 ∨ s.objTrap s.focus (s.readG s.focus b) 128 7 8 false = none)
    (hjoin : (s.readG s.focus b = 0 ∧ u = s.issued 4) ∨ (s.readG s.focus b ≠ 0 ∧
      joinRaise (s.whoSlot s.focus (.issue s.focus)) (s.readG s.focus b) (s.issued 4) = .ok (true, u))) :
    execSpawn a b g s = .next ((u.spawned s a (s.readG s.focus b)
      (s.recOf s.focus ((s.slot s.focus).replay.getD ((s.slot s.focus).pc + 4)))).answered s.focus) := by
  refine issueM_ready h rfl ?hold ?check ?body
  case hold =>
    simp [Slot.recHeld, hs, hn, hroom]
  case check =>
    rw [firstTrap_none]
    simp only [List.forall_mem_cons]
    refine ⟨ha, ?_, fun _ h => nomatch h⟩
    split
    · rfl
    · next h0 => exact hb.resolve_left h0
  case body =>
    rcases hjoin with ⟨h0, rfl⟩ | ⟨h0, hj⟩
    · have hzero : (s.slot s.focus).readG b = 0 := h0
      dsimp only
      rw [if_neg (not_not.2 hzero)]
      rfl
    · have hne : (s.slot s.focus).readG b ≠ 0 := h0
      dsimp only
      rw [if_pos hne]
      exact (bind_ok hj).trans rfl

end

/-! ### Suspension points (R91, R245) -/

section
variable {s : State} {k : Nat}

/-- A strand that is not marked stays on its die (R91). -/
theorem shipMarked_of_unmarked (hm : (s.slot k).mark = none) (pc : Dword) : s.shipMarked k pc = s := by
  have hcore : s.markCore k = none := by
    rw [State.markCore, hm]
    exact ite_self _
  rw [State.shipMarked, hcore, ite_self]

theorem suspend_of_unmarked (hm : (s.slot k).mark = none) (ho : (s.slot k).occ = .active) :
    s.suspend k = s.modSlot k fun y => y.voidAtPoint none := by
  rw [State.suspend, shipMarked_of_unmarked hm, ho]
  rfl

theorem voidAtPoint_gst (x : Slot) (n : Fin 32) : (x.voidAtPoint none).gst[n] = if 13 ≤ n.val then .void else x.gst[n] := by
  simp [Slot.voidAtPoint, Vector.get_eq_getElem]

theorem voidAtPoint_vst (x : Slot) (n : Fin 8) : (x.voidAtPoint none).vst[n] = .void := by simp [Slot.voidAtPoint]

/-! ### JOIN (R362) -/

variable {b : State} {jb : Dword} {off : Nat} {r : StrandRec} {q : Requester}

theorem placeBytes_own (s : State) (c off : Nat) : dw (leNat (s.placeBytes (.ls c off) 8)) = s.lsDword c off := rfl

theorem joinHere_of_taken {w : Who} (h : joinTaken (s.lsDword (clusterOf k) off) = true) :
    joinHere b w k (.ls (clusterOf k) off) jb r s = .error (.wait id) := by
  refine (get_bind ..).trans ?_
  dsimp only
  rw [placeBytes_own, if_pos h]
  rfl

/-- At COUNT 0 the strand goes on. -/
theorem joinHere_of_zero {w : Who} (h : joinTaken (s.lsDword (clusterOf k) off) = false)
    (hn : joinCount (s.lsDword (clusterOf k) off) = 0) (hm : (s.slot k).mark = none) (ho : (s.slot k).occ = .active) :
    joinHere b w k (.ls (clusterOf k) off) jb r s = .ok ((), s.modSlot k fun y => y.voidAtPoint none) := by
  refine (get_bind ..).trans ?_
  dsimp only
  rw [placeBytes_own, h, if_neg (by decide), if_pos hn, if_neg (by simp [State.appliedAt, dieOf_cluster])]
  exact (modify_ok _ _).trans (by rw [suspend_of_unmarked hm ho])

theorem shipJoin_of_unmarked (hm : (s.slot k).mark = none) (ho : (s.slot k).occ = .active) : shipJoin b k s = .ok (false, s) := by
  unfold shipJoin
  split
  · rfl
  · refine (bind_ok (modify_ok _ _)).trans ((get_bind ..).trans ?_)
    rw [shipMarked_of_unmarked hm, ho]
    rfl

/-- The strand of a record waits at a join word. -/
def State.awaits (s : State) (p : Place) (r : StrandRec) : State :=
  { s with waiting := s.waiting.put (placeKey p) (r.uid, r.saw) }

theorem sameMemory_leave_awaits (s : State) (k : Nat) (p : Place) (r : StrandRec) : SameMemory s ((s.awaits p r).leave k) :=
  ⟨rfl, rfl, rfl, rfl⟩

/-- What a JOIN that waits leaves: its record behind the join word, W and its core in the word, and its slot empty. -/
def State.joined (s b : State) (k off : Nat) (r : StrandRec) : State :=
  ((((s.countFree (coreOf k) 0x06 2).storeLs (dieOf k) (clusterOf k) (off + 128) r.bytes).storeLs (dieOf k) (clusterOf k) off
    (leBytes 8 (joinWait (s.lsDword (clusterOf k) off) b.pkgid.toNat (coreOf k)).toNat)).awaits (.ls (clusterOf k) off) r).leave k

theorem occ_joined : ((s.joined b k off r).slot k).occ = .empty := by
  rw [State.joined, State.leave, State.modSlot_eq, State.slot_setSlot, if_pos rfl]

theorem ls_mem_joined (s b : State) (k off : Nat) (r : StrandRec) :
    (s.joined b k off r).ls = (s.ls.writeBytes (lsKey (clusterOf k) (off + 128)) r.bytes).writeBytes (lsKey (clusterOf k) off)
      (leBytes 8 (joinWait (s.lsDword (clusterOf k) off) b.pkgid.toNat (coreOf k)).toNat) ∧ (s.joined b k off r).mem = s.mem := by
  obtain ⟨hmem, hls, -, -⟩ := (alike_countFree s (coreOf k) 0x06 2).memory
  refine ⟨(sameMemory_leave_awaits _ k _ r).ls.trans ?_, (sameMemory_leave_awaits _ k _ r).mem.trans ?_⟩
  · rw [ls_storeLs, ls_storeLs, hls]
  · rw [mem_storeLs, mem_storeLs, hmem]

theorem joinHere_of_record (hr : regionOf jb = .own off) (hoff : off + 256 ≤ 2 ^ 22)
    (h : joinTaken (s.lsDword (clusterOf k) off) = false) (hn : joinCount (s.lsDword (clusterOf k) off) ≠ 0)
    (hrec : (s.slot k).noRecord = false) (hm : (s.slot k).mark = none) (ho : (s.slot k).occ = .active) :
    joinHere b (b.whoSlot k q) k (.ls (clusterOf k) off) jb r s = .ok ((), s.joined b k off r) := by
  have hplace : regionOf (jb + 0x80) = .own (off + 128) := regionOf_add_own (n := 128) hr (by omega)
  refine (get_bind ..).trans ?_
  dsimp only
  rw [placeBytes_own, h, if_neg (by decide), if_neg hn, hrec, if_neg (by decide)]
  refine (bind_ok (shipJoin_of_unmarked hm ho)).trans ?_
  rw [if_neg (by decide)]
  exact (bind_ok (placeWrite_slot hplace (by decide) 128)).trans rfl

end

section
variable {s u : State} {a : BitVec 5} {g : BitVec 3} {off : Nat}

/-- The state at which a JOIN of the own local store acts. -/
def State.atJoin (s : State) : State := (s.issued 4).countFree (coreOf s.focus) 0x06 2

theorem alike_atJoin (s : State) : (s.setSlot s.focus ((s.issued 4).slot s.focus)).Alike s.atJoin :=
  (alike_issued ..).trans (alike_countFree ..)

theorem sameMemory_atJoin (s : State) : SameMemory s s.atJoin := by
  obtain ⟨hmem, hls, hfe, hacc⟩ := (alike_atJoin s).memory
  exact ⟨hmem, hls, hfe, hacc⟩

theorem sameMemory_answered (s : State) (k : Nat) : SameMemory s (s.answered k) := ⟨rfl, rfl, rfl, rfl⟩

theorem sameMemory_answered_modSlot (s : State) (k j : Nat) (f : Slot → Slot) : SameMemory s ((s.modSlot k f).answered j) :=
  ⟨rfl, rfl, rfl, rfl⟩

theorem lsDword_of_alike {s t : State} (h : s.Alike t) (c off : Nat) : t.lsDword c off = s.lsDword c off := by
  rw [State.lsDword, State.lsDword, readLs_of_ls h.memory.ls]

variable (h : Ready s g true [.g a] []) (hs : (s.slot s.focus).suspHeld = false)
  (hc : s.objTrap s.focus (s.readG s.focus a) 128 7 8 false = none) (hr : regionOf (s.readG s.focus a) = .own off)
include h hs hc hr

theorem join_waits (ht : joinTaken (s.lsDword (clusterOf s.focus) off) = true) : execJoin a g s = .next s := by
  refine issueM_wait (leave := id) h rfl hs hc ?_
  refine (bind_ok (placeWrite_slot hr (by decide) 8)).trans (joinHere_of_taken ?_)
  exact (congrArg joinTaken (lsDword_of_alike (alike_atJoin s) _ _)).trans ht

theorem join_gives (hj : joinHere s (s.whoSlot s.focus (.issue s.focus)) s.focus (.ls (clusterOf s.focus) off) (s.readG s.focus a)
      (s.recOf s.focus ((s.slot s.focus).replay.getD ((s.slot s.focus).pc + 4))) s.atJoin = .ok ((), u)) :
    execJoin a g s = .next (u.answered s.focus) := by
  refine issueM_ready h rfl hs hc ?_
  exact (bind_ok (placeWrite_slot hr (by decide) 8)).trans hj

end

/-! ### The obligation of SPAWN and JOIN -/

section
variable (s : State)

theorem pc_issued : ((s.issued 4).slot s.focus).pc = (s.slot s.focus).replay.getD ((s.slot s.focus).pc + 4) := by
  rw [slot_issued, if_pos rfl]
  rfl
theorem occ_issued : ((s.issued 4).slot s.focus).occ = (s.slot s.focus).occ := by
  rw [slot_issued, if_pos rfl]
  simp only [Slot.advance]
theorem mark_issued : ((s.issued 4).slot s.focus).mark = (s.slot s.focus).mark := by
  rw [slot_issued, if_pos rfl]
  simp only [Slot.advance]
theorem g_issued : ((s.issued 4).slot s.focus).g = (s.slot s.focus).g := (moved_issued s 4 false false).g
theorem gst_issued : ((s.issued 4).slot s.focus).gst = (s.slot s.focus).gst := (moved_issued s 4 false false).gst

theorem noRecord_issued : ((s.issued 4).slot s.focus).noRecord = (s.slot s.focus).noRecord := by
  simp only [Slot.noRecord, Slot.gState, gst_issued]

end

section
variable (y : Slot) (pc jb : Dword) (uid born : Nat)

theorem voidAtPoint_occ : (y.voidAtPoint none).occ = y.occ := by simp only [Slot.voidAtPoint]
theorem voidAtPoint_pc : (y.voidAtPoint none).pc = y.pc := by simp only [Slot.voidAtPoint]
theorem voidAtPoint_g : (y.voidAtPoint none).g = y.g := by simp only [Slot.voidAtPoint]

theorem child_occ : (y.child pc jb uid born).occ = y.occ := by simp only [Slot.child, Slot.voidAtPoint]
theorem child_g : (y.child pc jb uid born).g = y.g := by simp only [Slot.child, Slot.voidAtPoint]
theorem child_gst : (y.child pc jb uid born).gst = (y.voidAtPoint none).gst := by simp only [Slot.child]
theorem child_vst : (y.child pc jb uid born).vst = (y.voidAtPoint none).vst := by simp only [Slot.child]

end

theorem slot_answered (s : State) (k j : Nat) : (s.answered k).slot j = s.slot j := rfl

theorem core_answered (s : State) (k c : Nat) : (s.answered k).core c = s.core c := rfl

theorem ls_answered (s : State) (k : Nat) : (s.answered k).ls = s.ls := rfl

theorem mem_answered (s : State) (k : Nat) : (s.answered k).mem = s.mem := rfl

/-- What the join block of a SPAWN leaves, as its push and its child read it. -/
structure State.Raised (s u : State) (ls : Memory) : Prop where
  slot   : u.slot s.focus = (s.issued 4).slot s.focus
  queues : (u.core (coreOf s.focus)).queues = (s.core (coreOf s.focus)).queues
  ls     : u.ls = ls
  mem    : u.mem = s.mem

theorem raised_issued (s : State) : s.Raised (s.issued 4) s.ls :=
  have h := alike_issued s 4 false false
  ⟨rfl, h.queues _, h.memory.ls, h.memory.mem⟩

theorem raised_storeLs (s : State) (off : Nat) (bs : List Byte) :
    s.Raised (((s.issued 4).countFree (coreOf s.focus) 0x06 2).storeLs (dieOf s.focus) (clusterOf s.focus) off bs)
      (s.ls.writeBytes (lsKey (clusterOf s.focus) off) bs) := by
  obtain ⟨hslots, ⟨hmem, hls, -, -⟩, -, -, -, -, hqueues⟩ := alike_atJoin s
  refine ⟨?_, ?_, ?_, ?_⟩
  · rw [slot_storeLs]
    exact (slot_of_slots hslots s.focus).trans (by rw [State.slot_setSlot, if_pos rfl])
  · rw [core_storeLs]
    exact hqueues _
  · rw [ls_storeLs, State.ls_countFree]
    exact congrArg (fun m => Memory.writeBytes m _ bs) (alike_issued s 4 false false).memory.ls
  · rw [mem_storeLs]
    exact hmem

section
variable {s u : State} {ls : Memory} {a : BitVec 5} {jb : Dword} {r : StrandRec}

theorem slot_child (v b : State) (a : BitVec 5) (jb : Dword) : (v.child b a jb).slot b.focus =
    (v.slot b.focus).child ((b.slot b.focus).readG a) jb v.nextN v.timer.toNat := by
  show (State.setSlot v b.focus _).slot b.focus = _
  rw [State.slot_setSlot, if_pos rfl]

theorem core_child (v b : State) (a : BitVec 5) (jb : Dword) (c : Nat) : (v.child b a jb).core c = v.core c := rfl

theorem ls_child (v b : State) (a : BitVec 5) (jb : Dword) : (v.child b a jb).ls = v.ls := rfl

theorem mem_child (v b : State) (a : BitVec 5) (jb : Dword) : (v.child b a jb).mem = v.mem := rfl

/-- A SPAWN with room: the continuation stands at the near end, the child in the slot, and the record in the plinth. -/
theorem spawned_spec (h : s.Raised u ls) (hroom : (s.core (coreOf s.focus)).deque.length < 64) :
    let t := (u.spawned s a jb r).answered s.focus
    let x := s.slot s.focus
    (t.core (coreOf s.focus)).deque = (s.core (coreOf s.focus)).deque ++ [r] ∧
    (t.slot s.focus).pc = x.readG a ∧ (t.slot s.focus).joinblk = jb ∧ (t.slot s.focus).occ = x.occ ∧ (t.slot s.focus).g = x.g ∧
    (∀ n : Fin 32, (t.slot s.focus).gst[n] = if 13 ≤ n.val then .void else x.gst[n]) ∧
    (∀ n : Fin 8, (t.slot s.focus).vst[n] = .void) ∧
    t.ls = ls.writeBytes (lsKey (clusterOf s.focus) (plinthOff (coreOf s.focus) +
      ((s.core (coreOf s.focus)).dqHead + (s.core (coreOf s.focus)).deque.length) % 64 * 128)) r.bytes ∧ t.mem = s.mem := by
  obtain ⟨hslot, hqueues, hls, hmem⟩ := h
  have hdeque : (u.core (coreOf s.focus)).deque = (s.core (coreOf s.focus)).deque := congrArg Prod.fst hqueues
  have hhead : (u.core (coreOf s.focus)).dqHead = (s.core (coreOf s.focus)).dqHead := congrArg (·.2.1) hqueues
  obtain ⟨v, hv, heq⟩ := spawned_eq (s := u) (b := s) (a := a) (jb := jb) (r := r) (by rwa [hdeque])
  have hvslot : v.slot s.focus = (s.issued 4).slot s.focus := (hv.slot _).trans hslot
  have hcl : coreOf s.focus / 4 = clusterOf s.focus := Nat.div_div_eq_div_mul ..
  dsimp only
  rw [heq, slot_answered, core_answered, ls_answered, mem_answered, slot_child, core_child, ls_child,
    mem_child, hvslot]
  refine ⟨?deque, rfl, rfl, ?occ, ?g, fun n => ?gst, fun n => ?vst, ?ls, ?mem⟩
  case deque => rw [hv.deque, deque_pushed, hdeque]
  case occ => rw [child_occ, occ_issued]
  case g => rw [child_g, g_issued]
  case gst => rw [child_gst, voidAtPoint_gst, gst_issued]
  case vst => rw [child_vst, voidAtPoint_vst]
  case ls => rw [hv.memory.ls, ls_pushed, hls, hdeque, hhead, hcl]
  case mem => rw [hv.memory.mem, mem_pushed, hmem]

end

/-- Settles O23: SPAWN by its deque, its slot and its writes, JOIN by the join word that it finds. -/
theorem spawnAndJoin : Obligations.SpawnAndJoin := by
  refine ⟨fun s a b g off => ?spawn, fun s a g off => ?join⟩
  case spawn =>
    dsimp only [exec]
    intro h hs hn hroom ha hb
    rcases hb with h0 | ⟨hr, hobj, hcount⟩
    · refine ⟨_, spawn_gives h hs hn hroom ha (.inl h0) (.inl ⟨h0, rfl⟩), ?_⟩
      rw [if_pos h0]
      exact spawned_spec (raised_issued s) hroom
    · have hne : (s.slot s.focus).readG b ≠ 0 := by
        rintro h0
        rw [h0] at hr
        exact absurd (regionOf_eq_own_iff.1 hr).1 (by simp; omega)
      have hword : (s.issued 4).lsDword (clusterOf s.focus) off = s.lsDword (clusterOf s.focus) off :=
        lsDword_of_alike (alike_issued ..) ..
      have hraise := joinRaise_own (b := s) (s := s.issued 4) (r := .issue s.focus) hr (by rwa [hword])
      rw [hword] at hraise
      refine ⟨_, spawn_gives h hs hn hroom ha (.inr hobj) (.inr ⟨hne, hraise⟩), ?_⟩
      rw [if_neg hne]
      exact spawned_spec (raised_storeLs s off _) hroom
  case join =>
    dsimp only [exec]
    intro h hs hc hr hoff hm ho
    have hslot : s.atJoin.slot s.focus = (s.issued 4).slot s.focus := by rw [(alike_atJoin s).slot, State.slot_setSlot, if_pos rfl]
    have hword : s.atJoin.lsDword (clusterOf s.focus) off = s.lsDword (clusterOf s.focus) off := lsDword_of_alike (alike_atJoin s) _ _
    have hm' : (s.atJoin.slot s.focus).mark = none := by rw [hslot, mark_issued, hm]
    have ho' : (s.atJoin.slot s.focus).occ = .active := by rw [hslot, occ_issued, ho]
    refine ⟨join_waits h hs hc hr, fun ht hn => ?zero, fun ht hn hrec => ?record⟩
    case zero =>
      refine ⟨_, join_gives h hs hc hr (joinHere_of_zero (by rwa [hword]) (by rwa [hword]) hm' ho'), ?_⟩
      have hmem := (sameMemory_atJoin s).trans (sameMemory_answered_modSlot s.atJoin s.focus s.focus fun y => y.voidAtPoint none)
      rw [slot_answered, slot_modSlot_self, hslot, voidAtPoint_occ, voidAtPoint_pc, voidAtPoint_g,
        occ_issued, pc_issued, g_issued]
      refine ⟨ho, rfl, rfl, fun n => ?_, hmem⟩
      rw [voidAtPoint_gst, gst_issued]
    case record =>
      have hrec' : (s.atJoin.slot s.focus).noRecord = false := by rw [hslot, noRecord_issued, hrec]
      refine ⟨_, join_gives h hs hc hr (joinHere_of_record hr hoff (by rwa [hword]) (by rwa [hword]) hrec' hm' ho'), ?_⟩
      obtain ⟨hls, hmem⟩ := ls_mem_joined s.atJoin s s.focus off
        (s.recOf s.focus ((s.slot s.focus).replay.getD ((s.slot s.focus).pc + 4)))
      rw [slot_answered, ls_answered, mem_answered, occ_joined, hls, hmem, hword, (sameMemory_atJoin s).ls, (sameMemory_atJoin s).mem]
      exact ⟨rfl, rfl, rfl⟩

end Sys2Proof.Machine
end

section
/-! Strands at their instructions: YIELD, PARK, SELF, RFILL and the migrations (R363–R366). -/

namespace Sys2Proof.Machine

section
variable {s t u : State} {d a b : BitVec 5} {g v : BitVec 3} {l : BitVec 4} {k c : Nat} {r : StrandRec}

/-! ### YIELD and PARK (R139, R364) -/

/-- The state of a YIELD or PARK behind its suspension point. -/
def State.atPoint (s : State) : State := (s.issued 4).modSlot s.focus fun y => y.voidAtPoint none

theorem suspend_issued (hm : (s.slot s.focus).mark = none) (ho : (s.slot s.focus).occ = .active) :
    (s.issued 4).suspend s.focus = s.atPoint :=
  suspend_of_unmarked (by rw [mark_issued, hm]) (by rw [occ_issued, ho])

theorem runq_atPoint (s : State) (c : Nat) : (s.atPoint.core c).runq = (s.core c).runq := by
  have h := (alike_issued s 4 false false).runq c
  rw [State.core_setSlot] at h
  rw [State.atPoint, State.modSlot_eq, State.core_setSlot, h]

theorem runPlace_atPoint (s : State) (c : Nat) : (s.atPoint.core c).runPlace = (s.core c).runPlace := by
  rw [Core.runPlace, Core.runPlace, runq_atPoint]

theorem timer_ls_atPoint (s : State) : s.atPoint.timer = s.timer ∧ s.atPoint.ls = s.ls := by
  have h := alike_issued s 4 false false
  have htimer := h.timer
  have hls := h.memory.ls
  rw [State.setSlot_timer] at htimer
  rw [State.setSlot_ls] at hls
  rw [State.atPoint, State.modSlot_eq, State.setSlot_timer, State.setSlot_ls]
  exact ⟨htimer, hls⟩

theorem occ_atPoint (ho : (s.slot s.focus).occ = .active) : (s.atPoint.slot s.focus).occ = .active := by
  rw [State.atPoint, slot_modSlot_self, voidAtPoint_occ, occ_issued, ho]

/-- The record that a YIELD puts in its core's run queue leaves the slot empty. -/
def State.yielded (s : State) (c k : Nat) (r : StrandRec) : State :=
  ((s.putRec c (0x2000 + (s.core c).runPlace * 128) r).modCore c fun x =>
    { x with runq := x.runq ++ [s.runRec c r], asleep := false }).leave k

theorem pushRun_eq (h : (s.core c).runq.length < 32) : s.pushRun c r =
    some ((s.putRec c (0x2000 + (s.core c).runPlace * 128) r).modCore c fun x =>
      { x with runq := x.runq ++ [s.runRec c r], asleep := false }) := if_neg (Nat.not_le.2 h)

theorem yielded_spec (s : State) (c k : Nat) (r : StrandRec) :
    ((s.yielded c k r).slot k).occ = .empty ∧ ((s.yielded c k r).core c).runq = (s.core c).runq ++ [s.runRec c r] ∧
    (s.yielded c k r).ls = s.ls.writeBytes (lsKey (c / 4) (plinthOff c + (0x2000 + (s.core c).runPlace * 128))) r.bytes := by
  refine ⟨?_, ?_, rfl⟩
  · rw [State.yielded, State.leave, slot_modSlot_self]
  · rw [State.yielded, State.leave, State.modSlot_eq, State.core_setSlot, State.modCore_eq, State.core_setCore, if_pos rfl]
    rfl

theorem yield_hold (hs : (s.slot s.focus).suspHeld = false) (hn : (s.slot s.focus).noRecord = false) :
    (s.slot s.focus).recHeld = false := by rw [Slot.recHeld, hs, hn]; rfl

/-- A YIELD behind its issue `t`: its record enters the run queue, or it goes on (R364). -/
def State.yieldAt (s t : State) : State :=
  if ((t.suspend s.focus).slot s.focus).occ = .empty then t.suspend s.focus
  else match (t.suspend s.focus).pushRun (coreOf s.focus) (s.recOf s.focus (t.slot s.focus).pc) with
    | some u => u.leave s.focus
    | none => t.suspend s.focus

theorem yield_ready (h : Ready s g true [] []) (hs : (s.slot s.focus).suspHeld = false) (hn : (s.slot s.focus).noRecord = false) :
    execYield g s = .next (s.yieldAt (s.issued 4)) :=
  (issue_ready h rfl (yield_hold hs hn) rfl).trans rfl

variable (hs : (s.slot s.focus).suspHeld = false) (hm : (s.slot s.focus).mark = none) (ho : (s.slot s.focus).occ = .active)
include hs hm ho

/-- A YIELD that its core's run queue has no room for is a suspension point. -/
theorem yield_of_full (h : Ready s g true [] []) (hn : (s.slot s.focus).noRecord = false)
    (hfull : 32 ≤ (s.core (coreOf s.focus)).runq.length) : execYield g s = .next s.atPoint := by
  rw [yield_ready h hs hn, State.yieldAt, suspend_issued hm ho, occ_atPoint ho, if_neg (by decide),
    pushRun_of_full (by rwa [runq_atPoint])]

theorem yield_of_room (h : Ready s g true [] []) (hn : (s.slot s.focus).noRecord = false)
    (hroom : (s.core (coreOf s.focus)).runq.length < 32) : execYield g s = .next (s.atPoint.yielded (coreOf s.focus) s.focus
      (s.recOf s.focus ((s.slot s.focus).replay.getD ((s.slot s.focus).pc + 4)))) := by
  rw [yield_ready h hs hn, State.yieldAt, suspend_issued hm ho, occ_atPoint ho, if_neg (by decide),
    pushRun_eq (by rwa [runq_atPoint]), pc_issued]
  rfl

theorem park_gives (h : Ready s g true [] []) (hd : d.toNat ≤ 12) (hf : (s.slot s.focus).gState d = .full) :
    execPark d g s = .next s.atPoint := by
  refine (issue_ready h ?_ ?_ rfl).trans (congrArg _ (suspend_issued hm ho))
  · simp [Instr.illegal, illegalIf, hd]
  · simp [hs, hf]

end

/-! ### SELF and RFILL (R365, R366) -/

section
variable {s : State} {d a b : BitVec 5} {g v : BitVec 3} {l : BitVec 4}

theorem pureTrap_of_unbound (h : (s.slot s.focus).pureBound = false) (sub : Byte) : s.pureTrap s.focus sub = none := by
  rw [State.pureTrap, h]
  rfl

theorem placeTrap_of_cluster {w : Dword} (h : placeCluster w < 40) : placeTrap w = none := if_neg (Nat.not_le.2 h)

theorem self_gives (h : Ready s g true [] [.g d]) (hp : (s.slot s.focus).pureBound = false) : execSelf d g l s =
    .next (s.depart (s.issued 4) l (.compute [.g d (placeWord s.pkgid s.focus)]) [.g d]) :=
  longOp_gives h ⟨rfl, rfl, rfl⟩ rfl rfl (pureTrap_of_unbound hp 0x05) rfl

theorem rfill_gives (h : Ready s g true [.g a, .g b] [.g d]) (hw : placeCluster (s.readG s.focus a) < 40)
    (hp : (s.slot s.focus).pureBound = false) : execRfill d a b g l s = .next (s.depart (s.issued 4 true) l
      (.rfill (placeSlot (s.readG s.focus a)) (BitVec.ofNat 5 ((s.readG s.focus a).toNat % 32)) (s.readG s.focus b) d) [.g d]) := by
  refine (longOp_ready h rfl rfl ?_).trans ?_
  · exact firstTrap_none.2 (by simp [placeTrap_of_cluster hw, pureTrap_of_unbound hp])
  · dsimp only
    rw [bits_low]
    rfl

/-! ### MIGR and MIGV (R363) -/

/-- A strand record on its way from its slot to core `c`. -/
def State.migrMsg (s : State) (c : Nat) (d : BitVec 5) (r : StrandRec) : Msg :=
  { Msg.to 1 c with
    n := s.nextN, src := s.focus, uid := (s.slot s.focus).uid, mbox := d.toNat, record := some r, stn := some (clusterOf s.focus) }

/-- What a migration inside the package leaves: its record on its way, and its slot waiting for the answer. -/
def State.migrating (s : State) (c : Nat) (d : BitVec 5) (r : StrandRec) : State :=
  let p := (s.count (coreOf s.focus) 0x02 1).postMsg { s.migrMsg c d r with n := 0 }
  p.1.modSlot s.focus fun y => { y with occ := .migrating p.2 }

theorem migrating_spec (s : State) (c : Nat) (d : BitVec 5) (r : StrandRec) :
    ((s.migrating c d r).slot s.focus).occ = .migrating s.nextN ∧ (s.migrating c d r).msgs = s.msgs ++ [s.migrMsg c d r] := by
  obtain ⟨-, -, -, hmsgs, hnext, -, -⟩ := alike_count s (coreOf s.focus) 0x02 1
  constructor
  · rw [State.migrating, slot_modSlot_self, ← hnext]
    rfl
  · rw [State.migrMsg, ← hmsgs, ← hnext]
    rfl

theorem setG_keeps_vreg (r : StrandRec) (d : BitVec 5) (x : Dword) (hr : r.vreg = none) : { r.setG d x with vreg := none } = r.setG d x := by
  rw [StrandRec.setG]
  split <;> (cases r; cases hr; rfl)

/-- The checks of a migration to a core of this package. -/
theorem migrate_check (hw : placeCluster (s.readG s.focus a) < 40) (hp : placePkg (s.readG s.focus a) = s.pkgid.toNat) :
    firstTrap [placeTrap (s.readG s.focus a),
      if placePkg (s.readG s.focus a) = s.pkgid.toNat then none else s.pureTrap s.focus 0x09] = none :=
  firstTrap_none.2 (by simp [placeTrap_of_cluster hw, hp])

variable (hd : d.toNat ≤ 12) (hs : (s.slot s.focus).suspHeld = false) (hn : (s.slot s.focus).noRecord = false)
  (hw : placeCluster (s.readG s.focus a) < 40) (hp : placePkg (s.readG s.focus a) = s.pkgid.toNat)
include hd hs hn hw hp

theorem migr_gives (h : Ready s g true [.g a] [.g d]) : execMigr d a g s =
    .next ((s.migrating (placeCore (s.readG s.focus a)) d
      ((s.recOf s.focus ((s.slot s.focus).replay.getD ((s.slot s.focus).pc + 4))).setG d 0)).answered s.focus) := by
  unfold execMigr migrate
  refine issueM_ready h ?legal ?hold ?check ?body
  case hold => exact yield_hold hs hn
  case legal => simp [Instr.illegal, illegalIf, hd]
  case check => exact migrate_check hw hp
  case body =>
    have hp' : placePkg ((s.slot s.focus).readG a) = s.pkgid.toNat := hp
    dsimp only
    rw [if_pos hp', Option.map_none, setG_keeps_vreg _ _ _ rfl]
    rfl

theorem migv_gives (h : Ready s g true [.g a, .v v] [.g d]) : execMigv d a v g s =
    .next ((s.migrating (placeCore (s.readG s.focus a)) d
      { (s.recOf s.focus ((s.slot s.focus).replay.getD ((s.slot s.focus).pc + 4))).setG d 0 with
        vreg := some (v, (s.slot s.focus).readV v) }).answered s.focus) := by
  unfold execMigv migrate
  refine issueM_ready h ?legal ?hold ?check ?body
  case hold => exact yield_hold hs hn
  case legal => simp [Instr.illegal, illegalIf, hd]
  case check => exact migrate_check hw hp
  case body =>
    have hp' : placePkg ((s.slot s.focus).readG a) = s.pkgid.toNat := hp
    dsimp only
    rw [if_pos hp']
    rfl

end

/-- Settles O24: each instruction by what it leaves of its slot, its core's run queue and the messages on their way. -/
theorem strandResults : Obligations.StrandResults := by
  intro s d a b g v l
  dsimp only [exec]
  have hcl : coreOf s.focus / 4 = clusterOf s.focus := Nat.div_div_eq_div_mul ..
  refine ⟨fun h hs hm ho => ⟨fun hn hroom => ?yield, fun hn hfull => yield_of_full hs hm ho h hn hfull,
    fun hd hf => park_gives hs hm ho h hd hf⟩, fun h => issue_gives h ⟨rfl, rfl, rfl⟩ rfl rfl rfl, fun h hp => self_gives h hp,
    fun h hw hp => rfill_gives h hw hp, fun hd hs hn hw hp => ⟨fun h => ?migr, fun h => ?migv⟩⟩
  case yield =>
    refine ⟨_, yield_of_room hs hm ho h hn hroom, ?_⟩
    obtain ⟨hocc, hrunq, hls⟩ := yielded_spec s.atPoint (coreOf s.focus) s.focus
      (s.recOf s.focus ((s.slot s.focus).replay.getD ((s.slot s.focus).pc + 4)))
    rw [State.runRec, runq_atPoint, runPlace_atPoint, (timer_ls_atPoint s).1] at hrunq
    rw [runPlace_atPoint, (timer_ls_atPoint s).2, hcl] at hls
    exact ⟨hocc, hrunq, hls⟩
  case migr => exact ⟨_, migr_gives hd hs hn hw hp h, migrating_spec ..⟩
  case migv => exact ⟨_, migv_gives hd hs hn hw hp h, migrating_spec ..⟩

end Sys2Proof.Machine
end

section
/-! Messages: MSEND, MRECV and MPEEK at their issue, and a message that comes to its mailbox (R367–R369). -/

namespace Sys2Proof.Machine

/-! ### What keeps the mailboxes -/

/-- The same messages are on their way, and the same ones stand in the mailboxes and behind them. -/
structure State.SameMail (s t : State) : Prop where
  msgs  : t.msgs = s.msgs
  mbox  : ∀ c, (t.core c).mbox = (s.core c).mbox
  mpend : ∀ c, (t.core c).mpend = (s.core c).mpend

namespace State.SameMail

variable {s t u : State} {k c n : Nat}

theorem refl (s : State) : s.SameMail s := ⟨rfl, fun _ => rfl, fun _ => rfl⟩

theorem trans (h : s.SameMail t) (h' : t.SameMail u) : s.SameMail u :=
  ⟨h'.msgs.trans h.msgs, fun c => (h'.mbox c).trans (h.mbox c), fun c => (h'.mpend c).trans (h.mpend c)⟩

/-- What changes neither a core nor a message keeps the mailboxes. -/
theorem of_cores (h : s.SameMail t) (hm : u.msgs = t.msgs) (hc : u.cores = t.cores) : s.SameMail u :=
  h.trans ⟨hm, fun c => by rw [State.core, State.core, hc], fun c => by rw [State.core, State.core, hc]⟩

theorem ite {p : Prop} [Decidable p] (ht : s.SameMail t) (hu : s.SameMail u) : s.SameMail (if p then t else u) := by
  split
  · exact ht
  · exact hu

theorem modSlot {f : Slot → Slot} (h : s.SameMail t) : s.SameMail (t.modSlot k f) := h.of_cores rfl rfl

theorem count {e : Byte} (h : s.SameMail t) : s.SameMail (t.count c e n) := by
  have hcore (j : Nat) := core_count (s := t) c j e n
  refine h.trans ⟨by simp, fun j => ?_, fun j => ?_⟩
  all_goals
    obtain ⟨evc, hj⟩ := hcore j
    rw [hj]

theorem wake (h : s.SameMail t) : s.SameMail (t.wake c) := by
  have hcore : t.SameMail (t.modCore c fun x => { x with asleep := false }) := by
    refine ⟨rfl, fun j => ?_, fun j => ?_⟩
    all_goals
      rw [State.modCore_eq, State.core_setCore]
      split
      · next hj => rw [hj]
      · rfl
  exact h.trans (ite hcore (refl t))

theorem doubleTrap {cause : Byte} {pc addr : Dword} (h : s.SameMail t) : s.SameMail (t.doubleTrap k cause pc addr) := h.of_cores rfl rfl

theorem writeWindow {ds : List Dword} (h : s.SameMail t) : s.SameMail (t.writeWindow k ds) := h.of_cores rfl rfl

theorem taint (h : s.SameMail t) : s.SameMail (t.taint k) := h.of_cores rfl rfl

theorem takePlain {tr : Trap} (h : s.SameMail t) : s.SameMail (t.takePlain k tr) := by
  have hwindow : ∀ (p : Prop) [Decidable p] (ds : List Dword), s.SameMail (if p then t else t.writeWindow k ds) :=
    fun _ _ _ => ite h h.writeWindow
  exact (ite (hwindow ..).taint (hwindow ..)).modSlot.count

theorem takeFatal {f : FatalRec} (h : s.SameMail t) : s.SameMail (t.takeFatal k f) :=
  ((h.of_cores (u := t.setSlot k _) rfl rfl).writeWindow).modSlot.count

theorem takeDue (h : s.SameMail t) : s.SameMail (t.takeDue k) := by
  unfold State.takeDue
  dsimp only
  split
  · exact ite h.doubleTrap (ite h.takeFatal h)
  · split
    · exact ite h.doubleTrap (ite h.takePlain h)
    · exact h

theorem complete {o : Outst} {fs : List Fill} (h : s.SameMail t) : s.SameMail (t.complete k o fs) := h.modSlot.takeDue.wake

end State.SameMail

/-! ### A message arrives (R367) -/

section
variable {s t : State} {m : Msg}

/-- The MSEND whose message a mailbox takes or refuses. -/
def State.senderOf (s : State) (m : Msg) : Option Outst :=
  (s.slot m.src).outs.find? fun o => match o.op with
    | .msend _ _ (some n) _ => n == m.n
    | _ => false

/-- The sender of a message, if it is still there, hears how it went. -/
def State.report (b : State) (m : Msg) (s : State) (x : Dword) : State :=
  match b.senderOf m with
  | some o => match o.op with
    | .msend _ _ _ d => s.complete m.src o [.g d x]
    | _ => s
  | none => s

theorem sameMail_report (b : State) (m : Msg) (s : State) (x : Dword) : s.SameMail (b.report m s x) := by
  unfold State.report
  split
  · split
    · exact (State.SameMail.refl s).complete
    · exact .refl s
  · exact .refl s

theorem core_dropMsg (s : State) (n c : Nat) : (s.dropMsg n).core c = s.core c := rfl

theorem msgs_dropMsg (s : State) (n : Nat) : (s.dropMsg n).msgs = s.msgs.filter fun u => u.n ≠ n := rfl

variable (hm : s.msg? s.ev.who 0 = some m) (ht : s.msgTurn m = true) (hf : (s.core m.core).fwd = none)
  (hi : s.moveInto m.core = false)
include hm ht hf hi

theorem mailboxDeliver_of_arrives (ha : s.arriveMbox m.core m.mbox m.bytes = some t) :
    execMailboxDeliver s = .next (s.report m (t.dropMsg m.n) 0) := by
  simp only [execMailboxDeliver, hm, ht, forwarded_of_here hf hi, ha, Bool.not_true, Bool.false_eq_true, if_false]
  rfl

theorem mailboxDeliver_of_full (ha : s.arriveMbox m.core m.mbox m.bytes = none) (hd : m.device = false) :
    execMailboxDeliver s = .next (s.report m (s.dropMsg m.n) 6) := by
  simp only [execMailboxDeliver, hm, ht, forwarded_of_here hf hi, ha, hd, Bool.not_true, Bool.false_eq_true, if_false]
  rfl

end

section
variable {s : State} {c n : Nat} {bs : List Byte}

/-- The SLEEPs of a core end. -/
def State.endSleeps (s : State) (ks : List Nat) : State :=
  ks.foldl (fun s k => if (s.slot k).sleeping.isSome then s.modSlot k fun x => { x with sleeping := none } else s) s

theorem sameMail_endSleeps (s : State) (ks : List Nat) : s.SameMail (s.endSleeps ks) := by
  induction ks generalizing s with
  | nil => exact .refl s
  | cons k ks ih => exact State.SameMail.trans (.ite (State.SameMail.modSlot (.refl s)) (.refl s)) (ih _)

theorem mbox_fillMbox (s : State) (c n : Nat) (bs : List Byte) :
    ((s.fillMbox c n bs).core c).mbox.get (mboxFin n) = some bs ∧ (s.fillMbox c n bs).msgs = s.msgs := by
  have h := sameMail_endSleeps ((s.writeLs (c / 4) (plinthOff c + 0x3000 + n * 256) bs).modCore c fun x =>
    { x with mbox := x.mbox.set (mboxFin n) (some bs), asleep := false }) (slotsOf c)
  have hfill : s.fillMbox c n bs = ((s.writeLs (c / 4) (plinthOff c + 0x3000 + n * 256) bs).modCore c fun x =>
    { x with mbox := x.mbox.set (mboxFin n) (some bs), asleep := false }).endSleeps (slotsOf c) := rfl
  rw [hfill, h.mbox, h.msgs, State.modCore_eq, State.core_setCore, if_pos rfl]
  exact ⟨by simp [Vector.get_eq_getElem], rfl⟩

theorem arriveMbox_of_empty (h : (s.core c).mbox.get (mboxFin n) = none) : s.arriveMbox c n bs = some (s.fillMbox c n bs) := by
  rw [State.arriveMbox, h]

/-- What stands behind a full mailbox, with one more. -/
def State.pendMbox (s : State) (c n : Nat) (bs : List Byte) : State := s.modCore c fun x => { x with mpend := x.mpend ++ [(n % 16, bs)] }

theorem mpend_pendMbox (s : State) (c n : Nat) (bs : List Byte) :
    ((s.pendMbox c n bs).core c).mpend = (s.core c).mpend ++ [(n % 16, bs)] := by
  rw [State.pendMbox, State.modCore_eq, State.core_setCore, if_pos rfl]

variable (h : (s.core c).mbox.get (mboxFin n) ≠ none)
include h

theorem arriveMbox_of_room (hr : (s.core c).mpend.length < 16) : s.arriveMbox c n bs = some (s.pendMbox c n bs) := by
  obtain ⟨old, ho⟩ := Option.ne_none_iff_exists'.1 h
  rw [State.arriveMbox, ho]
  exact if_neg (Nat.not_le.2 hr)

theorem arriveMbox_of_full (hr : 16 ≤ (s.core c).mpend.length) : s.arriveMbox c n bs = none := by
  obtain ⟨old, ho⟩ := Option.ne_none_iff_exists'.1 h
  rw [State.arriveMbox, ho]
  exact if_pos hr

end

/-! ### The issue (R368, R369) -/

section
variable {s : State} {d a b : BitVec 5} {g : BitVec 3} {l : BitVec 4}

theorem pureTrap_of_untagged (h : (s.slot s.focus).pt = false) (sub : Byte) : s.pureTrap s.focus sub = none :=
  pureTrap_of_unbound (by rw [Slot.pureBound, h]; rfl) sub

theorem bits_top (x : Dword) : bits x 63 56 = x.toNat / 2 ^ 56 := by
  have h := x.isLt
  simp only [bits]
  omega

theorem msend_gives (h : Ready s g true [.g a, .g b] [.g d]) (hacq : (s.slot s.focus).acquiring = false)
    (hp : (s.slot s.focus).pt = false) (hw : placeCluster (s.readG s.focus a) < 40)
    (hc : s.objTrap s.focus (s.readG s.focus b) 8 3 (8 * ((s.readG s.focus a).toNat / 2 ^ 56)) false = none) :
    execMsend d a b g l s = .next (s.depart (s.issued 4 true) l (.msend (s.readG s.focus a) (s.readG s.focus b) none d) [.g d]) := by
  refine (longOp_ready h rfl hacq ?_).trans rfl
  exact firstTrap_none.2 (by simp only [bits_top, placeTrap_of_cluster hw, hc, pureTrap_of_untagged hp]; simp)

theorem mrecv_gives (h : Ready s g true [.g a, .g b] [.g d]) (hacq : (s.slot s.focus).acquiring = false)
    (hp : (s.slot s.focus).pt = false) (hc : s.accessTrap s.focus (s.readG s.focus b) 8 true = none) : execMrecv d a b g l s =
      .next (s.depart (s.issued 4) l (.mrecv ((s.readG s.focus a).toNat % 16) (s.readG s.focus b) none d) [.g d]) := by
  refine longOp_gives h ⟨rfl, rfl, rfl⟩ rfl hacq ?_ ?_
  · exact firstTrap_none.2 (by simp [hc, pureTrap_of_untagged hp])
  · rw [bits_low]
    rfl

theorem mpeek_gives (h : Ready s g true [.g a] [.g d]) (hp : (s.slot s.focus).pt = false) : execMpeek d a g l s =
    .next (s.depart (s.issued 4) l (.compute [.g d (BitVec.ofNat 64
      ((((s.core (coreOf s.focus)).mbox.get (mboxFin ((s.readG s.focus a).toNat % 16))).map List.length).getD 0))]) [.g d]) := by
  refine longOp_gives h ⟨rfl, rfl, rfl⟩ rfl rfl (pureTrap_of_untagged hp 0x07) ?_
  dsimp only
  rw [bits_low]
  rfl

end

/-- Settles O26: the issues by their operands, the delivery by the room that the message finds. -/
theorem messageResults : Obligations.MessageResults := by
  intro s d a b g l
  dsimp only [exec]
  refine ⟨fun h hacq hp hw hc => msend_gives h hacq hp hw hc, fun h hacq hp hc => mrecv_gives h hacq hp hc, fun h hp bs hbs => ?peek,
    fun m hm ht hf hi => ⟨fun hempty => ?enters, fun hfull hroom => ?waits, fun o e p y hfull hroom hd ho hop => ?refused⟩⟩
  case peek =>
    rw [← hbs]
    exact mpeek_gives h hp
  case enters =>
    have hreport := sameMail_report s m ((s.fillMbox m.core m.mbox m.bytes).dropMsg m.n) 0
    obtain ⟨hbox, hmsgs⟩ := mbox_fillMbox s m.core m.mbox m.bytes
    refine ⟨_, mailboxDeliver_of_arrives hm ht hf hi (arriveMbox_of_empty hempty), ?_⟩
    rw [hreport.mbox, hreport.msgs, core_dropMsg, msgs_dropMsg, hmsgs]
    exact ⟨hbox, rfl⟩
  case waits =>
    have hreport := sameMail_report s m ((s.pendMbox m.core m.mbox m.bytes).dropMsg m.n) 0
    refine ⟨_, mailboxDeliver_of_arrives hm ht hf hi (arriveMbox_of_room hfull hroom), ?_⟩
    rw [hreport.mpend, hreport.msgs, core_dropMsg, msgs_dropMsg]
    exact ⟨mpend_pendMbox .., rfl⟩
  case refused =>
    refine (mailboxDeliver_of_full hm ht hf hi (arriveMbox_of_full hfull hroom) hd).trans ?_
    have hsender : s.senderOf m = some o := by simp [State.senderOf, ho, hop]
    simp only [State.report, hsender, hop]

end Sys2Proof.Machine
end

section
/-! The TASK instructions: TCARD, TPOST, QPUSH, QPOP, QPOP.W and TDONE (R131, R361, R371–R374). -/

namespace Sys2Proof.Machine

/-! ### What an issue leaves of tasks and writes -/

section
variable (s : State) (d q pa n : Nat)

theorem readView_issued : (s.issued 4).readView d pa n = s.readView d pa n := by simp [State.readView, State.issued]
theorem announceRoom_issued : (s.issued 4).announceRoom d = s.announceRoom d := by simp [State.announceRoom, State.issued]
theorem tasks_issued : (s.issued 4).tasks = s.tasks := by simp [State.issued]
theorem nextN_issued : (s.issued 4).nextN = s.nextN := by simp [State.issued]
theorem writes_issued : (s.issued 4).writes = s.writes := by simp [State.issued]
theorem queueOf_issued : (s.issued 4).queueOf d q = s.queueOf d q := by rw [State.queueOf, State.queueOf, State.die_issued]
theorem stampOf_issued : (s.issued 4).stampOf d = s.stampOf d := by simp only [State.stampOf, State.die_issued]
theorem heldFor_issued : (s.issued 4).heldFor d q = s.heldFor d q := by simp only [State.heldFor, State.die_issued, tasks_issued]
theorem firstTask_issued : (s.issued 4).firstTask d q = s.firstTask d q := by
  have hg (t : Task) : (s.issued 4).taskGuaranteed t = s.taskGuaranteed t := by
    simp [State.taskGuaranteed, State.guaranteedNow, State.issued]
  have hbefore : (s.issued 4).taskBefore = s.taskBefore := by
    funext a b
    simp only [State.taskBefore, hg]
  rw [State.firstTask, State.firstTask, queueOf_issued, tasks_issued, hbefore]
theorem taskNo_issued (x : Slot) : (s.issued 4).taskNo x = s.taskNo x := by rw [State.taskNo, State.taskNo, tasks_issued]
theorem cardTask_issued (card : Dword) (t : Half) : (s.issued 4).cardTask card t = s.cardTask card t := by
  rw [State.cardTask, State.cardTask, tasks_issued]

end

section
variable {s u : State} {d : BitVec 5} {l : BitVec 4} {v : Dword}

/-! ### What a result that is outstanding leaves -/

theorem lastGives_givesLater : ((s.givesLater u d l v).slot s.focus).lastGives [.g d v] := by
  rw [State.givesLater, State.depart, Slot.lastGives]
  show (((State.setSlot _ s.focus _).slot s.focus).outs.getLast?.map _) = _
  rw [State.slot_setSlot, if_pos rfl]
  simp

theorem die_givesLater (n : Nat) : (s.givesLater u d l v).die n = u.die n := rfl
theorem queueOf_givesLater (e q : Nat) : (s.givesLater u d l v).queueOf e q = u.queueOf e q := rfl
theorem cardTask_givesLater (card : Dword) (t : Half) : (s.givesLater u d l v).cardTask card t = u.cardTask card t := rfl
theorem writes_givesLater : (s.givesLater u d l v).writes = u.writes := rfl
theorem ls_givesLater : (s.givesLater u d l v).ls = u.ls := rfl

end

/-! ### Cards (R119, R121, R371) -/

section
variable {s t : State} {w : Who} {card : Dword} {pa pb die : Nat} {img : List Byte} {x : Byte} {d a b : BitVec 5} {g : BitVec 3}
  {l : BitVec 4}

theorem queueOf_postWrite (s : State) (w src e q : Nat) (data : WData) : (s.postWrite w src data).1.queueOf e q = s.queueOf e q := by
  have hdie : (s.postWrite w src data).1.die e = (s.modDie w fun d => { d with issued := d.issued + 1 }).die e := rfl
  rw [State.queueOf, State.queueOf, hdie, State.modDie_eq, State.die_setDie]
  split
  · next he => rw [he]
  · rfl

theorem nextN_postWrite (s : State) (w src : Nat) (data : WData) : (s.postWrite w src data).1.nextN = s.nextN + 1 := rfl

theorem writes_postWrite (s : State) (w src : Nat) (data : WData) :
    (s.postWrite w src data).1.writes = s.writes ++ [⟨s.nextN, src, w, s.stampOf w, data, false, 0, []⟩] := rfl

/-- A write of one byte leaves with its stamp (R97). -/
theorem writeMem_byte {va : Dword} {acc : Nat} (hw : s.Writable w va 1 acc pb) (hroom : s.announceRoom w.die = true) :
    writeMem w va [x] acc s = .ok ([s.nextN], (s.postWrite w.die w.uid (.bytes pb [x])).1) := by
  have hk : chunkLen va [x].length = 1 := by
    rw [chunkLen, List.length_singleton]
    omega
  have hplace : writePlace w va (.mem pb) [x] s = .ok ([s.nextN], (s.postWrite w.die w.uid (.bytes pb [x])).1) := by
    refine (get_bind ..).trans ?_
    rw [hroom]
    rfl
  have hfuel : [x].length / 4096 + 2 = 2 := by rw [List.length_singleton]
  rw [writeMem, hfuel, writeMemFrom, if_neg (List.cons_ne_nil _ _), hk]
  exact (bind_ok hw).trans ((bind_ok hplace).trans rfl)

/-- A card that lies in tenant space and is mapped is read as the strand's die sees it. -/
theorem readCard_ok {launch : Option Nat} (hr : regionOf card = .tenant) (ha : card.toNat % 128 = 0)
    (hm : t.Mapped w card 128 4 1 pa) (hb : s.issueBlocked s.focus [(card, 128)] = false) :
    readCard s w s.focus card launch t = .ok (some (t.readView w.die pa 128, homeDie pa), t) := by
  have hplace : cardPlace w card t = .ok (.ok pa, t) := by
    unfold cardPlace
    rw [if_neg (not_not.2 ha), hr]
    exact (bind_ok hm).trans rfl
  refine (bind_ok (orFatal_ok hplace)).trans ?_
  dsimp only
  rw [hb]
  rfl

theorem postCard_of_posted {q : Nat} {launch : Option Nat} (h0 : cardStatus img ≠ 0) (h3 : cardStatus img ≠ 3) :
    postCard w die q card img launch t = .ok (3, t) := by
  rw [postCard, if_pos ⟨h0, h3⟩]
  rfl

/-- What stands once a ready card without a record is queued: its task at the end of its queue. -/
def State.cardQueued (t : State) (w : Who) (die q : Nat) (card : Dword) (img : List Byte) : State :=
  let z := { newTask t die card img w.tenant none .queued with queue := q }
  ({ t with tasks := t.tasks ++ [z], nextN := t.nextN + 1 } : State).setQueue die q (t.queueOf die q ++ [t.nextN])

theorem queueCard_ok {q : Nat} (hbad : cardBad img w.tenant = none) (hcap : (t.queueOf die q).length < queueCap q)
    (hheld : t.heldFor die q = false) (hnew : t.cardTask card w.tenant = none) (hroom : t.announceRoom w.die = true)
    (hw : t.Writable w (card + 0x30) 1 5 pb) : queueCard w die q card img none t =
      .ok (0, ((t.postWrite w.die w.uid (.bytes pb [1])).1).cardQueued w die q card img) := by
  have hfull : (decide (queueCap q ≤ (t.queueOf die q).length) || t.heldFor die q) = false := by
    rw [hheld, decide_eq_false (Nat.not_le.2 hcap)]
    rfl
  have hput : ∀ z : Task, z.card = card → z.tenant = w.tenant → (t.postWrite w.die w.uid (.bytes pb [1])).1.putTask z =
      ({ (t.postWrite w.die w.uid (.bytes pb [1])).1 with
        tasks := (t.postWrite w.die w.uid (.bytes pb [1])).1.tasks ++ [z]
        nextN := (t.postWrite w.die w.uid (.bytes pb [1])).1.nextN + 1 }, (t.postWrite w.die w.uid (.bytes pb [1])).1.nextN) := by
    intro z hz hzt
    have hnone : (t.postWrite w.die w.uid (.bytes pb [1])).1.cardTask z.card z.tenant = none := by
      rw [hz, hzt]
      exact hnew
    rw [State.putTask, hnone]
  unfold queueCard
  refine (get_bind ..).trans ?_
  rw [hbad]
  dsimp only
  rw [hfull]
  simp only [Bool.false_eq_true, if_false]
  refine orFatal_ok ((bind_ok (writeStatus_ok (writeMem_byte hw hroom))).trans ?_)
  refine (bind_ok (modify_ok _ _)).trans ?_
  rw [hput _ rfl rfl]
  rfl

/-- A ready card that has not been posted is queued (R371). -/
theorem postCard_of_ready (hst : cardStatus img = 0 ∨ cardStatus img = 3) (hpred : cardPredcnt img = 0)
    (hbad : cardBad img w.tenant = none) (hcap : (t.queueOf die (cardStage img)).length < queueCap (cardStage img))
    (hheld : t.heldFor die (cardStage img) = false) (hnew : t.cardTask card w.tenant = none) (hroom : t.announceRoom w.die = true)
    (hw : t.Writable w (card + 0x30) 1 5 pb) : postCard w die (cardStage img) card img none t =
      .ok (0, ((t.postWrite w.die w.uid (.bytes pb [1])).1).cardQueued w die (cardStage img) card img) := by
  have hnot : ¬ (cardStatus img ≠ 0 ∧ cardStatus img ≠ 3) := fun hc => hst.elim hc.1 hc.2
  rw [postCard, if_neg hnot, if_pos hpred]
  exact queueCard_ok hbad hcap hheld hnew hroom hw

end

/-! ### The instructions of cards and queues (R371, R373, R374) -/

section
variable {s u : State} {d a b : BitVec 5} {g : BitVec 3} {l : BitVec 4} {v : Dword} {pa pb : Nat}

theorem tcard_gives (h : Ready s g true [] [.g d]) : execTcard d g l s =
    .next (s.depart (s.issued 4) l (.compute [.g d (s.slot s.focus).owner]) [.g d]) :=
  longOp_gives h ⟨rfl, rfl, rfl⟩ rfl rfl rfl rfl

theorem qpopW_gives (hu : s.Unheld) (h : Ready s g true [.g a] [.g d]) : execQpopW d a g l s =
    .next (s.depart (s.issued 4) l (if s.readG s.focus a = 17 then .qpopw d else .compute [.g d 1]) [.g d]) :=
  longOp_gives h ⟨rfl, rfl, rfl⟩ rfl rfl (hu.pureTrap 0x0A) rfl

theorem tpost_gives (hu : s.Unheld) (h : Ready s g true [.g a] [.g d]) (ha : (s.readG s.focus a).toNat % 128 = 0)
    (hb : tpostBody d a s (s.issued 4) = .ok (v, u)) : execTpost d a g l s = .next (s.givesLater u d l v) := by
  refine issueLater_ready h rfl hu.free ?_ hb
  exact firstTrap_none.2 (by simp [ha, hu.pureTrap])

theorem qpush_gives (hu : s.Unheld) (h : Ready s g true [.g a, .g b] [.g d]) (hq : 15 < (s.readG s.focus a).toNat)
    (hroom : s.readG s.focus a = 17 → (s.readG s.focus b).toNat % 64 = 0 ∧ (s.die (dieOf s.focus)).dealer.length < 4096)
    (hb : qpushBody d a b s (s.issued 4) = .ok (v, u)) : execQpush d a b g l s = .next (s.givesLater u d l v) := by
  have hdealer : (s.readG s.focus a).toNat = 17 → s.readG s.focus a = 17 := fun e => BitVec.eq_of_toNat_eq e
  refine issueLater_ready h rfl ?hold ?check hb
  case hold =>
    have hfull : (s.readG s.focus a == 17 && decide (4096 ≤ (s.die (dieOf s.focus)).dealer.length)) = false := by
      by_cases h17 : s.readG s.focus a = 17
      · simp [(hroom h17).2]
      · rw [beq_eq_false_iff_ne.2 h17, Bool.false_and]
    simp only [hu.free, hfull, Bool.or_self]
  case check =>
    rw [firstTrap_none]
    simp only [List.forall_mem_cons]
    refine ⟨if_neg (by omega), if_neg fun hc => ?_, hu.pureTrap 0x0A, fun _ h => nomatch h⟩
    exact hc.2 (hroom (hdealer hc.1)).1

theorem qpop_gives (hu : s.Unheld) (h : Ready s g true [.g a, .g b] [.g d])
    (hq : (s.readG s.focus a).toNat ≤ 16 → (s.slot s.focus).mode = true)
    (hacc : (s.readG s.focus a).toNat = 16 → s.accessTrap s.focus (s.readG s.focus b) 1 true = none)
    (hb : qpopBody d a b s (s.issued 4) = .ok (v, u)) : execQpop d a b g l s = .next (s.givesLater u d l v) := by
  refine issueLater_ready h rfl hu.free ?check hb
  rw [firstTrap_none]
  simp only [List.forall_mem_cons]
  refine ⟨if_neg ?_, ?_, hu.pureTrap 0x0A, fun _ h => nomatch h⟩
  · by_cases h16 : (s.readG s.focus a).toNat ≤ 16
    · simp [Slot.supervisor, hq h16]
    · simp [h16]
  · split
    · next h16 => exact hacc h16
    · rfl

/-! ### TPOST (R371) -/

theorem tpostBody_eq {r : Nat} {img : List Byte} (hr : regionOf (s.readG s.focus a) = .tenant)
    (ha : (s.readG s.focus a).toNat % 128 = 0) (hl : s.strandLaunch (s.slot s.focus).owner (s.slot s.focus).tenant = none)
    (hm : (s.issued 4).Mapped (s.whoIssue d) (s.readG s.focus a) 128 4 1 pa)
    (hb : s.issueBlocked s.focus [(s.readG s.focus a, 128)] = false) (himg : s.readView (dieOf s.focus) pa 128 = img)
    (hp : postCard (s.whoIssue d) (homeDie pa) (cardStage img) (s.readG s.focus a) img none (s.issued 4) = .ok (r, u)) :
    tpostBody d a s (s.issued 4) = .ok (dw r, u) := by
  subst himg
  have hlaunch : s.launchOf s.focus = none := by rw [State.launchOf, hl]; rfl
  unfold tpostBody
  rw [hlaunch]
  refine (bind_ok (readCard_ok hr ha hm hb)).trans ?_
  dsimp only
  rw [readView_issued]
  exact (bind_ok hp).trans rfl

/-- What a queued card's task is found by afterwards (R125, R371). -/
theorem cardQueued_spec {t : State} {w : Who} {die q : Nat} {card : Dword} {img : List Byte} (hnew : t.cardTask card w.tenant = none) :
    (t.cardQueued w die q card img).queueOf die q = t.queueOf die q ++ [t.nextN] ∧
    ((t.cardQueued w die q card img).cardTask card w.tenant).map (fun z => (z.n, z.phase, z.img)) = some (t.nextN, .queued, img) ∧
    (t.cardQueued w die q card img).writes = t.writes := by
  refine ⟨?_, ?_, rfl⟩
  · simp [State.cardQueued, State.queueOf, State.setQueue, Table.getD_put]
  · have htasks : (t.cardQueued w die q card img).tasks =
        t.tasks ++ [{ newTask t die card img w.tenant none .queued with queue := q }] := rfl
    rw [State.cardTask] at hnew ⊢
    rw [htasks, List.find?_append, hnew]
    simp [newTask]

/-! ### QPUSH and QPOP (R230, R373) -/

theorem qpushBody_dealer (ha : s.readG s.focus a = 17) : qpushBody d a b s u =
    .ok (0, u.modDie (dieOf s.focus) fun y => { y with dealer := y.dealer ++ [s.readG s.focus b] }) := by
  unfold qpushBody
  rw [ha]
  rfl

theorem qpushBody_missing (ha : 15 < (s.readG s.focus a).toNat) (hne : s.readG s.focus a ≠ 17) : qpushBody d a b s u = .ok (4, u) := by
  have h17 : (s.readG s.focus a).toNat ≠ 17 := fun e => hne (BitVec.eq_of_toNat_eq e)
  unfold qpushBody
  rw [if_neg h17, if_pos ha]
  rfl

theorem qpopBody_missing (ha : 17 < (s.readG s.focus a).toNat) : qpopBody d a b s u = .ok (1, u) := by
  unfold qpopBody
  rw [if_neg (by omega), if_neg (by omega), if_neg (by omega)]
  rfl

theorem qpopBody_dealer_empty (ha : s.readG s.focus a = 17) (hd : (u.die (dieOf s.focus)).dealer = []) :
    qpopBody d a b s u = .ok (0, u) := by
  unfold qpopBody
  rw [ha]
  refine (get_bind ..).trans ?_
  simp only [hd]
  rfl

theorem qpopBody_dealer_cons {rest : List Dword} (ha : s.readG s.focus a = 17) (hd : (u.die (dieOf s.focus)).dealer = v :: rest) :
    qpopBody d a b s u = .ok (v, u.modDie (dieOf s.focus) fun y => { y with dealer := rest }) := by
  unfold qpopBody
  rw [ha]
  refine (get_bind ..).trans ?_
  simp only [hd]
  rfl

theorem qpopBody_empty (ha : (s.readG s.focus a).toNat ≤ 15) (hf : u.firstTask (dieOf s.focus) (s.readG s.focus a).toNat = none) :
    qpopBody d a b s u = .ok (0, u) := by
  unfold qpopBody
  rw [if_pos ha]
  refine (get_bind ..).trans ?_
  simp only [hf]
  rfl

/-! ### The fault queue into the own local store (R131, R373) -/

/-- A strand's engine write into its own local store, by an accessor of its slot. -/
theorem writePlace_slot {w : Who} {va : Dword} {off k : Nat} {bs : List Byte} (hc : w.cluster = clusterOf k) (hd : w.die = dieOf k) :
    writePlace w va (.ls (clusterOf k) off) bs s = .ok ([], s.storeLs (dieOf k) (clusterOf k) off bs) := by
  have hturn : s.storeTurn w (clusterOf k) = true := by simp [State.storeTurn, hc]
  refine (get_bind ..).trans ?_
  rw [hturn, hd]
  rfl

theorem placeWrite_ofSlot {w : Who} {va : Dword} {off k acc size : Nat} (hr : regionOf va = .own off) (ha : acc ≤ 3)
    (hc : w.cluster = clusterOf k) (hk : w.slot = some k) :
    placeWrite w va size acc s = .ok (.ls (clusterOf k) off, s.countFree (coreOf k) 0x06 2) := by
  have hnote : s.noteAccess w acc size (.ls (clusterOf k) off) = s.countFree (coreOf k) 0x06 2 := by
    simp [State.noteAccess, hk, ha, dieOf_cluster]
  unfold placeWrite
  rw [hc, lsPlace_own hr, ← hnote]
  rfl

theorem writeMem_own {w : Who} {va : Dword} {off k acc : Nat} {bs : List Byte} (hr : regionOf va = .own off) (ha : acc ≤ 3)
    (hc : w.cluster = clusterOf k) (hd : w.die = dieOf k) (hk : w.slot = some k) (hne : bs ≠ [])
    (hlen : chunkLen va bs.length = bs.length) :
    writeMem w va bs acc s = .ok ([], (s.countFree (coreOf k) 0x06 2).storeLs (dieOf k) (clusterOf k) off bs) := by
  rw [writeMem, writeMemFrom, if_neg hne, hlen, List.take_length, List.drop_length]
  refine (bind_ok (placeWrite_ofSlot hr ha hc hk)).trans ((bind_ok (writePlace_slot hc hd)).trans ?_)
  rw [writeMemFrom, if_pos rfl]
  rfl

/-- An entry of 32 bytes at a multiple of 32 lies in one page. -/
theorem chunkLen_of_aligned {va : Dword} {off : Nat} (hr : regionOf va = .own off) (ho : off % 32 = 0) : chunkLen va 32 = 32 := by
  obtain ⟨hv, -⟩ := regionOf_eq_own_iff.1 hr
  rw [chunkLen, hv]
  omega

theorem storeTurn_of_quiet {b : State} (h : ∀ o ∈ (b.slot b.focus).outs, o.readPending = false ∧ o.writePending = false) :
    storeTurn b s = .ok ((), s) := by
  have hleave (o : Outst) : (b.slot b.focus).mayLeave o = true := by
    have hany : (((b.slot b.focus).earlier o).any fun u => u.readPending || u.writePending) = false := by
      refine List.any_eq_false.2 fun u hu => ?_
      obtain ⟨hread, hwrite⟩ := h u ((List.takeWhile_sublist _).subset hu)
      simp [hread, hwrite]
    rw [Slot.mayLeave, hany]
    rfl
  rw [storeTurn, hleave]
  rfl

/-- The oldest entry of the fault queue moves to the own local store. -/
def State.faultPopped (t : State) (k off : Nat) (f : List Byte) (rest : List (List Byte)) : State :=
  ((t.countFree (coreOf k) 0x06 2).storeLs (dieOf k) (clusterOf k) off f).modDie (dieOf k) fun x => { x with faultq := rest }

theorem qpopBody_fault {f : List Byte} {rest : List (List Byte)} {off : Nat} (ha : s.readG s.focus a = 16)
    (hf : (u.die (dieOf s.focus)).faultq = f :: rest) (hlen : f.length = 32) (hr : regionOf (s.readG s.focus b) = .own off)
    (ho : off % 32 = 0) (hq : ∀ o ∈ (s.slot s.focus).outs, o.readPending = false ∧ o.writePending = false) :
    qpopBody d a b s u = .ok (1, u.faultPopped s.focus off f rest) := by
  have hne : f ≠ [] := by
    rintro rfl
    exact absurd hlen (by decide)
  have hchunk : chunkLen (s.readG s.focus b) f.length = f.length := by rw [hlen, chunkLen_of_aligned hr ho]
  unfold qpopBody
  rw [ha]
  refine (bind_ok (storeTurn_of_quiet hq)).trans ?_
  refine (get_bind ..).trans ?_
  simp only [hf]
  exact (bind_ok (writeMem_own (k := s.focus) hr (by decide) rfl rfl rfl hne hchunk)).trans rfl

theorem faultPopped_spec (t : State) (k off : Nat) (f : List Byte) (rest : List (List Byte)) :
    (t.faultPopped k off f rest).ls = t.ls.writeBytes (lsKey (clusterOf k) off) f ∧
    ((t.faultPopped k off f rest).die (dieOf k)).faultq = rest := by
  refine ⟨?_, ?_⟩
  · rw [← State.ls_countFree t (coreOf k) 0x06 2]
    rfl
  · rw [State.faultPopped, State.modDie_eq, State.die_setDie, if_pos rfl]

end

/-! ### TDONE (R131, R361, R372) -/

section
variable {s u : State} {g : BitVec 3}

theorem ls_leave (s : State) (k : Nat) : (s.leave k).ls = s.ls := rfl

theorem ls_strandEnded (s : State) (x : Slot) : (s.strandEnded x).ls = s.ls := by
  unfold State.strandEnded
  split
  · rfl
  · split <;> rfl

/-- COUNT of a join word whose strand does not wait, or not for the last one, goes down by one (R361). -/
theorem joinLower_own {b : State} {k off : Nat} {jb : Dword} {r : Requester} (hr : regionOf jb = .own off)
    (hn : joinCount (s.lsDword (clusterOf k) off) ≠ 0)
    (hw : joinCount (s.lsDword (clusterOf k) off) = 1 → joinW (s.lsDword (clusterOf k) off) = false) :
    joinLower (b.whoSlot k r) jb s = .ok ((), (s.countFree (coreOf k) 0x06 2).storeLs (dieOf k) (clusterOf k) off
      (leBytes 8 (s.lsDword (clusterOf k) off - 1).toNat)) := by
  have hold : dw (leNat ((s.countFree (coreOf k) 0x06 2).placeBytes (.ls (clusterOf k) off) 8)) = s.lsDword (clusterOf k) off := by
    rw [State.placeBytes, readLs_of_ls (State.ls_countFree ..)]
    rfl
  have hlast : (decide (joinCount (s.lsDword (clusterOf k) off) = 1) && joinW (s.lsDword (clusterOf k) off)) = false := by
    by_cases h1 : joinCount (s.lsDword (clusterOf k) off) = 1
    · rw [hw h1, Bool.and_false]
    · rw [decide_eq_false h1, Bool.false_and]
  refine (bind_ok (placeWrite_slot hr (by decide) 8)).trans ?_
  dsimp only
  refine (get_bind ..).trans ?_
  rw [hold, if_neg hn]
  refine (bind_ok (homeWrite_slot _)).trans ?_
  rw [hlast]
  rfl

/-- A strand ends in a trap, where the fault queue has room for its entry (R131). -/
theorem endTrapped_ok {k : Nat} {x : Slot} {e : Byte × Byte × Dword × Dword}
    (hroom : (u.die (dieOf k)).faultq.length + (u.die (dieOf k)).faultWait.length < 1024) : endTrapped k x e u =
      .ok ((), (u.postFaultEntry (dieOf k) (faultEntry x.owner e.1 e.2.1 (whereWord k) e.2.2.1 e.2.2.2) (u.taskNo x)).leave k) := by
  refine (get_bind ..).trans ?_
  dsimp only
  rw [if_neg (Nat.not_le.2 hroom)]
  rfl

variable (h : Ready s g true [] []) (hs : (s.slot s.focus).suspHeld = false) (hu : s.urgentSlot s.focus = false)
include h hs hu

theorem tdone_trapped {e : Byte × Byte × Dword × Dword} (he : (s.slot s.focus).unresumed = some e)
    (hroom : (s.die (dieOf s.focus)).faultq.length + (s.die (dieOf s.focus)).faultWait.length < 1024) :
    execTdone g s = .next ((((s.issued 4).postFaultEntry (dieOf s.focus) (faultEntry (s.slot s.focus).owner e.1 e.2.1
      (whereWord s.focus) e.2.2.1 e.2.2.2) (s.taskNo (s.slot s.focus))).leave s.focus).answered s.focus) := by
  refine issueM_ready h rfl hs rfl ?_
  dsimp only
  rw [hu, he, ← taskNo_issued]
  exact endTrapped_ok (by rw [State.die_issued]; exact hroom)

theorem tdone_plain (he : (s.slot s.focus).unresumed = none) (hj : (s.slot s.focus).sw = true ∨ (s.slot s.focus).joinblk = 0) :
    execTdone g s = .next ((((s.issued 4).strandEnded (s.slot s.focus)).leave s.focus).answered s.focus) := by
  have hjoin : (!(s.slot s.focus).sw &&
      !((s.ownerTask (s.slot s.focus).owner (s.slot s.focus).tenant).any fun t => t.uid == (s.slot s.focus).uid) &&
      (s.slot s.focus).joinblk != 0) = false := by
    rcases hj with hj | hj
    · rw [hj]; rfl
    · rw [hj, bne_self_eq_false, Bool.and_false]
  refine issueM_ready h rfl hs rfl ?_
  dsimp only
  rw [hu, he]
  dsimp only
  rw [hjoin]
  rfl

/-- The join block of a strand that ends, lowered. -/
theorem tdone_joins {off : Nat} (he : (s.slot s.focus).unresumed = none) (hsw : (s.slot s.focus).sw = false)
    (hj : (s.slot s.focus).joinblk ≠ 0) (ht : s.ownerTask (s.slot s.focus).owner (s.slot s.focus).tenant = none)
    (hr : (s.issued 4).released s.focus .package = true) (hjb : regionOf (s.slot s.focus).joinblk = .own off)
    (hlow : joinLower (s.whoSlot s.focus (.issue s.focus)) (s.slot s.focus).joinblk s.atJoin = .ok ((), u)) :
    execTdone g s = .next (((u.strandEnded (s.slot s.focus)).leave s.focus).answered s.focus) := by
  have hjoin : (!(s.slot s.focus).sw &&
      !((s.ownerTask (s.slot s.focus).owner (s.slot s.focus).tenant).any fun t => t.uid == (s.slot s.focus).uid) &&
      (s.slot s.focus).joinblk != 0) = true := by
    rw [hsw, ht, bne_iff_ne.2 hj]
    rfl
  refine issueM_ready h rfl hs rfl ?_
  dsimp only
  rw [hu, he]
  dsimp only
  rw [hjoin]
  refine (get_bind ..).trans ?_
  have hrel : (s.issued 4 (isBarrier (.tdone g)) (isRelease (.tdone g))).released s.focus .package = true := hr
  rw [hrel]
  refine (bind_ok (placeWrite_slot hjb (by decide) 8)).trans ?_
  exact (bind_ok hlow).trans rfl

end

/-- Settles O27: the instructions of cards and queues by what their steps leave, TDONE by the end of its strand. -/
theorem taskResults : Obligations.TaskResults := by
  refine ⟨fun s d a b g l => ?cards, fun s g => ?tdone⟩
  case cards =>
    dsimp only [exec]
    intro hpt hacq
    have hu : s.Unheld := ⟨hpt, hacq⟩
    refine ⟨tcard_gives, fun h => ⟨qpopW_gives hu h, fun pa hr ha hl hm hb => ⟨fun h0 h3 => ?posted, fun pb hst hpred hbad hcap hnew
      hheld hroom hw => ?queued⟩⟩, fun h => ⟨fun ha hne => ?missing, fun ha hb hroom => ?dealer, fun ha => ?popMissing,
      fun ha hd => ?popEmpty, fun v rest ha hd => ?popDealer, fun hm ha hf => ?popCard, fun f rest off hm ha hf hlen hr ho hq => ?fault⟩⟩
    case posted => exact tpost_gives hu h ha (tpostBody_eq hr ha hl hm hb rfl (postCard_of_posted h0 h3))
    case queued =>
      have hpost := postCard_of_ready (die := homeDie pa) (t := s.issued 4) (w := s.whoIssue d) hst hpred hbad (by rwa [queueOf_issued])
        (by rwa [heldFor_issued]) (by rwa [cardTask_issued]) (by rwa [announceRoom_issued]) hw
      obtain ⟨hqueue, htask, hwrites⟩ := cardQueued_spec (die := homeDie pa) (q := cardStage (s.readView (dieOf s.focus) pa 128))
        (t := ((s.issued 4).postWrite (s.whoIssue d).die (s.whoIssue d).uid (.bytes pb [1])).1) (w := s.whoIssue d)
        (img := s.readView (dieOf s.focus) pa 128) ((cardTask_issued ..).trans hnew)
      refine ⟨_, tpost_gives hu h ha (tpostBody_eq hr ha hl hm hb rfl hpost), lastGives_givesLater, ?_, ?_, ?_⟩
      · rw [queueOf_givesLater, hqueue, queueOf_postWrite, queueOf_issued, nextN_postWrite, nextN_issued]
      · rw [cardTask_givesLater]
        refine htask.trans ?_
        rw [nextN_postWrite, nextN_issued]
      · rw [writes_givesLater, hwrites, writes_postWrite, writes_issued, nextN_issued, stampOf_issued]
        rfl
    case missing => exact qpush_gives hu h ha (fun e => absurd e hne) (qpushBody_missing ha hne)
    case dealer =>
      exact qpush_gives hu h (by rw [show s.readG s.focus a = 17 from ha]; decide) (fun _ => ⟨hb, hroom⟩) (qpushBody_dealer ha)
    case popMissing =>
      have h17 : 17 < (s.readG s.focus a).toNat := ha
      exact qpop_gives hu h (by omega) (by omega) (qpopBody_missing ha)
    case popEmpty =>
      have h17 : (s.readG s.focus a).toNat = 17 := congrArg BitVec.toNat ha
      exact qpop_gives hu h (by omega) (by omega) (qpopBody_dealer_empty ha (by rwa [State.die_issued]))
    case popDealer =>
      have h17 : (s.readG s.focus a).toNat = 17 := congrArg BitVec.toNat ha
      exact qpop_gives hu h (by omega) (by omega) (qpopBody_dealer_cons ha (by rwa [State.die_issued]))
    case popCard =>
      have h15 : (s.readG s.focus a).toNat ≤ 15 := ha
      exact qpop_gives hu h (fun _ => hm) (by omega) (qpopBody_empty ha (by rwa [firstTask_issued]))
    case fault =>
      have hacc : s.accessTrap s.focus (s.readG s.focus b) 1 true = none :=
        accessTrap_supervisor (regionTrap_none (.inl hr)) (Nat.mod_one _) hm
      have hbody := qpopBody_fault (u := s.issued 4) (d := d) ha (by rwa [State.die_issued]) hlen hr ho hq
      obtain ⟨hls, hfault⟩ := faultPopped_spec (s.issued 4) s.focus off f rest
      refine ⟨_, qpop_gives hu h (fun _ => hm) (fun _ => hacc) hbody, lastGives_givesLater, ?_, ?_⟩
      · rw [ls_givesLater, hls, (raised_issued s).ls]
      · rw [die_givesLater, hfault]
  case tdone =>
    dsimp only [exec]
    intro h hs hurg
    refine ⟨fun e he hroom => tdone_trapped h hs hurg he hroom, tdone_plain h hs hurg,
      fun off he hsw hj ht hsweep hrel hr hn hlast => ?joins⟩
    have hword : s.atJoin.lsDword (clusterOf s.focus) off = s.lsDword (clusterOf s.focus) off := lsDword_of_alike (alike_atJoin s) _ _
    have hlow := joinLower_own (b := s) (r := .issue s.focus) (s := s.atJoin) hr (by rwa [hword]) (by rwa [hword])
    refine ⟨_, tdone_joins h hs hurg he hsw hj ht hrel hr hlow, ?_, ?_⟩
    · rw [slot_answered, State.leave, slot_modSlot_self]
    · rw [ls_answered, ls_leave, ls_strandEnded, ls_storeLs, State.ls_countFree, hword, (sameMemory_atJoin s).ls]

end Sys2Proof.Machine
end

section
/-! SYSC of a tenant whose system queue pair is paused (R38, R389). -/

namespace Sys2Proof.Machine

open Sys2Proof.Tests

/-- While its priority is paused, a message of a queue pair waits and nothing leaves (R38). -/
theorem out_sendRoce_of_paused {s : State} {q : Nat} (h : s.pause.contains (qpDie q, (s.qp q).prio) = true) (die tag : Nat) (o : Out) :
    (s.sendRoce q die tag o).out = s.out := by
  unfold State.sendRoce State.emitRoce
  rw [h]
  split <;> rfl

/-- The entry that a SYSC takes in the table of its die (R59). -/
def State.syscEntry (s : State) (d : BitVec 5) (i : Nat) : SysEntry :=
  ⟨(((s.die (dieOf s.focus)).sysc.find? i).map (·.gen)).getD 0 + 1, s.focus, d,
    (s.strandLaunch (s.slot s.focus).owner (s.slot s.focus).tenant).map (·.n), true⟩

/-- What a SYSC of a tenant leaves in its slot and its die before its message is sent (R59, R389). -/
def State.syscHeld (s t : State) (d : BitVec 5) (i : Nat) : State :=
  (t.modDie (dieOf s.focus) fun y => { y with sysc := y.sysc.put i (s.syscEntry d i) }).modSlot s.focus fun y =>
    { y.mark_ (.g d) .empty with sysc := y.sysc + 1 }

theorem held_keeps_queues (s : State) (d : BitVec 5) (i : Nat) : (s.syscHeld (s.issued 4 true) d i).pause = s.pause ∧
    (s.syscHeld (s.issued 4 true) d i).qps = s.qps ∧ (s.syscHeld (s.issued 4 true) d i).out = s.out := by
  simp [State.syscHeld, State.issued]

/-- A SYSC of a tenant sends its call on the tenant's system queue pair, paused or not. -/
theorem sysc_sends {s : State} {d a : BitVec 5} {g : BitVec 3} {i : Nat}
    (h : Ready s g false (.g a :: (List.range 8).map fun i => .g (BitVec.ofNat 5 (4 + i))) [.g d]) (hp : (s.slot s.focus).pt = false)
    (ht : (s.slot s.focus).tenant ≠ 0) (hi : s.freeSys (dieOf s.focus) = some i) :
    ∃ tag, execSysc d a g s = .next ((s.syscHeld (s.issued 4 true) d i).sendRoce (s.sysQp (s.slot s.focus).tenant) 0 4096
      (.frame (s.sysQp (s.slot s.focus).tenant) (s.syscall s.focus tag (((s.slot s.focus).readG a).extractLsb' 0 32)))) := by
  refine ⟨(s.syscEntry d i).gen.toNat * 1024 + dieOf s.focus * 256 + i, ?_⟩
  refine (issue_ready h rfl ?_ (pureTrap_of_untagged hp 0x06)).trans ?_
  · simp [hi]
  · dsimp only
    rw [if_neg ht, hi]
    rfl

/-- A strand of tenant 5, whose system queue pair 7 is open; priority 0 of its port is paused. -/
def pausedCaller : State :=
  { mapped (fun x => x) with qps := [(7, { QueuePair.zero with opened := true, tenant := 5 })], pause := [(0, 0)] }

theorem pausedCaller_ready : Ready pausedCaller 1 false (.g 3 :: (List.range 8).map fun i => .g (BitVec.ofNat 5 (4 + i))) [.g 31] :=
  ready_of_readyB (by decide)

theorem pausedCaller_calls : (pausedCaller.slot pausedCaller.focus).pt = false ∧ (pausedCaller.slot pausedCaller.focus).tenant ≠ 0 ∧
    pausedCaller.freeSys (dieOf pausedCaller.focus) = some 0 ∧
    (pausedCaller.qp (pausedCaller.sysQp (pausedCaller.slot pausedCaller.focus).tenant)).opened = true := by decide

/-- The call waits in its queue pair: nothing has left. -/
theorem pausedCaller_sends_nothing : ∃ t, execSysc 31 3 1 pausedCaller = .next t ∧ t.out = pausedCaller.out := by
  obtain ⟨hpt, htenant, hfree, -⟩ := pausedCaller_calls
  obtain ⟨tag, he⟩ := sysc_sends pausedCaller_ready hpt htenant hfree
  obtain ⟨hpause, hqps, hout⟩ := held_keeps_queues pausedCaller 31 0
  have hpaused : pausedCaller.pause.contains (qpDie (pausedCaller.sysQp (pausedCaller.slot pausedCaller.focus).tenant),
    (pausedCaller.qp (pausedCaller.sysQp (pausedCaller.slot pausedCaller.focus).tenant)).prio) = true := by decide
  refine ⟨_, he, (out_sendRoce_of_paused ?_ 0 4096 _).trans hout⟩
  rw [State.qp, hpause, hqps]
  exact hpaused

/-- Refutes O28: `pausedCaller` meets each condition of the SYSC clause, and its SYSCALL frame waits in the queue pair until the
priority goes on (R38), so nothing is sent in the step. -/
theorem not_controlRegisters : ¬ Obligations.ControlRegisters := by
  intro h
  obtain ⟨hpt, htenant, hfree, hopen⟩ := pausedCaller_calls
  obtain ⟨u, hu, hout⟩ := pausedCaller_sends_nothing
  obtain ⟨-, -, -, hsysc, -⟩ := h.1 pausedCaller 31 3 0 0 0 0 1 0 0
  obtain ⟨t, ht, -, -, tag, hsent⟩ := (hsysc pausedCaller_ready hpt).2 0 htenant (by decide) hfree hopen
  have hsame : u = t := Host.Outcome.next.inj (hu.symm.trans ht)
  rw [← hsame, hout] at hsent
  exact absurd (congrArg List.length hsent) (by simp)

end Sys2Proof.Machine
end

section
/-! The elements of a vector register (R393), and the integer and floating-point vector instructions (R396–R398). -/

namespace Sys2Proof.Machine

theorem elem_lt (x : BitVec 4096) (w i : Nat) : elem x w i < 2 ^ w := BitVec.isLt _

theorem fits_of_lt_count {w e : Nat} (h : e < 4096 / w) : w * e + w ≤ 4096 :=
  calc w * e + w = (e + 1) * w := by ring
    _ ≤ 4096 / w * w := Nat.mul_le_mul_right w h
    _ ≤ 4096 := Nat.div_mul_le_self 4096 w

/-- Cutting a number to `n` bits leaves a field of it that lies below bit `n`. -/
theorem field_mod {n p w : Nat} (h : p + w ≤ n) (x : Nat) : x % 2 ^ n / 2 ^ p % 2 ^ w = x / 2 ^ p % 2 ^ w := by
  obtain ⟨c, rfl⟩ := Nat.exists_eq_add_of_le h
  rw [Nat.add_assoc, Nat.pow_add, Nat.mod_mul_right_div_self, Nat.pow_add, Nat.mod_mul_right_mod]

theorem elem_ofNat {w e : Nat} (h : w * e + w ≤ 4096) (x : Nat) : elem (BitVec.ofNat 4096 x) w e = x / 2 ^ (w * e) % 2 ^ w := by
  rw [elem, BitVec.extractLsb'_toNat, BitVec.toNat_ofNat, Nat.shiftRight_eq_div_pow]
  exact field_mod (n := 4096) h x

/-- The field of element `e` in the number that a list of elements makes. -/
theorem foldr_field (w : Nat) (xs : List Nat) (e : Nat) :
    xs.foldr (fun e acc => acc * 2 ^ w + e % 2 ^ w) 0 / 2 ^ (w * e) % 2 ^ w = xs.getD e 0 % 2 ^ w := by
  induction xs generalizing e with
  | nil => simp
  | cons x xs ih =>
    cases e with
    | zero => simp
    | succ e =>
      have hlow : x % 2 ^ w / 2 ^ w = 0 := Nat.div_eq_of_lt (Nat.mod_lt _ (Nat.two_pow_pos w))
      rw [List.foldr_cons, Nat.mul_succ, Nat.add_comm (w * e), Nat.pow_add, ← Nat.div_div_eq_div_mul, Nat.add_comm,
        Nat.add_mul_div_right _ _ (Nat.two_pow_pos w), hlow, Nat.zero_add, ih, List.getD_cons_succ]

theorem elem_ofElems {w e : Nat} (h : e < 4096 / w) (xs : List Nat) : elem (ofElems w xs) w e = xs.getD e 0 % 2 ^ w := by
  rw [ofElems, elem_ofNat (fits_of_lt_count h), foldr_field]

theorem getD_map_range {n e : Nat} (h : e < n) (f : Nat → Nat) : ((List.range n).map f).getD e 0 = f e := by
  simp [h]

theorem elem_mapActive {w e : Nat} (h : e < 4096 / w) (M : BitVec 512) (old : BitVec 4096) (f : Nat → Nat) :
    elem (mapActive w M old f) w e = if M.getLsbD e then f e % 2 ^ w else elem old w e := by
  rw [mapActive, elem_ofElems h, elemCount, getD_map_range h, apply_ite (· % 2 ^ w), Nat.mod_eq_of_lt (elem_lt old w e)]

section
variable {s : State} {i : Instr} {d a b : BitVec 3} {m : BitVec 2} {t : BitVec 3} {l : BitVec 4} {w : Nat} {srcs dests : List RegRef}

/-- A vector instruction with room in the dispatch queue leaves its fills outstanding. -/
theorem vecOp_gives {f : Slot → List Fill} {v : List Fill} (h : Ready s 0 true srcs dests) (hi : Plain i) (hfull : s.vecFull = false)
    (hv : f (s.slot s.focus) = v) :
    vecOp i l srcs dests f s = .next (s.depart (s.issued 4) l (.vector v) dests) := by
  have h' : Ready s 0 true srcs (dests ++ []) := by rwa [List.append_nil]
  unfold vecOp
  exact longOp_gives h' hi rfl hfull rfl (by rw [hv])

/-- An instruction that gives each active element of vd a value leaves the others. -/
theorem vecMap_gives {f : Slot → Nat → Nat} {r : Nat → Nat} (h : Ready s 0 true (srcs ++ keepReads d m) [.v d]) (hi : Plain i)
    (hfull : s.vecFull = false) (hf : ∀ e, f (s.slot s.focus) e % 2 ^ w = r e) :
    ∃ v, vecMap i d srcs m l w f s = .next (s.depart (s.issued 4) l (.vector [.v d v]) [.v d]) ∧ ∀ e, e < 4096 / w →
      elem v w e = if ((s.slot s.focus).readM m).getLsbD e then r e else elem ((s.slot s.focus).readV d) w e :=
  ⟨_, vecOp_gives h hi hfull rfl, fun e he => by rw [elem_mapActive he, hf e]⟩

/-- An operation of two elements, given what it does to patterns of `w` bits. -/
theorem vecBin_gives {f r : Nat → Nat → Nat} (h : Ready s 0 true ([.v a, .v b] ++ keepReads d m) [.v d]) (hi : Plain i)
    (hfull : s.vecFull = false) (hf : ∀ y z, y < 2 ^ w → z < 2 ^ w → f y z % 2 ^ w = r y z) :
    ∃ v, vecBin i d a b m l w f s = .next (s.depart (s.issued 4) l (.vector [.v d v]) [.v d]) ∧ ∀ e, e < 4096 / w →
      elem v w e = if ((s.slot s.focus).readM m).getLsbD e then
        r (elem ((s.slot s.focus).readV a) w e) (elem ((s.slot s.focus).readV b) w e) else elem ((s.slot s.focus).readV d) w e :=
  vecMap_gives h hi hfull fun e => hf _ _ (elem_lt _ w e) (elem_lt _ w e)

/-- An operation of one element, given what it does to patterns of `w` bits. -/
theorem vecUn_gives {f r : Nat → Nat} (h : Ready s 0 true ([.v a] ++ keepReads d m) [.v d]) (hi : Plain i)
    (hfull : s.vecFull = false) (hf : ∀ y, y < 2 ^ w → f y % 2 ^ w = r y) :
    ∃ v, vecUn i d a m l w f s = .next (s.depart (s.issued 4) l (.vector [.v d v]) [.v d]) ∧ ∀ e, e < 4096 / w →
      elem v w e = if ((s.slot s.focus).readM m).getLsbD e then
        r (elem ((s.slot s.focus).readV a) w e) else elem ((s.slot s.focus).readV d) w e :=
  vecMap_gives h hi hfull fun e => hf _ (elem_lt _ w e)

end

/-! ### The integer operations on patterns (R287, R396) -/

section
variable (w : Nat)

theorem ofI_lt (z : Int) : ofI w z < 2 ^ w := by
  have h : z % 2 ^ w < 2 ^ w := Int.emod_lt_of_pos _ (by positivity)
  unfold ofI
  have hn : 0 ≤ z % 2 ^ w := Int.emod_nonneg _ (by positivity)
  zify
  rwa [Int.toNat_of_nonneg hn]

theorem ofI_mod (z : Int) : ofI w z % 2 ^ w = (z % 2 ^ w).toNat := Nat.mod_eq_of_lt (ofI_lt w z)

/-- A pattern and its integer differ by a multiple of 2^w. -/
theorem toI_emod (y : Nat) : toI w y % 2 ^ w = (y : Int) % 2 ^ w := by
  unfold toI
  split <;> push_cast <;> simp

variable {w} {y z : Nat} (hy : y < 2 ^ w) (hz : z < 2 ^ w)

include hy in
/-- A number of `w` bits is its own pattern. -/
theorem ofI_natCast : ofI w y = y := by
  have hi : ((y : Int) % 2 ^ w) = y := Int.emod_eq_of_lt (by positivity) (by exact_mod_cast hy)
  rw [ofI, hi, Int.toNat_natCast]

include hz in
theorem valu_sub : valu 1 w y z % 2 ^ w = (y + 2 ^ w - z) % 2 ^ w := by
  have hc : ((y + 2 ^ w - z : Nat) : Int) = y - z + 2 ^ w := by
    rw [Nat.cast_sub (by omega)]
    push_cast
    ring
  have hi : (toI w y - toI w z) % 2 ^ w = ((y + 2 ^ w - z : Nat) : Int) % 2 ^ w := by
    rw [hc, Int.sub_emod, toI_emod, toI_emod, ← Int.sub_emod, Int.add_emod_right]
  rw [valu, ofI_mod, hi]
  norm_cast

include hy hz in
theorem mul_div_lt : y * z / 2 ^ w < 2 ^ w := by
  rw [Nat.div_lt_iff_lt_mul (Nat.two_pow_pos w)]
  exact Nat.mul_lt_mul'' hy hz

include hy hz in
/-- The unsigned sum that saturates (R287). -/
theorem valu_adds : valu 16 w y z % 2 ^ w = min (y + z) (2 ^ w - 1) := by
  have hc : max 0 (min ((y : Int) + z) (2 ^ w - 1)) = ((min (y + z) (2 ^ w - 1) : Nat) : Int) := by
    have hp : ((2 ^ w : Nat) : Int) = 2 ^ w := by norm_cast
    omega
  rw [valu, clampI, if_neg Bool.false_ne_true, hc, ofI_natCast (by omega), Nat.mod_eq_of_lt (by omega)]

include hy in
/-- The unsigned difference that saturates (R287). -/
theorem valu_subs : valu 18 w y z % 2 ^ w = y - z := by
  have hi : (y : Int) < 2 ^ w := by exact_mod_cast hy
  have hc : max 0 (min ((y : Int) - z) (2 ^ w - 1)) = ((y - z : Nat) : Int) := by omega
  rw [valu, clampI, if_neg Bool.false_ne_true, hc, ofI_natCast (by omega), Nat.mod_eq_of_lt (by omega)]
  all_goals exact fun h => by cases h

end

/-- One of two patterns is a pattern. -/
theorem ite_lt {c : Prop} [Decidable c] {y z n : Nat} (hy : y < n) (hz : z < n) : (if c then y else z) < n := by
  split <;> assumption

theorem illegal_of_typeInt {t : BitVec 3} (h : t.toNat ≤ 3) (e : IllegalCode) : illegalIf (!typeInt t) e = none := by
  simp [illegalIf, typeInt, h]

theorem illegal_of_typeFp {t : BitVec 3} (h : 4 ≤ t.toNat ∧ t.toNat ≤ 6) (e : IllegalCode) : illegalIf (!typeFp t) e = none := by
  simp [illegalIf, typeFp, h]

/-- Settles O34: each operation on two patterns, in the order of R396. -/
theorem vectorIntegerResults : Obligations.VectorIntegerResults := by
  intro s d a b m t l
  dsimp only [exec]
  intro ht hfull
  have hlegal := illegal_of_typeInt ht .operand
  refine ⟨fun h => ?binary, fun h => ?move⟩
  case binary =>
    refine ⟨vecBin_gives (i := .vadd d a b m t l) h ⟨hlegal, rfl, rfl⟩ hfull fun y z hy hz => rfl,
      vecBin_gives (i := .vsub d a b m t l) h ⟨hlegal, rfl, rfl⟩ hfull fun y z hy hz => valu_sub hz,
      vecBin_gives (i := .vmul d a b m t l) h ⟨hlegal, rfl, rfl⟩ hfull fun y z hy hz => rfl,
      vecBin_gives (i := .vmulh d a b m t l) h ⟨hlegal, rfl, rfl⟩ hfull fun y z hy hz => ofI_mod _ _,
      vecBin_gives (i := .vmulhn d a b m t l) h ⟨hlegal, rfl, rfl⟩ hfull fun y z hy hz => Nat.mod_eq_of_lt (mul_div_lt hy hz),
      vecBin_gives (i := .vand d a b m t l) h ⟨hlegal, rfl, rfl⟩ hfull fun y z hy hz => Nat.mod_eq_of_lt (Nat.and_lt_two_pow y hz),
      vecBin_gives (i := .vor d a b m t l) h ⟨hlegal, rfl, rfl⟩ hfull fun y z hy hz => Nat.mod_eq_of_lt (Nat.or_lt_two_pow hy hz),
      vecBin_gives (i := .vxor d a b m t l) h ⟨hlegal, rfl, rfl⟩ hfull fun y z hy hz => Nat.mod_eq_of_lt (Nat.xor_lt_two_pow hy hz),
      vecBin_gives (i := .vshl d a b m t l) h ⟨hlegal, rfl, rfl⟩ hfull fun y z hy hz => rfl,
      vecBin_gives (i := .vshr d a b m t l) h ⟨hlegal, rfl, rfl⟩ hfull fun y z hy hz => Nat.mod_eq_of_lt ((Nat.div_le_self ..).trans_lt hy),
      vecBin_gives (i := .vsra d a b m t l) h ⟨hlegal, rfl, rfl⟩ hfull fun y z hy hz => ofI_mod _ _,
      vecBin_gives (i := .vmin d a b m t l) h ⟨hlegal, rfl, rfl⟩ hfull fun y z hy hz => Nat.mod_eq_of_lt ?min,
      vecBin_gives (i := .vmax d a b m t l) h ⟨hlegal, rfl, rfl⟩ hfull fun y z hy hz => Nat.mod_eq_of_lt ?max,
      vecBin_gives (i := .vminn d a b m t l) h ⟨hlegal, rfl, rfl⟩ hfull fun y z hy hz => Nat.mod_eq_of_lt (min_lt_of_left_lt hy),
      vecBin_gives (i := .vmaxn d a b m t l) h ⟨hlegal, rfl, rfl⟩ hfull fun y z hy hz => Nat.mod_eq_of_lt (max_lt hy hz),
      vecBin_gives (i := .vadds d a b m t l) h ⟨hlegal, rfl, rfl⟩ hfull fun y z hy hz => ofI_mod _ _,
      vecBin_gives (i := .vaddsn d a b m t l) h ⟨hlegal, rfl, rfl⟩ hfull fun y z hy hz => valu_adds hy hz,
      vecBin_gives (i := .vsubs d a b m t l) h ⟨hlegal, rfl, rfl⟩ hfull fun y z hy hz => ofI_mod _ _,
      vecBin_gives (i := .vsubsn d a b m t l) h ⟨hlegal, rfl, rfl⟩ hfull fun y z hy hz => valu_subs hy⟩
    case min => exact ite_lt hy hz
    case max => exact ite_lt hy hz
  case move => exact vecUn_gives h ⟨rfl, rfl, rfl⟩ hfull fun y hy => Nat.mod_eq_of_lt hy

/-- Settles O35: the formats are those of `fmtOfType`, and every result is cut to the element's width. -/
theorem vectorFloatResults : Obligations.VectorFloatResults := by
  intro s d a b m t l
  dsimp only [exec, execVexp2, execVlog2, execVrcp, execVrsq, vecFn]
  intro ht hfull
  have hlegal := illegal_of_typeFp ht .operand
  refine ⟨fun h => ?binary, fun h => ?fused, fun h => ?unary⟩
  case binary =>
    exact ⟨vecBin_gives (i := .vfadd d a b m t l) h ⟨hlegal, rfl, rfl⟩ hfull fun _ _ _ _ => rfl, vecBin_gives (i := .vfsub d a b m t l) h ⟨hlegal, rfl, rfl⟩ hfull fun _ _ _ _ => rfl,
      vecBin_gives (i := .vfmul d a b m t l) h ⟨hlegal, rfl, rfl⟩ hfull fun _ _ _ _ => rfl, vecBin_gives (i := .vfdiv d a b m t l) h ⟨hlegal, rfl, rfl⟩ hfull fun _ _ _ _ => rfl,
      vecBin_gives (i := .vfmin d a b m t l) h ⟨hlegal, rfl, rfl⟩ hfull fun _ _ _ _ => rfl, vecBin_gives (i := .vfmax d a b m t l) h ⟨hlegal, rfl, rfl⟩ hfull fun _ _ _ _ => rfl⟩
  case fused => exact vecMap_gives (i := .vfma d a b m t l) h ⟨hlegal, rfl, rfl⟩ hfull fun e => rfl
  case unary =>
    exact ⟨vecUn_gives (i := .vfsqrt d a m t l) h ⟨hlegal, rfl, rfl⟩ hfull fun _ _ => rfl, vecUn_gives (i := .vexp2 d a m t l) h ⟨hlegal, rfl, rfl⟩ hfull fun _ _ => rfl,
      vecUn_gives (i := .vlog2 d a m t l) h ⟨hlegal, rfl, rfl⟩ hfull fun _ _ => rfl, vecUn_gives (i := .vrcp d a m t l) h ⟨hlegal, rfl, rfl⟩ hfull fun _ _ => rfl,
      vecUn_gives (i := .vrsq d a m t l) h ⟨hlegal, rfl, rfl⟩ hfull fun _ _ => rfl⟩

end Sys2Proof.Machine
end

section
/-! Vector loads and stores at issue (R399–R401), reductions, scans and permutations (R300, R402–R405), compares, mask logic and
conversions (R406–R408). -/

namespace Sys2Proof.Machine

section
variable {s : State} {i : Instr} {d a b : BitVec 3} {n m : BitVec 2} {t : BitVec 3} {l : BitVec 4} {w : Nat} {srcs dests : List RegRef}

/-! ### Memory accesses -/

/-- A vector access whose elements all pass their checks waits in the dispatch queue. -/
theorem vecMem_gives {eas : State → List Dword} {size : Nat} {write : Bool} {op : State → Op}
    (h : Ready s 0 true srcs dests) (hi : Plain i) (hfull : s.vecFull = false) (hacq : (s.slot s.focus).acquiring = false)
    (hc : ∀ ea ∈ eas s, s.accessTrap s.focus ea size write = none) :
    vecMem i l srcs dests eas size write op s = .next (s.departQueued (s.issued 4) l (op s) dests) := by
  have hhold : (s.vecFull || (s.slot s.focus).acquiring) = false := by rw [hfull, hacq]; rfl
  have hcheck : s.vecTrap (eas s) size write = none := by
    refine firstTrap_eq_none fun x hx => ?_
    obtain ⟨ea, hea, rfl⟩ := List.mem_map.1 hx
    rw [hc ea hea]
    rfl
  exact issue_gives h hi rfl hhold hcheck

/-- A vector load asks for one access for each active element. -/
theorem vecLoad_gives {ea : Slot → Nat → Dword} (h : Ready s 0 true (srcs ++ keepReads d m) [.v d]) (hi : Plain i)
    (hfull : s.vecFull = false) (hacq : (s.slot s.focus).acquiring = false)
    (hc : ∀ e ∈ activeElems ((s.slot s.focus).readM m) (4096 / typeWidth t),
      s.accessTrap s.focus (ea (s.slot s.focus) e) (typeWidth t / 8) false = none) :
    vecLoad i d srcs m t l ea s = .next (s.departQueued (s.issued 4) l
      (.load ((activeElems ((s.slot s.focus).readM m) (4096 / typeWidth t)).map fun e => (ea (s.slot s.focus) e, typeWidth t / 8)) []
        (.v d (typeWidth t) (activeElems ((s.slot s.focus).readM m) (4096 / typeWidth t)) ((s.slot s.focus).readV d))) [.v d]) :=
  vecMem_gives h hi hfull hacq (List.forall_mem_map.2 hc)

/-- A vector store writes each active element. -/
theorem vecStore_gives {ea : Slot → Nat → Dword} (h : Ready s 0 true (.v d :: srcs ++ if m = 0 then [] else [.m m]) []) (hi : Plain i)
    (hfull : s.vecFull = false) (hacq : (s.slot s.focus).acquiring = false)
    (hc : ∀ e ∈ activeElems ((s.slot s.focus).readM m) (4096 / typeWidth t),
      s.accessTrap s.focus (ea (s.slot s.focus) e) (typeWidth t / 8) true = none) :
    vecStore i d srcs m t l ea s = .next (s.departQueued (s.issued 4) l
      (.store ((activeElems ((s.slot s.focus).readM m) (4096 / typeWidth t)).map fun e =>
        (ea (s.slot s.focus) e, leBytes (typeWidth t / 8) (elem ((s.slot s.focus).readV d) (typeWidth t) e)))) []) :=
  vecMem_gives h hi hfull hacq (List.forall_mem_map.2 hc)

end

theorem illegal_of_typeWide {t : BitVec 3} (h : typeWide t = true) (e : IllegalCode) : illegalIf (!typeWide t) e = none := by
  rw [h]
  rfl

/-- Settles O36: each form of address, and the mask registers. -/
theorem vectorMemoryIssues : Obligations.VectorMemoryIssues := by
  intro s d v b r m t l
  dsimp only [exec]
  intro hfull hacq
  refine ⟨fun h hc => ?vld, fun ht h hc => ?vlds, fun ht h hc => ?vldx, fun h hc => ?vst, fun ht h hc => ?vsts, fun ht h hc => ?vstx,
    fun h hc => ?vldm, fun h hc => ?vstm⟩
  case vld => exact vecLoad_gives (ea := eaUnit b t) h ⟨rfl, rfl, rfl⟩ hfull hacq hc
  case vlds => exact vecLoad_gives (ea := eaStride b r) h ⟨illegal_of_typeWide ht _, rfl, rfl⟩ hfull hacq hc
  case vldx => exact vecLoad_gives (ea := eaIndex b v) h ⟨illegal_of_typeWide ht _, rfl, rfl⟩ hfull hacq hc
  case vst => exact vecStore_gives (ea := eaUnit b t) h ⟨rfl, rfl, rfl⟩ hfull hacq hc
  case vsts => exact vecStore_gives (ea := eaStride b r) h ⟨illegal_of_typeWide ht _, rfl, rfl⟩ hfull hacq hc
  case vstx => exact vecStore_gives (ea := eaIndex b v) h ⟨illegal_of_typeWide ht _, rfl, rfl⟩ hfull hacq hc
  case vldm => exact vecMem_gives h ⟨rfl, rfl, rfl⟩ hfull hacq fun ea hea => by rwa [List.mem_singleton.1 hea]
  case vstm => exact vecMem_gives h ⟨rfl, rfl, rfl⟩ hfull hacq fun ea hea => by rwa [List.mem_singleton.1 hea]

/-! ### Reductions (R300, R402) -/

theorem length_treeStep (op : Nat → Nat → Nat) (q : List (Option Nat)) : (treeStep op q).length = (q.length + 1) / 2 := by
  induction q using treeStep.induct with
  | case1 x y r ih => simp only [treeStep, List.length_cons, ih]; omega
  | case2 q h =>
    match q, h with
    | [], _ => simp [treeStep]
    | [_], _ => simp [treeStep]
    | x :: y :: r, h => exact (h x y r rfl).elim

/-- A level of a sum keeps the sum of its elements, up to a multiple of 2^w. -/
theorem sum_treeStep (w : Nat) (q : List (Option Nat)) :
    ((treeStep (fun y z => (y + z) % 2 ^ w) q).map fun e => e.getD 0).sum % 2 ^ w = (q.map fun e => e.getD 0).sum % 2 ^ w := by
  induction q using treeStep.induct with
  | case1 x y r ih =>
    have hmod : ((treeStep (fun y z => (y + z) % 2 ^ w) r).map fun e => e.getD 0).sum ≡ (r.map fun e => e.getD 0).sum [MOD 2 ^ w] := ih
    match x, y with
    | some x, some y => simpa [treeStep, Nat.ModEq, Nat.add_assoc] using hmod.add_left (x + y)
    | none, y => simpa [treeStep, Nat.ModEq] using hmod.add_left (y.getD 0)
    | some x, none => simpa [treeStep, Nat.ModEq] using hmod.add_left x
  | case2 q h =>
    match q, h with
    | [], _ => simp [treeStep]
    | [_], _ => simp [treeStep]
    | x :: y :: r, h => exact (h x y r rfl).elim

/-- TreeReduce of a sum over at most 2^n elements (R300): the levels leave one element. -/
theorem sum_treeLevels (w n : Nat) (q : List (Option Nat)) (h : q.length ≤ 2 ^ n) :
    ((treeLevels (fun y z => (y + z) % 2 ^ w) n q).headD none).getD 0 % 2 ^ w = (q.map fun e => e.getD 0).sum % 2 ^ w := by
  induction n generalizing q with
  | zero =>
    match q, h with
    | [], _ => rfl
    | [x], _ => simp [treeLevels]
  | succ n ih => rw [treeLevels, ih _ (by rw [length_treeStep]; omega), sum_treeStep]

theorem elem_ofNat_low {w e : Nat} (h : e < 4096 / w) (x : Nat) :
    elem (BitVec.ofNat 4096 (x % 2 ^ w)) w e = if e = 0 then x % 2 ^ w else 0 := by
  rw [elem_ofNat (fits_of_lt_count h)]
  split
  case isTrue h0 => rw [h0, Nat.mul_zero, Nat.pow_zero, Nat.div_one, Nat.mod_mod]
  case isFalse h0 =>
    have hle : 2 ^ w ≤ 2 ^ (w * e) := Nat.pow_le_pow_right two_pos (Nat.le_mul_of_pos_right w (Nat.pos_of_ne_zero h0))
    rw [Nat.div_eq_of_lt ((Nat.mod_lt _ (Nat.two_pow_pos w)).trans_le hle), Nat.zero_mod]

section
variable {s : State} {i : Instr} {d a b : BitVec 3} {n m : BitVec 2} {t : BitVec 3} {l : BitVec 4} {srcs dests : List RegRef}

/-- A reduction puts its result in element 0 and zeros elsewhere. -/
theorem vecReduce_gives {op : Nat → Nat → Nat} {one : Nat} (h : Ready s 0 true [.v a, .m m] [.v d]) (hi : Plain i)
    (hfull : s.vecFull = false) :
    ∃ v, vecReduce i d a m t l op one s = .next (s.depart (s.issued 4) l (.vector [.v d v]) [.v d]) ∧ ∀ e, e < 4096 / typeWidth t →
      elem v (typeWidth t) e = if e = 0 then treeReduce op one ((List.range (4096 / typeWidth t)).map fun i =>
        if ((s.slot s.focus).readM m).getLsbD i then some (elem ((s.slot s.focus).readV a) (typeWidth t) i) else none) % 2 ^ typeWidth t else 0 := by
  unfold vecReduce
  refine ⟨_, vecOp_gives h hi hfull rfl, fun e he => ?_⟩
  rw [elem_ofNat_low he, contributors, elemCount]

/-! ### Scans and VCOMPRESS (R403, R405) -/

/-- The indices of a range up to `e` are the first `e + 1`. -/
theorem range_filter_le {n e : Nat} (h : e < n) : (List.range n).filter (· ≤ e) = List.range (e + 1) := by
  obtain ⟨k, rfl⟩ := Nat.exists_eq_add_of_le h
  have hlow : (List.range (e + 1)).filter (· ≤ e) = List.range (e + 1) :=
    List.filter_eq_self.2 fun x hx => by simpa [Nat.lt_succ_iff] using List.mem_range.1 hx
  have hhigh : ((List.range k).map (e + 1 + ·)).filter (· ≤ e) = [] :=
    List.filter_eq_nil_iff.2 fun x hx => by obtain ⟨y, -, rfl⟩ := List.mem_map.1 hx; simp; omega
  rw [List.range_add, List.filter_append, hlow, hhigh, List.append_nil]

/-- Element `e` of a scan from index `i`: the fold of the active elements up to it. -/
theorem scanFrom_getD (op : Nat → Nat → Nat) (M : BitVec 512) (v old : BitVec 4096) (w : Nat) {n : Nat} (i acc : Nat) {e : Nat} (h : e < n) :
    (scanFrom op M v old w n i acc).getD e 0 = if M.getLsbD (i + e) then
      ((List.range' i (e + 1)).filter fun j => M.getLsbD j).foldl (fun y j => op y (elem v w j)) acc else elem old w (i + e) := by
  induction n generalizing i acc e with
  | zero => omega
  | succ n ih =>
    cases e with
    | zero => by_cases hi : M.getLsbD i = true <;> simp [scanFrom, hi]
    | succ e =>
      have he : e < n := by omega
      have hix : i + 1 + e = i + (e + 1) := by omega
      rw [scanFrom, List.range'_succ]
      by_cases hi : M.getLsbD i = true
      · rw [if_pos hi, List.getD_cons_succ, ih _ _ he, hix, List.filter_cons_of_pos (p := fun j => M.getLsbD j) hi, List.foldl_cons]
      · rw [if_neg hi, List.getD_cons_succ, ih _ _ he, hix, List.filter_cons_of_neg (p := fun j => M.getLsbD j) hi]

theorem vecScan_gives {op : Nat → Nat → Nat} {one : Nat} (h : Ready s 0 true (.v a :: keepReads d m) [.v d]) (hi : Plain i)
    (hfull : s.vecFull = false) :
    ∃ v, vecScan i d a m t l op one s = .next (s.depart (s.issued 4) l (.vector [.v d v]) [.v d]) ∧ ∀ e, e < 4096 / typeWidth t →
      elem v (typeWidth t) e = if ((s.slot s.focus).readM m).getLsbD e then
        (((List.range (4096 / typeWidth t)).filter fun i => ((s.slot s.focus).readM m).getLsbD i).filter (· ≤ e)).foldl
          (fun y i => op y (elem ((s.slot s.focus).readV a) (typeWidth t) i)) one % 2 ^ typeWidth t
        else elem ((s.slot s.focus).readV d) (typeWidth t) e := by
  unfold vecScan
  refine ⟨_, vecOp_gives h hi hfull rfl, fun e he => ?_⟩
  rw [elem_ofElems he, scanFrom_getD (n := elemCount (typeWidth t)) _ _ _ _ _ _ _ he, apply_ite (· % 2 ^ typeWidth t), Nat.zero_add,
    Nat.mod_eq_of_lt (elem_lt _ _ e), List.filter_comm, range_filter_le he, List.range_eq_range']

end

theorem elem_compressed {w e : Nat} (h : e < 4096 / w) (x : BitVec 4096) (act : List Nat) :
    elem (ofElems w (act.map fun i => elem x w i)) w e = if h : e < act.length then elem x w act[e] else 0 := by
  rw [elem_ofElems h]
  split
  case isTrue hl => simp [hl, Nat.mod_eq_of_lt (elem_lt x w _)]
  case isFalse hl => simp [hl]

theorem ne_seven_of_le {t : BitVec 3} (h : t.toNat ≤ 6) : t ≠ 7 := by
  rintro rfl
  exact absurd h (by decide)

/-- Settles O37: reductions, sums, scans, and the permutations. -/
theorem vectorReduceResults : Obligations.VectorReduceResults := by
  intro s d a b r m t l
  dsimp only [exec]
  intro hfull
  refine ⟨fun h => ⟨fun ht => ?typed, ?compress, fun ht => ?integer⟩, fun q hq => sum_treeLevels _ 9 q hq, fun h0 ht h => ?scan,
    fun h => ?bcast, fun ht h => ?topk, fun h0 h7 h => ?perm, fun h => ?bcastg, fun ht h => ?iota, fun h => ?movg⟩
  case typed =>
    have hl : illegalIf (t == 7) .operand = none := by
      rw [beq_eq_false_iff_ne.2 (ne_seven_of_le ht)]
      rfl
    exact ⟨vecReduce_gives (i := .vrsum d a m t l) h ⟨hl, rfl, rfl⟩ hfull, vecReduce_gives (i := .vrmin d a m t l) h ⟨hl, rfl, rfl⟩ hfull,
      vecReduce_gives (i := .vrmax d a m t l) h ⟨hl, rfl, rfl⟩ hfull⟩
  case compress =>
    unfold execVcompress
    exact ⟨_, vecOp_gives (i := .vcompress d a m t l) h ⟨rfl, rfl, rfl⟩ hfull rfl, fun e he => elem_compressed he _ _⟩
  case integer =>
    have hl := illegal_of_typeInt ht .operand
    exact ⟨vecReduce_gives (i := .vrminn d a m t l) h ⟨hl, rfl, rfl⟩ hfull, vecReduce_gives (i := .vrmaxn d a m t l) h ⟨hl, rfl, rfl⟩ hfull,
      vecReduce_gives (i := .vrand d a m t l) h ⟨hl, rfl, rfl⟩ hfull, vecReduce_gives (i := .vror d a m t l) h ⟨hl, rfl, rfl⟩ hfull,
      vecReduce_gives (i := .vrxor d a m t l) h ⟨hl, rfl, rfl⟩ hfull⟩
  case scan =>
    have hl : illegalIf (t == 0 || t == 7) .operand = none := by
      rw [beq_eq_false_iff_ne.2 h0, beq_eq_false_iff_ne.2 (ne_seven_of_le ht)]
      rfl
    exact ⟨vecScan_gives (i := .vscan d a m t l) h ⟨hl, rfl, rfl⟩ hfull, vecScan_gives (i := .vscanmax d a m t l) h ⟨hl, rfl, rfl⟩ hfull⟩
  case bcast =>
    exact vecMap_gives (i := .vbcast d a m t l) (srcs := [.v a]) h ⟨rfl, rfl, rfl⟩ hfull fun _ => Nat.mod_eq_of_lt (elem_lt _ _ 0)
  case topk =>
    have hl : illegalIf (t != 2 && t != 5) .operand = none := by
      rw [illegalIf, if_neg]
      rcases ht with rfl | rfl <;> decide
    exact vecOp_gives (i := .vtopk d a b m t l) h ⟨hl, rfl, rfl⟩ hfull rfl
  case perm =>
    have hl : illegalIf (t == 0 || t == 7) .operand = none := by
      rw [beq_eq_false_iff_ne.2 h0, beq_eq_false_iff_ne.2 h7]
      rfl
    exact vecMap_gives (i := .vperm d a b m t l) h ⟨hl, rfl, rfl⟩ hfull fun _ => Nat.mod_eq_of_lt (elem_lt ..)
  case bcastg => exact vecMap_gives (i := .vbcastg d r m t l) (srcs := [.g r]) h ⟨rfl, rfl, rfl⟩ hfull fun _ => Nat.mod_mod ..
  case iota =>
    exact vecMap_gives (i := .viota d m t l) (srcs := []) h ⟨illegal_of_typeInt ht _, rfl, rfl⟩ hfull fun _ => Nat.mod_mod ..
  case movg =>
    unfold execVmovg
    refine vecOp_gives (i := .vmovg d r t l) h ⟨rfl, rfl, rfl⟩ hfull ?_
    simp only [typeInt, decide_eq_true_eq, dw_ofI]
    rfl

end Sys2Proof.Machine
end

section
/-! Vector compares, mask logic and conversions (R406–R408). -/

namespace Sys2Proof.Machine

/-! ### Masks as numbers -/

/-- The number whose set bits are the indices below `n` that meet a condition. -/
def maskSum (n : Nat) (c : Nat → Bool) : Nat := ((List.range n).map fun i => if c i then 2 ^ i else 0).sum

theorem maskSum_succ (n : Nat) (c : Nat → Bool) : maskSum (n + 1) c = maskSum n c + if c n then 2 ^ n else 0 := by
  simp [maskSum, List.range_succ]

theorem maskSum_lt (n : Nat) (c : Nat → Bool) : maskSum n c < 2 ^ n := by
  induction n with
  | zero => exact Nat.one_pos
  | succ n ih =>
    rw [maskSum_succ, Nat.pow_succ]
    split <;> omega

theorem testBit_maskSum (n : Nat) (c : Nat → Bool) (e : Nat) : (maskSum n c).testBit e = (decide (e < n) && c e) := by
  induction n with
  | zero => simp [maskSum]
  | succ n ih =>
    have hlt := maskSum_lt n c
    rw [maskSum_succ]
    by_cases hn : c n = true
    · rw [if_pos hn, Nat.add_comm, ← Nat.mul_one (2 ^ n), Nat.testBit_two_pow_mul_add 1 hlt, ih]
      rcases Nat.lt_trichotomy e n with he | rfl | he
      · simp [he, Nat.lt_succ_of_lt he]
      · simp [hn]
      · rw [if_neg he.not_gt, decide_eq_false (Nat.not_lt.2 he), Bool.false_and]
        exact Nat.testBit_lt_two_pow (Nat.one_lt_two_pow (Nat.sub_ne_zero_of_lt he))
    · rw [if_neg hn, Nat.add_zero, ih]
      by_cases he : e = n
      · simp [he, hn]
      · have hlt : decide (e < n + 1) = decide (e < n) := decide_eq_decide.2 (by omega)
        rw [hlt]

/-- Bit `e` of a compare's mask: an inactive bit stays, and the bits beyond the elements are zero (R406). -/
theorem getLsbD_condMask {n e : Nat} (he : e < 512) (M old : BitVec 512) (c : Nat → Bool) :
    (condMask n M old c).getLsbD e = (decide (e < n) && if M.getLsbD e then c e else old.getLsbD e) := by
  have hbit := testBit_maskSum n (fun i => if M.getLsbD i then c i else old.getLsbD i) e
  rw [condMask, BitVec.getLsbD_ofNat, decide_eq_true he, Bool.true_and]
  exact hbit

theorem firstBit_eq (x : BitVec 512) (n i : Nat) : firstBit x n i = (List.range' i n).find? fun j => x.getLsbD j := by
  induction n generalizing i with
  | zero => rfl
  | succ n ih =>
    rw [firstBit, List.range'_succ, List.find?_cons, ih]
    cases x.getLsbD i <;> rfl

section
variable {s : State} {i : Instr} {a b : BitVec 3} {n m q : BitVec 2} {t : BitVec 3} {l : BitVec 4}

/-- A compare writes its mask. -/
theorem vecCompare_gives {c : Nat → Nat → Bool} (h : Ready s 0 true ([.v a, .v b] ++ if m = 0 then [] else [.m m, .m n]) [.m n])
    (hi : Plain i) (hfull : s.vecFull = false) :
    ∃ v, vecCompare i n a b m t l c s = .next (s.depart (s.issued 4) l (.vector [.m n v]) [.m n]) ∧ ∀ e, e < 512 →
      v.getLsbD e = (decide (e < 4096 / typeWidth t) && if ((s.slot s.focus).readM m).getLsbD e then
        c (elem ((s.slot s.focus).readV a) (typeWidth t) e) (elem ((s.slot s.focus).readV b) (typeWidth t) e)
        else ((s.slot s.focus).readM n).getLsbD e) := by
  unfold vecCompare
  exact ⟨_, vecOp_gives h hi hfull rfl, fun e he => getLsbD_condMask he _ _ _⟩

/-- Mask logic works on every bit. -/
theorem maskLogic_gives {f : BitVec 512 → BitVec 512 → BitVec 512} {r : Bool → Bool → Bool} (h : Ready s 0 true [.m m, .m q] [.m n])
    (hi : Plain i) (hfull : s.vecFull = false) (hf : ∀ x y e, e < 512 → (f x y).getLsbD e = r (x.getLsbD e) (y.getLsbD e)) :
    ∃ v, maskLogic i n m q l f s = .next (s.depart (s.issued 4) l (.vector [.m n v]) [.m n]) ∧ ∀ e, e < 512 →
      v.getLsbD e = r (((s.slot s.focus).readM m).getLsbD e) (((s.slot s.focus).readM q).getLsbD e) := by
  unfold maskLogic
  exact ⟨_, vecOp_gives h hi hfull rfl, fun e he => hf _ _ e he⟩

end

/-- Settles O38: compares bit by bit, mask logic, the counts of a mask, and the target elements of a conversion. -/
theorem vectorMaskResults : Obligations.VectorMaskResults := by
  intro s d a p r n m q t k l
  dsimp only [exec]
  intro hfull
  refine ⟨fun h => ⟨fun ht hk => ?vcmp, fun ht ht' hk => ?vfcmp⟩, fun h => ?logic, fun h => ?vmnot, fun h => ⟨?vmpopc, ?vmfirst⟩,
    fun z y u c hwf h => ?vcvt⟩
  case vcmp =>
    have hl : (Instr.vcmp n a p m t l k).illegal = none := (if_neg (by omega)).trans (illegal_of_typeInt ht .operand)
    exact vecCompare_gives (i := .vcmp n a p m t l k) h ⟨hl, rfl, rfl⟩ hfull
  case vfcmp =>
    have hl : (Instr.vfcmp n a p m t l k).illegal = none := (if_neg (by omega)).trans (illegal_of_typeFp ⟨ht, ht'⟩ .operand)
    exact vecCompare_gives (i := .vfcmp n a p m t l k) h ⟨hl, rfl, rfl⟩ hfull
  case logic =>
    exact ⟨maskLogic_gives (i := .vmand n m q l) (r := (· && ·)) h ⟨rfl, rfl, rfl⟩ hfull fun _ _ _ _ => BitVec.getLsbD_and,
      maskLogic_gives (i := .vmor n m q l) (r := (· || ·)) h ⟨rfl, rfl, rfl⟩ hfull fun _ _ _ _ => BitVec.getLsbD_or,
      maskLogic_gives (i := .vmxor n m q l) (r := (· ^^ ·)) h ⟨rfl, rfl, rfl⟩ hfull fun _ _ _ _ => BitVec.getLsbD_xor⟩
  case vmnot =>
    exact maskLogic_gives (i := .vmnot n m l) (r := fun x _ => !x) h ⟨rfl, rfl, rfl⟩ hfull fun _ _ _ he => by
      rw [BitVec.getLsbD_not, decide_eq_true he, Bool.true_and]
  case vmpopc =>
    unfold execVmpopc
    exact vecOp_gives (i := .vmpopc r m t l) h ⟨rfl, rfl, rfl⟩ hfull (by rw [popBelow_eq]; rfl)
  case vmfirst =>
    unfold execVmfirst
    refine vecOp_gives (i := .vmfirst r m t l) h ⟨rfl, rfl, rfl⟩ hfull ?_
    rw [firstBit_eq, ← List.range_eq_range']
    rfl
  case vcvt =>
    have hl : (Instr.vcvt d a p m t l z u y c).illegal = none := Option.isNone_iff_eq_none.1 hwf
    unfold execVcvt
    refine ⟨_, vecOp_gives h ⟨hl, rfl, rfl⟩ hfull rfl, fun e he => ?_⟩
    rw [elem_mapActive he, cvtFrom]
    by_cases hm : ((s.slot s.focus).readM m).getLsbD e = true
    · rw [if_pos hm, hm, if_neg (show ¬ true = false from Bool.noConfusion)]
      by_cases hw : typeWidth t ≤ formatWidth c.toNat
      · rw [if_pos hw, if_pos hw]
      · have hmax : max (typeWidth t) (formatWidth c.toNat) = typeWidth t := max_eq_left (Nat.le_of_not_le hw)
        rw [if_neg hw, if_neg hw, hmax]
        by_cases hin : p.toNat * (4096 / typeWidth t) ≤ e ∧ e < p.toNat * (4096 / typeWidth t) + 4096 / typeWidth t
        · rw [if_pos hin, if_pos hin]
        · rw [if_neg hin, if_neg hin]
          exact Nat.mod_eq_of_lt (elem_lt ..)
    · rw [if_neg hm, if_pos (Bool.eq_false_iff.2 hm)]

end Sys2Proof.Machine
end

section
/-! The sampler instructions (R409–R418). -/

namespace Sys2Proof.Machine

/-- The pairs of VBIAS from one on, as a fold (R411). -/
theorem biasFrom_eq (pairs : BitVec 4096) (tok : Int) (n j x : Nat) : biasFrom pairs tok n j x = (List.range' j n).foldl (fun y j =>
    if elem pairs 32 (2 * j) ≠ 0xFFFFFFFF ∧ toI 32 (elem pairs 32 (2 * j)) = tok then Fp.f32.add y (elem pairs 32 (2 * j + 1)) else y) x := by
  induction n generalizing j x with
  | zero => rfl
  | succ n ih => rw [biasFrom, ih, List.range'_succ, List.foldl_cons]

/-! ### VTREE (R417) -/

/-- The row of node `i` of parent `p`, from the rows of the earlier nodes. -/
def treeRow (row : Nat → Nat) (p i : Nat) : Nat :=
  if p = 0xFF then 2 ^ i else if p < i ∧ row p ≠ 0 then row p ||| 2 ^ i else 0

/-- A row reads no row but that of an earlier parent. -/
theorem treeRow_congr {f g : Nat → Nat} {p i : Nat} (h : p < i → f p = g p) : treeRow f p i = treeRow g p i := by
  unfold treeRow
  by_cases hp : p < i
  · rw [h hp]
  · simp only [hp, false_and, if_false]

/-- One more node adds one row and leaves those before it. -/
theorem treeRows_append (ps : List Nat) (p : Nat) : treeRows (ps ++ [p]) = treeRows ps ++ [treeRow ((treeRows ps).getD · 0) p ps.length] := by
  simp [treeRows, List.zipIdx_append, treeRow]

theorem length_treeRows (ps : List Nat) : (treeRows ps).length = ps.length := by
  induction ps using List.reverseRecOn with
  | nil => rfl
  | append_singleton ps p ih => rw [treeRows_append, List.length_append, List.length_append, ih]; rfl

/-- A row has no bit above its node. -/
theorem treeRows_lt (ps : List Nat) (i : Nat) : (treeRows ps).getD i 0 < 2 ^ ps.length := by
  induction ps using List.reverseRecOn generalizing i with
  | nil => simp [treeRows]
  | append_singleton ps p ih =>
    have hgrow : 2 ^ ps.length < 2 ^ (ps.length + 1) := Nat.pow_lt_pow_right one_lt_two (Nat.lt_succ_self _)
    rw [treeRows_append, List.length_append, List.length_singleton]
    rcases Nat.lt_trichotomy i (treeRows ps).length with hi | rfl | hi
    · rw [List.getD_append _ _ _ _ hi]
      exact (ih i).trans hgrow
    · rw [List.getD_append_right _ _ _ _ le_rfl, Nat.sub_self, List.getD_cons_zero, treeRow]
      split
      · exact hgrow
      · split
        · exact Nat.or_lt_two_pow ((ih p).trans hgrow) hgrow
        · exact Nat.two_pow_pos _
    · rw [List.getD_eq_default _ _ (by rw [List.length_append]; exact hi)]
      exact Nat.two_pow_pos _

/-- Each row is that of its parent with its own bit, or its own bit alone, or zero. -/
theorem treeRows_getD (ps : List Nat) (i : Nat) (h : i < ps.length) :
    (treeRows ps).getD i 0 = treeRow ((treeRows ps).getD · 0) (ps.getD i 0) i := by
  induction ps using List.reverseRecOn generalizing i with
  | nil => exact absurd h (Nat.not_lt_zero i)
  | append_singleton ps p ih =>
    have hrow {q j : Nat} (hj : j ≤ ps.length) :
        treeRow ((treeRows (ps ++ [p])).getD · 0) q j = treeRow ((treeRows ps).getD · 0) q j :=
      treeRow_congr fun hq => by
        rw [treeRows_append, List.getD_append _ _ _ _ (by rw [length_treeRows]; omega)]
    rw [List.length_append, List.length_singleton] at h
    rw [hrow (by omega), treeRows_append]
    by_cases hi : i < ps.length
    · rw [List.getD_append _ _ _ _ (by rwa [length_treeRows]), List.getD_append _ _ _ _ hi, ih i hi]
    · obtain rfl : i = ps.length := by omega
      rw [List.getD_append_right _ _ _ _ (length_treeRows ps).le, List.getD_append_right _ _ _ _ le_rfl, length_treeRows, Nat.sub_self,
        List.getD_cons_zero, List.getD_cons_zero]

/-- The rows of a register of at most 64 nodes, as VTREE leaves them. -/
theorem elem_treeRows {ps : List Nat} (hn : ps.length ≤ 64) {i : Nat} (hi : i < 64) :
    elem (ofElems 64 (treeRows ps)) 64 i = (treeRows ps).getD i 0 := by
  rw [elem_ofElems (Nat.lt_of_lt_of_eq hi rfl)]
  exact Nat.mod_eq_of_lt ((treeRows_lt ps i).trans_le (Nat.pow_le_pow_right two_pos hn))

theorem elem_treeRow {f : Nat → Nat} {n i : Nat} (hn : n ≤ 64) (hi : i < n) :
    let v := ofElems 64 (treeRows ((List.range n).map f))
    elem v 64 i = if f i = 0xFF then 2 ^ i else if f i < i ∧ elem v 64 (f i) ≠ 0 then elem v 64 (f i) ||| 2 ^ i else 0 := by
  have hlen : ((List.range n).map f).length = n := by rw [List.length_map, List.length_range]
  have hrow := treeRows_getD ((List.range n).map f) i (by omega)
  rw [getD_map_range hi] at hrow
  dsimp only
  rw [elem_treeRows (by omega) (by omega), hrow]
  exact treeRow_congr fun hp => (elem_treeRows (i := f i) (by omega) (by omega)).symm

/-! ### VMATCH (R418) -/

/-- The first stop string that ends at the earliest byte from `first` on. -/
def firstStop (text stops : BitVec 4096) (first len nstop : Nat) : Option (Nat × Nat) :=
  (List.range (len - first)).findSome? fun i =>
    ((List.range nstop).find? (stopAt text stops (first + i))).map fun s => (first + i, s)

theorem firstStop_eq_some {text stops : BitVec 4096} {first len nstop e j : Nat} (h : firstStop text stops first len nstop = some (e, j)) :
    first ≤ e ∧ e < len ∧ j < nstop ∧ stopAt text stops e j = true := by
  obtain ⟨i, hi, hf⟩ := List.exists_of_findSome?_eq_some h
  obtain ⟨k, hk, he⟩ := Option.map_eq_some_iff.1 hf
  obtain ⟨rfl, rfl⟩ := Prod.mk.inj he
  have hlt := List.mem_range.1 hi
  exact ⟨by omega, by omega, List.mem_range.1 (List.mem_of_find?_eq_some hk), List.find?_some hk⟩

theorem firstStop_eq_none {text stops : BitVec 4096} {first len nstop e j : Nat} (h : firstStop text stops first len nstop = none)
    (hfirst : first ≤ e) (he : e < len) (hj : j < nstop) : stopAt text stops e j = false := by
  have hnone := List.findSome?_eq_none_iff.1 h (e - first) (List.mem_range.2 (by omega))
  rw [Option.map_eq_none_iff, Nat.add_sub_cancel' hfirst] at hnone
  exact Bool.eq_false_iff.2 (List.find?_eq_none.1 hnone j (List.mem_range.2 hj))

/-- What VMATCH leaves. -/
def matchElems (text stops : BitVec 4096) : List Nat :=
  let len := elem text 8 128; let first := elem text 8 129; let nstop := elem text 8 130
  let none4 := [0xFFFFFFFF, 0xFFFFFFFF, 0xFFFFFFFF]
  if len = 0 ∨ 96 < len ∨ len < first ∨ 8 < nstop then none4 ++ [1]
  else match firstStop text stops first len nstop with
    | some (e, s) => [e + 1 - elem stops 8 (64 * s), s, e]
    | none => none4

section
variable {s : State} {i : Instr} {d : BitVec 3} {m : BitVec 2} {l : BitVec 4} {srcs dests : List RegRef}

/-- A sampler instruction gives each active lane its value. -/
theorem genMap_gives {f : Slot → Nat → Nat} {r : Nat → Nat} (h : Ready s 0 true (srcs ++ keepReads d m) [.v d]) (hi : Plain i)
    (hfull : s.vecFull = false) (hf : ∀ e, f (s.slot s.focus) e = r e) :
    ∃ v, genMap i d srcs m l f s = .next (s.depart (s.issued 4) l (.vector [.v d v]) [.v d]) ∧ ∀ e, e < 128 →
      elem v 32 e = if ((s.slot s.focus).readM m).getLsbD e then r e % 2 ^ 32 else elem ((s.slot s.focus).readV d) 32 e :=
  vecMap_gives h hi hfull fun e => congrArg (· % 2 ^ 32) (hf e)

end

theorem elem32_ofElems {xs : List Nat} {e : Nat} (h : e < 128) : elem (ofElems 32 xs) 32 e = xs.getD e 0 % 2 ^ 32 :=
  elem_ofElems (Nat.lt_of_lt_of_eq h rfl) xs

/-- The results of VMATCH element by element: no stop string at an earlier byte is left out, and one that is named matches. -/
theorem matchElems_spec (text stops : BitVec 4096) :
    let v := ofElems 32 (matchElems text stops)
    let len := elem text 8 128
    let first := elem text 8 129
    let nstop := elem text 8 130
    let bad := len = 0 ∨ 96 < len ∨ len < first ∨ 8 < nstop
    (bad → elem v 32 0 = 0xFFFFFFFF ∧ elem v 32 3 = 1) ∧ (¬ bad → elem v 32 3 = 0 ∧
      (elem v 32 2 = 0xFFFFFFFF → ∀ e j, first ≤ e → e < len → j < nstop → stopAt text stops e j = false) ∧
      (elem v 32 2 ≠ 0xFFFFFFFF → first ≤ elem v 32 2 ∧ elem v 32 2 < len ∧ elem v 32 1 < nstop ∧
        stopAt text stops (elem v 32 2) (elem v 32 1) = true)) := by
  dsimp only
  rw [elem32_ofElems (by omega), elem32_ofElems (by omega), elem32_ofElems (by omega), elem32_ofElems (by omega), matchElems]
  refine ⟨fun hbad => ?bad, fun hgood => ?good⟩
  case bad =>
    rw [if_pos hbad]
    decide
  case good =>
    rw [if_neg hgood]
    cases hstop : firstStop text stops (elem text 8 129) (elem text 8 128) (elem text 8 130) with
    | none => exact ⟨rfl, fun _ e j => firstStop_eq_none hstop, fun h => absurd rfl h⟩
    | some p =>
      obtain ⟨e, j⟩ := p
      obtain ⟨hfirst, hlen, hj, hat⟩ := firstStop_eq_some hstop
      have he : e % 2 ^ 32 = e := Nat.mod_eq_of_lt (by omega)
      have hjm : j % 2 ^ 32 = j := Nat.mod_eq_of_lt (by omega)
      simp only [List.getD_cons_succ, List.getD_cons_zero, List.getD_nil, he, hjm]
      exact ⟨rfl, fun h => by omega, fun _ => ⟨hfirst, hlen, hj, hat⟩⟩

/-- Settles O39: the lane of each instruction, the carry of VSAMP, and the results of VTREE and VMATCH element by element. -/
theorem samplerResults : Obligations.SamplerResults := by
  intro s d a b m l
  dsimp only [exec]
  intro hfull
  refine ⟨fun h => ⟨?vpen, ?vbias, ?vrng, ?vacc⟩, fun h => ?vban, fun h => ⟨?vsoftT, ?vsoftW⟩, fun h => ?vresid, fun h => ?vsamp,
    fun h => ⟨?vtree, ?vmatch⟩⟩
  case vpen => exact genMap_gives (i := .vpen d a b m l) h ⟨rfl, rfl, rfl⟩ hfull fun e => rfl
  case vbias =>
    refine genMap_gives (i := .vbias d a b m l) h ⟨rfl, rfl, rfl⟩ hfull fun e => ?_
    rw [biasFrom_eq, ← List.range_eq_range']
  case vrng => exact genMap_gives (i := .vrng d a b m l) h ⟨rfl, rfl, rfl⟩ hfull fun e => rfl
  case vacc => exact genMap_gives (i := .vacc d a b m l) h ⟨rfl, rfl, rfl⟩ hfull fun e => rfl
  case vban => exact genMap_gives (i := .vban d m l) (srcs := []) h ⟨rfl, rfl, rfl⟩ hfull fun e => rfl
  case vsoftT => exact genMap_gives (i := .vsoftT d b m l) h ⟨rfl, rfl, rfl⟩ hfull fun e => rfl
  case vsoftW => exact genMap_gives (i := .vsoftW d b m l) h ⟨rfl, rfl, rfl⟩ hfull fun e => rfl
  case vresid => exact genMap_gives (i := .vresid d a b m l) h ⟨rfl, rfl, rfl⟩ hfull fun e => rfl
  case vsamp =>
    unfold execVsamp
    exact vecOp_gives (i := .vsamp d a b m l) h ⟨rfl, rfl, rfl⟩ hfull rfl
  case vtree =>
    unfold execVtree
    refine ⟨_, vecOp_gives (i := .vtree d a b l) h ⟨rfl, rfl, rfl⟩ hfull rfl, fun hbad => if_pos hbad, fun h1 h64 i hi => ?_⟩
    rw [if_neg (by omega)]
    exact elem_treeRow h64 hi
  case vmatch =>
    unfold execVmatch
    exact ⟨_, vecOp_gives (i := .vmatch d a b l) h ⟨rfl, rfl, rfl⟩ hfull rfl, matchElems_spec _ _⟩

end Sys2Proof.Machine
end

section
/-! The Cast instructions (R385, R386). -/

namespace Sys2Proof.Machine

section
variable {s t t1 t2 u : State} {d a b : BitVec 5} {g : BitVec 3} {l : BitVec 4} {p : Issue} {img key : List Byte} {reads : List Nat} {v : Dword}

/-- A Cast instruction whose checks pass gives the value of its act. -/
theorem castOp_gives {priv : State → Bool} {acc : State → List (Option Trap)} {act : State → M Dword}
    (h : Ready s p.guard true p.reads (.g d :: p.writes)) (hi : Plain p.instr) (hs : p.size = 4) (hpt : (s.slot s.focus).pt = false)
    (hacq : (s.slot s.focus).acquiring = false) (hpriv : priv s = true → (s.slot s.focus).supervisor = true)
    (hacc : ∀ x ∈ acc s, x = none) (hb : act s (s.issued 4) = .ok (v, u)) :
    castOp p d l priv acc act s = .next (s.givesLater u d l v) := by
  have hb' : act s (s.issued p.size (isBarrier p.instr) (isRelease p.instr)) = .ok (v, u) := by rwa [hs, hi.barrier, hi.release]
  have hp : (priv s && !(s.slot s.focus).supervisor) = false := by
    cases hps : priv s with
    | false => rfl
    | true => rw [hpriv hps]; rfl
  have hcheck : s.castTrap s.focus (priv s) (acc s) = none := by
    rw [State.castTrap, hp, pureTrap_of_untagged hpt]
    exact firstTrap_eq_none (by simpa [or_imp, forall_and] using hacc)
  exact issueLater_ready (p := { p with hold := fun s => (s.slot s.focus).acquiring, check := fun s => s.castTrap s.focus (priv s) (acc s) })
    h hi.legal hacq hcheck hb'

/-! ### What each instruction does once its card or key is read -/

theorem clookBody_uncacheable (hr : readObj s d (s.readG s.focus a) 128 t = .ok (img, t1))
    (hk : taskKey (s.whoIssue d) img t1 = .ok (none, t2)) : clookBody d a b s t = .ok (2, t2) :=
  (bind_ok hr).trans ((bind_ok hk).trans rfl)

/-- CLOOK of a task with a key, when no key is to be written (R385, R198). -/
theorem clookBody_probe (hr : readObj s d (s.readG s.focus a) 128 t = .ok (img, t1))
    (hk : taskKey (s.whoIssue d) img t1 = .ok (some (key, reads), t2)) (hw : t2.invalWaits reads = false) (hb : s.readG s.focus b = 0) :
    clookBody d a b s t = .ok (if t2.castcfg.getLsbD 63 && (t2.castHit key (s.whoIssue d).tenant img).isSome then 1 else 0, t2) := by
  refine (bind_ok hr).trans ((bind_ok hk).trans ?_)
  dsimp only
  rw [get_bind, hw, if_neg Bool.false_ne_true, hb, if_neg (fun h => h rfl)]
  rfl

theorem cputBody_uncacheable (hr : readObj s d (s.readG s.focus a) 128 t = .ok (img, t1))
    (hk : taskKey (s.whoIssue d) img t1 = .ok (none, t2)) : cputBody d a s t = .ok (2, t2) :=
  (bind_ok hr).trans ((bind_ok hk).trans rfl)

/-- CPUT of a task with a key inserts its outputs (R385, R386). -/
theorem cputBody_insert {c : Bool} (hr : readObj s d (s.readG s.focus a) 128 t = .ok (img, t1))
    (hk : taskKey (s.whoIssue d) img t1 = .ok (some (key, reads), t2)) (hw : t2.invalWaits reads = false)
    (hc : castInsert (s.whoIssue d) false img key reads t2 = .ok (c, u)) : cputBody d a s t = .ok (if c then 0 else 1, u) := by
  refine (bind_ok hr).trans ((bind_ok hk).trans ?_)
  dsimp only
  rw [get_bind, hw, if_neg Bool.false_ne_true]
  exact (bind_ok hc).trans rfl

theorem cinvkBody_absent (hr : readObj s d (s.readG s.focus a) 32 t = .ok (key, t1))
    (hf : t1.castFind key (s.slot s.focus).tenant = none) : cinvkBody d a s t = .ok (0, t1) := by
  refine (bind_ok hr).trans ((get_bind ..).trans ?_)
  rw [hf]
  rfl

theorem cinvkBody_found {i : Nat} {e : CastEntry} (hr : readObj s d (s.readG s.focus a) 32 t = .ok (key, t1))
    (hf : t1.castFind key (s.slot s.focus).tenant = some (i, e)) : cinvkBody d a s t = .ok (1, t1.castFree i) := by
  refine (bind_ok hr).trans ((get_bind ..).trans ?_)
  rw [hf]
  rfl

end

theorem cast_count (s : State) (c : Nat) (code : Byte) (n : Nat) : (s.count c code n).cast = s.cast := by
  unfold State.count
  split <;> rfl

theorem cast_issued (s : State) : (s.issued 4).cast = s.cast := (cast_count ..).trans rfl

/-- Settles O32: each instruction by what its task's key, or the key that it reads, gives. -/
theorem castResults : Obligations.CastResults := by
  intro s d a b g l img key reads
  dsimp only [exec]
  intro hpt hacq
  refine ⟨fun t1 t2 hr hc => ⟨fun h hb => ⟨fun hk => ?lookNone, fun hk hw => ?look⟩, fun h hm => ⟨fun hk => ?putNone, fun c u hk hw hi => ?put⟩⟩,
    fun t1 h hr hc => ⟨fun hf => ?absent, fun i e hf => ?found⟩, fun h ht => ?flush⟩
  case lookNone =>
    exact castOp_gives h ⟨rfl, rfl, rfl⟩ rfl hpt hacq (fun hp => nomatch hp) (by simpa [State.readG, hb] using hc) (clookBody_uncacheable hr hk)
  case look =>
    exact castOp_gives h ⟨rfl, rfl, rfl⟩ rfl hpt hacq (fun hp => nomatch hp) (by simpa [State.readG, hb] using hc) (clookBody_probe hr hk hw hb)
  case putNone =>
    exact castOp_gives h ⟨rfl, rfl, rfl⟩ rfl hpt hacq (fun _ => hm) (by simpa [State.readG] using hc) (cputBody_uncacheable hr hk)
  case put =>
    exact castOp_gives h ⟨rfl, rfl, rfl⟩ rfl hpt hacq (fun _ => hm) (by simpa [State.readG] using hc) (cputBody_insert hr hk hw hi)
  case absent =>
    exact castOp_gives h ⟨rfl, rfl, rfl⟩ rfl hpt hacq (fun hp => nomatch hp) (by simpa [State.readG] using hc) (cinvkBody_absent hr hf)
  case found =>
    exact castOp_gives h ⟨rfl, rfl, rfl⟩ rfl hpt hacq (fun hp => nomatch hp) (by simpa [State.readG] using hc) (cinvkBody_found hr hf)
  case flush =>
    have hten : bits (s.readG s.focus a) 15 0 = (s.slot s.focus).tenant.toNat := (bits_low ..).trans ht
    refine castOp_gives h ⟨rfl, rfl, rfl⟩ rfl hpt hacq (fun hp => ?_) (fun x hx => nomatch hx) ?_
    · exact absurd hten (bne_iff_ne.1 hp)
    · rw [get_bind, hten, cast_issued]
      rfl

end Sys2Proof.Machine
end

section
/-! Save areas and SAVECMD (R278–R283). -/

namespace Sys2Proof.Machine

/-! ### Reading a list of writes back -/

/-- A part of the bytes that were written last. -/
theorem readBytes_writeBytes_within {m : Memory} {a i n : Nat} {bs : List Byte} (h : m.wf = true) (hin : i + n ≤ bs.length) :
    (m.writeBytes a bs).readBytes (a + i) n = (bs.drop i).take n := by
  refine List.ext_getElem (by rw [length_readBytes, List.length_take, List.length_drop]; omega) fun j hj _ => ?_
  rw [length_readBytes] at hj
  have hix : a + i + j - a = i + j := by omega
  rw [getElem_readBytes, Memory.readByte_writeBytes _ _ _ h, dif_pos (by omega), List.getElem_take, List.getElem_drop]
  simp only [hix]

/-- The writes of a list of pieces, each at its offset from a base. -/
def writePieces (m : Memory) (base : Nat) (ps : List (Nat × List Byte)) : Memory := ps.foldl (fun m p => m.writeBytes (base + p.1) p.2) m

/-- Two pieces of which the first ends before the second begins. -/
def PieceBefore (p q : Nat × List Byte) : Prop := p.1 + p.2.length ≤ q.1

section
variable {m : Memory} {base : Nat} {ps : List (Nat × List Byte)}

theorem writePieces_apart {o n : Nat} (h : m.wf = true) (hap : ∀ p ∈ ps, o + n ≤ p.1) :
    (writePieces m base ps).readBytes (base + o) n = m.readBytes (base + o) n := by
  induction ps generalizing m with
  | nil => rfl
  | cons p ps ih =>
    have hp := hap p (List.mem_cons_self ..)
    rw [writePieces, List.foldl_cons, ← writePieces, ih (Memory.wf_writeBytes _ _ h) fun q hq => hap q (List.mem_cons_of_mem _ hq),
      readBytes_writeBytes_apart h (by omega)]

/-- Pieces in the order of their offsets stand as they were written. -/
theorem writePieces_read {p : Nat × List Byte} {i n : Nat} (h : m.wf = true) (hps : ps.Pairwise PieceBefore) (hp : p ∈ ps)
    (hin : i + n ≤ p.2.length) : (writePieces m base ps).readBytes (base + (p.1 + i)) n = (p.2.drop i).take n := by
  induction ps generalizing m with
  | nil => exact nomatch hp
  | cons q qs ih =>
    obtain ⟨hq, hqs⟩ := List.pairwise_cons.1 hps
    rw [writePieces, List.foldl_cons, ← writePieces]
    rcases List.mem_cons.1 hp with rfl | hmem
    · rw [writePieces_apart (Memory.wf_writeBytes _ _ h) fun r hr => Nat.le_trans (by omega) (hq r hr), ← Nat.add_assoc,
        readBytes_writeBytes_within h hin]
    · exact ih (Memory.wf_writeBytes _ _ h) hqs hmem

end

/-! ### The pieces of a save area (R278) -/

section
variable {x : Slot} {k ctr : Nat}

theorem length_savedBytes {n : Nat} (hn : n % 8 = 0) (v : Nat) (st : RegState) (ctr : Nat) : (savedBytes n v st ctr).length = n := by
  unfold savedBytes
  split
  · exact Laws.length_leBytes ..
  · simp only [List.length_flatMap, Laws.length_leBytes, List.map_const', List.length_range, List.sum_replicate, smul_eq_mul]
    omega

/-- The piece of a v register, of a g register and of a mask register. -/
def Slot.vPiece (x : Slot) (ctr i : Nat) : Nat × List Byte :=
  (512 * i, savedBytes 512 (x.readV (BitVec.ofNat 3 i)).toNat (x.vState (BitVec.ofNat 3 i)) (ctr + 64 * i))
def Slot.gPiece (x : Slot) (ctr i : Nat) : Nat × List Byte :=
  (0x1000 + 8 * i, savedBytes 8 (x.readG (BitVec.ofNat 5 i)).toNat (x.gState (BitVec.ofNat 5 i)) (ctr + 512 + i))
def Slot.mPiece (x : Slot) (ctr i : Nat) : Nat × List Byte :=
  (0x1100 + 64 * i, savedBytes 64 (x.readM (BitVec.ofNat 2 (i + 1))).toNat (x.mState (BitVec.ofNat 2 (i + 1))) (ctr + 544 + 8 * i))
/-- The piece of the state maps and the PC. -/
def Slot.mapPiece (x : Slot) (k : Nat) : Nat × List Byte :=
  (0x11C0, leBytes 8 x.gMap ++ leBytes 8 x.vmMap ++ leBytes 4 (x.toRec k x.pc).pw.toNat ++ leBytes 4 x.recFlags.toNat ++
    leBytes 8 x.pc.toNat ++ leBytes 8 x.dirty.toNat ++ leBytes 8 x.vdirty.toNat ++ List.replicate 16 0)

theorem savePieces_eq (x : Slot) (k ctr : Nat) : x.savePieces k ctr false =
    ((List.range 8).map (x.vPiece ctr) ++ (List.range 32).map (x.gPiece ctr) ++ (List.range 3).map (x.mPiece ctr)) ++
      [x.mapPiece k, (0x1280, x.controlBlock.flatMap fun d => leBytes 8 d.toNat)] := by
  simp only [Slot.savePieces, Bool.false_and, Bool.false_eq_true, if_false, List.filterMap_eq_map']
  rfl

/-- Equal pieces one after another do not meet. -/
theorem pairwise_pieces {f : Nat → Nat × List Byte} {base size n : Nat} (hoff : ∀ i, (f i).1 = base + size * i)
    (hlen : ∀ i, (f i).2.length = size) : ((List.range n).map f).Pairwise PieceBefore := by
  refine List.pairwise_map.2 (List.pairwise_lt_range.imp fun {i j} hij => ?_)
  rw [PieceBefore, hoff, hlen, hoff, Nat.add_assoc, ← Nat.mul_succ]
  exact Nat.add_le_add_left (Nat.mul_le_mul_left _ hij) _

theorem length_mapPiece : (x.mapPiece k).2.length = 64 := by
  simp [Slot.mapPiece, Laws.length_leBytes]

theorem savePieces_pairwise (x : Slot) (k ctr : Nat) : (x.savePieces k ctr false).Pairwise PieceBefore := by
  have hlen512 (i : Nat) : (x.vPiece ctr i).2.length = 512 := length_savedBytes rfl ..
  have hlen8 (i : Nat) : (x.gPiece ctr i).2.length = 8 := length_savedBytes rfl ..
  have hlen64 (i : Nat) : (x.mPiece ctr i).2.length = 64 := length_savedBytes rfl ..
  have hv := pairwise_pieces (base := 0) (n := 8) (fun i => (Nat.zero_add _).symm) hlen512
  have hg := pairwise_pieces (base := 0x1000) (n := 32) (fun i => rfl) hlen8
  have hm := pairwise_pieces (base := 0x1100) (n := 3) (fun i => rfl) hlen64
  have hvo (i : Nat) : (x.vPiece ctr i).1 = 512 * i := rfl
  have hgo (i : Nat) : (x.gPiece ctr i).1 = 0x1000 + 8 * i := rfl
  have hmo (i : Nat) : (x.mPiece ctr i).1 = 0x1100 + 64 * i := rfl
  have hpo : (x.mapPiece k).1 = 0x11C0 := rfl
  rw [savePieces_eq]
  refine List.pairwise_append.2 ⟨List.pairwise_append.2 ⟨List.pairwise_append.2 ⟨hv, hg, ?_⟩, hm, ?_⟩, ?_, ?_⟩
  all_goals simp only [List.mem_append, List.mem_map, List.mem_range, List.pairwise_cons, List.mem_cons, List.not_mem_nil, or_false,
    List.Pairwise.nil, and_true, PieceBefore]
  · rintro _ ⟨i, hi, rfl⟩ _ ⟨j, hj, rfl⟩
    rw [hvo, hlen512, hgo]
    omega
  · rintro _ (⟨i, hi, rfl⟩ | ⟨i, hi, rfl⟩) _ ⟨j, hj, rfl⟩
    · rw [hvo, hlen512, hmo]
      omega
    · rw [hgo, hlen8, hmo]
      omega
  · refine ⟨fun _ h => ?_, fun _ h => h.elim⟩
    rw [h, length_mapPiece, hpo]
    omega
  · rintro _ ((⟨i, hi, rfl⟩ | ⟨i, hi, rfl⟩) | ⟨i, hi, rfl⟩) _ (rfl | rfl)
    all_goals simp only [hvo, hgo, hmo, hpo, hlen512, hlen8, hlen64]
    all_goals omega

end

/-! ### SAVE (R280) -/

theorem lsKey_add {cl o i : Nat} (h : o + i < 2 ^ 22) : lsKey cl (o + i) = lsKey cl o + i := by
  rw [lsKey, lsKey, Nat.mod_eq_of_lt h, Nat.mod_eq_of_lt (by omega), Nat.add_assoc]

/-- A save area lies in its cluster's local store. -/
theorem saveArea_lt (k : Nat) : saveArea k + 0x1400 ≤ 2 ^ 22 := by
  rw [saveArea, plinthOff]
  omega

theorem ls_foldl_writeLs {s : State} {cl o : Nat} {ps : List (Nat × List Byte)} (h : ∀ p ∈ ps, o + p.1 < 2 ^ 22) :
    (ps.foldl (fun s p => s.writeLs cl (o + p.1) p.2) s).ls = writePieces s.ls (lsKey cl o) ps := by
  induction ps generalizing s with
  | nil => rfl
  | cons p ps ih =>
    rw [List.foldl_cons, ih fun q hq => h q (List.mem_cons_of_mem _ hq), writePieces, writePieces, List.foldl_cons, State.writeLs,
      lsKey_add (h p (List.mem_cons_self ..))]

theorem savePieces_offset_lt {x : Slot} {k ctr : Nat} {p : Nat × List Byte} (h : p ∈ x.savePieces k ctr false) : p.1 < 0x1400 := by
  rw [savePieces_eq] at h
  simp only [List.mem_append, List.mem_map, List.mem_range, List.mem_cons, List.not_mem_nil, or_false] at h
  rcases h with ((⟨i, hi, rfl⟩ | ⟨i, hi, rfl⟩) | ⟨i, hi, rfl⟩) | rfl | rfl
  · show 512 * i < 0x1400
    omega
  · show 0x1000 + 8 * i < 0x1400
    omega
  · show 0x1100 + 64 * i < 0x1400
    omega
  · show 0x11C0 < 0x1400
    decide
  · show 0x1280 < 0x1400
    decide

/-- The writes of the pieces of slot `k`'s area. -/
def State.writeSaved (s : State) (k : Nat) : State :=
  ((s.slot k).savePieces k s.freeCtr false).foldl (fun s p => s.writeLs (clusterOf k) (saveArea k + p.1) p.2) s

/-- The counter of free values moves on; all else stays. -/
def State.skipFree (s : State) (n : Nat) : State := { s with freeCtr := n }

theorem ls_skipFree (s : State) (n : Nat) : (s.skipFree n).ls = s.ls := rfl

theorem writeArea_eq (s : State) (k : Nat) : s.writeArea k false = (s.writeSaved k).skipFree (s.freeCtr + 568) := rfl

theorem ls_writeArea (s : State) (k : Nat) : (s.writeArea k false).ls =
    writePieces s.ls (lsKey (clusterOf k) (saveArea k)) ((s.slot k).savePieces k s.freeCtr false) := by
  rw [writeArea_eq, ls_skipFree]
  refine ls_foldl_writeLs fun p hp => ?_
  have hlt := savePieces_offset_lt hp
  have harea := saveArea_lt k
  omega

theorem slot_writeArea (s : State) (k j : Nat) (inc : Bool) : (s.writeArea k inc).slot j = s.slot j := by
  have hfold (ps : List (Nat × List Byte)) (u : State) :
      (ps.foldl (fun s p => s.writeLs (clusterOf k) (saveArea k + p.1) p.2) u).slots = u.slots := by
    induction ps generalizing u with
    | nil => rfl
    | cons p ps ih => rw [List.foldl_cons, ih]; rfl
  unfold State.writeArea State.slot
  rw [hfold]

/-- A dword of the area that SAVE wrote, from the piece that holds it. -/
theorem areaDword_of_piece {s u : State} {k i v : Nat} {p : Nat × List Byte} (hwf : s.ls.wf = true)
    (hu : u.ls = (s.writeArea k false).ls) (hp : p ∈ (s.slot k).savePieces k s.freeCtr false) (hin : i + 8 ≤ p.2.length)
    (hv : (p.2.drop i).take 8 = leBytes 8 v) (hoff : p.1 + i < 0x1400) : u.areaDword k (p.1 + i) = dw v := by
  have harea := saveArea_lt k
  rw [State.areaDword, State.lsDword, State.readLs, hu, ls_writeArea, lsKey_add (by omega),
    writePieces_read hwf (savePieces_pairwise ..) hp hin, hv, leNat_leBytes]
  refine BitVec.eq_of_toNat_eq ?_
  rw [dw, dw, BitVec.toNat_ofNat, BitVec.toNat_ofNat]
  omega

section
variable {s u : State} {k : Nat}

/-- The area holds the PC of the strand that SAVE took. -/
theorem areaDword_pc (hwf : s.ls.wf = true) (hu : u.ls = (s.writeArea k false).ls) : u.areaDword k 0x11D8 = (s.slot k).pc := by
  have hp : (s.slot k).mapPiece k ∈ (s.slot k).savePieces k s.freeCtr false := by
    rw [savePieces_eq]
    exact List.mem_append_right _ (List.mem_cons_self ..)
  have hpc : (((s.slot k).mapPiece k).2.drop 0x18).take 8 = leBytes 8 (s.slot k).pc.toNat := by
    simp only [Slot.mapPiece, List.append_assoc]
    rw [← List.append_assoc, ← List.append_assoc, ← List.append_assoc, List.drop_left' (by simp [Laws.length_leBytes]),
      List.take_left' (Laws.length_leBytes ..)]
  refine (areaDword_of_piece hwf hu hp (i := 0x18) ?_ hpc ?_).trans ?_
  · rw [length_mapPiece]
    decide
  · show 0x11C0 + 0x18 < 0x1400
    decide
  · rw [dw, BitVec.ofNat_toNat, BitVec.setWidth_eq]

/-- The area holds every full register of the strand that SAVE took. -/
theorem areaDword_g (hwf : s.ls.wf = true) (hu : u.ls = (s.writeArea k false).ls) {n : BitVec 5} (hn : (s.slot k).gState n = .full) :
    u.areaDword k (0x1000 + 8 * n.toNat) = (s.slot k).readG n := by
  have hlt := n.isLt
  have hp : (s.slot k).gPiece s.freeCtr n.toNat ∈ (s.slot k).savePieces k s.freeCtr false := by
    rw [savePieces_eq]
    exact List.mem_append_left _ (List.mem_append_left _ (List.mem_append_right _ (List.mem_map_of_mem (List.mem_range.2 hlt))))
  have hbytes : ((s.slot k).gPiece s.freeCtr n.toNat).2 = leBytes 8 ((s.slot k).readG n).toNat := by
    rw [Slot.gPiece, BitVec.ofNat_toNat, BitVec.setWidth_eq, savedBytes, if_pos hn]
  have hlen : ((s.slot k).gPiece s.freeCtr n.toNat).2.length = 8 := by rw [hbytes, Laws.length_leBytes]
  refine (areaDword_of_piece hwf hu hp (i := 0) (v := ((s.slot k).readG n).toNat) (Nat.le_of_eq hlen.symm) ?_ ?_).trans ?_
  · rw [List.drop_zero, List.take_of_length_le hlen.le, hbytes]
  · show 0x1000 + 8 * n.toNat < 0x1400
    omega
  · rw [dw, BitVec.ofNat_toNat, BitVec.setWidth_eq]

end

/-- A strand with nothing outstanding has no synchronising access to withdraw. -/
theorem withdrawSync_of_outs {x : Slot} (h : x.outs = []) : x.withdrawSync = x := by
  rw [Slot.withdrawSync, h]
  rfl

theorem slot_keepTrap (s : State) (t j : Nat) : (s.keepTrap t).slot j = s.slot j := by
  unfold State.keepTrap
  dsimp only
  split <;> rfl

theorem core_keepTrap (s : State) (t c : Nat) : (s.keepTrap t).core c = s.core c := by
  unfold State.keepTrap
  dsimp only
  split <;> rfl

theorem ls_keepTrap (s : State) (t : Nat) : (s.keepTrap t).ls = s.ls := by
  unfold State.keepTrap
  dsimp only
  split <;> rfl

/-- The state once the area of slot `t` is written. -/
def State.areaSaved (s : State) (t : Nat) : State := ((s.keepTrap t).setSlot t (s.slot t)).writeArea t false

/-- What SAVE leaves once the area is written: the slot is empty. -/
def State.emptied (u : State) (t : Nat) : State :=
  ((u.modSlot t fun x => { x with dirty := 0, vdirty := 0, outs := [], fatals := [], due := none, async := [] }).orphanSys t).leave t

section
variable {s u : State} {k t : Nat} {v : Dword}

theorem occ_emptied : ((u.emptied t).slot t).occ = .empty := by
  simp [State.emptied, State.leave]

theorem ls_emptied : (u.emptied t).ls = u.ls := rfl

theorem occ_saveDone (h : t ≠ k) (r : BitVec 2) : ((u.saveDone k r).slot t).occ = (u.slot t).occ := by
  simp [State.saveDone, State.finishCmd, h]

theorem ls_saveDone (r : BitVec 2) : (u.saveDone k r).ls = u.ls := by
  rw [State.saveDone, ls_finishCmd]
  rfl

theorem savestat_saveDone (r : BitVec 2) : ((u.saveDone k r).core (coreOf k)).savestat = r := by
  obtain ⟨evc, h⟩ := core_finishCmd (s := u.modCore (coreOf k) fun c => { c with savestat := r }) (k := k) (coreOf k)
  rw [State.saveDone, h]
  simp

/-- SAVE of a strand with nothing outstanding writes its area and empties its slot. -/
theorem exec_slotSave (hk : s.ev.who = k) (hv : s.cmd? k 0x0E1 = some v) (hop : saveOp v = 0) (hinc : v.getLsbD 59 = false)
    (hne : saveTarget k v ≠ k) (hurg : s.urgentSlot (saveTarget k v) = false) (hocc : (s.slot (saveTarget k v)).occ = .active)
    (houts : (s.slot (saveTarget k v)).outs = []) (hempty : (s.slot (saveTarget k v)).anyEmpty = false)
    (hready : s.saveReady (saveTarget k v) = true) :
    exec .slotSave s = .next (((s.areaSaved (saveTarget k v)).emptied (saveTarget k v)).saveDone k 0) := by
  have hrefused : s.saveRefused (saveTarget k v) = false := by rw [State.saveRefused, hurg, Bool.false_and]
  have hholds : (s.slot (saveTarget k v)).holdsStrand = true := by rw [Slot.holdsStrand, hocc]
  dsimp only [exec, execSlotSave]
  rw [hk, hv]
  dsimp only
  rw [if_neg (by omega), if_neg (not_not.2 hop), if_neg (by simp [hne, hrefused, hholds]), withdrawSync_of_outs houts,
    if_neg (by simp [hempty]), hocc]
  dsimp only
  rw [hready, hinc]
  rfl

end
end Sys2Proof.Machine
end

section
/-! The commands of SAVECMD and the fills that a forwarding entry holds (R280–R283, R319). -/

namespace Sys2Proof.Machine

section
variable {s u : State} {k : Nat} {v : Dword}

theorem saveReady_of_quiet {t : Nat} (hocc : (s.slot t).occ = .active) (houts : (s.slot t).outs = []) (hfatals : (s.slot t).fatals = [])
    (hdue : (s.slot t).due = none) (hcmd : (s.slot t).cmd = none) (hreplay : (s.slot t).replay = none)
    (hvis : s.allVisible (s.slot t).uid = true) (hseen : (s.slot t).seen.all (s.viewCovers (dieOf t)) = true) (howing : s.owing t = false) :
    s.saveReady t = true := by
  have hquiet : (s.slot t).quiet = true := by rw [Slot.quiet, houts, hfatals, hdue, hcmd, hreplay]; rfl
  rw [State.saveReady, if_neg (by simp [hocc]), hquiet, hvis, hseen, howing]
  rfl

/-- RESTORE gives an empty slot what its area holds. -/
theorem exec_slotRestore (hk : s.ev.who = k) (hv : s.cmd? k 0x0E1 = some v) (hop : saveOp v = 1) (hne : saveTarget k v ≠ k)
    (hurg : s.urgentSlot (saveTarget k v) = false) (hocc : (s.slot (saveTarget k v)).occ = .empty)
    (hbad : s.areaBad (saveTarget k v) = false) :
    exec .slotRestore s = .next ((({ s.setSlot (saveTarget k v) (s.areaSlot (saveTarget k v)) with nextN := s.nextN + 1 } : State).dropTrap
      (s.areaSlot (saveTarget k v))).saveDone k 0) := by
  dsimp only [exec, execSlotRestore]
  rw [hk, hv]
  dsimp only
  rw [if_neg (not_not.2 hop), if_neg (by simp [hne, hurg]), if_neg (not_not.2 hocc), hbad]
  rfl

/-- LSSAVE writes one page of data in a step. -/
theorem exec_lssave {pa : Nat} (hk : s.ev.who = k) (hv : s.cmd? k 0x0E1 = some v) (hop : saveOp v = 2) (hpage : bits v 45 0 < 64)
    (hw : s.Writable { s.whoSlot k (.issue k) with tenant := 0 } (s.streamVa k (bits v 45 0)) 65536 5 pa)
    (hroom : s.announceRoom (s.whoSlot k (.issue k)).die = true) :
    exec .lssave s = .next (((s.postWrite (s.whoSlot k (.issue k)).die (s.whoSlot k (.issue k)).uid
      (.frame pa (sliceMem s.ls (lsKey (clusterOf k) (bits v 45 0 * 65536)) 65536))).1).streamNext k v) := by
  have hrun : lssaveM k v s = .ok ((), ((s.postWrite (s.whoSlot k (.issue k)).die (s.whoSlot k (.issue k)).uid
      (.frame pa (sliceMem s.ls (lsKey (clusterOf k) (bits v 45 0 * 65536)) 65536))).1).streamNext k v) := by
    refine (get_bind ..).trans ((bind_ok hw).trans ?_)
    dsimp only
    rw [get_bind, hroom, if_pos hpage]
    rfl
  dsimp only [exec, execLssave]
  rw [hk, hv]
  dsimp only
  rw [if_neg (not_not.2 hop), runM_ok hrun]

/-- LSLOAD reads one page of data back in a step. -/
theorem exec_lsload {bs : List Byte} (hk : s.ev.who = k) (hv : s.cmd? k 0x0E1 = some v) (hop : saveOp v = 3) (hpage : bits v 45 0 < 64)
    (hr : readMem { s.whoSlot k (.issue k) with tenant := 0 } (s.streamVa k (bits v 45 0)) 65536 4 s = .ok (bs, s)) :
    exec .lsload s = .next ((if bits v 45 0 < 60 then s.storeLs (s.whoSlot k (.issue k)).die (clusterOf k) (bits v 45 0 * 65536) bs
      else (s.storeLs (s.whoSlot k (.issue k)).die (clusterOf k) (bits v 45 0 * 65536) bs).rereadPlinth
        (clusterOf k * 4 + (bits v 45 0 - 60))).streamNext k v) := by
  have hrun : lsloadM k v s = .ok ((), (if bits v 45 0 < 60 then
      s.storeLs (s.whoSlot k (.issue k)).die (clusterOf k) (bits v 45 0 * 65536) bs
      else (s.storeLs (s.whoSlot k (.issue k)).die (clusterOf k) (bits v 45 0 * 65536) bs).rereadPlinth
        (clusterOf k * 4 + (bits v 45 0 - 60))).streamNext k v) := by
    refine (get_bind ..).trans ((bind_ok hr).trans ((modify_ok ..).trans ?_))
    dsimp only
    rw [if_pos hpage]
  dsimp only [exec, execLsload]
  rw [hk, hv]
  dsimp only
  rw [if_neg (not_not.2 hop), runM_ok hrun]

/-- A MOVE whose entry is set moves the contexts. -/
theorem exec_coreMove_moving (hk : s.ev.who = k) (hv : s.cmd? k 0x0E1 = some v) (hop : saveOp v = 4)
    (hm : (s.core (coreOf k)).moving = true) : exec .coreMove s = .next ((s.moveCore k (moveTarget v)).saveDone k 0) := by
  dsimp only [exec, execCoreMove]
  rw [hk, hv]
  dsimp only
  rw [if_neg (not_not.2 hop), if_pos hm]

/-- A MOVE of a quiet core to a core that may take it sets the forwarding entry. -/
theorem exec_coreMove_forward (hk : s.ev.who = k) (hv : s.cmd? k 0x0E1 = some v) (hop : saveOp v = 4)
    (hm : (s.core (coreOf k)).moving = false) (hcl : bits v 53 48 < 40) (hok : s.moveOk k (moveTarget v) = true)
    (hrun : (s.core (moveTarget v)).runq = []) (hdeque : (s.core (moveTarget v)).deque = [])
    (hquiet : ∀ j ∈ s.movedSlots k, (s.slot j).outs = [] ∧ (s.slot j).cmd = none ∧ (s.slot j).due = none ∧ (s.slot j).fatals = [] ∧
      (s.slot j).replay = none ∧ ((s.slot j).occ = .active ∨ (s.slot j).occ = .empty)) :
    exec .coreMove s = .next (s.modCore (coreOf k) fun c => { c with fwd := some (moveTarget v), moving := true }) := by
  dsimp only [exec, execCoreMove]
  rw [hk, hv]
  dsimp only
  rw [if_neg (not_not.2 hop), if_neg (by rw [hm]; exact Bool.false_ne_true), if_neg (Nat.not_le.2 hcl), if_neg (by rw [hok]; decide),
    if_neg, if_neg (by simp [hrun, hdeque])]
  rw [List.any_eq_true]
  rintro ⟨j, hj, hbusy⟩
  obtain ⟨houts, hcmd, hdue, hfatals, hreplay, hocc⟩ := hquiet j hj
  rw [houts, hcmd, hdue, hfatals, hreplay] at hbusy
  rcases hocc with hocc | hocc
  · rw [hocc] at hbusy
    exact absurd hbusy (by decide)
  · rw [hocc] at hbusy
    exact absurd hbusy (by decide)

/-- FWDCLR ends the entry once no fill waits at it. -/
theorem exec_fwdclr (hk : s.ev.who = k) (hv : s.cmd? k 0x0E1 = some v) (hop : saveOp v = 5) : exec .fwdclr s =
    if (s.core (coreOf k)).fwdq ≠ [] then .next s else .next ((s.modCore (coreOf k) fun c => { c with fwd := none }).saveDone k 0) := by
  dsimp only [exec, execFwdclr]
  rw [hk, hv]
  dsimp only
  split
  case isTrue h => rw [if_pos (h.resolve_left (not_not.2 hop))]
  case isFalse h => rw [if_neg fun hq => h (.inr hq)]

/-- A fill that waits at a core goes on to the core that its entry names. -/
theorem exec_forwardDeliver {j c : Nat} {r : BitVec 5} {y : Dword} {sys : Bool} {rest : List (Nat × BitVec 5 × Dword × Bool)}
    (hk : s.ev.who = k) (hq : (s.core k).fwdq = (j, r, y, sys) :: rest) (hf : (s.core k).fwd = some c)
    (hm : (s.core k).moving = false) (hne : c ≠ k) :
    exec .forwardDeliver s = .next ((s.modCore k fun z => { z with fwdq := rest }).deliverFill (8 * c + j % 8) r y sys) := by
  have hfwd : s.forwarded k = some c := by
    rw [State.forwarded, hf]
    exact if_neg (by rw [hm]; exact Bool.false_ne_true)
  dsimp only [exec, execForwardDeliver]
  rw [hk, hq, hfwd]
  exact congrArg _ (if_neg hne)

end

/-- Settles O30: each operation of SAVECMD, the fill that goes on, and the fill that is lost. -/
theorem saveSteps : Obligations.SaveSteps := by
  refine ⟨fun s k v hk hv => ⟨?save, ?restore, ?lssave, ?lsload, ?move, ?entry, ?clear, ?waits⟩, ?deliver, ?lost⟩
  case save =>
    intro hwf hop hinc hne hurg hocc houts hfatals hdue hcmd hreplay hempty hvis hseen howing
    have hready := saveReady_of_quiet hocc houts hfatals hdue hcmd hreplay hvis hseen howing
    have hls : (((s.areaSaved (saveTarget k v)).emptied (saveTarget k v)).saveDone k 0).ls =
        (((s.keepTrap (saveTarget k v)).setSlot (saveTarget k v) (s.slot (saveTarget k v))).writeArea (saveTarget k v) false).ls := by
      rw [ls_saveDone, ls_emptied, State.areaSaved]
    have hwf' : ((s.keepTrap (saveTarget k v)).setSlot (saveTarget k v) (s.slot (saveTarget k v))).ls.wf = true := by
      show (s.keepTrap (saveTarget k v)).ls.wf = true
      rwa [ls_keepTrap]
    have hslot : ((s.keepTrap (saveTarget k v)).setSlot (saveTarget k v) (s.slot (saveTarget k v))).slot (saveTarget k v) =
        s.slot (saveTarget k v) := by rw [State.slot_setSlot, if_pos rfl]
    refine ⟨_, exec_slotSave hk hv hop hinc hne hurg hocc houts hempty hready, ?occ, savestat_saveDone 0, ?pc, fun n hn => ?g⟩
    case occ => rw [occ_saveDone hne, occ_emptied]
    case pc => rw [areaDword_pc hwf' hls, hslot]
    case g =>
      rw [← hslot] at hn ⊢
      exact areaDword_g hwf' hls hn
  case restore => exact fun hop hne hurg hocc hbad => exec_slotRestore hk hv hop hne hurg hocc hbad
  case lssave => exact fun pa hop hpage hw hroom => exec_lssave hk hv hop hpage hw hroom
  case lsload => exact fun bs hop hpage hr => exec_lsload hk hv hop hpage hr
  case move => exact fun hop hm => exec_coreMove_moving hk hv hop hm
  case entry => exact fun hop hm hcl hok hrun hdeque hquiet => exec_coreMove_forward hk hv hop hm hcl hok hrun hdeque hquiet
  case clear => exact fun hop hq => (exec_fwdclr hk hv hop).trans (if_neg (not_not.2 hq))
  case waits => exact fun hop hq => (exec_fwdclr hk hv hop).trans (if_pos hq)
  case deliver => exact fun s k j r y sys rest c hk hq hf hm hne => exec_forwardDeliver hk hq hf hm hne
  case lost =>
    intro s k r y sys hholds hfwd
    rw [State.deliverFill, hfwd, State.fillHere, hholds]
    rfl

end Sys2Proof.Machine
end

section
/-! What a start of a tile command leaves (R426), and the commands of the copy engines that start by reading (R445–R447). -/

namespace Sys2Proof.Machine

/-- A command that has started, with its writes still to make and the units of COUNT. -/
def Cmd.made (m : Cmd) (todo : List (Dword × List Byte)) (count : Nat) : Cmd := { m with started := true, todo := todo, count := count }

section
variable {s t u v : State} {m x y : Cmd} {op : Nat} {start : Cmd → Run} {post : Cmd → Dword → List Byte → M Cmd} {after : Cmd → M Bool}
  {ws : List (Dword × List Byte)} {n : Nat} {over_ : Bool}

theorem madeRun_ok (m : Cmd) (ws : List (Dword × List Byte)) (n : Nat) (u : State) :
    madeRun m ws n u = .ok (none, u.setCmd (m.made ws n)) := rfl

/-- A command that starts with writes to make goes on with them in later steps; without any it is over. -/
theorem runTile_made (h : s.Starts op m) (hs : start m s = .ok (none, u.setCmd y)) (hn : y.n = m.n) (hu : u.cmdOf m.n = some x)
    (ha : y.todo = [] → after y (u.setCmd y) = .ok (true, u.setCmd y)) :
    runTile op start post after s = ((u.setCmd y).closed y y.todo.isEmpty).afterTile m.n := by
  have hy : (u.setCmd y).cmdOf m.n = some y := hn ▸ cmdOf_setCmd (hn.symm ▸ hu)
  cases hw : y.todo with
  | nil => exact (h.tileRuns hs).runTile_eq hy hw (ha hw) fun _ => hy
  | cons w rest => exact runTile_start h hs hy hw

/-- What such a start leaves of the command and of the memories. -/
theorem made_of_start (h : s.Starts op m) (hs : start m s = .ok (none, u.setCmd (m.made ws n))) (hu : u.cmds = s.cmds)
    (ha : after (m.made ws n) (u.setCmd (m.made ws n)) = .ok (true, u.setCmd (m.made ws n))) :
    (runTile op start post after s).Made m ws n ∧ SameMemory u (runTile op start post after s) := by
  have hx : u.cmdOf m.n = some m := (cmdOf_of_cmds hu _).trans h.cmdOf
  have hy : (u.setCmd (m.made ws n)).cmdOf (m.made ws n).n = some (m.made ws n) := cmdOf_setCmd hx
  have hclosed := cmdOf_closed (n := m.n) (over_ := ws.isEmpty) hy
  obtain ⟨hmem, hls, hfe, hacc⟩ := sameMemory_closed (u.setCmd (m.made ws n)) (m.made ws n) ws.isEmpty m.n
  rw [runTile_made (post := post) h hs rfl hx fun _ => ha]
  refine ⟨?_, hmem, hls, hfe, hacc⟩
  unfold State.Made
  cases ws with
  | nil => exact congrArg _ hclosed
  | cons w rest =>
    rw [if_neg (List.cons_ne_nil w rest)]
    refine (congrArg _ hclosed).trans ?_
    simp [Cmd.made, h.done]

/-- A command whose start leaves nothing to write is over. -/
theorem over_of_start (h : s.Starts op m) (hs : start m s = .ok (none, u.setCmd y)) (hn : y.n = m.n) (hw : y.todo = []) (hu : u.cmds = s.cmds)
    (ha : after y (u.setCmd y) = .ok (true, u.setCmd y)) :
    runTile op start post after s = ((u.setCmd y).endCmd y 0 0).afterTile m.n ∧ (runTile op start post after s).Over m y.count := by
  have hx : u.cmdOf m.n = some m := (cmdOf_of_cmds hu _).trans h.cmdOf
  have hrun : runTile op start post after s = ((u.setCmd y).endCmd y 0 0).afterTile m.n := by
    rw [runTile_made h hs hn hx fun _ => ha, hw]
    rfl
  have hend : ((u.setCmd y).endCmd y 0 0).cmdOf y.n = some (y.ended 0 0) := cmdOf_endCmd (cmdOf_setCmd (hn.symm ▸ hx))
  refine ⟨hrun, ?_⟩
  rw [hrun, State.Over, ← hn]
  exact congrArg _ hend

/-! ### Reading windows -/

theorem startCopyCmd_window (ht : m.w.toring = false) (hr : moveWindow m (m.rec_ 0) (m.rec_ 1) (m.rec_ 0).idxOf (m.rec_ 1).idxOf
    (if (m.rec_ 0).empty then [] else (m.rec_ 1).points) s = .ok (ws, u)) :
    startCopyCmd m s = .ok (none, u.setCmd (m.made (joinWrites ws) 0)) := by
  unfold startCopyCmd
  rw [ht]
  exact (bind_ok hr).trans rfl

theorem startIndexed_gath
    (hb : indexBad (m.rec_ 0) (s.indexList m ((m.rec_ 1).wextAt ((m.rec_ 0).rank - 1))) = false)
    (hr : moveWindow m (m.rec_ 0) (m.rec_ 1) ((m.rec_ 0).idxBy (s.indexList m ((m.rec_ 1).wextAt ((m.rec_ 0).rank - 1)))) (m.rec_ 1).idxOf
      (if (m.rec_ 0).empty then [] else (m.rec_ 1).points) s = .ok (ws, u)) :
    startIndexed true m s = .ok (none, u.setCmd (m.made (joinWrites ws) 0)) := by
  refine (get_bind ..).trans ?_
  dsimp only
  rw [if_pos rfl, if_pos rfl, hb]
  exact (bind_ok hr).trans rfl

theorem startIndexed_scat
    (hb : indexBad (m.rec_ 1) (s.indexList m ((m.rec_ 0).wextAt ((m.rec_ 1).rank - 1))) = false)
    (hr : moveWindow m (m.rec_ 0) (m.rec_ 1) (m.rec_ 0).idxOf ((m.rec_ 1).idxBy (s.indexList m ((m.rec_ 0).wextAt ((m.rec_ 1).rank - 1))))
      (if (m.rec_ 1).empty then [] else (m.rec_ 0).points) s = .ok (ws, u)) :
    startIndexed false m s = .ok (none, u.setCmd (m.made (joinWrites ws) 0)) := by
  refine (get_bind ..).trans ?_
  dsimp only
  rw [if_neg Bool.false_ne_true, if_neg Bool.false_ne_true, hb]
  exact (bind_ok hr).trans rfl

/-! ### Loops of a start -/

/-- A loop whose steps all go through. -/
theorem forIn_yield_ok {α β : Type} {f : α → β → M (ForInStep β)} {g : State × β → α → State × β}
    (hf : ∀ a b s, f a b s = .ok (.yield (g (s, b) a).2, (g (s, b) a).1)) (l : List α) (b : β) (s : State) :
    forIn l b f s = .ok ((l.foldl g (s, b)).2, (l.foldl g (s, b)).1) := by
  induction l generalizing b s with
  | nil => rfl
  | cons a l ih =>
    rw [List.forIn_cons, List.foldl_cons]
    exact (bind_ok (hf a b s)).trans (ih _ _)

/-- A loop that asks for a value and goes on with it is a fold. -/
theorem forIn_eq_foldlM {α β γ : Type} (k : α → M γ) (h : β → α → γ → β) (l : List α) (b : β) :
    (forIn l b fun a b => do let x ← k a; pure (ForInStep.yield (h b a x)) : M β) = l.foldlM (fun b a => do let x ← k a; pure (h b a x)) b := by
  induction l generalizing b with
  | nil => rfl
  | cons a l ih => simp only [List.forIn_cons, List.foldlM_cons, bind_assoc, pure_bind, ih]

theorem startRedst_one {ra rb : List Byte} (hrecs : m.recs = [ra, rb]) (hr : moveWindow m (m.rec_ 0) (m.rec_ 1) (m.rec_ 0).idxOf
    (m.rec_ 1).idxOf (if (m.rec_ 0).empty then [] else (m.rec_ 1).points) s = .ok (ws, u)) :
    startRedst m s = .ok (none, u.setCmd (m.made ws 0)) := by
  have hb : m.rec_ 1 = Layout.parse rb := by rw [Cmd.rec_, recAt, hrecs]; rfl
  rw [hb] at hr
  unfold startRedst
  rw [hrecs]
  rw [show List.drop 1 [ra, rb] = [rb] from rfl, List.forIn_cons]
  exact (bind_ok ((bind_ok ((bind_ok hr).trans rfl)).trans rfl)).trans rfl

/-! ### HASHPG, BARM and CKPT (R449, R453, R455) -/

/-- A page's outcome with the pages before it counted. -/
def addCount (k : Nat) (q : State × Nat) : State × Nat := (q.1, k + q.2)

theorem addCount_fst (k : Nat) (q : State × Nat) : (addCount k q).1 = q.1 := rfl

/-- One page of HASHPG, and how many have been hashed with it. -/
def Cmd.hashStep (m : Cmd) (p : State × Nat) (n : Nat) : State × Nat :=
  addCount p.2 (p.1.hashPage m.who (BitVec.ofNat 64 (m.w.a12 + n * 65536)))

/-- Nothing but the frame descriptors is another. -/
def FramesOnly (s t : State) : Prop := ∃ fs, t = { s with frames := fs }

theorem FramesOnly.modFrame {pa : Nat} {f : FrameDesc → FrameDesc} (h : FramesOnly s t) : FramesOnly s (t.modFrame pa f) := by
  obtain ⟨fs, rfl⟩ := h
  exact ⟨_, rfl⟩

theorem FramesOnly.hashPage {w : Who} {va : Dword} (h : FramesOnly s t) : FramesOnly s (t.hashPage w va).1 := by
  unfold State.hashPage
  split
  · split
    · split
      · dsimp only
        exact h.modFrame
      · exact h
    · exact h
  · exact h

theorem FramesOnly.hashStep {p : State × Nat} (h : FramesOnly s p.1) (m : Cmd) (n : Nat) : FramesOnly s (m.hashStep p n).1 := by
  rw [Cmd.hashStep, addCount_fst]
  exact h.hashPage

theorem framesOnly_hashPages (m : Cmd) (l : List Nat) {p : State × Nat} (h : FramesOnly s p.1) : FramesOnly s (l.foldl m.hashStep p).1 := by
  induction l generalizing p with
  | nil => exact h
  | cons a l ih => exact ih (h.hashStep m a)

/-- The start of HASHPG. -/
def startHashpg (m : Cmd) : Run := do
  let mut n := 0
  for i in List.range m.w.w5.toNat do
    let s ← get
    let r := s.hashPage m.who (dw (m.w.a12 + i * 65536))
    set r.1
    n := n + r.2
  madeRun m [] n

/-- A page of a loop that hashes and counts. -/
theorem hashPage_step (w : Who) (va : Dword) (b : Nat) (s : State) :
    (do
      let s ← get
      set (s.hashPage w va).1
      pure (ForInStep.yield (b + (s.hashPage w va).2)) : M (ForInStep Nat)) s =
      .ok (.yield (addCount b (s.hashPage w va)).2, (addCount b (s.hashPage w va)).1) := rfl

theorem startHashpg_ok (m : Cmd) (s : State) :
    let r := (List.range m.w.w5.toNat).foldl m.hashStep (s, 0)
    startHashpg m s = .ok (none, r.1.setCmd (m.made [] r.2)) := by
  intro r
  refine (bind_ok (forIn_yield_ok (g := m.hashStep) (fun i => hashPage_step m.who (dw (m.w.a12 + i * 65536))) _ 0 s)).trans ?_
  exact madeRun_ok ..

theorem endCmd_frames (s : State) (m : Cmd) (estat fsub : Byte) : (s.endCmd m estat fsub).frames = s.frames := by
  obtain ⟨cs, h⟩ := endCmd_eq s m estat fsub
  rw [h]
  split
  · rfl
  · rfl

theorem endCmd_ckgen (s : State) (m : Cmd) (estat fsub : Byte) : (s.endCmd m estat fsub).ckgen = s.ckgen := by
  obtain ⟨cs, h⟩ := endCmd_eq s m estat fsub
  rw [h]
  split
  · rfl
  · rfl

theorem sameMemory_over (u : State) (y : Cmd) (n : Nat) : SameMemory u (((u.setCmd y).endCmd y 0 0).afterTile n) := by
  obtain ⟨hmem, hls, hfe, hacc⟩ := sameMemory_endCmd (u.setCmd y) y 0 0
  exact ⟨hmem, hls, hfe, hacc⟩

theorem frames_over (u : State) (y : Cmd) (n : Nat) : (((u.setCmd y).endCmd y 0 0).afterTile n).frames = u.frames := endCmd_frames ..

theorem exec_hashpg_eq (s : State) : exec .hashpg s = .next (runTile 0x18 startHashpg postNone atOnce s) := rfl

theorem exec_hashpg (h : s.Starts 0x18 m) :
    let r := (List.range m.w.w5.toNat).foldl m.hashStep (s, 0)
    ∃ t, exec .hashpg s = .next t ∧ t.Over m r.2 ∧ t.frames = r.1.frames ∧ SameMemory s t := by
  intro r
  have hframes : FramesOnly s r.1 := framesOnly_hashPages m (List.range m.w.w5.toNat) ⟨s.frames, rfl⟩
  have hcmds : r.1.cmds = s.cmds := by
    obtain ⟨fs, hfs⟩ := hframes
    rw [hfs]
  have hsame : SameMemory s r.1 := by
    obtain ⟨fs, hfs⟩ := hframes
    rw [hfs]
    exact ⟨rfl, rfl, rfl, rfl⟩
  have hmem := (made_of_start (post := postNone) h (startHashpg_ok m s) hcmds (after := atOnce) rfl).2
  obtain ⟨hrun, hover⟩ := over_of_start (post := postNone) h (startHashpg_ok m s) rfl rfl hcmds (after := atOnce) rfl
  refine ⟨_, exec_hashpg_eq s, hover, ?_, hsame.trans hmem⟩
  rw [hrun, frames_over]

theorem cmds_arrive (s : State) (d cl off x : Nat) (arm : Bool) : (s.arrive d cl off x arm).cmds = s.cmds := by
  unfold State.arrive
  dsimp only
  split
  · rfl
  · rfl

/-- The start of BARM. -/
def startBarm (m : Cmd) : Run := do
  modify fun s => s.arrive m.die m.cluster (m.w.w3.toNat * 64) m.w.a12 true
  madeRun m [] 0

theorem startBarm_ok (m : Cmd) (s : State) :
    startBarm m s = .ok (none, (s.arrive m.die m.cluster (m.w.w3.toNat * 64) m.w.a12 true).setCmd (m.made [] 0)) :=
  (bind_ok (modify_ok ..)).trans (madeRun_ok ..)

theorem exec_barm (h : s.Starts 0x16 m) : ∃ t, exec .barm s = .next t ∧ t.Over m 0 ∧
    t.ls = (s.arrive m.die m.cluster (m.w.w3.toNat * 64) m.w.a12 true).ls := by
  obtain ⟨hover, hmem⟩ := made_of_start (post := postNone) h (startBarm_ok m s) (cmds_arrive ..) (after := atOnce) rfl
  exact ⟨_, rfl, hover, hmem.ls⟩

theorem startCkpt_ok (hd : s.drain = none) (ht : s.tier ≠ none) (hdirs : s.dirsUp (BitVec.ofNat 8 m.w.w5.toNat) ≠ [])
    (hc : s.cutReady = true) :
    startCkpt m s = .ok (none, (s.takeCut (BitVec.ofNat 8 m.w.w5.toNat)).setCmd (m.made [] (s.ckgen + 1).toNat)) := by
  have hready : (s.tier.isNone || (s.dirsUp (BitVec.ofNat 8 m.w.w5.toNat)).isEmpty) = false := by
    rw [Bool.or_eq_false_iff, Option.isNone_eq_false_iff, Option.isSome_iff_ne_none, List.isEmpty_eq_false_iff]
    exact ⟨ht, hdirs⟩
  refine (get_bind ..).trans ?_
  dsimp only
  rw [hd, hready, hc]
  exact (bind_ok (modify_ok ..)).trans (madeRun_ok ..)

theorem exec_ckpt (h : s.Starts 0x21 m) (hd : s.drain = none) (ht : s.tier ≠ none)
    (hdirs : s.dirsUp (BitVec.ofNat 8 m.w.w5.toNat) ≠ []) (hc : s.cutReady = true) :
    ∃ t, exec .ckpt s = .next t ∧ t.Over m (s.ckgen + 1).toNat ∧ t.ckgen = (s.takeCut (BitVec.ofNat 8 m.w.w5.toNat)).ckgen := by
  obtain ⟨hrun, hover⟩ := over_of_start (post := postNone) h (startCkpt_ok hd ht hdirs hc) rfl rfl rfl (after := atOnce) rfl
  exact ⟨_, rfl, hover, (congrArg State.ckgen hrun).trans (endCmd_ckgen ..)⟩

end
end Sys2Proof.Machine
end

section
/-! MCAST (R450): what it reads stands in every local store that its mask names. -/

namespace Sys2Proof.Machine

/-! ### Reads keep the engine queues, the local stores and the rings -/

/-- What no read of an engine changes: the commands, the local stores and the clusters' rings. -/
structure EngineView where
  cmds : List Cmd
  ls : Memory
  clusters : Table Cluster

def State.engineView (s : State) : EngineView := ⟨s.cmds, s.ls, s.clusters⟩

/-- A step that goes through leaves what it found of commands, local stores and clusters. -/
def KeepsView (vw : EngineView) {α : Type} (m : M α) : Prop := ∀ s a t, s.engineView = vw → m s = .ok (a, t) → t.engineView = vw

namespace KeepsView

variable {α β : Type} {m : M α} {f : α → M β} {vw : EngineView}

theorem pure {a : α} : KeepsView vw (pure a : M α) := fun _ _ _ h e => by
  obtain ⟨-, rfl⟩ := Prod.mk.inj (Except.ok.inj e)
  exact h

theorem throw {e : Stop} : KeepsView vw (throw e : M α) := fun _ _ _ _ h => nomatch h

/-- What follows a stop does not matter. -/
theorem stop {e : Stop} : KeepsView vw (MonadExcept.throw e >>= f) := fun _ _ _ _ h => nomatch h

theorem bind (hm : KeepsView vw m) (hf : ∀ a, KeepsView vw (f a)) : KeepsView vw (m >>= f) := by
  intro s b t h e
  cases hms : m s with
  | ok r =>
    obtain ⟨a, u⟩ := r
    rw [bind_ok hms] at e
    exact hf a u b t (hm s a u h hms) e
  | error x =>
    have he : (m >>= f) s = .error x := by simp only [Bind.bind, StateT.bind, Except.bind, hms]
    rw [he] at e
    exact nomatch e

theorem get {f : State → M β} (hf : ∀ s, s.engineView = vw → KeepsView vw (f s)) : KeepsView vw (get >>= f) :=
  fun s b t h e => hf s h s b t h e

theorem set {t : State} (h : t.engineView = vw) : KeepsView vw (set t : M PUnit) := fun _ _ _ _ e => by
  obtain ⟨-, rfl⟩ := Prod.mk.inj (Except.ok.inj e)
  exact h

theorem modify {f : State → State} (hf : ∀ s, s.engineView = vw → (f s).engineView = vw) :
    KeepsView vw (modify f : M PUnit) := fun s _ _ h e => by
  obtain ⟨-, rfl⟩ := Prod.mk.inj (Except.ok.inj e)
  exact hf s h

theorem ite {c : Prop} [Decidable c] {a b : M α} (ha : KeepsView vw a) (hb : KeepsView vw b) : KeepsView vw (if c then a else b) := by
  split
  · exact ha
  · exact hb

end KeepsView

section
variable {vw : EngineView} {w : Who} {va : Dword}

theorem engineView_chargeWork (s : State) (o : Dword) (t : Half) (d i n : Nat) : (s.chargeWork o t d i n).engineView = s.engineView := by
  unfold State.chargeWork
  split
  · split <;> rfl
  · rfl

/-- An engine's access counts towards its work only. -/
theorem engineView_noteAccess (h : w.slot = none) (s : State) (acc size : Nat) (p : Place) :
    (s.noteAccess w acc size p).engineView = s.engineView := by
  have hslot : (if acc ≤ 3 then w.slot else none) = none := by rw [h, ite_self]
  unfold State.noteAccess
  rw [hslot]
  cases p with
  | mem pa =>
    dsimp only
    split
    · exact engineView_chargeWork ..
    · rfl
  | ls c o => rfl
  | peer pkg => rfl
  | host => rfl

theorem atPlace_keepsView (h : w.slot = none) {acc size : Nat} {p : Place} : KeepsView vw (atPlace w acc size p) :=
  .bind (.modify fun _ hs => (engineView_noteAccess h ..).trans hs) fun _ => .pure

theorem verdict_keepsView : KeepsView vw (verdict w va) := by
  refine .get fun s hs => ?_
  split
  · exact .pure
  · split
    · exact .throw
    · exact .bind (.set hs) fun _ => .pure
    · exact .pure
    · exact .throw

theorem engineView_noteHash (s : State) (e : Dword) : (s.noteHash e).engineView = s.engineView := by
  unfold State.noteHash
  dsimp only
  split <;> rfl

theorem engineView_tlbInsert (s : State) (d : Nat) (c : Option Nat) (root va pa : Nat) (e : Dword) (x : Bool) :
    (s.tlbInsert d c root va pa e x).engineView = s.engineView := by
  cases c <;> rfl

theorem placeRead_keepsView (h : w.slot = none) {size acc perm : Nat} : KeepsView vw (placeRead w va size acc perm) := by
  unfold placeRead
  split
  · exact atPlace_keepsView h
  · refine .bind verdict_keepsView fun remote => .get fun s hs => ?_
    split
    · exact .throw
    · refine .ite (.ite .stop ?_) ?_
      · split
        · exact atPlace_keepsView h
        · exact .stop
      · dsimp only
        split
        · exact .ite (.ite .throw (atPlace_keepsView h)) .throw
        · refine .ite .stop ?_
          split
          · exact .throw
          · refine .ite .throw (.ite .throw (.bind (.set ?_) fun _ => atPlace_keepsView h))
            rw [engineView_tlbInsert, engineView_noteHash, hs]

theorem askPeer_keepsView {dst type : Nat} {key data : List Byte} {fs : List (Nat × Nat × Nat)} :
    KeepsView vw (askPeer w dst type va key fs data) := by
  refine .get fun s hs => ?_
  dsimp only
  split
  · split
    · exact .pure
    · exact .throw
  · refine .ite .throw (.ite .throw ?_)
    split
    · exact .throw
    · exact .throw

theorem statusOk_keepsView {a : Byte × List Byte} : KeepsView vw (statusOk w a va) := .ite .pure (.ite .throw .throw)

theorem askHost_keepsView {opc len : Nat} {x y : Dword} : KeepsView vw (askHost w opc va len x y) := by
  refine .get fun s hs => ?_
  dsimp only
  split
  · split
    · exact statusOk_keepsView
    · exact .throw
  · split
    · exact .throw
    · exact .ite .stop .throw

theorem readPlace_keepsView {p : Place} {n : Nat} : KeepsView vw (readPlace w va p n) := by
  cases p with
  | ls c o => exact .get fun _ _ => .ite .stop .pure
  | mem pa => exact .get fun _ _ => .pure
  | peer pkg => exact .bind askPeer_keepsView fun _ => .bind statusOk_keepsView fun _ => .pure
  | host => exact .bind askHost_keepsView fun _ => .pure

theorem readMem_keepsView (h : w.slot = none) {n acc : Nat} : KeepsView vw (readMem w va n acc) := by
  have hfrom (fuel : Nat) (va : Dword) (n : Nat) : KeepsView vw (readMemFrom w acc 1 fuel va n) := by
    induction fuel generalizing va n with
    | zero => exact .pure
    | succ fuel ih =>
      exact .ite .pure (.bind (placeRead_keepsView h) fun _ => .bind readPlace_keepsView fun _ => .bind (ih _ _) fun _ => .pure)
  exact hfrom _ va n

theorem readElem_keepsView {m : Cmd} {l : Layout} {idx : List Int} : KeepsView vw (readElem m l idx) :=
  .ite (.bind (readMem_keepsView rfl) fun _ => .pure) .pure

/-- What packs the elements of a window. -/
theorem packWindow_keepsView {m : Cmd} {l : Layout} (ps : List (List Nat)) (bs : List Byte) :
    KeepsView vw (ps.foldlM (m := M) (fun (bs : List Byte) c => do
      let x ← readElem m l (l.idxOf c)
      Pure.pure (bs ++ leBytes l.es x)) bs) := by
  induction ps generalizing bs with
  | nil => exact .pure
  | cons p ps ih => exact .bind (.bind readElem_keepsView fun _ => .pure) ih

end

/-! ### Writing local stores -/

/-- The bytes of a multicast, in every local store of a list. -/
def State.storeAll (s : State) (d off : Nat) (bs : List Byte) (cs : List Nat) : State := cs.foldl (fun s c => s.storeLs d c off bs) s

section
variable {s : State} {d off : Nat} {bs : List Byte}

theorem storeAll_cons (c : Nat) (cs : List Nat) : s.storeAll d off bs (c :: cs) = (s.storeLs d c off bs).storeAll d off bs cs := rfl

theorem storeAll_frame (cs : List Nat) : (s.storeAll d off bs cs).mem = s.mem ∧ (s.storeAll d off bs cs).cmds = s.cmds := by
  induction cs generalizing s with
  | nil => exact ⟨rfl, rfl⟩
  | cons c cs ih =>
    rw [storeAll_cons]
    exact ih

/-- A store to another cluster leaves a local store as it is. -/
theorem readLs_storeLs_apart {c c' : Nat} (h : s.ls.wf = true) (hc : c ≠ c') (hoff : off + bs.length ≤ 2 ^ 22) :
    (s.storeLs d c' off bs).readLs c off bs.length = s.readLs c off bs.length := by
  refine readBytes_writeBytes_apart h ?_
  rw [lsKey, lsKey]
  omega

theorem readLs_storeAll_apart {c : Nat} {cs : List Nat} (h : s.ls.wf = true) (hc : c ∉ cs) (hoff : off + bs.length ≤ 2 ^ 22) :
    (s.storeAll d off bs cs).readLs c off bs.length = s.readLs c off bs.length := by
  induction cs generalizing s with
  | nil => rfl
  | cons c' cs ih =>
    obtain ⟨hne, hrest⟩ := not_or.1 (mt List.mem_cons.2 hc)
    rw [storeAll_cons, ih (Memory.wf_writeBytes _ _ h) hrest, readLs_storeLs_apart h hne hoff]

/-- Each local store of the list holds the bytes. -/
theorem readLs_storeAll {c : Nat} {cs : List Nat} (h : s.ls.wf = true) (hcs : cs.Nodup) (hc : c ∈ cs) (hoff : off + bs.length ≤ 2 ^ 22) :
    (s.storeAll d off bs cs).readLs c off bs.length = bs := by
  induction cs generalizing s with
  | nil => exact nomatch hc
  | cons c' cs ih =>
    obtain ⟨hnot, hnodup⟩ := List.nodup_cons.1 hcs
    rw [storeAll_cons]
    rcases List.mem_cons.1 hc with rfl | hmem
    · rw [readLs_storeAll_apart (Memory.wf_writeBytes _ _ h) hnot hoff]
      exact readBytes_writeBytes_same _ _ h
    · exact ih (Memory.wf_writeBytes _ _ h) hnodup hmem

end

/-! ### The command -/

/-- The clusters that a mask names, and the command with an arrival for each. -/
def Cmd.targets (m : Cmd) : List Nat := ((List.range 40).filter fun c => m.w.mask.testBit c).map (m.die * 40 + ·)
def Cmd.withCounts (m : Cmd) (cs : List (Nat × Nat)) : Cmd := { m with counts := cs }
def Cmd.cast (m : Cmd) (bs : List Byte) : Cmd := m.withCounts (m.targets.map fun c => (c, bs.length))

theorem made_withCounts_n (m : Cmd) (cs : List (Nat × Nat)) (ws : List (Dword × List Byte)) (n : Nat) :
    ((m.withCounts cs).made ws n).n = m.n := rfl

theorem targets_nodup (m : Cmd) : m.targets.Nodup :=
  (List.nodup_range.filter _).map fun _ _ h => Nat.add_left_cancel h

theorem mem_targets {m : Cmd} {c : Nat} (hc : c < 40) (hm : m.w.mask.testBit c = true) : m.die * 40 + c ∈ m.targets :=
  List.mem_map.2 ⟨c, List.mem_filter.2 ⟨List.mem_range.2 hc, hm⟩, rfl⟩

/-- The start of MCAST. -/
def startMcast (m : Cmd) : Run := do
  let l := m.rec_ 0
  let mut bs : List Byte := []
  for c in l.points do
    let x ← readElem m l (l.idxOf c)
    bs := bs ++ leBytes l.es x
  for c in m.targets do
    modify (·.storeLs m.die c m.w.doff bs)
  madeRun (m.cast bs) [] bs.length

section
variable {s u : State} {m : Cmd} {bs : List Byte}

theorem startMcast_ok (hr : (m.rec_ 0).points.foldlM (m := M) (fun (bs : List Byte) c => do
      let x ← readElem m (m.rec_ 0) ((m.rec_ 0).idxOf c)
      pure (bs ++ leBytes (m.rec_ 0).es x)) [] s = .ok (bs, u)) :
    startMcast m s = .ok (none, (u.storeAll m.die m.w.doff bs m.targets).setCmd ((m.cast bs).made [] bs.length)) := by
  have hloop := forIn_eq_foldlM (fun c => readElem m (m.rec_ 0) ((m.rec_ 0).idxOf c)) (fun bs c x => bs ++ leBytes (m.rec_ 0).es x)
    (m.rec_ 0).points []
  have hstore (cs : List Nat) (v : State) : (forIn cs PUnit.unit fun c _ => do
      modify (·.storeLs m.die c m.w.doff bs)
      pure (ForInStep.yield PUnit.unit) : M PUnit) v = .ok (⟨⟩, v.storeAll m.die m.w.doff bs cs) := by
    induction cs generalizing v with
    | nil => rfl
    | cons c cs ih => rw [List.forIn_cons, storeAll_cons]; exact ih _
  exact (bind_ok ((congrFun hloop s).trans hr)).trans ((bind_ok (hstore ..)).trans (madeRun_ok ..))

theorem exec_mcast_eq (s : State) : exec .mcast s = .next (runTile 0x13 startMcast postNone atOnce s) := rfl

theorem exec_mcast (h : s.Starts 0x13 m) (hr : (m.rec_ 0).points.foldlM (m := M) (fun (bs : List Byte) c => do
      let x ← readElem m (m.rec_ 0) ((m.rec_ 0).idxOf c)
      pure (bs ++ leBytes (m.rec_ 0).es x)) [] s = .ok (bs, u)) (hwf : u.ls.wf = true) (hoff : m.w.doff + bs.length ≤ 2 ^ 22) :
    ∃ t, exec .mcast s = .next t ∧ t.mem = u.mem ∧ ∀ c, c < 40 → m.w.mask.testBit c = true →
      t.readLs (m.die * 40 + c) m.w.doff bs.length = bs := by
  obtain ⟨hmem, hcmds⟩ := storeAll_frame (s := u) (d := m.die) (off := m.w.doff) (bs := bs) m.targets
  have hu : (u.storeAll m.die m.w.doff bs m.targets).cmds = s.cmds :=
    hcmds.trans (congrArg EngineView.cmds (packWindow_keepsView _ _ _ _ _ rfl hr))
  obtain ⟨hrun, -⟩ := over_of_start (post := postNone) h (startMcast_ok hr) (made_withCounts_n ..) rfl hu (after := atOnce) rfl
  have hsame := sameMemory_over (u.storeAll m.die m.w.doff bs m.targets) ((m.cast bs).made [] bs.length) m.n
  refine ⟨_, exec_mcast_eq s, ?_, fun c hc hm => ?_⟩
  · rw [hrun, hsame.mem, hmem]
  · rw [hrun, State.readLs, hsame.ls]
    exact readLs_storeAll hwf (targets_nodup m) (mem_targets hc hm) hoff

end
end Sys2Proof.Machine
end

section
/-! The copy engines' commands as they go on (R426, R445, R451), and SNAP page by page (R454). -/

namespace Sys2Proof.Machine

section
variable {s t u : State} {m x y : Cmd} {va : Dword} {bs : List Byte} {off : Nat} {rest : List (Dword × List Byte)} {op : Nat}

/-! ### A write to the own window -/

/-- An engine's access to its cluster's own window finds its place and counts nothing. -/
theorem placeWrite_engine (hr : regionOf va = .own off) {acc : Nat} (ha : 3 < acc) (size : Nat) :
    placeWrite m.who va size acc s = .ok (.ls m.cluster off, s) := by
  have hnote : s.noteAccess m.who acc size (.ls m.cluster off) = s := by
    unfold State.noteAccess
    rw [if_neg (Nat.not_le.2 ha)]
  unfold placeWrite
  rw [show m.who.cluster = m.cluster from rfl, lsPlace_own hr]
  show Except.ok (Place.ls m.cluster off, s.noteAccess m.who acc size (.ls m.cluster off)) = _
  rw [hnote]

theorem writeMem_engine (hr : regionOf va = .own off) (hne : bs ≠ []) (hpage : va.toNat % 4096 + bs.length ≤ 4096) :
    writeMem m.who va bs 5 s = .ok ([], s.storeLs m.who.die m.cluster off bs) := by
  have hlen : chunkLen va bs.length = bs.length := by rw [chunkLen]; omega
  have hplace : writePlace m.who va (.ls m.cluster off) bs s = .ok ([], s.storeLs m.who.die m.cluster off bs) := rfl
  rw [writeMem, writeMemFrom, if_neg hne, hlen, List.take_length, List.drop_length]
  refine (bind_ok (placeWrite_engine hr (by decide) _)).trans ((bind_ok hplace).trans ?_)
  rw [writeMemFrom, if_pos rfl]
  rfl

/-- What a plain write to the own window leaves. -/
theorem postPlain_own (hr : regionOf va = .own off) (hne : bs ≠ []) (hpage : va.toNat % 4096 + bs.length ≤ 4096) :
    postPlain m va bs s = .ok ({ m with pending := m.pending ++ [], bytes := m.bytes + bs.length }, s.storeLs m.who.die m.cluster off bs) :=
  (bind_ok (writeMem_engine hr hne hpage)).trans rfl

/-- One step of REDST on an element of the own window. -/
theorem postHome_own (hr : regionOf va = .own off) (f : Nat → Nat) (peer : Option Nat) :
    postHome 5 m va bs f peer s = .ok ({ m with bytes := m.bytes + bs.length },
      s.storeLs m.who.die m.cluster off (leBytes bs.length (f (leNat (s.readLs m.cluster off bs.length))))) :=
  (bind_ok (placeWrite_engine hr (by decide) _)).trans ((get_bind ..).trans rfl)

/-- A command whose next write goes to the own window makes it, and has the others still to make. -/
theorem runTile_post_own {start : Cmd → Run} {post : Cmd → Dword → List Byte → M Cmd} {after : Cmd → M Bool} {out : List Byte}
    (h : s.Runs op m) (hw : m.todo = (va, bs) :: rest) (hp : post m va bs s = .ok (y, s.storeLs m.who.die m.cluster off out))
    (hn : y.n = m.n) :
    let t := runTile op start post after s
    t.ls = s.ls.writeBytes (lsKey m.cluster off) out ∧ t.mem = s.mem ∧ (t.cmdOf m.n).map (·.todo) = some rest := by
  have hrun := h.runTile_post (start := start) (after := after) hw hp
  have hset : ((s.storeLs m.who.die m.cluster off out).setCmd { y with todo := rest }).cmdOf y.n = some { y with todo := rest } :=
    cmdOf_setCmd (y := { y with todo := rest }) (hn ▸ h.cmdOf)
  dsimp only
  rw [hrun]
  exact ⟨rfl, rfl, by rw [← hn]; exact congrArg _ hset⟩

theorem exec_post_own {i : Instr} (h : s.Runs op m) (hw : m.todo = (va, bs) :: rest) (hr : regionOf va = .own off) (hne : bs ≠ [])
    (hpage : va.toNat % 4096 + bs.length ≤ 4096)
    (hi : (i, op) ∈ [(Instr.copy, 0x10), (.gath, 0x11), (.scat, 0x12), (.fill, 0x15), (.accrd, 8)]) :
    ∃ t, exec i s = .next t ∧ t.ls = s.ls.writeBytes (lsKey m.cluster off) bs ∧ t.mem = s.mem ∧
      (t.cmdOf m.n).map (·.todo) = some rest := by
  have hp := postPlain_own (m := m) (s := s) hr hne hpage
  simp only [List.mem_cons, Prod.mk.injEq, List.not_mem_nil, or_false] at hi
  obtain ⟨rfl, rfl⟩ | ⟨rfl, rfl⟩ | ⟨rfl, rfl⟩ | ⟨rfl, rfl⟩ | ⟨rfl, rfl⟩ := hi
  · exact ⟨_, rfl, runTile_post_own h hw hp rfl⟩
  · exact ⟨_, rfl, runTile_post_own h hw hp rfl⟩
  · exact ⟨_, rfl, runTile_post_own h hw hp rfl⟩
  · exact ⟨_, rfl, runTile_post_own h hw hp rfl⟩
  · exact ⟨_, rfl, runTile_post_own h hw hp rfl⟩

theorem exec_redst_post (h : s.Runs 0x14 m) (hw : m.todo = (va, bs) :: rest) (hr : regionOf va = .own off) :
    ∃ t, exec .redst s = .next t ∧ t.mem = s.mem ∧
      t.ls = s.ls.writeBytes (lsKey m.cluster off) (leBytes bs.length
        (redstOp (m.rec_ 0).fmt (m.w.mode % 4) (leNat (s.readLs m.cluster off bs.length)) (leNat bs))) ∧
      (t.cmdOf m.n).map (·.todo) = some rest := by
  obtain ⟨hls, hmem, htodo⟩ := runTile_post_own (start := startRedst) (after := atOnce)
    (post := fun m va bs => postHome 5 m va bs (fun old => redstOp (m.rec_ 0).fmt (m.w.mode % 4) old (leNat bs))
      (redstAmo (m.rec_ 0).fmt (m.w.mode % 4))) h hw (postHome_own hr _ _) rfl
  exact ⟨_, rfl, hmem, hls, htodo⟩

/-! ### SNAP (R454) -/

/-- SNAP as a step of it stands: a new one is as its start leaves it. -/
def Cmd.begun (m : Cmd) : Cmd := if m.started then m else m.made [] 0
def State.begun (s : State) (m : Cmd) : State := if m.started then s else s.setCmd (m.made [] 0)

theorem afterSnap_page {x : Cmd} (hp : x.part < x.w.w5.toNat)
    (hs : snapPage x (dw (x.w.a12 + x.part * 65536)) (dw (x.w.a34 + x.part * 65536)) s = .ok (none, t)) :
    afterSnap x s = .ok (false, t.setCmd { x with part := x.part + 1, count := x.count + 1 }) := by
  unfold afterSnap
  rw [if_neg hp.ne]
  exact (bind_ok hs).trans rfl

theorem afterSnap_fault {x : Cmd} {f : Byte} (hp : x.part < x.w.w5.toNat)
    (hs : snapPage x (dw (x.w.a12 + x.part * 65536)) (dw (x.w.a34 + x.part * 65536)) s = .ok (some f, t)) :
    afterSnap x s = .ok (false, t.endCmd x f 0) := by
  unfold afterSnap
  rw [if_neg hp.ne]
  exact (bind_ok hs).trans rfl

theorem exec_snap_page {f : Option Byte} (h : s.TileRuns 0x20 (fun m => madeRun m [] 0) m u) (hx : u.cmdOf m.n = some x) (hw : x.todo = [])
    (hn : x.n = m.n) (hdone : x.done = none) (hp : x.part < x.w.w5.toNat)
    (hs : snapPage x (dw (x.w.a12 + x.part * 65536)) (dw (x.w.a34 + x.part * 65536)) u = .ok (f, t)) (ht : t.cmds = u.cmds) :
    ∃ v, exec .snap s = .next v ∧ v.frames = t.frames ∧ v.mem = t.mem ∧
      (f = none → (v.cmdOf m.n).map (fun y => (y.done, y.part, y.count)) = some (none, x.part + 1, x.count + 1)) ∧
      (∀ e, f = some e → (v.cmdOf m.n).map (fun y => (y.done, y.part, y.count)) = some (some (e, 0), x.part, x.count)) := by
  have htx : t.cmdOf x.n = some x := (cmdOf_of_cmds ht _).trans (hn ▸ hx)
  cases f with
  | none =>
    have hrun := h.runTile_eq (post := postNone) hx hw (afterSnap_page hp hs) (y := x) nofun
    have hset : (t.setCmd { x with part := x.part + 1, count := x.count + 1 }).cmdOf x.n = some _ :=
      cmdOf_setCmd (y := { x with part := x.part + 1, count := x.count + 1 }) htx
    refine ⟨_, congrArg Host.Outcome.next hrun, rfl, rfl, fun _ => ?_, nofun⟩
    rw [← hdone, ← hn]
    exact congrArg _ hset
  | some e =>
    have hrun := h.runTile_eq (post := postNone) hx hw (afterSnap_fault hp hs) (y := x) nofun
    have hend : (t.endCmd x e 0).cmdOf x.n = some (x.ended e 0) := cmdOf_endCmd htx
    have hmem := (sameMemory_endCmd t x e 0).mem
    refine ⟨_, congrArg Host.Outcome.next hrun, endCmd_frames t x e 0, hmem, nofun, fun e' he => ?_⟩
    obtain rfl := Option.some.inj he
    rw [← hn]
    exact congrArg _ hend

theorem exec_snap_over (h : s.Runs 0x20 m) (hw : m.todo = []) (hp : m.part = m.w.w5.toNat) :
    ∃ v, exec .snap s = .next v ∧ v.Over m m.count ∧ SameMemory s v := by
  have ha : afterSnap m s = .ok (true, s) := by
    unfold afterSnap
    rw [if_pos hp]
    rfl
  have hrun := (h.tileRuns (start := fun m => madeRun m [] 0)).runTile_eq (post := postNone) h.cmdOf hw ha fun _ => h.cmdOf
  refine ⟨_, congrArg Host.Outcome.next hrun, ?_, sameMemory_closed s m true m.n⟩
  exact congrArg _ (cmdOf_closed (over_ := true) h.cmdOf)

end
end Sys2Proof.Machine
end

section
/-! COPY into a ring (R251, R445), and the copy engines' commands together. -/

namespace Sys2Proof.Machine

theorem ringOf_modRing (s : State) (cl n : Nat) (f : Ring → Ring) : (s.modRing cl n f).ringOf cl n = f (s.ringOf cl n) := by
  simp [State.modRing, State.ringOf, Vector.get_eq_getElem]

/-- A loop over steps whose results are dropped. -/
theorem forIn_eq_forM {α γ : Type} (k : α → M γ) (l : List α) :
    (forIn l PUnit.unit fun a _ => (do let _ ← k a; pure (ForInStep.yield PUnit.unit)) : M PUnit) =
      l.forM fun a => (do let _ ← k a; pure PUnit.unit) := by
  induction l with
  | nil => rfl
  | cons a l ih => simp only [List.forIn_cons, List.forM, bind_assoc, pure_bind, ih]

section
variable {s u p : State} {m x : Cmd} {slot : Nat} {ws : List (Dword × List Byte)}

theorem sameMemory_ring (s : State) (cl r n : Nat) (f : Ring → Ring) (y z : Cmd) :
    SameMemory s ((((s.modRing cl r f).setCmd y).closed z false).afterTile n) := by
  obtain ⟨hmem, hls, hfe, hacc⟩ := sameMemory_closed ((s.modRing cl r f).setCmd y) z false n
  exact ⟨hmem, hls, hfe, hacc⟩

/-- TORING reserves the slot at TAIL. -/
theorem afterCopy_reserve (ht : x.w.toring = true) (hp : x.part ≠ x.w.w5.toNat) (hr : x.resv = [])
    (hf : (u.ringOf x.cluster x.w.ringB).free ≠ 0) :
    afterCopy x u = .ok (false, (u.modRing x.cluster x.w.ringB Ring.reserve).setCmd
      { x with resv := [(u.ringOf x.cluster x.w.ringB).tail] }) := by
  have hgo : (!x.w.toring || x.part == x.w.w5.toNat) = false := by rw [ht, beq_eq_false_iff_ne.2 hp]; rfl
  unfold afterCopy
  rw [hgo, hr]
  refine (get_bind ..).trans ?_
  dsimp only
  rw [if_neg hf]
  rfl

/-- TORING writes a part into the slot that it has reserved, which then counts as written. -/
theorem afterCopy_part {rest : List Nat} (ht : x.w.toring = true) (hp : x.part ≠ x.w.w5.toNat) (hr : x.resv = slot :: rest)
    (hpart : ringPart x x.part slot s = .ok (ws, p)) (hw : (ws.forM fun a => (do let _ ← writeMem x.who a.1 a.2 5; pure PUnit.unit)) p = .ok ((), u)) :
    afterCopy x s = .ok (false, (u.modRing x.cluster x.w.ringB fun r => r.written slot).setCmd
      { x with resv := [], part := x.part + 1, bytes := x.bytes + (ws.map (·.2.length)).sum }) := by
  have hgo : (!x.w.toring || x.part == x.w.w5.toNat) = false := by rw [ht, beq_eq_false_iff_ne.2 hp]; rfl
  have hloop := (congrFun (forIn_eq_forM (fun a : Dword × List Byte => writeMem x.who a.1 a.2 5) ws) p).trans hw
  unfold afterCopy
  rw [hgo, hr]
  exact (get_bind ..).trans ((bind_ok hpart).trans ((bind_ok hloop).trans rfl))

theorem exec_copy_reserve (h : s.Starts 0x10 m) (ht : m.w.toring = true) (hp : m.part ≠ m.w.w5.toNat) (hr : m.resv = [])
    (hf : (s.ringOf m.cluster m.w.ringB).free ≠ 0) :
    ∃ v, exec .copy s = .next v ∧ v.ringOf m.cluster m.w.ringB = (s.ringOf m.cluster m.w.ringB).reserve ∧ SameMemory s v ∧
      (v.cmdOf m.n).map (·.resv) = some [(s.ringOf m.cluster m.w.ringB).tail] := by
  have hs : startCopyCmd m s = .ok (none, s.setCmd (m.made [] 0)) := by
    unfold startCopyCmd
    rw [ht]
    rfl
  have hx : (s.setCmd (m.made [] 0)).cmdOf m.n = some (m.made [] 0) := cmdOf_setCmd (y := m.made [] 0) h.cmdOf
  have hstart : SameMemory s (s.setCmd (m.made [] 0)) := ⟨rfl, rfl, rfl, rfl⟩
  have ha := afterCopy_reserve (x := m.made [] 0) (u := s.setCmd (m.made [] 0)) ht hp hr hf
  have hrun := (h.tileRuns hs).runTile_eq (post := postPlain) hx rfl ha (y := m) nofun
  refine ⟨_, congrArg Host.Outcome.next hrun, ?_, hstart.trans (sameMemory_ring ..), ?_⟩
  · exact ringOf_modRing (s.setCmd (m.made [] 0)) m.cluster m.w.ringB Ring.reserve
  · exact congrArg _ (cmdOf_setCmd (s := (s.setCmd (m.made [] 0)).modRing m.cluster m.w.ringB Ring.reserve)
      (y := { m.made [] 0 with resv := [(s.ringOf m.cluster m.w.ringB).tail] }) hx)

theorem exec_copy_part (h : s.Runs 0x10 m) (hw : m.todo = []) (ht : m.w.toring = true) (hp : m.part ≠ m.w.w5.toNat) (hr : m.resv = [slot])
    (hpart : ringPart m m.part slot s = .ok (ws, p)) (hws : (ws.forM fun a => (do let _ ← writeMem m.who a.1 a.2 5; pure PUnit.unit)) p = .ok ((), u))
    (hu : u.cmds = s.cmds) :
    ∃ v, exec .copy s = .next v ∧ v.mem = u.mem ∧ v.ls = u.ls ∧
      v.ringOf m.cluster m.w.ringB = (u.ringOf m.cluster m.w.ringB).written slot ∧
      (v.cmdOf m.n).map (fun x => (x.part, x.resv)) = some (m.part + 1, []) := by
  have hrun := (h.tileRuns (start := startCopyCmd)).runTile_eq (post := postPlain) h.cmdOf hw
    (afterCopy_part ht hp hr hpart hws) (y := m) nofun
  obtain ⟨hmem, hls, -, -⟩ := sameMemory_ring u m.cluster m.w.ringB m.n (fun r => r.written slot)
    { m with resv := [], part := m.part + 1, bytes := m.bytes + (ws.map (·.2.length)).sum } m
  refine ⟨_, congrArg Host.Outcome.next hrun, hmem, hls, ?_, ?_⟩
  · exact ringOf_modRing u m.cluster m.w.ringB fun r => r.written slot
  · exact congrArg _ (cmdOf_setCmd (s := u.modRing m.cluster m.w.ringB fun r => r.written slot)
      (y := { m with resv := [], part := m.part + 1, bytes := m.bytes + (ws.map (·.2.length)).sum })
      ((cmdOf_of_cmds hu _).trans h.cmdOf))

end

/-- The start of FILL. -/
def startFill (m : Cmd) : Run :=
  let l := m.rec_ 0
  madeRun m (joinWrites (l.points.filterMap fun c =>
    if l.inBounds (l.idxOf c) then some (l.addr (l.idxOf c), leBytes l.es l.fillPattern) else none)) 0

/-- Settles O43: what the start of each command leaves, its writes, and the commands that go on by parts. -/
theorem moveCommands : Obligations.MoveCommands := by
  intro s m op i held a b
  refine ⟨fun h => ⟨?copy, ?gath, ?scat, ?fill, ?hashpg, ?mcast, ?redst, ?barm, ?ckpt⟩,
    fun va bs rest off hwho hop hstarted hacc hdone hlease hw hne hpage hr => ⟨fun hi => ?plain, fun h14 => ?redstPost⟩, ⟨?snap, ?map⟩,
    ?reserve, ?part⟩
  case copy =>
    rintro ws u rfl ht hr hu
    exact ⟨_, rfl, made_of_start h (startCopyCmd_window ht hr) hu (by simp [afterCopy, Cmd.made, ht]; rfl)⟩
  case gath =>
    rintro ws u rfl ids hb hr hu
    exact ⟨_, rfl, made_of_start h (startIndexed_gath hb hr) hu rfl⟩
  case scat =>
    rintro ws u rfl ids hb hr hu
    exact ⟨_, rfl, made_of_start h (startIndexed_scat hb hr) hu rfl⟩
  case fill =>
    rintro rfl
    obtain ⟨hmade, hmem⟩ := made_of_start (post := postPlain) (after := atOnce) (start := startFill) h (madeRun_ok ..) rfl rfl
    exact ⟨_, rfl, hmem, hmade⟩
  case hashpg =>
    rintro rfl
    exact exec_hashpg h
  case mcast =>
    rintro bs u rfl hr hwf hoff
    exact exec_mcast h hr hwf hoff
  case redst =>
    rintro ra rb ws u rfl hrecs hr hu
    exact ⟨_, rfl, made_of_start h (startRedst_one hrecs hr) hu rfl⟩
  case barm =>
    rintro rfl
    exact exec_barm h
  case ckpt =>
    rintro rfl hd ht hdirs hc
    exact exec_ckpt h hd ht hdirs hc
  case plain => exact exec_post_own ⟨hwho, hop, hstarted, hacc, hdone, hlease⟩ hw hr hne hpage hi
  case redstPost =>
    obtain rfl := h14
    exact exec_redst_post ⟨hwho, hop, hstarted, hacc, hdone, hlease⟩ hw hr
  case snap =>
    rintro t f (h | ⟨hwho, hop, hstarted, hacc, hdone, hlease, hw⟩) hp hs ht
    · obtain ⟨-, -, -, -, hstarted, -⟩ := id h
      rw [hstarted] at hs ht
      have hx : (s.setCmd (m.made [] 0)).cmdOf m.n = some (m.made [] 0) := cmdOf_setCmd (y := m.made [] 0) h.cmdOf
      rw [hstarted]
      exact exec_snap_page (h.tileRuns (madeRun_ok ..)) hx rfl rfl h.done hp hs ht
    · rw [hstarted] at hs ht
      have h : s.Runs 0x20 m := ⟨hwho, hop, hstarted, hacc, hdone, hlease⟩
      rw [hstarted]
      exact exec_snap_page h.tileRuns h.cmdOf hw rfl hdone hp hs ht
  case map =>
    rintro ⟨hwho, hop, hstarted, hacc, hdone, hlease, hw⟩ hp
    exact exec_snap_over ⟨hwho, hop, hstarted, hacc, hdone, hlease⟩ hw hp
  case reserve => exact fun h ht hp hr hf => exec_copy_reserve h ht hp hr hf
  case part =>
    exact fun slot ws p u hwho hop ht hstarted hacc hdone hlease hw hp hr hpart hws hu =>
      exec_copy_part ⟨hwho, hop, hstarted, hacc, hdone, hlease⟩ hw ht hp hr hpart hws hu

end Sys2Proof.Machine
end

section
/-! The tensor engine's commands that end in their starting step (R435–R439, R443, R444). -/

namespace Sys2Proof.Machine

/-! ### Cells of a slot (R435) -/

/-- The writes of the cells of a slot, each an FP32 pattern. -/
def cellWrites (rows cols : Nat) (v : Nat → Nat → Nat) : List (Nat × List Byte) :=
  (List.range rows).flatMap fun r => (List.range cols).map fun c => (r * 512 + c * 4, leBytes 4 (v r c))

section
variable {s t u : State} {m : Cmd} {cl i rows cols r c : Nat} {v : Nat → Nat → Nat}

theorem mem_cellWrites {w : Nat × List Byte} :
    w ∈ cellWrites rows cols v ↔ ∃ r < rows, ∃ c < cols, (r * 512 + c * 4, leBytes 4 (v r c)) = w := by
  simp only [cellWrites, List.mem_flatMap, List.mem_range, List.mem_map]

/-- A cell reads what was written to it, as no other cell shares a byte with it. -/
theorem readAcc_cellWrites (h : s.acc.wf = true) (hcols : cols ≤ 128) (hr : r < rows) (hc : c < cols) :
    (s.writeAccs cl i (cellWrites rows cols v)).readAcc cl i (r * 512 + c * 4) 4 = v r c % 2 ^ 32 := by
  have hmem : (r * 512 + c * 4, leBytes 4 (v r c)) ∈ cellWrites rows cols v := mem_cellWrites.2 ⟨r, hr, c, hc, rfl⟩
  refine (accHolds_of_mem (cl := cl) (i := i) h hmem fun a ha => ?_).readAcc_leBytes
  obtain ⟨r', hr', c', hc', rfl⟩ := mem_cellWrites.1 ha
  by_cases he : r' = r ∧ c' = c
  · obtain ⟨rfl, rfl⟩ := he
    exact .inl rfl
  · refine .inr ?_
    simp only [Apart, Laws.length_leBytes]
    omega

/-- One cell takes a value. -/
def State.writeCell (t : State) (m : Cmd) (v : Nat → Nat → Nat) (r c : Nat) : State :=
  t.writeAcc m.cluster m.w.acc (r * 512 + c * 4) (leBytes 4 (v r c))

/-- Cell by cell, row by row. -/
theorem writeAccs_cellWrites (s : State) (m : Cmd) (rows cols : Nat) (v : Nat → Nat → Nat) :
    s.writeAccs m.cluster m.w.acc (cellWrites rows cols v) =
      (List.range rows).foldl (fun t r => (List.range cols).foldl (fun t c => t.writeCell m v r c) t) s := by
  rw [cellWrites, State.writeAccs, List.foldl_flatMap]
  simp only [List.foldl_map]
  rfl

theorem cmds_writeAccs (s : State) (cl i : Nat) (ws : List (Nat × List Byte)) : (s.writeAccs cl i ws).cmds = s.cmds := by
  rw [writeAccs_eq]

theorem readAcc_of_acc (h : t.acc = s.acc) (cl i off n : Nat) : t.readAcc cl i off n = s.readAcc cl i off n := by
  rw [State.readAcc, State.readAcc, h]

/-- A loop that only changes the state. -/
theorem forIn_modify {α : Type} {f : α → PUnit → M (ForInStep PUnit)} {g : α → State → State}
    (hf : ∀ a s, f a ⟨⟩ s = .ok (.yield ⟨⟩, g a s)) (l : List α) (s : State) :
    forIn l PUnit.unit f s = .ok (⟨⟩, l.foldl (fun s a => g a s) s) := by
  induction l generalizing s with
  | nil => rfl
  | cons a l ih =>
    rw [List.forIn_cons]
    exact (bind_ok (hf a s)).trans (ih _)

/-- A command that leaves new values in its cells, and is over. -/
theorem exec_cells {op n : Nat} {start : Cmd → Run} {post : Cmd → Dword → List Byte → M Cmd} (h : s.Starts op m) (hwf : s.acc.wf = true)
    (hcols : m.w.cols ≤ 128)
    (hs : start m s = .ok (none, (s.writeAccs m.cluster m.w.acc (cellWrites m.w.rows m.w.cols v)).setCmd (m.made [] n))) :
    (runTile op start post atOnce s).Over m n ∧ ∀ r c, r < m.w.rows → c < m.w.cols →
      (runTile op start post atOnce s).readAcc m.cluster m.w.acc (r * 512 + c * 4) 4 = v r c % 2 ^ 32 := by
  obtain ⟨hmade, hmem⟩ := made_of_start (post := post) h hs (cmds_writeAccs ..) (after := atOnce) rfl
  exact ⟨hmade, fun r c hr hc => (readAcc_of_acc hmem.acc ..).trans (readAcc_cellWrites hwf hcols hr hc)⟩

/-! ### MMA, MMACB and MMAF8 (R436) -/

/-- The cell that MMA leaves. -/
def State.mmaCell (s : State) (m : Cmd) (r c : Nat) : Nat :=
  (List.range m.groups).foldl (fun y g => Fp.f32.add y (s.mmaSum m r c g)) (s.readAcc m.cluster m.w.acc (r * 512 + c * 4) 4)

theorem startMma_fold (hs : m.w.splitk = false) (hc : s.contextOk m = true) (ht : s.tilesThere m = true) :
    startMma m s =
      .ok (none, (s.writeAccs m.cluster m.w.acc (cellWrites m.w.rows m.w.cols (s.mmaCell m))).setCmd (m.made [] m.groups)) := by
  refine (get_bind ..).trans ?_
  rw [hc, ht, hs]
  refine (bind_ok (forIn_modify (g := fun c t => t.writeCell m (s.mmaCell m) c.1 c.2) (fun _ _ => rfl) _ s)).trans ((madeRun_ok ..).trans ?_)
  rw [writeAccs_cellWrites, List.foldl_flatMap]
  simp only [List.foldl_map]

theorem startMma_split (hs : m.w.splitk = true) (hc : s.contextOk m = true) (ht : s.tilesThere m = true) :
    startMma m s = .ok (none, s.setCmd (m.made ((List.range m.groups).flatMap fun g =>
      (List.range m.w.rows).flatMap fun r => (List.range m.w.cols).map fun c =>
        (BitVec.ofNat 64 (m.w.dst + r * 512 + c * 4),
          leBytes 4 (s.mmaSum m r c g) ++ leBytes 4 (m.w.w1.toNat / 32 - m.w.w2.toNat + g))) 0)) := by
  refine (get_bind ..).trans ?_
  rw [hc, ht, hs]
  refine (madeRun_ok ..).trans ?_
  simp only [List.map_flatMap, List.map_map]
  rfl

theorem exec_mma_eq {i : Instr} {op : Nat} (hi : (i, op) ∈ [(Instr.mma, 1), (.mmacb, 2), (.mmaf8, 3)]) (s : State) :
    exec i s = .next (runTile op startMma postRed atOnce s) := by
  simp only [List.mem_cons, Prod.mk.injEq, List.not_mem_nil, or_false] at hi
  obtain ⟨rfl, rfl⟩ | ⟨rfl, rfl⟩ | ⟨rfl, rfl⟩ := hi
  · rfl
  · rfl
  · rfl

/-! ### CELLP and CELL (R439) -/

/-- The bytes of an element of a tile, and an element as an FP32 pattern: CELLP's tiles are FP32, CELL's BF16. -/
def Cmd.cellSize (m : Cmd) : Nat := if m.op = 4 then 4 else 2
def Cmd.cellWide (m : Cmd) (y : Nat) : Nat := if m.cellSize = 4 then y else y * 65536

theorem cellWide_eq (m : Cmd) (y : Nat) : m.cellWide y = if m.op = 4 then y else y * 65536 := by
  unfold Cmd.cellWide Cmd.cellSize
  split <;> simp_all

/-- The cell that CELL leaves. -/
def State.cellCell (s : State) (m : Cmd) (r c : Nat) : Nat :=
  (List.range m.w.kext).foldl (fun y k => cellStep (s.core m.core).fmt y
    (m.cellWide (s.tileElem m.cluster m.w.ringA (k / 32) m.cellSize (r * 32 + k % 32)))
    (m.cellWide (s.tileElem m.cluster m.w.ringB (k / 32) m.cellSize (k % 32 * 128 + c)))) (s.readAcc m.cluster m.w.acc (r * 512 + c * 4) 4)

theorem startCell_ok (hn : rd (s.core m.core).fmt 2 1 ≠ 0) (ht : s.tilesThere m = true) :
    startCell m s =
      .ok (none, (s.writeAccs m.cluster m.w.acc (cellWrites m.w.rows m.w.cols (s.cellCell m))).setCmd (m.made [] m.w.kext)) := by
  refine (get_bind ..).trans ?_
  dsimp only
  rw [if_neg hn, ht, writeAccs_cellWrites]
  refine (bind_ok (forIn_modify (g := fun r t => (List.range m.w.cols).foldl (fun t c => t.writeCell m (s.cellCell m) r c) t)
    (fun r t => (bind_ok (forIn_modify (g := fun c t => t.writeCell m (s.cellCell m) r c) (fun _ _ => rfl) _ t)).trans rfl) _ s)).trans ?_
  exact madeRun_ok ..

theorem exec_cell_eq {i : Instr} {op : Nat} (hi : (i, op) ∈ [(Instr.cellp, 4), (.cell, 5)]) (s : State) :
    exec i s = .next (runTile op startCell postNone atOnce s) := by
  simp only [List.mem_cons, Prod.mk.injEq, List.not_mem_nil, or_false] at hi
  obtain ⟨rfl, rfl⟩ | ⟨rfl, rfl⟩ := hi
  · rfl
  · rfl

/-! ### ACCRD (R443) -/

/-- The writes of ACCRD, which reads the slot in its starting step. -/
def State.accrdWrites (s : State) (m : Cmd) : List (Dword × List Byte) :=
  let y := m.rec_ 0
  joinWrites (y.points.filterMap fun c => if y.inBounds (y.idxOf c) then some (y.addr (y.idxOf c), leBytes y.es
    (if m.w.modeBit 3 then s.readAcc m.cluster m.w.acc (c.getD 0 0) 1
    else convert 9 y.fmt (rmOf m) (m.w.modeBit 2) (s.readAcc m.cluster m.w.acc (c.getD 1 0 * 512 + c.getD 0 0 * 4) 4))) else none)

theorem startAccrd_ok (m : Cmd) (s : State) : startAccrd m s = .ok (none, s.setCmd (m.made (s.accrdWrites m) 0)) :=
  (get_bind ..).trans (madeRun_ok ..)

theorem exec_accrd (h : s.Starts 8 m) : ∃ t, exec .accrd s = .next t ∧ t.acc = s.acc ∧ t.Made m (s.accrdWrites m) 0 := by
  obtain ⟨hmade, hmem⟩ := made_of_start (post := postPlain) h (startAccrd_ok m s) rfl (after := atOnce) rfl
  exact ⟨_, rfl, hmem.acc, hmade⟩

/-! ### ACCLR (R443) -/

/-- A byte inside a replaced range is the image's. -/
theorem readByte_replaceMem_within {a img : Memory} {lo n k : Nat} (hm : a.wf = true) (hi : img.wf = true)
    (hn : ∀ x ∈ img, x.1 < n) (hk : k < n) : (replaceMem a lo n img).readByte (lo + k) = img.readByte k := by
  have hw := wf_replaceMem lo n hm hi hn
  simp only [Memory.wf, Bool.and_eq_true] at hi hw
  have hfind : Table.find? (replaceMem a lo n img) (lo + k) = Table.find? img k := by
    refine Option.ext fun v => ?_
    rw [Table.find?_eq_some_iff hw.1, Table.find?_eq_some_iff hi.1]
    have hlow : ¬ lo + k < lo := Nat.not_lt.2 (Nat.le_add_right lo k)
    have hhigh : ¬ lo + n ≤ lo + k := by omega
    simp only [replaceMem, List.mem_append, List.mem_filter, decide_eq_true_eq, hlow, hhigh, and_false, false_or, or_false, List.mem_map,
      Prod.mk.injEq]
    constructor
    · rintro ⟨⟨j, w⟩, hj, hkey, rfl⟩
      obtain rfl := Nat.add_left_cancel hkey
      exact hj
    · exact fun hv => ⟨_, hv, rfl, rfl⟩
  rw [Memory.readByte, Memory.readByte, Table.getD, Table.getD, hfind]

theorem readBytes_replaceMem_within {a img : Memory} {lo n k l : Nat} (hm : a.wf = true) (hi : img.wf = true)
    (hn : ∀ x ∈ img, x.1 < n) (hk : k + l ≤ n) : (replaceMem a lo n img).readBytes (lo + k) l = img.readBytes k l := by
  refine List.ext_getElem (by simp only [length_readBytes]) fun i hlt _ => ?_
  rw [length_readBytes] at hlt
  rw [getElem_readBytes, getElem_readBytes, Nat.add_assoc, readByte_replaceMem_within hm hi hn (by omega)]

/-- One block of a list that repeats it. -/
theorem block_of_repeat {α : Type} (b : List α) {n k : Nat} (h : n < k) :
    (((List.range k).flatMap fun _ => b).drop (b.length * n)).take b.length = b := by
  induction k generalizing n with
  | zero => exact absurd h (Nat.not_lt_zero n)
  | succ k ih =>
    rw [List.range_succ_eq_map, List.flatMap_cons, List.flatMap_map]
    cases n with
    | zero => rw [Nat.mul_zero, List.drop_zero, List.take_left]
    | succ n => rw [Nat.mul_succ, Nat.add_comm, ← List.drop_drop, List.drop_left, ih (Nat.lt_of_succ_lt_succ h)]

/-- The image of a slot that ACCLR fills with a value. -/
def fillBytes (v : Nat) : List Byte := (List.range 16384).flatMap fun _ => leBytes 4 v
def fillImage (v : Nat) : Memory := Memory.writeBytes [] 0 (fillBytes v)

theorem length_repeat {α : Type} (b : List α) (k : Nat) : ((List.range k).flatMap fun _ => b).length = k * b.length := by
  simp [List.length_flatMap]

theorem length_fillBytes (v : Nat) : (fillBytes v).length = 65536 := by
  rw [fillBytes, length_repeat, Laws.length_leBytes]

theorem readBytes_fillImage {v n : Nat} (h : n < 16384) : (fillImage v).readBytes (4 * n) 4 = leBytes 4 v := by
  have hall : (fillImage v).readBytes 0 65536 = fillBytes v := by
    have hsame := readBytes_writeBytes_same (m := []) 0 (fillBytes v) rfl
    rwa [length_fillBytes] at hsame
  have hin := readBytes_within (fillImage v) 0 (n := 4) (k := 4 * n) (l := 65536) (by omega)
  rw [Nat.zero_add, hall] at hin
  exact hin.trans (block_of_repeat (leBytes 4 v) h)

/-- The slot's image that ACCLR leaves. -/
def Cmd.clearImage (m : Cmd) : Memory := if m.w.modeBit 0 then fillImage m.w.w5.toNat else []

theorem wf_clearImage (m : Cmd) : m.clearImage.wf = true ∧ ∀ x ∈ m.clearImage, x.1 < 65536 := by
  unfold Cmd.clearImage
  split
  · exact wf_image (length_fillBytes _).le
  · exact ⟨rfl, nofun⟩

theorem readBytes_clearImage (m : Cmd) {n : Nat} (h : n < 16384) :
    leNat (m.clearImage.readBytes (4 * n) 4) = if m.w.modeBit 0 then m.w.w5.toNat else 0 := by
  unfold Cmd.clearImage
  split
  · rw [readBytes_fillImage h, leNat_leBytes]
    exact Nat.mod_eq_of_lt m.w.w5.isLt
  · rfl

/-- What ACCLR leaves before the command ends. -/
def State.cleared (s : State) (m : Cmd) : State :=
  { s with acc := replaceMem s.acc (accKey m.cluster m.w.acc) 65536 m.clearImage }

theorem startAcclr_ok (m : Cmd) (s : State) : startAcclr m s = .ok (none, (s.cleared m).setCmd (m.made [] 65536)) :=
  (bind_ok (modify_ok ..)).trans (madeRun_ok ..)

theorem exec_acclr (h : s.Starts 9 m) (hwf : s.acc.wf = true) :
    ∃ t, exec .acclr s = .next t ∧ t.Over m 65536 ∧ t.mem = s.mem ∧ t.ls = s.ls ∧ ∀ n, n < 16384 →
      t.readAcc m.cluster m.w.acc (4 * n) 4 = if m.w.modeBit 0 then m.w.w5.toNat else 0 := by
  obtain ⟨hmade, hmem⟩ := made_of_start (post := postNone) h (startAcclr_ok m s) rfl (after := atOnce) rfl
  obtain ⟨himg, hbelow⟩ := wf_clearImage m
  refine ⟨_, rfl, hmade, hmem.mem, hmem.ls, fun n hn => ?_⟩
  rw [readAcc_of_acc hmem.acc, State.readAcc, ← readBytes_clearImage m hn]
  exact congrArg leNat (readBytes_replaceMem_within hwf himg hbelow (by omega))

/-! ### FMTLD (R437) -/

theorem endCmd_fmt (s : State) (m : Cmd) (estat fsub : Byte) (c : Nat) : ((s.endCmd m estat fsub).core c).fmt = (s.core c).fmt := by
  obtain ⟨cs, h⟩ := endCmd_eq s m estat fsub
  rw [h]
  split
  · rw [State.modCore_eq, State.core_setCore]
    split
    · subst c
      rfl
    · rfl
  · rfl

/-- A core's format context takes an image. -/
def State.putFmt (s : State) (c : Nat) (r : List Byte) : State := s.modCore c fun x => { x with fmt := r }

theorem fmt_putFmt (s : State) (c : Nat) (r : List Byte) : ((s.putFmt c r).core c).fmt = r := by
  rw [State.putFmt, State.modCore_eq, State.core_setCore, if_pos rfl]

section
variable {r : List Byte}

theorem startFmtld_good (hr : readMem m.who (BitVec.ofNat 64 m.w.a12) 128 4 s = .ok (r, u)) (hi : contextImage r = true) :
    startFmtld m s = .ok (none, (u.putFmt m.core r).setCmd (m.made [] 128)) := by
  refine (bind_ok hr).trans ?_
  rw [hi]
  exact (bind_ok (modify_ok ..)).trans (madeRun_ok ..)

theorem startFmtld_bad (hr : readMem m.who (BitVec.ofNat 64 m.w.a12) 128 4 s = .ok (r, u)) (hi : contextImage r = false) :
    startFmtld m s = .ok (some 0x10, u) := by
  refine (bind_ok hr).trans ?_
  rw [hi]
  rfl

theorem exec_fmtld_eq (s : State) : exec .fmtld s = .next (runTile 0xA startFmtld postNone atOnce s) := rfl

theorem fmt_over (u : State) (y : Cmd) (n c : Nat) : ((((u.setCmd y).endCmd y 0 0).afterTile n).core c).fmt = (u.core c).fmt :=
  endCmd_fmt (u.setCmd y) y 0 0 c

theorem exec_fmtld (h : s.Starts 0xA m) (hr : readMem m.who (BitVec.ofNat 64 m.w.a12) 128 4 s = .ok (r, u)) (hu : u.cmds = s.cmds) :
    ∃ t, exec .fmtld s = .next t ∧
      (contextImage r = true → t.Over m 128 ∧ (t.core m.core).fmt = r) ∧
      (contextImage r = false → (t.core m.core).fmt = (u.core m.core).fmt ∧ (t.cmdOf m.n).map (·.done) = some (some (0x10, 0))) := by
  refine ⟨_, exec_fmtld_eq s, fun hi => ?good, fun hi => ?bad⟩
  case good =>
    obtain ⟨hrun, hover⟩ := over_of_start (post := postNone) h (startFmtld_good hr hi) rfl rfl hu (after := atOnce) rfl
    refine ⟨hover, ?_⟩
    rw [hrun, fmt_over, fmt_putFmt]
  case bad =>
    have hx : u.cmdOf m.n = some m := (cmdOf_of_cmds hu _).trans h.cmdOf
    rw [runTile_fault (post := postNone) (after := atOnce) h (startFmtld_bad hr hi) hx]
    exact ⟨endCmd_fmt u m 0x10 0 m.core, congrArg (Option.map Cmd.done) (cmdOf_endCmd (estat := 0x10) (fsub := 0) hx)⟩

end

/-! ### RINGCFG (R444) -/

/-- A command that names no tiles and has reserved no slot leaves the rings. -/
theorem retireRings_none (hA : m.w.tilesA = none) (hB : m.w.tilesB = none) (hr : m.resv = []) : s.retireRings m = s := by
  simp [State.retireRings, hA, hB, hr]

theorem endCmd_ringOf (hA : m.w.tilesA = none) (hB : m.w.tilesB = none) (hr : m.resv = []) (estat fsub : Byte) (cl n : Nat) :
    (s.endCmd m estat fsub).ringOf cl n = s.ringOf cl n := by
  rw [State.endCmd, retireRings_none hA hB hr]
  split
  · rfl
  · rfl

/-- A ring as RINGCFG sets it, empty. -/
def Cmd.newRing (m : Cmd) : Ring := ⟨true, BitVec.ofNat 16 m.w.cfgBase, m.w.cfgSize, m.w.cfgSlots, 0, 0, m.w.cfgSlots, 0, []⟩

theorem startRingcfg_ok (hw : (s.ringOf m.cluster m.w.cfgRing).writing = [])
    (hf : m.w.modeBit 0 = true ∨ (s.ringOf m.cluster m.w.cfgRing).filled = 0) :
    startRingcfg m s = .ok (none, (s.modRing m.cluster m.w.cfgRing fun _ => m.newRing).setCmd (m.made [] 0)) := by
  have hbusy : (!m.w.modeBit 0 && ((s.ringOf m.cluster m.w.cfgRing).filled != 0 ||
      !(s.ringOf m.cluster m.w.cfgRing).writing.isEmpty)) = false := by
    rcases hf with hf | hf <;> simp [hw, hf]
  refine (get_bind ..).trans ?_
  dsimp only
  rw [hbusy, hw, List.isEmpty_nil, Bool.not_true, Bool.and_false]
  exact (bind_ok (modify_ok ..)).trans (madeRun_ok ..)

theorem exec_ringcfg_eq (s : State) : exec .ringcfg s = .next (runTile 0xB startRingcfg postNone atOnce s) := rfl

theorem ringOf_over {y : Cmd} (hA : y.w.tilesA = none) (hB : y.w.tilesB = none) (hr : y.resv = []) (u : State) (n cl k : Nat) :
    (((u.setCmd y).endCmd y 0 0).afterTile n).ringOf cl k = u.ringOf cl k :=
  endCmd_ringOf (s := u.setCmd y) hA hB hr 0 0 cl k

theorem exec_ringcfg (h : s.Starts 0xB m) (hw : (s.ringOf m.cluster m.w.cfgRing).writing = [])
    (hf : m.w.modeBit 0 = true ∨ (s.ringOf m.cluster m.w.cfgRing).filled = 0)
    (hA : m.w.tilesA = none) (hB : m.w.tilesB = none) (hr : m.resv = []) :
    ∃ t, exec .ringcfg s = .next t ∧ t.Over m 0 ∧ t.ringOf m.cluster m.w.cfgRing = m.newRing := by
  obtain ⟨hrun, hover⟩ := over_of_start (post := postNone) h (startRingcfg_ok hw hf) rfl rfl rfl (after := atOnce) rfl
  refine ⟨_, exec_ringcfg_eq s, hover, ?_⟩
  rw [hrun, ringOf_over (y := m.made [] 0) hA hB hr, ringOf_modRing]

end
end Sys2Proof.Machine
end

section
/-! SCAN (R301, R442), and the tensor engine's commands together. -/

namespace Sys2Proof.Machine

section
variable {s t u v p : State} {m x y : Cmd} {marks : List Byte}

/-! ### The step of SCAN -/

/-- The bytes of a lane's state. -/
def Cmd.scanSize (m : Cmd) : Nat := m.scanState.width / 8

/-- The writes of the lanes' states. -/
def Cmd.scanWrites (m : Cmd) (hs : List Nat) : List (Nat × List Byte) :=
  hs.zipIdx.map fun q => (q.2 * m.scanSize, leBytes m.scanSize q.1)

/-- The writes of a step's outputs. -/
def Cmd.scanOuts (m : Cmd) (hs : List Nat) : List (Dword × List Byte) :=
  joinWrites ((if (m.rec_ 0).empty then [] else hs.zipIdx).filterMap fun q =>
    if (m.rec_ 0).inBounds ((m.rec_ 0).idxOf [q.2, m.part]) then
      some ((m.rec_ 0).addr ((m.rec_ 0).idxOf [q.2, m.part]), leBytes (m.rec_ 0).es (m.scanOut.rne (m.scanState.val q.1)))
    else none)

/-- A reset mark of a bitmap. -/
def markAt (marks : List Byte) (n : Nat) : Bool := (marks.getD (n / 8) 0).getLsbD (n % 8)

/-- A command that has done one more step. -/
def Cmd.stepped (y : Cmd) (n : Nat) : Cmd := { y with part := n + 1, count := n + 1 }

/-- A loop that hands a value on is a fold. -/
theorem forIn_yield_eq_foldlM {α β : Type} (k : β → α → M β) (l : List α) (b : β) :
    (forIn l b fun a b => do let y ← k b a; pure (ForInStep.yield y) : M β) = l.foldlM k b := by
  induction l generalizing b with
  | nil => rfl
  | cons a l ih => simp only [List.forIn_cons, List.foldlM_cons, bind_assoc, pure_bind, ih]

theorem afterScan_ok {hs : List Nat} (hh : s.scanStep x (markAt (x.recs.getD 1 []) x.part) x.part = hs)
    (ho : (x.scanOuts hs).foldlM (fun y w => postPlain y w.1 w.2) x (s.writeAccs x.cluster x.w.acc (x.scanWrites hs)) = .ok (y, v)) :
    afterScan x s = .ok (decide (x.part + 1 = x.w.steps), v.setCmd (y.stepped x.part)) := by
  have hloop := (congrFun (forIn_yield_eq_foldlM (fun y (w : Dword × List Byte) => postPlain y w.1 w.2) _ _) _).trans ho
  rw [Cmd.scanWrites, State.writeAccs, List.foldl_map] at hloop
  unfold markAt at hh
  unfold afterScan
  refine (get_bind ..).trans ?_
  dsimp only
  rw [hh]
  refine (bind_ok (a := PUnit.unit) rfl).trans ?_
  exact (bind_ok hloop).trans rfl

/-- A plain write leaves whether its command is over. -/
theorem postPlain_done {va : Dword} {bs : List Byte} (h : postPlain x va bs s = .ok (y, t)) : y.done = x.done := by
  unfold postPlain at h
  cases hw : writeMem x.who va bs 5 s with
  | error e =>
    have he : (writeMem x.who va bs 5 >>= fun a => pure { x with pending := x.pending ++ a, bytes := x.bytes + bs.length } : M Cmd) s =
        .error e := by simp only [Bind.bind, StateT.bind, Except.bind, hw]
    exact nomatch he.symm.trans h
  | ok r =>
    obtain ⟨rfl, -⟩ := Prod.mk.inj (Except.ok.inj ((bind_ok hw).symm.trans h))
    rfl

theorem foldlM_postPlain_done {ws : List (Dword × List Byte)}
    (h : ws.foldlM (fun y w => postPlain y w.1 w.2) x s = .ok (y, v)) : y.done = x.done := by
  induction ws generalizing x s with
  | nil =>
    obtain ⟨rfl, -⟩ := Prod.mk.inj (Except.ok.inj h)
    rfl
  | cons w ws ih =>
    rw [List.foldlM_cons] at h
    cases hw : postPlain x w.1 w.2 s with
    | error e =>
      have he : (postPlain x w.1 w.2 >>= fun y => ws.foldlM (fun y w => postPlain y w.1 w.2) y) s = .error e := by
        simp only [Bind.bind, StateT.bind, Except.bind, hw]
      exact nomatch he.symm.trans h
    | ok r =>
      obtain ⟨z, t⟩ := r
      exact (ih ((bind_ok hw).symm.trans h)).trans (postPlain_done hw)

/-- A lane's state reads back, as no other lane's shares a byte with it. -/
theorem readAcc_scanWrites (m : Cmd) {cl k : Nat} {hs : List Nat} {n : Nat} (h : s.acc.wf = true) (hn : n < hs.length) :
    (s.writeAccs cl k (m.scanWrites hs)).readAcc cl k (n * m.scanSize) m.scanSize = hs.getD n 0 % 2 ^ (8 * m.scanSize) := by
  have hmem : (n * m.scanSize, leBytes m.scanSize hs[n]) ∈ m.scanWrites hs :=
    List.mem_map.2 ⟨(hs[n], n), List.mem_zipIdx_iff_getElem?.2 (List.getElem?_eq_getElem hn), rfl⟩
  rw [List.getD_eq_getElem _ _ hn, Nat.pow_mul]
  refine (accHolds_of_mem (cl := cl) (i := k) h hmem fun a ha => ?_).readAcc_leBytes
  obtain ⟨⟨w, j⟩, hj, rfl⟩ := List.mem_map.1 ha
  rcases lt_trichotomy j n with hlt | rfl | hlt
  · refine .inr (.inl ?_)
    simpa only [Laws.length_leBytes, Nat.succ_mul] using Nat.mul_le_mul_right m.scanSize hlt
  · have hw := (List.getElem?_eq_getElem hn).symm.trans (List.mem_zipIdx_iff_getElem?.1 hj)
    obtain rfl := Option.some.inj hw
    exact .inl rfl
  · refine .inr (.inr ?_)
    simpa only [Laws.length_leBytes, Nat.succ_mul] using Nat.mul_le_mul_right m.scanSize hlt

/-- A step reads the tiles and the lanes' states only. -/
theorem scanStep_congr (hls : t.ls = s.ls) (hcl : t.clusters = s.clusters) (hacc : t.acc = s.acc) (m : Cmd) (mark : Bool) (n : Nat) :
    t.scanStep m mark n = s.scanStep m mark n := by
  simp only [State.scanStep, State.tileElem, State.readLs, State.ringOf, State.cluster, State.readAcc, hls, hcl, hacc]

theorem exec_scan_eq (s : State) : exec .scan s = .next (runTile 7 startScan postNone afterScan s) := rfl

/-- What one step of SCAN leaves: the lanes' states and the outputs, and after the last step a command that is over. -/
theorem exec_scan {hs : List Nat} (h : s.TileRuns 7 startScan m u) (hx : u.cmdOf m.n = some x) (hw : x.todo = [])
    (hd : x.done = none) (hwf : u.acc.wf = true) (hh : u.scanStep x (markAt (x.recs.getD 1 []) x.part) x.part = hs)
    (ho : (x.scanOuts hs).foldlM (fun y w => postPlain y w.1 w.2) x (u.writeAccs x.cluster x.w.acc (x.scanWrites hs)) = .ok (y, v))
    (hn : y.n = m.n) (hv : (v.cmdOf m.n).isSome = true) (hacc : v.acc = (u.writeAccs x.cluster x.w.acc (x.scanWrites hs)).acc) :
    ∃ t, exec .scan s = .next t ∧ t.mem = v.mem ∧ t.ls = v.ls ∧
      (t.cmdOf m.n).map (fun z => (z.done, z.part, z.count)) =
        some (if x.part + 1 = x.w.steps then some (0, 0) else none, x.part + 1, x.part + 1) ∧
      ∀ n, n < hs.length → t.readAcc x.cluster x.w.acc (n * x.scanSize) x.scanSize = hs.getD n 0 % 2 ^ (8 * x.scanSize) := by
  obtain ⟨z, hz⟩ := Option.isSome_iff_exists.1 hv
  have hy : (v.setCmd (y.stepped x.part)).cmdOf (y.stepped x.part).n = some (y.stepped x.part) :=
    cmdOf_setCmd (show v.cmdOf (y.stepped x.part).n = some z from hn.symm ▸ hz)
  have hrun := h.runTile_eq (post := postNone) hx hw (afterScan_ok hh ho) fun _ => hn ▸ hy
  have hsame := sameMemory_closed (v.setCmd (y.stepped x.part)) (y.stepped x.part) (decide (x.part + 1 = x.w.steps)) m.n
  have hcmd := cmdOf_closed (n := m.n) (over_ := decide (x.part + 1 = x.w.steps)) hy
  have hdone : y.done = none := (foldlM_postPlain_done ho).trans hd
  refine ⟨_, exec_scan_eq s, ?_, ?_, ?_, fun n hlt => ?_⟩
  · rw [hrun, hsame.mem]
    rfl
  · rw [hrun, hsame.ls]
    rfl
  · rw [hrun, ← hn]
    refine (congrArg _ hcmd).trans ?_
    by_cases he : x.part + 1 = x.w.steps
    · simp [he, Cmd.ended, Cmd.stepped]
    · simp [he, Cmd.stepped, hdone]
  · rw [hrun, readAcc_of_acc hsame.acc]
    exact (readAcc_of_acc hacc ..).trans (readAcc_scanWrites x hwf hlt)

/-! ### SCAN's start (R442) -/

/-- The reset bitmap that SCAN reads in its starting step, and what the read leaves. -/
def Cmd.ReadsMarks (m : Cmd) (marks : List Byte) (s p : State) : Prop :=
  if m.w.a12 = 0 then marks = List.replicate (ceilDiv m.w.steps 8) 0 ∧ p = s
  else readMem m.who (BitVec.ofNat 64 m.w.a12) (ceilDiv m.w.steps 8) 4 s = .ok (marks, p)

/-- The command with its bitmap beside its record. -/
def Cmd.withMarks (m : Cmd) (marks : List Byte) : Cmd := { m with recs := m.recs ++ [marks] }

/-- A SCAN that has started. -/
def Cmd.scanned (m : Cmd) (marks : List Byte) : Cmd := (m.withMarks marks).made [] 0

theorem startScan_ok (ht : s.tilesThere m = true) (hm : m.ReadsMarks marks s p) :
    startScan m s = .ok (none, p.setCmd (m.scanned marks)) := by
  unfold Cmd.ReadsMarks at hm
  refine (get_bind ..).trans ?_
  rw [ht]
  split at hm
  case isTrue h0 =>
    obtain ⟨rfl, rfl⟩ := hm
    dsimp only
    rw [if_pos h0]
    exact (bind_ok rfl).trans (madeRun_ok ..)
  case isFalse h0 =>
    dsimp only
    rw [if_neg h0]
    exact (bind_ok hm).trans (madeRun_ok ..)

theorem Cmd.ReadsMarks.engineView (h : m.ReadsMarks marks s p) : p.engineView = s.engineView := by
  unfold Cmd.ReadsMarks at h
  split at h
  · rw [h.2]
  · exact readMem_keepsView rfl _ _ _ rfl h

theorem scanned_rec (hr : m.recs.length = 1) : (m.scanned marks).rec_ 0 = m.rec_ 0 := by
  rw [Cmd.rec_, Cmd.rec_, recAt, recAt]
  exact congrArg Layout.parse (List.getD_append _ _ _ _ (hr ▸ Nat.zero_lt_one))

theorem scanned_marks (hr : m.recs.length = 1) : (m.scanned marks).recs.getD 1 [] = marks := by
  have hlen : (m.recs ++ [marks])[1]? = some marks := by rw [List.getElem?_append_right hr.le, hr]; rfl
  exact (List.getD_eq_getElem?_getD ..).trans (congrArg (Option.getD · []) hlen)

theorem scanned_scanOuts (hr : m.recs.length = 1) (hs : List Nat) : (m.scanned marks).scanOuts hs = m.scanOuts hs := by
  rw [Cmd.scanOuts, Cmd.scanOuts, scanned_rec hr]
  rfl

/-- The states that a step of SCAN leaves in its lanes. -/
def State.scanStates (s : State) (m : Cmd) (marks : List Byte) : List Nat := s.scanStep m (markAt marks m.part) m.part

theorem length_scanStates (s : State) (m : Cmd) (marks : List Byte) : (s.scanStates m marks).length = m.w.lanes := by
  simp [State.scanStates, State.scanStep]

/-- What a step of SCAN leaves, with `v` what its writes have left. -/
structure State.ScanLeaves (s : State) (m : Cmd) (marks : List Byte) (v t : State) : Prop where
  mem : t.mem = v.mem
  ls : t.ls = v.ls
  cmd : (t.cmdOf m.n).map (fun z => (z.done, z.part, z.count)) =
    some (if m.part + 1 = m.w.steps then some (0, 0) else none, m.part + 1, m.part + 1)
  lanes : ∀ n, n < m.w.lanes →
    t.readAcc m.cluster m.w.acc (n * m.scanSize) m.scanSize = (s.scanStates m marks).getD n 0 % 2 ^ (8 * m.scanSize)

/-- SCAN's first step. -/
theorem exec_scan_first (h : s.Starts 7 m) (hr : m.recs.length = 1) (ht : s.tilesThere m = true)
    (hm : m.ReadsMarks marks s p) (hwf : s.acc.wf = true) (hp : p.acc = s.acc)
    (ho : (m.scanOuts (s.scanStates m marks)).foldlM (fun y w => postPlain y w.1 w.2) (m.scanned marks)
      ((p.setCmd (m.scanned marks)).writeAccs m.cluster m.w.acc (m.scanWrites (s.scanStates m marks))) = .ok (y, v))
    (hn : y.n = m.n) (hv : (v.cmdOf m.n).isSome = true)
    (hacc : v.acc = ((p.setCmd (m.scanned marks)).writeAccs m.cluster m.w.acc (m.scanWrites (s.scanStates m marks))).acc) :
    ∃ t, exec .scan s = .next t ∧ s.ScanLeaves m marks v t := by
  have hview := hm.engineView
  have hx : (p.setCmd (m.scanned marks)).cmdOf m.n = some (m.scanned marks) :=
    cmdOf_setCmd (y := m.scanned marks) ((cmdOf_of_cmds (congrArg EngineView.cmds hview) _).trans h.cmdOf)
  have hstep : (p.setCmd (m.scanned marks)).scanStep (m.scanned marks) (markAt ((m.scanned marks).recs.getD 1 []) m.part) m.part =
      s.scanStates m marks := by
    rw [scanned_marks hr]
    exact scanStep_congr (congrArg EngineView.ls hview) (congrArg EngineView.clusters hview) hp m _ _
  rw [← scanned_scanOuts hr] at ho
  obtain ⟨t, hexec, hmem, hls, hcmd, hlanes⟩ :=
    exec_scan (h.tileRuns (startScan_ok ht hm)) hx rfl h.done (hp ▸ hwf) hstep ho hn hv hacc
  exact ⟨t, hexec, hmem, hls, hcmd, fun n hlt => hlanes n ((length_scanStates s m marks).symm ▸ hlt)⟩

/-- SCAN's later steps. -/
theorem exec_scan_next (h : s.Runs 7 m) (hw : m.todo = []) (hwf : s.acc.wf = true)
    (ho : (m.scanOuts (s.scanStates m (m.recs.getD 1 []))).foldlM (fun y w => postPlain y w.1 w.2) m
      (s.writeAccs m.cluster m.w.acc (m.scanWrites (s.scanStates m (m.recs.getD 1 [])))) = .ok (y, v))
    (hn : y.n = m.n) (hv : (v.cmdOf m.n).isSome = true)
    (hacc : v.acc = (s.writeAccs m.cluster m.w.acc (m.scanWrites (s.scanStates m (m.recs.getD 1 [])))).acc) :
    ∃ t, exec .scan s = .next t ∧ s.ScanLeaves m (m.recs.getD 1 []) v t := by
  obtain ⟨t, hexec, hmem, hls, hcmd, hlanes⟩ := exec_scan h.tileRuns h.cmdOf hw h.done hwf rfl ho hn hv hacc
  exact ⟨t, hexec, hmem, hls, hcmd, fun n hlt => hlanes n ((length_scanStates s m _).symm ▸ hlt)⟩

end

/-- Settles O41: SCAN step by step, and the commands that end in their starting step. -/
theorem tensorCommands : Obligations.TensorCommands := by
  intro s m i op cl acc cell
  refine ⟨?scan, fun h hwf => ⟨fun _ hcols => ⟨fun hi hs hc ht => ?fold, fun hi hs hc ht => ?split, fun hi ht => ?cell⟩, ?accrd, ?acclr, ?fmtld,
    ?ringcfg⟩⟩
  case scan =>
    intro marks y v p hwf hpacc hstart st ss n elem_ hs l outs e u ho hn hv hacc
    have hu : u = (if m.started = true then s else p.setCmd e).writeAccs m.cluster m.w.acc (m.scanWrites hs) := by
      rw [Cmd.scanWrites, State.writeAccs, List.foldl_map]
      rfl
    rcases hstart with ⟨h, hpart, hr, ht, hm⟩ | ⟨hwho, hop, hstarted, haccepted, hdone, hw, hlease, rfl, rfl⟩
    · obtain ⟨-, -, -, -, hstarted, -⟩ := id h
      have hfirst : ¬ m.started = true := Bool.eq_false_iff.1 hstarted
      have he : e = m.scanned marks := if_neg hfirst
      rw [if_neg hfirst, he] at hu
      rw [he, hu] at ho
      rw [hu] at hacc
      obtain ⟨t, hexec, hmem, hls, hcmd, hlanes⟩ := exec_scan_first h hr ht hm hwf hpacc ho hn hv hacc
      exact ⟨t, hexec, hmem, hls, hcmd, hlanes⟩
    · have he : e = m := if_pos hstarted
      rw [if_pos hstarted] at hu
      rw [he, hu] at ho
      rw [hu] at hacc
      obtain ⟨t, hexec, hmem, hls, hcmd, hlanes⟩ :=
        exec_scan_next ⟨hwho, hop, hstarted, haccepted, hdone, hlease⟩ hw hwf ho hn hv hacc
      exact ⟨t, hexec, hmem, hls, hcmd, hlanes⟩
  case fold =>
    exact ⟨_, exec_mma_eq hi s, exec_cells h hwf hcols (startMma_fold hs hc ht)⟩
  case split =>
    obtain ⟨hmade, hmem⟩ := made_of_start (post := postRed) h (startMma_split hs hc ht) rfl (after := atOnce) rfl
    exact ⟨_, exec_mma_eq hi s, hmem.acc, hmem, hmade⟩
  case cell =>
    intro ctx es wide hn
    obtain ⟨-, rfl, -⟩ := id h
    obtain ⟨hover, hcells⟩ := exec_cells (post := postNone) h hwf hcols (startCell_ok hn ht)
    refine ⟨_, exec_cell_eq hi s, hover, fun r c hr hc => (hcells r c hr hc).trans ?_⟩
    simp only [State.cellCell, cellWide_eq]
    rfl
  case accrd =>
    rintro rfl
    exact exec_accrd h
  case acclr =>
    rintro rfl
    exact exec_acclr h hwf
  case fmtld =>
    rintro r u rfl hr hu
    exact exec_fmtld h hr hu
  case ringcfg =>
    rintro rfl hw hf hA hB hr
    exact exec_ringcfg h hw hf hA hB hr

end Sys2Proof.Machine
end
